-- ==== Sys2Proof/Word.lean ====
section
/-! DEFINITION. The word types of the SLK-9604: a register is 32 bits wide (R5), an octet 8 bits, an event entry
16 octets (R376). `SMap` is the sorted association list in which every sparse piece of state is held. -/
namespace Sys2Proof

/-- A register word (R5). -/
abbrev Word := BitVec 32

/-- An octet of a window, a buffer or a message. -/
abbrev Byte := BitVec 8

/-- An event-log entry of 16 bytes, byte 0 least significant (R376). -/
abbrev Entry := BitVec 128

/-- Sparse data by key: keys strictly rising, one entry a key. -/
abbrev SMap (α : Type) := List (Nat × α)

end Sys2Proof
end

