-- ==== Sys2Proof/Syntax.lean ====
section
/-! DEFINITION. The commands: one constructor for each row of the table of operations and events, with what the
command is given from outside as its operands. Structures first: what an interface, a board or the aerial world shows
to the part in one such step. -/
namespace Sys2Proof

/-- Who makes an access or issues a mailbox command; the code is that of `MGMT_CMD.owner` (R363). -/
inductive Iface where
  | twb
  | hp
  | cp
  | mgmt
  deriving DecidableEq, Repr

/-- The code of an interface in `MGMT_CMD.owner` (R363). -/
def Iface.code : Iface → Nat
  | .twb => 0
  | .hp => 1
  | .cp => 2
  | .mgmt => 3

/-- An event that caused another: source and sequence (R29). -/
structure CauseRef where
  src : Nat
  seq : Nat
  deriving DecidableEq, Repr

/-- A fault as it reaches management (R383): code, class (that of an injected fault; the others have their own), program
counter, faulting address, cause, and of depot data the lane or the carriage that it belongs to. -/
structure FaultIn where
  code : Nat
  cls : Nat
  pc : Nat
  addr : Nat
  cause : Option CauseRef
  lane : Option Nat
  carr : Option Nat
  deriving DecidableEq, Repr

/-- A block of 4096 samples of each sub-ADC of an input (R75): a sample with the over-range or transient bit, a change
of the total attenuation, the RMS level in 0.01 dBFS; of sub-ADCs 0 to 3 the sum of the samples and of their squares and,
with the next sub-ADC, of the squared differences, in LSB; the part of the squares that lies above 40 MHz. -/
structure CalBlock where
  flagged : Bool
  moved : Bool
  rms : Int
  sums : List Int
  powers : List Nat
  diffs : List Nat
  above : Nat
  deriving DecidableEq, Repr

/-- What the estimator of an input has seen in a window (R75, R76): blocks in order, each with how many like it follow
one another, and the die temperature of the input in 1/16 °C. -/
structure CalWindow where
  blocks : List (Nat × CalBlock)
  temp : Int
  deriving DecidableEq, Repr

/-- A candidate that decoded side data names (R174): the programme's primary, the candidate's mode, source, frequency in
kHz and identifier, whether a soft link of FIG 0/6 alone names it (R171). -/
structure CandIn where
  soft : Bool
  primary : Nat
  mode : Nat
  source : Nat
  freq : Nat
  ident : Nat
  deriving DecidableEq, Repr

/-- Consecutive output samples of a lane's coach slot before its DC block (R100, R106, R108): the place of the first on the
coach grid (n of R108), I and Q of each by the named input, and with PAIR by its partner. -/
structure CoachRun where
  first : Nat
  named : List (Int × Int)
  partner : List (Int × Int)
  deriving DecidableEq, Repr

/-- What an FM lane meets until its next quality update (R127, R137): cnr in 0.25 dB, channel level in dBFS, the ms for which
these figures stand, the pilot's distance from 19 kHz in 0.1 Hz and its injection in Hz of deviation, the samples that
its coach delivers. -/
structure FmObs where
  cnr : Nat
  level : Int
  ms : Nat
  pilot : Int
  inject : Nat
  run : CoachRun
  deriving DecidableEq, Repr

/-- What an AM lane meets until its next quality update (R133, R135, R137): cnr in 0.25 dB, channel level in dBFS, peak
modulation in %, the carrier's distance from the corrected frequency of the NCO in Hz, whether the loop has locked, the ms
for which these figures stand, the interference above the audio bandwidth in 0.01 dB, on the upper and the lower side, the
samples that its coach delivers. -/
structure AmObs where
  cnr : Nat
  level : Int
  depth : Nat
  offset : Int
  locked : Bool
  ms : Nat
  above : Int
  below : Int
  run : CoachRun
  deriving DecidableEq, Repr

/-- A 26-bit RDS block as demodulated (R129 to R132): its word as received and as corrected, offset word (0 A, 1 B, 2 C,
3 C′, 4 D, 5 E), the burst that correction needs (0 zero syndrome, none uncorrectable), whether it follows the previous
block by 26 bits, the reference instant of its first bit as a sample time, the candidates that the items it completes
name. -/
structure RdsObs where
  raw : Nat
  word : Nat
  offset : Nat
  burst : Option Nat
  adjacent : Bool
  stamp : Nat
  cands : List CandIn
  deriving DecidableEq, Repr

/-- A component of a DAB service: SCIdS, subchannel, primary, under conditional access, data, DAB+ audio, and for packet
mode its packet address. -/
structure DabComp where
  scids : Nat
  subch : Nat
  primary : Bool
  ca : Bool
  data : Bool
  plus : Bool
  packet : Option Nat
  deriving DecidableEq, Repr

/-- A DAB service: SId and components. -/
structure DabService where
  sid : Nat
  comps : List DabComp
  deriving DecidableEq, Repr

/-- A DAB subchannel: SubChId, start address, size in CUs, protection. -/
structure DabSub where
  id : Nat
  start : Nat
  size : Nat
  prot : Nat
  deriving DecidableEq, Repr

/-- A multiplex configuration. -/
structure DabConfig where
  svcs : List DabService
  subs : List DabSub
  deriving DecidableEq, Repr

/-- A FIB of a lead (R155): its 30 data octets and the 2 of its CRC, the last of its transmission frame, the candidates it
names (R174), the sample time of its frame. -/
structure FibObs where
  octets : List Byte
  last : Bool
  cands : List CandIn
  stamp : Nat
  deriving DecidableEq, Repr

/-- Diversity figures of a frame in 0.01 dB, named input then partner, and the samples of its preamble: the place of the
first on the coach grid and their number (R62, R63). -/
structure DivObs where
  named : Int
  partner : Int
  first : Nat
  samples : Nat
  deriving DecidableEq, Repr

/-- A CIF as the lead receives it (R150, R151): CIF count, the place on the coach grid of the first sample of the null symbol
of its transmission frame, its place in that frame, the samples of its 18 symbols after those of the symbol before them,
2552 each, diversity figures at a frame's first CIF. -/
structure CifObs where
  cif : Nat
  first : Nat
  place : Nat
  symbols : List (List (Int × Int))
  sel : Option DivObs
  deriving DecidableEq, Repr

/-- A transmission frame of a lead (R150, R163, R166): the place on the coach grid of the first sample of its null symbol, that
symbol found there, the samples of its phase reference symbol, MER over all data cells and over the MSC symbols in 0.25 dB, power in dBFS. -/
structure DabObs where
  first : Nat
  null : Bool
  ref : List (Int × Int)
  all : Nat
  mer : Nat
  level : Int
  deriving DecidableEq, Repr

/-- A part of a DLS message whose CRC passed or not (R158): a segment with its toggle, number, whether it is the last,
character set and text; the DL Plus tags of a message; the command that removes the label. -/
inductive DlsIn where
  | segment (ok : Bool) (toggle num : Nat) (last : Bool) (charset : Nat) (text : List Byte)
  | plus (ok : Bool) (toggle ntags : Nat) (tags : List Byte)
  | clear (ok : Bool) (toggle : Nat)
  deriving DecidableEq, Repr

/-- A compressed audio unit (R203): status bits [1:0], octets. -/
structure CompUnit where
  status : Nat
  octets : List Byte
  deriving DecidableEq, Repr

/-- The audio of a DAB_SVC or DRM lane that is due (R156, R158, R162): of a service nothing but the parts of DLS messages that
come with it, for its bits are in the depot; of a DRM lane the place on the coach grid of the start of the transmission
frame of R162, the MSC cells of its audio superframe by symbols, each with the place of its first sample, and the
diversity figures of the frame. -/
structure AudioObs where
  first : Nat
  cells : List (Nat × List (Int × Int))
  dls : List DlsIn
  sel : Option DivObs
  deriving DecidableEq, Repr

/-- An entry of a MOT directory (R160): transport id, content name, header of the object. -/
structure MotEntry where
  tid : Nat
  name : List Byte
  head : List Byte
  deriving DecidableEq, Repr

/-- A MOT data group that passed its CRC (R159, R160): transport id, segment of the object's header or body with its number,
whether it is the last, its octets; the object's size where a header core tells it; the entries of a directory that it
completes; the sample time. -/
structure MotObs where
  tid : Nat
  head : Bool
  num : Nat
  last : Bool
  octets : List Byte
  size : Option Nat
  dir : List MotEntry
  stamp : Nat
  deriving DecidableEq, Repr

/-- A DRM transmission frame (R161, R163, R166): the FAC's CRC passed, the frame's place in its superframe, the SDC's CRC
passed, service `svc` present with audio, in how many frames a change that the FAC announces takes effect, MER over all
data cells and over the MSC cells in 0.25 dB, power in dBFS. -/
structure DrmObs where
  fac : Bool
  index : Nat
  sdc : Bool
  present : Bool
  change : Option Nat
  all : Nat
  mer : Nat
  level : Int
  deriving DecidableEq, Repr

/-- A channel that a SCAN lane has measured (R179, R205): frequency in kHz, level in dBFS, estimated cnr or block power in
0.25 dB, last of a list sweep, the candidate measured (primary and index), whether taint overlaps the dwell (R58), the
sample time. -/
structure ScanObs where
  freq : Nat
  level : Int
  value : Nat
  last : Bool
  cand : Option (Nat × Nat)
  touched : Bool
  stamp : Nat
  deriving DecidableEq, Repr

/-- What a lane publishes outside the commands of its mode (R205): a data group of a packet-mode component, data of a stream
component, X-PAD of an application that is not decoded, the bits of a FAC, an entity of an SDC, a text message, data of a
raw stream. -/
inductive SideIn where
  | packet (group : List Byte)
  | stream (octets : List Byte)
  | xpad (app : Nat) (octets : List Byte)
  | fac (bits : List Bool)
  | sdc (entity : Nat) (octets : List Byte)
  | text (octets : List Byte)
  | raw (stream : Nat) (octets : List Byte)
  deriving DecidableEq, Repr

/-- A segment (R196): carriage id, type code, flag bits, payload, timestamp where `ts` is set. -/
structure Seg where
  id : Nat
  type : Nat
  flags : Nat
  payload : List Byte
  ts : Option Nat
  deriving DecidableEq, Repr

/-- A train as the foot receives it (R224, R229, R232, R233, R257): the soft values of its header symbol's bits in order,
positive for 0; at each update of the AGC the power of the symbol before it ahead of the gain, in 0.25 dB of full scale;
carrier offset in 10 Hz and sampling offset in 0.01 ppm as estimated; the payload as decoded and the codewords that failed
parity; the gain |H|² of each data subcarrier by the sync symbols and pilots, and the power on each of them in every symbol
that carries pilots only, both in one unit; descriptors that the head has told (id, CFG, SRC). -/
structure TrainObs where
  soft : List Int
  levels : List Int
  cfo : Int
  sco : Int
  payload : List Byte
  cwFail : List Nat
  gain : List Nat
  quiet : List (List Nat)
  descs : List (Nat × Word × Word)
  deriving DecidableEq, Repr

/-- A burst as the head receives it (R229, R239, R245, R257): when its sync symbol starts after the train's, in ns, offsets
and soft values as for a train, payload as decoded, codewords that failed, the gain |H|² of each data subcarrier. -/
structure BurstObs where
  at_ : Int
  soft : List Int
  cfo : Int
  sco : Int
  payload : List Byte
  cwFail : List Nat
  gain : List Nat
  deriving DecidableEq, Repr

/-- How an attempt at an attention message ends on the bus (R316): every byte acknowledged and the STOP formed;
arbitration lost at a byte and bit; lost while forming START; lost while forming STOP, with or without every byte
acknowledged; refused by the host. -/
inductive AttnRes where
  | delivered
  | lost (byte bit : Nat)
  | lostStart
  | lostStop (acked : Bool)
  | refused
  deriving DecidableEq, Repr

/-- What the core holds when a fatal fault is handled (R386): its registers, its stack, the code around its program
counter. -/
structure CoreObs where
  regs : List Byte
  stack : List Byte
  code : List Byte
  deriving DecidableEq, Repr

/-- What flash, fuses and core show to a command (R386, R414, R417, R419, R421): its flash operations, by their order,
whose sectors fail; reasons of violations met; bits of the target found unprogrammed at the read-back; sectors that an
erase under way has passed; fuse bits that did not take; the core. -/
structure CmdObs where
  fails : List Nat
  viols : List Nat
  torn : List Byte
  erased : Nat
  fuse : Nat
  core : CoreObs
  deriving DecidableEq, Repr

/-- What a bus shows to an access (R474, R475): the wait in ns, the addresses of written words that meet an update of an
RW field, and what a mailbox command that is written meets. -/
structure BusObs where
  ns : Nat
  hits : List Nat
  cmd : CmdObs
  deriving DecidableEq, Repr

/-- What a start meets (R1, R306, R324, R393, R394, R411, R421): straps and address balls; band, lock time in µs and
reference in 0.01 ppm of the search; whether SFDP of revision B answers, density in MiB, 4 KiB erase, quad enable, the
highest read clock in MHz; violations; for each write that a reset cut, the operations completed and what the next one
left. -/
structure StartObs where
  straps : Nat
  addr : Nat
  band : Nat
  us : Nat
  ppm : Int
  sfdp : Bool
  mib : Nat
  erase4k : Bool
  quad : Bool
  mhz : Nat
  viols : List Nat
  cuts : List (Nat × List Byte)
  deriving DecidableEq, Repr

/-- The commands of the SLK-9604: one constructor for each row of the table of operations and events. The operands
are what the command is given from outside: a register value, an interface, what was received or measured. -/
inductive Instr where
  /-- NOP (R366). -/
  | nop (o : Iface)
  /-- GET_INFO (R366). -/
  | getInfo (o : Iface)
  /-- LOG_READ (R366). -/
  | logRead (o : Iface)
  /-- TIME_SET (R369). -/
  | timeSet (o : Iface)
  /-- TIME_GET (R366). -/
  | timeGet (o : Iface)
  /-- CRUMB_READ (R366). -/
  | crumbRead (o : Iface)
  /-- CRUMB_CLEAR (R366). -/
  | crumbClear (o : Iface)
  /-- DUMP_INFO (R366). -/
  | dumpInfo (o : Iface)
  /-- FAULT_INJECT (R366). -/
  | faultInject (o : Iface) (c : CmdObs)
  /-- UNKNOWN_CMD_CODE (R364). -/
  | unknownCmdCode (o : Iface) (code : Nat)
  /-- POWER_SET (R349). -/
  | powerSet (o : Iface)
  /-- STATE (R350). -/
  | stateReached
  /-- STORE_INFO (R407). -/
  | storeInfo (o : Iface)
  /-- STORE_READ (R407). -/
  | storeRead (o : Iface)
  /-- STORE_ERASE (R407). -/
  | storeErase (o : Iface)
  /-- STORE_PROGRAM (R408). -/
  | storeProgram (o : Iface) (c : CmdObs)
  /-- STORE_COMMIT_CONFIG (R409). -/
  | storeCommitConfig (o : Iface)
  /-- CONFIG_STAGE (R407). -/
  | configStage (o : Iface)
  /-- CONFIG_INSTALL (R407). -/
  | configInstall (o : Iface)
  /-- STORE_ABORT (R407). -/
  | storeAbort (o : Iface)
  /-- STORE_MAINTAIN (R413). -/
  | storeMaintain (o : Iface)
  /-- STORE_DONE (R407). g: region group; n: operations completed where the command was aborted. -/
  | storeDone (g n : Nat) (c : CmdObs)
  /-- MAINTENANCE (R413). -/
  | maintenance
  /-- UPDATE_BEGIN (R417). -/
  | updateBegin (o : Iface)
  /-- UPDATE_DATA (R417). -/
  | updateData (o : Iface) (c : CmdObs)
  /-- UPDATE_FINISH (R416). -/
  | updateFinish (o : Iface)
  /-- UPDATE_ACTIVATE (R417). -/
  | updateActivate (o : Iface)
  /-- UPDATE_CONFIRM (R417). -/
  | updateConfirm (o : Iface) (c : CmdObs)
  /-- FUSE_PROGRAM (R419). -/
  | fuseProgram (o : Iface) (c : CmdObs)
  /-- BIST_LANE (R436). -/
  | bistLane (o : Iface)
  /-- BIST_COACH (R435). -/
  | bistCoach (o : Iface)
  /-- BIST_SPLITTER (R435). -/
  | bistSplitter (o : Iface)
  /-- BIST_RETEST (R432). -/
  | bistRetest (o : Iface)
  /-- BIST_REPORT (R436). -/
  | bistReport (o : Iface)
  /-- BIST_DONE (R436). -/
  | bistDone
  /-- COACH_TEST_DONE (R435). -/
  | coachTestDone (splitter : Bool) (u : Nat) (sig : Word) (pass : Bool)
  /-- FOLLOW_SET (R171). -/
  | followSet (o : Iface)
  /-- FOLLOW_CLEAR (R172). -/
  | followClear (o : Iface)
  /-- FOLLOW_ADD (R172). -/
  | followAdd (o : Iface)
  /-- FOLLOW_FORCE (R184). -/
  | followForce (o : Iface)
  /-- FOLLOW_STATUS (R173). -/
  | followStatus (o : Iface)
  /-- REMOTE_READ (R267). -/
  | remoteRead (o : Iface)
  /-- REMOTE_WRITE (R267). -/
  | remoteWrite (o : Iface)
  /-- REMOTE_MBOX (R267). -/
  | remoteMbox (o : Iface)
  /-- REMOTE_POWER (R270). -/
  | remotePower (o : Iface)
  /-- REGISTER_WRITE (R473). -/
  | registerWrite (o : Iface) (addr : Nat) (v : Word) (b : BusObs)
  /-- APPLY (R468). -/
  | applyStaged (n : Nat)
  /-- LANE_APPLIED (R16). -/
  | laneApplied (n : Nat)
  /-- DISCARD (R467). -/
  | discard (n : Nat)
  /-- LANE_STAGED_WRITE (R468). -/
  | laneStagedWrite (addr : Nat) (v : Word)
  /-- LANE_RESET (R111). -/
  | laneReset (c : Nat) (p : Nat)
  /-- COACH_RESET (R111). -/
  | coachReset (c : Nat)
  /-- FORCED_TAINT (R96). -/
  | forcedTaint (a : Nat)
  /-- DESC_COMMIT (R192). -/
  | descCommit (c : Nat)
  /-- DESC_APPLY (R192). -/
  | descApply (c : Nat)
  /-- CAL_RUN (R85). -/
  | calRun (a : Nat)
  /-- CLK_RELOCK (R325). -/
  | clkRelock
  /-- VCO_CAL_START (R329). -/
  | vcoCalStart
  /-- CLK_OUT_EN_WRITE (R322). x: output 0 sample, 1 link, 2 audio, 3 converter. -/
  | clkOutEnWrite (x : Nat) (en : Bool)
  /-- GEN_RESET_FULL (R353). -/
  | genResetFull
  /-- GEN_RESET_DATAPATH (R353). -/
  | genResetDatapath
  /-- LANE_GO (R356). -/
  | laneGo (n : Nat)
  /-- WAIT_CLR (R464). -/
  | waitClr
  /-- RTC_ARM (R372). -/
  | rtcArm
  /-- RTC_DISARM (R372). -/
  | rtcDisarm
  /-- RTC_SECONDS_WRITE (R369). -/
  | rtcSecondsWrite (v : Word)
  /-- SENS_PEAK_CLR (R392). -/
  | sensPeakClr
  /-- BIST_ABORT (R437). -/
  | bistAbort
  /-- LINK_RESTART (R265). -/
  | linkRestart
  /-- WSP_SEND (R240). -/
  | wspSend
  /-- FEED_FAULT_CLEAR (R43). the W1C bits written as 1. -/
  | feedFaultClear (a : Nat) (short : Bool) (back : Bool)
  /-- AIN_ENABLE_WRITE (R52). -/
  | ainEnableWrite (a : Nat) (en : Bool)
  /-- FEED_ENABLE_WRITE (R46). -/
  | feedEnableWrite (a : Nat) (en : Bool)
  /-- APORT_MAP_WRITE (R284). -/
  | aportMapWrite (p e : Nat) (v : Word)
  /-- APORT_CFG_WRITE (R277). -/
  | aportCfgWrite (p : Nat) (v : Word)
  /-- HOST_RING_RD_WRITE (R298). -/
  | hostRingRdWrite (o : Iface) (v : Word)
  /-- SPL_EPOCH_READ (R477). -/
  | splEpochRead (o : Iface) (ns : Nat)
  /-- RTC_TICK_READ (R477). -/
  | rtcTickRead (o : Iface) (ns : Nat)
  /-- RTC_WALL_READ (R477). -/
  | rtcWallRead (o : Iface) (ns : Nat)
  /-- RTC_SECONDS_READ (R477). -/
  | rtcSecondsRead (o : Iface) (ns : Nat)
  /-- LOG_DATA_READ (R378). -/
  | logDataRead (o : Iface) (ns : Nat)
  /-- STIME_READ (R477). -/
  | stimeRead (o : Iface) (ns : Nat)
  /-- STEP_READ (R477). -/
  | stepRead (o : Iface) (ns : Nat)
  /-- SERIAL_READ (R477). -/
  | serialRead (o : Iface) (ns : Nat)
  /-- HP_READ (R293). short: HP_CS rises within the instruction or address. -/
  | hpRead (addr n ns : Nat) (late short : Bool)
  /-- HP_WRITE (R293). -/
  | hpWrite (addr : Nat) (bytes : List Byte) (short : Bool) (b : BusObs)
  /-- HP_QREAD (R293). -/
  | hpQread (addr n ns : Nat) (late short : Bool)
  /-- HP_QWRITE (R293). -/
  | hpQwrite (addr : Nat) (bytes : List Byte) (short : Bool) (b : BusObs)
  /-- HP_STATUS (R293). -/
  | hpStatus
  /-- HP_UNKNOWN_INSTRUCTION (R295). -/
  | hpUnknownInstruction (code : Nat)
  /-- TWB_WRITE (R309). bytes after the address byte; stop: a STOP ends the transfer, else a repeated START. -/
  | twbWrite (bytes : List Byte) (stop : Bool) (b : BusObs)
  /-- TWB_READ (R310). -/
  | twbRead (n : Nat) (stop : Bool) (b : BusObs)
  /-- TWB_PROBE (R307). -/
  | twbProbe (b : BusObs)
  /-- TWB_BUS_ERROR (R317). -/
  | twbBusError
  /-- TWB_STUCK (R317). -/
  | twbStuck
  /-- TWB_WAKE (R313). -/
  | twbWake (byte : Nat)
  /-- ATTN_MESSAGE (R314). -/
  | attnMessage (res : AttnRes)
  /-- ATTN_RETRY (R316). -/
  | attnRetry (res : AttnRes)
  /-- ATTN_BUS_TIMEOUT (R316). -/
  | attnBusTimeout
  /-- POR (R353). -/
  | por
  /-- BOR (R345). -/
  | bor
  /-- RAIL_LOW (R343). -/
  | railLow (rail : Nat)
  /-- NRST_LOW (R353). -/
  | nrstLow
  /-- NRST_RELEASE (R353). -/
  | nrstRelease
  /-- WDT_EXPIRY (R353). -/
  | wdtExpiry
  /-- WDT_HALF (R383). -/
  | wdtHalf
  /-- COAX_POWER_GOOD (R341). -/
  | coaxPowerGood
  /-- START (R397). -/
  | start (o : StartObs)
  /-- EW (R344). COAX and HOLD in mV. -/
  | ew (coax hold : Nat)
  /-- EW_CLEAR (R345). COAX and the lowest HOLD in mV. -/
  | ewClear (coax vmin : Nat)
  /-- OVERVOLT (R343). -/
  | overvolt (mv : Nat)
  /-- OVR (R57). t: low word of the sample time of the first over-range sample. -/
  | ovr (a : Nat) (t : Nat)
  /-- SNOW_STEP (R53). t: low word of the sample time of the over-range sample; near: less than 8 ns after the previous
  add. -/
  | snowStep (a : Nat) (t : Nat) (near : Bool)
  /-- SNOW_RELEASE (R54). -/
  | snowRelease (a : Nat)
  /-- GAIN_STEP (R51). one 10 ms window with its peak and RMS in dBFS. -/
  | gainStep (a : Nat) (peak : Int) (rms : Int)
  /-- PRESEL (R48). stable: the lanes on the input have been unchanged for 1 s. -/
  | presel (a : Nat) (stable : Bool)
  /-- FEED_SHORT (R43). -/
  | feedShort (a : Nat) (mv : Nat)
  /-- FEED_BACK (R44). -/
  | feedBack (a : Nat) (mv : Nat)
  /-- SETTLE_DONE (R52). -/
  | settleDone (a : Nat)
  /-- PLAN_DONE (R52). the peak in dBFS at the measuring step, none where nothing is measurable. -/
  | planDone (a : Nat) (peak : Option Int)
  /-- CAL_WINDOW_END (R78). -/
  | calWindowEnd (a : Nat) (w : CalWindow)
  /-- CAL_RUN_TIMEOUT (R86). -/
  | calRunTimeout (a : Nat)
  /-- LOAD_BUCKET (R80). -/
  | loadBucket
  /-- CAL_TRIG (R85). temp is in 1/16 °C. -/
  | calTrig (a : Nat) (temp : Int)
  /-- SLACK_LOW (R25). now: the window's slack in percent. -/
  | slackLow (c : Nat) (now : Nat)
  /-- SLACK_EXHAUSTED (R26). n samples discarded at position p. -/
  | slackExhausted (c : Nat) (p : Nat) (n : Nat)
  /-- FM_STATE (R138). -/
  | fmState (n : Nat) (o : FmObs)
  /-- STEREO (R127). -/
  | stereo (n : Nat) (present : Bool)
  /-- RDS_BLOCK (R130). -/
  | rdsBlock (n : Nat) (o : RdsObs)
  /-- AM_STATE (R138). -/
  | amState (n : Nat) (o : AmObs)
  /-- CARRIER_FADE (R134). carrier power over 4 ms within ±40 Hz and its average over the 1 s before, in 0.01 dB. -/
  | carrierFade (n : Nat) (power avg : Int)
  /-- AM_SIDE (R135). side: the sideband that the comparison of interference selects. -/
  | amSide (n : Nat) (side : Nat)
  /-- FIB_RECEIVED (R155). -/
  | fibReceived (n : Nat) (o : FibObs)
  /-- CIF_PUBLISH (R151). -/
  | cifPublish (n : Nat) (o : CifObs)
  /-- RECONFIG (R154). -/
  | reconfig (n : Nat) (cif : Nat)
  /-- SVC_ATTACH (R152). -/
  | svcAttach (n : Nat)
  /-- DAB_STATE (R163). a transmission frame of a lead; for a service, an audio frame leaves it. -/
  | dabState (n : Nat) (o : DabObs)
  /-- AUDIO_FRAME (R157). -/
  | audioFrame (n : Nat) (o : AudioObs)
  /-- TII_REPORT (R155). main id, sub id, level in dBFS. -/
  | tiiReport (n : Nat) (ids : List (Nat × Nat × Int)) (stamp : Nat)
  /-- MOT_DATA_GROUP (R159). -/
  | motDataGroup (n : Nat) (o : MotObs)
  /-- MOT_IDLE_TIMEOUT (R159). -/
  | motIdleTimeout (n : Nat) (tid : Nat)
  /-- MOT_MISSING (R160). -/
  | motMissing (n : Nat) (tid : Nat) (stamp : Nat)
  /-- DRM_STATE (R163). -/
  | drmState (n : Nat) (o : DrmObs)
  /-- DRM_PARAM (R161). -/
  | drmParam (n : Nat) (rmode : Nat) (occ : Nat) (qam : Nat) (ilong : Bool) (codec : Nat)
  /-- SCAN_RECORD (R179). -/
  | scanRecord (n : Nat) (o : ScanObs)
  /-- CAND_WARM (R178). sched: candidates (primary, index) of sources 5 and 6 whose scheduled time it is. -/
  | candWarm (sched : List (Nat × Nat))
  /-- CAND_VERIFY (R175). ident: the identity that the tandem lane decodes. -/
  | candVerify (p : Nat) (k : Nat) (ident : Nat)
  /-- CAND_ALIGNED (R180). -/
  | candAligned (p : Nat) (k : Nat)
  /-- CAND_READY (R182). -/
  | candReady (p : Nat) (k : Nat)
  /-- FINE_ALIGN (R181). -/
  | fineAlign (p : Nat) (k : Nat)
  /-- REJECT_EXPIRY (R177). -/
  | rejectExpiry (p : Nat) (k : Nat)
  /-- HANDOVER_DECIDE (R184). quals: quality words just updated, by lane. -/
  | handoverDecide (p : Nat) (quals : List (Nat × Word))
  /-- HANDOVER_DONE (R186). -/
  | handoverDone (p : Nat) (stamp : Nat)
  /-- HANDOVER_ABORT (R187). -/
  | handoverAbort (p : Nat) (reason : Nat)
  /-- FOLLOW_LEAD_RETURN (R178). -/
  | followLeadReturn (n : Nat)
  /-- SEGMENT_COMPLETE (R198). iq: the samples of an IQ carriage's lane. -/
  | segmentComplete (c : Nat) (iq : CoachRun)
  /-- SIDE_RECORD (R204). -/
  | sideRecord (n : Nat) (r : SideIn) (stamp : Nat) (cands : List CandIn)
  /-- KEEPALIVE (R202). -/
  | keepalive (c : Nat)
  /-- QUAL_REPORT (R207). -/
  | qualReport (c : Nat)
  /-- CARR_SHED (R208). -/
  | carrShed
  /-- CARR_RESTORE (R209). -/
  | carrRestore
  /-- TRAIN_TX (R259). noise: the power on each upstream data subcarrier in the slot of the train before. -/
  | trainTx (noise : List Nat)
  /-- TRAIN_RX (R224). -/
  | trainRx (o : TrainObs)
  /-- SEGMENT_RELEASE (R259). -/
  | segmentRelease
  /-- BURST_TX (R239). -/
  | burstTx
  /-- BURST_RX (R239). -/
  | burstRx (o : BurstObs)
  /-- TX_RAMP (R237). -/
  | txRamp (up : Bool)
  /-- WSP_CHARACTER (R242). -/
  | wspCharacter (mv : List Nat)
  /-- WSP_FRAME (R243). -/
  | wspFrame
  /-- WSP_FRAME_GAP (R243). -/
  | wspFrameGap
  /-- WSP_BREAK (R245). -/
  | wspBreak
  /-- WSP_WAKE (R244). -/
  | wspWake
  /-- WSP_RESET (R244). -/
  | wspReset
  /-- WSP_NOP (R244). -/
  | wspNop
  /-- WAKE_FRAME_TX (R265). -/
  | wakeFrameTx
  /-- UP_SOUND_DONE (R265). -/
  | upSoundDone
  /-- TRAIN_FAIL (R265). -/
  | trainFail
  /-- DN_SOUND_DONE (R265). -/
  | dnSoundDone
  /-- MAP_XCHG_TIMEOUT (R265). -/
  | mapXchgTimeout
  /-- LINK_LOST (R265). -/
  | linkLost
  /-- MAP_PROPOSE (R261). dir 0 downlink, 1 upstream. -/
  | mapPropose (dir : Nat)
  /-- MAP_PROPOSAL (R260). -/
  | mapProposal (dir : Nat)
  /-- MAP_PROPOSE_REPEAT (R262). -/
  | mapProposeRepeat (dir : Nat)
  /-- MAP_SWITCH (R261). -/
  | mapSwitch (dir : Nat)
  /-- RATE_RECOVER (R260). -/
  | rateRecover
  /-- NOTCH_SEGMENT (R264). -/
  | notchSegment (payload : List Byte)
  /-- IDMAP_SEGMENT (R210). -/
  | idmapSegment (payload : List Byte)
  /-- CTRL_REQUEST (R269). the assembled message. -/
  | ctrlRequest (msg : List Byte) (b : BusObs)
  /-- CTRL_RESPONSE (R267). -/
  | ctrlResponse (msg : List Byte)
  /-- CP_RETRY (R269). -/
  | cpRetry
  /-- CP_TIMEOUT (R267). -/
  | cpTimeout
  /-- FREE_BURST (R270). the request that it carries. -/
  | freeBurst (msg : List Byte)
  /-- SAMPLE_MESSAGE (R271). -/
  | sampleMessage (payload : List Byte)
  /-- WALL_SEND (R272). -/
  | wallSend
  /-- WALL_MESSAGE (R272). ago: ticks since the start of the train that it names. -/
  | wallMessage (payload : List Byte) (ago : Nat)
  /-- UNDERRUN (R286). -/
  | underrun (c : Nat)
  /-- OVERRUN (R287). -/
  | overrun (c : Nat)
  /-- RESUME (R286). -/
  | resume (c : Nat)
  /-- SLIP (R283). -/
  | slip (p c : Nat)
  /-- NONPCM (R290). -/
  | nonpcm (p e : Nat)
  /-- NONPCM_RELEASE (R290). -/
  | nonpcmRelease (p e : Nat)
  /-- CONTEND (R291). -/
  | contend (p : Nat) (fsync : Bool)
  /-- SYNC_IN_EDGE (R289). -/
  | syncInEdge
  /-- RING_ENTRY (R297). -/
  | ringEntry
  /-- PRIV_WRITE (R299). -/
  | privWrite
  /-- LOCK (R324). us: lock time; ppm: CLK_REF_MON in 0.01 ppm once locked. -/
  | lock (band : Nat) (us : Nat) (ppm : Int)
  /-- LOCK_LOST (R326). ctrl: the frozen control value. -/
  | lockLost (cause : Nat) (ctrl : Nat)
  /-- COAST_END (R328). ofs in 0.01 ppm; band found where a full search runs. -/
  | coastEnd (band : Nat) (us : Nat) (ofs : Int)
  /-- COAST_LIMIT (R327). a measurement in 0.01 ppm. -/
  | coastLimit (ofs : Int)
  /-- VCO_CAL_TEMP_TRIG (R329). -/
  | vcoCalTempTrig
  /-- VCO_CAL_STEP (R330). one band up or down, or no step needed; control value after it. -/
  | vcoCalStep (move : Option Bool) (ctrl : Nat) (last : Bool)
  /-- SLALOM_MOVE (R334). -/
  | slalomMove
  /-- LOCK_SENSE_MISMATCH (R335). -/
  | lockSenseMismatch (sense : Bool)
  /-- ALARM (R372). -/
  | alarm
  /-- TEMP_LIMIT (R375). a conversion of one of the 7 points, in 1/16 °C. -/
  | tempLimit (point : Nat) (temp : Int)
  /-- COAX_LIMIT (R375). COAX as it has been for 10 ms. -/
  | coaxLimit (mv : Nat) (ma : Nat)
  /-- LOG_MIRROR (R380). -/
  | logMirror (c : CmdObs)
  /-- FAULT (R383). more: faults that arrive while it is handled, in order. -/
  | faultTaken (f : FaultIn) (more : List FaultIn) (core : CoreObs)
  /-- DUMP (R385). n: operations completed where the early warning cuts it. -/
  | dump (n : Nat) (c : CmdObs)
  /-- DUMP_TIMEOUT (R385). -/
  | dumpTimeout (n : Nat)
  /-- BIST_SCHEDULE (R427). -/
  | bistSchedule
  /-- MIG_STATE_COPY (R429). -/
  | migStateCopy
  /-- MIG_DONE (R429). -/
  | migDone (stamp : Nat)
  /-- MIG_ABORT (R431). -/
  | migAbort (reason : Nat)
  /-- LANE_TEST_DONE (R426). pass: the signature equals the firmware's. -/
  | laneTestDone (sig : Word) (pass : Bool)
  /-- SAMPLE_TIME_LATCH (R355). counts is what the running counter gained since the last tick. -/
  | sampleTimeLatch (counts : Nat)
  /-- BUS_FREE (R315). how the message that waited fares. -/
  | busFree (res : AttnRes)
  /-- FREE_BURST_REPEAT (R270). -/
  | freeBurstRepeat
  deriving DecidableEq, Repr

end Sys2Proof
end

