-- ==== Sys2Proof/Decode.lean ====
section
/-! DEFINITION. Commands spelled by the table's bits: no row of the table gives any, so no word spells a command. -/
namespace Sys2Proof

/-- The command that a word of the table's bits spells: none. -/
def decodeTableWord (_ _ : Nat) : Option Instr := none

end Sys2Proof
end

