-- ==== Sys2Proof/Config.lean ====
section
/-! DEFINITION. The values that the manual leaves open. Each is an opaque function of a plain counter of the state, or of
the operands it depends on: nothing can evaluate it, and a statement holds for every value of it. -/
namespace Sys2Proof.Config

/-- The n-th value that the manual leaves open: a measured duration, or a figure for which no formula is stated. -/
opaque freeWord : Nat → Word

/-- The gain figure of a sub-ADC in 2^-12 of a step, by the powers of the four over a window (R75, R76): the manual gives no
formula. -/
opaque gainFigure : List Nat → Nat → Int

/-- The skew figure of a sub-ADC in 2^-12 of a step, by the powers and the mean squared differences of the four (R75, R76):
the manual gives no formula. -/
opaque skewFigure : List Nat → List Nat → Nat → Int

/-- Tap i of filter k in 2^-20 (R61, R91, R123, R126, R127, R133, R135, R136, R182): the manual gives responses or uses, no
coefficients. -/
opaque tap : Nat → Nat → Int

/-- The angle of a phasor in 2^-24 of a turn (R123). -/
opaque angle : Int × Int → Int

/-- The gain of the first-order loop that tracks the relative phase of two branches, in 2^-16 (R61): the manual gives its
bandwidth. -/
opaque phaseGain : Nat

/-- The equaliser's taps after one step of constant-modulus adaptation, by those before it and its input (R125). -/
opaque cmaTaps : List (Int × Int) → List (Int × Int) → List (Int × Int)

/-- The step of a first-order low-pass of a time constant in ns at 256 kS/s, in 2^-24 (R128). -/
opaque onePole : Nat → Nat

/-- The difference signal that stereo decoding takes from MPX, newest sample first, by the pilot (R127). -/
opaque stereoPart : List Int → Int

/-- The phasor of a turn of k / 2^22, in 2^-20 (R150). -/
opaque twiddle : Int → Int × Int

/-- What an AM lane forms of a sample before it has a carrier phasor (R133). -/
opaque noCarrier : Int × Int → Int × Int

/-- Timing in samples and frequency in 1 / 2048 of a carrier's distance as the phase reference symbol tells them (R150). -/
opaque refEstimate : List (Int × Int) → Int × Int

/-- The 4-bit soft value of a bit by the part of the differential phasor that carries it, 1 to 15 (R150). -/
opaque softValue : Int → Nat

/-- What the Viterbi decoder of EN 300 401 makes of a subchannel's soft bits, by its protection (R146, R153). -/
opaque viterbi : Nat → List Byte → List Byte

/-- What the Reed-Solomon code makes of a superframe, parity removed, and whether uncorrected errors remain (R156). -/
opaque reedSolomon : List Byte → List Byte × Bool

/-- A Layer II frame passes its check (R157). -/
opaque layerOk : List Byte → Bool

/-- What an audio decoder makes of a unit, by its kind and the unit before it: L and R at 48 kS/s (R156, R162). -/
opaque audioPcm : Nat → List Byte → List Byte → List (Int × Int)

/-- The audio superframe that the MSC of a DRM signal carries, by its parameters and its cells, those erased left out (R162). -/
opaque drmSuper : List Nat → List (Option (Int × Int)) → List Byte

/-- A DRM audio superframe passes its check (R157). -/
opaque drmOk : List Byte → Bool

/-- The level of a port's DIN ball at the start of a frame (R280), which its board gives. -/
opaque dinLevel : Nat → Int → Bool

/-- The seed of the backoff's 16-bit generator for a serial number (R316). -/
opaque backoffSeed : BitVec 64 → BitVec 16

/-- The generator's next value (R316). -/
opaque backoffNext : BitVec 16 → BitVec 16

/-- What its value draws, of which the backoff is 50 µs plus the remainder by 351 (R316). -/
opaque backoffWait : BitVec 16 → Nat

/-- What the receiver decides for a header bit whose soft values sum to 0 (R224), and for a whisper stop bit with one sample of
each level (R242): by what was received. -/
opaque tieBit : List Int → Nat → Bool

end Sys2Proof.Config
end

