-- ==== Sys2Proof/Machine/SMap.lean ====
section
/-! DEFINITION. Operations on the sorted sparse maps in which registers, windows, memories and per-unit records are
held. `put` keeps the canonical form: an entry equal to what an unlisted key reads as is removed. -/
namespace Sys2Proof.Machine

/-- The entry listed under a key. -/
def smFind {α : Type} (k : Nat) : SMap α → Option α
  | [] => none
  | (k', v) :: m => if k = k' then some v else smFind k m

/-- Insert in key order, replacing an entry of the same key. -/
def smInsert {α : Type} (k : Nat) (v : α) : SMap α → SMap α
  | [] => [(k, v)]
  | (k', v') :: m =>
    if k < k' then (k, v) :: (k', v') :: m
    else if k = k' then (k, v) :: m
    else (k', v') :: smInsert k v m

/-- Remove every entry of a key. -/
def smErase {α : Type} (k : Nat) : SMap α → SMap α
  | [] => []
  | (k', v') :: m => if k = k' then smErase k m else (k', v') :: smErase k m

/-- Read a key; `d` is what an unlisted key reads as. -/
def smGet {α : Type} (d : Nat → α) (m : SMap α) (k : Nat) : α :=
  match smFind k m with
  | some v => v
  | none => d k

/-- Write a key, keeping the canonical form. -/
def smPut {α : Type} [DecidableEq α] (d : Nat → α) (m : SMap α) (k : Nat) (v : α) : SMap α :=
  if v = d k then smErase k m else smInsert k v m

/-- Rewrite every listed value by its key, keeping the canonical form. -/
def smRewrite {α : Type} [DecidableEq α] (d : Nat → α) (f : Nat → α → α) : SMap α → SMap α
  | [] => []
  | (k, v) :: m =>
    if f k v = d k then smRewrite d f m else (k, f k v) :: smRewrite d f m

/-- The canonical form: keys strictly rising, no entry equal to what its key reads as when unlisted. -/
def smWf {α : Type} [DecidableEq α] (d : Nat → α) : SMap α → Bool
  | [] => true
  | (k, v) :: m => decide (v ≠ d k) && (m.all fun e => decide (k < e.1)) && smWf d m

/-- An unlisted byte of a cleared memory reads 0x00. -/
def zeroByte (_ : Nat) : Byte := 0

/-- An unlisted byte of erased flash reads 0xFF. -/
def erasedByte (_ : Nat) : Byte := 0xFF

/-- `n` bytes from address `a`. -/
def bytesAt (d : Nat → Byte) (m : SMap Byte) (a : Nat) : Nat → List Byte
  | 0 => []
  | n + 1 => smGet d m a :: bytesAt d m (a + 1) n

/-- Store bytes from address `a` upward. -/
def putBytes (d : Nat → Byte) (m : SMap Byte) (a : Nat) : List Byte → SMap Byte
  | [] => m
  | b :: bs => putBytes d (smPut d m a b) (a + 1) bs

/-- Drop every entry from `a` for `n` addresses. -/
def clearRange {α : Type} (m : SMap α) (a n : Nat) : SMap α :=
  m.filter fun e => decide (e.1 < a) || decide (a + n ≤ e.1)

end Sys2Proof.Machine
end

