-- ==== Sys2Proof/Machine/RegMap.lean ====
section
/-! DEFINITION. The register map (R458 to R463): one row for each register of the chapters' address tables with its reset
word, the masks of its RW, W1C and WS fields (R6) and its keeping domain (R7); the address of every register under
the manual's own name (`R.`) and the place of every field (`F.`). -/
namespace Sys2Proof.Machine

/-- The keeping domains of R7: keep island, management, datapath, a lane's own. -/
inductive Dom where
  | k
  | m
  | d
  | lane
  deriving DecidableEq, Repr

/-- One register of an address table: offset in its block, reset word, masks by access type, keeping domain; the bits
of `altMask` are kept in `altDom` where a register is split between two domains. -/
structure RegRow where
  off : Nat
  reset : Nat
  rw : Nat
  w1c : Nat
  ws : Nat
  dom : Dom
  altMask : Nat
  altDom : Dom
  deriving DecidableEq, Repr

/-- A field: register address, lowest bit, width. -/
structure Fld where
  addr : Nat
  lo : Nat
  width : Nat
  deriving DecidableEq, Repr

/-- GEN: GEN_ID to GEN_ASSIGNED3. -/
def genRows0 : List RegRow := [
  ⟨0x00, 0x00009604, 0x00000000, 0x00000000, 0x00000000, .m, 0x0, .m⟩,
  ⟨0x04, 0x000000B0, 0x00000000, 0x00000000, 0x00000000, .m, 0x0, .m⟩,
  ⟨0x08, 0x00000000, 0x00000000, 0x00000000, 0x00000000, .m, 0x0, .m⟩,
  ⟨0x0C, 0x00000060, 0x00000000, 0x00000000, 0x00000000, .m, 0x0, .m⟩,
  ⟨0x10, 0x00000000, 0x00007F00, 0x00000000, 0x00000007, .m, 0x0, .m⟩,
  ⟨0x14, 0x00000000, 0x00000000, 0x00001000, 0x00000000, .k, 0x0, .k⟩,
  ⟨0x18, 0x00000000, 0x00000000, 0x00000300, 0x00000000, .m, 0x0, .m⟩,
  ⟨0x1C, 0x00000000, 0x00000000, 0x00000000, 0x00000000, .m, 0x0, .m⟩,
  ⟨0x20, 0x80808080, 0x00000000, 0x00000000, 0x00000000, .m, 0x0, .m⟩,
  ⟨0x24, 0x80808080, 0x00000000, 0x00000000, 0x00000000, .m, 0x0, .m⟩,
  ⟨0x28, 0x00000000, 0x00000000, 0x00000000, 0x00000000, .m, 0x0, .m⟩,
  ⟨0x2C, 0x00000000, 0x00000000, 0x00000000, 0x00000000, .m, 0x0, .m⟩,
  ⟨0x30, 0x00000000, 0x00000000, 0x00000000, 0x00000000, .m, 0x0, .m⟩,
  ⟨0x34, 0x00000000, 0x00000000, 0x00000000, 0x00000000, .m, 0x0, .m⟩,
  ⟨0x38, 0x00000000, 0x00000000, 0x00000000, 0x00000000, .m, 0x0, .m⟩,
  ⟨0x3C, 0x00000000, 0x00000000, 0x00000000, 0x00000000, .m, 0x0, .m⟩]

/-- GEN: GEN_WAIT to GEN_SCRATCH3. -/
def genRows1 : List RegRow := [
  ⟨0x40, 0x00000000, 0x00000000, 0x00000000, 0x00000000, .m, 0x0, .m⟩,
  ⟨0x44, 0x00000000, 0xFFFFFFFF, 0x00000000, 0x00000000, .m, 0x0, .m⟩,
  ⟨0x48, 0x00000000, 0x0000FF00, 0x00000000, 0x00000001, .m, 0x0, .m⟩,
  ⟨0x4C, 0x00000000, 0xFFFFFFFF, 0x00000000, 0x00000000, .m, 0x0, .m⟩,
  ⟨0x50, 0x00000000, 0xFFFFFFFF, 0x00000000, 0x00000000, .m, 0x0, .m⟩,
  ⟨0x54, 0x00000000, 0xFFFFFFFF, 0x00000000, 0x00000000, .m, 0x0, .m⟩,
  ⟨0x58, 0x00000000, 0xFFFFFFFF, 0x00000000, 0x00000000, .m, 0x0, .m⟩,
  ⟨0x5C, 0x00000000, 0xFFFFFFFF, 0x00000000, 0x00000000, .m, 0x0, .m⟩]

/-- The rows of block GEN. -/
def genRows : List RegRow := genRows0 ++ genRows1

/-- SENS: SENS_TADC01 to SENS_CONV_COUNT. -/
def sensRows : List RegRow := [
  ⟨0x00, 0x80008000, 0x00000000, 0x00000000, 0x00000000, .m, 0x0, .m⟩,
  ⟨0x04, 0x80008000, 0x00000000, 0x00000000, 0x00000000, .m, 0x0, .m⟩,
  ⟨0x08, 0x80008000, 0x00000000, 0x00000000, 0x00000000, .m, 0x0, .m⟩,
  ⟨0x0C, 0x80008000, 0x00000000, 0x00000000, 0x00000000, .m, 0x0, .m⟩,
  ⟨0x10, 0x00000000, 0x00000000, 0x00000000, 0x00000000, .m, 0x0, .m⟩,
  ⟨0x14, 0x00000000, 0x00000000, 0x00000000, 0x00000000, .m, 0x0, .m⟩,
  ⟨0x18, 0x00000000, 0x00000000, 0x00000000, 0x00000000, .m, 0x0, .m⟩,
  ⟨0x1C, 0x0000D1C7, 0x0000FFFF, 0x00000000, 0x00000000, .m, 0x0, .m⟩,
  ⟨0x20, 0x0000B45A, 0x0000FFFF, 0x00000000, 0x00000000, .m, 0x0, .m⟩,
  ⟨0x24, 0x00000096, 0x000000FF, 0x00000000, 0x00000000, .m, 0x0, .m⟩,
  ⟨0x28, 0x00000000, 0x00000000, 0x0000033E, 0x00000000, .m, 0x0, .m⟩,
  ⟨0x2C, 0xFFFF8000, 0x00000000, 0x00000000, 0x00000000, .m, 0x0, .m⟩,
  ⟨0x30, 0x00000000, 0x00000000, 0x00000000, 0x00000001, .m, 0x0, .m⟩,
  ⟨0x34, 0x00000000, 0xFFFFFFFF, 0x00000000, 0x00000000, .m, 0x0, .m⟩,
  ⟨0x38, 0x00000000, 0x00000000, 0x00000000, 0x00000000, .m, 0x0, .m⟩,
  ⟨0x3C, 0x00000000, 0xFFFFFFFF, 0x00000000, 0x00000000, .m, 0x0, .m⟩]

/-- RTC: RTC_TICK_LO to RTC_STATUS. -/
def rtcRows : List RegRow := [
  ⟨0x00, 0x00000000, 0x00000000, 0x00000000, 0x00000000, .k, 0x0, .k⟩,
  ⟨0x04, 0x00000000, 0x00000000, 0x00000000, 0x00000000, .k, 0x0, .k⟩,
  ⟨0x08, 0x00000000, 0x00000000, 0x00000000, 0x00000000, .k, 0x0, .k⟩,
  ⟨0x0C, 0x00000000, 0x00000000, 0x00000000, 0x00000000, .k, 0x0, .k⟩,
  ⟨0x10, 0x00000000, 0x00000000, 0x00000000, 0x00000000, .k, 0x0, .k⟩,
  ⟨0x14, 0x00000000, 0x00000000, 0x00000000, 0x00000000, .k, 0x0, .k⟩,
  ⟨0x18, 0x00000000, 0xFFFFFFFF, 0x00000000, 0x00000000, .k, 0x0, .k⟩,
  ⟨0x1C, 0x00000000, 0x0000FFFF, 0x00000000, 0x00000000, .k, 0x0, .k⟩,
  ⟨0x20, 0x00000000, 0x00000100, 0x00000000, 0x00000003, .k, 0x0, .k⟩,
  ⟨0x24, 0x00000000, 0x00000000, 0x00000007, 0x00000000, .k, 0x0, .k⟩]

/-- SUP: SUP_STATE to SUP_WDT_COUNT. -/
def supRows0 : List RegRow := [
  ⟨0x00, 0x00000000, 0x00000000, 0x00000000, 0x00000000, .m, 0x0, .m⟩,
  ⟨0x04, 0x00000000, 0x00000000, 0x00003F18, 0x00000000, .m, 0x0, .m⟩,
  ⟨0x08, 0x000000B0, 0x000003FF, 0x00000000, 0x00000000, .m, 0x0, .m⟩,
  ⟨0x0C, 0x00000000, 0x00000000, 0x00000000, 0x00000000, .m, 0x0, .m⟩,
  ⟨0x10, 0x00000000, 0x00000000, 0x00000000, 0x00000000, .m, 0x0, .m⟩,
  ⟨0x14, 0x00000000, 0x00000000, 0x00000000, 0x00000000, .m, 0x0, .m⟩,
  ⟨0x18, 0x000003E8, 0x0000FFFF, 0x00000000, 0x00000000, .m, 0x0, .m⟩,
  ⟨0x1C, 0x00000001, 0x00000001, 0x00000000, 0x00000000, .k, 0x0, .k⟩,
  ⟨0x20, 0x00000000, 0x00000000, 0x00000000, 0x00000000, .k, 0x0, .k⟩,
  ⟨0x24, 0x00000000, 0xFFFFFFFF, 0x00000000, 0x00000000, .m, 0x0, .m⟩,
  ⟨0x28, 0x00000000, 0xFFFFFFFF, 0x00000000, 0x00000000, .k, 0x0, .k⟩,
  ⟨0x2C, 0x00000000, 0xFFFFFFFF, 0x00000000, 0x00000000, .k, 0x0, .k⟩,
  ⟨0x30, 0x00000000, 0xFFFFFFFF, 0x00000000, 0x00000000, .m, 0x0, .m⟩,
  ⟨0x34, 0x00000000, 0xFFFFFFFF, 0x00000000, 0x00000000, .m, 0x0, .m⟩,
  ⟨0x38, 0x00000000, 0x00000000, 0x00000000, 0x00000000, .m, 0x0, .m⟩,
  ⟨0x3C, 0x00000000, 0xFFFFFFFF, 0x00000000, 0x00000000, .k, 0x0, .k⟩]

/-- SUP: SUP_GLIDE_TIME to SUP_TRANS_TIME. -/
def supRows1 : List RegRow := [
  ⟨0x40, 0x00000000, 0x00000000, 0x00000000, 0x00000000, .k, 0x0, .k⟩,
  ⟨0x44, 0x00000000, 0x00000000, 0x00000000, 0x00000000, .m, 0x0, .m⟩]

/-- The rows of block SUP. -/
def supRows : List RegRow := supRows0 ++ supRows1

/-- CLK: CLK_CTRL to CLK_KEEPOUT3. -/
def clkRows0 : List RegRow := [
  ⟨0x00, 0x00000000, 0x00000000, 0x00000000, 0x00000003, .m, 0x0, .m⟩,
  ⟨0x04, 0x00000000, 0x00000000, 0x000007C0, 0x00000000, .m, 0x0, .m⟩,
  ⟨0x08, 0x00000080, 0x00000000, 0x00000000, 0x00000000, .m, 0x0, .m⟩,
  ⟨0x0C, 0x00000F64, 0x00003FFF, 0x00000000, 0x00000000, .m, 0x0, .m⟩,
  ⟨0x10, 0x800A0000, 0x800000FF, 0x00000000, 0x00000000, .m, 0x0, .m⟩,
  ⟨0x14, 0x80080000, 0x800000FF, 0x00000000, 0x00000000, .m, 0x0, .m⟩,
  ⟨0x18, 0x80200000, 0x800000FF, 0x00000000, 0x00000000, .m, 0x0, .m⟩,
  ⟨0x1C, 0x80200000, 0x800000FF, 0x00000000, 0x00000000, .m, 0x0, .m⟩,
  ⟨0x20, 0x00000960, 0x00030FFF, 0x00000000, 0x00000000, .m, 0x0, .m⟩,
  ⟨0x24, 0x00001F04, 0x00013F0F, 0x00000000, 0x00000000, .m, 0x0, .m⟩,
  ⟨0x28, 0x00140032, 0x00FF00FF, 0x00000000, 0x00000000, .m, 0x0, .m⟩,
  ⟨0x2C, 0x0FFF08FC, 0x00000000, 0x00000000, 0x00000000, .m, 0x0, .m⟩,
  ⟨0x30, 0x00000000, 0xFFFF7FFF, 0x00000000, 0x00000000, .m, 0x0, .m⟩,
  ⟨0x34, 0x00000000, 0xFFFF7FFF, 0x00000000, 0x00000000, .m, 0x0, .m⟩,
  ⟨0x38, 0x00000000, 0xFFFF7FFF, 0x00000000, 0x00000000, .m, 0x0, .m⟩,
  ⟨0x3C, 0x00000000, 0xFFFF7FFF, 0x00000000, 0x00000000, .m, 0x0, .m⟩]

/-- CLK: CLK_KEEPOUT4 to CLK_STEP_CFG. -/
def clkRows1 : List RegRow := [
  ⟨0x40, 0x00000000, 0xFFFF7FFF, 0x00000000, 0x00000000, .m, 0x0, .m⟩,
  ⟨0x44, 0x00000000, 0xFFFF7FFF, 0x00000000, 0x00000000, .m, 0x0, .m⟩,
  ⟨0x48, 0x00000000, 0xFFFF7FFF, 0x00000000, 0x00000000, .m, 0x0, .m⟩,
  ⟨0x4C, 0x00000000, 0xFFFF7FFF, 0x00000000, 0x00000000, .m, 0x0, .m⟩,
  ⟨0x50, 0x00000000, 0x00000000, 0x00000000, 0x00000000, .m, 0x0, .m⟩,
  ⟨0x54, 0x00000000, 0xFFFFFFFF, 0x00000000, 0x00000000, .m, 0x0, .m⟩,
  ⟨0x58, 0x00000000, 0xFFFFFFFF, 0x00000000, 0x00000000, .m, 0x0, .m⟩,
  ⟨0x5C, 0x00000000, 0xFFFFFFFF, 0x00000000, 0x00000000, .m, 0x0, .m⟩,
  ⟨0x60, 0x00000000, 0x00000000, 0x00000000, 0x00000000, .m, 0x0, .m⟩,
  ⟨0x64, 0x00000000, 0x00000000, 0x00000000, 0x00000000, .m, 0x0, .m⟩,
  ⟨0x68, 0x00000040, 0x000000FF, 0x00000000, 0x00000000, .m, 0x0, .m⟩,
  ⟨0x6C, 0x0000000A, 0x000000FF, 0x00000000, 0x00000000, .m, 0x0, .m⟩]

/-- The rows of block CLK. -/
def clkRows : List RegRow := clkRows0 ++ clkRows1

/-- AIN: AIN_CFG to AIN_DIV_COUNT. -/
def ainRows : List RegRow := [
  ⟨0x00, 0x0000000E, 0x0000000F, 0x00000000, 0x00000000, .m, 0x0, .m⟩,
  ⟨0x04, 0x00000500, 0x0000FF07, 0x00000000, 0x00000000, .m, 0x0, .m⟩,
  ⟨0x08, 0x00000000, 0x00000007, 0x00000000, 0x00000000, .d, 0x7, .m⟩,
  ⟨0x0C, 0x00000000, 0x0000000F, 0x00000000, 0x00000000, .d, 0xF, .m⟩,
  ⟨0x10, 0x000CEEFA, 0x00FFFFFF, 0x00000000, 0x00000000, .m, 0x0, .m⟩,
  ⟨0x14, 0x00000000, 0x00000000, 0x00360F10, 0x00000000, .d, 0x0, .d⟩,
  ⟨0x18, 0x00000000, 0xFFFFFFFF, 0x00000000, 0x00000000, .d, 0x0, .d⟩,
  ⟨0x1C, 0x00000000, 0x00000000, 0x00000000, 0x00000000, .d, 0x0, .d⟩,
  ⟨0x20, 0x00000000, 0xFFFFFFFF, 0x00000000, 0x00000000, .d, 0x0, .d⟩,
  ⟨0x24, 0x00008080, 0x00000000, 0x00000000, 0x00000000, .d, 0x0, .d⟩,
  ⟨0x28, 0x00000000, 0x00000000, 0x00000000, 0x00000000, .d, 0x0, .d⟩,
  ⟨0x2C, 0x00000000, 0xFFFFFFFF, 0x00000000, 0x00000000, .d, 0x0, .d⟩]

/-- CAL: CAL_CTRL to CAL_VIEW_SKEW23. -/
def calRows0 : List RegRow := [
  ⟨0x00, 0x0000020F, 0x0000030F, 0x00000000, 0x000000F0, .m, 0x0, .m⟩,
  ⟨0x04, 0x00000008, 0x0000003F, 0x00000000, 0x00000000, .m, 0x0, .m⟩,
  ⟨0x08, 0x00000000, 0x00000000, 0x007000F0, 0x00000000, .m, 0x0, .m⟩,
  ⟨0x0C, 0x00000000, 0x00000000, 0x00000000, 0x00000000, .m, 0x0, .m⟩,
  ⟨0x10, 0x80808080, 0x00000000, 0x00000000, 0x00000000, .m, 0x0, .m⟩,
  ⟨0x14, 0x000000A6, 0x000000FF, 0x00000000, 0x00000000, .m, 0x0, .m⟩,
  ⟨0x18, 0x00000000, 0x00000000, 0x00000000, 0x00000000, .m, 0x0, .m⟩,
  ⟨0x1C, 0x00000000, 0xFFFFFFFF, 0x00000000, 0x00000000, .m, 0x0, .m⟩,
  ⟨0x20, 0x00000000, 0x000000F3, 0x00000000, 0x00000000, .m, 0x0, .m⟩,
  ⟨0x24, 0x00000000, 0x00000000, 0x00000000, 0x00000000, .m, 0x0, .m⟩,
  ⟨0x28, 0x00000000, 0x00000000, 0x00000000, 0x00000000, .m, 0x0, .m⟩,
  ⟨0x2C, 0x00000000, 0x00000000, 0x00000000, 0x00000000, .m, 0x0, .m⟩,
  ⟨0x30, 0x00000000, 0x00000000, 0x00000000, 0x00000000, .m, 0x0, .m⟩,
  ⟨0x34, 0x00000000, 0x00000000, 0x00000000, 0x00000000, .m, 0x0, .m⟩,
  ⟨0x38, 0x00000000, 0x00000000, 0x00000000, 0x00000000, .m, 0x0, .m⟩,
  ⟨0x3C, 0x00000000, 0x00000000, 0x00000000, 0x00000000, .m, 0x0, .m⟩]

/-- CAL: CAL_SETS to CAL_FAIL_COUNT. -/
def calRows1 : List RegRow := [
  ⟨0x40, 0x00000000, 0x00000000, 0x00000000, 0x00000000, .m, 0x0, .m⟩,
  ⟨0x44, 0x00000000, 0x00000000, 0x00000000, 0x00000000, .m, 0x0, .m⟩,
  ⟨0x48, 0x00000000, 0xFFFFFFFF, 0x00000000, 0x00000000, .m, 0x0, .m⟩,
  ⟨0x4C, 0x00000000, 0xFFFFFFFF, 0x00000000, 0x00000000, .m, 0x0, .m⟩]

/-- The rows of block CAL. -/
def calRows : List RegRow := calRows0 ++ calRows1

/-- SPL: SPL_CTRL to SPL_BIST. -/
def splRows : List RegRow := [
  ⟨0x00, 0x00000000, 0x00000000, 0x00000000, 0x0000000F, .d, 0x0, .d⟩,
  ⟨0x04, 0x00000000, 0x00000000, 0x000001F0, 0x00000000, .d, 0x0, .d⟩,
  ⟨0x08, 0x00000000, 0x00000000, 0x00000000, 0x00000000, .d, 0x0, .d⟩,
  ⟨0x0C, 0x00000000, 0x00000000, 0x00000000, 0x00000000, .d, 0x0, .d⟩,
  ⟨0x10, 0x00000000, 0x00000000, 0x00000000, 0x00000000, .d, 0x0, .d⟩,
  ⟨0x14, 0x00000000, 0x00000000, 0x00000000, 0x00000000, .d, 0x0, .d⟩,
  ⟨0x18, 0x00000000, 0xFFFFFFFF, 0x00000000, 0x00000000, .d, 0x0, .d⟩,
  ⟨0x1C, 0x00000000, 0xFFFFFFFF, 0x00000000, 0x00000000, .d, 0x0, .d⟩,
  ⟨0x20, 0x00000000, 0xFFFFFFFF, 0x00000000, 0x00000000, .d, 0x0, .d⟩,
  ⟨0x24, 0x00000000, 0xFFFFFFFF, 0x00000000, 0x00000000, .d, 0x0, .d⟩,
  ⟨0x28, 0x00000000, 0x00000000, 0x00000000, 0x00000000, .d, 0x0, .d⟩,
  ⟨0x2C, 0x00000000, 0xFFFFFFFF, 0x00000000, 0x00000000, .d, 0x0, .d⟩,
  ⟨0x30, 0x00000000, 0x00000000, 0x00000000, 0x00000000, .d, 0x0, .d⟩,
  ⟨0x34, 0x00000000, 0x00000000, 0x00000000, 0x00000000, .d, 0x0, .d⟩,
  ⟨0x38, 0x00000000, 0x00000000, 0x00000000, 0x00000000, .d, 0x0, .d⟩,
  ⟨0x3C, 0x00000000, 0x00000000, 0x00000000, 0x00000000, .d, 0x0, .d⟩]

/-- LINK: LINK_PHY_CFG to LINK_NOTCH1. -/
def linkRows0 : List RegRow := [
  ⟨0x00, 0x00006C0C, 0x00007FFF, 0x00000000, 0x00000000, .m, 0x0, .m⟩,
  ⟨0x04, 0x00000003, 0x0000000F, 0x00000000, 0x00000000, .m, 0x0, .m⟩,
  ⟨0x08, 0x00000000, 0x00003F3F, 0x00000000, 0x00000000, .m, 0x0, .m⟩,
  ⟨0x0C, 0x00000000, 0x00000000, 0x00000330, 0x00000000, .d, 0x0, .d⟩,
  ⟨0x10, 0x00000000, 0x00000000, 0x00000000, 0x00000000, .d, 0x0, .d⟩,
  ⟨0x14, 0x00000000, 0x00000000, 0x00000000, 0x00000000, .d, 0x0, .d⟩,
  ⟨0x18, 0x00000000, 0x00000000, 0x00000000, 0x00000000, .d, 0x0, .d⟩,
  ⟨0x1C, 0x00000000, 0xFFFFFFFF, 0x00000000, 0x00000000, .d, 0x0, .d⟩,
  ⟨0x20, 0x00000000, 0xFFFFFFFF, 0x00000000, 0x00000000, .d, 0x0, .d⟩,
  ⟨0x24, 0x00000000, 0x00000003, 0x00000300, 0x00000000, .k, 0x0, .k⟩,
  ⟨0x28, 0x53594C4B, 0xFFFFFFFF, 0x00000000, 0x00000000, .k, 0x0, .k⟩,
  ⟨0x2C, 0x00000057, 0x000000FF, 0x00000000, 0x80000000, .m, 0x0, .m⟩,
  ⟨0x30, 0x00000000, 0xFFFFFFFF, 0x00000000, 0x00000000, .k, 0x0, .k⟩,
  ⟨0x34, 0x00000000, 0xFFFFFFFF, 0x00000000, 0x00000000, .k, 0x0, .k⟩,
  ⟨0x40, 0x00000000, 0xCFFF0FFF, 0x00000000, 0x00000000, .m, 0x0, .m⟩,
  ⟨0x44, 0x00000000, 0xCFFF0FFF, 0x00000000, 0x00000000, .m, 0x0, .m⟩]

/-- LINK: LINK_NOTCH2 to LINK_STATE. -/
def linkRows1 : List RegRow := [
  ⟨0x48, 0x00000000, 0xCFFF0FFF, 0x00000000, 0x00000000, .m, 0x0, .m⟩,
  ⟨0x4C, 0x00000000, 0xCFFF0FFF, 0x00000000, 0x00000000, .m, 0x0, .m⟩,
  ⟨0x50, 0x00000000, 0xCFFF0FFF, 0x00000000, 0x00000000, .m, 0x0, .m⟩,
  ⟨0x54, 0x00000000, 0xCFFF0FFF, 0x00000000, 0x00000000, .m, 0x0, .m⟩,
  ⟨0x58, 0x00000000, 0xCFFF0FFF, 0x00000000, 0x00000000, .m, 0x0, .m⟩,
  ⟨0x5C, 0x00000000, 0xCFFF0FFF, 0x00000000, 0x00000000, .m, 0x0, .m⟩,
  ⟨0x60, 0x00000000, 0xCFFF0FFF, 0x00000000, 0x00000000, .m, 0x0, .m⟩,
  ⟨0x64, 0x00000000, 0xCFFF0FFF, 0x00000000, 0x00000000, .m, 0x0, .m⟩,
  ⟨0x68, 0x00000000, 0xCFFF0FFF, 0x00000000, 0x00000000, .m, 0x0, .m⟩,
  ⟨0x6C, 0x00000000, 0xCFFF0FFF, 0x00000000, 0x00000000, .m, 0x0, .m⟩,
  ⟨0x70, 0x00000000, 0xCFFF0FFF, 0x00000000, 0x00000000, .m, 0x0, .m⟩,
  ⟨0x74, 0x00000000, 0xCFFF0FFF, 0x00000000, 0x00000000, .m, 0x0, .m⟩,
  ⟨0x78, 0x00000000, 0xCFFF0FFF, 0x00000000, 0x00000000, .m, 0x0, .m⟩,
  ⟨0x7C, 0x00000000, 0xCFFF0FFF, 0x00000000, 0x00000000, .m, 0x0, .m⟩,
  ⟨0x80, 0x00000001, 0x00000001, 0x00000000, 0x00000100, .m, 0x0, .m⟩,
  ⟨0x84, 0x00000000, 0x00000000, 0x00000000, 0x00000000, .d, 0x0, .d⟩]

/-- LINK: LINK_LATENCY to LINK_PROTO_STATUS. -/
def linkRows2 : List RegRow := [
  ⟨0x88, 0x00000320, 0x000007FF, 0x00000000, 0x00000000, .m, 0x0, .m⟩,
  ⟨0x8C, 0x00000800, 0x0000FF03, 0x00000000, 0x00000000, .m, 0x0, .m⟩,
  ⟨0x90, 0x00000000, 0x00000000, 0x00000000, 0x00000000, .d, 0x0, .d⟩,
  ⟨0x94, 0x00000000, 0x00000000, 0x00000000, 0x00000000, .m, 0x0, .m⟩,
  ⟨0x98, 0x00000000, 0x00000000, 0x00000000, 0x00000000, .m, 0x0, .m⟩,
  ⟨0x9C, 0x00000000, 0x00000000, 0x00000000, 0x00000000, .m, 0x0, .m⟩,
  ⟨0xA0, 0x00000000, 0xFFFFFFFF, 0x00000000, 0x00000000, .d, 0x0, .d⟩,
  ⟨0xA4, 0x00000000, 0xFFFFFFFF, 0x00000000, 0x00000000, .d, 0x0, .d⟩,
  ⟨0xA8, 0x00000000, 0xFFFFFFFF, 0x00000000, 0x00000000, .d, 0x0, .d⟩,
  ⟨0xAC, 0x00000000, 0xFFFFFFFF, 0x00000000, 0x00000000, .d, 0x0, .d⟩,
  ⟨0xB0, 0x00000000, 0xFFFFFFFF, 0x00000000, 0x00000000, .d, 0x0, .d⟩,
  ⟨0xB4, 0x00000000, 0xFFFFFFFF, 0x00000000, 0x00000000, .d, 0x0, .d⟩,
  ⟨0xB8, 0x00000000, 0xFFFFFFFF, 0x00000000, 0x00000000, .d, 0x0, .d⟩,
  ⟨0xBC, 0x00000000, 0xFFFFFFFF, 0x00000000, 0x00000000, .d, 0x0, .d⟩,
  ⟨0xC0, 0x00010064, 0x000100FF, 0x00000000, 0x00000000, .m, 0x0, .m⟩,
  ⟨0xC4, 0x00000000, 0x00000000, 0x000003FF, 0x00000000, .d, 0x0, .d⟩]

/-- LINK: LINK_CP_RETRY_COUNT to LINK_TRAIN_COUNT. -/
def linkRows3 : List RegRow := [
  ⟨0xC8, 0x00000000, 0xFFFFFFFF, 0x00000000, 0x00000000, .d, 0x0, .d⟩,
  ⟨0xCC, 0x00000000, 0x00000000, 0x00000000, 0x00000000, .d, 0x0, .d⟩,
  ⟨0xD0, 0x00000000, 0x00000000, 0x00000000, 0x00000000, .d, 0x0, .d⟩,
  ⟨0xD4, 0x00000000, 0x00000000, 0x00000000, 0x00000000, .d, 0x0, .d⟩,
  ⟨0xD8, 0x00000020, 0x000000FF, 0x00000000, 0x00000000, .m, 0x0, .m⟩,
  ⟨0xDC, 0x00000000, 0x00000000, 0x00000000, 0x00000000, .m, 0x0, .m⟩,
  ⟨0xE0, 0x00000000, 0xFFFFFFFF, 0x00000000, 0x00000000, .d, 0x0, .d⟩]

/-- The rows of block LINK. -/
def linkRows : List RegRow := linkRows0 ++ linkRows1 ++ linkRows2 ++ linkRows3

/-- APORT: APORT_CFG to APORT_OVER_COUNT. -/
def aportRows : List RegRow := [
  ⟨0x00, 0x00000000, 0xFEFF0000, 0x00000000, 0x00000000, .m, 0x0, .m⟩,
  ⟨0x04, 0x00000000, 0x9F3F1FFF, 0x00000000, 0x00000000, .m, 0x0, .m⟩,
  ⟨0x08, 0x00000000, 0x9F3F1FFF, 0x00000000, 0x00000000, .m, 0x0, .m⟩,
  ⟨0x0C, 0x00000000, 0x9F3F1FFF, 0x00000000, 0x00000000, .m, 0x0, .m⟩,
  ⟨0x10, 0x00000000, 0x9F3F1FFF, 0x00000000, 0x00000000, .m, 0x0, .m⟩,
  ⟨0x14, 0x000A0004, 0x00FF00FF, 0x00000000, 0x00000000, .m, 0x0, .m⟩,
  ⟨0x18, 0x00000000, 0x00000000, 0x00000E38, 0x00000000, .d, 0x0, .d⟩,
  ⟨0x1C, 0x00000000, 0xFFFFFFFF, 0x00000000, 0x00000000, .d, 0x0, .d⟩,
  ⟨0x20, 0x00000000, 0xFFFFFFFF, 0x00000000, 0x00000000, .d, 0x0, .d⟩,
  ⟨0x24, 0x00000000, 0xFFFFFFFF, 0x00000000, 0x00000000, .d, 0x0, .d⟩]

/-- HOST: HOST_CFG to HOST_IRQ. -/
def hostRows : List RegRow := [
  ⟨0x00, 0x00000108, 0x0000011F, 0x00000000, 0x00000000, .m, 0x0, .m⟩,
  ⟨0x04, 0x00000000, 0x00000000, 0x0000007F, 0x00000000, .d, 0x0, .d⟩,
  ⟨0x08, 0x00000000, 0x000000FF, 0x00000000, 0x00000000, .m, 0x0, .m⟩,
  ⟨0x0C, 0x3F004000, 0xFF00FFFF, 0x00000000, 0x00000000, .m, 0x0, .m⟩,
  ⟨0x10, 0x00000000, 0x00000000, 0x00000000, 0x00000000, .d, 0x0, .d⟩,
  ⟨0x14, 0x00000000, 0x003FFFFF, 0x00000000, 0x00000000, .m, 0x0, .m⟩,
  ⟨0x18, 0x00000000, 0x00000007, 0x00000000, 0x00000000, .m, 0x0, .m⟩,
  ⟨0x1C, 0x00000000, 0xC00FFFFF, 0x00000000, 0x00000000, .m, 0x0, .m⟩,
  ⟨0x20, 0x00000000, 0xFFFF0000, 0x00000000, 0x00000000, .m, 0x0, .m⟩,
  ⟨0x24, 0x00000000, 0xFFFFFFFF, 0x00000000, 0x00000000, .d, 0x0, .d⟩,
  ⟨0x28, 0x00000000, 0xFFFFFFFF, 0x00000000, 0x00000000, .d, 0x0, .d⟩,
  ⟨0x2C, 0x00000000, 0xE0000FFF, 0x00000000, 0x00000000, .m, 0x0, .m⟩]

/-- TWB: TWB_CFG to TWB_XFER_COUNT. -/
def twbRows : List RegRow := [
  ⟨0x00, 0x00000504, 0x0000071F, 0x00000000, 0x00000000, .m, 0x400, .k⟩,
  ⟨0x04, 0x00000818, 0x0000FFFF, 0x00000000, 0x00000000, .m, 0x0, .m⟩,
  ⟨0x08, 0x00000000, 0x8000007F, 0x00000000, 0x00000000, .m, 0x0, .m⟩,
  ⟨0x0C, 0x00000000, 0x00000000, 0x00007F00, 0x00000000, .m, 0x3, .k⟩,
  ⟨0x10, 0x00000000, 0x00000000, 0x0000003F, 0x00000000, .m, 0x0, .m⟩,
  ⟨0x14, 0x00000000, 0x00000000, 0x00000000, 0x00000000, .m, 0x0, .m⟩,
  ⟨0x18, 0x00000000, 0x000000FF, 0x00000000, 0x00000000, .m, 0x0, .m⟩,
  ⟨0x1C, 0x00000000, 0xFFFFFFFF, 0x00000000, 0x00000000, .m, 0x0, .m⟩,
  ⟨0x20, 0x00000000, 0xFFFFFFFF, 0x00000000, 0x00000000, .m, 0x0, .m⟩,
  ⟨0x24, 0x00000000, 0xFFFFFFFF, 0x00000000, 0x00000000, .m, 0x0, .m⟩,
  ⟨0x28, 0x00000000, 0xFFFFFFFF, 0x00000000, 0x00000000, .m, 0x0, .m⟩,
  ⟨0x2C, 0x00000000, 0xFFFFFFFF, 0x00000000, 0x00000000, .m, 0x0, .m⟩,
  ⟨0x30, 0x00000000, 0xFFFFFFFF, 0x00000000, 0x00000000, .k, 0x0, .k⟩,
  ⟨0x34, 0x00000000, 0xFFFFFFFF, 0x00000000, 0x00000000, .m, 0x0, .m⟩]

/-- BIST: BIST_CTRL to BIST_RUN_COUNT. -/
def bistRows : List RegRow := [
  ⟨0x00, 0x00000001, 0x00000001, 0x00000000, 0x00000002, .m, 0x0, .m⟩,
  ⟨0x04, 0x00000258, 0x0000FFFF, 0x00000000, 0x00000000, .m, 0x0, .m⟩,
  ⟨0x08, 0x7F7F0000, 0x00000000, 0x00000016, 0x00000000, .m, 0x0, .m⟩,
  ⟨0x0C, 0x00000800, 0x00000000, 0x00000000, 0x00000000, .m, 0x0, .m⟩,
  ⟨0x10, 0x00000000, 0x00000000, 0x00000000, 0x00000000, .k, 0x0, .k⟩,
  ⟨0x14, 0x00000000, 0x00000000, 0x00000000, 0x00000000, .k, 0x0, .k⟩,
  ⟨0x18, 0x00000000, 0x00000000, 0x00000000, 0x00000000, .k, 0x0, .k⟩,
  ⟨0x1C, 0x00000000, 0x00000000, 0x00000000, 0x00000000, .k, 0x0, .k⟩,
  ⟨0x20, 0x0000007F, 0x00000000, 0x00000000, 0x00000000, .m, 0x0, .m⟩,
  ⟨0x24, 0x00000000, 0xFFFFFFFF, 0x00000000, 0x00000000, .m, 0x0, .m⟩]

/-- STORE: STORE_STATUS to STORE_VIOL_COUNT. -/
def storeRows : List RegRow := [
  ⟨0x00, 0x00000000, 0x00000000, 0x00074000, 0x00000000, .m, 0x0, .m⟩,
  ⟨0x04, 0x00000000, 0x00000000, 0x00000000, 0x00000000, .m, 0x0, .m⟩,
  ⟨0x08, 0x00000000, 0x00000000, 0x00000000, 0x00000000, .m, 0x0, .m⟩,
  ⟨0x0C, 0x00000000, 0x00000000, 0x00000000, 0x00000000, .m, 0x0, .m⟩,
  ⟨0x10, 0x00000018, 0x000000FF, 0x00000000, 0x00000000, .m, 0x0, .m⟩,
  ⟨0x14, 0x00000040, 0x00000000, 0x00000000, 0x00000000, .m, 0x0, .m⟩,
  ⟨0x18, 0x00000000, 0x00000000, 0x00000000, 0x00000000, .m, 0x0, .m⟩,
  ⟨0x1C, 0x00000000, 0x00000000, 0x00000000, 0x00000000, .m, 0x0, .m⟩,
  ⟨0x20, 0x00000000, 0x00000000, 0x00000000, 0x00000000, .m, 0x0, .m⟩,
  ⟨0x24, 0x00000000, 0xFFFFFFFF, 0x00000000, 0x00000000, .m, 0x0, .m⟩,
  ⟨0x28, 0x00000000, 0xFFFFFFFF, 0x00000000, 0x00000000, .m, 0x0, .m⟩,
  ⟨0x2C, 0x00000000, 0xFFFFFFFF, 0x00000000, 0x00000000, .m, 0x0, .m⟩]

/-- MGMT: MGMT_CMD to MGMT_FAULT_COUNT0. -/
def mgmtRows0 : List RegRow := [
  ⟨0x00, 0x00000000, 0x000000FF, 0x00000000, 0x00000000, .m, 0x0, .m⟩,
  ⟨0x04, 0x00000000, 0x00000000, 0x40000000, 0x00000000, .m, 0x0, .m⟩,
  ⟨0x08, 0x00000000, 0xFFFFFFFF, 0x00000000, 0x00000000, .m, 0x0, .m⟩,
  ⟨0x0C, 0x00000000, 0xFFFFFFFF, 0x00000000, 0x00000000, .m, 0x0, .m⟩,
  ⟨0x10, 0x00000000, 0xFFFFFFFF, 0x00000000, 0x00000000, .m, 0x0, .m⟩,
  ⟨0x14, 0x00000000, 0xFFFFFFFF, 0x00000000, 0x00000000, .m, 0x0, .m⟩,
  ⟨0x18, 0x00000000, 0xFFFFFFFF, 0x00000000, 0x00000000, .m, 0x0, .m⟩,
  ⟨0x1C, 0x00000000, 0xFFFFFFFF, 0x00000000, 0x00000000, .m, 0x0, .m⟩,
  ⟨0x20, 0x00000000, 0xFFFFFFFF, 0x00000000, 0x00000000, .m, 0x0, .m⟩,
  ⟨0x24, 0x00000000, 0xFFFFFFFF, 0x00000000, 0x00000000, .m, 0x0, .m⟩,
  ⟨0x28, 0x00000000, 0x00000000, 0x0003F7FF, 0x00000000, .m, 0x0, .m⟩,
  ⟨0x2C, 0x00000800, 0xFFFFF7FF, 0x00000000, 0x00000000, .m, 0x0, .m⟩,
  ⟨0x30, 0x00000002, 0x00000003, 0x00000000, 0x00000000, .m, 0x0, .m⟩,
  ⟨0x34, 0x00000000, 0x00000000, 0x00FF0600, 0x00000000, .m, 0x0, .m⟩,
  ⟨0x38, 0x00000000, 0xFFFFFFFF, 0x00000000, 0x00000000, .m, 0x0, .m⟩,
  ⟨0x3C, 0x00000000, 0xFFFFFFFF, 0x00000000, 0x00000000, .m, 0x0, .m⟩]

/-- MGMT: MGMT_FAULT_COUNT1 to MGMT_SEQ. -/
def mgmtRows1 : List RegRow := [
  ⟨0x40, 0x00000000, 0xFFFFFFFF, 0x00000000, 0x00000000, .m, 0x0, .m⟩,
  ⟨0x44, 0x00000000, 0xFFFFFFFF, 0x00000000, 0x00000000, .m, 0x0, .m⟩,
  ⟨0x48, 0x00000000, 0xFFFFFFFF, 0x00000000, 0x00000000, .m, 0x0, .m⟩,
  ⟨0x4C, 0x00000000, 0x00000000, 0x00000000, 0x00000000, .m, 0x0, .m⟩,
  ⟨0x50, 0x00000000, 0x00000000, 0x00000000, 0x00000000, .m, 0x0, .m⟩,
  ⟨0x54, 0x80000040, 0x8000FFFF, 0x00000000, 0x00000000, .m, 0x0, .m⟩,
  ⟨0x58, 0x00000000, 0x00000000, 0x00000000, 0x00000000, .m, 0x0, .m⟩,
  ⟨0x5C, 0x00000000, 0xFFFFFFFF, 0x00000000, 0x00000000, .m, 0x0, .m⟩,
  ⟨0x60, 0x00000000, 0x00000000, 0x00000000, 0x00000000, .m, 0x0, .m⟩,
  ⟨0x64, 0x00000000, 0xFFFFFFFF, 0x00000000, 0x00000000, .m, 0x0, .m⟩,
  ⟨0x68, 0x00000000, 0x00000000, 0x00000000, 0x00000000, .m, 0x0, .m⟩,
  ⟨0x6C, 0x00000000, 0x00000000, 0x00000000, 0x00000000, .m, 0x0, .m⟩,
  ⟨0x70, 0x00000000, 0x00000000, 0x00000000, 0x00000000, .m, 0x0, .m⟩,
  ⟨0x74, 0x00000000, 0x00000000, 0x00000000, 0x00000000, .m, 0x0, .m⟩,
  ⟨0x78, 0x00000000, 0x000000FF, 0x00000000, 0x00000000, .m, 0x0, .m⟩,
  ⟨0x7C, 0x00000000, 0x00000000, 0x00000000, 0x00000000, .m, 0x0, .m⟩]

/-- MGMT: MGMT_STIME_LO to MGMT_LOAD. -/
def mgmtRows2 : List RegRow := [
  ⟨0x80, 0x00000000, 0x00000000, 0x00000000, 0x00000000, .m, 0x0, .m⟩,
  ⟨0x84, 0x00000000, 0x00000000, 0x00000000, 0x00000000, .m, 0x0, .m⟩,
  ⟨0x88, 0x00000000, 0x00000000, 0x00000000, 0x00000000, .m, 0x0, .m⟩,
  ⟨0x8C, 0x00000000, 0x00000000, 0x00000000, 0x00000000, .m, 0x0, .m⟩,
  ⟨0x90, 0x00000000, 0x00000000, 0x00000000, 0x00000000, .m, 0x0, .m⟩,
  ⟨0x94, 0x00000000, 0xFFFFFFFF, 0x00000000, 0x00000000, .m, 0x0, .m⟩,
  ⟨0x98, 0x00000000, 0x00000000, 0x00000000, 0x00000000, .m, 0x0, .m⟩,
  ⟨0x9C, 0x00000000, 0x00000000, 0x00000000, 0x00000000, .m, 0x0, .m⟩]

/-- The rows of block MGMT. -/
def mgmtRows : List RegRow := mgmtRows0 ++ mgmtRows1 ++ mgmtRows2

/-- FUSE: FUSE_STATUS to FUSE_PROG_COUNT. -/
def fuseRows : List RegRow := [
  ⟨0x00, 0x00000000, 0x00000000, 0x00000100, 0x00000000, .k, 0x0, .k⟩,
  ⟨0x04, 0x00000000, 0x00000000, 0x00000000, 0x00000000, .k, 0x0, .k⟩,
  ⟨0x08, 0x00000000, 0x00000000, 0x00000000, 0x00000000, .k, 0x0, .k⟩,
  ⟨0x0C, 0x00000000, 0x00000000, 0x00000000, 0x00000000, .k, 0x0, .k⟩,
  ⟨0x10, 0x00000000, 0x00000000, 0x00000000, 0x00000000, .k, 0x0, .k⟩,
  ⟨0x14, 0x00000000, 0x00000007, 0x00000000, 0x00000000, .k, 0x0, .k⟩,
  ⟨0x18, 0x00000000, 0x00000000, 0x00000000, 0x00000000, .k, 0x0, .k⟩,
  ⟨0x1C, 0x00000000, 0xFFFFFFFF, 0x00000000, 0x00000000, .k, 0x0, .k⟩]

/-- COACH: COACH_CTRL to COACH_BIST_STATUS. -/
def coachRows : List RegRow := [
  ⟨0x00, 0x00000000, 0x00000000, 0x00000000, 0x000001FF, .d, 0x0, .d⟩,
  ⟨0x04, 0x00000000, 0x00000000, 0x00030000, 0x00000000, .d, 0x0, .d⟩,
  ⟨0x08, 0x00006464, 0x00000000, 0x00000000, 0x00000000, .d, 0x0, .d⟩,
  ⟨0x0C, 0x00000000, 0xFFFFFFFF, 0x00000000, 0x00000000, .d, 0x0, .d⟩,
  ⟨0x10, 0x00000000, 0xFFFFFFFF, 0x00000000, 0x00000000, .d, 0x0, .d⟩,
  ⟨0x14, 0x00000000, 0x00000000, 0x00000000, 0x00000000, .d, 0x0, .d⟩,
  ⟨0x18, 0x00000000, 0x00000000, 0x00000000, 0x00000000, .d, 0x0, .d⟩,
  ⟨0x1C, 0x00000000, 0x00000000, 0x00000000, 0x00000000, .d, 0x0, .d⟩]

/-- LANE: LANE_MODE to LANE_CARR. -/
def laneRows : List RegRow := [
  ⟨0x00, 0x00000000, 0xFFFF000F, 0x00000000, 0x00000000, .lane, 0x0, .lane⟩,
  ⟨0x04, 0x00000000, 0x00000000, 0x00000000, 0x00000003, .lane, 0x0, .lane⟩,
  ⟨0x08, 0x00000000, 0x0000FF0F, 0x00000000, 0x00000000, .lane, 0x0, .lane⟩,
  ⟨0x0C, 0x00000000, 0xFFFFFFFF, 0x00000000, 0x00000000, .lane, 0x0, .lane⟩,
  ⟨0x10, 0x00000000, 0x0000011F, 0x00000000, 0x00000000, .lane, 0x0, .lane⟩,
  ⟨0x14, 0x10000000, 0xFFFFFFFF, 0x00000000, 0x00000000, .lane, 0x0, .lane⟩,
  ⟨0x18, 0x00000000, 0x0103FFFF, 0x00000000, 0x00000000, .lane, 0x0, .lane⟩,
  ⟨0x1C, 0x00000200, 0x0000031F, 0x00000000, 0x00000000, .lane, 0x0, .lane⟩,
  ⟨0x20, 0x7F000000, 0x000100FF, 0x00000000, 0x00000000, .lane, 0x0, .lane⟩,
  ⟨0x24, 0x00000000, 0x00000000, 0x00000000, 0x00000000, .lane, 0x0, .lane⟩,
  ⟨0x28, 0x000080FF, 0x00000000, 0x00000000, 0x00000000, .lane, 0x0, .lane⟩,
  ⟨0x2C, 0x00000000, 0xFF00FFFF, 0x00000000, 0x00000000, .lane, 0x0, .lane⟩]

/-- CARR: CARR_CFG to CARR_DROP. -/
def carrRows : List RegRow := [
  ⟨0x00, 0x00000000, 0xCFFFFCFF, 0x10000000, 0x20000000, .m, 0x0, .m⟩,
  ⟨0x04, 0x00000000, 0x00FF7F7F, 0x08000000, 0x00000000, .m, 0x0, .m⟩,
  ⟨0x08, 0x00000000, 0xFFFFFFFF, 0x00000000, 0x00000000, .d, 0x0, .d⟩]

/-- The row of an offset. -/
def rowAt (rows : List RegRow) (off : Nat) : Option RegRow := rows.find? fun r => r.off == off

/-- The register at a byte address (R458, R460, R462); none where the address is unmapped (R459). -/
def regRow (addr : Nat) : Option RegRow :=
  if addr % 4 ≠ 0 then none
  else if addr < 0x80 then rowAt genRows addr
  else if addr < 0xC0 then rowAt sensRows (addr - 0x80)
  else if addr < 0x100 then rowAt rtcRows (addr - 0xC0)
  else if addr < 0x180 then rowAt supRows (addr - 0x100)
  else if addr < 0x200 then rowAt clkRows (addr - 0x180)
  else if addr < 0x300 then rowAt ainRows ((addr - 0x200) % 0x40)
  else if addr < 0x380 then rowAt calRows (addr - 0x300)
  else if addr < 0x400 then rowAt splRows (addr - 0x380)
  else if addr < 0x500 then rowAt linkRows (addr - 0x400)
  else if addr < 0x600 then rowAt aportRows ((addr - 0x500) % 0x40)
  else if addr < 0x640 then rowAt hostRows (addr - 0x600)
  else if addr < 0x680 then rowAt twbRows (addr - 0x640)
  else if addr < 0x6C0 then rowAt bistRows (addr - 0x680)
  else if addr < 0x700 then rowAt storeRows (addr - 0x6C0)
  else if addr < 0x7C0 then rowAt mgmtRows (addr - 0x700)
  else if addr < 0x800 then rowAt fuseRows (addr - 0x7C0)
  else if addr < 0x9A0 then rowAt coachRows ((addr - 0x800) % 0x20)
  else if addr < 0x1000 then none
  else if addr < 0x2A00 then rowAt laneRows ((addr - 0x1000) % 0x40)
  else if addr < 0x4000 then none
  else if addr < 0x5000 then rowAt carrRows ((addr - 0x4000) % 0x10)
  else none

/-- The spare lanes at reset (R19). -/
def spareAtReset (n : Nat) : Bool := n % 8 == 7 && decide (n < 64)

/-- What the reset value of a register holds beyond its row: the index-dependent resets of R462. -/
def indexedReset (addr : Nat) : Nat :=
  if 0x1000 ≤ addr ∧ addr < 0x2A00 then
    let n := (addr - 0x1000) / 0x40
    if spareAtReset n then
      if addr % 0x40 = 0 then 0xF else if addr % 0x40 = 4 then 0x20000 else 0
    else 0
  else if 0x800 ≤ addr ∧ addr < 0x900 ∧ addr % 0x20 = 0x14 then 0xF0000000
  else 0

/-- The reset word of a register; 0 at an unmapped address (R459, R462). -/
def resetWord (addr : Nat) : Word :=
  match regRow addr with
  | some r => BitVec.ofNat 32 (r.reset + indexedReset addr)
  | none => 0

/-- The bits of a register that a domain keeps (R7). -/
def domMask (r : RegRow) (x : Dom) : Nat :=
  (if r.altDom = x then r.altMask else 0)
    ||| (if r.dom = x then 0xFFFFFFFF - r.altMask else 0)

def R.GEN_ID : Nat := 0x0
def F.GEN_ID_part : Fld := ⟨R.GEN_ID, 0, 16⟩
def R.GEN_REV : Nat := 0x4
def F.GEN_REV_rev : Fld := ⟨R.GEN_REV, 0, 8⟩
def R.GEN_ROLE : Nat := 0x8
def F.GEN_ROLE_rec : Fld := ⟨R.GEN_ROLE, 8, 1⟩
def F.GEN_ROLE_straps : Fld := ⟨R.GEN_ROLE, 2, 2⟩
def F.GEN_ROLE_role : Fld := ⟨R.GEN_ROLE, 0, 2⟩
def R.GEN_CAPACITY : Nat := 0xC
def F.GEN_CAPACITY_lanes : Fld := ⟨R.GEN_CAPACITY, 0, 7⟩
def R.GEN_RESET : Nat := 0x10
def F.GEN_RESET_lane : Fld := ⟨R.GEN_RESET, 8, 7⟩
def F.GEN_RESET_lane_go : Fld := ⟨R.GEN_RESET, 2, 1⟩
def F.GEN_RESET_datapath : Fld := ⟨R.GEN_RESET, 1, 1⟩
def F.GEN_RESET_full : Fld := ⟨R.GEN_RESET, 0, 1⟩
def R.GEN_RESET_CAUSE : Nat := 0x14
def F.GEN_RESET_CAUSE_crumb : Fld := ⟨R.GEN_RESET_CAUSE, 13, 1⟩
def F.GEN_RESET_CAUSE_data_seen : Fld := ⟨R.GEN_RESET_CAUSE, 12, 1⟩
def F.GEN_RESET_CAUSE_data_cause : Fld := ⟨R.GEN_RESET_CAUSE, 8, 4⟩
def F.GEN_RESET_CAUSE_cause : Fld := ⟨R.GEN_RESET_CAUSE, 4, 4⟩
def F.GEN_RESET_CAUSE_kind : Fld := ⟨R.GEN_RESET_CAUSE, 0, 4⟩
def R.GEN_STATUS : Nat := 0x18
def F.GEN_STATUS_down_wrap : Fld := ⟨R.GEN_STATUS, 9, 1⟩
def F.GEN_STATUS_collide_wrap : Fld := ⟨R.GEN_STATUS, 8, 1⟩
def F.GEN_STATUS_ready : Fld := ⟨R.GEN_STATUS, 0, 1⟩
def R.GEN_DOWN_ADDR : Nat := 0x1C
def F.GEN_DOWN_ADDR_addr : Fld := ⟨R.GEN_DOWN_ADDR, 0, 16⟩
def R.GEN_SPARE (i : Nat) : Nat := 0x20 + 4 * i
def F.GEN_SPARE_s (i : Nat) : Fld := ⟨R.GEN_SPARE i, 0, 32⟩
def R.GEN_ASSIGNED (i : Nat) : Nat := 0x30 + 4 * i
def F.GEN_ASSIGNED_a (i : Nat) : Fld := ⟨R.GEN_ASSIGNED i, 0, 32⟩
def R.GEN_WAIT : Nat := 0x40
def F.GEN_WAIT_hp : Fld := ⟨R.GEN_WAIT, 24, 8⟩
def F.GEN_WAIT_twb : Fld := ⟨R.GEN_WAIT, 16, 8⟩
def F.GEN_WAIT_cp : Fld := ⟨R.GEN_WAIT, 8, 8⟩
def F.GEN_WAIT_mgmt : Fld := ⟨R.GEN_WAIT, 0, 8⟩
def R.GEN_DOWN_COUNT : Nat := 0x44
def F.GEN_DOWN_COUNT_count : Fld := ⟨R.GEN_DOWN_COUNT, 0, 32⟩
def R.GEN_CTRL : Nat := 0x48
def F.GEN_CTRL_cp_bank : Fld := ⟨R.GEN_CTRL, 8, 8⟩
def F.GEN_CTRL_wait_clr : Fld := ⟨R.GEN_CTRL, 0, 1⟩
def R.GEN_COLLIDE_COUNT : Nat := 0x4C
def F.GEN_COLLIDE_COUNT_count : Fld := ⟨R.GEN_COLLIDE_COUNT, 0, 32⟩
def R.GEN_SCRATCH (i : Nat) : Nat := 0x50 + 4 * i
def F.GEN_SCRATCH_v (i : Nat) : Fld := ⟨R.GEN_SCRATCH i, 0, 32⟩
def R.SENS_TADC01 : Nat := 0x80
def F.SENS_TADC01_t1 : Fld := ⟨R.SENS_TADC01, 16, 16⟩
def F.SENS_TADC01_t0 : Fld := ⟨R.SENS_TADC01, 0, 16⟩
def R.SENS_TADC23 : Nat := 0x84
def F.SENS_TADC23_t3 : Fld := ⟨R.SENS_TADC23, 16, 16⟩
def F.SENS_TADC23_t2 : Fld := ⟨R.SENS_TADC23, 0, 16⟩
def R.SENS_TLANE : Nat := 0x88
def F.SENS_TLANE_t1 : Fld := ⟨R.SENS_TLANE, 16, 16⟩
def F.SENS_TLANE_t0 : Fld := ⟨R.SENS_TLANE, 0, 16⟩
def R.SENS_TCONV : Nat := 0x8C
def F.SENS_TCONV_tmax : Fld := ⟨R.SENS_TCONV, 16, 16⟩
def F.SENS_TCONV_t : Fld := ⟨R.SENS_TCONV, 0, 16⟩
def R.SENS_COAX : Nat := 0x90
def F.SENS_COAX_ma : Fld := ⟨R.SENS_COAX, 16, 16⟩
def F.SENS_COAX_mv : Fld := ⟨R.SENS_COAX, 0, 16⟩
def R.SENS_RAIL : Nat := 0x94
def F.SENS_RAIL_v18 : Fld := ⟨R.SENS_RAIL, 16, 16⟩
def F.SENS_RAIL_vcore : Fld := ⟨R.SENS_RAIL, 0, 16⟩
def R.SENS_V33 : Nat := 0x98
def F.SENS_V33_vkeep : Fld := ⟨R.SENS_V33, 16, 16⟩
def F.SENS_V33_v33 : Fld := ⟨R.SENS_V33, 0, 16⟩
def R.SENS_TLIM : Nat := 0x9C
def F.SENS_TLIM_err : Fld := ⟨R.SENS_TLIM, 8, 8⟩
def F.SENS_TLIM_warn : Fld := ⟨R.SENS_TLIM, 0, 8⟩
def R.SENS_VLIM : Nat := 0xA0
def F.SENS_VLIM_hi : Fld := ⟨R.SENS_VLIM, 8, 8⟩
def F.SENS_VLIM_lo : Fld := ⟨R.SENS_VLIM, 0, 8⟩
def R.SENS_ILIM : Nat := 0xA4
def F.SENS_ILIM_hi : Fld := ⟨R.SENS_ILIM, 0, 8⟩
def R.SENS_STATUS : Nat := 0xA8
def F.SENS_STATUS_conv_wrap : Fld := ⟨R.SENS_STATUS, 9, 1⟩
def F.SENS_STATUS_lim_wrap : Fld := ⟨R.SENS_STATUS, 8, 1⟩
def F.SENS_STATUS_ihi : Fld := ⟨R.SENS_STATUS, 5, 1⟩
def F.SENS_STATUS_vhi : Fld := ⟨R.SENS_STATUS, 4, 1⟩
def F.SENS_STATUS_vlo : Fld := ⟨R.SENS_STATUS, 3, 1⟩
def F.SENS_STATUS_terr : Fld := ⟨R.SENS_STATUS, 2, 1⟩
def F.SENS_STATUS_twarn : Fld := ⟨R.SENS_STATUS, 1, 1⟩
def F.SENS_STATUS_now : Fld := ⟨R.SENS_STATUS, 0, 1⟩
def R.SENS_PEAK : Nat := 0xAC
def F.SENS_PEAK_vmin : Fld := ⟨R.SENS_PEAK, 16, 16⟩
def F.SENS_PEAK_tmax : Fld := ⟨R.SENS_PEAK, 0, 16⟩
def R.SENS_CTRL : Nat := 0xB0
def F.SENS_CTRL_clr : Fld := ⟨R.SENS_CTRL, 0, 1⟩
def R.SENS_LIMIT_COUNT : Nat := 0xB4
def F.SENS_LIMIT_COUNT_count : Fld := ⟨R.SENS_LIMIT_COUNT, 0, 32⟩
def R.SENS_TRIM : Nat := 0xB8
def F.SENS_TRIM_trim : Fld := ⟨R.SENS_TRIM, 0, 28⟩
def R.SENS_CONV_COUNT : Nat := 0xBC
def F.SENS_CONV_COUNT_count : Fld := ⟨R.SENS_CONV_COUNT, 0, 32⟩
def R.RTC_TICK_LO : Nat := 0xC0
def F.RTC_TICK_LO_t : Fld := ⟨R.RTC_TICK_LO, 0, 32⟩
def R.RTC_TICK_HI : Nat := 0xC4
def F.RTC_TICK_HI_t : Fld := ⟨R.RTC_TICK_HI, 0, 16⟩
def R.RTC_WALL_LO : Nat := 0xC8
def F.RTC_WALL_LO_w : Fld := ⟨R.RTC_WALL_LO, 0, 32⟩
def R.RTC_WALL_HI : Nat := 0xCC
def F.RTC_WALL_HI_w : Fld := ⟨R.RTC_WALL_HI, 0, 16⟩
def R.RTC_SECONDS : Nat := 0xD0
def F.RTC_SECONDS_s : Fld := ⟨R.RTC_SECONDS, 0, 32⟩
def R.RTC_EPOCH : Nat := 0xD4
def F.RTC_EPOCH_e : Fld := ⟨R.RTC_EPOCH, 0, 16⟩
def R.RTC_ALARM_LO : Nat := 0xD8
def F.RTC_ALARM_LO_a : Fld := ⟨R.RTC_ALARM_LO, 0, 32⟩
def R.RTC_ALARM_HI : Nat := 0xDC
def F.RTC_ALARM_HI_a : Fld := ⟨R.RTC_ALARM_HI, 0, 16⟩
def R.RTC_CTRL : Nat := 0xE0
def F.RTC_CTRL_s47 : Fld := ⟨R.RTC_CTRL, 8, 1⟩
def F.RTC_CTRL_disarm : Fld := ⟨R.RTC_CTRL, 1, 1⟩
def F.RTC_CTRL_arm : Fld := ⟨R.RTC_CTRL, 0, 1⟩
def R.RTC_STATUS : Nat := 0xE4
def F.RTC_STATUS_back : Fld := ⟨R.RTC_STATUS, 2, 1⟩
def F.RTC_STATUS_stepped : Fld := ⟨R.RTC_STATUS, 1, 1⟩
def F.RTC_STATUS_fired : Fld := ⟨R.RTC_STATUS, 0, 1⟩
def R.SUP_STATE : Nat := 0x100
def F.SUP_STATE_busy : Fld := ⟨R.SUP_STATE, 12, 1⟩
def F.SUP_STATE_init : Fld := ⟨R.SUP_STATE, 8, 2⟩
def F.SUP_STATE_target : Fld := ⟨R.SUP_STATE, 4, 2⟩
def F.SUP_STATE_state : Fld := ⟨R.SUP_STATE, 0, 2⟩
def R.SUP_STATUS : Nat := 0x104
def F.SUP_STATUS_wrap : Fld := ⟨R.SUP_STATUS, 8, 6⟩
def F.SUP_STATUS_ov : Fld := ⟨R.SUP_STATUS, 4, 1⟩
def F.SUP_STATUS_ew_seen : Fld := ⟨R.SUP_STATUS, 3, 1⟩
def F.SUP_STATUS_shed : Fld := ⟨R.SUP_STATUS, 1, 1⟩
def F.SUP_STATUS_ew : Fld := ⟨R.SUP_STATUS, 0, 1⟩
def R.SUP_HOLD_CFG : Nat := 0x108
def F.SUP_HOLD_CFG_cap : Fld := ⟨R.SUP_HOLD_CFG, 0, 10⟩
def R.SUP_HOLD : Nat := 0x10C
def F.SUP_HOLD_ms : Fld := ⟨R.SUP_HOLD, 16, 16⟩
def F.SUP_HOLD_mv : Fld := ⟨R.SUP_HOLD, 0, 16⟩
def R.SUP_RAILS : Nat := 0x110
def F.SUP_RAILS_good : Fld := ⟨R.SUP_RAILS, 0, 3⟩
def R.SUP_PWR : Nat := 0x114
def F.SUP_PWR_feed : Fld := ⟨R.SUP_PWR, 16, 16⟩
def F.SUP_PWR_part : Fld := ⟨R.SUP_PWR, 0, 16⟩
def R.SUP_WDT : Nat := 0x118
def F.SUP_WDT_period : Fld := ⟨R.SUP_WDT, 0, 16⟩
def R.SUP_GLIDE_CFG : Nat := 0x11C
def F.SUP_GLIDE_CFG_rtc_wake : Fld := ⟨R.SUP_GLIDE_CFG, 0, 1⟩
def R.SUP_WAKE : Nat := 0x120
def F.SUP_WAKE_src : Fld := ⟨R.SUP_WAKE, 0, 3⟩
def R.SUP_EW_COUNT : Nat := 0x124
def F.SUP_EW_COUNT_count : Fld := ⟨R.SUP_EW_COUNT, 0, 32⟩
def R.SUP_BOR_COUNT : Nat := 0x128
def F.SUP_BOR_COUNT_count : Fld := ⟨R.SUP_BOR_COUNT, 0, 32⟩
def R.SUP_RAIL_FAULT_COUNT : Nat := 0x12C
def F.SUP_RAIL_FAULT_COUNT_count : Fld := ⟨R.SUP_RAIL_FAULT_COUNT, 0, 32⟩
def R.SUP_OV_COUNT : Nat := 0x130
def F.SUP_OV_COUNT_count : Fld := ⟨R.SUP_OV_COUNT, 0, 32⟩
def R.SUP_STATE_COUNT : Nat := 0x134
def F.SUP_STATE_COUNT_count : Fld := ⟨R.SUP_STATE_COUNT, 0, 32⟩
def R.SUP_SHED_TIME : Nat := 0x138
def F.SUP_SHED_TIME_vmin : Fld := ⟨R.SUP_SHED_TIME, 16, 16⟩
def F.SUP_SHED_TIME_ms : Fld := ⟨R.SUP_SHED_TIME, 0, 16⟩
def R.SUP_WDT_COUNT : Nat := 0x13C
def F.SUP_WDT_COUNT_count : Fld := ⟨R.SUP_WDT_COUNT, 0, 32⟩
def R.SUP_GLIDE_TIME : Nat := 0x140
def F.SUP_GLIDE_TIME_s : Fld := ⟨R.SUP_GLIDE_TIME, 0, 32⟩
def R.SUP_TRANS_TIME : Nat := 0x144
def F.SUP_TRANS_TIME_us : Fld := ⟨R.SUP_TRANS_TIME, 0, 16⟩
def R.CLK_CTRL : Nat := 0x180
def F.CLK_CTRL_relock : Fld := ⟨R.CLK_CTRL, 1, 1⟩
def F.CLK_CTRL_vco_cal : Fld := ⟨R.CLK_CTRL, 0, 1⟩
def R.CLK_STATUS : Nat := 0x184
def F.CLK_STATUS_wrap : Fld := ⟨R.CLK_STATUS, 8, 3⟩
def F.CLK_STATUS_mismatch : Fld := ⟨R.CLK_STATUS, 7, 1⟩
def F.CLK_STATUS_coast_lim : Fld := ⟨R.CLK_STATUS, 6, 1⟩
def F.CLK_STATUS_ref_lost : Fld := ⟨R.CLK_STATUS, 5, 1⟩
def F.CLK_STATUS_lock_sense : Fld := ⟨R.CLK_STATUS, 4, 1⟩
def F.CLK_STATUS_cal_busy : Fld := ⟨R.CLK_STATUS, 3, 1⟩
def F.CLK_STATUS_state : Fld := ⟨R.CLK_STATUS, 0, 3⟩
def R.CLK_VCO : Nat := 0x188
def F.CLK_VCO_band : Fld := ⟨R.CLK_VCO, 16, 6⟩
def F.CLK_VCO_cal_temp : Fld := ⟨R.CLK_VCO, 8, 8⟩
def F.CLK_VCO_ctrl : Fld := ⟨R.CLK_VCO, 0, 8⟩
def R.CLK_PLL_CFG : Nat := 0x18C
def F.CLK_PLL_CFG_cal_delta : Fld := ⟨R.CLK_PLL_CFG, 8, 6⟩
def F.CLK_PLL_CFG_coast_lim : Fld := ⟨R.CLK_PLL_CFG, 0, 8⟩
def R.CLK_OUT (i : Nat) : Nat := 0x190 + 4 * i
def F.CLK_OUT_en (i : Nat) : Fld := ⟨R.CLK_OUT i, 31, 1⟩
def F.CLK_OUT_on (i : Nat) : Fld := ⟨R.CLK_OUT i, 30, 1⟩
def F.CLK_OUT_div (i : Nat) : Fld := ⟨R.CLK_OUT i, 16, 8⟩
def F.CLK_OUT_trim (i : Nat) : Fld := ⟨R.CLK_OUT i, 0, 8⟩
def R.CLK_CONV_CFG : Nat := 0x1A0
def F.CLK_CONV_CFG_mode : Fld := ⟨R.CLK_CONV_CFG, 16, 2⟩
def F.CLK_CONV_CFG_fnom : Fld := ⟨R.CLK_CONV_CFG, 0, 12⟩
def R.CLK_SPREAD : Nat := 0x1A4
def F.CLK_SPREAD_centre : Fld := ⟨R.CLK_SPREAD, 16, 1⟩
def F.CLK_SPREAD_rate : Fld := ⟨R.CLK_SPREAD, 8, 6⟩
def F.CLK_SPREAD_depth : Fld := ⟨R.CLK_SPREAD, 0, 4⟩
def R.CLK_SLALOM : Nat := 0x1A8
def F.CLK_SLALOM_clear : Fld := ⟨R.CLK_SLALOM, 16, 8⟩
def F.CLK_SLALOM_ramp : Fld := ⟨R.CLK_SLALOM, 0, 8⟩
def R.CLK_CONV_NOW : Nat := 0x1AC
def F.CLK_CONV_NOW_clear_now : Fld := ⟨R.CLK_CONV_NOW, 16, 12⟩
def F.CLK_CONV_NOW_mode_now : Fld := ⟨R.CLK_CONV_NOW, 14, 2⟩
def F.CLK_CONV_NOW_f : Fld := ⟨R.CLK_CONV_NOW, 0, 12⟩
def R.CLK_KEEPOUT (i : Nat) : Nat := 0x1B0 + 4 * i
def F.CLK_KEEPOUT_en (i : Nat) : Fld := ⟨R.CLK_KEEPOUT i, 31, 1⟩
def F.CLK_KEEPOUT_hi (i : Nat) : Fld := ⟨R.CLK_KEEPOUT i, 16, 15⟩
def F.CLK_KEEPOUT_lo (i : Nat) : Fld := ⟨R.CLK_KEEPOUT i, 0, 15⟩
def R.CLK_COAST : Nat := 0x1D0
def F.CLK_COAST_time : Fld := ⟨R.CLK_COAST, 16, 16⟩
def F.CLK_COAST_ofs : Fld := ⟨R.CLK_COAST, 0, 16⟩
def R.CLK_LOSS_COUNT : Nat := 0x1D4
def F.CLK_LOSS_COUNT_count : Fld := ⟨R.CLK_LOSS_COUNT, 0, 32⟩
def R.CLK_COAST_COUNT : Nat := 0x1D8
def F.CLK_COAST_COUNT_count : Fld := ⟨R.CLK_COAST_COUNT, 0, 32⟩
def R.CLK_CAL_COUNT : Nat := 0x1DC
def F.CLK_CAL_COUNT_count : Fld := ⟨R.CLK_CAL_COUNT, 0, 32⟩
def R.CLK_REF_MON : Nat := 0x1E0
def F.CLK_REF_MON_ppm : Fld := ⟨R.CLK_REF_MON, 0, 16⟩
def R.CLK_LOCK_TIME : Nat := 0x1E4
def F.CLK_LOCK_TIME_us : Fld := ⟨R.CLK_LOCK_TIME, 0, 16⟩
def R.CLK_XO_CFG : Nat := 0x1E8
def F.CLK_XO_CFG_load : Fld := ⟨R.CLK_XO_CFG, 0, 8⟩
def R.CLK_STEP_CFG : Nat := 0x1EC
def F.CLK_STEP_CFG_gap : Fld := ⟨R.CLK_STEP_CFG, 0, 8⟩
def R.AIN_CFG (a : Nat) : Nat := 0x200 + 0x40 * a
def F.AIN_CFG_presel_auto (a : Nat) : Fld := ⟨R.AIN_CFG a, 3, 1⟩
def F.AIN_CFG_att_auto (a : Nat) : Fld := ⟨R.AIN_CFG a, 2, 1⟩
def F.AIN_CFG_snow_en (a : Nat) : Fld := ⟨R.AIN_CFG a, 1, 1⟩
def F.AIN_CFG_en (a : Nat) : Fld := ⟨R.AIN_CFG a, 0, 1⟩
def R.AIN_FEED (a : Nat) : Nat := 0x204 + 0x40 * a
def F.AIN_FEED_settle (a : Nat) : Fld := ⟨R.AIN_FEED a, 8, 8⟩
def F.AIN_FEED_quiet_on (a : Nat) : Fld := ⟨R.AIN_FEED a, 2, 1⟩
def F.AIN_FEED_volt (a : Nat) : Fld := ⟨R.AIN_FEED a, 1, 1⟩
def F.AIN_FEED_en (a : Nat) : Fld := ⟨R.AIN_FEED a, 0, 1⟩
def R.AIN_PRESEL (a : Nat) : Nat := 0x208 + 0x40 * a
def F.AIN_PRESEL_now (a : Nat) : Fld := ⟨R.AIN_PRESEL a, 4, 3⟩
def F.AIN_PRESEL_sel (a : Nat) : Fld := ⟨R.AIN_PRESEL a, 0, 3⟩
def R.AIN_ATT (a : Nat) : Nat := 0x20C + 0x40 * a
def F.AIN_ATT_total (a : Nat) : Fld := ⟨R.AIN_ATT a, 24, 4⟩
def F.AIN_ATT_snow (a : Nat) : Fld := ⟨R.AIN_ATT a, 16, 4⟩
def F.AIN_ATT_plan (a : Nat) : Fld := ⟨R.AIN_ATT a, 8, 4⟩
def F.AIN_ATT_man (a : Nat) : Fld := ⟨R.AIN_ATT a, 0, 4⟩
def R.AIN_GAINPLAN (a : Nat) : Nat := 0x210 + 0x40 * a
def F.AIN_GAINPLAN_min (a : Nat) : Fld := ⟨R.AIN_GAINPLAN a, 20, 4⟩
def F.AIN_GAINPLAN_max (a : Nat) : Fld := ⟨R.AIN_GAINPLAN a, 16, 4⟩
def F.AIN_GAINPLAN_lo (a : Nat) : Fld := ⟨R.AIN_GAINPLAN a, 8, 8⟩
def F.AIN_GAINPLAN_hi (a : Nat) : Fld := ⟨R.AIN_GAINPLAN a, 0, 8⟩
def R.AIN_STATUS (a : Nat) : Nat := 0x214 + 0x40 * a
def F.AIN_STATUS_presel_mismatch (a : Nat) : Fld := ⟨R.AIN_STATUS a, 21, 1⟩
def F.AIN_STATUS_feed_shed (a : Nat) : Fld := ⟨R.AIN_STATUS a, 20, 1⟩
def F.AIN_STATUS_feed_low (a : Nat) : Fld := ⟨R.AIN_STATUS a, 19, 1⟩
def F.AIN_STATUS_feed_back (a : Nat) : Fld := ⟨R.AIN_STATUS a, 18, 1⟩
def F.AIN_STATUS_feed_short (a : Nat) : Fld := ⟨R.AIN_STATUS a, 17, 1⟩
def F.AIN_STATUS_feed_on (a : Nat) : Fld := ⟨R.AIN_STATUS a, 16, 1⟩
def F.AIN_STATUS_div_wrap (a : Nat) : Fld := ⟨R.AIN_STATUS a, 11, 1⟩
def F.AIN_STATUS_snow_wrap (a : Nat) : Fld := ⟨R.AIN_STATUS a, 10, 1⟩
def F.AIN_STATUS_ovr_wrap (a : Nat) : Fld := ⟨R.AIN_STATUS a, 9, 1⟩
def F.AIN_STATUS_ovr (a : Nat) : Fld := ⟨R.AIN_STATUS a, 8, 1⟩
def F.AIN_STATUS_att_sat (a : Nat) : Fld := ⟨R.AIN_STATUS a, 4, 1⟩
def F.AIN_STATUS_snow (a : Nat) : Fld := ⟨R.AIN_STATUS a, 3, 1⟩
def F.AIN_STATUS_state (a : Nat) : Fld := ⟨R.AIN_STATUS a, 0, 3⟩
def R.AIN_OVR_COUNT (a : Nat) : Nat := 0x218 + 0x40 * a
def F.AIN_OVR_COUNT_count (a : Nat) : Fld := ⟨R.AIN_OVR_COUNT a, 0, 32⟩
def R.AIN_OVR_TIME (a : Nat) : Nat := 0x21C + 0x40 * a
def F.AIN_OVR_TIME_time (a : Nat) : Fld := ⟨R.AIN_OVR_TIME a, 0, 32⟩
def R.AIN_SNOW_COUNT (a : Nat) : Nat := 0x220 + 0x40 * a
def F.AIN_SNOW_COUNT_count (a : Nat) : Fld := ⟨R.AIN_SNOW_COUNT a, 0, 32⟩
def R.AIN_LEVEL (a : Nat) : Nat := 0x224 + 0x40 * a
def F.AIN_LEVEL_rms (a : Nat) : Fld := ⟨R.AIN_LEVEL a, 8, 8⟩
def F.AIN_LEVEL_peak (a : Nat) : Fld := ⟨R.AIN_LEVEL a, 0, 8⟩
def R.AIN_FEED_MON (a : Nat) : Nat := 0x228 + 0x40 * a
def F.AIN_FEED_MON_current (a : Nat) : Fld := ⟨R.AIN_FEED_MON a, 16, 16⟩
def F.AIN_FEED_MON_voltage (a : Nat) : Fld := ⟨R.AIN_FEED_MON a, 0, 16⟩
def R.AIN_DIV_COUNT (a : Nat) : Nat := 0x22C + 0x40 * a
def F.AIN_DIV_COUNT_count (a : Nat) : Fld := ⟨R.AIN_DIV_COUNT a, 0, 32⟩
def R.CAL_CTRL : Nat := 0x300
def F.CAL_CTRL_learn : Fld := ⟨R.CAL_CTRL, 9, 1⟩
def F.CAL_CTRL_limit_en : Fld := ⟨R.CAL_CTRL, 8, 1⟩
def F.CAL_CTRL_run : Fld := ⟨R.CAL_CTRL, 4, 4⟩
def F.CAL_CTRL_auto : Fld := ⟨R.CAL_CTRL, 0, 4⟩
def R.CAL_TRIG_DELTA : Nat := 0x304
def F.CAL_TRIG_DELTA_delta : Fld := ⟨R.CAL_TRIG_DELTA, 0, 6⟩
def R.CAL_STATUS : Nat := 0x308
def F.CAL_STATUS_fail_wrap : Fld := ⟨R.CAL_STATUS, 22, 1⟩
def F.CAL_STATUS_stale_wrap : Fld := ⟨R.CAL_STATUS, 21, 1⟩
def F.CAL_STATUS_run_wrap : Fld := ⟨R.CAL_STATUS, 20, 1⟩
def F.CAL_STATUS_no_set : Fld := ⟨R.CAL_STATUS, 16, 4⟩
def F.CAL_STATUS_skew_held : Fld := ⟨R.CAL_STATUS, 12, 4⟩
def F.CAL_STATUS_busy : Fld := ⟨R.CAL_STATUS, 8, 4⟩
def F.CAL_STATUS_fail : Fld := ⟨R.CAL_STATUS, 4, 4⟩
def F.CAL_STATUS_stale_load : Fld := ⟨R.CAL_STATUS, 0, 4⟩
def R.CAL_LOAD : Nat := 0x30C
def F.CAL_LOAD_bucket : Fld := ⟨R.CAL_LOAD, 8, 2⟩
def F.CAL_LOAD_lanes : Fld := ⟨R.CAL_LOAD, 0, 7⟩
def R.CAL_SPUR : Nat := 0x310
def F.CAL_SPUR_s : Fld := ⟨R.CAL_SPUR, 0, 32⟩
def R.CAL_SPUR_LIMIT : Nat := 0x314
def F.CAL_SPUR_LIMIT_limit : Fld := ⟨R.CAL_SPUR_LIMIT, 0, 8⟩
def R.CAL_TLAST : Nat := 0x318
def F.CAL_TLAST_t : Fld := ⟨R.CAL_TLAST, 0, 32⟩
def R.CAL_RUN_COUNT : Nat := 0x31C
def F.CAL_RUN_COUNT_count : Fld := ⟨R.CAL_RUN_COUNT, 0, 32⟩
def R.CAL_VIEW_SEL : Nat := 0x320
def F.CAL_VIEW_SEL_set : Fld := ⟨R.CAL_VIEW_SEL, 4, 4⟩
def F.CAL_VIEW_SEL_ain : Fld := ⟨R.CAL_VIEW_SEL, 0, 2⟩
def R.CAL_VIEW_TAG : Nat := 0x324
def F.CAL_VIEW_TAG_valid : Fld := ⟨R.CAL_VIEW_TAG, 31, 1⟩
def F.CAL_VIEW_TAG_bucket : Fld := ⟨R.CAL_VIEW_TAG, 24, 2⟩
def F.CAL_VIEW_TAG_temp : Fld := ⟨R.CAL_VIEW_TAG, 16, 8⟩
def F.CAL_VIEW_TAG_age : Fld := ⟨R.CAL_VIEW_TAG, 0, 16⟩
def R.CAL_VIEW_GAIN01 : Nat := 0x328
def F.CAL_VIEW_GAIN01_hi : Fld := ⟨R.CAL_VIEW_GAIN01, 16, 16⟩
def F.CAL_VIEW_GAIN01_lo : Fld := ⟨R.CAL_VIEW_GAIN01, 0, 16⟩
def R.CAL_VIEW_GAIN23 : Nat := 0x32C
def F.CAL_VIEW_GAIN23_hi : Fld := ⟨R.CAL_VIEW_GAIN23, 16, 16⟩
def F.CAL_VIEW_GAIN23_lo : Fld := ⟨R.CAL_VIEW_GAIN23, 0, 16⟩
def R.CAL_VIEW_OFFS01 : Nat := 0x330
def F.CAL_VIEW_OFFS01_hi : Fld := ⟨R.CAL_VIEW_OFFS01, 16, 16⟩
def F.CAL_VIEW_OFFS01_lo : Fld := ⟨R.CAL_VIEW_OFFS01, 0, 16⟩
def R.CAL_VIEW_OFFS23 : Nat := 0x334
def F.CAL_VIEW_OFFS23_hi : Fld := ⟨R.CAL_VIEW_OFFS23, 16, 16⟩
def F.CAL_VIEW_OFFS23_lo : Fld := ⟨R.CAL_VIEW_OFFS23, 0, 16⟩
def R.CAL_VIEW_SKEW01 : Nat := 0x338
def F.CAL_VIEW_SKEW01_hi : Fld := ⟨R.CAL_VIEW_SKEW01, 16, 16⟩
def F.CAL_VIEW_SKEW01_lo : Fld := ⟨R.CAL_VIEW_SKEW01, 0, 16⟩
def R.CAL_VIEW_SKEW23 : Nat := 0x33C
def F.CAL_VIEW_SKEW23_hi : Fld := ⟨R.CAL_VIEW_SKEW23, 16, 16⟩
def F.CAL_VIEW_SKEW23_lo : Fld := ⟨R.CAL_VIEW_SKEW23, 0, 16⟩
def R.CAL_SETS : Nat := 0x340
def F.CAL_SETS_n : Fld := ⟨R.CAL_SETS, 0, 32⟩
def R.CAL_LAST_TIME : Nat := 0x344
def F.CAL_LAST_TIME_time : Fld := ⟨R.CAL_LAST_TIME, 0, 32⟩
def R.CAL_STALE_COUNT : Nat := 0x348
def F.CAL_STALE_COUNT_count : Fld := ⟨R.CAL_STALE_COUNT, 0, 32⟩
def R.CAL_FAIL_COUNT : Nat := 0x34C
def F.CAL_FAIL_COUNT_count : Fld := ⟨R.CAL_FAIL_COUNT, 0, 32⟩
def R.SPL_CTRL : Nat := 0x380
def F.SPL_CTRL_force_taint : Fld := ⟨R.SPL_CTRL, 0, 4⟩
def R.SPL_STATUS : Nat := 0x384
def F.SPL_STATUS_reject_wrap : Fld := ⟨R.SPL_STATUS, 8, 1⟩
def F.SPL_STATUS_taint_wrap : Fld := ⟨R.SPL_STATUS, 4, 4⟩
def F.SPL_STATUS_taint : Fld := ⟨R.SPL_STATUS, 0, 4⟩
def R.SPL_CAP (i : Nat) : Nat := 0x388 + 4 * i
def F.SPL_CAP_lanes1 (i : Nat) : Fld := ⟨R.SPL_CAP i, 24, 8⟩
def F.SPL_CAP_k0_1 (i : Nat) : Fld := ⟨R.SPL_CAP i, 16, 8⟩
def F.SPL_CAP_lanes0 (i : Nat) : Fld := ⟨R.SPL_CAP i, 8, 8⟩
def F.SPL_CAP_k0_0 (i : Nat) : Fld := ⟨R.SPL_CAP i, 0, 8⟩
def R.SPL_TAINT (i : Nat) : Nat := 0x398 + 4 * i
def F.SPL_TAINT_count (i : Nat) : Fld := ⟨R.SPL_TAINT i, 0, 32⟩
def R.SPL_ROUTES : Nat := 0x3A8
def F.SPL_ROUTES_n : Fld := ⟨R.SPL_ROUTES, 0, 32⟩
def R.SPL_REJECT_COUNT : Nat := 0x3AC
def F.SPL_REJECT_COUNT_count : Fld := ⟨R.SPL_REJECT_COUNT, 0, 32⟩
def R.SPL_FPHASE : Nat := 0x3B0
def F.SPL_FPHASE_phase : Fld := ⟨R.SPL_FPHASE, 0, 32⟩
def R.SPL_EPOCH_LO : Nat := 0x3B4
def F.SPL_EPOCH_LO_t0 : Fld := ⟨R.SPL_EPOCH_LO, 0, 32⟩
def R.SPL_EPOCH_HI : Nat := 0x3B8
def F.SPL_EPOCH_HI_t0 : Fld := ⟨R.SPL_EPOCH_HI, 0, 32⟩
def R.SPL_BIST : Nat := 0x3BC
def F.SPL_BIST_result : Fld := ⟨R.SPL_BIST, 8, 8⟩
def F.SPL_BIST_busy : Fld := ⟨R.SPL_BIST, 0, 4⟩
def R.LINK_PHY_CFG : Nat := 0x400
def F.LINK_PHY_CFG_ubmax : Fld := ⟨R.LINK_PHY_CFG, 12, 3⟩
def F.LINK_PHY_CFG_bmax : Fld := ⟨R.LINK_PHY_CFG, 8, 4⟩
def F.LINK_PHY_CFG_margin : Fld := ⟨R.LINK_PHY_CFG, 0, 8⟩
def R.LINK_SYNC_TOL : Nat := 0x404
def F.LINK_SYNC_TOL_tol : Fld := ⟨R.LINK_SYNC_TOL, 0, 4⟩
def R.LINK_TX_CFG : Nat := 0x408
def F.LINK_TX_CFG_tilt : Fld := ⟨R.LINK_TX_CFG, 8, 6⟩
def F.LINK_TX_CFG_atten : Fld := ⟨R.LINK_TX_CFG, 0, 6⟩
def R.LINK_PHY_STATUS : Nat := 0x40C
def F.LINK_PHY_STATUS_fix_wrap : Fld := ⟨R.LINK_PHY_STATUS, 9, 1⟩
def F.LINK_PHY_STATUS_miss_wrap : Fld := ⟨R.LINK_PHY_STATUS, 8, 1⟩
def F.LINK_PHY_STATUS_ramp : Fld := ⟨R.LINK_PHY_STATUS, 7, 1⟩
def F.LINK_PHY_STATUS_tx_on : Fld := ⟨R.LINK_PHY_STATUS, 6, 1⟩
def F.LINK_PHY_STATUS_track_lim : Fld := ⟨R.LINK_PHY_STATUS, 5, 1⟩
def F.LINK_PHY_STATUS_agc_lim : Fld := ⟨R.LINK_PHY_STATUS, 4, 1⟩
def F.LINK_PHY_STATUS_rx : Fld := ⟨R.LINK_PHY_STATUS, 0, 2⟩
def R.LINK_AGC : Nat := 0x410
def F.LINK_AGC_frozen : Fld := ⟨R.LINK_AGC, 16, 1⟩
def F.LINK_AGC_gain : Fld := ⟨R.LINK_AGC, 0, 7⟩
def R.LINK_TRACK : Nat := 0x414
def F.LINK_TRACK_cfo : Fld := ⟨R.LINK_TRACK, 16, 16⟩
def F.LINK_TRACK_sco : Fld := ⟨R.LINK_TRACK, 0, 16⟩
def R.LINK_SNR : Nat := 0x418
def F.LINK_SNR_up_min : Fld := ⟨R.LINK_SNR, 24, 8⟩
def F.LINK_SNR_dn_mean : Fld := ⟨R.LINK_SNR, 16, 8⟩
def F.LINK_SNR_dn_min : Fld := ⟨R.LINK_SNR, 8, 8⟩
def F.LINK_SNR_dn_worst : Fld := ⟨R.LINK_SNR, 0, 6⟩
def R.LINK_SYNC_MISS_COUNT : Nat := 0x41C
def F.LINK_SYNC_MISS_COUNT_count : Fld := ⟨R.LINK_SYNC_MISS_COUNT, 0, 32⟩
def R.LINK_SYNC_FIX_COUNT : Nat := 0x420
def F.LINK_SYNC_FIX_COUNT_count : Fld := ⟨R.LINK_SYNC_FIX_COUNT, 0, 32⟩
def R.LINK_WSP_CFG : Nat := 0x424
def F.LINK_WSP_CFG_err_wrap : Fld := ⟨R.LINK_WSP_CFG, 9, 1⟩
def F.LINK_WSP_CFG_rx_wrap : Fld := ⟨R.LINK_WSP_CFG, 8, 1⟩
def F.LINK_WSP_CFG_reset_en : Fld := ⟨R.LINK_WSP_CFG, 1, 1⟩
def F.LINK_WSP_CFG_wake_en : Fld := ⟨R.LINK_WSP_CFG, 0, 1⟩
def R.LINK_WSP_PATTERN : Nat := 0x428
def F.LINK_WSP_PATTERN_pat : Fld := ⟨R.LINK_WSP_PATTERN, 0, 32⟩
def R.LINK_WSP_TX : Nat := 0x42C
def F.LINK_WSP_TX_send : Fld := ⟨R.LINK_WSP_TX, 31, 1⟩
def F.LINK_WSP_TX_cmd : Fld := ⟨R.LINK_WSP_TX, 0, 8⟩
def R.LINK_WSP_RX_COUNT : Nat := 0x430
def F.LINK_WSP_RX_COUNT_count : Fld := ⟨R.LINK_WSP_RX_COUNT, 0, 32⟩
def R.LINK_WSP_ERR_COUNT : Nat := 0x434
def F.LINK_WSP_ERR_COUNT_count : Fld := ⟨R.LINK_WSP_ERR_COUNT, 0, 32⟩
def R.LINK_NOTCH (i : Nat) : Nat := 0x440 + 4 * i
def F.LINK_NOTCH_en (i : Nat) : Fld := ⟨R.LINK_NOTCH i, 31, 1⟩
def F.LINK_NOTCH_dir (i : Nat) : Fld := ⟨R.LINK_NOTCH i, 30, 1⟩
def F.LINK_NOTCH_hi (i : Nat) : Fld := ⟨R.LINK_NOTCH i, 16, 12⟩
def F.LINK_NOTCH_lo (i : Nat) : Fld := ⟨R.LINK_NOTCH i, 0, 12⟩
def R.LINK_CTRL : Nat := 0x480
def F.LINK_CTRL_restart : Fld := ⟨R.LINK_CTRL, 8, 1⟩
def F.LINK_CTRL_auto : Fld := ⟨R.LINK_CTRL, 0, 1⟩
def R.LINK_STATE : Nat := 0x484
def F.LINK_STATE_umap : Fld := ⟨R.LINK_STATE, 24, 8⟩
def F.LINK_STATE_dmap : Fld := ⟨R.LINK_STATE, 16, 8⟩
def F.LINK_STATE_state : Fld := ⟨R.LINK_STATE, 0, 4⟩
def R.LINK_LATENCY : Nat := 0x488
def F.LINK_LATENCY_us : Fld := ⟨R.LINK_LATENCY, 0, 11⟩
def R.LINK_MAP_CFG : Nat := 0x48C
def F.LINK_MAP_CFG_lead : Fld := ⟨R.LINK_MAP_CFG, 8, 8⟩
def F.LINK_MAP_CFG_rate : Fld := ⟨R.LINK_MAP_CFG, 0, 2⟩
def R.LINK_TRAIN : Nat := 0x490
def F.LINK_TRAIN_n : Fld := ⟨R.LINK_TRAIN, 0, 32⟩
def R.LINK_MAP_STATUS : Nat := 0x494
def F.LINK_MAP_STATUS_u_held : Fld := ⟨R.LINK_MAP_STATUS, 24, 8⟩
def F.LINK_MAP_STATUS_u_next : Fld := ⟨R.LINK_MAP_STATUS, 16, 8⟩
def F.LINK_MAP_STATUS_d_held : Fld := ⟨R.LINK_MAP_STATUS, 8, 8⟩
def F.LINK_MAP_STATUS_d_next : Fld := ⟨R.LINK_MAP_STATUS, 0, 8⟩
def R.LINK_DN_AT : Nat := 0x498
def F.LINK_DN_AT_s : Fld := ⟨R.LINK_DN_AT, 0, 32⟩
def R.LINK_UP_AT : Nat := 0x49C
def F.LINK_UP_AT_s : Fld := ⟨R.LINK_UP_AT, 0, 32⟩
def R.LINK_HDR_PREDICTED : Nat := 0x4A0
def F.LINK_HDR_PREDICTED_count : Fld := ⟨R.LINK_HDR_PREDICTED, 0, 32⟩
def R.LINK_HDR_BAD_COUNT : Nat := 0x4A4
def F.LINK_HDR_BAD_COUNT_count : Fld := ⟨R.LINK_HDR_BAD_COUNT, 0, 32⟩
def R.LINK_CW_FAIL_COUNT : Nat := 0x4A8
def F.LINK_CW_FAIL_COUNT_count : Fld := ⟨R.LINK_CW_FAIL_COUNT, 0, 32⟩
def R.LINK_CRC_FAIL_COUNT : Nat := 0x4AC
def F.LINK_CRC_FAIL_COUNT_count : Fld := ⟨R.LINK_CRC_FAIL_COUNT, 0, 32⟩
def R.LINK_SEG_DROP_COUNT : Nat := 0x4B0
def F.LINK_SEG_DROP_COUNT_count : Fld := ⟨R.LINK_SEG_DROP_COUNT, 0, 32⟩
def R.LINK_UP_BAD_COUNT : Nat := 0x4B4
def F.LINK_UP_BAD_COUNT_count : Fld := ⟨R.LINK_UP_BAD_COUNT, 0, 32⟩
def R.LINK_LOST_COUNT : Nat := 0x4B8
def F.LINK_LOST_COUNT_count : Fld := ⟨R.LINK_LOST_COUNT, 0, 32⟩
def R.LINK_VIOL_COUNT : Nat := 0x4BC
def F.LINK_VIOL_COUNT_count : Fld := ⟨R.LINK_VIOL_COUNT, 0, 32⟩
def R.LINK_CP_CFG : Nat := 0x4C0
def F.LINK_CP_CFG_wr_en : Fld := ⟨R.LINK_CP_CFG, 16, 1⟩
def F.LINK_CP_CFG_tmo : Fld := ⟨R.LINK_CP_CFG, 0, 8⟩
def R.LINK_PROTO_STATUS : Nat := 0x4C4
def F.LINK_PROTO_STATUS_cp_out : Fld := ⟨R.LINK_PROTO_STATUS, 16, 3⟩
def F.LINK_PROTO_STATUS_wrap : Fld := ⟨R.LINK_PROTO_STATUS, 0, 10⟩
def R.LINK_CP_RETRY_COUNT : Nat := 0x4C8
def F.LINK_CP_RETRY_COUNT_count : Fld := ⟨R.LINK_CP_RETRY_COUNT, 0, 32⟩
def R.LINK_RTT : Nat := 0x4CC
def F.LINK_RTT_ns : Fld := ⟨R.LINK_RTT, 0, 16⟩
def R.LINK_DN_CAP : Nat := 0x4D0
def F.LINK_DN_CAP_bytes : Fld := ⟨R.LINK_DN_CAP, 0, 32⟩
def R.LINK_UP_CAP : Nat := 0x4D4
def F.LINK_UP_CAP_bytes : Fld := ⟨R.LINK_UP_CAP, 0, 32⟩
def R.LINK_TIME_CFG : Nat := 0x4D8
def F.LINK_TIME_CFG_tol : Fld := ⟨R.LINK_TIME_CFG, 0, 8⟩
def R.LINK_TIME_STATUS : Nat := 0x4DC
def F.LINK_TIME_STATUS_delta : Fld := ⟨R.LINK_TIME_STATUS, 0, 32⟩
def R.LINK_TRAIN_COUNT : Nat := 0x4E0
def F.LINK_TRAIN_COUNT_count : Fld := ⟨R.LINK_TRAIN_COUNT, 0, 32⟩
def R.APORT_CFG (p : Nat) : Nat := 0x500 + 0x40 * p
def F.APORT_CFG_en (p : Nat) : Fld := ⟨R.APORT_CFG p, 31, 1⟩
def F.APORT_CFG_sync_start (p : Nat) : Fld := ⟨R.APORT_CFG p, 30, 1⟩
def F.APORT_CFG_clksrc (p : Nat) : Fld := ⟨R.APORT_CFG p, 29, 1⟩
def F.APORT_CFG_bclk_inv (p : Nat) : Fld := ⟨R.APORT_CFG p, 28, 1⟩
def F.APORT_CFG_fs_inv (p : Nat) : Fld := ⟨R.APORT_CFG p, 27, 1⟩
def F.APORT_CFG_fs_len (p : Nat) : Fld := ⟨R.APORT_CFG p, 26, 1⟩
def F.APORT_CFG_delay (p : Nat) : Fld := ⟨R.APORT_CFG p, 25, 1⟩
def F.APORT_CFG_width (p : Nat) : Fld := ⟨R.APORT_CFG p, 22, 2⟩
def F.APORT_CFG_slots (p : Nat) : Fld := ⟨R.APORT_CFG p, 16, 6⟩
def R.APORT_MAP (p i : Nat) : Nat := 0x504 + 0x40 * p + 4 * i
def F.APORT_MAP_en (p i : Nat) : Fld := ⟨R.APORT_MAP p i, 31, 1⟩
def F.APORT_MAP_bad (p i : Nat) : Fld := ⟨R.APORT_MAP p i, 30, 1⟩
def F.APORT_MAP_slot0 (p i : Nat) : Fld := ⟨R.APORT_MAP p i, 24, 5⟩
def F.APORT_MAP_n (p i : Nat) : Fld := ⟨R.APORT_MAP p i, 16, 6⟩
def F.APORT_MAP_ch0 (p i : Nat) : Fld := ⟨R.APORT_MAP p i, 8, 5⟩
def F.APORT_MAP_carr (p i : Nat) : Fld := ⟨R.APORT_MAP p i, 0, 8⟩
def R.APORT_FADE (p : Nat) : Nat := 0x514 + 0x40 * p
def F.APORT_FADE_ramp (p : Nat) : Fld := ⟨R.APORT_FADE p, 16, 8⟩
def F.APORT_FADE_fade (p : Nat) : Fld := ⟨R.APORT_FADE p, 0, 8⟩
def R.APORT_STATUS (p : Nat) : Nat := 0x518 + 0x40 * p
def F.APORT_STATUS_over_wrap (p : Nat) : Fld := ⟨R.APORT_STATUS p, 11, 1⟩
def F.APORT_STATUS_under_wrap (p : Nat) : Fld := ⟨R.APORT_STATUS p, 10, 1⟩
def F.APORT_STATUS_slip_wrap (p : Nat) : Fld := ⟨R.APORT_STATUS p, 9, 1⟩
def F.APORT_STATUS_din (p : Nat) : Fld := ⟨R.APORT_STATUS p, 8, 1⟩
def F.APORT_STATUS_no_link (p : Nat) : Fld := ⟨R.APORT_STATUS p, 7, 1⟩
def F.APORT_STATUS_nonpcm (p : Nat) : Fld := ⟨R.APORT_STATUS p, 6, 1⟩
def F.APORT_STATUS_contend (p : Nat) : Fld := ⟨R.APORT_STATUS p, 5, 1⟩
def F.APORT_STATUS_overrun (p : Nat) : Fld := ⟨R.APORT_STATUS p, 4, 1⟩
def F.APORT_STATUS_underrun (p : Nat) : Fld := ⟨R.APORT_STATUS p, 3, 1⟩
def F.APORT_STATUS_fading (p : Nat) : Fld := ⟨R.APORT_STATUS p, 2, 1⟩
def F.APORT_STATUS_state (p : Nat) : Fld := ⟨R.APORT_STATUS p, 0, 2⟩
def R.APORT_SLIP (p : Nat) : Nat := 0x51C + 0x40 * p
def F.APORT_SLIP_count (p : Nat) : Fld := ⟨R.APORT_SLIP p, 0, 32⟩
def R.APORT_UNDER_COUNT (p : Nat) : Nat := 0x520 + 0x40 * p
def F.APORT_UNDER_COUNT_count (p : Nat) : Fld := ⟨R.APORT_UNDER_COUNT p, 0, 32⟩
def R.APORT_OVER_COUNT (p : Nat) : Nat := 0x524 + 0x40 * p
def F.APORT_OVER_COUNT_count (p : Nat) : Fld := ⟨R.APORT_OVER_COUNT p, 0, 32⟩
def R.HOST_CFG : Nat := 0x600
def F.HOST_CFG_bank_inc : Fld := ⟨R.HOST_CFG, 8, 1⟩
def F.HOST_CFG_dummy : Fld := ⟨R.HOST_CFG, 0, 5⟩
def R.HOST_STATUS : Nat := 0x604
def F.HOST_STATUS_cfg_bad : Fld := ⟨R.HOST_STATUS, 6, 1⟩
def F.HOST_STATUS_ovf_wrap : Fld := ⟨R.HOST_STATUS, 5, 1⟩
def F.HOST_STATUS_viol_wrap : Fld := ⟨R.HOST_STATUS, 4, 1⟩
def F.HOST_STATUS_priv_ovf : Fld := ⟨R.HOST_STATUS, 3, 1⟩
def F.HOST_STATUS_ring_ovf : Fld := ⟨R.HOST_STATUS, 2, 1⟩
def F.HOST_STATUS_viol : Fld := ⟨R.HOST_STATUS, 1, 1⟩
def F.HOST_STATUS_late : Fld := ⟨R.HOST_STATUS, 0, 1⟩
def R.HOST_BANK : Nat := 0x608
def F.HOST_BANK_bank : Fld := ⟨R.HOST_BANK, 0, 8⟩
def R.HOST_RING_CFG : Nat := 0x60C
def F.HOST_RING_CFG_en : Fld := ⟨R.HOST_RING_CFG, 31, 1⟩
def F.HOST_RING_CFG_pack4 : Fld := ⟨R.HOST_RING_CFG, 30, 1⟩
def F.HOST_RING_CFG_no_aport : Fld := ⟨R.HOST_RING_CFG, 29, 1⟩
def F.HOST_RING_CFG_types : Fld := ⟨R.HOST_RING_CFG, 24, 5⟩
def F.HOST_RING_CFG_pages : Fld := ⟨R.HOST_RING_CFG, 8, 8⟩
def F.HOST_RING_CFG_first : Fld := ⟨R.HOST_RING_CFG, 0, 8⟩
def R.HOST_RING_WR : Nat := 0x610
def F.HOST_RING_WR_wr : Fld := ⟨R.HOST_RING_WR, 0, 22⟩
def R.HOST_RING_RD : Nat := 0x614
def F.HOST_RING_RD_rd : Fld := ⟨R.HOST_RING_RD, 0, 22⟩
def R.HOST_PRIV_SEL : Nat := 0x618
def F.HOST_PRIV_SEL_slot : Fld := ⟨R.HOST_PRIV_SEL, 0, 3⟩
def R.HOST_PRIV_CFG : Nat := 0x61C
def F.HOST_PRIV_CFG_en : Fld := ⟨R.HOST_PRIV_CFG, 31, 1⟩
def F.HOST_PRIV_CFG_pack4 : Fld := ⟨R.HOST_PRIV_CFG, 30, 1⟩
def F.HOST_PRIV_CFG_len : Fld := ⟨R.HOST_PRIV_CFG, 16, 4⟩
def F.HOST_PRIV_CFG_first : Fld := ⟨R.HOST_PRIV_CFG, 8, 8⟩
def F.HOST_PRIV_CFG_carr : Fld := ⟨R.HOST_PRIV_CFG, 0, 8⟩
def R.HOST_PRIV_POS : Nat := 0x620
def F.HOST_PRIV_POS_rd : Fld := ⟨R.HOST_PRIV_POS, 16, 16⟩
def F.HOST_PRIV_POS_wr : Fld := ⟨R.HOST_PRIV_POS, 0, 16⟩
def R.HOST_OVF_COUNT : Nat := 0x624
def F.HOST_OVF_COUNT_count : Fld := ⟨R.HOST_OVF_COUNT, 0, 32⟩
def R.HOST_VIOL_COUNT : Nat := 0x628
def F.HOST_VIOL_COUNT_count : Fld := ⟨R.HOST_VIOL_COUNT, 0, 32⟩
def R.HOST_IRQ : Nat := 0x62C
def F.HOST_IRQ_ring_ie : Fld := ⟨R.HOST_IRQ, 31, 1⟩
def F.HOST_IRQ_priv_ie : Fld := ⟨R.HOST_IRQ, 30, 1⟩
def F.HOST_IRQ_viol_ie : Fld := ⟨R.HOST_IRQ, 29, 1⟩
def F.HOST_IRQ_ring_thr : Fld := ⟨R.HOST_IRQ, 0, 12⟩
def R.TWB_CFG : Nat := 0x640
def F.TWB_CFG_glide_match : Fld := ⟨R.TWB_CFG, 10, 1⟩
def F.TWB_CFG_mspeed : Fld := ⟨R.TWB_CFG, 8, 2⟩
def F.TWB_CFG_gmode : Fld := ⟨R.TWB_CFG, 4, 1⟩
def F.TWB_CFG_filt : Fld := ⟨R.TWB_CFG, 0, 4⟩
def R.TWB_TIMING : Nat := 0x644
def F.TWB_TIMING_tsu : Fld := ⟨R.TWB_TIMING, 8, 8⟩
def F.TWB_TIMING_thd : Fld := ⟨R.TWB_TIMING, 0, 8⟩
def R.TWB_ATTN_CFG : Nat := 0x648
def F.TWB_ATTN_CFG_en : Fld := ⟨R.TWB_ATTN_CFG, 31, 1⟩
def F.TWB_ATTN_CFG_busy : Fld := ⟨R.TWB_ATTN_CFG, 30, 1⟩
def F.TWB_ATTN_CFG_seq : Fld := ⟨R.TWB_ATTN_CFG, 16, 8⟩
def F.TWB_ATTN_CFG_haddr : Fld := ⟨R.TWB_ATTN_CFG, 0, 7⟩
def R.TWB_STATUS : Nat := 0x64C
def F.TWB_STATUS_wrap : Fld := ⟨R.TWB_STATUS, 8, 7⟩
def F.TWB_STATUS_role : Fld := ⟨R.TWB_STATUS, 2, 2⟩
def F.TWB_STATUS_addr : Fld := ⟨R.TWB_STATUS, 0, 2⟩
def R.TWB_ERR : Nat := 0x650
def F.TWB_ERR_arb_cond : Fld := ⟨R.TWB_ERR, 5, 1⟩
def F.TWB_ERR_bus_err : Fld := ⟨R.TWB_ERR, 4, 1⟩
def F.TWB_ERR_stuck : Fld := ⟨R.TWB_ERR, 3, 1⟩
def F.TWB_ERR_partial : Fld := ⟨R.TWB_ERR, 2, 1⟩
def F.TWB_ERR_viol : Fld := ⟨R.TWB_ERR, 1, 1⟩
def F.TWB_ERR_drop : Fld := ⟨R.TWB_ERR, 0, 1⟩
def R.TWB_PTR : Nat := 0x654
def F.TWB_PTR_ptr : Fld := ⟨R.TWB_PTR, 0, 16⟩
def R.TWB_BANK : Nat := 0x658
def F.TWB_BANK_bank : Fld := ⟨R.TWB_BANK, 0, 8⟩
def R.TWB_LOST : Nat := 0x65C
def F.TWB_LOST_count : Fld := ⟨R.TWB_LOST, 0, 32⟩
def R.TWB_NACK_COUNT : Nat := 0x660
def F.TWB_NACK_COUNT_count : Fld := ⟨R.TWB_NACK_COUNT, 0, 32⟩
def R.TWB_ATTN_SENT : Nat := 0x664
def F.TWB_ATTN_SENT_count : Fld := ⟨R.TWB_ATTN_SENT, 0, 32⟩
def R.TWB_ATTN_DROP_COUNT : Nat := 0x668
def F.TWB_ATTN_DROP_COUNT_count : Fld := ⟨R.TWB_ATTN_DROP_COUNT, 0, 32⟩
def R.TWB_VIOL_COUNT : Nat := 0x66C
def F.TWB_VIOL_COUNT_count : Fld := ⟨R.TWB_VIOL_COUNT, 0, 32⟩
def R.TWB_WAKE_COUNT : Nat := 0x670
def F.TWB_WAKE_COUNT_count : Fld := ⟨R.TWB_WAKE_COUNT, 0, 32⟩
def R.TWB_XFER_COUNT : Nat := 0x674
def F.TWB_XFER_COUNT_count : Fld := ⟨R.TWB_XFER_COUNT, 0, 32⟩
def R.BIST_CTRL : Nat := 0x680
def F.BIST_CTRL_abort : Fld := ⟨R.BIST_CTRL, 1, 1⟩
def F.BIST_CTRL_en : Fld := ⟨R.BIST_CTRL, 0, 1⟩
def R.BIST_LANE_PERIOD : Nat := 0x684
def F.BIST_LANE_PERIOD_s : Fld := ⟨R.BIST_LANE_PERIOD, 0, 16⟩
def R.BIST_STATUS : Nat := 0x688
def F.BIST_STATUS_busy : Fld := ⟨R.BIST_STATUS, 31, 1⟩
def F.BIST_STATUS_lane : Fld := ⟨R.BIST_STATUS, 24, 7⟩
def F.BIST_STATUS_dest : Fld := ⟨R.BIST_STATUS, 16, 7⟩
def F.BIST_STATUS_phase : Fld := ⟨R.BIST_STATUS, 12, 4⟩
def F.BIST_STATUS_no_dest : Fld := ⟨R.BIST_STATUS, 4, 1⟩
def F.BIST_STATUS_cap_low : Fld := ⟨R.BIST_STATUS, 3, 1⟩
def F.BIST_STATUS_run_wrap : Fld := ⟨R.BIST_STATUS, 2, 1⟩
def F.BIST_STATUS_fail_new : Fld := ⟨R.BIST_STATUS, 1, 1⟩
def F.BIST_STATUS_paused : Fld := ⟨R.BIST_STATUS, 0, 1⟩
def R.BIST_SPARES : Nat := 0x68C
def F.BIST_SPARES_failed : Fld := ⟨R.BIST_SPARES, 16, 8⟩
def F.BIST_SPARES_spares : Fld := ⟨R.BIST_SPARES, 8, 8⟩
def F.BIST_SPARES_next : Fld := ⟨R.BIST_SPARES, 0, 8⟩
def R.BIST_FAILED (i : Nat) : Nat := 0x690 + 4 * i
def F.BIST_FAILED_f (i : Nat) : Fld := ⟨R.BIST_FAILED i, 0, 32⟩
def R.BIST_LAST : Nat := 0x6A0
def F.BIST_LAST_fail : Fld := ⟨R.BIST_LAST, 8, 1⟩
def F.BIST_LAST_lane : Fld := ⟨R.BIST_LAST, 0, 7⟩
def R.BIST_RUN_COUNT : Nat := 0x6A4
def F.BIST_RUN_COUNT_count : Fld := ⟨R.BIST_RUN_COUNT, 0, 32⟩
def R.STORE_STATUS : Nat := 0x6C0
def F.STORE_STATUS_wrap : Fld := ⟨R.STORE_STATUS, 16, 3⟩
def F.STORE_STATUS_recovery : Fld := ⟨R.STORE_STATUS, 15, 1⟩
def F.STORE_STATUS_dev_fault : Fld := ⟨R.STORE_STATUS, 14, 1⟩
def F.STORE_STATUS_maint_due : Fld := ⟨R.STORE_STATUS, 13, 1⟩
def F.STORE_STATUS_cfg_defaults : Fld := ⟨R.STORE_STATUS, 12, 1⟩
def F.STORE_STATUS_worn : Fld := ⟨R.STORE_STATUS, 11, 1⟩
def F.STORE_STATUS_cfg_b_valid : Fld := ⟨R.STORE_STATUS, 10, 1⟩
def F.STORE_STATUS_cfg_a_valid : Fld := ⟨R.STORE_STATUS, 9, 1⟩
def F.STORE_STATUS_cfg_in_force : Fld := ⟨R.STORE_STATUS, 8, 1⟩
def F.STORE_STATUS_busy : Fld := ⟨R.STORE_STATUS, 0, 4⟩
def R.STORE_DEV : Nat := 0x6C4
def F.STORE_DEV_mib : Fld := ⟨R.STORE_DEV, 16, 8⟩
def F.STORE_DEV_mhz : Fld := ⟨R.STORE_DEV, 8, 8⟩
def F.STORE_DEV_addr4 : Fld := ⟨R.STORE_DEV, 3, 1⟩
def F.STORE_DEV_width : Fld := ⟨R.STORE_DEV, 0, 2⟩
def R.STORE_OP : Nat := 0x6C8
def F.STORE_OP_pct : Fld := ⟨R.STORE_OP, 16, 8⟩
def F.STORE_OP_region : Fld := ⟨R.STORE_OP, 12, 4⟩
def F.STORE_OP_code : Fld := ⟨R.STORE_OP, 0, 8⟩
def R.STORE_RESULT : Nat := 0x6CC
def F.STORE_RESULT_status : Fld := ⟨R.STORE_RESULT, 16, 8⟩
def F.STORE_RESULT_region : Fld := ⟨R.STORE_RESULT, 12, 4⟩
def F.STORE_RESULT_code : Fld := ⟨R.STORE_RESULT, 0, 8⟩
def R.STORE_CFG : Nat := 0x6D0
def F.STORE_CFG_maint : Fld := ⟨R.STORE_CFG, 0, 8⟩
def R.STORE_SPARE : Nat := 0x6D4
def F.STORE_SPARE_log_taken : Fld := ⟨R.STORE_SPARE, 16, 8⟩
def F.STORE_SPARE_used : Fld := ⟨R.STORE_SPARE, 8, 8⟩
def F.STORE_SPARE_free : Fld := ⟨R.STORE_SPARE, 0, 8⟩
def R.STORE_LOG : Nat := 0x6D8
def F.STORE_LOG_now : Fld := ⟨R.STORE_LOG, 16, 16⟩
def F.STORE_LOG_init : Fld := ⟨R.STORE_LOG, 0, 16⟩
def R.STORE_CFG_GEN : Nat := 0x6DC
def F.STORE_CFG_GEN_b : Fld := ⟨R.STORE_CFG_GEN, 16, 16⟩
def F.STORE_CFG_GEN_a : Fld := ⟨R.STORE_CFG_GEN, 0, 16⟩
def R.STORE_FW : Nat := 0x6E0
def F.STORE_FW_sec : Fld := ⟨R.STORE_FW, 24, 8⟩
def F.STORE_FW_other_ok : Fld := ⟨R.STORE_FW, 3, 1⟩
def F.STORE_FW_pending : Fld := ⟨R.STORE_FW, 2, 1⟩
def F.STORE_FW_trial : Fld := ⟨R.STORE_FW, 1, 1⟩
def F.STORE_FW_slot : Fld := ⟨R.STORE_FW, 0, 1⟩
def R.STORE_ERASE_COUNT : Nat := 0x6E4
def F.STORE_ERASE_COUNT_count : Fld := ⟨R.STORE_ERASE_COUNT, 0, 32⟩
def R.STORE_REPAIR_COUNT : Nat := 0x6E8
def F.STORE_REPAIR_COUNT_count : Fld := ⟨R.STORE_REPAIR_COUNT, 0, 32⟩
def R.STORE_VIOL_COUNT : Nat := 0x6EC
def F.STORE_VIOL_COUNT_count : Fld := ⟨R.STORE_VIOL_COUNT, 0, 32⟩
def R.MGMT_CMD : Nat := 0x700
def F.MGMT_CMD_owner : Fld := ⟨R.MGMT_CMD, 8, 3⟩
def F.MGMT_CMD_code : Fld := ⟨R.MGMT_CMD, 0, 8⟩
def R.MGMT_STATUS : Nat := 0x704
def F.MGMT_STATUS_busy : Fld := ⟨R.MGMT_STATUS, 31, 1⟩
def F.MGMT_STATUS_refused : Fld := ⟨R.MGMT_STATUS, 30, 1⟩
def F.MGMT_STATUS_status : Fld := ⟨R.MGMT_STATUS, 16, 8⟩
def F.MGMT_STATUS_len : Fld := ⟨R.MGMT_STATUS, 0, 13⟩
def R.MGMT_ARG (i : Nat) : Nat := 0x708 + 4 * i
def F.MGMT_ARG_v (i : Nat) : Fld := ⟨R.MGMT_ARG i, 0, 32⟩
def R.MGMT_INT_CAUSE : Nat := 0x728
def F.MGMT_INT_CAUSE_ain : Fld := ⟨R.MGMT_INT_CAUSE, 17, 1⟩
def F.MGMT_INT_CAUSE_cal : Fld := ⟨R.MGMT_INT_CAUSE, 16, 1⟩
def F.MGMT_INT_CAUSE_store : Fld := ⟨R.MGMT_INT_CAUSE, 15, 1⟩
def F.MGMT_INT_CAUSE_bist : Fld := ⟨R.MGMT_INT_CAUSE, 14, 1⟩
def F.MGMT_INT_CAUSE_follow : Fld := ⟨R.MGMT_INT_CAUSE, 13, 1⟩
def F.MGMT_INT_CAUSE_carr : Fld := ⟨R.MGMT_INT_CAUSE, 12, 1⟩
def F.MGMT_INT_CAUSE_host : Fld := ⟨R.MGMT_INT_CAUSE, 11, 1⟩
def F.MGMT_INT_CAUSE_aport : Fld := ⟨R.MGMT_INT_CAUSE, 10, 1⟩
def F.MGMT_INT_CAUSE_link : Fld := ⟨R.MGMT_INT_CAUSE, 9, 1⟩
def F.MGMT_INT_CAUSE_clk : Fld := ⟨R.MGMT_INT_CAUSE, 8, 1⟩
def F.MGMT_INT_CAUSE_supply : Fld := ⟨R.MGMT_INT_CAUSE, 7, 1⟩
def F.MGMT_INT_CAUSE_sens : Fld := ⟨R.MGMT_INT_CAUSE, 6, 1⟩
def F.MGMT_INT_CAUSE_time : Fld := ⟨R.MGMT_INT_CAUSE, 5, 1⟩
def F.MGMT_INT_CAUSE_rtc : Fld := ⟨R.MGMT_INT_CAUSE, 4, 1⟩
def F.MGMT_INT_CAUSE_warn : Fld := ⟨R.MGMT_INT_CAUSE, 3, 1⟩
def F.MGMT_INT_CAUSE_fault : Fld := ⟨R.MGMT_INT_CAUSE, 2, 1⟩
def F.MGMT_INT_CAUSE_log : Fld := ⟨R.MGMT_INT_CAUSE, 1, 1⟩
def F.MGMT_INT_CAUSE_mbox : Fld := ⟨R.MGMT_INT_CAUSE, 0, 1⟩
def R.MGMT_INT_EN : Nat := 0x72C
def F.MGMT_INT_EN_en : Fld := ⟨R.MGMT_INT_EN, 0, 32⟩
def R.MGMT_FAULT_CFG : Nat := 0x730
def F.MGMT_FAULT_CFG_dump_en : Fld := ⟨R.MGMT_FAULT_CFG, 1, 1⟩
def F.MGMT_FAULT_CFG_on_fatal : Fld := ⟨R.MGMT_FAULT_CFG, 0, 1⟩
def R.MGMT_FAULT_STATUS : Nat := 0x734
def F.MGMT_FAULT_STATUS_wrap : Fld := ⟨R.MGMT_FAULT_STATUS, 16, 8⟩
def F.MGMT_FAULT_STATUS_dump_fail : Fld := ⟨R.MGMT_FAULT_STATUS, 10, 1⟩
def F.MGMT_FAULT_STATUS_dump_ok : Fld := ⟨R.MGMT_FAULT_STATUS, 9, 1⟩
def F.MGMT_FAULT_STATUS_halted : Fld := ⟨R.MGMT_FAULT_STATUS, 8, 1⟩
def F.MGMT_FAULT_STATUS_queued : Fld := ⟨R.MGMT_FAULT_STATUS, 3, 5⟩
def F.MGMT_FAULT_STATUS_active : Fld := ⟨R.MGMT_FAULT_STATUS, 2, 1⟩
def F.MGMT_FAULT_STATUS_cls : Fld := ⟨R.MGMT_FAULT_STATUS, 0, 2⟩
def R.MGMT_FAULT_LOST : Nat := 0x738
def F.MGMT_FAULT_LOST_count : Fld := ⟨R.MGMT_FAULT_LOST, 0, 32⟩
def R.MGMT_FAULT_COUNT (i : Nat) : Nat := 0x73C + 4 * i
def F.MGMT_FAULT_COUNT_count (i : Nat) : Fld := ⟨R.MGMT_FAULT_COUNT i, 0, 32⟩
def R.MGMT_FAULT_LAST0 : Nat := 0x74C
def F.MGMT_FAULT_LAST0_seq : Fld := ⟨R.MGMT_FAULT_LAST0, 16, 16⟩
def F.MGMT_FAULT_LAST0_src : Fld := ⟨R.MGMT_FAULT_LAST0, 8, 8⟩
def F.MGMT_FAULT_LAST0_code : Fld := ⟨R.MGMT_FAULT_LAST0, 0, 8⟩
def R.MGMT_FAULT_LAST1 : Nat := 0x750
def F.MGMT_FAULT_LAST1_epoch : Fld := ⟨R.MGMT_FAULT_LAST1, 16, 16⟩
def F.MGMT_FAULT_LAST1_cls : Fld := ⟨R.MGMT_FAULT_LAST1, 0, 2⟩
def R.MGMT_LOG_CFG : Nat := 0x754
def F.MGMT_LOG_CFG_mirror : Fld := ⟨R.MGMT_LOG_CFG, 31, 1⟩
def F.MGMT_LOG_CFG_thr : Fld := ⟨R.MGMT_LOG_CFG, 0, 16⟩
def R.MGMT_LOG_WR : Nat := 0x758
def F.MGMT_LOG_WR_count : Fld := ⟨R.MGMT_LOG_WR, 0, 32⟩
def R.MGMT_LOG_LOST : Nat := 0x75C
def F.MGMT_LOG_LOST_count : Fld := ⟨R.MGMT_LOG_LOST, 0, 32⟩
def R.MGMT_LOG_MIRROR : Nat := 0x760
def F.MGMT_LOG_MIRROR_n : Fld := ⟨R.MGMT_LOG_MIRROR, 0, 32⟩
def R.MGMT_LOG_SEL : Nat := 0x764
def F.MGMT_LOG_SEL_i : Fld := ⟨R.MGMT_LOG_SEL, 0, 32⟩
def R.MGMT_LOG_DATA (i : Nat) : Nat := 0x768 + 4 * i
def F.MGMT_LOG_DATA_b (i : Nat) : Fld := ⟨R.MGMT_LOG_DATA i, 0, 32⟩
def R.MGMT_SEQ_SEL : Nat := 0x778
def F.MGMT_SEQ_SEL_src : Fld := ⟨R.MGMT_SEQ_SEL, 0, 8⟩
def R.MGMT_SEQ : Nat := 0x77C
def F.MGMT_SEQ_valid : Fld := ⟨R.MGMT_SEQ, 16, 1⟩
def F.MGMT_SEQ_next : Fld := ⟨R.MGMT_SEQ, 0, 16⟩
def R.MGMT_STIME_LO : Nat := 0x780
def F.MGMT_STIME_LO_t : Fld := ⟨R.MGMT_STIME_LO, 0, 32⟩
def R.MGMT_STIME_HI : Nat := 0x784
def F.MGMT_STIME_HI_t : Fld := ⟨R.MGMT_STIME_HI, 0, 32⟩
def R.MGMT_STEP_LO : Nat := 0x788
def F.MGMT_STEP_LO_d : Fld := ⟨R.MGMT_STEP_LO, 0, 32⟩
def R.MGMT_STEP_HI : Nat := 0x78C
def F.MGMT_STEP_HI_d : Fld := ⟨R.MGMT_STEP_HI, 0, 32⟩
def R.MGMT_FW_VER : Nat := 0x790
def F.MGMT_FW_VER_v : Fld := ⟨R.MGMT_FW_VER, 0, 32⟩
def R.MGMT_CMD_COUNT : Nat := 0x794
def F.MGMT_CMD_COUNT_count : Fld := ⟨R.MGMT_CMD_COUNT, 0, 32⟩
def R.MGMT_CMD_TIME : Nat := 0x798
def F.MGMT_CMD_TIME_us : Fld := ⟨R.MGMT_CMD_TIME, 0, 32⟩
def R.MGMT_LOAD : Nat := 0x79C
def F.MGMT_LOAD_peak : Fld := ⟨R.MGMT_LOAD, 8, 8⟩
def F.MGMT_LOAD_now : Fld := ⟨R.MGMT_LOAD, 0, 8⟩
def R.FUSE_STATUS : Nat := 0x7C0
def F.FUSE_STATUS_wrap : Fld := ⟨R.FUSE_STATUS, 8, 1⟩
def F.FUSE_STATUS_key_damaged : Fld := ⟨R.FUSE_STATUS, 7, 1⟩
def F.FUSE_STATUS_key_set : Fld := ⟨R.FUSE_STATUS, 6, 1⟩
def F.FUSE_STATUS_debug_lock : Fld := ⟨R.FUSE_STATUS, 5, 1⟩
def F.FUSE_STATUS_role_lock : Fld := ⟨R.FUSE_STATUS, 2, 2⟩
def F.FUSE_STATUS_prog_busy : Fld := ⟨R.FUSE_STATUS, 1, 1⟩
def F.FUSE_STATUS_mirror_ok : Fld := ⟨R.FUSE_STATUS, 0, 1⟩
def R.FUSE_ROLLBACK : Nat := 0x7C4
def F.FUSE_ROLLBACK_count : Fld := ⟨R.FUSE_ROLLBACK, 0, 7⟩
def R.FUSE_PROTECT : Nat := 0x7C8
def F.FUSE_PROTECT_regions : Fld := ⟨R.FUSE_PROTECT, 0, 4⟩
def R.FUSE_SERIAL_LO : Nat := 0x7CC
def F.FUSE_SERIAL_LO_sn : Fld := ⟨R.FUSE_SERIAL_LO, 0, 32⟩
def R.FUSE_SERIAL_HI : Nat := 0x7D0
def F.FUSE_SERIAL_HI_sn : Fld := ⟨R.FUSE_SERIAL_HI, 0, 32⟩
def R.FUSE_KEY_SEL : Nat := 0x7D4
def F.FUSE_KEY_SEL_word : Fld := ⟨R.FUSE_KEY_SEL, 0, 3⟩
def R.FUSE_KEY_DATA : Nat := 0x7D8
def F.FUSE_KEY_DATA_h : Fld := ⟨R.FUSE_KEY_DATA, 0, 32⟩
def R.FUSE_PROG_COUNT : Nat := 0x7DC
def F.FUSE_PROG_COUNT_count : Fld := ⟨R.FUSE_PROG_COUNT, 0, 32⟩
def R.COACH_CTRL (c : Nat) : Nat := 0x800 + 0x20 * c
def F.COACH_CTRL_reset_all (c : Nat) : Fld := ⟨R.COACH_CTRL c, 8, 1⟩
def F.COACH_CTRL_reset (c : Nat) : Fld := ⟨R.COACH_CTRL c, 0, 8⟩
def R.COACH_STATUS (c : Nat) : Nat := 0x804 + 0x20 * c
def F.COACH_STATUS_reset_wrap (c : Nat) : Fld := ⟨R.COACH_STATUS c, 17, 1⟩
def F.COACH_STATUS_ovf_wrap (c : Nat) : Fld := ⟨R.COACH_STATUS c, 16, 1⟩
def F.COACH_STATUS_taint (c : Nat) : Fld := ⟨R.COACH_STATUS c, 8, 8⟩
def F.COACH_STATUS_settling (c : Nat) : Fld := ⟨R.COACH_STATUS c, 0, 8⟩
def R.COACH_SLACK (c : Nat) : Nat := 0x808 + 0x20 * c
def F.COACH_SLACK_min (c : Nat) : Fld := ⟨R.COACH_SLACK c, 8, 8⟩
def F.COACH_SLACK_now (c : Nat) : Fld := ⟨R.COACH_SLACK c, 0, 8⟩
def R.COACH_OVF_COUNT (c : Nat) : Nat := 0x80C + 0x20 * c
def F.COACH_OVF_COUNT_count (c : Nat) : Fld := ⟨R.COACH_OVF_COUNT c, 0, 32⟩
def R.COACH_RESET_COUNT (c : Nat) : Nat := 0x810 + 0x20 * c
def F.COACH_RESET_COUNT_count (c : Nat) : Fld := ⟨R.COACH_RESET_COUNT c, 0, 32⟩
def R.COACH_MAP (c : Nat) : Nat := 0x814 + 0x20 * c
def F.COACH_MAP_std (c : Nat) : Fld := ⟨R.COACH_MAP c, 0, 32⟩
def R.COACH_BIST_SIG (c : Nat) : Nat := 0x818 + 0x20 * c
def F.COACH_BIST_SIG_sig (c : Nat) : Fld := ⟨R.COACH_BIST_SIG c, 0, 32⟩
def R.COACH_BIST_STATUS (c : Nat) : Nat := 0x81C + 0x20 * c
def F.COACH_BIST_STATUS_failed (c : Nat) : Fld := ⟨R.COACH_BIST_STATUS c, 8, 8⟩
def F.COACH_BIST_STATUS_result (c : Nat) : Fld := ⟨R.COACH_BIST_STATUS c, 1, 2⟩
def F.COACH_BIST_STATUS_busy (c : Nat) : Fld := ⟨R.COACH_BIST_STATUS c, 0, 1⟩
def R.LANE_MODE (n : Nat) : Nat := 0x1000 + 0x40 * n
def F.LANE_MODE_opt (n : Nat) : Fld := ⟨R.LANE_MODE n, 16, 16⟩
def F.LANE_MODE_std (n : Nat) : Fld := ⟨R.LANE_MODE n, 0, 4⟩
def R.LANE_CTRL (n : Nat) : Nat := 0x1004 + 0x40 * n
def F.LANE_CTRL_spare (n : Nat) : Fld := ⟨R.LANE_CTRL n, 17, 1⟩
def F.LANE_CTRL_failed (n : Nat) : Fld := ⟨R.LANE_CTRL n, 16, 1⟩
def F.LANE_CTRL_held (n : Nat) : Fld := ⟨R.LANE_CTRL n, 9, 1⟩
def F.LANE_CTRL_staged (n : Nat) : Fld := ⟨R.LANE_CTRL n, 8, 1⟩
def F.LANE_CTRL_discard (n : Nat) : Fld := ⟨R.LANE_CTRL n, 1, 1⟩
def F.LANE_CTRL_apply (n : Nat) : Fld := ⟨R.LANE_CTRL n, 0, 1⟩
def R.LANE_INPUT (n : Nat) : Nat := 0x1008 + 0x40 * n
def F.LANE_INPUT_sb (n : Nat) : Fld := ⟨R.LANE_INPUT n, 8, 8⟩
def F.LANE_INPUT_wb (n : Nat) : Fld := ⟨R.LANE_INPUT n, 3, 1⟩
def F.LANE_INPUT_div (n : Nat) : Fld := ⟨R.LANE_INPUT n, 2, 1⟩
def F.LANE_INPUT_ain (n : Nat) : Fld := ⟨R.LANE_INPUT n, 0, 2⟩
def R.LANE_TUNE (n : Nat) : Nat := 0x100C + 0x40 * n
def F.LANE_TUNE_freq (n : Nat) : Fld := ⟨R.LANE_TUNE n, 0, 32⟩
def R.LANE_FILT (n : Nat) : Nat := 0x1010 + 0x40 * n
def F.LANE_FILT_proto_now (n : Nat) : Fld := ⟨R.LANE_FILT n, 20, 1⟩
def F.LANE_FILT_hb_now (n : Nat) : Fld := ⟨R.LANE_FILT n, 16, 3⟩
def F.LANE_FILT_minph (n : Nat) : Fld := ⟨R.LANE_FILT n, 8, 1⟩
def F.LANE_FILT_proto (n : Nat) : Fld := ⟨R.LANE_FILT n, 4, 1⟩
def F.LANE_FILT_hb (n : Nat) : Fld := ⟨R.LANE_FILT n, 0, 4⟩
def R.LANE_RATE (n : Nat) : Nat := 0x1014 + 0x40 * n
def F.LANE_RATE_step (n : Nat) : Fld := ⟨R.LANE_RATE n, 0, 32⟩
def R.LANE_PHASE (n : Nat) : Nat := 0x1018 + 0x40 * n
def F.LANE_PHASE_slewing (n : Nat) : Fld := ⟨R.LANE_PHASE n, 31, 1⟩
def F.LANE_PHASE_comp (n : Nat) : Fld := ⟨R.LANE_PHASE n, 24, 1⟩
def F.LANE_PHASE_ofs (n : Nat) : Fld := ⟨R.LANE_PHASE n, 0, 18⟩
def R.LANE_DCB (n : Nat) : Nat := 0x101C + 0x40 * n
def F.LANE_DCB_frozen (n : Nat) : Fld := ⟨R.LANE_DCB n, 16, 1⟩
def F.LANE_DCB_auto_freeze (n : Nat) : Fld := ⟨R.LANE_DCB n, 9, 1⟩
def F.LANE_DCB_freeze (n : Nat) : Fld := ⟨R.LANE_DCB n, 8, 1⟩
def F.LANE_DCB_shift (n : Nat) : Fld := ⟨R.LANE_DCB n, 0, 5⟩
def R.LANE_TANDEM (n : Nat) : Nat := 0x1020 + 0x40 * n
def F.LANE_TANDEM_busy (n : Nat) : Fld := ⟨R.LANE_TANDEM n, 31, 1⟩
def F.LANE_TANDEM_peer (n : Nat) : Fld := ⟨R.LANE_TANDEM n, 24, 7⟩
def F.LANE_TANDEM_pool (n : Nat) : Fld := ⟨R.LANE_TANDEM n, 16, 1⟩
def F.LANE_TANDEM_en (n : Nat) : Fld := ⟨R.LANE_TANDEM n, 7, 1⟩
def F.LANE_TANDEM_primary (n : Nat) : Fld := ⟨R.LANE_TANDEM n, 0, 7⟩
def R.LANE_STATUS (n : Nat) : Nat := 0x1024 + 0x40 * n
def F.LANE_STATUS_v (n : Nat) : Fld := ⟨R.LANE_STATUS n, 0, 32⟩
def R.LANE_QUAL (n : Nat) : Nat := 0x1028 + 0x40 * n
def F.LANE_QUAL_score (n : Nat) : Fld := ⟨R.LANE_QUAL n, 24, 8⟩
def F.LANE_QUAL_cnr (n : Nat) : Fld := ⟨R.LANE_QUAL n, 16, 8⟩
def F.LANE_QUAL_level (n : Nat) : Fld := ⟨R.LANE_QUAL n, 8, 8⟩
def F.LANE_QUAL_aux (n : Nat) : Fld := ⟨R.LANE_QUAL n, 0, 8⟩
def R.LANE_CARR (n : Nat) : Nat := 0x102C + 0x40 * n
def F.LANE_CARR_s_en (n : Nat) : Fld := ⟨R.LANE_CARR n, 31, 1⟩
def F.LANE_CARR_width (n : Nat) : Fld := ⟨R.LANE_CARR n, 29, 2⟩
def F.LANE_CARR_ch0 (n : Nat) : Fld := ⟨R.LANE_CARR n, 24, 5⟩
def F.LANE_CARR_side (n : Nat) : Fld := ⟨R.LANE_CARR n, 8, 8⟩
def F.LANE_CARR_aud (n : Nat) : Fld := ⟨R.LANE_CARR n, 0, 8⟩
def R.CARR_CFG (c : Nat) : Nat := 0x4000 + 0x10 * c
def F.CARR_CFG_en (c : Nat) : Fld := ⟨R.CARR_CFG c, 31, 1⟩
def F.CARR_CFG_origin (c : Nat) : Fld := ⟨R.CARR_CFG c, 30, 1⟩
def F.CARR_CFG_commit (c : Nat) : Fld := ⟨R.CARR_CFG c, 29, 1⟩
def F.CARR_CFG_rej (c : Nat) : Fld := ⟨R.CARR_CFG c, 28, 1⟩
def F.CARR_CFG_prio (c : Nat) : Fld := ⟨R.CARR_CFG c, 24, 4⟩
def F.CARR_CFG_type (c : Nat) : Fld := ⟨R.CARR_CFG c, 20, 4⟩
def F.CARR_CFG_ch (c : Nat) : Fld := ⟨R.CARR_CFG c, 14, 6⟩
def F.CARR_CFG_ka (c : Nat) : Fld := ⟨R.CARR_CFG c, 10, 4⟩
def F.CARR_CFG_state (c : Nat) : Fld := ⟨R.CARR_CFG c, 8, 2⟩
def F.CARR_CFG_frames (c : Nat) : Fld := ⟨R.CARR_CFG c, 0, 8⟩
def R.CARR_SRC (c : Nat) : Nat := 0x4004 + 0x10 * c
def F.CARR_SRC_why (c : Nat) : Fld := ⟨R.CARR_SRC c, 28, 4⟩
def F.CARR_SRC_wrap (c : Nat) : Fld := ⟨R.CARR_SRC c, 27, 1⟩
def F.CARR_SRC_qper (c : Nat) : Fld := ⟨R.CARR_SRC c, 16, 8⟩
def F.CARR_SRC_lane_hi (c : Nat) : Fld := ⟨R.CARR_SRC c, 8, 7⟩
def F.CARR_SRC_lane_lo (c : Nat) : Fld := ⟨R.CARR_SRC c, 0, 7⟩
def R.CARR_DROP (c : Nat) : Nat := 0x4008 + 0x10 * c
def F.CARR_DROP_count (c : Nat) : Fld := ⟨R.CARR_DROP c, 0, 32⟩

/-! The fields of LANEn_STATUS by mode (R144, R169, R190, R469). -/
def F.LANE_STATE (n : Nat) : Fld := ⟨R.LANE_STATUS n, 0, 4⟩
def F.FM_blend (n : Nat) : Fld := ⟨R.LANE_STATUS n, 25, 7⟩
def F.FM_smute (n : Nat) : Fld := ⟨R.LANE_STATUS n, 20, 5⟩
def F.FM_bler (n : Nat) : Fld := ⟨R.LANE_STATUS n, 12, 8⟩
def F.FM_rbds_e (n : Nat) : Fld := ⟨R.LANE_STATUS n, 11, 1⟩
def F.FM_rds_sync (n : Nat) : Fld := ⟨R.LANE_STATUS n, 10, 1⟩
def F.FM_pilot (n : Nat) : Fld := ⟨R.LANE_STATUS n, 9, 1⟩
def F.FM_nb (n : Nat) : Fld := ⟨R.LANE_STATUS n, 8, 1⟩
def F.AM_foff (n : Nat) : Fld := ⟨R.LANE_STATUS n, 22, 10⟩
def F.AM_side (n : Nat) : Fld := ⟨R.LANE_STATUS n, 20, 2⟩
def F.AM_smute (n : Nat) : Fld := ⟨R.LANE_STATUS n, 15, 5⟩
def F.AM_fade (n : Nat) : Fld := ⟨R.LANE_STATUS n, 10, 1⟩
def F.AM_sync (n : Nat) : Fld := ⟨R.LANE_STATUS n, 9, 1⟩
def F.AM_nb (n : Nat) : Fld := ⟨R.LANE_STATUS n, 8, 1⟩
def F.LEAD_eid (n : Nat) : Fld := ⟨R.LANE_STATUS n, 16, 16⟩
def F.LEAD_nsvc (n : Nat) : Fld := ⟨R.LANE_STATUS n, 10, 6⟩
def F.LEAD_in (n : Nat) : Fld := ⟨R.LANE_STATUS n, 9, 1⟩
def F.LEAD_fic (n : Nat) : Fld := ⟨R.LANE_STATUS n, 8, 1⟩
def F.SVC_lead_now (n : Nat) : Fld := ⟨R.LANE_STATUS n, 25, 7⟩
def F.SVC_subch_now (n : Nat) : Fld := ⟨R.LANE_STATUS n, 19, 6⟩
def F.SVC_unsupp (n : Nat) : Fld := ⟨R.LANE_STATUS n, 17, 1⟩
def F.SVC_conceal (n : Nat) : Fld := ⟨R.LANE_STATUS n, 16, 1⟩
def F.SVC_kind (n : Nat) : Fld := ⟨R.LANE_STATUS n, 12, 4⟩
def F.SVC_sbr (n : Nat) : Fld := ⟨R.LANE_STATUS n, 11, 1⟩
def F.SVC_ps (n : Nat) : Fld := ⟨R.LANE_STATUS n, 10, 1⟩
def F.SVC_dls (n : Nat) : Fld := ⟨R.LANE_STATUS n, 9, 1⟩
def F.SVC_mot_pend (n : Nat) : Fld := ⟨R.LANE_STATUS n, 8, 1⟩
def F.DRM_rmode (n : Nat) : Fld := ⟨R.LANE_STATUS n, 29, 3⟩
def F.DRM_occ (n : Nat) : Fld := ⟨R.LANE_STATUS n, 26, 3⟩
def F.DRM_qam (n : Nat) : Fld := ⟨R.LANE_STATUS n, 24, 2⟩
def F.DRM_ilong (n : Nat) : Fld := ⟨R.LANE_STATUS n, 23, 1⟩
def F.DRM_codec (n : Nat) : Fld := ⟨R.LANE_STATUS n, 20, 3⟩
def F.DRM_svc_now (n : Nat) : Fld := ⟨R.LANE_STATUS n, 18, 2⟩
def F.DRM_unsupp (n : Nat) : Fld := ⟨R.LANE_STATUS n, 17, 1⟩
def F.DRM_conceal (n : Nat) : Fld := ⟨R.LANE_STATUS n, 16, 1⟩
def F.DRM_sdc (n : Nat) : Fld := ⟨R.LANE_STATUS n, 9, 1⟩
def F.DRM_in (n : Nat) : Fld := ⟨R.LANE_STATUS n, 8, 1⟩
def F.SCAN_sweeps (n : Nat) : Fld := ⟨R.LANE_STATUS n, 17, 15⟩
def F.SCAN_idx (n : Nat) : Fld := ⟨R.LANE_STATUS n, 4, 13⟩
def F.IQ_cap (n : Nat) : Fld := ⟨R.LANE_STATUS n, 10, 1⟩
def F.IQ_wb (n : Nat) : Fld := ⟨R.LANE_STATUS n, 9, 1⟩
def F.IQ_taint (n : Nat) : Fld := ⟨R.LANE_STATUS n, 8, 1⟩

end Sys2Proof.Machine
end

