-- ==== Sys2Proof/Machine/State.lean ====
section
/-! DEFINITION. The state of the part as plain data, in three pieces: the chip (registers and everything else that is
not a byte memory), the byte memories, and the queue of commands that wait. `State.reset` is the part just after the
power-on reset and before its start (R353, R397). -/
namespace Sys2Proof.Machine

/-- Reasons to stop with a fault: the manual stops the part on no command, so there is none. -/
inductive Fault where
  deriving DecidableEq, Repr

/-- Reasons to refuse a command. -/
inductive Refusal where
  /-- Raised by an arm of `exec` that has no meaning yet; safe. -/
  | notModelled (mnemonic : String)
  deriving DecidableEq, Repr


/-- Where the part is between power and running firmware (R341, R353, R397 to R400, R385, R348); `loading` is step 6 of a
start before the initial state is entered. -/
inductive Phase where
  | waitPower
  | resetHeld
  | strapHeld
  | roleHeld
  | starting
  | loading
  | running
  | recovery
  | halted
  | glide
  deriving DecidableEq, Repr

/-- A power-state transition in progress (R350). -/
structure Trans where
  target : Nat
  origin : Nat
  start : BitVec 48
  deriving DecidableEq, Repr

/-- A wake latched by the keep island (R351): source, address byte matched. -/
structure Wake where
  src : Nat
  byte : Nat
  deriving DecidableEq, Repr

/-- Supply, power state and reset bookkeeping beyond the SUP and GEN registers: phase, kind and cause of the start under
way, coax power good (R341), nRST low, rail of a rail fault, records that wait for the next start (R2, R399), wake
latched, transition, early warning's tick and lowest HOLD, tick of GLIDE, whisper sums in GLIDE (R248), power
state before the reset, a POR after which no start has loaded the keep island's settings (R357). -/
structure Power where
  phase : Phase
  pgood : Bool
  nrst : Bool
  kind : Nat
  cause : Nat
  rail : Option Nat
  strapInvalid : Bool
  roleLocked : Option Nat
  wake : Option Wake
  trans : Option Trans
  ewStart : Option (BitVec 48)
  holdMin : Nat
  glideStart : BitVec 48
  wspGlideRx : Nat
  wspGlideErr : Nat
  prev : Nat
  keepDue : Bool
  deriving DecidableEq, Repr

/-- Ticks, wall-time offset, sample-time counter with its latch, alarm (R355, R367 to R372). -/
structure Time where
  ticks : BitVec 48
  offset : BitVec 48
  stime : BitVec 64
  stimeHeld : Bool
  clockRun : Bool
  latchF : BitVec 64
  latchT : BitVec 48
  alarm : Option (BitVec 48 × BitVec 48)
  alarmMissed : Option (BitVec 48)
  deriving DecidableEq, Repr

/-- A stretch of sample time in units of 2^-49 ns, still open where it has no end. -/
structure Span where
  start : Int
  stop : Option Int
  deriving DecidableEq, Repr

/-- An event waiting in its source's queue (R379). -/
structure Queued where
  src : Nat
  entries : List Entry
  deriving DecidableEq, Repr

/-- The event log (R28, R376 to R380); `because` is the event whose effects are taking place, which the events of other
sources name as their cause meanwhile (R29). -/
structure Log where
  seqs : SMap (BitVec 16)
  ring : SMap Entry
  queue : List Queued
  sinceCause : Nat
  because : Option CauseRef
  deriving DecidableEq, Repr

/-- Fatal handling under way, halt included (R384, R385, R387): code of the fault, sequence of its FAULT event, whether a
dump is being written. -/
structure Fatal where
  code : Nat
  seq : BitVec 16
  dumping : Bool
  deriving DecidableEq, Repr

/-- Faults (R383 to R387): queue, discarded ones not yet told, fatal handling, crumb, DOUBLE_FATALs since POR. -/
structure Faults where
  queue : List FaultIn
  lost : Nat
  fatal : Option Fatal
  crumb : Option (List Byte)
  doubles : Nat
  deriving DecidableEq, Repr

/-- A calibration set (R79): the 12 values of R77, temperature in °C, bucket, tick at which it was stored. -/
structure CalSet where
  vals : List Int
  temp : Int
  bucket : Nat
  at_ : BitVec 48
  deriving DecidableEq, Repr

/-- A calibration run (R85, R86): cause, bucket at its start, windows held, sums. -/
structure CalRun where
  cause : Nat
  bucket : Nat
  windows : Nat
  sums : List Int
  tempSum : Int
  deriving DecidableEq, Repr

/-- An application whose first window has not ended (R86): cause, S before, temperature, bucket. -/
structure CalPend where
  cause : Nat
  before : Int
  temp : Int
  bucket : Nat
  deriving DecidableEq, Repr

/-- Calibration of one input: corrections in force with their tag, set table, run, applications to report, spur figure above
the limit and for how many windows, RUN entered before, a bucket change to be acted on at the next RUN (R77 to R87). -/
structure CalRt where
  force : CalSet
  forced : Bool
  sets : List CalSet
  run : Option CalRun
  pend : List CalPend
  high : Bool
  overs : Nat
  seen : Bool
  due : Bool
  deriving DecidableEq, Repr

/-- An aerial input beyond its registers (R44 to R46, R48, R51, R55, R96): ATT_SAT logged in this episode, window counts,
windows since the last planned step, bad thresholds logged, an offset seen in the window under way, the latest taints of
its samples, the end of the last that a cause of R96 made, the tick at which its feed switch last opened, the lanes known to
lie outside its fixed preselection. -/
structure AinRt where
  satLogged : Bool
  hiRun : Nat
  loRun : Nat
  gap : Nat
  planBad : Bool
  snowSeen : Bool
  taints : List Span
  caused : Int
  opened : Option (BitVec 48)
  outside : List Nat
  deriving DecidableEq, Repr

/-- RDS of an FM lane (R129 to R132): in sync, the last 50 blocks uncorrectable or not, the last 64 flagged 3 or not, the
last 50 of offset E or not, offset of the last zero-syndrome block, blocks of the group under way with their flags and
the stamp of its block A; parts of items decoded, contents seen once with flag 2, items as published, the group that
carries RT+ (R132), the words of the AF list under way. -/
structure Rds where
  sync : Bool
  last50 : List Bool
  last64 : List Bool
  e50 : List Bool
  prev : Option Nat
  group : List (Nat × Nat × Nat)
  stamp : Nat
  cells : List (Nat × List Byte)
  once : List (Nat × List Byte)
  items : List (Nat × List Byte)
  rtPlus : Option Nat
  af : List Nat
  deriving DecidableEq, Repr

/-- A CIF in a lead's depot ring (R151, R156): CIF count, nominal instant, map of the erased symbols, soft values of its 864
CUs, two to an octet, the earlier at [3:0]. -/
structure CifSlot where
  cif : Nat
  at_ : Int
  erased : List Nat
  soft : List Byte
  deriving DecidableEq, Repr

/-- A DAB lead's frame sync, its estimate of timing and frequency, and its decoded tables (R150 to R155), with the EId
received: the configuration in force, the next one as announced so far, packet-mode components by SCId with their
subchannel and address, SCIdS by SId and component. -/
structure LeadRt where
  sync : Bool
  est : Int × Int
  eid : Option Nat
  complete : Bool
  config : DabConfig
  next : DabConfig
  packets : List (Nat × Nat × Nat)
  scids : List (Nat × Nat × Nat)
  announced : Option Nat
  ring : List CifSlot
  published : List (List Byte × List Byte)
  bad96 : List Bool
  cif : Nat
  deriving DecidableEq, Repr

/-- What a lane's coach slot and demodulator hold besides (R16, R26, R61, R106, R108, R111, R127, R128, R134, R135, R138,
R142): the coach instants from the first output after a synchronising reset to the first without the settling flag, the
grid offset from which it slews with the output at which the slew began, the taints of slack gaps, the instant to which a
branch that PAIR added settles, the branch excluded by its level (0 named, 1 partner), the DC estimate in 2^-24 of a word,
blend in 0.1 %, soft mute in 0.5 dB, whether the pilot has locked since acquisition, whether it was lost during a taint,
for how many ms the pilot has been locked and its injection too low, for how many ms the interference of the upper, of the
lower side has exceeded the other's by 10 dB and the difference has stayed below 6 dB, the carrier power held at the start
of a fade in 0.01 dB, m frozen after a fade that ended in LOST, the sub-band of the
channel that a SCAN lane measures and the programmes whose candidates its list sweep has measured (R178); how long in ms
the figures have met the conditions of PLAY and of LOST, the fade under way has lasted and ACQ has lasted. -/
structure DspRt where
  settle : Int × Int
  slew : Option (Int × Int)
  gaps : List Span
  join : Option Int
  low : Option Nat
  dc : Int × Int
  blend : Nat
  smute : Nat
  piloted : Bool
  gone : Bool
  lockMs : Nat
  weakMs : Nat
  upMs : Nat
  downMs : Nat
  evenMs : Nat
  fadeAvg : Int
  held : Bool
  chan : Nat
  swept : List Nat
  above : Nat
  below : Nat
  fadeMs : Nat
  acqMs : Nat
  deriving DecidableEq, Repr

/-- A sample of MPX before the blanker (R124, R126): coach instant, value in 2^-23 of 150 kHz, power in 70 to 100 kHz,
an impulse, from coach samples with the taint flag, with the settling flag. -/
structure Mpx where
  at_ : Int
  value : Int
  power : Nat
  hit : Bool
  taint : Bool
  settles : Bool
  deriving DecidableEq, Repr

/-- What the stages of an FM lane hold (R61, R123 to R128), each history with its newest entry first: samples of both
branches, their relative phase, the equaliser's input, taps and last output, the envelope, the MPX and since how many samples
the blanker has not acted, the MPX after it with the instants that it interpolated, L and R after stage 6, the states of
high-cut and de-emphasis, the MPX samples that have passed. -/
structure FmRt where
  named : List (Int × Int)
  partner : List (Int × Int)
  phase : Int × Int
  input : List (Int × Int)
  taps : List (Int × Int)
  last : Int × Int
  envelope : List Nat
  mpx : List Mpx
  quiet : Nat
  fixed : List Int
  mended : List Int
  audio : List (Int × Int)
  cut : Int × Int
  emph : Int × Int
  passed : Nat
  deriving DecidableEq, Repr

/-- A demodulated sample of an AM lane (R133, R136): coach instant, in-phase and quadrature part, an impulse, from coach
samples with the taint flag, with the settling flag. -/
structure AmSample where
  at_ : Int
  re : Int
  im : Int
  hit : Bool
  taint : Bool
  settles : Bool
  deriving DecidableEq, Repr

/-- What the stages of an AM lane hold (R133 to R136), each history with its newest entry first: the envelope, the demodulated
samples and since how many the blanker has not acted, those after it, audio at 32 kS/s, the instants that it interpolated,
samples that have passed, the bandwidth and sideband faded out with the samples left, the carrier power whose gain a fade
holds. -/
structure AmRt where
  envelope : List Nat
  raw : List AmSample
  quiet : Nat
  fixed : List (Int × Int)
  mended : List Int
  audio : List Int
  passed : Nat
  former : Option (Nat × Nat × Nat)
  gain : Option Nat
  deriving DecidableEq, Repr

/-- An audio sample that a lane has delivered to the depot (R140, R141, R156, R162, R164): its stamp, the time at which it
leaves the lane, L and R in 24-bit words, flags but that of muting, its gain after settling in 1/10240. -/
structure Pcm where
  at_ : Int
  leaves : Int
  left : Int
  right : Int
  flags : Nat
  gain : Nat
  deriving DecidableEq, Repr

/-- A logical CIF of a service (R153): CIF count, nominal instant, the soft bits of its subchannel. -/
structure LogCif where
  cif : Nat
  at_ : Int
  soft : List Byte
  deriving DecidableEq, Repr

/-- A DLS message under assembly (R158): toggle, character set, segments, number of the last one, DL Plus tags (their
number and octets), published. -/
structure DlsBuf where
  toggle : Nat
  charset : Nat
  segs : List (Nat × List Byte)
  last : Option Nat
  tags : Nat × List Byte
  done : Bool
  deriving DecidableEq, Repr

/-- A lane's local memory beyond its registers (domain Lane): running, waiting for its input's RUN, the event that told its
state or an unsupported feature last (R29), coach slot and demodulator, FM and AM stages, RDS, lead tables; the audio that
it has delivered and the times at which its audio was let through or no more, newest first; for a service, the last five
logical CIFs (R153), the first of the last superframe and the last decoded; concealment, bad audio frames in a row, the
samples and octets of the last good frame, whether each recent frame failed with its length (R166); DLS message held and the
one under assembly; unsupported and missing logged for this selection; bad frames in a row (R163); FAC valid, frames until
a change that the FAC announces, a good audio frame heard since ACQ; MOT directory entries, each 0 pending, 1 reported
missing or 2 received, objects received, the entry that the slideshow presents (R160). -/
structure LaneRt where
  live : Bool
  restart : Bool
  told : Option CauseRef
  dsp : DspRt
  fm : FmRt
  am : AmRt
  rds : Rds
  lead : LeadRt
  pcm : List Pcm
  turns : List (Int × Bool)
  logical : List LogCif
  super : Option Nat
  eaten : Option Nat
  concealUs : Nat
  muted : Bool
  run : Nat
  good : List (Int × Int)
  unit : List Byte
  errs : List (Nat × Bool)
  dls : List Byte
  dlsBuf : Option DlsBuf
  unsuppLogged : Bool
  missingLogged : Bool
  bads : Nat
  fac : Bool
  change : Option Nat
  heard : Bool
  motDir : List (MotEntry × Nat)
  motSeen : List Nat
  slide : Option Nat
  deriving DecidableEq, Repr

/-- Segments of a MOT header or body (R159): octets by number, number of the last where known. -/
structure MotPart where
  segs : List (Nat × List Byte)
  last : Option Nat
  deriving DecidableEq, Repr

/-- A MOT object in the depot pool (R159): lane, transport id, size where its header tells it, header, body, complete. -/
structure MotObj where
  lane : Nat
  tid : Nat
  size : Option Nat
  head : MotPart
  body : MotPart
  done : Bool
  deriving DecidableEq, Repr

/-- A candidate of a followed programme (R174 to R182): E in 0.25 dB (none unmeasured), offset in samples, gain, failed
attempts, NO_LANE logged, list sweeps in which another outdid it, reason of the last rejection and the line
in force then. -/
structure Cand where
  idx : Nat
  mode : Nat
  source : Nat
  freq : Nat
  ident : Nat
  state : Nat
  lane : Nat
  lead : Nat
  score : Option Int
  delta : Option Int
  gain : Int
  verified : Bool
  aligned : Bool
  linked : Bool
  fails : Nat
  noLane : Bool
  beaten : Nat
  why : Nat
  lineAt : Int
  deriving DecidableEq, Repr

/-- A cross-fade under way (R185): candidate index, cause, sample time at which it began, its end asked for (FOLLOW_CLEAR
or OFF during it, with reason). -/
structure Fade where
  idx : Nat
  cause : Nat
  began : BitVec 64
  endReason : Option Nat
  deriving DecidableEq, Repr

/-- A fade that was reversed (R187): the candidate, its lane and gain, thrice its samples' distance behind the programme's
stamps, whether they came through a line, the sample times at which it began, turned back and has its weight 0 again. -/
structure Undo where
  idx : Nat
  lane : Nat
  gain : Int
  behind : Int
  line : Bool
  began : BitVec 64
  turned : BitVec 64
  ends : BitVec 64
  deriving DecidableEq, Repr

/-- The primary before the last handover (R185, R186): lane, gain, thrice its samples' distance behind the programme's stamps,
whether they came through a line, the sample times between which its weight fell. -/
structure Past where
  lane : Nat
  gain : Int
  behind : Int
  line : Bool
  began : BitVec 64
  ends : BitVec 64
  deriving DecidableEq, Repr

/-- A follow record (R171): settings, line in force in samples, gain in force in 0.1 dB, fixed lane delay L0 in ns,
handovers, tick of the last HANDOVER_DONE, candidates, cross-fade, a fade being reversed, the primary before the last
handover, the candidate of a FOLLOW_FORCE that waits for a migration. -/
structure Follow where
  policy : Nat
  margin : Nat
  bias : Int
  guard : Nat
  line : Nat
  fade : Nat
  lineNow : Int
  gain : Int
  l0 : Nat
  handovers : Nat
  lastDone : Option (BitVec 48)
  cands : List Cand
  fading : Option Fade
  undo : Option Undo
  past : Option Past
  due : Option Nat
  deriving DecidableEq, Repr

/-- A side-data record that waits on a SIDE carriage (R204 to R206): lane, type, sequence, octets with header, octets
already sent, stamp, transport id of a MOT object. -/
structure SideRec where
  lane : Nat
  type : Nat
  octets : List Byte
  sent : Nat
  stamp : Nat
  mot : Option Nat
  deriving DecidableEq, Repr

/-- A compressed unit that waits on a COMP carriage (R203). -/
structure UnitRec where
  octets : List Byte
  sent : Nat
  stamp : Nat
  deriving DecidableEq, Repr

/-- A carriage beyond its registers: descriptor checked and waiting for its boundary, `disc` due, the time from which it takes
samples, the frame with which its next segment begins and the lanes bound to it as that began (lane, first channel, channels;
R194), cause of shedding with its CARR_SHED, SIDE and COMP queues, REC_DROP accumulation, octets sent with their ticks, tick
of the last segment, clash logged in this RUN. -/
structure CarrRt where
  due : Option (Word × Word)
  disc : Bool
  began : Int
  next : Option Int
  bound : Option (List (Nat × Nat × Nat))
  shed : Option Nat
  shedRef : Option CauseRef
  queue : List SideRec
  units : List UnitRec
  recDrops : Nat
  recTick : Option (BitVec 48)
  sent : List (Nat × Nat)
  clash : Bool
  deriving DecidableEq, Repr

/-- A loading map (R230, R260): id, rate 5/6, bits of each region, pilot-silent mask. -/
structure LoadMap where
  id : Nat
  fast : Bool
  bits : List Nat
  mask : Nat
  deriving DecidableEq, Repr

/-- A scheduled map: the train or slot of its switch, and the notch set that had been announced and applies from it
(R261, R264). -/
structure Sched where
  map : LoadMap
  at_ : Nat
  notch : Option (List (Nat × Nat))
  deriving DecidableEq, Repr

/-- Quiet symbols that a receiver has measured (R229): in sounding or in RUN, their number, the power on the data
subcarriers of each region, summed. -/
structure Quiet where
  sound : Bool
  symbols : Nat
  sums : List Nat
  deriving DecidableEq, Repr

/-- A PROPOSE on its way: id, payload, train or slot at whose start it arrives (R261). -/
structure Proposal where
  id : Nat
  payload : List Byte
  due : Nat
  deriving DecidableEq, Repr

/-- One direction of the link (R260 to R264, R471): map in force, scheduled, held at the acknowledger, the proposer's
last 4 proposals, its next id, the proposal awaiting an answer with its train, proposals on their way, the train of
the last switch, notches in force and announced, change counts and contents last counted of the three window entries, the quiet
symbols measured last and the gain |H|² of each data subcarrier (R229), region SNRs in 0.25 dB. -/
structure LinkDir where
  now : LoadMap
  sched : Option Sched
  held : Option LoadMap
  mine : List LoadMap
  nextId : Nat
  asked : Option (Nat × Nat)
  inbox : List Proposal
  switched : Option Nat
  notches : List (Nat × Nat)
  announced : Option (List (Nat × Nat))
  counts : List Nat
  shown : List (Option (LoadMap × Nat))
  quiet : List Quiet
  gain : List Nat
  snr : List Nat
  deriving DecidableEq, Repr

/-- A link segment waiting to be sent, not before a train or slot where one is named (R261, R262). -/
structure OutSeg where
  seg : Seg
  notBefore : Option Nat
  deriving DecidableEq, Repr

/-- A count that an event tells at most once per 100 ms: amount since the last, tick of the last. -/
structure RateLim where
  acc : Nat
  last : Option (BitVec 48)
  deriving DecidableEq, Repr

/-- A control-path request that the head has queued (R268, R269), with what its accesses meet. -/
structure CpReq where
  seq : Nat
  op : Nat
  octets : List Byte
  obs : BusObs
  deriving DecidableEq, Repr

/-- A REMOTE request that the foot waits on (R267, R269): sequence, operation, octets, issued in RUN. -/
structure CpWait where
  seq : Nat
  op : Nat
  octets : List Byte
  run : Bool
  deriving DecidableEq, Repr

/-- A value on a subcarrier (R221, R222, R227): (i + j q) times the square root of num / den. -/
structure Point where
  i : Int
  q : Int
  num : Nat
  den : Nat
  deriving DecidableEq, Repr

/-- A signal that the transmitter sends (R222, R235, R237, R239): its symbols, the gain of each subcarrier by tilt and
attenuation in 1/(4 (N - 1)) dB where N is the number of subcarriers, and for how many ns before and after them a signal of
pilots only rises and falls along a raised cosine. -/
structure Wave where
  symbols : List (List Point)
  gain : List Int
  rise : Nat
  fall : Nat
  deriving DecidableEq, Repr

/-- The link beyond its registers (domain D, and the control path and time of domain M): directions; next train at the
head; last header for the prediction; number expected of the next train; consecutive missing trains; slots without a
valid burst, the slot under way (0 no burst as yet, 1 a valid burst at a head or the burst sent at a foot, 2 a burst
discarded) and the train that opens it; sounding bursts and empty slots measured; trains in the state;
link segments waiting; segments of trains waiting for release; header, segments and signal of the last train or burst sent;
tilt and attenuation in force; the steering of the ports in 0.01 ppm, and since when it slews back (R36, R233); latency in force; slow rate with failed codewords by tick; rate-limited events;
violations logged by reason; NOTCH and SAMPLE due; the head's `idle` bit as last received (R288); the event by which the
link was lost. -/
structure LinkRt where
  dn : LinkDir
  up : LinkDir
  next : Nat
  hdr : Option (List Byte)
  expect : Option Nat
  missing : Nat
  noBurst : Nat
  slot : Option Nat
  slotAt : Nat
  bursts : Nat
  empties : Nat
  trains : Nat
  out : List OutSeg
  release : List (List Seg)
  txHdr : List Byte
  txSegs : List Seg
  wave : Wave
  steer : Int
  back : Option (BitVec 48)
  tiltNow : Int
  attenNow : Int
  latency : Nat
  slow : Bool
  cwFails : List (Nat × Nat)
  miss : RateLim
  predicted : RateLim
  bad : RateLim
  segDrop : RateLim
  viol : SMap (BitVec 48)
  notchDue : Bool
  sampleDue : Bool
  idle : Bool
  lostRef : Option CauseRef
  deriving DecidableEq, Repr

/-- Control path and time distribution (R267 to R272): the head's queue and its last 8 responses, the request it runs,
the foot's next sequence and request waiting, free-burst sends left, last free-burst sequence acted on, training wanted
once ACTIVE or QUIET is reached, the foot's hold of head sample time (last SAMPLE message and own sample time at its
reception), the last train heard with its tick (R272), the epoch of the last WALL message. -/
structure CtrlRt where
  queue : List CpReq
  responses : List (Nat × List Byte)
  seq : Nat
  wait : Option CpWait
  freeLeft : Nat
  freeSeen : List Nat
  trainAt : Option Nat
  sample : Option (Nat × Nat × Nat × Nat × Nat)
  heard : Option (Nat × BitVec 48)
  wallEpoch : Option Nat
  deriving DecidableEq, Repr

/-- The whisper channel (R240 to R244): octets of the frame under way, the frame whose CRC passed; the detector's last
reading, the readings of the character under way from its tick 0 on, ticks without carrier while a start edge is not
accepted, ticks since the last carrier edge while the oscillator runs, when it was last trimmed; at a foot the frame last
sent and its keying, carrier on or off and for how many carrier cycles. -/
structure WspRt where
  buf : List Byte
  frame : Option (List Byte)
  carrier : Bool
  rx : Option (List Bool)
  hold : Option Nat
  osc : Option Nat
  trimmed : Option (BitVec 48)
  sent : List Byte
  keyed : List (Bool × Nat)
  deriving DecidableEq, Repr

/-- Map 0 (R260): 2 bits on every region, rate 3/4, no notch. -/
def mapZero (regions : Nat) : LoadMap := ⟨0, false, List.replicate regions 2, 0⟩

/-- A direction before any exchange. -/
def LinkDir.reset (regions : Nat) : LinkDir :=
  ⟨mapZero regions, none, none, [], 1, none, [], none, [], none, [0, 0, 0], [none, none, none], [], [], []⟩

/-- The link at reset. -/
def LinkRt.reset : LinkRt where
  dn := LinkDir.reset 47
  up := LinkDir.reset 8
  next := 0
  hdr := none
  expect := none
  missing := 0
  noBurst := 0
  slot := none
  slotAt := 0
  bursts := 0
  empties := 0
  trains := 0
  out := []
  release := []
  txHdr := []
  txSegs := []
  wave := ⟨[], [], 0, 0⟩
  steer := 0
  back := none
  tiltNow := 0
  attenNow := 0
  latency := 800
  slow := false
  cwFails := []
  miss := ⟨0, none⟩
  predicted := ⟨0, none⟩
  bad := ⟨0, none⟩
  segDrop := ⟨0, none⟩
  viol := []
  notchDue := false
  sampleDue := false
  idle := false
  lostRef := none

/-- The control path at reset. -/
def CtrlRt.reset : CtrlRt := ⟨[], [], 0, none, 0, [], none, none, none, none⟩

/-- An audio port beyond its registers (R279, R281, R283, R284, R286, R290): slots and width it runs with, reason for which
each map entry is ignored, entries muted as non-PCM, tick at which the fade or ramp under way ends, slips told by SLIP,
own frame at which each entry ramps in, entries that fade out (word, frame), the slots of the frame sent as the last
segment reached the ports, the level of DIN read last before it stopped (R280). -/
structure PortRt where
  fmt : Nat × Nat
  bad : List (Option Nat)
  muted : List Nat
  fadeEnd : Option (BitVec 48)
  slip : RateLim
  rampIn : List Int
  fading : List (Word × Int)
  sent : List Nat
  din : Bool
  deriving DecidableEq, Repr

/-- A carriage that a port plays (R282, R285 to R287): play-out offset P in frame periods once fixed, faded by an underrun or
overrun and not resumed, the frames held (number, words of its channels), the frame at which it ramps in, the last fade
with the frame at which the ramp before it began and that of the fade before it, and the words that this fade holds. -/
structure PlayRt where
  offset : Option Int
  faded : Bool
  held : List (Int × List Nat)
  rampAt : Int
  fade : Option (Int × Int × Option Int)
  last : List Nat
  deriving DecidableEq, Repr

/-- A privileged slot (R299): the word of `HOST_PRIV_CFG`, buffers counted as it was enabled, total frames written,
frames unread, read index as last written. -/
structure PrivRt where
  cfg : Word
  ch : Nat
  total : Nat
  unread : Nat
  rd : Nat
  deriving DecidableEq, Repr

/-- Host port beyond its registers (R293, R295, R298): carriages whose next ring entry carries `disc`, entries discarded
told by RING_OVF, violations logged by reason, bits 1 and 2 of the STATUS byte. -/
structure HostRt where
  owed : List Nat
  ovf : RateLim
  viol : SMap (BitVec 48)
  late : Bool
  violated : Bool
  deriving DecidableEq, Repr

/-- An attention message (R314, R316): sequence, its seven octets, the cause word it tells, attempts, losses, refusals. -/
structure AttnMsg where
  seq : Nat
  octets : List Byte
  word : Word
  tries : Nat
  losses : Nat
  refusals : Nat
  deriving DecidableEq, Repr

/-- The control bus (R307 to R317): bytes held for the STOP in order of arrival, a transfer open after a repeated START,
violations logged by reason; the message built and not yet sent or dropped, the cause word of the last one sent, bits
that stand and call for none, the next message's sequence, the octets last put on the bus; the generator of the backoff
and the backoff last drawn in µs. -/
structure TwbRt where
  held : List (Nat × Byte)
  busOpen : Bool
  viol : SMap (BitVec 48)
  msg : Option AttnMsg
  last : Word
  stand : Word
  nextSeq : Nat
  sent : List Byte
  gen : BitVec 16
  backoff : Nat
  deriving DecidableEq, Repr

/-- The synthesiser beyond its registers (R325 to R335): tick at which the coast began, COAST_LIMIT logged in it,
calibration under way (cause, band at its start), calibration waiting for the lock, `fnom` and depth last clipped,
mismatch of the LOCK ball logged, the converter's ramp under way (from and to in kHz, since tick), the sample time of the last
band step. -/
structure ClkRt where
  coast : Option (BitVec 48)
  coastLogged : Bool
  cal : Option (Nat × Nat)
  calDue : Option Nat
  clipF : Option Nat
  clipD : Option Nat
  sense : Bool
  ramp : Option (Nat × Nat × BitVec 48)
  stepped : Option (BitVec 64)
  deriving DecidableEq, Repr

/-- Sensor limits crossed and not yet cleared (R375). -/
structure SensRt where
  warn : Bool
  err : Bool
  vlo : Bool
  vhi : Bool
  ihi : Bool
  deriving DecidableEq, Repr

/-- A flash operation (R410): a sector erased, or bytes programmed, at a byte offset of a region. -/
structure FlashOp where
  erase : Bool
  region : Nat
  off : Nat
  bytes : List Byte
  deriving DecidableEq, Repr

/-- A background command or maintenance write of a region group (R407, R410, R413): group, command code, region reported,
its flash operations, how many are done, STORE_ABORT seen; pair, target copy and kind of a journal write; whether GLIDE left it
(R413). -/
structure Job where
  group : Nat
  code : Nat
  region : Nat
  ops : List FlashOp
  done : Nat
  abort : Bool
  write : Option (Nat × Nat × Nat)
  left : Bool
  deriving DecidableEq, Repr

/-- A firmware update under way (R417): slot, image length. -/
structure Update where
  slot : Nat
  len : Nat
  deriving DecidableEq, Repr

/-- The boot store beyond its registers and its flash (R395 to R417): density, region table, remaps in force, running
commands, commands cut by a reset and not yet resolved, rewrites marked (pair 0 ANCHOR or 1 CONFIG, copy, kind),
copies and slots retired for good, update, slots whose update has not been finished, violations logged by reason. -/
structure StoreRt where
  mib : Nat
  lay : List (Nat × Nat)
  remap : List (Nat × Nat)
  jobs : List Job
  cut : List Job
  marks : List (Nat × Nat × Nat)
  retired : List Nat
  update : Option Update
  spoilt : List Nat
  viol : SMap (BitVec 48)
  deriving DecidableEq, Repr

/-- The fuses (R418): key hash with its mark, number of rollback bits, debug lock, region protection, role lock, serial
number. A bit only ever goes from 0 to 1. -/
structure Fuses where
  key : BitVec 256
  mark : Byte
  rollback : Nat
  debug : Bool
  protect : BitVec 4
  roleLock : Nat
  serial : BitVec 64
  deriving DecidableEq, Repr

/-- The instructions of the IEEE 1149.1 port (R420): the four it always offers, and any other by its code. -/
inductive JtagInstr where
  | bypass
  | idcode
  | samplePreload
  | extest
  | other (code : Nat)
  deriving DecidableEq, Repr

/-- A migration (R429): source, destination, the destination's mode before it, state copied, tick, its MIG_START. -/
structure Mig where
  src : Nat
  dst : Nat
  former : Nat
  copied : Bool
  start : BitVec 48
  ref : CauseRef
  deriving DecidableEq, Repr

/-- A lane test (R426, R432): lane, first mismatch seen, passes of a retest (none for an ordinary test). -/
structure LaneTest where
  lane : Nat
  second : Bool
  retest : Option Nat
  deriving DecidableEq, Repr

/-- What BIST_REPORT tells of a lane (R436): tested, last test failed, passes, tick of the last pass. -/
structure LaneReport where
  tested : Bool
  fail : Bool
  passes : Nat
  last : Option (BitVec 48)
  deriving DecidableEq, Repr

/-- A background BIST command (R436): code, units still to test, status so far, ended. -/
structure BistCmd where
  code : Nat
  left : List Nat
  status : Nat
  ended : Bool
  deriving DecidableEq, Repr

/-- Self-test (R426 to R437): migration, test, command, reports, LANE resets held for a lane (R358, R437), mode words of
lanes that failed while they held a configuration (R433). -/
structure BistRt where
  mig : Option Mig
  test : Option LaneTest
  cmd : Option BistCmd
  reports : SMap LaneReport
  heldGo : List Nat
  parked : SMap Word
  deriving DecidableEq, Repr

/-- The chip: every piece of state but the byte memories. -/
structure Chip where
  /-- every register of the map, those of lanes and carriages in force (R458 to R463) -/
  regs : SMap Word
  /-- staged register values by address: lanes (R15, R468), carriage descriptors (R192) -/
  staged : SMap Word
  /-- lane values captured by apply and not yet in force (R468) -/
  captured : SMap Word
  /-- RL partner latches, key interface × 65536 + address (R382, R477) -/
  latch : SMap Word
  /-- bytes last returned to each interface -/
  rdata : SMap (List Byte)
  pw : Power
  tm : Time
  lg : Log
  ft : Faults
  /-- numbers the free values drawn so far: the model's own field -/
  freeCount : Nat
  ain : SMap AinRt
  cal : SMap CalRt
  /-- local memory of each lane -/
  lanes : SMap LaneRt
  /-- the MOT pool, oldest first -/
  mot : List MotObj
  /-- follow records by primary lane (R171) -/
  follows : SMap Follow
  /-- follow-owned leads (R178) -/
  ownedLeads : List Nat
  /-- lines that stay after FOLLOW_CLEAR, in samples by lane (R172) -/
  lines : SMap Nat
  /-- carriages by id -/
  carr : SMap CarrRt
  /-- record sequence, key carriage × 128 + lane (R204) -/
  recSeq : SMap Nat
  /-- at the head, the ids that the foot's map reserves (R210, R211) -/
  heldMap : List Nat
  /-- at the head, segments completed since the last train (R259) -/
  toLink : List Seg
  /-- at a foot or solo part, segments for the ring and the ports (R296) -/
  toOut : List Seg
  /-- at a foot, a changed map of reserved ids is to be sent (R210) -/
  idmapDue : Bool
  /-- the Jedon link -/
  lk : LinkRt
  /-- control path and time distribution -/
  cp : CtrlRt
  /-- whisper receiver, domain K -/
  wsp : WspRt
  /-- audio ports (R277 to R292) -/
  ports : SMap PortRt
  /-- carriages at the ports (R282) -/
  plays : SMap PlayRt
  /-- privileged slots (R299) -/
  privs : SMap PrivRt
  /-- host port and shared ring (R293 to R298) -/
  host : HostRt
  /-- control bus and attention messages -/
  twb : TwbRt
  /-- synthesiser -/
  clk : ClkRt
  sens : SensRt
  /-- boot store -/
  store : StoreRt
  /-- the fuses themselves -/
  fuse : Fuses
  /-- key hash as the mirror holds it, domain K (R418, R425) -/
  keyShown : BitVec 256
  /-- instruction register of the IEEE 1149.1 port (R420) -/
  jtag : JtagInstr
  bist : BistRt
  deriving DecidableEq, Repr

/-- The byte memories: mailbox payload window (R470), configuration staging buffer (R407), carriage memory (R296) and
boot-store flash (R393). -/
structure Mem where
  win : SMap Byte
  stage : SMap Byte
  cmem : SMap Byte
  flash : SMap Byte
  deriving DecidableEq, Repr

/-- The part: chip, memories, and the commands that wait, first in, first out. -/
structure State where
  chip : Chip
  mem : Mem
  pending : List Instr
  deriving DecidableEq, Repr

/-- The chip at reset: registers at their reset words, everything else empty or at the value named in the log. -/
def Chip.reset : Chip where
  regs := []
  staged := []
  captured := []
  latch := []
  rdata := []
  pw := ⟨.starting, true, false, 0, 0, none, false, none, none, none, none, 0, 0, 0, 0, 0, true⟩
  tm := ⟨0, 0, 0, true, false, 0, 0, none, none⟩
  lg := ⟨[], [], [], 0, none⟩
  ft := ⟨[], 0, none, none, 0⟩
  freeCount := 0
  ain := []
  cal := []
  lanes := []
  mot := []
  follows := []
  ownedLeads := []
  lines := []
  carr := []
  recSeq := []
  heldMap := []
  toLink := []
  toOut := []
  idmapDue := false
  lk := LinkRt.reset
  cp := CtrlRt.reset
  wsp := ⟨[], none, false, none, none, none, none, [], []⟩
  ports := []
  plays := []
  privs := []
  host := ⟨[], ⟨0, none⟩, [], false, false⟩
  twb := ⟨[], false, [], none, 0, 0, 0, [], 0, 0⟩
  clk := ⟨none, false, none, none, none, none, false, none, none⟩
  sens := ⟨false, false, false, false, false⟩
  store := ⟨0, [], [], [], [], [], [], none, [], []⟩
  fuse := ⟨0, 0, 0, false, 0, 0, 0⟩
  keyShown := 0
  jtag := .idcode
  bist := ⟨none, none, none, [], [], []⟩

/-- The memories at reset: nothing listed. -/
def Mem.reset : Mem := ⟨[], [], [], []⟩

/-- The part right after the power-on reset, its start not yet run (R353); no command waits. -/
def State.reset : State := ⟨Chip.reset, Mem.reset, []⟩

/-- Memories in canonical form. -/
def Mem.wf (m : Mem) : Bool :=
  smWf zeroByte m.win && smWf zeroByte m.stage && smWf zeroByte m.cmem && smWf erasedByte m.flash

/-- What a command answers. -/
abbrev Outc := Host.Outcome State Fault Refusal

end Sys2Proof.Machine
end

