-- ==== Sys2Proof/Machine/Ops.lean ====
section
/-! DEFINITION. The named operations over registers, windows and units that the meanings share: reading and writing a
register or a field, counters with their wrap flags (R382), roles and power states, list helpers. -/
namespace Sys2Proof.Machine

/-- A value with bits [lo + width - 1 : lo] replaced. -/
def putBits (w : Word) (lo width v : Nat) : Word :=
  let m := (2 ^ width - 1) * 2 ^ lo
  (w &&& ~~~ BitVec.ofNat 32 m) ||| (BitVec.ofNat 32 (v * 2 ^ lo) &&& BitVec.ofNat 32 m)

/-- Bits [lo + width - 1 : lo] of a word as a number. -/
def getBits (w : Word) (lo width : Nat) : Nat := w.toNat / 2 ^ lo % 2 ^ width

/-- The word a register holds. -/
def rd (x : Chip) (addr : Nat) : Word := smGet resetWord x.regs addr

/-- Set the word a register holds. -/
def wr (x : Chip) (addr : Nat) (v : Word) : Chip := { x with regs := smPut resetWord x.regs addr v }

/-- A field's value. -/
def fget (x : Chip) (f : Fld) : Nat := getBits (rd x f.addr) f.lo f.width

/-- Set a field. -/
def fset (x : Chip) (f : Fld) (v : Nat) : Chip := wr x f.addr (putBits (rd x f.addr) f.lo f.width v)

/-- Whether a field is other than 0. -/
def fon (x : Chip) (f : Fld) : Bool := fget x f != 0

/-- Set or clear a one-bit field. -/
def fflag (x : Chip) (f : Fld) (b : Bool) : Chip := fset x f (if b then 1 else 0)

/-- One bit of a field. -/
def Fld.bit (f : Fld) (i : Nat) : Fld := ⟨f.addr, f.lo + i, 1⟩

/-- Set a list of fields in order. -/
def fsets (x : Chip) : List (Fld × Nat) → Chip
  | [] => x
  | (f, v) :: r => fsets (fset x f v) r

/-- Set registers to their reset words. -/
def wrResets (x : Chip) : List Nat → Chip
  | [] => x
  | a :: r => wrResets (wr x a (resetWord a)) r

/-- An event counter counts n: 32 bits, wrapping to 0 and setting its sticky wrap flag (R382). -/
def count (x : Chip) (addr : Nat) (wrap : Fld) (n : Nat) : Chip :=
  let v := (rd x addr).toNat + n
  let y := wr x addr (BitVec.ofNat 32 v)
  if 2 ^ 32 ≤ v then fset y wrap 1 else y

/-- The signed value of a w-bit field. -/
def sext (w v : Nat) : Int := if v < 2 ^ (w - 1) then v else (v : Int) - 2 ^ w

/-- A signed value in w bits. -/
def tcomp (w : Nat) (i : Int) : Nat := (i % (2 ^ w : Int)).toNat

/-- A signed value clipped to [-(2^(w-1)), 2^(w-1) - 1]. -/
def clip (w : Nat) (i : Int) : Int := max (-(2 ^ (w - 1) : Int)) (min i (2 ^ (w - 1) - 1))

/-- A number saturated at the largest of w bits. -/
def sat (w v : Nat) : Nat := min v (2 ^ w - 1)

/-- The least a with b * a not below n. -/
def ceilDiv (n b : Nat) : Nat := (n + b - 1) / b

/-- The entry of a list, or a default. -/
def nth {α : Type} (d : α) (l : List α) (i : Nat) : α := (l[i]?).getD d

/-- A list with one entry replaced. -/
def setNth {α : Type} (l : List α) (i : Nat) (v : α) : List α := l.set i v

/-- The first n of a list, padded with a default. -/
def pad {α : Type} (d : α) (n : Nat) (l : List α) : List α := l.take n ++ List.replicate (n - l.length) d

/-- A fold over 0 to n - 1. -/
def upTo {α : Type} (n : Nat) (f : Nat → α → α) (a : α) : α := (List.range n).foldl (fun y i => f i y) a

/-- The next free value (one that the manual leaves open). -/
def free (x : Chip) : Word := Config.freeWord x.freeCount

/-- Move on to the next free value. -/
def freeNext (x : Chip) : Chip := { x with freeCount := x.freeCount + 1 }

/-- The role in force (R1): `GEN_ROLE.role`, 1 HEAD, 2 FOOT, 3 SOLO. -/
def role (x : Chip) : Nat := fget x F.GEN_ROLE_role

/-- The part is a head. -/
def isHead (x : Chip) : Bool := role x == 1

/-- The part is a foot. -/
def isFoot (x : Chip) : Bool := role x == 2

/-- The part is on its own. -/
def isSolo (x : Chip) : Bool := role x == 3

/-- The power state in force (R348): 0 ACTIVE, 1 QUIET, 2 STANDBY, 3 GLIDE. -/
def pstate (x : Chip) : Nat := fget x F.SUP_STATE_state

/-- Firmware runs: management answers, takes events and executes (R378, R385, R400). -/
def mgmtUp (x : Chip) : Bool :=
  match x.pw.phase with
  | .loading | .running | .recovery | .halted => true
  | _ => false

/-- The early warning has shed the part's load (R344). -/
def shed (x : Chip) : Bool := fon x F.SUP_STATUS_shed

/-- The part runs its full firmware, unhalted. -/
def partRuns (x : Chip) : Bool := x.pw.phase == .running

/-- Aerials and lanes may run: ACTIVE, firmware running, load not shed (R31, R344). -/
def rfRuns (x : Chip) : Bool := partRuns x && (pstate x == 0 && (x.pw.trans.isNone && !shed x))

/-- Domain D is powered: ACTIVE or QUIET with the part started (R7, R350). -/
def dUp (x : Chip) : Bool := (partRuns x || x.pw.phase == .halted) && decide (pstate x ≤ 1)

/-- An address of the LINK block. -/
def isLinkAddr (addr : Nat) : Bool := decide (0x400 ≤ addr) && decide (addr < 0x500)

/-- An address of the LANE block. -/
def isLaneAddr (addr : Nat) : Bool := decide (0x1000 ≤ addr) && decide (addr < 0x2A00)

/-- An address of the CARR block. -/
def isCarrAddr (addr : Nat) : Bool := decide (0x4000 ≤ addr) && decide (addr < 0x5000)

/-- Apply a chip operation to the whole state. -/
def onChip (f : Chip → Chip) (s : State) : State := { s with chip := f s.chip }

end Sys2Proof.Machine
end

