-- ==== Sys2Proof/Machine/Operands.lean ====
section
/-! DEFINITION. Operand forms: bytes and little-endian words, packed event arguments (R376, R377), mailbox arguments and
the payload window (R362), CRC-8, CRC-16 and CRC-32 over octets. -/
namespace Sys2Proof.Machine

/-- The n low octets of a number, least significant first. -/
def le (n v : Nat) : List Byte := (List.range n).map fun i => BitVec.ofNat 8 (v / 256 ^ i)

/-- The n octets of a signed number, least significant first. -/
def leInt (n : Nat) (v : Int) : List Byte := le n (tcomp (8 * n) v)

/-- The n low octets of a number, most significant first. -/
def be (n v : Nat) : List Byte := (le n v).reverse

/-- The number that octets hold, least significant first. -/
def unle : List Byte → Nat
  | [] => 0
  | b :: r => b.toNat + 256 * unle r

/-- The number that octets hold, most significant first. -/
def unbe (l : List Byte) : Nat := unle l.reverse

/-- Octets i to i + n - 1 of a list, least significant first. -/
def field (l : List Byte) (i n : Nat) : Nat := unle ((l.drop i).take n)

/-- A one-byte argument. -/
def b1 (v : Nat) : List Byte := le 1 v

/-- A two-byte argument. -/
def b2 (v : Nat) : List Byte := le 2 v

/-- A four-byte argument. -/
def b4 (v : Nat) : List Byte := le 4 v

/-- A count that saturates at 0xFFFF. -/
def b2s (v : Nat) : List Byte := le 2 (sat 16 v)

/-- A signed two-byte argument. -/
def i2 (v : Int) : List Byte := leInt 2 v

/-- A mailbox argument (R362). -/
def arg (x : Chip) (i : Nat) : Nat := (rd x (R.MGMT_ARG i)).toNat

/-- Set a mailbox argument. -/
def setArg (x : Chip) (i v : Nat) : Chip := wr x (R.MGMT_ARG i) (BitVec.ofNat 32 v)

/-- Set mailbox arguments in order. -/
def setArgs (x : Chip) : List (Nat × Nat) → Chip
  | [] => x
  | (i, v) :: r => setArgs (setArg x i v) r

/-- n bytes of the payload window (R470). -/
def winBytes (s : State) (i n : Nat) : List Byte := bytesAt zeroByte s.mem.win i n

/-- Write bytes into the payload window. -/
def putWin (s : State) (i : Nat) (l : List Byte) : State :=
  { s with mem := { s.mem with win := putBytes zeroByte s.mem.win i l } }

/-- One step of a CRC register, most significant bit first. -/
def crcBit (width poly : Nat) (r : Nat) (bit : Bool) : Nat :=
  let top := decide (r / 2 ^ (width - 1) % 2 = 1)
  let sh := r * 2 % 2 ^ width
  if top != bit then sh ^^^ poly else sh

/-- The eight bits of an octet, most significant first. -/
def bitsMsb (b : Byte) : List Bool := (List.range 8).map fun i => b.getLsbD (7 - i)

/-- The eight bits of an octet, least significant first. -/
def bitsLsb (b : Byte) : List Bool := (List.range 8).map fun i => b.getLsbD i

/-- A CRC over octets, most significant bit first. -/
def crcMsb (width poly init : Nat) (l : List Byte) : Nat :=
  (l.flatMap bitsMsb).foldl (crcBit width poly) init

/-- The number whose bits of the given width are mirrored. -/
def mirror (width v : Nat) : Nat :=
  (List.range width).foldl (fun a i => a + (v / 2 ^ i % 2) * 2 ^ (width - 1 - i)) 0

/-- CRC-32 of IEEE 802.3: polynomial 0x04C11DB7, octets least significant bit first, register of ones, result inverted
and mirrored. -/
def crc32 (l : List Byte) : Nat :=
  mirror 32 ((l.flatMap bitsLsb).foldl (crcBit 32 0x04C11DB7) 0xFFFFFFFF ^^^ 0xFFFFFFFF)

/-- CRC-16 with polynomial 0x1021 and a register of ones (R253, R257). -/
def crc16 (l : List Byte) : Nat := crcMsb 16 0x1021 0xFFFF l

/-- CRC-8 with polynomial 0x07 and a register of ones (R243). -/
def crc8 (l : List Byte) : Nat := crcMsb 8 0x07 0xFF l

end Sys2Proof.Machine
end

