-- ==== Sys2Proof/Machine/Flags.lean ====
section
/-! DEFINITION. What an update shows outside its own register: interrupt causes (R381, R390), event-log entries with
their sequence, epoch and tick (R28, R376 to R380). -/
namespace Sys2Proof.Machine

/-- The bits of `MGMT_INT_CAUSE` (R390). -/
inductive IntCause where
  | mbox
  | log
  | fault
  | warn
  | rtc
  | time
  | sens
  | supply
  | clk
  | link
  | aport
  | carr
  | follow
  | bist
  | store
  | cal
  | ain
  deriving DecidableEq, Repr

/-- The field of an interrupt cause. -/
def IntCause.fld : IntCause → Fld
  | .mbox => F.MGMT_INT_CAUSE_mbox
  | .log => F.MGMT_INT_CAUSE_log
  | .fault => F.MGMT_INT_CAUSE_fault
  | .warn => F.MGMT_INT_CAUSE_warn
  | .rtc => F.MGMT_INT_CAUSE_rtc
  | .time => F.MGMT_INT_CAUSE_time
  | .sens => F.MGMT_INT_CAUSE_sens
  | .supply => F.MGMT_INT_CAUSE_supply
  | .clk => F.MGMT_INT_CAUSE_clk
  | .link => F.MGMT_INT_CAUSE_link
  | .aport => F.MGMT_INT_CAUSE_aport
  | .carr => F.MGMT_INT_CAUSE_carr
  | .follow => F.MGMT_INT_CAUSE_follow
  | .bist => F.MGMT_INT_CAUSE_bist
  | .store => F.MGMT_INT_CAUSE_store
  | .cal => F.MGMT_INT_CAUSE_cal
  | .ain => F.MGMT_INT_CAUSE_ain

/-- Set an interrupt cause. -/
def setCause (x : Chip) (c : IntCause) : Chip := fset x c.fld 1

/-- Event sources (R27). -/
def srcGen : Nat := 0x00
def srcSup : Nat := 0x01
def srcClk : Nat := 0x02
def srcSens : Nat := 0x03
def srcAin (a : Nat) : Nat := 0x04 + a
def srcCal : Nat := 0x08
def srcSpl : Nat := 0x09
def srcCoach (c : Nat) : Nat := 0x10 + c
def srcLane (n : Nat) : Nat := 0x10 + n / 8
def srcLink : Nat := 0x20
def srcAport (p : Nat) : Nat := 0x28 + p
def srcHost : Nat := 0x2C
def srcTwb : Nat := 0x2D
def srcCarr : Nat := 0x2E
def srcBist : Nat := 0x30
def srcStore : Nat := 0x31
def srcMgmt : Nat := 0x32
def srcFuse : Nat := 0x33
def srcRtc : Nat := 0x34

/-- An identifier of R27. -/
def isSource (i : Nat) : Bool :=
  decide (i ≤ 0x09) || (decide (0x10 ≤ i) && decide (i ≤ 0x1C)) || i == 0x20 ||
    (decide (0x28 ≤ i) && decide (i ≤ 0x2E)) || (decide (0x30 ≤ i) && decide (i ≤ 0x34))

/-- The next sequence number of a source (R28). -/
def nextSeq (x : Chip) (src : Nat) : BitVec 16 := smGet (fun _ => 0) x.lg.seqs src

/-- The epoch in force (R368). -/
def epoch (x : Chip) : Nat := fget x F.RTC_EPOCH_e

/-- The sixteen octets of an entry as one value. -/
def entryOf (l : List Byte) : Entry := BitVec.ofNat 128 (unle l)

/-- The entries of an event (R376, R377): one, or two where the arguments exceed four octets or a cause is named.
`cause` is the cause named, none where there is none. -/
def packEvent (src code seq epoch tick : Nat) (args : List Byte) (cause : Option CauseRef) : List Entry :=
  let first := b1 src ++ b1 code ++ b2 seq ++ b2 epoch ++ le 6 tick ++ pad 0 4 args
  if cause.isSome || decide (4 < args.length) then
    let c := match cause with
      | some r => b1 r.src ++ b2 r.seq
      | none => [0xFF, 0, 0]
    [entryOf first, entryOf (b1 src ++ b1 (code + 0x80) ++ b2 seq ++ pad 0 9 (args.drop 4) ++ c)]
  else [entryOf first]

/-- Bits of `MGMT_FAULT_STATUS.wrap` (R390). -/
def logWrWrap : Fld := F.MGMT_FAULT_STATUS_wrap.bit 5
def logLostWrap : Fld := F.MGMT_FAULT_STATUS_wrap.bit 6
def cmdCountWrap : Fld := F.MGMT_FAULT_STATUS_wrap.bit 7
def faultLostWrap : Fld := F.MGMT_FAULT_STATUS_wrap.bit 0
def faultCountWrap (i : Nat) : Fld := F.MGMT_FAULT_STATUS_wrap.bit (1 + i)

/-- A lost entry counted where the next one overwrites an entry not yet mirrored (R380). -/
def entryLost (x : Chip) : Chip :=
  if fon x F.MGMT_LOG_CFG_mirror &&
      decide (2048 ≤ ((rd x R.MGMT_LOG_WR).toNat + 2 ^ 32 - (rd x R.MGMT_LOG_MIRROR).toNat) % 2 ^ 32)
    then count x R.MGMT_LOG_LOST logLostWrap 1 else x

/-- An entry placed at the write index, which counts (R378). -/
def entryPlace (x : Chip) (e : Entry) : Chip :=
  count { x with lg := { x.lg with ring := smPut (fun _ => 0) x.lg.ring ((rd x R.MGMT_LOG_WR).toNat % 2048) e } }
    R.MGMT_LOG_WR logWrWrap 1

/-- Cause `log` after every `thr` entries (R380). -/
def entryCause (x : Chip) : Chip :=
  let n := x.lg.sinceCause + 1
  let thr := fget x F.MGMT_LOG_CFG_thr
  if thr ≠ 0 ∧ thr ≤ n then setCause { x with lg := { x.lg with sinceCause := 0 } } .log
  else { x with lg := { x.lg with sinceCause := n } }

/-- Place one entry in the ring of 2048 (R378), counting a lost entry where it overwrites one not yet mirrored (R380)
and setting cause `log` after every `thr` entries. -/
def pushEntry (x : Chip) (e : Entry) : Chip := entryCause (entryPlace (entryLost x) e)

/-- Place entries in order. -/
def pushEntries (x : Chip) : List Entry → Chip
  | [] => x
  | e :: r => pushEntries (pushEntry x e) r

/-- Raise an event at a tick (R27 to R29, R376 to R379): its source numbers it, and it reaches the ring at once while
management runs; otherwise it waits in its source's queue of eight, or is lost and counted. -/
def raiseAt (x : Chip) (tick : BitVec 48) (src code : Nat) (args : List Byte)
    (cause : Option CauseRef) : Chip :=
  let seq := nextSeq x src
  let es := packEvent src code seq.toNat (epoch x) tick.toNat args cause
  let x1 := { x with lg := { x.lg with seqs := smPut (fun _ => 0) x.lg.seqs src (seq + 1) } }
  if mgmtUp x then pushEntries x1 es
  else if (x1.lg.queue.filter fun q => q.src == src).length < 8 then
    { x1 with lg := { x1.lg with queue := x1.lg.queue ++ [⟨src, es⟩] } }
  else count x1 R.MGMT_LOG_LOST logLostWrap 1

/-- The cause that an event of a source names (R29): the event of another source whose effects are taking place. -/
def causeOf (x : Chip) (src : Nat) : Option CauseRef := x.lg.because.filter fun r => r.src != src

/-- Raise an event. -/
def raise (x : Chip) (src code : Nat) (args : List Byte) : Chip :=
  raiseAt x x.tm.ticks src code args (causeOf x src)

/-- Raise an event with a cause of its own, where there is one. -/
def raiseBy (x : Chip) (src code : Nat) (args : List Byte) (cause : Option CauseRef) : Chip :=
  raiseAt x x.tm.ticks src code args cause

/-- The sequence of the event that a source raised last. -/
def lastSeq (x : Chip) (src : Nat) : Nat := (nextSeq x src - 1).toNat

/-- A cause reference to the event that a source raised last. -/
def lastRef (x : Chip) (src : Nat) : CauseRef := ⟨src, lastSeq x src⟩

/-- Events raised while f is done name r as their cause (R29). -/
def because (r : CauseRef) (f : Chip → Chip) (x : Chip) : Chip :=
  let y := f { x with lg := { x.lg with because := some r } }
  { y with lg := { y.lg with because := x.lg.because } }

/-- Such an event: the one that a source raised last. -/
def after (src : Nat) (f : Chip → Chip) (x : Chip) : Chip := because (lastRef x src) f x

/-- Deliver the events that waited in the sources' queues, in order (R378). -/
def deliverQueues (x : Chip) : Chip :=
  pushEntries { x with lg := { x.lg with queue := [] } } (x.lg.queue.flatMap Queued.entries)

/-- The log entry of an index, 16 zero octets where it is not held (R378). -/
def logEntry (x : Chip) (i : Nat) : Entry :=
  let n := (rd x R.MGMT_LOG_WR).toNat
  if (n + 2 ^ 32 - i) % 2 ^ 32 ≤ 2048 ∧ i ≠ n then smGet (fun _ => 0) x.lg.ring (i % 2048) else 0

/-- The sixteen octets of an entry. -/
def entryBytes (e : Entry) : List Byte := le 16 e.toNat

end Sys2Proof.Machine
end

