-- ==== Sys2Proof/Machine/Mailbox.lean ====
section
/-! DEFINITION. The mailbox (R362 to R366): issuing and completing a command, its statuses, and the general commands. -/
namespace Sys2Proof.Machine

/-- Statuses of R364. -/
def stOk : Nat := 0x00
def stBusy : Nat := 0x01
def stRegionBusy : Nat := 0x02
def stNotBlank : Nat := 0x03
def stWorn : Nat := 0x04
def stBadArg : Nat := 0x05
def stDenied : Nat := 0x06
def stBadSignature : Nat := 0x07
def stTimeout : Nat := 0x08
def stAborted : Nat := 0x09
def stVerifyFail : Nat := 0x0A
def stNotInState : Nat := 0x0B

/-- What a mailbox command answers: the state it leaves, its status, and its result bytes in the window. -/
structure MRes where
  st : State
  status : Nat
  len : Nat

/-- A command that changes nothing and answers a status. -/
def refuse (s : State) (status : Nat) : MRes := ⟨s, status, 0⟩

/-- A command that leaves a chip and answers OK without payload. -/
def okChip (s : State) (x : Chip) : MRes := ⟨{ s with chip := x }, stOk, 0⟩

/-- The codes that chapters of the manual define (R364, R365). -/
def knownCode (c : Nat) : Bool :=
  decide (c ≤ 0x08) || c == 0x18 || (decide (0x20 ≤ c) && decide (c ≤ 0x28)) ||
    (decide (0x30 ≤ c) && decide (c ≤ 0x34)) || (decide (0x40 ≤ c) && decide (c ≤ 0x44)) || c == 0x50 ||
    (decide (0x60 ≤ c) && decide (c ≤ 0x65))

/-- The commands that recovery serves (R400); with no usable boot store, those that need none. -/
def recoveryServes (x : Chip) (code : Nat) : Bool :=
  code == 0x00 || (code == 0x01 || (code == 0x65 ||
    (decide (0 < x.store.mib) && (code == 0x20 || (code == 0x21 || (decide (0x60 ≤ code) && decide (code ≤ 0x64)))))))

/-- A status that management gives before looking at a command: DENIED while halted but for NOP, GET_INFO, LOG_READ,
CRUMB_READ and DUMP_INFO (R385), and in recovery to what it does not serve (R400). -/
def mboxGate (x : Chip) (code : Nat) : Option Nat :=
  match x.pw.phase with
  | .halted => if code ∈ [0x00, 0x01, 0x02, 0x05, 0x07] then none else some stDenied
  | .recovery => if recoveryServes x code then none else some stDenied
  | _ => none

/-- The write of `MGMT_CMD` as it is accepted: code, owner, busy (R362, R363). -/
def mboxIssue (x : Chip) (o : Iface) (code : Nat) : Chip :=
  fsets x [(F.MGMT_CMD_code, code), (F.MGMT_CMD_owner, o.code), (F.MGMT_STATUS_busy, 1)]

/-- Completion (R362): length and status, busy cleared, cause `mbox`, one more command completed. The duration is a free
value. -/
def mboxDone (x : Chip) (status len : Nat) : Chip :=
  let x1 := fsets x [(F.MGMT_STATUS_len, len), (F.MGMT_STATUS_status, status), (F.MGMT_STATUS_busy, 0)]
  let x2 := freeNext (wr x1 R.MGMT_CMD_TIME (free x1))
  count (setCause x2 .mbox) R.MGMT_CMD_COUNT cmdCountWrap 1

/-- Management refuses every new command: fatal handling runs and has not halted (R385). -/
def mboxClosed (x : Chip) : Bool := x.ft.fatal.isSome && x.pw.phase != .halted

/-- A mailbox command (R362, R363): a running command of the same code completes; while another runs, or in fatal
handling, the write is ignored and `refused` set; otherwise the command is issued and completes. -/
def mailbox (code : Nat) (o : Iface) (body : State → MRes) (s : State) : State :=
  let x := s.chip
  if mgmtUp x then
    if mboxClosed x || (fon x F.MGMT_STATUS_busy && fget x F.MGMT_CMD_code != code) then
      onChip (fun y => fset y F.MGMT_STATUS_refused 1) s
    else
      let s1 := if fon x F.MGMT_STATUS_busy then s else onChip (fun y => mboxIssue y o code) s
      let r := match mboxGate x code with
        | some st => refuse s1 st
        | none => body s1
      onChip (fun y => mboxDone y r.status r.len) r.st
  else s

/-- NOP (R366). -/
def execNop (o : Iface) (s : State) : Outc := .next (mailbox 0x00 o (fun s => refuse s stOk) s)

/-- A code that names no command answers BAD_ARG (R364). -/
def execUnknownCmdCode (o : Iface) (code : Nat) (s : State) : Outc :=
  .next (if knownCode (code % 256) then s else mailbox (code % 256) o (fun s => refuse s stBadArg) s)

/-- The 32 bytes of GET_INFO (R366). -/
def infoBytes (x : Chip) : List Byte :=
  le 4 (rd x R.GEN_ID).toNat ++ le 4 (rd x R.GEN_REV).toNat ++ le 4 (rd x R.MGMT_FW_VER).toNat
    ++ le 4 (rd x R.FUSE_SERIAL_LO).toNat ++ le 4 (rd x R.FUSE_SERIAL_HI).toNat
    ++ b1 (role x) ++ b1 (fget x F.GEN_CAPACITY_lanes) ++ b1 (fget x F.STORE_FW_slot) ++ List.replicate 9 0

/-- GET_INFO (R366). -/
def execGetInfo (o : Iface) (s : State) : Outc :=
  .next (mailbox 0x01 o (fun s => ⟨putWin s 0 (infoBytes s.chip), stOk, 32⟩) s)

/-- Entries held in the ring: at most 2048, none of them 16 zero bytes (R376, R378). -/
def logHeld (x : Chip) : Nat := x.lg.ring.length

/-- The oldest index held (R378). -/
def logOldest (x : Chip) : Nat := ((rd x R.MGMT_LOG_WR).toNat + 2 ^ 32 - logHeld x) % 2 ^ 32

/-- The first index that LOG_READ returns: the one asked for, or the oldest held where that is older (R366). -/
def logFirst (x : Chip) (i : Nat) : Nat :=
  let age := ((rd x R.MGMT_LOG_WR).toNat + 2 ^ 32 - i) % 2 ^ 32
  if logHeld x < age ∧ age < 2 ^ 31 then logOldest x else i

/-- The number of entries that LOG_READ returns from an index. -/
def logAvail (x : Chip) (i n : Nat) : Nat :=
  let age := ((rd x R.MGMT_LOG_WR).toNat + 2 ^ 32 - i) % 2 ^ 32
  if age < 2 ^ 31 then min n age else 0

/-- The body of LOG_READ (R366). -/
def logRead (s : State) : MRes :=
  let x := s.chip
  let n := arg x 1
  if 256 < n then refuse s stBadArg
  else if n = 0 then
    okChip s (setArgs x [(0, logOldest x), (1, (rd x R.MGMT_LOG_WR).toNat)])
  else
    let first := logFirst x (arg x 0)
    let k := logAvail x first n
    let bytes := (List.range k).flatMap fun i => entryBytes (logEntry x ((first + i) % 2 ^ 32))
    let s1 := putWin s 0 bytes
    ⟨{ s1 with chip := setArgs x [(0, first), (1, k)] }, stOk, 16 * k⟩

/-- LOG_READ (R366). -/
def execLogRead (o : Iface) (s : State) : Outc := .next (mailbox 0x02 o logRead s)

/-- CRUMB_READ (R366). -/
def execCrumbRead (o : Iface) (s : State) : Outc :=
  .next (mailbox 0x05 o (fun s => match s.chip.ft.crumb with
    | some c => ⟨putWin s 0 c, stOk, 64⟩
    | none => refuse s stOk) s)

/-- The crumb discarded (R366, R387). -/
def crumbClear (x : Chip) : Chip :=
  fset { x with ft := { x.ft with crumb := none } } F.GEN_RESET_CAUSE_crumb 0

/-- CRUMB_CLEAR (R366). -/
def execCrumbClear (o : Iface) (s : State) : Outc :=
  .next (mailbox 0x06 o (fun s => okChip s (crumbClear s.chip)) s)

end Sys2Proof.Machine
end

