-- ==== Sys2Proof/Machine/Time.lean ====
section
/-! DEFINITION. Time (R355, R367 to R373): ticks, wall time and its steps, the epoch, the sample-time counter and its
latch, the alarm's arming. -/
namespace Sys2Proof.Machine

/-- Wall time: ticks plus offset (R368). -/
def wall (x : Chip) : BitVec 48 := x.tm.ticks + x.tm.offset

/-- The epoch raised by 1 with its flag and event (R370). -/
def epochUp (x : Chip) : Chip :=
  let e := epoch x
  fset (fset x F.RTC_EPOCH_e (e + 1)) F.RTC_STATUS_back 1

/-- Wall time becomes a target, by origin 0 `RTC_SECONDS`, 1 TIME_SET or 2 WALL (R369, R370). -/
def setWall (x : Chip) (origin : Nat) (target : BitVec 48) : Chip :=
  let off := target - x.tm.ticks
  let step : Int := (off - x.tm.offset).toInt
  if step = 0 then x
  else
    let e := epoch x
    let x1 := { x with tm := { x.tm with offset := off } }
    let x2 := wr (wr x1 R.MGMT_STEP_LO (BitVec.ofInt 32 step)) R.MGMT_STEP_HI (BitVec.ofInt 32 (step / 2 ^ 32))
    let x3 := setCause (fset x2 F.RTC_STATUS_stepped 1) .time
    let x4 := if step < 0 then epochUp x3 else x3
    let x5 := raise x4 srcRtc 0x02 (b1 origin ++ leInt 6 step)
    if step < 0 then raise x5 srcRtc 0x03 (b2 e ++ b2 (e + 1)) else x5

/-- TIME_SET (R366, R369). -/
def execTimeSet (o : Iface) (s : State) : Outc :=
  .next (mailbox 0x03 o (fun s =>
    let x := s.chip
    okChip s (setWall x 1 (BitVec.ofNat 48 (arg x 0 + 2 ^ 32 * (arg x 1 % 2 ^ 16))))) s)

/-- The results of TIME_GET, all of one instant (R366). -/
def timeArgs (x : Chip) : List (Nat × Nat) :=
  let t := x.tm.ticks.toNat
  let w := (wall x).toNat
  let m := x.tm.stime.toNat
  [(0, t % 2 ^ 32), (1, t / 2 ^ 32), (2, w % 2 ^ 32), (3, w / 2 ^ 32), (4, epoch x), (5, m % 2 ^ 32), (6, m / 2 ^ 32)]

/-- TIME_GET (R366). -/
def execTimeGet (o : Iface) (s : State) : Outc :=
  .next (mailbox 0x04 o (fun s => okChip s (setArgs s.chip (timeArgs s.chip))) s)

/-- The register write that sets wall time (R369). -/
def secondsWrite (x : Chip) (v : Word) : Chip :=
  setWall x 0 (BitVec.ofNat 48 (v.toNat * 2 ^ 15 + fget x F.RTC_CTRL_s47 * 2 ^ 47))

/-- RTC_SECONDS_WRITE (R369). -/
def execRtcSecondsWrite (v : Word) (s : State) : Outc :=
  .next (if mgmtUp s.chip then onChip (fun x => secondsWrite x v) s else s)

/-- The alarm armed (R372): the alarm tick latched, with the tick at which it fires. -/
def alarmArm (x : Chip) : Chip :=
  let a := BitVec.ofNat 48 ((rd x R.RTC_ALARM_LO).toNat + 2 ^ 32 * fget x F.RTC_ALARM_HI_a)
  let d := (a - x.tm.ticks).toNat
  let fire := if 1 ≤ d ∧ d < 2 ^ 47 then a else x.tm.ticks + 1
  fset { x with tm := { x.tm with alarm := some (a, fire) } } F.RTC_CTRL_arm 1

/-- The alarm disarmed without firing (R372). -/
def alarmDisarm (x : Chip) : Chip :=
  fset { x with tm := { x.tm with alarm := none } } F.RTC_CTRL_arm 0

/-- RTC_ARM (R372): a 1 written to `arm`; ignored while it already reads 1 (R382). -/
def execRtcArm (s : State) : Outc :=
  .next (if mgmtUp s.chip && !fon s.chip F.RTC_CTRL_arm then onChip alarmArm s else s)

/-- RTC_DISARM (R372). -/
def execRtcDisarm (s : State) : Outc := .next (if mgmtUp s.chip then onChip alarmDisarm s else s)

/-- Ticks at which a held sample-time counter is loaded: at least two after the latch, the sample clock running (R355). -/
def stimeLoads (t : Time) : Bool :=
  t.stimeHeld && t.clockRun && decide (2 ≤ (t.ticks + 1 - t.latchT).toNat)

/-- One RTC tick (R355, R367): the tick counter advances; a running sample-time counter has advanced by the counts given
and is latched with the tick; a held counter is loaded with F + ceil(62.5 (t - t_F)) at its instant and latched. -/
def tickTime (t : Time) (counts : Nat) : Time :=
  let n := t.ticks + 1
  if t.stimeHeld then
    if stimeLoads t then
      let f := t.latchF + BitVec.ofNat 64 (ceilDiv (125 * (n - t.latchT).toNat) 2)
      { t with ticks := n, stime := f, stimeHeld := false, latchF := f, latchT := n }
    else { t with ticks := n }
  else if t.clockRun then
    let m := t.stime + BitVec.ofNat 64 counts
    { t with ticks := n, stime := m, latchF := m, latchT := n }
  else { t with ticks := n }

/-- The sample clock has stopped: the counter holds from here (R355). -/
def sampleStop (x : Chip) : Chip := { x with tm := { x.tm with clockRun := false, stimeHeld := true } }

/-- The sample clock runs (R324, R355). At the start after POR the counter starts at 0 at once. -/
def sampleRun (x : Chip) (fresh : Bool) : Chip :=
  { x with tm := { x.tm with clockRun := true, stimeHeld := !fresh && x.tm.stimeHeld } }

end Sys2Proof.Machine
end

