-- ==== Sys2Proof/Machine/Sens.lean ====
section
/-! DEFINITION. The sensors (R374, R375, R392): die temperatures, COAX, their peaks and limits. -/
namespace Sys2Proof.Machine

/-- The field of a temperature point: 0 to 3 the ADCs, 4 and 5 the lane array, 6 the converter (R389, R392). -/
def tempFld (p : Nat) : Fld :=
  if p < 6 then ⟨R.SENS_TADC01 + 4 * (p / 2), 16 * (p % 2), 16⟩ else F.SENS_TCONV_t

/-- The temperature of a point in 1/16 °C; -2048 °C where there is no data (R392). -/
def pointTemp (x : Chip) (p : Nat) : Int := sext 16 (fget x (tempFld p))

/-- Highest of the seven points. -/
def hottest (x : Chip) : Int := (List.range 7).foldl (fun m p => max m (pointTemp x p)) (-32768)

/-- The point that reads highest, the first of equals. -/
def hottestPoint (x : Chip) : Nat := ((List.range 7).find? fun p => pointTemp x p == hottest x).getD 0

/-- A conversion of a point: its field, the highest, and the peak (R374, R392). -/
def senseTemp (x : Chip) (p : Nat) (t : Int) : Chip :=
  let x1 := fset x (tempFld p) (tcomp 16 t)
  let h := hottest x1
  let x2 := fset x1 F.SENS_TCONV_tmax (tcomp 16 h)
  if sext 16 (fget x2 F.SENS_PEAK_tmax) < h then fset x2 F.SENS_PEAK_tmax (tcomp 16 h) else x2

/-- `feed_low` of input a with COAX at a voltage (R42): the switch is closed and the regulator has less than 0.8 V. -/
def feedLowAt (mv : Nat) (x : Chip) (a : Nat) : Chip :=
  let set := if fon x (F.AIN_FEED_volt a) then 8000 else 5000
  fflag x (F.AIN_STATUS_feed_low a) (fon x (F.AIN_STATUS_feed_on a) && (mv != 0 && decide (mv < set + 800)))

/-- `feed_low` of input a with COAX as last measured. -/
def feedLow (x : Chip) (a : Nat) : Chip := feedLowAt (fget x F.SENS_COAX_mv) x a

/-- `feed_low` of every input with COAX at a voltage that the supply monitor has seen. -/
def feedsLowAt (mv : Nat) (x : Chip) : Chip := upTo 4 (fun a y => feedLowAt mv y a) x

/-- A measurement of the COAX voltage: the feeds that it leaves out of regulation, the lowest voltage (R42, R392). -/
def senseVolts (x : Chip) (mv : Nat) : Chip :=
  let x1 := upTo 4 (fun a y => feedLow y a) (fset x F.SENS_COAX_mv (sat 16 mv))
  if sat 16 mv < fget x1 F.SENS_PEAK_vmin then fset x1 F.SENS_PEAK_vmin (sat 16 mv) else x1

/-- A measurement of COAX voltage and current (R392). -/
def senseCoax (x : Chip) (mv ma : Nat) : Chip := senseVolts (fset x F.SENS_COAX_ma (sat 16 ma)) mv

/-- `now` reads 1 while any limit is exceeded (R392). -/
def sensNow (x : Chip) : Chip :=
  let l := x.sens
  fflag x F.SENS_STATUS_now (l.warn || l.err || l.vlo || l.vhi || l.ihi)

/-- A limit is crossed (R375): its flag, the count, the cause and its event. -/
def limitCross (x : Chip) (flag : Fld) (code : Nat) (args : List Byte) : Chip :=
  let x1 := count (fset x flag 1) R.SENS_LIMIT_COUNT F.SENS_STATUS_lim_wrap 1
  raise (setCause x1 .sens) srcSens code args

/-- One temperature limit against the highest point: crossed above it, cleared 3 °C inside it (R375). -/
def tempCheck (x : Chip) (err : Bool) : Chip :=
  let h := hottest x
  let lim : Int := 16 * ((fget x (if err then F.SENS_TLIM_err else F.SENS_TLIM_warn) : Int) - 64)
  let on := if err then x.sens.err else x.sens.warn
  let set := fun b => { x with sens := if err then { x.sens with err := b } else { x.sens with warn := b } }
  let args := fun k => b1 (hottestPoint x) ++ i2 h ++ b1 k
  if !on && decide (lim < h) then
    limitCross (set true) (if err then F.SENS_STATUS_terr else F.SENS_STATUS_twarn) 0x01 (args (if err then 2 else 1))
  else if on && decide (h ≤ lim - 48) then raise (set false) srcSens 0x01 (args 0)
  else x

/-- TEMP_LIMIT (R375). -/
def execTempLimit (point : Nat) (temp : Int) (s : State) : Outc :=
  .next (if point < 7 ∧ mgmtUp s.chip then
      onChip (fun x =>
        let y := sensNow (tempCheck (tempCheck (senseTemp x point temp) false) true)
        if point = 6 then count y R.SENS_CONV_COUNT F.SENS_STATUS_conv_wrap 1 else y) s
    else s)

/-- The COAX limits: 0 low, 1 high, 2 current. -/
def coaxOn (l : SensRt) (k : Nat) : Bool := if k = 0 then l.vlo else if k = 1 then l.vhi else l.ihi

/-- Set whether a COAX limit is crossed. -/
def setCoaxOn (l : SensRt) (k : Nat) (b : Bool) : SensRt :=
  if k = 0 then { l with vlo := b } else if k = 1 then { l with vhi := b } else { l with ihi := b }

/-- One COAX limit: crossed when exceeded, cleared 200 mV or 50 mA inside it (R375). -/
def coaxCheck (mv ma : Nat) (x : Chip) (k : Nat) : Chip :=
  let lo := 100 * fget x F.SENS_VLIM_lo
  let hi := 100 * fget x F.SENS_VLIM_hi
  let il := 10 * fget x F.SENS_ILIM_hi
  let beyond := if k = 0 then decide (mv < lo) else if k = 1 then decide (hi < mv) else decide (il < ma)
  let inside := if k = 0 then decide (lo + 200 ≤ mv) else if k = 1 then decide (mv + 200 ≤ hi) else decide (ma + 50 ≤ il)
  let flag := if k = 0 then F.SENS_STATUS_vlo else if k = 1 then F.SENS_STATUS_vhi else F.SENS_STATUS_ihi
  let args := fun c => b1 k ++ b1 c ++ b2s mv ++ b2s ma
  if !coaxOn x.sens k && beyond then
    limitCross { x with sens := setCoaxOn x.sens k true } flag 0x02 (args 1)
  else if coaxOn x.sens k && inside then
    raise { x with sens := setCoaxOn x.sens k false } srcSens 0x02 (args 0)
  else x

/-- COAX_LIMIT (R375). -/
def execCoaxLimit (mv ma : Nat) (s : State) : Outc :=
  .next (if mgmtUp s.chip then
      onChip (fun x => sensNow ((List.range 3).foldl (coaxCheck mv ma) (senseCoax x mv ma))) s
    else s)

/-- SENS_PEAK_CLR (R392): `SENS_PEAK` back to its reset word. -/
def execSensPeakClr (s : State) : Outc :=
  .next (if mgmtUp s.chip then onChip (fun x => wr x R.SENS_PEAK (resetWord R.SENS_PEAK)) s else s)

end Sys2Proof.Machine
end

