-- ==== Sys2Proof/Machine/Cal.lean ====
section
/-! DEFINITION. Blind interleave calibration (R75 to R90): windows and the residual spur figure, sets and their
interpolation, triggers and runs. -/
namespace Sys2Proof.Machine

/-- No corrections: twelve zeros. -/
def calZero : CalSet := ⟨List.replicate 12 0, 0, 0, 0⟩

/-- The calibration of an input at reset. -/
def calReset (_ : Nat) : CalRt := ⟨calZero, false, [], none, [], false, 0, false, false⟩

/-- Calibration of input a. -/
def calOf (x : Chip) (a : Nat) : CalRt := smGet calReset x.cal a

/-- Set the calibration of input a. -/
def setCal (x : Chip) (a : Nat) (c : CalRt) : Chip := { x with cal := smPut calReset x.cal a c }

/-- Front-end state of input a (R52). -/
def ainState (x : Chip) (a : Nat) : Nat := fget x (F.AIN_STATUS_state a)

/-- Convergent rounding of n / d (R77). -/
def roundEven (n : Int) (d : Nat) : Int :=
  let q := n / d
  let r := n % d
  if 2 * r < d then q else if (d : Int) < 2 * r then q + 1 else if q % 2 = 0 then q else q + 1

/-- The ranges of R77: a value of a correction fits. -/
def calFits (k : Nat) (v : Int) : Bool :=
  if k < 8 then decide (-32768 ≤ v) && decide (v ≤ 32767) else decide (-32767 ≤ v) && decide (v ≤ 32767)

/-- Every value of a set of twelve fits (R77). -/
def calFitsAll (l : List Int) : Bool := (List.range 12).all fun k => calFits k (nth 0 l k)

/-- The sum of squares of the differences k to k + 3 between two sets of values. -/
def sqDiff (u v : List Int) (k : Nat) : Nat :=
  (List.range 4).foldl (fun s i => s + ((nth 0 u (k + i) - nth 0 v (k + i)) ^ 2).toNat) 0

/-- Numerator of the square of R78's argument over 2^50 10^12: gain steps of 2^-20, skew steps of 0.1 fs and offset
steps of 2^-23 full scale; 4 pi^2 (250 MHz)^2 (10^-16 s)^2 is taken with pi^2 = 9.869604401089. -/
def spurNum (est force : List Int) : Nat :=
  let g := sqDiff est force 0
  let o := sqDiff est force 4
  let t := sqDiff est force 8
  max (g * 2 ^ 6 * 10 ^ 12 + t * 1736279168087) (o * 2 ^ 2 * 10 ^ 12)

/-- The residual spur figure S in dBFS (R78): 10 log10 of the squared argument, rounded, at least -105. -/
def spurFigure (est force : List Int) : Int :=
  let n := spurNum est force ^ 20
  let d := (2 ^ 50 * 10 ^ 12) ^ 20
  let ks := (List.range 232).filter fun i =>
    let e : Int := 2 * ((i : Int) - 105) - 1
    if 0 ≤ e then decide (d * 10 ^ e.toNat ≤ n) else decide (d ≤ n * 10 ^ (-e).toNat)
  max (-105) (-106 + ks.length)

/-- A byte of a per-input register (R90). -/
def byteFld (addr a : Nat) : Fld := ⟨addr, 8 * a, 8⟩

/-- S of the last window of input a as `CAL_SPUR` shows it. -/
def spurOf (x : Chip) (a : Nat) : Int := sext 8 (fget x (byteFld R.CAL_SPUR a))

/-- Die temperature of input a in 1/16 °C (R374, R392). -/
def tempOf (x : Chip) (a : Nat) : Int :=
  pointTemp x a

/-- The sensor of input a reports a temperature. -/
def setTempOf (x : Chip) (a : Nat) (t : Int) : Chip := senseTemp x a t

/-- The order in which buckets are tried (R81). -/
def bucketOrder (b : Nat) : List Nat := if b = 0 then [0, 1, 2] else if b = 1 then [1, 2, 0] else [2, 1, 0]

/-- The set of a list that is best by a measure, the first of equals. -/
def bestBy (f : CalSet → Int) : List CalSet → Option CalSet
  | [] => none
  | c :: r => match bestBy f r with
    | none => some c
    | some d => if f d < f c then some d else some c

/-- Interpolation within a bucket's sets at a temperature in 1/16 °C, with the set temperature in °C that goes with the
values: that of the die where two sets are interpolated, its own where the nearest set is used unchanged (R81). -/
def interpolate (sets : List CalSet) (t : Int) : Option (List Int × Int) :=
  let lo := bestBy (fun c => -c.temp) (sets.filter fun c => decide (16 * c.temp ≤ t))
  let hi := bestBy (fun c => c.temp) (sets.filter fun c => decide (t ≤ 16 * c.temp))
  match lo, hi with
  | some p, some q =>
    if p.temp = q.temp then some (p.vals, p.temp)
    else some ((List.range 12).map fun k =>
      roundEven (nth 0 p.vals k * (16 * (q.temp - p.temp)) + (nth 0 q.vals k - nth 0 p.vals k) * (t - 16 * p.temp))
        (16 * (q.temp - p.temp)).toNat, roundEven t 16)
  | some p, none => some (p.vals, p.temp)
  | none, some q => some (q.vals, q.temp)
  | none, none => none

/-- The interpolated set of input a: values, set temperature and bucket (R81). -/
def interpolated (x : Chip) (a : Nat) : Option (List Int × Int × Nat) :=
  let sets := (calOf x a).sets
  (bucketOrder (fget x F.CAL_LOAD_bucket)).findSome? fun b =>
    (interpolate (sets.filter fun c => c.bucket == b) (tempOf x a)).map fun v => (v.1, v.2, b)

/-- Corrections put in force (R83), with `stale_load` where they come from another bucket (R90), and the application
that CAL_APPLY will report where a cause is given. -/
def calPut (x : Chip) (a : Nat) (vals : List Int) (temp : Int) (bucket : Nat) (cause : Option Nat) : Chip :=
  let c := calOf x a
  let pend := match cause with
    | some k => c.pend ++ [⟨k, spurOf x a, temp, bucket⟩]
    | none => c.pend
  let x1 := setCal x a { c with force := ⟨vals, temp, bucket, x.tm.ticks⟩, forced := true, pend := pend }
  fflag (wr x1 R.CAL_LAST_TIME (BitVec.ofNat 32 x.tm.stime.toNat)) (F.CAL_STATUS_stale_load.bit a)
    (bucket != fget x F.CAL_LOAD_bucket)

/-- Apply the interpolated set of input a, or zero corrections with CAL_NO_SET where no set exists (R81). -/
def calLoad (x : Chip) (a : Nat) (cause : Option Nat) : Chip :=
  match interpolated x a with
  | some (v, t, b) => fset (calPut x a v t b cause) (F.CAL_STATUS_no_set.bit a) 0
  | none =>
    let y := calPut x a calZero.vals (roundEven (tempOf x a) 16) (fget x F.CAL_LOAD_bucket) none
    raise (fset y (F.CAL_STATUS_no_set.bit a) 1) srcCal 0x06 (b1 a)

/-- A run starts on input a in RUN that has none active (R85, R87). -/
def runStart (x : Chip) (a cause : Nat) : Chip :=
  let c := calOf x a
  if ainState x a = 3 ∧ c.run = none then
    fset (setCal x a { c with run := some ⟨cause, fget x F.CAL_LOAD_bucket, 0, List.replicate 12 0, 0⟩ })
      (F.CAL_STATUS_busy.bit a) 1
  else x

/-- An automatic trigger starts a run where `auto` allows it (R85). -/
def runAuto (x : Chip) (a cause : Nat) : Chip :=
  if fon x (F.CAL_CTRL_auto.bit a) then runStart x a cause else x

/-- The run of input a is gone: `busy` and the run bit clear. -/
def runGone (x : Chip) (a : Nat) : Chip :=
  fset (fset (setCal x a { calOf x a with run := none }) (F.CAL_STATUS_busy.bit a) 0) (F.CAL_CTRL_run.bit a) 0

/-- The die temperature of a differs from `CAL_TLAST` by more than `CAL_TRIG_DELTA` (R85). -/
def tempTrig (x : Chip) (a : Nat) : Bool :=
  let d := fget x F.CAL_TRIG_DELTA_delta
  let l := fget x (byteFld R.CAL_TLAST a)
  d != 0 && l != 0 && decide (16 * d < (tempOf x a - 16 * ((l : Int) - 64)).natAbs)

/-- The spur limit as a number of dBFS. -/
def spurLimit (x : Chip) : Int := sext 8 (fget x F.CAL_SPUR_LIMIT_limit)

/-- The trigger of a cause still holds for input a (R85, R86). -/
def trigHolds (x : Chip) (a cause : Nat) : Bool :=
  match cause with
  | 0 => fon x (F.CAL_STATUS_no_set.bit a)
  | 1 => fon x (F.CAL_STATUS_stale_load.bit a)
  | 2 => tempTrig x a
  | 3 => decide (3 ≤ (calOf x a).overs) && fon x F.CAL_CTRL_limit_en
  | _ => false

/-- The set table with a run's result entered (R84). -/
def learnSet (sets : List CalSet) (c : CalSet) : List CalSet :=
  let near := fun d : CalSet => d.bucket == c.bucket && decide ((d.temp - c.temp).natAbs ≤ 4)
  match bestBy (fun d => (d.temp - c.temp).natAbs) (sets.filter near) with
  | some d => setNth sets (sets.idxOf d) c
  | none =>
    let same := sets.filter fun d => d.bucket == c.bucket
    if same.length < 4 then sets ++ [c]
    else match bestBy (fun d => (d.at_.toNat : Int)) same with
      | some d => setNth sets (sets.idxOf d) c
      | none => sets

/-- `CAL_SETS` shows the sets held for input a (R90). -/
def showSets (x : Chip) (a : Nat) : Chip := fset x (byteFld R.CAL_SETS a) (calOf x a).sets.length

/-- A set enters the table of input a, which then holds one (R84, R90). -/
def calLearn (x : Chip) (a : Nat) (c : CalSet) : Chip :=
  let k := calOf x a
  fset (showSets (setCal x a { k with sets := learnSet k.sets c }) a) (F.CAL_STATUS_no_set.bit a) 0

/-- The temperature trigger of input a acts (R86): the interpolated set applied, and a run where `auto` allows it. -/
def tempFire (x : Chip) (a : Nat) : Chip :=
  if tempTrig x a then
    let l : Int := (fget x (byteFld R.CAL_TLAST a) : Int) - 64
    runAuto (calLoad (raise x srcCal 0x03 (b1 a ++ i2 (16 * l) ++ i2 (tempOf x a))) a (some 2)) a 2
  else x

/-- A run of input a fails (R86, R87): reason 0 too few windows, 1 out of range. -/
def runFail (x : Chip) (a : Nat) (r : CalRun) (reason : Nat) : Chip :=
  let x1 := fset (runGone x a) (F.CAL_STATUS_fail.bit a) 1
  let x2 := count x1 R.CAL_FAIL_COUNT F.CAL_STATUS_fail_wrap 1
  let x3 := raise (setCause x2 .cal) srcCal 0x04 (b1 a ++ b1 reason ++ b2s r.windows)
  if trigHolds x3 a r.cause then runAuto x3 a r.cause else x3

/-- What a run's end tests again (R87): a bucket that changed meanwhile, then the temperature against the new
`CAL_TLAST`. -/
def runRetry (x : Chip) (a : Nat) : Chip :=
  let y := if fon x (F.CAL_STATUS_stale_load.bit a) then runAuto x a 1 else x
  if (calOf y a).run.isNone then tempFire y a else y

/-- A run of input a ends (R84, R86, R87): applied with at least four windows in range, failed otherwise. -/
def runEnd (x : Chip) (a : Nat) (r : CalRun) : Chip :=
  if r.windows < 4 then runFail x a r 0
  else
    let avg := r.sums.map fun v => roundEven v r.windows
    if calFitsAll avg then
      let temp := roundEven r.tempSum (16 * r.windows)
      let x1 := calPut (runGone x a) a avg temp r.bucket (some r.cause)
      let x2 := fset x1 (byteFld R.CAL_TLAST a) (tcomp 8 (temp + 64))
      let x3 := count x2 R.CAL_RUN_COUNT F.CAL_STATUS_run_wrap 1
      runRetry (if fon x3 F.CAL_CTRL_learn then calLearn x3 a ⟨avg, temp, r.bucket, x3.tm.ticks⟩ else x3) a
    else runFail x a r 1

/-- An input leaves RUN (R78, R87): its run is abandoned without CAL_FAIL, the next window is the first again. -/
def calAbandon (x : Chip) (a : Nat) : Chip :=
  let c := calOf x a
  let x1 := setCal x a { c with high := false, overs := 0 }
  match c.run with
  | some r =>
    let due := fon x (F.CAL_STATUS_stale_load.bit a) && (r.cause == 1 || r.bucket != fget x F.CAL_LOAD_bucket)
    runGone (setCal x1 a { c with high := false, overs := 0, seen := c.seen && r.cause != 0, due := due }) a
  | none => x1

/-- An input enters RUN (R85, R87): tested are the trigger of its first entry, and that of a bucket change that came while it
was not in RUN or whose run was abandoned. -/
def calEnterRun (x : Chip) (a : Nat) : Chip :=
  let c := calOf x a
  let x1 := setCal x a { c with seen := true, due := false }
  if fon x1 (F.CAL_STATUS_no_set.bit a) && !c.seen then runAuto x1 a 0
  else if c.due && fon x1 (F.CAL_STATUS_stale_load.bit a) then runAuto x1 a 1
  else x1

/-- The spur figure of a window shown, with CAL_SPUR_HIGH where it rises above the limit (R78). -/
def windowSpur (x : Chip) (a : Nat) (s : Int) : Chip :=
  let c := calOf x a
  let hi := decide (spurLimit x < s)
  let x1 := fset x (byteFld R.CAL_SPUR a) (tcomp 8 s)
  let x2 := setCal x1 a { c with high := hi, overs := if hi then c.overs + 1 else 0 }
  if hi && !c.high then raise (setCause x2 .cal) srcCal 0x05 (b1 a ++ i2 s) else x2

/-- The applications that waited for their first window are reported, in order (R86). -/
def windowApply (x : Chip) (a : Nat) (s : Int) : Chip :=
  let c := calOf x a
  c.pend.foldl (fun y p => raise y srcCal 0x01
      (b1 a ++ b1 p.cause ++ i2 p.before ++ i2 s ++ i2 (16 * p.temp) ++ b1 p.bucket)) (setCal x a { c with pend := [] })

/-- A window joins the active run, or the limit trigger starts one (R85, R86). -/
def windowJoin (x : Chip) (a : Nat) (est : List Int) (temp : Int) : Chip :=
  let c := calOf x a
  match c.run with
  | some r =>
    let r1 : CalRun := ⟨r.cause, r.bucket, r.windows + 1,
      (List.range 12).map fun k => nth 0 r.sums k + nth 0 est k, r.tempSum + temp⟩
    if 16 ≤ r1.windows then runEnd x a r1 else setCal x a { c with run := some r1 }
  | none => if trigHolds x a 3 then runAuto x a 3 else x

/-- The estimator discards a block (R75): an over-range or transient bit, a change of the total attenuation, or an RMS
level below -45 dBFS. -/
def blockKept (b : CalBlock) : Bool := !b.flagged && (!b.moved && decide (-4500 ≤ b.rms))

/-- The blocks kept, each with how many of its kind (R75). -/
def keptBlocks (w : CalWindow) : List (Nat × CalBlock) := w.blocks.filter fun e => blockKept e.2

/-- How many blocks were kept. -/
def keptCount (w : CalWindow) : Nat := ((keptBlocks w).map Prod.fst).sum

/-- A statistic accumulated over the kept blocks (R75). -/
def keptSum (w : CalWindow) (f : CalBlock → Int) : Int := ((keptBlocks w).map fun e => e.1 * f e.2).sum

/-- The mean of each sub-ADC over the window, times its 2^24 samples, in LSB (R75). -/
def windowMeans (w : CalWindow) : List Int := (List.range 4).map fun j => keptSum w fun b => nth 0 b.sums j

/-- The power of each sub-ADC over the window (R75). -/
def windowPowers (w : CalWindow) : List Nat :=
  (List.range 4).map fun j => (keptSum w fun b => nth 0 b.powers j).toNat

/-- The squared difference of sub-ADC j and the next one over the window (R75). -/
def windowDiffs (w : CalWindow) : List Nat :=
  (List.range 4).map fun j => (keptSum w fun b => nth 0 b.diffs j).toNat

/-- Less than 10 % of the window's power lies above 40 MHz (R76). -/
def powerLow (w : CalWindow) : Bool :=
  decide (10 * keptSum w (fun b => b.above) < ((windowPowers w).sum : Nat))

/-- A figure of each sub-ADC in 1/d of a step relative to the mean of all four, so that the four sum to zero, and shortened
to the step (R76, R77). -/
def centred (f : List Int) (d : Nat) (j : Nat) : Int := roundEven (4 * nth 0 f j - f.sum) (4 * d)

/-- The estimate of value k of a window (R76): gain from the powers, offset from the means in 1/256 LSB, skew from the mean
squared differences. -/
def estimated (w : CalWindow) (k : Nat) : Int :=
  let j := k % 4
  if k < 4 then centred ((List.range 4).map (Config.gainFigure (windowPowers w))) 4096 j
  else if k < 8 then centred (windowMeans w) 65536 j
  else centred ((List.range 4).map (Config.skewFigure (windowPowers w) (windowDiffs w))) 4096 j

/-- The estimate of a window (R76): skew from the corrections in force where it is not observable. -/
def estimate (w : CalWindow) (force : List Int) : List Int :=
  (List.range 12).map fun k => if powerLow w && decide (8 ≤ k) then nth 0 force k else estimated w k

/-- An estimate with a value outside its range is not used (R77, R87): a run under way fails with reason 1. -/
def windowBad (x : Chip) (a : Nat) : Chip :=
  match (calOf x a).run with
  | some r => runFail x a r 1
  | none => x

/-- An estimation window of input a ends (R75 to R78, R86): it is complete with 4096 kept blocks. -/
def windowEnd (x : Chip) (a : Nat) (w : CalWindow) : Chip :=
  if ainState x a = 3 ∧ keptCount w = 4096 then
    let force := (calOf x a).force.vals
    let est := estimate w force
    let s := spurFigure est force
    let x1 := setTempOf (fflag x (F.CAL_STATUS_skew_held.bit a) (powerLow w)) a w.temp
    if calFitsAll est then windowJoin (windowApply (windowSpur x1 a s) a s) a est w.temp else windowBad x1 a
  else x

/-- CAL_WINDOW_END (R78). -/
def execCalWindowEnd (a : Nat) (w : CalWindow) (s : State) : Outc :=
  .next (if a < 4 then onChip (fun x => windowEnd x a w) s else s)

/-- CAL_RUN_TIMEOUT (R86): a run reaches 2 s of age. -/
def execCalRunTimeout (a : Nat) (s : State) : Outc :=
  .next (if a < 4 then onChip (fun x => match (calOf x a).run with
    | some r => runEnd x a r
    | none => x) s else s)

/-- CAL_RUN (R85, R87): a 1 written to the input's run bit; ignored outside RUN and while a run is active. -/
def calRunWrite (x : Chip) (a : Nat) : Chip :=
  if ainState x a = 3 ∧ (calOf x a).run = none then fset (runStart x a 4) (F.CAL_CTRL_run.bit a) 1 else x

/-- CAL_RUN (R85). -/
def execCalRun (a : Nat) (s : State) : Outc :=
  .next (if a < 4 ∧ mgmtUp s.chip then onChip (fun x => calRunWrite x a) s else s)

/-- The bucket of a lane count (R80). -/
def bucketOf (n : Nat) : Nat := if n < 32 then 0 else if n ≤ 64 then 1 else 2

/-- What a bucket change does on each input, whatever its state (R86). -/
def bucketOn (b : Nat) (x : Chip) (a : Nat) : Chip :=
  let x1 := calLoad x a (some 1)
  match interpolated x a with
  | some (_, _, sb) =>
    if sb = b then x1
    else
      let x2 := count x1 R.CAL_STALE_COUNT F.CAL_STATUS_stale_wrap 1
      let x3 := raise x2 srcCal 0x02 (b1 a ++ b1 sb ++ b1 b)
      if ainState x3 a = 3 then runAuto x3 a 1 else setCal x3 a { calOf x3 a with due := true }
  | none => x1

/-- The activity bucket changes (R80, R86). -/
def bucketChange (x : Chip) : Chip :=
  let n := fget x F.CAL_LOAD_lanes
  let old := fget x F.CAL_LOAD_bucket
  let b := bucketOf n
  if b = old then x
  else
    let x1 := raise (fset x F.CAL_LOAD_bucket b) srcCal 0x07 (b1 old ++ b1 b ++ b1 n)
    (List.range 4).foldl (bucketOn b) x1

/-- LOAD_BUCKET (R80): the count has stayed in the new bucket's range for 1 s. -/
def execLoadBucket (s : State) : Outc := .next (if mgmtUp s.chip then onChip bucketChange s else s)

/-- The bucket of a lane plan, taken with no wait at a start (R80). -/
def bucketAtStart (x : Chip) : Chip := fset x F.CAL_LOAD_bucket (bucketOf (fget x F.CAL_LOAD_lanes))

/-- The 100 ms temperature check of input a (R85, R86), for an input in RUN without a run (R87). -/
def calTrig (x : Chip) (a : Nat) (t : Int) : Chip :=
  let x1 := setTempOf x a t
  if ainState x1 a = 3 && (calOf x1 a).run.isNone then tempFire x1 a else x1

/-- CAL_TRIG (R85). -/
def execCalTrig (a : Nat) (temp : Int) (s : State) : Outc :=
  .next (if a < 4 ∧ mgmtUp s.chip then onChip (fun x => calTrig x a temp) s else s)

/-- The set viewed (R90): the corrections in force for 0, a slot of the table for 1 to 12; 13 to 15 show nothing, so that
the view registers read 0. -/
def calViewed (x : Chip) : Option CalSet :=
  let c := calOf x (fget x F.CAL_VIEW_SEL_ain)
  let k := fget x F.CAL_VIEW_SEL_set
  if k = 0 then (if c.forced then some c.force else none) else if 12 < k then none else c.sets[k - 1]?

/-- The words of the view registers (R90). -/
def calView (x : Chip) (addr : Nat) : Word :=
  match calViewed x with
  | none => 0
  | some c =>
    if addr = R.CAL_VIEW_TAG then
      BitVec.ofNat 32 (2 ^ 31 + c.bucket * 2 ^ 24 + tcomp 8 (c.temp + 64) * 2 ^ 16
        + sat 16 ((x.tm.ticks - c.at_).toNat / 32768))
    else
      let k := 2 * ((addr - R.CAL_VIEW_GAIN01) / 4)
      BitVec.ofNat 32 (tcomp 16 (nth 0 c.vals (k + 1)) * 2 ^ 16 + tcomp 16 (nth 0 c.vals k))

end Sys2Proof.Machine
end

