-- ==== Sys2Proof/Machine/Grid.lean ====
section
/-! DEFINITION. Sample time to the fraction (R10, R57, R91, R93, R96, R107): instants in units of 2^-49 ns, in which ticks of
sample time, ADC samples, splitter frames, and the periods and phases of every coach plan are whole, and the stretches in which
samples are tainted. A command takes place at the sample time that the counter holds. -/
namespace Sys2Proof.Machine

/-- Nanoseconds, ticks of sample time, splitter frames (the samples of a sub-band) and ADC samples as instants. -/
def ofNs (n : Nat) : Int := n * 2 ^ 49
def ofTicks (n : Nat) : Int := n * (15625 * 2 ^ 44)
def ofFrames (n : Nat) : Int := n * (3125 * 2 ^ 45)
def ofAdc (n : Nat) : Int := n * (3125 * 2 ^ 38)

/-- The sample time now. -/
def nowAt (x : Chip) : Int := ofTicks x.tm.stime.toNat

/-- An instant in ticks of sample time, rounded convergently (R197). -/
def toTicks (t : Int) : Int := roundEven t (15625 * 2 ^ 44)

/-- The sample time of which a low word is known: the one nearest to now. -/
def sampleAt (x : Chip) (t : Nat) : Int :=
  ofTicks (x.tm.stime + BitVec.ofInt 64 (BitVec.ofNat 32 t - BitVec.ofNat 32 x.tm.stime.toNat).toInt).toNat

/-- A stretch, held for some time after its end, contains an instant. -/
def Span.holds (hold t : Int) (s : Span) : Bool := decide (s.start ≤ t) && s.stop.all fun e => decide (t ≤ e + hold)

/-- A stretch, held for some time after its end, meets the instants from one to another. -/
def Span.meets (hold a b : Int) (s : Span) : Bool := decide (s.start ≤ b) && s.stop.all fun e => decide (a ≤ e + hold)

/-- Some stretch, held, contains an instant. -/
def heldAt (l : List Span) (hold t : Int) : Bool := l.any (Span.holds hold t)

/-- The stretches that may still matter: those that ended less than 4 s ago. -/
def spansKept (now : Int) (l : List Span) : List Span :=
  l.filter fun s => s.stop.all fun e => decide (now ≤ e + ofNs 4000000000)

/-- A stretch that has ended joins the others; it prolongs the last where it begins in it. -/
def spanAdd (now : Int) (l : List Span) (a b : Int) : List Span :=
  let k := spansKept now l
  match k.getLast? with
  | some ⟨s, some e⟩ => if s ≤ a ∧ a ≤ e then k.dropLast ++ [⟨s, some (max e b)⟩] else k ++ [⟨a, some b⟩]
  | _ => k ++ [⟨a, some b⟩]

/-- The stretches that are open end now. -/
def spansClose (now : Int) (l : List Span) : List Span :=
  (spansKept now l).map fun s => if s.stop.isNone then { s with stop := some now } else s

/-- The stretches in which both of two last, each held for some time, ended as the earlier ends (R63). -/
def spansBoth (hold : Int) (l m : List Span) : List Span :=
  (l.flatMap fun s => m.map fun d =>
    (s, d)).filterMap fun (s, d) =>
      let a := max s.start d.start
      match s.stop, d.stop with
      | none, none => some ⟨a, none⟩
      | none, some e | some e, none => if a ≤ e + hold then some ⟨a, some e⟩ else none
      | some e, some g => if a ≤ min e g + hold then some ⟨a, some (min e g)⟩ else none

/-- The coach grid epoch t0 (R107). -/
def epochAt (x : Chip) : Int := ofTicks ((rd x R.SPL_EPOCH_LO).toNat + 2 ^ 32 * (rd x R.SPL_EPOCH_HI).toNat)

/-- The splitter frames of input a that end after one instant and not after another (R73, R93). -/
def framesIn (x : Chip) (a : Nat) (lo hi : Int) : Nat :=
  let e := epochAt x + ofAdc (fget x (byteFld R.SPL_FPHASE a))
  ((hi - e) / ofFrames 1 - (lo - e) / ofFrames 1).toNat

end Sys2Proof.Machine
end

