-- ==== Sys2Proof/Machine/Ain.lean ====
section
/-! DEFINITION. The aerial inputs (R40 to R72): feed switch, preselector, attenuator with its planner, snowplough,
over-range, front-end states. -/
namespace Sys2Proof.Machine

/-- An input's bookkeeping at reset. -/
def ainReset (_ : Nat) : AinRt := ⟨false, 0, 0, 10, false, false, [⟨0, none⟩], 0, none, []⟩

/-- Bookkeeping of input a. -/
def ainOf (x : Chip) (a : Nat) : AinRt := smGet ainReset x.ain a

/-- Set the bookkeeping of input a. -/
def setAin (x : Chip) (a : Nat) (r : AinRt) : Chip := { x with ain := smPut ainReset x.ain a r }

/-- Front-end states (R52). -/
def stOff : Nat := 0
def stSettle : Nat := 1
def stPlan : Nat := 2
def stRun : Nat := 3
def stPaused : Nat := 4

/-- The input is powered: ADC running (R52). -/
def ainPowered (x : Chip) (a : Nat) : Bool :=
  ainState x a == stSettle || ainState x a == stPlan || ainState x a == stRun

/-- The planner's thresholds are inconsistent (R51): hi - lo below 6 dB, or min above max. -/
def planInconsistent (x : Chip) (a : Nat) : Bool :=
  let hi := sext 8 (fget x (F.AIN_GAINPLAN_hi a))
  let lo := sext 8 (fget x (F.AIN_GAINPLAN_lo a))
  decide (hi - lo < 6) || decide (fget x (F.AIN_GAINPLAN_max a) < fget x (F.AIN_GAINPLAN_min a))

/-- The word of `AINa_GAINPLAN` that the planner uses (R51). -/
def planWord (x : Chip) (a : Nat) : Word :=
  if planInconsistent x a then resetWord (R.AIN_GAINPLAN a) else rd x (R.AIN_GAINPLAN a)

/-- The planner's upper and lower threshold in dBFS, lowest and highest planned step. -/
def planHi (x : Chip) (a : Nat) : Int := sext 8 (getBits (planWord x a) 0 8)
def planLo (x : Chip) (a : Nat) : Int := sext 8 (getBits (planWord x a) 8 8)
def planMax (x : Chip) (a : Nat) : Nat := getBits (planWord x a) 16 4
def planMin (x : Chip) (a : Nat) : Nat := getBits (planWord x a) 20 4

/-- GAINPLAN_BAD is logged once for an inconsistent `AINa_GAINPLAN` (R51, R64). -/
def planCheck (x : Chip) (a : Nat) : Chip :=
  let r := ainOf x a
  if planInconsistent x a then
    if r.planBad then x
    else raise (setAin x a { r with planBad := true }) (srcAin a) 0x05 (b4 (rd x (R.AIN_GAINPLAN a)).toNat)
  else setAin x a { r with planBad := false }

/-- The planned step that acts now: in PLAN with automatic attenuation the measuring step (R52). -/
def planActing (x : Chip) (a : Nat) : Nat :=
  if ainState x a = stPlan ∧ fon x (F.AIN_CFG_att_auto a) then planMax x a else fget x (F.AIN_ATT_plan a)

/-- Total attenuation: planned step plus offset, at most 15 (R50). -/
def showTotal (x : Chip) (a : Nat) : Chip :=
  fset x (F.AIN_ATT_total a) (min 15 (planActing x a + fget x (F.AIN_ATT_snow a)))

/-- The planned step becomes p. -/
def setPlan (x : Chip) (a p : Nat) : Chip := showTotal (fset x (F.AIN_ATT_plan a) p) a

/-- The snowplough offset becomes n, with the flag that it is non-zero (R54); the planner does not count a window in which
it was (R51). -/
def setSnow (x : Chip) (a n : Nat) : Chip :=
  let was := fon x (F.AIN_ATT_snow a)
  let x1 := showTotal (fflag (fset x (F.AIN_ATT_snow a) n) (F.AIN_STATUS_snow a) (n != 0)) a
  if was || n != 0 then setAin x1 a { ainOf x1 a with snowSeen := true } else x1

/-- The stretches in which the samples of input a carry the taint flag (R97): outside RUN the one under way has no end. -/
def taintsOf (x : Chip) (a : Nat) : List Span :=
  let l := (ainOf x a).taints
  if ainState x a ≠ stRun ∧ (l.any fun s => s.stop.isNone) = false then l ++ [⟨nowAt x, none⟩] else l

/-- The samples of input a carry the taint flag now (R97): always outside RUN, in RUN for a cause of R96. -/
def inTaint (x : Chip) (a : Nat) : Bool := heldAt (taintsOf x a) 0 (nowAt x)

/-- The samples of input a are tainted from now on, or no more (R52, R97). -/
def taintTurn (x : Chip) (a : Nat) (on : Bool) : Chip :=
  let r := ainOf x a
  let l := spansClose (nowAt x) r.taints
  setAin x a { r with taints := if on then l ++ [⟨nowAt x, none⟩] else l }

/-- The state of an input changes; STATE is logged on every change (R64), the splitter
taints the input in every state but RUN (R52, R97), and leaving RUN abandons a calibration run. -/
def setAinState (x : Chip) (a st : Nat) : Chip :=
  let old := ainState x a
  if old = st then x
  else
    let x1 := fflag (fset x (F.AIN_STATUS_state a) st) (F.SPL_STATUS_taint.bit a) (st != stRun)
    let x2 := if old = stRun then taintTurn (calAbandon x1 a) a true
      else if st = stRun then taintTurn x1 a false else x1
    showTotal (raise x2 (srcAin a) 0x0B (b1 old ++ b1 st)) a

/-- Whether the state lets the feed switch close (R42, R45, R46, R52). -/
def feedMay (x : Chip) (a : Nat) : Bool :=
  fon x (F.AIN_FEED_en a) && fon x (F.AIN_CFG_en a) && !fon x (F.AIN_STATUS_feed_short a)
    && !fon x (F.AIN_STATUS_feed_back a) && !fon x F.SUP_STATUS_ew
    && (ainPowered x a || (ainState x a == stPaused && fon x (F.AIN_FEED_quiet_on a)))

/-- The feed switch opens. -/
def feedOpen (x : Chip) (a : Nat) : Chip := fset (fset x (F.AIN_STATUS_feed_on a) 0) (F.AIN_STATUS_feed_low a) 0

/-- The feed switch follows the state: closed where it may be, open otherwise (R42). -/
def feedFollow (x : Chip) (a : Nat) : Chip :=
  if feedMay x a then feedLow (fset x (F.AIN_STATUS_feed_on a) 1) a else feedOpen x a

/-- An input whose ADC starts numbers its samples from here (R73): the phase of its frames on the coach grid is open, and
stays until the next entry into SETTLE (R93). -/
def framePhase (x : Chip) (a : Nat) : Chip := freeNext (fset x (byteFld R.SPL_FPHASE a) ((free x).toNat % 128))

/-- An input enters SETTLE (R52). -/
def enterSettle (x : Chip) (a : Nat) : Chip :=
  feedFollow (if ainState x a = stSettle then x else setAinState (framePhase x a) a stSettle) a

/-- An input enters PAUSED: offset cleared, feed open unless `quiet_on` (R52, R60). -/
def enterPaused (x : Chip) (a : Nat) : Chip := feedFollow (setSnow (setAinState x a stPaused) a 0) a

/-- An input enters OFF: offset cleared, feed open (R40, R52, R60). -/
def enterOff (x : Chip) (a : Nat) : Chip := feedOpen (setSnow (setAinState x a stOff) a 0) a

/-- The feed switch closes: at once in PAUSED, otherwise through SETTLE (R43, R52). -/
def feedClose (x : Chip) (a : Nat) : Chip :=
  if feedMay x a then
    if ainState x a = stPaused then feedFollow x a else enterSettle x a
  else x

/-- Where `en` at 1 takes an input that is OFF, by power state (R52). -/
def ainStart (x : Chip) (a : Nat) : Chip :=
  if ainState x a = stOff ∧ fon x (F.AIN_CFG_en a) then
    if rfRuns x then enterSettle x a
    else if dUp x then enterPaused x a
    else x
  else x

/-- `AINa_CFG.en` written (R40, R52, R60). -/
def ainEnable (x : Chip) (a : Nat) (en : Bool) : Chip :=
  let x1 := fflag x (F.AIN_CFG_en a) en
  if dUp x1 then (if en then ainStart x1 a else enterOff x1 a) else x1

/-- FEED_ENABLE_WRITE (R46, R52): cleared, the switch opens at once and no short is recorded; set, it closes. -/
def feedEnable (x : Chip) (a : Nat) (en : Bool) : Chip :=
  let was := fon x (F.AIN_FEED_en a)
  let x1 := fflag x (F.AIN_FEED_en a) en
  if dUp x1 then (if en then (if was then x1 else feedClose x1 a) else feedOpen x1 a) else x1

/-- FEED_ENABLE_WRITE (R46). -/
def execFeedEnableWrite (a : Nat) (en : Bool) (s : State) : Outc :=
  .next (if a < 4 ∧ mgmtUp s.chip then onChip (fun x => feedEnable x a en) s else s)

/-- The switch of input a is closed, or opened in this tick for another cause: the two come together (R46). -/
def feedJust (x : Chip) (a : Nat) : Bool :=
  fon x (F.AIN_STATUS_feed_on a) || (ainOf x a).opened == some x.tm.ticks

/-- The switch opens, by a fault or the early warning. -/
def feedTrip (x : Chip) (a : Nat) : Chip := setAin (feedOpen x a) a { ainOf x a with opened := some x.tm.ticks }

/-- A feed fault opens the switch and holds it open (R43, R44). -/
def feedFault (x : Chip) (a mv : Nat) (flag : Fld) (code : Nat) : Chip :=
  if feedJust x a && !fon x flag then
    raise (setCause (fset (feedTrip x a) flag 1) .ain) (srcAin a) code (b2s mv)
  else x

/-- FEED_SHORT (R43). -/
def execFeedShort (a mv : Nat) (s : State) : Outc :=
  .next (if a < 4 then onChip (fun x => feedFault x a mv (F.AIN_STATUS_feed_short a) 0x08) s else s)

/-- FEED_BACK (R44). -/
def execFeedBack (a mv : Nat) (s : State) : Outc :=
  .next (if a < 4 then onChip (fun x => feedFault x a mv (F.AIN_STATUS_feed_back a) 0x09) s else s)

/-- FEED_FAULT_CLEAR (R43, R44): the bits written as 1 clear; with the feed enabled the switch closes again once neither
is set. -/
def faultClear (x : Chip) (a : Nat) (short back : Bool) : Chip :=
  let had := fon x (F.AIN_STATUS_feed_short a) || fon x (F.AIN_STATUS_feed_back a)
  let x1 := if short then fset x (F.AIN_STATUS_feed_short a) 0 else x
  let x2 := if back then fset x1 (F.AIN_STATUS_feed_back a) 0 else x1
  if had && !fon x2 (F.AIN_STATUS_feed_on a) then feedClose x2 a else x2

/-- FEED_FAULT_CLEAR (R43). -/
def execFeedFaultClear (a : Nat) (short back : Bool) (s : State) : Outc :=
  .next (if a < 4 ∧ dUp s.chip then onChip (fun x => faultClear x a short back) s else s)

/-- One input's feed at the early warning: opened where it was closed, with FEED_SHED (R45, R46). -/
def feedShed (x : Chip) (a : Nat) : Chip :=
  if feedJust x a then raise (fset (feedTrip x a) (F.AIN_STATUS_feed_shed a) 1) (srcAin a) 0x0A []
  else x

/-- Every closed feed switch opens at the early warning (R45). -/
def feedsShed (x : Chip) : Chip := (List.range 4).foldl feedShed x

/-- A cause of R96 at an instant taints for ns: each splitter frame that ends from the instant on until then counts once,
whatever causes taint it. -/
def taintWindow (x : Chip) (a : Nat) (t : Int) (ns : Nat) : Chip :=
  let r := ainOf x a
  let e := t + ofNs ns
  let k := framesIn x a (max (t - 1) r.caused) e
  setAin (count x (R.SPL_TAINT a) (F.SPL_STATUS_taint_wrap.bit a) k) a
    { r with taints := spanAdd (nowAt x) r.taints t e, caused := max e r.caused }

/-- An over-range sample (R57): clamped, its flag set, its sample time kept. -/
def overRange (x : Chip) (a t : Nat) : Chip :=
  wr (fset x (F.AIN_STATUS_ovr a) 1) (R.AIN_OVR_TIME a) (BitVec.ofNat 32 t)

/-- An over-range episode begins (R57): the samples are tainted until 8.0 µs after it (R58, R96). -/
def ovrBegin (x : Chip) (a t : Nat) : Chip :=
  let x1 := count (overRange x a t) (R.AIN_OVR_COUNT a) (F.AIN_STATUS_ovr_wrap a) 1
  let x2 := setAin x1 a { ainOf x1 a with satLogged := false }
  taintWindow (raise x2 (srcAin a) 0x01 (b4 t)) a (sampleAt x t) 8000

/-- OVR (R57). -/
def execOvr (a t : Nat) (s : State) : Outc :=
  .next (if a < 4 ∧ ainPowered s.chip a = true then onChip (fun x => ovrBegin x a t) s else s)

/-- The planned step of the snowplough's arithmetic: the step in force without the offset. -/
def snowRoom (x : Chip) (a : Nat) : Nat := 15 - planActing x a

/-- An offset change is counted and logged (R53, R54). -/
def snowLog (x : Chip) (a : Nat) (add : Nat) : Chip :=
  let x1 := count x (R.AIN_SNOW_COUNT a) (F.AIN_STATUS_snow_wrap a) 1
  raise x1 (srcAin a) 0x02 (b1 (fget x1 (F.AIN_ATT_snow a)) ++ b1 (fget x1 (F.AIN_ATT_total a)) ++ b1 add)

/-- An over-range sample at the snowplough (R53, R55): 3 steps more, never past step 15; at step 15 it adds nothing and
sets `att_sat`, with ATT_SAT once an episode. -/
def snowAdd (x : Chip) (a : Nat) : Chip :=
  if 15 ≤ fget x (F.AIN_ATT_total a) then
    let r := ainOf x a
    let x1 := setCause (fset x (F.AIN_STATUS_att_sat a) 1) .ain
    if r.satLogged then x1
    else raise (setAin x1 a { r with satLogged := true }) (srcAin a) 0x03 (b1 15)
  else snowLog (setSnow x a (min (snowRoom x a) (fget x (F.AIN_ATT_snow a) + 3))) a 1

/-- An over-range sample of an episode under way, taken at sample time t (R53, R55, R57): it taints 8.0 µs more; a sample
less than 8 ns after the previous add adds nothing, nor does one with the snowplough off. -/
def snowSample (x : Chip) (a t : Nat) (near : Bool) : Chip :=
  let x1 := taintWindow (overRange x a t) a (sampleAt x t) 8000
  if fon x1 (F.AIN_CFG_snow_en a) && !near then snowAdd x1 a else x1

/-- SNOW_STEP (R53, R55). -/
def execSnowStep (a t : Nat) (near : Bool) (s : State) : Outc :=
  .next (if a < 4 ∧ ainPowered s.chip a = true then onChip (fun x => snowSample x a t near) s else s)

/-- One release step (R54). -/
def snowDown (x : Chip) (a : Nat) : Chip :=
  let n := fget x (F.AIN_ATT_snow a)
  if n = 0 then x else snowLog (setSnow x a (n - 1)) a 0

/-- SNOW_RELEASE (R54, R60). -/
def execSnowRelease (a : Nat) (s : State) : Outc :=
  .next (if a < 4 ∧ ainPowered s.chip a = true then onChip (fun x => snowDown x a) s else s)

/-- The planner's window counts start afresh, with a window that begins now. -/
def planRestart (x : Chip) (a : Nat) : Chip :=
  setAin x a { ainOf x a with hiRun := 0, loRun := 0, gap := 10, snowSeen := fon x (F.AIN_ATT_snow a) }

/-- The planner makes a step (R51). DESIGN CHOICE: both runs of consecutive windows start afresh after it (log). -/
def planStep (x : Chip) (a p : Nat) (peak : Int) : Chip :=
  let old := fget x (F.AIN_ATT_plan a)
  let x1 := setPlan (setAin x a { ainOf x a with hiRun := 0, loRun := 0, gap := 0 }) a p
  raise x1 (srcAin a) 0x04 (b1 old ++ b1 p ++ i2 peak)

/-- The planner after a window (R51): 3 windows above `hi` raise, 50 below `lo` lower, at least 100 ms between steps. A
window in which the offset was not 0 is not counted: it neither joins nor breaks a run of windows. -/
def planWindow (x : Chip) (a : Nat) (peak : Int) : Chip :=
  let r := ainOf x a
  if r.snowSeen then setAin x a { r with gap := r.gap + 1, snowSeen := fon x (F.AIN_ATT_snow a) }
  else
    let hi := if planHi x a < peak then r.hiRun + 1 else 0
    let lo := if peak < planLo x a then r.loRun + 1 else 0
    let x1 := setAin x a { r with hiRun := hi, loRun := lo, gap := r.gap + 1 }
    let p := fget x (F.AIN_ATT_plan a)
    if 3 ≤ hi ∧ 10 ≤ r.gap + 1 ∧ p < planMax x a then planStep x1 a (p + 1) peak
    else if 50 ≤ lo ∧ 10 ≤ r.gap + 1 ∧ planMin x a < p then planStep x1 a (p - 1) peak
    else x1

/-- A 10 ms window of an input's level, in every state but OFF (R72), and the planner (R51). -/
def gainWindow (x : Chip) (a : Nat) (peak rms : Int) : Chip :=
  if ainState x a = stOff then x
  else
    let x1 := fsets x [(F.AIN_LEVEL_peak a, tcomp 8 peak), (F.AIN_LEVEL_rms a, tcomp 8 rms)]
    if ainState x a = stRun ∧ fon x (F.AIN_CFG_att_auto a) then planWindow (planCheck x1 a) a peak else x1

/-- GAIN_STEP (R51). -/
def execGainStep (a : Nat) (peak rms : Int) (s : State) : Outc :=
  .next (if a < 4 then onChip (fun x => gainWindow x a peak rms) s else s)

/-- The settle time elapses: the interpolated corrections are applied and the input enters PLAN (R52, R82). -/
def settleDone (x : Chip) (a : Nat) : Chip :=
  if ainState x a = stSettle then setAinState (planCheck (calLoad x a none) a) a stPlan else x

/-- SETTLE_DONE (R52). -/
def execSettleDone (a : Nat) (s : State) : Outc :=
  .next (if a < 4 then onChip (fun x => settleDone x a) s else s)

/-- The planned step that PLAN finds (R52): the smallest, not below `min`, whose predicted peak is at or below hi - 2 dB;
`min` with no measurable signal, `max` where none qualifies. -/
def planFound (x : Chip) (a : Nat) (peak : Option Int) : Nat :=
  match peak with
  | none => planMin x a
  | some p =>
    let mx := planMax x a
    ((List.range 16).find? fun k =>
      decide (planMin x a ≤ k) && decide (k ≤ mx) && decide (p + 2 * ((mx : Int) - k) ≤ planHi x a - 2)).getD mx

/-- An input's PLAN ends: it enters RUN with its planned step (R52). -/
def planDone (x : Chip) (a : Nat) (peak : Option Int) : Chip :=
  let p := if fon x (F.AIN_CFG_att_auto a) then planFound x a peak else fget x (F.AIN_ATT_man a)
  calEnterRun (planRestart (setPlan (setAinState x a stRun) a p) a) a

/-- The preselection in force changes; the transient bit of the 2 µs that follow taints the input (R48, R49, R96). -/
def setPresel (x : Chip) (a p : Nat) : Chip :=
  let old := fget x (F.AIN_PRESEL_now a)
  if old = p then x
  else
    let x1 := raise (fset x (F.AIN_PRESEL_now a) p) (srcAin a) 0x06 (b1 old ++ b1 p)
    if ainPowered x a then taintWindow x1 a (nowAt x) 10000 else x1

/-- The effective preselection of a `sel` value: 5 to 7 select WIDE (R47). -/
def preselOf (v : Nat) : Nat := if v < 5 then v else 0

/-- The pass band of a preselection in Hz (R47). -/
def preselBand (p : Nat) : Nat × Nat :=
  match p with
  | 1 => (100000, 30000000)
  | 2 => (45000000, 250000000)
  | 3 => (64000000, 110000000)
  | 4 => (170000000, 245000000)
  | _ => (100000, 250000000)

/-- The planner keeps the planned step between `min` and `max` (R51): a step outside them moves at once to the nearer
limit. -/
def planClamp (x : Chip) (a : Nat) : Chip :=
  if ainState x a = stRun ∧ fon x (F.AIN_CFG_att_auto a) then
    setPlan x a (max (planMin x a) (min (fget x (F.AIN_ATT_plan a)) (planMax x a)))
  else x

/-- With manual attenuation the planned step is `man` (R51). -/
def planManual (x : Chip) (a : Nat) : Chip :=
  if fon x (F.AIN_CFG_att_auto a) then x else setPlan x a (fget x (F.AIN_ATT_man a))

/-- `AINa_ATT.man`, or `att_auto` in `AINa_CFG`, written (R51): manual steps act at once, and the planner that takes over
in RUN continues from the step in force. -/
def attWritten (x : Chip) (a : Nat) (wasAuto : Bool) : Chip :=
  if dUp x then
    if fon x (F.AIN_CFG_att_auto a) && !wasAuto then planClamp (planRestart (planCheck x a) a) a else planManual x a
  else x

/-- `AINa_GAINPLAN` written (R51). -/
def gainplanWritten (x : Chip) (a : Nat) : Chip :=
  if dUp x then showTotal (planClamp (planCheck x a) a) a else x

end Sys2Proof.Machine
end

