-- ==== Sys2Proof/Machine/Lane.lean ====
section
/-! DEFINITION. Lanes and coaches (R14 to R26, R91 to R120, R465 to R469): staged settings, their check, plans of the
filter engine, synchronising resets, routes and captures, the counts of lanes. -/
namespace Sys2Proof.Machine

/-- Lanes of the part. -/
def laneCount : Nat := 104

/-- An FM lane's RDS at a synchronising reset. -/
def rdsReset : Rds := ⟨false, [], [], [], none, [], 0, [], [], [], none, []⟩

/-- A lead's tables at a synchronising reset. -/
def leadReset : LeadRt := ⟨false, (0, 0), none, false, ⟨[], []⟩, ⟨[], []⟩, [], [], none, [], [], [], 0⟩

/-- A coach slot and a demodulator with cleared histories (R111). -/
def dspReset : DspRt :=
  ⟨(0, 0), none, [], none, none, (0, 0), 0, 0, false, false, 0, 0, 0, 0, 0, 0, false, 0, [], 0, 0, 0, 0⟩

/-- The stages of an FM lane with cleared histories; the equaliser passes its input at first. -/
def fmReset : FmRt :=
  ⟨[], [], (2 ^ 20, 0), [], (2 ^ 20, 0) :: List.replicate 15 (0, 0), (0, 0), [], [], 2048, [], [], [], (0, 0), (0, 0), 0⟩

/-- The stages of an AM lane with cleared histories. -/
def amReset : AmRt := ⟨[], [], 256, [], [], [], 0, none, none⟩

/-- A lane's local memory cleared. -/
def laneReset (_ : Nat) : LaneRt :=
  ⟨false, false, none, dspReset, fmReset, amReset, rdsReset, leadReset, [], [], [], none, none, 0, false, 0, [], [], [], [], none,
    false, false, 0, false, none, false, [], [], none⟩

/-- A lane's local memory cleared, with the audio that waits in the depot (R199). -/
def laneClear (l : LaneRt) : LaneRt := { laneReset 0 with pcm := l.pcm, turns := l.turns }

/-- Local memory of lane n. -/
def laneOf (x : Chip) (n : Nat) : LaneRt := smGet laneReset x.lanes n

/-- Set the local memory of lane n. -/
def setLane (x : Chip) (n : Nat) (l : LaneRt) : Chip := { x with lanes := smPut laneReset x.lanes n l }

/-- Set what the coach slot and demodulator of lane n hold. -/
def setDsp (x : Chip) (n : Nat) (d : DspRt) : Chip := setLane x n { laneOf x n with dsp := d }

/-- Mode in force of lane n (R465). -/
def stdOf (x : Chip) (n : Nat) : Nat := fget x (F.LANE_MODE_std n)

/-- State field of lane n's `LANEn_STATUS`. -/
def laneState (x : Chip) (n : Nat) : Nat := fget x (F.LANE_STATE n)

/-- Lane modes (R465). -/
def mOff : Nat := 0
def mFm : Nat := 1
def mAm : Nat := 2
def mLead : Nat := 3
def mSvc : Nat := 4
def mDrm : Nat := 5
def mIq : Nat := 6
def mScan : Nat := 7
def mSpare : Nat := 15

/-- Offsets of a lane's staged registers (R468). -/
def stagedOffs : List Nat := [0x00, 0x08, 0x0C, 0x10, 0x14, 0x18, 0x1C, 0x20, 0x2C]

/-- Base address of lane n (R116). -/
def laneBase (n : Nat) : Nat := 0x1000 + n * 0x40

/-- The staged addresses of lane n. -/
def stagedAddrs (n : Nat) : List Nat := stagedOffs.map fun o => laneBase n + o

/-- A lane's settings as the lane supervisor reads them. -/
structure LaneCfg where
  std : Nat
  opt : Nat
  ain : Nat
  pair : Bool
  wb : Bool
  sb : Nat
  freq : Int
  hb : Nat
  narrow : Bool
  minph : Bool
  step : Nat
  tandem : Word
  carr : Word
  tune : Word
  deriving DecidableEq, Repr

/-- Settings from the words of a lane's registers. -/
def cfgFrom (g : Nat → Word) (n : Nat) : LaneCfg :=
  let w := fun o => g (laneBase n + o)
  ⟨getBits (w 0) 0 4, getBits (w 0) 16 16, getBits (w 8) 0 2, (w 8).getLsbD 2, (w 8).getLsbD 3, getBits (w 8) 8 8,
    (w 0xC).toInt, getBits (w 0x10) 0 4, (w 0x10).getLsbD 4, (w 0x10).getLsbD 8, (w 0x14).toNat, w 0x20, w 0x2C, w 0xC⟩

/-- Settings in force of lane n. -/
def cfgOf (x : Chip) (n : Nat) : LaneCfg := cfgFrom (rd x) n

/-- A word in force with its captured RW bits laid over it. -/
def overlay (x : Chip) (m : SMap Word) (addr : Nat) : Word :=
  match smFind addr m, regRow addr with
  | some v, some r => (rd x addr &&& ~~~ BitVec.ofNat 32 r.rw) ||| (v &&& BitVec.ofNat 32 r.rw)
  | _, _ => rd x addr

/-- Settings of lane n with a set of captured values applied. -/
def cfgWith (x : Chip) (m : SMap Word) (n : Nat) : LaneCfg := cfgFrom (overlay x m) n

/-- Tuned frequency in Hz times 2^32 (R121). -/
def tuned (c : LaneCfg) : Int := (c.sb : Int) * 1280000 * 2 ^ 32 + c.freq * 5120000

/-- The tuned frequency lies from lo to hi Hz. -/
def tunedIn (c : LaneCfg) (lo hi : Nat) : Bool :=
  decide ((lo : Int) * 2 ^ 32 ≤ tuned c) && decide (tuned c ≤ (hi : Int) * 2 ^ 32)

/-- DRM mode E: the lane is tuned to 47 MHz or above (R147). -/
def drmE (c : LaneCfg) : Bool := decide ((47000000 : Int) * 2 ^ 32 ≤ tuned c)

/-- The tuning range of the mode (R121, R147). -/
def tuneOk (c : LaneCfg) : Bool :=
  match c.std with
  | 1 => tunedIn c 64000000 108000000
  | 2 => tunedIn c 100000 30000000
  | 3 => tunedIn c 174000000 240000000
  | 5 => tunedIn c 100000 30000000 || tunedIn c 47000000 108000000
  | _ => true

/-- The plan of a mode (R104): half-band stages, prototype NARROW, rate word; none without coach processing. -/
def planOf (c : LaneCfg) : Option (Nat × Bool × Nat) :=
  match c.std with
  | 1 => some (3, true, 0x28000000)
  | 2 => some (6, true, 0x28000000)
  | 3 => some (1, false, 0x14000000)
  | 5 => if drmE c then some (4, true, 0x1AAAAAAB) else some (6, true, 0x1AAAAAAB)
  | 6 => if c.wb then none else some (c.hb, c.narrow, c.step)
  | 7 => some (2, false, 0x10000000)
  | _ => none

/-- Span of the half-band stages and the resampler in samples of 5.12 MS/s (R102, R103). -/
def spanOf (hb : Nat) (minph : Bool) : Nat :=
  let stage := fun k => if k = 0 then (if minph then 10 else 26) else (if minph then 7 else 18) * 2 ^ k
  ((List.range hb).map stage).sum + 24 * 2 ^ hb

/-- D of R104: coach output samples that carry the settling flag after a synchronising reset. -/
def settleSamples (c : LaneCfg) : Nat :=
  match planOf c with
  | some (hb, _, step) => ceilDiv (spanOf hb c.minph * 2 ^ 28) (2 ^ hb * step)
  | none => 0

/-- The output period T (R94, R103, R108): 25.6 MS/s of a wideband capture. -/
def periodOf (c : LaneCfg) : Int :=
  match planOf c with
  | some (hb, _, step) => (step * 2 ^ hb : Nat) * (3125 * 2 ^ 17)
  | none => ofFrames 1 / 5

/-- The plan's delay (R95, R102 to R104): that of the half-band stages at 0 Hz and 12 samples of the resampler. -/
def planDelay (c : LaneCfg) : Int :=
  match planOf c with
  | some (hb, _, _) =>
    let stage := fun k => if k = 0 then (if c.minph then 6 else 13) else (if c.minph then 4 else 9) * 2 ^ k
    ofFrames (((List.range hb).map stage).sum + 12 * 2 ^ hb)
  | none => if c.std = 6 then 3 * ofFrames 1 / 10 else 0

/-- The splitter's delay of 2495.5 ADC samples (R93). -/
def splitDelay : Int := ofAdc 4991 / 2

/-- The span of a mode's coach filters (R95, R104): 4 taps of the combiner for a wideband capture. -/
def spanAt (c : LaneCfg) : Int :=
  match planOf c with
  | some (hb, _, _) => ofFrames (spanOf hb c.minph)
  | none => if c.std = 6 then 4 * ofFrames 1 / 5 else 0

/-- How long after the last tainted sample of the sub-band a lane's outputs stay tainted (R110). -/
def taintHold (c : LaneCfg) : Int := if c.std = 1 then ofNs 140000 else if c.std = 2 then ofNs 1100000 else spanAt c

/-- Half the pass band of the plan in Hz (R104): the narrower of the last stage's pass and the prototype's. -/
def passHz (c : LaneCfg) : Nat :=
  match planOf c with
  | some (hb, narrow, _) =>
    let proto := (if narrow then 16 else 30) * 5120000 / (100 * 2 ^ hb)
    let stage := if hb = 1 then 768000 else 512000 / 2 ^ (hb - 1)
    if hb = 0 then proto else min stage proto
  | none => if c.std = 6 then 10240000 else 0

/-- The applied offset in Hz, rounded toward zero. -/
def offsetHz (c : LaneCfg) : Int := Int.tdiv (c.freq * 5120000) (2 ^ 32)

/-- The applied offset places part of the pass band beyond 1.6 MHz (R101). -/
def edgeBeyond (c : LaneCfg) : Bool :=
  (planOf c).isSome && decide ((1600000 - (passHz c : Int)) * 2 ^ 32 < (c.freq * 5120000).natAbs)

/-- Whether the mode is one that the coach processes and resets (R99, R111). -/
def usesCoach (std : Nat) : Bool := std == mFm || std == mAm || std == mLead || std == mDrm || std == mIq || std == mScan

/-- Whether PAIR has an effect in the mode (R37). -/
def pairMode (std : Nat) : Bool := std == mFm || std == mLead || std == mDrm

/-- The partner of an input (R40). -/
def partner (a : Nat) : Nat := if a % 2 = 0 then a + 1 else a - 1

/-- The channels of a band sweep (R179): number, first and step in kHz. -/
def scanBand (opt : Nat) : Nat × Nat × Nat :=
  match opt / 2 % 8 with
  | 1 => (41, 174928, 1712)
  | 2 => (15, 153, 9)
  | 3 => (120, 531, 9)
  | 4 => (119, 530, 10)
  | 5 => (4761, 2300, 5)
  | _ => (881, 64000, 50)

/-- List mode of SCAN (R179). -/
def scanList (opt : Nat) : Bool := decide (opt % 2 = 1)

/-- The range in Hz that a band sweep occupies (R48, R179). -/
def scanRange (opt : Nat) : Nat × Nat :=
  match opt / 2 % 8 with
  | 1 => (174160000, 239968000)
  | 2 => (153000, 279000)
  | 3 => (531000, 1602000)
  | 4 => (530000, 1710000)
  | 5 => (2300000, 26100000)
  | _ => (64000000, 108000000)

/-- The occupied band of a lane in Hz, none where it draws on no input (R48). -/
def bandOf (c : LaneCfg) : Option (Int × Int) :=
  if c.std = 7 then
    if scanList c.opt then none else some ((scanRange c.opt).1, (scanRange c.opt).2)
  else if usesCoach c.std then
    let f := if c.std = 6 ∧ c.wb then (2 * (c.sb : Int) + 15) * 640000 else tuned c / 2 ^ 32
    some (f - passHz c, f + passHz c)
  else none

/-- Lane n draws on input a (R37, R48). -/
def drawsOn (c : LaneCfg) (a : Nat) : Bool :=
  usesCoach c.std && (c.ain == a || (c.pair && pairMode c.std && partner c.ain == a))

/-- The lanes of the part. -/
def allLanes : List Nat := List.range laneCount

/-- The destination of a migration under way, which counts as spare (R20). -/
def migDst (x : Chip) : Option Nat := x.bist.mig.map Mig.dst

/-- Lane n counts as assigned (R20): neither OFF nor SPARE nor a migration's destination. -/
def assigned (x : Chip) (n : Nat) : Bool :=
  stdOf x n != mOff && stdOf x n != mSpare && migDst x != some n

/-- Lanes assigned. -/
def assignedCount (x : Chip) : Nat := (allLanes.filter (assigned x)).length

/-- Lane n has failed (R432). -/
def failed (x : Chip) (n : Nat) : Bool := fon x ((F.BIST_FAILED_f (n / 32)).bit (n % 32))

/-- Lane n is spare: SPARE and not failed, or a migration's destination (R20). -/
def spareNow (x : Chip) (n : Nat) : Bool := (stdOf x n == mSpare || migDst x == some n) && !failed x n

/-- One word of a bit per lane. -/
def laneBits (p : Nat → Bool) (i : Nat) : Nat :=
  (List.range 32).foldl (fun a b => if 32 * i + b < laneCount ∧ p (32 * i + b) then a + 2 ^ b else a) 0

/-- The lanes that take a route from input a, as their own or as their partner (R98, R99). -/
def routes (x : Chip) (a : Nat) : Nat := (allLanes.filter fun n => drawsOn (cfgOf x n) a).length

/-- Refresh what counts and shows lanes: `GEN_SPAREi`, `GEN_ASSIGNEDi`, `CAL_LOAD`, `COACHc_MAP`, `SPL_ROUTES`,
`LANEn_CTRL.spare` and `failed` (R20, R80, R98, R119, R464, R467). -/
def laneCounts (x : Chip) : Chip :=
  let x1 := upTo 4 (fun i y =>
    fset (fset y (F.GEN_SPARE_s i) (laneBits (spareNow y) i)) (F.GEN_ASSIGNED_a i) (laneBits (assigned y) i)) x
  let x2 := fset x1 F.CAL_LOAD_lanes (assignedCount x1)
  let x3 := upTo 13 (fun c y => upTo 8 (fun p z => fset z ⟨R.COACH_MAP c, 4 * p, 4⟩ (stdOf z (8 * c + p))) y) x2
  let x4 := upTo 4 (fun a y => fset y (byteFld R.SPL_ROUTES a) (routes y a)) x3
  upTo laneCount (fun n y =>
    fflag (fflag y (F.LANE_CTRL_spare n) (spareNow y n)) (F.LANE_CTRL_failed n) (failed y n)) x4

/-- What `LANEn_STATUS` reads in a mode before its first update (R144, R169, R190, R469). -/
def statusStart (std : Nat) : Word :=
  match std with
  | 1 => 0x000FF000
  | 4 => 0xFE000000
  | 5 => 0x00700000
  | _ => 0

/-- Mode state codes for a lane that starts (R138, R163, R190, R469). -/
def startState (c : LaneCfg) : Nat :=
  match c.std with
  | 1 | 2 | 3 | 5 => 1
  | 4 => 4
  | 6 => 2
  | 7 => if scanList c.opt then 2 else 1
  | _ => 0

/-- The event that lane n's coach raised last is what later events of other sources may name for it (R29). -/
def laneTold (x : Chip) (n : Nat) : Chip := setLane x n { laneOf x n with told := some (lastRef x (srcLane n)) }

/-- Events that the state of lane n leads to name what told it. -/
def byLane (n : Nat) (f : Chip → Chip) (x : Chip) : Chip :=
  match (laneOf x n).told with
  | some r => because r f x
  | none => f x

/-- A lane's state changes, with the event of its mode (R138, R163). -/
def laneStateSet (x : Chip) (n st : Nat) : Chip :=
  let old := laneState x n
  if old = st then x
  else
    let q := fget x (F.LANE_QUAL_cnr n)
    let x1 := fset x (F.LANE_STATE n) st
    let tell := fun code args => laneTold (raise x1 (srcLane n) code args) n
    match stdOf x n with
    | 1 => tell 0x10 (b1 n ++ b1 old ++ b1 st ++ b1 q)
    | 2 => tell 0x14 (b1 n ++ b1 old ++ b1 st ++ b1 q)
    | 3 => tell 0x20 (b1 n ++ b1 3 ++ b1 old ++ b1 st ++ b1 q)
    | 4 => tell 0x20 (b1 n ++ b1 4 ++ b1 old ++ b1 st ++ b1 q)
    | 5 => tell 0x28 (b1 n ++ b1 old ++ b1 st ++ b1 q)
    | _ => x1

/-- Ticks of sample time in the 5 ms of a ramp (R112, R138, R157). -/
def rampTicks : Nat := 10240

/-- How far a ramp that began at an instant has come at another, of `rampTicks`. -/
def rampDone (a u : Int) : Nat := min rampTicks ((u - a) / ofTicks 1).toNat

/-- The gain at an instant, of `rampTicks`, by the times at which audio was let through or no more, newest first (R138, R157):
linear over 5 ms, a ramp cut short turns from where it has come. -/
def gainAt : List (Int × Bool) → Int → Nat
  | [], _ => 0
  | (t, up) :: r, u =>
    if u < t then gainAt r u
    else if up then min rampTicks (gainAt r t + rampDone t u) else gainAt r t - rampDone t u

/-- The input that lane n depends on is enabled (R35): its own, for a service that of its lead. -/
def inputOn (x : Chip) (n : Nat) : Bool :=
  let k := if stdOf x n = mSvc then fget x (F.SVC_lead_now n) else n
  decide (laneCount ≤ k) || fon x (F.AIN_CFG_en (fget x (F.LANE_INPUT_ain k)))

/-- Whether a lane's audio is let through (R35, R138, R157, R163, R164): in PLAY, not muted by concealment, its input
enabled. -/
def audible (x : Chip) (n : Nat) : Bool := laneState x n == 2 && (!(laneOf x n).muted && inputOn x n)

/-- Whether a lane's audio is let through as it turned last. -/
def letThrough (l : LaneRt) : Bool := (l.turns.head?.map Prod.snd).getD false

/-- The ramp of a lane's audio turns where it is to be let through or no more. -/
def rampFollow (x : Chip) (n : Nat) : Chip :=
  let l := laneOf x n
  if audible x n = letThrough l then x
  else setLane x n { l with turns := ((nowAt x, audible x n) :: l.turns).take 64 }

/-- The services attached to a lead (R152). -/
def servicesOf (x : Chip) (lead : Nat) : List Nat :=
  allLanes.filter fun n => stdOf x n == mSvc && fget x (F.SVC_lead_now n) == lead

/-- A service lane that decodes nothing shows nothing decoded (R169). -/
def svcBlank (x : Chip) (n : Nat) : Chip :=
  fsets x [(F.SVC_subch_now n, 0), (F.SVC_kind n, 0), (F.SVC_sbr n, 0), (F.SVC_ps n, 0), (F.SVC_unsupp n, 0)]

/-- A service lane gives up its lead (R152): SVC_ATTACH tells the detach, and what it has read of the ring goes. -/
def svcLeave (x : Chip) (n : Nat) : Chip :=
  if stdOf x n = mSvc ∧ fget x (F.SVC_lead_now n) ≠ 0x7F then
    let y := setLane x n { laneOf x n with logical := [], super := none, eaten := none }
    raise (fset (svcBlank y n) (F.SVC_lead_now n) 0x7F) (srcLane n) 0x23
      (b1 n ++ b1 0x7F ++ b2 ((rd x (R.LANE_TUNE n)).toNat / 65536) ++ b1 (fget x (F.SVC_subch_now n)))
  else x

/-- A service lane detaches (R152, R163, R167): LOST where its lead is lost, concealing, else WAIT, from LOST through ACQ. -/
def svcDetach (lead : Nat) (x : Chip) (n : Nat) : Chip :=
  let lost := decide (stdOf x lead = mLead ∧ laneState x lead = 3)
  let x1 := svcLeave (if lost then fset x (F.SVC_conceal n) 1 else x) n
  let x2 := if lost = false ∧ laneState x1 n = 3 then laneStateSet x1 n 1 else x1
  rampFollow (laneStateSet x2 n (if lost then 3 else 4)) n

/-- A lane's state changes; a lead that leaves PLAY loses its services (R152). -/
def setLaneState (x : Chip) (n st : Nat) : Chip :=
  let x1 := rampFollow (laneStateSet x n st) n
  if stdOf x n = mLead ∧ laneState x n = 2 ∧ st ≠ 2 then after (srcLane n) (fun y => (servicesOf x1 n).foldl (svcDetach n) y) x1 else x1

/-- `side` of an AM lane's options (R122): 0 both sidebands, 1 automatic, 2 upper, 3 lower. -/
def sideOpt (c : LaneCfg) : Nat := c.opt / 8 % 4

/-- The sideband in use changes (R135). -/
def amSide (x : Chip) (n side : Nat) : Chip :=
  if fget x (F.AM_side n) = side then x
  else raise (fset x (F.AM_side n) side) (srcLane n) 0x15 (b1 n ++ b1 side)

/-- The sideband that the options name, both where they name none (R135). -/
def amSideSet (x : Chip) (n : Nat) : Chip :=
  amSide x n (if 2 ≤ sideOpt (cfgOf x n) then sideOpt (cfgOf x n) else 0)

/-- The lane's filter plan as `LANEn_FILT` shows it (R105, R118). -/
def showPlan (x : Chip) (n : Nat) : Chip :=
  match planOf (cfgOf x n) with
  | some (hb, narrow, _) => fflag (fset x (F.LANE_FILT_hb_now n) hb) (F.LANE_FILT_proto_now n) narrow
  | none => fsets x [(F.LANE_FILT_hb_now n, 0), (F.LANE_FILT_proto_now n, 0)]

/-- Lane n runs outside the fixed preselection of input a (R48). -/
def outsideOf (x : Chip) (a n : Nat) : Bool :=
  let c := cfgOf x n
  let p := preselBand (fget x (F.AIN_PRESEL_now a))
  match bandOf c with
  | some (lo, hi) => (laneOf x n).live && (drawsOn c a && (decide (lo < p.1) || decide ((p.2 : Int) < hi)))
  | none => false

/-- PRESEL_MISMATCH of lane n on input a (R48, R64). -/
def preselMismatch (a : Nat) (x : Chip) (n : Nat) : Chip :=
  match bandOf (cfgOf x n) with
  | some (lo, hi) => raise (fset x (F.AIN_STATUS_presel_mismatch a) 1) (srcAin a) 0x07 (b1 n ++ b4 ((lo + hi) / 2000).toNat)
  | none => x

/-- The lanes that run outside a fixed preselection of input a, each told as it comes to lie there (R48). -/
def preselSweep (x : Chip) (a : Nat) : Chip :=
  let old := (ainOf x a).outside
  let now := if fon x (F.AIN_CFG_presel_auto a) then [] else allLanes.filter (outsideOf x a)
  if now = old then x
  else (now.filter fun n => !old.contains n).foldl (preselMismatch a) (setAin x a { ainOf x a with outside := now })

/-- The four inputs' fixed preselections after lanes have changed (R48). -/
def preselSweeps (x : Chip) : Chip := upTo 4 (fun a y => preselSweep y a) x

/-- A lane stops: state 0 with its event, figures at no data, local memory cleared (R34, R137, R138, R357). Its MOT
objects go with it. -/
def laneStop (x : Chip) (n : Nat) : Chip :=
  let x1 := setLaneState (svcLeave x n) n 0
  let x2 := wr (wr x1 (R.LANE_STATUS n) (statusStart (stdOf x n))) (R.LANE_QUAL n) (resetWord (R.LANE_QUAL n))
  preselSweeps (setLane { x2 with mot := x2.mot.filter fun o => o.lane != n } n (laneClear (laneOf x2 n)))

/-- Some input of the part is enabled (R35). -/
def anyInput (x : Chip) : Bool := (List.range 4).any fun a => fon x (F.AIN_CFG_en a)

/-- A lane may start (R35): the table lets it run with its own input disabled too, but a foot runs lanes only while one of
its inputs is enabled. -/
def laneMayRun (x : Chip) : Bool := rfRuns x && (!isFoot x || anyInput x)

/-- Candidate states (R177). -/
def caListed : Nat := 0
def caScanned : Nat := 1
def caWarm : Nat := 2
def caVerified : Nat := 3
def caAligned : Nat := 4
def caReady : Nat := 5
def caFading : Nat := 6
def caRejected : Nat := 7

/-- The line that a candidate needs (R182). -/
def lineOf (r : Follow) (c : Cand) : Int := r.lineNow - c.delta.getD 0

/-- A candidate holds a part of its programme's reserve (R182). -/
def reserves (c : Cand) : Bool := c.state == caAligned || c.state == caReady || c.state == caFading

/-- The longest line or reserve of a programme in samples. -/
def ringOf (r : Follow) : Int := r.cands.foldl (fun a c => if reserves c then max a (lineOf r c) else a) r.lineNow

/-- Blocks of 10 ms of a ring (R182). -/
def blocksOf (samples : Int) : Nat := ceilDiv samples.toNat 480

/-- Blocks in use, those of primary p apart. -/
def blocksUsed (x : Chip) (p : Nat) : Nat :=
  ((x.follows.filter fun e => e.1 != p).map fun e => blocksOf (ringOf e.2)).sum
    + ((x.lines.filter fun e => e.1 != p).map fun e => ceilDiv e.2 480).sum

/-- Blocks of the part (R182). -/
def blocksPool (x : Chip) : Nat := if isHead x then 7200 else 3600

/-- Programmes that hold a line or a reserve, p apart. -/
def lineHolders (x : Chip) (p : Nat) : Nat :=
  (x.follows.filter fun e => e.1 != p && decide (0 < ringOf e.2)).length + (x.lines.filter fun e => e.1 != p).length

/-- A starting line finds its blocks (R182). -/
def lineFits (x : Chip) (p samples : Nat) : Bool :=
  samples == 0 || (decide (ceilDiv samples 480 + blocksUsed x p ≤ blocksPool x) && decide (lineHolders x p < 16))

/-- A line kept after FOLLOW_CLEAR ends, and a follow record's `line` applies where it finds its blocks, at a synchronising
reset (R172, R182, R187). -/
def lineRestart (x : Chip) (n : Nat) : Chip :=
  let y := { x with lines := smErase n x.lines }
  match smFind n y.follows with
  | some r =>
    if lineFits y n (r.line * 48) then { y with follows := smInsert n { r with lineNow := r.line * 48 } y.follows } else y
  | none => y

/-- φ in 1/65536 of an output period (R108): `ofs`, less p × 8192 with `comp`. -/
def skewOf (w : Word) (n : Nat) : Int :=
  sext 18 (getBits w 0 18) - (if w.getLsbD (F.LANE_PHASE_comp n).lo then (n % 8 * 8192 : Nat) else 0)

/-- φ of output k on its way to a target (R108): at most 8192, T/8, for each output since the slew began. -/
def slewed (slew : Option (Int × Int)) (target k : Int) : Int :=
  match slew with
  | none => target
  | some (a, b) =>
    let m := 8192 * (k - b + 1).toNat
    if a ≤ target then min target (a + m) else max target (a - m)

/-- Instant of output k of a lane with φ as given (R108); no skew applies to a wideband capture. -/
def instantOf (x : Chip) (n : Nat) (phi k : Int) : Int :=
  let c := cfgOf x n
  let t := periodOf c
  epochAt x + k * t + (if (planOf c).isSome then (n % 8 : Nat) * (t / 8) + phi * (t / 65536) else 0)

/-- Instant τ of output k of lane n (R108). -/
def gridAt (x : Chip) (n : Nat) (k : Int) : Int :=
  instantOf x n (slewed (laneOf x n).dsp.slew (skewOf (rd x (R.LANE_PHASE n)) n) k) k

/-- The reference instant of an output at τ (R109). -/
def refOf (c : LaneCfg) (t : Int) : Int := t - splitDelay - planDelay c

/-- The first output of lane n from now on, with φ as given (R108, R111). -/
def nextOutput (x : Chip) (n : Nat) (phi : Int) : Int := -((instantOf x n phi 0 - nowAt x) / periodOf (cfgOf x n))

/-- The coach slot of a lane at a synchronising reset (R108, R111): D settling samples from the next grid instant on, with φ as
it is set. -/
def dspBegin (x : Chip) (n : Nat) : DspRt :=
  let c := cfgOf x n
  let phi := skewOf (rd x (R.LANE_PHASE n)) n
  let a := instantOf x n phi (nextOutput x n phi)
  { dspReset with settle := (a, a + settleSamples c * periodOf c) }

/-- Histories and decoder of a lane cleared, state at its start (R111, R138, R163): a synchronising reset discards every
table. -/
def laneBegin (x : Chip) (n : Nat) : Chip :=
  let x0 := svcLeave x n
  let st := laneState x0 n
  let x1 := wr x0 (R.LANE_STATUS n) (putBits (statusStart (stdOf x n)) 0 4 st)
  let x2 := wr x1 (R.LANE_QUAL n) (resetWord (R.LANE_QUAL n))
  let x3 := lineRestart (setLane x2 n { laneClear (laneOf x2 n) with live := true, dsp := dspBegin x2 n }) n
  let x4 := setLaneState (showPlan x3 n) n (startState (cfgOf x3 n))
  preselSweeps (if stdOf x4 n = mAm then amSideSet x4 n else x4)

/-- The log and count of a lane's synchronising reset (R111): none for a lane that uses no coach slot. -/
def resetLog (x : Chip) (n : Nat) : Chip :=
  if usesCoach (stdOf x n) then
    let x1 := count x (R.COACH_RESET_COUNT (n / 8)) (F.COACH_STATUS_reset_wrap (n / 8)) 1
    raise x1 (srcLane n) 0x02 (b1 n ++ b1 (stdOf x n) ++ b2s (settleSamples (cfgOf x n)))
  else x

/-- A synchronising reset of a lane in a mode (R16, R111). -/
def syncReset (x : Chip) (n : Nat) : Chip := laneBegin (resetLog x n) n

/-- DIV_SINGLE where a PAIR lane finds its partner disabled (R38). -/
def divSingle (x : Chip) (n : Nat) : Chip :=
  let c := cfgOf x n
  if pairMode c.std && c.pair && !fon x (F.AIN_CFG_en (partner c.ain)) then
    raise x (srcLane n) 0x06 (b1 n ++ b1 c.ain)
  else x

/-- A lane that holds a mode starts where aerials and lanes run (R34, R38). -/
def laneStart (x : Chip) (n : Nat) : Chip :=
  if stdOf x n ≠ mOff ∧ stdOf x n ≠ mSpare ∧ laneMayRun x = true then divSingle (syncReset x n) n else x

/-- The wideband capture of input a and its count of lanes: capture 0 or 1. -/
def capK0 (a k : Nat) : Fld := if k = 0 then F.SPL_CAP_k0_0 a else F.SPL_CAP_k0_1 a
def capLanes (a k : Nat) : Fld := if k = 0 then F.SPL_CAP_lanes0 a else F.SPL_CAP_lanes1 a

/-- The capture that an IQ lane with k0 on input a would use: one that carries it already, else a free one (R94). -/
def capFor (x : Chip) (a k0 : Nat) : Option Nat :=
  match [0, 1].find? fun k => fon x (capLanes a k) && fget x (capK0 a k) == k0 with
  | some k => some k
  | none => [0, 1].find? fun k => !fon x (capLanes a k)

/-- Whether settings ask for a wideband capture. -/
def wantsCap (c : LaneCfg) : Bool := c.std == mIq && c.wb

/-- A lane leaves its capture, which is freed when it was the last (R94). -/
def capLeave (x : Chip) (c : LaneCfg) : Chip :=
  if wantsCap c then
    match [0, 1].find? fun k => fon x (capLanes c.ain k) && fget x (capK0 c.ain k) == c.sb with
    | some k =>
      let m := fget x (capLanes c.ain k)
      let x1 := fset x (capLanes c.ain k) (m - 1)
      if m = 1 then raise (fset x1 (capK0 c.ain k) 0) srcSpl 0x02 (b1 c.ain ++ b1 k ++ b1 c.sb) else x1
    | none => x
  else x

/-- A lane joins or allocates the capture of its settings (R94), shown in its status (R469). -/
def capJoin (x : Chip) (n : Nat) (c : LaneCfg) : Chip :=
  if wantsCap c then
    match capFor x c.ain c.sb with
    | some k =>
      let m := fget x (capLanes c.ain k)
      let x1 := fset (fset x (capLanes c.ain k) (m + 1)) (capK0 c.ain k) c.sb
      if m = 0 then raise x1 srcSpl 0x01 (b1 c.ain ++ b1 k ++ b1 c.sb ++ b1 n) else x1
    | none => x
  else x

/-- Which capture an IQ lane shows (R469). -/
def capShow (x : Chip) (n : Nat) : Chip :=
  let c := cfgOf x n
  if c.std = mIq ∧ c.wb then
    let k := ([0, 1].find? fun k => fon x (capLanes c.ain k) && fget x (capK0 c.ain k) == c.sb).getD 0
    fsets x [(F.IQ_wb n, 1), (F.IQ_cap n, k)]
  else x

/-- Two bindings on the same PCM carriage overlap (R194). -/
def overlaps (u v : LaneCfg) : Bool :=
  let wu := getBits u.carr 29 2
  let wv := getBits v.carr 29 2
  let lu := min wu 2
  let lv := min wv 2
  let binds := fun m => m != mLead && m != mIq && m != mScan
  binds u.std && binds v.std && lu != 0 && lv != 0 && getBits u.carr 0 8 == getBits v.carr 0 8
    && decide (getBits u.carr 24 5 < getBits v.carr 24 5 + lv) && decide (getBits v.carr 24 5 < getBits u.carr 24 5 + lu)

/-- An apply that sets `pool` with another mode than SCAN, or `pool` and `en` both at 1 (R176). -/
def poolBad (o c : LaneCfg) : Bool :=
  let pool := fun k : LaneCfg => k.tandem.getLsbD 16
  let en := fun k : LaneCfg => k.tandem.getLsbD 7
  pool c && ((!pool o && c.std != mScan) || (en c && !(pool o && en o)))

/-- Why the lane supervisor ignores an applied change (R21, R35, R94, R105, R121, R147, R151, R176, R194, R466): the
register whose value caused it and the value rejected. -/
def rejection (x : Chip) (n : Nat) (m : SMap Word) : Option (Nat × Nat) :=
  let c := cfgWith x m n
  let o := cfgOf x n
  let mode := fun _ : Unit => some (R.LANE_MODE n, c.std)
  let leads := (allLanes.filter fun k => k != n && stdOf x k == mLead).length
  if o.std = mSpare ∨ failed x n ∨ 8 ≤ c.std then mode ()
  else if o.std = mOff ∧ c.std ≠ mOff ∧ fget x F.GEN_CAPACITY_lanes ≤ assignedCount x then mode ()
  else if isFoot x ∧ c.std ≠ mOff ∧ anyInput x = false then mode ()
  else if c.std = mLead ∧ 8 ≤ leads then mode ()
  else if tuneOk c = false then some (R.LANE_TUNE n, c.tune.toNat)
  else if c.std = mIq ∧ c.wb = false ∧ 7 < c.hb then some (R.LANE_FILT n, (overlay x m (R.LANE_FILT n)).toNat)
  else if c.std = mIq ∧ c.wb = false ∧
      (c.step < 0x08000000 ∨ (if c.narrow then 0x28000000 else 0x14000000) < c.step) then
    some (R.LANE_RATE n, c.step)
  else if wantsCap c ∧ (240 < c.sb ∨ capFor (capLeave x o) c.ain c.sb = none) then
    some (R.LANE_INPUT n, (overlay x m (R.LANE_INPUT n)).toNat)
  else if poolBad o c then some (R.LANE_TANDEM n, c.tandem.toNat)
  else if allLanes.any (fun k => k != n && overlaps c (cfgOf x k)) then some (R.LANE_CARR n, c.carr.toNat)
  else none

/-- BAD_LANE_WRITE (R115). -/
def badLaneWrite (x : Chip) (n addr v : Nat) : Chip := raise x (srcLane n) 0x01 (b1 n ++ b2 addr ++ b4 v)

/-- An applied change that is ignored (R21), a refused capture counted (R94): its `LANEn_INPUT` is what `rejection` names. -/
def badApply (x : Chip) (n addr v : Nat) : Chip :=
  badLaneWrite (if addr = R.LANE_INPUT n then count x R.SPL_REJECT_COUNT F.SPL_STATUS_reject_wrap 1 else x) n addr v

/-- Staged values of lane n, as a map. -/
def ofLane (m : SMap Word) (n : Nat) : SMap Word := m.filter fun e => e.1 / 0x40 == laneBase n / 0x40

/-- A map without the values of lane n. -/
def notLane (m : SMap Word) (n : Nat) : SMap Word := m.filter fun e => e.1 / 0x40 != laneBase n / 0x40

/-- The captured values of lane n are discarded. -/
def dropCaptured (x : Chip) (n : Nat) : Chip :=
  fsets { x with captured := notLane x.captured n } [(F.LANE_CTRL_apply n, 0), (F.LANE_CTRL_held n, 0)]

/-- A pool lane, whose mode and tuning management alone sets (R176). -/
def isPool (x : Chip) (n : Nat) : Bool := fon x (F.LANE_TANDEM_pool n)

/-- The value that a read of a staged register returns (R15, R468): staged, else captured, else in force. -/
def stagedRead (x : Chip) (addr : Nat) : Word :=
  match smFind addr x.staged with
  | some _ => overlay x x.staged addr
  | none => overlay x x.captured addr

/-- The value that a write gives a register with RW bits only. -/
def rwMerge (addr : Nat) (old v : Word) : Word :=
  match regRow addr with
  | some r => (old &&& ~~~ BitVec.ofNat 32 r.rw) ||| (v &&& BitVec.ofNat 32 r.rw)
  | none => old

/-- A write to a staged register of lane n (R15, R176, R468): held as a staged value; a pool lane's mode, input, tuning
and filter are not yours to write. -/
def stageWrite (x : Chip) (addr : Nat) (v : Word) : Chip :=
  let n := (addr - 0x1000) / 0x40
  let off := addr % 0x40
  if isPool x n ∧ off ∈ [0x00, 0x08, 0x0C, 0x10] then badLaneWrite x n addr v.toNat
  else
    fset { x with staged := smInsert addr (rwMerge addr (stagedRead x addr) v) x.staged } (F.LANE_CTRL_staged n) 1

/-- LANE_STAGED_WRITE (R468). -/
def execLaneStagedWrite (addr : Nat) (v : Word) (s : State) : Outc :=
  .next (if isLaneAddr addr ∧ addr % 0x40 ∈ stagedOffs ∧ mgmtUp s.chip then onChip (fun x => stageWrite x addr v) s
    else s)

/-- Values not yet captured are discarded (R467). -/
def discardStaged (x : Chip) (n : Nat) : Chip :=
  fset { x with staged := notLane x.staged n } (F.LANE_CTRL_staged n) 0

/-- DISCARD (R467). -/
def execDiscard (n : Nat) (s : State) : Outc :=
  .next (if n < laneCount ∧ mgmtUp s.chip then onChip (fun x => discardStaged x n) s else s)

/-- Lane n is the source of a migration, or under test (R17, R468). -/
def laneHeld (x : Chip) (n : Nat) : Bool :=
  (x.bist.mig.map Mig.src == some n) || (x.bist.test.map LaneTest.lane == some n)

/-- Captured values that a cross-fade holds back (R17, R176, R187): any change to the primary, whose programme migrates to
its tandem lane, and `pool` written 0 on the busy lane. -/
def fadeHolds (x : Chip) (n : Nat) (m : SMap Word) : Bool :=
  let c := cfgWith x m n
  fon x (F.LANE_TANDEM_busy n) &&
    ((smFind n x.follows).any (fun r => r.fading.isSome) || ((cfgOf x n).tandem.getLsbD 16 && !c.tandem.getLsbD 16))

/-- The staged values of lane n are captured and checked (R15, R21, R468): ignored with BAD_LANE_WRITE where illegal, held
for a migration, a test or a fade, otherwise due at the next output instant. -/
def capture (x : Chip) (n : Nat) : Chip :=
  if fon x (F.LANE_CTRL_apply n) then x
  else
    let m := ofLane x.staged n
    let x1 := fset { x with staged := notLane x.staged n, captured := notLane x.captured n ++ m }
      (F.LANE_CTRL_staged n) 0
    let x2 := { x1 with captured := m.foldl (fun a e => smInsert e.1 e.2 a) (notLane x.captured n) }
    match rejection x n m with
    | some (addr, v) => dropCaptured (badApply x2 n addr v) n
    | none =>
      fflag (fset x2 (F.LANE_CTRL_apply n) 1) (F.LANE_CTRL_held n) (laneHeld x n || fadeHolds x n m)

/-- APPLY (R468). -/
def execApplyStaged (n : Nat) (s : State) : Outc :=
  .next (if n < laneCount ∧ mgmtUp s.chip then onChip (fun x => capture x n) s else s)

/-- The captured words of lane n in force. -/
def putCaptured (x : Chip) (n : Nat) : Chip :=
  let y := (stagedAddrs n).foldl (fun y a => wr y a (overlay x x.captured a)) x
  dropCaptured y n

/-- A change that needs a synchronising reset (R16): mode, input, sub-band, capture or filter phase. A DAB_SVC lane ignores
its input and sub-band and has no filters (R99). -/
def needsReset (o c : LaneCfg) : Bool :=
  o.std != c.std || (usesCoach c.std &&
    (o.ain != c.ain || o.sb != c.sb || (c.std == mIq && o.wb != c.wb) || o.minph != c.minph))

/-- TUNE_EDGE for an applied offset beyond the flat pass (R101). -/
def tuneEdge (x : Chip) (n : Nat) : Chip :=
  let c := cfgOf x n
  if edgeBeyond c then raise x (srcLane n) 0x07 (b1 n ++ leInt 4 (offsetHz c)) else x

/-- The lanes that draw on input a. -/
def lanesOn (x : Chip) (a : Nat) : List Nat := allLanes.filter fun n => drawsOn (cfgOf x n) a

/-- Preselection p contains the occupied band of every lane that draws on input a (R48). -/
def preselFits (x : Chip) (a p : Nat) : Bool :=
  let q := preselBand p
  (lanesOn x a).all fun n => match bandOf (cfgOf x n) with
    | some (lo, hi) => decide ((q.1 : Int) ≤ lo) && decide (hi ≤ q.2)
    | none => true

/-- The first of BAND2, BAND3, LOW, VHF and WIDE that contains every lane (R48). -/
def preselBest (x : Chip) (a : Nat) : Nat := ([3, 4, 1, 2, 0].find? (preselFits x a)).getD 0

/-- Preselection re-evaluated (R48): `sel` acts where automatic selection is off; a wider one is taken at once, a narrower
one when the lanes have been unchanged for 1 s; without lanes it is left. -/
def preselEval (x : Chip) (a : Nat) (stable : Bool) : Chip :=
  if fon x (F.AIN_CFG_presel_auto a) then
    if (lanesOn x a).isEmpty then x
    else if preselFits x a (fget x (F.AIN_PRESEL_now a)) && !stable then x
    else setPresel x a (preselBest x a)
  else preselSweep (setPresel x a (preselOf (fget x (F.AIN_PRESEL_sel a)))) a

/-- PRESEL (R48). -/
def execPresel (a : Nat) (stable : Bool) (s : State) : Outc :=
  .next (if a < 4 ∧ dUp s.chip then onChip (fun x => preselEval x a stable) s else s)

/-- Lanes that waited for input a restart with a synchronising reset (R34, R345, R350). -/
def restartOn (x : Chip) (a : Nat) : Chip :=
  allLanes.foldl (fun y n =>
    if (laneOf y n).restart && (fget y (F.LANE_INPUT_ain n) == a || stdOf y n == mSvc) then laneStart y n else y) x

/-- PLAN_DONE (R52): 2 ms after entering PLAN the input enters RUN. -/
def execPlanDone (a : Nat) (peak : Option Int) (s : State) : Outc :=
  .next (if a < 4 ∧ ainState s.chip a = stPlan then onChip (fun x => after (srcAin a) (fun y => restartOn y a) (planDone x a peak)) s else s)

/-- The diversity selection that a lead or DRM lane shows (R62, R144, R169). -/
def selFld (std n : Nat) : Option Fld :=
  if std = mLead then some (F.LEAD_in n) else if std = mDrm then some (F.DRM_in n) else none

/-- A lane drops its partner branch and uses the named input alone (R16, R37, R38). -/
def dropBranch (x : Chip) (n : Nat) : Chip :=
  let y := match selFld (stdOf x n) n with
    | some f => fset x f 0
    | none => x
  setDsp y n { (laneOf y n).dsp with join := none, low := none }

/-- The lanes' audio follows the enables of the inputs that they depend on (R35). -/
def mutesFollow (x : Chip) : Chip := allLanes.foldl (fun y n => if (laneOf y n).live then rampFollow y n else y) x

/-- Once an input of a foot is enabled, every lane that holds a mode runs (R35). -/
def footStart (x : Chip) : Chip :=
  if isFoot x then allLanes.foldl (fun y n => if (laneOf y n).live then y else laneStart y n) x else x

/-- AIN_ENABLE_WRITE (R35, R38, R52): lanes that pair with a disabled input run on their own input alone. -/
def ainEnableWrite (x : Chip) (a : Nat) (en : Bool) : Chip :=
  let was := fon x (F.AIN_CFG_en a)
  let x1 := ainEnable x a en
  if was = en then x1
  else if en then after (srcAin a) footStart (mutesFollow x1)
  else
    after (srcAin a) (fun z => allLanes.foldl (fun y n =>
      let c := cfgOf y n
      if c.ain = partner a ∧ c.pair = true ∧ (laneOf y n).live = true ∧ pairMode c.std = true then
        divSingle (dropBranch y n) n else y) z) (mutesFollow x1)

/-- AIN_ENABLE_WRITE (R52). -/
def execAinEnableWrite (a : Nat) (en : Bool) (s : State) : Outc :=
  .next (if a < 4 ∧ mgmtUp s.chip then onChip (fun x => ainEnableWrite x a en) s else s)

/-- LANE_RESET (R111, R113): a synchronising reset of the lane at a position, nothing for a lane without a coach slot. -/
def execLaneReset (c p : Nat) (s : State) : Outc :=
  .next (if c < 13 ∧ p < 8 ∧ rfRuns s.chip = true ∧ usesCoach (stdOf s.chip (8 * c + p)) = true then
      onChip (fun x => syncReset x (8 * c + p)) s
    else s)

/-- FORCED_TAINT (R96): one 8.0 µs window, in any state of the input. -/
def forcedTaint (x : Chip) (a : Nat) : Chip := raise (taintWindow x a (nowAt x) 8000) srcSpl 0x03 (b1 a)

/-- FORCED_TAINT (R96). -/
def execForcedTaint (a : Nat) (s : State) : Outc :=
  .next (if a < 4 ∧ dUp s.chip then onChip (fun x => forcedTaint x a) s else s)

/-- A coach's slack over a 10 ms window (R24, R25): logged below 5 %. -/
def slackWindow (x : Chip) (c now : Nat) : Chip :=
  let x1 := fset x (F.COACH_SLACK_now c) now
  let x2 := if now < fget x1 (F.COACH_SLACK_min c) then fset x1 (F.COACH_SLACK_min c) now else x1
  if now < 5 then raise x2 (srcCoach c) 0x04 (b1 now) else x2

/-- SLACK_LOW (R25). -/
def execSlackLow (c now : Nat) (s : State) : Outc :=
  .next (if c < 13 ∧ dUp s.chip then onChip (fun x => slackWindow x c (min now 100)) s else s)

/-- SLACK_EXHAUSTED (R26): samples discarded at a position, counted and logged; outputs computed across the gap are
tainted. -/
def slackLost (x : Chip) (c p n : Nat) : Chip :=
  let k := 8 * c + p
  let d := (laneOf x k).dsp
  let x1 := if (laneOf x k).live && usesCoach (stdOf x k) then
      setDsp x k { d with gaps := spanAdd (nowAt x) d.gaps (nowAt x) (nowAt x) } else x
  raise (count x1 (R.COACH_OVF_COUNT c) (F.COACH_STATUS_ovf_wrap c) n) (srcCoach c) 0x05 (b1 p ++ b2s n)

/-- SLACK_EXHAUSTED (R26). -/
def execSlackExhausted (c p n : Nat) (s : State) : Outc :=
  .next (if c < 13 ∧ p < 8 ∧ dUp s.chip then onChip (fun x => slackLost x c p n) s else s)

/-- A value not yet in force meets a supervisor's write of a field (R475): it follows where it equals the old value. -/
def meetWrite (m : SMap Word) (f : Fld) (old v : Nat) : SMap Word :=
  match smFind f.addr m with
  | some w => if getBits w f.lo f.width = old then smInsert f.addr (putBits w f.lo f.width v) m else m
  | none => m

/-- A supervisor rewrites a field in force (R12, R475), and with it a staged or captured value that equals the old one. -/
def superWrite (x : Chip) (f : Fld) (v : Nat) : Chip :=
  let old := fget x f
  fset { x with staged := meetWrite x.staged f old v, captured := meetWrite x.captured f old v } f v

/-- The fields of `LANEn_CARR` (R217). -/
def carrFields (n : Nat) : List Fld :=
  [F.LANE_CARR_s_en n, F.LANE_CARR_width n, F.LANE_CARR_ch0 n, F.LANE_CARR_side n, F.LANE_CARR_aud n]

/-- A supervisor writes fields of one register to those of a word. -/
def superWord (x : Chip) (l : List Fld) (w : Word) : Chip :=
  l.foldl (fun y f => superWrite y f (getBits w f.lo f.width)) x

/-- A supervisor writes `LANEn_CARR` field by field. -/
def superCarr (x : Chip) (n : Nat) (w : Word) : Chip := superWord x (carrFields n) w

/-- The fields of `LANEn_TANDEM` that a write sets (R189). -/
def tandemFields (n : Nat) : List Fld := [F.LANE_TANDEM_primary n, F.LANE_TANDEM_en n, F.LANE_TANDEM_pool n]

/-- The fields of the options of a mode, from bit 16 on (R122, R148, R179): their widths in order. -/
def optWidths (std : Nat) : List Nat :=
  match std with
  | 1 => [2, 1, 1, 2, 1, 1, 1, 1, 6]
  | 2 => [3, 2, 1, 1, 1, 1, 7]
  | 3 => [1, 1, 14]
  | 4 => [4, 2, 1, 1, 1, 7]
  | 5 => [3, 1, 1, 2, 9]
  | 7 => [1, 3, 4, 8]
  | _ => [16]

/-- Fields of the given widths of a register, from a bit on. -/
def fieldsFrom (addr lo : Nat) : List Nat → List Fld
  | [] => []
  | w :: r => ⟨addr, lo, w⟩ :: fieldsFrom addr (lo + w) r

/-- The fields of a staged register of lane n, whose mode is std, that a write sets (R116, R118). -/
def stagedFields (n std off : Nat) : List Fld :=
  if off = 0x00 then F.LANE_MODE_std n :: fieldsFrom (R.LANE_MODE n) 16 (optWidths std)
  else if off = 0x08 then [F.LANE_INPUT_ain n, F.LANE_INPUT_div n, F.LANE_INPUT_wb n, F.LANE_INPUT_sb n]
  else if off = 0x0C then
    (if std = mSvc then fieldsFrom (R.LANE_TUNE n) 0 [16, 16] else [F.LANE_TUNE_freq n])
  else if off = 0x10 then [F.LANE_FILT_hb n, F.LANE_FILT_proto n, F.LANE_FILT_minph n]
  else if off = 0x14 then [F.LANE_RATE_step n]
  else if off = 0x18 then [F.LANE_PHASE_ofs n, F.LANE_PHASE_comp n]
  else if off = 0x1C then [F.LANE_DCB_shift n, F.LANE_DCB_freeze n, F.LANE_DCB_auto_freeze n]
  else if off = 0x20 then tandemFields n
  else carrFields n

/-- Management writes a staged register of lane n in force, with a word for its fields (R12, R475). -/
def superStaged (x : Chip) (n std off : Nat) (w : Word) : Chip := superWord x (stagedFields n std off) w

/-- The inputs whose samples lane n uses: named, and partner where PAIR acts and it is enabled (R37, R38). -/
def branches (x : Chip) (n : Nat) : List Nat :=
  let c := cfgOf x n
  if c.pair && (pairMode c.std && fon x (F.AIN_CFG_en (partner c.ain))) then [c.ain, partner c.ain] else [c.ain]

/-- The stretches in which the samples of a branch of lane n are tainted (R16, R26): a branch that PAIR has just added counts
as tainted until its first D outputs have passed. -/
def branchSpans (x : Chip) (n k : Nat) : List Span :=
  let d := (laneOf x n).dsp
  let c := cfgOf x n
  let added := match d.join with
    | some t => if k = 1 then [⟨0, some (t - spanAt c - 1)⟩] else []
    | none => []
  taintsOf x (if k = 0 then c.ain else partner c.ain) ++ (d.gaps ++ added)

/-- The stretches in which the samples of lane n are tainted (R26, R63, R96): those of its input, with two branches those in
which the coach filters pass the taint of both. -/
def laneSpans (x : Chip) (n : Nat) : List Span :=
  match branches x n with
  | [_, _] => spansBoth (spanAt (cfgOf x n)) (branchSpans x n 0) (branchSpans x n 1)
  | _ => branchSpans x n 0

/-- Branch k's coach output at an instant is tainted (R63, R110). -/
def branchTaint (x : Chip) (n k : Nat) (t : Int) : Bool := heldAt (branchSpans x n k) (spanAt (cfgOf x n)) t

/-- The coach output of lane n at an instant carries the taint flag (R26, R63, R110). -/
def coachTaint (x : Chip) (n : Nat) (t : Int) : Bool := heldAt (laneSpans x n) (spanAt (cfgOf x n)) t

/-- The lane's own output of an instant carries the taint flag (R58, R110). -/
def laneTaint (x : Chip) (n : Nat) (t : Int) : Bool := heldAt (laneSpans x n) (taintHold (cfgOf x n)) t

/-- The coach output of lane n at an instant carries the settling flag (R111): older samples do not. -/
def laneSettles (x : Chip) (n : Nat) (t : Int) : Bool :=
  let s := (laneOf x n).dsp.settle
  decide (s.1 ≤ t) && decide (t < s.2)

/-- The DC estimate of lane n is frozen at a sample, tainted or not (R106, R113, R134, R142): `freeze`, a tainted sample, an AM
carrier fade with `auto_freeze`, a fade that ended in LOST. -/
def dcFrozen (x : Chip) (n : Nat) (taint : Bool) : Bool :=
  let fade := stdOf x n == mAm && (fon x (F.AM_fade n) && fon x (F.LANE_DCB_auto_freeze n))
  (laneOf x n).live && usesCoach (stdOf x n) &&
    (fon x (F.LANE_DCB_freeze n) || (fade || ((laneOf x n).dsp.held || taint)))

/-- φ of lane n has not come to what is set (R108). -/
def laneSlews (x : Chip) (n : Nat) : Bool :=
  let phi := skewOf (rd x (R.LANE_PHASE n)) n
  slewed (laneOf x n).dsp.slew phi (nextOutput x n phi - 1) != phi

/-- The registers of a lane whose bits follow its samples: `LANEn_STATUS` of an IQ lane, `LANEn_PHASE.slewing`,
`LANEn_DCB.frozen` (R106, R108, R469), over what they hold as w. -/
def laneMeasured (x : Chip) (addr : Nat) (w : Word) : Word :=
  let n := (addr - 0x1000) / 0x40
  if addr % 0x40 = 0x18 then putBits w 31 1 (laneSlews x n).toNat
  else if addr % 0x40 = 0x1C then putBits w 16 1 (dcFrozen x n (branchTaint x n 0 (nowAt x))).toNat
  else if (laneOf x n).live && stdOf x n == mIq then putBits w 8 1 (laneTaint x n (nowAt x)).toNat
  else w

end Sys2Proof.Machine
end

