-- ==== Sys2Proof/Machine/LinkMap.lean ====
section
/-! DEFINITION. The link's arithmetic and loading maps (R220, R228 to R230, R249, R254, R258, R260 to R264, R471):
capacity of a map, bits from region SNR, notches, the two directions, their registers and window entries. -/
namespace Sys2Proof.Machine

/-- A train number that lies in the future of another (R249). -/
def future (n cur : Nat) : Bool :=
  let d := (n + 2 ^ 32 - cur) % 2 ^ 32
  decide (1 ≤ d) && decide (d ≤ 2 ^ 31 - 1)

/-- The train after a train. -/
def nextTrain (k : Nat) : Nat := (k + 1) % 2 ^ 32

/-- Regions of a direction: 0 downlink, 1 upstream (R220, R238). -/
def regions (d : Nat) : Nat := if d = 0 then 47 else 8

/-- Data subcarriers of a region (R220, R238). -/
def dataSubs (d r : Nat) : Nat := if d = 0 ∧ r = 46 then 52 else 60

/-- Subcarriers of a direction. -/
def subcarriers (d : Nat) : Nat := if d = 0 then 3000 else 512

/-- The most bits that a region of a direction may carry (R263). -/
def maxBits (d : Nat) : Nat := if d = 0 then 12 else 6

/-- Payload symbols of a normal train or a full burst (R228, R239). -/
def fullSymbols (d : Nat) : Nat := if d = 0 then 62 else 21

/-- Payload symbols of train k (R222, R228). -/
def trainSymbols (k : Nat) : Nat := if k % 16 = 15 then 61 else 62

/-- Coded bits in one payload symbol (R228). -/
def codedPerSymbol (d : Nat) (bits : List Nat) : Nat :=
  (List.range (regions d)).foldl (fun a r => a + nth 0 bits r * dataSubs d r) 0

/-- Information bits of a codeword (R254). -/
def infoBits (fast : Bool) : Nat := if fast then 1620 else 1458

/-- Codewords in a number of payload symbols (R228). -/
def codewords (d : Nat) (m : LoadMap) (symbols : Nat) : Nat := codedPerSymbol d m.bits * symbols / 1944

/-- Payload bytes in a number of payload symbols, CRC included (R254). -/
def payloadBytes (d : Nat) (m : LoadMap) (symbols : Nat) : Nat := codewords d m symbols * infoBits m.fast / 8

/-- Bytes available for segments (R258). -/
def segBytes (d : Nat) (m : LoadMap) (symbols : Nat) : Nat := payloadBytes d m symbols - 4

/-- Bytes that the head reserves for link segments in a train: 1 %, rounded up, no fewer than 512 (R258). -/
def linkReserve (avail : Nat) : Nat := max 512 (ceilDiv avail 100)

/-- Bytes for carriages in 16 trains that include one quiet train (R208, R258). -/
def carrCapacity (m : LoadMap) : Nat :=
  let n := segBytes 0 m 62
  let q := segBytes 0 m 61
  15 * (n - linkReserve n) + (q - linkReserve q)

/-- Threshold of b bits in 0.25 dB (R230). -/
def threshold (b : Nat) : Nat := nth 0 [0, 24, 36, 50, 62, 74, 86, 98, 110, 122, 134, 146, 158] b

/-- Bits for a region SNR in 0.25 dB (R230): the largest number within the limit whose threshold and margin fit. -/
def bitsFor (snr margin limit : Nat) : Nat :=
  (List.range (limit + 1)).foldl (fun a b => if 1 ≤ b ∧ threshold b + margin ≤ snr then b else a) 0

/-- A notch with its guards overlaps region r (R236). -/
def notchHits (r : Nat) (e : Nat × Nat) : Bool :=
  decide (e.1 ≤ 64 * r + 63 + 4) && decide (64 * r ≤ e.2 + 4)

/-- Region r overlaps a notch of a set or its guard. -/
def silenced (set : List (Nat × Nat)) (r : Nat) : Bool := set.any (notchHits r)

/-- The pilot-silent mask of a notch set (R260). -/
def notchMask (d : Nat) (set : List (Nat × Nat)) : Nat :=
  (List.range (regions d)).foldl (fun a r => if silenced set r then a + 2 ^ r else a) 0

/-- Notch i is valid for the direction it names (R236). -/
def notchOk (x : Chip) (i : Nat) : Bool :=
  let lo := fget x (F.LINK_NOTCH_lo i)
  let hi := fget x (F.LINK_NOTCH_hi i)
  decide (lo ≤ hi) && decide (hi < subcarriers (fget x (F.LINK_NOTCH_dir i)))

/-- The notches that the part sets in a direction (R236): enabled and valid. -/
def notchSet (x : Chip) (d : Nat) : List (Nat × Nat) :=
  ((List.range 16).filter fun i => fon x (F.LINK_NOTCH_en i) && (fget x (F.LINK_NOTCH_dir i) == d && notchOk x i)).map
    fun i => (fget x (F.LINK_NOTCH_lo i), fget x (F.LINK_NOTCH_hi i))

/-- One direction of the link. -/
def dirOf (x : Chip) (d : Nat) : LinkDir := if d = 0 then x.lk.dn else x.lk.up

/-- The map and train that a window entry shows: 0 in force, 1 scheduled, 2 held (R471). -/
def entryMap (l : LinkDir) (e : Nat) : Option (LoadMap × Nat) :=
  match e with
  | 0 => some (l.now, 0)
  | 1 => l.sched.map fun s => (s.map, s.at_)
  | _ => l.held.map fun m => (m, 0)

/-- Change counts brought up to date: one more, wrapping at 0xFF, for each entry that changed (R471). -/
def touch (l : LinkDir) : LinkDir :=
  let now := (List.range 3).map (entryMap l)
  { l with
    counts := (List.range 3).map fun e =>
      if nth none now e = nth none l.shown e then nth 0 l.counts e else (nth 0 l.counts e + 1) % 256
    shown := now }

/-- Set a direction of the link and what registers show of it (R258, R276). -/
def setDir (x : Chip) (d : Nat) (l : LinkDir) : Chip :=
  let l1 := touch l
  let next := (l1.sched.map fun s => s.map.id).getD 0
  let at_ := (l1.sched.map Sched.at_).getD 0
  let held := (l1.held.map LoadMap.id).getD 0
  if d = 0 then
    fsets { x with lk := { x.lk with dn := l1 } }
      [(F.LINK_STATE_dmap, l1.now.id), (F.LINK_MAP_STATUS_d_next, next), (F.LINK_MAP_STATUS_d_held, held),
       (F.LINK_DN_AT_s, at_), (F.LINK_DN_CAP_bytes, segBytes 0 l1.now 62)]
  else
    fsets { x with lk := { x.lk with up := l1 } }
      [(F.LINK_STATE_umap, l1.now.id), (F.LINK_MAP_STATUS_u_next, next), (F.LINK_MAP_STATUS_u_held, held),
       (F.LINK_UP_AT_s, at_), (F.LINK_UP_CAP_bytes, segBytes 1 l1.now 21)]

/-- A direction with every map but map 0, every schedule and every held map discarded (R266). -/
def dirClear (d : Nat) (l : LinkDir) : LinkDir :=
  { LinkDir.reset (regions d) with counts := l.counts, shown := l.shown }

/-- Both directions discarded (R266). -/
def mapsClear (x : Chip) : Chip := setDir (setDir x 0 (dirClear 0 x.lk.dn)) 1 (dirClear 1 x.lk.up)

/-- The part transmits in a direction, and so acknowledges its maps (R260). -/
def transmits (x : Chip) (d : Nat) : Bool := if d = 0 then isHead x else isFoot x

/-- Nibbles of a PROPOSE: bits of region r (R260). -/
def mapNibbles (p : List Byte) : List Nat :=
  (List.range 48).map fun r => field p (8 + r / 2) 1 / 16 ^ (r % 2) % 16

/-- The payload of a PROPOSE (R260). -/
def proposeBytes (d : Nat) (m : LoadMap) : List Byte :=
  b1 0 ++ b1 (d + (if m.fast then 2 else 0)) ++ List.replicate 6 0
    ++ (List.range 24).map (fun i => BitVec.ofNat 8 (nth 0 m.bits (2 * i) + 16 * nth 0 m.bits (2 * i + 1)))
    ++ le 6 m.mask

/-- The payload of an ACK (R260). -/
def ackBytes (d s : Nat) : List Byte := b1 1 ++ b1 d ++ b2 0 ++ b4 s

/-- The payload of a NAK (R260). -/
def nakBytes (d why : Nat) : List Byte := b1 2 ++ b1 d ++ b1 why ++ List.replicate 5 0

/-- The map that a PROPOSE carries. -/
def proposed (d : Nat) (p : Proposal) : LoadMap :=
  ⟨p.id, decide (field p.payload 1 1 / 2 % 2 = 1), (mapNibbles p.payload).take (regions d), field p.payload 32 6⟩

/-- A link segment (R256): `ts` and `disc` clear. -/
def linkSeg (type id : Nat) (payload : List Byte) : Seg := ⟨id, type, 3, payload, none⟩

/-- A link segment put in line, not before a train where one is named. -/
def sendSeg (x : Chip) (s : Seg) (notBefore : Option Nat) : Chip :=
  { x with lk := { x.lk with out := x.lk.out ++ [⟨s, notBefore⟩] } }

/-- Notches that a map must respect: announced, else in force (R263, R264). -/
def notchesDue (l : LinkDir) : List (Nat × Nat) := l.announced.getD l.notches

/-- Why the acknowledger rejects a map, 0 where it does not (R263, R264). -/
def nakOf (l : LinkDir) (d : Nat) (m : LoadMap) : Nat :=
  let set := notchesDue l
  if m.bits.any (fun b => decide (maxBits d < b)) then 1
  else if payloadBytes d m (fullSymbols d) < (if d = 0 then 4112 else 1040) then 2
  else if m.mask ≠ notchMask d set ∨
      (List.range (regions d)).any (fun r => silenced set r && nth 0 m.bits r != 0) = true then 3
  else if m.id = 0 ∨ m.id = l.now.id then 4
  else 0

/-- Why the acknowledger rejects a proposal, 0 where it does not (R263). -/
def nakReason (l : LinkDir) (d : Nat) (p : Proposal) : Nat :=
  if ((mapNibbles p.payload).drop (regions d)).any (fun b => b != 0) then 1 else nakOf l d (proposed d p)

/-- A map rejected in train or slot a (R260, R263). -/
def rejectMap (x : Chip) (d id why a : Nat) : Chip :=
  raise (sendSeg x (linkSeg 0xA id (nakBytes d why)) (some a)) srcLink 0x10 (b1 d ++ b1 id ++ b1 why)

/-- Trains from an ACK to its switch (R261, R276). -/
def mapLead (x : Chip) : Nat := max 2 (fget x F.LINK_MAP_CFG_lead)

/-- A map acknowledged in train or slot a (R261, R264): scheduled at a + lead with the notches announced, its ACK put in
line, MAP_ACK logged. -/
def acknowledge (x : Chip) (d : Nat) (m : LoadMap) (a : Nat) : Chip :=
  let l := dirOf x d
  let s := (a + mapLead x) % 2 ^ 32
  let x1 := setDir x d { l with sched := some ⟨m, s, l.announced⟩ }
  raise (sendSeg x1 (linkSeg 0xA m.id (ackBytes d s)) (some a)) srcLink 0x0E (b1 d ++ b1 m.id ++ b4 s)

/-- One proposal that arrives (R261 to R263): answered again where it is scheduled already, rejected, or left over. -/
def arriveOne (d a : Nat) (acc : Chip × List Proposal) (p : Proposal) : Chip × List Proposal :=
  let x := acc.1
  let l := dirOf x d
  match l.sched with
  | some s =>
    if s.map.id = p.id ∧ future s.at_ a = true then (sendSeg x (linkSeg 0xA p.id (ackBytes d s.at_)) (some a), acc.2)
    else
      let why := nakReason l d p
      if why ≠ 0 then (rejectMap x d p.id why a, acc.2) else (x, [p])
  | none =>
    let why := nakReason l d p
    if why ≠ 0 then (rejectMap x d p.id why a, acc.2) else (x, [p])

/-- The proposals that have arrived at train or slot a (R261, R262): of those left over the newest is acknowledged where
none is scheduled or held, else held. -/
def proposalsArrive (x : Chip) (d a : Nat) : Chip :=
  let l := dirOf x d
  let here := l.inbox.filter fun p => !future p.due a
  let x1 := setDir x d { l with inbox := l.inbox.filter fun p => future p.due a }
  match here.foldl (arriveOne d a) (x1, []) with
  | (y, [p]) =>
    let m := dirOf y d
    if m.sched.isNone ∧ m.held.isNone then acknowledge y d (proposed d p) a
    else setDir y d { m with held := some (proposed d p) }
  | (y, _) => y

/-- Failed codewords in the last second (R260). -/
def recentFails (x : Chip) : Nat :=
  x.lk.cwFails.foldl (fun a e => if (x.tm.ticks - BitVec.ofNat 48 e.1).toNat < 32768 then a + e.2 else a) 0

/-- Rate of a proposal made now (R260): as set, else 5/6 unless slowed by failed codewords. -/
def proposalFast (x : Chip) : Bool :=
  match fget x F.LINK_MAP_CFG_rate with
  | 1 => false
  | 2 => true
  | _ => !x.lk.slow

/-- The direction's bit limit (R230, R248). -/
def bitLimit (x : Chip) (d : Nat) : Nat :=
  if d = 0 then min 12 (fget x F.LINK_PHY_CFG_bmax) else min 6 (fget x F.LINK_PHY_CFG_ubmax)

/-- The map that the proposer computes (R230, R260), and whether it fell below the floor. -/
def computeMap (x : Chip) (d : Nat) : LoadMap × Bool :=
  let l := dirOf x d
  let set := notchesDue l
  let margin := fget x F.LINK_PHY_CFG_margin
  let bits := (List.range (regions d)).map fun r =>
    if silenced set r then 0 else if l.snr.isEmpty then 2 else bitsFor (nth 0 l.snr r) margin (bitLimit x d)
  let m : LoadMap := ⟨l.nextId, proposalFast x, bits, notchMask d set⟩
  if payloadBytes d m (fullSymbols d) < (if d = 0 then 4112 else 1040) then
    (⟨l.nextId, false, List.replicate (regions d) 2, 0⟩, true)
  else (m, false)

/-- A new proposal computed and sent (R260): ids 1 to 255 in turn, the contents of the last 4 kept. -/
def propose (x : Chip) (d now : Nat) : Chip :=
  let x0 := if 10 < recentFails x then { x with lk := { x.lk with slow := true } } else x
  let r := computeMap x0 d
  let l := dirOf x0 d
  let x1 := setDir x0 d { l with
    mine := (r.1 :: l.mine).take 4, nextId := l.nextId % 255 + 1, asked := some (r.1.id, now) }
  let x2 := sendSeg x1 (linkSeg 0xA r.1.id (proposeBytes d r.1)) none
  if r.2 then raise x2 srcLink 0x11 (b1 d ++ b1 r.1.id) else x2

/-- A map in force at both ends from train k (R261): MAP_SWITCH; a notch set applies with the first map acknowledged after
its announcement (R264), one announced later waits on. -/
def mapSwitch (x : Chip) (d k : Nat) (m : LoadMap) (notch : Option (List (Nat × Nat))) : Chip :=
  let l := dirOf x d
  let l1 := { l with
    now := m, sched := (match l.sched with
      | some s => if s.map.id = m.id then none else some s
      | none => none),
    notches := notch.getD l.notches, switched := some k
    announced := if notch = l.announced then none else l.announced }
  raise (setDir x d l1) srcLink 0x0F
    (b1 d ++ b1 l.now.id ++ b1 m.id ++ b4 k ++ b4 (segBytes d m (fullSymbols d)))

/-- A map that the receiver holds (R261): in force, scheduled, held or one of its proposals; map 0 always. -/
def heldContents (l : LinkDir) (d id : Nat) : Option LoadMap :=
  if id = l.now.id then some l.now
  else if id = 0 then some (mapZero (regions d))
  else match l.sched with
    | some s => if s.map.id = id then some s.map else l.mine.find? fun m => m.id == id
    | none => l.mine.find? fun m => m.id == id

/-- What a list holds for the data subcarriers of region r, in ascending frequency. -/
def regionPart {α : Type} (d r : Nat) (l : List α) : List α := (l.drop (60 * r)).take (dataSubs d r)

/-- A ratio h to n/k as dB, rounded down to 0.25 dB (R229), from 0 to 63.75 dB: the largest q with 10^(q/40) ≤ hk/n. -/
def snrOf (h k n : Nat) : Nat :=
  if n = 0 then 255 else ((List.range 256).filter fun q => decide (10 ^ q * n ^ 40 ≤ (h * k) ^ 40)).length - 1

/-- Region SNRs (R229): the lowest gain of a data subcarrier to the mean noise power on all of the region. -/
def regionSnr (d : Nat) (gain : List Nat) (quiet : List Quiet) : List Nat :=
  (List.range (regions d)).map fun r =>
    snrOf ((regionPart d r gain).min?.getD 0) ((quiet.map Quiet.symbols).sum * dataSubs d r)
      ((quiet.map fun q => nth 0 q.sums r).sum)

/-- Quiet symbols join those that stand for the noise (R229): the last 8 in RUN, all of a sounding until then. -/
def quietTake (d : Nat) (sound : Bool) (symbols : List (List Nat)) (l : List Quiet) : List Quiet :=
  if symbols.isEmpty then l
  else
    let q : Quiet := ⟨sound, symbols.length, (List.range (regions d)).map fun r => (symbols.map fun p => (regionPart d r p).sum).sum⟩
    (q :: l.filter fun e => e.sound == sound).take (if sound then 16 else 8)

/-- Region SNRs shown in `LINK_SNR` (R229). -/
def setSnr (x : Chip) (d : Nat) (snr : List Nat) : Chip :=
  let lo := snr.foldl min 255
  let y := setDir x d { dirOf x d with snr := snr }
  if d = 0 then
    fsets y [(F.LINK_SNR_dn_min, lo), (F.LINK_SNR_dn_mean, snr.sum / max 1 snr.length), (F.LINK_SNR_dn_worst, snr.findIdx (· == lo))]
  else fset y F.LINK_SNR_up_min lo

/-- Gain and noise as measured, and the region SNRs that they give once both are there (R229). -/
def measure (x : Chip) (d : Nat) (gain : List Nat) (sound : Bool) (symbols : List (List Nat)) : Chip :=
  if gain.isEmpty ∧ symbols.isEmpty then x
  else
    let l := dirOf x d
    let g := if gain.isEmpty then l.gain else gain
    let q := quietTake d sound symbols l.quiet
    let y := setDir x d { l with gain := g, quiet := q }
    if g.isEmpty ∨ q.isEmpty then y else setSnr y d (regionSnr d g q)

/-- Whether an event told at most once per 100 ms may be raised now. -/
def limitOk (x : Chip) (last : Option (BitVec 48)) : Bool :=
  match last with
  | some t => decide (32768 ≤ 10 * (x.tm.ticks - t).toNat)
  | none => true

/-- An amount added to a rate-limited count: the count kept, and what the event tells where it may be raised now. -/
def limitAdd (x : Chip) (r : RateLim) (n : Nat) : RateLim × Option Nat :=
  if limitOk x r.last then (⟨0, some x.tm.ticks⟩, some (r.acc + n)) else (⟨r.acc + n, r.last⟩, none)

/-- As `limitAdd`, at most once per second. -/
def limitSec (x : Chip) (r : RateLim) (n : Nat) : RateLim × Option Nat :=
  match r.last with
  | some t => if (x.tm.ticks - t).toNat < 32768 then (⟨r.acc + n, r.last⟩, none) else (⟨0, some x.tm.ticks⟩, some (r.acc + n))
  | none => (⟨0, some x.tm.ticks⟩, some (r.acc + n))

/-- Wrap flags of `LINK_PROTO_STATUS` (R276). -/
def protoWrap (i : Nat) : Fld := F.LINK_PROTO_STATUS_wrap.bit i

/-- A peer violation (R273): counted, and logged at most once per 100 ms per reason. -/
def peerViol (x : Chip) (reason train : Nat) : Chip :=
  let x1 := count x R.LINK_VIOL_COUNT (protoWrap 7) 1
  if limitOk x1 (smFind reason x1.lk.viol) then
    raise { x1 with lk := { x1.lk with viol := smInsert reason x1.tm.ticks x1.lk.viol } } srcLink 0x14
      (b1 reason ++ b4 train)
  else x1

end Sys2Proof.Machine
end

