-- ==== Sys2Proof/Machine/Outs.lean ====
section
/-! DEFINITION. Where a segment goes at a foot or solo part (R282, R296, R299): to the audio ports that play its carriage,
to the privileged buffers, to the shared ring. -/
namespace Sys2Proof.Machine

/-- A port that has not run. -/
def portReset (_ : Nat) : PortRt := ⟨(0, 0), [none, none, none, none], [], none, ⟨0, none⟩, [0, 0, 0, 0], [], [], false⟩

/-- A port's state beyond its registers. -/
def portOf (x : Chip) (p : Nat) : PortRt := smGet portReset x.ports p

/-- Set a port's state. -/
def setPort (x : Chip) (p : Nat) (r : PortRt) : Chip := { x with ports := smPut portReset x.ports p r }

/-- A carriage that no port has played. -/
def playReset (_ : Nat) : PlayRt := ⟨none, false, [], 0, none, []⟩

/-- What the ports hold of a carriage. -/
def playOf (x : Chip) (c : Nat) : PlayRt := smGet playReset x.plays c

/-- Set what the ports hold of a carriage. -/
def setPlay (x : Chip) (c : Nat) (r : PlayRt) : Chip := { x with plays := smPut playReset x.plays c r }

/-- A privileged slot that is off. -/
def privReset (_ : Nat) : PrivRt := ⟨0, 0, 0, 0, 0⟩

/-- A privileged slot. -/
def privOf (x : Chip) (i : Nat) : PrivRt := smGet privReset x.privs i

/-- Set a privileged slot. -/
def setPriv (x : Chip) (i : Nat) (r : PrivRt) : Chip := { x with privs := smPut privReset x.privs i r }

/-- Fields of `HOST_PRIV_CFG` (R304): enabled and not off by its length, 4-byte words, length in frames, first byte,
carriage. -/
def PrivRt.en (r : PrivRt) : Bool := getBits r.cfg 31 1 == 1 && getBits r.cfg 16 4 != 0
def PrivRt.pack4 (r : PrivRt) : Bool := getBits r.cfg 30 1 == 1
def PrivRt.len (r : PrivRt) : Nat := getBits r.cfg 16 4 * 1024
def PrivRt.base (r : PrivRt) : Nat := getBits r.cfg 8 8 * 16384
def PrivRt.carr (r : PrivRt) : Nat := getBits r.cfg 0 8
def PrivRt.width (r : PrivRt) : Nat := if r.pack4 then 4 else 3
def PrivRt.bytes (r : PrivRt) : Nat := 64 + r.ch * r.len * r.width

/-- Slots of `APORTp_CFG` (R277): above 32 acts as 32. -/
def portSlots (x : Chip) (p : Nat) : Nat := min 32 (fget x (F.APORT_CFG_slots p))

/-- A port's state (R303): 0 OFF, 1 WAIT_SYNC, 2 RUN, 3 HIZ. -/
def portState (x : Chip) (p : Nat) : Nat := fget x (F.APORT_STATUS_state p)

/-- Map entry i of port p names carriage c and is not ignored (R284). -/
def entryPlays (x : Chip) (p i c : Nat) : Bool :=
  fon x (F.APORT_MAP_en p i) && (!fon x (F.APORT_MAP_bad p i) && fget x (F.APORT_MAP_carr p i) == c)

/-- Port p runs and plays carriage c (R282, R284). -/
def portPlays (x : Chip) (p c : Nat) : Bool :=
  portState x p == 2 && (List.range 4).any fun i => entryPlays x p i c

/-- The running ports that play a carriage. -/
def playingPorts (x : Chip) (c : Nat) : List Nat := (List.range 4).filter fun p => portPlays x p c

/-- A carriage that reaches this part over the link (R210, R282): at a foot, one that it did not reserve. -/
def overLink (x : Chip) (c : Nat) : Bool := isFoot x && !fon x (F.CARR_CFG_origin c)

/-- Head sample time as the foot holds it (R271): the last SAMPLE message's, and what the own counter has gained since,
corrected by a sampling offset in 0.01 ppm. -/
def headTime (x : Chip) (st own : Nat) (sco : Int) : BitVec 64 :=
  let d := x.tm.stime - BitVec.ofNat 64 own
  BitVec.ofNat 64 st + d + BitVec.ofInt 64 ((d.toNat : Int) * sco / 100000000)

/-- The time in which the stamps of a carriage are measured (R282): head sample time as the foot holds it by `LINK_TRACK`
(R259, R271) for a carriage received over the link, else the part's own. -/
def outTime (x : Chip) (c : Nat) : BitVec 64 :=
  match overLink x c, x.cp.sample with
  | true, some (_, st, _, _, own) => headTime x st own (sext 16 (fget x F.LINK_TRACK_sco))
  | _, _ => x.tm.stime

/-- The play-out offset in frame periods of 128/3 sample-time ticks (R282): arrival less stamp plus 1.0 ms, rounded up. -/
def playOffset (arrival stamp : BitVec 64) : Int := -((-(3 * ((arrival - stamp).toInt + 2048))) / 128)

/-- P in sample-time ticks, rounded up. -/
def offsetTicks (p : Int) : Int := -((-(128 * p)) / 3)

/-- The frame of 48 kS/s that begins at a time in ticks of sample time, to the nearest (R282). -/
def frameNumber (t : BitVec 64) : Int := (3 * t.toInt + 64) / 128

/-- The number of the frame of a carriage that the port frame which begins now plays (R282). -/
def frameNow (x : Chip) (c : Nat) : Int := frameNumber (outTime x c)

/-- The clock of port p (R36, R233, R281): a foot's own, steered to the head's with `clksrc` at LINK. -/
def portTime (x : Chip) (p : Nat) : BitVec 64 :=
  match isFoot x && !fon x (F.APORT_CFG_clksrc p), x.cp.sample with
  | true, some (_, st, _, _, own) => headTime x st own x.lk.steer
  | _, _ => x.tm.stime

/-- The frame that begins now by the clock of port p. -/
def ownFrame (x : Chip) (p : Nat) : Int := frameNumber (portTime x p)

/-- Frames of 48 kS/s in a number of ms. -/
def msFrames (ms : Nat) : Nat := 48 * ms

/-- A ramp of n frames that began at a frame, as it stands at another: out of n, or whole (R284, R286). -/
def rampGain (n : Nat) (began at_ : Int) : Nat × Nat :=
  if n = 0 then (1, 1) else (min n (at_ - began).toNat, n)

/-- A signed 24-bit sample of a PCM word. -/
def wordSample (w : Nat) : Int := sext 24 (w / 256 % 2 ^ 24)

/-- The frame from which a carriage plays at a port whose fades last some frames: its ramp's, or the end of a fade that began
before. -/
def rampFrom (rampAt : Int) (fade : Option Int) (out : Nat) : Int :=
  match fade with
  | none => rampAt
  | some a => max rampAt (a + out)

/-- A sample scaled by fractions, rounded convergently. -/
def scaled (v : Int) (g h : Nat × Nat) : Int := roundEven (v * (g.1 * h.1 : Nat)) (g.2 * h.2)

/-- The sample of channel k that port p plays of a carriage in frame n (R286): held frames over their ramp; while it fades the
last sample played, scaled from the gain it had to 0; nothing where no frame is held. -/
def playSample (x : Chip) (p c k : Nat) (n : Int) : Int :=
  let r := playOf x c
  let ramp := msFrames (fget x (F.APORT_FADE_ramp p))
  let out := msFrames (fget x (F.APORT_FADE_fade p))
  let live := fun began =>
    match r.held.find? fun e => e.1 == n with
    | some e => scaled (wordSample (nth 0 e.2 k)) (rampGain ramp began n) (1, 1)
    | none => 0
  match r.fade with
  | none => live r.rampAt
  | some (at_, began, before) =>
    if n < at_ then live (rampFrom began before out)
    else if n < at_ + out then
      scaled (wordSample (nth 0 r.last k)) (rampGain ramp (rampFrom began before out) at_) (out - (n - at_).toNat, max 1 out)
    else live (rampFrom r.rampAt (some at_) out)

/-- A slot's contents for a 24-bit sample (R279, R303): width 32 with 8 zero bits after it, width 24, width 16 rounded
convergently with saturation. -/
def slotBits (width : Nat) (v : Int) : Nat :=
  match width with
  | 1 => tcomp 24 (clip 24 v)
  | 2 => tcomp 16 (clip 16 (roundEven v 256))
  | _ => tcomp 24 (clip 24 v) * 256

/-- The carriage is an enabled PCM carriage that has the channel (R285). -/
def playable (x : Chip) (c k : Nat) : Bool :=
  fon x (F.CARR_CFG_en c) && (fget x (F.CARR_CFG_type c) == 0 && decide (k < fget x (F.CARR_CFG_ch c)))

/-- What a map word plays in a slot now (R284): its channel's sample, none where the slot lies outside it. -/
def wordPlays (x : Chip) (p : Nat) (w : Word) (slot : Nat) : Option Int :=
  let s0 := getBits w 24 5
  let k := getBits w 8 5 + (slot - s0)
  let c := getBits w 0 8
  if s0 ≤ slot ∧ slot < s0 + getBits w 16 6 then
    some (if playable x c k then playSample x p c k (frameNow x c) else 0)
  else none

/-- What entry i of port p plays in a slot (R284, R290). -/
def entrySlot (x : Chip) (p i slot : Nat) : Option Int :=
  let r := portOf x p
  let w := rd x (R.APORT_MAP p i)
  if getBits w 31 1 = 0 ∨ getBits w 30 1 = 1 then none
  else (wordPlays x p w slot).map fun v =>
    if r.muted.contains i then 0
    else scaled v (rampGain (msFrames (fget x (F.APORT_FADE_ramp p))) (nth 0 r.rampIn i) (ownFrame x p)) (1, 1)

/-- What an entry that fades out still plays in a slot (R284). -/
def oldSlot (x : Chip) (p slot : Nat) (e : Word × Int) : Option Int :=
  let out := msFrames (fget x (F.APORT_FADE_fade p))
  let n := (ownFrame x p - e.2).toNat
  if n < out then (wordPlays x p e.1 slot).map fun v => scaled v (out - n, out) (1, 1) else none

/-- The slots of the frame that port p begins now (R279): zero where no entry fills one, and in QUIET (R288). -/
def portFrame (x : Chip) (p : Nat) : List Nat :=
  let r := portOf x p
  (List.range r.fmt.1).map fun slot =>
    let v := ((List.range 4).findSome? fun i => entrySlot x p i slot) <|> (r.fading.findSome? (oldSlot x p slot))
    slotBits r.fmt.2 (v.getD 0)

/-- The frames of a PCM payload of some channels, numbered from n on; fuel is the payload's length (R199). -/
def payloadFrames (chs : Nat) : Nat → Int → List Byte → List (Int × List Nat)
  | 0, _, _ => []
  | f + 1, n, l =>
    if l.isEmpty then []
    else (n, (List.range chs).map fun k => field l (4 * k) 4) :: payloadFrames chs f (n + 1) (l.drop (4 * chs))

/-- Frames join those that the ports hold (R282, R286): those past their play time are discarded, and those that have
played leave but for the last. -/
def holdFrames (x : Chip) (c : Nat) (l : List (Int × List Nat)) (r : PlayRt) : PlayRt :=
  let now := frameNow x c
  { r with held := r.held.filter (fun e => decide (now ≤ e.1 + 1)) ++ l.filter fun e => decide (now ≤ e.1) }

/-- Port p still fades out an entry of carriage c (R284). -/
def portFades (x : Chip) (p c : Nat) : Bool :=
  portState x p == 2 && (portOf x p).fading.any fun e =>
    getBits e.1 0 8 == c && decide (ownFrame x p - e.2 < msFrames (fget x (F.APORT_FADE_fade p)))

/-- Some running port plays a carriage, or still fades it out. -/
def heardAt (x : Chip) (c : Nat) : Bool := playingPorts x c != [] || (List.range 4).any fun p => portFades x p c

/-- Carriages that no running port plays any more: P is fixed afresh when one does (R282). -/
def playsSettle (x : Chip) : Chip := { x with plays := x.plays.filter fun e => heardAt x e.1 }

/-- Each running port that plays a carriage sends the frame that begins now. -/
def portsSend (x : Chip) (c : Nat) : Chip :=
  (playingPorts x c).foldl (fun y p => setPort y p { portOf y p with sent := portFrame y p }) x

/-- Frames of a carriage reach the ports (R282, R285, R286, R288): its offset is fixed where none is, with a ramp from its first
frame; they wait for their play time. None is taken once ACTIVE is being left, or management has halted (R385). -/
def outPlay (x : Chip) (s : Seg) : Chip :=
  match s.ts with
  | none => x
  | some t =>
    if s.type = 0 ∧ s.payload ≠ [] ∧ pstate x = 0 ∧ x.pw.trans = none ∧ x.pw.phase ≠ .halted ∧ heardAt x s.id = true then
      let r := playOf x s.id
      let p := r.offset.getD (playOffset (outTime x s.id) (BitVec.ofNat 64 t))
      let first := 3 * (t : Int) / 128 + p
      let r1 := if r.offset.isSome then r else { r with offset := some p, rampAt := first }
      let l := payloadFrames (max 1 (fget x (F.CARR_CFG_ch s.id))) s.payload.length first s.payload
      portsSend (setPlay x s.id (holdFrames x s.id l r1)) s.id
    else x

/-- The enabled privileged slots that take a segment (R299). -/
def privSlots (x : Chip) (s : Seg) : List Nat :=
  (List.range 8).filter fun i => (privOf x i).en && ((privOf x i).carr == s.id && (s.type == 0 || s.type == 3))

/-- A map entry of an enabled port names the carriage (R296). -/
def onPort (x : Chip) (c : Nat) : Bool :=
  (List.range 4).any fun p => fon x (F.APORT_CFG_en p) &&
    (List.range 4).any fun i => fon x (F.APORT_MAP_en p i) && fget x (F.APORT_MAP_carr p i) == c

/-- The shared ring is on (R296). -/
def ringOn (x : Chip) : Bool := fon x F.HOST_RING_CFG_en && fon x F.HOST_RING_CFG_pages

/-- The shared ring admits a segment (R296). -/
def ringTakes (x : Chip) (s : Seg) : Bool :=
  ringOn x && (decide (s.type < 5) && fon x (F.HOST_RING_CFG_types.bit s.type) && (privSlots x s == [] &&
    !(fon x F.HOST_RING_CFG_no_aport && onPort x s.id)))

/-- A segment of an enabled carriage reaches the outputs (R282, R296, R299): it waits for the ring or the privileged
buffers where one of them takes it. -/
def outArrive (x : Chip) (s : Seg) : Chip :=
  if fon x (F.CARR_CFG_en s.id) then
    let y := outPlay x s
    if privSlots y s ≠ [] ∨ ringTakes y s = true then { y with toOut := y.toOut ++ [s] } else y
  else x

end Sys2Proof.Machine
end

