-- ==== Sys2Proof/Machine/Sound.lean ====
section
/-! DEFINITION. Arithmetic on samples (R61, R91, R106, R123, R133, R197): phasors, roots, filters, gains; the samples of a
coach; spans that a blanker mends; the audio that a lane has delivered to the depot (R140, R156, R162, R199). -/
namespace Sys2Proof.Machine

/-- Bits k - 1 to 0 of a root whose higher bits are r. -/
def sqrtFrom : Nat → Nat → Nat → Nat
  | 0, _, r => r
  | k + 1, n, r => sqrtFrom k n (if (r + 2 ^ k) * (r + 2 ^ k) ≤ n then r + 2 ^ k else r)

/-- The integer square root of a number below 2^80. -/
def isqrt (n : Nat) : Nat := sqrtFrom 40 n 0

/-- Phasors: sum, product, conjugate, power, and both parts over a number, rounded convergently. -/
def padd (a b : Int × Int) : Int × Int := (a.1 + b.1, a.2 + b.2)
def pmul (a b : Int × Int) : Int × Int := (a.1 * b.1 - a.2 * b.2, a.1 * b.2 + a.2 * b.1)
def conj (a : Int × Int) : Int × Int := (a.1, -a.2)
def power (a : Int × Int) : Nat := (a.1 * a.1 + a.2 * a.2).toNat
def pdiv (a : Int × Int) (d : Nat) : Int × Int := (roundEven a.1 d, roundEven a.2 d)

/-- The sum of some phasors. -/
def psum (l : List (Int × Int)) : Int × Int := l.foldl padd (0, 0)

/-- Taps of a filter of the lanes' stages. -/
def firTaps : Nat := 17

/-- Its middle tap: an output stands where the sample that meets it stood. -/
def firMid : Nat := 8

/-- Filter k on a history, newest sample first. -/
def fir (k : Nat) (h : List Int) : Int := roundEven (((h.take firTaps).mapIdx fun i v => Config.tap k i * v).sum) (2 ^ 20)

/-- The numbers of the filters: the band of the FM blanker, M of MPX, the decimator of an FM lane by phase, the audio of an AM
lane by bandwidth and the same turned by a quarter, its resampler by phase, a line's two, the history at 4 kS/s. -/
def fBand : Nat := 0
def fMono : Nat := 1
def fDecim : Nat := 2
def fAudio : Nat := 5
def fQuad : Nat := 10
def fUp : Nat := 15
def fLine : Nat := 18
def fBack : Nat := 19
def fCoarse : Nat := 22

/-- A sample at a gain that is a fraction, rounded convergently. -/
def atGain (g d : Nat) (v : Int) : Int := roundEven (v * g) d

/-- Both channels at a gain. -/
def atGain2 (g : Nat × Nat) (v : Int × Int) : Int × Int := (atGain g.1 g.2 v.1, atGain g.1 g.2 v.2)

/-- A gain of k tenths of a dB as a fraction: (10^(1/200))^k. -/
def tenthsDb (k : Int) : Nat × Nat :=
  if 0 ≤ k then (1011579454 ^ k.toNat, 1000000000 ^ k.toNat) else (1000000000 ^ (-k).toNat, 1011579454 ^ (-k).toNat)

/-- A first-order low-pass with its state in 2^-24 (R128): y moves toward x by the step of its time constant in ns. -/
def lowPass (ns : Nat) (y : Int × Int) (x : Int × Int) : Int × Int :=
  let g := Config.onePole ns
  (y.1 + roundEven ((x.1 * 2 ^ 24 - y.1) * g) (2 ^ 24), y.2 + roundEven ((x.2 * 2 ^ 24 - y.2) * g) (2 ^ 24))

/-- A low-pass as it stands, in words. -/
def lowWords (y : Int × Int) : Int × Int := pdiv y (2 ^ 24)

/-- The shift of a lane's DC block, none where it is bypassed (R106). -/
def dcShift (c : LaneCfg) (shift : Nat) : Option Nat :=
  if shift = 0 then
    match c.std with
    | 2 => some 12
    | 3 => some 16
    | 5 => some (if drmE c then 14 else 12)
    | _ => none
  else if 4 ≤ shift ∧ shift ≤ 24 then some shift else none

/-- The DC block on one value with its estimate in 2^-24 (R106): y = x - m, then m moves unless it is frozen. -/
def dcStep (shift : Option Nat) (frozen : Bool) (m v : Int) : Int × Int :=
  match shift with
  | none => (v, m)
  | some k => (v - roundEven m (2 ^ 24), if frozen then m else m + (v * 2 ^ 24 - m) / 2 ^ k)

/-- The DC block of lane n on a sample, tainted or not, from an estimate: the output and the estimate after it (R106). -/
def dcOut (x : Chip) (n : Nat) (taint : Bool) (m v : Int × Int) : (Int × Int) × (Int × Int) :=
  let shift := dcShift (cfgOf x n) (fget x (F.LANE_DCB_shift n))
  let i := dcStep shift (dcFrozen x n taint) m.1 v.1
  let q := dcStep shift (dcFrozen x n taint) m.2 v.2
  ((i.1, q.1), (i.2, q.2))

/-- What the coach delivers of a sample: an input in OFF gives samples of value zero (R40). -/
def coachIn (x : Chip) (a : Nat) (v : Int × Int) : Int × Int := if ainState x a = stOff then (0, 0) else v

/-- The fixed lane delay of a lane in ns (R140, R156, R162). -/
def laneDelay (x : Chip) (n : Nat) : Nat :=
  let c := cfgOf x n
  match c.std with
  | 1 => if c.minph then 408418 else 415644
  | 2 => if c.minph then 1203418 else 1265332
  | 4 => match fget x (F.SVC_kind n) with
    | 1 => 410000000
    | 2 => 435000000
    | _ => 510000000
  | 5 => if fon x (F.DRM_ilong n) && !drmE c then 2440000000 else 840000000
  | _ => 0

/-- Bits of the options that act on FM and AM audio (R122). -/
def monoOn (c : LaneCfg) : Bool := decide (c.std = 1 ∧ c.opt / 4 % 2 = 1)
def blankOff (c : LaneCfg) : Bool := decide (c.opt / 64 % 2 = 1)
def smuteOff (c : LaneCfg) : Bool := decide (c.opt / 128 % 2 = 1)
def hicutOff (c : LaneCfg) : Bool := decide (c.opt / 256 % 2 = 1)
def eqOff (c : LaneCfg) : Bool := decide (c.opt / 512 % 2 = 1)

/-- `deemph` as a time constant in ns, none where it is off (R122). -/
def deemphNs (c : LaneCfg) : Option Nat :=
  match c.opt % 4 with
  | 1 => some 75000
  | 2 => none
  | _ => some 50000

/-- `bw` (R122): 0 4.5 kHz, 1 2.5 kHz, 2 3.5 kHz, 3 6.0 kHz, 4 8.0 kHz; 5 to 7 as 0. -/
def bwOf (c : LaneCfg) : Nat := if c.opt % 8 < 5 then c.opt % 8 else 0

/-- A history with a new entry, of which the newest are kept. -/
def keep {α : Type} (n : Nat) (v : α) (l : List α) : List α := (v :: l).take n

/-- A place of a history lies in a span to be mended (R126, R136): from some samples before an impulse to some after it; places
count from the newest sample. -/
def marked (hits : List Bool) (before after_ i : Nat) : Bool :=
  (List.range (before + after_ + 1)).any fun k => decide (before ≤ i + k) && (hits[i + k - before]?).getD false

/-- The newest and the oldest place of the run of marked places around one, none where that is not marked; runs are followed for
some places. -/
def runAround (hits : List Bool) (before after_ far i : Nat) : Option (Nat × Nat) :=
  let m := marked hits before after_
  if m i then
    let newer := ((List.range i).reverse.take far).takeWhile m
    let older := ((List.range far).map fun k => i + 1 + k).takeWhile m
    some (i - newer.length, i + older.length)
  else none

/-- The value at a place of a history interpolated linearly between the samples either side of a span (R126, R136); before the
oldest sample the newer one stands. -/
def between (h : List Int) (a b i : Nat) : Int :=
  let u := nth 0 h (a - 1)
  match h[b + 1]? with
  | some v => v + roundEven ((u - v) * ((b + 1 - i : Nat) : Int)) (b + 2 - a)
  | none => u

/-- Audio that a lane delivers to the depot, of which 16 s are kept (R140, R156, R182). -/
def pcmPush (now : Int) (l : List Pcm) (p : Pcm) : List Pcm :=
  p :: l.filter fun e => decide (now ≤ e.leaves + ofNs 16000000000)

/-- Lane n delivers samples. -/
def deliver (x : Chip) (n : Nat) (l : List Pcm) : Chip :=
  let r := laneOf x n
  setLane x n { r with pcm := l.foldl (pcmPush (nowAt x)) r.pcm }

/-- The gain of a sample derived from a coach output at τ (R112): 0 while that carries the settling flag, after the first that
does not a ramp of 5 ms. -/
def settleGain (x : Chip) (n : Nat) (t : Int) : Nat :=
  let s := (laneOf x n).dsp.settle
  if laneSettles x n t then 0 else if t < s.1 then rampTicks else rampDone s.2 t

/-- An audio sample of an FM or AM lane by its coach instant τ (R112, R140, R141). -/
def analoguePcm (x : Chip) (n : Nat) (t : Int) (taint settles mended : Bool) (v : Int × Int) : Pcm :=
  let s := refOf (cfgOf x n) t
  ⟨s, s + ofNs (laneDelay x n), v.1, v.2, taint.toNat + 2 * settles.toNat + 8 * mended.toNat, settleGain x n t⟩

end Sys2Proof.Machine
end

