-- ==== Sys2Proof/Machine/Fm.lean ====
section
/-! DEFINITION. The stages of an FM lane (R61, R63, R123 to R128): combining, equaliser, discriminator, blanker, stereo, high-cut,
de-emphasis, soft mute and decimation, sample by sample at 256 kS/s. -/
namespace Sys2Proof.Machine

/-- The branches of lane n whose samples at τ enter the sum (R61, R63): those without taint, where there is one, less one
excluded by its level where another remains. -/
def fmBranches (x : Chip) (n : Nat) (t : Int) : List Nat :=
  let all := List.range (branches x n).length
  let clean := all.filter fun k => !branchTaint x n k t
  let base := if clean.isEmpty then all else clean
  let good := base.filter fun k => (laneOf x n).dsp.low != some k
  if good.isEmpty then base else good

/-- The newest sample of a branch at unit RMS over its last 64 µs, in 2^-20 (R61). -/
def unitRms (h : List (Int × Int)) : Int × Int :=
  let v := nth (0, 0) h 0
  pdiv (v.1 * 2 ^ 30, v.2 * 2 ^ 30) (max 1 (isqrt ((h.map power).sum * 2 ^ 20 / max 1 h.length)))

/-- The relative phase after a sample of both branches (R61): a first-order loop toward their product. -/
def phaseStep (p u v : Int × Int) : Int × Int :=
  let q := pdiv (pmul u (conj v)) (2 ^ 20)
  padd p (pdiv ((q.1 - p.1) * (Config.phaseGain : Nat), (q.2 - p.2) * (Config.phaseGain : Nat)) (2 ^ 16))

/-- A sample of the partner turned to the phase of the named branch. -/
def coPhase (p v : Int × Int) : Int × Int := if isqrt (power p) = 0 then v else pdiv (pmul v p) (isqrt (power p))

/-- Diversity combining (R61, R63): a lane without PAIR passes its samples. -/
def fmCombine (x : Chip) (n : Nat) (t : Int) (r : FmRt) (u v : Int × Int) : FmRt × (Int × Int) :=
  if (branches x n).length < 2 then (r, u)
  else
    let named := keep 16 u r.named
    let partner := keep 16 v r.partner
    let a := unitRms named
    let b := unitRms partner
    let l := fmBranches x n t
    let p := if l.length < 2 then r.phase else phaseStep r.phase a b
    ({ r with named := named, partner := partner, phase := p },
      pdiv (psum (l.map fun k => if k = 0 then a else coPhase p b)) (max 1 l.length))

/-- The equaliser and the envelope at its input (R125): 16 taps, frozen while its input carries the taint flag; with `eq_off`
its input passes. -/
def fmEqualise (x : Chip) (n : Nat) (t : Int) (r : FmRt) (s : Int × Int) : FmRt × (Int × Int) :=
  let c := cfgOf x n
  let input := keep 16 s r.input
  let out := if eqOff c then s else pdiv (psum (List.zipWith pmul r.taps input)) (2 ^ 20)
  ({ r with
    input := input, taps := if eqOff c || coachTaint x n t then r.taps else Config.cmaTaps r.taps input
    envelope := keep 2048 (isqrt (power s)) r.envelope }, out)

/-- The discriminator (R124): the turn since the sample before, of which 2^23 stand for a deviation of 150 kHz. -/
def fmDiscriminate (last s : Int × Int) : Int := roundEven (Config.angle (pmul s (conj last)) * 64) 75

/-- A power exceeds 8 times the median of the powers before it (R126): more than half of them lie below an eighth of it. -/
def impulse (l : List Mpx) (p : Nat) : Bool := decide (l.length < 2 * (l.filter fun e => decide (8 * e.power < p)).length)

/-- A sample of MPX joins the 10 ms that the blanker watches (R126). -/
def mpxTake (x : Chip) (n : Nat) (t : Int) (r : FmRt) (v : Int) : FmRt :=
  let p := (fir fBand (v :: (r.mpx.take firTaps).map Mpx.value) ^ 2).toNat
  { r with mpx := keep 2560 ⟨t, v, p, impulse r.mpx p, laneTaint x n t, laneSettles x n t⟩ r.mpx }

/-- How many samples the blanker waits before it knows how long a run of impulses lasts. -/
def mpxLag : Nat := 13

/-- The span that the blanker mends around the sample that leaves it (R126): from 8 µs before an impulse to 16 µs after, no
run longer than 40 µs. -/
def mpxRun (c : LaneCfg) (l : List Mpx) : Option (Nat × Nat) :=
  if blankOff c then none
  else (runAround ((l.take 32).map Mpx.hit) 2 4 12 mpxLag).filter fun e => decide (e.2 - e.1 + 1 ≤ 11)

/-- The blanker (R126): the sample that leaves it is as received, or interpolated. -/
def fmBlank (c : LaneCfg) (r : FmRt) : FmRt :=
  match r.mpx[mpxLag]? with
  | none => r
  | some e =>
    match mpxRun c r.mpx with
    | some (a, b) =>
      { r with
        quiet := 0, mended := keep 8192 e.at_ r.mended
        fixed := keep firTaps (between ((r.mpx.take 32).map Mpx.value) a b mpxLag) r.fixed }
    | none => { r with quiet := min 2048 (r.quiet + 1), fixed := keep firTaps e.value r.fixed }

/-- The corner of high-cut as a time constant in ns (R128): 3 kHz at a score of 10 dB or less, 15 kHz at 30 dB or more,
geometrically between; 159154943 Hz is the corner of 1 ns, 1.020321704 the 80th root of 5. -/
def hicutNs (score : Nat) : Nat :=
  let k := min 120 (max 40 score) - 40
  159154943 * 1000000000 ^ k / (3000 * 1020321704 ^ k)

/-- Stereo decoding and stage 6 (R123, R127, R128): blend between mono and stereo by 0.1 %, high-cut, de-emphasis, soft
mute. -/
def fmSound (x : Chip) (n : Nat) (r : FmRt) : FmRt :=
  let c := cfgOf x n
  let d := (laneOf x n).dsp
  let m := fir fMono r.fixed
  let b := Config.stereoPart r.fixed * (min d.blend 1000 : Nat)
  let v := (roundEven (m * 1000 + b) 1000, roundEven (m * 1000 - b) 1000)
  let cut := if hicutOff c then (v.1 * 2 ^ 24, v.2 * 2 ^ 24) else lowPass (hicutNs (fget x (F.LANE_QUAL_score n))) r.cut v
  let emph := match deemphNs c with
    | some ns => lowPass ns r.emph (lowWords cut)
    | none => cut
  { r with cut := cut, emph := emph, audio := keep firTaps (atGain2 (tenthsDb (-(5 * d.smute : Nat))) (lowWords emph)) r.audio }

/-- How far in thirds of a period an audio sample at 48 kS/s lies after MPX sample m, none where none falls in its period
(R123). -/
def audioPhase (m : Nat) : Option Nat := if (16 - 3 * m % 16) % 16 < 3 then some ((16 - 3 * m % 16) % 16) else none

/-- The audio sample that the decimator forms at the MPX sample just processed (R123, R140, R141): it derives from those
within the spans of the filters. -/
def fmAudio (x : Chip) (n : Nat) (r : FmRt) : List Pcm :=
  let t := periodOf (cfgOf x n)
  match audioPhase r.passed, r.mpx[mpxLag + 2 * firMid]? with
  | some k, some e =>
    let mended := r.mended.any fun i => decide ((i - e.at_).natAbs ≤ 2 * firMid * t.toNat)
    let ch := fun l => clip 24 (fir (fDecim + k) l)
    [analoguePcm x n (e.at_ + k * t / 3) e.taint e.settles mended (ch (r.audio.map Prod.fst), ch (r.audio.map Prod.snd))]
  | _, _ => []

/-- One coach sample through the stages in their order (R123), with the audio that it completes. -/
def fmSample (x : Chip) (n : Nat) (a : FmRt × List Pcm) (e : Int × (Int × Int) × (Int × Int)) : FmRt × List Pcm :=
  let t := gridAt x n e.1
  let b := fmCombine x n t a.1 e.2.1 e.2.2
  let q := fmEqualise x n t b.1 b.2
  let r := fmSound x n (fmBlank (cfgOf x n) (mpxTake x n t { q.1 with last := q.2 } (fmDiscriminate q.1.last q.2)))
  ({ r with passed := r.passed + 1 }, a.2 ++ fmAudio x n r)

/-- The samples of a run by their places on the coach grid, as the inputs of the lane give them (R40). -/
def runSamples (x : Chip) (n : Nat) (o : CoachRun) : List (Int × (Int × Int) × (Int × Int)) :=
  let a := (cfgOf x n).ain
  o.named.mapIdx fun i v => ((o.first + i : Nat), coachIn x a v, coachIn x (partner a) (nth (0, 0) o.partner i))

/-- The stages of an FM lane on the samples that its coach delivers. -/
def fmRun (x : Chip) (n : Nat) (o : CoachRun) : FmRt × List Pcm :=
  (runSamples x n o).foldl (fmSample x n) ((laneOf x n).fm, [])

/-- The multipath index in % (R125): 100 times the envelope's RMS deviation over its mean, over 0.5, limited to 100; none
where the mean is 0. -/
def multipath (l : List Nat) : Option Nat :=
  let s := l.sum
  let q := (l.map fun e => e * e).sum
  if s = 0 then none else some (min 100 (200 * isqrt (l.length * q - s * s) / s))

/-- The branch that the 1 ms evaluation of a pair excludes (R61): its mean power 20 dB or more below the other's, back when
the gap is below 17 dB. -/
def branchLow (x : Chip) (n : Nat) (low : Option Nat) (o : CoachRun) : Option Nat :=
  let p := fun l : List (Int × Int) => (l.map power).sum
  let s := runSamples x n o
  let a := p (s.map fun e => e.2.1)
  let b := p (s.map fun e => e.2.2)
  let still := fun u v : Nat => decide (5011872 * u ≤ v * 100000)
  if (branches x n).length < 2 then none
  else if s.isEmpty then low
  else if (low = some 0 ∧ still a b = true) ∨ (low = some 1 ∧ still b a = true) then low
  else if 100 * b ≤ a ∧ 0 < a then some 1
  else if 100 * a ≤ b ∧ 0 < b then some 0
  else none

end Sys2Proof.Machine
end

