-- ==== Sys2Proof/Machine/Am.lean ====
section
/-! DEFINITION. The stages of an AM lane (R133 to R136): synchronous detector, blanker, bandwidth and sideband, soft mute and
resampling, sample by sample at 32 kS/s. -/
namespace Sys2Proof.Machine

/-- The detector (R133): y · m* / |m|², of which 2^22 stand for a modulation of 100 %; the gain that a fade holds stands for
|m|² (R134). -/
def amDetect (y m : Int × Int) (gain : Option Nat) : Int × Int :=
  let p := gain.getD (power m)
  if p = 0 then Config.noCarrier y else pdiv (pmul (y.1 * 2 ^ 46, y.2 * 2 ^ 46) (conj m)) p

/-- An envelope exceeds 4 times its 10 ms average (R136). -/
def amImpulse (l : List Nat) (e : Nat) : Bool := decide (4 * l.sum < e * l.length)

/-- A detected sample joins the 10 ms that the blanker watches (R136), with the carrier phasor after it (R106). -/
def amTake (x : Chip) (n : Nat) (t : Int) (dc : Int × Int) (r : AmRt) (v : Int × Int) : AmRt × (Int × Int) :=
  let o := dcOut x n (coachTaint x n t) dc v
  let z := amDetect o.1 dc r.gain
  let e := isqrt (power v)
  ({ r with
    envelope := keep 320 e r.envelope
    raw := keep 32 ⟨t, z.1, z.2, amImpulse r.envelope e, laneTaint x n t, laneSettles x n t⟩ r.raw }, o.2)

/-- How many samples the blanker waits. -/
def amLag : Nat := 9

/-- The span that the blanker mends around the sample that leaves it (R136): an impulse and 30 µs either side, the first 250 µs
of it. -/
def amSpan (c : LaneCfg) (l : List AmSample) : Option (Nat × Nat) :=
  if blankOff c then none
  else ((runAround (l.map AmSample.hit) 1 1 20 amLag).map fun e => (max e.1 (e.2 - 7), e.2)).filter fun e => decide (e.1 ≤ amLag)

/-- The blanker (R136). -/
def amBlank (c : LaneCfg) (r : AmRt) : AmRt :=
  match r.raw[amLag]? with
  | none => r
  | some e =>
    match amSpan c r.raw with
    | some (a, b) =>
      let mend := fun f : AmSample → Int => between (r.raw.map f) a b amLag
      { r with
        quiet := 0, mended := keep 1024 e.at_ r.mended
        fixed := keep firTaps (mend AmSample.re, mend AmSample.im) r.fixed }
    | none => { r with quiet := min 256 (r.quiet + 1), fixed := keep firTaps (e.re, e.im) r.fixed }

/-- The audio of a bandwidth and of both sidebands, the upper or the lower (R135). -/
def amPart (bw side : Nat) (l : List (Int × Int)) : Int :=
  let i := fir (fAudio + bw) (l.map Prod.fst)
  let q := fir (fQuad + bw) (l.map Prod.snd)
  if side = 2 then i - q else if side = 3 then i + q else i

/-- How many samples a cross-fade of 5 ms lasts (R135, R142). -/
def amFade : Nat := 160

/-- Bandwidth and sideband with their cross-fade (R135, R142), then soft mute (R136). -/
def amSound (x : Chip) (n : Nat) (r : AmRt) : AmRt :=
  let g := tenthsDb (-(5 * (laneOf x n).dsp.smute : Nat))
  let new := amPart (bwOf (cfgOf x n)) (fget x (F.AM_side n)) r.fixed
  let v := match r.former with
    | some (bw, side, left) => roundEven (new * (amFade - left : Nat) + amPart bw side r.fixed * left) amFade
    | none => new
  let former := r.former.bind fun f => if f.2.2 ≤ 1 then none else some (f.1, f.2.1, f.2.2 - 1)
  { r with former := former, audio := keep firTaps (atGain g.1 g.2 v) r.audio }

/-- The audio samples at 48 kS/s that fall after AM sample m, in thirds of a period (R136): two after an even one, one after an
odd one. -/
def amPhases (m : Nat) : List Nat := if m % 2 = 0 then [0, 2] else [1]

/-- The audio samples that the resampler forms at the sample just processed (R136, R140, R141): one channel. -/
def amAudio (x : Chip) (n : Nat) (r : AmRt) : List Pcm :=
  let t := periodOf (cfgOf x n)
  match r.raw[amLag + 2 * firMid]? with
  | some e =>
    let mended := r.mended.any fun i => decide ((i - e.at_).natAbs ≤ 2 * firMid * t.toNat)
    (amPhases r.passed).map fun k =>
      let v := clip 24 (fir (fUp + k) r.audio)
      analoguePcm x n (e.at_ + k * t / 3) e.taint e.settles mended (v, v)
  | none => []

/-- One coach sample through the stages, with the carrier phasor, and the audio that it completes. -/
def amSample (x : Chip) (n : Nat) (a : AmRt × (Int × Int) × List Pcm) (e : Int × (Int × Int) × (Int × Int)) :
    AmRt × (Int × Int) × List Pcm :=
  let b := amTake x n (gridAt x n e.1) a.2.1 a.1 e.2.1
  let r := amSound x n (amBlank (cfgOf x n) b.1)
  ({ r with passed := r.passed + 1 }, b.2, a.2.2 ++ amAudio x n r)

/-- The stages of an AM lane on the samples that its coach delivers. -/
def amRun (x : Chip) (n : Nat) (o : CoachRun) : AmRt × (Int × Int) × List Pcm :=
  (runSamples x n o).foldl (amSample x n) ((laneOf x n).am, (laneOf x n).dsp.dc, [])

/-- A bandwidth or sideband gives way to another over 5 ms (R135, R142): the old one is faded out. -/
def amTurn (x : Chip) (n bw side : Nat) : Chip :=
  let l := laneOf x n
  if l.live ∧ (bw ≠ bwOf (cfgOf x n) ∨ side ≠ fget x (F.AM_side n)) then
    setLane x n { l with am := { l.am with former := some (bw, side, amFade) } }
  else x

end Sys2Proof.Machine
end

