-- ==== Sys2Proof/Machine/Ofdm.lean ====
section
/-! DEFINITION. OFDM of DAB and DRM lanes and the frames of their audio (R58, R63, R146, R150, R151, R153, R155 to R157, R162):
symbols to soft values, erasure, logical CIFs, superframes, access units, concealment. Carriers, frequency interleaving,
the Fire code and the layout of a superframe are those of EN 300 401 and TS 102 563 (PRESUMED). -/
namespace Sys2Proof.Machine

/-- The coach outputs of lane n from one place on, some in number, carry the taint flag somewhere (R58, R63, R110); of one
branch, or of both. -/
def taintMeets (x : Chip) (n : Nat) (l : List Span) (first count : Nat) : Bool :=
  let a := gridAt x n first
  let b := gridAt x n ((first + (count - 1) : Nat))
  l.any (Span.meets (spanAt (cfgOf x n)) a b)

/-- The samples that lane n uses by its selection (R62, R63): those of the named input, or of its partner. -/
def usedSpans (x : Chip) (n sel : Nat) : List Span := branchSpans x n (if (branches x n).length < 2 then 0 else sel)

/-- Samples of a transmission frame of mode I: null symbol, any other symbol, the guard interval before its 2048 (R150). -/
def nullSamples : Nat := 2656
def symSamples : Nat := 2552
def guardSamples : Nat := 504

/-- The place in its frame of the first sample of symbol l, the phase reference symbol being 1 (R150). -/
def symStart (l : Nat) : Nat := nullSamples + (l - 1) * symSamples

/-- The carrier k of a symbol by an estimate of timing and frequency (R150): one output of the transform. -/
def carrier (est : Int × Int) (s : List (Int × Int)) (k : Int) : Int × Int :=
  psum ((List.range 2048).map fun i =>
    let v := nth (0, 0) s ((guardSamples + i : Nat) + est.1).toNat
    pdiv (pmul v (Config.twiddle (-((k * 2048 + est.2) * i)))) (2 ^ 20))

/-- The order in which the QPSK symbols of a mode I symbol lie on its carriers (R150). -/
def carrierOrder : List Int :=
  (((List.range 2047).foldl (fun l _ => (13 * l.headD 0 + 511) % 2048 :: l) [0]).reverse.filter fun k =>
    decide (256 ≤ k) && (decide (k ≤ 1792) && k != 1024)).map fun k => (k : Int) - 1024

/-- The differential phasors of a symbol after the one before it, in the order of its QPSK symbols (R150). -/
def dqpsk (est : Int × Int) (before s : List (Int × Int)) : List (Int × Int) :=
  carrierOrder.map fun k => pmul (carrier est s k) (conj (carrier est before k))

/-- A 4-bit soft value, 1 to 15: 0 is an erasure (R150). -/
def soft4 (v : Int) : Nat := 1 + Config.softValue v % 15

/-- The 3072 soft values of a symbol (R150): erased, all 0. -/
def symbolSoft (erased : Bool) (est : Int × Int) (before s : List (Int × Int)) : List Nat :=
  if erased then List.replicate 3072 0
  else
    let d := dqpsk est before s
    d.map (fun v => soft4 v.1) ++ d.map fun v => soft4 v.2

/-- Soft values two to an octet, the earlier at [3:0] (R150). -/
def packSoft : List Nat → List Byte
  | a :: b :: r => BitVec.ofNat 8 (a + 16 * b) :: packSoft r
  | [a] => [BitVec.ofNat 8 a]
  | [] => []

/-- The symbols of the CIF at a place in a frame that are erased (R58, R150, R151): those that overlap the taint. -/
def cifErased (x : Chip) (n sel first place : Nat) : List Nat :=
  (List.range 18).filter fun i => taintMeets x n (usedSpans x n sel) (first + symStart (5 + 18 * place + i)) symSamples

/-- The soft values of a CIF as published (R150): 864 CUs of 32 octets. -/
def cifSoft (erased : List Nat) (est : Int × Int) (l : List (List (Int × Int))) : List Byte :=
  (List.range 18).flatMap fun i => packSoft (symbolSoft (erased.contains i) est (nth [] l i) (nth [] l (i + 1)))

/-- The nominal instant of the CIF at a place in a frame whose null symbol begins at a place on the coach grid (R156). -/
def cifInstant (x : Chip) (n first place : Nat) : Int := refOf (cfgOf x n) (gridAt x n first) + ofNs (24000000 * place)

/-- Where bit i of a logical frame is sent (R153): that many CIFs after it, by i mod 16 as the standard interleaves
(PRESUMED). -/
def interleave : List Nat := [0, 8, 4, 12, 2, 10, 6, 14, 1, 9, 5, 13, 3, 11, 7, 15]

/-- Soft value k of a CIF. -/
def softAt (s : CifSlot) (k : Nat) : Nat := (nth 0 s.soft (k / 2)).toNat / 16 ^ (k % 2) % 16

/-- A CIF count some CIFs on: counts run from 0 to 4999. -/
def cifAfter (cif k : Nat) : Nat := (cif + k) % 5000

/-- The slots of logical CIF l, the physical CIFs l to l + 15, where the ring holds them all (R153). -/
def logicalSlots (ring : List CifSlot) (l : Nat) : Option (List CifSlot) :=
  (List.range 16).mapM fun k => ring.find? fun s => s.cif == cifAfter l k

/-- The soft bits of a subchannel in a logical CIF (R153), two to an octet. -/
def logicalBits (slots : List CifSlot) (b : DabSub) : List Byte :=
  let bit := fun i => softAt (nth ⟨0, 0, [], []⟩ slots (nth 0 interleave (i % 16))) (64 * b.start + i)
  (List.range (32 * b.size)).map fun i => BitVec.ofNat 8 (bit (2 * i) + 16 * bit (2 * i + 1))

/-- The CRC of a FIB and of an access unit holds (R155, R156): that of octets 0 to n - 3, inverted, in the last two. -/
def crcHolds (l : List Byte) : Bool :=
  decide (2 ≤ l.length) && crc16 (l.take (l.length - 2)) ^^^ 0xFFFF == unbe (l.drop (l.length - 2))

/-- The Fire code of a DAB+ superframe holds (R156): over octets 2 to 10. -/
def fireHolds (l : List Byte) : Bool := crcMsb 16 0x782F 0 ((l.drop 2).take 9) == unbe (l.take 2)

/-- Access units of a DAB+ superframe by its sampling rate and SBR, and the first octet of the first (R146, R156): core at
48 kHz 6, 32 kHz 4, 24 kHz 3, 16 kHz 2. -/
def auLayout (head : Nat) : Nat × Nat :=
  match head / 64 % 2, head / 32 % 2 with
  | 0, 0 => (4, 8)
  | 0, _ => (2, 5)
  | _, 0 => (6, 11)
  | _, _ => (3, 6)

/-- The 12-bit number k of octets from the third on. -/
def auStart (l : List Byte) (first k : Nat) : Nat :=
  if k = 0 then first else unbe (l.drop 3) / 2 ^ (8 * (l.length - 3) - 12 * k) % 4096

/-- The access units of a superframe (R156). -/
def auList (l : List Byte) : List (List Byte) :=
  let h := auLayout (nth 0 l 2).toNat
  (List.range h.1).map fun k =>
    let a := auStart l h.2 k
    let b := if k + 1 = h.1 then l.length else auStart l h.2 (k + 1)
    (l.drop a).take (b - a)

/-- A frame of audio as decoded: its samples at 48 kS/s, its length in samples, passed its check. -/
structure AudioUnit where
  octets : List Byte
  kind : Nat
  mono : Bool
  samples : Nat
  good : Bool

/-- The samples of a unit (R156): as many as it lasts, a mono service on both channels. -/
def unitSamples (u : AudioUnit) (before : List Byte) : List (Int × Int) :=
  let l := pad (0, 0) u.samples (Config.audioPcm u.kind u.octets before)
  if u.mono then l.map fun v => (v.1, v.1) else l

/-- The access units of a DAB+ superframe that the Reed–Solomon code has corrected (R156): 120 ms together. -/
def dabPlusUnits (l : List Byte) : List AudioUnit :=
  let head := (nth 0 l 2).toNat
  (auList l).map fun u => ⟨u, 3, decide (head / 8 % 4 = 0), 5760 / (auLayout head).1, crcHolds u⟩

/-- A Layer II frame at 24 kHz: MPEG-2, by the bit of its header. -/
def layerLow (l : List Byte) : Bool := !(nth 0 l 1).getLsbD 3

/-- A Layer II frame's header is there. -/
def layerHead (l : List Byte) : Bool := nth 0 l 0 == 0xFF && (nth 0 l 1).toNat / 16 == 15

/-- A Layer II frame as a unit (R146, R156): 24 ms at 48 kHz, 48 ms at 24 kHz. -/
def layerUnit (l : List Byte) : AudioUnit :=
  ⟨l, if layerLow l then 2 else 1, decide ((nth 0 l 3).toNat / 64 = 3), if layerLow l then 2304 else 1152,
    layerHead l && Config.layerOk l⟩

/-- Samples at 48 kS/s from a stamp on, 20.833 µs apart, that leave the lane some ns later, with flags (R156, R162). -/
def stampSamples (at_ : Int) (delay flags : Nat) (l : List (Int × Int)) : List Pcm :=
  l.mapIdx fun i v =>
    let t := at_ + ofTicks (128 * i) / 3
    ⟨t, t + ofNs delay, clip 24 v.1, clip 24 v.2, flags, rampTicks⟩

/-- The frame that stands for one that failed (R157): the last good one repeated, 6 dB less for each further. -/
def concealed (l : LaneRt) (samples : Nat) : List (Int × Int) :=
  (pad (0, 0) samples l.good).map (atGain2 (tenthsDb (-(60 * l.run : Nat))))

/-- Samples in µs. -/
def unitUs (samples : Nat) : Nat := samples * 125 / 6

/-- The newest entries of a history of frames that cover some µs. -/
def within (us : Nat) : List (Nat × Bool) → List (Nat × Bool)
  | [] => []
  | e :: r => if us ≤ e.1 then [e] else e :: within (us - e.1) r

/-- A unit enters a lane's memory and its samples the depot (R157, R166): those of a concealed one flagged; the audio is muted
once that has lasted 100 ms, from the sample at which it has, and let through from the first good one where nothing else mutes it. -/
def unitTake (now : Int) (lets : Bool) (window delay : Nat) (at_ : Int) (l : LaneRt) (u : AudioUnit) : LaneRt :=
  let us := unitUs u.samples
  let out := if u.good then unitSamples u l.unit else concealed l u.samples
  let pcm := (stampSamples at_ delay (if u.good then 0 else 8) out).foldl (pcmPush now) l.pcm
  let errs := within window ((us, !u.good) :: l.errs)
  let leaves := at_ + ofNs delay
  if u.good then
    { l with
      pcm := pcm, errs := errs, concealUs := 0, muted := false, run := 0, good := out, unit := u.octets, heard := true
      turns := if l.muted && lets then ((leaves, true) :: l.turns).take 64 else l.turns }
  else
    let sum := l.concealUs + us
    let mutes := decide (100000 ≤ sum) && !l.muted
    { l with
      pcm := pcm, errs := errs, concealUs := sum, muted := l.muted || mutes, run := l.run + 1
      turns := if mutes ∧ letThrough l = true then ((leaves + ofNs ((100000 - l.concealUs) * 1000), false) :: l.turns).take 64
        else l.turns }

/-- Units of one superframe in order, each from where the one before it ends. -/
def unitsTake (now : Int) (lets : Bool) (window delay : Nat) : Int → LaneRt → List AudioUnit → LaneRt
  | _, l, [] => l
  | t, l, u :: r => unitsTake now lets window delay (t + ofTicks (128 * u.samples) / 3) (unitTake now lets window delay t l u) r

/-- Samples of a DRM symbol by its robustness mode 1 to 5, A to E (R161, PRESUMED ES 201 980). -/
def drmSymbol (rmode : Nat) : Nat := nth 480 [1280, 1280, 1280, 960, 800, 480] rmode

/-- The MSC cells of a DRM superframe (R58, R162): those of a symbol that overlaps the taint are erased. -/
def drmCells (x : Chip) (n sel rmode : Nat) (l : List (Nat × List (Int × Int))) : List (Option (Int × Int)) :=
  l.flatMap fun e =>
    if taintMeets x n (usedSpans x n sel) e.1 (drmSymbol rmode) then e.2.map fun _ => none else e.2.map some

end Sys2Proof.Machine
end

