-- ==== Sys2Proof/Machine/Words.lean ====
section
/-! DEFINITION. The words of audio and IQ carriages (R112, R141, R164, R180 to R187, R194, R198 to R201): the samples of the
depot by frame, their gains, ramps and flags, lines, cross-fades, and the words that a carriage takes. -/
namespace Sys2Proof.Machine

/-- A sample of two channels with its flags. -/
abbrev Frame := Int × Int × Nat

/-- Zeros with the muted flag (R199). -/
def noFrame : Frame := (0, 0, 4)

/-- Thrice the instant of frame j of the grid (R198). -/
def gridThrice (j : Int) : Int := j * ofTicks 128

/-- A sample lies in the half-open window about an instant, given thrice (R198). -/
def frameWindow (t : Int) (e : Pcm) : Bool := decide (t - ofTicks 64 ≤ 3 * e.at_) && decide (3 * e.at_ < t + ofTicks 64)

/-- A sample as it leaves its lane (R112, R138, R141, R157, R164): its gain after settling and that of the lane's state at the time
at which it leaves, the muted flag where one is below 1. -/
def laneWords (l : LaneRt) (e : Pcm) : Frame :=
  let g := min e.gain (gainAt l.turns e.leaves)
  (atGain g rampTicks e.left, atGain g rampTicks e.right, e.flags % 4 + (if g = rampTicks then 0 else 4) + e.flags / 8 % 2 * 8)

/-- The sample of lane n at an instant, given thrice (R198, R199). -/
def laneSample (x : Chip) (n : Nat) (t : Int) : Frame :=
  match (laneOf x n).pcm.find? (frameWindow t) with
  | some e => laneWords (laneOf x n) e
  | none => noFrame

/-- Sample i of 32 kS/s that a line holds of lane n, in 16-bit words (R182): each lies 64 ticks after the one before it. -/
def lineSample (x : Chip) (n : Nat) (i : Int) : Int × Int :=
  let h := (List.range firTaps).map fun k => laneSample x n (i * ofTicks 192 + gridThrice (firMid - k))
  (clip 16 (roundEven (fir fLine (h.map fun f => f.1)) 256), clip 16 (roundEven (fir fLine (h.map fun f => f.2.1)) 256))

/-- The flags that a line holds for an instant, given thrice (R182): those of its 1 ms together. -/
def lineFlags (x : Chip) (n : Nat) (t : Int) : Nat :=
  let l := laneOf x n
  let ms := fun u : Int => u / ofNs 3000000
  let w := (l.pcm.filter fun e => ms (3 * e.at_) == ms t).map fun e => (laneWords l e).2.2
  if w.isEmpty then 4 else (w.foldl (fun a f => a ||| BitVec.ofNat 4 f) (0 : BitVec 4)).toNat

/-- The sample of lane n at an instant, given thrice, as it is read back from a line (R182): one of three filters by the place
between two held samples. -/
def heldSample (x : Chip) (n : Nat) (t : Int) : Frame :=
  let i := t / ofTicks 192
  let k := ((t - i * ofTicks 192) / ofTicks 64).toNat
  let h := (List.range firTaps).map fun m => lineSample x n (i + firMid - m)
  (fir (fBack + k) (h.map fun v => v.1 * 256), fir (fBack + k) (h.map fun v => v.2 * 256), lineFlags x n t)

/-- The sample of a source, through a line or straight (R182). -/
def sourceSample (x : Chip) (n : Nat) (line : Bool) (t : Int) : Frame := if line then heldSample x n t else laneSample x n t

/-- A frame at a gain in 0.1 dB. -/
def frameGain (g : Int) (f : Frame) : Frame :=
  let k := tenthsDb g
  (atGain k.1 k.2 f.1, atGain k.1 k.2 f.2.1, f.2.2)

/-- Two frames at the weights of a cross-fade (R185): the flags of every source with a weight. -/
def frameMix (w total : Nat) (a b : Frame) : Frame :=
  if w = 0 then a
  else if total ≤ w then b
  else (roundEven (a.1 * (total - w : Nat) + b.1 * w) total, roundEven (a.2.1 * (total - w : Nat) + b.2.1 * w) total,
    (BitVec.ofNat 4 a.2.2 ||| BitVec.ofNat 4 b.2.2).toNat)

/-- Thrice the distance of a source's samples behind the stamps of a followed programme (R180, R182, R183): the stamp is O less
L₀, and O is the reference instant plus the lane's delay plus the line in samples. -/
def behindOf (x : Chip) (r : Follow) (n : Nat) (line : Int) : Int :=
  3 * (ofNs (laneDelay x n) - ofNs r.l0) + line * ofTicks 128

/-- Ticks from a sample time to an instant, given thrice. -/
def since (began : BitVec 64) (t : Int) : Nat := ((t - 3 * ofTicks began.toNat) / ofTicks 3).toNat

/-- The candidate of the fade under way. -/
def fadeCand (r : Follow) : Option (Fade × Cand) :=
  r.fading.bind fun f => (r.cands.find? fun c => c.idx == f.idx).map fun c => (f, c)

/-- A programme's frame at an instant, given thrice, with its fades (R183, R185, R187): during the last handover from the primary
before it, during a fade to the candidate, while it reverses back from it. -/
def faded (x : Chip) (r : Follow) (t : Int) (base : Frame) : Frame :=
  let u := t + 3 * ofNs r.l0
  let total := 2048 * r.fade
  match r.past.filter fun o => decide (u < 3 * ofTicks o.ends.toNat), r.undo.filter fun o => decide (u < 3 * ofTicks o.ends.toNat),
      fadeCand r with
  | some o, _, _ =>
    frameMix (since o.began u) (o.ends - o.began).toNat (frameGain o.gain (sourceSample x o.lane o.line (t - o.behind))) base
  | none, some o, _ =>
    let w := if u < 3 * ofTicks o.turned.toNat then since o.began u else (o.ends - o.turned).toNat - since o.turned u
    frameMix w total base (frameGain o.gain (sourceSample x o.lane o.line (t - o.behind)))
  | none, none, some (f, c) =>
    let line := r.lineNow - c.delta.getD 0
    frameMix (since f.began u) total base
      (frameGain c.gain (sourceSample x c.lane (line != 0) (t - behindOf x r c.lane line)))
  | none, none, none => base

/-- The frame of the programme that lane n carries at an instant, given thrice (R182, R183, R185, R187): at the gain in force; a
line kept after following has ended holds it still. -/
def programmeFrame (x : Chip) (n : Nat) (t : Int) : Frame :=
  match smFind n x.follows with
  | none => sourceSample x n (smFind n x.lines).isSome t
  | some r =>
    faded x r t (frameGain r.gain (sourceSample x n (r.lineNow != 0) (t - behindOf x r n r.lineNow)))

/-- How long in ns after its stamp a sample of lane n leaves (R140, R182, R183). -/
def leavesAfter (x : Chip) (n : Nat) : Nat :=
  match smFind n x.follows with
  | some r => r.l0
  | none => laneDelay x n + ((smFind n x.lines).getD 0) * 125000 / 6

/-- A lane binds audio in a mode (R194). -/
def bindsPcm (std : Nat) : Bool := std == mFm || std == mAm || std == mSvc || std == mDrm

/-- The bindings of PCM carriage c as they stand (R194): lane, first channel, channels. -/
def bindings (x : Chip) (c : Nat) : List (Nat × Nat × Nat) :=
  (allLanes.filter fun n => bindsPcm (stdOf x n) && (fget x (F.LANE_CARR_aud n) == c && fget x (F.LANE_CARR_width n) != 0)).map
    fun n => (n, fget x (F.LANE_CARR_ch0 n), min 2 (fget x (F.LANE_CARR_width n)))

/-- A PCM word (R200): the value, limited to 24 bits, at [31:8], flags at [3:0]. -/
def pcmWord (v : Int) (flags : Nat) : Nat := tcomp 24 (clip 24 v) * 256 + flags % 16

/-- The words of the channels of frame j (R194, R199): one channel of a stereo lane alone is (L + R)/2, rounded
convergently. -/
def frameWords (x : Chip) (l : List (Nat × Nat × Nat)) (chans : Nat) (j : Int) : List Nat :=
  let frames := l.map fun b => (b, programmeFrame x b.1 (gridThrice j))
  (List.range chans).map fun k =>
    match frames.find? fun e => decide (e.1.2.1 ≤ k) && decide (k < e.1.2.1 + e.1.2.2) with
    | none => pcmWord 0 4
    | some (b, f) => pcmWord (if b.2.2 = 1 then roundEven (f.1 + f.2.1) 2 else if k = b.2.1 then f.1 else f.2.1) f.2.2

/-- The words of a PCM segment (R198 to R200): frame by frame from frame j, in channel order. -/
def pcmWords (x : Chip) (l : List (Nat × Nat × Nat)) (frames chans : Nat) (j : Int) : List Nat :=
  (List.range frames).flatMap fun i => frameWords x l chans (j + i)

/-- The largest delay of the lanes bound that run, in ns (R199). -/
def boundDelay (x : Chip) (l : List (Nat × Nat × Nat)) : Nat :=
  ((l.filter fun b => (laneOf x b.1).live).map fun b => leavesAfter x b.1).foldl max 0

/-- Frame j is complete (R198, R199): its window has ended and what every bound running lane delivers for it has left. -/
def frameDue (x : Chip) (l : List (Nat × Nat × Nat)) (j : Int) : Bool :=
  decide (gridThrice j + ofTicks 64 + 3 * ofNs (boundDelay x l) ≤ 3 * nowAt x)

/-- The first frame whose samples leave from an instant on (R198), a multiple of 3. -/
def firstFrame (x : Chip) (l : List (Nat × Nat × Nat)) (began : Int) : Int :=
  -((ofNs (boundDelay x l) - began) / ofTicks 128) * 3

/-- Output rate of an IQ lane in samples per second, as a fraction (R102 to R104). -/
def iqRate (c : LaneCfg) : Nat × Nat :=
  if c.wb then (25600000, 1) else (5120000 * 2 ^ 28, 2 ^ c.hb * max 1 c.step)

/-- One IQ sample of an instant τ (R40, R111, R201): its two words, flags on I alone, and the DC estimate after it. -/
def iqStep (x : Chip) (n : Nat) (t : Int) (m v : Int × Int) : List Nat × (Int × Int) :=
  let taint := coachTaint x n t
  let o := dcOut x n taint m v
  ([pcmWord o.1.1 (taint.toNat + 2 * (laneSettles x n t).toNat), pcmWord o.1.2 0], o.2)

/-- The words of IQ samples in order, with the DC estimate after them. -/
def iqWords (x : Chip) (n : Nat) (m : Int × Int) : List (Int × (Int × Int) × (Int × Int)) → List Nat × (Int × Int)
  | [] => ([], m)
  | e :: r =>
    let a := iqStep x n (gridAt x n e.1) m e.2.1
    let b := iqWords x n a.2 r
    (a.1 ++ b.1, b.2)

end Sys2Proof.Machine
end

