-- ==== Sys2Proof/Machine/Carriage.lean ====
section
/-! DEFINITION. Carriages (R191 to R217): descriptors, segments, side data, quality reports, shedding, the ids that a
foot reserves. -/
namespace Sys2Proof.Machine

/-- Carriage types (R191). -/
def tPcm : Nat := 0
def tComp : Nat := 1
def tSide : Nat := 2
def tIq : Nat := 3
def tQual : Nat := 4

/-- Carriage states (R216). -/
def csOff : Nat := 0
def csRun : Nat := 1
def csShed : Nat := 2
def csHeld : Nat := 3

/-- A carriage's part outside its registers at reset. -/
def carrReset (_ : Nat) : CarrRt := ⟨none, true, 0, none, none, none, none, [], [], 0, none, [], false⟩

/-- Carriage c beyond its registers. -/
def carrOf (x : Chip) (c : Nat) : CarrRt := smGet carrReset x.carr c

/-- Set carriage c beyond its registers. -/
def setCarr (x : Chip) (c : Nat) (r : CarrRt) : Chip := { x with carr := smPut carrReset x.carr c r }

/-- Type in force (R191). -/
def carrType (x : Chip) (c : Nat) : Nat := fget x (F.CARR_CFG_type c)

/-- State of carriage c (R216). -/
def carrState (x : Chip) (c : Nat) : Nat := fget x (F.CARR_CFG_state c)

/-- Units discarded counted in `CARRc_DROP` and its wrap flag (R196). -/
def dropCount (x : Chip) (c n : Nat) : Chip := count x (R.CARR_DROP c) (F.CARR_SRC_wrap c) n

/-- Data discarded: counted, and the next unit does not follow on (R195, R196). -/
def discard (x : Chip) (c n : Nat) : Chip :=
  let y := dropCount x c n
  setCarr y c { carrOf y c with disc := true }

/-- Carriage c forms segments of this part's own lanes (R195, R210). -/
def carrLocal (x : Chip) (c : Nat) : Bool := !isFoot x || fon x (F.CARR_CFG_origin c)

/-- Carriage c begins afresh (R18, R192, R209, R211): with what leaves the lanes from now on, and `disc`. -/
def carrBegin (x : Chip) (c : Nat) : Chip :=
  setCarr x c { carrOf x c with disc := true, began := nowAt x, next := none, bound := none }

/-- Carriage c takes data of a type (R18, R195). -/
def carrTakes (x : Chip) (c type : Nat) : Bool :=
  carrState x c == csRun && (carrType x c == type && carrLocal x c)

/-- The state that a carriage of this part has (R210, R211, R213, R216). -/
def ownState (x : Chip) (c : Nat) : Nat :=
  if isHead x ∧ c ∈ x.heldMap then csHeld
  else if fon x (F.CARR_CFG_en c) = false then csOff
  else if (carrOf x c).shed.isSome then csShed
  else csRun

/-- Bring `CARRc_CFG.state` up to date. -/
def refreshState (x : Chip) (c : Nat) : Chip := fset x (F.CARR_CFG_state c) (ownState x c)

/-- Frames or samples per segment in force (R198, R201). -/
def framesOf (x : Chip) (c : Nat) : Nat :=
  let f := fget x (F.CARR_CFG_frames c)
  if carrType x c = tIq then (if f = 0 then 255 else f)
  else
    let n := min (if f = 0 then 48 else f) (4095 / (4 * max 1 (fget x (F.CARR_CFG_ch c))))
    max 3 (n - n % 3)

/-- Bytes of a PCM or IQ segment's payload (R199, R201). -/
def frameBytes (x : Chip) (c : Nat) : Nat :=
  framesOf x c * (if carrType x c = tIq then 8 else 4 * fget x (F.CARR_CFG_ch c))

/-- Bytes of a segment with its header (R196, R255). -/
def segSize (s : Seg) : Nat := 4 + (if s.ts.isSome then 8 else 0) + s.payload.length

/-- The 32-bit header of a segment (R255). -/
def segHeader (s : Seg) : Nat := s.id + 256 * s.type + 4096 * s.flags + 65536 * s.payload.length

/-- The octets of a segment (R255). -/
def segOctets (s : Seg) : List Byte :=
  b4 (segHeader s) ++ (match s.ts with
    | some t => le 8 t
    | none => []) ++ s.payload

/-- A segment that a carriage sends now goes out: at a head only with its link in RUN (R259). -/
def goesOut (x : Chip) : Bool := !isHead x || fget x F.LINK_STATE_state == 5

/-- A formed segment leaves the carriage: to the link transmitter at a head whose link is in RUN, to the outputs
otherwise (R202, R259, R296). -/
def routeSeg (x : Chip) (s : Seg) : Chip :=
  if isHead x then
    if goesOut x then { x with toLink := x.toLink ++ [s] } else x
  else outArrive x s

/-- Carriage c sends a segment with the flags of R196; `unit` says that a unit follows the header, so that a due `disc`
is set and spent; one that is discarded leaves it due. -/
def emit (x : Chip) (c : Nat) (first last unit : Bool) (payload : List Byte) (ts : Option Nat) : Chip :=
  let r := carrOf x c
  let disc := unit && r.disc
  let s : Seg := ⟨c, carrType x c, (if ts.isSome then 8 else 0) + (if disc then 4 else 0) + (if first then 2 else 0)
    + (if last then 1 else 0), payload, ts⟩
  let now := x.tm.ticks.toNat
  let sent := r.sent.filter fun e => decide (now < e.1 + 32768)
  routeSeg (setCarr x c { r with disc := (r.disc && !disc) || (unit && !goesOut x), sent := sent ++ [(now, segSize s)] }) s

/-- The staged word of a descriptor register: staged where a value is, else in force (R192). -/
def carrWord (x : Chip) (addr : Nat) : Word := overlay x x.staged addr

/-- The descriptor that a commit checks: `CARRc_CFG` and `CARRc_SRC` as staged (R192). `origin` is a foot's only (R210). -/
def stagedDesc (x : Chip) (c : Nat) : Word × Word := (carrWord x (R.CARR_CFG c), carrWord x (R.CARR_SRC c))

/-- Why a descriptor is rejected, 0 where it is not (R193). -/
def descReason (x : Chip) (c : Nat) (d : Word × Word) : Nat :=
  let type := getBits d.1 20 4
  let ch := getBits d.1 14 6
  let lo := getBits d.2 0 7
  let hi := getBits d.2 8 7
  if d.1.getLsbD 31 = false then 0
  else if 5 ≤ type then 3
  else if ch = 0 ∨ (type = tPcm ∧ 32 < ch) ∨ (type ≠ tPcm ∧ ch ≠ 1) then 1
  else if isHead x ∧ c ∈ x.heldMap then 2
  else if 103 < lo ∨ 103 < hi ∨ (type = tQual ∧ hi < lo) then 4
  else 0

/-- Staged values of a descriptor discarded (R193). -/
def dropStaged (x : Chip) (c : Nat) : Chip :=
  { x with staged := smErase (R.CARR_CFG c) (smErase (R.CARR_SRC c) x.staged) }

/-- A descriptor rejected (R193). -/
def descReject (x : Chip) (c why : Nat) : Chip :=
  let x1 := setCarr (dropStaged x c) c { carrOf x c with due := none }
  let x2 := fsets x1 [(F.CARR_CFG_commit c, 0), (F.CARR_CFG_rej c, 1), (F.CARR_SRC_why c, why)]
  raise x2 srcCarr 0x02 (b1 c ++ b1 why)

/-- A staged value that equals what is installed is staged no longer. -/
def unstage (x : Chip) (addr : Nat) : Chip :=
  match smFind addr x.staged with
  | some _ => if overlay x x.staged addr = rd x addr then { x with staged := smErase addr x.staged } else x
  | none => x

/-- A descriptor installed (R192, R210, R213): what waited for a carriage that is now disabled or of another type is
never completed; a changed `origin` makes the foot send its map. -/
def descInstall (x : Chip) (c : Nat) (d : Word × Word) : Chip :=
  let r := carrOf x c
  let old := carrType x c
  let origin := fon x (F.CARR_CFG_origin c)
  let en := d.1.getLsbD 31
  let x1 := wr x (R.CARR_CFG c) (rwMerge (R.CARR_CFG c) (rd x (R.CARR_CFG c)) d.1)
  let x2 := fset (wr x1 (R.CARR_SRC c) (rwMerge (R.CARR_SRC c) (rd x1 (R.CARR_SRC c)) d.2)) (F.CARR_CFG_commit c) 0
  let cut := !en || getBits d.1 20 4 != old
  let lost := if cut then r.queue.length + r.units.length else 0
  let x3 := setCarr (if lost = 0 then x2 else dropCount x2 c lost) c { r with
    due := none, disc := true, began := if cut then nowAt x else r.began, next := if cut then none else r.next
    bound := if cut then none else r.bound, shed := if r.shed = some 1 ∨ en = false then none else r.shed,
    queue := if cut then [] else r.queue, units := if cut then [] else r.units }
  let x4 := unstage (unstage (refreshState x3 c) (R.CARR_CFG c)) (R.CARR_SRC c)
  let x5 := if isFoot x ∧ fon x4 (F.CARR_CFG_origin c) ≠ origin then { x4 with idmapDue := true } else x4
  raise x5 srcCarr 0x01 (b1 c ++ b1 (getBits d.1 20 4) ++ b1 (getBits d.1 14 6) ++ b1 en.toNat)

/-- Carriage c has a segment in progress (R18, R192): segments form while lanes run, of this part's own data. -/
def inProgress (x : Chip) (c : Nat) : Bool :=
  rfRuns x && carrLocal x c && carrState x c == csRun && (carrType x c == tPcm || carrType x c == tIq || !(carrOf x c).queue.isEmpty
    || !(carrOf x c).units.isEmpty)

/-- A descriptor checked and installed or rejected. -/
def descSettle (x : Chip) (c : Nat) (d : Word × Word) : Chip :=
  if descReason x c d = 0 then descInstall x c d else descReject x c (descReason x c d)

/-- A foot's writes to a descriptor act where the id is its own, or is staged to be (R210). -/
def carrMine (x : Chip) (c : Nat) : Bool :=
  !isFoot x || (fon x (F.CARR_CFG_origin c) || (carrWord x (R.CARR_CFG c)).getLsbD 30)

/-- `commit` written 1 (R192, R210, R213): checked at once, installed at once where no segment is in progress; while an earlier
commit waits, the later values are checked at installation. -/
def descCommit (x : Chip) (c : Nat) : Chip :=
  let d := stagedDesc x c
  if carrMine x c = false then x
  else if (carrOf x c).due.isSome then setCarr x c { carrOf x c with due := some d }
  else if descReason x c d ≠ 0 then descReject x c (descReason x c d)
  else if inProgress x c then fset (setCarr x c { carrOf x c with due := some d }) (F.CARR_CFG_commit c) 1
  else descInstall x c d

/-- DESC_COMMIT (R192). -/
def execDescCommit (c : Nat) (s : State) : Outc :=
  .next (if c < 256 ∧ mgmtUp s.chip then onChip (fun x => descCommit x c) s else s)

/-- DESC_APPLY (R192): the descriptor that waits for the segment boundary. -/
def execDescApply (c : Nat) (s : State) : Outc :=
  .next (match (carrOf s.chip c).due with
    | some d => if c < 256 then onChip (fun x => descSettle x c d) s else s
    | none => s)

/-- A write to a descriptor register (R192, R210): staged; at a foot only `origin` where the id is not its own, elsewhere
`origin` is ignored. -/
def carrStage (x : Chip) (addr : Nat) (v : Word) : Chip :=
  let c := (addr - 0x4000) / 0x10
  let old := carrWord x addr
  let new := rwMerge addr old v
  let cfg := addr % 0x10 = 0
  let kept := if isFoot x then
      if getBits (carrWord x (R.CARR_CFG c)) 30 1 = 1 ∨ (cfg ∧ v.getLsbD 30 = true) then new
      else if cfg then putBits old 30 1 (getBits new 30 1)
      else old
    else if cfg then putBits new 30 1 0 else new
  { x with staged := smInsert addr kept x.staged }

/-- Channels of some running lane that is bound lie at or beyond the carriage's `ch` (R195). -/
def excess (x : Chip) (c : Nat) (l : List (Nat × Nat × Nat)) : Bool :=
  l.any fun b => (laneOf x b.1).live && decide (fget x (F.CARR_CFG_ch c) < b.2.1 + b.2.2)

/-- The timestamp of frame j, a multiple of 3 (R197, R198). -/
def frameStamp (j : Int) : Nat := (j / 3 * 128 % 2 ^ 64).toNat

/-- A PCM segment (R194, R195, R198 to R200): once its last frame is complete, by the bindings as the segment began; those of
now take effect with the next. -/
def pcmSegment (x : Chip) (c : Nat) : Chip :=
  let r := carrOf x c
  let l := r.bound.getD (bindings x c)
  let n := framesOf x c
  let j := r.next.getD (firstFrame x l r.began)
  if frameDue x l (j + n - 1) then
    let x1 := if excess x c l then dropCount x c 1 else x
    let x2 := emit x1 c true true true ((pcmWords x l n (fget x (F.CARR_CFG_ch c)) j).flatMap b4) (some (frameStamp j))
    setCarr x2 c { carrOf x2 c with next := some (j + n), bound := some (bindings x2 c) }
  else x

/-- An IQ segment (R40, R106, R197, R201): the samples of its lane while that runs in IQ, stamped with the first one's reference
instant; `disc` where they do not follow on. -/
def iqSegment (x : Chip) (c : Nat) (iq : CoachRun) : Chip :=
  let n := fget x (F.CARR_SRC_lane_lo c)
  if iq.named.length = framesOf x c ∧ stdOf x n = mIq ∧ (laneOf x n).live = true then
    let d := (laneOf x n).dsp
    let w := iqWords x n d.dc (runSamples x n iq)
    let r := carrOf x c
    let x1 := setCarr (setDsp x n { d with dc := w.2 }) c { r with
      disc := r.disc || r.next != some (iq.first : Int), next := some ((iq.first + iq.named.length : Nat) : Int) }
    let stamp := (toTicks (refOf (cfgOf x n) (gridAt x n iq.first)) % 2 ^ 64).toNat
    emit x1 c true true true (w.1.flatMap b4) (some stamp)
  else x

/-- A MOT object leaves the pool (R159). -/
def freeMot (x : Chip) (n tid : Nat) : Chip := { x with mot := x.mot.filter fun o => !(o.lane == n && o.tid == tid) }

/-- The next segment of a SIDE carriage: the oldest record or its next part (R204). -/
def sideSegment (x : Chip) (c : Nat) : Chip :=
  let r := carrOf x c
  match r.queue with
  | [] => x
  | q :: rest =>
    let part := (q.octets.drop q.sent).take 4095
    let last := decide (q.octets.length ≤ q.sent + 4095)
    let queue := if last then rest else { q with sent := q.sent + 4095 } :: rest
    let y := match q.mot with
      | some t => if last then freeMot x q.lane t else x
      | none => x
    emit (setCarr y c { r with queue := queue }) c (q.sent == 0) last (q.sent == 0) part
      (if q.sent = 0 then some q.stamp else none)

/-- The next segment of a COMP carriage: the oldest unit or its next part (R203). -/
def compSegment (x : Chip) (c : Nat) : Chip :=
  let r := carrOf x c
  match r.units with
  | [] => x
  | q :: rest =>
    let part := (q.octets.drop q.sent).take 4095
    let last := decide (q.octets.length ≤ q.sent + 4095)
    let units := if last then rest else { q with sent := q.sent + 4095 } :: rest
    emit (setCarr x c { r with units := units }) c (q.sent == 0) last (q.sent == 0) part
      (if q.sent = 0 then some q.stamp else none)

/-- A carriage that was shed or is held stops at a segment boundary (R208, R211). -/
def carrStop (x : Chip) (c : Nat) : Chip :=
  if carrLocal x c ∧ carrState x c = csRun ∧ ownState x c ≠ csRun then
    let y := refreshState (setCarr x c { carrOf x c with disc := true }) c
    if carrState y c = csHeld then setCause (raise y srcCarr 0x05 (b1 c ++ b1 1)) .carr else y
  else x

/-- Data that reaches a carriage without being taken (R18, R195): audio of a running lane bound to it, IQ samples. -/
def unclaimed (x : Chip) (c : Nat) (iq : CoachRun) : Chip :=
  if !iq.named.isEmpty || (bindings x c).any (fun b => (laneOf x b.1).live) then discard x c 1 else x

/-- A segment of carriage c by the type in force (R198 to R204): the frames that are complete, the samples given, or the next part
of its queue; then its boundary. -/
def segment (x : Chip) (c : Nat) (iq : CoachRun) : Chip :=
  carrStop (if carrTakes x c tPcm then (let y := pcmSegment x c; if iq.named.isEmpty then y else discard y c 1)
    else if carrTakes x c tIq then
      (let y := iqSegment x c iq; if (bindings x c).any fun b => (laneOf x b.1).live then discard y c 1 else y)
    else
      let y := unclaimed x c iq
      if carrTakes y c tSide then sideSegment y c
      else if carrTakes y c tComp then compSegment y c
      else y) c

/-- SEGMENT_COMPLETE (R198 to R204): while lanes run; otherwise a carriage sends keepalives alone (R202). -/
def execSegmentComplete (c : Nat) (iq : CoachRun) (s : State) : Outc :=
  .next (if 256 ≤ c ∨ rfRuns s.chip = false then s else onChip (fun x => segment x c iq) s)

/-- Octets of records that count toward a SIDE queue (R206). -/
def queued (q : List SideRec) : Nat := (q.map fun r => if r.mot.isSome then 0 else r.octets.length - r.sent).sum

/-- REC_DROP at most once per second (R206). -/
def recDrop (x : Chip) (c n : Nat) : Chip :=
  let y := discard x c 1
  let r := carrOf y c
  let due := match r.recTick with
    | some t => decide (32768 ≤ (y.tm.ticks - t).toNat)
    | none => true
  if due then
    raise (setCarr y c { r with recDrops := 0, recTick := some y.tm.ticks }) srcCarr 0x07
      (b1 c ++ b1 n ++ b2s (r.recDrops + 1))
  else setCarr y c { r with recDrops := r.recDrops + 1 }

/-- The oldest whole record not begun, MOT objects apart (R206). -/
def oldest (q : List SideRec) : Option SideRec := q.find? fun r => r.sent == 0 && r.mot.isNone

/-- Room made for a record of n octets by discarding the oldest records not begun; fuel is the queue's length. -/
def makeRoom (x : Chip) (c n : Nat) : Nat → Chip
  | 0 => x
  | f + 1 =>
    let r := carrOf x c
    if queued r.queue + n ≤ 65536 then x
    else match oldest r.queue with
      | some q => makeRoom (recDrop (setCarr x c { r with queue := r.queue.erase q }) c q.lane) c n f
      | none => x

/-- The SIDE carriage that lane n is bound to (R194). -/
def sideOf (x : Chip) (n : Nat) : Option Nat :=
  if fon x (F.LANE_CARR_s_en n) then some (fget x (F.LANE_CARR_side n)) else none

/-- Lane n publishes a record (R195, R204, R206): numbered per lane and carriage, queued on its SIDE carriage. -/
def publishAs (x : Chip) (n type : Nat) (payload : List Byte) (stamp : Nat) (mot : Option Nat) : Chip :=
  match sideOf x n with
  | none => x
  | some c =>
    if carrTakes x c tSide then
      let key := c * 128 + n
      let seq := smGet (fun _ => 0) x.recSeq key
      let x1 := { x with recSeq := smPut (fun _ => 0) x.recSeq key ((seq + 1) % 256) }
      let octets := b2 type ++ b1 n ++ b1 seq ++ b4 payload.length ++ payload
      let size := if mot.isSome then 0 else octets.length
      let x2 := makeRoom x1 c size (carrOf x1 c).queue.length
      let r := carrOf x2 c
      if queued r.queue + size ≤ 65536 then
        setCarr x2 c { r with queue := r.queue ++ [⟨n, type, octets, 0, stamp, mot⟩] }
      else recDrop x2 c n
    else discard x c 1

/-- Lane n publishes a record that is no MOT object. -/
def publish (x : Chip) (n type : Nat) (payload : List Byte) (stamp : Nat) : Chip :=
  publishAs x n type payload stamp none

/-- The codec of a lane's units (R203): by the audio kind of a service, the coding of a DRM lane. -/
def unitCodec (x : Chip) (n : Nat) : Nat :=
  if stdOf x n = mSvc then (if fget x (F.SVC_kind n) = 3 then 2 else 1)
  else match fget x (F.DRM_codec n) with
    | 0 => 3
    | 1 => 4
    | _ => 5

/-- The octets of a unit (R203). -/
def unitOctets (x : Chip) (n : Nat) (u : CompUnit) : List Byte :=
  b1 (unitCodec x n) ++ b1 (u.status % 4) ++ b2 u.octets.length ++ u.octets

/-- The COMP carriages whose source is lane n take a unit of it, also while its audio is muted (R203); one that is disabled
or not running discards it (R18, R195). -/
def deliverUnit (x : Chip) (n : Nat) (u : CompUnit) (stamp : Nat) : Chip :=
  (List.range 256).foldl (fun y c =>
    if carrType y c = tComp ∧ fget y (F.CARR_SRC_lane_lo c) = n then
      if carrTakes y c tComp then
        setCarr y c { carrOf y c with units := (carrOf y c).units ++ [⟨unitOctets x n u, 0, stamp⟩] }
      else discard y c 1
    else y) x

/-- KEEPALIVE (R202): an empty segment with the sample time. -/
def keepalive (x : Chip) (c : Nat) : Chip :=
  let t := carrType x c
  let whole := t == tPcm || t == tIq || t == tQual
  emit x c whole whole false [] (some x.tm.stime.toNat)

/-- KEEPALIVE (R202). -/
def execKeepalive (c : Nat) (s : State) : Outc :=
  .next (if c < 256 ∧ mgmtUp s.chip = true ∧ carrState s.chip c = csRun ∧ carrLocal s.chip c = true then
      onChip (fun x => keepalive x c) s
    else s)

/-- The entry of lane n in a quality report (R207); its measured figures are values of its own. -/
def qualEntry (x : Chip) (n : Nat) : List Byte :=
  b1 n ++ b1 (stdOf x n) ++ b1 (laneState x n) ++ b1 0 ++ b4 (rd x (R.LANE_QUAL n)).toNat
    ++ b4 (laneMeasured { x with freeCount := x.freeCount + n } (R.LANE_STATUS n) (rd x (R.LANE_STATUS n))).toNat

/-- A quality report (R202, R207): an empty segment where no lane of its range runs. -/
def qualReport (x : Chip) (c : Nat) : Chip :=
  let lo := fget x (F.CARR_SRC_lane_lo c)
  let hi := fget x (F.CARR_SRC_lane_hi c)
  let lanes := allLanes.filter fun n => decide (lo ≤ n) && (decide (n ≤ hi) && (stdOf x n != mOff && stdOf x n != mSpare))
  if lanes.any fun n => (laneOf x n).live then
    emit { x with freeCount := x.freeCount + laneCount } c true true true (lanes.flatMap (qualEntry x))
      (some x.tm.stime.toNat)
  else keepalive x c

/-- QUAL_REPORT (R207). -/
def execQualReport (c : Nat) (s : State) : Outc :=
  .next (if 256 ≤ c ∨ mgmtUp s.chip = false ∨ carrType s.chip c ≠ tQual then s
    else if carrTakes s.chip c tQual then onChip (fun x => qualReport x c) s
    else onChip (fun x => discard x c 1) s)

/-- The sum of two fractions. -/
def addFrac (a b : Nat × Nat) : Nat × Nat :=
  if a.2 = b.2 then (a.1 + b.1, a.2) else (a.1 * b.2 + b.1 * a.2, a.2 * b.2)

/-- Octets that a carriage sent in the last second, or before it was shed. -/
def sentBytes (x : Chip) (c : Nat) (shedNow : Bool) : Nat :=
  (((carrOf x c).sent.filter fun e => shedNow || decide (x.tm.ticks.toNat < e.1 + 32768)).map Prod.snd).sum

/-- Demand of carriage c in bytes per second, as a fraction (R208): exact for PCM and IQ. -/
def demandOf (x : Chip) (c : Nat) : Nat × Nat :=
  let f := framesOf x c
  if carrType x c = tPcm then (48000 * (12 + frameBytes x c), f)
  else if carrType x c = tIq then
    let r := iqRate (cfgOf x (fget x (F.CARR_SRC_lane_lo c)))
    (r.1 * (12 + 8 * f), r.2 * f)
  else (sentBytes x c (carrState x c == csShed), 1)

/-- The carriages in a state. -/
def carrIn (x : Chip) (st : Nat) : List Nat := (List.range 256).filter fun c => carrState x c == st

/-- The carriages that run and are not to stop at their next boundary (R208). -/
def carrRuns (x : Chip) : List Nat := (carrIn x csRun).filter fun c => (carrOf x c).shed.isNone

/-- Demand of every enabled carriage that runs (R208). -/
def demand (x : Chip) : Nat × Nat := (carrRuns x).foldl (fun a c => addFrac a (demandOf x c)) (0, 1)

/-- A demand in bytes per second fits the capacity of the map in force: 16 trains last 5.44 ms (R208, R220, R258). -/
def fits (x : Chip) (d : Nat × Nat) : Bool :=
  decide (d.1 * 544 ≤ carrCapacity x.lk.dn.now * 100000 * d.2)

/-- The better of two carriages to shed: lowest `prio`, then highest id (R208). -/
def shedFirst (x : Chip) (a : Option Nat) (c : Nat) : Option Nat :=
  match a with
  | none => some c
  | some b => if fget x (F.CARR_CFG_prio c) ≤ fget x (F.CARR_CFG_prio b) then some c else some b

/-- A carriage shed with a cause (R208, R209, R434): it stops at its next segment boundary, at once with none in progress. -/
def carrShed (x : Chip) (c cause : Nat) : Chip :=
  let r := carrOf x c
  let x0 := setCarr x c { r with shed := some cause, disc := true }
  let x1 := if inProgress x c then x0 else refreshState x0 c
  let x2 := setCause (raise x1 srcCarr 0x03 (b1 c ++ b1 (fget x (F.CARR_CFG_prio c)) ++ b1 cause)) .carr
  setCarr x2 c { carrOf x2 c with shedRef := some (lastRef x2 srcCarr) }

/-- Carriages shed one at a time until the demand fits (R208); fuel is the number of carriages. -/
def shedLoop (x : Chip) : Nat → Chip
  | 0 => x
  | f + 1 =>
    if fits x (demand x) then x
    else match (carrRuns x).foldl (shedFirst x) none with
      | some c => shedLoop (carrShed x c 0) f
      | none => x

/-- CARR_SHED (R208). -/
def execCarrShed (s : State) : Outc :=
  .next (if isHead s.chip = true ∧ fget s.chip F.LINK_STATE_state = 5 then onChip (fun x => shedLoop x 256) s else s)

/-- The better of two carriages to restore: highest `prio`, then lowest id (R209). -/
def restoreFirst (x : Chip) (a : Option Nat) (c : Nat) : Option Nat :=
  match a with
  | none => some c
  | some b => if fget x (F.CARR_CFG_prio b) < fget x (F.CARR_CFG_prio c) then some c else some b

/-- A shed carriage restored where capacity is 1.1 times what would be needed (R209). -/
def carrRestore (x : Chip) : Chip :=
  match ((carrIn x csShed).filter fun c => (carrOf x c).shed == some 0).foldl (restoreFirst x) none with
  | none => x
  | some c =>
    let d := addFrac (demand x) (demandOf x c)
    if fits x (d.1 * 11, d.2 * 10) then
      raise (refreshState (carrBegin (setCarr x c { carrOf x c with shed := none, sent := [] }) c) c) srcCarr 0x04 (b1 c)
    else x

/-- CARR_RESTORE (R209). -/
def execCarrRestore (s : State) : Outc :=
  .next (if isHead s.chip = true ∧ fget s.chip F.LINK_STATE_state = 5 then onChip carrRestore s else s)

/-- An id that enters or leaves the foot's map (R211, R213): one in use stops at its segment boundary, and one that is released
begins afresh. -/
def carrHeld (held : Bool) (x : Chip) (c : Nat) : Chip :=
  let tell := fun y : Chip =>
    if fon x (F.CARR_CFG_en c) then setCause (raise y srcCarr 0x05 (b1 c ++ b1 held.toNat)) .carr else y
  if held then (if inProgress x c then x else tell (refreshState (setCarr x c { carrOf x c with disc := true }) c))
  else if carrState x c = csHeld then tell (refreshState (carrBegin x c) c)
  else x

/-- The ids of an IDMAP payload (R256). -/
def idsOf (p : List Byte) : List Nat := (List.range 256).filter fun c => (nth 0 p (c / 8)).getLsbD (c % 8)

/-- The foot's map of reserved ids (R210). -/
def originMap (x : Chip) : List Byte :=
  (List.range 32).map fun i => BitVec.ofNat 8 ((List.range 8).foldl (fun a b =>
    if fon x (F.CARR_CFG_origin (8 * i + b)) then a + 2 ^ b else a) 0)

/-- The head takes the foot's map (R210, R211). -/
def takeIdmap (x : Chip) (p : List Byte) : Chip :=
  let ids := idsOf p
  let old := x.heldMap
  (List.range 256).foldl (fun y c =>
    if c ∈ ids ∧ c ∉ old then carrHeld true y c
    else if c ∉ ids ∧ c ∈ old then carrHeld false y c
    else y) { x with heldMap := ids }

/-- IDMAP_SEGMENT (R210): the head receives the foot's map; a wrong length is a peer violation. -/
def execIdmapSegment (payload : List Byte) (s : State) : Outc :=
  .next (if isHead s.chip = true ∧ 4 ≤ fget s.chip F.LINK_STATE_state ∧ fget s.chip F.LINK_STATE_state ≤ 5 then
      onChip (fun x => if payload.length = 32 then takeIdmap x payload
        else peerViol x 8 (rd x R.LINK_TRAIN).toNat) s
    else s)

/-- The foot mirrors a descriptor of the head for an id that is not its own (R210). -/
def mirrorDesc (x : Chip) (c : Nat) (cfg src : Word) : Chip :=
  if isFoot x ∧ fon x (F.CARR_CFG_origin c) = false ∧ c < 256 then
    let y := wr x (R.CARR_CFG c) (putBits (rwMerge (R.CARR_CFG c) (rd x (R.CARR_CFG c)) cfg) 30 1 0)
    fset (wr y (R.CARR_SRC c) (rwMerge (R.CARR_SRC c) (rd y (R.CARR_SRC c)) src)) (F.CARR_CFG_state c) (getBits cfg 8 2)
  else x

/-- A segment from the link at the foot (R212): discarded for an id reserved there. -/
def linkArrive (x : Chip) (s : Seg) : Chip × Bool :=
  if fon x (F.CARR_CFG_origin s.id) then
    let y := dropCount x s.id 1
    if (carrOf y s.id).clash then (y, false)
    else (setCause (raise (setCarr y s.id { carrOf y s.id with clash := true }) srcCarr 0x06 (b1 s.id)) .carr, false)
  else (x, true)

/-- A new period of RUN: clashes are logged afresh (R212). -/
def clashClear (x : Chip) : Chip :=
  (List.range 256).foldl (fun y c => if (carrOf y c).clash then setCarr y c { carrOf y c with clash := false } else y) x

/-- The segments of every carriage have been discarded for want of the link: `disc` is due (R196). -/
def discAll (x : Chip) : Chip :=
  (List.range 256).foldl (fun y c => if fon y (F.CARR_CFG_en c) then setCarr y c { carrOf y c with disc := true } else y) x

/-- Every binding of a lane moves to another that now carries its programme (R186, R194). -/
def moveBindings (x : Chip) (old new : Nat) : Chip :=
  let w := rd x (R.LANE_CARR old)
  let x0 := superCarr (superCarr x new w) old 0
  let name := fun n : Nat => if n = old then new else n
  let x1 := { x0 with carr := x0.carr.map fun e =>
    (e.1, { e.2 with bound := e.2.bound.map fun l => l.map fun b => (name b.1, b.2) }) }
  (List.range 256).foldl (fun y c =>
    let z := if fget y (F.CARR_SRC_lane_lo c) = old then superWrite y (F.CARR_SRC_lane_lo c) new else y
    if fget z (F.CARR_SRC_lane_hi c) = old then superWrite z (F.CARR_SRC_lane_hi c) new else z) x1

end Sys2Proof.Machine
end

