-- ==== Sys2Proof/Machine/Align.lean ====
section
/-! DEFINITION. The offset between two sources of a programme (R180, R185): coarse and fine correlation of their mono sums by the
times at which they leave their lanes, and the ratio of their levels. -/
namespace Sys2Proof.Machine

/-- The sample of some audio that leaves its lane some samples of 48 kS/s ago (R180). -/
def ago (x : Chip) (l : List Pcm) (i : Int) : Option Pcm :=
  let t := 3 * nowAt x - i * ofTicks 128
  l.find? fun e => decide (t - ofTicks 64 ≤ 3 * e.leaves) && decide (3 * e.leaves < t + ofTicks 64)

/-- The mono sum of lane n some samples ago. -/
def monoAgo (x : Chip) (n : Nat) (i : Int) : Int :=
  match ago x (laneOf x n).pcm i with
  | some e => roundEven (e.left + e.right) 2
  | none => 0

/-- The history of lane n at 4 kS/s, some of its samples ago (R180). -/
def coarseAgo (x : Chip) (n : Nat) (i : Int) : Int :=
  fir fCoarse ((List.range firTaps).map fun k => monoAgo x n (12 * i + k - firMid))

/-- A lag by which the candidate is later, the correlation there and the product of both energies. -/
structure Peak where
  lag : Int
  cross : Int
  energy : Nat

/-- The correlation of some samples of the later source with the other's (R180). -/
def correlate (u v : Int → Int) (len : Nat) (lag : Int) : Peak :=
  let l := (List.range len).map fun i => (u (i + max lag 0), v (i + max (-lag) 0))
  ⟨lag, (l.map fun e => e.1 * e.2).sum, (l.map fun e => (e.1 * e.1).toNat).sum * (l.map fun e => (e.2 * e.2).toNat).sum⟩

/-- The higher of two peaks by its normalised value. -/
def Peak.higher (a b : Peak) : Bool :=
  if b.energy = 0 then decide (0 < a.cross)
  else decide (b.cross * b.cross.natAbs * a.energy < a.cross * a.cross.natAbs * b.energy)

/-- The highest peak over lags from one on, some in number. -/
def peakOver (u v : Int → Int) (len : Nat) (lo : Int) (count : Nat) : Peak :=
  ((List.range count).map fun k => correlate u v len (lo + k)).foldl (fun a b => if b.higher a then b else a) ⟨lo, 0, 0⟩

/-- A peak's normalised value reaches a number of tenths. -/
def Peak.reaches (p : Peak) (tenths : Nat) : Bool :=
  decide (0 < p.cross) && decide (tenths * tenths * p.energy ≤ 100 * (p.cross * p.cross).toNat)

/-- What a measurement of an offset shows: the offset in samples, its peak, the gain for equal levels in 0.1 dB. -/
structure PeakObs where
  delta : Int
  peak : Peak
  gain : Int

/-- The gain in 0.1 dB that brings one mean square to another, within ±48 dB (R185). -/
def levelGain (to_ from_ : Nat) : Int :=
  let steps := (List.range 960).filter fun k =>
    let g := tenthsDb (2 * (k : Int) - 959)
    decide (from_ * g.1 ≤ to_ * g.2)
  (steps.length : Int) - 480

/-- The fine stage about a lag in samples (R180): 170 ms within ±16 samples; the offset by the times at which the correlated
samples leave their lanes, so that their reference instants enter it, to one sample. -/
def fineStage (x : Chip) (p n : Nat) (lag : Int) : PeakObs :=
  let k := peakOver (monoAgo x p) (monoAgo x n) 8160 (lag - 16) 33
  let a := ago x (laneOf x p).pcm (max k.lag 0)
  let b := ago x (laneOf x n).pcm (max (-k.lag) 0)
  let square := fun m (first : Int) => ((List.range 8160).map fun i => (monoAgo x m (first + i) ^ 2).toNat).sum
  ⟨match a, b with
    | some u, some v => roundEven (3 * (v.leaves - u.leaves)) (ofTicks 128).toNat
    | _, _ => k.lag, k, levelGain (square p (max k.lag 0)) (square n (max (-k.lag) 0))⟩

/-- Both stages (R180): 2.0 s at 4 kS/s over ±4.5 s, then the fine one about its peak. -/
def bothStages (x : Chip) (p n : Nat) : PeakObs :=
  fineStage x p n (12 * (peakOver (coarseAgo x p) (coarseAgo x n) 8000 (-18000) 36001).lag)

end Sys2Proof.Machine
end

