-- ==== Sys2Proof/Machine/Follow.lean ====
section
/-! DEFINITION. Service following (R171 to R190): follow records, candidates and their verification, the tandem pool,
alignment and lines, decisions and cross-fades. -/
namespace Sys2Proof.Machine

/-- The follow record of a primary. -/
def followOf (x : Chip) (p : Nat) : Option Follow := smFind p x.follows

/-- Set the follow record of a primary. -/
def setFollow (x : Chip) (p : Nat) (r : Follow) : Chip := { x with follows := smInsert p r x.follows }

/-- The candidate of an index. -/
def candOf (r : Follow) (i : Nat) : Option Cand := r.cands.find? fun c => c.idx == i

/-- Replace the candidate of the same index. -/
def putCand (r : Follow) (c : Cand) : Follow := { r with cands := r.cands.map fun d => if d.idx = c.idx then c else d }

/-- Change a candidate of a programme. -/
def updCand (x : Chip) (p : Nat) (c : Cand) : Chip :=
  match followOf x p with
  | some r => setFollow x p (putCand r c)
  | none => x

/-- A mode to which `dig_bias` is added (R184). -/
def digital (std : Nat) : Bool := std == mSvc || std == mDrm

/-- Effective score of a lane under a record, in 0.25 dB (R184). -/
def effScore (x : Chip) (r : Follow) (n : Nat) : Int :=
  fget x (F.LANE_QUAL_score n) + (if digital (stdOf x n) then r.bias else 0)

/-- A lane takes part in a handover, or no more (R189). -/
def setBusy (x : Chip) (n : Nat) (peer : Option Nat) : Chip :=
  fsets x [(F.LANE_TANDEM_busy n, peer.isSome.toNat), (F.LANE_TANDEM_peer n, peer.getD 0x7F)]

/-- Management sets a lane's mode, input and tuning, through its supervisor (R12, R475); the lane starts afresh with the
figures of its mode (R34, R176). -/
def manageLane (x : Chip) (n : Nat) (mode tune : Word) (sb : Nat) : Chip :=
  let x1 := capLeave (if (laneOf x n).live then laneStop x n else x) (cfgOf x n)
  let x2 := superWrite (superWrite x1 (F.LANE_MODE_std n) (getBits mode 0 4)) ⟨R.LANE_MODE n, 16, 16⟩ (getBits mode 16 16)
  let x3 := superWrite (superWrite x2 (F.LANE_TUNE_freq n) tune.toNat) (F.LANE_INPUT_sb n) sb
  let x4 := wr (wr x3 (R.LANE_STATUS n) (statusStart (stdOf x3 n))) (R.LANE_QUAL n) (resetWord (R.LANE_QUAL n))
  laneStart (laneCounts x4) n

/-- A lane joins the pool in SCAN, list mode (R176, R178). -/
def toPool (x : Chip) (n : Nat) : Chip :=
  superWrite (manageLane x n 0x00010007 (rd x (R.LANE_TUNE n)) (fget x (F.LANE_INPUT_sb n))) (F.LANE_TANDEM_pool n) 1

/-- The lanes of a candidate return to the pool; a linked lane stays as it is. -/
def releaseCand (x : Chip) (c : Cand) : Chip :=
  if c.linked || c.lane == 0x7F then x else if isPool x c.lane then toPool x c.lane else x

/-- A candidate is REJECTED with its event (R175); it holds a lane that is its own. -/
def markRejected (x : Chip) (p : Nat) (c : Cand) (why : Nat) : Chip :=
  match followOf x p with
  | none => x
  | some r =>
    raise (setFollow x p (putCand r { c with
      state := caRejected, lane := (if c.linked then c.lane else 0x7F), lead := 0x7F, delta := none, verified := false,
      aligned := false, fails := 0, beaten := 0, why := why, lineAt := r.lineNow })) srcMgmt 0x44 (b1 p ++ b1 c.idx ++ b1 why)

/-- A candidate rejected, its lanes released (R175). -/
def rejectCand (x : Chip) (p : Nat) (c : Cand) (why : Nat) : Chip :=
  if (followOf x p).isSome then after srcMgmt (fun y => releaseCand y c) (markRejected x p c why) else x

/-- A reversed fade has come back to the primary (R187): the candidate's lanes are released. -/
def undoEnd (p : Nat) (x : Chip) : Chip :=
  match followOf x p with
  | none => x
  | some r => match r.undo with
    | some o =>
      if (o.ends - x.tm.stime).toInt ≤ 0 then
        let y := setFollow x p { r with undo := none }
        match candOf r o.idx with
        | some c => releaseCand y { c with lane := o.lane }
        | none => y
      else x
    | none => x

/-- The reversed fades that have come to their end. -/
def undosEnd (x : Chip) : Chip := x.follows.foldl (fun y e => undoEnd e.1 y) x

/-- SAMPLE_TIME_LATCH (R355): one RTC tick, with the sample-time counts since the last one; a reversed fade may end. -/
def execSampleTimeLatch (counts : Nat) (s : State) : Outc :=
  .next (onChip (fun x => undosEnd { x with tm := tickTime x.tm counts }) s)

/-- The programmes and candidates that a lane holds warm. -/
def candsOn (x : Chip) (n : Nat) : List (Nat × Cand) :=
  x.follows.flatMap fun e => (e.2.cands.filter fun c => c.lane == n && (decide (caWarm ≤ c.state) &&
    (c.state != caFading && c.state != caRejected))).map fun c => (e.1, c)

/-- A tandem lane entered LOST or found an unsupported feature: its candidate is rejected (R175). -/
def tandemFails (x : Chip) (n why : Nat) : Chip := (candsOn x n).foldl (fun y e => rejectCand y e.1 e.2 why) x

/-- The lane's state changed (R175). -/
def tandemState (x : Chip) (n : Nat) : Chip := if laneState x n = 3 then byLane n (fun y => tandemFails y n 1) x else x

/-- How high a candidate ranks (R178): those in use first, SCANNED by E, LISTED, REJECTED. -/
def rank (c : Cand) : Int :=
  if c.state = caRejected then -100000
  else if c.state = caListed then -50000
  else if c.state = caScanned then c.score.getD (-40000)
  else 100000

/-- The lowest index that is free (R174). -/
def freeIndex (r : Follow) : Option Nat := (List.range 32).find? fun i => r.cands.all fun c => c.idx != i

/-- Whether a policy lists a source for modes (R171, R174). -/
def allowed (policy source pmode cmode : Nat) : Bool :=
  let bit := fun i => policy / 2 ^ i % 2 == 1
  match source with
  | 0 | 1 => bit 0 && (pmode == cmode && (pmode == mFm || pmode == mAm))
  | 2 => bit 1 && (pmode == mSvc && cmode == mSvc)
  | 3 => bit 2 && (pmode == mSvc && cmode == mFm)
  | 4 => bit 2 && (pmode == mFm && cmode == mSvc)
  | 5 => bit 3 && (pmode == mDrm && cmode == mDrm)
  | 6 => bit 2 && (pmode == mDrm && (cmode == mFm || cmode == mAm || cmode == mSvc))
  | _ => true

/-- A candidate as it is listed. -/
def newCand (idx mode source freq ident : Nat) : Cand :=
  ⟨idx, mode, source, freq, ident, caListed, 0x7F, 0x7F, none, none, 0, false, false, false, 0, false, 0, 0, 0⟩

/-- The lowest-ranked candidate that may be dropped. -/
def lowest (r : Follow) : Option Cand :=
  (r.cands.filter fun c => c.state == caListed || c.state == caScanned || c.state == caRejected).foldl
    (fun a c => match a with
      | none => some c
      | some b => if rank c ≤ rank b then some c else some b) none

/-- A candidate enters the table (R174): a full table drops the lowest-ranked, which is the new one where none held ranks
below it. -/
def listCand (r : Follow) (c : Nat → Cand) : Follow :=
  match freeIndex r with
  | some i => { r with cands := r.cands ++ [c i] }
  | none => match lowest r with
    | some d =>
      if rank d < rank (c d.idx) then { r with cands := (r.cands.filter fun e => e.idx != d.idx) ++ [c d.idx] } else r
    | none => r

/-- The same source of the same content. -/
def sameCand (c : Cand) (mode freq ident : Nat) : Bool := c.mode == mode && (c.freq == freq && c.ident == ident)

/-- The policy takes a link of FIG 0/6 (R171): a soft one only with `soft`. -/
def softOk (policy : Nat) (c : CandIn) : Bool := !c.soft || (policy / 16 % 2 == 1 || !(c.source == 3 || c.source == 4))

/-- Candidates come from the side data of the primary itself and of leads in PLAY (R174). -/
def namesCands (x : Chip) (n p : Nat) : Bool := n == p || (stdOf x n == mLead && laneState x n == 2)

/-- A candidate that the side data of lane n names (R174). -/
def addCand (n : Nat) (x : Chip) (c : CandIn) : Chip :=
  match followOf x c.primary with
  | none => x
  | some r =>
    if 6 < c.source ∨ namesCands x n c.primary = false ∨ softOk r.policy c = false
      ∨ allowed r.policy c.source (stdOf x c.primary) c.mode = false
      ∨ r.cands.any (fun d => sameCand d c.mode c.freq c.ident) = true then x
    else setFollow x c.primary (listCand r fun i => newCand i c.mode c.source c.freq c.ident)

/-- The candidates that the side data of lane n names. -/
def addCands (x : Chip) (n : Nat) (l : List CandIn) : Chip := l.foldl (addCand n) x

/-- A frequency in kHz lies in the range of a candidate's mode (R121, R147, R172). -/
def freqOk (mode kHz : Nat) : Bool :=
  match mode with
  | 1 => decide (64000 ≤ kHz) && decide (kHz ≤ 108000)
  | 2 => decide (100 ≤ kHz) && decide (kHz ≤ 30000)
  | 4 => decide (174000 ≤ kHz) && decide (kHz ≤ 240000)
  | 5 => (decide (100 ≤ kHz) && decide (kHz ≤ 30000)) || (decide (47000 ≤ kHz) && decide (kHz ≤ 108000))
  | _ => false

/-- A record as FOLLOW_SET or a linked lane makes it (R171, R177, R182, R183). -/
def newFollow (x : Chip) (p a1 a2 a3 : Nat) : Follow :=
  ⟨a1 % 256, a2 % 256, sext 8 (a2 / 256 % 256), a2 / 65536, a3 % 8192, a3 / 65536 % 256, (a3 % 8192 : Nat) * 48, 0,
    laneDelay x p, 0, none, [], none, none, none, none⟩

/-- The frequency in kHz that a lane is tuned to. -/
def laneKhz (x : Chip) (n : Nat) : Nat := ((tuned (cfgOf x n)) / (1000 * 2 ^ 32)).toNat

/-- Lane n is linked to primary p (R177). -/
def linkedTo (x : Chip) (p n : Nat) : Bool :=
  fon x (F.LANE_TANDEM_en n) && (fget x (F.LANE_TANDEM_primary n) == p && (p != n && stdOf x n != mOff && stdOf x n != mSpare))

/-- A linked lane enters the table of its primary, held warm without a pool lane (R177). -/
def linkCand (x : Chip) (p n : Nat) : Chip :=
  match followOf x p with
  | some r =>
    if r.cands.any (fun c => c.linked && c.lane == n) then x
    else setFollow x p (listCand r fun i =>
      { newCand i (stdOf x n) 7 (laneKhz x n) 0 with state := caWarm, lane := n, linked := true })
  | none => x

/-- Following begins (R171, R188), with the lanes linked to the primary (R177). -/
def followStart (x : Chip) (p : Nat) (r : Follow) : Chip :=
  let x1 := raise { setFollow x p r with lines := smErase p x.lines } srcMgmt 0x40 (b1 p ++ b1 r.policy ++ b2 r.line)
  (allLanes.filter (linkedTo x p)).foldl (fun y n => linkCand y p n) x1

/-- FOLLOW_SET (R171, R172). -/
def followSet (s : State) : MRes :=
  let x := s.chip
  let p := arg x 0 % 128
  let a1 := arg x 1
  let a3 := arg x 3
  if laneCount ≤ p ∨ stdOf x p ∉ [mFm, mAm, mSvc, mDrm] ∨ 4500 < a3 % 8192 ∨ a3 / 65536 % 256 < 5 ∨
      200 < a3 / 65536 % 256 then refuse s stBadArg
  else if lineFits x p (a3 % 8192 * 48) = false then refuse s stDenied
  else
    let n := newFollow x p a1 (arg x 2) a3
    match followOf x p with
    | some r => okChip s (setFollow x p { r with
        policy := n.policy, margin := n.margin, bias := n.bias, guard := n.guard, line := n.line, fade := n.fade })
    | none => okChip s (followStart x p n)

/-- FOLLOW_SET (R171). -/
def execFollowSet (o : Iface) (s : State) : Outc := .next (mailbox 0x40 o followSet s)

/-- Following ends (R172, R187, R188): the candidates' lanes return to the pool and the line in force stays. -/
def followEnd (x : Chip) (p reason : Nat) : Chip :=
  match followOf x p with
  | none => x
  | some r =>
    let x1 := { x with
      follows := smErase p x.follows,
      lines := if 0 < r.lineNow ∧ reason = 0 then smInsert p r.lineNow.toNat x.lines else x.lines }
    after srcMgmt (fun y => r.cands.foldl releaseCand y) (raise x1 srcMgmt 0x41 (b1 p ++ b1 reason))

/-- FOLLOW_CLEAR (R172): a fade in progress completes first. -/
def followClear (s : State) : MRes :=
  let x := s.chip
  let p := arg x 0
  match followOf x p with
  | none => refuse s stNotInState
  | some r => match r.fading with
    | some f => okChip s (setFollow x p { r with fading := some { f with endReason := some 0 } })
    | none => okChip s (followEnd x p 0)

/-- FOLLOW_CLEAR (R172). -/
def execFollowClear (o : Iface) (s : State) : Outc := .next (mailbox 0x41 o followClear s)

/-- FOLLOW_ADD (R172). -/
def followAdd (s : State) : MRes :=
  let x := s.chip
  let p := arg x 0
  let mode := arg x 1
  let freq := arg x 2
  match followOf x p with
  | none => refuse s stNotInState
  | some r =>
    if freqOk mode freq = false then refuse s stBadArg
    else if 32 ≤ r.cands.length then refuse s stBusy
    else okChip s (setFollow x p (listCand r fun i => newCand i mode 7 freq (arg x 3)))

/-- FOLLOW_ADD (R172). -/
def execFollowAdd (o : Iface) (s : State) : Outc := .next (mailbox 0x42 o followAdd s)

/-- A decision for a candidate (R184, R185): both lanes busy, the fade starts. -/
def decideFor (x : Chip) (p : Nat) (r : Follow) (c : Cand) (cause : Nat) : Chip :=
  let r1 := putCand { r with due := none } { c with state := caFading }
  let x1 := setFollow x p { r1 with fading := some ⟨c.idx, cause, x.tm.stime, none⟩ }
  let x2 := setBusy (setBusy x1 p (some c.lane)) c.lane (some p)
  raise x2 srcMgmt 0x46 (b1 p ++ b1 c.idx ++ i2 (effScore x r p) ++ i2 (effScore x r c.lane) ++ b1 cause)

/-- FOLLOW_FORCE (R172, R184): nothing during a fade, and during a migration a decision that waits (R187). -/
def followForce (s : State) : MRes :=
  let x := s.chip
  let p := arg x 0
  match followOf x p with
  | none => refuse s stNotInState
  | some r => match candOf r (arg x 1) with
    | some c =>
      if c.state ≠ caReady then refuse s stNotInState
      else if r.fading.isSome then okChip s x
      else if laneHeld x p then okChip s (setFollow x p { r with due := some c.idx })
      else okChip s (decideFor x p r c 2)
    | none => refuse s stNotInState

/-- FOLLOW_FORCE (R184). -/
def execFollowForce (o : Iface) (s : State) : Outc := .next (mailbox 0x43 o followForce s)

/-- Δ in ms, signed, 0x8000 where it is not known (R173). -/
def deltaMs (d : Option Int) : List Byte :=
  match d with
  | some v => i2 (Int.tdiv v 48)
  | none => b2 0x8000

/-- An entry of FOLLOW_STATUS (R173). -/
def candEntry (x : Chip) (r : Follow) (i : Nat) : List Byte :=
  match candOf r i with
  | none => List.replicate 16 0xFF
  | some c =>
    let e := if caWarm ≤ c.state ∧ c.state ≠ caRejected then some (effScore x r c.lane) else c.score
    b1 c.mode ++ b1 c.state ++ b1 c.source ++ b1 c.lane ++ b4 c.freq ++ b4 c.ident ++ (match e with
      | some v => i2 v
      | none => b2 0x8000) ++ deltaMs c.delta

/-- The 528 bytes of FOLLOW_STATUS (R173). -/
def followTable (x : Chip) (p : Nat) (r : Follow) : List Byte :=
  b1 p ++ b1 r.fading.isSome.toNat ++ b1 r.cands.length ++ b1 0 ++ leInt 4 r.lineNow ++ b4 r.handovers
    ++ i2 (effScore x r p) ++ b2 0 ++ (List.range 32).flatMap (candEntry x r)

/-- FOLLOW_STATUS (R173). -/
def execFollowStatus (o : Iface) (s : State) : Outc :=
  .next (mailbox 0x44 o (fun s =>
    let p := arg s.chip 0
    match followOf s.chip p with
    | none => refuse s stNotInState
    | some r => ⟨putWin s 0 (followTable s.chip p r), stOk, 528⟩) s)

/-- Sub-band and offset word of a frequency in kHz (R93, R101). -/
def tuneWords (kHz : Nat) : Nat × Word :=
  let k := (kHz + 640) / 1280
  (k, BitVec.ofInt 32 ((((kHz : Int) - 1280 * k) * 2 ^ 33 + 5120) / 10240))

/-- Pool lanes that are free (R176, R178). -/
def freePool (x : Chip) : List Nat :=
  allLanes.filter fun n => isPool x n && (stdOf x n == mScan && ((candsOn x n).isEmpty && !fon x (F.LANE_TANDEM_busy n)
    && !laneHeld x n && !x.ownedLeads.contains n))

/-- The leads in PLAY that publish an EId. -/
def leadsOf (x : Chip) (eid : Nat) : List Nat :=
  allLanes.filter fun n => stdOf x n == mLead && (laneState x n == 2 && fget x (F.LEAD_eid n) == eid)

/-- The number of leads (R151). -/
def leadCount (x : Chip) : Nat := (allLanes.filter fun n => stdOf x n == mLead).length

/-- A programme holds a candidate warm, on a pool lane or on a lane of its own (R177, R178). -/
def holdsWarm (r : Follow) : Bool :=
  r.cands.any fun c => decide (caWarm ≤ c.state) && c.state != caRejected

/-- Candidates of a programme that may be warmed now: those of sources 5 and 6 only at their scheduled times (R174). -/
def warmable (p : Nat) (r : Follow) (sched : List (Nat × Nat)) : List Cand :=
  r.cands.filter fun c => (c.state == caListed || c.state == caScanned) && (!c.linked &&
    (!(c.source == 5 || c.source == 6) || sched.contains (p, c.idx)))

/-- The best-ranked of candidates, the lower index first (R178). -/
def bestRanked (l : List Cand) : Option Cand :=
  l.foldl (fun a c => match a with
    | none => some c
    | some b => if rank b < rank c ∨ (rank b = rank c ∧ c.idx < b.idx) then some c else some b) none

/-- The programme that a free pool lane goes to, with its candidate (R178). -/
def nextWarm (x : Chip) (sched : List (Nat × Nat)) : Option (Nat × Cand) :=
  (x.follows.filter fun e => !holdsWarm e.2 && e.2.fading.isNone).foldl (fun a e =>
    match bestRanked (warmable e.1 e.2 sched) with
    | none => a
    | some c => match a with
      | none => some (e.1, c)
      | some b => match followOf x b.1 with
        | some rb => if effScore x e.2 e.1 < effScore x rb b.1 then some (e.1, c) else some b
        | none => some (e.1, c)) none

/-- NO_LANE, once per candidate (R178). -/
def noLane (x : Chip) (p : Nat) (c : Cand) (why : Nat) : Chip :=
  if c.noLane then x else raise (updCand x p { c with noLane := true }) srcMgmt 0x49 (b1 p ++ b1 c.idx ++ b1 why)

/-- A candidate warms on a lane (R178, R188). -/
def warmOn (x : Chip) (p : Nat) (c : Cand) (n lead : Nat) : Chip :=
  raise (updCand x p { c with state := caWarm, lane := n, lead := lead, noLane := false, beaten := 0, fails := 0 }) srcMgmt
    0x42 (b1 p ++ b1 c.idx ++ b1 n ++ b1 lead)

/-- A linked candidate that is listed is held warm again by its own lane (R177). -/
def linkedWarm (x : Chip) : Option (Nat × Cand) :=
  x.follows.findSome? fun e => (e.2.cands.find? fun c => c.linked && c.state == caListed).map fun c => (e.1, c)

/-- A free pool lane is given a candidate (R178): a DAB service takes a second lane where no lead has its ensemble. -/
def poolWarm (x : Chip) (sched : List (Nat × Nat)) : Chip :=
  match nextWarm x sched with
  | none => x
  | some (p, c) =>
    let w := tuneWords c.freq
    match freePool x with
    | [] => noLane x p c 0
    | n :: rest =>
      let svc := fun m y => manageLane y m (BitVec.ofNat 32 mSvc) (BitVec.ofNat 32 c.ident) (fget y (F.LANE_INPUT_sb m))
      if c.mode ≠ mSvc then after srcMgmt (fun y => manageLane y n (BitVec.ofNat 32 c.mode) w.2 w.1) (warmOn x p c n 0x7F)
      else match leadsOf x (c.ident / 65536) with
        | l :: _ => after srcMgmt (svc n) (warmOn x p c n l)
        | [] =>
          if 8 ≤ leadCount x then noLane x p c 1
          else match rest with
            | [] => noLane x p c 0
            | m :: _ =>
              after srcMgmt (fun y => svc m (manageLane { y with ownedLeads := y.ownedLeads ++ [n] } n (BitVec.ofNat 32 mLead) w.2 w.1))
                (warmOn x p c m n)

/-- The next candidate that warms (R177, R178). -/
def candWarm (x : Chip) (sched : List (Nat × Nat)) : Chip :=
  match linkedWarm x with
  | some (p, c) => warmOn x p c c.lane 0x7F
  | none => poolWarm x sched

/-- CAND_WARM (R178). -/
def execCandWarm (sched : List (Nat × Nat)) (s : State) : Outc :=
  .next (if rfRuns s.chip then onChip (fun x => candWarm x sched) s else s)

/-- A candidate that has no identity to verify (R174, R175). -/
def byAlignment (c : Cand) : Bool := (c.source == 7 && c.ident == 0) || (c.source == 6 && c.mode == mAm)

/-- A decoded identity confirms a candidate (R174, R175). -/
def identOk (r : Follow) (c : Cand) (ident : Nat) : Bool :=
  if c.mode = mFm then
    c.ident % 65536 == ident % 65536 || (r.policy / 32 % 2 == 1 && (c.ident ^^^ ident) &&& 0xF0FF == 0)
  else if c.mode = mDrm then c.ident % 2 ^ 24 == ident % 2 ^ 24
  else c.ident == ident

/-- An identity decoded by a candidate's tandem lane (R175, R177). -/
def candVerify (x : Chip) (p : Nat) (r : Follow) (c : Cand) (ident : Nat) : Chip :=
  if identOk r c ident then
    raise (updCand x p { c with verified := true, state := (if c.state = caWarm then caVerified else c.state) }) srcMgmt 0x43
      (b1 p ++ b1 c.idx ++ b4 ident)
  else rejectCand x p c 0

/-- What a programme's command does to one of its candidates in one of the states named. -/
def onCand (p i : Nat) (states : List Nat) (f : Chip → Follow → Cand → Chip) (s : State) : State :=
  if rfRuns s.chip then
    match followOf s.chip p with
    | none => s
    | some r => match candOf r i with
      | some c => if c.state ∈ states then onChip (fun x => f x r c) s else s
      | none => s
  else s

/-- CAND_VERIFY (R175). -/
def execCandVerify (p i ident : Nat) (s : State) : Outc :=
  .next (onCand p i [caWarm, caAligned] (fun x r c =>
    if c.verified || byAlignment c then x else candVerify x p r c ident) s)

/-- A peak counts as an alignment (R180): at 0.5, or at 0.8 for a candidate that is verified by alignment alone. -/
def peakOk (c : Cand) (p : Peak) : Bool := p.reaches (if byAlignment c then 8 else 5)

/-- Gain for level matching within ±12 dB (R185). -/
def clipGain (r : Follow) (g : Int) : Int := if r.policy / 64 % 2 = 1 then max (-120) (min 120 g) else 0

/-- A candidate takes its offset and the reserve of its line (R175, R182): rejected out of range, VERIFIED with LINE_FULL
where the blocks do not reach, else in the state given. -/
def takeOffset (x : Chip) (p : Nat) (r : Follow) (c : Cand) (state : Nat) : Chip :=
  let d := lineOf r c
  if d < 0 ∨ 216000 < d then rejectCand x p c 3
  else
    let need := blocksOf (max (ringOf r) d)
    let left := blocksPool x - blocksUsed x p
    if left < need ∨ (0 < need ∧ 16 ≤ lineHolders x p) then
      raise (updCand x p { c with delta := none, aligned := false, state := (if c.verified then caVerified else caWarm) })
        srcMgmt 0x4A (b1 p ++ b2s need ++ b2s left)
    else updCand x p { c with aligned := true, state := state }

/-- Coarse and fine correlation (R175, R180, R182). -/
def candAlign (x : Chip) (p : Nat) (r : Follow) (c : Cand) (o : PeakObs) : Chip :=
  if peakOk c o.peak = false then
    if 2 ≤ c.fails then rejectCand x p c 2 else updCand x p { c with fails := c.fails + 1 }
  else
    takeOffset x p r { c with
      delta := some o.delta, gain := clipGain r (o.gain + r.gain), fails := 0, verified := c.verified || byAlignment c } caAligned

/-- CAND_ALIGNED (R180). -/
def execCandAligned (p i : Nat) (s : State) : Outc :=
  .next (onCand p i [caWarm, caVerified] (fun x r c => candAlign x p r c (bothStages x p c.lane)) s)

/-- CAND_READY (R177, R182). -/
def execCandReady (p i : Nat) (s : State) : Outc :=
  .next (onCand p i [caAligned] (fun x r c =>
    if c.verified && c.aligned then
      raise (updCand x p { c with state := caReady }) srcMgmt 0x45
        (b1 p ++ b1 i ++ leInt 4 (c.delta.getD 0) ++ leInt 4 (lineOf r c))
    else x) s)

/-- Held values of a lane are due once its fade has ended (R187). -/
def releaseHeld (x : Chip) (n : Nat) : Chip := if laneHeld x n then x else fset x (F.LANE_CTRL_held n) 0

/-- A programme moves by f from one lane to another, and with it the captured values held for the old one (R17, R187): they
keep what was written, and are due on the new lane beside any held there. -/
def moveCaptured (old new : Nat) (f : Chip → Chip) (x : Chip) : Chip :=
  let m := (ofLane x.captured old).map fun e => (e.1 - laneBase old + laneBase new, e.2)
  if fon x (F.LANE_CTRL_held old) then
    let y := f (dropCaptured x old)
    fsets { y with captured := m.foldl (fun a e => smInsert e.1 e.2 a) y.captured }
      [(F.LANE_CTRL_apply new, 1), (F.LANE_CTRL_held new, 0)]
  else releaseHeld (f x) new

/-- A fade reversed (R187): from its present weight back to the primary at the same rate; the candidate is rejected for
30 s, its lanes released when the reversal has ended. -/
def handoverAbort (x : Chip) (p : Nat) (r : Follow) (f : Fade) (c : Cand) (reason : Nat) : Chip :=
  let w := min (2048 * r.fade) (x.tm.stime - f.began).toInt.toNat
  let x1 := setFollow x p { r with
    fading := none
    undo := some ⟨c.idx, c.lane, c.gain, behindOf x r c.lane (lineOf r c), lineOf r c != 0, f.began, x.tm.stime,
      x.tm.stime + BitVec.ofNat 64 w⟩ }
  let x2 := releaseHeld (releaseHeld (setBusy (setBusy x1 p none) c.lane none) p) c.lane
  let tell := fun y => setCause (raise y srcMgmt 0x48 (b1 p ++ b1 c.idx ++ b1 reason)) .follow
  let x3 := if reason = 0 then byLane c.lane tell x2 else tell x2
  let x4 := markRejected x3 p c (if reason = 0 then 1 else 2)
  match f.endReason with
  | some e => followEnd x4 p e
  | none => x4

/-- HANDOVER_ABORT (R187). -/
def execHandoverAbort (p reason : Nat) (s : State) : Outc :=
  .next (match followOf s.chip p with
    | none => s
    | some r => match r.fading with
      | none => s
      | some f => match candOf r f.idx with
        | some c => onChip (fun x => handoverAbort x p r f c (min reason 1)) s
        | none => s)

/-- The fine stage repeated (R181): a move of 1 or 2 samples keeps the state, a larger one returns the candidate to ALIGNED,
with the range and the reserve of R182; in a fade a peak that is lost, or an offset out of range, aborts it, and the gain
stays that of the decision (R185). -/
def fineAlign (x : Chip) (p : Nat) (r : Follow) (c : Cand) (o : PeakObs) : Chip :=
  let fade := r.fading.filter fun f => f.idx == c.idx
  let gain := if fade.isSome then c.gain else clipGain r (o.gain + r.gain)
  let c1 := { c with delta := some o.delta, gain := gain }
  let state := if (o.delta - c.delta.getD o.delta).natAbs ≤ 2 then c.state else caAligned
  match fade with
  | some f =>
    if peakOk c o.peak = false ∨ lineOf r c1 < 0 ∨ 216000 < lineOf r c1 then handoverAbort x p r f c 1
    else updCand x p { c1 with state := state }
  | none => if peakOk c o.peak = false then updCand x p { c with state := caAligned } else takeOffset x p r c1 state

/-- FINE_ALIGN (R181). -/
def execFineAlign (p i : Nat) (s : State) : Outc :=
  .next (onCand p i [caAligned, caReady, caFading]
    (fun x r c => fineAlign x p r c (fineStage x p c.lane (c.delta.getD 0))) s)

/-- REJECT_EXPIRY (R175, R177): a candidate out of range waits for a change of the line in force. -/
def execRejectExpiry (p i : Nat) (s : State) : Outc :=
  .next (match followOf s.chip p with
    | none => s
    | some r => match candOf r i with
      | some c =>
        if c.state = caRejected ∧ (c.why ≠ 3 ∨ c.lineAt ≠ r.lineNow) then
          onChip (fun x => updCand x p { c with state := caListed, noLane := false }) s
        else s
      | none => s)

/-- The READY candidate with the highest E, the lower index first (R184, R187). -/
def bestReady (x : Chip) (r : Follow) : Option Cand :=
  (r.cands.filter fun c => c.state == caReady).foldl (fun a c => match a with
    | none => some c
    | some b =>
      if effScore x r b.lane < effScore x r c.lane ∨ (effScore x r b.lane = effScore x r c.lane ∧ c.idx < b.idx) then some c
      else some b) none

/-- The primary plays nothing: ACQ, LOST or WAIT, or muted by concealment (R184). -/
def failing (x : Chip) (p : Nat) : Bool :=
  laneState x p == 1 || laneState x p == 3 || laneState x p == 4 || (laneOf x p).muted

/-- `guard` has passed since the last HANDOVER_DONE (R184). -/
def guardOver (x : Chip) (r : Follow) : Bool :=
  match r.lastDone with
  | some t => decide (r.guard * 32768 ≤ (x.tm.ticks - t).toNat * 1000)
  | none => true

/-- The evaluation of a programme (R184, R187): nothing during a fade or a migration of its primary. -/
def evaluate (x : Chip) (p : Nat) : Chip :=
  match followOf x p with
  | none => x
  | some r =>
    if r.fading.isSome || laneHeld x p then x
    else match r.due.bind (fun i => (candOf r i).filter fun c => c.state == caReady), bestReady x r with
      | some c, _ => decideFor x p r c 2
      | none, none => setFollow x p { r with due := none }
      | none, some c =>
        if failing x p then byLane p (fun y => decideFor y p r c 1) x
        else if r.policy / 128 % 2 = 1 ∧ guardOver x r = true ∧ (r.margin : Int) ≤ effScore x r c.lane - effScore x r p then
          decideFor x p r c 0
        else setFollow x p { r with due := none }

/-- Quality words of running lanes as they have just been updated. -/
def setQuals (x : Chip) (quals : List (Nat × Word)) : Chip :=
  quals.foldl (fun y e => if e.1 < laneCount ∧ (laneOf y e.1).live = true then wr y (R.LANE_QUAL e.1) e.2 else y) x

/-- HANDOVER_DECIDE (R184). -/
def execHandoverDecide (p : Nat) (quals : List (Nat × Word)) (s : State) : Outc :=
  .next (if rfRuns s.chip then onChip (fun x => evaluate (setQuals x quals) p) s else s)

/-- The handover record (R186, R205). -/
def handoverRecord (old new source mode freq ident : Nat) (line gain : Int) : List Byte :=
  b1 old ++ b1 new ++ b1 source ++ b1 mode ++ b4 freq ++ b4 ident ++ leInt 4 line ++ i2 gain

/-- The roles of the lanes after a fade (R178): a pool lane leaves the pool and the old primary joins it; a linked pair
swaps. -/
def swapLanes (x : Chip) (old : Nat) (c : Cand) (r : Follow) : Chip :=
  if c.linked then
    let x1 := superWrite (superWrite x (F.LANE_TANDEM_en c.lane) 0) (F.LANE_TANDEM_primary c.lane) 0
    let x2 := superWrite (superWrite x1 (F.LANE_TANDEM_en old) 1) (F.LANE_TANDEM_primary old) c.lane
    setFollow x2 c.lane (listCand r fun i =>
      { newCand i (stdOf x old) 7 (laneKhz x old) 0 with state := caWarm, lane := old, linked := true })
  else
    let x1 := superWrite (setFollow x c.lane r) (F.LANE_TANDEM_pool c.lane) 0
    if isPool x old then x1 else toPool x1 old

/-- The fade ends (R186): bindings, record and line move, the handover record is published and the lanes return. -/
def handoverDone (x : Chip) (p : Nat) (r : Follow) (f : Fade) (c : Cand) (stamp : Nat) : Chip :=
  let new := c.lane
  let line := lineOf r c
  let r1 := { r with
    cands := (r.cands.filter fun d => d.idx != c.idx),
    lineNow := line, gain := c.gain, handovers := r.handovers + 1, lastDone := some x.tm.ticks, fading := none
    past := some ⟨p, r.gain, behindOf x r p r.lineNow, r.lineNow != 0, f.began, f.began + BitVec.ofNat 64 (2048 * r.fade)⟩ }
  let r2 := { r1 with cands := r1.cands.map fun d => { d with delta := d.delta.map fun v => v - c.delta.getD 0 } }
  let x3 := moveCaptured p new (fun z =>
    let x1 := moveBindings { z with follows := smErase p z.follows } p new
    let x2 := publish x1 new 0x0501 (handoverRecord p new c.source c.mode c.freq c.ident line c.gain) stamp
    setBusy (setBusy x2 p none) new none) x
  let x4 := setCause (raise x3 srcMgmt 0x47 (b1 p ++ b1 new ++ leInt 4 line)) .follow
  let x5 := after srcMgmt (fun y => swapLanes y p c r2) x4
  match f.endReason with
  | some e => followEnd x5 new e
  | none => x5

/-- HANDOVER_DONE (R186). -/
def execHandoverDone (p stamp : Nat) (s : State) : Outc :=
  .next (match followOf s.chip p with
    | none => s
    | some r => match r.fading with
      | none => s
      | some f => match candOf r f.idx with
        | some c => onChip (fun x => handoverDone x p r f c stamp) s
        | none => s)

/-- FOLLOW_LEAD_RETURN (R178): a follow-owned lead without a service returns to the pool. -/
def execFollowLeadReturn (n : Nat) (s : State) : Outc :=
  .next (if n ∈ s.chip.ownedLeads ∧ (servicesOf s.chip n).isEmpty = true then
      onChip (fun x => toPool { x with ownedLeads := x.ownedLeads.erase n } n) s
    else s)

/-- Centre frequencies in kHz of the DAB blocks 5A to 13F (R179). -/
def dabBlocks : List Nat :=
  [174928, 176640, 178352, 180064, 181936, 183648, 185360, 187072, 188928, 190640, 192352, 194064, 195936, 197648]
    ++ [199360, 201072, 202928, 204640, 206352, 208064, 209936, 210096, 211648, 213360, 215072, 216928, 217088, 218640]
    ++ [220352, 222064, 223936, 224096, 225648, 227360, 229072, 230784, 232496, 234208, 235776, 237488, 239200]

/-- The frequency in kHz of a channel of a band sweep (R179). -/
def scanFreq (opt i : Nat) : Nat :=
  if opt / 2 % 8 = 1 then nth 239200 dabBlocks i else (scanBand opt).2.1 + i * (scanBand opt).2.2

/-- The sub-band nearest to a frequency in kHz (R93). -/
def subBand (kHz : Nat) : Nat := (kHz + 640) / 1280

/-- A SCAN lane retunes itself (R179): a synchronising reset between sub-bands, continuous phase within one. -/
def scanMove (x : Chip) (n kHz : Nat) : Chip :=
  let d := (laneOf x n).dsp
  if d.chan = subBand kHz then x
  else
    let y := resetLog x n
    setDsp y n { dspBegin y n with chan := subBand kHz }

/-- A scan record's octets (R205). -/
def scanBytes (c : LaneCfg) (idx freq : Nat) (o : ScanObs) : List Byte :=
  b1 (c.opt / 2 % 8) ++ b2 idx ++ b4 freq ++ leInt 1 o.level ++ b1 o.value

/-- The figures of the channel measured (R145, R179, R190): a DAB block gives a level alone. -/
def scanQual (x : Chip) (n freq : Nat) (o : ScanObs) : Chip :=
  let dab := decide (174000 ≤ freq)
  wr x (R.LANE_QUAL n) (BitVec.ofNat 32
    ((if dab then 0 else min o.value 240) * 2 ^ 24 + (if dab then 0 else sat 8 o.value) * 2 ^ 16 + tcomp 8 o.level * 2 ^ 8 + 0xFF))

/-- The candidate that a list entry measured is SCANNED with its estimated E (R177, R179, R184). -/
def scanCand (x : Chip) (p i : Nat) (o : ScanObs) : Chip :=
  match followOf x p with
  | none => x
  | some r => match candOf r i with
    | some c =>
      if c.state = caListed ∨ c.state = caScanned then
        updCand x p { c with
          state := caScanned, score := some ((min o.value 240 : Nat) + (if digital c.mode then r.bias else 0)) }
      else x
    | none => x

/-- Candidates of a programme after a list sweep (R178): a warm one that another outdoes by 6 dB in 3 sweeps in a row is
replaced. -/
def sweepEnd (x : Chip) (p : Nat) (r : Follow) : Chip :=
  let top := (r.cands.filter fun c => c.state == caScanned).foldl (fun a c => max a (c.score.getD (-40000))) (-40000)
  r.cands.foldl (fun y c =>
    if c.linked = false ∧ caWarm ≤ c.state ∧ c.state ≤ caReady then
      let e := effScore y r c.lane
      if e + 24 ≤ top then
        if 2 ≤ c.beaten then
          updCand (releaseCand y c) p { c with
            state := caScanned, lane := 0x7F, lead := 0x7F, score := some e, delta := none, verified := false,
            aligned := false, beaten := 0 }
        else updCand y p { c with beaten := c.beaten + 1 }
      else updCand y p { c with beaten := 0 }
    else y) x

/-- A list sweep of lane n has measured a candidate of programme p. -/
def scanSwept (x : Chip) (n p : Nat) : Chip :=
  let d := (laneOf x n).dsp
  if d.swept.contains p then x else setDsp x n { d with swept := d.swept ++ [p] }

/-- A list sweep of lane n ends: it counts for the programmes whose candidates it has measured (R178). -/
def sweepDone (x : Chip) (n : Nat) : Chip :=
  let d := (laneOf x n).dsp
  d.swept.foldl (fun y p => match followOf y p with
    | some r => sweepEnd y p r
    | none => y) (setDsp x n { d with swept := [] })

/-- A SCAN lane ends a channel's dwell (R179, R190, R205). -/
def scanRecord (x : Chip) (n : Nat) (o : ScanObs) : Chip :=
  let c := cfgOf x n
  let idx := fget x (F.SCAN_idx n)
  let freq := if scanList c.opt then o.freq else scanFreq c.opt idx
  let x1 := publish (scanMove x n freq) n 0x0401 (scanBytes c idx freq o) o.stamp
  let x2 := scanQual x1 n freq o
  let x3 := match o.cand with
    | some (p, i) => if scanList c.opt then scanSwept (scanCand x2 p i o) n p else x2
    | none => x2
  let next := if scanList c.opt then (if o.last then 0 else idx + 1) else if (scanBand c.opt).1 ≤ idx + 1 then 0 else idx + 1
  let x4 := fset (if scanList c.opt then x3 else scanMove x3 n (scanFreq c.opt next)) (F.SCAN_idx n) next
  if next = 0 then
    let x5 := fset x4 (F.SCAN_sweeps n) ((fget x4 (F.SCAN_sweeps n) + 1) % 0x8000)
    if scanList c.opt then sweepDone x5 n else x5
  else x4

/-- SCAN_RECORD (R179): a dwell that overlaps taint is measured again (R58). -/
def execScanRecord (n : Nat) (o : ScanObs) (s : State) : Outc :=
  .next (if n < laneCount ∧ stdOf s.chip n = mScan ∧ (laneOf s.chip n).live = true ∧ o.touched = false then
      onChip (fun x => scanRecord x n o) s
    else s)

/-- A lane linked to a primary (R177): a candidate held warm without a pool lane; a primary without a record receives
one. -/
def linkTandem (x : Chip) (n : Nat) : Chip :=
  let p := fget x (F.LANE_TANDEM_primary n)
  if fon x (F.LANE_TANDEM_en n) = true ∧ p ≠ n ∧ stdOf x p ∈ [mFm, mAm, mSvc, mDrm] then
    linkCand (if (followOf x p).isSome then x else followStart x p (newFollow x p 0xC0 0x07D0500C 0x00140000)) p n
  else x

/-- A lane linked no more leaves the table. -/
def unlinkTandem (x : Chip) (n : Nat) : Chip :=
  { x with follows := x.follows.map fun e =>
      (e.1, { e.2 with cands := e.2.cands.filter fun c => !(c.linked && (c.lane == n && c.state != caFading)) }) }

end Sys2Proof.Machine
end

