-- ==== Sys2Proof/Machine/Rds.lean ====
section
/-! DEFINITION. RDS of FM lanes (R129 to R132): block sync, flags, groups and the items decoded from them. The spec names the
items and leaves their places in a group to IEC 62106, whose layout is taken here (PRESUMED). -/
namespace Sys2Proof.Machine

/-- A running lane in a mode. -/
def runs (x : Chip) (n std : Nat) : Bool := decide (n < laneCount) && (stdOf x n == std && (laneOf x n).live)

/-- Option bits of an FM lane (R122). -/
def rdsFix (c : LaneCfg) : Nat := c.opt / 16 % 4
def rbdsOn (c : LaneCfg) : Bool := decide (c.opt / 8 % 2 = 1)

/-- A block's bits overlap tainted or concealed MPX (R130, R142): it lasts 21.895 ms from its first bit. -/
def blockTouched (x : Chip) (n : Nat) (o : RdsObs) : Bool :=
  let c := cfgOf x n
  let a := sampleAt x o.stamp + splitDelay + planDelay c
  let b := a + ofNs 21894737
  (laneSpans x n).any (Span.meets (taintHold c) a b) ||
    (laneOf x n).fm.mended.any fun t => decide (a ≤ t) && decide (t ≤ b)

/-- The flag of a block (R130). -/
def blockFlag (fix : Nat) (touched : Bool) (o : RdsObs) : Nat :=
  let f := match o.burst with
    | none => 3
    | some b => if b = 0 then 0 else if b ≤ 2 then (if fix = 0 then 3 else 1) else if b ≤ 5 ∧ 2 ≤ fix then 2 else 3
  if touched ∧ f < 2 then 2 else f

/-- The data that a block delivers (R130): corrected, but as received with flag 3. -/
def blockData (f : Nat) (o : RdsObs) : Nat := (if f = 3 then o.raw else o.word) % 65536

/-- The legal sequence of offset words (R129): 0 A, 1 B, 2 C, 3 C′, 4 D, 5 E. -/
def legalNext (rbds : Bool) (a b : Nat) : Bool :=
  (rbds && (a == 5 || b == 5)) || match a with
    | 0 => b == 1
    | 1 => b == 2 || b == 3
    | 2 | 3 => b == 4
    | 4 => b == 0
    | _ => false

/-- Newest entries of a history. -/
def history (n : Nat) (l : List Bool) (b : Bool) : List Bool := (b :: l).take n

/-- How many of a history are set. -/
def hits (l : List Bool) : Nat := (l.filter id).length

/-- Percentage of a history that is set. -/
def percent (l : List Bool) : Nat := hits l * 100 / max 1 l.length

/-- Set the RDS memory of a lane and what its status shows of it (R144). -/
def setRds (x : Chip) (n : Nat) (r : Rds) : Chip :=
  fsets (setLane x n { laneOf x n with rds := r })
    [(F.FM_rds_sync n, r.sync.toNat), (F.FM_bler n, if r.sync then percent r.last64 else 0xFF),
     (F.FM_rbds_e n, (r.e50.any id).toNat)]

/-- What an FM lane has decoded of items. -/
def rdsKept (r : Rds) : Rds :=
  { rdsReset with cells := r.cells, once := r.once, items := r.items, rtPlus := r.rtPlus, af := r.af }

/-- RDS block sync gained or lost (R129, R138, R142): decoded items stay. -/
def rdsSync (x : Chip) (n : Nat) (gained : Bool) : Chip :=
  let r := (laneOf x n).rds
  let bler := percent r.last64
  let y := setRds x n { rdsKept r with sync := gained, e50 := if gained then r.e50 else [] }
  raise y (srcLane n) 0x12 (b1 n ++ b1 gained.toNat ++ b1 bler)

/-- The entry of a key. -/
def entryAt (l : List (Nat × List Byte)) (k : Nat) : Option (List Byte) := (l.find? fun e => e.1 == k).map Prod.snd

/-- A list with the entry of a key set. -/
def entrySet (l : List (Nat × List Byte)) (k : Nat) (v : List Byte) : List (Nat × List Byte) :=
  (k, v) :: l.filter fun e => e.1 != k

/-- A part of an item as blocks of flag f bring it (R132): flags 0 and 1 change it at once, flag 2 when the same content has
come twice in succession, flag 3 never. -/
def cellTake (r : Rds) (f k : Nat) (v : List Byte) : Rds :=
  if 3 ≤ f then r
  else if f = 2 ∧ entryAt r.once k ≠ some v then { r with once := entrySet r.once k v }
  else { r with cells := entrySet r.cells k v, once := entrySet r.once k v }

/-- Item codes (R205). -/
def itPi : Nat := 0
def itPty : Nat := 1
def itPs : Nat := 2
def itRt : Nat := 3
def itRtPlus : Nat := 4
def itAf : Nat := 5
def itCt : Nat := 6
def itEon : Nat := 7
def itEcc : Nat := 8

/-- The key of a part of an item. -/
def cellKey (code i : Nat) : Nat := code * 2 ^ 24 + i

/-- Parts 0 to n - 1 of an item joined, where all are there. -/
def cellJoin (r : Rds) (code : Nat) : Nat → Option (List Byte)
  | 0 => some []
  | n + 1 => match cellJoin r code n, entryAt r.cells (cellKey code n) with
    | some a, some b => some (a ++ b)
    | _, _ => none

/-- Radiotext up to its end mark 0x0D or its last segment; fuel is the number of parts left. -/
def rtText (r : Rds) (i : Nat) : Nat → Option (List Byte)
  | 0 => some []
  | f + 1 => match entryAt r.cells (cellKey itRt (1 + i)) with
    | none => none
    | some v =>
      if v.contains 0x0D then some (v.takeWhile (· != 0x0D))
      else (rtText r (i + 1) f).map (v ++ ·)

/-- An item published (R132, R205) where it is complete and not what was published last; a changed PI discards every item
decoded under the old one. -/
def itemOut (n key stamp : Nat) (v : Option (List Byte)) (x : Chip) : Chip :=
  let r := (laneOf x n).rds
  match v with
  | none => x
  | some v =>
    if entryAt r.items key = some v then x
    else
      let code := key / 2 ^ 24
      let out := fun y : Chip => publish y n 0x0110 (b1 code ++ v) stamp
      match entryAt r.items key with
      | some old =>
        if code = itPi then
          out (raise (setRds x n { r with cells := [(key, v)], once := [], items := [(key, v)], rtPlus := none, af := [] })
            (srcLane n) 0x13 (b1 n ++ b2 (unle old) ++ b2 (unle v)))
        else out (setRds x n { r with items := entrySet r.items key v })
      | none => out (setRds x n { r with items := entrySet r.items key v })

/-- A part of a one-part item taken and published. -/
def itemOne (n f key stamp : Nat) (v : List Byte) (x : Chip) : Chip :=
  let r := cellTake (laneOf x n).rds f key v
  itemOut n key stamp (entryAt r.cells key) (setRds x n r)

/-- The type and version of a group from its block B: 2 × type + version. -/
def groupType (b : Nat) : Nat := b / 2048

/-- The AF list under way: a pair whose high octet is 224 + n, n of 1 to 25, begins one of n frequencies (methods A and
B); 205 is filler. A word that changes no item (R132) leaves it as it is. -/
def afTake (r : Rds) (f w : Nat) : Rds :=
  let r1 := cellTake r f (cellKey itAf w) (b2 w)
  if 3 ≤ f ∨ (f = 2 ∧ entryAt r.once (cellKey itAf w) ≠ some (b2 w)) then r1
  else if 225 ≤ w / 256 ∧ w / 256 ≤ 249 then { r1 with af := if r1.af.head? = some w then r1.af else [w] }
  else if r1.af.isEmpty ∨ r1.af.contains w = true then r1
  else { r1 with af := r1.af ++ [w] }

/-- The AF list once it holds as many frequencies as its head says. -/
def afItem (r : Rds) : Option (List Byte) :=
  match r.af with
  | [] => none
  | h :: rest =>
    let codes := h % 256 :: rest.flatMap fun w => [w / 256, w % 256]
    if h / 256 - 224 ≤ (codes.filter fun c => c != 205).length then some ((h :: rest).flatMap fun w => be 2 w) else none

/-- What block A, or C′, tells: PI. -/
def blockPi (n f stamp w : Nat) (x : Chip) : Chip := itemOne n f (cellKey itPi 0) stamp (b2 w) x

/-- The parts of item 1 joined: TP and PTY with TA. -/
def ptyItem (r : Rds) : Option (List Byte) := cellJoin r itPty 2

/-- What block B tells: TP and PTY of every group, TA of groups 0A, 0B and 15B, the A/B flag of radiotext. -/
def blockB (n f stamp w : Nat) (x : Chip) : Chip :=
  let r := cellTake (laneOf x n).rds f (cellKey itPty 0) (b2 (w % 2048 - w % 32))
  let r1 := if groupType w ∈ [0, 1, 31] then cellTake r f (cellKey itPty 1) (b1 (w / 16 % 2)) else r
  let ab := b1 (w / 16 % 2)
  let r2 := if groupType w ∈ [4, 5] then
      let q := cellTake r1 f (cellKey itRt 0) ab
      if entryAt q.cells (cellKey itRt 0) = entryAt r1.cells (cellKey itRt 0) then q
      else { q with cells := q.cells.filter fun e => !(decide (cellKey itRt 1 ≤ e.1) && decide (e.1 < cellKey itRtPlus 0)) }
    else r1
  itemOut n (cellKey itPty 0) stamp (ptyItem r2) (setRds x n r2)

/-- Radiotext published once complete. -/
def rtItem (n stamp segs : Nat) (x : Chip) : Chip :=
  let r := (laneOf x n).rds
  itemOut n (cellKey itRt 0) stamp
    (match entryAt r.cells (cellKey itRt 0), rtText r 0 segs with
      | some ab, some t => some (ab ++ t)
      | _, _ => none) x

/-- What block C tells in a group whose block B is w: AF of 0A, ECC of 1A, radiotext of 2A. -/
def blockC (n f stamp b w : Nat) (x : Chip) : Chip :=
  let r := (laneOf x n).rds
  match groupType b with
  | 0 =>
    let r1 := afTake r f w
    itemOut n (cellKey itAf (r1.af.headD 0)) stamp (afItem r1) (setRds x n r1)
  | 2 => if w / 4096 % 8 = 0 then itemOne n f (cellKey itEcc 0) stamp (b1 w) x else x
  | 4 => rtItem n stamp 32 (setRds x n (cellTake r f (cellKey itRt (1 + 2 * (b % 16))) (be 2 w)))
  | _ => x

/-- What block D tells in a group of blocks B and C: PS of 0A and 0B, radiotext of 2A and 2B, CT of 4A, EON of 14A, the
group that carries RT+ of 3A (application 0x4BD7) and RT+ itself. -/
def blockD (n f stamp b c w : Nat) (x : Chip) : Chip :=
  let r := (laneOf x n).rds
  let t := groupType b
  if r.rtPlus = some t ∧ t ∉ [0, 1, 4, 5, 6, 8, 28] then
    itemOne n f (cellKey itRtPlus 0) stamp (b1 (b % 32) ++ be 2 c ++ be 2 w) x
  else match t with
  | 0 | 1 =>
    let r1 := cellTake r f (cellKey itPs (b % 4)) (be 2 w)
    itemOut n (cellKey itPs 0) stamp (cellJoin r1 itPs 4) (setRds x n r1)
  | 4 => rtItem n stamp 32 (setRds x n (cellTake r f (cellKey itRt (2 + 2 * (b % 16))) (be 2 w)))
  | 5 => rtItem n stamp 16 (setRds x n (cellTake r f (cellKey itRt (1 + b % 16)) (be 2 w)))
  | 6 =>
    let r1 := if w = 0x4BD7 then cellTake r f (cellKey itRtPlus 1) (b1 (b % 32)) else r
    setRds x n { r1 with rtPlus := ((entryAt r1.cells (cellKey itRtPlus 1)).map unle).orElse fun _ => r1.rtPlus }
  | 8 => itemOne n f (cellKey itCt 0) stamp (b1 (b % 4) ++ be 2 c ++ be 2 w) x
  | 28 => itemOne n f (cellKey itEon (w * 32 + b % 32)) stamp (be 2 w ++ b1 (b % 32) ++ be 2 c) x
  | _ => x

/-- What a block of a group tells, with the worst flag of the blocks that it needs (R132). -/
def blockItems (n : Nat) (g : List (Nat × Nat × Nat)) (stamp : Nat) (x : Chip) : Chip :=
  match g with
  | [(a, f, _)] => blockPi n f stamp a x
  | [_, (b, f, _)] => blockB n f stamp b x
  | [_, (b, f, _), (c, h, o)] => if o = 3 then blockPi n h stamp c x else blockC n (max f h) stamp b c x
  | [_, (b, f, _), (c, h, _), (d, k, _)] => blockD n (max f (max (if groupType b ∈ [0, 1, 4, 5] then 0 else h) k)) stamp b c d x
  | _ => x

/-- The record of a whole group (R131, R205). -/
def groupRecord (g : List (Nat × Nat × Nat)) : List Byte :=
  let flags := (List.range 4).foldl (fun v k => v + (nth (0, 0, 0) g k).2.1 * 4 ^ k) 0
  g.flatMap (fun e => b2 e.1) ++ b1 flags ++ b1 (if (nth (0, 0, 0) g 2).2.2 = 3 then 1 else 0)

/-- A block joins its group (R131, R205) and what it tells is decoded; a whole group is published at its block D, an E
block, accepted with `rbds` alone, on its own. -/
def rdsGroup (x : Chip) (n : Nat) (o : RdsObs) (f : Nat) : Chip :=
  let r := (laneOf x n).rds
  let w := blockData f o
  if o.offset = 5 then
    if rbdsOn (cfgOf x n) then publish x n 0x0102 (b2 w ++ b1 f) o.stamp else setRds x n { r with group := [] }
  else
    let g := if o.offset = 0 then [(w, f, 0)]
      else match r.group.getLast? with
        | some (_, _, a) => if legalNext false a o.offset then r.group ++ [(w, f, o.offset)] else []
        | none => []
    let stamp := if o.offset = 0 then o.stamp else r.stamp
    let x1 := blockItems n g o.stamp (setRds x n { r with group := g, stamp := stamp })
    if o.offset = 4 ∧ g ≠ [] then
      publish (setRds x1 n { (laneOf x1 n).rds with group := [] }) n 0x0101 (groupRecord g) stamp
    else x1

/-- A block while out of sync (R129). -/
def rdsSearch (x : Chip) (n : Nat) (o : RdsObs) : Chip :=
  let r := (laneOf x n).rds
  let rbds := rbdsOn (cfgOf x n)
  if o.burst = some 0 ∧ (rbds = true ∨ o.offset ≠ 5) then
    let ok := match r.prev with
      | some a => o.adjacent && legalNext rbds a o.offset
      | none => false
    if ok then rdsSync x n true else setRds x n { r with prev := some o.offset }
  else setRds x n { r with prev := none }

/-- A block while in sync (R129 to R132); without `rbds` no block has offset E, and what looks like one is
uncorrectable. -/
def rdsTake (x : Chip) (n : Nat) (q : RdsObs) : Chip :=
  let r := (laneOf x n).rds
  let rbds := rbdsOn (cfgOf x n)
  let o := if q.offset = 5 ∧ rbds = false then { q with burst := none } else q
  let f := blockFlag (rdsFix (cfgOf x n)) (blockTouched x n o) o
  let r1 := { r with
    last50 := history 50 r.last50 o.burst.isNone
    last64 := history 64 r.last64 (f == 3)
    e50 := history 50 r.e50 (rbds && o.offset == 5) }
  let x1 := rdsGroup (setRds x n r1) n o f
  let x2 := if f < 3 then addCands x1 n o.cands else x1
  if 20 ≤ hits r1.last50 then rdsSync x2 n false else x2

/-- RDS_BLOCK (R129 to R132). -/
def execRdsBlock (n : Nat) (o : RdsObs) (s : State) : Outc :=
  .next (if runs s.chip n mFm then
      onChip (fun x => if (laneOf x n).rds.sync then rdsTake x n o else rdsSearch x n o) s
    else s)

end Sys2Proof.Machine
end

