-- ==== Sys2Proof/Machine/Analogue.lean ====
section
/-! DEFINITION. FM and AM lanes (R121 to R145): quality figures, states, pilot, blend, soft mute, diversity branches, carrier
fades, sidebands. -/
namespace Sys2Proof.Machine

/-- A lane's state after a quality update, with its event and what it means for a candidate on it or on a service that loses
its lead with it (R138, R163, R175). -/
def moveState (x : Chip) (n st : Nat) : Chip :=
  if laneState x n = st then x else (n :: servicesOf x n).foldl tandemState (setLaneState x n st)

/-- A quality word (R145). -/
def qualWord (score cnr : Nat) (level : Int) (aux : Nat) : Word :=
  BitVec.ofNat 32 (sat 8 score * 2 ^ 24 + sat 8 cnr * 2 ^ 16 + tcomp 8 (clip 8 level) * 2 ^ 8 + sat 8 aux)

/-- The score of an FM lane in 0.25 dB (R137): min(cnr, 60 dB) less 0.2 dB × mp, not below 0; rounded down. -/
def fmScore (cnr mp : Nat) : Nat := (5 * min cnr 240 - 4 * mp) / 5

/-- The target blend in 0.1 % (R127): 0 at a score of 20 dB or less, 100 % at 34 dB or more, linear between; mono without
a pilot or with `mono`. -/
def blendTarget (x : Chip) (n score : Nat) : Nat :=
  if fon x (F.FM_pilot n) = false ∨ monoOn (cfgOf x n) = true ∨ score ≤ 80 then 0
  else if 136 ≤ score then 1000
  else (score - 80) * 1000 / 56

/-- Blend moves for some ms (R127): toward mono by up to 10 %, toward stereo by up to 0.2 % per ms. -/
def blendMove (b target ms : Nat) : Nat := if target ≤ b then max target (b - 100 * ms) else min target (b + 2 * ms)

/-- Soft mute moves for some ms toward 2 × (12 − cnr) dB, at most 20 dB, by up to 1 dB per ms, in 0.5 dB (R128, R136). -/
def smuteMove (x : Chip) (n a cnr ms : Nat) : Nat :=
  let target := if smuteOff (cfgOf x n) then 0 else min 40 (48 - cnr)
  if target ≤ a then max target (a - 2 * ms) else min target (a + 2 * ms)

/-- The next state of an FM lane (R138), from how long in ms cnr has been at or above 8 dB and below 4 dB. -/
def fmNext (st above below : Nat) : Nat := if st ≠ 2 ∧ 8 ≤ above then 2 else if 8 ≤ below then 3 else st

/-- The pilot declared lost (R127). -/
def pilotLost (x : Chip) (n : Nat) : Chip :=
  raise (fset (setDsp x n { (laneOf x n).dsp with gone := false }) (F.FM_pilot n) 0) (srcLane n) 0x11 (b1 n ++ b1 0)

/-- How long in ms a condition has held, after some more. -/
def lasting (holds : Bool) (so ms : Nat) : Nat := if holds then so + ms else 0

/-- What an FM lane's samples and figures make of its memory and its audio (R61, R123, R125, R127, R128, R138). The multipath
index of an envelope of mean 0 is open. -/
def fmTake (x : Chip) (n : Nat) (o : FmObs) : Chip :=
  let d := (laneOf x n).dsp
  let a := fmRun x n o.run
  let cnr := sat 8 o.cnr
  let mp := (multipath a.1.envelope).getD ((free x).toNat % 101)
  let score := fmScore cnr mp
  let hold := d.gone && laneTaint x n (nowAt x)
  let blend := if hold then d.blend else blendMove d.blend (blendTarget x n score) o.ms
  let smute := smuteMove x n d.smute cnr o.ms
  let x1 := deliver (setLane (freeNext x) n { laneOf x n with
    fm := a.1
    dsp := { d with
      blend := blend, smute := smute, above := lasting (decide (32 ≤ cnr)) d.above o.ms
      below := lasting (decide (cnr < 16)) d.below o.ms, low := branchLow x n d.low o.run
      lockMs := lasting (decide (o.pilot.natAbs ≤ 50 ∧ 3500 ≤ o.inject)) d.lockMs o.ms
      weakMs := lasting (decide (o.inject < 2500)) d.weakMs o.ms } }) n a.2
  fsets (wr x1 (R.LANE_QUAL n) (qualWord score cnr o.level mp))
    [(F.FM_blend n, blend / 10), (F.FM_smute n, smute / 2), (F.FM_nb n, (decide (a.1.quiet < 2048)).toNat)]

/-- A quality update of an FM lane (R127, R137, R138, R142): its samples and figures, a pilot lost during a taint that has ended,
its state. -/
def fmUpdate (x : Chip) (n : Nat) (o : FmObs) : Chip :=
  let y := fmTake x n o
  let d := (laneOf y n).dsp
  let z := if d.gone && !laneTaint y n (nowAt y) then
      (if 10 ≤ d.weakMs then pilotLost y n else setDsp y n { d with gone := false }) else y
  moveState z n (fmNext (laneState z n) d.above d.below)

/-- FM_STATE (R137, R138). -/
def execFmState (n : Nat) (o : FmObs) (s : State) : Outc :=
  .next (if runs s.chip n mFm then onChip (fun x => fmUpdate x n o) s else s)

/-- The pilot present (R127): at the first lock after acquisition the blend takes its target at once. -/
def pilotFound (x : Chip) (n : Nat) : Chip :=
  let d := (laneOf x n).dsp
  let y := fset x (F.FM_pilot n) 1
  let blend := if d.piloted then d.blend else blendTarget y n (fget y (F.LANE_QUAL_score n))
  fset (setDsp y n { d with piloted := true, gone := false, blend := blend }) (F.FM_blend n) (blend / 10)

/-- The pilot present 10 ms after lock, or lost when its injection has stayed below 2.5 kHz for 10 ms (R127, R142): a loss during
a taint is not told, and the blend is held until the taint ends. -/
def stereo (x : Chip) (n : Nat) (present : Bool) : Chip :=
  let d := (laneOf x n).dsp
  if (if present then d.lockMs else d.weakMs) < 10 then x
  else if fon x (F.FM_pilot n) = present then setDsp x n { d with gone := d.gone && !present }
  else if present then raise (pilotFound x n) (srcLane n) 0x11 (b1 n ++ b1 1)
  else if laneTaint x n (nowAt x) then setDsp x n { d with gone := true }
  else pilotLost x n

/-- STEREO (R127). -/
def execStereo (n : Nat) (present : Bool) (s : State) : Outc :=
  .next (if runs s.chip n mFm then onChip (fun x => stereo x n present) s else s)

/-- The next state of an AM lane (R138), from its loop and how long in ms cnr has been at or above 10 dB and, outside a fade,
below 6 dB, the fade and ACQ have lasted. -/
def amNext (st : Nat) (locked : Bool) (above below fadeMs acqMs : Nat) : Nat :=
  if st ≠ 2 ∧ locked = true ∧ 32 ≤ above then 2
  else if 64 ≤ below ∨ 500 ≤ fadeMs ∨ (st = 1 ∧ 1000 ≤ acqMs) then 3
  else st

/-- The carrier correction that an AM lane's loop would apply in Hz (R133): the one in force and what is left of the offset. -/
def amReach (x : Chip) (n : Nat) (o : AmObs) : Int := sext 10 (fget x (F.AM_foff n)) + o.offset

/-- The carrier correction in Hz (R133, R134, R142): within ±200, held in a fade. -/
def amOffset (x : Chip) (n : Nat) (o : AmObs) : Nat :=
  if fon x (F.AM_fade n) then fget x (F.AM_foff n) else tcomp 10 (max (-200) (min 200 (amReach x n o)))

/-- The gain of an AM lane's audio held at the start of a fade, and free after it (R134). -/
def amHold (x : Chip) (n : Nat) (on : Bool) : Chip :=
  let l := laneOf x n
  setLane x n { l with am := { l.am with gain := if on then some (power l.dsp.dc) else none } }

/-- What an AM lane's samples and figures make of its memory and its audio (R133 to R138, R142). LOST entered in a fade ends it,
with m frozen until cnr is 10 dB where the fade has frozen it. -/
def amMove (x : Chip) (n : Nat) (o : AmObs) (cnr : Nat) (ends : Bool) : Chip :=
  let d := (laneOf x n).dsp
  let a := amRun x n o.run
  let fade := fon x (F.AM_fade n)
  let gap := o.above - o.below
  let x1 := deliver (setLane x n { laneOf x n with
    am := a.1
    dsp := { d with
      dc := a.2.1, smute := smuteMove x n d.smute cnr o.ms, above := lasting (decide (40 ≤ cnr)) d.above o.ms
      below := lasting (decide (cnr < 24) && !fade) d.below o.ms, fadeMs := lasting (fade && !ends) d.fadeMs o.ms
      acqMs := lasting (laneState x n == 1) d.acqMs o.ms, upMs := lasting (decide (1000 ≤ gap)) d.upMs o.ms
      downMs := lasting (decide (gap ≤ -1000)) d.downMs o.ms, evenMs := lasting (decide (gap.natAbs < 600)) d.evenMs o.ms
      held := (d.held || (ends && fon x (F.LANE_DCB_auto_freeze n))) && decide (cnr < 40) } }) n a.2.2
  if ends then amHold x1 n false else x1

/-- A quality update of an AM lane (R133, R134, R136 to R138, R142). A carrier more than 200 Hz away does not lock. -/
def amUpdate (x : Chip) (n : Nat) (o : AmObs) : Chip :=
  let d := (laneOf x n).dsp
  let cnr := sat 8 o.cnr
  let fade := fon x (F.AM_fade n)
  let st := laneState x n
  let locked := o.locked && decide ((amReach x n o).natAbs ≤ 200)
  let new := amNext st locked (lasting (decide (40 ≤ cnr)) d.above o.ms) (lasting (decide (cnr < 24) && !fade) d.below o.ms)
    (lasting fade d.fadeMs o.ms) (lasting (st == 1) d.acqMs o.ms)
  let ends := fade && (new == 3 && st != 3)
  let x1 := fset (wr x (R.LANE_QUAL n) (qualWord (min cnr 240) cnr o.level (min 150 o.depth))) (F.AM_foff n) (amOffset x n o)
  let x2 := amMove x1 n o cnr ends
  let x3 := fsets x2 [(F.AM_smute n, (laneOf x2 n).dsp.smute / 2), (F.AM_nb n, (decide ((laneOf x2 n).am.quiet < 256)).toNat),
    (F.AM_sync n, locked.toNat), (F.AM_fade n, (fade && !ends).toNat)]
  moveState x3 n new

/-- AM_STATE (R138). -/
def execAmState (n : Nat) (o : AmObs) (s : State) : Outc :=
  .next (if runs s.chip n mAm then onChip (fun x => amUpdate x n o) s else s)

/-- The carrier power of an AM lane against its average (R134): a fade begins 10 dB below it, and ends within 6 dB of the
average held at its start. -/
def carrierFade (x : Chip) (n : Nat) (power avg : Int) : Chip :=
  let d := (laneOf x n).dsp
  if fon x (F.AM_fade n) then
    if d.fadeAvg - 600 ≤ power then setDsp (fset (amHold x n false) (F.AM_fade n) 0) n { d with fadeMs := 0 } else x
  else if power ≤ avg - 1000 then
    setDsp (fset (amHold x n true) (F.AM_fade n) 1) n { d with fadeAvg := avg, fadeMs := 0 }
  else x

/-- CARRIER_FADE (R134). -/
def execCarrierFade (n : Nat) (power avg : Int) (s : State) : Outc :=
  .next (if runs s.chip n mAm then onChip (fun x => carrierFade x n power avg) s else s)

/-- What the interference on the two sides asks for (R135): 10 dB more on one for 200 ms the other sideband alone, less than
6 dB between them for 1 s both. -/
def sideDue (d : DspRt) (side : Nat) : Bool :=
  match side with
  | 0 => decide (1000 ≤ d.evenMs)
  | 2 => decide (200 ≤ d.downMs)
  | 3 => decide (200 ≤ d.upMs)
  | _ => false

/-- The sideband changes over 5 ms (R135). -/
def sideTurn (x : Chip) (n side : Nat) : Chip := amTurn (amSide x n side) n (bwOf (cfgOf x n)) (fget x (F.AM_side n))

/-- AM_SIDE (R135): the sideband that the comparison of interference selects, with `side` at 1. -/
def execAmSide (n side : Nat) (s : State) : Outc :=
  .next (if runs s.chip n mAm = true ∧ sideOpt (cfgOf s.chip n) = 1 ∧ sideDue (laneOf s.chip n).dsp side = true then
      onChip (fun x => sideTurn x n side) s
    else s)

end Sys2Proof.Machine
end

