-- ==== Sys2Proof/Machine/Fic.lean ====
section
/-! DEFINITION. The fast information channel of a DAB lead (R146, R154, R155, R205): FIBs to FIGs, FIGs to the tables of the
multiplex. The layout of FIBs and FIGs is that of EN 300 401 (PRESUMED). -/
namespace Sys2Proof.Machine

/-- The FIGs of a FIB's data octets, each with its header octet; fuel is their number. -/
def figsOf : Nat → List Byte → List (List Byte)
  | 0, _ => []
  | _, [] => []
  | f + 1, h :: r =>
    let n := h.toNat % 32
    if h = 0xFF ∨ n = 0 then [] else (h :: r.take n) :: figsOf f (r.drop n)

/-- Type, extension and flags of a FIG: type at [7:5] of octet 0; of type 0 in octet 1 C/N at bit 7, other ensemble at bit 6,
P/D at bit 5, extension at [4:0]. -/
def figType (l : List Byte) : Nat := field l 0 1 / 32
def figExt (l : List Byte) : Nat := field l 1 1 % 32
def figBit (l : List Byte) (k : Nat) : Bool := (nth 0 l 1).getLsbD k

/-- Extensions of FIG type 0 that are supported (R146). -/
def figExts : List Nat := [0, 1, 2, 3, 5, 6, 8, 9, 10, 13, 14, 17, 21, 24]

/-- A FIG is supported (R146): labels of types 1 and 2, and the extensions of type 0. -/
def figSupported (l : List Byte) : Bool := figType l == 1 || (figType l == 2 || (figType l == 0 && figExts.contains (figExt l)))

/-- The sizes in CUs of the 64 UEP entries (R146). -/
def uepSizes : List Nat :=
  [16, 21, 24, 29, 35, 24, 29, 35, 42, 52, 29, 35, 42, 52, 32, 42, 48, 58, 70, 40, 52, 58, 70, 84, 48, 58, 70, 84, 104, 58, 70, 84]
    ++ [104, 64, 84, 96, 116, 140, 80, 104, 116, 140, 168, 96, 116, 140, 168, 208, 116, 140, 168, 208, 232, 128, 168, 192, 232]
    ++ [280, 160, 208, 280, 192, 280, 416]

/-- The entries of a FIG 0/1 with their octets: protection is the UEP entry, or 64 and up for the profile and level of EEP. -/
def subEntries : Nat → List Byte → List (DabSub × List Byte)
  | f + 1, a :: b :: c :: r =>
    let w := unbe [a, b]
    if c.toNat < 128 then (⟨w / 1024, w % 1024, nth 0 uepSizes (c.toNat % 64), c.toNat % 64⟩, [a, b, c]) :: subEntries f r
    else match r with
      | d :: s =>
        let v := unbe [c, d]
        (⟨w / 1024, w % 1024, v % 1024, 64 + v / 1024 % 32⟩, [a, b, c, d]) :: subEntries f s
      | [] => []
  | _, _ => []

/-- Some components of a service in FIG 0/2: stream audio, stream data, packet mode named by its SCId. -/
def figComps : Nat → List Byte → List DabComp
  | k + 1, a :: b :: r =>
    let w := unbe [a, b]
    let tail := figComps k r
    match w / 16384 with
    | 0 => ⟨0, w / 4 % 64, w / 2 % 2 == 1, w % 2 == 1, false, w / 256 % 64 == 63, none⟩ :: tail
    | 1 => ⟨0, w / 4 % 64, w / 2 % 2 == 1, w % 2 == 1, true, false, none⟩ :: tail
    | 3 => ⟨0, 64, w / 2 % 2 == 1, w % 2 == 1, true, false, some (w / 4 % 4096)⟩ :: tail
    | _ => tail
  | _, _ => []

/-- The services of a FIG 0/2, whose SIds have some octets. -/
def figServices (k : Nat) : Nat → List Byte → List DabService
  | 0, _ => []
  | f + 1, l =>
    if l.length ≤ k then []
    else
      let c := field l k 1 % 16
      ⟨unbe (l.take k), figComps c (l.drop (k + 1))⟩ :: figServices k f (l.drop (k + 1 + 2 * c))

/-- The packet-mode components of a FIG 0/3: SCId, subchannel, address. -/
def figPackets : Nat → List Byte → List (Nat × Nat × Nat)
  | f + 1, a :: b :: _ :: d :: e :: r =>
    let w := unbe [a, b]
    let v := unbe [d, e]
    (w / 16, v / 1024, v % 1024) :: figPackets f (if w % 2 = 1 then r.drop 2 else r)
  | _, _ => []

/-- The components of a FIG 0/8: SId, subchannel or 64 and SCId, SCIdS. -/
def figScids (k : Nat) : Nat → List Byte → List (Nat × Nat × Nat)
  | 0, _ => []
  | f + 1, l =>
    if l.length < k + 2 then []
    else
      let e := field l k 1
      let c := field l (k + 1) 1
      let long := decide (128 ≤ c)
      let key := if long then 64 + unbe ((l.drop (k + 1)).take 2) % 4096 else c % 64
      let used := k + 2 + long.toNat + (if 128 ≤ e then 1 else 0)
      if long = false ∧ c / 64 % 2 = 1 then figScids k f (l.drop used)
      else (unbe (l.take k), key, e % 16) :: figScids k f (l.drop used)

/-- An entry of FIG 0/1 in the tables (R155): one of size 0 is ignored, but known to be so. -/
def subTake (subs : List DabSub) (b : DabSub) : List DabSub :=
  if b.size = 0 ∧ subs.any (fun d => d.id == b.id) = true then subs else b :: subs.filter fun d => d.id != b.id

/-- Services join a configuration. -/
def svcsTake (g : DabConfig) (l : List DabService) : DabConfig :=
  { g with svcs := l.foldl (fun a v => v :: a.filter fun d => d.sid != v.sid) g.svcs }

/-- What is listed of components joins what is known of them. -/
def tripleTake (old new : List (Nat × Nat × Nat)) (same : Nat × Nat × Nat → Nat × Nat × Nat → Bool) : List (Nat × Nat × Nat) :=
  new.foldl (fun a e => e :: a.filter fun d => !same d e) old

/-- The CIF count at which an announced configuration takes effect: the next with a given remainder by 250. -/
def announcedAt (count occ : Nat) : Nat := (count + (occ + 250 - count % 250) % 250) % 5000

/-- FIG 0/0 (R154, R155): the first EId received keeps the tables, another starts them afresh; a change announced. -/
def ensembleTake (l : LeadRt) (b : List Byte) : LeadRt :=
  let e := unbe (b.take 2)
  let c := (field b 2 1 % 32 * 250 + field b 3 1) % 5000
  let m := if l.eid = none ∨ l.eid = some e then { l with eid := some e, cif := c }
    else { leadReset with sync := l.sync, est := l.est, eid := some e, cif := c, ring := l.ring, bad96 := l.bad96 }
  if field b 2 1 / 64 = 0 then m else { m with announced := some (announcedAt c (field b 4 1)) }

/-- What one FIG changes in the tables (R154, R155): of this ensemble alone, for the configuration in force or the next one. -/
def figTake (l : LeadRt) (f : List Byte) : LeadRt :=
  let b := f.drop 2
  let put := fun g : DabConfig → DabConfig => if figBit f 7 then { l with next := g l.next } else { l with config := g l.config }
  let k := if figBit f 5 then 4 else 2
  if figType f ≠ 0 ∨ figBit f 6 = true then l
  else match figExt f with
    | 0 => ensembleTake l b
    | 1 => put fun g => { g with subs := (subEntries 32 b).foldl (fun a e => subTake a e.1) g.subs }
    | 2 => put fun g => svcsTake g (figServices k 32 b)
    | 3 => { l with packets := tripleTake l.packets (figPackets 32 b) fun d e => d.1 == e.1 }
    | 8 => { l with scids := tripleTake l.scids (figScids k 32 b) fun d e => d.1 == e.1 && d.2.1 == e.2.1 }
    | _ => l

/-- A component with what FIG 0/3 and 0/8 tell of it: its subchannel and address, its SCIdS. -/
def compView (l : LeadRt) (sid : Nat) (p : DabComp) : DabComp :=
  let scids := fun key => ((l.scids.find? fun e => e.1 == sid && e.2.1 == key).map fun e => e.2.2).getD 0
  match p.packet with
  | none => { p with scids := scids p.subch }
  | some id => match l.packets.find? fun e => e.1 == id with
    | some e => { p with scids := scids (64 + id), subch := e.2.1, packet := some e.2.2 }
    | none => { p with scids := scids (64 + id) }

/-- A configuration with what is known of its components. -/
def viewOf (l : LeadRt) (g : DabConfig) : DabConfig :=
  { g with svcs := g.svcs.map fun s => { s with comps := s.comps.map (compView l s.sid) } }

/-- Services of a configuration that count as listed: some component points to a subchannel that is not of size 0
(R155). -/
def listed (c : DabConfig) : List DabService :=
  c.svcs.filter fun s => s.comps.any fun p => c.subs.any fun b => b.id == p.subch && b.size != 0

/-- FIG 0/0, 0/1 and 0/2 are there for every service (R155): an EId, and an entry for the subchannel of every component whose
subchannel is known. -/
def tablesFull (l : LeadRt) : Bool :=
  let g := viewOf l l.config
  l.eid.isSome && (!(listed g).isEmpty &&
    g.svcs.all fun s => s.comps.all fun p => p.subch == 64 || g.subs.any fun b => b.id == p.subch)

/-- A FIG as published (R155, R167): a FIG 0/1 without its entries of size 0. -/
def figOut (f : List Byte) : Option (List Byte) :=
  if figType f = 0 ∧ figExt f = 1 then
    let b := ((subEntries 32 (f.drop 2)).filter fun e => e.1.size != 0).flatMap Prod.snd
    if b.isEmpty then none else some (BitVec.ofNat 8 (b.length + 1) :: (f.drop 1).take 1 ++ b)
  else some f

/-- What names a FIG (R205): type, extension with flags, identifiers; FIG 0/9 and 0/10 have none. -/
def figKey (f : List Byte) : List Byte :=
  BitVec.ofNat 8 (figType f) :: (f.drop 1).take (if figType f = 0 ∧ (figExt f = 9 ∨ figExt f = 10) then 1 else 3)

end Sys2Proof.Machine
end

