-- ==== Sys2Proof/Machine/Demod.lean ====
section
/-! DEFINITION. DAB and DRM lanes (R146 to R170): diversity selection, the FIC, ensembles and services, the depot ring, audio
frames, DLS, MOT, DRM frames. -/
namespace Sys2Proof.Machine

/-- Diversity selection at an OFDM frame (R16, R62, R63): the other input from 1.0 dB better on; an input whose preamble samples
are tainted is ineligible, as is a partner that PAIR has just added. Where both are, the input stays and nothing is
counted. -/
def divSelect (x : Chip) (n : Nat) (f : Fld) (o : DivObs) : Chip :=
  let a := (cfgOf x n).ain
  let bad := fun k => taintMeets x n (branchSpans x n k) o.first o.samples
  if (branches x n).length < 2 ∨ (bad 0 && bad 1) = true then x
  else
    let cur := fget x f
    let new := if bad 0 then 1 else if bad 1 then 0
      else if cur = 0 then (if o.named + 100 ≤ o.partner then 1 else 0)
      else if o.partner + 100 ≤ o.named then 0 else 1
    let b := if new = 0 then a else partner a
    count (fset x f new) (R.AIN_DIV_COUNT b) (F.AIN_STATUS_div_wrap b) 1

/-- Set the tables of a lead. -/
def setLead (x : Chip) (n : Nat) (l : LeadRt) : Chip := setLane x n { laneOf x n with lead := l }

/-- The configuration in force of a lead, with what is known of its components. -/
def configOf (x : Chip) (lead : Nat) : DabConfig :=
  let l := (laneOf x lead).lead
  viewOf l l.config

/-- A supported FIG whose content has changed is published (R155, R205). -/
def figPublish (n stamp : Nat) (x : Chip) (f : List Byte) : Chip :=
  let l := (laneOf x n).lead
  match figOut f with
  | none => x
  | some g =>
    if figSupported f = false ∨ l.published.contains (figKey f, g) = true then x
    else
      publish (setLead x n { l with published := (figKey f, g) :: l.published.filter fun e => e.1 != figKey f }) n 0x0201 g stamp

/-- `LANEn_TUNE` and options of a service lane (R148, R149). -/
def svcEid (x : Chip) (n : Nat) : Nat := (rd x (R.LANE_TUNE n)).toNat / 65536
def svcSid (x : Chip) (n : Nat) : Nat := (rd x (R.LANE_TUNE n)).toNat % 65536
def svcSub (x : Chip) (n : Nat) : Nat := svcSid x n / 1024
def svcPa (x : Chip) (n : Nat) : Nat := svcSid x n % 1024
def svcSel (c : LaneCfg) : Nat := c.opt / 16 % 4
def svcPin (c : LaneCfg) : Bool := decide (c.opt / 256 % 2 = 1)
def svcPinLead (c : LaneCfg) : Nat := c.opt / 512 % 128

/-- The subchannel of a configuration. -/
def subOf (g : DabConfig) (id : Nat) : Option DabSub := g.subs.find? fun b => b.id == id && b.size != 0

/-- The component that subchannel b with packet address pa names (R149): 0 a stream-mode subchannel, else that address of a
packet-mode subchannel; one that no service describes carries data. -/
def compAt (g : DabConfig) (b pa : Nat) : Option DabComp :=
  let fits := fun p : DabComp => p.subch == b && (if pa = 0 then p.packet.isNone else p.packet == some pa)
  if (subOf g b).isNone then none
  else match (g.svcs.flatMap DabService.comps).find? fits with
    | some p => some p
    | none => some ⟨0, b, true, false, true, false, if pa = 0 then none else some pa⟩

/-- The component of a configuration that a service lane selects (R148, R149). -/
def svcComp (x : Chip) (n : Nat) (g : DabConfig) : Option DabComp :=
  let c := cfgOf x n
  if svcSel c = 2 then compAt g (svcSub x n) (svcPa x n)
  else match (listed g).find? fun s => s.sid == svcSid x n with
    | none => none
    | some s => (if svcSel c = 1 then s.comps.find? fun p => p.scids == c.opt % 16 else s.comps.find? fun p => p.primary).bind
        fun p => if (subOf g p.subch).isSome then some p else none

/-- The kind that a component shows before its audio does (R169): packet data, stream data, or none yet. -/
def compKind (p : DabComp) : Nat := if p.packet.isSome then 4 else if p.data then 5 else 0

/-- SVC_MISSING, once for an absence (R154, R167). -/
def svcMissing (x : Chip) (n eid what : Nat) : Chip :=
  let l := laneOf x n
  if l.missingLogged then x
  else raise (setLane x n { l with missingLogged := true }) (srcLane n) 0x24 (b1 n ++ b2 eid ++ b2 what)

/-- The service is there: a later absence is told again. -/
def svcThere (x : Chip) (n : Nat) : Chip := setLane x n { laneOf x n with missingLogged := false }

/-- A lane decodes afresh from ACQ, with no synchronising reset (R148). -/
def decodeAgain (x : Chip) (n : Nat) : Chip :=
  moveState (setLane x n { laneOf x n with heard := false, logical := [], super := none, eaten := none }) n 1

/-- A lane waits (R163): a service lane leaves LOST only through ACQ. -/
def toWait (x : Chip) (n : Nat) : Chip :=
  moveState (if stdOf x n = mSvc ∧ laneState x n = 3 then moveState x n 1 else x) n 4

/-- UNSUPPORTED, once for a selection (R146, R167, R175): the lane waits, muted, and a candidate on it is rejected. -/
def unsupported (x : Chip) (n what : Nat) (f : Fld) : Chip :=
  let l := laneOf x n
  let x1 := if l.unsuppLogged then x
    else laneTold (raise (setLane x n { l with unsuppLogged := true }) (srcLane n) 0x25 (b1 n ++ b1 what)) n
  after (srcLane n) (fun y => tandemFails y n 4) (toWait (fset x1 f 1) n)

/-- Lead l serves a service lane (R152). -/
def leadServes (x : Chip) (n l : Nat) : Bool :=
  runs x l mLead && (laneState x l == 2 && fget x (F.LEAD_eid l) == svcEid x n)

/-- The lead that a service lane may attach to (R152). -/
def leadFor (x : Chip) (n : Nat) : Option Nat :=
  let c := cfgOf x n
  if svcPin c then (if leadServes x n (svcPinLead c) then some (svcPinLead c) else none)
  else allLanes.find? (leadServes x n)

/-- An attached service lane reads the logical CIF that the newest slot completes (R153), with its nominal instant (R156). -/
def svcRead (lead : Nat) (x : Chip) (n : Nat) : Chip :=
  let r := (laneOf x lead).lead
  let l := cifAfter ((r.ring.head?.map CifSlot.cif).getD 0) 4985
  match logicalSlots r.ring l, subOf r.config (fget x (F.SVC_subch_now n)) with
  | some slots, some b =>
    let old := (laneOf x n).logical
    if laneState x n = 4 ∨ old.any (fun e => e.cif == l) = true then x
    else setLane x n { laneOf x n with
      logical := (⟨l, ((slots.head?).map CifSlot.at_).getD 0, logicalBits slots b⟩ :: old).take 5 }
  | _, _ => x

/-- A service lane takes its selection from its lead's configuration (R152 to R154, R163): ACQ, or WAIT where it is not
listed or scrambled. -/
def svcSelect (x : Chip) (n lead : Nat) : Chip :=
  match svcComp x n (configOf x lead) with
  | none => svcMissing (svcBlank (toWait x n) n) n (svcEid x n) (if svcSel (cfgOf x n) = 2 then svcSub x n else svcSid x n)
  | some p =>
    let x1 := fsets (svcThere x n) [(F.SVC_subch_now n, p.subch), (F.SVC_kind n, compKind p)]
    if p.ca then unsupported x1 n 0 (F.SVC_unsupp n)
    else svcRead lead (decodeAgain (fset x1 (F.SVC_unsupp n) 0) n) n

/-- A service lane attaches (R152, R153). -/
def svcAttach (x : Chip) (n lead : Nat) : Chip :=
  let sub := ((svcComp x n (configOf x lead)).map DabComp.subch).getD 0
  let x1 := fset x (F.SVC_lead_now n) lead
  svcSelect (raise x1 (srcLane n) 0x23 (b1 n ++ b1 lead ++ b2 (svcEid x n) ++ b1 sub)) n lead

/-- Attachment evaluated afresh (R152); a service that waits with its lead is looked up again (R163). -/
def svcEval (x : Chip) (n : Nat) : Chip :=
  let lead := fget x (F.SVC_lead_now n)
  if lead ≠ 0x7F ∧ leadServes x n lead = true then
    if laneState x n = 4 ∧ (svcComp x n (configOf x lead)).any (fun p => !p.ca) = true then svcSelect x n lead
    else x
  else
    let x1 := if lead = 0x7F then x else svcDetach lead x n
    match leadFor x1 n with
    | some l => svcAttach x1 n l
    | none => x1

/-- SVC_ATTACH (R152). -/
def execSvcAttach (n : Nat) (s : State) : Outc :=
  .next (if runs s.chip n mSvc then onChip (fun x => svcEval x n) s else s)

/-- `nsvc` follows the tables once they are complete (R155, R169). -/
def showServices (x : Chip) (n : Nat) : Chip :=
  let l := (laneOf x n).lead
  let y := fset x (F.LEAD_nsvc n) (sat 6 (listed (configOf x n)).length)
  if l.complete then (servicesOf y n).foldl svcEval y else x

/-- The multiplex configuration is complete (R155). -/
def ensemble (x : Chip) (n : Nat) : Chip :=
  let l := (laneOf x n).lead
  let svcs := (listed (configOf x n)).length
  let eid := l.eid.getD 0
  let x1 := fsets (setLead x n { l with complete := true })
    [(F.LEAD_eid n, eid), (F.LEAD_nsvc n, sat 6 svcs), (F.LEAD_fic n, 1)]
  raise (moveState x1 n 2) (srcLane n) 0x21 (b1 n ++ b2 eid ++ b1 svcs ++ b2 l.cif)

/-- A change of EId discards what the lead published (R152, R163). -/
def eidChanged (x : Chip) (n : Nat) : Chip :=
  moveState (fsets x [(F.LEAD_eid n, 0), (F.LEAD_nsvc n, 0), (F.LEAD_fic n, 0)]) n 1

/-- A FIB (R155): discarded and counted where its CRC fails; its FIGs enter the tables and are published; at the last of a
transmission frame the tables are looked at. -/
def fibTake (x : Chip) (n : Nat) (o : FibObs) : Chip :=
  let l := (laneOf x n).lead
  let octets := pad 0 32 o.octets
  let ok := crcHolds octets
  let figs := figsOf 30 (octets.take 30)
  let bad := history 96 l.bad96 (!ok)
  let x1 := fset (setLead x n { l with bad96 := bad }) (F.LANE_QUAL_aux n) (percent bad)
  let raw := (cfgOf x n).opt % 2 = 1
  let x2 := if raw then publish x1 n 0x0202 (octets.take 30 ++ b1 (!ok).toNat) o.stamp else x1
  let x3 := if ok then
      let old := (laneOf x2 n).lead
      let new := figs.foldl figTake old
      let y := setLead x2 n new
      let z := if old.complete ∧ new.complete = false then eidChanged y n else y
      addCands (figs.foldl (figPublish n o.stamp) z) n o.cands
    else x2
  let m := (laneOf x3 n).lead
  if o.last = true ∧ m.complete = false ∧ tablesFull m = true then ensemble x3 n
  else if ok then showServices x3 n else x3

/-- FIB_RECEIVED (R150, R155): the FIC is decoded from frame sync on. -/
def execFibReceived (n : Nat) (o : FibObs) (s : State) : Outc :=
  .next (if runs s.chip n mLead = true ∧ (laneOf s.chip n).lead.sync = true then onChip (fun x => fibTake x n o) s else s)

/-- The coach samples from a place on the grid on through the DC block (R106), with the estimate after them. -/
def dcSamples (x : Chip) (n : Nat) : Nat → Int × Int → List (Int × Int) → List (Int × Int) × (Int × Int)
  | _, m, [] => ([], m)
  | k, m, v :: r =>
    let o := dcOut x n (coachTaint x n (gridAt x n k)) m v
    let s := dcSamples x n (k + 1) o.2 r
    (o.1 :: s.1, s.2)

/-- Symbols that follow one another from symbol l of a frame on, through the DC block. -/
def dcSymbols (x : Chip) (n first : Nat) : Nat → Int × Int → List (List (Int × Int)) → List (List (Int × Int)) × (Int × Int)
  | _, m, [] => ([], m)
  | l, m, s :: r =>
    let o := dcSamples x n (first + symStart l) m s
    let t := dcSymbols x n first (l + 1) o.2 r
    (o.1 :: t.1, t.2)

/-- A complete CIF enters the ring of 18 (R40, R62, R106, R150, R151), and the services attached read on (R153). -/
def cifPublish (x : Chip) (n : Nat) (o : CifObs) : Chip :=
  let place := o.place % 4
  let x1 := match o.sel with
    | some d => if place = 0 then divSelect x n (F.LEAD_in n) d else x
    | none => x
  let sel := fget x1 (F.LEAD_in n)
  let ain := (cfgOf x1 n).ain
  let l := (laneOf x1 n).lead
  let d := (laneOf x1 n).dsp
  let w := dcSymbols x1 n o.first (4 + 18 * place) d.dc (o.symbols.map fun s => s.map (coachIn x1 (if sel = 1 then partner ain else ain)))
  let erased := cifErased x1 n sel o.first place
  let slot : CifSlot := ⟨o.cif, cifInstant x1 n o.first place, erased, cifSoft erased l.est w.1⟩
  let x2 := setLead (setDsp x1 n { d with dc := w.2 }) n { l with ring := (slot :: l.ring).take 18 }
  (servicesOf x2 n).foldl (svcRead n) x2

/-- CIF_PUBLISH (R150, R151): from frame sync on. -/
def execCifPublish (n : Nat) (o : CifObs) (s : State) : Outc :=
  .next (if runs s.chip n mLead = true ∧ (laneOf s.chip n).lead.sync = true then onChip (fun x => cifPublish x n o) s else s)

/-- Two subchannels keep start address, size and protection (R154). -/
def subKept (a b : Option DabSub) : Bool :=
  match a, b with
  | some a, some b => a.start == b.start && (a.size == b.size && a.prot == b.prot)
  | _, _ => false

/-- A service lane of a lead meets a new configuration (R154, R167): kept without a gap where its subchannel is, else
concealing and muting from ACQ; scrambled or unlisted, it waits. -/
def svcReconfig (lead : Nat) (old : DabConfig) (x : Chip) (n : Nat) : Chip :=
  let g := configOf x lead
  match svcComp x n g with
  | none => svcSelect x n lead
  | some p =>
    if !p.ca && (laneState x n != 4 && subKept (subOf g p.subch) (subOf old (fget x (F.SVC_subch_now n)))) then
      fset x (F.SVC_subch_now n) p.subch
    else svcSelect (fset x (F.SVC_conceal n) 1) n lead

/-- The configuration announced for a CIF count takes effect (R154). -/
def reconfig (x : Chip) (n cif : Nat) : Chip :=
  let l := (laneOf x n).lead
  let x0 := setLead x n { l with config := l.next, next := ⟨[], []⟩, announced := none }
  let x1 := fset x0 (F.LEAD_nsvc n) (sat 6 (listed (configOf x0 n)).length)
  let x2 := raise x1 (srcLane n) 0x22 (b1 n ++ b2 (l.eid.getD 0) ++ b2 cif)
  after (srcLane n) (fun y => (servicesOf x2 n).foldl (svcReconfig n l.config) y) x2

/-- RECONFIG (R154). -/
def execReconfig (n cif : Nat) (s : State) : Outc :=
  .next (if runs s.chip n mLead = true ∧ (laneOf s.chip n).lead.announced = some cif then onChip (fun x => reconfig x n cif) s
    else s)

/-- The next state of a lead (R155, R163), from its bad frames in a row and its tables. -/
def leadNext (st bads : Nat) (good complete : Bool) : Nat :=
  if st = 2 ∧ 4 ≤ bads then 3 else if (st = 1 ∨ st = 3) ∧ good = true ∧ complete = true then 2 else st

/-- Score of a digital lane in 0.25 dB (R166): min(MER, 60 dB) less 0.4 dB × aux, not below 0; rounded down. -/
def digitalScore (mer aux : Nat) : Nat := (5 * min mer 240 - 8 * aux) / 5

/-- Percentage of the frames failing in a lane's history (R166), 0xFF without any. -/
def failing_ (l : LaneRt) : Nat := if l.errs.isEmpty then 0xFF else percent (l.errs.map Prod.snd)

/-- A service lane's figures (R166): MER and level are its lead's. -/
def svcQual (x : Chip) (n : Nat) : Chip :=
  let lead := fget x (F.SVC_lead_now n)
  let aux := failing_ (laneOf x n)
  let q := if lead < laneCount then rd x (R.LANE_QUAL lead) else resetWord (R.LANE_QUAL 0)
  let mer := getBits q 16 8
  wr x (R.LANE_QUAL n) (qualWord (if aux = 0xFF then 0 else digitalScore mer aux) mer (sext 8 (getBits q 8 8)) aux)

/-- A transmission frame of a lead (R150, R163, R166, R167): LOST on four bad ones in a row, its null symbol not found or MER
below 4 dB; the estimate of timing and frequency follows, but not by a tainted null or phase reference symbol. -/
def leadFrame (x : Chip) (n : Nat) (o : DabObs) : Chip :=
  let r := laneOf x n
  let good := o.null && decide (16 ≤ o.all)
  let bads := if good then 0 else r.bads + 1
  let sync := good || (r.lead.sync && decide (bads < 4))
  let skip := taintMeets x n (usedSpans x n (fget x (F.LEAD_in n))) o.first (nullSamples + symSamples)
  let est := if skip then r.lead.est else Config.refEstimate o.ref
  let x1 := setLane x n { r with bads := bads, lead := { r.lead with sync := sync, est := est } }
  let x2 := wr x1 (R.LANE_QUAL n) (qualWord (min o.all 240) o.mer o.level (fget x (F.LANE_QUAL_aux n)))
  moveState ((servicesOf x2 n).foldl svcQual x2) n (leadNext (laneState x2 n) bads good r.lead.complete)

/-- A service's first good audio frame leaves it (R163). -/
def svcPlays (x : Chip) (n : Nat) : Chip :=
  if laneState x n = 1 ∧ (laneOf x n).heard = true then moveState x n 2 else x

/-- DAB_STATE (R163, R166). -/
def execDabState (n : Nat) (o : DabObs) (s : State) : Outc :=
  .next (if runs s.chip n mLead then onChip (fun x => leadFrame x n o) s
    else if runs s.chip n mSvc then onChip (fun x => svcPlays x n) s
    else s)

/-- A DLS message published and held (R158, R205). -/
def dlsPublish (x : Chip) (n stamp charset toggle : Nat) (text : List Byte) (tags : Nat × List Byte) : Chip :=
  let x1 := fflag (setLane x n { laneOf x n with dls := text }) (F.SVC_dls n) (!text.isEmpty)
  publish x1 n 0x0211 (b1 charset ++ b1 toggle ++ text.take 128 ++ b1 tags.1 ++ tags.2) stamp

/-- The message under assembly for a toggle: that of another toggle is given up. -/
def dlsBufFor (l : LaneRt) (toggle : Nat) : DlsBuf :=
  match l.dlsBuf with
  | some b => if b.toggle = toggle then b else ⟨toggle, 0, [], none, (0, []), false⟩
  | none => ⟨toggle, 0, [], none, (0, []), false⟩

/-- The text of a message whose segments have all come. -/
def dlsText (b : DlsBuf) : Option (List Byte) :=
  b.last.bind fun k => ((List.range (k + 1)).mapM (entryAt b.segs)).map List.flatten

/-- A part of a DLS message (R158): one whose CRC fails is discarded; a message whose segments have all come under one toggle is
published with its tags, and again with tags that come after it; removing the label publishes an empty message. -/
def dlsTake (n stamp : Nat) (x : Chip) (d : DlsIn) : Chip :=
  let l := laneOf x n
  match d with
  | .segment false _ _ _ _ _ | .plus false _ _ _ | .clear false _ => x
  | .segment true toggle num last charset text =>
    let b := dlsBufFor l toggle
    if b.done then x
    else
      let b1 := { b with
        segs := entrySet b.segs num text, last := if last then some num else b.last
        charset := if num = 0 then charset else b.charset }
      match dlsText b1 with
      | some t => dlsPublish (setLane x n { l with dlsBuf := some { b1 with done := true } }) n stamp b1.charset toggle t b1.tags
      | none => setLane x n { l with dlsBuf := some b1 }
  | .plus true toggle k tags =>
    let b := dlsBufFor l toggle
    let y := setLane x n { l with dlsBuf := some { b with tags := (k, tags) } }
    if b.done && b.tags != (k, tags) then dlsPublish y n stamp b.charset toggle l.dls (k, tags) else y
  | .clear true toggle => dlsPublish (setLane x n { l with dlsBuf := none }) n stamp 0 toggle [] (0, [])

/-- `pad_off` of a service lane (R148). -/
def padOff (c : LaneCfg) : Bool := decide (c.opt / 128 % 2 = 1)

/-- What a service lane decodes of its logical CIFs at one time (R153, R156, R203): nominal instant, last CIF used, the CIF with
which its superframe began, units, the octets and status of the compressed unit, `kind`, `sbr`, `ps`. -/
structure SvcFrame where
  at_ : Int
  eaten : Nat
  super : Option Nat
  units : List AudioUnit
  out : CompUnit
  kind : Nat
  sbr : Bool
  ps : Bool

/-- The logical CIFs not used yet, the oldest first. -/
def freshCifs (l : LaneRt) : List LogCif := (l.logical.takeWhile fun e => some e.cif != l.eaten).reverse

/-- A DAB+ superframe (R156, R157): five logical CIFs, found by its Fire code and followed from there; corrected by the
Reed–Solomon code, each access unit checked by its CRC, the whole one bad where the Fire code fails still. -/
def plusFrame (l : LaneRt) (bytes : LogCif → List Byte) : Option SvcFrame :=
  let five := l.logical.reverse
  match five.head? with
  | none => none
  | some e =>
    let follow := (List.range 5).all fun k => (five[k]?).any fun d => d.cif == cifAfter e.cif k
    let raw := five.flatMap bytes
    let due := match l.super with
      | some s => s % 5 == e.cif % 5
      | none => fireHolds raw
    if !follow || (!due || ((freshCifs l).length != 5)) then none
    else
      let r := Config.reedSolomon raw
      let ok := fireHolds r.1
      let units := if ok then dabPlusUnits r.1 else [⟨[], 3, false, 5760, false⟩]
      let bad := units.any fun u => !u.good
      some ⟨e.at_, cifAfter e.cif 4, some e.cif, units, ⟨r.2.toNat + 2 * bad.toNat, r.1⟩, 3, (nth 0 r.1 2).getLsbD 5, (nth 0 r.1 2).getLsbD 3⟩

/-- A Layer II frame (R146, R156, R157): one logical CIF at 48 kHz, two at 24 kHz. -/
def layerFrame (l : LaneRt) (kind : Nat) (bytes : LogCif → List Byte) : Option SvcFrame :=
  match freshCifs l with
  | [] => none
  | e :: rest =>
    let low := if layerHead (bytes e) then layerLow (bytes e) else kind == 2
    let frame := fun (octets : List Byte) (last : Nat) =>
      let u := layerUnit octets
      let v := { u with good := u.good && layerLow octets == low, samples := if low then 2304 else 1152 }
      some ⟨e.at_, last, none, [v], ⟨2 * (!v.good).toNat, octets⟩, if low then 2 else 1, false, false⟩
    if low then
      match rest with
      | d :: _ => frame (bytes e ++ bytes d) d.cif
      | [] => none
    else frame (bytes e) e.cif

/-- What a service lane decodes next (R153, R156): the Viterbi decoder on its subchannel's bits, then what its audio is coded
in. -/
def svcFrame (x : Chip) (n : Nat) : Option SvcFrame :=
  let lead := fget x (F.SVC_lead_now n)
  let l := laneOf x n
  match svcComp x n (configOf x lead) with
  | none => none
  | some p =>
    let prot := ((subOf (configOf x lead) p.subch).map DabSub.prot).getD 0
    let bytes := fun e : LogCif => Config.viterbi prot e.soft
    if p.data || p.packet.isSome then none
    else if p.plus then plusFrame l bytes else layerFrame l (fget x (F.SVC_kind n)) bytes

/-- A lane's audio would be let through but for concealment (R35, R138, R163). -/
def letsAudio (x : Chip) (n : Nat) : Bool := laneState x n == 2 && inputOn x n

/-- A lane's units enter its memory and the depot. -/
def unitsInto (x : Chip) (n window : Nat) (at_ : Int) (l : List AudioUnit) : Chip :=
  setLane x n (unitsTake (nowAt x) (letsAudio x n) window (laneDelay x n) at_ (laneOf x n) l)

/-- A decoded frame failed last (R157, R169). -/
def lastBad (l : List AudioUnit) : Bool := (l.getLast?.map fun u => !u.good).getD false

/-- An audio frame of an attached service lane (R156 to R158, R163, R203): every frame bad for 480 ms loses the service,
which a good one brings back to ACQ. -/
def svcAudio (x : Chip) (n : Nat) (f : SvcFrame) (dls : List DlsIn) : Chip :=
  let stamp := (toTicks f.at_ % 2 ^ 64).toNat
  let x1 := fsets x [(F.SVC_kind n, f.kind), (F.SVC_sbr n, f.sbr.toNat), (F.SVC_ps n, f.ps.toNat)]
  let x2 := unitsInto (setLane x1 n { laneOf x1 n with eaten := some f.eaten, super := f.super }) n 1920000 f.at_ f.units
  let x3 := deliverUnit (svcQual (fset x2 (F.SVC_conceal n) (lastBad f.units).toNat) n) n f.out stamp
  let x4 := if padOff (cfgOf x n) then x3 else dls.foldl (dlsTake n stamp) x3
  if laneState x4 n = 2 ∧ 480000 ≤ (laneOf x4 n).concealUs then
    moveState (setLane x4 n { laneOf x4 n with heard := false }) n 3
  else if laneState x4 n = 3 ∧ f.units.any AudioUnit.good = true then moveState x4 n 1
  else x4

/-- The part of a DRM signal that is unsupported (R146, R168): 1 hierarchical mapping, 2 coding. -/
def drmUnsupp (x : Chip) (n : Nat) : Option Nat :=
  if fget x (F.DRM_qam n) = 3 then some 1 else if fget x (F.DRM_codec n) = 2 then some 2 else none

/-- What a DRM lane's audio decoder is told of the signal (R161): robustness, occupancy, mapping, interleaving, coding,
service. -/
def drmShape (x : Chip) (n : Nat) : List Nat :=
  [fget x (F.DRM_rmode n), fget x (F.DRM_occ n), fget x (F.DRM_qam n), fget x (F.DRM_ilong n), fget x (F.DRM_codec n),
    fget x (F.DRM_svc_now n)]

/-- An audio superframe of a DRM lane (R58, R62, R157, R162, R167, R203): from its cells, those of tainted symbols erased; 400 ms
in modes A to D, 200 ms in mode E; an unsupported signal's only with `raw`, to COMP carriages alone. -/
def drmAudio (x : Chip) (n : Nat) (o : AudioObs) : Chip :=
  let x1 := match o.sel with
    | some d => divSelect x n (F.DRM_in n) d
    | none => x
  let octets := Config.drmSuper (drmShape x1 n) (drmCells x1 n (fget x1 (F.DRM_in n)) (fget x1 (F.DRM_rmode n)) o.cells)
  let at_ := refOf (cfgOf x1 n) (gridAt x1 n o.first)
  let unit : AudioUnit := ⟨octets, 10 + fget x1 (F.DRM_codec n), false, if drmE (cfgOf x1 n) then 9600 else 19200, Config.drmOk octets⟩
  let x2 := if (drmUnsupp x1 n).isSome ∧ (cfgOf x n).opt / 16 % 2 = 0 then x1
    else deliverUnit x1 n ⟨2 * (!unit.good).toNat, octets⟩ (toTicks at_ % 2 ^ 64).toNat
  if laneState x2 n = 4 then x2 else fset (unitsInto x2 n 4000000 at_ [unit]) (F.DRM_conceal n) (!unit.good).toNat

/-- AUDIO_FRAME (R157): a service decodes audio while it is attached and does not wait. -/
def execAudioFrame (n : Nat) (o : AudioObs) (s : State) : Outc :=
  .next (if runs s.chip n mSvc then
      (if fget s.chip (F.SVC_lead_now n) = 0x7F ∨ laneState s.chip n = 4 then s
      else match svcFrame s.chip n with
        | some f => onChip (fun x => svcAudio x n f o.dls) s
        | none => s)
    else if runs s.chip n mDrm then onChip (fun x => drmAudio x n o) s
    else s)

/-- TII_REPORT (R155, R205): up to 8 identifiers with `tii` at 1. -/
def execTiiReport (n : Nat) (ids : List (Nat × Nat × Int)) (stamp : Nat) (s : State) : Outc :=
  .next (if runs s.chip n mLead = true ∧ (cfgOf s.chip n).opt / 2 % 2 = 1 then
      onChip (fun x =>
        let l := ids.take 8
        publish x n 0x0203 (b1 l.length ++ l.flatMap fun e => b1 e.1 ++ b1 e.2.1 ++ leInt 1 e.2.2) stamp) s
    else s)

/-- `sls_off` of a service or DRM lane (R148). -/
def slsOff (c : LaneCfg) : Bool := decide (c.opt / (if c.std = mSvc then 64 else 8) % 2 = 1)

/-- `mot_pend` of a service lane (R169). -/
def showPend (x : Chip) (n : Nat) : Chip :=
  if stdOf x n = mSvc then fflag x (F.SVC_mot_pend n) ((laneOf x n).motDir.any fun e => e.2 == 0) else x

/-- A MOT object dropped (R159). -/
def motDrop (x : Chip) (n tid reason : Nat) : Chip :=
  raise (freeMot x n tid) (srcLane n) 0x27 (b1 n ++ b2 tid ++ b1 reason)

/-- Octets of a header or body that have come. -/
def MotPart.got (p : MotPart) : Nat := (p.segs.map fun e => e.2.length).sum

/-- Octets of an object that have come. -/
def MotObj.got (o : MotObj) : Nat := o.head.got + o.body.got

/-- The octets of a header or body whose segments have all come. -/
def MotPart.whole (p : MotPart) : Option (List Byte) :=
  p.last.bind fun k => ((List.range (k + 1)).mapM (entryAt p.segs)).map List.flatten

/-- A segment joins a header or body. -/
def MotPart.join (p : MotPart) (num : Nat) (last : Bool) (octets : List Byte) : MotPart :=
  ⟨entrySet p.segs num octets, if last then some num else p.last⟩

/-- Octets in the MOT pool. -/
def poolUsed (x : Chip) : Nat := (x.mot.map MotObj.got).sum

/-- Room in the pool of 2 MiB (R159): the oldest incomplete object of the part is dropped; fuel is the number of
objects. -/
def motRoom (x : Chip) : Nat → Chip
  | 0 => x
  | f + 1 =>
    if poolUsed x ≤ 2097152 then x
    else match x.mot.find? fun o => !o.done with
      | some o => motRoom (motDrop x o.lane o.tid 1) f
      | none => x

/-- An object of the pool. -/
def motAt (x : Chip) (n tid : Nat) : Option MotObj := x.mot.find? fun e => e.lane == n && e.tid == tid

/-- An object enters the pool or changes there. -/
def motPut (x : Chip) (o : MotObj) : Chip :=
  if (motAt x o.lane o.tid).isSome then { x with mot := x.mot.map fun d => if d.lane = o.lane ∧ d.tid = o.tid then o else d }
  else { x with mot := x.mot ++ [o] }

/-- The header of an object (R160): its own segments', else its directory's. -/
def motHeader (l : LaneRt) (o : MotObj) : Option (List Byte) :=
  match o.head.whole with
  | some h => some h
  | none => (l.motDir.find? fun e => e.1.tid == o.tid && !e.1.head.isEmpty).map fun e => e.1.head

/-- The entry that a slideshow presents after one (R160): the next complete one in directory order, pending and missing
ones skipped. -/
def slideAfter (dir : List (MotEntry × Nat)) (tid : Nat) : Option Nat :=
  let whole := fun e : MotEntry × Nat => e.2 == 2
  let i := dir.findIdx fun e => e.1.tid == tid
  (((dir.drop (i + 1)) ++ dir.take (i + 1)).find? whole).map fun e => e.1.tid

/-- The slideshow stays on its entry while that is there and complete, and goes to the next one that is (R160). -/
def slideShow (l : LaneRt) : LaneRt :=
  let at_ := fun t => l.motDir.any fun e => e.1.tid == t && e.2 == 2
  match l.slide with
  | some t => if at_ t then l else { l with slide := slideAfter l.motDir t }
  | none => { l with slide := (l.motDir.find? fun e => e.2 == 2).map fun e => e.1.tid }

/-- A complete object is published, and leaves the pool where no carriage takes it (R159, R205); its directory entry counts
as received. -/
def motPublish (x : Chip) (n tid stamp : Nat) : Chip :=
  match motAt x n tid with
  | none => x
  | some o =>
    let l := laneOf x n
    match o.done, motHeader l o, o.body.whole with
    | false, some h, some b =>
      let x1 := motPut (setLane x n { l with
        motDir := l.motDir.map (fun e => if e.1.tid = tid then (e.1, 2) else e)
        motSeen := tid :: l.motSeen.erase tid }) { o with done := true }
      let x2 := publishAs (showPend (setLane x1 n (slideShow (laneOf x1 n))) n) n 0x0212 (b2 tid ++ b4 h.length ++ b4 b.length ++ h ++ b) stamp (some tid)
      let waits := match sideOf x2 n with
        | some c => (carrOf x2 c).queue.any fun q => q.lane == n && q.mot == some tid
        | none => false
      if waits then x2 else freeMot x2 n tid
    | _, _, _ => x

/-- A data group joins its object (R159): an object of more than 450 KiB is dropped. One that is complete and waits to be
delivered stays as it is. -/
def motJoin (x : Chip) (n : Nat) (g : MotObs) : Chip :=
  let old := (motAt x n g.tid).getD ⟨n, g.tid, none, ⟨[], none⟩, ⟨[], none⟩, false⟩
  if old.done then x
  else
    let o := { old with
      size := if g.size.isSome then g.size else old.size
      head := if g.head then old.head.join g.num g.last g.octets else old.head
      body := if g.head then old.body else old.body.join g.num g.last g.octets }
    let x1 := motPut x o
    if 460800 < o.got ∨ 460800 < o.size.getD 0 then motDrop x1 n g.tid 0
    else motPublish (motRoom x1 x1.mot.length) n g.tid g.stamp

/-- A directory (R160): an entry received or already told missing stays so, any other is pending; objects that lacked
their header may now be complete. -/
def motDirectory (x : Chip) (n stamp : Nat) (dir : List MotEntry) : Chip :=
  if dir.isEmpty then x
  else
    let l := laneOf x n
    let status := fun e : MotEntry =>
      if l.motSeen.contains e.tid then 2 else ((l.motDir.find? fun d => d.1.tid == e.tid).map Prod.snd).getD 0
    dir.foldl (fun y e => motPublish y n e.tid stamp)
      (showPend (setLane x n (slideShow { l with motDir := dir.map fun e => (e, status e) })) n)

/-- A lane takes MOT data groups (R148, R159): not with `sls_off`, nor those that come in PAD with `pad_off`. -/
def motTakes (x : Chip) (n : Nat) : Bool :=
  let c := cfgOf x n
  (runs x n mSvc || runs x n mDrm) && (!slsOff c && !(c.std == mSvc && (padOff c && fget x (F.SVC_kind n) != 4)))

/-- MOT_DATA_GROUP (R159, R160). -/
def execMotDataGroup (n : Nat) (o : MotObs) (s : State) : Outc :=
  .next (if motTakes s.chip n then
      onChip (fun x => motJoin (motDirectory x n o.stamp o.dir) n o) s
    else s)

/-- MOT_IDLE_TIMEOUT (R159). -/
def execMotIdleTimeout (n tid : Nat) (s : State) : Outc :=
  .next (if s.chip.mot.any (fun o => o.lane == n && (o.tid == tid && !o.done)) then
      onChip (fun x => motDrop x n tid 2) s
    else s)

/-- A directory entry reported missing, once (R160, R205). -/
def motMissing (x : Chip) (n stamp : Nat) (e : MotEntry) : Chip :=
  let l := laneOf x n
  let x1 := setLane x n { l with motDir := l.motDir.map fun d => if d.1.tid = e.tid then (d.1, 1) else d }
  raise (publish (showPend x1 n) n 0x0213 (b2 e.tid ++ e.name) stamp) (srcLane n) 0x26 (b1 n ++ b2 e.tid)

/-- MOT_MISSING (R160). -/
def execMotMissing (n tid stamp : Nat) (s : State) : Outc :=
  .next (match (laneOf s.chip n).motDir.find? fun e => e.1.tid == tid && e.2 == 0 with
    | some e => if n < laneCount then onChip (fun x => motMissing x n stamp e.1) s else s
    | none => s)

/-- The next state of a DRM lane (R163), from the FAC's failures in a row and what it has decoded. -/
def drmNext (st bads : Nat) (absent ready : Bool) : Nat :=
  if 5 ≤ bads then 3 else if absent then 4 else if st = 4 then 1 else if ready then 2 else st

/-- The service of a DRM lane is absent, or there again. -/
def drmService (x : Chip) (n svc : Nat) (absent : Bool) : Chip :=
  if absent then svcMissing x n 0 svc else svcThere x n

/-- A DRM transmission frame (R161, R163, R166, R167): the FAC in every one, the SDC at the start of every superframe of 3
frames, in mode E 4; a change that the FAC announces comes nearer. A lane that waits has heard nothing. -/
def drmFrame (x : Chip) (n : Nat) (o : DrmObs) : Chip :=
  let l := laneOf x n
  let bads := if o.fac then 0 else l.bads + 1
  let first := o.index % (if drmE (cfgOf x n) then 4 else 3) == 0
  let svc := (cfgOf x n).opt / 32 % 4
  let aux := failing_ l
  let lost := decide (5 ≤ bads)
  let sdc := if lost then false else if first then o.sdc else fon x (F.DRM_sdc n)
  let x1 := setLane x n { l with
    bads := bads, fac := o.fac, heard := l.heard && (!lost && laneState x n != 4)
    change := if o.fac then o.change else l.change.bind fun k => if k = 0 then none else some (k - 1) }
  let x2 := wr x1 (R.LANE_QUAL n) (qualWord (digitalScore o.all (if aux = 0xFF then 0 else aux)) o.mer o.level aux)
  let x3 := fsets x2 [(F.DRM_sdc n, sdc.toNat), (F.DRM_svc_now n, svc), (F.DRM_unsupp n, (drmUnsupp x n).isSome.toNat)]
  match drmUnsupp x n with
  | some k => unsupported x3 n k (F.DRM_unsupp n)
  | none =>
    let absent := o.fac && !o.present
    let x4 := moveState x3 n (drmNext (laneState x3 n) bads absent (o.fac && (sdc && l.heard)))
    if o.fac then drmService x4 n svc absent else x4

/-- DRM_STATE (R163). -/
def execDrmState (n : Nat) (o : DrmObs) (s : State) : Outc :=
  .next (if runs s.chip n mDrm then onChip (fun x => drmFrame x n o) s else s)

/-- The robustness mode is one that the lane looks for (R146, R148, R161): E above 47 MHz, elsewhere the one that `rmode`
names, or any of A to D. -/
def drmModeOk (c : LaneCfg) (rmode : Nat) : Bool :=
  let set := c.opt % 8
  if drmE c then rmode == 5
  else if 1 ≤ set ∧ set ≤ 4 then rmode == set
  else decide (1 ≤ rmode) && decide (rmode ≤ 4)

/-- The parts of a DRM signal that a lane supports (R146): occupancy 0 to 5 in modes A to D, 0 in mode E; 16-QAM, 64-QAM and, known
as unsupported, its hierarchical forms in modes A to D, 4-QAM and 16-QAM in mode E. -/
def drmSignalOk (rmode occ qam : Nat) : Bool :=
  if rmode = 5 then occ == 0 && decide (qam ≤ 1) else decide (occ ≤ 5) && decide (1 ≤ qam)

/-- DRM_PARAM (R161): a change that was not announced for this frame loses sync. -/
def drmParam (x : Chip) (n rmode occ qam ilong codec : Nat) : Chip :=
  let l := [(F.DRM_rmode n, rmode), (F.DRM_occ n, occ), (F.DRM_qam n, qam), (F.DRM_ilong n, ilong)]
  let x1 := fset (fsets x l) (F.DRM_codec n) codec
  if l.all fun e => fget x e.1 == fget x1 e.1 then x1
  else
    let x2 := raise x1 (srcLane n) 0x29 (b1 n ++ b1 rmode ++ b1 occ ++ b1 qam ++ b1 ilong)
    if (laneOf x n).change = some 0 then setLane x2 n { laneOf x2 n with change := none } else decodeAgain x2 n

/-- DRM_PARAM (R146, R161). -/
def execDrmParam (n rmode occ qam : Nat) (ilong : Bool) (codec : Nat) (s : State) : Outc :=
  .next (if runs s.chip n mDrm = true ∧ drmModeOk (cfgOf s.chip n) (rmode % 8) = true ∧
      drmSignalOk (rmode % 8) (occ % 8) (qam % 4) = true then
      onChip (fun x => drmParam x n (rmode % 8) (occ % 8) (qam % 4) ilong.toNat (codec % 8)) s
    else s)

/-- Bits in whole octets, the first the most significant, padded with zeros; fuel is their number. -/
def packBits : Nat → List Bool → List Byte
  | 0, _ => []
  | _, [] => []
  | f + 1, l => BitVec.ofNat 8 ((pad false 8 l).foldl (fun a b => 2 * a + b.toNat) 0) :: packBits f (l.drop 8)

/-- X-PAD applications that are decoded: dynamic label and MOT, as EN 300 401 numbers them (PRESUMED). -/
def padDecoded (app : Nat) : Bool := app == 2 || (app == 3 || (app == 12 || app == 13))

/-- The record that a lane publishes outside the commands of its mode, where it may (R146, R148, R158, R162, R205): packet and stream
data of an attached service of that kind, X-PAD that is not decoded with `pad_off` at 0, FAC, SDC and text of a DRM lane, its
raw streams with `raw`. -/
def sideRecord (x : Chip) (n : Nat) (r : SideIn) : Option (Nat × List Byte) :=
  let opt := (cfgOf x n).opt
  let svc := runs x n mSvc && (fget x (F.SVC_lead_now n) != 0x7F && laneState x n != 4)
  let drm := runs x n mDrm
  let kind := fget x (F.SVC_kind n)
  let pa := ((svcComp x n (configOf x (fget x (F.SVC_lead_now n)))).bind DabComp.packet).getD 0
  match r with
  | .packet g => if svc && kind == 4 then some (0x0214, b1 (fget x (F.SVC_subch_now n)) ++ b2 pa ++ g) else none
  | .stream l => if svc && kind == 5 then some (0x0215, b1 (fget x (F.SVC_subch_now n)) ++ l) else none
  | .xpad app l => if svc && (opt / 128 % 2 == 0 && !padDecoded app) then some (0x0216, b1 app ++ l) else none
  | .fac bits => if drm then some (0x0301, packBits bits.length bits) else none
  | .sdc e l => if drm then some (0x0302, b1 e ++ l) else none
  | .text l => if drm then some (0x0303, l) else none
  | .raw k l => if drm && opt / 16 % 2 == 1 then some (0x0304, b1 k ++ l) else none

/-- SIDE_RECORD (R174, R204, R205): a record that a lane publishes outside the commands of its mode, with the candidates
it names. -/
def execSideRecord (n : Nat) (r : SideIn) (stamp : Nat) (cands : List CandIn) (s : State) : Outc :=
  .next (match sideRecord s.chip n r with
    | some (type, payload) => if dUp s.chip then onChip (fun x => addCands (publish x n type payload stamp) n cands) s else s
    | none => s)

end Sys2Proof.Machine
end

