-- ==== Sys2Proof/Machine/Bist.lean ====
section
/-! DEFINITION. Self-test and spare lanes (R19, R20, R426 to R440): lane tests in place, migrations to a spare, failed
lanes, spares and capacity, coach and splitter tests, the BIST commands, LANE resets (R353, R354). -/
namespace Sys2Proof.Machine

/-- What BIST_REPORT tells of a lane not tested since the start. -/
def reportReset (_ : Nat) : LaneReport := ⟨false, false, 0, none⟩

/-- The report of lane n. -/
def reportOf (x : Chip) (n : Nat) : LaneReport := smGet reportReset x.bist.reports n

/-- `BIST_STATUS` in a phase (R439). -/
def bistPhase (x : Chip) (phase lane dest : Nat) : Chip :=
  fsets x [(F.BIST_STATUS_busy, min phase 1), (F.BIST_STATUS_phase, phase), (F.BIST_STATUS_lane, lane),
    (F.BIST_STATUS_dest, dest)]

/-- Lanes that have failed. -/
def failedCount (x : Chip) : Nat := (allLanes.filter (failed x)).length

/-- Lanes that are spare (R20). -/
def spareCount (x : Chip) : Nat := (allLanes.filter (spareNow x)).length

/-- `BIST_SPARES` and the lane counts follow the lanes (R439). -/
def bistCounts (x : Chip) : Chip :=
  let x1 := laneCounts x
  fsets x1 [(F.BIST_SPARES_spares, spareCount x1), (F.BIST_SPARES_failed, failedCount x1)]

/-- The schedule is paused outside ACTIVE and during the early warning (R427). -/
def bistPaused (x : Chip) : Bool := pstate x != 0 || fon x F.SUP_STATUS_ew

/-- `BIST_STATUS.paused` follows. -/
def bistPauseShow (x : Chip) : Chip := fflag x F.BIST_STATUS_paused (bistPaused x)

/-- The LANE reset of one lane (R353, R354): SRAM cleared, lane reloaded and restarted with a synchronising reset. -/
def laneDomainReset (x : Chip) (n cause : Nat) : Chip :=
  after srcGen (fun y => laneStart y n) (raise (laneStop x n) srcGen 0x03 (b1 n ++ b1 cause))

/-- A LANE reset held for a lane is made (R358, R437). -/
def releaseGo (x : Chip) (n : Nat) : Chip :=
  if n ∈ x.bist.heldGo then
    let x1 := { x with bist := { x.bist with heldGo := x.bist.heldGo.erase n } }
    fset (laneDomainReset x1 n 0) F.GEN_RESET_lane_go 0
  else x

/-- LANE_GO (R353, R356, R358, R437): a LANE reset of the lane named, held while that lane migrates or is under test. -/
def laneGo (x : Chip) (n : Nat) : Chip :=
  let x1 := fset x F.GEN_RESET_lane n
  if laneCount ≤ n then x1
  else if partRuns x1 = false ∨ 1 < pstate x1 then badLaneWrite x1 n R.GEN_RESET (n * 256 + 4)
  else if laneHeld x1 n then
    fset { x1 with bist := { x1.bist with heldGo := x1.bist.heldGo ++ [n] } } F.GEN_RESET_lane_go 1
  else laneDomainReset x1 n 0

/-- LANE_GO (R356): a `lane_go` that still reads 1 takes no further write. -/
def execLaneGo (n : Nat) (s : State) : Outc :=
  .next (if mgmtUp s.chip && !fon s.chip F.GEN_RESET_lane_go then onChip (fun x => laneGo x (n % 128)) s else s)

/-- A lane loses the settings it held and takes a mode (R17, R428). A service that it carried is elsewhere, attached as
before: nothing detaches. -/
def vacate (x : Chip) (n std : Nat) : Chip :=
  let x1 := laneStop (if stdOf x n = mSvc then fset x (F.SVC_lead_now n) 0x7F else x) n
  let x2 := (stagedAddrs n).foldl (fun y a => wr y a (resetWord a)) x1
  discardStaged (fset x2 (F.LANE_MODE_std n) std) n

/-- A lane's new number after a move. -/
def moved (old new n : Nat) : Nat := if n = old then new else n

/-- A map whose key has moved. -/
def moveKey {α : Type} (old new : Nat) (m : SMap α) : SMap α :=
  m.foldl (fun a e => smInsert (moved old new e.1) e.2 a) []

/-- A follow record that names a moved lane. -/
def moveCands (old new : Nat) (r : Follow) : Follow :=
  { r with cands := r.cands.map fun c => { c with lane := moved old new c.lane, lead := moved old new c.lead } }

/-- A lane's service, lead and tandem links follow a programme to its new lane (R152, R177, R429). -/
def moveLinks (old new : Nat) (x : Chip) (k : Nat) : Chip :=
  let x1 := if stdOf x k = mSvc ∧ fget x (F.SVC_lead_now k) = old then fset x (F.SVC_lead_now k) new else x
  let w := rd x1 (R.LANE_MODE k)
  let x2 := if stdOf x1 k = mSvc ∧ w.getLsbD 24 = true ∧ getBits w 25 7 = old then
      superWrite x1 ⟨R.LANE_MODE k, 25, 7⟩ new else x1
  if fon x2 (F.LANE_TANDEM_en k) = true ∧ fget x2 (F.LANE_TANDEM_primary k) = old then
    superWrite x2 (F.LANE_TANDEM_primary k) new else x2

/-- What is kept by lane number goes with a programme to its new lane (R186, R429, R433). -/
def moveLane (x : Chip) (old new : Nat) : Chip :=
  let x1 := { x with
    follows := moveKey old new (x.follows.map fun e => (e.1, moveCands old new e.2)),
    ownedLeads := x.ownedLeads.map (moved old new), lines := moveKey old new x.lines,
    mot := x.mot.map fun o => { o with lane := moved old new o.lane }
    carr := x.carr.map fun e =>
      (e.1, { e.2 with queue := e.2.queue.map fun q => { q with lane := moved old new q.lane } }) }
  allLanes.foldl (moveLinks old new) x1

/-- A handover of the lane's programme is under way, which a migration waits for (R187). -/
def migWaits (x : Chip) (n : Nat) : Bool := fon x (F.LANE_TANDEM_busy n)

/-- The destination of a migration (R428): the lowest SPARE lane, else the lowest OFF lane, neither failed nor under
test. -/
def migDest (x : Chip) : Option Nat :=
  let ok := fun std n => stdOf x n == std && !failed x n && !(x.bist.test.map LaneTest.lane == some n)
  match allLanes.find? (ok mSpare) with
  | some n => some n
  | none => allLanes.find? (ok mOff)

/-- The destination's `ofs` (R430). -/
def migOfs (x : Chip) (src dst : Nat) : Int :=
  let o := sext 18 (fget x (F.LANE_PHASE_ofs src))
  let v := if fon x (F.LANE_PHASE_comp src) then o else o + ((src % 8 : Nat) - (dst % 8 : Nat) : Int) * 8192
  if 131071 < v then v - 65536 else if v < -131072 then v + 65536 else v

/-- Audio modes, whose migrations cross-fade (R429). -/
def audioMode (std : Nat) : Bool := std == mFm || std == mAm || std == mSvc || std == mDrm

/-- A migration starts (R429, R430): settings copied with the phase adjusted, the destination reset. Its bindings and
tandem links follow at MIG_DONE. -/
def migStart (x : Chip) (src dst : Nat) : Chip :=
  let former := stdOf x dst
  let x1 := bistPhase (raise x srcBist 0x01 (b1 src ++ b1 dst ++ b1 (stdOf x src))) 1 src dst
  let ofs := migOfs x1 src dst
  let x2 := stagedOffs.foldl (fun y o => if o = 0x20 ∨ o = 0x2C then y else superStaged y dst (stdOf x1 src) o (rd y (laneBase src + o))) x1
  let x3 := superWrite x2 (F.LANE_PHASE_ofs dst) (tcomp 18 ofs)
  let x4 := { x3 with bist := { x3.bist with mig := some ⟨src, dst, former, false, x3.tm.ticks, lastRef x1 srcBist⟩ } }
  bistCounts (after srcBist (fun y => laneStart (capJoin y dst (cfgOf y dst)) dst) x4)

/-- A lane test starts, with a LANE reset of cause 1 (R426). -/
def testStart (x : Chip) (n : Nat) (second : Bool) (retest : Option Nat) : Chip :=
  let x1 := { x with bist := { x.bist with test := some ⟨n, second, retest⟩ } }
  bistPhase (laneDomainReset x1 n 1) 2 n 0x7F

/-- A BIST command whose work has begun ends with a status (R436). -/
def cmdEnds (x : Chip) (status : Nat) : Chip :=
  match x.bist.cmd with
  | some c => if c.left.isEmpty then
      { x with bist := { x.bist with cmd := some { c with ended := true, status := status } } } else x
  | none => x

/-- A lane tested as the schedule tests it (R427, R428): in place where SPARE or OFF, else after a migration; skipped
without a destination. -/
def runLane (x : Chip) (n : Nat) : Chip :=
  if stdOf x n = mOff ∨ stdOf x n = mSpare then testStart x n false none
  else match migDest x with
    | some d => migStart x n d
    | none => cmdEnds (fset (raise x srcBist 0x06 (b1 n ++ b1 0)) F.BIST_STATUS_no_dest 1) stAborted

/-- Nothing of self-test runs. -/
def bistIdle (x : Chip) : Bool := x.bist.mig.isNone && x.bist.test.isNone

/-- The first lane from n upward, wrapping, that has not failed (R427). -/
def healthyFrom (x : Chip) (n : Nat) : Option Nat :=
  ((List.range laneCount).map fun k => (n + k) % laneCount).find? fun k => !failed x k

/-- The lane that a BIST command waits to test, with its code. -/
def cmdWaits (x : Chip) : Option (Nat × Nat) :=
  match x.bist.cmd with
  | some c => match c.left with
    | [n] => if (c.code = 0x30 ∨ c.code = 0x33) ∧ c.ended = false then some (n, c.code) else none
    | _ => none
  | none => none

/-- A command's lane test begins. -/
def cmdBegin (x : Chip) (n code : Nat) : Chip :=
  let x1 := { x with bist := { x.bist with cmd := x.bist.cmd.map fun c => { c with left := [] } } }
  if code = 0x33 then testStart x1 n false (some 0) else runLane x1 n

/-- A command's lane test begins where nothing else runs and no handover is waited for. -/
def cmdTurn (x : Chip) : Chip :=
  match cmdWaits x with
  | some (n, code) => if bistIdle x && !migWaits x n then cmdBegin x n code else x
  | none => x

/-- The schedule's turn (R427): a waiting command first, else lane `next`, which advances. -/
def bistTurn (x : Chip) : Chip :=
  if (cmdWaits x).isSome then cmdTurn x
  else if bistIdle x && (fon x F.BIST_CTRL_en && !bistPaused x) then
    match healthyFrom x (fget x F.BIST_SPARES_next) with
    | some n =>
      if migWaits x n then x
      else runLane (fset x F.BIST_SPARES_next ((healthyFrom x ((n + 1) % laneCount)).getD n)) n
    | none => x
  else x

/-- BIST_SCHEDULE (R427). -/
def execBistSchedule (s : State) : Outc :=
  .next (if partRuns s.chip then onChip (fun x => bistTurn (bistPauseShow x)) s else s)

/-- A migrating programme's follow record enters or leaves its fade (R187, R429). -/
def migFade (x : Chip) (p : Nat) (f : Option Fade) : Chip :=
  match followOf x p with
  | some r => setFollow x p { r with fading := f }
  | none => x

/-- The state copied at a state point and caught up (R429): in an audio mode the cross-fade begins, unless the lane is a
warm tandem. -/
def migCopy (x : Chip) (m : Mig) : Chip :=
  let x0 := laneStateSet x m.dst (laneState x m.src)
  let x1 := setLane x0 m.dst { laneOf x m.src with told := (laneOf x0 m.dst).told }
  let x2 := wr (wr x1 (R.LANE_STATUS m.dst) (rd x (R.LANE_STATUS m.src))) (R.LANE_QUAL m.dst) (rd x (R.LANE_QUAL m.src))
  let x3 := { x2 with bist := { x2.bist with mig := some { m with copied := true } } }
  if audioMode (stdOf x m.src) && (candsOn x m.src).isEmpty then
    let e := match followOf x m.src with
      | some r => effScore x r m.src
      | none => (fget x (F.LANE_QUAL_score m.src) : Int)
    let x4 := migFade (setBusy (setBusy x3 m.src (some m.dst)) m.dst (some m.src)) m.src (some ⟨0xFF, 3, x.tm.stime, none⟩)
    because m.ref (fun y => raise y srcMgmt 0x46 (b1 m.src ++ b1 0xFF ++ i2 e ++ i2 e ++ b1 3)) x4
  else x3

/-- MIG_STATE_COPY (R429). -/
def execMigStateCopy (s : State) : Outc :=
  .next (match s.chip.bist.mig with
    | some m => if m.copied then s else onChip (fun x => migCopy x m) s
    | none => s)

/-- The cross-fade of a migration ends (R186, R187, R429): handover record, count, event. -/
def migFaded (x : Chip) (m : Mig) (stamp : Nat) : Chip :=
  if audioMode (stdOf x m.dst) && fon x (F.LANE_TANDEM_busy m.src) then
    let r := followOf x m.dst
    let line := (r.map Follow.lineNow).getD 0
    let gain := (r.map Follow.gain).getD 0
    let x1 := setBusy (setBusy x m.src none) m.dst none
    let x2 := match r with
      | some f => setFollow x1 m.dst { f with
          handovers := f.handovers + 1, lastDone := some x.tm.ticks, fading := none }
      | none => x1
    let x3 := publish x2 m.dst 0x0501
      (handoverRecord m.src m.dst 0xFF (stdOf x m.dst) (laneKhz x m.dst) 0 line gain) stamp
    let x4 := setCause (raise x3 srcMgmt 0x47 (b1 m.src ++ b1 m.dst ++ leInt 4 line)) .follow
    match r.bind Follow.fading with
    | some f => match f.endReason with
      | some e => followEnd x4 m.dst e
      | none => x4
    | none => x4
  else x

/-- A migration completes (R186, R429): the programme is on the destination, the source becomes what the destination was
and is tested. -/
def migDone (x : Chip) (m : Mig) (stamp : Nat) : Chip :=
  let tandem := rd x (R.LANE_TANDEM m.src)
  let c := cfgOf x m.src
  let x3 := moveCaptured m.src m.dst (fun y =>
    superWord (migFaded (moveLane (moveBindings y m.src m.dst) m.src m.dst) m stamp) (tandemFields m.dst) tandem) x
  let x4 := vacate (capLeave x3 c) m.src m.former
  let x5 := bistCounts { x4 with bist := { x4.bist with mig := none } }
  let ms := (x.tm.ticks - m.start).toNat * 1000 / 32768
  let x6 := raise x5 srcBist 0x02 (b1 m.src ++ b1 m.dst ++ b2s ms)
  after srcBist (fun y => testStart (releaseGo y m.src) m.src false none) x6

/-- MIG_DONE (R429): after the state was copied. -/
def execMigDone (stamp : Nat) (s : State) : Outc :=
  .next (match s.chip.bist.mig with
    | some m => if m.copied then onChip (fun x => migDone x m stamp) s else s
    | none => s)

/-- A migration is abandoned (R431, R437): the programme stays on the source, the destination returns to its former
mode, and is tested at once after a depot fault. -/
def migAbort (x : Chip) (m : Mig) (reason : Nat) : Chip :=
  let faded := fon x (F.LANE_TANDEM_busy m.src)
  let x1 := if faded then setBusy (setBusy x m.src none) m.dst none else x
  let x2 := if faded then migFade x1 m.src none else x1
  let x3 := vacate (capLeave x2 (cfgOf x2 m.dst)) m.dst m.former
  let x4 := bistCounts { x3 with bist := { x3.bist with mig := none } }
  let x5 := releaseGo (releaseHeld x4 m.src) m.src
  let x6 := bistPhase (raise x5 srcBist 0x03 (b1 m.src ++ b1 m.dst ++ b1 reason)) 0 0x7F 0x7F
  let ended := (followOf x m.src).bind fun r => r.fading.bind Fade.endReason
  let x7 := match ended with
    | some e => if faded then followEnd x6 m.src e else x6
    | none => x6
  if reason = 2 then testStart x7 m.dst false none else cmdEnds x7 stAborted

/-- MIG_ABORT (R431, R437): limit, state or reset, or a depot fault on the destination. -/
def execMigAbort (reason : Nat) (s : State) : Outc :=
  .next (match s.chip.bist.mig with
    | some m => onChip (fun x => migAbort x m (min reason 2)) s
    | none => s)

/-- Spares beyond max(0, 8 - F) return to OFF, highest-numbered first (R433). -/
def trimSpares (x : Chip) : Chip :=
  let sp := (allLanes.filter fun n => stdOf x n == mSpare && !failed x n).reverse
  (sp.take (sp.length - (8 - failedCount x))).foldl (fun y n => superWrite y (F.LANE_MODE_std n) mOff) x

/-- `GEN_CAPACITY` by the failed lanes (R433, R434). -/
def capacityNow (x : Chip) : Chip :=
  let new := 96 - (failedCount x - 8)
  let old := fget x F.GEN_CAPACITY_lanes
  let x1 := fflag x F.BIST_STATUS_cap_low (decide (new < 96))
  if new = old then x1
  else setCause (raise (fset x1 F.GEN_CAPACITY_lanes new) srcBist 0x07 (b1 old ++ b1 new)) .bist

/-- A lane taken from its candidates, which return to LISTED. -/
def dropCands (x : Chip) (n : Nat) : Chip :=
  (candsOn x n).foldl (fun y e => updCand y e.1 { e.2 with
    state := caListed, lane := 0x7F, lead := 0x7F, delta := none, verified := false, aligned := false }) x

/-- A lane set OFF by management (R12, R187, R434). -/
def laneOff (x : Chip) (n : Nat) : Chip :=
  let x1 := if n ∈ x.bist.parked.map Prod.fst then
      { x with bist := { x.bist with parked := smErase n x.bist.parked } }
    else x
  let x2 := unlinkTandem (dropCands (followEnd x1 n 2) n) n
  let x3 := setBusy (superWord x2 (tandemFields n) 0) n none
  if failed x3 n then bistCounts x3 else bistCounts (manageLane x3 n 0 (rd x3 (R.LANE_TUNE n)) (fget x3 (F.LANE_INPUT_sb n)))

/-- The lanes whose number must fit `GEN_CAPACITY` (R433, R434): those assigned and those whose configuration waits to
be moved. -/
def loadedLanes (x : Chip) : List Nat := allLanes.filter fun n => assigned x n || (x.bist.parked.map Prod.fst).contains n

/-- The lanes that feed a carriage (R434): by audio binding, or named by `CARRc_SRC` of a COMP or IQ carriage. -/
def feeders (x : Chip) (lanes : List Nat) (c : Nat) : List Nat :=
  lanes.filter fun n =>
    (fon x (F.LANE_CARR_width n) && fget x (F.LANE_CARR_aud n) == c) ||
      ((carrType x c == tComp || carrType x c == tIq) && fget x (F.CARR_SRC_lane_lo c) == n)

/-- The carriage that R434 takes next: enabled, not shed, fed by a lane, lowest `prio`, highest id among equals. -/
def capVictim (x : Chip) (lanes : List Nat) : Option Nat :=
  (List.range 256).foldl (fun a c =>
    if fon x (F.CARR_CFG_en c) && ((carrOf x c).shed.isNone && !(feeders x lanes c).isEmpty) then
      match a with
      | none => some c
      | some b => if fget x (F.CARR_CFG_prio c) ≤ fget x (F.CARR_CFG_prio b) then some c else some b
    else a) none

/-- A lane dropped (R434). -/
def dropLane (c : Nat) (x : Chip) (n : Nat) : Chip := raise (laneOff x n) srcBist 0x08 (b1 n ++ b1 c)

/-- Lanes freed until the number fits (R434): pool lanes, then lanes of a carriage, then the highest. -/
def dropLoop (x : Chip) : Nat → Chip
  | 0 => x
  | f + 1 =>
    let l := loadedLanes x
    if l.length ≤ fget x F.GEN_CAPACITY_lanes then x
    else match (l.filter (isPool x)).getLast? with
      | some n => dropLoop (dropLane 0xFF x n) f
      | none => match capVictim x l with
        | some c => dropLoop ((feeders x l c).foldl (dropLane c) (carrShed x c 1)) f
        | none => match l.getLast? with
          | some n => dropLoop (dropLane 0xFF x n) f
          | none => x

/-- Spares and capacity after lanes failed or returned (R433, R434). -/
def sparesNow (x : Chip) : Chip := after srcBist (fun y => dropLoop y 104) (capacityNow (bistCounts (trimSpares x)))

/-- A lane becomes failed (R432, R433): a configuration that it held waits to be moved. -/
def markFailed (x : Chip) (n cause sig : Nat) : Chip :=
  let w := rd x (R.LANE_MODE n)
  let x1 := if stdOf x n = mOff ∨ stdOf x n = mSpare then x
    else { x with bist := { x.bist with parked := smInsert n w x.bist.parked } }
  let x2 := setCause (raise (fset x1 F.BIST_STATUS_fail_new 1) srcBist 0x05 (b1 n ++ b1 cause ++ b4 sig)) .bist
  let x3 := after srcBist (fun y => capLeave (laneStop y n) (cfgOf y n)) x2
  superWrite (fset x3 ((F.BIST_FAILED_f (n / 32)).bit (n % 32)) 1) (F.LANE_MODE_std n) mSpare

/-- A failed lane returns to service (R432): spare, or OFF where 8 spares are held. -/
def unfail (x : Chip) (n : Nat) : Chip :=
  let held := spareCount x
  let x1 := fset x ((F.BIST_FAILED_f (n / 32)).bit (n % 32)) 0
  sparesNow (superWrite x1 (F.LANE_MODE_std n) (if held < 8 then mSpare else mOff))

/-- A lane test ends without a further one (R426, R437): held settings and a held LANE reset act. -/
def testFree (x : Chip) (n : Nat) : Chip :=
  let x1 := bistPhase { x with bist := { x.bist with test := none } } 0 0x7F 0x7F
  releaseGo (releaseHeld x1 n) n

/-- A lane test passed: its report and event (R432, R436, R438). -/
def testPassed (x : Chip) (n sig : Nat) : Chip :=
  let r := reportOf x n
  let x1 := { x with bist := { x.bist with
    reports := smPut reportReset x.bist.reports n ⟨true, false, r.passes + 1, some x.tm.ticks⟩ } }
  raise x1 srcBist 0x04 (b1 n ++ b4 sig)

/-- A lane test failed: its report. -/
def testFailed (x : Chip) (n : Nat) : Chip :=
  let r := reportOf x n
  { x with bist := { x.bist with reports := smPut reportReset x.bist.reports n { r with tested := true, fail := true } } }

/-- A lane test ends (R426, R432): a first mismatch is tested again at once, a second fails the lane; two passes in
succession return a failed lane. -/
def testDone (x : Chip) (t : LaneTest) (sig : Nat) (pass : Bool) : Chip :=
  let n := t.lane
  let x1 := count x R.BIST_RUN_COUNT F.BIST_STATUS_run_wrap 1
  let x2 := fflag (fset x1 F.BIST_LAST_lane n) F.BIST_LAST_fail (!pass)
  let x3 := if pass then testPassed x2 n sig else testFailed x2 n
  match t.retest with
  | some k =>
    if pass && k == 0 then testStart x3 n false (some 1)
    else cmdEnds (let x4 := testFree x3 n; if pass then unfail x4 n else x4) stOk
  | none =>
    if pass then cmdEnds (testFree x3 n) stOk
    else if t.second then cmdEnds (sparesNow (markFailed (testFree x3 n) n 0 sig)) stOk
    else testStart x3 n true none

/-- LANE_TEST_DONE (R426, R432). -/
def execLaneTestDone (sig : Word) (pass : Bool) (s : State) : Outc :=
  .next (match s.chip.bist.test with
    | some t => onChip (fun x => testDone x t sig.toNat pass) s
    | none => s)

/-- A coach or splitter test runs. -/
def unitCmd (x : Chip) : Option BistCmd :=
  match x.bist.cmd with
  | some c => if (c.code = 0x31 ∨ c.code = 0x32) ∧ c.ended = false then some c else none
  | none => none

/-- How many units are tested at once (R435). -/
def unitsAtOnce (code : Nat) : Nat := if code = 0x32 then 2 else 4

/-- The busy bits of the units under test (R435, R440). -/
def unitsBusy (x : Chip) (code : Nat) (now : List Nat) : Chip :=
  if code = 0x32 then upTo 4 (fun a y => fflag y (F.SPL_BIST_busy.bit a) (now.contains a)) x
  else upTo 13 (fun c y => fflag y (F.COACH_BIST_STATUS_busy c) (now.contains c)) x

/-- The units of a command that are still to be tested. -/
def setUnits (x : Chip) (c : BistCmd) (left : List Nat) : Chip :=
  let x1 := { x with bist := { x.bist with cmd := some { c with left := left } } }
  let x2 := unitsBusy x1 c.code (left.take (unitsAtOnce c.code))
  if left.isEmpty then bistPhase (cmdEnds x2 stOk) 0 0x7F 0x7F
  else bistPhase x2 (if c.code = 0x32 then 4 else 3) 0x7F 0x7F

/-- Every healthy lane of a failed coach is marked failed with cause 1 (R435). -/
def coachFailed (x : Chip) (c sig : Nat) : Chip :=
  sparesNow (upTo 8 (fun p y => if failed y (8 * c + p) then y else markFailed y (8 * c + p) 1 sig) x)

/-- A coach or splitter test ends (R435, R440). -/
def unitDone (x : Chip) (c : BistCmd) (u sig : Nat) (pass : Bool) : Chip :=
  let code := if pass then 1 else 2
  let x1 := if c.code = 0x32 then fset x ⟨R.SPL_BIST, 8 + 2 * u, 2⟩ code
    else
      let y := fsets x [(F.COACH_BIST_SIG_sig u, sig), (F.COACH_BIST_STATUS_result u, code),
        (F.COACH_BIST_STATUS_failed u, if pass then 0 else 0xFF)]
      if pass then y else coachFailed y u sig
  setUnits x1 c (c.left.erase u)

/-- COACH_TEST_DONE (R435). -/
def execCoachTestDone (splitter : Bool) (u : Nat) (sig : Word) (pass : Bool) (s : State) : Outc :=
  .next (match unitCmd s.chip with
    | some c =>
      if (c.code == 0x32) = splitter ∧ u ∈ c.left.take (unitsAtOnce c.code) then
        onChip (fun x => unitDone x c u sig.toNat pass) s
      else s
    | none => s)

/-- BIST_DONE (R436): the ended command is logged with its status. -/
def execBistDone (s : State) : Outc :=
  .next (match s.chip.bist.cmd with
    | some c =>
      if c.ended then
        onChip (fun x => setCause (raise { x with bist := { x.bist with cmd := none } } srcBist 0x0A
          (b1 c.code ++ b1 c.status)) .bist) s
      else s
    | none => s)

/-- A lane test abandoned (R437): the lane is not marked failed. -/
def testSkip (x : Chip) (n : Nat) : Chip := cmdEnds (raise (testFree x n) srcBist 0x06 (b1 n ++ b1 1)) stAborted

/-- A command that has not begun, or a unit test, is abandoned. -/
def cmdAbandon (x : Chip) : Chip :=
  match x.bist.cmd with
  | some c =>
    if c.ended ∨ c.left.isEmpty = true then x
    else
      let x1 := { x with bist := { x.bist with cmd := some { c with left := [], ended := true, status := stAborted } } }
      if c.code = 0x31 ∨ c.code = 0x32 then bistPhase (unitsBusy x1 c.code []) 0 0x7F 0x7F else x1
  | none => x

/-- QUIET, STANDBY, early warning, DATA reset or `abort` during self-test (R437). -/
def bistInterrupt (x : Chip) : Chip :=
  let x1 := match x.bist.mig with
    | some m => migAbort x m 1
    | none => match x.bist.test with
      | some t => testSkip x t.lane
      | none => x
  cmdAbandon x1

/-- BIST_ABORT (R437, R439). -/
def execBistAbort (s : State) : Outc := .next (if partRuns s.chip then onChip bistInterrupt s else s)

/-- A BIST command begins in the background (R436). -/
def bistCmd (s : State) (code : Nat) (left : List Nat) : MRes :=
  okChip s { s.chip with bist := { s.chip.bist with cmd := some ⟨code, left, stOk, false⟩ } }

/-- BIST_LANE (R436). -/
def bistLane (s : State) : MRes :=
  let x := s.chip
  let n := arg x 0
  if laneCount ≤ n ∨ failed x n = true then refuse s stBadArg
  else if x.bist.cmd.isSome then refuse s stBusy
  else if 1 < pstate x ∨ (pstate x = 1 ∧ stdOf x n ≠ mOff ∧ stdOf x n ≠ mSpare) then refuse s stNotInState
  else let r := bistCmd s 0x30 [n]; ⟨onChip cmdTurn r.st, r.status, r.len⟩

/-- BIST_LANE (R436). -/
def execBistLane (o : Iface) (s : State) : Outc := .next (mailbox 0x30 o bistLane s)

/-- BIST_COACH and BIST_SPLITTER (R435, R436). -/
def bistUnits (code units : Nat) (s : State) : MRes :=
  let x := s.chip
  let l := (List.range units).filter fun u => arg x 0 / 2 ^ u % 2 == 1
  if l.isEmpty then refuse s stBadArg
  else if x.bist.cmd.isSome then refuse s stBusy
  else if pstate x ≠ 1 then refuse s stNotInState
  else okChip s (setUnits x ⟨code, l, stOk, false⟩ l)

/-- BIST_COACH (R436). -/
def execBistCoach (o : Iface) (s : State) : Outc := .next (mailbox 0x31 o (bistUnits 0x31 13) s)

/-- BIST_SPLITTER (R436). -/
def execBistSplitter (o : Iface) (s : State) : Outc := .next (mailbox 0x32 o (bistUnits 0x32 4) s)

/-- BIST_RETEST (R432, R436). -/
def bistRetest (s : State) : MRes :=
  let x := s.chip
  let n := arg x 0
  if laneCount ≤ n then refuse s stBadArg
  else if x.bist.cmd.isSome then refuse s stBusy
  else if failed x n = false ∨ 1 < pstate x then refuse s stNotInState
  else let r := bistCmd s 0x33 [n]; ⟨onChip cmdTurn r.st, r.status, r.len⟩

/-- BIST_RETEST (R436). -/
def execBistRetest (o : Iface) (s : State) : Outc := .next (mailbox 0x33 o bistRetest s)

/-- The 8 bytes of a lane in BIST_REPORT (R436). -/
def reportBytes (x : Chip) (n : Nat) : List Byte :=
  let r := reportOf x n
  let secs := match r.last with
    | some t => (x.tm.ticks - t).toNat / 32768
    | none => 0xFFFF
  b1 n ++ b1 (if failed x n then 1 else if r.tested then 0 else 2) ++ b1 r.fail.toNat ++ b1 0 ++ b2s secs ++ b2s r.passes

/-- BIST_REPORT (R436): immediate, also while another BIST command runs. -/
def execBistReport (o : Iface) (s : State) : Outc :=
  .next (mailbox 0x34 o (fun s => ⟨putWin s 0 (allLanes.flatMap (reportBytes s.chip)), stOk, 832⟩) s)

/-- The order in which a start takes spares (R433). -/
def spareOrder : List Nat :=
  ((List.range 13).map fun c => 8 * c + 7) ++ allLanes.filter fun n => n % 8 != 7

/-- The spares of a start (R433): the first max(0, 8 - F) healthy lanes of the order; the failed lanes stay out of use. -/
def startSpares (x : Chip) : Chip :=
  let want := (spareOrder.filter fun n => !failed x n).take (8 - failedCount x)
  let x1 := allLanes.foldl (fun y n =>
    if failed y n ∨ n ∈ want then fset y (F.LANE_MODE_std n) mSpare
    else if stdOf y n = mSpare then fset y (F.LANE_MODE_std n) mOff else y) x
  capacityNow (bistCounts x1)

/-- The lowest healthy lane that is free: OFF, and named by none of a plan's entries (R433). -/
def planLane (x : Chip) (named : List Nat) : Option Nat :=
  allLanes.find? fun n => stdOf x n == mOff && !failed x n && !named.contains n

/-- A lane that failed while it held a configuration is moved on the return to ACTIVE (R433). -/
def unpark (x : Chip) (e : Nat × Word) : Chip :=
  let n := e.1
  let x1 := { x with bist := { x.bist with parked := smErase n x.bist.parked } }
  match planLane x1 [] with
  | none => x1
  | some k =>
    let x2 := stagedOffs.foldl (fun y o => if o = 0x2C then y
      else superStaged y k (getBits e.2 0 4) o (if o = 0 then e.2 else rd y (laneBase n + o))) x1
    let x3 := moveLane (moveBindings x2 n k) n k
    let x4 := vacate x3 n mSpare
    raise (bistCounts (capJoin x4 k (cfgOf x4 k))) srcBist 0x09 (b1 n ++ b1 k)

/-- The configurations of failed lanes are moved on the return to ACTIVE (R433). -/
def unparkAll (x : Chip) : Chip := x.bist.parked.foldl unpark x

end Sys2Proof.Machine
end

