-- ==== Sys2Proof/Machine/Clk.lean ====
section
/-! DEFINITION. Clock synthesis (R321 to R339): outputs, lock and relock, coast, VCO calibration, the converter clock
with spread, slalom and keep-outs, the LOCK ball. -/
namespace Sys2Proof.Machine

/-- Synthesiser states of `CLK_STATUS.state` (R339). -/
def ckOff : Nat := 0
def ckSearch : Nat := 1
def ckLocked : Nat := 2
def ckCoast : Nat := 3
def ckStep : Nat := 4

/-- State of the synthesiser. -/
def clkState (x : Chip) : Nat := fget x F.CLK_STATUS_state

/-- The state as it is shown (R330, R339): STEP for the 20 µs of a band step. -/
def clkShown (x : Chip) : Nat :=
  match x.clk.stepped with
  | some t =>
    if clkState x = ckLocked ∧ nowAt x ≤ ofTicks t.toNat + ofNs 20000 then ckStep else clkState x
  | none => clkState x

/-- The outputs run: LOCKED, COAST or STEP (R324, R326). -/
def clkRuns (x : Chip) : Bool := decide (ckLocked ≤ clkState x)

/-- The table of R321: whether an output is required in the role and power state in force. -/
def outNeeded (x : Chip) (i : Nat) : Bool :=
  let s := pstate x
  match i with
  | 0 => decide (s ≤ 2)
  | 1 => (isHead x && decide (s ≤ 2)) || (isFoot x && decide (s ≤ 1))
  | 2 => (isFoot x || isSolo x) && decide (s ≤ 1)
  | _ => decide (s ≤ 2)

/-- `on` of each output follows (R322). -/
def clkOutputs (x : Chip) : Chip :=
  upTo 4 (fun i y => fflag y (F.CLK_OUT_on i) (clkRuns y && (fon y (F.CLK_OUT_en i) && outNeeded y i))) x

/-- CLK_DENIED with the register's offset in its block (R322, R325, R337). -/
def clkDenied (x : Chip) (off : Nat) : Chip := raise x srcClk 0x0B (b2 off)

/-- A frequency in kHz that the converter may run at (R332). -/
def convOk (f : Nat) : Bool := decide (2000 ≤ f) && decide (f ≤ 2600) && (decide (f < 2008) || decide (2088 < f))

/-- A range of frequencies, in kHz times 200, that the converter may run over (R332, R333). -/
def rangeOk (lo hi : Nat) : Bool :=
  decide (400000 ≤ lo) && decide (hi ≤ 520000) && (decide (hi < 401600) || decide (417600 < lo))

/-- The range of a spread of d percent about `fnom`, in kHz times 200 (R333). -/
def spreadRange (fn d : Nat) (centre : Bool) : Nat × Nat :=
  if centre then (fn * (200 - d), fn * (200 + d)) else (fn * (200 - 2 * d), fn * 200)

/-- The largest whole depth, not above d, that fits (R333). -/
def fitDepth (fn : Nat) (centre : Bool) : Nat → Nat
  | 0 => 0
  | d + 1 => let r := spreadRange fn (d + 1) centre; if rangeOk r.1 r.2 then d + 1 else fitDepth fn centre d

/-- `fnom` in force, with CONV_CLIP once for a value that does not act (R332). -/
def convNom (x : Chip) : Chip × Nat :=
  let f := fget x F.CLK_CONV_CFG_fnom
  if convOk f then ({ x with clk := { x.clk with clipF := none } }, f)
  else if x.clk.clipF = some f then (x, 2400)
  else (raise { x with clk := { x.clk with clipF := some f } } srcClk 0x09 (b1 0 ++ b4 2400), 2400)

/-- The depth in force, with CONV_CLIP once for a depth that is reduced (R333, R339). -/
def convDepth (x : Chip) (fn : Nat) : Chip × Nat :=
  let want := min 8 (fget x F.CLK_SPREAD_depth)
  let d := fitDepth fn (fon x F.CLK_SPREAD_centre) want
  if d = want then ({ x with clk := { x.clk with clipD := none } }, d)
  else if x.clk.clipD = some d then (x, d)
  else (raise { x with clk := { x.clk with clipD := some d } } srcClk 0x09 (b1 1 ++ b4 d), d)

/-- An LF/MF/HF lane (R331). -/
def lfLane (x : Chip) (n : Nat) : Bool :=
  let c := cfgOf x n
  (c.std == mAm || c.std == mDrm || c.std == mIq) && ((laneOf x n).live && (pstate x == 0 && tunedIn c 100000 30000000))

/-- The protected band of an LF/MF/HF lane in Hz times 2^32 (R334). -/
def laneBand (x : Chip) (n : Nat) : Int × Int :=
  let c := cfgOf x n
  (tuned c - (passHz c : Int) * 2 ^ 32, tuned c + (passHz c : Int) * 2 ^ 32)

/-- The enabled keep-outs in Hz times 2^32 (R334, R339). -/
def keepouts (x : Chip) : List (Int × Int) :=
  ((List.range 8).filter fun i =>
    fon x (F.CLK_KEEPOUT_en i) && decide (fget x (F.CLK_KEEPOUT_lo i) ≤ fget x (F.CLK_KEEPOUT_hi i))).map fun i =>
    ((fget x (F.CLK_KEEPOUT_lo i) : Int) * 1000 * 2 ^ 32, (fget x (F.CLK_KEEPOUT_hi i) : Int) * 1000 * 2 ^ 32)

/-- The bands of the running LF/MF/HF lanes. -/
def lfBands (x : Chip) : List (Int × Int) := (allLanes.filter (lfLane x)).map (laneBand x)

/-- The distance of a frequency from a band. -/
def bandDist (f : Int) (b : Int × Int) : Nat := (max (b.1 - f) (max (f - b.2) 0)).toNat

/-- The clearance of f kHz in Hz times 2^32: over harmonics 1 to 15 and every band; none without a band (R334). -/
def clearance (bands : List (Int × Int)) (f : Nat) : Option Nat :=
  (bands.flatMap fun b => (List.range 15).map fun h => bandDist (((h + 1) * f : Nat) * 1000 * 2 ^ 32) b).min?

/-- A clearance in whole kHz. -/
def clearKhz (c : Option Nat) : Nat := match c with
  | some v => v / (1000 * 2 ^ 32)
  | none => 0xFFF

/-- The clearance reaches `clear` kHz. -/
def clearOk (c : Option Nat) (clear : Nat) : Bool := match c with
  | some v => decide (clear * 1000 * 2 ^ 32 ≤ v)
  | none => true

/-- The candidate targets in kHz (R334). -/
def convCands : List Nat := ((List.range 601).map (2000 + ·)).filter convOk

/-- The nearest of two candidates to a target, the lower of equals (R334). -/
def nearer (t : Nat) (a : Option Nat) (c : Nat) : Option Nat :=
  let d := fun v : Nat => max (v - t) (t - v)
  match a with
  | none => some c
  | some b => if d c < d b then some c else some b

/-- The candidate of the larger clearance, the lower of equals (R334). -/
def clearer (bands : List (Int × Int)) (a : Option (Nat × Nat)) (c : Nat) : Option (Nat × Nat) :=
  let v := (clearance bands c).getD 0
  match a with
  | none => some (c, v)
  | some b => if b.2 < v then some (c, v) else some b

/-- The target chosen from a present one, and whether none is clear enough (R334). -/
def slalomTarget (bands : List (Int × Int)) (target clear : Nat) : Nat × Bool :=
  if clearOk (clearance bands target) clear then (target, false)
  else match (convCands.filter fun f => clearOk (clearance bands f) clear).foldl (nearer target) none with
    | some f => (f, false)
    | none => (((convCands.foldl (clearer bands) none).getD (target, 0)).1, true)

/-- A frequency of a ramp kept out of the exclusion by the whisper channel (R219, R332): the nearest outside it, the lower at its
middle. -/
def convClear (f : Nat) : Nat := if 2008 ≤ f ∧ f ≤ 2088 then (if f ≤ 2048 then 2007 else 2089) else f

/-- The converter's frequency now in kHz (R219, R334, R339): on a ramp, linear at `CLK_SLALOM.ramp` kHz per ms, until it is
over; it jumps across the exclusion. -/
def convNow (x : Chip) : Nat :=
  let f := fget x F.CLK_CONV_NOW_f
  match x.clk.ramp with
  | none => f
  | some (a, b, t) =>
    let d := max 1 (fget x F.CLK_SLALOM_ramp) * ((x.tm.ticks - t).toNat * 1000) / 32768
    if max (a - b) (b - a) ≤ d then f else convClear (if a ≤ b then a + d else a - d)

/-- The converter's mode changes (R331, R337); `f` is set at once. -/
def convMode (x : Chip) (mode f : Nat) : Chip :=
  let old := fget x F.CLK_CONV_NOW_mode_now
  let x1 := fsets { x with clk := { x.clk with ramp := none } } [(F.CLK_CONV_NOW_mode_now, mode), (F.CLK_CONV_NOW_f, f)]
  if old = mode then x1 else raise x1 srcClk 0x06 (b1 old ++ b1 mode ++ b4 f)

/-- A move of the slalom begins from the frequency now (R334). -/
def slalomMove (x : Chip) (old new : Nat) (c : Option Nat) : Chip :=
  raise (fset { x with clk := { x.clk with ramp := some (convNow x, new, x.tm.ticks) } } F.CLK_CONV_NOW_f new) srcClk 0x07
    (b4 old ++ b4 new ++ b4 (clearKhz c))

/-- The converter's mode with a ramp that goes on in it. -/
def convKeep (x : Chip) (mode f : Nat) : Chip := { convMode x mode f with clk := { x.clk with ramp := x.clk.ramp } }

/-- Spread in force (R333, R334): a slalom ramps to `fnom` first. -/
def toSpread (x : Chip) (fn : Nat) : Chip :=
  let (x1, d) := convDepth x fn
  let r := spreadRange fn d (fon x F.CLK_SPREAD_centre)
  let f := fget x1 F.CLK_CONV_NOW_f
  let y := fset x1 F.CLK_CONV_NOW_clear_now 0xFFF
  let c := (r.1 + r.2) / 400
  if fget x1 F.CLK_CONV_NOW_mode_now = 3 ∧ f ≠ fn then convKeep (slalomMove y f fn none) 2 c
  else if fget x1 F.CLK_CONV_NOW_mode_now = 1 then convMode y 2 c
  else convKeep y 2 c

/-- Slalom in force (R331, R334): toward the target chosen, or `fnom` while no LF/MF/HF lane runs. -/
def toSlalom (x : Chip) (fn : Nat) : Chip :=
  let lf := lfBands x
  let bands := lf ++ keepouts x
  let f := fget x F.CLK_CONV_NOW_f
  let old := if fget x F.CLK_CONV_NOW_mode_now = 3 then f else fn
  let t := if lf.isEmpty then (fn, false) else slalomTarget bands old (fget x F.CLK_SLALOM_clear)
  let c := clearance bands t.1
  let x1 := fset (convKeep x 3 f) F.CLK_CONV_NOW_clear_now (min (clearKhz c) 0xFFF)
  let x2 := if t.1 = f ∧ t.1 = old then x1 else slalomMove x1 old t.1 c
  if t.2 then raise x2 srcClk 0x08 (b4 t.1 ++ b4 (clearKhz c)) else x2

/-- The converter clock re-evaluated (R331). -/
def convEval (x : Chip) : Chip :=
  if clkRuns x then
    let (x1, fn) := convNom x
    match fget x F.CLK_CONV_CFG_mode with
    | 0 => if allLanes.any (lfLane x) then toSlalom x1 fn else toSpread x1 fn
    | 1 => convMode (fset x1 F.CLK_CONV_NOW_clear_now 0xFFF) 1 fn
    | 2 => toSpread x1 fn
    | _ => toSlalom x1 fn
  else x

/-- SLALOM_MOVE (R331, R334): the re-evaluation within 1 ms of a change. -/
def execSlalomMove (s : State) : Outc := .next (if partRuns s.chip then onChip convEval s else s)

/-- A search begins (R324, R325): the outputs stop and the converter runs from its start-up oscillator. -/
def searchBegin (x : Chip) : Chip :=
  let x1 := fsets x [(F.CLK_STATUS_state, ckSearch), (F.CLK_STATUS_lock_sense, 0)]
  let x2 := clkOutputs (sampleStop x1)
  convMode (fset x2 F.CLK_CONV_NOW_clear_now 0xFFF) 0 2300

/-- A calibration begins in LOCKED (R329). -/
def calBegin (x : Chip) (cause : Nat) : Chip :=
  fset { x with clk := { x.clk with cal := some (cause, fget x F.CLK_VCO_band), calDue := none } } F.CLK_STATUS_cal_busy 1

/-- A calibration trigger (R329): ignored during a calibration, waiting where the loop is not locked. -/
def calTrigger (x : Chip) (cause : Nat) : Chip :=
  if x.clk.cal.isSome then x
  else if clkState x = ckLocked then calBegin x cause
  else { x with clk := { x.clk with calDue := some cause } }

/-- The loop is locked (R324, R335): state, band, lock time and what waited for it. `how` is 0 for a search and 1 from
coast; `fresh` where the sample-time counter starts at 0. -/
def lockNow (x : Chip) (band us how : Nat) (fresh : Bool) : Chip :=
  let x1 := fsets x [(F.CLK_STATUS_state, ckLocked), (F.CLK_STATUS_lock_sense, 1), (F.CLK_STATUS_ref_lost, 0),
    (F.CLK_VCO_band, band % 64), (F.CLK_LOCK_TIME_us, sat 16 us), (F.CLK_CTRL_relock, 0)]
  let x2 := clkOutputs (sampleRun x1 fresh)
  let x3 := raise x2 srcClk 0x01 (b1 (band % 64) ++ b2s us ++ b1 how)
  match x3.clk.calDue with
  | some c => calBegin x3 c
  | none => x3

/-- A search ends in a lock (R324): the loop closes at 128. -/
def searchEnd (x : Chip) (band us : Nat) (fresh : Bool) : Chip :=
  convEval (lockNow (fset x F.CLK_VCO_ctrl 128) band us 0 fresh)

/-- LOCK (R324, R325): a search that runs completes. In a start it precedes the rest of the start. -/
def execLock (band us : Nat) (ppm : Int) (s : State) : Outc :=
  let x := s.chip
  let searching := (x.pw.phase == .starting && clkState x == ckOff) || clkState x == ckSearch
  .next (if searching then
      onChip (fun y => fset (searchEnd y band us (y.pw.phase == .starting && y.pw.kind == 0)) F.CLK_REF_MON_ppm
        (tcomp 16 (clip 16 ppm))) s
    else s)

/-- CLK_RELOCK (R325): a band search in QUIET and STANDBY, CLK_DENIED in ACTIVE. -/
def relock (x : Chip) : Chip :=
  if pstate x = 0 then clkDenied x 0x00
  else if clkState x = ckLocked then searchBegin (fset x F.CLK_CTRL_relock 1)
  else x

/-- CLK_RELOCK (R325). -/
def execClkRelock (s : State) : Outc :=
  .next (if mgmtUp s.chip && !fon s.chip F.CLK_CTRL_relock then onChip relock s else s)

/-- VCO_CAL_START (R329). -/
def execVcoCalStart (s : State) : Outc :=
  .next (if mgmtUp s.chip && !fon s.chip F.CLK_CTRL_vco_cal then
      onChip (fun x => if x.clk.cal.isSome then x else calTrigger (fset x F.CLK_CTRL_vco_cal 1) 0) s
    else s)

/-- The reference or the lock is lost (R326, R336): coast from the frozen control value; a calibration is abandoned. -/
def lockLost (x : Chip) (cause ctrl : Nat) : Chip :=
  let x1 := fsets x [(F.CLK_STATUS_state, ckCoast), (F.CLK_STATUS_ref_lost, cause), (F.CLK_STATUS_lock_sense, 0),
    (F.CLK_STATUS_cal_busy, 0), (F.CLK_CTRL_vco_cal, 0), (F.CLK_VCO_ctrl, ctrl), (F.CLK_COAST_time, 0)]
  let x2 := { x1 with clk := { x1.clk with
    coast := some x.tm.ticks, coastLogged := false, cal := none } }
  let x3 := count (count x2 R.CLK_LOSS_COUNT (F.CLK_STATUS_wrap.bit 0) 1) R.CLK_COAST_COUNT (F.CLK_STATUS_wrap.bit 1) 1
  setCause (raise x3 srcClk 0x02 (b1 cause)) .clk

/-- LOCK_LOST (R326): cause 0 phase, 1 reference. -/
def execLockLost (cause ctrl : Nat) (s : State) : Outc :=
  .next (if clkState s.chip = ckLocked ∨ clkState s.chip = ckStep then
      onChip (fun x => lockLost x (min cause 1) (min ctrl 255)) s
    else s)

/-- The length of the coast in ms. -/
def coastMs (x : Chip) : Nat :=
  match x.clk.coast with
  | some t => (x.tm.ticks - t).toNat * 1000 / 32768
  | none => 0

/-- `CLK_COAST` at a measurement (R327). -/
def coastShow (x : Chip) (ofs : Int) : Chip :=
  fsets x [(F.CLK_COAST_time, sat 16 (coastMs x)), (F.CLK_COAST_ofs, tcomp 16 (clip 16 ofs))]

/-- The 100 ms measurement of a coast (R327): beyond the limit it is logged once per coast. -/
def coastMeasure (x : Chip) (ofs : Int) : Chip :=
  let x1 := coastShow x ofs
  if max 1 (fget x F.CLK_PLL_CFG_coast_lim) * 100 < ofs.natAbs ∧ x.clk.coastLogged = false then
    raise (fset { x1 with clk := { x1.clk with coastLogged := true } } F.CLK_STATUS_coast_lim 1) srcClk 0x04
      (i2 (clip 16 ofs))
  else x1

/-- COAST_LIMIT (R327). -/
def execCoastLimit (ofs : Int) (s : State) : Outc :=
  .next (if clkState s.chip = ckCoast then onChip (fun x => coastMeasure x ofs) s else s)

/-- The loop closes from the frozen control value without opening (R328). -/
def coastCloses (x : Chip) : Bool := decide (32 ≤ fget x F.CLK_VCO_ctrl) && decide (fget x F.CLK_VCO_ctrl ≤ 223)

/-- A coast ends (R328): LOCK and COAST_END; a full search stops the outputs meanwhile. -/
def coastEnd (x : Chip) (band us : Nat) (ofs : Int) : Chip :=
  let ms := coastMs x
  let x1 := coastShow x ofs
  let x2 := { x1 with clk := { x1.clk with coast := none } }
  let x3 := if coastCloses x then lockNow x2 (fget x F.CLK_VCO_band) us 1 false
    else searchEnd (searchBegin x2) band us false
  raise x3 srcClk 0x03 (b2s ms ++ i2 (clip 16 ofs))

/-- The mean of the four ADC sensors in 1/16 °C (R329). -/
def adcMean (x : Chip) : Int := (pointTemp x 0 + pointTemp x 1 + pointTemp x 2 + pointTemp x 3) / 4

/-- The 100 ms check of temperature (R329): none before the first calibration, which leaves nothing to compare with. -/
def vcoTrig (x : Chip) : Chip :=
  let d := fget x F.CLK_PLL_CFG_cal_delta
  let c := fget x F.CLK_VCO_cal_temp
  if d ≠ 0 ∧ c ≠ 0 ∧ 16 * d < (adcMean x - 16 * ((c : Int) - 64)).natAbs then calTrigger x 1 else x

/-- VCO_CAL_TEMP_TRIG (R329). -/
def execVcoCalTempTrig (s : State) : Outc := .next (if partRuns s.chip then onChip vcoTrig s else s)

/-- A calibration ends (R330, R337). -/
def calEnd (x : Chip) (cause old : Nat) : Chip :=
  let t := adcMean x
  let code := max 0 (min 255 ((t + 8) / 16 + 64))
  let x1 := fsets { x with clk := { x.clk with cal := none } }
    [(F.CLK_VCO_cal_temp, code.toNat), (F.CLK_STATUS_cal_busy, 0), (F.CLK_CTRL_vco_cal, 0), (F.CLK_STATUS_state, ckLocked)]
  raise (count x1 R.CLK_CAL_COUNT (F.CLK_STATUS_wrap.bit 2) 1) srcClk 0x05
    (b1 cause ++ b1 old ++ b1 (fget x F.CLK_VCO_band) ++ i2 (clip 16 t))

/-- The powered inputs carry the transient bit for ns and the taint that follows it (R96, R323, R330). -/
def taintPowered (x : Chip) (ns : Nat) : Chip :=
  upTo 4 (fun a y => if ainPowered y a then taintWindow y a (nowAt y) (ns + 8000) else y) x

/-- One band step (R330): every powered input is tainted by its 20 µs. -/
def calMove (x : Chip) (up : Bool) (ctrl : Nat) : Chip :=
  let b := fget x F.CLK_VCO_band
  let x1 := fsets x [(F.CLK_VCO_band, if up then min 63 (b + 1) else b - 1), (F.CLK_VCO_ctrl, ctrl)]
  taintPowered { x1 with clk := { x1.clk with stepped := some x.tm.stime } } 20000

/-- A calibration goes on by one band, or ends where no further step is needed (R330). -/
def calStep (x : Chip) (cal : Nat × Nat) (move : Option Bool) (ctrl : Nat) (last : Bool) : Chip :=
  match move with
  | none => calEnd x cal.1 cal.2
  | some up => let x1 := calMove x up (min ctrl 255); if last then calEnd x1 cal.1 cal.2 else x1

/-- VCO_CAL_STEP (R330). -/
def execVcoCalStep (move : Option Bool) (ctrl : Nat) (last : Bool) (s : State) : Outc :=
  .next (match s.chip.clk.cal with
    | some c => if clkState s.chip = ckLocked then onChip (fun x => calStep x c move ctrl last) s else s
    | none => s)

/-- The LOCK ball disagrees with the state for 1 ms (R335): logged once; agreement ends the episode. -/
def senseCheck (x : Chip) (sense : Bool) : Chip :=
  let x1 := fflag x F.CLK_STATUS_lock_sense sense
  let locked := clkState x == ckLocked || clkState x == ckStep
  if sense = locked then { x1 with clk := { x1.clk with sense := false } }
  else if x.clk.sense then x1
  else raise (fset { x1 with clk := { x1.clk with sense := true } } F.CLK_STATUS_mismatch 1) srcClk 0x0A
    (b1 (clkShown x) ++ b1 sense.toNat)

/-- LOCK_SENSE_MISMATCH (R335). -/
def execLockSenseMismatch (sense : Bool) (s : State) : Outc :=
  .next (if pstate s.chip ≤ 2 ∧ mgmtUp s.chip = true then onChip (fun x => senseCheck x sense) s else s)

/-- A write to an output's `en` (R322): 0 denied for the sample and the converter clock; without the link clock a head's
transmitter stops at once, with it again it starts by its ramp (R237). -/
def outEnable (x : Chip) (i : Nat) (en : Bool) : Chip :=
  if !en && (i == 0 || i == 3) then clkDenied x (0x10 + 4 * i)
  else
    let x1 := clkOutputs (fflag x (F.CLK_OUT_en i) en)
    let sends := isHead x && (i == 1 && decide (2 ≤ fget x F.LINK_STATE_state))
    if !sends then x1
    else fsets { x1 with lk := { x1.lk with next := if en then 0 else x1.lk.next, wave := ⟨[], [], 0, 0⟩ } }
      [(F.LINK_PHY_STATUS_tx_on, en.toNat), (F.LINK_PHY_STATUS_ramp, en.toNat)]

end Sys2Proof.Machine
end

