-- ==== Sys2Proof/Machine/Phy.lean ====
section
/-! DEFINITION. The waveforms that the part sends on COAX, by subcarrier and symbol (R220 to R228, R236 to R240), and the
two decisions of its receivers that stand below headers and characters: the header copies combined (R224), the whisper
envelope read tick by tick (R241, R242). Filters, ramps and tilt shape what is sent here; they add no symbol. -/
namespace Sys2Proof.Machine

/-- The link's generator (R225): bits from the 23-bit register r. -/
def prbs : Nat → Nat → List Bool
  | 0, _ => []
  | n + 1, r =>
    let b := r / 2 ^ 22 % 2 != r / 2 ^ 17 % 2
    b :: prbs n ((2 * r + b.toNat) % 2 ^ 23)

/-- The seed of a payload by its train, or by the train that opens its slot (R225). -/
def payloadSeed (k : Nat) : Nat := k % 2 ^ 22 * 2 + 1

/-- Bits XORed with the generator's sequence from a seed, bit by bit (R226). -/
def scramble (seed : Nat) (l : List Bool) : List Bool := List.zipWith (fun a b => a != b) l (prbs l.length seed)

/-- Nothing is sent. -/
def Point.none : Point := ⟨0, 0, 1, 1⟩

/-- A subcarrier's offset k from the centre (R220, R238). -/
def offsetOf (d n : Nat) : Int :=
  let half := subcarriers d / 2
  if n < half then (n : Int) - half else (n : Int) - half + 1

/-- Data subcarriers of a direction: 2812 and 480 (R220, R238). -/
def dataCount (d : Nat) : Nat := ((List.range (subcarriers d)).filter fun n => n % 16 != 0).length

/-- Subcarrier n lies within a notch of the set or in its guard (R236). -/
def notched (set : List (Nat × Nat)) (n : Nat) : Bool := set.any fun e => decide (e.1 ≤ n + 4) && decide (n ≤ e.2 + 4)

/-- What subcarrier n carries unless it is notched (R221, R236). -/
def heard (set : List (Nat × Nat)) (n : Nat) (p : Point) : Point := if notched set n then Point.none else p

/-- A real value of the sign that a bit gives: 0 positive (R221, R222). -/
def signed (b : Bool) (num den : Nat) : Point := ⟨if b then -1 else 1, 0, num, den⟩

/-- The pilot on subcarrier n: 4/3 of the sign of bit n/16 of the pilot sequence (R221). -/
def pilotPoint (n : Nat) : Point := signed (nth false (prbs 188 0x7FFFFF) (n / 16)) 16 9

/-- A symbol of pilots only (R221, R222, R237). -/
def pilotSymbol (d : Nat) (set : List (Nat × Nat)) : List Point :=
  (List.range (subcarriers d)).map fun n => if n % 16 = 0 then heard set n (pilotPoint n) else Point.none

/-- The sync symbol (R222): the square root of 2 with the sync sequence's sign on each subcarrier of even k, in ascending
frequency. -/
def syncSymbol (d : Nat) (set : List (Nat × Nat)) : List Point :=
  let l := prbs (subcarriers d / 2) 0x2AAAAA
  (List.range (subcarriers d)).map fun n =>
    if offsetOf d n % 2 = 0 then
      heard set n (signed (nth false l (((List.range n).filter fun m => decide (offsetOf d m % 2 = 0)).length)) 2 1)
    else Point.none

/-- A group's value from its Gray code, first bit most significant (R227). -/
def grayDecode (g : List Bool) : Nat :=
  (g.foldl (fun (a : Nat × Bool) b => (2 * a.1 + (a.2 != b).toNat, a.2 != b)) (0, false)).1

/-- A group's level (R227): none for no bits. -/
def level (g : List Bool) : Int := (2 ^ g.length : Int) - 1 - 2 * grayDecode g

/-- The point of a subcarrier's bits, scaled to unit average power (R227). -/
def mapPoint (bits : List Bool) : Point :=
  let j := ceilDiv bits.length 2
  let k := bits.length / 2
  if bits.isEmpty then Point.none
  else ⟨level (bits.take j), level (bits.drop j), 1, (4 ^ j - 1) / 3 + (4 ^ k - 1) / 3⟩

/-- A symbol over the subcarriers still to fill: pilots, and each data subcarrier with the next bits of the stream by its
region's load; the bits that are left (R221, R226, R227). -/
def fillSymbol (set : List (Nat × Nat)) (load : Nat → Nat) : List Nat → List Bool → List Point × List Bool
  | [], s => ([], s)
  | n :: r, s =>
    if n % 16 = 0 then
      let q := fillSymbol set load r s
      (heard set n (pilotPoint n) :: q.1, q.2)
    else
      let b := load (n / 64)
      let q := fillSymbol set load r (s.drop b)
      (heard set n (mapPoint (s.take b)) :: q.1, q.2)

/-- Payload symbols in number, from the stream (R222, R228). -/
def fillSymbols (d : Nat) (set : List (Nat × Nat)) (load : Nat → Nat) : Nat → List Bool → List (List Point)
  | 0, _ => []
  | n + 1, s =>
    let q := fillSymbol set load (List.range (subcarriers d)) s
    q.1 :: fillSymbols d set load n q.2

/-- The sync word (R223). -/
def syncWord : Nat := 0xE5C31B6A

/-- The header copy: sync word and header block, least significant bit first (R223, R250). -/
def headerCopy (hdr : List Byte) : List Bool := (le 4 syncWord ++ hdr).flatMap bitsLsb

/-- Bits of a header symbol: copies one after the other, the last one cut short, XORed with the header sequence (R223,
R238). -/
def headerBits (d : Nat) (hdr : List Byte) : List Bool :=
  scramble 0x555555 ((List.range (2 * dataCount d)).map fun i => nth false (headerCopy hdr) (i % 256))

/-- The header symbol: QPSK on every data subcarrier (R222, R223). -/
def headerSymbol (d : Nat) (set : List (Nat × Nat)) (hdr : List Byte) : List Point :=
  (fillSymbol set (fun _ => 2) (List.range (subcarriers d)) (headerBits d hdr)).1

/-- The parity blocks of IEEE 802.11's codes of length 1944 (R228): cyclic shifts of the 24 columns of 81 bits, 81 where a
column takes no part. PRESUMED: the spec names the codes and their standard holds the shifts. -/
def ldpcRows (fast : Bool) : List (List Nat) :=
  if fast then [
    [13, 48, 80, 66, 4, 74, 7, 30, 76, 52, 37, 60, 81, 49, 73, 31, 74, 73, 23, 81, 1, 0, 81, 81],
    [69, 63, 74, 56, 64, 77, 57, 65, 6, 16, 51, 81, 64, 81, 68, 9, 48, 62, 54, 27, 81, 0, 0, 81],
    [51, 15, 0, 80, 24, 25, 42, 54, 44, 71, 71, 9, 67, 35, 81, 58, 81, 29, 81, 53, 0, 81, 0, 0],
    [16, 29, 36, 41, 44, 56, 59, 37, 50, 24, 81, 65, 4, 65, 52, 81, 4, 81, 73, 52, 1, 81, 81, 0]]
  else [
    [48, 29, 28, 39, 9, 61, 81, 81, 81, 63, 45, 80, 81, 81, 81, 37, 32, 22, 1, 0, 81, 81, 81, 81],
    [4, 49, 42, 48, 11, 30, 81, 81, 81, 49, 17, 41, 37, 15, 81, 54, 81, 81, 81, 0, 0, 81, 81, 81],
    [35, 76, 78, 51, 37, 35, 21, 81, 17, 64, 81, 81, 81, 59, 7, 81, 81, 32, 81, 81, 0, 0, 81, 81],
    [9, 65, 44, 9, 54, 56, 73, 34, 42, 81, 81, 81, 35, 81, 81, 81, 46, 39, 0, 81, 81, 0, 0, 81],
    [3, 62, 7, 80, 68, 26, 81, 80, 55, 81, 36, 81, 26, 81, 9, 81, 72, 81, 81, 81, 81, 81, 0, 0],
    [26, 75, 33, 21, 69, 59, 3, 38, 81, 81, 81, 35, 81, 62, 36, 26, 81, 81, 1, 81, 81, 81, 81, 0]]

/-- Bit by bit XOR of two blocks. -/
def xorBits (a b : List Bool) : List Bool := List.zipWith (fun p q => p != q) a b

/-- A block turned by a shift; nothing for shift 81. -/
def turned (s : Nat) (l : List Bool) : List Bool := if s = 81 then List.replicate 81 false else l.drop s ++ l.take s

/-- What the information blocks add up to in one parity row. -/
def infoSum (row : List Nat) (info : List Bool) : List Bool :=
  (List.range (info.length / 81)).foldl (fun a j => xorBits a (turned (nth 81 row j) ((info.drop (81 * j)).take 81)))
    (List.replicate 81 false)

/-- Parity blocks after the first (R228): each closes its row over the first block p and the one before it. -/
def parityRest (p : List Bool) (col : Nat) : List (List Nat × List Bool) → List Bool → List Bool
  | [], _ => []
  | [_], _ => []
  | (row, sum) :: r, before =>
    let b := xorBits (xorBits sum before) (turned (nth 81 row col) p)
    b ++ parityRest p col r b

/-- The parity bits of 1458 or 1620 information bits (R228). -/
def ldpcParity (fast : Bool) (info : List Bool) : List Bool :=
  let rows := (ldpcRows fast).map fun row => (row, infoSum row info)
  let p := rows.foldl (fun a e => xorBits a e.2) (List.replicate 81 false)
  p ++ parityRest p (info.length / 81) rows (List.replicate 81 false)

/-- A number of codewords of the information bits, systematic bits first; bits that are wanting are 0 (R228, R254). -/
def codeBits (fast : Bool) : Nat → List Bool → List Bool
  | 0, _ => []
  | n + 1, l =>
    let k := infoBits fast
    let info := l.take k ++ List.replicate (k - l.length) false
    info ++ (ldpcParity fast info ++ codeBits fast n (l.drop k))

/-- The scrambled stream of a payload (R226, R228): its codewords, then zeros for the bits left over. -/
def payloadStream (d : Nat) (m : LoadMap) (k symbols : Nat) (payload : List Byte) : List Bool :=
  let coded := codeBits m.fast (codewords d m symbols) (payload.flatMap bitsLsb)
  scramble (payloadSeed k) (coded ++ List.replicate (codedPerSymbol d m.bits * symbols - coded.length) false)

/-- A train or burst, symbol by symbol (R222, R238, R239): sync, header, payload symbols, symbols of pilots only. -/
def waveOf (d : Nat) (m : LoadMap) (set : List (Nat × Nat)) (k : Nat) (hdr payload : List Byte) (symbols quiet : Nat) :
    List (List Point) :=
  syncSymbol d set :: headerSymbol d set hdr
    :: (fillSymbols d set (fun r => nth 0 m.bits r) symbols (payloadStream d m k symbols payload)
      ++ List.replicate quiet (pilotSymbol d set))

/-- The bits that soft values of a header symbol decide (R224): descrambled, summed over all copies of each bit; positive
for 0. -/
def headerDecide (soft : List Int) : List Bool :=
  let l := List.zipWith (fun (v : Int) (b : Bool) => if b then -v else v) soft (prbs soft.length 0x555555)
  (List.range 256).map fun i =>
    let v := (List.range (ceilDiv (l.length - i) 256)).foldl (fun a c => a + nth 0 l (256 * c + i)) 0
    if v = 0 then Config.tieBit soft i else decide (v < 0)

/-- Octets of bits, least significant first; fuel is the number of bits. -/
def bitOctets : Nat → List Bool → List Byte
  | 0, _ => []
  | n + 1, l =>
    if l.isEmpty then []
    else BitVec.ofNat 8 ((l.take 8).foldr (fun b a => 2 * a + b.toNat) 0) :: bitOctets n (l.drop 8)

/-- Bit errors of the sync word as decided (R224). -/
def syncErrors (bits : List Bool) : Nat := ((xorBits bits ((le 4 syncWord).flatMap bitsLsb)).filter id).length

/-- The header block as decided. -/
def headerOf (bits : List Bool) : List Byte := bitOctets 256 (bits.drop 32)

/-- The sync word's tolerance (R224, R248). -/
def syncTol (x : Chip) : Nat := min 8 (fget x F.LINK_SYNC_TOL_tol)

/-- Carrier cycles of bit i of a whisper frame (R240). -/
def bitCycles (i : Nat) : Nat := if i % 3 = 2 then 426 else 427

/-- A whisper character (R240): start bit, data bits, stop bit. -/
def charBits (b : Byte) : List Bool := false :: (bitsLsb b ++ [true])

/-- The keying of a whisper frame (R240): carrier on for logic 0, and for how many carrier cycles. -/
def keying (octets : List Byte) : List (Bool × Nat) :=
  let l := octets.flatMap charBits
  (List.range l.length).map fun i => (!nth true l i, bitCycles i)

/-- The envelope detector's reading (R241): present at 150 mV or more, absent at 60 mV or less, else as before. -/
def envelope (old : Bool) (mv : Nat) : Bool := if 150 ≤ mv then true else if mv ≤ 60 then false else old

/-- Ticks of 20 ms at 153.6 kHz (R241). -/
def oscTicks : Nat := 3072

/-- The sampling oscillator after a tick (R241): started by a carrier edge, stopped 20 ms after the last. -/
def oscStep (osc : Option Nat) (edge : Bool) : Option Nat :=
  if edge then some 0
  else match osc with
    | some n => if oscTicks ≤ n + 1 then none else some (n + 1)
    | none => none

/-- What the whisper receiver frames (R242): nothing yet, a false start, a framing error (its stop bit judged 0, else an
edge), a character. -/
inductive Framed where
  | nothing
  | falseStart
  | framing (stop0 : Bool)
  | char (b : Byte)
  deriving DecidableEq, Repr

/-- The majority of three readings from tick t on: carrier. -/
def majority (l : List Bool) (t : Nat) : Bool := decide (2 ≤ (((l.drop t).take 3).filter id).length)

/-- The character of the readings since its start edge (R242). -/
def charOf (l : List Bool) : Byte :=
  BitVec.ofNat 8 ((List.range 8).foldl (fun a i => a + (if majority l (16 * (i + 1) + 7) then 0 else 2 ^ i)) 0)

/-- The stop bit judged from two samples, before an edge at tick 153 (R242): of one sample of each level it is open. -/
def stopOfTwo (l : List Bool) : Bool :=
  if nth true l 151 == nth true l 152 then !nth true l 151 else Config.tieBit (l.map fun b => if b then 1 else 0) 153

/-- A reading within a character, l the readings since its start edge with this one last (R242): what is framed, and
whether the readings go on, start afresh with this edge, or end. A stop bit judged 0 leaves the receiver in the stop bit
until an edge or its end. -/
def charStep (l : List Bool) (edge : Bool) : Framed × Option (List Bool) :=
  let t := l.length - 1
  if t = 8 ∧ nth true l 8 = false then (.falseStart, none)
  else if edge = true ∧ 144 ≤ t ∧ t ≤ 152 then (.framing false, some [true])
  else if edge = true ∧ t = 153 then (if stopOfTwo l then .char (charOf l) else .framing true, some [true])
  else if t = 153 then (if majority l 151 then (.framing true, some l) else (.char (charOf l), none))
  else if edge = true ∧ 153 < t then (.nothing, some [true])
  else if 159 ≤ t then (.nothing, none)
  else (.nothing, some l)

/-- One reading of the detector by the receiver (R241, R242): an edge while idle starts a character, after a stop bit judged
0 only once one bit time has passed without carrier. -/
def tick (w : WspRt) (mv : Nat) : Framed × WspRt :=
  let c := envelope w.carrier mv
  let edge := c && !w.carrier
  let w1 := { w with carrier := c, osc := oscStep w.osc (c != w.carrier) }
  match w.rx with
  | some l =>
    let r := charStep (l ++ [c]) edge
    let done := r.2.isNone && decide (154 < l.length)
    (r.1, { w1 with rx := r.2, hold := if done then some (if c then 0 else 1) else none })
  | none =>
    match w.hold with
    | some n =>
      if c then (.nothing, { w1 with hold := some 0 })
      else (.nothing, { w1 with hold := if 16 ≤ n + 1 then none else some (n + 1) })
    | none => if edge then (.nothing, { w1 with rx := some [true] }) else (.nothing, w1)

end Sys2Proof.Machine
end

