-- ==== Sys2Proof/Machine/Link.lean ====
section
/-! DEFINITION. The Jedon link (R218 to R266, R273 to R276): link states and training, trains and bursts as they are sent and
received, headers and their prediction, segments, exchange and switch of loading maps. Symbols and codewords are below
this model: what was decided of a train or burst is the operand of its command. -/
namespace Sys2Proof.Machine

/-- Link states (R265). -/
def lsOff : Nat := 0
def lsWake : Nat := 1
def lsUp : Nat := 2
def lsDn : Nat := 3
def lsXchg : Nat := 4
def lsRun : Nat := 5
def lsLost : Nat := 6

/-- State of the link. -/
def linkState (x : Chip) : Nat := fget x F.LINK_STATE_state

/-- Number of the last train sent or accepted (R249). -/
def trainNow (x : Chip) : Nat := (rd x R.LINK_TRAIN).toNat

/-- The receiver's state changes (R231, R246): direction 0 at a foot, 1 at a head. -/
def setRx (x : Chip) (st : Nat) : Chip :=
  let old := fget x F.LINK_PHY_STATUS_rx
  if old = st then x
  else raise (fset x F.LINK_PHY_STATUS_rx st) srcLink 0x0A (b1 (if isHead x then 1 else 0) ++ b1 old ++ b1 st)

/-- The foot's wait for a response ends with a status (R267). -/
def waitDone (x : Chip) (status : Nat) : Chip :=
  mboxDone { x with cp := { x.cp with wait := none, freeLeft := 0 } } status 0

/-- The link left RUN: a foot that waits for a response is answered ABORTED (R267). -/
def cpAborts (x : Chip) : Chip :=
  match x.cp.wait with
  | some w => if w.run then waitDone x stAborted else x
  | none => x

/-- Maps, schedules and what waits to be sent go as the link leaves RUN or trains (R266): the map in force stays at a head
that is lost, which goes on sending with it (R265). -/
def linkForget (x : Chip) (lostHead : Bool) : Chip :=
  let keep := fun (d : Nat) (y : Chip) => if lostHead then setDir y d { dirOf y d with now := (dirOf x d).now } else y
  keep 1 (keep 0 (mapsClear { x with lk := { x.lk with out := [], hdr := none, notchDue := false }, toLink := [] }))

/-- Tilt and attenuation as set, with the transmitter off (R235). -/
def txLoad (x : Chip) : Chip :=
  { x with lk := { x.lk with tiltNow := sext 6 (fget x F.LINK_TX_CFG_tilt), attenNow := (fget x F.LINK_TX_CFG_atten : Nat) } }

/-- What an entry into a link state from another does (R235, R242, R259, R264 to R266, R271). -/
def linkEnter (x : Chip) (old st : Nat) : Chip :=
  let x1 := if st ≤ lsUp ∨ st = lsLost ∨ old = lsRun then linkForget x (isHead x && st == lsLost) else x
  match st with
  | 2 =>
    let x2 := count (if isFoot x then txLoad x1 else x1) R.LINK_TRAIN_COUNT (protoWrap 9) 1
    let us := if isHead x then max 600 (min 1200 (fget x F.LINK_LATENCY_us)) else x.lk.latency
    { x2 with lk := { x2.lk with bursts := 0, empties := 0, latency := us } }
  | 4 => { x1 with lk := { x1.lk with notchDue := true }, idmapDue := isFoot x }
  | 5 =>
    { (if isFoot x then clashClear x1 else discAll x1) with lk := { x1.lk with
      sampleDue := true, back := if isFoot x then some x.tm.ticks else none } }
  | 6 => count x1 R.LINK_LOST_COUNT (protoWrap 6) 1
  | _ => x1

/-- The receiver searches again on some entries (R231, R265). -/
def linkRx (x : Chip) (st : Nat) : Chip :=
  if (isHead x && (st == lsUp || st == lsLost)) || (isFoot x && (st == lsWake || st == lsLost)) then
    setRx { x with lk := { x.lk with expect := none, slot := none } } 1
  else x

/-- The link state changes (R265, R274). -/
def setLinkState (x : Chip) (st : Nat) : Chip :=
  let old := linkState x
  if old = st then x
  else
    let x1 := fset { x with lk := { x.lk with trains := 0, missing := 0, noBurst := 0 } } F.LINK_STATE_state st
    let x2 := linkRx (linkEnter x1 old st) st
    let x3 := setCause (raise x2 srcLink 0x0B (b1 old ++ b1 st ++ b4 (trainNow x))) .link
    let ref := if st = lsLost then some (lastRef x3 srcLink) else if st = lsRun then none else x3.lk.lostRef
    let x4 := { x3 with lk := { x3.lk with lostRef := ref } }
    if old = lsRun then cpAborts x4 else x4

/-- Nothing is sent. -/
def Wave.none : Wave := ⟨[], [], 0, 0⟩

/-- What tilt and attenuation in force make of each subcarrier (R235): tilt from -1/2 to +1/2 over them in ascending frequency,
less the attenuation, in 1/(4 (N - 1)) dB. -/
def txGain (x : Chip) (d : Nat) : List Int :=
  let m : Int := subcarriers d - 1
  (List.range (subcarriers d)).map fun n => 2 * x.lk.tiltNow * (n : Int) - x.lk.tiltNow * m - 2 * x.lk.attenNow * m

/-- A symbol of pilots only that rises or falls over 10.0 µs on the downlink (R237). -/
def rampWave (x : Chip) (up : Bool) : Wave :=
  ⟨[pilotSymbol 0 x.lk.dn.notches], txGain x 0, if up then 10000 else 0, if up then 0 else 10000⟩

/-- The link goes to OFF (R237, R265, R344), its receiver to a state: a head that transmits ramps down, or stops at once. -/
def linkLeaveTo (x : Chip) (ramp : Bool) (rx : Nat) : Chip :=
  let notches := x.lk.dn.notches
  let x1 := setLinkState x lsOff
  let x2 := if fon x1 F.LINK_PHY_STATUS_tx_on then
      (if ramp then
        fset { x1 with lk := { x1.lk with wave := { rampWave x1 false with symbols := [pilotSymbol 0 notches] } } }
          F.LINK_PHY_STATUS_ramp 1
        else fsets { x1 with lk := { x1.lk with wave := Wave.none } } [(F.LINK_PHY_STATUS_tx_on, 0), (F.LINK_PHY_STATUS_ramp, 0)])
    else { x1 with lk := { x1.lk with wave := Wave.none } }
  setRx { x2 with lk := { x2.lk with out := [], slot := none, hdr := none }, toLink := [] } rx

/-- The link goes to OFF; a head's receiver searches for free bursts (R265). -/
def linkLeave (x : Chip) (ramp : Bool) : Chip := linkLeaveTo x ramp (if isHead x then 1 else 0)

/-- The head trains from OFF or LOST (R237, R249, R265): the next train after a ramp-up is train 0. -/
def linkTrain (x : Chip) : Chip :=
  if isHead x && dUp x && !shed x && (linkState x == lsOff || linkState x == lsLost) then
    let x1 := if fon x F.LINK_PHY_STATUS_tx_on = false ∨ linkState x = lsOff then
        fsets { x with lk := { x.lk with next := 0, slot := none } } [(F.LINK_PHY_STATUS_tx_on, 1), (F.LINK_PHY_STATUS_ramp, 1)]
      else x
    let x2 := setLinkState (if fon x F.LINK_PHY_STATUS_tx_on then x1 else txLoad x1) lsUp
    if fon x2 F.LINK_PHY_STATUS_ramp then { x2 with lk := { x2.lk with wave := rampWave x2 true } } else x2
  else x

/-- The link of a part in ACTIVE or QUIET starts by itself where it may (R265): a foot with `auto` wakes the head, a head's
receiver searches for free bursts. -/
def linkAuto (x : Chip) : Chip :=
  if !(dUp x && !shed x) then x
  else if isFoot x && fon x F.LINK_CTRL_auto && linkState x == lsOff then setLinkState x lsWake
  else if isHead x && linkState x == lsOff then setRx x 1
  else x

/-- TX_RAMP (R237): a ramp on pilots-only symbols ends; a train follows the ramp up, nothing the ramp down. -/
def execTxRamp (up : Bool) (s : State) : Outc :=
  .next (if fon s.chip F.LINK_PHY_STATUS_ramp = true ∧ up = decide (linkState s.chip ≠ lsOff) then
      onChip (fun x =>
        fsets { x with lk := { x.lk with wave := Wave.none } }
          [(F.LINK_PHY_STATUS_ramp, 0), (F.LINK_PHY_STATUS_tx_on, up.toNat)]) s
    else s)

/-- LINK_RESTART (R265): either end to OFF; a foot goes on to WAKE. -/
def linkRestart (x : Chip) : Chip :=
  let x1 := linkLeave x true
  if isFoot x1 && (dUp x1 && !shed x1) then setLinkState x1 lsWake else x1

/-- LINK_RESTART (R265). -/
def execLinkRestart (s : State) : Outc :=
  .next (if mgmtUp s.chip && !isSolo s.chip then onChip linkRestart s else s)

/-- A header block with its CRC (R250 to R252). -/
def hdrBlock (body : List Byte) : List Byte := body ++ le 2 (crc16 body)

/-- Phase of a downlink header (R250). -/
def phaseOf (st : Nat) : Nat := if st = lsUp then 1 else if st = lsDn then 2 else if st = lsXchg then 3 else 0

/-- Schedule fields of a direction: next id and train (R250). -/
def schedFields (l : LinkDir) : Nat × Nat :=
  match l.sched with
  | some s => (s.map.id, s.at_)
  | none => (l.now.id, 0)

/-- The downlink header of train k (R250). -/
def dnHeader (x : Chip) (k : Nat) : List Byte :=
  let d := schedFields x.lk.dn
  let u := schedFields x.lk.up
  let flags := phaseOf (linkState x) + (if pstate x = 1 then 8 else 0) + (if linkState x = lsLost then 16 else 0)
  hdrBlock (b4 k ++ b1 x.lk.dn.now.id ++ b1 x.lk.up.now.id ++ b1 flags ++ b1 d.1 ++ b4 d.2 ++ b1 u.1 ++ b4 u.2
    ++ b2 x.lk.latency ++ b1 1 ++ List.replicate 6 0)

/-- An upstream header (R251). -/
def upHeader (train nsym umap dmap : Nat) (sound : Bool) : List Byte :=
  hdrBlock (b4 train ++ b1 nsym ++ b1 umap ++ b1 sound.toNat ++ b1 dmap ++ List.replicate 18 0)

/-- The payload octets that carry segments (R254): segments, FILL where there is room, zeros, CRC-32. -/
def payloadOctets (total : Nat) (segs : List Seg) : List Byte :=
  let body := segs.flatMap segOctets
  let b := if body.length + 8 ≤ total then body ++ segOctets (linkSeg 0xF 0 []) else body
  let p := pad 0 (total - 4) b
  p ++ le 4 (crc32 p)

/-- A segment fits: the rest ends exactly at the CRC or leaves room for FILL (R254). -/
def segFits (avail used n : Nat) : Bool := used + n == avail || decide (used + n + 4 ≤ avail)

/-- A link segment may go with train or slot k. -/
def OutSeg.due (o : OutSeg) (k : Nat) : Bool :=
  match o.notBefore with
  | some t => !future t k
  | none => true

/-- Segments that go in order (R254, R255): those sent, those left, bytes used; the first that does not fit waits with all
after it. -/
def packSegs (avail : Nat) : List OutSeg → Nat → List Seg × List OutSeg × Nat
  | [], used => ([], [], used)
  | o :: r, used =>
    if segFits avail used (segSize o.seg) then
      let q := packSegs avail r (used + segSize o.seg)
      (o.seg :: q.1, q.2.1, q.2.2)
    else ([], o :: r, used)

/-- Link segments that go with train or slot k (R255, R261): those sent, those left, bytes used. Segments of the control path
come after the others, so that an answer to a proposal goes in the train or slot that it names. -/
def packLink (avail k : Nat) (l : List OutSeg) : List Seg × List OutSeg × Nat :=
  let later := l.filter fun o => !o.due k
  let due := l.filter fun o => o.due k
  let q := packSegs avail ((due.filter fun o => o.seg.type != 8) ++ due.filter fun o => o.seg.type == 8) 0
  (q.1, q.2.1 ++ later, q.2.2)

/-- Carriage segments that go with a train, in order (R254, R258, R259): the first that does not fit waits with all after
it. -/
def packCarr (lim : Nat) : List Seg → Nat → List Seg × List Seg
  | [], _ => ([], [])
  | s :: r, used =>
    if segFits lim used (segSize s) then let q := packCarr lim r (used + segSize s); (s :: q.1, q.2) else ([], s :: r)

/-- A held map is acknowledged in train or slot k once no map is scheduled, not in that of a switch itself (R262), or rejected
where a notch set announced meanwhile asks for it (R264). -/
def ackHeld (x : Chip) (d k : Nat) : Chip :=
  let l := dirOf x d
  match l.sched, l.held with
  | none, some m =>
    if transmits x d = false ∨ l.switched = some k then x
    else
      let y := setDir x d { l with held := none }
      let why := nakOf l d m
      if why = 0 then acknowledge y d m k else rejectMap y d m.id why k
  | _, _ => x

/-- A switch due at train or slot k (R261); at a switch of its downlink map the head sheds what no longer fits (R208). -/
def switchDue (x : Chip) (d k : Nat) : Chip :=
  match (dirOf x d).sched with
  | some s =>
    if future s.at_ k then x
    else
      let y := mapSwitch x d k s.map s.notch
      if isHead x && d == 0 then after srcLink (fun z => shedLoop z 256) y else y
  | none => x

/-- The head enters RUN once both exchanged maps are in force (R265). -/
def headRun (x : Chip) : Chip :=
  if isHead x && (linkState x == lsXchg && (x.lk.dn.now.id != 0 && x.lk.up.now.id != 0)) then setLinkState x lsRun else x

/-- A transmitter announces its notch set (R264). -/
def notchAnnounce (x : Chip) (d : Nat) : Chip :=
  if x.lk.notchDue then
    let set := notchSet x d
    let x1 := setDir { x with lk := { x.lk with notchDue := false } } d { dirOf x d with announced := some set }
    sendSeg x1 (linkSeg 0xC 0 (b1 set.length ++ set.flatMap fun e => b2 e.1 ++ b2 e.2)) none
  else x

/-- The slot of the last train is over at the head (R229, R239, R245, R265), with the power heard in it: a slot without a valid
burst is counted, but for the noise slots of RUN; an empty one of sounding, or a noise slot, measures the noise unless a burst
was discarded in it. -/
def slotDone (x : Chip) (noise : List Nat) : Chip :=
  match x.lk.slot with
  | none | some 1 => x
  | some v =>
    let up := linkState x == lsUp
    let quiet := linkState x == lsRun && trainNow x % 16 == 7
    let y := if v = 0 ∧ noise ≠ [] ∧ (up || quiet) = true then measure x 1 [] up [noise] else x
    if up then
      { y with lk := { y.lk with empties := y.lk.empties + (if v = 0 then 1 else 0), noBurst := y.lk.noBurst + 1 } }
    else if linkState x = lsRun ∧ quiet = false then { y with lk := { y.lk with noBurst := y.lk.noBurst + 1 } }
    else y

/-- A level moves toward a target by at most two half-dB steps (R235). -/
def levelStep (now target : Int) : Int := if now < target then min (now + 2) target else max (now - 2) target

/-- Tilt and attenuation at a train or burst boundary (R235). -/
def txLevels (x : Chip) : Chip :=
  { x with lk := { x.lk with
    tiltNow := levelStep x.lk.tiltNow (sext 6 (fget x F.LINK_TX_CFG_tilt)),
    attenNow := levelStep x.lk.attenNow (fget x F.LINK_TX_CFG_atten : Nat) } }

/-- The SAMPLE message of train k (R271). -/
def sampleMsg (x : Chip) (k : Nat) : Chip :=
  if linkState x = lsRun ∧ (k % 64 = 0 ∨ x.lk.sampleDue = true) then
    sendSeg { x with lk := { x.lk with sampleDue := false } }
      (linkSeg 9 0 (b4 k ++ le 8 x.tm.stime.toNat ++ le 8 x.tm.ticks.toNat ++ b2 (epoch x))) none
  else x

/-- Maps and proposals at the start of train k at the head (R261, R262). -/
def headMaps (x : Chip) (k : Nat) : Chip :=
  let x1 := if linkState x = lsXchg ∨ linkState x = lsRun then notchAnnounce x 0 else x
  proposalsArrive (headRun (switchDue (switchDue (ackHeld x1 0 k) 0 k) 1 k)) 0 k

/-- Whether trains or bursts of a link state carry a payload. -/
def carries (st : Nat) : Bool := st == lsXchg || st == lsRun || st == lsLost

/-- What train k carries and what waits on (R254, R258, R259). -/
def trainPack (x : Chip) (k : Nat) : Chip × List Seg :=
  if carries (linkState x) then
    let avail := segBytes 0 x.lk.dn.now (trainSymbols k)
    let q := packLink avail k x.lk.out
    let c := if linkState x = lsRun then packCarr (avail - max (linkReserve avail) q.2.2) x.toLink 0 else ([], x.toLink)
    ({ x with lk := { x.lk with out := q.2.1 }, toLink := c.2 }, q.1 ++ c.1)
  else (x, [])

/-- The signal of train k (R222, R228, R235, R265): sounding trains of DN_SOUND carry pilots only after their header. -/
def trainWave (x : Chip) (k : Nat) (hdr : List Byte) (segs : List Seg) : Wave :=
  let l := x.lk.dn
  let n := if linkState x = lsDn then 0 else trainSymbols k
  ⟨waveOf 0 l.now l.notches k hdr (if n = 0 then [] else payloadOctets (payloadBytes 0 l.now n) segs) n (62 - n), txGain x 0,
    0, 0⟩

/-- The head sends train k (R222, R235, R249, R250, R258, R259). -/
def trainTx (noise : List Nat) (x : Chip) : Chip :=
  let k := x.lk.next
  let x1 := txLevels (sampleMsg (headMaps (slotDone x noise) k) k)
  let (x2, segs) := trainPack x1 k
  let hdr := dnHeader x2 k
  wr { x2 with lk := { x2.lk with
    next := nextTrain k, trains := x2.lk.trains + 1, slot := some 0, slotAt := k, txHdr := hdr, txSegs := segs,
    wave := trainWave x2 k hdr segs } }
    R.LINK_TRAIN (BitVec.ofNat 32 k)

/-- The head's transmitter sends trains: started, past its ramp, with the link clock (R237, R322). -/
def headSends (x : Chip) : Bool :=
  isHead x && dUp x && (fon x F.LINK_PHY_STATUS_tx_on && !fon x F.LINK_PHY_STATUS_ramp) && fon x (F.CLK_OUT_on 1)
    && decide (lsUp ≤ linkState x)

/-- TRAIN_TX (R259). -/
def execTrainTx (noise : List Nat) (s : State) : Outc := .next (if headSends s.chip then onChip (trainTx noise) s else s)

/-- UP_SOUND_DONE (R265). -/
def execUpSoundDone (s : State) : Outc :=
  .next (if isHead s.chip = true ∧ linkState s.chip = lsUp ∧ 16 ≤ s.chip.lk.bursts ∧ 16 ≤ s.chip.lk.empties then
      onChip (fun x => setLinkState x lsDn) s
    else s)

/-- TRAIN_FAIL (R265): no burst for 256 trains. -/
def execTrainFail (s : State) : Outc :=
  .next (if isHead s.chip = true ∧ linkState s.chip = lsUp ∧ 256 ≤ s.chip.lk.noBurst then
      onChip (fun x => linkLeave (raise x srcLink 0x12 (b1 lsUp ++ b2s x.lk.noBurst)) true) s
    else s)

/-- DN_SOUND_DONE (R265): 8 trains sent. -/
def execDnSoundDone (s : State) : Outc :=
  .next (if isHead s.chip = true ∧ linkState s.chip = lsDn ∧ 8 ≤ s.chip.lk.trains then
      onChip (fun x => setLinkState x lsXchg) s
    else s)

/-- MAP_XCHG_TIMEOUT (R265): 64 trains without both maps. -/
def execMapXchgTimeout (s : State) : Outc :=
  .next (if isHead s.chip = true ∧ linkState s.chip = lsXchg ∧ 64 ≤ s.chip.lk.trains then
      onChip (fun x => setLinkState x lsUp) s
    else s)

/-- The link is lost (R245, R265, R322): four missing trains at the foot, 128 slots without a valid burst at the head, the
link clock switched off at either; a band search stops it for too short a time (R325). -/
def linkLostNow (x : Chip) : Bool :=
  let dark := !fon x (F.CLK_OUT_en 1)
  (isFoot x && (decide (lsUp ≤ linkState x) && decide (linkState x ≤ lsRun) && (dark || decide (4 ≤ x.lk.missing))))
    || (isHead x && (linkState x == lsRun && (dark || decide (128 ≤ x.lk.noBurst))))

/-- LINK_LOST (R265). -/
def execLinkLost (s : State) : Outc :=
  .next (if linkLostNow s.chip then onChip (fun x => setLinkState x lsLost) s else s)

/-- Gain, carrier offset and sampling offset as tracked (R232, R233), held at the ends of their ranges. -/
def trackShow (x : Chip) (cfo sco : Int) : Chip :=
  let c := max (-20000) (min cfo 20000)
  let o := max (-10000) (min sco 10000)
  let x1 := fsets x [(F.LINK_TRACK_cfo, tcomp 16 c), (F.LINK_TRACK_sco, tcomp 16 o)]
  if cfo.natAbs < 20000 ∧ sco.natAbs < 10000 then x1
  else raise (fset x1 F.LINK_PHY_STATUS_track_lim 1) srcLink 0x03 (i2 c ++ i2 o)

/-- The gain after an update of the AGC (R232) by the power ahead of it: toward an RMS of -15 dBFS, no more than 6 dB from the
one before, within its range; and whether the loop would pass an end of the range, low or high. -/
def agcStep (acc : Nat × Option Bool) (level : Int) : Nat × Option Bool :=
  let g := max ((acc.1 : Int) - 24) (min (-60 - level) (acc.1 + 24))
  if g < 0 then (0, some false) else if 127 < g then (127, some true) else (g.toNat, acc.2)

/-- Updates of the AGC in a train (R232): every 1.25 µs while searching, until the sync word is accepted after symbol 1; in
LOCKED at symbols 0 and 1 alone, at every symbol where the train is missing. -/
def agcUpdates (x : Chip) (missing : Bool) : Nat :=
  if fget x F.LINK_PHY_STATUS_rx = 2 then (if missing then 64 else 2) else 272

/-- The AGC's gain over a train (R232). -/
def agcShow (x : Chip) (levels : List Int) (missing : Bool) : Chip :=
  let r := (levels.take (agcUpdates x missing)).foldl agcStep (fget x F.LINK_AGC_gain, none)
  let x1 := fset x F.LINK_AGC_gain r.1
  match r.2 with
  | none => x1
  | some high => raise (fset x1 F.LINK_PHY_STATUS_agc_lim 1) srcLink 0x02 (b1 r.1 ++ b1 high.toNat)

/-- A missing train (R224): counted, logged at most once per 100 ms. -/
def trainMissing (x : Chip) (errs : Nat) : Chip :=
  let x1 := count x R.LINK_SYNC_MISS_COUNT F.LINK_PHY_STATUS_miss_wrap 1
  let r := limitAdd x1 x1.lk.miss 1
  let x2 := { x1 with lk := { x1.lk with
    miss := r.1, missing := x1.lk.missing + 1, hdr := none, expect := x1.lk.expect.map nextTrain, slot := none } }
  match r.2 with
  | some n => raise x2 srcLink 0x01 (b2s n ++ b1 (min errs 32))
  | none => x2

/-- The header that follows an accepted one (R253), bytes 0 to 25. -/
def predictHdr (h : List Byte) : List Byte :=
  let k := nextTrain (field h 0 4)
  let sw := fun cur next at_ => field h next 1 ≠ field h cur 1 ∧ field h at_ 4 = k
  let d := decide (sw 4 7 8)
  let u := decide (sw 5 12 13)
  b4 k ++ b1 (field h (if d then 7 else 4) 1) ++ b1 (field h (if u then 12 else 5) 1) ++ b1 (field h 6 1)
    ++ b1 (field h 7 1) ++ b4 (if d then 0 else field h 8 4) ++ b1 (field h 12 1) ++ b4 (if u then 0 else field h 13 4)
    ++ (h.drop 17).take 9

/-- The CRC of a header passes (R252). -/
def hdrCrcOk (h : List Byte) : Bool := h.length == 28 && crc16 (h.take 26) == field h 26 2

/-- A downlink header that counts as passed (R252). -/
def dnHdrOk (h : List Byte) : Bool := hdrCrcOk h && (field h 19 1 == 1 && decide (field h 6 1 % 8 < 4))

/-- An upstream header that counts as passed (R252). -/
def upHdrOk (h : List Byte) : Bool := hdrCrcOk h && decide (field h 4 1 ≤ 21)


/-- A header accepted by prediction (R253, R274). -/
def hdrPredicted (x : Chip) : Chip :=
  let x1 := count x R.LINK_HDR_PREDICTED (protoWrap 0) 1
  let r := limitAdd x1 x1.lk.predicted 1
  let x2 := { x1 with lk := { x1.lk with predicted := r.1 } }
  match r.2 with
  | some n => raise x2 srcLink 0x0C (b2s n)
  | none => x2

/-- The segments of a payload end: exactly at the CRC, with FILL (whether a byte after it is not 0), or past the CRC. -/
inductive SegEnd where
  | exact
  | fill (nonzero : Bool)
  | past
  deriving DecidableEq, Repr

/-- The segments of a payload with their offsets (R254, R255); fuel is the number of octets. -/
def readSegs : Nat → List Byte → Nat → List (Nat × Seg) × SegEnd
  | 0, _, _ => ([], .exact)
  | f + 1, l, off =>
    if l.isEmpty then ([], .exact)
    else if l.length < 4 then ([], .past)
    else
      let w := field l 0 4
      let flags := w / 4096 % 16
      let h := if flags / 8 % 2 = 1 then 12 else 4
      let n := w / 65536 % 4096
      if w / 256 % 16 = 15 then ([], .fill ((l.drop 4).any fun b => b != 0))
      else if l.length < h + n then ([], .past)
      else
        let s : Seg := ⟨w % 256, w / 256 % 16, flags, (l.drop h).take n, if h = 12 then some (field l 4 8) else none⟩
        let q := readSegs f (l.drop (h + n)) (off + h + n)
        ((off, s) :: q.1, q.2)

/-- The codewords that hold n bytes from an offset all passed (R257). -/
def cwPassed (fast : Bool) (fails : List Nat) (off n : Nat) : Bool :=
  fails.all fun c => decide (c < 8 * off / infoBits fast) || decide ((8 * (off + n) - 1) / infoBits fast < c)

/-- Segments dropped (R257, R274). -/
def segDrop (x : Chip) (n : Nat) : Chip :=
  if n = 0 then x
  else
    let x1 := count x R.LINK_SEG_DROP_COUNT (protoWrap 4) n
    let r := limitAdd x1 x1.lk.segDrop n
    let x2 := { x1 with lk := { x1.lk with segDrop := r.1 } }
    match r.2 with
    | some m => raise x2 srcLink 0x13 (b2s m)
    | none => x2

/-- An ACK takes effect at the proposer (R261, R262, R273). -/
def ackArrives (x : Chip) (d id s k : Nat) : Chip :=
  let l := dirOf x d
  match l.mine.find? fun m => m.id == id with
  | some m =>
    if future s k then
      setDir x d { l with
        sched := some ⟨m, s, l.announced⟩,
        asked := if (l.asked.map Prod.fst) = some id then none else l.asked }
    else propose (peerViol x 7 k) d k
  | none => propose (peerViol x 7 k) d k

/-- A MAP segment of train or slot k (R260 to R263, R273). -/
def mapSegment (x : Chip) (k : Nat) (s : Seg) : Chip :=
  let p := s.payload
  let d := field p 1 1 % 2
  match field p 0 1 with
  | 0 =>
    if p.length = 38 ∧ transmits x d = true then
      let l := dirOf x d
      setDir x d { l with inbox := l.inbox ++ [⟨s.id, p, (k + 2) % 2 ^ 32⟩] }
    else peerViol x 8 k
  | 1 =>
    if p.length ≠ 8 then peerViol x 8 k
    else if transmits x d then let own := if isHead x then 1 else 0; propose (peerViol x 7 k) own k
    else ackArrives x d s.id (field p 4 4) k
  | 2 =>
    if p.length ≠ 8 ∨ transmits x d = true then peerViol x 8 k
    else
      let l := dirOf x d
      setDir x d { l with asked := if (l.asked.map Prod.fst) = some s.id then none else l.asked }
  | _ => peerViol x 8 k

/-- One segment that is delivered (R256, R273): carriage segments of a train are kept for their release; CTRL, TIME, IDMAP
and NOTCH segments are commands of their own. -/
def deliverSeg (up : Bool) (k : Nat) (acc : Chip × List Seg) (s : Seg) : Chip × List Seg :=
  let x := acc.1
  if (5 ≤ s.type ∧ s.type ≤ 7) ∨ s.type = 0xD ∨ s.type = 0xE then (peerViol x 4 k, acc.2)
  else if up = true ∧ 1024 < s.payload.length then (peerViol x 6 k, acc.2)
  else if s.type = 0xA then (mapSegment x k s, acc.2)
  else if s.type ≤ 4 ∧ up = false then
    let r := linkArrive x s
    if r.2 then (r.1, acc.2 ++ [s]) else (r.1, acc.2)
  else acc

/-- A payload delivered (R254, R257, R273): codewords and CRC judged, segments read in order. -/
def deliverPayload (x : Chip) (up : Bool) (k : Nat) (m : LoadMap) (payload : List Byte) (cwFail : List Nat) :
    Chip × List Seg :=
  let avail := payload.length - 4
  let body := payload.take avail
  let crcOk := crc32 body == field payload avail 4
  let x1 := if cwFail.isEmpty then x else
    let y := count x R.LINK_CW_FAIL_COUNT (protoWrap 2) cwFail.length
    { y with lk := { y.lk with
      cwFails := (y.lk.cwFails.filter fun e => decide ((y.tm.ticks - BitVec.ofNat 48 e.1).toNat < 60 * 32768))
        ++ [(y.tm.ticks.toNat, cwFail.length)] } }
  let x2 := if crcOk then x1 else count x1 R.LINK_CRC_FAIL_COUNT (protoWrap 3) 1
  let q := readSegs body.length body 0
  let good := fun e : Nat × Seg => crcOk || (!cwFail.isEmpty && cwPassed m.fast cwFail e.1 (segSize e.2))
  let kept := q.1.filter good
  let r := (kept.map Prod.snd).foldl (deliverSeg up k) (x2, [])
  let x3 := match q.2 with
    | .past => if crcOk then peerViol r.1 3 k else r.1
    | .fill true => if crcOk then peerViol r.1 5 k else r.1
    | _ => r.1
  (segDrop x3 (q.1.length - kept.length + (if q.2 = .past then 1 else 0)), r.2)

/-- The foot's state follows the header's phase (R265). -/
def footPhase (x : Chip) (phase : Nat) (ulost : Bool) : Chip :=
  match phase with
  | 1 => setLinkState x lsUp
  | 2 => setLinkState x lsDn
  | 3 => setLinkState x lsXchg
  | _ =>
    let x1 := if linkState x = lsXchg then setLinkState x lsRun else x
    if ulost && linkState x1 == lsRun then setLinkState x1 lsLost else x1

/-- A downlink schedule that a header tells and the foot did not learn from its ACK (R250, R261). -/
def adoptSched (x : Chip) (h : List Byte) : Chip :=
  let l := x.lk.dn
  if field h 7 1 ≠ field h 4 1 ∧ l.sched.isNone = true then
    match l.mine.find? fun m => m.id == field h 7 1 with
    | some m => setDir x 0 { l with sched := some ⟨m, field h 8 4, l.announced⟩ }
    | none => x
  else x

/-- The map that train k names at the foot (R261, R273): in force from here on, or not held. -/
def footMap (x : Chip) (h : List Byte) (k : Nat) : Chip × Option LoadMap :=
  let x1 := switchDue (adoptSched x h) 0 k
  let id := field h 4 1
  match heldContents x1.lk.dn 0 id with
  | some m => (if id = x1.lk.dn.now.id then x1 else mapSwitch x1 0 k m none, some m)
  | none => (propose (peerViol x1 2 k) 0 k, none)

/-- The slot of train k begins at the foot (R239, R261, R262): in a noise slot nothing is answered, since no burst carries the
answer; what has arrived waits for the next. -/
def footSlot (x : Chip) (k : Nat) : Chip :=
  let x1 := { x with lk := { x.lk with slot := some 0, slotAt := k } }
  if linkState x = lsXchg ∨ linkState x = lsRun then
    if k % 16 = 7 then switchDue x1 1 k else proposalsArrive (switchDue (ackHeld (notchAnnounce x1 1) 1 k) 1 k) 1 k
  else x1

/-- A header discarded (R253, R265, R274): its train opens its slot all the same, by the number that it was expected to have. -/
def hdrBad (x : Chip) : Chip :=
  let x1 := count x R.LINK_HDR_BAD_COUNT (protoWrap 1) 1
  let r := limitAdd x1 x1.lk.bad 1
  let x2 := { x1 with lk := { x1.lk with bad := r.1, hdr := none, expect := x1.lk.expect.map nextTrain, slot := none } }
  let x3 := match r.2 with
    | some n => raise x2 srcLink 0x0D (b2s n)
    | none => x2
  match x1.lk.expect with
  | some k => footSlot x3 k
  | none => x3

/-- The steering of the foot's link-locked ports in RUN (R36, R233): it follows the sampling offset; after RUN was left it
slews back by no more than 20 ppm in a second. -/
def steerStep (x : Chip) : Chip :=
  let goal := sext 16 (fget x F.LINK_TRACK_sco)
  if linkState x ≠ lsRun then x
  else match x.lk.back with
    | none => { x with lk := { x.lk with steer := goal } }
    | some t =>
      let lim := ((x.tm.ticks - t).toNat * 2000 / 32768 : Nat)
      let v := max (x.lk.steer - lim) (min goal (x.lk.steer + lim))
      if lim = 0 then x
      else { x with lk := { x.lk with steer := v, back := if v = goal then none else some x.tm.ticks } }

/-- A train whose header was accepted (R249, R250, R259, R265). -/
def trainAccepted (x : Chip) (o : TrainObs) (h : List Byte) (predicted : Bool) : Chip :=
  let k := field h 0 4
  let x1 := if !predicted && (match x.lk.expect with
    | some e => e != k
    | none => false) then peerViol x 1 k else x
  let flags := field h 6 1
  if flags % 8 = 0 ∧ (linkState x = lsLost ∨ linkState x = lsWake) then x1
  else
    let us := field h 17 2
    let l := { x1.lk with latency := us, idle := flags / 8 % 2 == 1 }
    let x2 := fset (wr { x1 with lk := l, cp := { x1.cp with heard := some (k, x1.tm.ticks) } } R.LINK_TRAIN (BitVec.ofNat 32 k))
      F.LINK_LATENCY_us us
    let y := footPhase x2 (flags % 8) (flags / 16 % 2 == 1)
    let x3 := steerStep { y with lk := { y.lk with hdr := some (h.take 26), expect := some (nextTrain k) } }
    if linkState x3 = lsLost then x3
    else
      let x4 := measure x3 0 o.gain (flags % 8 == 2)
        (if flags % 8 = 2 then o.quiet else if flags % 8 = 0 ∧ k % 16 = 15 then o.quiet.take 1 else [])
      let x5 := o.descs.foldl (fun y e => mirrorDesc y e.1 e.2.1 e.2.2) x4
      let (x6, m) := footMap (footSlot x5 k) h k
      match m with
      | none => x6
      | some map =>
        if flags % 8 = 1 ∨ flags % 8 = 2 then x6
        else
          let r := deliverPayload x6 false k map o.payload o.cwFail
          { r.1 with lk := { r.1.lk with release := r.1.lk.release ++ [r.2] } }

/-- A train whose sync word is accepted with a number of bit errors (R224, R231, R253), its header as decided. -/
def trainHeard (x : Chip) (o : TrainObs) (errs : Nat) (hdr : List Byte) : Chip :=
  let x1 := setRx (trackShow { x with lk := { x.lk with missing := 0 } } o.cfo o.sco) 2
  let x2 := if errs = 0 then x1 else count x1 R.LINK_SYNC_FIX_COUNT F.LINK_PHY_STATUS_fix_wrap 1
  if dnHdrOk hdr then trainAccepted x2 o hdr false
  else match x.lk.hdr with
    | some p => if hdr.take 26 = predictHdr p then trainAccepted (hdrPredicted x2) o hdr true else hdrBad x2
    | none => hdrBad x2

/-- A train at the foot by its sync word's bit errors and its header as decided (R224, R232). -/
def trainJudge (x : Chip) (o : TrainObs) (errs : Nat) (hdr : List Byte) : Chip :=
  let missing := decide (syncTol x < errs)
  let x1 := agcShow x o.levels missing
  if missing then trainMissing x1 errs else trainHeard x1 o errs hdr

/-- A train at the foot (R224). -/
def trainRx (x : Chip) (o : TrainObs) : Chip :=
  let bits := headerDecide o.soft
  trainJudge x o (syncErrors (bits.take 32)) (headerOf bits)

/-- The foot's receiver takes trains: it runs, with the link clock (R231, R322). -/
def footReceives (x : Chip) : Bool :=
  isFoot x && dUp x && fon x (F.CLK_OUT_on 1) && (fon x F.LINK_PHY_STATUS_rx && linkState x != lsOff)

/-- TRAIN_RX (R224). -/
def execTrainRx (o : TrainObs) (s : State) : Outc := .next (if footReceives s.chip then onChip (fun x => trainRx x o) s else s)

/-- SEGMENT_RELEASE (R259): the oldest train's segments go to the foot's outputs. -/
def execSegmentRelease (s : State) : Outc :=
  .next (match s.chip.lk.release with
    | [] => s
    | l :: r => onChip (fun x => l.foldl outArrive { x with lk := { x.lk with release := r } }) s)

/-- The foot's IDMAP segment (R210, R256). -/
def idmapSend (x : Chip) : Chip :=
  if x.idmapDue then sendSeg { x with idmapDue := false } (linkSeg 0xB 0 (originMap x)) none else x

/-- A burst of the foot as it is sent (R238, R239, R251), with its ramps of 1.0 µs: pilots only in the payload symbols of a
sounding burst. -/
def burstSent (x : Chip) (nsym : Nat) (sound : Bool) (segs : List Seg) : Chip :=
  let l := x.lk.up
  let k := x.lk.slotAt
  let hdr := upHeader k nsym l.now.id x.lk.dn.now.id sound
  let n := if sound then 0 else nsym
  let w := waveOf 1 l.now l.notches k hdr (if n = 0 then [] else payloadOctets (payloadBytes 1 l.now n) segs) n (nsym - n)
  { x with lk := { x.lk with slot := some 1, txSegs := segs, txHdr := hdr, wave := ⟨w, txGain x 1, 1000, 1000⟩ } }

/-- The burst in the slot of the last train (R239, R265): sounding in even slots, else link segments, none in a noise
slot. -/
def burstTx (x : Chip) : Chip :=
  let k := x.lk.slotAt
  if linkState x = lsUp then (if k % 2 = 0 then burstSent (txLevels x) 21 true [] else x)
  else if k % 16 = 7 then x
  else
    let x1 := txLevels (idmapSend x)
    let q := packLink (segBytes 1 x1.lk.up.now 21) k x1.lk.out
    burstSent { x1 with lk := { x1.lk with out := q.2.1 } } (if q.1.isEmpty then 0 else 21) false q.1

/-- BURST_TX (R239). -/
def execBurstTx (s : State) : Outc :=
  let x := s.chip
  .next (if footReceives x = true ∧ x.lk.slot = some 0 ∧
      (linkState x = lsUp ∨ linkState x = lsXchg ∨ linkState x = lsRun) then onChip burstTx s else s)

/-- A burst discarded at the head (R245, R253, R273). -/
def burstBad (x : Chip) : Chip := count x R.LINK_UP_BAD_COUNT (protoWrap 5) 1

/-- The round trip that a burst's arrival after its train's start shows (R239, R265). -/
def roundTrip (o : BurstObs) : Int := o.at_ - 5000

/-- A burst arrives where it is expected (R239, R265): in sounding 5.0 to 25.0 µs after the train's start, else within 0.8 µs
of the round trip measured then. -/
def inWindow (x : Chip) (o : BurstObs) : Bool :=
  if linkState x = lsUp then decide (5000 ≤ o.at_) && decide (o.at_ ≤ 25000)
  else decide ((roundTrip o - (fget x F.LINK_RTT_ns : Nat)).natAbs ≤ 800)

/-- A valid burst in the slot of train k (R229, R239, R257, R265), its sync word accepted. -/
def burstGood (x : Chip) (o : BurstObs) (hdr : List Byte) (k : Nat) : Chip :=
  let x1 := if field hdr 0 4 = k then x else peerViol x 1 k
  let x2 := trackShow { x1 with lk := { x1.lk with slot := some 1, noBurst := 0 } } o.cfo o.sco
  let x3 := measure x2 1 o.gain (linkState x == lsUp) []
  if linkState x = lsUp then
    fset { x3 with lk := { x3.lk with bursts := x3.lk.bursts + 1 } } F.LINK_RTT_ns (sat 16 (roundTrip o).toNat)
  else if carries (linkState x) = true ∧ field hdr 6 1 % 2 = 0 then
    match heldContents x3.lk.up 1 (field hdr 5 1) with
    | none => propose (peerViol x3 2 k) 1 k
    | some m => if field hdr 4 1 = 0 then x3 else (deliverPayload x3 true k m o.payload o.cwFail).1
  else x3

/-- A burst at the head in the slot of the last train (R231, R239, R245, R253), its header as decided: one out of its window or
in a noise slot is ignored, any other has been found by its sync word. A slot with a discarded burst measures no noise. -/
def burstJudge (x : Chip) (o : BurstObs) (hdr : List Byte) : Chip :=
  let k := trainNow x
  let x1 := { x with lk := { x.lk with slot := some 2 } }
  if inWindow x o = false ∨ (k % 16 = 7 ∧ linkState x ≠ lsUp) then burstBad x1
  else if upHdrOk hdr = false then burstBad (setRx x1 2)
  else burstGood (setRx x1 2) o hdr k

/-- A burst at the head (R224, R239): one whose sync word is not accepted is not received. -/
def burstRx (x : Chip) (o : BurstObs) : Chip :=
  let bits := headerDecide o.soft
  if syncTol x < syncErrors (bits.take 32) then x else burstJudge x o (headerOf bits)

/-- BURST_RX (R239). -/
def execBurstRx (o : BurstObs) (s : State) : Outc :=
  .next (if headSends s.chip = true ∧ s.chip.lk.slot.isSome = true ∧ linkState s.chip ≤ lsRun then
      onChip (fun x => burstRx x o) s
    else s)

/-- Train or slot at which the part now is. -/
def linkAt (x : Chip) : Nat := if isHead x then x.lk.next else x.lk.slotAt

/-- MAP_PROPOSE (R261): the proposals that have arrived are answered or held, not by a foot in a noise slot (R239). -/
def execMapPropose (dir : Nat) (s : State) : Outc :=
  .next (if dir < 2 ∧ transmits s.chip dir = true ∧ (linkState s.chip = lsXchg ∨ linkState s.chip = lsRun) ∧
      (dir = 0 ∨ linkAt s.chip % 16 ≠ 7) then
      onChip (fun x => proposalsArrive x dir (linkAt x)) s
    else s)

/-- The part proposes the maps of a direction in this link state (R260, R265). -/
def proposes (x : Chip) (d : Nat) : Bool :=
  decide (d < 2) && (!isSolo x && !transmits x d) && (linkState x == lsXchg || linkState x == lsRun)

/-- MAP_PROPOSAL (R229, R260): a map proposed by the region SNRs measured. -/
def execMapProposal (dir : Nat) (s : State) : Outc :=
  .next (if proposes s.chip dir then onChip (fun x => propose x dir (trainNow x)) s else s)

/-- A proposal sent again after 16 trains without an answer (R262). -/
def proposeAgain (x : Chip) (d : Nat) : Chip :=
  let l := dirOf x d
  match l.asked with
  | some (id, k) =>
    if 16 ≤ (trainNow x + 2 ^ 32 - k) % 2 ^ 32 then
      match l.mine.find? fun m => m.id == id with
      | some m => sendSeg (setDir x d { l with asked := some (id, trainNow x) }) (linkSeg 0xA id (proposeBytes d m)) none
      | none => x
    else x
  | none => x

/-- MAP_PROPOSE_REPEAT (R262). -/
def execMapProposeRepeat (dir : Nat) (s : State) : Outc :=
  .next (if proposes s.chip dir then onChip (fun x => proposeAgain x dir) s else s)

/-- MAP_SWITCH (R261): both ends switch at train S, before that train is sent or as it arrives. -/
def execMapSwitch (dir : Nat) (s : State) : Outc :=
  .next (if dir < 2 then
      onChip (fun x => headRun (switchDue x dir (if isHead x then x.lk.next else nextTrain (trainNow x)))) s
    else s)

/-- RATE_RECOVER (R260): 60 s without a failed codeword. -/
def execRateRecover (s : State) : Outc :=
  .next (if s.chip.lk.cwFails.all fun e =>
      decide (60 * 32768 ≤ (s.chip.tm.ticks - BitVec.ofNat 48 e.1).toNat) then
      onChip (fun x => { x with lk := { x.lk with slow := false } }) s
    else s)

/-- The pairs of a NOTCH segment (R256), none where it is malformed. -/
def notchPairs (p : List Byte) : Option (List (Nat × Nat)) :=
  let n := field p 0 1
  if n ≤ 16 ∧ p.length = 1 + 4 * n then
    some ((List.range n).map fun i => (field p (1 + 4 * i) 2, field p (3 + 4 * i) 2))
  else none

/-- NOTCH_SEGMENT (R264): the proposer takes the peer's notch set and proposes a new map. -/
def execNotchSegment (payload : List Byte) (s : State) : Outc :=
  let d := if isHead s.chip then 1 else 0
  .next (if proposes s.chip d then
      match notchPairs payload with
      | some l => onChip (fun x => propose (setDir x d { dirOf x d with announced := some l }) d (trainNow x)) s
      | none => s
    else s)

/-- A notch register was written (R218, R236, R264): nothing but the value kept in SOLO; an invalid one is logged; a changed
set is announced, and out of RUN and MAP_XCHG needs no announcement. -/
def notchWritten (x : Chip) (i : Nat) : Chip :=
  let x1 := if isSolo x then x else if fon x (F.LINK_NOTCH_en i) = true ∧ notchOk x i = false then raise x srcLink 0x09 (b1 i) else x
  if linkState x1 = lsXchg ∨ linkState x1 = lsRun then { x1 with lk := { x1.lk with notchDue := true } } else x1

/-- The octets of a whisper frame (R243, R244): the pattern with WAKE and RESET and any command but NOP. -/
def wspFrame (x : Chip) (cmd : Nat) : List Byte :=
  let args := if cmd = 0x4E then [] else le 4 (rd x R.LINK_WSP_PATTERN).toNat
  let body := b1 cmd ++ b1 args.length ++ args
  b1 0x7E ++ body ++ b1 (crc8 body)

/-- A foot sends a whisper frame (R240); its transmitters are off in STANDBY and GLIDE (R31, R39). -/
def wspTx (x : Chip) (cmd : Nat) : Chip :=
  if dUp x then { x with wsp := { x.wsp with sent := wspFrame x cmd, keyed := keying (wspFrame x cmd) } } else x

/-- WSP_SEND (R240): ignored but at a foot. -/
def execWspSend (s : State) : Outc :=
  .next (if mgmtUp s.chip && isFoot s.chip then onChip (fun x => wspTx x (fget x F.LINK_WSP_TX_cmd)) s else s)

/-- WAKE_FRAME_TX (R265): a foot in WAKE or LOST. -/
def execWakeFrameTx (s : State) : Outc :=
  .next (if isFoot s.chip = true ∧ dUp s.chip = true ∧ (linkState s.chip = lsWake ∨ linkState s.chip = lsLost) then
      onChip (fun x => wspTx x 0x57) s
    else s)

/-- A whisper error counted (R242 to R244); the keep island counts those of GLIDE for WSP_GLIDE_SUM. -/
def wspErr (x : Chip) : Chip :=
  let x1 := count x R.LINK_WSP_ERR_COUNT F.LINK_WSP_CFG_err_wrap 1
  if x.pw.phase = .glide then { x1 with pw := { x1.pw with wspGlideErr := x1.pw.wspGlideErr + 1 } } else x1

/-- An event of the whisper receiver, logged while management runs (R244). -/
def wspLog (x : Chip) (code : Nat) (args : List Byte) : Chip := if mgmtUp x then raise x srcLink code args else x

/-- The frame in progress is bad (R243, R244). -/
def wspBad (x : Chip) (why : Nat) : Chip :=
  wspLog (wspErr { x with wsp := { x.wsp with buf := [], frame := none } }) 0x05 (b1 why)

/-- A framing error (R242, R243, R245): the character and the frame are dropped. -/
def wspFraming (x : Chip) (stop0 : Bool) : Chip :=
  wspLog (wspErr { x with wsp := { x.wsp with buf := [] } }) 0x04 (b1 x.wsp.buf.length ++ b1 stop0.toNat)

/-- A frame's octets are complete (R243). -/
def wspComplete (b : List Byte) : Bool := decide (4 ≤ b.length) && b.length == 4 + field b 2 1

/-- A character taken (R243): a frame begins at 0x7E and ends early at a length above 8. -/
def wspTake (x : Chip) (c : Byte) : Chip :=
  let old := if wspComplete x.wsp.buf then [] else x.wsp.buf
  let b := if old.isEmpty then (if c = 0x7E then [c] else []) else old ++ [c]
  if b.length = 3 ∧ 8 < c.toNat then wspBad x 1 else { x with wsp := { x.wsp with buf := b } }

/-- What the receiver framed (R242). -/
def wspFramed (x : Chip) (o : Framed) : Chip :=
  match o with
  | .nothing => x
  | .falseStart => wspErr x
  | .framing stop0 => wspFraming x stop0
  | .char c => wspTake x c

/-- One reading of the envelope detector (R241, R242). -/
def wspTick (x : Chip) (mv : Nat) : Chip :=
  let r := tick x.wsp mv
  wspFramed { x with wsp := r.2 } r.1

/-- The whisper receiver of a head (R241, R353): the keep island runs it in every state, GLIDE, starts and resets included. -/
def wspRuns (x : Chip) : Bool := isHead x

/-- WSP_CHARACTER (R241, R242): the envelope's peak in mV at the ticks that have passed. -/
def execWspCharacter (mv : List Nat) (s : State) : Outc :=
  .next (if wspRuns s.chip then onChip (fun x => mv.foldl wspTick x) s else s)

/-- A complete frame (R243, R244): its CRC checked, its command known or not. -/
def wspJudge (x : Chip) : Chip :=
  let b := x.wsp.buf
  let body := (b.drop 1).take (b.length - 2)
  if crc8 body ≠ field b (b.length - 1) 1 then wspBad x 0
  else
    let x1 := count x R.LINK_WSP_RX_COUNT F.LINK_WSP_CFG_rx_wrap 1
    let x2 := if x.pw.phase = .glide then { x1 with pw := { x1.pw with wspGlideRx := x1.pw.wspGlideRx + 1 } } else x1
    if field b 1 1 ∈ [0x57, 0x52, 0x4E] then { x2 with wsp := { x2.wsp with buf := [], frame := some b } }
    else wspBad x2 3

/-- WSP_FRAME (R243). -/
def execWspFrame (s : State) : Outc :=
  .next (if wspRuns s.chip = true ∧ wspComplete s.chip.wsp.buf = true then onChip wspJudge s else s)

/-- WSP_FRAME_GAP (R243). -/
def execWspFrameGap (s : State) : Outc :=
  .next (if wspRuns s.chip = true ∧ s.chip.wsp.buf ≠ [] then onChip (fun x => wspBad x 2) s else s)

/-- A break (R242, R245): the frame in progress is abandoned with one framing error, and a start edge waits for one bit time
without carrier. -/
def wspBreak (x : Chip) : Chip :=
  wspFraming { x with wsp := { x.wsp with carrier := true, rx := none, hold := some 0 } } true

/-- WSP_BREAK (R245). -/
def execWspBreak (s : State) : Outc := .next (if wspRuns s.chip then onChip wspBreak s else s)

/-- The frame whose command is at hand. -/
def wspIs (x : Chip) (cmd : Nat) : Bool :=
  wspRuns x && (match x.wsp.frame with
    | some b => field b 1 1 == cmd
    | none => false)

/-- The frame is done with. -/
def wspSpent (x : Chip) : Chip := { x with wsp := { x.wsp with frame := none } }

/-- WAKE's or RESET's pattern argument (R244): 0 right, 1 wrong length, 4 wrong pattern. -/
def wspPattern (x : Chip) : Nat :=
  match x.wsp.frame with
  | some b => if field b 2 1 ≠ 4 then 1 else if field b 3 4 = (rd x R.LINK_WSP_PATTERN).toNat then 0 else 4
  | none => 1

/-- WSP_NOP (R244): counted only; a wrong length is an error. -/
def execWspNop (s : State) : Outc :=
  .next (if wspIs s.chip 0x4E then
      onChip (fun x => if (x.wsp.frame.map fun b => field b 2 1) = some 0 then wspSpent x else wspBad x 1) s
    else s)

end Sys2Proof.Machine
end

