-- ==== Sys2Proof/Machine/LinkCp.lean ====
section
/-! DEFINITION. The control path and time distribution (R267 to R272): REMOTE at the foot with its request, repetition,
response and timeout; free bursts; SAMPLE and WALL messages. What the head does with a request stands with the register
interfaces. -/
namespace Sys2Proof.Machine

/-- A mailbox command that may go on after its issue (R362): `body` answers the state and, where it completes at once, its
status and length. -/
def mailboxLong (code : Nat) (o : Iface) (body : State → State × Option (Nat × Nat)) (s : State) : State :=
  let x := s.chip
  if mgmtUp x then
    if mboxClosed x || fon x F.MGMT_STATUS_busy then onChip (fun y => fset y F.MGMT_STATUS_refused 1) s
    else
      let s1 := onChip (fun y => mboxIssue y o code) s
      let r := match mboxGate x code with
        | some st => (s1, some (st, 0))
        | none => body s1
      match r.2 with
      | some (st, len) => onChip (fun y => mboxDone y st len) r.1
      | none => r.1
  else s

/-- REMOTE's arguments lie within the table (R267). -/
def remoteArgsOk (x : Chip) (op : Nat) : Bool :=
  match op with
  | 1 | 2 => decide (arg x 1 ≤ 255) && decide (arg x 2 < 65536)
  | 3 => decide (arg x 3 ≤ 4096)
  | _ => decide (arg x 1 ≤ 3)

/-- The octets of a request (R268). -/
def requestOctets (s : State) (seq op : Nat) : List Byte :=
  let x := s.chip
  let head := b2 seq ++ b1 op ++ b1 (arg x 1) ++ b2 (arg x 2) ++ b2 (if op = 3 then arg x 3 else 0)
  match op with
  | 2 => head ++ winBytes s 0 (4 * arg x 1)
  | 3 => head ++ (List.range 8).flatMap (fun i => b4 (if i < 4 then arg x (4 + i) else 0)) ++ winBytes s 0 (arg x 3)
  | _ => head

/-- A message cut into CTRL segments of at most 1024 octets (R255, R268); fuel is the number of octets. -/
def ctrlSegs : Nat → List Byte → Bool → List Seg
  | 0, _, _ => []
  | f + 1, l, first =>
    let last := decide (l.length ≤ 1024)
    let s : Seg := ⟨0, 8, (if first then 2 else 0) + (if last then 1 else 0), l.take 1024, none⟩
    if last then [s] else s :: ctrlSegs f (l.drop 1024) false

/-- A message put in line as CTRL segments. -/
def sendCtrl (x : Chip) (msg : List Byte) : Chip :=
  (ctrlSegs (msg.length + 1) msg true).foldl (fun y s => sendSeg y s none) x

/-- A free burst sent (R270): map 0, the payload seed of train 0xFFFF_FFFF; the foot's transmitters are off in STANDBY and
GLIDE (R31, R39). -/
def freeBurstTx (x : Chip) (msg : List Byte) : Chip :=
  let hdr := upHeader 0xFFFFFFFF 21 0 0 false
  let segs := ctrlSegs (msg.length + 1) msg true
  let m := mapZero (regions 1)
  let w := waveOf 1 m x.lk.up.notches 0xFFFFFFFF hdr (payloadOctets (payloadBytes 1 m 21) segs) 21 0
  let y := txLoad x
  if dUp x then { y with lk := { y.lk with txHdr := hdr, txSegs := segs, wave := ⟨w, txGain y 1, 1000, 1000⟩ } } else x

/-- REMOTE begins (R267, R269, R270): the request goes out and the foot waits. -/
def remoteBegin (s : State) (op : Nat) : State :=
  let x := s.chip
  let msg := requestOctets s x.cp.seq op
  let run := linkState x == lsRun
  let x1 := { x with cp := { x.cp with
    seq := (x.cp.seq + 1) % 65536, wait := some ⟨x.cp.seq, op, msg, run⟩, freeLeft := if run then 0 else 2 } }
  { s with chip := if run then sendCtrl x1 msg else freeBurstTx x1 msg }

/-- REMOTE with operation `op` (R267): BAD_ARG outside the table, NOT_IN_STATE where the link is not in RUN and the
operation is not POWER, and at a part that is no foot. An ARG0 that names another operation of the table is another
command. -/
def remote (op : Nat) (o : Iface) (s : State) : State :=
  let a := arg s.chip 0
  if a ≠ op ∧ 1 ≤ a ∧ a ≤ 4 then s
  else mailboxLong 0x50 o (fun s =>
    let x := s.chip
    if a ≠ op ∨ remoteArgsOk x op = false then (s, some (stBadArg, 0))
    else if isFoot x = false ∨ (linkState x ≠ lsRun ∧ op ≠ 4) then (s, some (stNotInState, 0))
    else (remoteBegin s op, none)) s

/-- REMOTE_READ (R267). -/
def execRemoteRead (o : Iface) (s : State) : Outc := .next (remote 1 o s)

/-- REMOTE_WRITE (R267). -/
def execRemoteWrite (o : Iface) (s : State) : Outc := .next (remote 2 o s)

/-- REMOTE_MBOX (R267). -/
def execRemoteMbox (o : Iface) (s : State) : Outc := .next (remote 3 o s)

/-- REMOTE_POWER (R267, R270). -/
def execRemotePower (o : Iface) (s : State) : Outc := .next (remote 4 o s)

/-- A response's results at the foot (R267, R268). -/
def responseTake (s : State) (op : Nat) (msg : List Byte) : State :=
  let x1 := setArg { s.chip with cp := { s.chip.cp with wait := none, freeLeft := 0 } } 0 (field msg 3 1)
  match op with
  | 1 =>
    let data := msg.drop 4
    let s1 := putWin { s with chip := x1 } 0 data
    onChip (fun x => mboxDone x stOk data.length) s1
  | 3 =>
    let n := field msg 4 2
    let x2 := setArgs x1 ((List.range 7).map fun i => (i + 1, field msg (8 + 4 * i) 4))
    let s1 := putWin { s with chip := x2 } 0 ((msg.drop 40).take n)
    onChip (fun x => mboxDone x stOk n) s1
  | _ => { s with chip := mboxDone x1 stOk 0 }

/-- A response has the length that its operation needs (R268). -/
def responseOk (op : Nat) (msg : List Byte) : Bool :=
  match op with
  | 1 => decide (4 ≤ msg.length) && msg.length % 4 == 0
  | 3 => (decide (40 ≤ msg.length) && msg.length == 40 + field msg 4 2) || msg.length == 4
  | _ => decide (4 ≤ msg.length)

/-- A response is malformed (R268, R273): too short for what its operation has, or of another operation than the request that
waits for it. -/
def responseBad (w : Option CpWait) (msg : List Byte) : Bool :=
  decide (msg.length < 4) || (!responseOk (field msg 2 1) msg
    || (match w with
      | some r => field msg 0 2 == r.seq && field msg 2 1 != r.op
      | none => false))

/-- CTRL_RESPONSE (R267, R269, R273): a malformed response is a peer violation, one to another request is discarded. -/
def execCtrlResponse (msg : List Byte) (s : State) : Outc :=
  .next (if footReceives s.chip = true ∧ linkState s.chip = lsRun then
      if responseBad s.chip.cp.wait msg then onChip (fun x => peerViol x 8 (trainNow x)) s
      else match s.chip.cp.wait with
        | some w => if field msg 0 2 = w.seq then responseTake s w.op msg else s
        | none => s
    else s)

/-- CP_RETRY (R269). -/
def execCpRetry (s : State) : Outc :=
  .next (match s.chip.cp.wait with
    | some w =>
      if w.run ∧ linkState s.chip = lsRun then
        onChip (fun x => sendCtrl (count x R.LINK_CP_RETRY_COUNT (protoWrap 8) 1) w.octets) s
      else s
    | none => s)

/-- CP_TIMEOUT (R267, R274). -/
def execCpTimeout (s : State) : Outc :=
  .next (match s.chip.cp.wait with
    | some w => onChip (fun x => waitDone (raise x srcLink 0x15 (b2 w.seq ++ b1 w.op)) stTimeout) s
    | none => s)

/-- FREE_BURST_REPEAT (R270). -/
def execFreeBurstRepeat (s : State) : Outc :=
  .next (match s.chip.cp.wait with
    | some w =>
      if 0 < s.chip.cp.freeLeft then
        onChip (fun x => freeBurstTx { x with cp := { x.cp with freeLeft := x.cp.freeLeft - 1 } } w.octets) s
      else s
    | none => s)

/-- SAMPLE_MESSAGE (R271): the foot's hold of head sample time; its own counters stay. -/
def execSampleMessage (payload : List Byte) (s : State) : Outc :=
  .next (if footReceives s.chip = true ∧ linkState s.chip = lsRun then
      onChip (fun x =>
        if payload.length = 22 then
          { x with cp := { x.cp with
            sample := some (field payload 0 4, field payload 4 8, field payload 12 8, field payload 20 2, x.tm.stime.toNat) } }
        else peerViol x 8 (trainNow x)) s
    else s)

/-- A WALL message (R272): the last train heard, the foot's wall time as its sync symbol began, the epoch. -/
def wallMsg (x : Chip) : Chip :=
  match x.cp.heard with
  | some (k, t) => sendSeg x (linkSeg 9 1 (b4 k ++ le 8 (wall x - (x.tm.ticks - t)).toNat ++ b2 (epoch x))) none
  | none => x

/-- WALL_SEND (R272): the foot, the time master, in RUN. -/
def execWallSend (s : State) : Outc :=
  .next (if isFoot s.chip = true ∧ linkState s.chip = lsRun then onChip wallMsg s else s)

/-- Half the measured round trip in ticks, to the nearest (R272). -/
def halfRtt (x : Chip) : Nat := (fget x F.LINK_RTT_ns * 32768 + 1000000000) / 2000000000

/-- A WALL message of 14 octets (R272): beyond the tolerance, or with an epoch other than in the last, the head's wall time
steps by the difference. -/
def wallTake (x : Chip) (p : List Byte) (ago : Nat) : Chip :=
  let e := field p 12 2
  let own := wall x - BitVec.ofNat 48 ago
  let diff : Int := (BitVec.ofNat 48 (field p 4 8 + 2 ^ 48 - halfRtt x) - own).toInt
  let x1 := { x with cp := { x.cp with wallEpoch := some e } }
  let newEpoch := match x.cp.wallEpoch with
    | some v => v != e
    | none => false
  if fget x F.LINK_TIME_CFG_tol < diff.natAbs ∨ newEpoch = true then
    let x2 := wr (setWall x1 2 (wall x + BitVec.ofInt 48 diff)) R.LINK_TIME_STATUS (BitVec.ofInt 32 diff)
    raise x2 srcLink 0x16 (leInt 6 diff ++ b2 e)
  else x1

/-- WALL_MESSAGE (R272). -/
def execWallMessage (payload : List Byte) (ago : Nat) (s : State) : Outc :=
  .next (if isHead s.chip = true ∧ linkState s.chip = lsRun then
      onChip (fun x => if payload.length = 14 then wallTake x payload ago else peerViol x 8 (trainNow x)) s
    else s)

end Sys2Proof.Machine
end

