-- ==== Sys2Proof/Machine/Ports.lean ====
section
/-! DEFINITION. Audio ports and carriage memory (R277 to R300): port states, slot maps, underruns and overruns, slips,
non-PCM muting, contention, the shared ring, the privileged buffers. -/
namespace Sys2Proof.Machine

/-- Milliseconds in RTC ticks, rounded up. -/
def msTicks (ms : Nat) : Nat := ceilDiv (ms * 32768) 1000

/-- A fade or ramp of a number of ms begins on a port (R286): `fading` reads 1 until it ends. -/
def portFade (x : Chip) (p ms : Nat) : Chip :=
  if ms = 0 then x
  else fset (setPort x p { portOf x p with fadeEnd := some (x.tm.ticks + BitVec.ofNat 48 (msTicks ms)) })
    (F.APORT_STATUS_fading p) 1

/-- A port fades over `fade`. -/
def fadeOut (x : Chip) (p : Nat) : Chip := portFade x p (fget x (F.APORT_FADE_fade p))

/-- A port ramps in over `ramp`. -/
def rampIn (x : Chip) (p : Nat) : Chip := portFade x p (fget x (F.APORT_FADE_ramp p))

/-- A port's state changes (R301). -/
def setPortState (x : Chip) (p st : Nat) : Chip :=
  let old := portState x p
  if old = st then x
  else raise (fset x (F.APORT_STATUS_state p) st) (srcAport p) 0x08 (b1 old ++ b1 st)

/-- Entries muted as non-PCM change (R290). -/
def setMuted (x : Chip) (p : Nat) (l : List Nat) : Chip :=
  fflag (setPort x p { portOf x p with muted := l }) (F.APORT_STATUS_nonpcm p) (l != [])

/-- The level of DIN that port p reads (R280): while it runs that at the start of its frame, else the one read last. -/
def dinNow (x : Chip) (p : Nat) : Bool :=
  if portState x p = 2 then Config.dinLevel p (ownFrame x p) else (portOf x p).din

/-- A port stops at once (R277, R292). -/
def portStop (x : Chip) (p st : Nat) : Chip :=
  let x1 := setMuted (setPortState x p st) p []
  playsSettle (fset (setPort x1 p { portOf x1 p with fadeEnd := none, fading := [], din := dinNow x p })
    (F.APORT_STATUS_fading p) 0)

/-- Why map entry i of a port is ignored (R284): `used` holds the slots of lower entries that are not. -/
def entryBad (x : Chip) (p i : Nat) (used : List Nat) : Option Nat :=
  let s0 := fget x (F.APORT_MAP_slot0 p i)
  let n := fget x (F.APORT_MAP_n p i)
  if fon x (F.APORT_MAP_en p i) then
    if n = 0 then some 0
    else if portSlots x p < s0 + n then some 1
    else if (List.range n).any fun k => used.contains (s0 + k) then some 2
    else none
  else none

/-- One entry judged: its `bad` bit, MAP_BAD when the reason is new. -/
def entryJudge (p i : Nat) (acc : Chip × List Nat) : Chip × List Nat :=
  let x := acc.1
  let b := entryBad x p i acc.2
  let old := nth none (portOf x p).bad i
  let x1 := fflag (setPort x p { portOf x p with bad := setNth (portOf x p).bad i b }) (F.APORT_MAP_bad p i) b.isSome
  let x2 := match b with
    | some r => if old = some r then x1 else raise x1 (srcAport p) 0x06 (b1 i ++ b1 r)
    | none => x1
  let used := if b.isNone && fon x (F.APORT_MAP_en p i) then
      (List.range (fget x (F.APORT_MAP_n p i))).map (fget x (F.APORT_MAP_slot0 p i) + ·)
    else []
  (x2, acc.2 ++ used)

/-- The map of a port that runs or waits is judged entry by entry (R284). -/
def mapJudge (x : Chip) (p : Nat) : Chip :=
  if portState x p = 1 ∨ portState x p = 2 then playsSettle ((List.range 4).foldl (fun a i => entryJudge p i a) (x, [])).1
  else
    playsSettle (upTo 4 (fun i y => fset y (F.APORT_MAP_bad p i) 0)
      (setPort x p { portOf x p with bad := [none, none, none, none] }))

/-- Slots and width in force (R277, R303): a width of 3 is a width of 0. -/
def portFmt (x : Chip) (p : Nat) : Nat × Nat := (portSlots x p, fget x (F.APORT_CFG_width p) % 3)

/-- A port may run (R31, R277, R322): foot or solo part in ACTIVE or QUIET, enabled, with slots, the audio master on. -/
def portAble (x : Chip) (p : Nat) : Bool :=
  (isFoot x || isSolo x) && (dUp x && (fon x (F.APORT_CFG_en p) && (decide (0 < portSlots x p) && fon x (F.CLK_OUT_en 2))))

/-- A port that is able starts, through WAIT_SYNC where `sync_start` is 1 (R289). -/
def portStart (x : Chip) (p : Nat) : Chip :=
  let y := setPort x p { portOf x p with fmt := portFmt x p }
  if fon x (F.APORT_CFG_sync_start p) then setPortState y p 1 else setPortState y p 2

/-- A port follows its settings, its role, its state and the audio master (R36, R277, R289, R292). -/
def portEval (x0 : Chip) (p : Nat) : Chip :=
  let x := playsSettle x0
  if !dUp x then x
  else
    let x1 := fflag x (F.APORT_STATUS_no_link p) (isSolo x && !fon x (F.APORT_CFG_clksrc p))
    if portState x1 p = 3 then x1
    else if portAble x1 p then
      let x2 := if portState x1 p = 2 ∧ (portOf x1 p).fmt ≠ portFmt x1 p then portStop x1 p 0 else x1
      let x3 := if portState x2 p = 0 ∨ (portState x2 p = 1 ∧ !fon x2 (F.APORT_CFG_sync_start p)) then portStart x2 p else x2
      mapJudge (if portState x3 p = 1 then setPort x3 p { portOf x3 p with fmt := portFmt x3 p } else x3) p
    else if portState x1 p = 0 then x1
    else mapJudge (portStop x1 p 0) p

/-- Every port follows. -/
def portsEval (x : Chip) : Chip := upTo 4 (fun p y => portEval y p) x

/-- Every port stops at once (R292): STANDBY, GLIDE. -/
def portsStop (x : Chip) : Chip := upTo 4 (fun p y => if portState y p = 0 then y else mapJudge (portStop y p 0) p) x

/-- The carriages that port p plays. -/
def portCarrs (x : Chip) (p : Nat) : List Nat := (List.range 256).filter fun c => portPlays x p c

/-- A carriage that fades now, from its present gain (R286, R292): the last frame played is held, frames held are discarded, P
is fixed afresh. -/
def playFade (x : Chip) (c : Nat) (faded : Bool) : PlayRt :=
  let r := playOf x c
  let now := frameNow x c
  let played := (r.held.filter fun e => decide (e.1 < now)).getLast?
  { r with
    offset := none, faded := faded, held := [], fade := some (now, r.rampAt, r.fade.map Prod.fst), last := (played.map Prod.snd).getD r.last }

/-- A carriage fades on every port that plays it, and P is fixed afresh, without an underrun (R288, R292); one that has faded
already stays at zero. -/
def playRefresh (x : Chip) (c : Nat) : Chip :=
  if (playOf x c).offset.isSome ∧ (playOf x c).faded = false then
    setPlay ((playingPorts x c).foldl fadeOut x) c (playFade x c false)
  else x

/-- Entry into QUIET (R288): every carriage fades, none is counted. -/
def portsQuiet (x : Chip) : Chip := (x.plays.map Prod.fst).foldl playRefresh x

/-- A write to `APORTp_CFG` (R277, R281, R291, R292): `en` stays 0 while `contend` is set. -/
def aportCfg (x : Chip) (p : Nat) (v : Word) : Chip :=
  let old := rd x (R.APORT_CFG p)
  let w := rwMerge (R.APORT_CFG p) old v
  let w1 := if fon x (F.APORT_STATUS_contend p) then putBits w 31 1 (getBits old 31 1) else w
  let x1 := wr x (R.APORT_CFG p) w1
  let x2 := if getBits old 29 1 ≠ getBits w1 29 1 ∧ portState x p = 2 then (portCarrs x1 p).foldl playRefresh x1 else x1
  portEval x2 p

/-- APORT_CFG_WRITE (R277). -/
def execAportCfgWrite (p : Nat) (v : Word) (s : State) : Outc :=
  .next (if mgmtUp s.chip = true ∧ p < 4 then onChip (fun x => aportCfg x p v) s else s)

/-- Entry i of a running port is rewritten (R284): what it played fades out from its next frame on, its new slots ramp in. -/
def entryFade (x : Chip) (p i : Nat) (old : Word) : Chip :=
  let r := portOf x p
  let n := ownFrame x p + 1
  let gone := if getBits old 31 1 = 1 ∧ getBits old 30 1 = 0 then [(old, n)] else []
  let keep := r.fading.filter fun e => decide (n - e.2 < msFrames (fget x (F.APORT_FADE_fade p)))
  setPort x p { r with rampIn := setNth r.rampIn i n, fading := gone ++ keep }

/-- A write to a map entry (R284): its old slots fade, its new ones ramp. -/
def aportMap (x0 : Chip) (p i : Nat) (v : Word) : Chip :=
  let x := playsSettle x0
  let old := rd x (R.APORT_MAP p i)
  let w := rwMerge (R.APORT_MAP p i) old v
  let x1 := wr x (R.APORT_MAP p i) w
  if old = w ∨ dUp x = false then x1
  else
    let x2 := setMuted x1 p ((portOf x1 p).muted.filter (· ≠ i))
    let x3 := if portState x2 p = 2 then fadeOut (entryFade x2 p i old) p else x2
    mapJudge x3 p

/-- APORT_MAP_WRITE (R284). -/
def execAportMapWrite (p e : Nat) (v : Word) (s : State) : Outc :=
  .next (if mgmtUp s.chip = true ∧ p < 4 ∧ e < 4 then onChip (fun x => aportMap x p e v) s else s)

/-- `contend` cleared (R291): the port leaves HIZ. -/
def contendCleared (x : Chip) (p : Nat) : Chip :=
  if portState x p = 3 ∧ fon x (F.APORT_STATUS_contend p) = false then portEval (setPortState x p 0) p else x

/-- SYNC_IN_EDGE (R289). -/
def execSyncInEdge (s : State) : Outc :=
  .next (onChip (upTo 4 fun p y => if portState y p = 1 then setPortState y p 2 else y) s)

/-- CONTEND (R291): which 0 BCLK, 1 FSYNC. -/
def contend (x : Chip) (p which : Nat) : Chip :=
  let x1 := fset (fset x (F.APORT_STATUS_contend p) 1) (F.APORT_CFG_en p) 0
  let x2 := mapJudge (portStop x1 p 3) p
  setCause (raise x2 (srcAport p) 0x04 (b1 which)) .aport

/-- CONTEND (R291). -/
def execContend (p : Nat) (fsync : Bool) (s : State) : Outc :=
  .next (if p < 4 ∧ portState s.chip p = 2 then onChip (fun x => contend x p fsync.toNat) s else s)

/-- Frames of a carriage are due at the ports (R282, R286): P is fixed and the carriage is not faded. -/
def playing (x : Chip) (c : Nat) : Bool :=
  (playOf x c).offset.isSome && (!(playOf x c).faded && (pstate x == 0 && playingPorts x c != []))

/-- An idle head's carriage fades without an underrun or overrun (R288). -/
def idleHead (x : Chip) (c : Nat) : Bool := overLink x c && x.lk.idle

/-- The event that took a carriage's frames away, where the lost link or its shedding did (R29, R209, R266). -/
def frameCause (x : Chip) (c : Nat) : Option CauseRef :=
  if overLink x c && linkState x != lsRun then x.lk.lostRef
  else if (carrOf x c).shed.isSome then (carrOf x c).shedRef
  else none

/-- One port's underrun (R286). -/
def portUnder (c held : Nat) (x : Chip) (p : Nat) : Chip :=
  let x1 := count (fset (fadeOut x p) (F.APORT_STATUS_underrun p) 1) (R.APORT_UNDER_COUNT p) (F.APORT_STATUS_under_wrap p) 1
  raiseBy x1 (srcAport p) 0x01 (b1 c ++ b2s held) (frameCause x c)

/-- Frames of a carriage held at or beyond the frame due. -/
def framesHeld (x : Chip) (c : Nat) : Nat := ((playOf x c).held.filter fun e => decide (frameNow x c ≤ e.1)).length

/-- The ports hold more than 32 ms of a carriage beyond the frame due (R287). -/
def overrunNow (x : Chip) (c : Nat) : Bool :=
  playing x c && decide (1536 < ((playOf x c).held.filter fun e => decide (frameNow x c < e.1)).length)

/-- The frame due of a carriage is not there (R286), unless it is an overrun (R292). -/
def underrunNow (x : Chip) (c : Nat) : Bool :=
  playing x c && (!overrunNow x c && (playOf x c).held.all fun e => e.1 != frameNow x c)

/-- UNDERRUN (R286, R288). -/
def execUnderrun (c : Nat) (s : State) : Outc :=
  .next (if underrunNow s.chip c then
      onChip (fun x =>
        if idleHead x c then playRefresh x c
        else setCause (setPlay ((playingPorts x c).foldl (portUnder c (framesHeld x c)) x) c (playFade x c true)) .aport) s
    else s)

/-- One port's overrun (R287). -/
def portOver (c n : Nat) (x : Chip) (p : Nat) : Chip :=
  let x1 := count (fset (fadeOut x p) (F.APORT_STATUS_overrun p) 1) (R.APORT_OVER_COUNT p) (F.APORT_STATUS_over_wrap p) 1
  raise x1 (srcAport p) 0x02 (b1 c ++ b2s n)

/-- OVERRUN (R287, R288): the frames held are discarded. -/
def execOverrun (c : Nat) (s : State) : Outc :=
  .next (if overrunNow s.chip c then
      onChip (fun x =>
        if idleHead x c then playRefresh x c
        else setCause (setPlay ((playingPorts x c).foldl (portOver c (framesHeld x c)) x) c (playFade x c true)) .aport) s
    else s)

/-- One port resumes a carriage (R286). -/
def portResume (c : Nat) (off : Int) (x : Chip) (p : Nat) : Chip :=
  raise (rampIn x p) (srcAport p) 0x07 (b1 c ++ leInt 4 (offsetTicks off))

/-- The fade of a carriage is over at every port that plays it (R292). -/
def fadeOver (x : Chip) (c : Nat) : Bool :=
  match (playOf x c).fade with
  | none => true
  | some (at_, _, _) =>
    (playingPorts x c).all fun p => decide (at_ + (msFrames (fget x (F.APORT_FADE_fade p)) : Nat) ≤ frameNow x c)

/-- RESUME (R282, R286, R292): frames have arrived again, so that P is fixed afresh, and the fade is over. -/
def execResume (c : Nat) (s : State) : Outc :=
  .next (match (playOf s.chip c).faded && fadeOver s.chip c, (playOf s.chip c).offset with
    | true, some off =>
      onChip (fun x => setPlay ((playingPorts x c).foldl (portResume c off) x) c { playOf x c with faded := false }) s
    | _, _ => s)

/-- A carriage whose origin clock differs from the port's (R36): at a foot, a link carriage on a LOCAL port or a local
carriage on a LINK port. -/
def slips (x : Chip) (p c : Nat) : Bool := isFoot x && (overLink x c == fon x (F.APORT_CFG_clksrc p))

/-- A frame repeated or dropped (R283): SLIP at most once per second. -/
def portSlip (x : Chip) (p c : Nat) : Chip :=
  let x1 := count x (R.APORT_SLIP p) (F.APORT_STATUS_slip_wrap p) 1
  let r := limitSec x1 (portOf x1 p).slip 1
  let x2 := setPort x1 p { portOf x1 p with slip := r.1 }
  match r.2 with
  | some n => raise x2 (srcAport p) 0x03 (b2s n ++ b1 c)
  | none => x2

/-- SLIP (R283). -/
def execSlip (p c : Nat) (s : State) : Outc :=
  .next (if p < 4 ∧ portPlays s.chip p c = true ∧ playing s.chip c = true ∧ slips s.chip p c = true then
      onChip (fun x => portSlip x p c) s
    else s)

/-- Map entry e of port p examines its carriage for bursts (R290): two channels or more of an enabled PCM carriage. -/
def examines (x : Chip) (p e : Nat) : Bool :=
  let c := fget x (F.APORT_MAP_carr p e)
  portState x p == 2 && (entryPlays x p e c && (decide (2 ≤ fget x (F.APORT_MAP_n p e)) &&
    (fon x (F.CARR_CFG_en c) && (carrType x c == tPcm && pstate x == 0))))

/-- A frame held holds an IEC 61937 burst preamble within entry e (R290): 0xF872 and 0x4E1F in the upper 16 bits of the
samples of channels 2k and 2k + 1. -/
def preamble (x : Chip) (p e : Nat) : Bool :=
  let c0 := fget x (F.APORT_MAP_ch0 p e)
  let n := fget x (F.APORT_MAP_n p e)
  (playOf x (fget x (F.APORT_MAP_carr p e))).held.any fun f =>
    (List.range 16).any fun k => decide (c0 ≤ 2 * k) && (decide (2 * k + 2 ≤ c0 + n) &&
      (nth 0 f.2 (2 * k) / 65536 == 0xF872 && nth 0 f.2 (2 * k + 1) / 65536 == 0x4E1F))

/-- NONPCM (R290): an IEC 61937 preamble in an entry. -/
def execNonpcm (p e : Nat) (s : State) : Outc :=
  .next (if p < 4 ∧ e < 4 ∧ examines s.chip p e = true ∧ preamble s.chip p e = true ∧
      (portOf s.chip p).muted.contains e = false then
      onChip (fun x => setCause (raise (setMuted x p ((portOf x p).muted ++ [e])) (srcAport p) 0x05 (b1 e ++ b1 1)) .aport) s
    else s)

/-- Entry e plays again, ramping in (R290). -/
def unmute (x : Chip) (p e : Nat) : Chip :=
  let y := setMuted x p ((portOf x p).muted.filter (· ≠ e))
  setPort y p { portOf y p with rampIn := setNth (portOf y p).rampIn e (ownFrame y p) }

/-- NONPCM_RELEASE (R290): no preamble for 500 ms. -/
def execNonpcmRelease (p e : Nat) (s : State) : Outc :=
  .next (if p < 4 ∧ (portOf s.chip p).muted.contains e = true then
      onChip (fun x => setCause (raise (rampIn (unmute x p e) p) (srcAport p) 0x05 (b1 e ++ b1 0)) .aport) s
    else s)

/-- CLK_OUT_EN_WRITE (R322): the audio master off stops every port. -/
def execClkOutEnWrite (i : Nat) (en : Bool) (s : State) : Outc :=
  .next (if mgmtUp s.chip = true ∧ i < 4 then onChip (fun x => portsEval (outEnable x i en)) s else s)

/-! Carriage memory. -/

/-- Bytes of the shared ring (R296). -/
def ringSize (x : Chip) : Nat := if ringOn x then fget x F.HOST_RING_CFG_pages * 16384 else 0

/-- First byte of the shared ring in carriage memory. -/
def ringBase (x : Chip) : Nat := fget x F.HOST_RING_CFG_first * 16384

/-- Bytes that the ring holds (R298). -/
def ringHeld (x : Chip) : Nat :=
  if ringOn x then (fget x F.HOST_RING_WR_wr + ringSize x - fget x F.HOST_RING_RD_rd % ringSize x) % ringSize x else 0

/-- The ring holds its threshold (R300). -/
def ringFull (x : Chip) : Bool :=
  let t := fget x F.HOST_IRQ_ring_thr * 1024
  if t = 0 then decide (0 < ringHeld x) else decide (t ≤ ringHeld x)

/-- A privileged buffer holds at least half its length unread (R300). -/
def privHalf (x : Chip) : Bool :=
  (List.range 8).any fun i => (privOf x i).en && decide ((privOf x i).len ≤ 2 * (privOf x i).unread)

/-- The host port's part of INT (R300, R381). -/
def hostInt (x : Chip) : Bool :=
  (fon x F.HOST_IRQ_ring_ie && ringFull x) || ((fon x F.HOST_IRQ_priv_ie && privHalf x) ||
    (fon x F.HOST_IRQ_viol_ie && fon x F.HOST_STATUS_viol))

/-- `MGMT_INT_CAUSE.host` follows its conditions (R381). -/
def hostShow (x : Chip) : Chip := fflag x F.MGMT_INT_CAUSE_host (hostInt x)

/-- A host violation (R295): counted, and logged at most once per 100 ms per reason. -/
def hpViol (x : Chip) (reason addr : Nat) : Chip :=
  let x1 := fset (count x R.HOST_VIOL_COUNT F.HOST_STATUS_viol_wrap 1) F.HOST_STATUS_viol 1
  let x2 := { x1 with host := { x1.host with violated := true } }
  let x3 := if limitOk x2 (smFind reason x2.host.viol) then
      raise { x2 with host := { x2.host with viol := smInsert reason x2.tm.ticks x2.host.viol } } srcHost 0x01
        (b1 reason ++ b2 addr)
    else x2
  hostShow x3

/-- Two spans of carriage memory overlap. -/
def spansMeet (a an b bn : Nat) : Bool := decide (a < b + bn) && decide (b < a + an)

/-- A span meets an enabled privileged buffer other than slot i (R296, R299). -/
def privMeets (x : Chip) (i a n : Nat) : Bool :=
  (List.range 8).any fun j => j != i && ((privOf x j).en && spansMeet a n (privOf x j).base (privOf x j).bytes)

/-- A write to `HOST_RING_CFG` (R296): a ring that does not fit is not enabled; a ring enabled or moved starts empty. -/
def ringCfg (x : Chip) (v : Word) : Chip :=
  let was := (ringBase x, ringSize x)
  let y := wr x R.HOST_RING_CFG (rwMerge R.HOST_RING_CFG (rd x R.HOST_RING_CFG) v)
  let y1 := if ringOn y && (decide (4194304 < ringBase y + ringSize y) || privMeets y 8 (ringBase y) (ringSize y)) then
      fset (fset y F.HOST_STATUS_cfg_bad 1) F.HOST_RING_CFG_en 0
    else y
  let y2 := if (ringBase y1, ringSize y1) = was ∧ ringOn y1 = true then y1
    else fset (fset { y1 with host := { y1.host with owed := [] } } F.HOST_RING_WR_wr 0) F.HOST_RING_RD_rd 0
  hostShow y2

/-- A write to `HOST_PRIV_CFG` of slot i (R299): buffers counted now; one that does not fit is not enabled. -/
def privCfg (x : Chip) (i : Nat) (v : Word) : Chip :=
  let w := rwMerge R.HOST_PRIV_CFG 0 v
  let c := getBits w 0 8
  let r : PrivRt := ⟨w, if carrType x c = tIq then 2 else fget x (F.CARR_CFG_ch c), 0, 0, 0⟩
  let bad := !(carrType x c == tPcm || carrType x c == tIq) || (decide (4194304 < r.base + r.bytes) ||
    (privMeets x i r.base r.bytes || (ringOn x && spansMeet r.base r.bytes (ringBase x) (ringSize x))))
  hostShow (if r.en && decide (0 < r.len) then
      (if bad then fset (setPriv x i { r with cfg := putBits w 31 1 0 }) F.HOST_STATUS_cfg_bad 1 else setPriv x i r)
    else setPriv x i r)

/-- A write to `HOST_RING_RD` (R295, R298): ignored off its grid or beyond the ring. -/
def ringRd (x : Chip) (o : Iface) (v : Word) : Chip :=
  let n := getBits v 0 22
  if n % 4 ≠ 0 ∨ fget x F.HOST_RING_CFG_pages * 16384 ≤ n then (if o = .hp then hpViol x 6 R.HOST_RING_RD else x)
  else hostShow (fset x F.HOST_RING_RD_rd n)

/-- HOST_RING_RD_WRITE (R298). -/
def execHostRingRdWrite (o : Iface) (v : Word) (s : State) : Outc :=
  .next (if mgmtUp s.chip then onChip (fun x => ringRd x o v) s else s)

/-- A write to `HOST_PRIV_POS` of slot i (R295, R299): ignored beyond the buffer. -/
def privRd (x : Chip) (o : Iface) (i : Nat) (v : Word) : Chip :=
  let r := privOf x i
  let n := getBits v 16 16
  if r.len ≤ n then (if o = .hp then hpViol x 6 R.HOST_PRIV_POS else x)
  else hostShow (setPriv x i { r with rd := n, unread := (r.total + r.len - n) % r.len })

/-- The words of a PCM or IQ payload. -/
def wordsOf : Nat → List Byte → List (List Byte)
  | 0, _ => []
  | n + 1, l => l.take 4 :: wordsOf n (l.drop 4)

/-- The octets under which a word is stored (R297): all four, or bits 31 to 8. -/
def wordAs (pack4 : Bool) (w : List Byte) : List Byte := if pack4 then w else w.drop 1

/-- The union of the sample flags of words (R200, R297). -/
def flagUnion (ws : List (List Byte)) : Nat := ws.foldl (fun a w => a ||| (field w 0 1 % 16)) 0

/-- A ring entry (R297): header, timestamp, payload padded to a multiple of 4. -/
def ringEntry (x : Chip) (s : Seg) : List Byte :=
  let three := (s.type == tPcm || s.type == tIq) && !fon x F.HOST_RING_CFG_pack4
  let ws := wordsOf (s.payload.length / 4) s.payload
  let body := if three then ws.flatMap (wordAs false) else s.payload
  let union := if three then flagUnion ws else 0
  let flags := if x.host.owed.contains s.id then s.flags ||| 4 else s.flags
  b4 (s.id + 256 * s.type + 4096 * flags + 65536 * body.length + 2 ^ 28 * union) ++ (match s.ts with
    | some t => le 8 t
    | none => []) ++ body ++ List.replicate ((4 - body.length % 4) % 4) 0

/-- An entry that does not fit (R298). -/
def ringDiscard (x : Chip) (c : Nat) : Chip :=
  let x1 := fset (count x R.HOST_OVF_COUNT F.HOST_STATUS_ovf_wrap 1) F.HOST_STATUS_ring_ovf 1
  let r := limitSec x1 x1.host.ovf 1
  let x2 := { x1 with host := { x1.host with
    ovf := r.1, owed := if x1.host.owed.contains c then x1.host.owed else x1.host.owed ++ [c] } }
  match r.2 with
  | some n => raise x2 srcHost 0x02 (b2s n)
  | none => x2

/-- The header that sends the reader to the ring's start (R297). -/
def ringSkip : List Byte := b4 (256 * 0xF + 65536 * 0xFFF)

/-- A segment is stored in the ring, or discarded where it does not fit (R297, R298). -/
def ringStore (s : State) (g : Seg) : State :=
  let x := s.chip
  let e := ringEntry x g
  let at_ := fget x F.HOST_RING_WR_wr
  let skip := if ringSize x < at_ + e.length then ringSize x - at_ else 0
  if ringSize x < ringHeld x + skip + e.length + 4 then onChip (fun y => ringDiscard y g.id) s
  else
    let m1 := if skip = 0 then s.mem.cmem else putBytes zeroByte s.mem.cmem (ringBase x + at_) ringSkip
    let from_ := if skip = 0 then at_ else 0
    let m2 := putBytes zeroByte m1 (ringBase x + from_) e
    let y := { x with host := { x.host with owed := x.host.owed.filter (· ≠ g.id) } }
    { s with chip := fset y F.HOST_RING_WR_wr ((from_ + e.length) % ringSize x), mem := { s.mem with cmem := m2 } }

/-- RING_ENTRY (R296, R297): the first segment waiting that no privileged buffer takes; dropped where the ring no longer
admits it. -/
def execRingEntry (s : State) : Outc :=
  .next (match s.chip.toOut.find? fun g => privSlots s.chip g == [] with
    | some g =>
      let s1 := onChip (fun x => { x with toOut := x.toOut.erase g }) s
      if ringTakes s.chip g then onChip hostShow (ringStore s1 g) else s1
    | none => s)

/-- Frames that a segment holds (R199, R201). -/
def segFrames (x : Chip) (s : Seg) : Nat :=
  s.payload.length / (if s.type = tIq then 8 else 4 * max 1 (fget x (F.CARR_CFG_ch s.id)))

/-- One word of a privileged buffer: channel k, frame f of those written. -/
def privPut (r : PrivRt) (m : SMap Byte) (k f : Nat) (w : List Byte) : SMap Byte :=
  putBytes zeroByte m (r.base + 64 + k * r.len * r.width + f % r.len * r.width) (wordAs r.pack4 w)

/-- The words of a segment into their buffers, in frame order (R299): channels beyond those counted are dropped. -/
def privFill (r : PrivRt) (chs frames : Nat) (payload : List Byte) (m : SMap Byte) : SMap Byte :=
  upTo frames (fun f a => upTo (min chs r.ch) (fun k b =>
    privPut r b k ((r.total + f) % 2 ^ 32) ((payload.drop (4 * (f * chs + k))).take 4)) a) m

/-- The 64-octet header of a privileged slot (R299). -/
def privHeader (r : PrivRt) (n : Nat) (s : Seg) : List Byte :=
  b4 ((r.total + n) % 2 ^ 32) ++ b4 r.total ++ le 8 (s.ts.getD 0)
    ++ b1 (flagUnion (wordsOf (s.payload.length / 4) s.payload)) ++ b1 (s.flags / 4 % 2) ++ List.replicate 46 0

/-- A segment into privileged slot i (R299): frames that were not read in time are overwritten. -/
def privStore (g : Seg) (s : State) (i : Nat) : State :=
  let x := s.chip
  let r := privOf x i
  let n := segFrames x g
  if n = 0 then s
  else
    let chs := if g.type = tIq then 2 else max 1 (fget x (F.CARR_CFG_ch g.id))
    let m := putBytes zeroByte (privFill r chs n g.payload s.mem.cmem) r.base (privHeader r n g)
    let unread := r.unread + n
    let x1 := setPriv x i { r with total := (r.total + n) % 2 ^ 32, unread := min unread r.len }
    let x2 := if r.len < unread then
        raise (fset (count x1 R.HOST_OVF_COUNT F.HOST_STATUS_ovf_wrap 1) F.HOST_STATUS_priv_ovf 1) srcHost 0x03
          (b1 i ++ b1 g.id)
      else x1
    { s with chip := hostShow x2, mem := { s.mem with cmem := m } }

/-- PRIV_WRITE (R299): the first segment waiting that a privileged buffer takes. -/
def execPrivWrite (s : State) : Outc :=
  .next (match s.chip.toOut.find? fun g => privSlots s.chip g != [] with
    | some g => (privSlots s.chip g).foldl (privStore g) (onChip (fun x => { x with toOut := x.toOut.erase g }) s)
    | none => s)

end Sys2Proof.Machine
end

