-- ==== Sys2Proof/Machine/Twb.lean ====
section
/-! DEFINITION. Attention messages of the control bus (R314 to R316): when one is due, how it is built, how an attempt
ends; violations of the bus (R317). -/
namespace Sys2Proof.Machine

/-- The cause word that INT and the attention messages tell (R381). -/
def causeWord (x : Chip) : Word := rd x R.MGMT_INT_CAUSE &&& rd x R.MGMT_INT_EN

/-- Wrap flags of `TWB_STATUS` (R320). -/
def twbWrap (i : Nat) : Fld := F.TWB_STATUS_wrap.bit i

/-- The part's 7-bit address (R306). -/
def twbAddr (x : Chip) : Nat := 0x5C + fget x F.TWB_STATUS_addr

/-- Set the message that is pending: `busy` follows (R314). -/
def setMsg (x : Chip) (m : Option AttnMsg) : Chip :=
  fflag { x with twb := { x.twb with msg := m } } F.TWB_ATTN_CFG_busy m.isSome

/-- The cause word holds a bit gained since the last message sent (R314). -/
def attnDue (x : Chip) : Bool :=
  fon x F.TWB_ATTN_CFG_en && causeWord x &&& ~~~ x.twb.last &&& ~~~ x.twb.stand != 0

/-- A message is built at its first attempt (R314). -/
def attnBuild (x : Chip) : Chip × AttnMsg :=
  match x.twb.msg with
  | some m => (x, m)
  | none =>
    let w := causeWord x
    let n := x.twb.nextSeq
    let body := b1 (twbAddr x) ++ b1 n ++ b4 w.toNat
    let m : AttnMsg := ⟨n, body ++ b1 (crc8 body), w, 0, 0, 0⟩
    (fset { x with twb := { x.twb with nextSeq := (n + 1) % 256 } } F.TWB_ATTN_CFG_seq n, m)

/-- A message dropped (R316): its bits call for no further message until they are gained again. -/
def attnDrop (x : Chip) (m : AttnMsg) (why : Nat) : Chip :=
  let x1 := setMsg { x with twb := { x.twb with stand := x.twb.stand ||| m.word } } none
  let x2 := fset (count x1 R.TWB_ATTN_DROP_COUNT (twbWrap 3) 1) F.TWB_ERR_drop 1
  raise x2 srcTwb 0x03 (b2 m.seq ++ b1 why)

/-- A message delivered (R314, R316). -/
def attnSent (x : Chip) (m : AttnMsg) : Chip :=
  let x1 := setMsg { x with twb := { x.twb with last := m.word, sent := m.octets } } none
  raise (count x1 R.TWB_ATTN_SENT (twbWrap 2) 1) srcTwb 0x02 (b2 m.seq ++ b1 m.tries)

/-- A message to be tried again, or nothing further where `en` is 0 (R316). -/
def attnAgain (x : Chip) (m : AttnMsg) : Chip := setMsg x (if fon x F.TWB_ATTN_CFG_en then some m else none)

/-- The backoff before a retry (R316): a step of the 16-bit generator gives 50 to 400 µs. -/
def backoffDraw (x : Chip) : Chip :=
  let g := Config.backoffNext x.twb.gen
  { x with twb := { x.twb with gen := g, backoff := 50 + Config.backoffWait g % 351 } }

/-- A loss (R316): the eighth drops the message. -/
def attnLoss (x : Chip) (m : AttnMsg) : Chip :=
  if 8 ≤ m.losses then attnDrop x m 0 else attnAgain (backoffDraw x) m

/-- An attempt at a message ends (R316). -/
def attnTry (x : Chip) (res : AttnRes) : Chip :=
  let (x1, m0) := attnBuild x
  let m := { m0 with tries := m0.tries + 1 }
  let x2 := { x1 with twb := { x1.twb with sent := m.octets } }
  match res with
  | .delivered => attnSent x2 m
  | .lost byte bit =>
    let ml := { m with losses := m.losses + 1 }
    let x3 := raise (count x2 R.TWB_LOST (twbWrap 0) 1) srcTwb 0x01 (b2 ml.seq ++ b1 byte ++ b1 bit ++ b1 ml.losses)
    attnLoss x3 ml
  | .lostStart =>
    let ml := { m with losses := m.losses + 1 }
    let x3 := raise (fset (count x2 R.TWB_LOST (twbWrap 0) 1) F.TWB_ERR_arb_cond 1) srcTwb 0x04 (b2 ml.seq ++ b1 1)
    attnLoss x3 ml
  | .lostStop acked =>
    let x3 := raise (fset x2 F.TWB_ERR_arb_cond 1) srcTwb 0x04 (b2 m.seq ++ b1 0)
    if acked then attnSent x3 m
    else
      let ml := { m with losses := m.losses + 1 }
      attnLoss (count x3 R.TWB_LOST (twbWrap 0) 1) ml
  | .refused =>
    let mr := { m with refusals := m.refusals + 1 }
    let x3 := count x2 R.TWB_NACK_COUNT (twbWrap 1) 1
    if 4 ≤ mr.refusals then attnDrop x3 mr 1 else attnAgain x3 mr

/-- The part may become controller (R305, R315): management runs and no transfer is open. -/
def attnMay (x : Chip) : Bool := mgmtUp x && !x.twb.busOpen

/-- ATTN_MESSAGE (R314): a new message, the bus being free. -/
def execAttnMessage (res : AttnRes) (s : State) : Outc :=
  .next (if attnMay s.chip && (s.chip.twb.msg.isNone && attnDue s.chip) then onChip (fun x => attnTry x res) s else s)

/-- ATTN_RETRY (R316): the pending message is sent again, unchanged. -/
def execAttnRetry (res : AttnRes) (s : State) : Outc :=
  .next (if attnMay s.chip && s.chip.twb.msg.isSome then onChip (fun x => attnTry x res) s else s)

/-- BUS_FREE (R315): a message that waited starts. -/
def execBusFree (res : AttnRes) (s : State) : Outc :=
  .next (if attnMay s.chip && (s.chip.twb.msg.isSome || attnDue s.chip) then onChip (fun x => attnTry x res) s else s)

/-- ATTN_BUS_TIMEOUT (R316): the bus is not free for 1 s while a message waits. -/
def execAttnBusTimeout (s : State) : Outc :=
  .next (if mgmtUp s.chip && (s.chip.twb.msg.isSome || attnDue s.chip) then
      onChip (fun x => let r := attnBuild x; attnDrop r.1 r.2 2) s
    else s)

/-- The settings of the attention messages change (R314, R316): bits that stand when `en` is set are no gain, and with `en`
at 0 nothing further is sent. -/
def attnCfg (x : Chip) (was : Bool) : Chip :=
  let now := fon x F.TWB_ATTN_CFG_en
  if now && !was then { x with twb := { x.twb with stand := causeWord x } }
  else if now then x
  else setMsg x none

/-- Causes or their enables change by a write: a bit that no longer stands may be gained again (R314). -/
def attnShow (x : Chip) : Chip := { x with twb := { x.twb with stand := x.twb.stand &&& causeWord x } }

/-- A violation of the bus (R317): counted, and logged at most once per 100 ms per reason. -/
def twbViol (x : Chip) (reason : Nat) : Chip :=
  let x1 := fset (count x R.TWB_VIOL_COUNT (twbWrap 4) 1) F.TWB_ERR_viol 1
  let x2 := match reason with
    | 2 => fset x1 F.TWB_ERR_partial 1
    | 3 => fset x1 F.TWB_ERR_bus_err 1
    | 5 => fset x1 F.TWB_ERR_stuck 1
    | _ => x1
  if limitOk x2 (smFind reason x2.twb.viol) then
    raise { x2 with twb := { x2.twb with viol := smInsert reason x2.tm.ticks x2.twb.viol } } srcTwb 0x05
      (b1 reason ++ b2 (fget x2 F.TWB_PTR_ptr))
  else x2

/-- A transfer abandoned (R317): held bytes discarded, lines released. -/
def twbAbandon (x : Chip) (reason : Nat) : Chip :=
  fset (twbViol { x with twb := { x.twb with held := [], busOpen := false } } reason) F.TWB_STATUS_role 0

/-- TWB_BUS_ERROR (R317): START or STOP inside a byte. -/
def execTwbBusError (s : State) : Outc := .next (if mgmtUp s.chip then onChip (fun x => twbAbandon x 3) s else s)

/-- TWB_STUCK (R317): a line held low for 35 ms while the part waits for a clock. -/
def execTwbStuck (s : State) : Outc := .next (if mgmtUp s.chip then onChip (fun x => twbAbandon x 5) s else s)

end Sys2Proof.Machine
end

