-- ==== Sys2Proof/Machine/Apply.lean ====
section
/-! DEFINITION. Captured lane values taking effect (R15 to R17, R21, R37, R48, R101, R122, R148, R152, R176, R177, R187,
R468). -/
namespace Sys2Proof.Machine

/-- A follow record's primary is set OFF or reconfigured (R187): the mode, input, sub-band or tuning that it uses. -/
def applyFollow (x : Chip) (n : Nat) (o c : LaneCfg) : Chip :=
  if c.std = mOff then followEnd x n 2
  else if o.std ≠ c.std ∨ o.tune ≠ c.tune ∨ (c.std ≠ mSvc ∧ (o.ain ≠ c.ain ∨ o.sb ≠ c.sb)) then followEnd x n 1
  else x

/-- A lane's tandem settings change (R176, R177): a linked lane leaves the table of its primary and joins that of another;
a lane leaves the pool; a primary that takes a mode to follow in takes the lanes linked to it. -/
def applyTandem (x : Chip) (n : Nat) (o c : LaneCfg) : Chip :=
  let linked := fun k : LaneCfg => k.tandem.getLsbD 7
  let pool := fun k : LaneCfg => k.tandem.getLsbD 16
  let same := linked o == linked c && (o.tandem == c.tandem && (o.std == c.std && o.tune == c.tune))
  let x1 := if linked o && !same then unlinkTandem x n else x
  let x2 := if pool o && !pool c then dropCands x1 n else x1
  let x3 := if linked c && (!same && c.std != mOff) then linkTandem x2 n else x2
  if o.std = c.std then x3
  else allLanes.foldl (fun y k => if fget y (F.LANE_TANDEM_primary k) = n then linkTandem y k else y) x3

/-- An FM lane whose options change: `rbds` changed in block sync drops sync and items (R122, R129, R142). -/
def applyFm (x : Chip) (n : Nat) (o c : LaneCfg) : Chip :=
  if rbdsOn o = rbdsOn c ∨ (laneOf x n).rds.sync = false then x else setRds (rdsSync x n false) n rdsReset

/-- An AM lane whose `side` or `bw` changes (R122, R135, R142): a fixed sideband is taken at once, automatic selection begins with
both; either cross-fades. -/
def applyAm (x : Chip) (n : Nat) (o c : LaneCfg) : Chip :=
  amTurn (if sideOpt o = sideOpt c then x else amSideSet x n) n (bwOf o) (fget x (F.AM_side n))

/-- A selection starts afresh (R146, R148, R167): events that are logged once for a selection may come again, and nothing
decoded of the old one is shown. -/
def svcFresh (x : Chip) (n : Nat) : Chip :=
  let l := laneOf x n
  let y := { x with mot := x.mot.filter fun o => o.lane != n }
  let z := setLane y n { laneClear l with live := true, told := l.told, dsp := l.dsp, bads := l.bads, fac := l.fac, change := l.change }
  if stdOf x n = mSvc then
    fsets z [(F.SVC_conceal n, 0), (F.SVC_kind n, 0), (F.SVC_sbr n, 0), (F.SVC_ps n, 0), (F.SVC_dls n, 0), (F.SVC_mot_pend n, 0),
      (F.SVC_unsupp n, 0)]
  else fsets z [(F.DRM_conceal n, 0), (F.DRM_unsupp n, 0)]

/-- A service lane whose options or selection change (R148, R149, R152): `pin` and `lead` detach it and attach it again. -/
def applySvc (x : Chip) (n : Nat) (o c : LaneCfg) : Chip :=
  let lead := fget x (F.SVC_lead_now n)
  let again := decide (o.tune ≠ c.tune ∨ o.opt % 64 ≠ c.opt % 64)
  let x1 := if again then svcFresh x n else x
  if o.opt / 256 ≠ c.opt / 256 then svcEval (if lead = 0x7F then x1 else svcDetach lead x1 n) n
  else if again then
    if lead ≠ 0x7F ∧ leadServes x1 n lead = true then svcSelect x1 n lead else svcEval x1 n
  else x1

/-- A DRM lane whose `svc` or `rmode` changes decodes afresh from ACQ (R148). -/
def applyDrm (x : Chip) (n : Nat) (o c : LaneCfg) : Chip :=
  if o.opt % 8 ≠ c.opt % 8 ∨ o.opt / 32 % 4 ≠ c.opt / 32 % 4 then decodeAgain (svcFresh x n) n else x

/-- A pair gained or given up without a synchronising reset (R16, R37): the named branch plays on; the partner's is in use
once it has settled. -/
def applyPair (x : Chip) (n : Nat) (o c : LaneCfg) : Chip :=
  if pairMode c.std = false ∨ o.pair = c.pair then x
  else if c.pair then
    let k := nextOutput x n (skewOf (rd x (R.LANE_PHASE n)) n)
    setDsp x n { (laneOf x n).dsp with join := some (gridAt x n (k + settleSamples c)) }
  else dropBranch x n

/-- A change of φ without a synchronising reset slews by at most T/8 an output sample, from the phase that has been reached
(R108, R113); a wideband IQ lane ignores it. -/
def applyPhase (x : Chip) (n : Nat) (c : LaneCfg) (old : Word) : Chip :=
  let d := (laneOf x n).dsp
  let phi := skewOf (rd x (R.LANE_PHASE n)) n
  let k := nextOutput x n (skewOf old n)
  let now := slewed d.slew (skewOf old n) (k - 1)
  if (planOf c).isNone = true then x
  else setDsp x n { d with slew := if now = phi then none else some (now, k) }

/-- A SCAN lane whose sweep changes starts it afresh (R179, R190). -/
def applyScan (x : Chip) (n : Nat) (o c : LaneCfg) : Chip :=
  if o.opt % 16 = c.opt % 16 then x else fset (setLaneState x n (startState (cfgOf x n))) (F.SCAN_idx n) 0

/-- Settings of a running lane that change without a synchronising reset (R16). -/
def applyOptions (x : Chip) (n : Nat) (o c : LaneCfg) (phase : Word) : Chip :=
  let x1 := applyPhase (applyPair (showPlan x n) n o c) n c phase
  match c.std with
  | 1 => applyFm x1 n o c
  | 2 => applyAm x1 n o c
  | 4 => applySvc x1 n o c
  | 5 => applyDrm x1 n o c
  | 7 => applyScan x1 n o c
  | _ => x1

/-- What an applied change logs of tuning and pairing (R38, R101): an offset that leaves part of the pass band beyond the
flat part is told for each change of it. -/
def applyLogs (x : Chip) (n : Nat) (o c : LaneCfg) : Chip :=
  let moved_ := o.std != c.std || (o.ain != c.ain || (o.sb != c.sb || (o.tune != c.tune || passHz o != passHz c)))
  let x1 := if moved_ then tuneEdge x n else x
  if o.pair != c.pair || (o.ain != c.ain || o.std != c.std) then divSingle x1 n else x1

/-- The lane runs, or stays stopped outside ACTIVE (R34, R468), under its new settings; `told` where a coach reset at the
same instant resets it and tells so (R113). -/
def applyRun (told : Bool) (x : Chip) (n : Nat) (o c : LaneCfg) (phase : Word) : Chip :=
  if c.std = mOff then showPlan x n
  else if laneMayRun x then
    let x1 := if told && usesCoach c.std then laneBegin x n
      else if needsReset o c || !(laneOf x n).live then syncReset x n
      else applyOptions x n o c phase
    let x2 := applyLogs x1 n o c
    if c.std = mSvc ∧ o.std ≠ mSvc then svcEval x2 n else x2
  else showPlan (wr x (R.LANE_STATUS n) (statusStart c.std)) n

/-- A change of the wideband capture that lane n uses (R94). -/
def applyCap (x : Chip) (n : Nat) (o c : LaneCfg) : Chip :=
  if wantsCap o = wantsCap c ∧ o.ain = c.ain ∧ o.sb = c.sb then x else capJoin x n c

/-- A lane leaves its capture where its new settings use another or none. -/
def capChange (x : Chip) (o c : LaneCfg) : Chip :=
  if wantsCap o = wantsCap c ∧ o.ain = c.ain ∧ o.sb = c.sb then x else capLeave x o

/-- The captured values of lane n take effect (R15, R16, R21); one that joins the pool scans in list mode (R176). -/
def applyDue (told : Bool) (x : Chip) (n : Nat) : Chip :=
  let m := ofLane x.captured n
  match rejection x n m with
  | some (addr, v) => dropCaptured (badApply x n addr v) n
  | none =>
    let o := cfgOf x n
    let c := cfgWith x m n
    let phase := rd x (R.LANE_PHASE n)
    let stops := o.std != c.std && o.std != mOff
    let x1 := capChange (if stops then laneStop x n else x) o c
    let joins := c.tandem.getLsbD 16 && !o.tandem.getLsbD 16
    let x2 := if joins then fset (putCaptured x1 n) ⟨R.LANE_MODE n, 16, 1⟩ 1 else putCaptured x1 n
    let c := cfgOf x2 n
    let x3 := if stops || c.std = mOff then wr x2 (R.LANE_STATUS n) (statusStart c.std) else x2
    let x4 := bistCounts (applyCap x3 n o c)
    let x5 := preselSweeps (capShow (applyRun told x4 n o c phase) n)
    applyTandem (applyFollow x5 n o c) n o c

/-- The lane's next output instant. -/
def laneApplied (x : Chip) (n : Nat) : Chip := applyDue false x n

/-- LANE_APPLIED (R16): the lane's next output instant; nothing while the values are held (R17, R187). -/
def execLaneApplied (n : Nat) (s : State) : Outc :=
  .next (if n < laneCount ∧ mgmtUp s.chip = true ∧ fon s.chip (F.LANE_CTRL_apply n) = true ∧
      fon s.chip (F.LANE_CTRL_held n) = false then onChip (fun x => laneApplied x n) s else s)

/-- One lane of a coach at a coach reset (R111, R113): an apply that is pending and not held takes effect at the same
instant; the lane's synchronising reset is told by the coach's event alone. -/
def coachLane (x : Chip) (n : Nat) : Chip :=
  let due := fon x (F.LANE_CTRL_apply n) && !fon x (F.LANE_CTRL_held n)
  if due && (rejection x n (ofLane x.captured n)).isNone then applyDue true x n
  else
    let y := if due then applyDue false x n else x
    if (laneOf y n).live && usesCoach (stdOf y n) then laneBegin y n else y

/-- A coach reset, by cause 0 `reset_all` or 1 a reset of domain D (R24, R111, R113, R115): one count and one event; the
lowest slack starts afresh. -/
def coachTold (x : Chip) (c cause : Nat) : Chip :=
  let x1 := count x (R.COACH_RESET_COUNT c) (F.COACH_STATUS_reset_wrap c) 1
  raise (fset x1 (F.COACH_SLACK_min c) (fget x1 (F.COACH_SLACK_now c))) (srcCoach c) 0x03 (b1 cause)

/-- Every running position of coach c reset at one instant (R111). -/
def coachReset (x : Chip) (c cause : Nat) : Chip :=
  upTo 8 (fun p y => coachLane y (8 * c + p)) (coachTold x c cause)

/-- COACH_RESET (R111). -/
def execCoachReset (c : Nat) (s : State) : Outc :=
  .next (if c < 13 ∧ rfRuns s.chip = true then onChip (fun x => coachReset x c 0) s else s)

end Sys2Proof.Machine
end

