-- ==== Sys2Proof/Machine/Reset.lean ====
section
/-! DEFINITION. What stops, restarts and survives: the units that a power state, the early warning or a reset stops and
starts (R34, R39, R187, R344, R345, R350), the DATA reset and the resets that are starts (R353 to R357). -/
namespace Sys2Proof.Machine

/-- A running lane stops with its configuration retained; it restarts when its input reaches RUN (R34, R344, R350). -/
def laneIdle (x : Chip) (n : Nat) : Chip :=
  if (laneOf x n).live then
    let y := laneStop x n
    setLane y n { laneOf y n with restart := true }
  else x

/-- Every lane stops; the depot's rings, delay lines and MOT pool are cleared (R344, R350, R357). -/
def lanesIdle (x : Chip) : Chip :=
  let y := allLanes.foldl laneIdle x
  { y with lanes := smRewrite laneReset (fun _ l => { l with pcm := [], turns := [] }) y.lanes, mot := [] }

/-- Aerials, ADCs and lanes stop (R34, R52, R344, R350); no segment is in progress then, and a carriage that was to stop at its
boundary stops (R208, R211). -/
def rfStop (x : Chip) : Chip :=
  let x1 := upTo 4 (fun a y => if ainPowered y a then enterPaused y a else feedFollow y a) x
  upTo 256 (fun c y => carrStop y c) (lanesIdle x1)

/-- A lane whose input never reaches RUN: it is disabled (R35). -/
def inputDark (x : Chip) (n : Nat) : Bool :=
  if stdOf x n = mSvc then !anyInput x else !fon x (F.AIN_CFG_en (fget x (F.LANE_INPUT_ain n)))

/-- A lane that holds a mode starts, or waits for its input's RUN (R34, R35). -/
def laneAwait (x : Chip) (n : Nat) : Chip :=
  if stdOf x n = mOff ∨ stdOf x n = mSpare ∨ (laneOf x n).live = true then x
  else if inputDark x n then laneStart x n
  else setLane x n { laneOf x n with restart := true }

/-- An input starts again: PAUSED to SETTLE, OFF as `en` says (R45, R52). -/
def ainAgain (x : Chip) (a : Nat) : Chip := if ainState x a = stPaused then enterSettle x a else ainStart x a

/-- A carriage of samples begins afresh: what its segment in progress held is gone (R196, R344, R350). -/
def carrAgain (c : Nat) (x : Chip) : Chip :=
  if carrState x c = csRun ∧ (carrType x c = tPcm ∨ carrType x c = tIq) then carrBegin x c else x

/-- Aerials, lanes and the carriages of their samples start where the state lets them (R34, R52, R345, R350). -/
def rfStart (x : Chip) : Chip :=
  if rfRuns x then allLanes.foldl laneAwait (upTo 256 carrAgain (upTo 4 (fun a y => ainAgain y a) x))
  else if dUp x && !shed x then upTo 4 (fun a y => feedFollow (ainStart y a) a) x
  else x

/-- A candidate returns to LISTED; a linked lane stays its own (R177, R187). -/
def candRest (c : Cand) : Cand :=
  { c with
    state := caListed, lane := (if c.linked then c.lane else 0x7F), lead := 0x7F,
    delta := none, verified := false, aligned := false, beaten := 0 }

/-- A follow record outside ACTIVE (R187): a fade ends, candidates return to LISTED, their lanes to the pool, lines and
reserves are freed. -/
def followRest (x : Chip) (e : Nat × Follow) : Chip :=
  let r := e.2
  let x1 := match r.fading.bind fun f => candOf r f.idx with
    | some c => releaseHeld (releaseHeld (setBusy (setBusy x e.1 none) c.lane none) e.1) c.lane
    | none => x
  let x2 := setFollow (r.cands.foldl releaseCand x1) e.1
    { r with fading := none, undo := none, past := none, due := none, lineNow := r.line * 48, cands := r.cands.map candRest }
  match r.fading.bind Fade.endReason with
  | some k => followEnd x2 e.1 k
  | none => x2

/-- Service following stops (R187). -/
def followsRest (x : Chip) : Chip :=
  let x1 := x.follows.foldl followRest x
  x1.ownedLeads.foldl toPool { x1 with ownedLeads := [] }

/-- Service following begins again on the return to ACTIVE (R187). -/
def followsBegin (x : Chip) : Chip := x.follows.foldl (fun y e => followStart y e.1 e.2) x

/-- The bits of a register that a domain keeps return to their reset values. -/
def domReset (dom : Dom) (addr : Nat) (v : Word) : Word :=
  match regRow addr with
  | some r =>
    let m := BitVec.ofNat 32 (domMask r dom)
    (v &&& ~~~m) ||| (resetWord addr &&& m)
  | none => v

/-- The registers after a reset of domain D; `keepLink` at the head, whose link partition stays powered (R350, R357). -/
def dRegs (keepLink : Bool) (m : SMap Word) : SMap Word :=
  smRewrite resetWord (fun a v => if keepLink && isLinkAddr a then v else domReset .d a v) m

/-- A lane's figures while its domain is down (R476). -/
def laneDark (n : Nat) (x : Chip) : Chip :=
  wr (wr x (R.LANE_STATUS n) (statusStart (stdOf x n))) (R.LANE_QUAL n) (resetWord (R.LANE_QUAL n))

/-- The corrections of an input while domain D is down (R357): its run is abandoned (R87). -/
def calDark (a : Nat) (x : Chip) : Chip :=
  let y := calAbandon x a
  setCal y a { calOf y a with force := calZero, forced := false, pend := [], high := false, overs := 0 }

/-- Domain D powered down or reset (R350, R353, R357): its fields, the depot, lane memory, corrections in force; of a
carriage there stay its settings, a checked descriptor and its shedding. -/
def downD (x : Chip) (keepLink : Bool) : Chip :=
  let x1 := upTo 4 calDark x
  let x2 := { x1 with
    regs := dRegs keepLink x1.regs, ain := [], lanes := [], mot := [], toLink := [], toOut := [],
    carr := smRewrite carrReset (fun c r => { carrReset c with due := r.due, shed := r.shed, shedRef := r.shedRef, clash := r.clash }) x1.carr,
    plays := [], ports := [], host := { x1.host with owed := [], ovf := ⟨0, none⟩ },
    privs := smRewrite privReset (fun _ r => { r with total := 0, unread := 0 }) x1.privs,
    lk := if keepLink then x1.lk else { LinkRt.reset with viol := x1.lk.viol } }
  hostShow (bistCounts (upTo laneCount laneDark x2))

/-- Domain D leaves reset: the coach grid epoch is the sample-time counter at its first tick (R107), every input is
outside RUN and so tainted (R97), the planned step of manual attenuation is `man` (R51). -/
def newEpoch (x : Chip) : Chip :=
  let t := (x.tm.stime + 1).toNat
  let y := wr (wr x R.SPL_EPOCH_LO (BitVec.ofNat 32 t)) R.SPL_EPOCH_HI (BitVec.ofNat 32 (t / 2 ^ 32))
  upTo 4 (fun a z => planManual z a) (fset y F.SPL_STATUS_taint 0xF)

/-- The wideband captures of the lanes in force (R94). -/
def capsAgain (x : Chip) : Chip := allLanes.foldl (fun y n => capShow (capJoin y n (cfgOf y n)) n) x

/-- A lane restarts at a reset of domain D, which its coach's event tells (R113, R354). -/
def laneRestart (x : Chip) (n : Nat) : Chip :=
  if stdOf x n ≠ mOff ∧ stdOf x n ≠ mSpare ∧ laneMayRun x = true then divSingle (laneBegin x n) n else x

/-- Domain D up again: captures, coaches, inputs, ports and link as the state in force lets them; lanes start at once where
`now`, else once their input reaches RUN (R345, R350, R354). -/
def upD (now : Bool) (x : Chip) : Chip :=
  let x1 := upTo 13 (fun c y => coachTold y c 1) (capsAgain (newEpoch x))
  let x2 := if now then allLanes.foldl laneRestart x1 else x1
  linkAuto (portsEval (rfStart x2))

/-- The DATA reset (R353, R354, R356): domain D and every lane. The power state does not change. -/
def dataReset (x : Chip) (cause : Nat) : Chip :=
  let keep := isHead x && cause == 2
  let x1 := bistInterrupt (followsRest x)
  let x2 := downD (if keep then x1 else linkLeave x1 false) keep
  let x3 := fsets x2 [(F.GEN_RESET_CAUSE_data_seen, 1), (F.GEN_RESET_CAUSE_data_cause, cause), (F.GEN_RESET_datapath, 0)]
  after srcGen (upD (cause != 2)) (raise x3 srcGen 0x02 (b1 cause))

/-- The carriage memory cleared (R357). -/
def clearCarriage (s : State) : State := { s with mem := { s.mem with cmem := [] } }

/-- The registers of domain K alone (R357). -/
def kRegs (m : SMap Word) : SMap Word :=
  smRewrite resetWord (fun a v => domReset .lane a (domReset .d a (domReset .m a v))) m

/-- Where a part whose reset ends stands: held by nRST, waiting for coax power good, or starting (R341, R353). -/
def startPhase (p : Power) : Phase :=
  if p.nrst then .resetHeld else if p.pgood then .starting else .waitPower

/-- A reset that is a start, but not POR (R353, R355, R357): M, D and every lane; the keep island, the fuses, the flash,
the address and strap balls' records stay. The sample clock stops. -/
def coldChip (x : Chip) (kind cause : Nat) : Chip :=
  let c := Chip.reset
  let pw := { x.pw with
    phase := startPhase x.pw, kind := kind, cause := cause, trans := none, ewStart := none, holdMin := 0,
    prev := if mgmtUp x || x.pw.phase == .glide then pstate x else x.pw.prev }
  let y := { c with
    regs := kRegs x.regs, freeCount := x.freeCount, wsp := x.wsp, fuse := x.fuse, keyShown := x.keyShown, jtag := x.jtag, pw := pw,
    tm := { x.tm with clockRun := false, stimeHeld := true }, ft := { c.ft with crumb := x.ft.crumb, doubles := x.ft.doubles },
    store := { c.store with cut := x.store.cut ++ x.store.jobs, retired := x.store.retired, spoilt := x.store.spoilt } }
  fsets y [(F.GEN_RESET_CAUSE_kind, kind), (F.GEN_RESET_CAUSE_cause, cause)]

/-- Such a reset of the whole part: window, staging buffer and carriage memory lose their contents. -/
def coldReset (s : State) (kind cause : Nat) : State :=
  { s with chip := coldChip s.chip kind cause, mem := { Mem.reset with flash := s.mem.flash } }

/-- A start that leaves GLIDE (R351, R356, R361). -/
def glideExit (s : State) (src : Nat) : State :=
  let x := s.chip
  let secs := (x.tm.ticks - x.pw.glideStart).toNat / 32768
  let y := fset (wr x R.SUP_GLIDE_TIME (BitVec.ofNat 32 (sat 32 secs))) F.SUP_WAKE_src src
  coldReset { s with chip := y } 5 src

/-- The reset of every domain (R353, R357): fuses and flash alone stay. -/
def porReset (s : State) : State :=
  let x := s.chip
  let c := Chip.reset
  let y := { c with
    freeCount := x.freeCount, fuse := x.fuse,
    pw := { c.pw with phase := if x.pw.nrst then .resetHeld else .waitPower, pgood := false, nrst := x.pw.nrst },
    store := { c.store with cut := x.store.cut ++ x.store.jobs, retired := x.store.retired, spoilt := x.store.spoilt } }
  { s with chip := y, mem := { Mem.reset with flash := s.mem.flash } }

/-- A WDT reset (R353, R361). -/
def wdtReset (s : State) (cause : Nat) : State :=
  onChip (fun x => count x R.SUP_WDT_COUNT (F.SUP_STATUS_wrap.bit 5) 1) (coldReset s 3 cause)

/-- A SOFT reset (R353). -/
def softReset (s : State) (cause : Nat) : State := coldReset s 4 cause

end Sys2Proof.Machine
end

