-- ==== Sys2Proof/Machine/Access.lean ====
section
/-! DEFINITION. Access to the address space (R6, R458 to R478): what a read of a register returns and latches, what a
write of a word does, the three windows. -/
namespace Sys2Proof.Machine

/-- The bits of a register whose keeping domain is down (R476): D outside ACTIVE and QUIET, but for step 6 of a start
(R397) and the head's link partition in STANDBY. -/
def downMask (x : Chip) (addr : Nat) (r : RegRow) : Nat :=
  if dUp x || x.pw.phase == .loading || (isHead x && pstate x == 2 && isLinkAddr addr) then 0 else domMask r .d

/-- Registers that hold what is measured and what no command brings: what they read is left open, or follows the
samples (R72, R96, R106, R108, R119, R232, R280, R346, R374, R390, R424, R469). -/
def measured (addr : Nat) : Bool :=
  if addr < 0x200 then addr == R.SUP_HOLD || addr == R.SUP_PWR || addr == R.SENS_RAIL || addr == R.SENS_V33 ||
    (addr == R.CLK_VCO || addr == R.CLK_REF_MON)
  else if addr < 0x300 then addr % 0x40 == 0x28
  else if addr < 0x500 then addr == R.SPL_STATUS || addr == R.LINK_AGC
  else if addr < 0x600 then addr % 0x40 == 0x18
  else if addr < 0x800 then addr == R.MGMT_LOAD || addr == R.STORE_OP
  else if addr < 0x1000 then decide (addr < 0x9A0) && addr % 0x20 == 0x04
  else isLaneAddr addr && (addr % 0x40 == 0x18 || (addr % 0x40 == 0x1C || addr % 0x40 == 0x24))

/-- `SUP_HOLD` at a voltage in mV and an input power in mW (R346): C × (V² − 16 V²) / 2 divided by the power. -/
def holdWord (x : Chip) (mv mw : Nat) : Word :=
  let e := fget x F.SUP_HOLD_CFG_cap * (mv * mv - 16000000)
  let ms := if mw = 0 then 0xFFFF else sat 16 (e / (2000000 * mw))
  BitVec.ofNat 32 (ms * 65536 + mv)

/-- The bits of w under the mask m, taken from v where on. -/
def mixBits (on : Bool) (w v m : Word) : Word := if on then (w &&& ~~~m) ||| (v &&& m) else w

/-- A bit for each position of coach c that runs a lane and uses it: a condition of that lane (R119). -/
def coachBits (x : Chip) (c lo : Nat) (f : Nat → Bool) (w : Word) : Word :=
  upTo 8 (fun p w =>
    let n := 8 * c + p
    putBits w (lo + p) 1 ((laneOf x n).live && (usesCoach (stdOf x n) && f n)).toNat) w

/-- What a measured register of the lanes, inputs, splitter, link and ports reads, over what it holds as w. -/
def dataMeasured (x : Chip) (addr : Nat) (w : Word) : Word :=
  let v := Config.freeWord x.freeCount
  if addr < 0x300 then mixBits (ainState x ((addr - 0x200) / 0x40) != stOff) w v 0xFFFFFFFF
  else if addr = R.SPL_STATUS then upTo 4 (fun a w => putBits w a 1 (inTaint x a).toNat) w
  else if addr = R.LINK_AGC then mixBits (isFoot x && fget x F.LINK_PHY_STATUS_rx == 2) w v 0x10000
  else if addr < 0x600 then putBits w 8 1 (dinNow x ((addr - 0x500) / 0x40)).toNat
  else if addr < 0x1000 then
    let c := (addr - 0x800) / 0x20
    coachBits x c 8 (fun n => coachTaint x n (nowAt x)) (coachBits x c 0 (fun n => laneSettles x n (nowAt x)) w)
  else laneMeasured x addr w

/-- What a measured register reads, over what it holds as w: the next values that are left open. -/
def measuredWord (x : Chip) (addr : Nat) (w : Word) : Word :=
  let a := (Config.freeWord x.freeCount).toNat
  let b := (Config.freeWord (x.freeCount + 1)).toNat
  if addr = R.SUP_HOLD then holdWord x (a % 65536) (b % 65536)
  else if addr = R.MGMT_LOAD then BitVec.ofNat 32 (max (a % 101) (b % 101) * 256 + a % 101)
  else if addr = R.STORE_OP then (if fon x F.STORE_OP_code then putBits w F.STORE_OP_pct.lo 8 (a % 101) else w)
  else if addr = R.CLK_VCO then mixBits (clkState x == ckLocked) w (Config.freeWord x.freeCount) 0xFF
  else if addr = R.CLK_REF_MON then mixBits (clkState x == ckLocked) w (Config.freeWord x.freeCount) 0xFFFF
  else if addr < 0x200 then Config.freeWord x.freeCount
  else dataMeasured x addr w

/-- The RL registers and the partners that a read of them latches (R477). -/
def partners (addr : Nat) : List Nat :=
  if addr = R.SPL_EPOCH_LO then [R.SPL_EPOCH_HI]
  else if addr = R.RTC_TICK_LO then [R.RTC_TICK_HI]
  else if addr = R.RTC_WALL_LO ∨ addr = R.RTC_SECONDS then [R.RTC_WALL_HI]
  else if addr = R.MGMT_LOG_DATA 0 then [R.MGMT_LOG_DATA 1, R.MGMT_LOG_DATA 2, R.MGMT_LOG_DATA 3]
  else if addr = R.MGMT_STIME_LO then [R.MGMT_STIME_HI]
  else if addr = R.MGMT_STEP_LO then [R.MGMT_STEP_HI]
  else if addr = R.FUSE_SERIAL_LO then [R.FUSE_SERIAL_HI]
  else []

/-- A register that reads an interface's latch (R477). -/
def isPartner (addr : Nat) : Bool :=
  [R.SPL_EPOCH_HI, R.RTC_TICK_HI, R.RTC_WALL_HI, R.MGMT_LOG_DATA 1, R.MGMT_LOG_DATA 2, R.MGMT_LOG_DATA 3,
    R.MGMT_STIME_HI, R.MGMT_STEP_HI, R.FUSE_SERIAL_HI].contains addr

/-- The latch of an interface for a partner (R382). -/
def latchKey (o : Iface) (addr : Nat) : Nat := o.code * 65536 + addr

/-- Word i of the log entry that `MGMT_LOG_SEL` names (R378). -/
def logWord (x : Chip) (i : Nat) : Word :=
  ((logEntry x (rd x R.MGMT_LOG_SEL).toNat) >>> (32 * i)).setWidth 32

/-- The sequence number that `MGMT_SEQ_SEL` asks for (R390). -/
def seqWord (x : Chip) : Word :=
  let src := fget x F.MGMT_SEQ_SEL_src
  if isSource src then BitVec.ofNat 32 (65536 + (nextSeq x src).toNat) else 0

/-- The key-hash word that `FUSE_KEY_SEL` shows, hash byte 0 first (R425). -/
def keyWord (x : Chip) : Word :=
  BitVec.ofNat 32 (field (be 32 x.keyShown.toNat) (4 * fget x F.FUSE_KEY_SEL_word) 4)

/-- `APORTp_STATUS`, `fading` 0 once the fade or ramp has ended (R303). -/
def portStatus (x : Chip) (p : Nat) : Word :=
  let w := rd x (R.APORT_STATUS p)
  match (portOf x p).fadeEnd with
  | some t => if t.toNat ≤ x.tm.ticks.toNat then putBits w 2 1 0 else w
  | none => w

/-- `HOST_PRIV_POS` of slot i (R299). -/
def privPos (x : Chip) (i : Nat) : Word :=
  let r := privOf x i
  BitVec.ofNat 32 (r.rd * 65536 + (if r.len = 0 then 0 else r.total % r.len))

/-- What a register holds, seen at its own address, partners included. -/
def ownView (x : Chip) (addr : Nat) : Word :=
  let w := (wall x).toNat
  if addr < 0x800 then
    if addr = R.RTC_TICK_LO then BitVec.ofNat 32 x.tm.ticks.toNat
    else if addr = R.RTC_TICK_HI then BitVec.ofNat 32 (x.tm.ticks.toNat / 2 ^ 32)
    else if addr = R.RTC_WALL_LO then BitVec.ofNat 32 w
    else if addr = R.RTC_WALL_HI then BitVec.ofNat 32 (w / 2 ^ 32)
    else if addr = R.RTC_SECONDS then BitVec.ofNat 32 (w / 2 ^ 15)
    else if R.CAL_VIEW_TAG ≤ addr ∧ addr ≤ R.CAL_VIEW_SKEW23 then calView x addr
    else if addr = R.HOST_PRIV_CFG then (privOf x (fget x F.HOST_PRIV_SEL_slot)).cfg
    else if addr = R.HOST_PRIV_POS then privPos x (fget x F.HOST_PRIV_SEL_slot)
    else if R.MGMT_LOG_DATA 0 ≤ addr ∧ addr ≤ R.MGMT_LOG_DATA 3 then logWord x ((addr - R.MGMT_LOG_DATA 0) / 4)
    else if addr = R.MGMT_SEQ then seqWord x
    else if addr = R.MGMT_STIME_LO then x.tm.stime.setWidth 32
    else if addr = R.MGMT_STIME_HI then (x.tm.stime >>> 32).setWidth 32
    else if addr = R.FUSE_KEY_DATA then keyWord x
    else if addr = R.CLK_CONV_NOW then putBits (rd x addr) 0 12 (convNow x)
    else if addr = R.CLK_STATUS then putBits (rd x addr) 0 3 (clkShown x)
    else if addr = R.CLK_COAST ∧ x.clk.coast.isSome = true then putBits (rd x addr) 16 16 (sat 16 (coastMs x))
    else if measured addr then
      measuredWord x addr (if 0x500 ≤ addr ∧ addr < 0x600 then portStatus x ((addr - 0x500) / 0x40) else rd x addr)
    else rd x addr
  else if isLaneAddr addr ∧ addr % 0x40 ∈ stagedOffs then
    if measured addr then measuredWord x addr (stagedRead x addr) else stagedRead x addr
  else if isCarrAddr addr ∧ addr % 0x10 ≤ 4 then carrWord x addr
  else if measured addr then measuredWord x addr (rd x addr)
  else rd x addr

/-- What a read of a register's word returns to an interface (R6, R459, R476, R477). -/
def regView (x : Chip) (o : Iface) (addr : Nat) : Word :=
  match regRow addr with
  | none => 0
  | some r =>
    let v := if isPartner addr then smGet (fun _ => 0) x.latch (latchKey o addr) else ownView x addr
    let m := BitVec.ofNat 32 (downMask x addr r)
    (v &&& ~~~m) ||| (resetWord addr &&& m)

/-- Partners latched for an interface (R382, R477). -/
def latchAll (x : Chip) (o : Iface) : List Nat → Chip
  | [] => x
  | a :: l =>
    let v := match regRow a with
      | some r => ownView x a &&& ~~~ BitVec.ofNat 32 (downMask x a r)
      | none => 0
    latchAll { x with latch := smPut (fun _ => 0) x.latch (latchKey o a) v } o l

/-- A read of a register: its word, and what the read changes. -/
def readTake (x : Chip) (o : Iface) (addr : Nat) : Chip × Word :=
  let v := regView x o addr
  let y := latchAll x o (partners addr)
  (if measured addr then { y with freeCount := y.freeCount + 2 } else y, v)

/-- Registers answer: management runs (R305, R400, R476). -/
def regsUp (x : Chip) : Bool := mgmtUp x

/-- The field of `GEN_WAIT` of an interface (R464). -/
def waitFld : Iface → Fld
  | .twb => F.GEN_WAIT_twb
  | .hp => F.GEN_WAIT_hp
  | .cp => F.GEN_WAIT_cp
  | .mgmt => F.GEN_WAIT_mgmt

/-- The longest wait of an interface in ns (R474). -/
def noteWait (x : Chip) (o : Iface) (ns : Nat) : Chip := fset x (waitFld o) (max (fget x (waitFld o)) (sat 8 ns))

/-- The bytes last returned to an interface. -/
def giveBytes (x : Chip) (o : Iface) (l : List Byte) : Chip := { x with rdata := smPut (fun _ => []) x.rdata o.code l }

/-- A read of one register by an interface: the row of an RL register, or a whole word elsewhere. -/
def readReg (x : Chip) (o : Iface) (addr ns : Nat) : Chip :=
  let r := readTake (noteWait x o ns) o addr
  giveBytes r.1 o (le 4 r.2.toNat)

/-- A write with the access types of R6: RW fields take the value, W1C bits written 1 clear, all else stays. -/
def plainWrite (x : Chip) (addr : Nat) (v : Word) : Chip :=
  match regRow addr with
  | some r => wr x addr (rwMerge addr (rd x addr) v &&& ~~~ (v &&& BitVec.ofNat 32 r.w1c))
  | none => x

/-- A write whose field f keeps what it holds. -/
def plainBut (x : Chip) (addr : Nat) (v : Word) (f : Fld) : Chip :=
  plainWrite x addr (putBits v f.lo f.width (fget x f))

/-- Writes to GEN other than `full` (R354, R356, R464). -/
def genWrite (x : Chip) (addr : Nat) (v : Word) : Chip :=
  if addr = R.GEN_RESET then
    let go := v.getLsbD 2 && !fon x F.GEN_RESET_lane_go
    let x1 := plainWrite x addr v
    let x2 := if v.getLsbD 1 && dUp x1 then dataReset x1 0 else x1
    if go then laneGo x2 (getBits v 8 7) else x2
  else if addr = R.GEN_CTRL then
    let x1 := plainWrite x addr v
    if v.getLsbD 0 then wr x1 R.GEN_WAIT 0 else x1
  else plainWrite x addr v

/-- Writes to RTC (R369, R372): both `arm` and `disarm` leave the alarm disarmed. -/
def rtcWrite (x : Chip) (addr : Nat) (v : Word) : Chip :=
  if addr = R.RTC_SECONDS then secondsWrite x v
  else if addr = R.RTC_CTRL then
    let x1 := plainWrite x addr v
    if v.getLsbD 1 then alarmDisarm x1
    else if v.getLsbD 0 && !fon x1 F.RTC_CTRL_arm then alarmArm x1 else x1
  else plainWrite x addr v

/-- Writes to CLK (R96, R322, R323, R325, R329): `en` of an output, trim of the sample clock, relock and calibration. -/
def clkWrite (x : Chip) (addr : Nat) (v : Word) : Chip :=
  if addr = R.CLK_CTRL then
    let x1 := if v.getLsbD 1 && !fon x F.CLK_CTRL_relock then relock x else x
    if v.getLsbD 0 && (!fon x1 F.CLK_CTRL_vco_cal && x1.clk.cal.isNone) then calTrigger (fset x1 F.CLK_CTRL_vco_cal 1) 0
    else x1
  else if R.CLK_OUT 0 ≤ addr ∧ addr ≤ R.CLK_OUT 3 then
    let i := (addr - R.CLK_OUT 0) / 4
    let x1 := plainBut x addr v (F.CLK_OUT_en i)
    let x2 := if i = 0 ∧ getBits (rd x addr) 0 8 ≠ getBits v 0 8 then taintPowered x1 2000 else x1
    if v.getLsbD 31 = fon x2 (F.CLK_OUT_en i) then x2 else portsEval (outEnable x2 i (v.getLsbD 31))
  else plainWrite x addr v

/-- Writes to AIN (R40, R43 to R46, R48, R51): enables, attenuation, feed faults. -/
def ainWrite (x : Chip) (addr : Nat) (v : Word) : Chip :=
  let a := (addr - 0x200) / 0x40
  if addr = R.AIN_CFG a then
    let auto := fon x (F.AIN_CFG_att_auto a)
    let x1 := preselSweep (attWritten (plainBut x addr v (F.AIN_CFG_en a)) a auto) a
    if v.getLsbD 0 = fon x1 (F.AIN_CFG_en a) then x1 else ainEnableWrite x1 a (v.getLsbD 0)
  else if addr = R.AIN_FEED a then
    let x1 := plainBut x addr v (F.AIN_FEED_en a)
    let x2 := if v.getLsbD 0 = fon x1 (F.AIN_FEED_en a) then x1 else feedEnable x1 a (v.getLsbD 0)
    if ainState x2 a = stPaused then feedFollow x2 a else feedLow x2 a
  else if addr = R.AIN_ATT a then attWritten (plainWrite x addr v) a (fon x (F.AIN_CFG_att_auto a))
  else if addr = R.AIN_GAINPLAN a then
    gainplanWritten (plainWrite x addr v) a
  else if addr = R.AIN_STATUS a then
    faultClear (plainWrite x addr (v &&& ~~~ 0x00060000)) a (v.getLsbD 17) (v.getLsbD 18)
  else plainWrite x addr v

/-- Writes to CAL and SPL (R85, R96). -/
def calSplWrite (x : Chip) (addr : Nat) (v : Word) : Chip :=
  if addr = R.CAL_CTRL then
    upTo 4 (fun a y => if v.getLsbD (4 + a) then calRunWrite y a else y) (plainWrite x addr v)
  else if addr = R.SPL_CTRL then
    upTo 4 (fun a y => if v.getLsbD a then forcedTaint y a else y) x
  else plainWrite x addr v

/-- Writes to LINK (R236, R240, R265, R276). -/
def linkWrite (x : Chip) (addr : Nat) (v : Word) : Chip :=
  if addr = R.LINK_WSP_TX then
    let x1 := plainWrite x addr v
    if v.getLsbD 31 && isFoot x1 then wspTx x1 (getBits v 0 8) else x1
  else if R.LINK_NOTCH 0 ≤ addr ∧ addr ≤ R.LINK_NOTCH 15 then
    notchWritten (plainWrite x addr v) ((addr - R.LINK_NOTCH 0) / 4)
  else if addr = R.LINK_CTRL then
    let x1 := plainWrite x addr v
    let x2 := if v.getLsbD 8 && !isSolo x1 then linkRestart x1 else x1
    if v.getLsbD 0 && !fon x F.LINK_CTRL_auto then linkAuto x2 else x2
  else if addr = R.LINK_LATENCY ∧ isFoot x = true then x
  else plainWrite x addr v

/-- Writes to APORT (R277, R284, R291). -/
def aportWrite (x : Chip) (addr : Nat) (v : Word) : Chip :=
  let p := (addr - 0x500) / 0x40
  let off := addr % 0x40
  if off = 0 then aportCfg x p v
  else if off ≤ 0x10 then aportMap x p (off / 4 - 1) v
  else if off = 0x18 ∧ v.getLsbD 5 = true then contendCleared (plainWrite x addr v) p
  else plainWrite x addr v

/-- Writes to HOST (R295, R296, R298 to R300). -/
def hostWrite (x : Chip) (o : Iface) (addr : Nat) (v : Word) : Chip :=
  if addr = R.HOST_RING_CFG then ringCfg x v
  else if addr = R.HOST_RING_RD then ringRd x o v
  else if addr = R.HOST_PRIV_CFG then privCfg x (fget x F.HOST_PRIV_SEL_slot) v
  else if addr = R.HOST_PRIV_POS then privRd x o (fget x F.HOST_PRIV_SEL_slot) v
  else hostShow (plainWrite x addr v)

/-- Writes to TWB, BIST, STORE, MGMT and FUSE (R314, R381, R437). -/
def mgmtWrite (x : Chip) (addr : Nat) (v : Word) : Chip :=
  if addr = R.TWB_ATTN_CFG then attnCfg (plainWrite x addr v) (fon x F.TWB_ATTN_CFG_en)
  else if addr = R.BIST_CTRL then
    let x1 := plainWrite x addr v
    if v.getLsbD 1 && partRuns x1 then bistInterrupt x1 else x1
  else if addr = R.MGMT_INT_CAUSE then attnShow (plainWrite x addr v)
  else if addr = R.MGMT_INT_EN then attnShow (plainWrite x addr (v ||| 0x800))
  else plainWrite x addr v

/-- Writes to COACH (R111): resets of single positions, or of the coach. -/
def coachWrite (x : Chip) (addr : Nat) (v : Word) : Chip :=
  let c := (addr - 0x800) / 0x20
  if addr = R.COACH_CTRL c then
    if rfRuns x then
      if v.getLsbD 8 then coachReset x c 0
      else upTo 8 (fun p y => if v.getLsbD p && usesCoach (stdOf y (8 * c + p)) then syncReset y (8 * c + p) else y) x
    else x
  else plainWrite x addr v

/-- Writes to LANE (R15, R467, R468). -/
def laneWrite (x : Chip) (addr : Nat) (v : Word) : Chip :=
  let n := (addr - 0x1000) / 0x40
  if addr = R.LANE_CTRL n then
    let x1 := if v.getLsbD 0 then capture x n else x
    if v.getLsbD 1 then discardStaged x1 n else x1
  else if addr % 0x40 ∈ stagedOffs then stageWrite x addr v
  else x

/-- Writes to CARR (R192, R193, R210, R215). -/
def carrWrite (x : Chip) (addr : Nat) (v : Word) : Chip :=
  let c := (addr - 0x4000) / 0x10
  if addr = R.CARR_CFG c then
    let x1 := carrStage x addr v
    let x2 := if v.getLsbD 28 && carrMine x1 c then fset x1 (F.CARR_CFG_rej c) 0 else x1
    if v.getLsbD 29 then descCommit x2 c else x2
  else if addr = R.CARR_SRC c then
    let x1 := carrStage x addr v
    if v.getLsbD 27 && carrMine x1 c then fset x1 (F.CARR_SRC_wrap c) 0 else x1
  else plainWrite x addr v

/-- A word written to a register that is up, with what its own rules make of it. -/
def regWrite (x : Chip) (o : Iface) (addr : Nat) (v : Word) : Chip :=
  if addr < 0x80 then genWrite x addr v
  else if addr < 0xC0 then
    if addr = R.SENS_CTRL then (if v.getLsbD 0 then wr x R.SENS_PEAK (resetWord R.SENS_PEAK) else x) else plainWrite x addr v
  else if addr < 0x100 then rtcWrite x addr v
  else if addr < 0x180 then plainWrite x addr v
  else if addr < 0x200 then clkWrite x addr v
  else if addr < 0x300 then ainWrite x addr v
  else if addr < 0x400 then calSplWrite x addr v
  else if addr < 0x500 then linkWrite x addr v
  else if addr < 0x600 then aportWrite x addr v
  else if addr < 0x640 then hostWrite x o addr v
  else if addr < 0x800 then mgmtWrite x addr v
  else if addr < 0x1000 then coachWrite x addr v
  else if addr < 0x4000 then laneWrite x addr v
  else carrWrite x addr v

/-- The registers of the mailbox that a running command guards (R363). -/
def mboxReg (addr : Nat) : Bool := addr == R.MGMT_CMD || (decide (R.MGMT_ARG 0 ≤ addr) && decide (addr ≤ R.MGMT_ARG 7))

/-- A write ignored because its domain is down (R476). -/
def downWrite (x : Chip) (addr : Nat) : Chip :=
  fset (count x R.GEN_DOWN_COUNT F.GEN_STATUS_down_wrap 1) F.GEN_DOWN_ADDR_addr addr

/-- A write of a word by an interface (R356, R363, R473 to R476); `collides` where it meets an update of an RW field. -/
def writeReg (s : State) (o : Iface) (addr : Nat) (v : Word) (collides : Bool) : State :=
  match regRow addr with
  | none => s
  | some r =>
    let x := s.chip
    let down := downMask x addr r
    let up := (BitVec.ofNat 32 (r.rw ||| r.w1c ||| r.ws)) &&& ~~~ BitVec.ofNat 32 down
    if down ≠ 0 ∧ up = 0 then onChip (fun x => downWrite x addr) s
    else if fon x F.MGMT_STATUS_busy && mboxReg addr then onChip (fun x => fset x F.MGMT_STATUS_refused 1) s
    else
      let s1 := if collides then onChip (fun x => count x R.GEN_COLLIDE_COUNT F.GEN_STATUS_collide_wrap 1) s else s
      if addr = R.GEN_RESET ∧ v.getLsbD 0 = true then softReset s1 0
      else
        let s2 := onChip (fun x => regWrite x o addr v) s1
        if addr = R.GEN_RESET ∧ v.getLsbD 1 = true ∧ dUp x = true then clearCarriage s2 else s2

/-- Bytes written into the payload window (R363, R470): ignored while a command runs. -/
def writeWin (s : State) (i : Nat) (l : List Byte) : State :=
  if fon s.chip F.MGMT_STATUS_busy then onChip (fun x => fset x F.MGMT_STATUS_refused 1) s else putWin s i l

/-- A map entry of the loading-map window (R471). -/
def mapEntry (d e : Nat) (l : LinkDir) : List Byte :=
  match entryMap l e with
  | none => List.replicate 64 0
  | some (m, at_) =>
    let p := proposeBytes d m
    b1 1 ++ b1 m.id ++ (p.drop 1).take 1 ++ b1 (nth 0 l.counts e) ++ b4 (if e = 1 then at_ else 0) ++ (p.drop 8).take 30
      ++ b2 0 ++ b4 (segBytes d m (fullSymbols d)) ++ List.replicate 20 0

/-- A notch set as its segment spells it (R256, R471). -/
def notchBytes (l : List (Nat × Nat)) : List Byte := b1 l.length ++ l.flatMap fun e => b2 e.1 ++ b2 e.2

/-- A byte of the loading-map window (R471): 0 in SOLO. -/
def mapByte (x : Chip) (i : Nat) : Byte :=
  if !(isHead x || isFoot x) then 0
  else if i < 192 then nth 0 (mapEntry 0 (i / 64) x.lk.dn) (i % 64)
  else if i < 384 then nth 0 (mapEntry 1 (i / 64 - 3) x.lk.up) (i % 64)
  else if i < 0x1B0 then (if isFoot x then BitVec.ofNat 8 (sat 8 (nth 0 x.lk.dn.snr (i - 0x180))) else 0)
  else if i < 0x1C0 then (if isHead x then BitVec.ofNat 8 (sat 8 (nth 0 x.lk.up.snr (i - 0x1B0))) else 0)
  else if i < 0x240 then nth 0 (notchBytes x.lk.dn.notches) (i - 0x1C0)
  else nth 0 (notchBytes x.lk.up.notches) (i - 0x240)

/-- A byte of a window or an unmapped address (R459, R470 to R472); `page` is the interface's page of carriage memory. -/
def winByte (s : State) (page addr : Nat) : Byte :=
  if addr < 0x8000 then 0
  else if addr < 0x9000 then smGet zeroByte s.mem.win (addr - 0x8000)
  else if addr < 0xA000 then 0
  else if addr < 0xC000 then mapByte s.chip (addr - 0xA000)
  else if dUp s.chip then smGet zeroByte s.mem.cmem (page * 16384 + (addr - 0xC000))
  else 0

/-- Bytes read in order from an address, wrapping from 0xFFFF to 0x0000 (R310, R472, R473): each register word is taken
when its first byte is read. -/
def readSpan (s : State) (o : Iface) (page : Nat) : Nat → Nat → Option Word → Chip → Chip × List Byte
  | 0, _, _, x => (x, [])
  | n + 1, a, w, x =>
    if a < 0x8000 then
      let r := if a % 4 = 0 ∨ w = none then readTake x o (a - a % 4) else (x, w.getD 0)
      let q := readSpan s o page n (a + 1) (some r.2) r.1
      (q.1, nth 0 (le 4 r.2.toNat) (a % 4) :: q.2)
    else
      let q := readSpan s o page n ((a + 1) % 65536) none x
      (q.1, winByte s page a :: q.2)

/-- Such a read: the bytes are what the interface is given. -/
def readBytes (s : State) (o : Iface) (page addr n : Nat) : State :=
  let r := readSpan s o page n addr none s.chip
  { s with chip := giveBytes r.1 o r.2 }

end Sys2Proof.Machine
end

