-- ==== Sys2Proof/Machine/Crypto.lean ====
section
/-! DEFINITION. SHA-256 and the verification of an ECDSA signature over P-256, by which a firmware image is accepted
(R415, R416). The manual names both by name alone; their constants are those of FIPS 180-4 and FIPS 186-4. -/
namespace Sys2Proof.Machine

/-- The whole number x below 2^n, above the bits already found, whose k-th power is the greatest not above v. -/
def wholeRoot (k v : Nat) : Nat → Nat → Nat
  | 0, x => x
  | n + 1, x => wholeRoot k v n (if (x + 2 ^ n) ^ k ≤ v then x + 2 ^ n else x)

/-- The prime numbers below n, in rising order. -/
def primesBelow (n : Nat) : List Nat :=
  (List.range n).filter fun p => decide (2 ≤ p) && (List.range p).all fun d => decide (d < 2) || p % d != 0

/-- The first 32 fractional bits of the k-th root of a prime of at most 9 bits, as FIPS 180-4 makes its constants. -/
def rootWord (k p : Nat) : Word := BitVec.ofNat 32 (wholeRoot k (p * 2 ^ (32 * k)) 37 0)

/-- The round constants: from the cube roots of the first 64 primes, which lie below 312. -/
def shaK : List Word := (primesBelow 312).map (rootWord 3)

/-- The initial hash value: from the square roots of the first 8 primes, which lie below 20. -/
def shaInit : List Word := (primesBelow 20).map (rootWord 2)

/-- σ0 of the message schedule. -/
def shaS0 (w : Word) : Word := w.rotateRight 7 ^^^ w.rotateRight 18 ^^^ (w >>> 3)

/-- σ1 of the message schedule. -/
def shaS1 (w : Word) : Word := w.rotateRight 17 ^^^ w.rotateRight 19 ^^^ (w >>> 10)

/-- n more words of the message schedule, the last sixteen words given newest first. -/
def shaSched : Nat → List Word → List Word
  | 0, _ => []
  | n + 1, l =>
    let w := shaS1 (nth 0 l 1) + nth 0 l 6 + shaS0 (nth 0 l 14) + nth 0 l 15
    w :: shaSched n (w :: l.take 15)

/-- One round on the working variables a to h. -/
def shaRound (v : List Word) (kw : Word × Word) : List Word :=
  let a := nth 0 v 0
  let e := nth 0 v 4
  let s1 := e.rotateRight 6 ^^^ e.rotateRight 11 ^^^ e.rotateRight 25
  let ch := (e &&& nth 0 v 5) ^^^ (~~~e &&& nth 0 v 6)
  let t1 := nth 0 v 7 + s1 + ch + kw.1 + kw.2
  let s0 := a.rotateRight 2 ^^^ a.rotateRight 13 ^^^ a.rotateRight 22
  let maj := (a &&& nth 0 v 1) ^^^ (a &&& nth 0 v 2) ^^^ (nth 0 v 1 &&& nth 0 v 2)
  [t1 + s0 + maj, a, nth 0 v 1, nth 0 v 2, nth 0 v 3 + t1, e, nth 0 v 5, nth 0 v 6]

/-- n words of four octets, most significant first. -/
def shaWords : Nat → List Byte → List Word
  | 0, _ => []
  | n + 1, l => BitVec.ofNat 32 (unbe (l.take 4)) :: shaWords n (l.drop 4)

/-- One block of 64 octets. -/
def shaBlock (h : List Word) (l : List Byte) : List Word :=
  let w := shaWords 16 l
  List.zipWith (· + ·) h ((shaK.zip (w ++ shaSched 48 w.reverse)).foldl shaRound h)

/-- n blocks in order. -/
def shaBlocks : Nat → List Word → List Byte → List Word
  | 0, h, _ => h
  | n + 1, h, l => shaBlocks n (shaBlock h (l.take 64)) (l.drop 64)

/-- The SHA-256 of octets. -/
def sha256 (l : List Byte) : List Byte :=
  let m := l ++ [0x80] ++ List.replicate ((119 - l.length % 64) % 64) 0 ++ be 8 (8 * l.length)
  (shaBlocks (m.length / 64) shaInit m).flatMap fun w => be 4 w.toNat

/-- The prime, the order, the coefficient b and the base point of P-256. -/
def ecP : Nat := 0xFFFFFFFF00000001000000000000000000000000FFFFFFFFFFFFFFFFFFFFFFFF
def ecN : Nat := 0xFFFFFFFF00000000FFFFFFFFFFFFFFFFBCE6FAADA7179E84F3B9CAC2FC632551
def ecB : Nat := 0x5AC635D8AA3A93E7B3EBBD55769886BC651D06B0CC53B0F63BCE3C3E27D2604B
def ecGx : Nat := 0x6B17D1F2E12C4247F8BCE6E563A440F277037D812DEB33A0F4A13945D898C296
def ecGy : Nat := 0x4FE342E2FE1A7F9B8EE7EB4A7C0F9E162BCE33576B315ECECBB6406837BF51F5

/-- b^e modulo m, over the n low bits of e. -/
def powMod (m : Nat) : Nat → Nat → Nat → Nat
  | 0, _, _ => 1
  | n + 1, b, e =>
    let r := powMod m n (b * b % m) (e / 2)
    if e % 2 = 1 then r * b % m else r

/-- The inverse modulo a prime of 256 bits. -/
def invMod (m a : Nat) : Nat := powMod m 256 (a % m) (m - 2)

/-- The sum of two points of the curve; none is the point at infinity. -/
def ecAdd : Option (Nat × Nat) → Option (Nat × Nat) → Option (Nat × Nat)
  | none, q => q
  | p, none => p
  | some (x1, y1), some (x2, y2) =>
    if x1 = x2 ∧ (y1 + y2) % ecP = 0 then none
    else
      let s := if x1 = x2 then (3 * x1 * x1 + ecP - 3) * invMod ecP (2 * y1) % ecP
        else (y2 + ecP - y1) * invMod ecP (x2 + ecP - x1) % ecP
      let x := (s * s + 2 * ecP - x1 - x2) % ecP
      some (x, (s * (x1 + ecP - x) + ecP - y1) % ecP)

/-- A multiple of a point, over the n low bits of the factor. -/
def ecMul : Nat → Nat → Option (Nat × Nat) → Option (Nat × Nat)
  | 0, _, _ => none
  | n + 1, k, p =>
    let r := ecMul n (k / 2) (ecAdd p p)
    if k % 2 = 1 then ecAdd p r else r

/-- The ECDSA signature (r, s) of a hash verifies under the public key (x, y). -/
def ecVerify (x y r s : Nat) (hash : List Byte) : Bool :=
  if 0 < r ∧ r < ecN ∧ 0 < s ∧ s < ecN ∧ x < ecP ∧ y < ecP ∧ y * y % ecP = (x * x * x + (ecP - 3) * x + ecB) % ecP then
    let w := invMod ecN s
    match ecAdd (ecMul 256 (unbe hash * w % ecN) (some (ecGx, ecGy))) (ecMul 256 (r * w % ecN) (some (x, y))) with
    | some q => decide (q.1 % ecN = r)
    | none => false
  else false

end Sys2Proof.Machine
end

