-- ==== Sys2Proof/Machine/Flash.lean ====
section
/-! DEFINITION. The boot store beneath its commands (R393 to R406, R410 to R414, R421, R481, R482): layout and remap,
flash operations, ANCHOR, the write journal, configuration images, sectors that fail, maintenance. -/
namespace Sys2Proof.Machine

/-- The bytes of one sector. -/
def sectorSize : Nat := 4096

/-- The regions in order from sector 0, then SPARE at the top; LOG takes every sector that the others leave (R395). -/
def layoutOf (mib : Nat) : List (Nat × Nat) :=
  let log := mib * 256 - 532
  [(0, 2), (2, 2), (4, 160), (164, 160), (324, 32), (356, 32), (388, 64), (452, log), (452 + log, 16), (468 + log, 64)]

/-- First sector and sector count of a region of the layout in force. -/
def regionOf (x : Chip) (i : Nat) : Nat × Nat := nth (0, 0) x.store.lay i

/-- The bytes of a region. -/
def regionLen (x : Chip) (i : Nat) : Nat := (regionOf x i).2 * sectorSize

/-- The sector that stands for a sector, by the remaps in the order of retirement (R481). -/
def remapped (l : List (Nat × Nat)) (n : Nat) : Nat := l.foldl (fun c e => if c = e.1 then e.2 else c) n

/-- The device sector of a byte of a region. -/
def sectorAt (x : Chip) (region off : Nat) : Nat := remapped x.store.remap ((regionOf x region).1 + off / sectorSize)

/-- The device address of a byte of a region. -/
def flashAddr (x : Chip) (region off : Nat) : Nat := sectorAt x region off * sectorSize + off % sectorSize

/-- Bytes of a region as stored. -/
def flashBytes (s : State) (region off n : Nat) : List Byte :=
  (List.range n).map fun i => smGet erasedByte s.mem.flash (flashAddr s.chip region (off + i))

/-- A little-endian number of a region. -/
def flashNum (s : State) (region off n : Nat) : Nat := unle (flashBytes s region off n)

/-- A sector of a region holds nothing but 0xFF. -/
def sectorBlank (s : State) (region off : Nat) : Bool :=
  let a := sectorAt s.chip region off * sectorSize
  s.mem.flash.all fun e => decide (e.1 < a) || decide (a + sectorSize ≤ e.1)

/-- The flash with other contents. -/
def withFlash (s : State) (m : SMap Byte) : State := { s with mem := { s.mem with flash := m } }

/-- Programming clears bits (R408): each byte becomes the old byte AND the new one. -/
def flashAnd (x : Chip) (region off : Nat) (m : SMap Byte) : List Byte → SMap Byte
  | [] => m
  | b :: r =>
    let a := flashAddr x region off
    flashAnd x region (off + 1) (smPut erasedByte m a (smGet erasedByte m a &&& b)) r

/-- Bytes programmed. -/
def flashProg (s : State) (region off : Nat) (l : List Byte) : State :=
  withFlash s (flashAnd s.chip region off s.mem.flash l)

/-- A sector erased, counted in `STORE_ERASE_COUNT` (R424). -/
def flashErase (s : State) (region off : Nat) : State :=
  onChip (fun x => count x R.STORE_ERASE_COUNT (F.STORE_STATUS_wrap.bit 0) 1)
    (withFlash s (clearRange s.mem.flash (sectorAt s.chip region off * sectorSize) sectorSize))

/-- One flash operation done. -/
def flashDo (s : State) (o : FlashOp) : State :=
  if o.erase then flashErase s o.region o.off else flashProg s o.region o.off o.bytes

/-- Flash operations done in order. -/
def flashAll (s : State) (l : List FlashOp) : State := l.foldl flashDo s

/-- An operation cut by a reset (R411): of a program some bits stay unprogrammed, of an erase the sector holds what is
given. -/
def flashTorn (s : State) (o : FlashOp) (torn : List Byte) : State :=
  if o.erase then flashProg (flashErase s o.region o.off) o.region o.off torn
  else flashProg s o.region o.off (List.zipWith (· ||| ·) o.bytes (pad 0xFF o.bytes.length torn))

/-- A generation or sequence is later than another (R406). -/
def later (a b : Nat) : Bool :=
  let d := (a + 2 ^ 32 - b % 2 ^ 32) % 2 ^ 32
  decide (1 ≤ d) && decide (d < 2 ^ 31)

/-- The copy in force of two, each given by its generation where it is valid: the later, A where they are equal (R406,
R481). -/
def inForce (a b : Option Nat) : Option Nat :=
  match a, b with
  | some g, some h => if later h g then some 1 else some 0
  | some _, none => some 0
  | none, some _ => some 1
  | none, none => none

/-- The little-endian CRC-32 of octets. -/
def crcBytes (l : List Byte) : List Byte := le 4 (crc32 l)

/-- Pairs of 32-bit words. -/
def pairBytes (l : List (Nat × Nat)) : List Byte := l.flatMap fun e => le 4 e.1 ++ le 4 e.2

/-- An ANCHOR copy (R481). -/
def anchorImage (gen mib : Nat) (lay remap : List (Nat × Nat)) : List Byte :=
  let body := le 4 mib ++ pairBytes lay ++ le 4 0 ++ pairBytes remap
  le 4 0x524E4341 ++ b2 1 ++ b2 remap.length ++ le 4 gen ++ crcBytes body ++ body

/-- What an ANCHOR copy says: generation, density, region table, remap entries. -/
structure Anchor where
  gen : Nat
  mib : Nat
  lay : List (Nat × Nat)
  remap : List (Nat × Nat)
  deriving DecidableEq, Repr

/-- n pairs of 32-bit words of an octet list. -/
def pairsOf : Nat → List Byte → List (Nat × Nat)
  | 0, _ => []
  | n + 1, l => (field l 0 4, field l 4 4) :: pairsOf n (l.drop 8)

/-- An ANCHOR copy whose marker and check word pass (R481), read from the sector it stands in. -/
def anchorRead (s : State) (remap : List (Nat × Nat)) (copy : Nat) : Option Anchor :=
  let a := remapped remap copy * sectorSize
  let h := bytesAt erasedByte s.mem.flash a 16
  let n := field h 6 2
  if field h 0 4 = 0x524E4341 ∧ n ≤ 499 then
    let body := bytesAt erasedByte s.mem.flash (a + 16) (88 + 8 * n)
    if field h 12 4 = crc32 body then some ⟨field h 8 4, field body 0 4, pairsOf 10 (body.drop 4), pairsOf n (body.drop 88)⟩
    else none
  else none

/-- The ANCHOR copies by their generations. -/
def anchorForce (s : State) (remap : List (Nat × Nat)) : Option Nat :=
  inForce ((anchorRead s remap 0).map Anchor.gen) ((anchorRead s remap 1).map Anchor.gen)

/-- The ANCHOR in force. A copy whose own sector was remapped is found by the remaps of the other. -/
def anchorNow (s : State) : Option Anchor :=
  match (anchorForce s []).bind (anchorRead s []) with
  | none => none
  | some a => match (anchorForce s a.remap).bind (anchorRead s a.remap) with
    | some b => some b
    | none => some a

/-- An intent record (R482): its slot, region pair, target copy, kind, generation, sequence, cleared progress bits. -/
structure Intent where
  slot : Nat
  pair : Nat
  copy : Nat
  kind : Nat
  gen : Nat
  seq : Nat
  cleared : Nat
  deriving DecidableEq, Repr

/-- The intent record of a slot, where its own CRC-32 passes. -/
def intentAt (s : State) (slot : Nat) : Option Intent :=
  let b := flashBytes s 1 (32 * slot) 32
  if field b 20 4 = crc32 (b.take 20) then
    some ⟨slot, field b 0 1, field b 1 1, field b 2 1, field b 4 4, field b 16 4, 31 - field b 24 4 % 32⟩
  else none

/-- The intent records of JOURNAL in the order of their slots. -/
def intents (s : State) : List Intent :=
  let half := fun k => if sectorBlank s 1 (k * sectorSize) then [] else
    (List.range 128).filterMap fun i => intentAt s (128 * k + i)
  half 0 ++ half 1

/-- The newest of a list of intent records (R482). -/
def newest : List Intent → Option Intent
  | [] => none
  | i :: r => match newest r with
    | some j => if later i.seq j.seq then some i else some j
    | none => some i

/-- The progress bits of a write: 0 to 4, of a twin or repair rewrite 0 to 3 (R410). -/
def progressAll (kind : Nat) : Nat := if kind = 0 then 5 else 4

/-- The step that an intent record's write was in: the first whose bit is not cleared; none where it is complete. -/
def stepFound (i : Intent) : Option Nat :=
  ((List.range (progressAll i.kind)).find? fun b => i.cleared / 2 ^ b % 2 == 0).map (· + 2)

/-- The slot of the next intent record, with the erase of its sector where that is not blank (R410). -/
def nextSlot (s : State) : Nat × List FlashOp :=
  match newest (intents s) with
  | none => if sectorBlank s 1 0 then (0, []) else (0, [⟨true, 1, 0, []⟩])
  | some i =>
    let k := i.slot / 128
    match ((List.range 128).filter (i.slot % 128 < ·)).find? fun j =>
        flashBytes s 1 (32 * (128 * k + j)) 32 == List.replicate 32 0xFF with
    | some j => (128 * k + j, [])
    | none =>
      let o := 1 - k
      (128 * o, if sectorBlank s 1 (o * sectorSize) then [] else [⟨true, 1, o * sectorSize, []⟩])

/-- The sequence of the next intent record. -/
def nextIntent (s : State) : Nat := match newest (intents s) with
  | some i => (i.seq + 1) % 2 ^ 32
  | none => 1

/-- The program operation that clears a progress bit. -/
def progressOp (slot bit : Nat) : FlashOp := ⟨false, 1, 32 * slot + 24, le 4 (0xFFFFFFFF - 2 ^ bit)⟩

/-- Programs of at most a page each (R393); fuel is the number of pages. -/
def pageOps (region : Nat) : Nat → Nat → List Byte → List FlashOp
  | 0, _, _ => []
  | f + 1, off, l =>
    if l.isEmpty then []
    else ⟨false, region, off, l.take 256⟩ :: pageOps region f (off + 256) (l.drop 256)

/-- Region and offset of a copy of a pair: 0 ANCHOR, 1 CONFIG. -/
def copyPlace (pair copy : Nat) : Nat × Nat := if pair = 0 then (0, copy * sectorSize) else (4 + copy, 0)

/-- The superseded word: any value other than 0xFFFF_FFFF, left open (R401). -/
def supersededWord (x : Chip) : List Byte :=
  let w := (free x).toNat
  le 4 (if w = 0xFFFFFFFF then 0 else w)

/-- The operations of a journal write (R410): intent record, erase, bytes but those of the check word and the commit mark,
check word, commit mark, superseded word of the other copy, each but the first followed by its progress bit. -/
def writeOps (s : State) (pair copy kind : Nat) (img : List Byte) : List FlashOp :=
  let p := copyPlace pair copy
  let lo := if pair = 0 then 12 else 24
  let hi := if pair = 0 then 16 else 40
  let q := nextSlot s
  let slot := q.1
  let rec20 := b1 pair ++ b1 copy ++ b1 kind ++ b1 0 ++ (img.drop 8).take 4 ++ le 4 img.length ++ crcBytes img
    ++ le 4 (nextIntent s)
  let body := img.take lo ++ List.replicate (hi - lo) 0xFF ++ img.drop hi
  q.2 ++ [⟨false, 1, 32 * slot, rec20 ++ crcBytes rec20⟩]
    ++ (List.range (ceilDiv img.length sectorSize)).map (fun i => ⟨true, p.1, p.2 + i * sectorSize, []⟩)
    ++ [progressOp slot 0] ++ pageOps p.1 (ceilDiv img.length 256) p.2 body ++ [progressOp slot 1]
    ++ [⟨false, p.1, p.2 + lo, (img.drop lo).take 4⟩, progressOp slot 2]
    ++ (if pair = 0 then [] else [⟨false, p.1, p.2 + 28, (img.drop 28).take 4⟩]) ++ [progressOp slot 3]
    ++ (if kind = 0 then
        (if pair = 0 then [] else [⟨false, 5 - copy, 32, supersededWord s.chip⟩]) ++ [progressOp slot 4]
      else [])

/-- The header of a configuration image (R401). -/
structure ImgHdr where
  marker : Nat
  format : Nat
  hlen : Nat
  gen : Nat
  rlen : Nat
  count : Nat
  part : Nat
  checkOk : Bool
  commit : Nat
  sup : Nat
  deriving DecidableEq, Repr

/-- The header that 40 octets hold. -/
def hdrOf (b : List Byte) : ImgHdr :=
  ⟨field b 0 4, field b 4 2, field b 6 2, field b 8 4, field b 12 4, field b 16 2, field b 18 2,
    decide (field b 24 4 = crc32 (b.take 24)), field b 28 4, field b 32 4⟩

/-- A record of an image (R402): type, payload, own CRC-32 passes, octets from its start to the end of its CRC-32. -/
structure CfgRec where
  type : Nat
  payload : List Byte
  ok : Bool
  off : Nat
  len : Nat
  deriving DecidableEq, Repr

/-- The records of an image, at most n, from an offset and ending by a limit; `g` reads octets at an offset. -/
def recsFrom (g : Nat → Nat → List Byte) (lim : Nat) : Nat → Nat → List CfgRec
  | 0, _ => []
  | n + 1, off =>
    if lim < off + 8 then []
    else
      let h := g off 4
      let body := 4 + field h 2 2 + (4 - field h 2 2 % 4) % 4
      if lim < off + body + 4 then []
      else
        let b := g off (body + 4)
        ⟨field h 0 2, (b.drop 4).take (field h 2 2), decide (field b body 4 = crc32 (b.take body)), off, body + 4⟩
          :: recsFrom g lim n (off + body + 4)

/-- The longest image (R401). -/
def imgMax : Nat := 131072

/-- The header of a CONFIG copy. -/
def copyHdr (s : State) (c : Nat) : ImgHdr := hdrOf (flashBytes s (4 + c) 0 40)

/-- The records of a CONFIG copy. -/
def copyRecs (s : State) (c : Nat) : List CfgRec :=
  let h := copyHdr s c
  recsFrom (flashBytes s (4 + c)) (min imgMax (40 + h.rlen)) h.count 40

/-- A copy is valid (R406); a retired one is out of use (R414). -/
def copyValid (s : State) (c : Nat) : Bool :=
  let h := copyHdr s c
  !s.chip.store.retired.contains (4 + c) && (h.marker == 0x47464E43 && (h.format == 1 && (h.part == 0x9604
    && (h.checkOk && (h.commit == 0x5A5A0000 && h.sup == 0xFFFFFFFF)))))

/-- The generation of a valid copy. -/
def copyGen (s : State) (c : Nat) : Option Nat := if copyValid s c then some (copyHdr s c).gen else none

/-- The CONFIG copy in force (R406). -/
def cfgForce (s : State) : Option Nat := inForce (copyGen s 0) (copyGen s 1)

/-- The generation of the next commit or install (R401). -/
def nextGen (s : State) : Nat := match (cfgForce s).bind (copyGen s) with
  | some g => (g + 1) % 2 ^ 32
  | none => 1

/-- The target of a configuration write (R410). -/
def cfgTarget (s : State) : Nat :=
  if !copyValid s 0 then 0 else if !copyValid s 1 then 1 else 1 - (cfgForce s).getD 0

/-- A record as it stands in an image (R402). -/
def recBytes (t : Nat) (p : List Byte) : List Byte :=
  let b := b2 t ++ b2 p.length ++ p ++ List.replicate ((4 - p.length % 4) % 4) 0
  b ++ crcBytes b

/-- A committed image (R401). -/
def imgBytes (gen n builder : Nat) (recs : List Byte) : List Byte :=
  let h := le 4 0x47464E43 ++ b2 1 ++ b2 40 ++ le 4 gen ++ le 4 recs.length ++ b2 n ++ b2 0x9604 ++ le 4 builder
  h ++ crcBytes h ++ le 4 0x5A5A0000 ++ List.replicate 8 0xFF ++ recs

/-- The journal sector that maintenance erases (R410): one not blank that does not hold the newest record. -/
def journalDue (s : State) : Option Nat :=
  match newest (intents s) with
  | some i => if sectorBlank s 1 ((1 - i.slot / 128) * sectorSize) then none else some (1 - i.slot / 128)
  | none => none

/-- A background command of a group runs. -/
def jobOf (x : Chip) (g : Nat) : Option Job := x.store.jobs.find? fun j => j.group == g

/-- `STORE_STATUS`, `STORE_CFG_GEN` and `STORE_OP` as the store stands (R406, R407, R413, R414, R424). -/
def storeShow (s : State) : State :=
  let st := s.chip.store
  let gen := fun c => ((copyGen s c).getD 0) % 65536
  let op := match st.jobs with
    | j :: _ => (j.code, j.region)
    | [] => (0, 0)
  onChip (fun x => fsets x
    [(F.STORE_STATUS_busy, (st.jobs.map fun j => 2 ^ j.group).sum),
     (F.STORE_STATUS_cfg_in_force, if cfgForce s = some 1 then 1 else 0),
     (F.STORE_STATUS_cfg_a_valid, if copyValid s 0 then 1 else 0),
     (F.STORE_STATUS_cfg_b_valid, if copyValid s 1 then 1 else 0),
     (F.STORE_STATUS_worn, if st.retired.isEmpty then 0 else 1),
     (F.STORE_STATUS_maint_due, if st.marks.isEmpty && (journalDue s).isNone then 0 else 1),
     (F.STORE_CFG_GEN_a, gen 0), (F.STORE_CFG_GEN_b, gen 1),
     (F.STORE_OP_code, op.1), (F.STORE_OP_region, op.2)]) s

/-- Remaps whose replacement is a sector of SPARE. -/
def sparesUsed (x : Chip) : Nat := (x.store.remap.filter fun e => decide ((regionOf x 9).1 ≤ e.2)).length

/-- `STORE_SPARE` and `STORE_LOG` (R414, R424). -/
def spareShow (x : Chip) : Chip :=
  let u := sparesUsed x
  fsets x [(F.STORE_SPARE_used, u), (F.STORE_SPARE_free, 64 - u), (F.STORE_SPARE_log_taken, sat 8 (x.store.remap.length - u)),
    (F.STORE_LOG_now, (regionOf x 7).2), (F.STORE_LOG_init, x.store.mib * 256 - 532)]

/-- The cause `store` and an event of it (R423). -/
def storeSay (x : Chip) (code : Nat) (args : List Byte) : Chip := raise (setCause x .store) srcStore code args

/-- A violation by the device (R421), logged at most once per 100 ms per reason. -/
def storeViol (x : Chip) (reason : Nat) : Chip :=
  let x1 := fset (count x R.STORE_VIOL_COUNT (F.STORE_STATUS_wrap.bit 2) 1) F.STORE_STATUS_dev_fault 1
  if limitOk x1 (smFind reason x1.store.viol) then
    storeSay { x1 with store := { x1.store with viol := smInsert reason x1.tm.ticks x1.store.viol } } 0x08 (b1 reason)
  else x1

/-- Violations met, in order. -/
def storeViols (x : Chip) (l : List Nat) : Chip := l.foldl storeViol x

/-- Rewrites marked for a pair and copy, each once. -/
def addMark (m : List (Nat × Nat × Nat)) (e : Nat × Nat × Nat) : List (Nat × Nat × Nat) := if m.contains e then m else m ++ [e]

/-- ANCHOR written through the journal with the layout and remaps in force, its other copy marked for a twin rewrite
(R410, R414). -/
def anchorWrite (s : State) : State :=
  let st := s.chip.store
  let f := anchorForce s st.remap
  let gen := match f.bind (anchorRead s st.remap) with
    | some a => (a.gen + 1) % 2 ^ 32
    | none => 1
  let c := match f with
    | some k => 1 - k
    | none => 0
  let s1 := flashAll s (writeOps s 0 c 0 (anchorImage gen st.mib st.lay st.remap))
  onChip (fun x => { x with store := { x.store with
    marks := (x.store.marks.filter fun m => m.1 != 0) ++ [(0, 1 - c, 1)] } }) s1

/-- The contents of a device sector moved to another. -/
def sectorMove (m : SMap Byte) (src dst : Nat) : SMap Byte :=
  let keep := clearRange m (dst * sectorSize) sectorSize
  (m.filter fun e => e.1 / sectorSize == src).foldl
    (fun k e => smInsert (e.1 - src * sectorSize + dst * sectorSize) e.2 k) keep

/-- A sector of LOG gives way: the region is one sector shorter, LOG_SHRINK is logged (R414). -/
def logShrink (x : Chip) : Chip :=
  let l := regionOf x 7
  let y := { x with store := { x.store with lay := setNth x.store.lay 7 (l.1, l.2 - 1) } }
  raise (spareShow y) srcStore 0x06 (b2 (l.2 - 1))

/-- The sector that can replace a failed one: a spare, or the highest sector of LOG (R414, R481). -/
def spareSector (x : Chip) : Option (Nat × Bool) :=
  let u := sparesUsed x
  if 499 ≤ x.store.remap.length then none
  else if u < 64 then some ((regionOf x 9).1 + u, false)
  else
    let l := regionOf x 7
    if 8 < l.2 then some (sectorAt x 7 ((l.2 - 1) * sectorSize), true) else none

/-- A sector of a region fails (R414): where a spare can be had, its contents move there and the remap is recorded. -/
def sectorFail (s : State) (region off : Nat) : Option State :=
  match spareSector s.chip with
  | none => none
  | some (n, fromLog) =>
    let old := sectorAt s.chip region off
    let s1 := if fromLog then onChip logShrink s else s
    let s2 := withFlash s1 (sectorMove s1.mem.flash old n)
    let s3 := anchorWrite
      (onChip (fun x => { x with store := { x.store with remap := x.store.remap ++ [(old, n)] } }) s2)
    some (onChip (fun x => raise (spareShow x) srcStore 0x05 (b1 region ++ b2 old ++ b1 (64 - sparesUsed x))) s3)

/-- Operations run in order, those listed in `fails` on sectors that fail twice (R414, R421): the state, and the region
at which no spare could be had, if any. -/
def flashRun (fails : List Nat) : Nat → State → List FlashOp → State × Option Nat
  | _, s, [] => (s, none)
  | i, s, o :: r =>
    if i ∈ fails then
      match sectorFail (onChip (fun x => storeViol x 5) s) o.region o.off with
      | some s1 => flashRun fails (i + 1) (flashDo s1 o) r
      | none => (onChip (fun x => storeViol x 5) s, some o.region)
    else flashRun fails (i + 1) (flashDo s o) r

/-- A copy or slot retired for good, with WORN (R414). -/
def retire (x : Chip) (region : Nat) : Chip :=
  if 2 ≤ region ∧ region ≤ 5 then
    storeSay { x with store := { x.store with retired := if x.store.retired.contains region then x.store.retired
      else x.store.retired ++ [region] } } 0x07 (b1 region)
  else x

/-- The marks that the copies call for (R413): every copy that is not retired, and not valid or of another generation than
the copy in force. -/
def deriveMarks (s : State) : List (Nat × Nat × Nat) :=
  let rm := s.chip.store.remap
  let agen := fun c => (anchorRead s rm c).map Anchor.gen
  let anchor := match anchorForce s rm with
    | some f => if agen (1 - f) = agen f then [] else [(0, 1 - f, 1)]
    | none => []
  let cfg := match cfgForce s with
    | some f => if s.chip.store.retired.contains (5 - f) ∨ copyGen s (1 - f) = copyGen s f then [] else [(1, 1 - f, 1)]
    | none => []
  anchor ++ cfg

/-- The record of a copy of a type and ordinal, where it passes its CRC-32 with the same payload (R406). -/
def twinOf (recs : List CfgRec) (t k : Nat) (p : List Byte) : Option CfgRec :=
  match (recs.filter fun r => r.type == t)[k]? with
  | some r => if r.ok && r.payload == p then some r else none
  | none => none

/-- The ordinals of records among records of their type. -/
def withOrdinals : List Nat → List CfgRec → List (Nat × CfgRec)
  | _, [] => []
  | seen, r :: l => ((seen.filter (· == r.type)).length, r) :: withOrdinals (r.type :: seen) l

/-- The image of a copy, its failed records replaced by their twins in the other copy (R406). -/
def repairedImage (s : State) (c : Nat) : List Byte :=
  let other := copyRecs s (1 - c)
  flashBytes s (4 + c) 0 40 ++ (withOrdinals [] (copyRecs s c)).flatMap fun e =>
    match (if e.2.ok then none else twinOf other e.2.type e.1 e.2.payload) with
    | some t => flashBytes s (5 - c) t.off t.len
    | none => flashBytes s (4 + c) e.2.off e.2.len

/-- The image that a marked rewrite programs; none where its source is gone. -/
def rewriteImage (s : State) (m : Nat × Nat × Nat) : Option (List Byte) :=
  if m.1 = 0 then
    match anchorForce s s.chip.store.remap with
    | some f => if f = m.2.1 then none else
      (anchorRead s s.chip.store.remap f).map fun a => anchorImage a.gen a.mib a.lay a.remap
    | none => none
  else if m.2.2 = 2 then (if copyValid s m.2.1 then some (repairedImage s m.2.1) else none)
  else match cfgForce s with
    | some f => if f = m.2.1 then none else some (flashBytes s (4 + f) 0 (40 + (copyHdr s f).rlen))
    | none => none

/-- Operations of marked rewrites in order, each found as its predecessors leave the store. -/
def rewritesOps (s : State) : List (Nat × Nat × Nat) → List FlashOp
  | [] => []
  | m :: r => match rewriteImage s m with
    | some img =>
      let ops := writeOps s m.1 m.2.1 m.2.2 img
      ops ++ rewritesOps (flashAll s ops) r
    | none => rewritesOps s r

/-- The operations of maintenance (R413): repair rewrites, twin rewrites, then the erase of the journal sector that does
not hold the newest record. -/
def maintOps (s : State) : List FlashOp :=
  let m := s.chip.store.marks
  let ops := rewritesOps s ((m.filter fun e => e.2.2 == 2) ++ m.filter fun e => e.2.2 != 2)
  ops ++ match journalDue (flashAll s ops) with
    | some k => [⟨true, 1, k * sectorSize, []⟩]
    | none => []

/-- The region that maintenance reports: that of its last rewrite, JOURNAL for an erase alone. -/
def maintRegion (s : State) : Nat :=
  match s.chip.store.marks.getLast? with
  | some m => (copyPlace m.1 m.2.1).1
  | none => if (journalDue s).isSome then 1 else 0

/-- The early warning is raised (R344). -/
def ewOn (x : Chip) : Bool := fon x F.SUP_STATUS_ew

end Sys2Proof.Machine
end

