-- ==== Sys2Proof/Machine/Store.lean ====
section
/-! DEFINITION. The store and configuration commands (R407 to R409) and maintenance (R413). -/
namespace Sys2Proof.Machine

/-- A region-protection fuse is set (R418): 0 FW_A, 1 FW_B, 2 CONFIG, 3 USER. -/
def protectedBy (x : Chip) (i : Nat) : Bool := x.fuse.protect.getLsbD i

/-- A mailbox command that programs flash (R413): under the early warning it begins nothing and stays running. -/
def mailboxFlash (code : Nat) (o : Iface) (body : State → MRes) (s : State) : State :=
  let x := s.chip
  if mgmtUp x && (ewOn x && (!mboxClosed x && ((mboxGate x code).isNone && !fon x F.MGMT_STATUS_busy))) then
    onChip (fun y => mboxIssue y o code) s
  else if mgmtUp x && (ewOn x && (fon x F.MGMT_STATUS_busy && fget x F.MGMT_CMD_code == code)) then s
  else mailbox code o body s

/-- A background command begins (R407). -/
def beginJob (s : State) (j : Job) : State :=
  storeShow (onChip (fun x => { x with store := { x.store with jobs := x.store.jobs ++ [j] } }) s)

/-- The erase of sectors of a region. -/
def eraseOps (region first n : Nat) : List FlashOp :=
  (List.range n).map fun i => ⟨true, region, (first + i) * sectorSize, []⟩

/-- Programs that stay within pages of 256 bytes (R393); fuel is the number of bytes. -/
def spanOps (region : Nat) : Nat → Nat → List Byte → List FlashOp
  | 0, _, _ => []
  | f + 1, off, l =>
    if l.isEmpty then []
    else
      let n := 256 - off % 256
      ⟨false, region, off, l.take n⟩ :: spanOps region f (off + n) (l.drop n)

/-- STORE_INFO (R407). -/
def execStoreInfo (o : Iface) (s : State) : Outc :=
  .next (mailbox 0x20 o (fun s => ⟨putWin s 0 (pairBytes s.chip.store.lay), stOk, 80⟩) s)

/-- The body of STORE_READ (R407). -/
def storeRead (s : State) : MRes :=
  let x := s.chip
  let n := arg x 2
  if 8 < arg x 0 ∨ 4096 < n ∨ regionLen x (arg x 0) < arg x 1 + n then refuse s stBadArg
  else ⟨putWin s 0 (flashBytes s (arg x 0) (arg x 1) n), stOk, n⟩

/-- STORE_READ (R407). -/
def execStoreRead (o : Iface) (s : State) : Outc := .next (mailbox 0x21 o storeRead s)

/-- The group of a region of data (R407): 2 USER, 3 DUMP and LOG. -/
def dataGroup (region : Nat) : Nat := if region = 8 then 2 else 3

/-- The body of STORE_ERASE (R407). -/
def storeErase (s : State) : MRes :=
  let x := s.chip
  let r := arg x 0
  let n := arg x 2
  if ¬(6 ≤ r ∧ r ≤ 8) ∨ (r = 8 ∧ protectedBy x 3 = true) then refuse s stDenied
  else if (regionOf x r).2 < arg x 1 + n then refuse s stBadArg
  else if n = 0 then refuse s stOk
  else if (jobOf x (dataGroup r)).isSome then refuse s stRegionBusy
  else ⟨beginJob s ⟨dataGroup r, 0x22, r, eraseOps r (arg x 1) n, 0, false, none, false⟩, stOk, 0⟩

/-- STORE_ERASE (R407). -/
def execStoreErase (o : Iface) (s : State) : Outc := .next (mailbox 0x22 o storeErase s)

/-- The programming of STORE_PROGRAM with its read-back (R408, R414). -/
def programUser (s : State) (off : Nat) (l : List Byte) (c : CmdObs) : MRes :=
  let want := List.zipWith (· &&& ·) (flashBytes s 8 off l.length) l
  let ops := spanOps 8 l.length off (List.zipWith (· ||| ·) l (pad 0 l.length c.torn))
  let r := flashRun c.fails 0 (onChip (fun x => storeViols x c.viols) s) ops
  let st := if r.2.isSome then stWorn else if flashBytes r.1 8 off l.length = want then stOk else stVerifyFail
  refuse (storeShow r.1) st

/-- The body of STORE_PROGRAM (R408). -/
def storeProgram (c : CmdObs) (s : State) : MRes :=
  let x := s.chip
  let off := arg x 1
  let n := arg x 2
  if arg x 0 ≠ 8 ∨ protectedBy x 3 = true then refuse s stDenied
  else if 4096 < n ∨ regionLen x 8 < off + n then refuse s stBadArg
  else if n = 0 then refuse s stOk
  else if (jobOf x 2).isSome then refuse s stRegionBusy
  else if arg x 3 % 2 = 0 ∧ flashBytes s 8 off n ≠ List.replicate n 0xFF then refuse s stNotBlank
  else programUser s off (winBytes s 0 n) c

/-- STORE_PROGRAM as a mailbox command. -/
def programCmd (o : Iface) (c : CmdObs) (s : State) : State := mailboxFlash 0x23 o (storeProgram c) s

/-- The reset word of a register in a role (R462): `LINK_WSP_CFG.wake_en` is 1 and `TWB_CFG.glide_match` 0 in a head. -/
def roleReset (head : Bool) (addr : Nat) : Word :=
  if addr = R.LINK_WSP_CFG ∧ head = true then putBits (resetWord addr) F.LINK_WSP_CFG_wake_en.lo 1 1
  else if addr = R.TWB_CFG ∧ head = true then putBits (resetWord addr) F.TWB_CFG_glide_match.lo 1 0
  else resetWord addr

/-- The bits of a register's RW fields. -/
def rwMask (addr : Nat) : Word := match regRow addr with
  | some r => BitVec.ofNat 32 r.rw
  | none => 0

/-- The setting that a register holds in force. -/
def settingWord (x : Chip) (addr : Nat) : Word := (if addr < 0x1000 then ownView x addr else rd x addr) &&& rwMask addr

/-- The pairs of the registers whose setting differs from its reset value (R409). -/
def pairsOfRegs (x : Chip) (l : List Nat) : List Byte :=
  pairBytes ((l.filter fun a => settingWord x a != (roleReset (isHead x) a &&& rwMask a)).map
    fun a => (a, (settingWord x a).toNat))

/-- The register addresses of a block. -/
def blockAddrs (lo hi : Nat) : List Nat := (List.range ((hi - lo) / 4)).map fun i => lo + 4 * i

/-- The keep-island settings that KEEP alone holds (R404). -/
def keepOnly : List Nat := [R.SUP_GLIDE_CFG, R.LINK_WSP_CFG, R.LINK_WSP_PATTERN]

/-- The registers of KEEP (R403). -/
def keepAddrs : List Nat := [R.RTC_ALARM_LO, R.RTC_ALARM_HI, R.RTC_CTRL] ++ keepOnly ++ [R.TWB_CFG]

/-- A register of the blocks of a record type (R403, R404). -/
def recordHolds (t addr : Nat) : Bool :=
  let inB := fun lo hi => decide (lo ≤ addr) && decide (addr < hi)
  if t = 0x02 then keepAddrs.contains addr
  else if t = 0x03 then
    (inB 0x80 0xC0 || inB 0x100 0x200 || inB 0x640 0x680 || inB 0x6C0 0x7C0) && !keepOnly.contains addr
  else if t = 0x10 then inB 0x200 0x400
  else if t = 0x11 then inB 0x800 0x9A0 || inB 0x1000 0x2A00
  else if t = 0x13 then inB 0x4000 0x5000
  else if t = 0x14 then inB 0x400 0x500 && !keepOnly.contains addr
  else t == 0x15 && inB 0x500 0x640

/-- The registers of a record type that a snapshot looks at (R409): of the lanes those neither SPARE nor failed; the
mailbox's own command code is no setting. -/
def snapshotAddrs (x : Chip) (t : Nat) : List Nat :=
  let all := if t = 0x11 then
      blockAddrs 0x800 0x9A0 ++ (allLanes.filter fun n => !spareNow x n && !failed x n).flatMap
        fun n => blockAddrs (laneBase n) (laneBase n + 0x40)
    else if t = 0x13 then blockAddrs 0x4000 0x5000
    else if t = 0x02 then keepAddrs
    else blockAddrs 0x80 0x800
  all.filter fun a => recordHolds t a && (rwMask a != 0 && a != R.MGMT_CMD)

/-- The arguments of FOLLOW_SET that a record stands for (R171, R403). -/
def followEntry (e : Nat × Follow) : List Byte :=
  let r := e.2
  le 4 e.1 ++ le 4 r.policy ++ b1 r.margin ++ leInt 1 r.bias ++ b2 r.guard ++ b2 r.line ++ b2 r.fade

/-- A CALSET payload (R405). -/
def calsetBytes (a : Nat) (c : CalSet) : List Byte :=
  b1 a ++ b1 c.bucket ++ leInt 1 (c.temp + 64) ++ b1 0 ++ c.vals.flatMap i2

/-- The records of the snapshot (R409). -/
def snapshot (s : State) : List (Nat × List Byte) :=
  let x := s.chip
  let user := match cfgForce s with
    | some f => ((copyRecs s f).filter fun r => decide (0xF000 ≤ r.type) && r.ok).map fun r => (r.type, r.payload)
    | none => []
  [(0x01, b1 (role x) ++ b1 (fget x F.SUP_STATE_init))]
    ++ ([0x02, 0x03, 0x10, 0x11, 0x13, 0x14, 0x15].map fun t => (t, pairsOfRegs x (snapshotAddrs x t)))
    ++ (if x.follows.isEmpty then [] else [(0x12, x.follows.flatMap followEntry)])
    ++ ((List.range 4).flatMap fun a => (calOf x a).sets.map fun c => (0x20, calsetBytes a c)) ++ user

/-- The result that a commit or install gives before it is looked at (R407, R414). -/
def cfgRefusal (x : Chip) : Option Nat :=
  if protectedBy x 2 then some stDenied
  else if x.store.retired.any fun r => r == 4 || r == 5 then some stWorn
  else if (jobOf x 0).isSome then some stRegionBusy
  else none

/-- An image begins to be written through the journal (R410). -/
def beginWrite (s : State) (code : Nat) (img : List Byte) : State :=
  let c := cfgTarget s
  onChip freeNext (beginJob s ⟨0, code, 4 + c, writeOps s 1 c 0 img, 0, false, some (1, c, 0), false⟩)

/-- The body of STORE_COMMIT_CONFIG (R407, R409): an image longer than a copy holds is not written. -/
def storeCommit (s : State) : MRes :=
  match cfgRefusal s.chip with
  | some st => refuse s st
  | none =>
    let recs := snapshot s
    let img := imgBytes (nextGen s) recs.length 0 (recs.flatMap fun r => recBytes r.1 r.2)
    if imgMax < img.length then refuse s stBadArg else ⟨beginWrite s 0x24 img, stOk, 0⟩

/-- STORE_COMMIT_CONFIG (R407, R409). -/
def execStoreCommitConfig (o : Iface) (s : State) : Outc := .next (mailbox 0x24 o storeCommit s)

/-- The body of CONFIG_STAGE (R407). -/
def configStage (s : State) : MRes :=
  let x := s.chip
  let n := arg x 1
  if 4096 < n ∨ imgMax < arg x 0 + n then refuse s stBadArg
  else refuse { s with mem := { s.mem with stage := putBytes zeroByte s.mem.stage (arg x 0) (winBytes s 0 n) } } stOk

/-- CONFIG_STAGE (R407). -/
def execConfigStage (o : Iface) (s : State) : Outc := .next (mailbox 0x25 o configStage s)

/-- The offset of the first fault of an image (R401, R402, R407). -/
def imageFault (img : List Byte) : Option Nat :=
  if img.length < 40 then some 0
  else
    let h := hdrOf img
    if h.marker ≠ 0x47464E43 then some 0
    else if h.format ≠ 1 then some 4
    else if h.hlen ≠ 40 then some 6
    else if h.rlen + 40 ≠ img.length then some 12
    else if h.part ≠ 0x9604 then some 18
    else if h.checkOk = false then some 24
    else
      let recs := recsFrom (fun i n => (img.drop i).take n) img.length h.count 40
      match recs.find? fun r => !r.ok with
      | some r => some (r.off + r.len - 4)
      | none =>
        let stop := match recs.getLast? with
          | some r => r.off + r.len
          | none => 40
        if recs.length = h.count ∧ stop = img.length then none else some stop

/-- The body of CONFIG_INSTALL (R407): the image gets the next generation and a new check word. -/
def configInstall (s : State) : MRes :=
  match cfgRefusal s.chip with
  | some st => refuse s st
  | none =>
    let n := arg s.chip 0
    let img := bytesAt zeroByte s.mem.stage 0 (min n imgMax)
    match (if imgMax < n then some 0 else imageFault img) with
    | some i => ⟨onChip (fun x => setArg x 1 i) s, stBadArg, 0⟩
    | none => ⟨beginWrite s 0x26 (imgBytes (nextGen s) (field img 16 2) (field img 20 4) (img.drop 40)), stOk, 0⟩

/-- CONFIG_INSTALL (R407). -/
def execConfigInstall (o : Iface) (s : State) : Outc := .next (mailbox 0x26 o configInstall s)

/-- The body of STORE_ABORT (R407). An update past its erase ends at once. -/
def storeAbort (s : State) : MRes :=
  let x := s.chip
  let g := arg x 0
  if 3 < g then refuse s stBadArg
  else if (jobOf x g).isSome then
    okChip s { x with store := { x.store with
      jobs := x.store.jobs.map fun j => if j.group = g then { j with abort := true } else j } }
  else if g = 1 ∧ x.store.update.isSome = true then okChip s { x with store := { x.store with update := none } }
  else refuse s stNotInState

/-- STORE_ABORT (R407). -/
def execStoreAbort (o : Iface) (s : State) : Outc := .next (mailbox 0x27 o storeAbort s)

/-- Maintenance begins (R413). -/
def beginMaint (s : State) : State := beginJob s ⟨0, 0x28, maintRegion s, maintOps s, 0, false, none, false⟩

/-- STORE_MAINTAIN (R407, R413). -/
def execStoreMaintain (o : Iface) (s : State) : Outc :=
  .next (mailbox 0x28 o (fun s =>
    if (jobOf s.chip 0).isSome then refuse s stRegionBusy else ⟨beginMaint s, stOk, 0⟩) s)

/-- MAINTENANCE (R413): 10 s after a start, or its period has passed; not in recovery, and nothing begins under the early
warning. -/
def execMaintenance (s : State) : Outc :=
  .next (if partRuns s.chip && (!ewOn s.chip && ((jobOf s.chip 0).isNone && fon s.chip F.STORE_STATUS_maint_due)) then
      beginMaint s
    else s)

end Sys2Proof.Machine
end

