-- ==== Sys2Proof/Machine/Update.lean ====
section
/-! DEFINITION. Firmware slots and their choice, the update commands, the end of a background command, and the fuses
(R407, R414 to R419). -/
namespace Sys2Proof.Machine

/-- The stages of a slot's state word: a bit is cleared when its stage is reached (R416). -/
def fwVerified : Nat := 0
def fwActivated : Nat := 1
def fwTried : Nat := 2
def fwConfirmed : Nat := 3
def fwRetired : Nat := 4

/-- A slot has reached a stage. -/
def slotIs (s : State) (k bit : Nat) : Bool := flashNum s (2 + k) 152 4 / 2 ^ bit % 2 == 0

/-- A stage bit of a slot cleared. -/
def slotClear (s : State) (k bit : Nat) : State := flashProg s (2 + k) 152 (le 4 (0xFFFFFFFF - 2 ^ bit))

/-- The security version of a slot's image (R415). -/
def slotSec (s : State) (k : Nat) : Nat := flashNum s (2 + k) 12 1

/-- The version of a slot's image (R415). -/
def slotVersion (s : State) (k : Nat) : Nat := flashNum s (2 + k) 8 4

/-- The key hash has its valid mark (R418): every bit of the mark is programmed. -/
def keySet (f : Fuses) : Bool := f.mark == 0xFF

/-- The key hash is damaged (R418). -/
def keyDamaged (f : Fuses) : Bool := !keySet f && (f.key != 0 || f.mark != 0)

/-- The signature of a slot's image verifies (R415). -/
def slotSigned (s : State) (k : Nat) : Bool :=
  let h := flashBytes s (2 + k) 0 256
  let n := field h 16 4
  if field h 0 4 = 0x57464C53 ∧ field h 4 2 = 1 ∧ field h 6 2 = 0x9604 ∧ n ≤ 524288 ∧ n % 4 = 0 ∧ field h 12 1 ≤ 64 then
    let num := fun i => unbe ((h.drop i).take 32)
    ecVerify (num 24) (num 56) (num 88) (num 120)
      (sha256 (h.take 88 ++ h.drop 156 ++ flashBytes s (2 + k) 256 n))
  else false

/-- Why a slot's image may not be booted, as UPDATE_FINISH reports it; none where it may (R416, R417). -/
def slotRefusal (s : State) (k : Nat) : Option Nat :=
  let f := s.chip.fuse
  if keyDamaged f || !slotSigned s k then some stBadSignature
  else if keySet f && unbe (sha256 (flashBytes s (2 + k) 24 64)) != f.key.toNat then some stBadSignature
  else if slotSec s k < f.rollback then some stDenied
  else none

/-- A slot holds a verified image that may be booted (R416, R417). -/
def slotOk (s : State) (k : Nat) : Bool :=
  slotIs s k fwVerified && (!slotIs s k fwRetired && (!s.chip.store.spoilt.contains k &&
    (!s.chip.store.retired.contains (2 + k) && (slotRefusal s k).isNone)))

/-- The loader's choice (R416): the state with its state words, the slot, and whether it runs on trial. -/
def bootChoice (s : State) : State × Option (Nat × Bool) :=
  let fresh := fun k => slotIs s k fwActivated && (!slotIs s k fwTried && slotOk s k)
  match [0, 1].find? fresh with
  | some k => (slotClear s k fwTried, some (k, true))
  | none =>
    let tried := fun (k : Nat) => slotIs s k fwActivated && (slotIs s k fwTried && !slotIs s k fwConfirmed)
    let s1 := [0, 1].foldl (fun t k => if tried k then slotClear t k fwRetired else t) s
    let may := fun k => slotIs s1 k fwConfirmed && slotOk s1 k
    let pick := if may 0 && (!may 1 || decide (slotSec s1 1 ≤ slotSec s1 0)) then some 0 else if may 1 then some 1 else none
    (s1, pick.map fun k => (k, false))

/-- The running slot. -/
def runSlot (x : Chip) : Nat := fget x F.STORE_FW_slot

/-- The running slot is on trial. -/
def onTrial (x : Chip) : Bool := fon x F.STORE_FW_trial

/-- The slot that an update writes: the one that does not run; in recovery slot A. -/
def updateSlot (x : Chip) : Nat := if x.pw.phase == .recovery then 0 else 1 - runSlot x

/-- `STORE_FW` as the slots stand (R424). -/
def fwShow (s : State) : State :=
  let o := 1 - runSlot s.chip
  let has := !s.chip.store.spoilt.contains o
  let pend := has && (slotIs s o fwActivated && (!slotIs s o fwTried && !slotIs s o fwRetired))
  let good := has && (slotIs s o fwConfirmed && !slotIs s o fwRetired)
  if s.chip.pw.phase == .recovery then s
  else onChip (fun x => fflag (fflag x F.STORE_FW_pending pend) F.STORE_FW_other_ok good) s

/-- The store's runtime state changed. -/
def withStore (s : State) (f : StoreRt → StoreRt) : State := onChip (fun x => { x with store := f x.store }) s

/-- The body of UPDATE_BEGIN (R417). -/
def updateBegin (s : State) : MRes :=
  let x := s.chip
  let k := updateSlot x
  if arg x 0 = 0 ∨ 524544 < arg x 0 then refuse s stBadArg
  else if onTrial x || protectedBy x k then refuse s stDenied
  else if x.store.retired.any fun r => r == 2 || r == 3 then refuse s stWorn
  else if x.store.update.isSome || (jobOf x 1).isSome then refuse s stRegionBusy
  else
    let s1 := withStore s fun t => { t with
      update := some ⟨k, arg x 0⟩, spoilt := if t.spoilt.contains k then t.spoilt else t.spoilt ++ [k] }
    let s2 := beginJob s1 ⟨1, 0x60, 2 + k, eraseOps (2 + k) 0 (regionOf x (2 + k)).2, 0, false, none, false⟩
    refuse (onChip (fun y => setArg y 0 k) (fwShow s2)) stOk

/-- UPDATE_BEGIN (R417). -/
def execUpdateBegin (o : Iface) (s : State) : Outc := .next (mailbox 0x60 o updateBegin s)

/-- The erase under way has passed n sectors. -/
def jobAdvance (s : State) (g n : Nat) : State :=
  match jobOf s.chip g with
  | some j =>
    let k := max j.done (min n (j.ops.length - 1))
    withStore (flashAll s ((j.ops.take k).drop j.done)) fun t => { t with
      jobs := t.jobs.map fun i => if i.group = g then { i with done := k } else i }
  | none => s

/-- The programming of UPDATE_DATA: a slot whose sector fails without a spare is retired (R414, R417). -/
def updateProgram (s : State) (k off : Nat) (l : List Byte) (c : CmdObs) : MRes :=
  let r := flashRun c.fails 0 (onChip (fun x => storeViols x c.viols) s) (spanOps (2 + k) l.length off l)
  match r.2 with
  | some _ =>
    refuse (storeShow (onChip (fun x => retire x (2 + k)) (withStore r.1 fun t => { t with update := none }))) stWorn
  | none => refuse (storeShow r.1) stOk

/-- The body of UPDATE_DATA (R417). -/
def updateData (c : CmdObs) (s : State) : MRes :=
  let s0 := jobAdvance s 1 c.erased
  let off := arg s.chip 0
  let n := arg s.chip 1
  match s.chip.store.update with
  | none => refuse s0 stNotInState
  | some u =>
    if off % 4 ≠ 0 ∨ 4096 < n ∨ u.len < off + n then refuse s0 stBadArg
    else if n = 0 then refuse s0 stOk
    else if ((jobOf s0.chip 1).map fun j => decide (sectorSize * j.done < off + n)) = some true then refuse s0 stBusy
    else updateProgram s0 u.slot off (winBytes s0 0 n) c

/-- UPDATE_DATA as a mailbox command. -/
def updateDataCmd (o : Iface) (c : CmdObs) (s : State) : State := mailboxFlash 0x61 o (updateData c) s

/-- The body of UPDATE_FINISH (R416, R417): the image's own length is that of the update. -/
def updateFinish (s : State) : MRes :=
  match s.chip.store.update with
  | none => refuse s stNotInState
  | some u =>
    if (jobOf s.chip 1).isSome then refuse s stBusy
    else
      let s1 := withStore s fun t => { t with update := none }
      match slotRefusal s1 u.slot with
      | some st => refuse s1 st
      | none =>
        if u.len ≠ 256 + flashNum s1 (2 + u.slot) 16 4 then refuse s1 stBadSignature
        else
          let s2 := withStore s1 fun t => { t with spoilt := t.spoilt.filter fun k => k != u.slot }
          refuse (fwShow (slotClear s2 u.slot fwVerified)) stOk

/-- UPDATE_FINISH as a mailbox command. -/
def updateFinishCmd (o : Iface) (s : State) : State := mailboxFlash 0x62 o updateFinish s

/-- The body of UPDATE_ACTIVATE (R417). -/
def updateActivate (s : State) : MRes :=
  let k := updateSlot s.chip
  if s.chip.store.update.isSome || (s.chip.store.spoilt.contains k || (!slotIs s k fwVerified || slotIs s k fwRetired)) then
    refuse s stNotInState
  else refuse (fwShow (slotClear s k fwActivated)) stOk

/-- UPDATE_ACTIVATE as a mailbox command. -/
def updateActivateCmd (o : Iface) (s : State) : State := mailboxFlash 0x63 o updateActivate s

/-- A fuse field programmed: counted and logged (R419). -/
def fuseProgrammed (x : Chip) (f : Fuses) (fld : Nat) (ok : Bool) : Chip :=
  raise (count { x with fuse := f } R.FUSE_PROG_COUNT F.FUSE_STATUS_wrap 1) srcFuse 0x01
    (b1 fld ++ b1 (if ok then stOk else stVerifyFail))

/-- The bits of a w-bit value that are set. -/
def popCount (w v : Nat) : Nat := ((List.range w).filter fun i => v / 2 ^ i % 2 == 1).length

/-- The rollback count raised to v, of whose bits those in `bad` do not take. -/
def rollbackTo (old v bad : Nat) : Nat := v - popCount (v - old) (bad % 2 ^ (v - old))

/-- The rollback count programmed, with whether every bit reads back. -/
def fuseRollback (x : Chip) (v : Nat) (c : CmdObs) : Chip × Bool :=
  let r := rollbackTo x.fuse.rollback v c.fuse
  (fuseProgrammed x { x.fuse with rollback := r } 2 (r == v), r == v)

/-- The body of UPDATE_CONFIRM (R417). -/
def updateConfirm (c : CmdObs) (s : State) : MRes :=
  if !onTrial s.chip then refuse s stNotInState
  else
    let k := runSlot s.chip
    let s1 := slotClear (slotClear s k fwConfirmed) (1 - k) fwRetired
    let s2 := onChip (fun x => fset x F.STORE_FW_trial 0) s1
    if arg s.chip 0 % 2 = 1 ∧ s2.chip.fuse.rollback < slotSec s2 k then
      let r := fuseRollback s2.chip (slotSec s2 k) c
      refuse (fwShow { s2 with chip := r.1 }) (if r.2 then stOk else stVerifyFail)
    else refuse (fwShow s2) stOk

/-- UPDATE_CONFIRM as a mailbox command. -/
def updateConfirmCmd (o : Iface) (c : CmdObs) (s : State) : State := mailboxFlash 0x64 o (updateConfirm c) s

/-- Octets of the window as a hash, byte 0 most significant. -/
def windowHash (s : State) : BitVec 256 := BitVec.ofNat 256 (unbe (winBytes s 0 32))

/-- The key hash programmed, its valid mark last and only over a hash that reads back (R418). -/
def fuseKey (x : Chip) (h : BitVec 256) (c : CmdObs) : Chip × Bool :=
  let got := h &&& ~~~ BitVec.ofNat 256 c.fuse
  let mark : Byte := if got = h then ~~~ BitVec.ofNat 8 (c.fuse / 2 ^ 256) else 0
  (fuseProgrammed x { x.fuse with key := got, mark := mark } 1 (mark == 0xFF), mark == 0xFF)

/-- The other fields programmed (R419): debug lock, region protection, role lock. -/
def fuseOther (x : Chip) (f v : Nat) (c : CmdObs) : Chip × Bool :=
  let bad := BitVec.ofNat 4 c.fuse
  if f = 3 then
    let d := x.fuse.debug || !bad.getLsbD 0
    (fuseProgrammed x { x.fuse with debug := d } 3 d, d)
  else if f = 4 then
    let p := x.fuse.protect ||| (BitVec.ofNat 4 v &&& ~~~ bad)
    let ok := p &&& BitVec.ofNat 4 v == BitVec.ofNat 4 v
    (fuseProgrammed x { x.fuse with protect := p } 4 ok, ok)
  else
    let r := ((BitVec.ofNat 4 (v % 4)) &&& ~~~ bad).toNat
    (fuseProgrammed x { x.fuse with roleLock := r } 5 (r == v % 4), r == v % 4)

/-- The instruction that the IEEE 1149.1 port acts on (R420): with the debug lock set, any but the four acts as BYPASS. -/
def jtagActs (x : Chip) : JtagInstr :=
  match x.jtag with
  | .other c => if x.fuse.debug then .bypass else .other c
  | i => i

/-- An instruction shifted into the port from TDI under TCK and TMS; no command of the table drives these pins. -/
def jtagLoad (i : JtagInstr) (x : Chip) : Chip := { x with jtag := i }

/-- The body of FUSE_PROGRAM (R419). -/
def fuseProgram (c : CmdObs) (s : State) : MRes :=
  let x := s.chip
  let f := arg x 0
  let v := arg x 1
  if 5 < f ∨ (f = 2 ∧ 64 < v) then refuse s stBadArg
  else if f = 0 then refuse s stDenied
  else if pstate x ≠ 1 ∧ pstate x ≠ 2 then refuse s stNotInState
  else if ewOn x then refuse s stAborted
  else if (f = 1 ∧ (x.fuse.key ≠ 0 ∨ x.fuse.mark ≠ 0)) ∨ (f = 5 ∧ x.fuse.roleLock ≠ 0) then refuse s stDenied
  else if f = 2 ∧ v ≤ x.fuse.rollback then refuse s stOk
  else
    let r := if f = 1 then fuseKey x (windowHash s) c else if f = 2 then fuseRollback x v c else fuseOther x f v c
    refuse { s with chip := r.1 } (if r.2 then stOk else stVerifyFail)

/-- FUSE_PROGRAM (R419). -/
def execFuseProgram (o : Iface) (c : CmdObs) (s : State) : Outc := .next (mailbox 0x65 o (fuseProgram c) s)

/-- The marks that a job leaves (R410, R413, R422). -/
def jobMarks (s : State) (j : Job) (ok : Bool) : List (Nat × Nat × Nat) :=
  let m := s.chip.store.marks
  match j.write with
  | some (pair, copy, _) =>
    if ok then (m.filter fun e => e.1 != pair) ++ [(pair, 1 - copy, 1)] else addMark m (pair, copy, 1)
  | none =>
    if j.code ≠ 0x28 then m
    else (if ok then [] else m.filter fun e => e.2.2 == 2) ++ deriveMarks s

/-- A background command ends (R407): final status, STORE_DONE, cause `store`. -/
def jobEnd (s : State) (j : Job) (status : Nat) (worn : Option Nat) : State :=
  let s1 := withStore s fun t => { t with
    jobs := t.jobs.filter fun i => i.group != j.group, marks := jobMarks s j (status == stOk),
    update := if j.group = 1 ∧ status ≠ stOk then none else t.update }
  let s2 := match worn with
    | some r => onChip (fun x => retire x r) s1
    | none => s1
  let s3 := onChip (fun x => fsets x
    [(F.STORE_RESULT_status, status), (F.STORE_RESULT_region, j.region), (F.STORE_RESULT_code, j.code)]) s2
  fwShow (storeShow (onChip (fun x => storeSay x 0x01 (b1 j.code ++ b1 j.region ++ b1 status)) s3))

/-- A sector of LOG fails and no spare can be had (R414): it is dropped, the highest sector standing in for it, and LOG
shrinks. -/
def logDropSector (s : State) (k : Nat) : State :=
  let x := s.chip
  let hi := (regionOf x 7).2 - 1
  let old := sectorAt x 7 (k * sectorSize)
  let new := sectorAt x 7 (hi * sectorSize)
  let s1 := onChip logShrink s
  if k = hi ∨ 499 ≤ x.store.remap.length then anchorWrite s1
  else
    anchorWrite (onChip (fun y => { y with store := { y.store with remap := y.store.remap ++ [(old, new)] } })
      (withFlash s1 (sectorMove s1.mem.flash new old)))

/-- The erase of sectors of LOG: one that fails while no spare can be had is dropped (R414). -/
def eraseLog (fails : List Nat) : Nat → State → List FlashOp → State
  | _, s, [] => s
  | i, s, o :: r =>
    if regionLen s.chip 7 ≤ o.off then eraseLog fails (i + 1) s r
    else
      let q := flashRun fails i s [o]
      eraseLog fails (i + 1) (if q.2.isSome then logDropSector q.1 (o.off / sectorSize) else q.1) r

/-- The operations of a job run to their end, or to where STORE_ABORT stopped them. -/
def jobRun (s : State) (j : Job) (n : Nat) (c : CmdObs) : State :=
  let k := if j.abort then max j.done (min n j.ops.length) else j.ops.length
  let s1 := onChip (fun x => storeViols x c.viols) s
  let ops := (j.ops.take k).drop j.done
  let r := if j.region = 7 then (eraseLog c.fails j.done s1 ops, none) else flashRun c.fails j.done s1 ops
  jobEnd r.1 j (if r.2.isSome then stWorn else if k < j.ops.length then stAborted else stOk) r.2

/-- STORE_DONE (R407): a background command of a group ends. Under the early warning nothing begins, so only an aborted
command ends (R413). -/
def execStoreDone (g n : Nat) (c : CmdObs) (s : State) : Outc :=
  .next (match jobOf s.chip g with
    | some j => if mgmtUp s.chip && (j.code != 0 && (!ewOn s.chip || j.abort)) then jobRun s j n c else s
    | none => s)

end Sys2Proof.Machine
end

