-- ==== Sys2Proof/Machine/Power.lean ====
section
/-! DEFINITION. Supply, power states and the events that reset the part (R341 to R353, R356, R358): early warning and
shedding, POWER_SET and its transitions, the exits from GLIDE. -/
namespace Sys2Proof.Machine

/-- What ACTIVE runs alone stops (R34, R187, R288, R350, R437). -/
def activeStop (x : Chip) : Chip := bistPauseShow (bistInterrupt (followsRest (rfStop (portsQuiet x))))

/-- A transition begins (R350): what it stops stops at once. -/
def powerBegin (x : Chip) (target origin : Nat) : Chip :=
  let x1 := fsets { x with pw := { x.pw with trans := some ⟨target, origin, x.tm.ticks⟩ } }
    [(F.SUP_STATE_busy, 1), (F.SUP_STATE_target, target)]
  let x2 := if pstate x = 0 then activeStop x1 else x1
  if 2 ≤ target ∧ pstate x ≤ 1 then portsStop (linkLeave x2 true) else x2

/-- A wake source that POWER_SET checks is armed (R349). -/
def wakeArmed (x : Chip) : Bool :=
  fon x F.LINK_WSP_CFG_wake_en || (fon x F.TWB_CFG_glide_match || (fon x F.RTC_CTRL_arm && fon x F.SUP_GLIDE_CFG_rtc_wake))

/-- POWER_SET's status, with the transition begun where it is OK and another state is meant (R349). -/
def powerSet (x : Chip) (target : Nat) (pinOnly : Bool) (origin : Nat) : Chip × Nat :=
  if 3 < target then (x, stBadArg)
  else if x.pw.trans.isSome then (x, stBusy)
  else if target = pstate x then (x, stOk)
  else if target = 3 ∧ pinOnly = false ∧ wakeArmed x = false then (x, stDenied)
  else (powerBegin x target origin, stOk)

/-- POWER_SET (R349). -/
def execPowerSet (o : Iface) (s : State) : Outc :=
  .next (mailbox 0x18 o (fun s =>
    let r := powerSet s.chip (arg s.chip 0) (arg s.chip 1 % 2 == 1) 0
    ⟨{ s with chip := r.1 }, r.2, 0⟩) s)

/-- The fields and the event of a state reached (R350, R359). -/
def stateFields (x : Chip) (new : Nat) : Chip :=
  fsets { x with pw := { x.pw with trans := none } }
    [(F.SUP_STATE_state, new), (F.SUP_STATE_target, new), (F.SUP_STATE_busy, 0)]

/-- STATE logged and counted (R350, R359). -/
def stateSay (x : Chip) (old new origin : Nat) : Chip :=
  raise (count x R.SUP_STATE_COUNT (F.SUP_STATUS_wrap.bit 4) 1) srcSup 0x03 (b1 old ++ b1 new ++ b1 origin)

/-- ACTIVE is reached: moved configurations, aerials, lanes and following start (R34, R187, R433). -/
def activeStart (x : Chip) : Chip := bistPauseShow (portsEval (followsBegin (rfStart (unparkAll x))))

/-- Domain D goes down with a state (R350): the head's transmitter has ramped down by then. -/
def standbyDown (x : Chip) : Chip :=
  downD (fsets x [(F.LINK_PHY_STATUS_tx_on, 0), (F.LINK_PHY_STATUS_ramp, 0)]) (isHead x)

/-- A state is reached, GLIDE's stop of the chip apart (R350): old state, new state, origin. -/
def reachState (s : State) (old new origin : Nat) : State :=
  let x := s.chip
  if 2 ≤ old ∧ new ≤ 1 then
    let x1 := dataReset (stateFields x new) 2
    let x2 := clkOutputs (stateSay x1 old new origin)
    { s with chip := if new = 0 then after srcSup activeStart x2 else x2 }
  else
    let x1 := clkOutputs (stateSay (stateFields x new) old new origin)
    if 2 ≤ new then
      if old ≤ 1 then clearCarriage { s with chip := standbyDown x1 } else { s with chip := x1 }
    else if new = 0 then { s with chip := if old = 0 then x1 else after srcSup activeStart x1 }
    else { s with chip := after srcSup rfStart (bistPauseShow x1) }

/-- At the head, the state that a free-burst POWER asked for is reached: the link trains (R270). -/
def cpTrain (x : Chip) : Chip :=
  if x.cp.trainAt = some (pstate x) then after srcSup linkTrain { x with cp := { x.cp with trainAt := none } } else x

/-- GLIDE is reached (R241, R350, R351, R413): only the keep island runs, the whisper oscillator trimmed at a head; store writes
are left at the end of a step; a wake latched meanwhile starts the part at once. -/
def enterGlide (s : State) : State :=
  let s1 := onChip (fun x => sampleStop { x with
    wsp := if isHead x then { x.wsp with trimmed := some x.tm.ticks } else x.wsp
    store := { x.store with jobs := x.store.jobs.map fun j => { j with left := true } }
    pw := { x.pw with phase := .glide, glideStart := x.tm.ticks, wspGlideRx := 0, wspGlideErr := 0, ewStart := none } }) s
  match s1.chip.pw.wake with
  | some w => glideExit s1 w.src
  | none => s1

/-- STATE (R350): the transition under way reaches its target. -/
def execStateReached (s : State) : Outc :=
  .next (match s.chip.pw.trans with
    | some t =>
      if mgmtUp s.chip then
        let us := (s.chip.tm.ticks - t.start).toNat * 100000 / 32768
        let s1 := onChip (fun x => fset x F.SUP_TRANS_TIME_us (sat 16 us)) s
        let s2 := onChip cpTrain (reachState s1 (pstate s.chip) t.target t.origin)
        if t.target = 3 then enterGlide s2 else s2
      else s
    | none => s)

/-- What the early warning sheds (R344): feeds, link, aerials, lanes. -/
def shedLoad (x : Chip) : Chip :=
  let x1 := feedsShed (fset x F.SUP_STATUS_shed 1)
  let x2 := linkLeaveTo x1 false 0
  bistInterrupt (rfStop x2)

/-- The converter runs. -/
def converterOn (x : Chip) : Bool :=
  match x.pw.phase with
  | .starting | .loading | .running | .recovery | .halted => true
  | _ => false

/-- The early warning (R344): COAX is below the level of coax power good (R341). -/
def ewRaise (x : Chip) (coax hold : Nat) : Chip :=
  let x1 := fsets { x with pw := { x.pw with ewStart := some x.tm.ticks, holdMin := hold, pgood := false } }
    [(F.SUP_STATUS_ew, 1), (F.SUP_STATUS_ew_seen, 1)]
  let x2 := raise (count x1 R.SUP_EW_COUNT (F.SUP_STATUS_wrap.bit 0) 1) srcSup 0x01
    (b2s (coax / 10) ++ b2s (hold / 10) ++ b1 (pstate x))
  let x3 := setCause x2 .supply
  bistPauseShow (if pstate x ≤ 1 then after srcSup shedLoad x3 else x3)

/-- EW (R344): COAX below 8.0 V for 2 µs. -/
def execEw (coax hold : Nat) (s : State) : Outc :=
  .next (if converterOn s.chip && (!ewOn s.chip && decide (coax < 8000)) then onChip (fun x => ewRaise x coax hold) s else s)

/-- The early warning clears (R345): shed units restart in the state in force; where nothing was shed there is no length to tell,
and that of the last shed stays. -/
def ewDrop (x : Chip) (vmin : Nat) : Chip :=
  let was := shed x
  let ms := match x.pw.ewStart.filter fun _ => was with
    | some t => (x.tm.ticks - t).toNat * 1000 / 32768
    | none => 0
  let low := min x.pw.holdMin vmin
  let x0 := fsets { x with pw := { x.pw with ewStart := none, holdMin := low } } [(F.SUP_STATUS_ew, 0), (F.SUP_STATUS_shed, 0)]
  let x1 := if was then fsets x0 [(F.SUP_SHED_TIME_ms, sat 16 ms), (F.SUP_SHED_TIME_vmin, sat 16 (low / 10))] else x0
  let x2 := bistPauseShow (raise x1 srcSup 0x02 (b2s ms ++ b2s (low / 10)))
  if was then after srcSup (fun y => linkAuto (rfStart y)) x2 else x2

/-- The early warning's end (R345): COAX at or above 8.5 V for 10 ms, HOLD at or above 4.0 V. -/
def ewClear (coax vmin : Nat) (s : State) : State :=
  if converterOn s.chip && (ewOn s.chip && (decide (8500 ≤ coax) && decide (4000 ≤ vmin))) then
    onChip (fun x => feedsLowAt coax (ewDrop x vmin)) s
  else s

/-- OVERVOLT (R343): COAX above 19.5 V. -/
def execOvervolt (mv : Nat) (s : State) : Outc :=
  .next (if converterOn s.chip && decide (19500 < mv) then
      onChip (fun x =>
        let x1 := count (fset x F.SUP_STATUS_ov 1) R.SUP_OV_COUNT
          (F.SUP_STATUS_wrap.bit 3) 1
        feedsLowAt mv (setCause (raise x1 srcSup 0x04 (b2s (mv / 10))) .supply)) s
    else s)

/-- A BOR reset, counted in the keep island (R343, R345). -/
def borReset (s : State) (cause : Nat) : State :=
  onChip (fun x => count x R.SUP_BOR_COUNT (F.SUP_STATUS_wrap.bit 1) 1) (coldReset s 1 cause)

/-- RAIL_LOW (R343, R359): the rail is logged after the start. -/
def execRailLow (rail : Nat) (s : State) : Outc :=
  .next (if converterOn s.chip && decide (rail ≤ 2) then
      onChip (fun x => count x R.SUP_RAIL_FAULT_COUNT (F.SUP_STATUS_wrap.bit 2) 1)
        (borReset (onChip (fun x => { x with pw := { x.pw with rail := some rail } }) s) 1)
    else s)

/-- BOR (R345): HOLD below 4.0 V; the start waits for coax power good (R341). -/
def execBor (s : State) : Outc :=
  .next (if s.chip.pw.phase = .glide ∨ s.chip.pw.phase = .waitPower then s
    else borReset (onChip (fun x => { x with pw := { x.pw with pgood := false } }) s) 0)

/-- POR (R353). -/
def execPor (s : State) : Outc := .next (porReset s)

/-- COAX_POWER_GOOD (R341): a start that waits begins. -/
def execCoaxPowerGood (s : State) : Outc :=
  .next (onChip (fun x =>
    let p := { x.pw with pgood := true }
    { x with pw := { p with phase := if x.pw.phase = .waitPower then startPhase p else x.pw.phase } }) s)

/-- NRST_LOW (R351, R353): a PIN reset that is held; in GLIDE the start follows the release. -/
def execNrstLow (s : State) : Outc :=
  .next (if s.chip.pw.nrst then s
    else
      let s1 := onChip (fun x => { x with pw := { x.pw with nrst := true } }) s
      if s.chip.pw.phase = .glide then s1 else coldReset s1 2 0)

/-- NRST_RELEASE (R351, R353). -/
def execNrstRelease (s : State) : Outc :=
  .next (if s.chip.pw.nrst then
      let s1 := onChip (fun x => { x with pw := { x.pw with nrst := false } }) s
      if s.chip.pw.phase = .glide then glideExit s1 4
      else onChip (fun x => { x with pw := { x.pw with phase := startPhase x.pw } }) s1
    else s)

/-- WDT_EXPIRY (R353). -/
def execWdtExpiry (s : State) : Outc := .next (if mgmtUp s.chip then wdtReset s 0 else s)

/-- GEN_RESET_FULL (R353, R356). -/
def execGenResetFull (s : State) : Outc := .next (if mgmtUp s.chip then softReset s 0 else s)

/-- A DATA reset of the whole part: carriage memory is cleared with the depot (R353, R357). -/
def dataResetAll (s : State) (cause : Nat) : State := clearCarriage (onChip (fun x => dataReset x cause) s)

/-- GEN_RESET_DATAPATH (R353, R356): ignored in STANDBY. -/
def execGenResetDatapath (s : State) : Outc :=
  .next (if mgmtUp s.chip && dUp s.chip then dataResetAll s 0 else s)

/-- What a whole state goes through as the effect of the event that a source raised last (R29). -/
def onCause (src : Nat) (f : State → State) (s : State) : State :=
  let l := s.chip.lg
  let t := f (onChip (fun x => { x with lg := { l with because := some (lastRef x src) } }) s)
  onChip (fun x => { x with lg := { x.lg with because := l.because } }) t

/-- COAST_END (R328): a full search in ACTIVE is followed by a DATA reset of cause 1 (R353). -/
def execCoastEnd (band us : Nat) (ofs : Int) (s : State) : Outc :=
  .next (if clkState s.chip = ckCoast then
      let s1 := onChip (fun x => coastEnd x band us ofs) s
      if !coastCloses s.chip && (dUp s.chip && pstate s.chip == 0) then onCause srcClk (dataResetAll · 1) s1 else s1
    else s)

/-- A wake of the keep island (R351, R358): from GLIDE a start, while GLIDE is entered latched, and nothing while nRST is
low. -/
def wakeUp (s : State) (src byte : Nat) : State :=
  let s1 := onChip (fun x => { x with pw := { x.pw with wake := some ⟨src, byte⟩ } }) s
  if s.chip.pw.nrst then s
  else if s.chip.pw.phase = .glide then glideExit s1 src
  else if (s.chip.pw.trans.map Trans.target) = some 3 ∧ s.chip.pw.wake.isNone = true then s1
  else s

/-- GLIDE is in force or being entered. -/
def gliding (x : Chip) : Bool := x.pw.phase == .glide || (x.pw.trans.map Trans.target) == some 3

/-- TWB_WAKE (R313, R351): the first byte after a START matches the latched address. -/
def execTwbWake (byte : Nat) (s : State) : Outc :=
  .next (if gliding s.chip && (fon s.chip F.TWB_CFG_glide_match && byte / 2 == twbAddr s.chip) then wakeUp s 2 byte else s)

/-- A whisper WAKE or RESET in GLIDE (R244). -/
def wspGlide (s : State) : State := if fon s.chip F.LINK_WSP_CFG_wake_en then wakeUp s 1 0 else s

/-- The link is up to be trained by WAKE: ACTIVE or QUIET, link not in RUN (R244). -/
def wspActs (x : Chip) : Bool := dUp x && linkState x != lsRun

/-- WSP_WAKE (R244, R265). -/
def execWspWake (s : State) : Outc :=
  .next (if wspIs s.chip 0x57 then
      let why := wspPattern s.chip
      let s1 := onChip wspSpent s
      if why ≠ 0 then onChip (fun x => wspBad x why) s1
      else if gliding s.chip then wspGlide s1
      else if wspActs s.chip && !shed s.chip then onChip (fun x => linkTrain (raise x srcLink 0x06 (b1 1))) s1
      else s1
    else s)

/-- The part is there to be reset by RESET (R244, R353, R358): it has power and nRST does not hold it. -/
def wspResets (x : Chip) : Bool := x.pw.phase != .waitPower && (!x.pw.nrst && fon x F.LINK_WSP_CFG_reset_en)

/-- WSP_RESET (R244): but in GLIDE a SOFT reset, in RUN and STANDBY too; WSP_RESET is logged after the start. -/
def execWspReset (s : State) : Outc :=
  .next (if wspIs s.chip 0x52 then
      let why := wspPattern s.chip
      let s1 := onChip wspSpent s
      if why ≠ 0 then onChip (fun x => wspBad x why) s1
      else if gliding s.chip then wspGlide s1
      else if wspResets s.chip then softReset s1 1
      else s1
    else s)

end Sys2Proof.Machine
end

