-- ==== Sys2Proof/Machine/Start.lean ====
section
/-! DEFINITION. The start (R397 to R400): lock, straps and fuses, boot store, firmware, journal, configuration, initial
state. -/
namespace Sys2Proof.Machine

/-- The fuse mirror read afresh (R418, R425), with the address balls (R306). -/
def mirrorRead (x : Chip) (addr : Nat) : Chip :=
  let f := x.fuse
  fsets { x with keyShown := f.key }
    [(F.FUSE_STATUS_mirror_ok, 1), (F.FUSE_STATUS_role_lock, f.roleLock), (F.FUSE_STATUS_debug_lock, (f.debug).toNat),
     (F.FUSE_STATUS_key_set, (keySet f).toNat), (F.FUSE_STATUS_key_damaged, (keyDamaged f).toNat),
     (F.FUSE_ROLLBACK_count, f.rollback), (F.FUSE_PROTECT_regions, f.protect.toNat),
     (F.FUSE_SERIAL_LO_sn, f.serial.toNat), (F.FUSE_SERIAL_HI_sn, f.serial.toNat / 2 ^ 32), (F.TWB_STATUS_addr, addr)]

/-- Step 1 (R324): the synthesiser locks, unless LOCK has told so. -/
def startLock (x : Chip) (o : StartObs) : Chip :=
  if clkState x = ckOff then
    fset (searchEnd x o.band o.us (x.pw.kind == 0)) F.CLK_REF_MON_ppm (tcomp 16 (clip 16 o.ppm))
  else x

/-- The generator of the attention messages' backoff is seeded from the serial number (R316). -/
def seedBackoff (x : Chip) : Chip := { x with twb := { x.twb with gen := Config.backoffSeed x.fuse.serial } }

/-- The role is in force (R1, R399); at the first start after POR the keep-island settings whose reset value depends on it take that value
(R357, R462). -/
def startRole (x : Chip) (o : StartObs) : Chip :=
  let role := o.straps % 4
  let x1 := fsets (seedBackoff (mirrorRead x o.addr)) [(F.GEN_ROLE_straps, role), (F.GEN_ROLE_role, role)]
  if x.pw.keepDue then
    wr (wr x1 R.LINK_WSP_CFG (roleReset (role == 1) R.LINK_WSP_CFG)) R.TWB_CFG (roleReset (role == 1) R.TWB_CFG)
  else x1

/-- The read clock in MHz, rounded down (R394): 204.8 MHz over the smallest k of 2 or more that keeps the limit. -/
def bsClock (o : StartObs) : Nat :=
  let lim := 10 * min (if o.quad then 104 else 50) o.mhz
  let k := max 2 (if lim = 0 then 255 else ceilDiv 2048 lim)
  2048 / k / 10

/-- The device meets R393. -/
def storeUsable (o : StartObs) : Bool := o.sfdp && (decide (4 ≤ o.mib) && o.erase4k)

/-- Step 3 (R394, R421): the device as its SFDP table tells it. -/
def startDevice (x : Chip) (o : StartObs) : Chip :=
  let x1 := if !o.sfdp then storeViol x 1 else if !storeUsable o then storeViol x 2 else if !o.quad then storeViol x 3 else x
  let x2 := storeViols x1 o.viols
  if storeUsable o then
    fsets x2 [(F.STORE_DEV_mib, min 64 o.mib), (F.STORE_DEV_mhz, bsClock o), (F.STORE_DEV_addr4, if 16 < o.mib then 1 else 0),
      (F.STORE_DEV_width, if o.quad then 2 else 0)]
  else x2

/-- The layout in force: that of ANCHOR, or of the density where no copy is valid (R396, R481). -/
def layoutLoad (s : State) (mib : Nat) : State :=
  match anchorNow s with
  | some a => withStore s fun t => { t with mib := a.mib, lay := a.lay, remap := a.remap }
  | none => withStore s fun t => { t with mib := mib, lay := layoutOf mib, remap := [] }

/-- Both ANCHOR copies are blank: the first start writes them (R396). -/
def anchorFirst (s : State) : State :=
  let st := s.chip.store
  if sectorBlank s 0 0 && sectorBlank s 0 sectorSize then
    let img := anchorImage 1 st.mib st.lay []
    flashProg (flashProg s 0 0 img) 0 sectorSize img
  else s

/-- Where the step ends in which a write is after k operations (R410): its intent record, or a progress bit, is programmed. -/
def stepUp (ops : List FlashOp) (k : Nat) : Nat :=
  if k = 0 then 0
  else
    let ends := fun i => match ops[i - 1]? with
      | some o => o.region == 1 && !o.erase
      | none => true
    ((List.range (ops.length + 1)).find? fun i => decide (k ≤ i) && ends i).getD ops.length

/-- A write that a reset cut: operations completed, and what the next one left (R411); one that GLIDE left ends with its step,
and no operation of it is torn (R413). -/
def cutApply (s : State) (j : Job) (c : Nat × List Byte) : State :=
  let n := max j.done (min c.1 j.ops.length)
  let k := if j.left && j.group == 0 then stepUp j.ops n else n
  let s1 := flashAll s ((j.ops.take k).drop j.done)
  match (if j.left then none else j.ops[k]?) with
  | some op => flashTorn s1 op c.2
  | none => s1

/-- Writes that a reset cut, in the order in which they began. -/
def cutsApply (s : State) : List Job → List (Nat × List Byte) → State
  | [], _ => s
  | j :: l, cs => cutsApply (cutApply s j (cs.headD (0, []))) l cs.tail

/-- Steps 3 and 5's store (R396, R411): layout, then what was cut, then the layout again. -/
def startStore (s : State) (o : StartObs) : State :=
  let mib := min 64 o.mib
  let s1 := layoutLoad s mib
  let s2 := anchorFirst (layoutLoad (cutsApply s1 s1.chip.store.cut o.cuts) mib)
  onChip spareShow s2

/-- The records kept for this start and what the start itself logs first (R2, R356, R359, R399, R418). -/
def startLogs (x : Chip) : Chip :=
  let k := x.pw.kind
  let x1 := raise (deliverQueues x) srcGen 0x01 (b1 k ++ b1 x.pw.cause ++ b1 (fget x F.GEN_RESET_CAUSE_crumb))
  let x2 := if x.pw.strapInvalid && k != 0 then raise x1 srcGen 0x04 (b1 0) else x1
  let x3 := match x.pw.roleLocked with
    | some st => if k = 0 then x2 else raise x2 srcGen 0x06 (b1 st ++ b1 x.fuse.roleLock)
    | none => x2
  let x4 := match x.pw.rail with
    | some r => raise x3 srcSup 0x05 (b1 r)
    | none => x3
  let x5 := match x.tm.alarmMissed with
    | some t => raiseAt (setCause { x4 with tm := { x4.tm with alarmMissed := none } } .rtc) t srcRtc 0x01 (b4 t.toNat) none
    | none => x4
  let x6 := if keyDamaged x.fuse then raise x5 srcFuse 0x02 [] else x5
  { x6 with pw := { x6.pw with strapInvalid := false, roleLocked := none, rail := none } }

/-- What woke the part, logged after the start (R244, R313). -/
def startWakes (x : Chip) : Chip :=
  let x1 := { x with pw := { x.pw with wake := none } }
  let x2 := match x.pw.wake with
    | some w =>
      if x.pw.kind ≠ 5 then x1
      else if w.src = 1 then raise x1 srcLink 0x06 (b1 0)
      else if w.src = 2 then raise (count x1 R.TWB_WAKE_COUNT (twbWrap 5) 1) srcTwb 0x06 (b1 w.byte)
      else x1
    | none => x1
  let x3 := if x.pw.kind = 4 ∧ x.pw.cause = 1 then raise x2 srcLink 0x07 [] else x2
  if x.pw.kind = 5 ∧ isHead x = true then raise x3 srcLink 0x08 (b2s x.pw.wspGlideRx ++ b2s x.pw.wspGlideErr) else x3

/-- The slot booted (R416, R423). -/
def slotBoot (s : State) (k : Nat) (trial : Bool) : State :=
  let sec := slotSec s k
  let v := slotVersion s k
  fwShow (onChip (fun x =>
    raise (fsets (wr x R.MGMT_FW_VER (BitVec.ofNat 32 v))
      [(F.STORE_FW_slot, k), (F.STORE_FW_sec, sec), (F.STORE_FW_trial, trial.toNat)])
      srcStore 0x09 (b1 k ++ b4 v ++ b1 sec ++ b1 trial.toNat)) s)

/-- Recovery (R400): the part stays in STANDBY. -/
def enterRecovery (s : State) : State :=
  onChip (fun x =>
    let x1 := fset { x with pw := { x.pw with phase := .recovery, keepDue := false } } F.STORE_STATUS_recovery 1
    clkOutputs (stateSay (stateFields x1 2) x.pw.prev 2 2)) s

/-- The code of the write that an intent record stands for: the command cut by the reset, or the command of its kind. -/
def intentCode (s : State) (i : Intent) : Nat :=
  match s.chip.store.cut.find? fun j => j.group == 0 with
  | some j => j.code
  | none => if i.kind = 0 ∧ i.pair = 1 then 0x24 else 0x28

/-- The target of an intent record holds its whole image (R412). -/
def targetWhole (s : State) (i : Intent) : Bool :=
  if i.pair = 0 then (anchorRead s s.chip.store.remap i.copy).isSome
  else
    let h := copyHdr s i.copy
    let r := copyRecs s i.copy
    h.checkOk && (r.length == h.count && r.all CfgRec.ok)

/-- The programs of a roll-forward (R412): commit mark, then the superseded word of the other copy. -/
def rollForward (s : State) (i : Intent) : State :=
  if i.pair = 0 then s
  else onChip freeNext (flashProg (flashProg s (4 + i.copy) 28 (le 4 0x5A5A0000)) (5 - i.copy) 32 (supersededWord s.chip))

/-- The journal resolved (R412): the newest intent record whose progress word is not fully cleared; its bits are cleared
then, so that it is resolved once. -/
def journalResolve (s : State) : State :=
  match newest ((intents s).filter fun i => (stepFound i).isSome) with
  | none => s
  | some i =>
    let step := (stepFound i).getD 2
    let fwd := i.kind == 0 && (step == 6 || (step == 5 && targetWhole s i))
    let s1 := if fwd then rollForward s i else s
    let s2 := flashProg s1 1 (32 * i.slot + 24) (le 4 (0xFFFFFFFF - (2 ^ progressAll i.kind - 1)))
    let region := (copyPlace i.pair i.copy).1
    onChip (fun x => raise (fsets x [(F.STORE_RESULT_status, if fwd then stOk else stAborted),
      (F.STORE_RESULT_region, region), (F.STORE_RESULT_code, intentCode s i)]) srcStore 0x02
      (b1 region ++ b1 i.copy ++ b1 step ++ b1 fwd.toNat)) s2

/-- What the records of a copy leave: the state, the types seen and the payloads chosen. -/
structure Choice where
  st : State
  seen : List Nat
  recs : List (Nat × List Byte)

/-- A record rejected (R403, R404, R406). -/
def recReject (s : State) (t reason : Nat) : State := onChip (fun x => raise x srcStore 0x04 (b2 t ++ b1 reason)) s

/-- A record that passes, or is taken from its twin: a second ROLE or KEEP is ignored (R403). -/
def recTake (c : Choice) (t : Nat) (p : List Byte) : Choice :=
  if t ≤ 2 ∧ t ∈ c.seen then { c with st := recReject c.st t 1 }
  else { c with seen := t :: c.seen, recs := c.recs ++ [(t, p)] }

/-- One record of the copy in force f judged (R406). -/
def recJudge (f : Nat) (other : List CfgRec) (c : Choice) (e : Nat × CfgRec) : Choice :=
  let r := e.2
  if r.ok then recTake c r.type r.payload
  else match twinOf other r.type e.1 r.payload with
    | some t =>
      let s1 := onChip (fun x => storeSay (count x R.STORE_REPAIR_COUNT (F.STORE_STATUS_wrap.bit 1) 1) 0x03
        (b1 f ++ b2 r.type)) c.st
      recTake { c with st := withStore s1 fun k => { k with marks := addMark k.marks (1, f, 2) } } r.type t.payload
    | none => { c with st := recReject c.st r.type 0 }

/-- The configuration chosen (R406, R413): marks derived afresh, records of the copy in force. -/
def configRead (s : State) : State × List (Nat × List Byte) :=
  let s1 := withStore s fun t => { t with marks := deriveMarks s }
  match cfgForce s with
  | none => (onChip (fun x => fset x F.STORE_STATUS_cfg_defaults 1) s1, [])
  | some f =>
    let other := if (copyHdr s (1 - f)).checkOk then copyRecs s (1 - f) else []
    let c := (withOrdinals [] (copyRecs s f)).foldl (recJudge f other) ⟨s1, [], []⟩
    (c.st, c.recs)

/-- The role record: role code and initial state (R399, R403); none where it is absent or of length 0. -/
def roleRecord (recs : List (Nat × List Byte)) : Option (Nat × Nat) :=
  ((recs.filter fun r => r.1 == 1 && !r.2.isEmpty).head?).map fun r => (field r.2 0 1, field r.2 1 1 % 4)

/-- Payloads of a type in image order, none of length 0. -/
def ofType (recs : List (Nat × List Byte)) (t : Nat) : List (List Byte) :=
  (recs.filter fun r => r.1 == t && !r.2.isEmpty).map Prod.snd

/-- The value that a pair writes: `TWB_CFG.glide_match` belongs to KEEP alone (R404). -/
def pairValue (x : Chip) (t addr : Nat) (v : Word) : Word :=
  if addr = R.TWB_CFG then
    let f := F.TWB_CFG_glide_match
    if t = 0x02 then putBits (rd x addr) f.lo 1 (getBits v f.lo 1) else putBits v f.lo 1 (fget x f)
  else v

/-- Register pairs of a record in order (R404): those outside its blocks or without an RW field are skipped and tell so. -/
def applyPairs (t : Nat) (s : State) (p : List Byte) : State :=
  if p.length % 8 ≠ 0 then recReject s t 3
  else
    let l := pairsOf (p.length / 8) p
    let good := fun e : Nat × Nat => recordHolds t e.1 && rwMask e.1 != 0
    let s1 := (l.filter good).foldl
      (fun k e => writeReg k .mgmt e.1 (pairValue k.chip t e.1 (BitVec.ofNat 32 e.2)) false) s
    if l.all good then s1 else recReject s1 t 2

/-- A CALSET record (R405): one for no input or no bucket of the part is passed over. -/
def applyCalset (acc : State × List (Nat × Nat)) (p : List Byte) : State × List (Nat × Nat) :=
  let key := (field p 0 1, field p 1 1)
  if p.length ≠ 28 then (recReject acc.1 0x20 4, acc.2)
  else if 4 ≤ (acc.2.filter (· == key)).length then (recReject acc.1 0x20 5, acc.2)
  else if 3 < key.1 ∨ 2 < key.2 then acc
  else
    let vals := (List.range 12).map fun i => sext 16 (field p (4 + 2 * i) 2)
    let put := fun x : Chip =>
      let c := calOf x key.1
      showSets (setCal x key.1 { c with sets := c.sets ++ [⟨vals, (field p 2 1 : Int) - 64, key.2, x.tm.ticks⟩] }) key.1
    (onChip put acc.1, acc.2 ++ [key])

/-- The lanes that pairs name. -/
def pairLanes (l : List (Nat × Nat)) : List Nat := ((l.map Prod.fst).filter isLaneAddr).map (fun a => (a - 0x1000) / 0x40) |>.eraseDups

/-- Where plan entries that name a spare or failed lane go (R433): the lowest healthy lane that is free, each once. -/
def planMoves (x : Chip) : List Nat → List Nat → List (Nat × Nat)
  | [], _ => []
  | n :: l, named =>
    if stdOf x n = mSpare ∨ failed x n then
      match planLane x named with
      | some k => (n, k) :: planMoves x l (k :: named)
      | none => planMoves x l named
    else planMoves x l named

/-- A lane after the moves of a plan. -/
def planned (m : List (Nat × Nat)) (n : Nat) : Nat := match m.find? fun e => e.1 == n with
  | some e => e.2
  | none => n

/-- The address of a pair after the moves of a plan. -/
def plannedAddr (m : List (Nat × Nat)) (a : Nat) : Nat :=
  if isLaneAddr a then laneBase (planned m ((a - 0x1000) / 0x40)) + a % 0x40 else a

/-- The octets of a lane record after the moves of a plan. -/
def plannedPairs (m : List (Nat × Nat)) (p : List Byte) : List Byte :=
  if p.length % 8 ≠ 0 then p else pairBytes ((pairsOf (p.length / 8) p).map fun e => (plannedAddr m e.1, e.2))

/-- `LANEn_CTRL.apply` for a lane of the plan (R403): its values take effect at once. -/
def planApply (x : Chip) (n : Nat) : Chip :=
  let x1 := capture x n
  if fon x1 (F.LANE_CTRL_apply n) && !fon x1 (F.LANE_CTRL_held n) then laneApplied x1 n else x1

/-- The lane plan (R403, R433): entries that name spares or failed lanes are moved first; the moves made. -/
def applyLanes (s : State) (recs : List (List Byte)) : State × List (Nat × Nat) :=
  let pairs := recs.flatMap fun p => if p.length % 8 = 0 then pairsOf (p.length / 8) p else []
  let named := pairLanes pairs
  let m := planMoves s.chip named named
  let s1 := onChip (fun x => m.foldl (fun y e => raise y srcBist 0x09 (b1 e.1 ++ b1 e.2)) x) s
  let s2 := recs.foldl (fun k p => applyPairs 0x11 k (plannedPairs m p)) s1
  let s3 := onChip (fun x => (named.map (planned m)).foldl planApply x) s2
  (onChip (fun x => m.foldl (fun y e => allLanes.foldl (moveLinks e.1 e.2) y) x) s3, m)

/-- n groups of sixteen octets. -/
def groups16 : Nat → List Byte → List (List Byte)
  | 0, _ => []
  | n + 1, l => l.take 16 :: groups16 n (l.drop 16)

/-- A FOLLOW entry runs as FOLLOW_SET (R403); the mailbox keeps its arguments. -/
def applyFollowEntry (m : List (Nat × Nat)) (s : State) (e : List Byte) : State :=
  let old := (List.range 4).map fun i => (i, arg s.chip i)
  let new := [(0, planned m (field e 0 4 % 128)), (1, field e 4 4), (2, field e 8 4), (3, field e 12 4)]
  let r := followSet (onChip (fun x => setArgs x new) s)
  onChip (fun x => setArgs x old) r.st

/-- A FOLLOW record (R403, R404). -/
def applyFollows (m : List (Nat × Nat)) (s : State) (p : List Byte) : State :=
  if p.length % 16 ≠ 0 then recReject s 0x12 3 else (groups16 (p.length / 16) p).foldl (applyFollowEntry m) s

/-- CARRIAGES (R403): the pairs, then `commit` for every carriage written. -/
def applyCarriages (s : State) (p : List Byte) : State :=
  let l := if p.length % 8 = 0 then pairsOf (p.length / 8) p else []
  let ids := ((l.map Prod.fst).filter isCarrAddr).map (fun a => (a - 0x4000) / 0x10) |>.eraseDups
  onChip (fun x => ids.foldl descCommit x) (applyPairs 0x13 s p)

/-- The records of a start before the initial state (R397, R403); KEEP at the first start after POR alone (R357), CALSET alone
where the role record differs (R399). -/
def applyEarly (s : State) (recs : List (Nat × List Byte)) (mismatch : Bool) : State :=
  let set := fun t k => if mismatch then k else (ofType recs t).foldl (applyPairs t) k
  let s0 := if s.chip.pw.keepDue then set 0x02 s else s
  let s1 := onChip (fun x => { x with pw := { x.pw with keepDue := false } }) s0
  ((ofType recs 0x20).foldl applyCalset (set 0x10 (set 0x03 s1), [])).1

/-- The records of a start after the initial state (R397, R403). -/
def applyLate (s : State) (recs : List (Nat × List Byte)) : State :=
  let (s1, m) := applyLanes s (ofType recs 0x11)
  let s2 := (ofType recs 0x12).foldl (applyFollows m) (onChip bucketAtStart s1)
  let s3 := (ofType recs 0x13).foldl applyCarriages s2
  (ofType recs 0x15).foldl (applyPairs 0x15) ((ofType recs 0x14).foldl (applyPairs 0x14) s3)

/-- The link after a start (R265): a head that a whisper frame woke trains. -/
def linkStart (x : Chip) : Chip :=
  let y := linkAuto x
  if x.pw.kind = 5 ∧ x.pw.cause = 1 then linkTrain y else y

/-- The initial state is entered (R348, R397), with origin 2. -/
def enterInit (s : State) (init : Nat) : State :=
  let x := fset { s.chip with pw := { s.chip.pw with phase := .running } } F.SUP_STATE_init init
  let x1 := clkOutputs (stateSay (stateFields x init) x.pw.prev init 2)
  if 2 ≤ init then clearCarriage { s with chip := standbyDown x1 }
  else { s with chip := convEval (bistPauseShow (after srcSup (fun y => linkStart (portsEval (rfStart y))) (upTo 4 (fun a z => planManual z a) x1))) }

/-- Step 6 (R397): domain D, spares, records, initial state, records. -/
def startApply (s : State) (recs : List (Nat × List Byte)) (mismatch : Bool) (init : Nat) : State :=
  let s1 := onChip (fun x => startSpares (newEpoch x)) s
  let s2 := enterInit (applyEarly s1 recs mismatch) init
  let s3 := if mismatch then s2 else applyLate s2 recs
  let s4 := storeShow (onChip (fun x => fset x F.GEN_STATUS_ready 1) s3)
  if init = 3 then enterGlide s4 else s4

/-- Steps 5 and 6 (R397, R399). -/
def startConfigure (s : State) : State :=
  let (s1, recs) := configRead (withStore (journalResolve s) fun t => { t with cut := [] })
  let r := role s1.chip
  match roleRecord recs with
  | some (code, init) =>
    if code = r then startApply (onChip (fun x => fset x F.GEN_ROLE_rec 1) s1) recs false init
    else
      let x := fset (raise s1.chip srcGen 0x05 (b1 r ++ b1 code)) F.STORE_STATUS_cfg_defaults 1
      startApply { s1 with chip := x } recs true 0
  | none => startApply s1 recs false 0

/-- Steps 1 to 4 for a part whose role stands (R397, R400). -/
def startRun (s : State) (o : StartObs) : State :=
  let s1 := onChip (fun x => startDevice (startRole (startLock x o) o) o) s
  let s2 := if storeUsable o then startStore s1 o else s1
  let up := onChip (fun x => startWakes (startLogs (fset { x with pw := { x.pw with phase := .loading } } F.SUP_RAILS_good 7)))
  if storeUsable o then
    let b := bootChoice s2
    match b.2 with
    | some (k, trial) => startConfigure (slotBoot (up b.1) k trial)
    | none => storeShow (enterRecovery (withStore (up b.1) fun t => { t with cut := [], marks := [] }))
  else enterRecovery (withStore (up s2) fun t => { t with cut := [] })

/-- The part is held in reset by its straps or its role lock (R2, R399); the record is kept in the keep island. -/
def startHeld (x : Chip) (o : StartObs) : Option Chip :=
  let x1 := mirrorRead x o.addr
  if o.straps % 4 = 0 then some { x1 with pw := { x1.pw with phase := .strapHeld, strapInvalid := true } }
  else if x.fuse.roleLock ≠ 0 ∧ x.fuse.roleLock ≠ o.straps % 4 then
    some { x1 with pw := { x1.pw with phase := .roleHeld, roleLocked := some (o.straps % 4) } }
  else none

/-- START (R397). -/
def execStart (o : StartObs) (s : State) : Outc :=
  .next (if s.chip.pw.phase = .starting then
      match startHeld s.chip o with
      | some x => { s with chip := x }
      | none => startRun s o
    else s)

end Sys2Proof.Machine
end

