-- ==== Sys2Proof/Machine/Faults.lean ====
section
/-! DEFINITION. Faults and what follows a fatal (R383 to R388): queueing and nesting by class, recoveries, dump, halt and
crumb; the alarm (R372) and the mirror of the event log (R380, R396). -/
namespace Sys2Proof.Machine

/-- The class of a fault (R383): an injected one has the class that was asked for. -/
def faultCls (f : FaultIn) : Nat :=
  match f.code with
  | 0x01 => 0
  | 0x02 | 0x03 => 1
  | 0x04 | 0x05 | 0x06 => 2
  | 0x07 | 0x08 | 0x09 => 3
  | _ => min f.cls 3

/-- A fault of the table (R383). -/
def faultKnown (f : FaultIn) : Bool := decide (1 ≤ f.code) && decide (f.code ≤ 0x0A)

/-- The source of a fault's cause, 0xFF when it has none (R386, R390). -/
def faultSrc (f : FaultIn) : Nat := match f.cause with
  | some r => r.src
  | none => 0xFF

/-- `MGMT_FAULT_STATUS`: a handling of a class is in progress, or none is; faults queued. -/
def faultShow (x : Chip) (cls : Option Nat) : Chip :=
  fsets x [(F.MGMT_FAULT_STATUS_active, if cls.isSome then 1 else 0), (F.MGMT_FAULT_STATUS_cls, cls.getD 0),
    (F.MGMT_FAULT_STATUS_queued, x.ft.queue.length)]

/-- The running command ends ABORTED (R383, R385). -/
def cmdAbort (x : Chip) : Chip := if fon x F.MGMT_STATUS_busy then waitDone x stAborted else x

/-- A LANE reset after a depot fault (R354, R383): its cause is left open; it waits as `lane_go` does. -/
def eccLane (x : Chip) (n : Nat) : Chip :=
  match x.bist.mig with
  | some m =>
    if m.dst = n then migAbort x m 2
    else if laneHeld x n then { x with bist := { x.bist with heldGo := x.bist.heldGo ++ [n] } }
    else freeNext (laneDomainReset x n ((free x).toNat % 256))
  | none =>
    if laneHeld x n then { x with bist := { x.bist with heldGo := x.bist.heldGo ++ [n] } }
    else freeNext (laneDomainReset x n ((free x).toNat % 256))

/-- DEPOT_ECC_FAIL (R383, R431): lane data, or carriage data. -/
def eccFail (x : Chip) (f : FaultIn) : Chip :=
  if !dUp x then x
  else match f.lane, f.carr with
    | some n, _ => if n < laneCount then eccLane x n else x
    | none, some c => if c < 256 then discard x c 1 else x
    | none, none => x

/-- A fault's recovery (R383). -/
def faultRecover (x : Chip) (f : FaultIn) : Chip :=
  match f.code with
  | 0x04 => cmdAbort x
  | 0x06 => eccFail x f
  | _ => x

/-- A fault counted and logged (R383, R390). -/
def faultLogged (x : Chip) (f : FaultIn) : Chip :=
  let c := faultCls f
  let x1 := count x (R.MGMT_FAULT_COUNT c) (faultCountWrap c) 1
  let x2 := if c = 1 then setCause x1 .warn else if 2 ≤ c then setCause x1 .fault else x1
  let x3 := raiseBy x2 srcMgmt 0x01 (b1 f.code ++ b1 c ++ b1 x.ft.queue.length) f.cause
  fsets x3 [(F.MGMT_FAULT_LAST0_seq, lastSeq x3 srcMgmt), (F.MGMT_FAULT_LAST0_src, faultSrc f), (F.MGMT_FAULT_LAST0_code, f.code),
    (F.MGMT_FAULT_LAST1_epoch, epoch x3), (F.MGMT_FAULT_LAST1_cls, c)]

/-- A fault that management takes: logged, on top of those whose handling it suspends, each with its FAULT event (R383, R384). -/
def faultPush (x : Chip) (f : FaultIn) (stack : List (FaultIn × CauseRef)) : Chip × List (FaultIn × CauseRef) :=
  let y := faultLogged x f
  (y, (f, lastRef y srcMgmt) :: stack)

/-- The handling of a fault below fatal ends with its recovery, whose events name its FAULT (R29, R383). -/
def faultEnds (x : Chip) (e : FaultIn × CauseRef) : Chip := because e.2 (fun y => faultRecover y e.1) x

/-- A fault queued, or the 17th discarded and counted (R384). -/
def faultQueue (x : Chip) (f : FaultIn) : Chip :=
  if x.ft.queue.length < 16 then { x with ft := { x.ft with queue := x.ft.queue ++ [f] } }
  else count { x with ft := { x.ft with lost := x.ft.lost + 1 } } R.MGMT_FAULT_LOST faultLostWrap 1

/-- FAULT_LOST once the queue is empty (R384). -/
def faultLostSay (x : Chip) : Chip :=
  if x.ft.queue.isEmpty ∧ x.ft.lost ≠ 0 then
    raise { x with ft := { x.ft with lost := 0 } } srcMgmt 0x02 (b2s x.ft.lost)
  else x

/-- Faults that arrive while those of `stack` are handled, the top of it just now (R384): one of a higher class is taken at
once, another is queued. A fatal ends the walk, with what arrives after it. -/
def faultArrive : Chip → List (FaultIn × CauseRef) → List FaultIn →
    Chip × List (FaultIn × CauseRef) × Option (FaultIn × List FaultIn)
  | x, stack, [] => (x, stack, none)
  | x, stack, g :: r =>
    let top := match stack with
      | h :: _ => faultCls h.1
      | [] => 0
    if faultCls g = 3 then (x, stack, some (g, r))
    else if top < faultCls g then (let y := faultPush x g stack; faultArrive y.1 y.2 r)
    else faultArrive (faultQueue x g) stack r

/-- The queued faults handled, oldest first (R384); fuel is the queue's length. -/
def faultDrain (x : Chip) : Nat → Chip
  | 0 => x
  | k + 1 => match x.ft.queue with
    | [] => x
    | f :: r =>
      let y := faultPush (faultLostSay { x with ft := { x.ft with queue := r } }) f []
      faultDrain (y.2.foldl faultEnds y.1) k

/-- A section of the dump: 8-byte header, data padded to 4 bytes (R386). -/
def dumpSection (type : Nat) (data : List Byte) : List Byte :=
  b2 type ++ b2 0 ++ b4 data.length ++ data ++ List.replicate ((4 - data.length % 4) % 4) 0

/-- The 2500 registers in address order, the reserved LINK words as 0; measured ones read values of their own
(R386, R461). -/
def dumpRegs (x : Chip) : List Byte :=
  ((List.range 8192).map (4 * ·)).flatMap fun a =>
    if (regRow a).isSome || isLinkAddr a then
      le 4 (regView (if measured a then { x with freeCount := x.freeCount + 4 * x.ft.queue.length + a } else x) .mgmt a).toNat
    else []

/-- The event ring, oldest first. -/
def dumpRing (x : Chip) : List Byte :=
  (List.range (logHeld x)).flatMap fun i => entryBytes (logEntry x ((logOldest x + i) % 2 ^ 32))

/-- Free words as octets: contents that the manual leaves open. -/
def freeBytes (x : Chip) (first n : Nat) : List Byte :=
  (List.range n).flatMap fun i => le 4 (Config.freeWord (x.freeCount + first + i)).toNat

/-- The lane plan copy: management's copy of each lane's 12 words. -/
def dumpPlan (x : Chip) : List Byte :=
  allLanes.flatMap fun n => (blockAddrs (laneBase n) (laneBase n + 0x30)).flatMap fun a => le 4 (ownView x a).toNat

/-- The sections of the dump (R386); of the core those that were gathered. The layout of a queued fault is left open. -/
def dumpSections (s : State) (core : CoreObs) : List (List Byte) :=
  let x := s.chip
  let some? := fun (t : Nat) (l : List Byte) => if l.isEmpty then [] else [dumpSection t l]
  [dumpSection 1 (dumpRegs x), dumpSection 2 (dumpRing x), dumpSection 3 (freeBytes x 0 (4 * x.ft.queue.length))]
    ++ some? 4 (if core.regs.isEmpty then [] else pad 0 128 core.regs) ++ some? 5 (core.stack.take 16384)
    ++ [dumpSection 6 ((blockAddrs R.MGMT_CMD (R.MGMT_CMD + 40)).flatMap (fun a => le 4 (ownView x a).toNat) ++ winBytes s 0 4096),
      dumpSection 7 (dumpPlan x)]
    ++ some? 8 (core.code.take 131072)

/-- The dump (R386). -/
def dumpBytes (s : State) (f : FaultIn) (core : CoreObs) : List Byte :=
  let x := s.chip
  let secs := dumpSections s core
  let body := secs.flatMap id
  let tail := b1 f.code ++ b1 (faultCls f) ++ b1 (faultSrc f) ++ b1 0 ++ b2 (lastSeq x srcMgmt) ++ b2 (epoch x)
    ++ le 6 x.tm.ticks.toNat ++ b2 0 ++ le 8 x.tm.stime.toNat ++ b4 (rd x R.MGMT_FW_VER).toNat
    ++ b1 (rd x R.GEN_REV).toNat ++ b1 (role x) ++ b1 (pstate x) ++ b1 secs.length
    ++ b4 x.ft.queue.length ++ b4 f.pc ++ b4 f.addr ++ b4 0 ++ body
  b4 0x504D5544 ++ b2 1 ++ b2 64 ++ b4 (16 + tail.length) ++ crcBytes tail ++ tail

/-- The DUMP region holds a dump with a good CRC. -/
def dumpHeld (s : State) : Bool :=
  let h := flashBytes s 6 0 16
  let n := field h 8 4
  decide (field h 0 4 = 0x504D5544) && (decide (64 ≤ n ∧ n ≤ regionLen s.chip 6) &&
    decide (field h 12 4 = crc32 (flashBytes s 6 16 (n - 16))))

/-- Lanes stop and ports fade at the halt as in a shed; following and self-test end with them (R385). -/
def haltStop (x : Chip) : Chip := bistInterrupt (lanesIdle (followsRest x))

/-- Step 4 of fatal handling (R385): SOFT reset of cause 2, or the halt. -/
def fatalEnd (s : State) (code : Nat) : State :=
  if fon s.chip F.MGMT_FAULT_CFG_on_fatal then
    onChip (fun x =>
      let y := haltStop (raise x srcMgmt 0x04 (b1 code))
      fset { y with pw := { y.pw with phase := .halted } } F.MGMT_FAULT_STATUS_halted 1) s
  else softReset s 2

/-- Step 3 ends with a result (R385): flag and DUMP, then step 4. -/
def dumpEnd (s : State) (code result len : Nat) : State :=
  let f := if result = 0 then F.MGMT_FAULT_STATUS_dump_ok else F.MGMT_FAULT_STATUS_dump_fail
  fatalEnd (storeShow (onChip (fun x =>
    raise (fset { x with
      ft := { x.ft with fatal := x.ft.fatal.map fun t => { t with dumping := false } },
      store := { x.store with jobs := x.store.jobs.filter fun j => j.code != 0 } } f 1) srcMgmt 0x03 (b1 result ++ b4 len)) s)) code

/-- The write of the dump begins: its sectors are erased, then its pages programmed (R385). -/
def dumpBegin (s : State) (f : FaultIn) (core : CoreObs) : State :=
  let d := dumpBytes s f core
  let n := ceilDiv d.length sectorSize
  let s1 := onChip (fun x => { x with
    freeCount := x.freeCount + 4 * x.ft.queue.length + 32768,
    ft := { x.ft with fatal := x.ft.fatal.map fun t => { t with dumping := true } } }) s
  beginJob s1 ⟨3, 0, 6, eraseOps 6 0 n ++ pageOps 6 (ceilDiv d.length 256) 0 d, 0, false, none, false⟩

/-- The store refuses the dump (R385, R422): none is usable, group 3 is busy, or DUMP holds a dump. -/
def dumpRefused (s : State) : Bool := s.chip.store.mib == 0 || ((jobOf s.chip 3).isSome || dumpHeld s)

/-- A fatal fault is taken (R385). -/
def fatalTake (s : State) (f : FaultIn) (core : CoreObs) : State :=
  let x1 := faultLogged (faultShow (cmdAbort s.chip) (some 3)) f
  let s1 := { s with chip := { x1 with ft := { x1.ft with fatal := some ⟨f.code, BitVec.ofNat 16 (lastSeq x1 srcMgmt), false⟩ } } }
  if !fon x1 F.MGMT_FAULT_CFG_dump_en then fatalEnd s1 f.code
  else if ewOn x1 then dumpEnd s1 f.code 1 0
  else if dumpRefused s1 then dumpEnd s1 f.code 2 0
  else dumpBegin s1 f core

/-- The crumb (R387): its progress words are left open. -/
def crumbBytes (x : Chip) (t : Fatal) (f : FaultIn) (n : Nat) : List Byte :=
  b1 1 ++ b1 n ++ b1 t.code ++ b1 f.code ++ b2 (epoch x) ++ le 6 x.tm.ticks.toNat ++ b2 t.seq.toNat ++ b2 0
    ++ b4 f.pc ++ b4 f.addr ++ le 8 x.tm.stime.toNat ++ b4 (rd x R.MGMT_FW_VER).toNat
    ++ b4 (rd x R.MGMT_FAULT_STATUS).toNat ++ freeBytes x 0 6

/-- DOUBLE_FATAL (R384, R387): the crumb is written and the part resets. -/
def doubleFatal (s : State) (t : Fatal) (f : FaultIn) : State :=
  wdtReset (onChip (fun x =>
    let n := min 0xFF (x.ft.doubles + 1)
    fset { x with freeCount := x.freeCount + 6, ft := { x.ft with crumb := some (crumbBytes x t f n), doubles := n } }
      F.GEN_RESET_CAUSE_crumb 1) s) 1

/-- Faults that arrive during fatal handling, halt included (R384): queued, or DOUBLE_FATAL. After the reset there is no
handling, and what would have arrived is not taken. -/
def afterFatal (s : State) : List FaultIn → State
  | [] => s
  | f :: r => match s.chip.ft.fatal with
    | none => s
    | some t => if faultCls f = 3 then doubleFatal s t f else afterFatal (onChip (fun x => faultShow (faultQueue x f) (some 3)) s) r

/-- Management takes a fault, with those that arrive while it is handled (R383 to R385). -/
def faultTake (s : State) (f : FaultIn) (more : List FaultIn) (core : CoreObs) : State :=
  if s.chip.ft.fatal.isSome then afterFatal s (f :: more)
  else if faultCls f = 3 then afterFatal (fatalTake s f core) more
  else
    let p := faultPush s.chip f []
    let r := faultArrive p.1 p.2 more
    match r.2.2 with
    | some (g, rest) => afterFatal (fatalTake { s with chip := r.1 } g core) rest
    | none =>
      let x1 := r.2.1.foldl faultEnds r.1
      { s with chip := faultShow (faultLostSay (faultDrain x1 x1.ft.queue.length)) none }

/-- FAULT: management, while it runs, takes a fault of the table. -/
def takeFault (s : State) (f : FaultIn) (more : List FaultIn) (core : CoreObs) : State :=
  if mgmtUp s.chip && faultKnown f then faultTake s f (more.filter faultKnown) core else s

/-- The fault of a half watchdog period (R383). -/
def wdtFault : FaultIn := ⟨0x03, 1, 0, 0, none, none, none⟩

/-- The body of FAULT_INJECT (R366). -/
def faultInject (s : State) : MRes :=
  let a := arg s.chip 0
  if 3 < a then refuse s stBadArg
  else if a = 3 ∧ s.chip.fuse.debug = true then refuse s stDenied
  else refuse s stOk

/-- FAULT_INJECT (R366): OK, and the fault is raised. -/
def injectFault (o : Iface) (c : CmdObs) (s : State) : State :=
  let x := s.chip
  let takes := mgmtUp x && (!mboxClosed x && ((mboxGate x 0x08).isNone &&
    (!fon x F.MGMT_STATUS_busy || fget x F.MGMT_CMD_code == 0x08)))
  let s1 := mailbox 0x08 o faultInject s
  if takes && (faultInject s).status == stOk then takeFault s1 ⟨0x0A, arg x 0, 0, 0, none, none, none⟩ [] c.core else s1

/-- DUMP_INFO (R366). -/
def execDumpInfo (o : Iface) (s : State) : Outc :=
  .next (mailbox 0x07 o (fun s =>
    if dumpHeld s then ⟨putWin s 0 (flashBytes s 6 0 64), stOk, 64⟩ else refuse s stOk) s)

/-- The dump being written, with the first fault's code. -/
def dumpJob (x : Chip) : Option (Nat × Job) :=
  match x.ft.fatal, jobOf x 3 with
  | some t, some j => if t.dumping && j.code == 0 then some (t.code, j) else none
  | _, _ => none

/-- The write of the dump ends (R385, R388): complete, refused by a sector that fails without a spare, or, under the early
warning, abandoned after n operations. -/
def dumpDone (n : Nat) (c : CmdObs) (s : State) : State :=
  match dumpJob s.chip with
  | some (code, j) =>
    let cut := ewOn s.chip
    let r := flashRun c.fails 0 (onChip (fun x => storeViols x c.viols) s) (if cut then j.ops.take n else j.ops)
    let len := (j.ops.map fun o => o.bytes.length).sum
    if cut then dumpEnd r.1 code 1 0 else if r.2.isSome then dumpEnd r.1 code 2 0 else dumpEnd r.1 code 0 len
  | none => s

/-- 2 s have passed since the write of the dump began (R385). -/
def dumpLate (n : Nat) (s : State) : State :=
  match dumpJob s.chip with
  | some (code, j) => dumpEnd (flashAll s (j.ops.take n)) code 3 0
  | none => s

/-- The alarm fires (R372): at once in domain K; its cause and event follow while management runs. -/
def alarmFire (x : Chip) (a : BitVec 48) : Chip :=
  let x1 := fsets { x with tm := { x.tm with alarm := none } } [(F.RTC_CTRL_arm, 0), (F.RTC_STATUS_fired, 1)]
  if mgmtUp x1 then raise (setCause x1 .rtc) srcRtc 0x01 (b4 a.toNat)
  else { x1 with tm := { x1.tm with alarmMissed := some a } }

/-- ALARM (R351, R372): the tick counter has reached the instant at which the armed alarm fires. -/
def execAlarm (s : State) : Outc :=
  .next (match s.chip.tm.alarm with
    | some (a, fire) =>
      if (s.chip.tm.ticks - fire).toNat < 2 ^ 47 then
        let s1 := onChip (fun x => alarmFire x a) s
        if s.chip.pw.phase = .glide ∧ fon s.chip F.SUP_GLIDE_CFG_rtc_wake = true then wakeUp s1 3 0 else s1
      else s
    | none => s)

/-- The sectors of LOG that hold entries, with their sequences (R396). -/
def logHeads (s : State) : List (Nat × Nat) :=
  (List.range (regionOf s.chip 7).2).filterMap fun k =>
    let v := flashNum s 7 (k * sectorSize) 4
    if v = 0xFFFFFFFF then none else some (v, k)

/-- The sector last begun: that of the highest sequence. -/
def logLast (l : List (Nat × Nat)) : Option (Nat × Nat) :=
  l.foldl (fun a e => match a with
    | some b => if b.1 < e.1 then some e else some b
    | none => some e) none

/-- The sector with the lowest sequence. -/
def logFirstSector (l : List (Nat × Nat)) : Nat :=
  match l with
  | [] => 0
  | e :: r => (r.foldl (fun a b => if b.1 < a.1 then b else a) e).2

/-- The entries that a sector of LOG holds. -/
def logUsed (s : State) (k : Nat) : Nat :=
  ((List.range 255).filter fun i => flashBytes s 7 (k * sectorSize + 16 + 16 * i) 16 != List.replicate 16 0xFF).length

/-- A sector of LOG begun with a sequence: erased where it is not blank, then its header (R396). -/
def logOpen (s : State) (k seq : Nat) : List FlashOp :=
  (if sectorBlank s 7 (k * sectorSize) then [] else [⟨true, 7, k * sectorSize, []⟩])
    ++ [⟨false, 7, k * sectorSize, le 4 seq⟩]

/-- Where the next entry stands, with what is done first: the next sector without a header, or, where LOG is full, that of
the lowest sequence. -/
def logPlace (s : State) : Nat × List FlashOp :=
  let n := (regionOf s.chip 7).2
  let heads := logHeads s
  match logLast heads with
  | none => (16, logOpen s 0 1)
  | some (v, k) =>
    let u := logUsed s k
    if u < 255 then (k * sectorSize + 16 + 16 * u, [])
    else
      let order := (List.range n).map fun i => (k + 1 + i) % n
      let next := (order.find? fun i => heads.all fun h => h.2 != i).getD (logFirstSector heads)
      (next * sectorSize + 16, logOpen s next ((v + 1) % 2 ^ 32))

/-- One entry appended, its operations numbered from i on; tried again where its sector had to be dropped. Fuel is the
number of sectors that may fail. -/
def logAppend (fails : List Nat) (e : Entry) : Nat → Nat → State → Nat × State
  | 0, i, s => (i, s)
  | k + 1, i, s =>
    if (regionOf s.chip 7).2 = 0 then (i, s)
    else
      let p := logPlace s
      let ops := p.2 ++ [⟨false, 7, p.1, entryBytes e⟩]
      let r := flashRun fails i s ops
      if r.2.isSome then logAppend fails e k (i + ops.length) (logDropSector r.1 (p.1 / sectorSize)) else (i + ops.length, r.1)

/-- Entries appended in order. -/
def logAppends (fails : List Nat) : List Entry → Nat → State → State
  | [], _, s => s
  | e :: r, i, s =>
    let q := logAppend fails e ((regionOf s.chip 7).2 + 1) i s
    logAppends fails r q.1 q.2

/-- The mirror may write (R380, R422): firmware runs unhalted with a store that has a LOG, no early warning, no entry into
GLIDE, no fatal handling, no erase of its region group under way; during a commit it comes between two steps. -/
def mirrorMay (x : Chip) : Bool :=
  (partRuns x || x.pw.phase == .recovery) && (fon x F.MGMT_LOG_CFG_mirror && (decide (0 < (regionOf x 7).2) &&
    (!ewOn x && (!gliding x && (x.ft.fatal.isNone && (jobOf x 3).isNone)))))

/-- The new entries mirrored. -/
def logMirror (c : CmdObs) (s : State) : State :=
  let x := s.chip
  let n := (rd x R.MGMT_LOG_WR).toNat
  let k := min 2048 ((n + 2 ^ 32 - (rd x R.MGMT_LOG_MIRROR).toNat) % 2 ^ 32)
  let es := (List.range k).map fun i => logEntry x ((n + 2 ^ 32 - k + i) % 2 ^ 32)
  let s1 := logAppends c.fails es 0 (onChip (fun x => storeViols x c.viols) s)
  onChip (fun y => wr y R.MGMT_LOG_MIRROR (BitVec.ofNat 32 n)) s1

/-- LOG_MIRROR (R380): 1 s has passed, or 256 entries wait. -/
def execLogMirror (c : CmdObs) (s : State) : Outc := .next (if mirrorMay s.chip then logMirror c s else s)

end Sys2Proof.Machine
end

