-- ==== Sys2Proof/Machine/Bus.lean ====
section
/-! DEFINITION. The interfaces: a mailbox command by its code, register writes, the host port (R293 to R295), the control
bus (R307 to R317), and what the head does with the control path (R268 to R270). -/
namespace Sys2Proof.Machine

/-- The state that an outcome leaves. -/
def landed (s : State) : Outc → State
  | .next t => t
  | _ => s

/-- A general, supply or store command by its code (R366, R349, R407). -/
def runLow (o : Iface) (code : Nat) (c : CmdObs) (s : State) : State :=
  match code with
  | 0x00 => landed s (execNop o s)
  | 0x01 => landed s (execGetInfo o s)
  | 0x02 => landed s (execLogRead o s)
  | 0x03 => landed s (execTimeSet o s)
  | 0x04 => landed s (execTimeGet o s)
  | 0x05 => landed s (execCrumbRead o s)
  | 0x06 => landed s (execCrumbClear o s)
  | 0x07 => landed s (execDumpInfo o s)
  | 0x08 => injectFault o c s
  | 0x18 => landed s (execPowerSet o s)
  | 0x20 => landed s (execStoreInfo o s)
  | 0x21 => landed s (execStoreRead o s)
  | 0x22 => landed s (execStoreErase o s)
  | 0x23 => programCmd o c s
  | 0x24 => landed s (execStoreCommitConfig o s)
  | 0x25 => landed s (execConfigStage o s)
  | 0x26 => landed s (execConfigInstall o s)
  | 0x27 => landed s (execStoreAbort o s)
  | 0x28 => landed s (execStoreMaintain o s)
  | _ => landed s (execUnknownCmdCode o code s)

/-- A command of the other ranges by its code (R436, R172, R267, R417); of REMOTE the operation of ARG0. -/
def runHigh (o : Iface) (code : Nat) (c : CmdObs) (s : State) : State :=
  match code with
  | 0x30 => landed s (execBistLane o s)
  | 0x31 => landed s (execBistCoach o s)
  | 0x32 => landed s (execBistSplitter o s)
  | 0x33 => landed s (execBistRetest o s)
  | 0x34 => landed s (execBistReport o s)
  | 0x40 => landed s (execFollowSet o s)
  | 0x41 => landed s (execFollowClear o s)
  | 0x42 => landed s (execFollowAdd o s)
  | 0x43 => landed s (execFollowForce o s)
  | 0x44 => landed s (execFollowStatus o s)
  | 0x50 => remote (let a := arg s.chip 0; if 1 ≤ a ∧ a ≤ 4 then a else 1) o s
  | 0x60 => landed s (execUpdateBegin o s)
  | 0x61 => updateDataCmd o c s
  | 0x62 => updateFinishCmd o s
  | 0x63 => updateActivateCmd o s
  | 0x64 => updateConfirmCmd o c s
  | 0x65 => landed s (execFuseProgram o c s)
  | _ => landed s (execUnknownCmdCode o code s)

/-- A mailbox command by its code (R364, R365). -/
def runCmd (o : Iface) (code : Nat) (c : CmdObs) (s : State) : State :=
  if code < 0x30 then runLow o code c s else runHigh o code c s

/-- An interface writes a word of a register while registers answer (R305, R362, R363, R473, R478). -/
def busWord (s : State) (o : Iface) (addr : Nat) (v : Word) (b : BusObs) : State :=
  let x := s.chip
  if !regsUp x then s
  else if addr = R.MGMT_CMD ∧ fon x F.MGMT_STATUS_busy = false then runCmd o (v.toNat % 256) b.cmd s
  else writeReg s o addr v (b.hits.contains addr)

/-- A register stands at the word of a byte address. -/
def isReg (a : Nat) : Bool := (regRow (a - a % 4)).isSome

/-- A byte of the mailbox's payload window. -/
def isWin (a : Nat) : Bool := decide (0x8000 ≤ a) && decide (a < 0x9000)

/-- A response of the head to a sequence number, kept among the last 8 and sent while the link is in RUN (R268, R269). -/
def cpReply (x : Chip) (seq op status : Nat) (data : List Byte) : Chip :=
  let msg := b2 seq ++ b1 op ++ b1 status ++ data
  let kept := x.cp.responses ++ [(seq, msg)]
  let y := { x with cp := { x.cp with responses := kept.drop (kept.length - 8) } }
  if linkState y = lsRun then sendCtrl y msg else y

/-- A response to a request that was not executed; of MBOX with no payload and zero arguments. -/
def cpRefuse (s : State) (r : CpReq) (status : Nat) : State :=
  onChip (fun x => cpReply x r.seq r.op status (if r.op = 3 then List.replicate 36 0 else [])) s

/-- The words of a control-path WRITE, unmapped ones skipped (R459, R473). -/
def cpWords (b : BusObs) : Nat → Nat → List Byte → State → State
  | 0, _, _, s => s
  | n + 1, a, l, s =>
    let s1 :=
      if isWin a then writeWin s (a - 0x8000) (l.take 4)
      else if a % 4 = 0 ∧ isReg a = true then busWord s .cp a (BitVec.ofNat 32 (field l 0 4)) b
      else s
    cpWords b n ((a + 4) % 65536) (l.drop 4) s1

/-- A mailbox command of the control path: payload and arguments as written, then the command; its final status and results
are the response (R268, R269). -/
def cpMbox (s : State) (r : CpReq) : State :=
  let s1 := putWin s 0 ((r.octets.drop 40).take 4096)
  let s2 := onChip (fun x => setArgs x ((List.range 8).map fun i => (i, field r.octets (8 + 4 * i) 4))) s1
  let t := runCmd .cp (field r.octets 4 2) r.obs.cmd s2
  let y := t.chip
  if regsUp y then
    let n := fget y F.MGMT_STATUS_len
    onChip (fun x => cpReply x r.seq 3 (fget y F.MGMT_STATUS_status)
      (b2 n ++ b2 0 ++ ((List.range 8).flatMap fun i => b4 (arg y i)) ++ winBytes t 0 n)) t
  else t

/-- The trains that carry what the control path has in line, in RUN (R270); fuel is the number of segments in line. -/
def sendCp : Nat → Chip → Chip
  | 0, x => x
  | f + 1, x =>
    if linkState x == lsRun && (headSends x && x.lk.out.any fun o => o.seg.type == 8) then sendCp f (trainTx [] x) else x

/-- A POWER request (R270): its answer is sent before the state changes; only what management serves (R385, R400). -/
def cpPower (x : Chip) (seq target : Nat) : Chip :=
  match mboxGate x 0x18 with
  | some st => cpReply x seq 4 st []
  | none =>
    let r := powerSet x target false 1
    let y := cpReply x seq 4 r.2 []
    if r.2 = stOk ∧ r.1.pw.trans.isSome then (powerSet (sendCp y.lk.out.length y) target false 1).1 else y

/-- A mailbox command of the control path waits (R363, R385, R413): one runs, management refuses commands, or it would
program flash under the early warning. -/
def cpWaits (x : Chip) (r : CpReq) : Bool :=
  (r.op == 3 && (fon x F.MGMT_STATUS_busy || mboxClosed x ||
    (ewOn x && [0x23, 0x61, 0x62, 0x63, 0x64].contains (field r.octets 4 2)))) || (r.op == 4 && mboxClosed x)

/-- A request executed (R269). -/
def cpRun (s : State) (r : CpReq) : State :=
  let x := s.chip
  let n := field r.octets 3 1
  let a := field r.octets 4 2
  let wrEn := fon x F.LINK_CP_CFG_wr_en
  match r.op with
  | 1 =>
    let t := readBytes (onChip (fun x => noteWait x .cp r.obs.ns) s) .cp (fget x F.GEN_CTRL_cp_bank) a (4 * n)
    onChip (fun x => cpReply x r.seq 1 stOk (smGet (fun _ => []) x.rdata Iface.cp.code)) t
  | 2 =>
    if wrEn then
      let t := cpWords r.obs n a (r.octets.drop 8) (onChip (fun x => noteWait x .cp r.obs.ns) s)
      if regsUp t.chip then onChip (fun x => cpReply x r.seq 2 stOk []) t else t
    else cpRefuse s r stDenied
  | 3 => if !wrEn then cpRefuse s r stDenied else if 255 < a then cpRefuse s r stBadArg else cpMbox s r
  | 4 => onChip (fun x => cpPower x r.seq n) s
  | _ => cpRefuse s r stBadArg

/-- The head's requests in order of arrival, as far as none has to wait; fuel is their number. -/
def cpDrainN : Nat → State → State
  | 0, s => s
  | k + 1, s => match s.chip.cp.queue with
    | [] => s
    | r :: l =>
      if cpWaits s.chip r || !regsUp s.chip then s
      else cpDrainN k (cpRun (onChip (fun x => { x with cp := { x.cp with queue := l } }) s) r)

/-- The requests that may run do so; `cp_out` shows those that wait (R269). -/
def cpDrain (s : State) : State :=
  if s.chip.cp.queue.isEmpty then s
  else onChip (fun x => fset x F.LINK_PROTO_STATUS_cp_out x.cp.queue.length) (cpDrainN s.chip.cp.queue.length s)

/-- The octets that a request of an operation has (R268). -/
def cpLength (msg : List Byte) : Option Nat :=
  match field msg 2 1 with
  | 1 => some 8
  | 2 => some (8 + 4 * field msg 3 1)
  | 3 => some (40 + field msg 6 2)
  | 4 => some 8
  | _ => none

/-- A request has the length of its operation. -/
def cpWell (msg : List Byte) : Bool :=
  decide (8 ≤ msg.length) && match cpLength msg with
    | some n => n == msg.length && (field msg 2 1 != 3 || decide (field msg 6 2 ≤ 4096))
    | none => true

/-- A request arrives (R269, R273). -/
def cpTake (msg : List Byte) (b : BusObs) (s : State) : State :=
  let x := s.chip
  let seq := field msg 0 2
  let r : CpReq := ⟨seq, field msg 2 1, msg, b⟩
  if msg.length < 2 then onChip (fun x => peerViol x 8 (trainNow x)) s
  else match x.cp.responses.find? fun e => e.1 == seq with
    | some e => onChip (fun x => sendCtrl x e.2) s
    | none =>
      if x.cp.queue.any fun q => q.seq == seq then s
      else if !cpWell msg then cpRefuse (onChip (fun x => peerViol x 8 (trainNow x)) s) r stBadArg
      else if 4 ≤ x.cp.queue.length then cpRefuse s r stBusy
      else onChip (fun x => { x with cp := { x.cp with queue := x.cp.queue ++ [r] } }) s

/-- CTRL_REQUEST (R269): the head in RUN. -/
def execCtrlRequest (msg : List Byte) (b : BusObs) (s : State) : Outc :=
  .next (if isHead s.chip && (mgmtUp s.chip && linkState s.chip == lsRun) then cpDrain (cpTake msg b s) else s)

/-- A free burst's POWER (R270): towards ACTIVE or QUIET the link trains once that state is in force. -/
def freePower (x : Chip) (target : Nat) : Chip :=
  match mboxGate x 0x18 with
  | some _ => x
  | none =>
    let r := powerSet x target false 1
    if r.2 ≠ stOk then r.1
    else if 2 ≤ target then { r.1 with cp := { r.1.cp with trainAt := none } }
    else cpTrain { r.1 with cp := { r.1.cp with trainAt := some target } }

/-- A free burst's message (R32, R270): POWER alone, once for each sequence number. -/
def freeTake (x : Chip) (msg : List Byte) : Chip :=
  let seq := field msg 0 2
  if msg.length < 8 then peerViol x 8 (trainNow x)
  else if field msg 2 1 ≠ 4 then (if pstate x = 2 then burstBad x else x)
  else if mboxClosed x ∨ seq ∈ x.cp.freeSeen then x
  else
    let seen := x.cp.freeSeen ++ [seq]
    freePower { x with cp := { x.cp with freeSeen := seen.drop (seen.length - 8) } } (field msg 3 1)

/-- FREE_BURST (R270): the head's link is OFF or LOST, or the head is in STANDBY. -/
def execFreeBurst (msg : List Byte) (s : State) : Outc :=
  .next (if isHead s.chip && (mgmtUp s.chip && !shed s.chip && (linkState s.chip == lsOff || linkState s.chip == lsLost ||
      pstate s.chip == 2)) then onChip (fun x => freeTake x msg) s else s)

/-- REGISTER_WRITE (R473 to R476): a whole word by an interface; an address that is no register's takes nothing. -/
def execRegisterWrite (o : Iface) (addr : Nat) (v : Word) (b : BusObs) (s : State) : Outc :=
  .next (if regsUp s.chip && (addr % 4 == 0 && isReg addr) then busWord (onChip (fun x => noteWait x o b.ns) s) o addr v b
    else s)

/-- WAIT_CLR (R464). -/
def execWaitClr (s : State) : Outc := .next (if regsUp s.chip then onChip (fun x => wr x R.GEN_WAIT 0) s else s)

/-- A read of one register by an interface. -/
def readRow (o : Iface) (addr ns : Nat) (s : State) : State :=
  if regsUp s.chip then onChip (fun x => readReg x o addr ns) s else s

/-- SPL_EPOCH_READ (R477). -/
def execSplEpochRead (o : Iface) (ns : Nat) (s : State) : Outc := .next (readRow o R.SPL_EPOCH_LO ns s)

/-- RTC_TICK_READ (R477). -/
def execRtcTickRead (o : Iface) (ns : Nat) (s : State) : Outc := .next (readRow o R.RTC_TICK_LO ns s)

/-- RTC_WALL_READ (R477). -/
def execRtcWallRead (o : Iface) (ns : Nat) (s : State) : Outc := .next (readRow o R.RTC_WALL_LO ns s)

/-- RTC_SECONDS_READ (R477). -/
def execRtcSecondsRead (o : Iface) (ns : Nat) (s : State) : Outc := .next (readRow o R.RTC_SECONDS ns s)

/-- LOG_DATA_READ (R378, R477). -/
def execLogDataRead (o : Iface) (ns : Nat) (s : State) : Outc := .next (readRow o (R.MGMT_LOG_DATA 0) ns s)

/-- STIME_READ (R477). -/
def execStimeRead (o : Iface) (ns : Nat) (s : State) : Outc := .next (readRow o R.MGMT_STIME_LO ns s)

/-- STEP_READ (R477). -/
def execStepRead (o : Iface) (ns : Nat) (s : State) : Outc := .next (readRow o R.MGMT_STEP_LO ns s)

/-- SERIAL_READ (R477). -/
def execSerialRead (o : Iface) (ns : Nat) (s : State) : Outc := .next (readRow o R.FUSE_SERIAL_LO ns s)

/-- The address after a byte of a host-port burst, with the bank shown (R294). -/
def hpNext (x : Chip) (a bank : Nat) : Nat × Nat :=
  if a = 0xFFFF then (0xC000, (bank + fget x F.HOST_CFG_bank_inc) % 256) else (a + 1, bank)

/-- Bytes of a host-port read burst: each register word is taken when its first byte is read (R294, R473). -/
def hpSpan (s : State) : Nat → Nat → Nat → Option Word → Chip → Chip × List Byte
  | 0, _, _, _, x => (x, [])
  | n + 1, a, bank, w, x =>
    let p := hpNext x a bank
    if a < 0x8000 then
      let r := if a % 4 = 0 ∨ w = none then readTake x .hp (a - a % 4) else (x, w.getD 0)
      let q := hpSpan s n p.1 p.2 (some r.2) r.1
      (q.1, nth 0 (le 4 r.2.toNat) (a % 4) :: q.2)
    else
      let q := hpSpan s n p.1 p.2 none x
      (q.1, winByte s bank a :: q.2)

/-- What the host port reads before step 4 of a start: 0 but for three registers (R478). -/
def hpEarly (x : Chip) (a : Nat) : Byte :=
  let r := a - a % 4
  if r = R.GEN_ID ∨ r = R.GEN_REV ∨ r = R.GEN_STATUS then nth 0 (le 4 (rd x r).toNat) (a % 4) else 0

/-- A host-port read burst (R293 to R295); during a start what `hpEarly` says, and in GLIDE or held in reset no answer. -/
def hpRead (addr n ns : Nat) (late short : Bool) (s : State) : State :=
  let x := s.chip
  let a := addr % 65536
  if regsUp x then
    if short then onChip (fun x => hpViol x 1 a) s
    else
      let y := noteWait x .hp ns
      if late then
        let z := fset { y with host := { y.host with late := true } } F.HOST_STATUS_late 1
        { s with chip := giveBytes (hpViol z 7 a) .hp (List.replicate n 0xFF) }
      else
        let r := hpSpan s n a (fget y F.HOST_BANK_bank) none y
        { s with chip := giveBytes r.1 .hp r.2 }
  else if x.pw.phase = .starting ∧ short = false then
    { s with chip := giveBytes x .hp ((List.range n).map fun i => hpEarly x (a + i)) }
  else s

/-- HP_READ (R293). -/
def execHpRead (addr n ns : Nat) (late short : Bool) (s : State) : Outc := .next (hpRead addr n ns late short s)

/-- HP_QREAD (R293). -/
def execHpQread (addr n ns : Nat) (late short : Bool) (s : State) : Outc := .next (hpRead addr n ns late short s)

/-- A violation of the host port, where it runs. -/
def hpBad (s : State) (reason addr : Nat) : State := if regsUp s.chip then onChip (fun x => hpViol x reason addr) s else s

/-- The bytes of a host-port write burst: a word takes effect with its last byte, bytes of the payload window at once; bytes
anywhere else are ignored, one violation a transfer (R294, R295). `part` is the word under way. -/
def hpBytes (b : BusObs) : List Byte → Nat → List Byte → Bool → State → State
  | [], a, part, _, s => if part.isEmpty then s else hpBad s 2 (a - a % 4)
  | v :: r, a, part, seen, s =>
    let next := if a = 0xFFFF then 0xC000 else a + 1
    if isReg a then
      let w := part ++ [v]
      if a % 4 = 3 then hpBytes b r next [] seen (busWord s .hp (a - 3) (BitVec.ofNat 32 (unle w)) b)
      else hpBytes b r next w seen s
    else if isWin a then hpBytes b r next [] seen (if regsUp s.chip then writeWin s (a - 0x8000) [v] else s)
    else hpBytes b r next [] true (if seen then s else hpBad s 4 a)

/-- A host-port write burst (R293 to R295). -/
def hpWrite (addr : Nat) (bytes : List Byte) (short : Bool) (b : BusObs) (s : State) : State :=
  let a := addr % 65536
  if regsUp s.chip then
    if short then onChip (fun x => hpViol x 1 a) s
    else if isReg a && a % 4 != 0 then onChip (fun x => hpViol x 5 a) s
    else hpBytes b bytes a [] false (onChip (fun x => noteWait x .hp b.ns) s)
  else s

/-- HP_WRITE (R293). -/
def execHpWrite (addr : Nat) (bytes : List Byte) (short : Bool) (b : BusObs) (s : State) : Outc :=
  .next (hpWrite addr bytes short b s)

/-- HP_QWRITE (R293). -/
def execHpQwrite (addr : Nat) (bytes : List Byte) (short : Bool) (b : BusObs) (s : State) : Outc :=
  .next (hpWrite addr bytes short b s)

/-- The STATUS byte (R293). -/
def hpStatusByte (x : Chip) : Nat :=
  (if hostInt x then 1 else 0) + (if x.host.late then 2 else 0) + (if x.host.violated then 4 else 0)
    + (if ringFull x then 8 else 0)

/-- HP_STATUS (R293): bits 1 and 2 of the byte clear. -/
def execHpStatus (s : State) : Outc :=
  .next (if regsUp s.chip then
      onChip (fun x => giveBytes { x with host := { x.host with late := false, violated := false } } .hp
        (b1 (hpStatusByte x))) s
    else if s.chip.pw.phase = .starting then onChip (fun x => giveBytes x .hp [0]) s
    else s)

/-- HP_UNKNOWN_INSTRUCTION (R295): a code of the table is none. -/
def execHpUnknownInstruction (code : Nat) (s : State) : Outc :=
  .next (if [0x0B, 0x02, 0xEB, 0x38, 0x05].contains (code % 256) then s else hpBad s 3 0)

/-- What held bytes are applied as: a register's word, or the byte itself (R309). -/
def twbKey (a : Nat) : Nat := if isReg a then a - a % 4 else a

/-- The last value of a byte among those held. -/
def twbLast (all : List (Nat × Byte)) (a : Nat) : Option Byte := (all.reverse.find? fun e => e.1 == a).map Prod.snd

/-- The word that held bytes make, where all four were written (R309). -/
def twbWord (all : List (Nat × Byte)) (a : Nat) : Option Word :=
  match twbLast all a, twbLast all (a + 1), twbLast all (a + 2), twbLast all (a + 3) with
  | some p, some q, some r, some t => some (BitVec.ofNat 32 (unle [p, q, r, t]))
  | _, _, _, _ => none

/-- Held bytes applied in the order in which the last byte of each word arrived (R309): the state, whether a partial word was
discarded, whether bytes met no register and no payload window; each is one violation of the transfer (DEDUCED, log 47). -/
def twbItems (b : BusObs) (all : List (Nat × Byte)) : List (Nat × Byte) → State × Bool × Bool → State × Bool × Bool
  | [], q => q
  | (a, v) :: r, (s, part, bad) =>
    if r.any fun e => twbKey e.1 == twbKey a then twbItems b all r (s, part, bad)
    else if isReg a then
      match twbWord all (twbKey a) with
      | some w => twbItems b all r (busWord s .twb (twbKey a) w b, part, bad)
      | none => twbItems b all r (s, true, bad)
    else if isWin a then twbItems b all r (if regsUp s.chip then writeWin s (a - 0x8000) [v] else s, part, bad)
    else twbItems b all r (s, part, true)

/-- A violation of the control bus, where it runs. -/
def twbBad (s : State) (reason : Nat) : State := if regsUp s.chip then onChip (fun x => twbViol x reason) s else s

/-- The STOP: held bytes are applied (R309, R317). -/
def twbStop (b : BusObs) (s : State) : State :=
  let all := s.chip.twb.held
  let s1 := onChip (fun x => { x with twb := { x.twb with held := [] } }) s
  let q := twbItems b all all (s1, false, false)
  let s2 := if q.2.1 then twbBad q.1 2 else q.1
  if q.2.2 then twbBad s2 4 else s2

/-- A transfer addressed to the part ends, with a STOP or before a repeated START. -/
def twbEnd (stop : Bool) (b : BusObs) (s : State) : State :=
  let s1 := onChip (fun x => fset { x with twb := { x.twb with busOpen := !stop } } F.TWB_STATUS_role (if stop then 0 else 1)) s
  if stop then twbStop b s1 else s1

/-- A transfer addressed to the part begins. -/
def twbBegin (x : Chip) (ns : Nat) : Chip := noteWait (count x R.TWB_XFER_COUNT (twbWrap 6) 1) .twb ns

/-- The pointer after a byte of a write: it wraps in its 64-byte page (R308). -/
def ptrWrap (p : Nat) : Nat := p - p % 64 + (p + 1) % 64

/-- Data bytes held from a pointer on, with the pointer after them. -/
def twbHold : List Byte → Nat → List (Nat × Byte) × Nat
  | [], p => ([], p)
  | v :: r, p =>
    let q := twbHold r (ptrWrap p)
    ((p, v) :: q.1, q.2)

/-- The bytes of a write transfer after the address (R307, R308). -/
def twbTake (bytes : List Byte) (stop : Bool) (x : Chip) : Chip :=
  match bytes with
  | [] => x
  | [_] => if stop then twbViol x 1 else x
  | hi :: lo :: data =>
    let q := twbHold data (hi.toNat * 256 + lo.toNat)
    fset { x with twb := { x.twb with held := x.twb.held ++ q.1 } } F.TWB_PTR_ptr q.2

/-- A write transfer, a probe where it has no byte (R307 to R309). -/
def twbWrite (bytes : List Byte) (stop : Bool) (b : BusObs) (s : State) : State :=
  if regsUp s.chip then twbEnd stop b (onChip (fun x => twbTake bytes stop (twbBegin x b.ns)) s) else s

/-- TWB_WRITE (R309). -/
def execTwbWrite (bytes : List Byte) (stop : Bool) (b : BusObs) (s : State) : Outc := .next (twbWrite bytes stop b s)

/-- TWB_PROBE (R307). -/
def execTwbProbe (b : BusObs) (s : State) : Outc := .next (twbWrite [] true b s)

/-- TWB_READ (R308, R310): n bytes from the pointer. -/
def execTwbRead (n : Nat) (stop : Bool) (b : BusObs) (s : State) : Outc :=
  .next (if regsUp s.chip then
      let x := s.chip
      let p := fget x F.TWB_PTR_ptr
      let s1 := readBytes (onChip (fun x => twbBegin x b.ns) s) .twb (fget x F.TWB_BANK_bank) p n
      twbEnd stop b (onChip (fun x => fset x F.TWB_PTR_ptr ((p + n) % 65536)) s1)
    else s)

/-- FAULT_INJECT (R366): requests of the control path that waited may run after it. -/
def execFaultInject (o : Iface) (c : CmdObs) (s : State) : Outc := .next (cpDrain (injectFault o c s))

/-- FAULT (R383 to R387). -/
def execFaultTaken (f : FaultIn) (more : List FaultIn) (core : CoreObs) (s : State) : Outc :=
  .next (cpDrain (takeFault s f more core))

/-- WDT_HALF (R383): half of `SUP_WDT.period` has passed without a kick. -/
def execWdtHalf (s : State) : Outc := .next (cpDrain (takeFault s wdtFault [] ⟨[], [], []⟩))

/-- DUMP (R385). -/
def execDump (n : Nat) (c : CmdObs) (s : State) : Outc := .next (cpDrain (dumpDone n c s))

/-- DUMP_TIMEOUT (R385). -/
def execDumpTimeout (n : Nat) (s : State) : Outc := .next (cpDrain (dumpLate n s))

/-- EW_CLEAR (R345). -/
def execEwClear (coax vmin : Nat) (s : State) : Outc := .next (cpDrain (ewClear coax vmin s))

/-- STORE_PROGRAM (R408). -/
def execStoreProgram (o : Iface) (c : CmdObs) (s : State) : Outc := .next (cpDrain (programCmd o c s))

/-- UPDATE_DATA (R417). -/
def execUpdateData (o : Iface) (c : CmdObs) (s : State) : Outc := .next (cpDrain (updateDataCmd o c s))

/-- UPDATE_FINISH (R416). -/
def execUpdateFinish (o : Iface) (s : State) : Outc := .next (cpDrain (updateFinishCmd o s))

/-- UPDATE_ACTIVATE (R417). -/
def execUpdateActivate (o : Iface) (s : State) : Outc := .next (cpDrain (updateActivateCmd o s))

/-- UPDATE_CONFIRM (R417). -/
def execUpdateConfirm (o : Iface) (c : CmdObs) (s : State) : Outc := .next (cpDrain (updateConfirmCmd o c s))

end Sys2Proof.Machine
end

