-- ==== Sys2Proof/Machine/Dispatch.lean ====
section
/-! DEFINITION. The meaning of each command: one arm for each constructor of Instr, each arm one call. -/
namespace Sys2Proof.Machine

/-- The effect of a command on everything but the queue of waiting commands. -/
def exec (i : Instr) (s : State) : Host.Outcome State Fault Refusal :=
  match i with
  | .nop o => Sys2Proof.Machine.execNop o s
  | .getInfo o => Sys2Proof.Machine.execGetInfo o s
  | .logRead o => Sys2Proof.Machine.execLogRead o s
  | .timeSet o => Sys2Proof.Machine.execTimeSet o s
  | .timeGet o => Sys2Proof.Machine.execTimeGet o s
  | .crumbRead o => Sys2Proof.Machine.execCrumbRead o s
  | .crumbClear o => Sys2Proof.Machine.execCrumbClear o s
  | .dumpInfo o => Sys2Proof.Machine.execDumpInfo o s
  | .faultInject o c => Sys2Proof.Machine.execFaultInject o c s
  | .unknownCmdCode o code => Sys2Proof.Machine.execUnknownCmdCode o code s
  | .powerSet o => Sys2Proof.Machine.execPowerSet o s
  | .stateReached => Sys2Proof.Machine.execStateReached s
  | .storeInfo o => Sys2Proof.Machine.execStoreInfo o s
  | .storeRead o => Sys2Proof.Machine.execStoreRead o s
  | .storeErase o => Sys2Proof.Machine.execStoreErase o s
  | .storeProgram o c => Sys2Proof.Machine.execStoreProgram o c s
  | .storeCommitConfig o => Sys2Proof.Machine.execStoreCommitConfig o s
  | .configStage o => Sys2Proof.Machine.execConfigStage o s
  | .configInstall o => Sys2Proof.Machine.execConfigInstall o s
  | .storeAbort o => Sys2Proof.Machine.execStoreAbort o s
  | .storeMaintain o => Sys2Proof.Machine.execStoreMaintain o s
  | .storeDone g n c => Sys2Proof.Machine.execStoreDone g n c s
  | .maintenance => Sys2Proof.Machine.execMaintenance s
  | .updateBegin o => Sys2Proof.Machine.execUpdateBegin o s
  | .updateData o c => Sys2Proof.Machine.execUpdateData o c s
  | .updateFinish o => Sys2Proof.Machine.execUpdateFinish o s
  | .updateActivate o => Sys2Proof.Machine.execUpdateActivate o s
  | .updateConfirm o c => Sys2Proof.Machine.execUpdateConfirm o c s
  | .fuseProgram o c => Sys2Proof.Machine.execFuseProgram o c s
  | .bistLane o => Sys2Proof.Machine.execBistLane o s
  | .bistCoach o => Sys2Proof.Machine.execBistCoach o s
  | .bistSplitter o => Sys2Proof.Machine.execBistSplitter o s
  | .bistRetest o => Sys2Proof.Machine.execBistRetest o s
  | .bistReport o => Sys2Proof.Machine.execBistReport o s
  | .bistDone => Sys2Proof.Machine.execBistDone s
  | .coachTestDone splitter u sig pass => Sys2Proof.Machine.execCoachTestDone splitter u sig pass s
  | .followSet o => Sys2Proof.Machine.execFollowSet o s
  | .followClear o => Sys2Proof.Machine.execFollowClear o s
  | .followAdd o => Sys2Proof.Machine.execFollowAdd o s
  | .followForce o => Sys2Proof.Machine.execFollowForce o s
  | .followStatus o => Sys2Proof.Machine.execFollowStatus o s
  | .remoteRead o => Sys2Proof.Machine.execRemoteRead o s
  | .remoteWrite o => Sys2Proof.Machine.execRemoteWrite o s
  | .remoteMbox o => Sys2Proof.Machine.execRemoteMbox o s
  | .remotePower o => Sys2Proof.Machine.execRemotePower o s
  | .registerWrite o addr v b => Sys2Proof.Machine.execRegisterWrite o addr v b s
  | .applyStaged n => Sys2Proof.Machine.execApplyStaged n s
  | .laneApplied n => Sys2Proof.Machine.execLaneApplied n s
  | .discard n => Sys2Proof.Machine.execDiscard n s
  | .laneStagedWrite addr v => Sys2Proof.Machine.execLaneStagedWrite addr v s
  | .laneReset c p => Sys2Proof.Machine.execLaneReset c p s
  | .coachReset c => Sys2Proof.Machine.execCoachReset c s
  | .forcedTaint a => Sys2Proof.Machine.execForcedTaint a s
  | .descCommit c => Sys2Proof.Machine.execDescCommit c s
  | .descApply c => Sys2Proof.Machine.execDescApply c s
  | .calRun a => Sys2Proof.Machine.execCalRun a s
  | .clkRelock => Sys2Proof.Machine.execClkRelock s
  | .vcoCalStart => Sys2Proof.Machine.execVcoCalStart s
  | .clkOutEnWrite x en => Sys2Proof.Machine.execClkOutEnWrite x en s
  | .genResetFull => Sys2Proof.Machine.execGenResetFull s
  | .genResetDatapath => Sys2Proof.Machine.execGenResetDatapath s
  | .laneGo n => Sys2Proof.Machine.execLaneGo n s
  | .waitClr => Sys2Proof.Machine.execWaitClr s
  | .rtcArm => Sys2Proof.Machine.execRtcArm s
  | .rtcDisarm => Sys2Proof.Machine.execRtcDisarm s
  | .rtcSecondsWrite v => Sys2Proof.Machine.execRtcSecondsWrite v s
  | .sensPeakClr => Sys2Proof.Machine.execSensPeakClr s
  | .bistAbort => Sys2Proof.Machine.execBistAbort s
  | .linkRestart => Sys2Proof.Machine.execLinkRestart s
  | .wspSend => Sys2Proof.Machine.execWspSend s
  | .feedFaultClear a short back => Sys2Proof.Machine.execFeedFaultClear a short back s
  | .ainEnableWrite a en => Sys2Proof.Machine.execAinEnableWrite a en s
  | .feedEnableWrite a en => Sys2Proof.Machine.execFeedEnableWrite a en s
  | .aportMapWrite p e v => Sys2Proof.Machine.execAportMapWrite p e v s
  | .aportCfgWrite p v => Sys2Proof.Machine.execAportCfgWrite p v s
  | .hostRingRdWrite o v => Sys2Proof.Machine.execHostRingRdWrite o v s
  | .splEpochRead o ns => Sys2Proof.Machine.execSplEpochRead o ns s
  | .rtcTickRead o ns => Sys2Proof.Machine.execRtcTickRead o ns s
  | .rtcWallRead o ns => Sys2Proof.Machine.execRtcWallRead o ns s
  | .rtcSecondsRead o ns => Sys2Proof.Machine.execRtcSecondsRead o ns s
  | .logDataRead o ns => Sys2Proof.Machine.execLogDataRead o ns s
  | .stimeRead o ns => Sys2Proof.Machine.execStimeRead o ns s
  | .stepRead o ns => Sys2Proof.Machine.execStepRead o ns s
  | .serialRead o ns => Sys2Proof.Machine.execSerialRead o ns s
  | .hpRead addr n ns late short => Sys2Proof.Machine.execHpRead addr n ns late short s
  | .hpWrite addr bytes short b => Sys2Proof.Machine.execHpWrite addr bytes short b s
  | .hpQread addr n ns late short => Sys2Proof.Machine.execHpQread addr n ns late short s
  | .hpQwrite addr bytes short b => Sys2Proof.Machine.execHpQwrite addr bytes short b s
  | .hpStatus => Sys2Proof.Machine.execHpStatus s
  | .hpUnknownInstruction code => Sys2Proof.Machine.execHpUnknownInstruction code s
  | .twbWrite bytes stop b => Sys2Proof.Machine.execTwbWrite bytes stop b s
  | .twbRead n stop b => Sys2Proof.Machine.execTwbRead n stop b s
  | .twbProbe b => Sys2Proof.Machine.execTwbProbe b s
  | .twbBusError => Sys2Proof.Machine.execTwbBusError s
  | .twbStuck => Sys2Proof.Machine.execTwbStuck s
  | .twbWake byte => Sys2Proof.Machine.execTwbWake byte s
  | .attnMessage res => Sys2Proof.Machine.execAttnMessage res s
  | .attnRetry res => Sys2Proof.Machine.execAttnRetry res s
  | .attnBusTimeout => Sys2Proof.Machine.execAttnBusTimeout s
  | .por => Sys2Proof.Machine.execPor s
  | .bor => Sys2Proof.Machine.execBor s
  | .railLow rail => Sys2Proof.Machine.execRailLow rail s
  | .nrstLow => Sys2Proof.Machine.execNrstLow s
  | .nrstRelease => Sys2Proof.Machine.execNrstRelease s
  | .wdtExpiry => Sys2Proof.Machine.execWdtExpiry s
  | .wdtHalf => Sys2Proof.Machine.execWdtHalf s
  | .coaxPowerGood => Sys2Proof.Machine.execCoaxPowerGood s
  | .start o => Sys2Proof.Machine.execStart o s
  | .ew coax hold => Sys2Proof.Machine.execEw coax hold s
  | .ewClear coax vmin => Sys2Proof.Machine.execEwClear coax vmin s
  | .overvolt mv => Sys2Proof.Machine.execOvervolt mv s
  | .ovr a t => Sys2Proof.Machine.execOvr a t s
  | .snowStep a t near => Sys2Proof.Machine.execSnowStep a t near s
  | .snowRelease a => Sys2Proof.Machine.execSnowRelease a s
  | .gainStep a peak rms => Sys2Proof.Machine.execGainStep a peak rms s
  | .presel a stable => Sys2Proof.Machine.execPresel a stable s
  | .feedShort a mv => Sys2Proof.Machine.execFeedShort a mv s
  | .feedBack a mv => Sys2Proof.Machine.execFeedBack a mv s
  | .settleDone a => Sys2Proof.Machine.execSettleDone a s
  | .planDone a peak => Sys2Proof.Machine.execPlanDone a peak s
  | .calWindowEnd a w => Sys2Proof.Machine.execCalWindowEnd a w s
  | .calRunTimeout a => Sys2Proof.Machine.execCalRunTimeout a s
  | .loadBucket => Sys2Proof.Machine.execLoadBucket s
  | .calTrig a temp => Sys2Proof.Machine.execCalTrig a temp s
  | .slackLow c now => Sys2Proof.Machine.execSlackLow c now s
  | .slackExhausted c p n => Sys2Proof.Machine.execSlackExhausted c p n s
  | .fmState n o => Sys2Proof.Machine.execFmState n o s
  | .stereo n present => Sys2Proof.Machine.execStereo n present s
  | .rdsBlock n o => Sys2Proof.Machine.execRdsBlock n o s
  | .amState n o => Sys2Proof.Machine.execAmState n o s
  | .carrierFade n power avg => Sys2Proof.Machine.execCarrierFade n power avg s
  | .amSide n side => Sys2Proof.Machine.execAmSide n side s
  | .fibReceived n o => Sys2Proof.Machine.execFibReceived n o s
  | .cifPublish n o => Sys2Proof.Machine.execCifPublish n o s
  | .reconfig n cif => Sys2Proof.Machine.execReconfig n cif s
  | .svcAttach n => Sys2Proof.Machine.execSvcAttach n s
  | .dabState n o => Sys2Proof.Machine.execDabState n o s
  | .audioFrame n o => Sys2Proof.Machine.execAudioFrame n o s
  | .tiiReport n ids stamp => Sys2Proof.Machine.execTiiReport n ids stamp s
  | .motDataGroup n o => Sys2Proof.Machine.execMotDataGroup n o s
  | .motIdleTimeout n tid => Sys2Proof.Machine.execMotIdleTimeout n tid s
  | .motMissing n tid stamp => Sys2Proof.Machine.execMotMissing n tid stamp s
  | .drmState n o => Sys2Proof.Machine.execDrmState n o s
  | .drmParam n rmode occ qam ilong codec => Sys2Proof.Machine.execDrmParam n rmode occ qam ilong codec s
  | .scanRecord n o => Sys2Proof.Machine.execScanRecord n o s
  | .candWarm sched => Sys2Proof.Machine.execCandWarm sched s
  | .candVerify p k ident => Sys2Proof.Machine.execCandVerify p k ident s
  | .candAligned p k => Sys2Proof.Machine.execCandAligned p k s
  | .candReady p k => Sys2Proof.Machine.execCandReady p k s
  | .fineAlign p k => Sys2Proof.Machine.execFineAlign p k s
  | .rejectExpiry p k => Sys2Proof.Machine.execRejectExpiry p k s
  | .handoverDecide p quals => Sys2Proof.Machine.execHandoverDecide p quals s
  | .handoverDone p stamp => Sys2Proof.Machine.execHandoverDone p stamp s
  | .handoverAbort p reason => Sys2Proof.Machine.execHandoverAbort p reason s
  | .followLeadReturn n => Sys2Proof.Machine.execFollowLeadReturn n s
  | .segmentComplete c iq => Sys2Proof.Machine.execSegmentComplete c iq s
  | .sideRecord n r stamp cands => Sys2Proof.Machine.execSideRecord n r stamp cands s
  | .keepalive c => Sys2Proof.Machine.execKeepalive c s
  | .qualReport c => Sys2Proof.Machine.execQualReport c s
  | .carrShed => Sys2Proof.Machine.execCarrShed s
  | .carrRestore => Sys2Proof.Machine.execCarrRestore s
  | .trainTx noise => Sys2Proof.Machine.execTrainTx noise s
  | .trainRx o => Sys2Proof.Machine.execTrainRx o s
  | .segmentRelease => Sys2Proof.Machine.execSegmentRelease s
  | .burstTx => Sys2Proof.Machine.execBurstTx s
  | .burstRx o => Sys2Proof.Machine.execBurstRx o s
  | .txRamp up => Sys2Proof.Machine.execTxRamp up s
  | .wspCharacter mv => Sys2Proof.Machine.execWspCharacter mv s
  | .wspFrame => Sys2Proof.Machine.execWspFrame s
  | .wspFrameGap => Sys2Proof.Machine.execWspFrameGap s
  | .wspBreak => Sys2Proof.Machine.execWspBreak s
  | .wspWake => Sys2Proof.Machine.execWspWake s
  | .wspReset => Sys2Proof.Machine.execWspReset s
  | .wspNop => Sys2Proof.Machine.execWspNop s
  | .wakeFrameTx => Sys2Proof.Machine.execWakeFrameTx s
  | .upSoundDone => Sys2Proof.Machine.execUpSoundDone s
  | .trainFail => Sys2Proof.Machine.execTrainFail s
  | .dnSoundDone => Sys2Proof.Machine.execDnSoundDone s
  | .mapXchgTimeout => Sys2Proof.Machine.execMapXchgTimeout s
  | .linkLost => Sys2Proof.Machine.execLinkLost s
  | .mapPropose dir => Sys2Proof.Machine.execMapPropose dir s
  | .mapProposal dir => Sys2Proof.Machine.execMapProposal dir s
  | .mapProposeRepeat dir => Sys2Proof.Machine.execMapProposeRepeat dir s
  | .mapSwitch dir => Sys2Proof.Machine.execMapSwitch dir s
  | .rateRecover => Sys2Proof.Machine.execRateRecover s
  | .notchSegment payload => Sys2Proof.Machine.execNotchSegment payload s
  | .idmapSegment payload => Sys2Proof.Machine.execIdmapSegment payload s
  | .ctrlRequest msg b => Sys2Proof.Machine.execCtrlRequest msg b s
  | .ctrlResponse msg => Sys2Proof.Machine.execCtrlResponse msg s
  | .cpRetry => Sys2Proof.Machine.execCpRetry s
  | .cpTimeout => Sys2Proof.Machine.execCpTimeout s
  | .freeBurst msg => Sys2Proof.Machine.execFreeBurst msg s
  | .sampleMessage payload => Sys2Proof.Machine.execSampleMessage payload s
  | .wallSend => Sys2Proof.Machine.execWallSend s
  | .wallMessage payload ago => Sys2Proof.Machine.execWallMessage payload ago s
  | .underrun c => Sys2Proof.Machine.execUnderrun c s
  | .overrun c => Sys2Proof.Machine.execOverrun c s
  | .resume c => Sys2Proof.Machine.execResume c s
  | .slip p c => Sys2Proof.Machine.execSlip p c s
  | .nonpcm p e => Sys2Proof.Machine.execNonpcm p e s
  | .nonpcmRelease p e => Sys2Proof.Machine.execNonpcmRelease p e s
  | .contend p fsync => Sys2Proof.Machine.execContend p fsync s
  | .syncInEdge => Sys2Proof.Machine.execSyncInEdge s
  | .ringEntry => Sys2Proof.Machine.execRingEntry s
  | .privWrite => Sys2Proof.Machine.execPrivWrite s
  | .lock band us ppm => Sys2Proof.Machine.execLock band us ppm s
  | .lockLost cause ctrl => Sys2Proof.Machine.execLockLost cause ctrl s
  | .coastEnd band us ofs => Sys2Proof.Machine.execCoastEnd band us ofs s
  | .coastLimit ofs => Sys2Proof.Machine.execCoastLimit ofs s
  | .vcoCalTempTrig => Sys2Proof.Machine.execVcoCalTempTrig s
  | .vcoCalStep move ctrl last => Sys2Proof.Machine.execVcoCalStep move ctrl last s
  | .slalomMove => Sys2Proof.Machine.execSlalomMove s
  | .lockSenseMismatch sense => Sys2Proof.Machine.execLockSenseMismatch sense s
  | .alarm => Sys2Proof.Machine.execAlarm s
  | .tempLimit point temp => Sys2Proof.Machine.execTempLimit point temp s
  | .coaxLimit mv ma => Sys2Proof.Machine.execCoaxLimit mv ma s
  | .logMirror c => Sys2Proof.Machine.execLogMirror c s
  | .faultTaken f more core => Sys2Proof.Machine.execFaultTaken f more core s
  | .dump n c => Sys2Proof.Machine.execDump n c s
  | .dumpTimeout n => Sys2Proof.Machine.execDumpTimeout n s
  | .bistSchedule => Sys2Proof.Machine.execBistSchedule s
  | .migStateCopy => Sys2Proof.Machine.execMigStateCopy s
  | .migDone stamp => Sys2Proof.Machine.execMigDone stamp s
  | .migAbort reason => Sys2Proof.Machine.execMigAbort reason s
  | .laneTestDone sig pass => Sys2Proof.Machine.execLaneTestDone sig pass s
  | .sampleTimeLatch counts => Sys2Proof.Machine.execSampleTimeLatch counts s
  | .busFree res => Sys2Proof.Machine.execBusFree res s
  | .freeBurstRepeat => Sys2Proof.Machine.execFreeBurstRepeat s

end Sys2Proof.Machine
end

