-- ==== Sys2Proof/Machine/Balls.lean ====
section
/-! DEFINITION. The balls as the state gives them: what each group of balls shows (R289, R305, R335, R381, R450) and the
frame that a running audio port drives (R277, R278). Nothing here changes the state. -/
namespace Sys2Proof.Machine

/-- The groups of balls of R450. -/
inductive Ball where
  | portOut (p : Nat)
  | portIn (p : Nat)
  | hostIo
  | hostIn
  | storeSelect
  | storeBus
  | controlBus
  | int
  | lock
  | tdo
  deriving DecidableEq, Repr

/-- What a ball shows. `driven` is a ball whose unit runs and drives it as its protocol says; `matcher` is the keep
island's input of R313. -/
inductive Level where
  | hiZ
  | pullDown
  | input
  | low
  | high
  | released
  | matcher
  | driven
  deriving DecidableEq, Repr

/-- A ball in GLIDE (R450). -/
def ballGlide : Ball → Level
  | .controlBus => .matcher
  | .int => .released
  | _ => .hiZ

/-- A ball whose unit is stopped, the part held in reset included (R450). -/
def ballStopped : Ball → Level
  | .portIn _ => .pullDown
  | .hostIn => .input
  | .storeSelect => .high
  | .storeBus | .lock => .low
  | .controlBus | .int => .released
  | .portOut _ | .hostIo | .tdo => .hiZ

/-- The unit behind a ball runs and drives it: a port in RUN (R277, R289), the host port, the boot store and the control
bus wherever management runs (R31). -/
def ballRuns (x : Chip) : Ball → Bool
  | .portOut p => portState x p == 2
  | .hostIo | .storeSelect | .storeBus | .controlBus => mgmtUp x
  | _ => false

/-- What a ball shows (R335, R381, R450): INT is low while an enabled cause stands, LOCK low outside LOCKED and STEP. -/
def ballNow (x : Chip) (b : Ball) : Level :=
  if x.pw.phase = .glide then ballGlide b
  else if ballRuns x b then .driven
  else if b = .int ∧ mgmtUp x = true ∧ causeWord x ≠ 0 then .low
  else if b = .lock ∧ (clkState x = ckLocked ∨ clkState x = ckStep) then .high
  else ballStopped b

/-- BCLK periods of a slot (R303): 32, 24 or 16. -/
def slotPeriods (width : Nat) : Nat := match width with
  | 1 => 24
  | 2 => 16
  | _ => 32

/-- The data bits of a frame of slots, each slot most significant bit first (R279). -/
def frameBits (width : Nat) (slots : List Nat) : List Bool :=
  slots.flatMap fun v => (List.range (slotPeriods width)).reverse.map fun i => v.testBit i

/-- FSYNC in BCLK period i of a frame of n periods (R278). -/
def fsyncAt (x : Chip) (p n i : Nat) : Bool :=
  let on := if fon x (F.APORT_CFG_fs_len p) then decide (2 * i < n) else i == 0
  if fon x (F.APORT_CFG_fs_inv p) then !on else on

/-- The data of a frame by BCLK period (R278): with `delay` 1 it stands one period later, after the last bit of the frame
before. -/
def doutBits (x : Chip) (p : Nat) (before now : List Nat) : List Bool :=
  let w := fget x (F.APORT_CFG_width p)
  let d := fget x (F.APORT_CFG_delay p)
  let last := (frameBits w before).reverse.take d
  last ++ (frameBits w now).take ((frameBits w now).length - d)

/-- FSYNC and DOUT of a running port in every BCLK period of a frame (R277, R278). -/
def portFrameLines (x : Chip) (p : Nat) (before now : List Nat) : List (Bool × Bool) :=
  let d := doutBits x p before now
  d.mapIdx fun i b => (fsyncAt x p d.length i, b)

/-- DOUT changes on the rising edge of BCLK, else on the falling one (R278). -/
def doutRising (x : Chip) (p : Nat) : Bool := fon x (F.APORT_CFG_bclk_inv p)

end Sys2Proof.Machine
end

