-- ==== Sys2Proof/Safety.lean ====
section
/-! DEFINITION. What counts as a safe step, and the vocabulary of the statements: what a command may write, a mailbox that
serves a command, the state in which a mailbox command is issued and completed. -/
namespace Sys2Proof

open Sys2Proof.Machine

/-- The step answers a next state. -/
def Safe (s : State) : Prop := ∃ t, step s = .next t

/-- Memories in canonical form, so that equal contents are equal data. -/
def MemOk (s : State) : Prop := s.mem.wf = true

/-- The registers that the event log writes: its write index, its lost entries, the wrap flags and cause `log`. -/
def logRegs : List Nat := [R.MGMT_LOG_WR, R.MGMT_LOG_LOST, R.MGMT_FAULT_STATUS, R.MGMT_INT_CAUSE]

/-- Of a chip only registers change, and none outside a list. -/
def OnlyRegs (l : List Nat) (x y : Chip) : Prop :=
  y = { x with regs := y.regs } ∧ ∀ b, b ∉ l → rd y b = rd x b

/-- Of a chip only registers and the event log change, and no register outside a list and those of the log. -/
def OnlyRegsLog (l : List Nat) (x y : Chip) : Prop :=
  y = { x with regs := y.regs, lg := y.lg } ∧ ∀ b, b ∉ l → b ∉ logRegs → rd y b = rd x b

/-- Of a chip only registers, the event log and the inputs' bookkeeping change, and no register outside a list and those
of the log. -/
def OnlyRegsAin (l : List Nat) (x y : Chip) : Prop :=
  y = { x with regs := y.regs, lg := y.lg, ain := y.ain } ∧ ∀ b, b ∉ l → b ∉ logRegs → rd y b = rd x b

/-- The mailbox serves a command of a code (R362 to R364, R385, R400): management runs and takes commands, no command of
another code runs, and the phase does not refuse it. -/
def MboxServes (x : Chip) (code : Nat) : Prop :=
  mgmtUp x = true ∧ mboxClosed x = false ∧ mboxGate x code = none ∧
    (fon x F.MGMT_STATUS_busy = true → fget x F.MGMT_CMD_code = code)

/-- The state with a mailbox command issued: already so where `busy` is set (R362). -/
def begun (o : Iface) (code : Nat) (s : State) : State :=
  if fon s.chip F.MGMT_STATUS_busy then s else onChip (fun y => mboxIssue y o code) s

/-- The state with a mailbox command completed with a status and a length of results (R362). -/
def finished (status len : Nat) (s : State) : State := onChip (fun y => mboxDone y status len) s

/-- Only the chip differs: memories and queue stay. -/
def ChipOnly (s t : State) : Prop := t = { s with chip := t.chip }

end Sys2Proof
end

