-- ==== Sys2Proof/WellFormed.lean ====
section
/-! DEFINITION. Well-formed commands: operands within the ranges that the manual gives its lanes, inputs, coaches,
carriages, ports, addresses and codes. -/
namespace Sys2Proof

/-- One of the 104 lanes. -/
def laneOk (n : Nat) : Bool := decide (n < 104)

/-- One of the four aerial inputs. -/
def inputOk (a : Nat) : Bool := decide (a < 4)

/-- One of the 13 coaches. -/
def coachOk (c : Nat) : Bool := decide (c < 13)

/-- One of the 256 carriages. -/
def carrOk (c : Nat) : Bool := decide (c < 256)

/-- One of the four audio ports. -/
def portOk (p : Nat) : Bool := decide (p < 4)

/-- A byte address (R458). -/
def addrOk (a : Nat) : Bool := decide (a < 65536)

/-- A fault of the table with a class (R383). -/
def faultOk (f : FaultIn) : Bool := decide (1 ≤ f.code) && (decide (f.code ≤ 0x0A) && decide (f.cls < 4))

/-- A block of the calibration estimator: a figure of each kind for each of the four sub-ADCs (R75). -/
def CalBlock.ok (b : CalBlock) : Bool := b.sums.length == 4 && (b.powers.length == 4 && b.diffs.length == 4)

/-- A run of coach samples: the partner's, where there are any, keep pace with the named input's (R106). -/
def CoachRun.ok (r : CoachRun) : Bool := r.partner.isEmpty || r.partner.length == r.named.length

/-- A 26-bit RDS block with one of the six offset words (R129, R130). -/
def RdsObs.ok (o : RdsObs) : Bool := decide (o.raw < 2 ^ 26) && (decide (o.word < 2 ^ 26) && decide (o.offset < 6))

/-- A CIF of a transmission frame of 4: 18 symbols (R150). -/
def CifObs.ok (o : CifObs) : Bool := decide (o.cif < 5000) && (decide (o.place < 4) && o.symbols.length == 18)

/-- What a lane publishes beside the commands of its mode: X-PAD applications and raw streams have numbers (R146, R205). -/
def SideIn.ok : SideIn → Bool
  | .xpad app _ => decide (app < 32)
  | .raw i _ => decide (i < 4)
  | .sdc entity _ => decide (entity < 16)
  | .packet _ => true
  | .stream _ => true
  | .fac _ => true
  | .text _ => true

/-- A command whose operands lie within their ranges. -/
def Instr.wellFormed : Instr → Bool
  | .nop _ => true
  | .getInfo _ => true
  | .logRead _ => true
  | .timeSet _ => true
  | .timeGet _ => true
  | .crumbRead _ => true
  | .crumbClear _ => true
  | .dumpInfo _ => true
  | .faultInject _ _ => true
  | .unknownCmdCode _ code => decide (code < 256)
  | .powerSet _ => true
  | .stateReached => true
  | .storeInfo _ => true
  | .storeRead _ => true
  | .storeErase _ => true
  | .storeProgram _ _ => true
  | .storeCommitConfig _ => true
  | .configStage _ => true
  | .configInstall _ => true
  | .storeAbort _ => true
  | .storeMaintain _ => true
  | .storeDone g _ _ => decide (g < 4)
  | .maintenance => true
  | .updateBegin _ => true
  | .updateData _ _ => true
  | .updateFinish _ => true
  | .updateActivate _ => true
  | .updateConfirm _ _ => true
  | .fuseProgram _ _ => true
  | .bistLane _ => true
  | .bistCoach _ => true
  | .bistSplitter _ => true
  | .bistRetest _ => true
  | .bistReport _ => true
  | .bistDone => true
  | .coachTestDone splitter u _ _ => decide (u < if splitter then 4 else 13)
  | .followSet _ => true
  | .followClear _ => true
  | .followAdd _ => true
  | .followForce _ => true
  | .followStatus _ => true
  | .remoteRead _ => true
  | .remoteWrite _ => true
  | .remoteMbox _ => true
  | .remotePower _ => true
  | .registerWrite _ addr _ _ => addrOk addr && addr % 4 == 0
  | .applyStaged n => laneOk n
  | .laneApplied n => laneOk n
  | .discard n => laneOk n
  | .laneStagedWrite addr _ => addr % 4 == 0 && (decide (0x1000 ≤ addr) && decide (addr < 0x2A00))
  | .laneReset c p => coachOk c && decide (p < 8)
  | .coachReset c => coachOk c
  | .forcedTaint a => inputOk a
  | .descCommit c => carrOk c
  | .descApply c => carrOk c
  | .calRun a => inputOk a
  | .clkRelock => true
  | .vcoCalStart => true
  | .clkOutEnWrite x _ => decide (x < 4)
  | .genResetFull => true
  | .genResetDatapath => true
  | .laneGo n => laneOk n
  | .waitClr => true
  | .rtcArm => true
  | .rtcDisarm => true
  | .rtcSecondsWrite _ => true
  | .sensPeakClr => true
  | .bistAbort => true
  | .linkRestart => true
  | .wspSend => true
  | .feedFaultClear a _ _ => inputOk a
  | .ainEnableWrite a _ => inputOk a
  | .feedEnableWrite a _ => inputOk a
  | .aportMapWrite p e _ => portOk p && decide (e < 4)
  | .aportCfgWrite p _ => portOk p
  | .hostRingRdWrite _ _ => true
  | .splEpochRead _ _ => true
  | .rtcTickRead _ _ => true
  | .rtcWallRead _ _ => true
  | .rtcSecondsRead _ _ => true
  | .logDataRead _ _ => true
  | .stimeRead _ _ => true
  | .stepRead _ _ => true
  | .serialRead _ _ => true
  | .hpRead addr _ _ _ _ => addrOk addr
  | .hpWrite addr _ _ _ => addrOk addr
  | .hpQread addr _ _ _ _ => addrOk addr
  | .hpQwrite addr _ _ _ => addrOk addr
  | .hpStatus => true
  | .hpUnknownInstruction code => decide (code < 256) && !([0x0B, 0x02, 0xEB, 0x38, 0x05].contains code)
  | .twbWrite bytes _ _ => !bytes.isEmpty
  | .twbRead _ _ _ => true
  | .twbProbe _ => true
  | .twbBusError => true
  | .twbStuck => true
  | .twbWake byte => decide (byte < 256)
  | .attnMessage _ => true
  | .attnRetry _ => true
  | .attnBusTimeout => true
  | .por => true
  | .bor => true
  | .railLow rail => decide (rail < 3)
  | .nrstLow => true
  | .nrstRelease => true
  | .wdtExpiry => true
  | .wdtHalf => true
  | .coaxPowerGood => true
  | .start o => decide (o.straps < 4) && decide (o.addr < 4)
  | .ew _ _ => true
  | .ewClear _ _ => true
  | .overvolt _ => true
  | .ovr a _ => inputOk a
  | .snowStep a _ _ => inputOk a
  | .snowRelease a => inputOk a
  | .gainStep a _ _ => inputOk a
  | .presel a _ => inputOk a
  | .feedShort a _ => inputOk a
  | .feedBack a _ => inputOk a
  | .settleDone a => inputOk a
  | .planDone a _ => inputOk a
  | .calWindowEnd a w => inputOk a && w.blocks.all fun e => e.2.ok
  | .calRunTimeout a => inputOk a
  | .loadBucket => true
  | .calTrig a _ => inputOk a
  | .slackLow c now => coachOk c && decide (now ≤ 100)
  | .slackExhausted c p _ => coachOk c && decide (p < 8)
  | .fmState n o => laneOk n && o.run.ok
  | .stereo n _ => laneOk n
  | .rdsBlock n o => laneOk n && o.ok
  | .amState n o => laneOk n && o.run.ok
  | .carrierFade n _ _ => laneOk n
  | .amSide n side => laneOk n && decide (side < 4)
  | .fibReceived n o => laneOk n && o.octets.length == 32
  | .cifPublish n o => laneOk n && o.ok
  | .reconfig n _ => laneOk n
  | .svcAttach n => laneOk n
  | .dabState n _ => laneOk n
  | .audioFrame n _ => laneOk n
  | .tiiReport n ids _ => laneOk n && ids.all fun i => decide (i.1 < 128) && decide (i.2.1 < 24)
  | .motDataGroup n _ => laneOk n
  | .motIdleTimeout n _ => laneOk n
  | .motMissing n _ _ => laneOk n
  | .drmState n _ => laneOk n
  | .drmParam n rmode occ qam _ codec => laneOk n && (decide (rmode < 8) && (decide (occ < 8) && (decide (qam < 4) && decide (codec < 8))))
  | .scanRecord n _ => laneOk n
  | .candWarm _ => true
  | .candVerify p k _ => laneOk p && decide (k < 256)
  | .candAligned p k => laneOk p && decide (k < 256)
  | .candReady p k => laneOk p && decide (k < 256)
  | .fineAlign p k => laneOk p && decide (k < 256)
  | .rejectExpiry p k => laneOk p && decide (k < 256)
  | .handoverDecide p _ => laneOk p
  | .handoverDone p _ => laneOk p
  | .handoverAbort p _ => laneOk p
  | .followLeadReturn n => laneOk n
  | .segmentComplete c iq => carrOk c && iq.ok
  | .sideRecord n r _ _ => laneOk n && r.ok
  | .keepalive c => carrOk c
  | .qualReport c => carrOk c
  | .carrShed => true
  | .carrRestore => true
  | .trainTx _ => true
  | .trainRx _ => true
  | .segmentRelease => true
  | .burstTx => true
  | .burstRx _ => true
  | .txRamp _ => true
  | .wspCharacter _ => true
  | .wspFrame => true
  | .wspFrameGap => true
  | .wspBreak => true
  | .wspWake => true
  | .wspReset => true
  | .wspNop => true
  | .wakeFrameTx => true
  | .upSoundDone => true
  | .trainFail => true
  | .dnSoundDone => true
  | .mapXchgTimeout => true
  | .linkLost => true
  | .mapPropose dir => decide (dir < 2)
  | .mapProposal dir => decide (dir < 2)
  | .mapProposeRepeat dir => decide (dir < 2)
  | .mapSwitch dir => decide (dir < 2)
  | .rateRecover => true
  | .notchSegment _ => true
  | .idmapSegment _ => true
  | .ctrlRequest _ _ => true
  | .ctrlResponse _ => true
  | .cpRetry => true
  | .cpTimeout => true
  | .freeBurst _ => true
  | .sampleMessage _ => true
  | .wallSend => true
  | .wallMessage _ _ => true
  | .underrun c => carrOk c
  | .overrun c => carrOk c
  | .resume c => carrOk c
  | .slip p c => portOk p && carrOk c
  | .nonpcm p e => portOk p && decide (e < 4)
  | .nonpcmRelease p e => portOk p && decide (e < 4)
  | .contend p _ => portOk p
  | .syncInEdge => true
  | .ringEntry => true
  | .privWrite => true
  | .lock _ _ _ => true
  | .lockLost _ _ => true
  | .coastEnd _ _ _ => true
  | .coastLimit _ => true
  | .vcoCalTempTrig => true
  | .vcoCalStep _ _ _ => true
  | .slalomMove => true
  | .lockSenseMismatch _ => true
  | .alarm => true
  | .tempLimit point _ => decide (point < 7)
  | .coaxLimit _ _ => true
  | .logMirror _ => true
  | .faultTaken f more _ => faultOk f && more.all faultOk
  | .dump _ _ => true
  | .dumpTimeout _ => true
  | .bistSchedule => true
  | .migStateCopy => true
  | .migDone _ => true
  | .migAbort reason => decide (reason < 3)
  | .laneTestDone _ _ => true
  | .sampleTimeLatch _ => true
  | .busFree _ => true
  | .freeBurstRepeat => true

end Sys2Proof
end

