-- ==== Sys2Proof/Certificates/Slice0/Obligations.lean ====
section
/-! DEFINITION. The statements for the provers: what the commands of each family do, what every step keeps, how events,
counters, registers and the mailbox behave. -/
open Sys2Proof Sys2Proof.Machine

/-- A step is the command at the front of the queue, run with the queue's rest: the form of a step of a block. -/
def Obligations.StepRunsTheFront : Prop :=
  ∀ (c : Instr) (s : State) (l : List Instr), s.pending = c :: l → step s = exec c { s with pending := l }

/-- An idle step changes nothing: the model's choice, log entry 1. -/
def Obligations.EmptyQueueIdles : Prop := ∀ s : State, s.pending = [] → step s = .next s

/-- No command stops the part, and none adds or removes a waiting command. -/
def Obligations.EveryCommandCompletes : Prop :=
  ∀ (c : Instr) (s : State), ∃ t, exec c s = .next t ∧ t.pending = s.pending

/-- Memories stay in canonical form, so that equal contents are equal data. -/
def Obligations.StepKeepsMemoryCanonical : Prop :=
  ∀ s t : State, MemOk s → step s = .next t → MemOk t

/-- The reset state. -/
def Obligations.ResetState : Prop :=
  MemOk State.reset ∧ State.reset.pending = [] ∧ State.reset.mem = ⟨[], [], [], []⟩ ∧
    (∀ a, rd State.reset.chip a = resetWord a) ∧ rd State.reset.chip R.GEN_ID = 0x9604

/-- Sources number their events one by one (R28), and an event writes nothing but the log. -/
def Obligations.EventNumbering : Prop :=
  (∀ (x : Chip) (tick : BitVec 48) (src code : Nat) (args : List Byte) (c : Option CauseRef),
    let y := raiseAt x tick src code args c
    nextSeq y src = nextSeq x src + 1 ∧ (∀ j, j ≠ src → nextSeq y j = nextSeq x j) ∧ OnlyRegsLog [] x y) ∧
  (∀ (s : State) (kind cause src : Nat), nextSeq (coldReset s kind cause).chip src = 0 ∧ nextSeq (porReset s).chip src = 0)

/-- The layout of an event entry (R376). -/
def Obligations.EventEntryLayout : Prop :=
  ∀ (src code seq ep tick : Nat) (args : List Byte) (c : Option CauseRef), args.length ≤ 13 →
    let es := packEvent src code seq ep tick args c
    es.length = (if c = none ∧ args.length ≤ 4 then 1 else 2) ∧
    (es[0]?.map entryBytes = some (b1 src ++ b1 code ++ b2 seq ++ b2 ep ++ le 6 tick ++ pad 0 4 args)) ∧
    (∀ e, es[1]? = some e → entryBytes e = b1 src ++ b1 (code + 0x80) ++ b2 seq ++ pad 0 9 (args.drop 4) ++
      (match c with | some r => b1 r.src ++ b2 r.seq | none => [0xFF, 0, 0]))

/-- An entry placed in the ring (R378). -/
def Obligations.EventRing : Prop :=
  ∀ (x : Chip) (e : Entry),
    let n := (rd x R.MGMT_LOG_WR).toNat
    let y := pushEntry x e
    let age := fun i : Nat => (n + 2 ^ 32 - i) % 2 ^ 32
    (rd y R.MGMT_LOG_WR).toNat = (n + 1) % 2 ^ 32 ∧ logEntry y n = e ∧
    (∀ i, i < 2 ^ 32 → 1 ≤ age i → age i ≤ 2047 → logEntry y i = logEntry x i) ∧
    (∀ i, i < 2 ^ 32 → 2048 ≤ age i → i ≠ (n + 1) % 2 ^ 32 → logEntry y i = 0)

/-- The queue of a source while management does not run (R379). -/
def Obligations.FullEventQueueLoses : Prop :=
  ∀ (x : Chip) (tick : BitVec 48) (src code : Nat) (args : List Byte) (c : Option CauseRef), mgmtUp x = false →
    let y := raiseAt x tick src code args c
    nextSeq y src = nextSeq x src + 1 ∧ y.lg.ring = x.lg.ring ∧
    ((x.lg.queue.filter fun q => q.src == src).length < 8 →
      y.lg.queue = x.lg.queue ++ [⟨src, packEvent src code (nextSeq x src).toNat (epoch x) tick.toNat args c⟩] ∧
      rd y R.MGMT_LOG_LOST = rd x R.MGMT_LOG_LOST) ∧
    (8 ≤ (x.lg.queue.filter fun q => q.src == src).length →
      y.lg.queue = x.lg.queue ∧ rd y R.MGMT_LOG_LOST = rd x R.MGMT_LOG_LOST + 1)

/-- Counters and their wrap flags (R382). -/
def Obligations.CountersWrap : Prop :=
  ∀ (x : Chip) (a n : Nat) (w : Fld), w.addr ≠ a → w.width = 1 → w.lo < 32 →
    let y := count x a w n
    rd y a = BitVec.ofNat 32 ((rd x a).toNat + n) ∧
    fget y w = (if 2 ^ 32 ≤ (rd x a).toNat + n then 1 else fget x w) ∧ OnlyRegs [a, w.addr] x y

/-- The access types of R6. -/
def Obligations.WriteAccessTypes : Prop :=
  (∀ (x : Chip) (a : Nat) (v : Word) (r : RegRow) (i : Nat), regRow a = some r → i < 32 →
    (rd (plainWrite x a v) a).getLsbD i =
      ((if r.rw.testBit i then v.getLsbD i else (rd x a).getLsbD i) && !(v.getLsbD i && r.w1c.testBit i))) ∧
  (∀ (x : Chip) (a : Nat) (v : Word), OnlyRegs [a] x (plainWrite x a v)) ∧
  (∀ (x : Chip) (a : Nat) (v : Word), regRow a = none → plainWrite x a v = x)

/-- A register written whole (R473), and `wait_clr` (R464). -/
def Obligations.RegisterWriteAndWaitClear : Prop :=
  (∀ (o : Iface) (a : Nat) (v : Word) (b : BusObs) (s : State), regsUp s.chip = true →
    (0x100 ≤ a ∧ a < 0x180 ∨ a ∈ [R.GEN_SCRATCH 0, R.GEN_SCRATCH 1, R.GEN_SCRATCH 2, R.GEN_SCRATCH 3]) → a % 4 = 0 → isReg a = true →
    exec (.registerWrite o a v b) s = .next (onChip (fun x =>
      let y := noteWait x o b.ns
      plainWrite (if b.hits.contains a then count y R.GEN_COLLIDE_COUNT F.GEN_STATUS_collide_wrap 1 else y) a v) s)) ∧
  (∀ (o : Iface) (i : Nat) (v : Word) (b : BusObs) (s : State), regsUp s.chip = true → i < 4 →
    ∃ t, exec (.registerWrite o (R.GEN_SCRATCH i) v b) s = .next t ∧ rd t.chip (R.GEN_SCRATCH i) = v) ∧
  (∀ (o : Iface) (a : Nat) (v : Word) (b : BusObs) (s : State), isReg a = false ∨ regsUp s.chip = false →
    exec (.registerWrite o a v b) s = .next s) ∧
  (∀ s : State, regsUp s.chip = true → exec .waitClr s = .next (onChip (fun x => wr x R.GEN_WAIT 0) s)) ∧
  (∀ s : State, regsUp s.chip = false → exec .waitClr s = .next s)

/-- Accesses to a domain that is down (R476). -/
def Obligations.DownDomainAccess : Prop :=
  ∀ (s : State) (o : Iface) (a : Nat) (r : RegRow), regRow a = some r → downMask s.chip a r = 0xFFFFFFFF →
    (regView s.chip o a = resetWord a) ∧
    (∀ (v : Word) (b : BusObs), regsUp s.chip = true → a % 4 = 0 → a < 65536 → a ≠ R.MGMT_CMD →
      exec (.registerWrite o a v b) s = .next (onChip (fun x => downWrite (noteWait x o b.ns) a) s)) ∧
    (fget (downWrite s.chip a) F.GEN_DOWN_ADDR_addr = a % 65536) ∧
    (rd (downWrite s.chip a) R.GEN_DOWN_COUNT = rd s.chip R.GEN_DOWN_COUNT + 1)

/-- RL registers and their partners (R477): one row of the table for each RL register. -/
def Obligations.ReadsLatchTheirPartners : Prop :=
  (∀ (o : Iface) (ns : Nat) (s : State), regsUp s.chip = true →
    let y := noteWait s.chip o ns
    let latched := fun (t : State) (lo : Nat) (his : List Nat) => ChipOnly s t ∧ t.chip.regs = y.regs ∧
      smGet (fun _ => []) t.chip.rdata o.code = le 4 (regView y o lo).toNat ∧
      (∀ hi ∈ his, ∀ r, regRow hi = some r →
        smGet (fun _ => 0) t.chip.latch (latchKey o hi) = ownView y hi &&& ~~~ BitVec.ofNat 32 (downMask s.chip hi r)) ∧
      (∀ k, (∀ hi ∈ his, k ≠ latchKey o hi) → smGet (fun _ => 0) t.chip.latch k = smGet (fun _ => 0) s.chip.latch k)
    (∃ t, exec (.splEpochRead o ns) s = .next t ∧ latched t R.SPL_EPOCH_LO [R.SPL_EPOCH_HI]) ∧
    (∃ t, exec (.rtcTickRead o ns) s = .next t ∧ latched t R.RTC_TICK_LO [R.RTC_TICK_HI]) ∧
    (∃ t, exec (.rtcWallRead o ns) s = .next t ∧ latched t R.RTC_WALL_LO [R.RTC_WALL_HI]) ∧
    (∃ t, exec (.rtcSecondsRead o ns) s = .next t ∧ latched t R.RTC_SECONDS [R.RTC_WALL_HI]) ∧
    (∃ t, exec (.logDataRead o ns) s = .next t ∧
      latched t (R.MGMT_LOG_DATA 0) [R.MGMT_LOG_DATA 1, R.MGMT_LOG_DATA 2, R.MGMT_LOG_DATA 3]) ∧
    (∃ t, exec (.stimeRead o ns) s = .next t ∧ latched t R.MGMT_STIME_LO [R.MGMT_STIME_HI]) ∧
    (∃ t, exec (.stepRead o ns) s = .next t ∧ latched t R.MGMT_STEP_LO [R.MGMT_STEP_HI]) ∧
    (∃ t, exec (.serialRead o ns) s = .next t ∧ latched t R.FUSE_SERIAL_LO [R.FUSE_SERIAL_HI])) ∧
  (∀ (x : Chip) (o : Iface) (hi : Nat) (r : RegRow), regRow hi = some r → isPartner hi = true → downMask x hi r = 0 →
    regView x o hi = smGet (fun _ => 0) x.latch (latchKey o hi)) ∧
  (∀ (x : Chip), (wall x).toNat = (x.tm.ticks.toNat + x.tm.offset.toNat) % 2 ^ 48 ∧
    ownView x R.RTC_TICK_HI = BitVec.ofNat 32 (x.tm.ticks.toNat / 2 ^ 32) ∧
    ownView x R.RTC_WALL_HI = BitVec.ofNat 32 ((wall x).toNat / 2 ^ 32) ∧
    ownView x R.MGMT_STIME_HI = BitVec.ofNat 32 (x.tm.stime.toNat / 2 ^ 32) ∧
    ownView x R.SPL_EPOCH_HI = rd x R.SPL_EPOCH_HI ∧ ownView x R.MGMT_STEP_HI = rd x R.MGMT_STEP_HI ∧
    ownView x R.FUSE_SERIAL_HI = rd x R.FUSE_SERIAL_HI ∧
    (∀ i, i < 4 → ownView x (R.MGMT_LOG_DATA i) = logWord x i)) ∧
  (∀ k, smGet (fun _ => 0) State.reset.chip.latch k = 0)

/-- The life of a mailbox command (R362, R363). -/
def Obligations.MailboxLifecycle : Prop :=
  (∀ (o : Iface) (code : Nat) (s : State), fon s.chip F.MGMT_STATUS_busy = false → code < 256 →
    let t := begun o code s
    fget t.chip F.MGMT_CMD_code = code ∧ fget t.chip F.MGMT_CMD_owner = o.code ∧ fget t.chip F.MGMT_STATUS_busy = 1 ∧
    ChipOnly s t ∧ OnlyRegs [R.MGMT_CMD, R.MGMT_STATUS] s.chip t.chip) ∧
  (∀ (status len : Nat) (s : State), status < 256 → len ≤ 4096 →
    let t := finished status len s
    fget t.chip F.MGMT_STATUS_busy = 0 ∧ fget t.chip F.MGMT_STATUS_status = status ∧ fget t.chip F.MGMT_STATUS_len = len ∧
    fget t.chip F.MGMT_INT_CAUSE_mbox = 1 ∧ rd t.chip R.MGMT_CMD_COUNT = rd s.chip R.MGMT_CMD_COUNT + 1 ∧
    rd t.chip R.MGMT_CMD_TIME = Config.freeWord s.chip.freeCount ∧ ChipOnly s t ∧
    t.chip = { s.chip with regs := t.chip.regs, freeCount := s.chip.freeCount + 1 } ∧
    (∀ b, b ∉ [R.MGMT_STATUS, R.MGMT_CMD_TIME, R.MGMT_INT_CAUSE, R.MGMT_CMD_COUNT, R.MGMT_FAULT_STATUS] →
      rd t.chip b = rd s.chip b)) ∧
  (∀ (code : Nat) (o : Iface) (body : State → MRes) (s : State), mgmtUp s.chip = true →
    (mboxClosed s.chip = true ∨ (fon s.chip F.MGMT_STATUS_busy = true ∧ fget s.chip F.MGMT_CMD_code ≠ code)) →
    mailbox code o body s = onChip (fun x => fset x F.MGMT_STATUS_refused 1) s) ∧
  (∀ (code : Nat) (o : Iface) (body : State → MRes) (s : State), mgmtUp s.chip = false → mailbox code o body s = s) ∧
  (∀ (code : Nat) (o : Iface) (body : State → MRes) (s : State), s.chip.pw.phase = .halted → code ∉ [0x00, 0x01, 0x02, 0x05, 0x07] →
    (fon s.chip F.MGMT_STATUS_busy = true → fget s.chip F.MGMT_CMD_code = code) →
    mailbox code o body s = finished 0x06 0 (begun o code s)) ∧
  (∀ (o : Iface) (s : State), s.chip.pw.phase = .recovery → mboxClosed s.chip = false → fon s.chip F.MGMT_STATUS_busy = false →
    exec (.logRead o) s = .next (finished 0x06 0 (begun o 0x02 s)) ∧
    exec (.powerSet o) s = .next (finished 0x06 0 (begun o 0x18 s)) ∧
    exec (.storeErase o) s = .next (finished 0x06 0 (begun o 0x22 s)) ∧
    exec (.followSet o) s = .next (finished 0x06 0 (begun o 0x40 s)))

/-- General mailbox commands (R366). -/
def Obligations.GeneralMailboxCommands : Prop :=
  (∀ (o : Iface) (s : State), MboxServes s.chip 0x00 → exec (.nop o) s = .next (finished 0x00 0 (begun o 0x00 s))) ∧
  (∀ (o : Iface) (s : State), MboxServes s.chip 0x01 →
    let t := begun o 0x01 s
    let x := t.chip
    exec (.getInfo o) s = .next (finished 0x00 32 (putWin t 0
      (le 4 (rd x R.GEN_ID).toNat ++ le 4 (rd x R.GEN_REV).toNat ++ le 4 (rd x R.MGMT_FW_VER).toNat
        ++ le 4 (rd x R.FUSE_SERIAL_LO).toNat ++ le 4 (rd x R.FUSE_SERIAL_HI).toNat ++ le 1 (fget x F.GEN_ROLE_role)
        ++ le 1 (fget x F.GEN_CAPACITY_lanes) ++ le 1 (fget x F.STORE_FW_slot) ++ [0, 0, 0, 0, 0, 0, 0, 0, 0])))) ∧
  (∀ (o : Iface) (s : State), MboxServes s.chip 0x05 →
    exec (.crumbRead o) s = .next (match s.chip.ft.crumb with
      | some c => finished 0x00 64 (putWin (begun o 0x05 s) 0 c)
      | none => finished 0x00 0 (begun o 0x05 s))) ∧
  (∀ (o : Iface) (s : State), MboxServes s.chip 0x06 →
    exec (.crumbClear o) s = .next (finished 0x00 0 (onChip (fun x =>
      fset { x with ft := { x.ft with crumb := none } } F.GEN_RESET_CAUSE_crumb 0) (begun o 0x06 s)))) ∧
  (∀ (o : Iface) (s : State), MboxServes s.chip 0x07 →
    exec (.dumpInfo o) s = .next (if dumpHeld (begun o 0x07 s)
      then finished 0x00 64 (putWin (begun o 0x07 s) 0 (flashBytes (begun o 0x07 s) 6 0 64))
      else finished 0x00 0 (begun o 0x07 s))) ∧
  (∀ (o : Iface) (code : Nat) (s : State), code < 256 → knownCode code = false → MboxServes s.chip code →
    exec (.unknownCmdCode o code) s = .next (finished 0x05 0 (begun o code s)))

/-- LOG_READ (R366). -/
def Obligations.LogReadCommand : Prop :=
  ∀ (o : Iface) (s : State), MboxServes s.chip 0x02 →
    let t := begun o 0x02 s
    let x := t.chip
    let w := (rd x R.MGMT_LOG_WR).toNat
    let age := fun i : Nat => (w + 2 ^ 32 - i) % 2 ^ 32
    let oldest := (w + 2 ^ 32 - x.lg.ring.length) % 2 ^ 32
    let n := arg x 1
    let f := if x.lg.ring.length < age (arg x 0) ∧ age (arg x 0) < 2 ^ 31 then oldest else arg x 0
    let k := if age f < 2 ^ 31 then min n (age f) else 0
    (256 < n → exec (.logRead o) s = .next (finished 0x05 0 t)) ∧
    (n = 0 → exec (.logRead o) s = .next (finished 0x00 0 (onChip (fun x => setArgs x [(0, oldest), (1, w)]) t))) ∧
    (1 ≤ n → n ≤ 256 → exec (.logRead o) s = .next (finished 0x00 (16 * k)
      (onChip (fun _ => setArgs x [(0, f), (1, k)])
        (putWin t 0 ((List.range k).flatMap fun i => entryBytes (logEntry x ((f + i) % 2 ^ 32)))))))

/-- Setting and reading wall time (R366, R369). -/
def Obligations.TimeCommands : Prop :=
  (∀ (o : Iface) (s : State), MboxServes s.chip 0x03 →
    let t := begun o 0x03 s
    exec (.timeSet o) s = .next (finished 0x00 0 (onChip (fun x =>
      setWall x 1 (BitVec.ofNat 48 (arg x 0 + 2 ^ 32 * (arg x 1 % 2 ^ 16)))) t))) ∧
  (∀ (o : Iface) (s : State), MboxServes s.chip 0x04 →
    exec (.timeGet o) s = .next (finished 0x00 0 (onChip (fun x => setArgs x
      [(0, x.tm.ticks.toNat % 2 ^ 32), (1, x.tm.ticks.toNat / 2 ^ 32), (2, (wall x).toNat % 2 ^ 32), (3, (wall x).toNat / 2 ^ 32),
        (4, fget x F.RTC_EPOCH_e), (5, x.tm.stime.toNat % 2 ^ 32), (6, x.tm.stime.toNat / 2 ^ 32)]) (begun o 0x04 s)))) ∧
  (∀ (v : Word) (s : State), mgmtUp s.chip = true →
    ∃ t, exec (.rtcSecondsWrite v) s = .next t ∧ ChipOnly s t ∧
      wall t.chip = BitVec.ofNat 48 (v.toNat * 2 ^ 15 + fget s.chip F.RTC_CTRL_s47 * 2 ^ 47) ∧
      t.chip.tm.ticks = s.chip.tm.ticks) ∧
  (∀ (x : Chip) (origin : Nat) (target : BitVec 48),
    wall (setWall x origin target) = target ∧ (setWall x origin target).tm.ticks = x.tm.ticks ∧
    (target = wall x → setWall x origin target = x))

/-- The step rules (R370). -/
def Obligations.TimeStepEffects : Prop :=
  ∀ (x : Chip) (origin : Nat) (target : BitVec 48),
    let d : Int := (target - wall x).toInt
    let e := fget x F.RTC_EPOCH_e
    let y := setWall x origin target
    let z := setCause (fset (wr (wr { x with tm := { x.tm with offset := target - x.tm.ticks } } R.MGMT_STEP_LO (BitVec.ofInt 32 d))
      R.MGMT_STEP_HI (BitVec.ofInt 32 (d / 2 ^ 32))) F.RTC_STATUS_stepped 1) .time
    y.tm.ticks = x.tm.ticks ∧ y.tm.stime = x.tm.stime ∧ (d = 0 → y = x) ∧
    (d ≠ 0 → rd y R.MGMT_STEP_LO = BitVec.ofInt 32 d ∧ rd y R.MGMT_STEP_HI = BitVec.ofInt 32 (d / 2 ^ 32) ∧
      fget y F.RTC_STATUS_stepped = 1 ∧ fget y F.MGMT_INT_CAUSE_time = 1) ∧
    (0 < d → fget y F.RTC_EPOCH_e = e ∧ y = raise z srcRtc 0x02 (b1 origin ++ leInt 6 d)) ∧
    (d < 0 → fget y F.RTC_EPOCH_e = (e + 1) % 65536 ∧ fget y F.RTC_STATUS_back = 1 ∧
      y = raise (raise (fset (fset z F.RTC_EPOCH_e (e + 1)) F.RTC_STATUS_back 1) srcRtc 0x02 (b1 origin ++ leInt 6 d))
        srcRtc 0x03 (b2 e ++ b2 (e + 1)))

/-- The alarm (R372). -/
def Obligations.AlarmCommands : Prop :=
  (∀ s : State, mgmtUp s.chip = true → fon s.chip F.RTC_CTRL_arm = false →
    let a := BitVec.ofNat 48 ((rd s.chip R.RTC_ALARM_LO).toNat + 2 ^ 32 * fget s.chip F.RTC_ALARM_HI_a)
    let d := (a - s.chip.tm.ticks).toNat
    exec .rtcArm s = .next (onChip (fun x => fset { x with tm := { x.tm with
      alarm := some (a, if 1 ≤ d ∧ d < 2 ^ 47 then a else x.tm.ticks + 1) } } F.RTC_CTRL_arm 1) s)) ∧
  (∀ s : State, mgmtUp s.chip = false ∨ fon s.chip F.RTC_CTRL_arm = true → exec .rtcArm s = .next s) ∧
  (∀ s : State, mgmtUp s.chip = true →
    exec .rtcDisarm s = .next (onChip (fun x => fset { x with tm := { x.tm with alarm := none } } F.RTC_CTRL_arm 0) s)) ∧
  (∀ (s : State) (a fire : BitVec 48), s.chip.tm.alarm = some (a, fire) → (s.chip.tm.ticks - fire).toNat < 2 ^ 47 →
    ∃ t, exec .alarm s = .next (if s.chip.pw.phase = .glide ∧ fon s.chip F.SUP_GLIDE_CFG_rtc_wake = true then wakeUp t 3 0 else t) ∧
      ChipOnly s t ∧ t.chip.tm.alarm = none ∧ fget t.chip F.RTC_CTRL_arm = 0 ∧ fget t.chip F.RTC_STATUS_fired = 1 ∧
      (mgmtUp s.chip = true → t = onChip (fun x => raise (setCause (fsets { x with tm := { x.tm with alarm := none } }
        [(F.RTC_CTRL_arm, 0), (F.RTC_STATUS_fired, 1)]) .rtc) srcRtc 0x01 (b4 a.toNat)) s) ∧
      (mgmtUp s.chip = false → t.chip.tm.alarmMissed = some a)) ∧
  (∀ s : State, (∀ a fire, s.chip.tm.alarm = some (a, fire) → 2 ^ 47 ≤ (s.chip.tm.ticks - fire).toNat) → exec .alarm s = .next s)

/-- The tick and the sample-time latch (R355). -/
def Obligations.SampleTimeLatch : Prop :=
  ∀ (counts : Nat) (s : State),
    let m := s.chip.tm
    let n := m.ticks + 1
    (∀ (x : Chip), (∀ e ∈ x.follows, e.2.undo = none) → undosEnd x = x) ∧
    (∀ (x : Chip) (p : Nat) (r : Follow) (o : Undo), smFind p x.follows = some r → r.undo = some o →
      (0 < (o.ends - x.tm.stime).toInt → undoEnd p x = x) ∧
      ((o.ends - x.tm.stime).toInt ≤ 0 → r.cands.find? (fun c => c.idx == o.idx) = none →
        undoEnd p x = { x with follows := smInsert p { r with undo := none } x.follows })) ∧
    ∃ u : Time, exec (.sampleTimeLatch counts) s = .next (onChip (fun x => undosEnd { x with tm := u }) s) ∧ u.ticks = n ∧
      u.offset = m.offset ∧ u.alarm = m.alarm ∧
      (m.stimeHeld = false → m.clockRun = true →
        u.stime = m.stime + BitVec.ofNat 64 counts ∧ u.latchF = u.stime ∧ u.latchT = n ∧ u.stimeHeld = false) ∧
      (m.stimeHeld = true → (m.clockRun = false ∨ (n - m.latchT).toNat < 2) → u.stime = m.stime ∧ u.stimeHeld = true) ∧
      (m.stimeHeld = true → m.clockRun = true → 2 ≤ (n - m.latchT).toNat →
        u.stime = m.latchF + BitVec.ofNat 64 ((125 * (n - m.latchT).toNat + 1) / 2) ∧ u.stimeHeld = false ∧
        u.latchF = u.stime ∧ u.latchT = n)

/-- Sensor limits (R375). -/
def Obligations.SensorCommands : Prop :=
  (∀ s : State, mgmtUp s.chip = true → exec .sensPeakClr s = .next (onChip (fun x => wr x R.SENS_PEAK (resetWord R.SENS_PEAK)) s)) ∧
  (∀ (p : Nat) (temp : Int) (s : State), p < 7 → mgmtUp s.chip = true → -32768 ≤ temp → temp ≤ 32767 →
    ∃ t, exec (.tempLimit p temp) s = .next t ∧ ChipOnly s t ∧ pointTemp t.chip p = temp ∧
      (∀ q, q < 7 → q ≠ p → pointTemp t.chip q = pointTemp s.chip q) ∧
      (16 * ((fget s.chip F.SENS_TLIM_warn : Int) - 64) < hottest t.chip → t.chip.sens.warn = true) ∧
      (hottest t.chip ≤ 16 * ((fget s.chip F.SENS_TLIM_warn : Int) - 64) - 48 → t.chip.sens.warn = false) ∧
      (16 * ((fget s.chip F.SENS_TLIM_err : Int) - 64) < hottest t.chip → t.chip.sens.err = true) ∧
      (hottest t.chip ≤ 16 * ((fget s.chip F.SENS_TLIM_err : Int) - 64) - 48 → t.chip.sens.err = false)) ∧
  (∀ (mv ma : Nat) (s : State), mgmtUp s.chip = true →
    ∃ t, exec (.coaxLimit mv ma) s = .next t ∧ ChipOnly s t ∧
      fget t.chip F.SENS_COAX_mv = min mv 0xFFFF ∧ fget t.chip F.SENS_COAX_ma = min ma 0xFFFF ∧
      (mv < 100 * fget s.chip F.SENS_VLIM_lo → t.chip.sens.vlo = true) ∧
      (100 * fget s.chip F.SENS_VLIM_lo + 200 ≤ mv → t.chip.sens.vlo = false) ∧
      (100 * fget s.chip F.SENS_VLIM_hi < mv → t.chip.sens.vhi = true) ∧
      (mv + 200 ≤ 100 * fget s.chip F.SENS_VLIM_hi → t.chip.sens.vhi = false) ∧
      (10 * fget s.chip F.SENS_ILIM_hi < ma → t.chip.sens.ihi = true) ∧
      (ma + 50 ≤ 10 * fget s.chip F.SENS_ILIM_hi → t.chip.sens.ihi = false))

/-- POWER_SET (R349). -/
def Obligations.PowerSetCommand : Prop :=
  ∀ (o : Iface) (s : State), MboxServes s.chip 0x18 →
    let t := begun o 0x18 s
    let g := arg t.chip 0
    let pinOnly := arg t.chip 1 % 2 = 1
    let from_ := pstate t.chip
    let armed := fon t.chip F.LINK_WSP_CFG_wake_en = true ∨ fon t.chip F.TWB_CFG_glide_match = true ∨
      (fon t.chip F.RTC_CTRL_arm = true ∧ fon t.chip F.SUP_GLIDE_CFG_rtc_wake = true)
    let x1 := fsets { t.chip with pw := { t.chip.pw with trans := some ⟨g, 0, t.chip.tm.ticks⟩ } } [(F.SUP_STATE_busy, 1), (F.SUP_STATE_target, g)]
    (3 < g → exec (.powerSet o) s = .next (finished 0x05 0 t)) ∧
    (g ≤ 3 → t.chip.pw.trans ≠ none → exec (.powerSet o) s = .next (finished 0x01 0 t)) ∧
    (g ≤ 3 → t.chip.pw.trans = none → g = from_ → exec (.powerSet o) s = .next (finished 0x00 0 t)) ∧
    (g = 3 → t.chip.pw.trans = none → g ≠ from_ → ¬pinOnly → ¬armed → exec (.powerSet o) s = .next (finished 0x06 0 t)) ∧
    (g ≤ 3 → t.chip.pw.trans = none → g ≠ from_ → (g ≠ 3 ∨ pinOnly ∨ armed) →
      ∃ x2, exec (.powerSet o) s = .next (finished 0x00 0 { t with chip := if 2 ≤ g ∧ from_ ≤ 1 then portsStop (linkLeave x2 true) else x2 }) ∧
        x2 = (if from_ = 0 then activeStop x1 else x1))

/-- A power state is reached (R350). -/
def Obligations.StateReachedCommand : Prop :=
  (∀ (s : State) (tr : Trans), s.chip.pw.trans = some tr → mgmtUp s.chip = true →
    let us := (s.chip.tm.ticks - tr.start).toNat * 100000 / 32768
    let u := onChip cpTrain (reachState (onChip (fun x => fset x F.SUP_TRANS_TIME_us (min us (2 ^ 16 - 1))) s) (pstate s.chip) tr.target tr.origin)
    exec .stateReached s = .next (if tr.target = 3 then enterGlide u else u)) ∧
  (∀ (s : State) (old origin : Nat), old ≤ 1 → reachState s old 2 origin =
    clearCarriage (onChip (fun x => standbyDown (clkOutputs (raise (count
      (fsets { x with pw := { x.pw with trans := none } } [(F.SUP_STATE_state, 2), (F.SUP_STATE_target, 2), (F.SUP_STATE_busy, 0)])
      R.SUP_STATE_COUNT (F.SUP_STATUS_wrap.bit 4) 1) srcSup 0x03 (b1 old ++ b1 2 ++ b1 origin)))) s)) ∧
  (∀ s : State, s.chip.pw.wake = none → (enterGlide s).chip.pw.phase = .glide ∧ (enterGlide s).chip.tm.clockRun = false ∧
    (enterGlide s).chip.pw.glideStart = s.chip.tm.ticks ∧ (enterGlide s).chip.regs = s.chip.regs ∧
    (∀ j ∈ (enterGlide s).chip.store.jobs, j.left = true) ∧ ChipOnly s (enterGlide s)) ∧
  (∀ s : State, s.chip.pw.trans = none ∨ mgmtUp s.chip = false → exec .stateReached s = .next s)

/-- The early warning and the over-voltage (R343 to R345). -/
def Obligations.EarlyWarningCommands : Prop :=
  (∀ (coax hold : Nat) (s : State), converterOn s.chip = true → ewOn s.chip = false → coax < 8000 →
    exec (.ew coax hold) s = .next (onChip (fun x =>
      let x1 := raise (count (fsets { x with pw := { x.pw with ewStart := some x.tm.ticks, holdMin := hold, pgood := false } }
        [(F.SUP_STATUS_ew, 1), (F.SUP_STATUS_ew_seen, 1)]) R.SUP_EW_COUNT (F.SUP_STATUS_wrap.bit 0) 1) srcSup 0x01
        (b2s (coax / 10) ++ b2s (hold / 10) ++ b1 (pstate x))
      bistPauseShow (if pstate x ≤ 1 then after srcSup shedLoad (setCause x1 .supply) else setCause x1 .supply)) s)) ∧
  (∀ (coax hold : Nat) (s : State), converterOn s.chip = false ∨ ewOn s.chip = true ∨ 8000 ≤ coax → exec (.ew coax hold) s = .next s) ∧
  (∀ (coax vmin : Nat) (s : State), converterOn s.chip = true → ewOn s.chip = true → 8500 ≤ coax → 4000 ≤ vmin →
    ∃ y, exec (.ewClear coax vmin) s = .next (cpDrain (onChip (fun _ => feedsLowAt coax
        (if shed s.chip then after srcSup (fun z => linkAuto (rfStart z)) y else y)) s)) ∧
      (shed s.chip = false → rd y R.SUP_SHED_TIME = rd s.chip R.SUP_SHED_TIME) ∧
      (shed s.chip = true → fget y F.SUP_SHED_TIME_vmin = min (min s.chip.pw.holdMin vmin / 10) 65535) ∧
      y.pw = { s.chip.pw with ewStart := none, holdMin := min s.chip.pw.holdMin vmin } ∧
      fget y F.SUP_STATUS_ew = 0 ∧ fget y F.SUP_STATUS_shed = 0) ∧
  (∀ (coax vmin : Nat) (s : State), converterOn s.chip = false ∨ ewOn s.chip = false ∨ coax < 8500 ∨ vmin < 4000 →
    exec (.ewClear coax vmin) s = .next (cpDrain s)) ∧
  (∀ (mv : Nat) (s : State), converterOn s.chip = true → 19500 < mv →
    exec (.overvolt mv) s = .next (onChip (fun x => feedsLowAt mv (setCause (raise (count (fset x F.SUP_STATUS_ov 1) R.SUP_OV_COUNT
      (F.SUP_STATUS_wrap.bit 3) 1) srcSup 0x04 (b2s (mv / 10))) .supply)) s)) ∧
  (∀ (mv : Nat) (s : State), converterOn s.chip = false ∨ mv ≤ 19500 → exec (.overvolt mv) s = .next s)

/-- A start's reset (R353, R357). -/
def Obligations.ColdResetContents : Prop :=
  ∀ (s : State) (kind cause : Nat), kind < 8 → cause < 16 →
    let t := coldReset s kind cause
    fget t.chip F.GEN_RESET_CAUSE_kind = kind ∧ fget t.chip F.GEN_RESET_CAUSE_cause = cause ∧
    (∀ a r, regRow a = some r → a ≠ R.GEN_RESET_CAUSE → domMask r .k = 0 → rd t.chip a = resetWord a) ∧
    (∀ a r, regRow a = some r → a ≠ R.GEN_RESET_CAUSE → domMask r .m = 0 → domMask r .d = 0 → domMask r .lane = 0 →
      rd t.chip a = rd s.chip a) ∧
    t.chip.tm = { s.chip.tm with clockRun := false, stimeHeld := true } ∧ t.chip.fuse = s.chip.fuse ∧
    t.chip.ft = { Chip.reset.ft with crumb := s.chip.ft.crumb, doubles := s.chip.ft.doubles } ∧
    t.mem = { Mem.reset with flash := s.mem.flash } ∧ t.chip.lg = ⟨[], [], [], 0, none⟩ ∧ t.chip.lanes = [] ∧ t.chip.follows = [] ∧
    t.chip.carr = [] ∧ t.chip.staged = [] ∧ t.chip.store.jobs = [] ∧ t.pending = s.pending ∧
    t.chip.pw.phase = (if s.chip.pw.nrst then .resetHeld else if s.chip.pw.pgood then .starting else .waitPower)

/-- The commands that reset the part (R353). -/
def Obligations.ResetCommands : Prop :=
  (∀ s : State, ∃ t, exec .por s = .next t ∧ t.mem = { Mem.reset with flash := s.mem.flash } ∧ t.pending = s.pending ∧
    (∀ a, rd t.chip a = resetWord a) ∧ t.chip.tm.ticks = 0 ∧ t.chip.tm.offset = 0 ∧ t.chip.tm.stime = 0 ∧ t.chip.fuse = s.chip.fuse ∧
    t.chip.ft = Chip.reset.ft ∧ t.chip.pw.phase = (if s.chip.pw.nrst then .resetHeld else .waitPower)) ∧
  (∀ s : State, s.chip.pw.phase ≠ .glide → s.chip.pw.phase ≠ .waitPower →
    exec .bor s = .next (onChip (fun x => count x R.SUP_BOR_COUNT (F.SUP_STATUS_wrap.bit 1) 1)
      (coldReset (onChip (fun x => { x with pw := { x.pw with pgood := false } }) s) 1 0))) ∧
  (∀ s : State, s.chip.pw.phase = .glide ∨ s.chip.pw.phase = .waitPower → exec .bor s = .next s) ∧
  (∀ (rail : Nat) (s : State), rail < 3 → converterOn s.chip = true →
    exec (.railLow rail) s = .next (onChip (fun x => count (count x R.SUP_BOR_COUNT (F.SUP_STATUS_wrap.bit 1) 1)
      R.SUP_RAIL_FAULT_COUNT (F.SUP_STATUS_wrap.bit 2) 1)
      (coldReset (onChip (fun x => { x with pw := { x.pw with rail := some rail } }) s) 1 1))) ∧
  (∀ s : State, s.chip.pw.nrst = false →
    let u := onChip (fun x => { x with pw := { x.pw with nrst := true } }) s
    exec .nrstLow s = .next (if s.chip.pw.phase = .glide then u else coldReset u 2 0)) ∧
  (∀ s : State, s.chip.pw.nrst = true →
    let u := onChip (fun x => { x with pw := { x.pw with nrst := false } }) s
    exec .nrstLow s = .next s ∧
    (s.chip.pw.phase = .glide → exec .nrstRelease s = .next (glideExit u 4)) ∧
    (s.chip.pw.phase ≠ .glide → exec .nrstRelease s = .next (onChip (fun x =>
      { x with pw := { x.pw with phase := if x.pw.pgood then .starting else .waitPower } }) u))) ∧
  (∀ s : State, s.chip.pw.nrst = false → exec .nrstRelease s = .next s) ∧
  (∀ s : State, mgmtUp s.chip = true →
    (∃ t, exec .wdtExpiry s = .next t ∧ fget t.chip F.GEN_RESET_CAUSE_kind = 3 ∧ fget t.chip F.GEN_RESET_CAUSE_cause = 0 ∧
      rd t.chip R.SUP_WDT_COUNT = rd s.chip R.SUP_WDT_COUNT + 1 ∧ t.mem = { Mem.reset with flash := s.mem.flash } ∧ t.pending = s.pending) ∧
    exec .wdtExpiry s = .next (onChip (fun x => count x R.SUP_WDT_COUNT (F.SUP_STATUS_wrap.bit 5) 1) (coldReset s 3 0)) ∧
    exec .genResetFull s = .next (coldReset s 4 0)) ∧
  (∀ s : State, mgmtUp s.chip = true → dUp s.chip = true →
    exec .genResetDatapath s = .next { s with chip := dataReset s.chip 0, mem := { s.mem with cmem := [] } }) ∧
  (∀ s : State, mgmtUp s.chip = true → dUp s.chip = false → exec .genResetDatapath s = .next s) ∧
  (∀ s : State, exec .coaxPowerGood s = .next (onChip (fun x => { x with pw := { x.pw with
    pgood := true, phase := if x.pw.phase = .waitPower then (if x.pw.nrst then .resetHeld else .starting) else x.pw.phase } }) s))

/-- A start (R397). -/
def Obligations.StartCommand : Prop :=
  (∀ (o : StartObs) (s : State), s.chip.pw.phase = .starting → o.straps % 4 = 0 →
    ∃ t, exec (.start o) s = .next t ∧ ChipOnly s t ∧ t.chip.pw = { s.chip.pw with phase := .strapHeld, strapInvalid := true } ∧
      t.chip.lg = s.chip.lg ∧ fget t.chip F.FUSE_STATUS_mirror_ok = 1) ∧
  (∀ (o : StartObs) (s : State), s.chip.pw.phase = .starting → o.straps % 4 ≠ 0 → s.chip.fuse.roleLock ≠ 0 →
    s.chip.fuse.roleLock ≠ o.straps % 4 →
    ∃ t, exec (.start o) s = .next t ∧ ChipOnly s t ∧ t.chip.pw = { s.chip.pw with phase := .roleHeld, roleLocked := some (o.straps % 4) } ∧
      t.chip.lg = s.chip.lg ∧ fget t.chip F.FUSE_STATUS_mirror_ok = 1) ∧
  (∀ (o : StartObs) (s : State), s.chip.pw.phase = .starting → o.straps % 4 ≠ 0 →
    s.chip.fuse.roleLock = 0 ∨ s.chip.fuse.roleLock = o.straps % 4 → exec (.start o) s = .next (startRun s o)) ∧
  (∀ (o : StartObs) (s : State), s.chip.pw.phase = .starting → o.straps % 4 ≠ 0 →
    s.chip.fuse.roleLock = 0 ∨ s.chip.fuse.roleLock = o.straps % 4 →
    (∃ t, exec (.start o) s = .next t ∧ t.pending = s.pending ∧ t.chip.fuse = s.chip.fuse) ∧
    (storeUsable o = false → ∃ t, exec (.start o) s = .next t ∧ t.mem = s.mem ∧ t.chip.pw.phase = .recovery ∧
      pstate t.chip = 2 ∧ fget t.chip F.STORE_STATUS_recovery = 1)) ∧
  (∀ (o : StartObs) (s : State), storeUsable o = false →
    (startRun s o).chip.pw.phase = .recovery ∧ (startRun s o).mem = s.mem ∧ (startRun s o).pending = s.pending) ∧
  (∀ (o : StartObs) (s : State), s.chip.pw.phase ≠ .starting → exec (.start o) s = .next s)

/-- Over-range and snowplough (R53 to R57). -/
def Obligations.OverRangeAndSnowplough : Prop :=
  (∀ (a tm : Nat) (s : State), a < 4 → ainPowered s.chip a = true →
    exec (.ovr a tm) s = .next (onChip (fun x =>
      let x1 := count (wr (fset x (F.AIN_STATUS_ovr a) 1) (R.AIN_OVR_TIME a) (BitVec.ofNat 32 tm)) (R.AIN_OVR_COUNT a) (F.AIN_STATUS_ovr_wrap a) 1
      taintWindow (raise (setAin x1 a { ainOf x1 a with satLogged := false }) (srcAin a) 0x01 (b4 tm)) a (sampleAt x tm) 8000) s)) ∧
  (∀ (a ns : Nat) (w : Int) (x : Chip), a < 4 →
    let y := taintWindow x a w ns
    (∀ u, w ≤ u → u ≤ w + ofNs ns → heldAt (ainOf y a).taints 0 u = true) ∧
    (ainOf y a).caused = max (w + ofNs ns) (ainOf x a).caused ∧
    rd y (R.SPL_TAINT a) = rd x (R.SPL_TAINT a) +
      BitVec.ofNat 32 (framesIn x a (max (w - 1) (ainOf x a).caused) (w + ofNs ns)) ∧
    OnlyRegsAin [R.SPL_TAINT a, R.SPL_STATUS] x y) ∧
  (∀ (a tm : Nat) (s : State), a < 4 → ainPowered s.chip a = true → fon s.chip (F.AIN_CFG_snow_en a) = true →
    fget s.chip (F.AIN_ATT_total a) < 15 →
    ∃ t, exec (.snowStep a tm false) s = .next t ∧ ChipOnly s t ∧
      fget t.chip (F.AIN_STATUS_ovr a) = 1 ∧ rd t.chip (R.AIN_OVR_TIME a) = BitVec.ofNat 32 tm ∧
      fget t.chip (F.AIN_ATT_snow a) = min (15 - planActing s.chip a) (fget s.chip (F.AIN_ATT_snow a) + 3) ∧
      fget t.chip (F.AIN_ATT_total a) = min 15 (planActing s.chip a + fget t.chip (F.AIN_ATT_snow a)) ∧
      rd t.chip (R.AIN_SNOW_COUNT a) = rd s.chip (R.AIN_SNOW_COUNT a) + 1 ∧
      nextSeq t.chip (srcAin a) = nextSeq s.chip (srcAin a) + 1 ∧
      OnlyRegsAin [R.AIN_ATT a, R.AIN_STATUS a, R.AIN_SNOW_COUNT a, R.AIN_OVR_TIME a, R.SPL_TAINT a, R.SPL_STATUS]
        s.chip t.chip) ∧
  (∀ (a tm : Nat) (s : State), a < 4 → ainPowered s.chip a = true → fon s.chip (F.AIN_CFG_snow_en a) = true →
    fget s.chip (F.AIN_ATT_total a) = 15 →
    ∃ t, exec (.snowStep a tm false) s = .next t ∧ ChipOnly s t ∧
      fget t.chip (F.AIN_STATUS_ovr a) = 1 ∧ rd t.chip (R.AIN_OVR_TIME a) = BitVec.ofNat 32 tm ∧
      fget t.chip (F.AIN_STATUS_att_sat a) = 1 ∧ fget t.chip F.MGMT_INT_CAUSE_ain = 1 ∧
      nextSeq t.chip (srcAin a) = nextSeq s.chip (srcAin a) + (if (ainOf s.chip a).satLogged then 0 else 1) ∧
      (ainOf t.chip a).satLogged = true ∧
      OnlyRegsAin [R.AIN_STATUS a, R.AIN_OVR_TIME a, R.SPL_TAINT a, R.SPL_STATUS] s.chip t.chip) ∧
  (∀ (a tm : Nat) (near : Bool) (s : State), a < 4 → ainPowered s.chip a = true →
    (near = true ∨ fon s.chip (F.AIN_CFG_snow_en a) = false) →
    exec (.snowStep a tm near) s = .next (onChip (fun x => taintWindow (wr (fset x (F.AIN_STATUS_ovr a) 1) (R.AIN_OVR_TIME a)
      (BitVec.ofNat 32 tm)) a (sampleAt x tm) 8000) s)) ∧
  (∀ (a : Nat) (s : State), a < 4 → ainPowered s.chip a = true → fget s.chip (F.AIN_ATT_snow a) ≠ 0 →
    ∃ t, exec (.snowRelease a) s = .next t ∧ ChipOnly s t ∧
      fget t.chip (F.AIN_ATT_snow a) = fget s.chip (F.AIN_ATT_snow a) - 1 ∧
      fon t.chip (F.AIN_STATUS_snow a) = decide (fget s.chip (F.AIN_ATT_snow a) ≠ 1) ∧
      rd t.chip (R.AIN_SNOW_COUNT a) = rd s.chip (R.AIN_SNOW_COUNT a) + 1 ∧
      OnlyRegsAin [R.AIN_ATT a, R.AIN_STATUS a, R.AIN_SNOW_COUNT a] s.chip t.chip) ∧
  (∀ (a : Nat) (s : State), a < 4 → ainPowered s.chip a = true → fget s.chip (F.AIN_ATT_snow a) = 0 → exec (.snowRelease a) s = .next s) ∧
  (∀ (a tm : Nat) (near : Bool) (s : State), ainPowered s.chip a = false →
    exec (.ovr a tm) s = .next s ∧ exec (.snowStep a tm near) s = .next s ∧ exec (.snowRelease a) s = .next s)

/-- Feed switch and input enables (R40 to R46, R52). -/
def Obligations.FeedCommands : Prop :=
  (∀ (a mv : Nat) (s : State), a < 4 → feedJust s.chip a = true → fon s.chip (F.AIN_STATUS_feed_short a) = false →
    exec (.feedShort a mv) s = .next (onChip (fun x => raise (setCause (fset (feedTrip x a) (F.AIN_STATUS_feed_short a) 1) .ain)
      (srcAin a) 0x08 (b2s mv)) s)) ∧
  (∀ (a mv : Nat) (s : State), a < 4 → feedJust s.chip a = true → fon s.chip (F.AIN_STATUS_feed_back a) = false →
    exec (.feedBack a mv) s = .next (onChip (fun x => raise (setCause (fset (feedTrip x a) (F.AIN_STATUS_feed_back a) 1) .ain)
      (srcAin a) 0x09 (b2s mv)) s)) ∧
  (∀ (x : Chip) (a : Nat), a < 4 → fget (feedTrip x a) (F.AIN_STATUS_feed_on a) = 0 ∧ fget (feedTrip x a) (F.AIN_STATUS_feed_low a) = 0 ∧
    (ainOf (feedTrip x a) a).opened = some x.tm.ticks ∧ OnlyRegsAin [R.AIN_STATUS a] x (feedTrip x a)) ∧
  (∀ (a mv : Nat) (s : State), feedJust s.chip a = false →
    exec (.feedShort a mv) s = .next s ∧ exec (.feedBack a mv) s = .next s) ∧
  (∀ (a mv : Nat) (s : State), (fon s.chip (F.AIN_STATUS_feed_short a) = true → exec (.feedShort a mv) s = .next s) ∧
    (fon s.chip (F.AIN_STATUS_feed_back a) = true → exec (.feedBack a mv) s = .next s)) ∧
  (∀ (a : Nat) (short back : Bool) (s : State), a < 4 → dUp s.chip = true →
    ∃ x2, exec (.feedFaultClear a short back) s = .next (onChip (fun _ =>
        if (fon s.chip (F.AIN_STATUS_feed_short a) || fon s.chip (F.AIN_STATUS_feed_back a)) && !fon s.chip (F.AIN_STATUS_feed_on a)
          then feedClose x2 a else x2) s) ∧
      fget x2 (F.AIN_STATUS_feed_short a) = (if short then 0 else fget s.chip (F.AIN_STATUS_feed_short a)) ∧
      fget x2 (F.AIN_STATUS_feed_back a) = (if back then 0 else fget s.chip (F.AIN_STATUS_feed_back a)) ∧
      OnlyRegs [R.AIN_STATUS a] s.chip x2) ∧
  (∀ (x : Chip) (a : Nat), (feedMay x a = false → feedClose x a = x) ∧
    (feedMay x a = true → ainState x a = stPaused → feedClose x a = feedLow (fset x (F.AIN_STATUS_feed_on a) 1) a) ∧
    (feedMay x a = true → ainState x a ≠ stPaused → feedClose x a = enterSettle x a)) ∧
  (∀ (x : Chip) (a : Nat), a < 4 → fon x (F.AIN_STATUS_feed_on a) = true →
    fon (feedLow x a) (F.AIN_STATUS_feed_low a) = (decide (fget x F.SENS_COAX_mv ≠ 0) &&
      decide (fget x F.SENS_COAX_mv < (if fon x (F.AIN_FEED_volt a) then 8800 else 5800))) ∧
    OnlyRegs [R.AIN_STATUS a] x (feedLow x a)) ∧
  (∀ (a : Nat) (s : State), a < 4 → mgmtUp s.chip = true → dUp s.chip = true →
    exec (.feedEnableWrite a false) s = .next (onChip (fun x => fset (fset (fset x (F.AIN_FEED_en a) 0) (F.AIN_STATUS_feed_on a) 0)
      (F.AIN_STATUS_feed_low a) 0) s) ∧
    exec (.feedEnableWrite a true) s = .next (onChip (fun x => if fon x (F.AIN_FEED_en a) then fset x (F.AIN_FEED_en a) 1
      else feedClose (fset x (F.AIN_FEED_en a) 1) a) s)) ∧
  (∀ (a : Nat) (s : State), a < 4 → mgmtUp s.chip = true → dUp s.chip = true →
    ∃ t, exec (.ainEnableWrite a false) s = .next t ∧ ChipOnly s t ∧ fget t.chip (F.AIN_CFG_en a) = 0 ∧ ainState t.chip a = stOff ∧
      fget t.chip (F.AIN_STATUS_feed_on a) = 0 ∧ fget t.chip (F.AIN_ATT_snow a) = 0) ∧
  (∀ (a : Nat) (s : State), a < 4 → mgmtUp s.chip = true → dUp s.chip = true → ainState s.chip a = stOff →
    ∃ t, exec (.ainEnableWrite a true) s = .next t ∧ ChipOnly s t ∧ fget t.chip (F.AIN_CFG_en a) = 1 ∧
      ainState t.chip a = (if rfRuns s.chip then stSettle else stPaused)) ∧
  (∀ (a : Nat) (en : Bool) (s : State), a < 4 → mgmtUp s.chip = true → dUp s.chip = false →
    exec (.feedEnableWrite a en) s = .next (onChip (fun x => fset x (F.AIN_FEED_en a) (if en then 1 else 0)) s))

/-- Input states, planner, preselector, forced taint (R48, R51, R52, R96). -/
def Obligations.InputStatesAndPlanner : Prop :=
  (∀ (a : Nat) (s : State), a < 4 → ainState s.chip a = stSettle →
    ∃ t, exec (.settleDone a) s = .next t ∧ ChipOnly s t ∧ ainState t.chip a = stPlan ∧
      t.chip = setAinState (planCheck (calLoad s.chip a none) a) a stPlan) ∧
  (∀ (a : Nat) (s : State), a < 4 → ainState s.chip a ≠ stSettle → exec (.settleDone a) s = .next s) ∧
  (∀ (a : Nat) (peak : Option Int) (s : State), a < 4 → ainState s.chip a = stPlan →
    exec (.planDone a peak) s = .next (onChip (fun x => after (srcAin a) (fun y => restartOn y a) (planDone x a peak)) s) ∧
    ainState (planDone s.chip a peak) a = stRun ∧
    (fon s.chip (F.AIN_CFG_att_auto a) = false →
      fget (planDone s.chip a peak) (F.AIN_ATT_plan a) = fget s.chip (F.AIN_ATT_man a)) ∧
    (fon s.chip (F.AIN_CFG_att_auto a) = true → peak = none →
      fget (planDone s.chip a peak) (F.AIN_ATT_plan a) = planMin s.chip a)) ∧
  (∀ (x : Chip) (a : Nat) (p : Int), planMin x a ≤ planMax x a →
    let k := planFound x a (some p)
    planMin x a ≤ k ∧ k ≤ planMax x a ∧
    (k < planMax x a → p + 2 * ((planMax x a : Int) - k) ≤ planHi x a - 2) ∧
    (∀ j, planMin x a ≤ j → j < k → planHi x a - 2 < p + 2 * ((planMax x a : Int) - j))) ∧
  (∀ (a : Nat) (peak : Option Int) (s : State), ainState s.chip a ≠ stPlan → exec (.planDone a peak) s = .next s) ∧
  (∀ (a : Nat) (peak rms : Int) (s : State), a < 4 → ainState s.chip a ≠ stOff →
    ¬(ainState s.chip a = stRun ∧ fon s.chip (F.AIN_CFG_att_auto a) = true) →
    exec (.gainStep a peak rms) s = .next (onChip (fun x =>
      fset (fset x (F.AIN_LEVEL_peak a) (tcomp 8 peak)) (F.AIN_LEVEL_rms a) (tcomp 8 rms)) s)) ∧
  (∀ (a : Nat) (peak rms : Int) (s : State), a < 4 → ainState s.chip a = stRun → fon s.chip (F.AIN_CFG_att_auto a) = true →
    (ainOf s.chip a).snowSeen = false → 2 ≤ (ainOf s.chip a).hiRun → 9 ≤ (ainOf s.chip a).gap → planHi s.chip a < peak →
    fget s.chip (F.AIN_ATT_plan a) < planMax s.chip a →
    ∃ t, exec (.gainStep a peak rms) s = .next t ∧ ChipOnly s t ∧
      fget t.chip (F.AIN_ATT_plan a) = fget s.chip (F.AIN_ATT_plan a) + 1 ∧ (ainOf t.chip a).gap = 0) ∧
  (∀ (a : Nat) (peak rms : Int) (s : State), a < 4 → ainState s.chip a = stRun → fon s.chip (F.AIN_CFG_att_auto a) = true →
    (ainOf s.chip a).snowSeen = true →
    ∃ t, exec (.gainStep a peak rms) s = .next t ∧ ChipOnly s t ∧ fget t.chip (F.AIN_LEVEL_peak a) = tcomp 8 peak ∧
      fget t.chip (F.AIN_LEVEL_rms a) = tcomp 8 rms ∧ OnlyRegsAin [R.AIN_LEVEL a] s.chip t.chip ∧
      (ainOf t.chip a).hiRun = (ainOf s.chip a).hiRun ∧ (ainOf t.chip a).loRun = (ainOf s.chip a).loRun ∧
      (ainOf t.chip a).gap = (ainOf s.chip a).gap + 1) ∧
  (∀ (a : Nat) (peak rms : Int) (s : State), ainState s.chip a = stOff → exec (.gainStep a peak rms) s = .next s) ∧
  (∀ (a : Nat) (stable : Bool) (s : State), a < 4 → dUp s.chip = true →
    ∃ t, exec (.presel a stable) s = .next t ∧ ChipOnly s t ∧
      (fon s.chip (F.AIN_CFG_presel_auto a) = false → fget t.chip (F.AIN_PRESEL_now a) =
        (if fget s.chip (F.AIN_PRESEL_sel a) < 5 then fget s.chip (F.AIN_PRESEL_sel a) else 0)) ∧
      (fon s.chip (F.AIN_CFG_presel_auto a) = true → lanesOn s.chip a = [] → t = s) ∧
      (fon s.chip (F.AIN_CFG_presel_auto a) = true → lanesOn s.chip a ≠ [] → stable = true →
        fget t.chip (F.AIN_PRESEL_now a) = preselBest s.chip a)) ∧
  (∀ (a : Nat) (s : State), a < 4 → dUp s.chip = true → (ainOf s.chip a).caused < nowAt s.chip →
    ∃ t, exec (.forcedTaint a) s = .next t ∧ ChipOnly s t ∧ (∃ k, (k = 40 ∨ k = 41) ∧
      rd t.chip (R.SPL_TAINT a) = rd s.chip (R.SPL_TAINT a) + k) ∧ nextSeq t.chip srcSpl = nextSeq s.chip srcSpl + 1) ∧
  (∀ (a : Nat) (s : State), a < 4 → dUp s.chip = true →
    exec (.forcedTaint a) s = .next (onChip (fun x => raise (taintWindow x a (nowAt x) 8000) srcSpl 0x03 (b1 a)) s)) ∧
  (∀ (a : Nat) (s : State), dUp s.chip = false → exec (.forcedTaint a) s = .next s)

/-- Blind calibration (R75 to R90). -/
def Obligations.CalibrationCommands : Prop :=
  (∀ (a : Nat) (s : State), a < 4 → mgmtUp s.chip = true → ainState s.chip a = stRun → (calOf s.chip a).run = none →
    exec (.calRun a) s = .next (onChip (fun x => fset (fset (setCal x a { calOf x a with
      run := some ⟨4, fget x F.CAL_LOAD_bucket, 0, [0, 0, 0, 0, 0, 0, 0, 0, 0, 0, 0, 0], 0⟩ }) (F.CAL_STATUS_busy.bit a) 1)
      (F.CAL_CTRL_run.bit a) 1) s)) ∧
  (∀ (a : Nat) (s : State), ainState s.chip a ≠ stRun ∨ (calOf s.chip a).run ≠ none → exec (.calRun a) s = .next s) ∧
  (∀ (a : Nat) (w : CalWindow) (r : CalRun) (s : State), a < 4 → ainState s.chip a = stRun → keptCount w = 4096 →
    (calOf s.chip a).run = some r → r.windows < 15 →
    let est := estimate w (calOf s.chip a).force.vals
    ∃ t, exec (.calWindowEnd a w) s = .next t ∧ ChipOnly s t ∧
      ((calFitsAll est = true ∧ fget t.chip (byteFld R.CAL_SPUR a) = tcomp 8 (spurFigure est (calOf s.chip a).force.vals) ∧
        fon t.chip (F.CAL_STATUS_skew_held.bit a) = powerLow w ∧
        (calOf t.chip a).run = some ⟨r.cause, r.bucket, r.windows + 1, (List.range 12).map (fun k => nth 0 r.sums k + nth 0 est k), r.tempSum + w.temp⟩ ∧
        (calOf t.chip a).force = (calOf s.chip a).force) ∨
       (calFitsAll est = false ∧ t = onChip (fun x =>
        runFail (setTempOf (fset x (F.CAL_STATUS_skew_held.bit a) (if powerLow w then 1 else 0)) a w.temp) a r 1) s))) ∧
  (∀ (a : Nat) (w : CalWindow) (s : State), a < 4 → ainState s.chip a = stRun → keptCount w = 4096 → (calOf s.chip a).run = none →
    let est := estimate w (calOf s.chip a).force.vals
    exec (.calWindowEnd a w) s = .next (onChip (fun x =>
      let y := setTempOf (fset x (F.CAL_STATUS_skew_held.bit a) (if powerLow w then 1 else 0)) a w.temp
      if calFitsAll est then
        let g := spurFigure est (calOf s.chip a).force.vals
        let z := windowApply (windowSpur y a g) a g
        if trigHolds z a 3 then runAuto z a 3 else z
      else y) s)) ∧
  (∀ (a : Nat) (w : CalWindow) (s : State), (ainState s.chip a ≠ stRun ∨ keptCount w ≠ 4096) → exec (.calWindowEnd a w) s = .next s) ∧
  (∀ (w : CalWindow) (f : List Int) (k : Nat), k < 12 →
    let fig := if k < 4 then (List.range 4).map (Config.gainFigure (windowPowers w))
      else if k < 8 then (List.range 4).map (fun j => keptSum w fun b => nth 0 b.sums j)
      else (List.range 4).map (Config.skewFigure (windowPowers w) (windowDiffs w))
    nth 0 (estimate w f) k =
      (if powerLow w = true ∧ 8 ≤ k then nth 0 f k
       else roundEven (4 * nth 0 fig (k % 4) - fig.sum) (4 * if 4 ≤ k ∧ k < 8 then 65536 else 4096))) ∧
  (∀ (a : Nat) (r : CalRun) (s : State), a < 4 → (calOf s.chip a).run = some r → r.windows < 4 →
    exec (.calRunTimeout a) s = .next (onChip (fun x =>
      let y := raise (setCause (count (fset (runGone x a) (F.CAL_STATUS_fail.bit a) 1) R.CAL_FAIL_COUNT F.CAL_STATUS_fail_wrap 1) .cal)
        srcCal 0x04 (b1 a ++ b1 0 ++ b2s r.windows)
      if trigHolds y a r.cause then runAuto y a r.cause else y) s)) ∧
  (∀ (a : Nat) (r : CalRun) (s : State), a < 4 → (calOf s.chip a).run = some r → 4 ≤ r.windows →
    let avg := r.sums.map fun v => roundEven v r.windows
    calFitsAll avg = true →
    ∃ y, exec (.calRunTimeout a) s = .next (onChip (fun _ => runRetry y a) s) ∧
      (calOf y a).force.vals = avg ∧ (calOf y a).force.bucket = r.bucket ∧ (calOf y a).run = none ∧
      fget y (F.CAL_STATUS_busy.bit a) = 0 ∧
      fget y (byteFld R.CAL_TLAST a) = tcomp 8 (roundEven r.tempSum (16 * r.windows) + 64) ∧
      rd y R.CAL_RUN_COUNT = rd s.chip R.CAL_RUN_COUNT + 1) ∧
  (∀ (x : Chip) (a : Nat), fon x (F.CAL_STATUS_stale_load.bit a) = false → tempTrig x a = false → runRetry x a = x) ∧
  (∀ (a : Nat) (s : State), (calOf s.chip a).run = none → exec (.calRunTimeout a) s = .next s) ∧
  (∀ s : State, mgmtUp s.chip = true →
    let n := fget s.chip F.CAL_LOAD_lanes
    let b := if n < 32 then 0 else if n ≤ 64 then 1 else 2
    let old := fget s.chip F.CAL_LOAD_bucket
    (b = old → exec .loadBucket s = .next s) ∧
    (b ≠ old → exec .loadBucket s = .next (onChip (fun x => (List.range 4).foldl (bucketOn b)
      (raise (fset x F.CAL_LOAD_bucket b) srcCal 0x07 (b1 old ++ b1 b ++ b1 n))) s))) ∧
  (∀ (a : Nat) (temp : Int) (s : State), a < 4 → mgmtUp s.chip = true →
    let x1 := senseTemp s.chip a temp
    let go := ainState x1 a = stRun ∧ (calOf x1 a).run = none ∧ tempTrig x1 a = true
    (¬go → exec (.calTrig a temp) s = .next (onChip (fun _ => x1) s)) ∧
    (go → exec (.calTrig a temp) s = .next (onChip (fun _ =>
      let l : Int := (fget x1 (byteFld R.CAL_TLAST a) : Int) - 64
      runAuto (calLoad (raise x1 srcCal 0x03 (b1 a ++ i2 (16 * l) ++ i2 (tempOf x1 a))) a (some 2)) a 2) s)))

/-- Staged lane settings (R15, R468). -/
def Obligations.LaneSettingsCommands : Prop :=
  (∀ (n off : Nat) (v : Word) (s : State), n < 104 → off ∈ stagedOffs → mgmtUp s.chip = true →
    fon s.chip (F.LANE_TANDEM_pool n) = false →
    let a := laneBase n + off
    ∃ t, exec (.laneStagedWrite a v) s = .next t ∧ ChipOnly s t ∧ fget t.chip (F.LANE_CTRL_staged n) = 1 ∧
      OnlyRegs [R.LANE_CTRL n] { s.chip with staged := t.chip.staged } t.chip ∧
      (∀ r i, regRow a = some r → i < 32 → r.rw.testBit i = true → (stagedRead t.chip a).getLsbD i = v.getLsbD i)) ∧
  (∀ (n off : Nat) (v : Word) (s : State), n < 104 → off ∈ [0x00, 0x08, 0x0C, 0x10] → mgmtUp s.chip = true →
    fon s.chip (F.LANE_TANDEM_pool n) = true →
    exec (.laneStagedWrite (laneBase n + off) v) s = .next (onChip (fun x => badLaneWrite x n (laneBase n + off) v.toNat) s)) ∧
  (∀ (n : Nat) (s : State), n < 104 → mgmtUp s.chip = true →
    ∃ t, exec (.discard n) s = .next t ∧ ChipOnly s t ∧ fget t.chip (F.LANE_CTRL_staged n) = 0 ∧
      (∀ a, a ∈ stagedAddrs n → smFind a t.chip.staged = none) ∧
      (∀ a, a / 0x40 ≠ laneBase n / 0x40 → smFind a t.chip.staged = smFind a s.chip.staged) ∧
      OnlyRegs [R.LANE_CTRL n] { s.chip with staged := t.chip.staged } t.chip) ∧
  (∀ (n : Nat) (s : State), fon s.chip (F.LANE_CTRL_apply n) = true → exec (.applyStaged n) s = .next s) ∧
  (∀ (n : Nat) (s : State), n < 104 → mgmtUp s.chip = true → fon s.chip (F.LANE_CTRL_apply n) = false →
    (∀ a v, rejection s.chip n (ofLane s.chip.staged n) = some (a, v) →
      ∃ y, exec (.applyStaged n) s = .next (onChip (fun _ => dropCaptured (badLaneWrite y n a v) n) s) ∧
        (∀ b, b ∈ stagedAddrs n → smFind b y.staged = none) ∧ fget y (F.LANE_CTRL_staged n) = 0 ∧
        rd y R.SPL_REJECT_COUNT = rd s.chip R.SPL_REJECT_COUNT + (if a = R.LANE_INPUT n then 1 else 0)) ∧
    (rejection s.chip n (ofLane s.chip.staged n) = none →
      ∃ t, exec (.applyStaged n) s = .next t ∧ ChipOnly s t ∧ fget t.chip (F.LANE_CTRL_apply n) = 1 ∧ fget t.chip (F.LANE_CTRL_staged n) = 0 ∧
        fon t.chip (F.LANE_CTRL_held n) = (laneHeld s.chip n || fadeHolds s.chip n (ofLane s.chip.staged n)) ∧
        t.chip.staged = notLane s.chip.staged n ∧
        t.chip.captured = (ofLane s.chip.staged n).foldl (fun m e => smInsert e.1 e.2 m) (notLane s.chip.captured n) ∧
        OnlyRegs [R.LANE_CTRL n] { s.chip with staged := t.chip.staged, captured := t.chip.captured } t.chip)) ∧
  (∀ (n : Nat) (s : State), fon s.chip (F.LANE_CTRL_apply n) = false ∨ fon s.chip (F.LANE_CTRL_held n) = true →
    exec (.laneApplied n) s = .next s) ∧
  (∀ (n : Nat) (s : State), n < 104 → mgmtUp s.chip = true → fon s.chip (F.LANE_CTRL_apply n) = true →
    fon s.chip (F.LANE_CTRL_held n) = false →
    (∀ a v, rejection s.chip n (ofLane s.chip.captured n) = some (a, v) →
      exec (.laneApplied n) s = .next (onChip (fun x => dropCaptured (badLaneWrite
        (if a = R.LANE_INPUT n then count x R.SPL_REJECT_COUNT F.SPL_STATUS_reject_wrap 1 else x) n a v) n) s)) ∧
    (rejection s.chip n (ofLane s.chip.captured n) = none → exec (.laneApplied n) s = .next (onChip (fun x =>
      let o := cfgOf x n
      let c := cfgWith x (ofLane x.captured n) n
      let stops := o.std != c.std && o.std != mOff
      let x1 := putCaptured (capChange (if stops then laneStop x n else x) o c) n
      let x2 := if c.tandem.getLsbD 16 && !o.tandem.getLsbD 16 then fset x1 ⟨R.LANE_MODE n, 16, 1⟩ 1 else x1
      let d := cfgOf x2 n
      let x3 := if stops || d.std = mOff then wr x2 (R.LANE_STATUS n) (statusStart d.std) else x2
      applyTandem (applyFollow (preselSweeps (capShow (applyRun false (bistCounts (applyCap x3 n o d)) n o d
        (rd x (R.LANE_PHASE n))) n)) n o d) n o d) s))) ∧
  (∀ (x : Chip) (n : Nat), n < 104 →
    fget (putCaptured x n) (F.LANE_CTRL_apply n) = 0 ∧ fget (putCaptured x n) (F.LANE_CTRL_held n) = 0 ∧
    (∀ a, a ∈ stagedAddrs n → rd (putCaptured x n) a = overlay x x.captured a) ∧
    (∀ a, a ∉ stagedAddrs n → a ≠ R.LANE_CTRL n → rd (putCaptured x n) a = rd x a)) ∧
  (∀ (x : Chip) (n : Nat) (o c : LaneCfg) (p : Word),
    (c.std = mOff → applyRun false x n o c p = showPlan x n) ∧
    (c.std ≠ mOff → laneMayRun x = false → applyRun false x n o c p = showPlan (wr x (R.LANE_STATUS n) (statusStart c.std)) n) ∧
    (laneMayRun x = (rfRuns x && (!isFoot x || (List.range 4).any fun a => fon x (F.AIN_CFG_en a)))) ∧
    (c.std ≠ mOff → laneMayRun x = true →
      let y := applyLogs (if needsReset o c || !(laneOf x n).live then laneBegin (resetLog x n) n else applyOptions x n o c p) n o c
      applyRun false x n o c p = (if c.std = mSvc ∧ o.std ≠ mSvc then svcEval y n else y)))

/-- Resets of lanes and coaches, slack (R24 to R26, R111, R356). -/
def Obligations.CoachAndLaneResets : Prop :=
  (∀ (c p : Nat) (s : State), c < 13 → p < 8 → rfRuns s.chip = true → usesCoach (stdOf s.chip (8 * c + p)) = true →
    exec (.laneReset c p) s = .next (onChip (fun x => laneBegin (raise (count x (R.COACH_RESET_COUNT c) (F.COACH_STATUS_reset_wrap c) 1)
      (srcLane (8 * c + p)) 0x02 (b1 (8 * c + p) ++ b1 (stdOf s.chip (8 * c + p)) ++
        b2s (settleSamples (cfgOf s.chip (8 * c + p))))) (8 * c + p)) s)) ∧
  (∀ (c p : Nat) (s : State), usesCoach (stdOf s.chip (8 * c + p)) = false ∨ rfRuns s.chip = false → exec (.laneReset c p) s = .next s) ∧
  (∀ (c : Nat) (s : State), c < 13 → rfRuns s.chip = true →
    exec (.coachReset c) s = .next (onChip (fun x => upTo 8 (fun p y => coachLane y (8 * c + p))
      (raise (fset (count x (R.COACH_RESET_COUNT c) (F.COACH_STATUS_reset_wrap c) 1) (F.COACH_SLACK_min c)
        (fget x (F.COACH_SLACK_now c))) (srcCoach c) 0x03 (b1 0))) s)) ∧
  (∀ (x : Chip) (n : Nat), fon x (F.LANE_CTRL_apply n) = false →
    coachLane x n = (if (laneOf x n).live && usesCoach (stdOf x n) then laneBegin x n else x)) ∧
  (∀ (c : Nat) (s : State), rfRuns s.chip = false → exec (.coachReset c) s = .next s) ∧
  (∀ (c now : Nat) (s : State), c < 13 → now ≤ 100 → dUp s.chip = true →
    ∃ t, exec (.slackLow c now) s = .next t ∧ ChipOnly s t ∧ fget t.chip (F.COACH_SLACK_now c) = now ∧
      fget t.chip (F.COACH_SLACK_min c) = min now (fget s.chip (F.COACH_SLACK_min c)) ∧
      nextSeq t.chip (srcCoach c) = nextSeq s.chip (srcCoach c) + (if now < 5 then 1 else 0) ∧
      OnlyRegsLog [R.COACH_SLACK c] s.chip t.chip) ∧
  (∀ (c p n : Nat) (s : State), c < 13 → p < 8 → dUp s.chip = true →
    ∃ y, exec (.slackExhausted c p n) s = .next (onChip (fun _ => raise (count y (R.COACH_OVF_COUNT c) (F.COACH_STATUS_ovf_wrap c) n)
      (srcCoach c) 0x05 (b1 p ++ b2s n)) s) ∧ y = { s.chip with lanes := y.lanes } ∧
      ((laneOf s.chip (8 * c + p)).live = false → y = s.chip) ∧
      ((laneOf s.chip (8 * c + p)).live = true → usesCoach (stdOf s.chip (8 * c + p)) = true →
        (laneOf y (8 * c + p)).dsp = { (laneOf s.chip (8 * c + p)).dsp with
          gaps := spanAdd (nowAt s.chip) (laneOf s.chip (8 * c + p)).dsp.gaps (nowAt s.chip) (nowAt s.chip) })) ∧
  (∀ (c p n now : Nat) (s : State), dUp s.chip = false → exec (.slackLow c now) s = .next s ∧ exec (.slackExhausted c p n) s = .next s) ∧
  (∀ (n : Nat) (s : State), n < 128 → mgmtUp s.chip = true → fon s.chip F.GEN_RESET_lane_go = false →
    let x1 := fset s.chip F.GEN_RESET_lane n
    let runs_ := partRuns s.chip = true ∧ pstate s.chip ≤ 1
    (104 ≤ n → exec (.laneGo n) s = .next (onChip (fun _ => x1) s)) ∧
    (n < 104 → ¬runs_ → exec (.laneGo n) s = .next (onChip (fun _ => badLaneWrite x1 n R.GEN_RESET (n * 256 + 4)) s)) ∧
    (n < 104 → runs_ → laneHeld s.chip n = true → exec (.laneGo n) s = .next (onChip (fun _ =>
      fset { x1 with bist := { x1.bist with heldGo := x1.bist.heldGo ++ [n] } } F.GEN_RESET_lane_go 1) s)) ∧
    (n < 104 → runs_ → laneHeld s.chip n = false → exec (.laneGo n) s = .next (onChip (fun _ =>
      after srcGen (fun y => laneStart y n) (raise (laneStop x1 n) srcGen 0x03 (b1 n ++ b1 0))) s))) ∧
  (∀ (n : Nat) (s : State), mgmtUp s.chip = false ∨ fon s.chip F.GEN_RESET_lane_go = true → exec (.laneGo n) s = .next s)

/-- State changes of lanes and their events. -/
def Obligations.LaneStateEvents : Prop :=
  ∀ (x : Chip) (n st : Nat), n < 104 → st < 16 →
    let old := laneState x n
    let y := laneStateSet x n st
    let z := fset x (F.LANE_STATE n) st
    let q := fget x (F.LANE_QUAL_cnr n)
    laneState y n = st ∧ OnlyRegsLog [R.LANE_STATUS n] { x with lanes := y.lanes } y ∧ (st = old → y = x) ∧
    (st ≠ old → stdOf x n = 1 → y = laneTold (raise z (srcLane n) 0x10 (b1 n ++ b1 old ++ b1 st ++ b1 q)) n) ∧
    (st ≠ old → stdOf x n = 2 → y = laneTold (raise z (srcLane n) 0x14 (b1 n ++ b1 old ++ b1 st ++ b1 q)) n) ∧
    (st ≠ old → stdOf x n = 3 → y = laneTold (raise z (srcLane n) 0x20 (b1 n ++ b1 3 ++ b1 old ++ b1 st ++ b1 q)) n) ∧
    (st ≠ old → stdOf x n = 4 → y = laneTold (raise z (srcLane n) 0x20 (b1 n ++ b1 4 ++ b1 old ++ b1 st ++ b1 q)) n) ∧
    (st ≠ old → stdOf x n = 5 → y = laneTold (raise z (srcLane n) 0x28 (b1 n ++ b1 old ++ b1 st ++ b1 q)) n) ∧
    (st ≠ old → stdOf x n ∉ [1, 2, 3, 4, 5] → y = z) ∧
    (¬(stdOf x n = mLead ∧ old = 2 ∧ st ≠ 2) → ∃ l, setLaneState x n st = { y with lanes := l } ∧
      letThrough (laneOf { y with lanes := l } n) = (st == 2 && (!(laneOf x n).muted && inputOn y n))) ∧
    ((laneTold y n).lanes = (setLane y n { laneOf y n with told := some (lastRef y (srcLane n)) }).lanes) ∧
    (stdOf x n = mLead → old = 2 → st ≠ 2 → setLaneState x n st =
      after (srcLane n) (fun w => (servicesOf (rampFollow y n) n).foldl (svcDetach n) w) (rampFollow y n))

/-- FM and AM lanes (R121 to R144). -/
def Obligations.FmAndAmCommands : Prop :=
  (∀ (n : Nat) (o : FmObs) (s : State), runs s.chip n mFm = true →
    let st := laneState s.chip n
    let d := (laneOf s.chip n).dsp
    let r := fmRun s.chip n o.run
    let cnr := sat 8 o.cnr
    let mp := match multipath r.1.envelope with
      | some m => m
      | none => (free s.chip).toNat % 101
    let score := (5 * min cnr 240 - 4 * mp) / 5
    let above := if 32 ≤ cnr then d.above + o.ms else 0
    let below := if cnr < 16 then d.below + o.ms else 0
    let lock := if o.pilot.natAbs ≤ 50 ∧ 3500 ≤ o.inject then d.lockMs + o.ms else 0
    let weak := if o.inject < 2500 then d.weakMs + o.ms else 0
    ∃ y, exec (.fmState n o) s = .next (onChip (fun _ => moveState
        (if d.gone && !laneTaint y n (nowAt y) then
          (if 10 ≤ weak then pilotLost y n else setDsp y n { (laneOf y n).dsp with gone := false }) else y) n
        (if st ≠ 2 ∧ 8 ≤ above then 2 else if 8 ≤ below then 3 else st)) s) ∧
      rd y (R.LANE_QUAL n) = qualWord score cnr o.level mp ∧ laneState y n = st ∧
      (laneOf y n).dsp.blend = (if d.gone && laneTaint s.chip n (nowAt s.chip) then d.blend
        else blendMove d.blend (blendTarget s.chip n score) o.ms) ∧
      fget y (F.FM_blend n) = (laneOf y n).dsp.blend / 10 % 128 ∧
      (laneOf y n).dsp.smute = smuteMove s.chip n d.smute cnr o.ms ∧ fget y (F.FM_smute n) = (laneOf y n).dsp.smute / 2 % 32 ∧
      fon y (F.FM_nb n) = decide (r.1.quiet < 2048) ∧ (laneOf y n).fm = r.1 ∧
      (laneOf y n).pcm = r.2.foldl (pcmPush (nowAt s.chip)) (laneOf s.chip n).pcm ∧
      (laneOf y n).dsp.above = above ∧ (laneOf y n).dsp.below = below ∧ (laneOf y n).dsp.lockMs = lock ∧
      (laneOf y n).dsp.weakMs = weak ∧ (laneOf y n).dsp.gone = d.gone ∧
      OnlyRegs [R.LANE_QUAL n, R.LANE_STATUS n] { s.chip with lanes := y.lanes, freeCount := y.freeCount } y) ∧
  (∀ (x : Chip) (n st : Nat), moveState x n st =
    if laneState x n = st then x else (n :: servicesOf x n).foldl tandemState (setLaneState x n st)) ∧
  (∀ (n : Nat) (s : State), (laneOf s.chip n).dsp.lockMs < 10 → exec (.stereo n true) s = .next s) ∧
  (∀ (n : Nat) (s : State), (laneOf s.chip n).dsp.weakMs < 10 → exec (.stereo n false) s = .next s) ∧
  (∀ (n : Nat) (s : State), runs s.chip n mFm = true → fon s.chip (F.FM_pilot n) = false → 10 ≤ (laneOf s.chip n).dsp.lockMs →
    ∃ t, exec (.stereo n true) s = .next t ∧ ChipOnly s t ∧ fget t.chip (F.FM_pilot n) = 1 ∧
      nextSeq t.chip (srcLane n) = nextSeq s.chip (srcLane n) + 1 ∧ (laneOf t.chip n).dsp.piloted = true ∧
      ((laneOf s.chip n).dsp.piloted = true → (laneOf t.chip n).dsp.blend = (laneOf s.chip n).dsp.blend) ∧
      OnlyRegsLog [R.LANE_STATUS n] { s.chip with lanes := t.chip.lanes } t.chip) ∧
  (∀ (n : Nat) (s : State), runs s.chip n mFm = true → fon s.chip (F.FM_pilot n) = true → 10 ≤ (laneOf s.chip n).dsp.weakMs →
    (laneTaint s.chip n (nowAt s.chip) = false → ∃ t, exec (.stereo n false) s = .next t ∧ ChipOnly s t ∧
      fget t.chip (F.FM_pilot n) = 0 ∧ nextSeq t.chip (srcLane n) = nextSeq s.chip (srcLane n) + 1 ∧
      OnlyRegsLog [R.LANE_STATUS n] { s.chip with lanes := t.chip.lanes } t.chip) ∧
    (laneTaint s.chip n (nowAt s.chip) = true → exec (.stereo n false) s =
      .next (onChip (fun x => setDsp x n { (laneOf x n).dsp with gone := true }) s))) ∧
  (∀ (n : Nat) (on : Bool) (s : State), runs s.chip n mFm = true → fon s.chip (F.FM_pilot n) = on →
    10 ≤ (if on then (laneOf s.chip n).dsp.lockMs else (laneOf s.chip n).dsp.weakMs) →
    exec (.stereo n on) s =
      .next (onChip (fun x => setDsp x n { (laneOf x n).dsp with gone := (laneOf x n).dsp.gone && !on }) s)) ∧
  (∀ (n : Nat) (o : AmObs) (s : State), runs s.chip n mAm = true →
    let st := laneState s.chip n
    let d := (laneOf s.chip n).dsp
    let fade := fon s.chip (F.AM_fade n)
    let cnr := sat 8 o.cnr
    let reach := sext 10 (fget s.chip (F.AM_foff n)) + o.offset
    let foff := if fade then fget s.chip (F.AM_foff n) else tcomp 10 (max (-200) (min 200 reach))
    let locked := o.locked && decide (reach.natAbs ≤ 200)
    let above := if 40 ≤ cnr then d.above + o.ms else 0
    let below := if cnr < 24 ∧ fade = false then d.below + o.ms else 0
    let fadeMs := if fade then d.fadeMs + o.ms else 0
    let acqMs := if st = 1 then d.acqMs + o.ms else 0
    let new := if st ≠ 2 ∧ locked = true ∧ 32 ≤ above then 2
      else if 64 ≤ below ∨ 500 ≤ fadeMs ∨ (st = 1 ∧ 1000 ≤ acqMs) then 3 else st
    let ends := fade && (new == 3 && st != 3)
    let r := amRun (fset (wr s.chip (R.LANE_QUAL n) (qualWord (min cnr 240) cnr o.level (min 150 o.depth))) (F.AM_foff n) foff) n o.run
    ∃ y, exec (.amState n o) s = .next (onChip (fun _ => moveState y n new) s) ∧
      rd y (R.LANE_QUAL n) = qualWord (min cnr 240) cnr o.level (min 150 o.depth) ∧ laneState y n = st ∧
      fon y (F.AM_sync n) = locked ∧ fon y (F.AM_fade n) = (fade && !ends) ∧ fget y (F.AM_foff n) = foff ∧
      (laneOf y n).dsp.smute = smuteMove s.chip n d.smute cnr o.ms ∧ fon y (F.AM_nb n) = decide (r.1.quiet < 256) ∧
      (laneOf y n).dsp.dc = r.2.1 ∧ (laneOf y n).am = (if ends then { r.1 with gain := none } else r.1) ∧
      (laneOf y n).pcm = r.2.2.foldl (pcmPush (nowAt s.chip)) (laneOf s.chip n).pcm ∧
      (laneOf y n).dsp.above = above ∧ (laneOf y n).dsp.below = below ∧ (laneOf y n).dsp.acqMs = acqMs ∧
      OnlyRegs [R.LANE_QUAL n, R.LANE_STATUS n] { s.chip with lanes := y.lanes } y) ∧
  (∀ (n : Nat) (p a : Int) (s : State), runs s.chip n mAm = true →
    let d := (laneOf s.chip n).dsp
    let was := fon s.chip (F.AM_fade n)
    ∃ t, exec (.carrierFade n p a) s = .next t ∧ ChipOnly s t ∧
      fon t.chip (F.AM_fade n) = (if was then decide (p < d.fadeAvg - 600) else decide (p ≤ a - 1000)) ∧
      (laneOf t.chip n).dsp.fadeAvg = (if was = false ∧ p ≤ a - 1000 then a else d.fadeAvg) ∧
      (laneOf t.chip n).am.gain = (if was = true ∧ d.fadeAvg - 600 ≤ p then none
        else if was = false ∧ p ≤ a - 1000 then some (power d.dc) else (laneOf s.chip n).am.gain) ∧
      OnlyRegs [R.LANE_STATUS n] { s.chip with lanes := t.chip.lanes } t.chip) ∧
  (∀ (n side : Nat) (s : State), runs s.chip n mAm = true → (cfgOf s.chip n).opt / 8 % 4 = 1 →
    (side = 0 ∧ 1000 ≤ (laneOf s.chip n).dsp.evenMs ∨ side = 2 ∧ 200 ≤ (laneOf s.chip n).dsp.downMs ∨
      side = 3 ∧ 200 ≤ (laneOf s.chip n).dsp.upMs) →
    exec (.amSide n side) s = .next (onChip (fun x => amTurn (if fget x (F.AM_side n) = side then x
      else raise (fset x (F.AM_side n) side) (srcLane n) 0x15 (b1 n ++ b1 side)) n (bwOf (cfgOf x n)) (fget x (F.AM_side n))) s)) ∧
  (∀ (n side : Nat) (s : State), (cfgOf s.chip n).opt / 8 % 4 ≠ 1 ∨ sideDue (laneOf s.chip n).dsp side = false →
    exec (.amSide n side) s = .next s) ∧
  (∀ (n side : Nat) (o : FmObs) (q : AmObs) (b : Bool) (p a : Int) (s : State), runs s.chip n mFm = false → runs s.chip n mAm = false →
    exec (.fmState n o) s = .next s ∧ exec (.stereo n b) s = .next s ∧ exec (.amState n q) s = .next s ∧
    exec (.carrierFade n p a) s = .next s ∧ exec (.amSide n side) s = .next s)

/-- RDS synchronisation (R129). -/
def Obligations.RdsBlocks : Prop :=
  (∀ (n : Nat) (o : RdsObs) (s : State), runs s.chip n mFm = true → (laneOf s.chip n).rds.sync = false →
    let r := (laneOf s.chip n).rds
    let zero := o.burst = some 0 ∧ (rbdsOn (cfgOf s.chip n) = true ∨ o.offset ≠ 5)
    let gain := zero ∧ o.adjacent = true ∧ ∃ p, r.prev = some p ∧
      ((p = 0 ∧ o.offset = 1) ∨ (p = 1 ∧ (o.offset = 2 ∨ o.offset = 3)) ∨ ((p = 2 ∨ p = 3) ∧ o.offset = 4) ∨ (p = 4 ∧ o.offset = 0) ∨
        (rbdsOn (cfgOf s.chip n) = true ∧ (p = 5 ∨ o.offset = 5)))
    (gain → ∃ t, exec (.rdsBlock n o) s = .next t ∧ ChipOnly s t ∧ (laneOf t.chip n).rds.sync = true ∧
      fget t.chip (F.FM_rds_sync n) = 1 ∧ nextSeq t.chip (srcLane n) = nextSeq s.chip (srcLane n) + 1 ∧
      (laneOf t.chip n).rds.items = r.items ∧ OnlyRegsLog [R.LANE_STATUS n] { s.chip with lanes := t.chip.lanes } t.chip) ∧
    (¬gain → ∃ t, exec (.rdsBlock n o) s = .next t ∧ ChipOnly s t ∧
      (laneOf t.chip n).rds = { r with prev := if zero then some o.offset else none } ∧
      OnlyRegs [R.LANE_STATUS n] { s.chip with lanes := t.chip.lanes } t.chip)) ∧
  (∀ (n : Nat) (q : RdsObs) (s : State), runs s.chip n mFm = true → (laneOf s.chip n).rds.sync = true →
    let rbds := rbdsOn (cfgOf s.chip n)
    let o := if q.offset = 5 ∧ rbds = false then { q with burst := none } else q
    let lost := 20 ≤ hits ((o.burst.isNone :: (laneOf s.chip n).rds.last50).take 50)
    (lost → ∃ t, exec (.rdsBlock n q) s = .next t ∧ ChipOnly s t ∧ (laneOf t.chip n).rds.sync = false ∧ fget t.chip (F.FM_rds_sync n) = 0) ∧
    (¬lost → exec (.rdsBlock n q) s = .next (onChip (fun x =>
      let r := (laneOf x n).rds
      let f := blockFlag ((cfgOf x n).opt / 16 % 4) (blockTouched x n o) o
      let r1 : Rds := { r with
        last50 := List.take 50 (o.burst.isNone :: r.last50)
        last64 := List.take 64 ((f == 3) :: r.last64)
        e50 := List.take 50 ((rbds && o.offset == 5) :: r.e50) }
      let y := rdsGroup (setRds x n r1) n o f
      if f < 3 then addCands y n o.cands else y) s))) ∧
  (∀ (x : Chip) (n : Nat) (o : RdsObs) (f : Nat), o.offset = 5 → rbdsOn (cfgOf x n) = true →
    rdsGroup x n o f = publish x n 0x0102 (b2 ((if f = 3 then o.raw else o.word) % 65536) ++ b1 f) o.stamp) ∧
  (∀ (n : Nat) (o : RdsObs) (s : State), runs s.chip n mFm = false → exec (.rdsBlock n o) s = .next s)

/-- A DAB lead (R150 to R155). -/
def Obligations.DabLeadCommands : Prop :=
  (∀ (n : Nat) (o : FibObs) (s : State), runs s.chip n mLead = true → (laneOf s.chip n).lead.sync = true →
    let l := (laneOf s.chip n).lead
    let octets := pad 0 32 o.octets
    let ok := crcHolds octets
    let figs := figsOf 30 (octets.take 30)
    let bad := List.take 96 ((!ok) :: l.bad96)
    let x1 := fset (setLead s.chip n { l with bad96 := bad }) (F.LANE_QUAL_aux n) ((bad.filter id).length * 100 / max 1 bad.length)
    let x2 := if (cfgOf s.chip n).opt % 2 = 1 then publish x1 n 0x0202 (octets.take 30 ++ b1 (!ok).toNat) o.stamp else x1
    let new := figs.foldl figTake (laneOf x2 n).lead
    let y := setLead x2 n new
    let z := if (laneOf x2 n).lead.complete = true ∧ new.complete = false then eidChanged y n else y
    let x3 := if ok then addCands (figs.foldl (figPublish n o.stamp) z) n o.cands else x2
    let due := o.last = true ∧ (laneOf x3 n).lead.complete = false ∧ tablesFull (laneOf x3 n).lead = true
    (due → exec (.fibReceived n o) s = .next (onChip (fun _ => ensemble x3 n) s)) ∧
    (¬due → ok = true → exec (.fibReceived n o) s = .next (onChip (fun _ => showServices x3 n) s)) ∧
    (¬due → ok = false → exec (.fibReceived n o) s = .next (onChip (fun _ => x2) s))) ∧
  (∀ l : List Byte, crcHolds l = (decide (2 ≤ l.length) &&
    crc16 (l.take (l.length - 2)) ^^^ 0xFFFF == unbe (l.drop (l.length - 2)))) ∧
  (∀ (x : Chip) (n : Nat), stdOf x n = mLead → n < 104 →
    ∃ y, ensemble x n = raise y (srcLane n) 0x21 (b1 n ++ b2 ((laneOf x n).lead.eid.getD 0) ++
        b1 (listed (configOf x n)).length ++ b2 (laneOf x n).lead.cif) ∧
      y = moveState (fsets (setLead x n { (laneOf x n).lead with complete := true }) [(F.LEAD_eid n, (laneOf x n).lead.eid.getD 0),
        (F.LEAD_nsvc n, min (listed (configOf x n)).length 63), (F.LEAD_fic n, 1)]) n 2) ∧
  (∀ (n : Nat) (o : CifObs) (s : State), runs s.chip n mLead = true → (laneOf s.chip n).lead.sync = true →
    let x1 := match o.sel with
      | some d => if o.place % 4 = 0 then divSelect s.chip n (F.LEAD_in n) d else s.chip
      | none => s.chip
    let sel := fget x1 (F.LEAD_in n)
    let ain := (cfgOf x1 n).ain
    let r := laneOf x1 n
    let w := dcSymbols x1 n o.first (4 + 18 * (o.place % 4)) r.dsp.dc
      (o.symbols.map fun v => v.map (coachIn x1 (if sel = 1 then partner ain else ain)))
    let erased := (List.range 18).filter fun i =>
      taintMeets x1 n (usedSpans x1 n sel) (o.first + symStart (5 + 18 * (o.place % 4) + i)) 2552
    ∃ t, exec (.cifPublish n o) s = .next t ∧ ChipOnly s t ∧
      (laneOf t.chip n).lead = { r.lead with
        ring := (⟨o.cif, cifInstant x1 n o.first (o.place % 4), erased, cifSoft erased r.lead.est w.1⟩ :: r.lead.ring).take 18 } ∧
      (laneOf t.chip n).dsp = { r.dsp with dc := w.2 } ∧ OnlyRegs [] { x1 with lanes := t.chip.lanes } t.chip) ∧
  (∀ (er : List Nat) (est : Int × Int) (l : List (List (Int × Int))), (cifSoft er est l).length = 27648 ∧
    ∀ k, k < 27648 → k / 1536 ∈ er → nth 0 (cifSoft er est l) k = 0) ∧
  (∀ (x : Chip) (lead n : Nat) (slots : List CifSlot) (b : DabSub),
    let r := (laneOf x lead).lead
    let l := (((r.ring.head?.map CifSlot.cif).getD 0) + 4985) % 5000
    logicalSlots r.ring l = some slots → subOf r.config (fget x (F.SVC_subch_now n)) = some b →
    laneState x n ≠ 4 → (∀ e ∈ (laneOf x n).logical, e.cif ≠ l) →
    svcRead lead x n = setLane x n { laneOf x n with
      logical := (⟨l, ((slots.head?).map CifSlot.at_).getD 0, logicalBits slots b⟩ :: (laneOf x n).logical).take 5 }) ∧
  (∀ (n cif : Nat) (s : State), runs s.chip n mLead = true → (laneOf s.chip n).lead.announced = some cif →
    let l := (laneOf s.chip n).lead
    let x0 := setLead s.chip n { l with config := l.next, next := ⟨[], []⟩, announced := none }
    let x2 := raise (fset x0 (F.LEAD_nsvc n) (min (listed (configOf x0 n)).length 63))
      (srcLane n) 0x22 (b1 n ++ b2 (l.eid.getD 0) ++ b2 cif)
    exec (.reconfig n cif) s = .next (onChip (fun _ => after (srcLane n) (fun y => (servicesOf x2 n).foldl (svcReconfig n l.config) y) x2) s)) ∧
  (∀ (n cif : Nat) (s : State), (laneOf s.chip n).lead.announced ≠ some cif → exec (.reconfig n cif) s = .next s) ∧
  (∀ (n : Nat) (ids : List (Nat × Nat × Int)) (stamp : Nat) (s : State), runs s.chip n mLead = true → (cfgOf s.chip n).opt / 2 % 2 = 1 →
    exec (.tiiReport n ids stamp) s = .next (onChip (fun x => publish x n 0x0203
      (b1 (ids.take 8).length ++ (ids.take 8).flatMap fun e => b1 e.1 ++ b1 e.2.1 ++ leInt 1 e.2.2) stamp) s)) ∧
  (∀ (n : Nat) (o : FibObs) (q : CifObs) (s : State), (runs s.chip n mLead = false ∨ (laneOf s.chip n).lead.sync = false) →
    exec (.fibReceived n o) s = .next s ∧ exec (.cifPublish n q) s = .next s) ∧
  (∀ (n cif : Nat) (ids : List (Nat × Nat × Int)) (stamp : Nat) (s : State), runs s.chip n mLead = false →
    exec (.reconfig n cif) s = .next s ∧ exec (.tiiReport n ids stamp) s = .next s)

/-- DAB services and states (R152 to R166). -/
def Obligations.DabServiceAndStateCommands : Prop :=
  (∀ (n : Nat) (s : State), runs s.chip n mSvc = true →
    let lead := fget s.chip (F.SVC_lead_now n)
    (lead ≠ 0x7F → leadServes s.chip n lead = true → exec (.svcAttach n) s = .next (onChip (fun x =>
      if laneState x n = 4 ∧ (svcComp x n (configOf x lead)).any (fun p => !p.ca) = true then svcSelect x n lead else x) s)) ∧
    (lead = 0x7F → leadFor s.chip n = none → exec (.svcAttach n) s = .next s) ∧
    (∀ l, lead = 0x7F → leadFor s.chip n = some l → exec (.svcAttach n) s = .next (onChip (fun x =>
      let sub := ((svcComp x n (configOf x l)).map DabComp.subch).getD 0
      svcSelect (raise (fset x (F.SVC_lead_now n) l) (srcLane n) 0x23 (b1 n ++ b1 l ++ b2 (svcEid x n) ++ b1 sub)) n l) s)) ∧
    (lead ≠ 0x7F → leadServes s.chip n lead = false → exec (.svcAttach n) s = .next (onChip (fun x =>
      match leadFor (svcDetach lead x n) n with
      | some l => svcAttach (svcDetach lead x n) n l
      | none => svcDetach lead x n) s))) ∧
  (∀ (x : Chip) (n l : Nat), svcPin (cfgOf x n) = false → leadFor x n = some l →
    leadServes x n l = true ∧ ∀ k, k < l → leadServes x n k = false) ∧
  (∀ (n : Nat) (o : DabObs) (s : State), runs s.chip n mLead = true →
    let st := laneState s.chip n
    let r := laneOf s.chip n
    let good := o.null && decide (16 ≤ o.all)
    let bads := if good then 0 else r.bads + 1
    ∃ y, exec (.dabState n o) s = .next (onChip (fun _ => moveState y n
        (if st = 2 ∧ 4 ≤ bads then 3 else if (st = 1 ∨ st = 3) ∧ good = true ∧ r.lead.complete = true then 2 else st)) s) ∧
      rd y (R.LANE_QUAL n) = qualWord (min o.all 240) o.mer o.level (fget s.chip (F.LANE_QUAL_aux n)) ∧ laneState y n = st ∧
      (laneOf y n).bads = bads ∧ (laneOf y n).lead = { r.lead with
        sync := good || (r.lead.sync && decide (bads < 4))
        est := if taintMeets s.chip n (usedSpans s.chip n (fget s.chip (F.LEAD_in n))) o.first 5208 then r.lead.est
          else Config.refEstimate o.ref } ∧
      OnlyRegs ((List.range 104).map R.LANE_QUAL) { s.chip with lanes := y.lanes } y) ∧
  (∀ (n : Nat) (o : DabObs) (s : State), runs s.chip n mLead = false → runs s.chip n mSvc = true →
    exec (.dabState n o) s = .next (onChip (fun x =>
      if laneState x n = 1 ∧ (laneOf x n).heard = true then moveState x n 2 else x) s)) ∧
  (∀ (n : Nat) (o : AudioObs) (f : SvcFrame) (s : State), runs s.chip n mSvc = true → fget s.chip (F.SVC_lead_now n) ≠ 0x7F →
    laneState s.chip n ≠ 4 → svcFrame s.chip n = some f →
    ∃ y, exec (.audioFrame n o) s = .next (onChip (fun _ =>
      let stamp := (toTicks f.at_ % 2 ^ 64).toNat
      let z := deliverUnit y n f.out stamp
      let w := if padOff (cfgOf s.chip n) then z else o.dls.foldl (dlsTake n stamp) z
      if laneState w n = 2 ∧ 480000 ≤ (laneOf w n).concealUs then moveState (setLane w n { laneOf w n with heard := false }) n 3
      else if laneState w n = 3 ∧ f.units.any AudioUnit.good = true then moveState w n 1 else w) s) ∧
      fget y (F.SVC_conceal n) = ((f.units.getLast?.map fun u => !u.good).getD false).toNat ∧
      fget y (F.SVC_kind n) = f.kind % 16 ∧ fon y (F.SVC_sbr n) = f.sbr ∧ fon y (F.SVC_ps n) = f.ps ∧
      laneOf y n = unitsTake (nowAt s.chip) (laneState s.chip n == 2 && inputOn s.chip n) 1920000 (laneDelay y n) f.at_
        { laneOf s.chip n with eaten := some f.eaten, super := f.super } f.units ∧
      OnlyRegs [R.LANE_STATUS n, R.LANE_QUAL n] { s.chip with lanes := y.lanes } y) ∧
  (∀ (n : Nat) (o : AudioObs) (s : State), runs s.chip n mSvc = true → svcFrame s.chip n = none →
    exec (.audioFrame n o) s = .next s) ∧
  (∀ (now : Int) (lets : Bool) (window delay : Nat) (t : Int) (l : LaneRt) (u : AudioUnit),
    let m := unitTake now lets window delay t l u
    let us := u.samples * 125 / 6
    (u.good = true → m.concealUs = 0 ∧ m.muted = false ∧ m.run = 0 ∧ m.heard = true) ∧
    (u.good = false → m.concealUs = l.concealUs + us ∧ m.muted = (l.muted || decide (100000 ≤ l.concealUs + us)) ∧
      m.run = l.run + 1 ∧ m.heard = l.heard) ∧
    m.pcm = (stampSamples t delay (if u.good then 0 else 8)
      (if u.good then unitSamples u l.unit else concealed l u.samples)).foldl (pcmPush now) l.pcm) ∧
  (∀ (n : Nat) (o : AudioObs) (s : State), runs s.chip n mDrm = true →
    let x1 := match o.sel with
      | some d => divSelect s.chip n (F.DRM_in n) d
      | none => s.chip
    let octets := Config.drmSuper (drmShape x1 n) (drmCells x1 n (fget x1 (F.DRM_in n)) (fget x1 (F.DRM_rmode n)) o.cells)
    let at_ := refOf (cfgOf x1 n) (gridAt x1 n o.first)
    let bad := !Config.drmOk octets
    let kept := (drmUnsupp x1 n).isSome = true ∧ (cfgOf s.chip n).opt / 16 % 2 = 0
    ∃ y, (kept → y = x1) ∧ (¬kept → y = deliverUnit x1 n ⟨2 * bad.toNat, octets⟩ (toTicks at_ % 2 ^ 64).toNat) ∧
      (laneState y n = 4 → exec (.audioFrame n o) s = .next (onChip (fun _ => y) s)) ∧
      (laneState y n ≠ 4 → exec (.audioFrame n o) s = .next (onChip (fun _ => fset (unitsInto y n 4000000 at_
        [⟨octets, 10 + fget x1 (F.DRM_codec n), false, if drmE (cfgOf x1 n) then 9600 else 19200, Config.drmOk octets⟩])
        (F.DRM_conceal n) bad.toNat) s))) ∧
  (∀ (n : Nat) (o : AudioObs) (q : DabObs) (s : State),
    (runs s.chip n mSvc = false → exec (.svcAttach n) s = .next s) ∧
    (runs s.chip n mSvc = false → runs s.chip n mLead = false → exec (.dabState n q) s = .next s) ∧
    (runs s.chip n mSvc = false → runs s.chip n mDrm = false → exec (.audioFrame n o) s = .next s) ∧
    (runs s.chip n mSvc = true → fget s.chip (F.SVC_lead_now n) = 0x7F ∨ laneState s.chip n = 4 → exec (.audioFrame n o) s = .next s))

/-- MOT and DRM (R159 to R163). -/
def Obligations.MotAndDrmCommands : Prop :=
  (∀ (n : Nat) (o : MotObs) (s : State), motTakes s.chip n = true →
    o.dir = [] → (∀ e ∈ s.chip.mot, ¬(e.lane = n ∧ e.tid = o.tid)) → o.last = false → o.octets.length ≤ 460800 → o.size.getD 0 ≤ 460800 →
    (s.chip.mot.map MotObj.got).sum + o.octets.length ≤ 2097152 →
    exec (.motDataGroup n o) s = .next (onChip (fun x => { x with mot := x.mot ++ [⟨n, o.tid, o.size,
      ⟨if o.head then [(o.num, o.octets)] else [], none⟩, ⟨if o.head then [] else [(o.num, o.octets)], none⟩, false⟩] }) s)) ∧
  (∀ (n : Nat) (o : MotObs) (s : State), motTakes s.chip n = true →
    exec (.motDataGroup n o) s = .next (onChip (fun x =>
      let y := motDirectory x n o.stamp o.dir
      let old := (motAt y n o.tid).getD ⟨n, o.tid, none, ⟨[], none⟩, ⟨[], none⟩, false⟩
      let e : MotObj := { old with
        size := if o.size.isSome then o.size else old.size
        head := if o.head then old.head.join o.num o.last o.octets else old.head
        body := if o.head then old.body else old.body.join o.num o.last o.octets }
      let z := motPut y e
      if old.done then y
      else if 460800 < e.got ∨ 460800 < e.size.getD 0 then raise (freeMot z n o.tid) (srcLane n) 0x27 (b1 n ++ b2 o.tid ++ b1 0)
      else motPublish (motRoom z z.mot.length) n o.tid o.stamp) s)) ∧
  (∀ (n : Nat) (o : MotObs) (s : State), motTakes s.chip n = false → exec (.motDataGroup n o) s = .next s) ∧
  (∀ (x : Chip) (n : Nat), motTakes x n = true ↔ (runs x n mSvc = true ∨ runs x n mDrm = true) ∧ slsOff (cfgOf x n) = false ∧
    ¬(stdOf x n = mSvc ∧ padOff (cfgOf x n) = true ∧ fget x (F.SVC_kind n) ≠ 4)) ∧
  (∀ (n tid : Nat) (s : State), (∃ o ∈ s.chip.mot, o.lane = n ∧ o.tid = tid ∧ o.done = false) →
    exec (.motIdleTimeout n tid) s = .next (onChip (fun x => raise (freeMot x n tid) (srcLane n) 0x27 (b1 n ++ b2 tid ++ b1 2)) s)) ∧
  (∀ (n tid : Nat) (s : State), (∀ o ∈ s.chip.mot, ¬(o.lane = n ∧ o.tid = tid ∧ o.done = false)) → exec (.motIdleTimeout n tid) s = .next s) ∧
  (∀ (n tid stamp : Nat) (e : MotEntry × Nat) (s : State), n < 104 →
    ((laneOf s.chip n).motDir.find? fun d => d.1.tid == tid && d.2 == 0) = some e →
    exec (.motMissing n tid stamp) s = .next (onChip (fun x =>
      let y := setLane x n { laneOf x n with motDir := (laneOf x n).motDir.map fun d => if d.1.tid = tid then (d.1, 1) else d }
      raise (publish (showPend y n) n 0x0213 (b2 tid ++ e.1.name) stamp) (srcLane n) 0x26 (b1 n ++ b2 tid)) s)) ∧
  (∀ (n tid stamp : Nat) (s : State), (∀ d ∈ (laneOf s.chip n).motDir, ¬(d.1.tid = tid ∧ d.2 = 0)) →
    exec (.motMissing n tid stamp) s = .next s) ∧
  (∀ (n : Nat) (o : DrmObs) (s : State), runs s.chip n mDrm = true →
    let l := laneOf s.chip n
    let bads := if o.fac then 0 else l.bads + 1
    let first := o.index % (if drmE (cfgOf s.chip n) then 4 else 3) == 0
    let svc := (cfgOf s.chip n).opt / 32 % 4
    let aux := if l.errs.isEmpty then 0xFF else percent (l.errs.map Prod.snd)
    let sdc := if 5 ≤ bads then false else if first then o.sdc else fon s.chip (F.DRM_sdc n)
    let x1 := setLane s.chip n { l with
      bads := bads, fac := o.fac, heard := l.heard && (decide (bads < 5) && laneState s.chip n != 4)
      change := if o.fac then o.change else l.change.bind fun k => if k = 0 then none else some (k - 1) }
    let x2 := wr x1 (R.LANE_QUAL n) (qualWord (digitalScore o.all (if aux = 0xFF then 0 else aux)) o.mer o.level aux)
    let bad := if fget s.chip (F.DRM_qam n) = 3 then some 1 else if fget s.chip (F.DRM_codec n) = 2 then some 2 else none
    let x3 := fsets x2 [(F.DRM_sdc n, sdc.toNat), (F.DRM_svc_now n, svc), (F.DRM_unsupp n, bad.isSome.toNat)]
    let st := laneState s.chip n
    let x4 := moveState x3 n (if 5 ≤ bads then 3 else if o.fac && !o.present then 4 else if st = 4 then 1
      else if o.fac && (sdc && l.heard) then 2 else st)
    (∀ k, bad = some k → exec (.drmState n o) s = .next (onChip (fun _ => unsupported x3 n k (F.DRM_unsupp n)) s)) ∧
    (bad = none → o.fac = false → exec (.drmState n o) s = .next (onChip (fun _ => x4) s)) ∧
    (bad = none → o.fac = true → o.present = false → exec (.drmState n o) s = .next (onChip (fun _ => svcMissing x4 n 0 svc) s)) ∧
    (bad = none → o.fac = true → o.present = true → exec (.drmState n o) s = .next (onChip (fun _ =>
      setLane x4 n { laneOf x4 n with missingLogged := false }) s))) ∧
  (∀ (n rmode occ qam : Nat) (ilong : Bool) (codec : Nat) (s : State), runs s.chip n mDrm = true →
    rmode < 8 → occ < 8 → qam < 4 → codec < 8 →
    let set := (cfgOf s.chip n).opt % 8
    let ok := (if drmE (cfgOf s.chip n) then rmode = 5 else if 1 ≤ set ∧ set ≤ 4 then rmode = set else 1 ≤ rmode ∧ rmode ≤ 4) ∧
      (if rmode = 5 then occ = 0 ∧ qam ≤ 1 else occ ≤ 5 ∧ 1 ≤ qam)
    (¬ok → exec (.drmParam n rmode occ qam ilong codec) s = .next s) ∧
    (ok → ∃ x1, (fget x1 (F.DRM_rmode n) = rmode ∧ fget x1 (F.DRM_occ n) = occ ∧ fget x1 (F.DRM_qam n) = qam ∧ fget x1 (F.DRM_ilong n) = ilong.toNat ∧
        fget x1 (F.DRM_codec n) = codec ∧ OnlyRegs [R.LANE_STATUS n] s.chip x1) ∧
      exec (.drmParam n rmode occ qam ilong codec) s = .next (onChip (fun x =>
        if fget x (F.DRM_rmode n) = rmode ∧ fget x (F.DRM_occ n) = occ ∧ fget x (F.DRM_qam n) = qam ∧ fget x (F.DRM_ilong n) = ilong.toNat then x1
        else
          let x2 := raise x1 (srcLane n) 0x29 (b1 n ++ b1 rmode ++ b1 occ ++ b1 qam ++ b1 ilong.toNat)
          if (laneOf x n).change = some 0 then setLane x2 n { laneOf x2 n with change := none }
          else moveState (setLane x2 n { laneOf x2 n with heard := false, logical := [], super := none, eaten := none }) n 1) s))) ∧
  (∀ (n rmode occ qam : Nat) (ilong : Bool) (codec : Nat) (o : DrmObs) (s : State), runs s.chip n mDrm = false →
    exec (.drmState n o) s = .next s ∧ exec (.drmParam n rmode occ qam ilong codec) s = .next s)

/-- Lock, coast and relock (R324 to R337). -/
def Obligations.ClockLockCommands : Prop :=
  (∀ s : State, mgmtUp s.chip = true → fon s.chip F.CLK_CTRL_relock = false →
    (pstate s.chip = 0 → exec .clkRelock s = .next (onChip (fun x => raise x srcClk 0x0B (b2 0)) s)) ∧
    (pstate s.chip ≠ 0 → clkState s.chip = ckLocked → exec .clkRelock s = .next (onChip (fun x => searchBegin (fset x F.CLK_CTRL_relock 1)) s)) ∧
    (pstate s.chip ≠ 0 → clkState s.chip ≠ ckLocked → exec .clkRelock s = .next s)) ∧
  (∀ s : State, mgmtUp s.chip = false ∨ fon s.chip F.CLK_CTRL_relock = true → exec .clkRelock s = .next s) ∧
  (∀ (band us : Nat) (ppm : Int) (s : State), clkState s.chip = ckSearch ∨ (s.chip.pw.phase = .starting ∧ clkState s.chip = ckOff) →
    exec (.lock band us ppm) s = .next (onChip (fun x => fset (convEval (lockNow (fset x F.CLK_VCO_ctrl 128) band us 0
      (x.pw.phase == .starting && x.pw.kind == 0))) F.CLK_REF_MON_ppm (tcomp 16 (clip 16 ppm))) s)) ∧
  (∀ (x : Chip) (band us how : Nat) (fresh : Bool),
    clkState (lockNow x band us how fresh) = ckLocked ∧ fget (lockNow x band us how fresh) F.CLK_VCO_band = band % 64 ∧
    fget (lockNow x band us how fresh) F.CLK_CTRL_relock = 0 ∧ (lockNow x band us how fresh).tm.clockRun = true ∧
    nextSeq (lockNow x band us how fresh) srcClk = nextSeq x srcClk + 1) ∧
  (∀ (band us : Nat) (ppm : Int) (s : State), clkState s.chip ≠ ckSearch → (s.chip.pw.phase ≠ .starting ∨ clkState s.chip ≠ ckOff) →
    exec (.lock band us ppm) s = .next s) ∧
  (∀ (cause ctrl : Nat) (s : State), cause ≤ 1 → ctrl ≤ 255 → clkState s.chip = ckLocked ∨ clkState s.chip = ckStep →
    ∃ t, exec (.lockLost cause ctrl) s = .next t ∧ ChipOnly s t ∧ clkState t.chip = ckCoast ∧ fget t.chip F.CLK_STATUS_ref_lost = cause ∧
      fget t.chip F.CLK_VCO_ctrl = ctrl ∧ fget t.chip F.CLK_STATUS_lock_sense = 0 ∧ fget t.chip F.MGMT_INT_CAUSE_clk = 1 ∧
      rd t.chip R.CLK_LOSS_COUNT = rd s.chip R.CLK_LOSS_COUNT + 1 ∧ rd t.chip R.CLK_COAST_COUNT = rd s.chip R.CLK_COAST_COUNT + 1 ∧
      t.chip.clk.coast = some s.chip.tm.ticks ∧ t.chip.clk.cal = none ∧ t.chip.tm = s.chip.tm) ∧
  (∀ (cause ctrl : Nat) (s : State), clkState s.chip ≠ ckLocked → clkState s.chip ≠ ckStep → exec (.lockLost cause ctrl) s = .next s) ∧
  (∀ (ofs : Int) (s : State), clkState s.chip = ckCoast →
    let x1 := coastShow s.chip ofs
    let beyond := max 1 (fget s.chip F.CLK_PLL_CFG_coast_lim) * 100 < ofs.natAbs ∧ s.chip.clk.coastLogged = false
    (¬beyond → exec (.coastLimit ofs) s = .next (onChip (fun _ => x1) s)) ∧
    (beyond → exec (.coastLimit ofs) s = .next (onChip (fun _ => raise (fset { x1 with clk := { x1.clk with coastLogged := true } }
      F.CLK_STATUS_coast_lim 1) srcClk 0x04 (i2 (clip 16 ofs))) s))) ∧
  (∀ (band us : Nat) (ofs : Int) (s : State), clkState s.chip = ckCoast →
    ∃ y, y = raise (if 32 ≤ fget s.chip F.CLK_VCO_ctrl ∧ fget s.chip F.CLK_VCO_ctrl ≤ 223
        then lockNow { coastShow s.chip ofs with clk := { s.chip.clk with coast := none } } (fget s.chip F.CLK_VCO_band) us 1 false
        else searchEnd (searchBegin { coastShow s.chip ofs with clk := { s.chip.clk with coast := none } }) band us false)
          srcClk 0x03 (b2s (coastMs s.chip) ++ i2 (clip 16 ofs)) ∧
      exec (.coastEnd band us ofs) s = .next (
        if ¬(32 ≤ fget s.chip F.CLK_VCO_ctrl ∧ fget s.chip F.CLK_VCO_ctrl ≤ 223) ∧ dUp s.chip = true ∧ pstate s.chip = 0
        then onCause srcClk (fun z => clearCarriage (onChip (fun x => dataReset x 1) z)) { s with chip := y } else { s with chip := y })) ∧
  (∀ (band us : Nat) (ofs : Int) (s : State), clkState s.chip ≠ ckCoast →
    exec (.coastEnd band us ofs) s = .next s ∧ exec (.coastLimit ofs) s = .next s) ∧
  (∀ (sense : Bool) (s : State), pstate s.chip ≤ 2 → mgmtUp s.chip = true →
    let agrees := sense = (clkState s.chip == ckLocked || clkState s.chip == ckStep)
    ∃ t, exec (.lockSenseMismatch sense) s = .next t ∧ ChipOnly s t ∧ fon t.chip F.CLK_STATUS_lock_sense = sense ∧
      t.chip.clk.sense = decide (¬agrees) ∧ (agrees → t.chip.lg = s.chip.lg) ∧
      (¬agrees → s.chip.clk.sense = false → fget t.chip F.CLK_STATUS_mismatch = 1 ∧ nextSeq t.chip srcClk = nextSeq s.chip srcClk + 1) ∧
      (¬agrees → s.chip.clk.sense = true → t.chip.lg = s.chip.lg)) ∧
  (∀ (sense : Bool) (s : State), pstate s.chip = 3 ∨ mgmtUp s.chip = false → exec (.lockSenseMismatch sense) s = .next s)

/-- VCO calibration, converter and outputs (R321 to R334). -/
def Obligations.ClockTuningCommands : Prop :=
  (∀ s : State, mgmtUp s.chip = true → fon s.chip F.CLK_CTRL_vco_cal = false → s.chip.clk.cal = none →
    (clkState s.chip = ckLocked → exec .vcoCalStart s = .next (onChip (fun x => fset { fset x F.CLK_CTRL_vco_cal 1 with
      clk := { x.clk with cal := some (0, fget x F.CLK_VCO_band), calDue := none } } F.CLK_STATUS_cal_busy 1) s)) ∧
    (clkState s.chip ≠ ckLocked → exec .vcoCalStart s = .next (onChip (fun x => { fset x F.CLK_CTRL_vco_cal 1 with
      clk := { x.clk with calDue := some 0 } }) s))) ∧
  (∀ s : State, mgmtUp s.chip = false ∨ fon s.chip F.CLK_CTRL_vco_cal = true ∨ s.chip.clk.cal ≠ none → exec .vcoCalStart s = .next s) ∧
  (∀ s : State, partRuns s.chip = true →
    let d := fget s.chip F.CLK_PLL_CFG_cal_delta
    let c := fget s.chip F.CLK_VCO_cal_temp
    let hot := d ≠ 0 ∧ c ≠ 0 ∧ 16 * d < (adcMean s.chip - 16 * ((c : Int) - 64)).natAbs
    (hot → exec .vcoCalTempTrig s = .next (onChip (fun x => calTrigger x 1) s)) ∧ (¬hot → exec .vcoCalTempTrig s = .next s)) ∧
  (∀ s : State, partRuns s.chip = false → exec .vcoCalTempTrig s = .next s ∧ exec .slalomMove s = .next s) ∧
  (∀ (cause old ctrl : Nat) (last : Bool) (s : State), s.chip.clk.cal = some (cause, old) → clkState s.chip = ckLocked →
    (exec (.vcoCalStep none ctrl last) s = .next (onChip (fun x => calEnd x cause old) s)) ∧
    (∀ up : Bool, exec (.vcoCalStep (some up) ctrl last) s = .next (onChip (fun x =>
      let y := calMove x up (min ctrl 255)
      if last then calEnd y cause old else y) s) ∧
      fget (calMove s.chip up (min ctrl 255)) F.CLK_VCO_band =
        (if up then min 63 (fget s.chip F.CLK_VCO_band + 1) else fget s.chip F.CLK_VCO_band - 1) ∧
      fget (calMove s.chip up (min ctrl 255)) F.CLK_VCO_ctrl = min ctrl 255)) ∧
  (∀ (x : Chip) (cause old : Nat), (calEnd x cause old).clk.cal = none ∧ fget (calEnd x cause old) F.CLK_STATUS_cal_busy = 0 ∧
    fget (calEnd x cause old) F.CLK_CTRL_vco_cal = 0 ∧ rd (calEnd x cause old) R.CLK_CAL_COUNT = rd x R.CLK_CAL_COUNT + 1 ∧
    nextSeq (calEnd x cause old) srcClk = nextSeq x srcClk + 1) ∧
  (∀ (m : Option Bool) (ctrl : Nat) (last : Bool) (s : State), s.chip.clk.cal = none ∨ clkState s.chip ≠ ckLocked →
    exec (.vcoCalStep m ctrl last) s = .next s) ∧
  (∀ s : State, partRuns s.chip = true → fget s.chip F.CLK_PLL_CFG_cal_delta ≠ 0 → fget s.chip F.CLK_VCO_cal_temp ≠ 0 →
    16 * fget s.chip F.CLK_PLL_CFG_cal_delta < (adcMean s.chip - 16 * ((fget s.chip F.CLK_VCO_cal_temp : Int) - 64)).natAbs →
    clkState s.chip = ckLocked → s.chip.clk.cal = none →
    ∃ t, exec .vcoCalTempTrig s = .next t ∧ ChipOnly s t ∧ t.chip.clk.cal = some (1, fget s.chip F.CLK_VCO_band) ∧
      t.chip.clk.calDue = none ∧ fget t.chip F.CLK_STATUS_cal_busy = 1 ∧ OnlyRegs [R.CLK_STATUS] { s.chip with clk := t.chip.clk } t.chip) ∧
  (∀ s : State, partRuns s.chip = true → exec .slalomMove s = .next (onChip convEval s)) ∧
  (∀ s : State, partRuns s.chip = true → 2 ≤ clkState s.chip → fget s.chip F.CLK_CONV_CFG_mode = 1 →
    convOk (fget s.chip F.CLK_CONV_CFG_fnom) = true →
    ∃ t, exec .slalomMove s = .next t ∧ ChipOnly s t ∧ fget t.chip F.CLK_CONV_NOW_mode_now = 1 ∧
      fget t.chip F.CLK_CONV_NOW_f = fget s.chip F.CLK_CONV_CFG_fnom ∧ fget t.chip F.CLK_CONV_NOW_clear_now = 0xFFF ∧ t.chip.clk.ramp = none) ∧
  (∀ s : State, partRuns s.chip = true → clkState s.chip < 2 → exec .slalomMove s = .next s) ∧
  (∀ (bands : List (Int × Int)) (target clear : Nat), convOk target = true → convOk (slalomTarget bands target clear).1 = true ∧
    ((slalomTarget bands target clear).2 = false → clearOk (clearance bands (slalomTarget bands target clear).1) clear = true)) ∧
  (∀ (i : Nat) (s : State), i < 4 → mgmtUp s.chip = true →
    (i = 0 ∨ i = 3 → exec (.clkOutEnWrite i false) s = .next (onChip (fun x => portsEval (raise x srcClk 0x0B (b2 (0x10 + 4 * i)))) s)) ∧
    (∀ en, en = true ∨ i = 1 ∨ i = 2 → ¬(i = 1 ∧ isHead s.chip = true ∧ 2 ≤ fget s.chip F.LINK_STATE_state) →
      exec (.clkOutEnWrite i en) s = .next (onChip (fun x => portsEval (clkOutputs (fset x (F.CLK_OUT_en i) (if en then 1 else 0)))) s)) ∧
    (∀ en, i = 1 → isHead s.chip = true → 2 ≤ fget s.chip F.LINK_STATE_state →
      ∃ y, exec (.clkOutEnWrite i en) s = .next (onChip (fun _ => portsEval y) s) ∧ fon y (F.CLK_OUT_en 1) = en ∧
        fon y F.LINK_PHY_STATUS_tx_on = en ∧ fon y F.LINK_PHY_STATUS_ramp = en ∧
        y.lk.next = (if en then 0 else s.chip.lk.next)))

/-- The follow commands of the mailbox (R171 to R173). -/
def Obligations.FollowMailboxCommands : Prop :=
  (∀ (o : Iface) (s : State), MboxServes s.chip 0x40 →
    let t := begun o 0x40 s
    let x := t.chip
    let p := arg x 0 % 128
    let a1 := arg x 1
    let a2 := arg x 2
    let line := arg x 3 % 8192
    let fade := arg x 3 / 65536 % 256
    let bad := 104 ≤ p ∨ stdOf x p ∉ [1, 2, 4, 5] ∨ 4500 < line ∨ fade < 5 ∨ 200 < fade
    (bad → exec (.followSet o) s = .next (finished 0x05 0 t)) ∧
    let fits := line = 0 ∨ (ceilDiv (line * 48) 480 + blocksUsed x p ≤ blocksPool x ∧ lineHolders x p < 16)
    (¬bad → ¬fits → exec (.followSet o) s = .next (finished 0x06 0 t)) ∧
    (¬bad → fits → followOf x p = none →
      ∃ r : Follow, (r.policy = a1 % 256 ∧ r.margin = a2 % 256 ∧ r.bias = sext 8 (a2 / 256 % 256) ∧ r.guard = a2 / 65536 ∧
          r.line = line ∧ r.fade = fade ∧ r.lineNow = line * 48 ∧ r.cands = [] ∧ r.handovers = 0 ∧ r.lastDone = none ∧
          r.fading = none ∧ r.undo = none ∧ r.past = none ∧ r.due = none) ∧
        exec (.followSet o) s = .next (finished 0x00 0 (onChip (fun _ =>
          ((List.range 104).filter (linkedTo x p)).foldl (fun y n => linkCand y p n)
            (raise { x with follows := smInsert p r x.follows, lines := smErase p x.lines } srcMgmt 0x40 (b1 p ++ b1 (a1 % 256) ++ b2 line))) t))) ∧
    (∀ r, ¬bad → fits → followOf x p = some r →
      exec (.followSet o) s = .next (finished 0x00 0 (onChip (fun _ => setFollow x p
        { r with policy := a1 % 256, margin := a2 % 256, bias := sext 8 (a2 / 256 % 256), guard := a2 / 65536, line := line, fade := fade }) t)))) ∧
  (∀ (o : Iface) (s : State), MboxServes s.chip 0x41 →
    let t := begun o 0x41 s
    let x := t.chip
    let p := arg x 0
    (followOf x p = none → exec (.followClear o) s = .next (finished 0x0B 0 t)) ∧
    (∀ r f, followOf x p = some r → r.fading = some f → exec (.followClear o) s = .next (finished 0x00 0
      (onChip (fun _ => { x with follows := smInsert p { r with fading := some { f with endReason := some 0 } } x.follows }) t))) ∧
    (∀ r, followOf x p = some r → r.fading = none → exec (.followClear o) s = .next (finished 0x00 0 (onChip (fun _ =>
      after srcMgmt (fun y => r.cands.foldl releaseCand y) (raise { x with
        follows := smErase p x.follows
        lines := if 0 < r.lineNow then smInsert p r.lineNow.toNat x.lines else x.lines } srcMgmt 0x41 (b1 p ++ b1 0))) t)))) ∧
  (∀ (o : Iface) (s : State), MboxServes s.chip 0x42 →
    let t := begun o 0x42 s
    let x := t.chip
    let p := arg x 0
    (followOf x p = none → exec (.followAdd o) s = .next (finished 0x0B 0 t)) ∧
    (∀ r, followOf x p = some r → freqOk (arg x 1) (arg x 2) = false → exec (.followAdd o) s = .next (finished 0x05 0 t)) ∧
    (∀ r, followOf x p = some r → freqOk (arg x 1) (arg x 2) = true → 32 ≤ r.cands.length →
      exec (.followAdd o) s = .next (finished 0x01 0 t)) ∧
    (∀ r, followOf x p = some r → freqOk (arg x 1) (arg x 2) = true → r.cands.length < 32 →
      ∃ i, i < 32 ∧ (∀ c ∈ r.cands, c.idx ≠ i) ∧ exec (.followAdd o) s = .next (finished 0x00 0 (onChip (fun _ => { x with follows := smInsert p { r with cands := r.cands ++ [newCand i (arg x 1) 7 (arg x 2) (arg x 3)] } x.follows }) t)))) ∧
  (∀ (o : Iface) (s : State), MboxServes s.chip 0x43 →
    let t := begun o 0x43 s
    let x := t.chip
    let p := arg x 0
    (followOf x p = none → exec (.followForce o) s = .next (finished 0x0B 0 t)) ∧
    (∀ r, followOf x p = some r → candOf r (arg x 1) = none → exec (.followForce o) s = .next (finished 0x0B 0 t)) ∧
    (∀ r c, followOf x p = some r → candOf r (arg x 1) = some c → c.state ≠ 5 → exec (.followForce o) s = .next (finished 0x0B 0 t)) ∧
    (∀ r c, followOf x p = some r → candOf r (arg x 1) = some c → c.state = 5 →
      (r.fading ≠ none → exec (.followForce o) s = .next (finished 0x00 0 t)) ∧
      (r.fading = none → laneHeld x p = true →
        exec (.followForce o) s = .next (finished 0x00 0 (onChip (fun _ => setFollow x p { r with due := some c.idx }) t))) ∧
      (r.fading = none → laneHeld x p = false →
        exec (.followForce o) s = .next (finished 0x00 0 (onChip (fun _ => decideFor x p r c 2) t))))) ∧
  (∀ (o : Iface) (s : State), MboxServes s.chip 0x44 →
    let t := begun o 0x44 s
    (followOf t.chip (arg t.chip 0) = none → exec (.followStatus o) s = .next (finished 0x0B 0 t)) ∧
    (∀ r, followOf t.chip (arg t.chip 0) = some r →
      (∃ l : List Byte, exec (.followStatus o) s = .next (finished 0x00 528 (putWin t 0 l)) ∧ l.length = 528 ∧
        nth 0 l 0 = BitVec.ofNat 8 (arg t.chip 0) ∧ nth 0 l 1 = BitVec.ofNat 8 r.fading.isSome.toNat ∧
        nth 0 l 2 = BitVec.ofNat 8 r.cands.length ∧ field l 8 4 = r.handovers % 2 ^ 32 ∧
        ∀ i, i < 32 → (l.drop (16 + 16 * i)).take 16 = candEntry t.chip r i)))

/-- Candidates (R174 to R182). -/
def Obligations.FollowCandidateCommands : Prop :=
  (∀ (x : Chip) (p : Nat) (r : Follow) (c : Cand) (why : Nat), followOf x p = some r →
    ∃ d : Cand, (d.idx = c.idx ∧ d.state = 7 ∧ d.lead = 0x7F ∧ d.delta = none ∧ d.why = why ∧ d.lineAt = r.lineNow ∧
        (c.linked = false → d.lane = 0x7F)) ∧
      rejectCand x p c why = after srcMgmt (fun y => releaseCand y c)
        (raise (setFollow x p (putCand r d)) srcMgmt 0x44 (b1 p ++ b1 c.idx ++ b1 why))) ∧
  (∀ (sched : List (Nat × Nat)) (p : Nat) (c : Cand) (s : State), rfRuns s.chip = true → linkedWarm s.chip = some (p, c) →
    exec (.candWarm sched) s = .next (onChip (fun x => raise (updCand x p { c with state := 2, lead := 0x7F, noLane := false, beaten := 0, fails := 0 })
      srcMgmt 0x42 (b1 p ++ b1 c.idx ++ b1 c.lane ++ b1 0x7F)) s)) ∧
  (∀ (sched : List (Nat × Nat)) (s : State), rfRuns s.chip = true → linkedWarm s.chip = none →
    (nextWarm s.chip sched = none → exec (.candWarm sched) s = .next s) ∧
    (∀ p c, nextWarm s.chip sched = some (p, c) → freePool s.chip = [] → c.noLane = true → exec (.candWarm sched) s = .next s) ∧
    (∀ p c, nextWarm s.chip sched = some (p, c) → freePool s.chip = [] → c.noLane = false → exec (.candWarm sched) s =
      .next (onChip (fun x => raise (updCand x p { c with noLane := true }) srcMgmt 0x49 (b1 p ++ b1 c.idx ++ b1 0)) s)) ∧
    (∀ p c n l, nextWarm s.chip sched = some (p, c) → freePool s.chip = n :: l → c.mode ≠ 4 → exec (.candWarm sched) s =
      .next (onChip (fun x => after srcMgmt (fun y => manageLane y n (BitVec.ofNat 32 c.mode) (tuneWords c.freq).2 (tuneWords c.freq).1)
        (raise (updCand x p { c with state := 2, lane := n, lead := 0x7F, noLane := false, beaten := 0, fails := 0 }) srcMgmt 0x42
          (b1 p ++ b1 c.idx ++ b1 n ++ b1 0x7F))) s)) ∧
    (∀ p c n l k m, nextWarm s.chip sched = some (p, c) → freePool s.chip = n :: l → c.mode = 4 →
      leadsOf s.chip (c.ident / 65536) = k :: m → exec (.candWarm sched) s =
      .next (onChip (fun x => after srcMgmt (fun y => manageLane y n 4 (BitVec.ofNat 32 c.ident) (fget y (F.LANE_INPUT_sb n)))
        (raise (updCand x p { c with state := 2, lane := n, lead := k, noLane := false, beaten := 0, fails := 0 }) srcMgmt 0x42
          (b1 p ++ b1 c.idx ++ b1 n ++ b1 k))) s))) ∧
  (∀ (p i ident : Nat) (r : Follow) (c : Cand) (s : State), rfRuns s.chip = true → followOf s.chip p = some r →
    candOf r i = some c → c.state = 2 ∨ c.state = 4 → c.verified = false → byAlignment c = false →
    (identOk r c ident = true → exec (.candVerify p i ident) s = .next (onChip (fun x => raise (setFollow x p (putCand r
      { c with verified := true, state := (if c.state = 2 then 3 else 4) })) srcMgmt 0x43 (b1 p ++ b1 i ++ b4 ident)) s)) ∧
    (identOk r c ident = false → exec (.candVerify p i ident) s = .next (onChip (fun x => rejectCand x p c 0) s))) ∧
  (∀ (p i : Nat) (r : Follow) (c : Cand) (s : State), rfRuns s.chip = true → followOf s.chip p = some r →
    candOf r i = some c → c.state = 2 ∨ c.state = 3 →
    let o := bothStages s.chip p c.lane
    let line := r.lineNow - o.delta
    let c1 := { c with
      delta := some o.delta
      gain := clipGain r (o.gain + r.gain)
      fails := 0
      verified := c.verified || byAlignment c }
    let need := blocksOf (max (ringOf r) line)
    let left := blocksPool s.chip - blocksUsed s.chip p
    exec (.candAligned p i) s = .next (onChip (fun x =>
      if peakOk c o.peak = false then
        if c.fails < 2 then setFollow x p (putCand r { c with fails := c.fails + 1 }) else rejectCand x p c 2
      else if line < 0 ∨ 216000 < line then rejectCand x p c1 3
      else if left < need ∨ (0 < need ∧ 16 ≤ lineHolders s.chip p) then
        raise (setFollow x p (putCand r { c1 with delta := none, aligned := false, state := (if c1.verified then 3 else 2) })) srcMgmt 0x4A
          (b1 p ++ b2s need ++ b2s left)
      else setFollow x p (putCand r { c1 with aligned := true, state := 4 })) s)) ∧
  (∀ (p i : Nat) (r : Follow) (c : Cand) (s : State), rfRuns s.chip = true → followOf s.chip p = some r →
    candOf r i = some c → c.state = 4 →
    (c.verified = true → c.aligned = true → exec (.candReady p i) s = .next (onChip (fun x => raise (setFollow x p (putCand r
      { c with state := 5 })) srcMgmt 0x45 (b1 p ++ b1 i ++ leInt 4 (c.delta.getD 0) ++ leInt 4 (r.lineNow - c.delta.getD 0))) s)) ∧
    (c.verified = false ∨ c.aligned = false → exec (.candReady p i) s = .next s)) ∧
  (∀ (p i : Nat) (r : Follow) (c : Cand) (s : State), rfRuns s.chip = true → followOf s.chip p = some r →
    candOf r i = some c → c.state = 4 ∨ c.state = 5 ∨ c.state = 6 →
    let o := fineStage s.chip p c.lane (c.delta.getD 0)
    let line := r.lineNow - o.delta
    let state := if (o.delta - c.delta.getD o.delta).natAbs ≤ 2 then c.state else 4
    let lost := peakOk c o.peak = false
    let need := blocksOf (max (ringOf r) line)
    let left := blocksPool s.chip - blocksUsed s.chip p
    (∀ f, r.fading = some f → f.idx = c.idx → exec (.fineAlign p i) s = .next (onChip (fun x =>
      if lost ∨ line < 0 ∨ 216000 < line then handoverAbort x p r f c 1
      else setFollow x p (putCand r { c with delta := some o.delta, state := state })) s)) ∧
    ((∀ f, r.fading = some f → f.idx ≠ c.idx) → exec (.fineAlign p i) s = .next (onChip (fun x =>
      let c1 := { c with delta := some o.delta, gain := clipGain r (o.gain + r.gain) }
      if lost then setFollow x p (putCand r { c with state := 4 })
      else if line < 0 ∨ 216000 < line then rejectCand x p c1 3
      else if left < need ∨ (0 < need ∧ 16 ≤ lineHolders s.chip p) then
        raise (setFollow x p (putCand r { c1 with delta := none, aligned := false, state := (if c1.verified then 3 else 2) })) srcMgmt 0x4A
          (b1 p ++ b2s need ++ b2s left)
      else setFollow x p (putCand r { c1 with aligned := true, state := state })) s))) ∧
  (∀ (c : Cand) (k : Peak), peakOk c k = true ↔ 0 < k.cross ∧
    (if byAlignment c then 64 else 25) * k.energy ≤ 100 * (k.cross * k.cross).toNat) ∧
  (∀ (p i : Nat) (r : Follow) (c : Cand) (s : State), followOf s.chip p = some r → candOf r i = some c →
    (c.state = 7 → (c.why ≠ 3 ∨ c.lineAt ≠ r.lineNow) → exec (.rejectExpiry p i) s = .next (onChip (fun x => setFollow x p
      (putCand r { c with state := 0, noLane := false })) s)) ∧
    (c.state ≠ 7 ∨ (c.why = 3 ∧ c.lineAt = r.lineNow) → exec (.rejectExpiry p i) s = .next s)) ∧
  (∀ (p i ident : Nat) (sched : List (Nat × Nat)) (s : State), rfRuns s.chip = false →
    exec (.candWarm sched) s = .next s ∧ exec (.candVerify p i ident) s = .next s ∧ exec (.candAligned p i) s = .next s ∧
    exec (.candReady p i) s = .next s ∧ exec (.fineAlign p i) s = .next s)

/-- Decisions, fades and scans (R178 to R187). -/
def Obligations.FollowHandoverCommands : Prop :=
  (∀ (x : Chip) (r : Follow) (c : Cand), bestReady x r = some c → c ∈ r.cands ∧ c.state = 5 ∧ ∀ d ∈ r.cands, d.state = 5 →
    effScore x r d.lane < effScore x r c.lane ∨ (effScore x r d.lane = effScore x r c.lane ∧ c.idx ≤ d.idx)) ∧
  (∀ (p : Nat) (quals : List (Nat × Word)) (r : Follow) (s : State), rfRuns s.chip = true →
    let x := setQuals s.chip quals
    followOf x p = some r →
    let forced := r.due.bind fun i => (candOf r i).filter fun c => c.state == 5
    let rest := setFollow x p { r with due := none }
    (r.fading ≠ none ∨ laneHeld x p = true → exec (.handoverDecide p quals) s = .next (onChip (fun _ => x) s)) ∧
    (∀ c, r.fading = none → laneHeld x p = false → forced = some c →
      exec (.handoverDecide p quals) s = .next (onChip (fun _ => decideFor x p r c 2) s)) ∧
    (r.fading = none → laneHeld x p = false → forced = none → bestReady x r = none →
      exec (.handoverDecide p quals) s = .next (onChip (fun _ => rest) s)) ∧
    (∀ c, r.fading = none → laneHeld x p = false → forced = none → bestReady x r = some c →
      (failing x p = true → exec (.handoverDecide p quals) s = .next (onChip (fun _ => byLane p (fun y => decideFor y p r c 1) x) s)) ∧
      (failing x p = false → r.policy / 128 % 2 = 1 → guardOver x r = true → r.margin ≤ effScore x r c.lane - effScore x r p →
        exec (.handoverDecide p quals) s = .next (onChip (fun _ => decideFor x p r c 0) s)) ∧
      (failing x p = false → (r.policy / 128 % 2 ≠ 1 ∨ guardOver x r = false ∨ effScore x r c.lane - effScore x r p < r.margin) →
        exec (.handoverDecide p quals) s = .next (onChip (fun _ => rest) s)))) ∧
  (∀ (x : Chip) (p : Nat) (r : Follow) (c : Cand) (cause : Nat), p < 104 → c.lane < 104 → p ≠ c.lane →
    let y := decideFor x p r c cause
    fget y (F.LANE_TANDEM_busy p) = 1 ∧ fget y (F.LANE_TANDEM_peer p) = c.lane ∧
    fget y (F.LANE_TANDEM_busy c.lane) = 1 ∧ fget y (F.LANE_TANDEM_peer c.lane) = p ∧
    followOf y p = some { putCand { r with due := none } { c with state := 6 } with fading := some ⟨c.idx, cause, x.tm.stime, none⟩ } ∧
    nextSeq y srcMgmt = nextSeq x srcMgmt + 1) ∧
  (∀ (p stamp : Nat) (r : Follow) (f : Fade) (c : Cand) (s : State), followOf s.chip p = some r → r.fading = some f →
    candOf r f.idx = some c → f.endReason = none →
    let line := r.lineNow - c.delta.getD 0
    let r2 := { r with
      cands := (r.cands.filter fun d => d.idx != c.idx).map fun d => { d with delta := d.delta.map fun v => v - c.delta.getD 0 }
      lineNow := line
      gain := c.gain
      handovers := r.handovers + 1
      lastDone := some s.chip.tm.ticks
      fading := none
      past := some ⟨p, r.gain, behindOf s.chip r p r.lineNow, r.lineNow != 0, f.began, f.began + BitVec.ofNat 64 (2048 * r.fade)⟩ }
    exec (.handoverDone p stamp) s = .next (onChip (fun x =>
      let x1 := moveCaptured p c.lane (fun z =>
        let z1 := moveBindings { z with follows := smErase p z.follows } p c.lane
        let z2 := publish z1 c.lane 0x0501 (b1 p ++ b1 c.lane ++ b1 c.source ++ b1 c.mode ++ b4 c.freq ++ b4 c.ident ++ leInt 4 line
          ++ i2 c.gain) stamp
        setBusy (setBusy z2 p none) c.lane none) x
      after srcMgmt (fun y => swapLanes y p c r2)
        (setCause (raise x1 srcMgmt 0x47 (b1 p ++ b1 c.lane ++ leInt 4 line)) .follow)) s)) ∧
  (∀ (old new : Nat) (f : Chip → Chip) (x : Chip), fon x (F.LANE_CTRL_held old) = true →
    let y := f (dropCaptured x old)
    moveCaptured old new f x = fset (fset { y with
      captured := ((ofLane x.captured old).map fun e => (e.1 - laneBase old + laneBase new, e.2)).foldl
        (fun a e => smInsert e.1 e.2 a) y.captured } (F.LANE_CTRL_apply new) 1) (F.LANE_CTRL_held new) 0) ∧
  (∀ (p reason : Nat) (r : Follow) (f : Fade) (c : Cand) (s : State), followOf s.chip p = some r → r.fading = some f →
    candOf r f.idx = some c → f.endReason = none → exec (.handoverAbort p reason) s = .next (onChip (fun x =>
      let w := min (2048 * r.fade) (x.tm.stime - f.began).toInt.toNat
      let line := r.lineNow - c.delta.getD 0
      let x1 := setBusy (setBusy (setFollow x p { r with
        fading := none
        undo := some ⟨c.idx, c.lane, c.gain, behindOf x r c.lane line, line != 0, f.began, x.tm.stime,
          x.tm.stime + BitVec.ofNat 64 w⟩ }) p none) c.lane none
      let tell := fun y => setCause (raise y srcMgmt 0x48 (b1 p ++ b1 c.idx ++ b1 (min reason 1))) .follow
      let x2 := releaseHeld (releaseHeld x1 p) c.lane
      markRejected (if reason = 0 then byLane c.lane tell x2 else tell x2) p c (if reason = 0 then 1 else 2)) s)) ∧
  (∀ (p reason stamp : Nat) (s : State), (∀ r, followOf s.chip p = some r → r.fading = none) →
    exec (.handoverDone p stamp) s = .next s ∧ exec (.handoverAbort p reason) s = .next s) ∧
  (∀ (n : Nat) (s : State), (n ∈ s.chip.ownedLeads → (servicesOf s.chip n) = [] → exec (.followLeadReturn n) s =
      .next (onChip (fun x => toPool { x with ownedLeads := x.ownedLeads.erase n } n) s)) ∧
    (n ∉ s.chip.ownedLeads ∨ servicesOf s.chip n ≠ [] → exec (.followLeadReturn n) s = .next s)) ∧
  (∀ (n : Nat) (o : ScanObs) (s : State), n < 104 → stdOf s.chip n = 7 → (laneOf s.chip n).live = true → o.touched = false →
    (cfgOf s.chip n).opt % 2 = 0 →
    let opt := (cfgOf s.chip n).opt
    let idx := fget s.chip (F.SCAN_idx n)
    let next := if (scanBand opt).1 ≤ idx + 1 then 0 else idx + 1
    exec (.scanRecord n o) s = .next (onChip (fun x =>
      let x1 := publish (scanMove x n (scanFreq opt idx)) n 0x0401 (b1 (opt / 2 % 8) ++ b2 idx ++ b4 (scanFreq opt idx) ++
        leInt 1 o.level ++ b1 o.value) o.stamp
      let x2 := fset (scanMove (scanQual x1 n (scanFreq opt idx) o) n (scanFreq opt next)) (F.SCAN_idx n) next
      if next = 0 then fset x2 (F.SCAN_sweeps n) ((fget x2 (F.SCAN_sweeps n) + 1) % 0x8000) else x2) s)) ∧
  (∀ (n : Nat) (o : ScanObs) (s : State), n < 104 → stdOf s.chip n = 7 → (laneOf s.chip n).live = true → o.touched = false →
    (cfgOf s.chip n).opt % 2 = 1 → o.last = false →
    let opt := (cfgOf s.chip n).opt
    let idx := fget s.chip (F.SCAN_idx n)
    exec (.scanRecord n o) s = .next (onChip (fun x =>
      let x1 := scanQual (publish (scanMove x n o.freq) n 0x0401 (b1 (opt / 2 % 8) ++ b2 idx ++ b4 o.freq ++
        leInt 1 o.level ++ b1 o.value) o.stamp) n o.freq o
      fset (match o.cand with
        | some (p, i) => scanSwept (scanCand x1 p i o) n p
        | none => x1) (F.SCAN_idx n) (idx + 1)) s)) ∧
  (∀ (n : Nat) (o : ScanObs) (s : State), (104 ≤ n ∨ stdOf s.chip n ≠ 7 ∨ (laneOf s.chip n).live = false ∨ o.touched = true) →
    exec (.scanRecord n o) s = .next s)

/-- Descriptors (R192, R193). -/
def Obligations.DescriptorCommands : Prop :=
  (∀ (c : Nat) (s : State), carrMine s.chip c = false → exec (.descCommit c) s = .next s) ∧
  (∀ (x : Chip) (c : Nat), isFoot x = false → carrMine x c = true) ∧
  (∀ (c : Nat) (s : State), c < 256 → mgmtUp s.chip = true → carrMine s.chip c = true →
    let x := s.chip
    let d := (overlay x x.staged (R.CARR_CFG c), overlay x x.staged (R.CARR_SRC c))
    let r := carrOf x c
    (r.due ≠ none → exec (.descCommit c) s = .next (onChip (fun x => setCarr x c { r with due := some d }) s)) ∧
    (r.due = none → descReason x c d ≠ 0 → exec (.descCommit c) s = .next (onChip (fun x => descReject x c (descReason x c d)) s)) ∧
    (r.due = none → descReason x c d = 0 → inProgress x c = true → exec (.descCommit c) s =
      .next (onChip (fun x => fset (setCarr x c { r with due := some d }) (F.CARR_CFG_commit c) 1) s)) ∧
    (r.due = none → descReason x c d = 0 → inProgress x c = false → exec (.descCommit c) s =
      .next (onChip (fun x => descInstall x c d) s))) ∧
  (∀ (x : Chip) (c why : Nat), c < 256 → why < 16 →
    let y := descReject x c why
    fget y (F.CARR_CFG_commit c) = 0 ∧ fget y (F.CARR_CFG_rej c) = 1 ∧ fget y (F.CARR_SRC_why c) = why ∧
    (carrOf y c).due = none ∧ smFind (R.CARR_CFG c) y.staged = none ∧ smFind (R.CARR_SRC c) y.staged = none ∧
    nextSeq y srcCarr = nextSeq x srcCarr + 1 ∧ (∀ b, b ∉ logRegs → b ≠ R.CARR_CFG c → b ≠ R.CARR_SRC c → rd y b = rd x b)) ∧
  (∀ (x : Chip) (c : Nat) (d : Word × Word), c < 256 →
    let y := descInstall x c d
    fon y (F.CARR_CFG_en c) = d.1.getLsbD 31 ∧ carrType y c = getBits d.1 20 4 ∧ fget y (F.CARR_CFG_ch c) = getBits d.1 14 6 ∧
    fget y (F.CARR_CFG_commit c) = 0 ∧ (carrOf y c).due = none ∧ (carrOf y c).disc = true ∧ carrState y c = ownState y c ∧
    nextSeq y srcCarr = nextSeq x srcCarr + 1) ∧
  (∀ (c : Nat) (d : Word × Word) (s : State), c < 256 → (carrOf s.chip c).due = some d →
    (descReason s.chip c d = 0 → exec (.descApply c) s = .next (onChip (fun x => descInstall x c d) s)) ∧
    (descReason s.chip c d ≠ 0 → exec (.descApply c) s = .next (onChip (fun x => descReject x c (descReason x c d)) s))) ∧
  (∀ (c : Nat) (s : State), (carrOf s.chip c).due = none → exec (.descApply c) s = .next s) ∧
  (∀ (x : Chip) (c : Nat) (d : Word × Word), (d.1.getLsbD 31 = false → descReason x c d = 0) ∧
    (d.1.getLsbD 31 = true → 5 ≤ getBits d.1 20 4 → descReason x c d = 3) ∧
    (d.1.getLsbD 31 = true → getBits d.1 20 4 < 5 →
      let ch := getBits d.1 14 6
      let badCh := ch = 0 ∨ (getBits d.1 20 4 = 0 ∧ 32 < ch) ∨ (getBits d.1 20 4 ≠ 0 ∧ ch ≠ 1)
      (badCh → descReason x c d = 1) ∧ (¬badCh → isHead x = true → c ∈ x.heldMap → descReason x c d = 2) ∧
      (¬badCh → (isHead x = false ∨ c ∉ x.heldMap) → 103 < getBits d.2 0 7 ∨ 103 < getBits d.2 8 7 ∨
        (getBits d.1 20 4 = 4 ∧ getBits d.2 8 7 < getBits d.2 0 7) → descReason x c d = 4)))

/-- Segments (R195 to R207). -/
def Obligations.SegmentCommands : Prop :=
  (∀ (x : Chip) (c : Nat) (first last unit : Bool) (payload : List Byte) (ts : Option Nat), isHead x = true → fget x F.LINK_STATE_state = 5 →
    let y := emit x c first last unit payload ts
    y.toLink = x.toLink ++ [⟨c, carrType x c, (if ts.isSome then 8 else 0) + (if unit = true ∧ (carrOf x c).disc = true then 4 else 0)
      + (if first then 2 else 0) + (if last then 1 else 0), payload, ts⟩] ∧
    y = { x with toLink := y.toLink, carr := y.carr } ∧ (∀ k, k ≠ c → carrOf y k = carrOf x k) ∧
    (carrOf y c).disc = ((carrOf x c).disc && !unit)) ∧
  (∀ (x : Chip) (c : Nat) (first last unit : Bool) (payload : List Byte) (ts : Option Nat), isHead x = true → fget x F.LINK_STATE_state ≠ 5 →
    let y := emit x c first last unit payload ts
    y = { x with carr := y.carr } ∧ (∀ k, k ≠ c → carrOf y k = carrOf x k) ∧ (carrOf y c).disc = ((carrOf x c).disc || unit)) ∧
  (∀ (c : Nat) (iq : CoachRun) (s : State), 256 ≤ c ∨ rfRuns s.chip = false → exec (.segmentComplete c iq) s = .next s) ∧
  (∀ (c : Nat) (s : State), c < 256 → rfRuns s.chip = true → carrTakes s.chip c 0 = true →
    let x := s.chip
    let r := carrOf x c
    let l := r.bound.getD (bindings x c)
    let j := r.next.getD (firstFrame x l r.began)
    (frameDue x l (j + framesOf x c - 1) = false → exec (.segmentComplete c ⟨0, [], []⟩) s = .next (onChip (fun x => carrStop x c) s)) ∧
    (frameDue x l (j + framesOf x c - 1) = true → exec (.segmentComplete c ⟨0, [], []⟩) s = .next (onChip (fun x =>
      let y := emit (if excess x c l then dropCount x c 1 else x) c true true true
        ((pcmWords x l (framesOf x c) (fget x (F.CARR_CFG_ch c)) j).flatMap b4) (some (frameStamp j))
      carrStop (setCarr y c { carrOf y c with next := some (j + framesOf x c), bound := some (bindings y c) }) c) s))) ∧
  (∀ (x : Chip) (l : List (Nat × Nat × Nat)) (chans k : Nat) (j : Int), k < chans →
    (∀ b ∈ l, ¬(b.2.1 ≤ k ∧ k < b.2.1 + b.2.2)) → (frameWords x l chans j)[k]? = some 4) ∧
  (∀ (x : Chip) (n : Nat) (t : Int), (laneOf x n).pcm = [] → laneSample x n t = (0, 0, 4)) ∧
  (∀ (c : Nat) (iq : CoachRun) (s : State), c < 256 → rfRuns s.chip = true → carrTakes s.chip c 3 = true →
    (bindings s.chip c).any (fun b => (laneOf s.chip b.1).live) = false →
    let n := fget s.chip (F.CARR_SRC_lane_lo c)
    let ok := iq.named.length = framesOf s.chip c ∧ stdOf s.chip n = mIq ∧ (laneOf s.chip n).live = true
    (¬ok → exec (.segmentComplete c iq) s = .next (onChip (fun x => carrStop x c) s)) ∧
    (ok → exec (.segmentComplete c iq) s = .next (onChip (fun x =>
      let d := (laneOf x n).dsp
      let w := iqWords x n d.dc (runSamples x n iq)
      let r := carrOf x c
      let y := setCarr (setDsp x n { d with dc := w.2 }) c { r with
        disc := r.disc || r.next != some (iq.first : Int), next := some ((iq.first + iq.named.length : Nat) : Int) }
      carrStop (emit y c true true true (w.1.flatMap b4)
        (some (toTicks (refOf (cfgOf x n) (gridAt x n iq.first)) % 2 ^ 64).toNat)) c) s))) ∧
  (∀ (c : Nat) (iq : CoachRun) (s : State), c < 256 → rfRuns s.chip = true → (∀ k, k < 4 → carrTakes s.chip c k = false) →
    (iq.named ≠ [] ∨ (bindings s.chip c).any (fun b => (laneOf s.chip b.1).live) = true) →
    exec (.segmentComplete c iq) s = .next (onChip (fun x => carrStop (discard x c 1) c) s)) ∧
  (∀ (x : Chip) (c : Nat), let y := discard x c 1
    (carrOf y c).disc = true ∧ (∀ b, b ∉ [R.CARR_DROP c, R.CARR_SRC c] → rd y b = rd x b) ∧ y.toLink = x.toLink) ∧
  (∀ (c : Nat) (q : SideRec) (rest : List SideRec) (s : State), c < 256 → rfRuns s.chip = true → carrTakes s.chip c 2 = true →
    (bindings s.chip c).any (fun b => (laneOf s.chip b.1).live) = false → (carrOf s.chip c).queue = q :: rest →
    (q.octets.length ≤ q.sent + 4095 → exec (.segmentComplete c ⟨0, [], []⟩) s = .next (onChip (fun x =>
      carrStop (emit (setCarr (match q.mot with
        | some t => freeMot x q.lane t
        | none => x) c { carrOf x c with queue := rest }) c (q.sent == 0) true (q.sent == 0) ((q.octets.drop q.sent).take 4095)
        (if q.sent = 0 then some q.stamp else none)) c) s)) ∧
    (q.sent + 4095 < q.octets.length → exec (.segmentComplete c ⟨0, [], []⟩) s = .next (onChip (fun x =>
      carrStop (emit (setCarr x c { carrOf x c with queue := { q with sent := q.sent + 4095 } :: rest }) c (q.sent == 0) false
        (q.sent == 0) ((q.octets.drop q.sent).take 4095) (if q.sent = 0 then some q.stamp else none)) c) s))) ∧
  (∀ (c : Nat) (s : State), c < 256 → rfRuns s.chip = true → (bindings s.chip c).any (fun b => (laneOf s.chip b.1).live) = false →
    (carrTakes s.chip c 2 = true → (carrOf s.chip c).queue = [] →
      exec (.segmentComplete c ⟨0, [], []⟩) s = .next (onChip (fun x => carrStop x c) s)) ∧
    (carrTakes s.chip c 1 = true → (carrOf s.chip c).units = [] →
      exec (.segmentComplete c ⟨0, [], []⟩) s = .next (onChip (fun x => carrStop x c) s)) ∧
    (∀ q rest, carrTakes s.chip c 1 = true → (carrOf s.chip c).units = q :: rest → q.octets.length ≤ q.sent + 4095 →
      exec (.segmentComplete c ⟨0, [], []⟩) s = .next (onChip (fun x => carrStop (emit (setCarr x c { carrOf x c with units := rest }) c
        (q.sent == 0) true (q.sent == 0) ((q.octets.drop q.sent).take 4095) (if q.sent = 0 then some q.stamp else none)) c) s)) ∧
    (∀ q rest, carrTakes s.chip c 1 = true → (carrOf s.chip c).units = q :: rest → q.sent + 4095 < q.octets.length →
      exec (.segmentComplete c ⟨0, [], []⟩) s = .next (onChip (fun x => carrStop (emit (setCarr x c { carrOf x c with
        units := { q with sent := q.sent + 4095 } :: rest }) c (q.sent == 0) false (q.sent == 0)
        ((q.octets.drop q.sent).take 4095) (if q.sent = 0 then some q.stamp else none)) c) s))) ∧
  (∀ (x : Chip) (c : Nat),
    (carrLocal x c = false ∨ carrState x c ≠ 1 ∨ ownState x c = 1 → carrStop x c = x) ∧
    (c < 256 → carrLocal x c = true → carrState x c = 1 → ownState x c ≠ 1 → let y := carrStop x c
      carrState y c = ownState x c ∧ (carrOf y c).disc = true ∧ (ownState x c = 3 → fget y F.MGMT_INT_CAUSE_carr = 1))) ∧
  (∀ (n stamp : Nat) (i : SideIn) (cands : List CandIn) (s : State),
    (∀ type payload, dUp s.chip = true → sideRecord s.chip n i = some (type, payload) → exec (.sideRecord n i stamp cands) s =
      .next (onChip (fun x => addCands (publish x n type payload stamp) n cands) s)) ∧
    (dUp s.chip = false ∨ sideRecord s.chip n i = none → exec (.sideRecord n i stamp cands) s = .next s)) ∧
  (∀ (x : Chip) (n type : Nat) (payload : List Byte) (stamp : Nat), n < 104 →
    (fon x (F.LANE_CARR_s_en n) = false → publish x n type payload stamp = x) ∧
    (fon x (F.LANE_CARR_s_en n) = true →
      let c := fget x (F.LANE_CARR_side n)
      let r := carrOf x c
      let seq := smGet (fun _ => 0) x.recSeq (c * 128 + n)
      (carrTakes x c 2 = false → publish x n type payload stamp = discard x c 1) ∧
      (carrTakes x c 2 = true → queued r.queue + (8 + payload.length) ≤ 65536 → publish x n type payload stamp =
        setCarr { x with recSeq := smPut (fun _ => 0) x.recSeq (c * 128 + n) ((seq + 1) % 256) } c { r with queue := r.queue ++
          [⟨n, type, b2 type ++ b1 n ++ b1 seq ++ b4 payload.length ++ payload, 0, stamp, none⟩] }))) ∧
  (∀ (c : Nat) (s : State), c < 256 → mgmtUp s.chip = true →
    let whole := carrType s.chip c == 0 || carrType s.chip c == 3 || carrType s.chip c == 4
    (carrState s.chip c = 1 → carrLocal s.chip c = true → exec (.keepalive c) s =
      .next (onChip (fun x => emit x c whole whole false [] (some x.tm.stime.toNat)) s)) ∧
    (carrState s.chip c ≠ 1 ∨ carrLocal s.chip c = false → exec (.keepalive c) s = .next s)) ∧
  (∀ (c : Nat) (s : State), c < 256 → mgmtUp s.chip = true → carrType s.chip c = 4 →
    let lanes := allLanes.filter fun n => decide (fget s.chip (F.CARR_SRC_lane_lo c) ≤ n) &&
      (decide (n ≤ fget s.chip (F.CARR_SRC_lane_hi c)) && (stdOf s.chip n != mOff && stdOf s.chip n != mSpare))
    (carrTakes s.chip c 4 = true → (lanes.any fun n => (laneOf s.chip n).live) = false → exec (.qualReport c) s =
      .next (onChip (fun x => emit x c true true false [] (some x.tm.stime.toNat)) s)) ∧
    (carrTakes s.chip c 4 = true → (lanes.any fun n => (laneOf s.chip n).live) = true → exec (.qualReport c) s =
      .next (onChip (fun x => emit { x with freeCount := x.freeCount + 104 } c true true true (lanes.flatMap (qualEntry x))
        (some x.tm.stime.toNat)) s)) ∧
    (carrTakes s.chip c 4 = false → exec (.qualReport c) s = .next (onChip (fun x =>
      let y := count x (R.CARR_DROP c) (F.CARR_SRC_wrap c) 1
      setCarr y c { carrOf y c with disc := true }) s))) ∧
  (∀ (c : Nat) (s : State), carrType s.chip c ≠ 4 → exec (.qualReport c) s = .next s) ∧
  (∀ (c : Nat) (s : State), mgmtUp s.chip = false → exec (.keepalive c) s = .next s ∧ exec (.qualReport c) s = .next s)

/-- Shedding and the ids of the foot (R208 to R211). -/
def Obligations.SheddingAndReservedIds : Prop :=
  (∀ s : State, isHead s.chip = true → fget s.chip F.LINK_STATE_state = 5 →
    exec .carrShed s = .next (onChip (fun x => shedLoop x 256) s) ∧
    (fits s.chip (demand s.chip) = true → exec .carrShed s = .next s) ∧
    (∀ c, fits s.chip (demand s.chip) = false → (carrRuns s.chip).foldl (shedFirst s.chip) none = some c →
      let y := carrShed s.chip c 0
      fits y (demand y) = true → exec .carrShed s = .next (onChip (fun _ => y) s))) ∧
  (∀ x : Chip, let y := shedLoop x 256
    fits y (demand y) = true ∨ carrRuns y = []) ∧
  (∀ (x : Chip) (c : Nat), (carrRuns x).foldl (shedFirst x) none = some c → carrState x c = 1 ∧ (carrOf x c).shed = none ∧
    ∀ d, d < 256 → carrState x d = 1 → (carrOf x d).shed = none → fget x (F.CARR_CFG_prio c) < fget x (F.CARR_CFG_prio d) ∨
      (fget x (F.CARR_CFG_prio c) = fget x (F.CARR_CFG_prio d) ∧ d ≤ c)) ∧
  (∀ (x : Chip) (c cause : Nat), c < 256 →
    let y := carrShed x c cause
    (carrOf y c).shed = some cause ∧ (carrOf y c).disc = true ∧ fget y F.MGMT_INT_CAUSE_carr = 1 ∧ nextSeq y srcCarr = nextSeq x srcCarr + 1 ∧
    (inProgress x c = true → carrState y c = carrState x c) ∧ (inProgress x c = false → carrState y c ≠ 1 ∧
      (fon x (F.CARR_CFG_en c) = true → c ∉ x.heldMap → carrState y c = 2)) ∧
    (∀ b, b ∉ logRegs → b ≠ R.CARR_CFG c → rd y b = rd x b)) ∧
  (∀ s : State, isHead s.chip = true → fget s.chip F.LINK_STATE_state = 5 →
    let pick := ((carrIn s.chip 2).filter fun c => (carrOf s.chip c).shed == some 0).foldl (restoreFirst s.chip) none
    (pick = none → exec .carrRestore s = .next s) ∧
    (∀ c, pick = some c →
      let d := addFrac (demand s.chip) (demandOf s.chip c)
      (fits s.chip (d.1 * 11, d.2 * 10) = false → exec .carrRestore s = .next s) ∧
      (fits s.chip (d.1 * 11, d.2 * 10) = true → exec .carrRestore s = .next (onChip (fun x =>
        raise (refreshState (carrBegin (setCarr x c { carrOf x c with shed := none, sent := [] }) c) c) srcCarr 0x04 (b1 c)) s)))) ∧
  (∀ s : State, isHead s.chip = false ∨ fget s.chip F.LINK_STATE_state ≠ 5 →
    exec .carrShed s = .next s ∧ exec .carrRestore s = .next s) ∧
  (∀ (payload : List Byte) (s : State), isHead s.chip = true →
    fget s.chip F.LINK_STATE_state = 4 ∨ fget s.chip F.LINK_STATE_state = 5 → payload.length = 32 →
    ∃ t, exec (.idmapSegment payload) s = .next t ∧ ChipOnly s t ∧ t.chip.heldMap = idsOf payload ∧
      (∀ c, c < 256 → (c ∈ idsOf payload ↔ (nth 0 payload (c / 8)).getLsbD (c % 8) = true)) ∧
      (∀ c, c < 256 → c ∈ idsOf payload → c ∉ s.chip.heldMap → inProgress s.chip c = false → carrState t.chip c = 3) ∧
      (∀ c, c < 256 → c ∈ idsOf payload → c ∉ s.chip.heldMap → inProgress s.chip c = true →
        rd t.chip (R.CARR_CFG c) = rd s.chip (R.CARR_CFG c)) ∧
      (∀ c, c < 256 → c ∉ idsOf payload → c ∈ s.chip.heldMap → carrState s.chip c = 3 →
        carrState t.chip c = ownState t.chip c ∧ (carrOf t.chip c).disc = true) ∧
      (∀ c, c < 256 → (c ∈ idsOf payload ↔ c ∈ s.chip.heldMap) → rd t.chip (R.CARR_CFG c) = rd s.chip (R.CARR_CFG c))) ∧
  (∀ (payload : List Byte) (s : State),
    (isHead s.chip = true → fget s.chip F.LINK_STATE_state = 4 ∨ fget s.chip F.LINK_STATE_state = 5 → payload.length ≠ 32 →
      exec (.idmapSegment payload) s = .next (onChip (fun x => peerViol x 8 (rd x R.LINK_TRAIN).toNat) s)) ∧
    (isHead s.chip = false ∨ fget s.chip F.LINK_STATE_state < 4 ∨ 5 < fget s.chip F.LINK_STATE_state →
      exec (.idmapSegment payload) s = .next s))

/-- The commands of self-test (R435, R436). -/
def Obligations.SelfTestMailboxCommands : Prop :=
  (∀ (o : Iface) (s : State), MboxServes s.chip 0x30 →
    let t := begun o 0x30 s
    let x := t.chip
    let n := arg x 0
    let early := 1 < pstate x ∨ (pstate x = 1 ∧ stdOf x n ≠ 0 ∧ stdOf x n ≠ 15)
    (104 ≤ n ∨ failed x n = true → exec (.bistLane o) s = .next (finished 0x05 0 t)) ∧
    (n < 104 → failed x n = false → x.bist.cmd ≠ none → exec (.bistLane o) s = .next (finished 0x01 0 t)) ∧
    (n < 104 → failed x n = false → x.bist.cmd = none → early → exec (.bistLane o) s = .next (finished 0x0B 0 t)) ∧
    (n < 104 → failed x n = false → x.bist.cmd = none → ¬early → x.bist.mig = none → x.bist.test = none → migWaits x n = false →
      exec (.bistLane o) s = .next (finished 0x00 0
        (onChip (fun _ => runLane { x with bist := { x.bist with cmd := some ⟨0x30, [], 0, false⟩ } } n) t))) ∧
    (n < 104 → failed x n = false → x.bist.cmd = none → ¬early →
      (x.bist.mig ≠ none ∨ x.bist.test ≠ none ∨ migWaits x n = true) → exec (.bistLane o) s = .next (finished 0x00 0
        (onChip (fun _ => { x with bist := { x.bist with cmd := some ⟨0x30, [n], 0, false⟩ } }) t)))) ∧
  (∀ (o : Iface) (s : State), MboxServes s.chip 0x33 →
    let t := begun o 0x33 s
    let x := t.chip
    let n := arg x 0
    (104 ≤ n → exec (.bistRetest o) s = .next (finished 0x05 0 t)) ∧
    (n < 104 → x.bist.cmd ≠ none → exec (.bistRetest o) s = .next (finished 0x01 0 t)) ∧
    (n < 104 → x.bist.cmd = none → failed x n = false ∨ 1 < pstate x → exec (.bistRetest o) s = .next (finished 0x0B 0 t)) ∧
    (n < 104 → x.bist.cmd = none → failed x n = true → pstate x ≤ 1 → x.bist.mig = none → x.bist.test = none → migWaits x n = false →
      exec (.bistRetest o) s = .next (finished 0x00 0
        (onChip (fun _ => testStart { x with bist := { x.bist with cmd := some ⟨0x33, [], 0, false⟩ } } n false (some 0)) t)))) ∧
  (∀ (o : Iface) (s : State), MboxServes s.chip 0x31 →
    let t := begun o 0x31 s
    let x := t.chip
    let l := (List.range 13).filter fun u => arg x 0 / 2 ^ u % 2 == 1
    (l = [] → exec (.bistCoach o) s = .next (finished 0x05 0 t)) ∧
    (l ≠ [] → x.bist.cmd ≠ none → exec (.bistCoach o) s = .next (finished 0x01 0 t)) ∧
    (l ≠ [] → x.bist.cmd = none → pstate x ≠ 1 → exec (.bistCoach o) s = .next (finished 0x0B 0 t)) ∧
    (l ≠ [] → x.bist.cmd = none → pstate x = 1 → ∃ y, exec (.bistCoach o) s = .next (finished 0x00 0 (onChip (fun _ => y) t)) ∧
      y = { x with regs := y.regs, bist := { x.bist with cmd := some ⟨0x31, l, 0, false⟩ } } ∧
      fget y F.BIST_STATUS_phase = 3 ∧ fget y F.BIST_STATUS_busy = 1 ∧
      ∀ c, c < 13 → fon y (F.COACH_BIST_STATUS_busy c) = decide (c ∈ l.take 4))) ∧
  (∀ (o : Iface) (s : State), MboxServes s.chip 0x32 →
    let t := begun o 0x32 s
    let x := t.chip
    let l := (List.range 4).filter fun u => arg x 0 / 2 ^ u % 2 == 1
    (l = [] → exec (.bistSplitter o) s = .next (finished 0x05 0 t)) ∧
    (l ≠ [] → x.bist.cmd ≠ none → exec (.bistSplitter o) s = .next (finished 0x01 0 t)) ∧
    (l ≠ [] → x.bist.cmd = none → pstate x ≠ 1 → exec (.bistSplitter o) s = .next (finished 0x0B 0 t)) ∧
    (l ≠ [] → x.bist.cmd = none → pstate x = 1 → ∃ y, exec (.bistSplitter o) s = .next (finished 0x00 0 (onChip (fun _ => y) t)) ∧
      y = { x with regs := y.regs, bist := { x.bist with cmd := some ⟨0x32, l, 0, false⟩ } } ∧
      fget y F.BIST_STATUS_phase = 4 ∧ fget y F.BIST_STATUS_busy = 1 ∧
      ∀ a, a < 4 → fon y (F.SPL_BIST_busy.bit a) = decide (a ∈ l.take 2))) ∧
  (∀ (u : Nat) (sig : Word) (pass : Bool) (c : BistCmd) (s : State), s.chip.bist.cmd = some c → c.ended = false →
    (c.code = 0x31 → u ∈ c.left.take 4 →
      let y := fsets s.chip [(F.COACH_BIST_SIG_sig u, sig.toNat), (F.COACH_BIST_STATUS_result u, if pass then 1 else 2),
        (F.COACH_BIST_STATUS_failed u, if pass then 0 else 0xFF)]
      exec (.coachTestDone false u sig pass) s = .next (onChip (fun _ => setUnits (if pass then y else coachFailed y u sig.toNat) c
        (c.left.erase u)) s)) ∧
    (c.code = 0x32 → u ∈ c.left.take 2 → exec (.coachTestDone true u sig pass) s = .next (onChip (fun x =>
      setUnits (fset x ⟨R.SPL_BIST, 8 + 2 * u, 2⟩ (if pass then 1 else 2)) c (c.left.erase u)) s))) ∧
  (∀ (sp pass : Bool) (u : Nat) (sig : Word) (s : State), s.chip.bist.cmd = none → exec (.coachTestDone sp u sig pass) s = .next s) ∧
  (∀ (o : Iface) (s : State), MboxServes s.chip 0x34 → ∃ l : List Byte, l.length = 832 ∧
    exec (.bistReport o) s = .next (finished 0x00 832 (putWin (begun o 0x34 s) 0 l)) ∧
    ∀ n, n < 104 → (l.drop (8 * n)).take 8 = reportBytes (begun o 0x34 s).chip n) ∧
  (∀ (c : BistCmd) (s : State), s.chip.bist.cmd = some c →
    (c.ended = true → exec .bistDone s = .next (onChip (fun x => setCause (raise { x with bist := { x.bist with cmd := none } } srcBist 0x0A
      (b1 c.code ++ b1 c.status)) .bist) s)) ∧
    (c.ended = false → exec .bistDone s = .next s)) ∧
  (∀ s : State, s.chip.bist.cmd = none → exec .bistDone s = .next s)

/-- Lane tests and migrations (R426 to R437). -/
def Obligations.LaneTestsAndMigrations : Prop :=
  (∀ s : State, partRuns s.chip = true →
    let x := fflag s.chip F.BIST_STATUS_paused (pstate s.chip != 0 || fon s.chip F.SUP_STATUS_ew)
    (cmdWaits s.chip = none → (s.chip.bist.mig ≠ none ∨ s.chip.bist.test ≠ none ∨ fon s.chip F.BIST_CTRL_en = false ∨ pstate s.chip ≠ 0 ∨
      fon s.chip F.SUP_STATUS_ew = true) → exec .bistSchedule s = .next (onChip (fun _ => x) s)) ∧
    (∀ n, cmdWaits s.chip = none → s.chip.bist.mig = none → s.chip.bist.test = none → fon s.chip F.BIST_CTRL_en = true → pstate s.chip = 0 →
      fon s.chip F.SUP_STATUS_ew = false → healthyFrom s.chip (fget s.chip F.BIST_SPARES_next) = some n →
      (migWaits s.chip n = true → exec .bistSchedule s = .next (onChip (fun _ => x) s)) ∧
      (migWaits s.chip n = false → exec .bistSchedule s = .next (onChip (fun _ =>
        runLane (fset x F.BIST_SPARES_next ((healthyFrom s.chip ((n + 1) % 104)).getD n)) n) s)) ∧
      (migWaits s.chip n = false → stdOf s.chip n = 0 ∨ stdOf s.chip n = 15 → ∃ t, exec .bistSchedule s = .next t ∧ ChipOnly s t ∧
        t.chip.bist.test = some ⟨n, false, none⟩ ∧ t.chip.bist.mig = none ∧ fget t.chip F.BIST_STATUS_phase = 2 ∧
        fget t.chip F.BIST_STATUS_lane = n ∧ fget t.chip F.BIST_STATUS_busy = 1)) ∧
    (cmdWaits s.chip = none → healthyFrom s.chip (fget s.chip F.BIST_SPARES_next) = none → exec .bistSchedule s = .next (onChip (fun _ => x) s)) ∧
    (∀ n code, cmdWaits s.chip = some (n, code) →
      ((s.chip.bist.mig ≠ none ∨ s.chip.bist.test ≠ none ∨ migWaits s.chip n = true) → exec .bistSchedule s = .next (onChip (fun _ => x) s)) ∧
      (s.chip.bist.mig = none → s.chip.bist.test = none → migWaits s.chip n = false → exec .bistSchedule s = .next (onChip (fun _ =>
        let y := { x with bist := { x.bist with cmd := x.bist.cmd.map fun c => { c with left := [] } } }
        if code = 0x33 then testStart y n false (some 0) else runLane y n) s)))) ∧
  (∀ s : State, partRuns s.chip = false → exec .bistSchedule s = .next s ∧ exec .bistAbort s = .next s) ∧
  (∀ (x : Chip) (n : Nat), (stdOf x n = 0 ∨ stdOf x n = 15 → runLane x n = testStart x n false none) ∧
    (stdOf x n ≠ 0 → stdOf x n ≠ 15 → (∀ d, migDest x = some d → runLane x n = migStart x n d) ∧
      (migDest x = none → runLane x n = cmdEnds (fset (raise x srcBist 0x06 (b1 n ++ b1 0)) F.BIST_STATUS_no_dest 1) 0x09))) ∧
  (∀ (x : Chip) (d : Nat), migDest x = some d → d < 104 ∧ failed x d = false ∧ (stdOf x d = 15 ∨ stdOf x d = 0) ∧
    (∀ k, k < d → stdOf x k = stdOf x d → failed x k = true ∨ x.bist.test.map LaneTest.lane = some k) ∧
    (stdOf x d = 0 → ∀ k, k < 104 → stdOf x k = 15 → failed x k = true ∨ x.bist.test.map LaneTest.lane = some k)) ∧
  (∀ (m : Mig) (s : State), s.chip.bist.mig = some m → m.src < 104 → m.dst < 104 →
    (m.copied = true → exec .migStateCopy s = .next s) ∧
    (m.copied = false → ∃ t, exec .migStateCopy s = .next t ∧ ChipOnly s t ∧ t.chip.bist = { s.chip.bist with mig := some { m with copied := true } } ∧
      laneOf t.chip m.dst = { laneOf s.chip m.src with told := (laneOf t.chip m.dst).told } ∧ rd t.chip (R.LANE_STATUS m.dst) = rd s.chip (R.LANE_STATUS m.src) ∧
      rd t.chip (R.LANE_QUAL m.dst) = rd s.chip (R.LANE_QUAL m.src)) ∧
    (∀ stamp, m.copied = false → exec (.migDone stamp) s = .next s) ∧
    (∀ stamp, m.copied = true → ∃ t, exec (.migDone stamp) s = .next t ∧ ChipOnly s t ∧ t.chip.bist.mig = none ∧
      t.chip.bist.test = some ⟨m.src, false, none⟩ ∧ stdOf t.chip m.src = m.former % 16 ∧ fget t.chip F.BIST_STATUS_phase = 2 ∧
      fget t.chip F.BIST_STATUS_lane = m.src) ∧
    (∀ reason, reason < 2 → ∃ t, exec (.migAbort reason) s = .next t ∧ ChipOnly s t ∧ t.chip.bist.mig = none ∧
      t.chip.bist.test = s.chip.bist.test ∧ fget t.chip F.BIST_STATUS_phase = 0) ∧
    (∀ reason, 2 ≤ reason → ∃ t, exec (.migAbort reason) s = .next t ∧ ChipOnly s t ∧ t.chip.bist.mig = none ∧
      t.chip.bist.test = some ⟨m.dst, false, none⟩ ∧ fget t.chip F.BIST_STATUS_phase = 2)) ∧
  (∀ (stamp reason : Nat) (s : State), s.chip.bist.mig = none →
    exec .migStateCopy s = .next s ∧ exec (.migDone stamp) s = .next s ∧ exec (.migAbort reason) s = .next s) ∧
  (∀ (g : LaneTest) (sig : Word) (pass : Bool) (s : State), s.chip.bist.test = some g →
    let n := g.lane
    let x2 := fflag (fset (count s.chip R.BIST_RUN_COUNT F.BIST_STATUS_run_wrap 1) F.BIST_LAST_lane n) F.BIST_LAST_fail (!pass)
    let r := reportOf s.chip n
    let report := fun e : LaneReport => { x2 with bist := { x2.bist with reports := smPut reportReset x2.bist.reports n e } }
    let passed := raise (report ⟨true, false, r.passes + 1, some s.chip.tm.ticks⟩) srcBist 0x04 (b1 n ++ b4 sig.toNat)
    let bad := report ⟨true, true, r.passes, r.last⟩
    (pass = true → g.retest = none → exec (.laneTestDone sig pass) s = .next (onChip (fun _ => cmdEnds (testFree passed n) 0) s)) ∧
    (pass = true → g.retest = some 0 → exec (.laneTestDone sig pass) s = .next (onChip (fun _ => testStart passed n false (some 1)) s)) ∧
    (∀ k, pass = true → g.retest = some k → k ≠ 0 → exec (.laneTestDone sig pass) s =
      .next (onChip (fun _ => cmdEnds (unfail (testFree passed n) n) 0) s)) ∧
    (pass = false → g.retest = none → g.second = false → exec (.laneTestDone sig pass) s =
      .next (onChip (fun _ => testStart bad n true none) s)) ∧
    (pass = false → g.retest = none → g.second = true → exec (.laneTestDone sig pass) s =
      .next (onChip (fun _ => cmdEnds (sparesNow (markFailed (testFree bad n) n 0 sig.toNat)) 0) s)) ∧
    (pass = false → g.retest ≠ none → exec (.laneTestDone sig pass) s = .next (onChip (fun _ => cmdEnds (testFree bad n) 0) s))) ∧
  (∀ (x : Chip) (n cause sig : Nat), n < 104 →
    let y := markFailed x n cause sig
    failed y n = true ∧ stdOf y n = 15 ∧ fget y F.BIST_STATUS_fail_new = 1 ∧ fget y F.MGMT_INT_CAUSE_bist = 1 ∧ 
    (laneOf y n).live = false ∧ laneOf y n = { laneReset n with pcm := (laneOf y n).pcm, turns := (laneOf y n).turns } ∧
    nextSeq y srcBist = nextSeq x srcBist + 1) ∧
  (∀ (sig : Word) (pass : Bool) (s : State), s.chip.bist.test = none → exec (.laneTestDone sig pass) s = .next s) ∧
  (∀ s : State, partRuns s.chip = true →
    (∀ m, s.chip.bist.mig = some m → exec .bistAbort s = .next (onChip (fun x => cmdAbandon (migAbort x m 1)) s)) ∧
    (∀ g, s.chip.bist.mig = none → s.chip.bist.test = some g → exec .bistAbort s = .next (onChip (fun x => cmdAbandon (cmdEnds
      (raise (testFree x g.lane) srcBist 0x06 (b1 g.lane ++ b1 1)) 0x09)) s)) ∧
    (s.chip.bist.mig = none → s.chip.bist.test = none → s.chip.bist.cmd = none → exec .bistAbort s = .next s))

/-- Trains, bursts and link states (R224 to R265). -/
def Obligations.LinkTrainsAndStates : Prop :=
  (∀ (x : Chip) (st : Nat), st ≤ 6 → linkState x ≠ st →
    let y := setLinkState x st
    linkState y = st ∧ fget y F.MGMT_INT_CAUSE_link = 1 ∧ y.lk.trains = 0 ∧ y.lk.missing = 0 ∧ y.lk.noBurst = 0) ∧
  (∀ s : State, headSends s.chip = true →
    ∀ noise : List Nat, ∃ t, exec (.trainTx noise) s = .next t ∧ ChipOnly s t ∧ rd t.chip R.LINK_TRAIN = BitVec.ofNat 32 s.chip.lk.next ∧
      t.chip.lk.next = (s.chip.lk.next + 1) % 2 ^ 32 ∧ t.chip.lk.slot = some 0 ∧ t.chip.lk.slotAt = s.chip.lk.next ∧
      t.chip.lk.txHdr.length = 28 ∧
      t.chip.lk.txHdr.take 4 = b4 s.chip.lk.next ∧ hdrCrcOk t.chip.lk.txHdr = true ∧ t.chip.lk.wave.symbols.take 2 =
        [syncSymbol 0 t.chip.lk.dn.notches, headerSymbol 0 t.chip.lk.dn.notches t.chip.lk.txHdr]) ∧
  (∀ (o : TrainObs) (s : State), footReceives s.chip = true →
    let bits := headerDecide o.soft
    let e := syncErrors (bits.take 32)
    let hdr := headerOf bits
    let tol := min 8 (fget s.chip F.LINK_SYNC_TOL_tol)
    let x1 := agcShow s.chip o.levels false
    let x2 := setRx (trackShow { x1 with lk := { x1.lk with missing := 0 } } o.cfo o.sco) 2
    let x3 := if e = 0 then x2 else count x2 R.LINK_SYNC_FIX_COUNT F.LINK_PHY_STATUS_fix_wrap 1
    (tol < e → ∃ t, exec (.trainRx o) s = .next t ∧ ChipOnly s t ∧ t.chip.lk.missing = s.chip.lk.missing + 1 ∧
      rd t.chip R.LINK_SYNC_MISS_COUNT = rd s.chip R.LINK_SYNC_MISS_COUNT + 1 ∧ t.chip.lk.hdr = none ∧ t.chip.lk.slot = none) ∧
    (e ≤ tol → dnHdrOk hdr = true → exec (.trainRx o) s = .next (onChip (fun _ => trainAccepted x3 o hdr false) s)) ∧
    (∀ p, e ≤ tol → dnHdrOk hdr = false → s.chip.lk.hdr = some p → hdr.take 26 = predictHdr p →
      exec (.trainRx o) s = .next (onChip (fun _ => trainAccepted (hdrPredicted x3) o hdr true) s)) ∧
    (e ≤ tol → dnHdrOk hdr = false → (∀ p, s.chip.lk.hdr = some p → hdr.take 26 ≠ predictHdr p) → ∃ t,
      exec (.trainRx o) s = .next t ∧ ChipOnly s t ∧ t.chip.lk.missing = 0 ∧ t.chip.lk.hdr = none ∧
      t.chip.lk.slot = s.chip.lk.expect.map (fun _ => 0) ∧ (∀ k, s.chip.lk.expect = some k → t.chip.lk.slotAt = k) ∧
      rd t.chip R.LINK_HDR_BAD_COUNT = rd s.chip R.LINK_HDR_BAD_COUNT + 1)) ∧
  (∀ s : State, footReceives s.chip = true → s.chip.lk.slot = some 0 →
    let k := s.chip.lk.slotAt
    (linkState s.chip = 2 → k % 2 = 0 → ∃ t, exec .burstTx s = .next t ∧ ChipOnly s t ∧ t.chip.lk.slot = some 1 ∧
      t.chip.lk.txSegs = [] ∧ t.chip.lk.txHdr = upHeader k 21 s.chip.lk.up.now.id s.chip.lk.dn.now.id true) ∧
    (linkState s.chip = 2 → k % 2 = 1 → exec .burstTx s = .next s) ∧
    (linkState s.chip = 4 ∨ linkState s.chip = 5 → k % 16 = 7 → exec .burstTx s = .next s) ∧
    (linkState s.chip = 4 ∨ linkState s.chip = 5 → k % 16 ≠ 7 →
      let x1 := txLevels (idmapSend s.chip)
      let q := packLink (segBytes 1 x1.lk.up.now 21) k x1.lk.out
      ∃ t, exec .burstTx s = .next t ∧ ChipOnly s t ∧ t.chip.lk.slot = some 1 ∧ t.chip.lk.out = q.2.1 ∧ t.chip.lk.txSegs = q.1 ∧
        t.chip.lk.txHdr = upHeader k (if q.1 = [] then 0 else 21) s.chip.lk.up.now.id s.chip.lk.dn.now.id false)) ∧
  (∀ (o : BurstObs) (s : State), headSends s.chip = true → s.chip.lk.slot ≠ none → linkState s.chip ≤ 5 →
    let k := trainNow s.chip
    let bits := headerDecide o.soft
    let hdr := headerOf bits
    let heard := syncErrors (bits.take 32) ≤ min 8 (fget s.chip F.LINK_SYNC_TOL_tol)
    let opens := if linkState s.chip = 2 then 5000 ≤ o.at_ ∧ o.at_ ≤ 25000
      else (o.at_ - 5000 - (fget s.chip F.LINK_RTT_ns : Nat)).natAbs ≤ 800
    let outside := ¬opens ∨ (k % 16 = 7 ∧ linkState s.chip ≠ 2)
    let barred := fun (x : Chip) => { x with lk := { x.lk with slot := some 2 } }
    (¬heard → exec (.burstRx o) s = .next s) ∧
    (heard → outside → exec (.burstRx o) s = .next (onChip (fun x => count (barred x) R.LINK_UP_BAD_COUNT (protoWrap 5) 1) s)) ∧
    (heard → ¬outside → upHdrOk hdr = false →
      exec (.burstRx o) s = .next (onChip (fun x => count (setRx (barred x) 2) R.LINK_UP_BAD_COUNT (protoWrap 5) 1) s)) ∧
    (heard → ¬outside → upHdrOk hdr = true → linkState s.chip = 2 → ∃ t, exec (.burstRx o) s = .next t ∧ ChipOnly s t ∧
      t.chip.lk.slot = some 1 ∧ t.chip.lk.noBurst = 0 ∧ t.chip.lk.bursts = s.chip.lk.bursts + 1 ∧
      fget t.chip F.LINK_RTT_ns = min (o.at_ - 5000).toNat 65535) ∧
    (heard → ¬outside → upHdrOk hdr = true →
      exec (.burstRx o) s = .next (onChip (fun x => burstGood (setRx (barred x) 2) o hdr k) s))) ∧
  (∀ s : State, (s.chip.lk.release = [] → exec .segmentRelease s = .next s) ∧
    (∀ l r, s.chip.lk.release = l :: r → ∃ t, exec .segmentRelease s = .next t ∧ ChipOnly s t ∧ t.chip.lk.release = r ∧
      t.chip = l.foldl outArrive { s.chip with lk := { s.chip.lk with release := r } })) ∧
  (∀ s : State,
    let head := isHead s.chip = true
    let st := linkState s.chip
    let dark := fon s.chip (F.CLK_OUT_en 1) = false
    let gone := (isFoot s.chip = true ∧ 2 ≤ st ∧ st ≤ 5 ∧ (dark ∨ 4 ≤ s.chip.lk.missing)) ∨ (head ∧ st = 5 ∧ (dark ∨ 128 ≤ s.chip.lk.noBurst))
    (head ∧ st = 2 ∧ 16 ≤ s.chip.lk.bursts ∧ 16 ≤ s.chip.lk.empties → exec .upSoundDone s = .next (onChip (fun x => setLinkState x 3) s)) ∧
    (¬(head ∧ st = 2 ∧ 16 ≤ s.chip.lk.bursts ∧ 16 ≤ s.chip.lk.empties) → exec .upSoundDone s = .next s) ∧
    (head ∧ st = 3 ∧ 8 ≤ s.chip.lk.trains → exec .dnSoundDone s = .next (onChip (fun x => setLinkState x 4) s)) ∧
    (¬(head ∧ st = 3 ∧ 8 ≤ s.chip.lk.trains) → exec .dnSoundDone s = .next s) ∧
    (head ∧ st = 4 ∧ 64 ≤ s.chip.lk.trains → exec .mapXchgTimeout s = .next (onChip (fun x => setLinkState x 2) s)) ∧
    (¬(head ∧ st = 4 ∧ 64 ≤ s.chip.lk.trains) → exec .mapXchgTimeout s = .next s) ∧
    (head ∧ st = 2 ∧ 256 ≤ s.chip.lk.noBurst → exec .trainFail s =
      .next (onChip (fun x => linkLeave (raise x srcLink 0x12 (b1 2 ++ b2s x.lk.noBurst)) true) s)) ∧
    (¬(head ∧ st = 2 ∧ 256 ≤ s.chip.lk.noBurst) → exec .trainFail s = .next s) ∧
    (gone → exec .linkLost s = .next (onChip (fun x => setLinkState x 6) s)) ∧ (¬gone → exec .linkLost s = .next s)) ∧
  (∀ (up : Bool) (s : State), (fon s.chip F.LINK_PHY_STATUS_ramp = true → up = decide (linkState s.chip ≠ 0) → ∃ t,
      exec (.txRamp up) s = .next t ∧ ChipOnly s t ∧ fon t.chip F.LINK_PHY_STATUS_ramp = false ∧ fon t.chip F.LINK_PHY_STATUS_tx_on = up ∧
      t.chip.lk.wave = ⟨[], [], 0, 0⟩) ∧
    (fon s.chip F.LINK_PHY_STATUS_ramp = false ∨ up ≠ decide (linkState s.chip ≠ 0) → exec (.txRamp up) s = .next s)) ∧
  (∀ s : State, (mgmtUp s.chip = true → isSolo s.chip = false → exec .linkRestart s = .next (onChip (fun x =>
      let x1 := linkLeave x true
      if isFoot x1 && (dUp x1 && !shed x1) then setLinkState x1 1 else x1) s)) ∧
    (mgmtUp s.chip = false ∨ isSolo s.chip = true → exec .linkRestart s = .next s))

/-- Loading maps (R260 to R264). -/
def Obligations.LoadingMaps : Prop :=
  (∀ (d : Nat) (s : State), proposes s.chip d = true →
    exec (.mapProposal d) s = .next (onChip (fun x => propose x d (trainNow x)) s)) ∧
  (∀ (x : Chip) (d : Nat) (snr : List Nat), d < 2 → snr ≠ [] → (∀ v ∈ snr, v ≤ 255) →
    let y := setSnr x d snr
    let low := if d = 0 then fget y F.LINK_SNR_dn_min else fget y F.LINK_SNR_up_min
    (dirOf y d).snr = snr ∧ low ∈ snr ∧ ∀ v ∈ snr, low ≤ v) ∧
  (∀ (x : Chip) (d now : Nat), d < 2 →
    let y := propose x d now
    ∃ m, m.id = (dirOf x d).nextId ∧ (dirOf y d).mine = (m :: (dirOf x d).mine).take 4 ∧
      (dirOf y d).nextId = (dirOf x d).nextId % 255 + 1 ∧ (dirOf y d).asked = some (m.id, now) ∧ (dirOf y d).now = (dirOf x d).now ∧
      (dirOf y d).sched = (dirOf x d).sched ∧ y.lk.out = x.lk.out ++ [⟨⟨m.id, 0xA, 3, proposeBytes d m, none⟩, none⟩] ∧
      (if d = 0 then 4112 else 1040) ≤ payloadBytes d m (fullSymbols d) ∧ dirOf y (1 - d) = dirOf x (1 - d)) ∧
  (∀ (d : Nat) (s : State), proposes s.chip d = false →
    exec (.mapProposal d) s = .next s ∧ exec (.mapProposeRepeat d) s = .next s) ∧
  (∀ (d id k : Nat) (s : State), proposes s.chip d = true → (dirOf s.chip d).asked = some (id, k) →
    let ago := (trainNow s.chip + 2 ^ 32 - k) % 2 ^ 32
    (ago < 16 → exec (.mapProposeRepeat d) s = .next s) ∧
    (∀ m, 16 ≤ ago → ((dirOf s.chip d).mine.find? fun m => m.id == id) = some m → ∃ t, exec (.mapProposeRepeat d) s = .next t ∧
      ChipOnly s t ∧ t.chip.lk.out = s.chip.lk.out ++ [⟨⟨id, 0xA, 3, proposeBytes d m, none⟩, none⟩] ∧
      (dirOf t.chip d).asked = some (id, trainNow s.chip))) ∧
  (∀ (d : Nat) (s : State), proposes s.chip d = true → (dirOf s.chip d).asked = none → exec (.mapProposeRepeat d) s = .next s) ∧
  (∀ (d : Nat) (s : State), 2 ≤ d ∨ transmits s.chip d = false ∨ (linkState s.chip ≠ 4 ∧ linkState s.chip ≠ 5) ∨
      (d = 1 ∧ linkAt s.chip % 16 = 7) → exec (.mapPropose d) s = .next s) ∧
  (∀ (d : Nat) (s : State), d < 2 → transmits s.chip d = true → linkState s.chip = 4 ∨ linkState s.chip = 5 →
    let a := if isHead s.chip then s.chip.lk.next else s.chip.lk.slotAt
    (d = 0 ∨ a % 16 ≠ 7) →
    exec (.mapPropose d) s = .next (onChip (fun x => proposalsArrive x d a) s) ∧
    ((∀ p ∈ (dirOf s.chip d).inbox, future p.due a = true) →
      exec (.mapPropose d) s = .next (onChip (fun x => setDir x d (dirOf x d)) s)) ∧
    (∀ p : Proposal, (dirOf s.chip d).inbox = [p] → future p.due a = false → (dirOf s.chip d).sched = none →
      (dirOf s.chip d).held = none → nakReason (dirOf s.chip d) d p = 0 →
      let at_ := (a + max 2 (fget s.chip F.LINK_MAP_CFG_lead)) % 2 ^ 32
      ∃ t h, exec (.mapPropose d) s = .next t ∧ ChipOnly s t ∧ (dirOf t.chip d).sched = some ⟨proposed d p, at_, h⟩ ∧
        (dirOf t.chip d).inbox = [] ∧ nextSeq t.chip srcLink = nextSeq s.chip srcLink + 1 ∧
        t.chip.lk.out = s.chip.lk.out ++ [⟨⟨p.id, 0xA, 3, ackBytes d at_, none⟩, some a⟩])) ∧
  (∀ (d : Nat) (c : Sched) (s : State), d < 2 → (dirOf s.chip d).sched = some c →
    let k := if isHead s.chip then s.chip.lk.next else nextTrain (trainNow s.chip)
    (future c.at_ k = false → ∃ t, exec (.mapSwitch d) s = .next t ∧ ChipOnly s t ∧ (dirOf t.chip d).now = c.map ∧
      (dirOf t.chip d).sched = none ∧ (linkState s.chip ≠ 4 → nextSeq t.chip srcLink = nextSeq s.chip srcLink + 1)) ∧
    (future c.at_ k = true → exec (.mapSwitch d) s = .next (onChip headRun s))) ∧
  (∀ (d : Nat) (s : State), 2 ≤ d → exec (.mapSwitch d) s = .next s) ∧
  (∀ (d : Nat) (s : State), d < 2 → (dirOf s.chip d).sched = none → exec (.mapSwitch d) s = .next (onChip headRun s)) ∧
  (∀ (p : List Byte) (s : State),
    let d := if isHead s.chip then 1 else 0
    (proposes s.chip d = false ∨ notchPairs p = none → exec (.notchSegment p) s = .next s) ∧
    (∀ l, proposes s.chip d = true → notchPairs p = some l → exec (.notchSegment p) s =
      .next (onChip (fun x => propose (setDir x d { dirOf x d with announced := some l }) d (trainNow x)) s))) ∧
  (∀ s : State, ((∀ e ∈ s.chip.lk.cwFails, 60 * 32768 ≤ (s.chip.tm.ticks - BitVec.ofNat 48 e.1).toNat) →
      exec .rateRecover s = .next (onChip (fun x => { x with lk := { x.lk with slow := false } }) s)) ∧
    ((∃ e ∈ s.chip.lk.cwFails, (s.chip.tm.ticks - BitVec.ofNat 48 e.1).toNat < 60 * 32768) → exec .rateRecover s = .next s))

/-- The whisper channel (R240 to R245). -/
def Obligations.WhisperCommands : Prop :=
  (∀ s : State,
    let sends := fun (cmd : Nat) => onChip (fun x =>
      { x with wsp := { x.wsp with sent := wspFrame x cmd, keyed := keying (wspFrame x cmd) } }) s
    (mgmtUp s.chip = true → isFoot s.chip = true → dUp s.chip = true →
      exec .wspSend s = .next (sends (fget s.chip F.LINK_WSP_TX_cmd))) ∧
    (mgmtUp s.chip = false ∨ isFoot s.chip = false ∨ dUp s.chip = false → exec .wspSend s = .next s) ∧
    (isFoot s.chip = true → dUp s.chip = true → linkState s.chip = 1 ∨ linkState s.chip = 6 →
      exec .wakeFrameTx s = .next (sends 0x57)) ∧
    (isFoot s.chip = false ∨ dUp s.chip = false ∨ (linkState s.chip ≠ 1 ∧ linkState s.chip ≠ 6) → exec .wakeFrameTx s = .next s)) ∧
  (∀ (x : Chip) (cmd : Nat), cmd < 256 → wspComplete (wspFrame x cmd) = true ∧ field (wspFrame x cmd) 0 1 = 0x7E ∧
    field (wspFrame x cmd) 1 1 = cmd ∧ field (wspFrame x cmd) 2 1 = (if cmd = 0x4E then 0 else 4)) ∧
  (∀ (f : List Byte) (i : Nat), i < 10 * f.length → (keying f)[i]? = some (decide (i % 10 = 0) ||
    (decide (i % 10 ≤ 8) && !(nth 0 f (i / 10)).getLsbD (i % 10 - 1)), if i % 3 = 2 then 426 else 427)) ∧
  (∀ (mv : List Nat) (s : State), wspRuns s.chip = true →
    exec (.wspCharacter mv) s = .next (onChip (fun x => mv.foldl wspTick x) s)) ∧
  (∀ (v : Nat) (s : State), wspRuns s.chip = true → s.chip.wsp.rx = none → s.chip.wsp.hold = none →
    let w := s.chip.wsp
    let c := if 150 ≤ v then true else if v ≤ 60 then false else w.carrier
    let osc := if c ≠ w.carrier then some 0 else match w.osc with
      | some n => if 3072 ≤ n + 1 then none else some (n + 1)
      | none => none
    exec (.wspCharacter [v]) s = .next (onChip (fun x =>
      { x with wsp := { w with carrier := c, osc := osc, rx := if c && !w.carrier then some [true] else none } }) s)) ∧
  (∀ x : Chip, mgmtUp x = true → x.pw.phase ≠ .glide →
    let buf := x.wsp.buf
    let old := if wspComplete buf then [] else buf
    let err := fun (y : Chip) => count y R.LINK_WSP_ERR_COUNT F.LINK_WSP_CFG_err_wrap 1
    (wspFramed x .nothing = x) ∧ (wspFramed x .falseStart = err x) ∧
    (∀ z : Bool, wspFramed x (.framing z) =
      raise (err { x with wsp := { x.wsp with buf := [] } }) srcLink 0x04 (b1 buf.length ++ b1 z.toNat)) ∧
    (∀ c : Byte, old = [] → wspFramed x (.char c) = { x with wsp := { x.wsp with buf := if c = 0x7E then [c] else [] } }) ∧
    (∀ c : Byte, old ≠ [] → ¬(old.length = 2 ∧ 8 < c.toNat) →
      wspFramed x (.char c) = { x with wsp := { x.wsp with buf := old ++ [c] } }) ∧
    (∀ c : Byte, old.length = 2 → 8 < c.toNat → wspFramed x (.char c) =
      raise (err { x with wsp := { x.wsp with buf := [], frame := none } }) srcLink 0x05 (b1 1))) ∧
  (∀ s : State, wspRuns s.chip = isHead s.chip) ∧
  (∀ s : State, wspRuns s.chip = true → mgmtUp s.chip = true → s.chip.pw.phase ≠ .glide →
    let buf := s.chip.wsp.buf
    let err := fun (x : Chip) => count x R.LINK_WSP_ERR_COUNT F.LINK_WSP_CFG_err_wrap 1
    let bad := fun (x : Chip) (why : Nat) => raise (err { x with wsp := { x.wsp with buf := [], frame := none } }) srcLink 0x05 (b1 why)
    (exec .wspBreak s = .next (onChip (fun x => raise (err { x with wsp :=
      { x.wsp with buf := [], carrier := true, rx := none, hold := some 0 } }) srcLink 0x04 (b1 buf.length ++ b1 1)) s)) ∧
    (buf ≠ [] → exec .wspFrameGap s = .next (onChip (fun x => bad x 2) s)) ∧ (buf = [] → exec .wspFrameGap s = .next s) ∧
    (wspComplete buf = false → exec .wspFrame s = .next s) ∧
    (wspComplete buf = true →
      let ok := crc8 ((buf.drop 1).take (buf.length - 2)) = field buf (buf.length - 1) 1
      let got := fun (x : Chip) => count x R.LINK_WSP_RX_COUNT F.LINK_WSP_CFG_rx_wrap 1
      (¬ok → exec .wspFrame s = .next (onChip (fun x => bad x 0) s)) ∧
      (ok → field buf 1 1 ∉ [0x57, 0x52, 0x4E] → exec .wspFrame s = .next (onChip (fun x => bad (got x) 3) s)) ∧
      (ok → field buf 1 1 ∈ [0x57, 0x52, 0x4E] → exec .wspFrame s = .next (onChip (fun x =>
        { got x with wsp := { x.wsp with buf := [], frame := some buf } }) s)))) ∧
  (∀ s : State, wspRuns s.chip = true → mgmtUp s.chip = false → ∃ t, exec .wspBreak s = .next t ∧ ChipOnly s t ∧
    rd t.chip R.LINK_WSP_ERR_COUNT = rd s.chip R.LINK_WSP_ERR_COUNT + 1 ∧
    (s.chip.pw.phase = .glide → t.chip.pw.wspGlideErr = s.chip.pw.wspGlideErr + 1) ∧
    t.chip.lg = s.chip.lg) ∧
  (∀ (mv : List Nat) (s : State), wspRuns s.chip = false → exec (.wspCharacter mv) s = .next s ∧ exec .wspFrame s = .next s ∧
    exec .wspFrameGap s = .next s ∧ exec .wspBreak s = .next s ∧ exec .wspWake s = .next s ∧ exec .wspReset s = .next s ∧
    exec .wspNop s = .next s) ∧
  (∀ (f : List Byte) (s : State), wspRuns s.chip = true → s.chip.wsp.frame = some f →
    let s1 := onChip (fun x => { x with wsp := { x.wsp with frame := none } }) s
    let right := field f 2 1 = 4 ∧ field f 3 4 = (rd s.chip R.LINK_WSP_PATTERN).toNat
    let acts := dUp s.chip = true ∧ linkState s.chip ≠ 5
    let resets := s.chip.pw.phase ≠ .waitPower ∧ s.chip.pw.nrst = false ∧ fon s.chip F.LINK_WSP_CFG_reset_en = true
    (field f 1 1 = 0x57 → field f 2 1 ≠ 4 → exec .wspWake s = .next (onChip (fun x => wspBad x 1) s1)) ∧
    (field f 1 1 = 0x57 → field f 2 1 = 4 → ¬right → exec .wspWake s = .next (onChip (fun x => wspBad x 4) s1)) ∧
    (field f 1 1 = 0x57 → right → gliding s.chip = true → fon s.chip F.LINK_WSP_CFG_wake_en = true → exec .wspWake s = .next (wakeUp s1 1 0)) ∧
    (field f 1 1 = 0x57 → right → gliding s.chip = false → acts → shed s.chip = false → exec .wspWake s =
      .next (onChip (fun x => linkTrain (raise x srcLink 0x06 (b1 1))) s1)) ∧
    (field f 1 1 = 0x57 → right → gliding s.chip = false → ¬acts ∨ shed s.chip = true → exec .wspWake s = .next s1) ∧
    (field f 1 1 = 0x52 → field f 2 1 ≠ 4 → exec .wspReset s = .next (onChip (fun x => wspBad x 1) s1)) ∧
    (field f 1 1 = 0x52 → field f 2 1 = 4 → ¬right → exec .wspReset s = .next (onChip (fun x => wspBad x 4) s1)) ∧
    (field f 1 1 = 0x52 → right → gliding s.chip = true → fon s.chip F.LINK_WSP_CFG_wake_en = true → exec .wspReset s = .next (wakeUp s1 1 0)) ∧
    (field f 1 1 = 0x52 → right → gliding s.chip = false → resets →
      exec .wspReset s = .next (softReset s1 1)) ∧
    (field f 1 1 = 0x52 → right → gliding s.chip = false → ¬resets →
      exec .wspReset s = .next s1) ∧
    (field f 1 1 = 0x4E → field f 2 1 = 0 → exec .wspNop s = .next s1) ∧
    (field f 1 1 = 0x4E → field f 2 1 ≠ 0 → exec .wspNop s = .next (onChip (fun x => wspBad x 1) s)))

/-- The control path (R267 to R272). -/
def Obligations.ControlPathCommands : Prop :=
  (∀ (o : Iface) (s : State), MboxServes s.chip 0x50 → fon s.chip F.MGMT_STATUS_busy = false →
    let t := begun o 0x50 s
    let x := t.chip
    let bad := fun (op : Nat) => remoteArgsOk x op = false
    let off := fun (op : Nat) => isFoot x = false ∨ (linkState x ≠ 5 ∧ op ≠ 4)
    let goes := fun (op : Nat) (u : State) =>
      let msg := requestOctets t x.cp.seq op
      ChipOnly t u ∧ u.chip.regs = x.regs ∧ u.chip.cp.seq = (x.cp.seq + 1) % 65536 ∧
      u.chip.cp.wait = some ⟨x.cp.seq, op, msg, linkState x == 5⟩ ∧
      (linkState x = 5 → u.chip.lk.out = x.lk.out ++ (ctrlSegs (msg.length + 1) msg true).map fun g => ⟨g, none⟩) ∧
      (linkState x ≠ 5 → u.chip.cp.freeLeft = 2 ∧ (dUp x = false → u.chip.lk = x.lk) ∧ (dUp x = true → u.chip.lk.out = x.lk.out ∧
        u.chip.lk.txSegs = ctrlSegs (msg.length + 1) msg true ∧ u.chip.lk.txHdr = upHeader 0xFFFFFFFF 21 0 0 false))
    (arg s.chip 0 = 1 → (bad 1 → exec (.remoteRead o) s = .next (finished 0x05 0 t)) ∧
      (¬bad 1 → off 1 → exec (.remoteRead o) s = .next (finished 0x0B 0 t)) ∧
      (¬bad 1 → ¬off 1 → ∃ u, exec (.remoteRead o) s = .next u ∧ goes 1 u)) ∧
    (arg s.chip 0 = 2 → (bad 2 → exec (.remoteWrite o) s = .next (finished 0x05 0 t)) ∧
      (¬bad 2 → off 2 → exec (.remoteWrite o) s = .next (finished 0x0B 0 t)) ∧
      (¬bad 2 → ¬off 2 → ∃ u, exec (.remoteWrite o) s = .next u ∧ goes 2 u)) ∧
    (arg s.chip 0 = 3 → (bad 3 → exec (.remoteMbox o) s = .next (finished 0x05 0 t)) ∧
      (¬bad 3 → off 3 → exec (.remoteMbox o) s = .next (finished 0x0B 0 t)) ∧
      (¬bad 3 → ¬off 3 → ∃ u, exec (.remoteMbox o) s = .next u ∧ goes 3 u)) ∧
    (arg s.chip 0 = 4 → (bad 4 → exec (.remotePower o) s = .next (finished 0x05 0 t)) ∧
      (¬bad 4 → off 4 → exec (.remotePower o) s = .next (finished 0x0B 0 t)) ∧
      (¬bad 4 → ¬off 4 → ∃ u, exec (.remotePower o) s = .next u ∧ goes 4 u))) ∧
  (∀ (msg : List Byte) (s : State), footReceives s.chip = true → linkState s.chip = 5 →
    msg.length < 4 ∨ responseOk (field msg 2 1) msg = false →
    exec (.ctrlResponse msg) s = .next (onChip (fun x => peerViol x 8 (trainNow x)) s)) ∧
  (∀ (msg : List Byte) (s : State), s.chip.cp.wait = none → 4 ≤ msg.length → responseOk (field msg 2 1) msg = true →
    exec (.ctrlResponse msg) s = .next s) ∧
  (∀ (msg : List Byte) (s : State), footReceives s.chip = false ∨ linkState s.chip ≠ 5 → exec (.ctrlResponse msg) s = .next s) ∧
  (∀ (msg : List Byte) (w : CpWait) (s : State), footReceives s.chip = true → linkState s.chip = 5 → s.chip.cp.wait = some w →
    responseOk (field msg 2 1) msg = true →
    let ours := field msg 0 2 = w.seq
    let x1 := setArg { s.chip with cp := { s.chip.cp with wait := none, freeLeft := 0 } } 0 (field msg 3 1)
    (4 ≤ msg.length → ours → field msg 2 1 ≠ w.op → exec (.ctrlResponse msg) s =
      .next (onChip (fun x => peerViol x 8 (trainNow x)) s)) ∧
    (4 ≤ msg.length → ¬ours → exec (.ctrlResponse msg) s = .next s) ∧
    (4 ≤ msg.length → ours → field msg 2 1 = w.op → w.op = 1 → exec (.ctrlResponse msg) s =
      .next (finished 0x00 (msg.length - 4) (putWin (onChip (fun _ => x1) s) 0 (msg.drop 4)))) ∧
    (4 ≤ msg.length → ours → field msg 2 1 = w.op → w.op = 2 ∨ w.op = 4 → exec (.ctrlResponse msg) s =
      .next (finished 0x00 0 (onChip (fun _ => x1) s)))) ∧
  (∀ (w : CpWait) (s : State), s.chip.cp.wait = some w →
    (exec .cpTimeout s = .next (finished 0x08 0 (onChip (fun x => let y := raise x srcLink 0x15 (b2 w.seq ++ b1 w.op)
      { y with cp := { y.cp with wait := none, freeLeft := 0 } }) s))) ∧
    (w.run = true → linkState s.chip = 5 → ∃ t, exec .cpRetry s = .next t ∧ ChipOnly s t ∧
      rd t.chip R.LINK_CP_RETRY_COUNT = rd s.chip R.LINK_CP_RETRY_COUNT + 1 ∧ t.chip.cp = s.chip.cp ∧
      t.chip.lk.out = s.chip.lk.out ++ (ctrlSegs (w.octets.length + 1) w.octets true).map fun g => ⟨g, none⟩) ∧
    (w.run = false ∨ linkState s.chip ≠ 5 → exec .cpRetry s = .next s) ∧
    (0 < s.chip.cp.freeLeft → ∃ t, exec .freeBurstRepeat s = .next t ∧ ChipOnly s t ∧ t.chip.regs = s.chip.regs ∧
      t.chip.cp = { s.chip.cp with freeLeft := s.chip.cp.freeLeft - 1 } ∧ (dUp s.chip = false → t.chip.lk = s.chip.lk) ∧
      (dUp s.chip = true → t.chip.lk.txSegs = ctrlSegs (w.octets.length + 1) w.octets true ∧
        t.chip.lk.txHdr = upHeader 0xFFFFFFFF 21 0 0 false ∧ t.chip.lk.out = s.chip.lk.out)) ∧
    (s.chip.cp.freeLeft = 0 → exec .freeBurstRepeat s = .next s)) ∧
  (∀ s : State, s.chip.cp.wait = none → exec .cpTimeout s = .next s ∧ exec .cpRetry s = .next s ∧
    exec .freeBurstRepeat s = .next s) ∧
  (∀ (msg : List Byte) (b : BusObs) (s : State), isHead s.chip = true → mgmtUp s.chip = true → linkState s.chip = 5 →
    s.chip.cp.queue = [] → 2 ≤ msg.length →
    let seq := field msg 0 2
    let r : CpReq := ⟨seq, field msg 2 1, msg, b⟩
    let kept := s.chip.cp.responses.find? fun e => e.1 == seq
    (∀ e, kept = some e → ∃ t, exec (.ctrlRequest msg b) s = .next t ∧ ChipOnly s t ∧ t.chip.regs = s.chip.regs ∧ t.chip.cp = s.chip.cp ∧
      t.chip.lk.out = s.chip.lk.out ++ (ctrlSegs (e.2.length + 1) e.2 true).map fun g => ⟨g, none⟩) ∧
    (kept = none → cpWell msg = false → exec (.ctrlRequest msg b) s =
      .next (cpRefuse (onChip (fun x => peerViol x 8 (trainNow x)) s) r 0x05)) ∧
    (kept = none → cpWell msg = true → cpWaits s.chip r = false → exec (.ctrlRequest msg b) s =
      .next (onChip (fun x => fset x F.LINK_PROTO_STATUS_cp_out x.cp.queue.length) (cpRun s r)))) ∧
  (∀ (r : CpReq) (s : State),
    let n := field r.octets 3 1
    let a := field r.octets 4 2
    (r.op = 1 → cpRun s r = onChip (fun x => cpReply x r.seq 1 0 (smGet (fun _ => []) x.rdata Iface.cp.code))
      (readBytes (onChip (fun x => noteWait x .cp r.obs.ns) s) .cp (fget s.chip F.GEN_CTRL_cp_bank) a (4 * n))) ∧
    (r.op = 2 ∨ r.op = 3 → fon s.chip F.LINK_CP_CFG_wr_en = false → cpRun s r = cpRefuse s r 0x06) ∧
    (r.op = 3 → fon s.chip F.LINK_CP_CFG_wr_en = true → 255 < a → cpRun s r = cpRefuse s r 0x05) ∧
    (r.op = 0 ∨ 4 < r.op → cpRun s r = cpRefuse s r 0x05)) ∧
  (∀ (msg : List Byte) (b : BusObs) (s : State), isHead s.chip = false ∨ mgmtUp s.chip = false ∨ linkState s.chip ≠ 5 →
    exec (.ctrlRequest msg b) s = .next s) ∧
  (∀ (msg : List Byte) (s : State), isHead s.chip = true → mgmtUp s.chip = true → shed s.chip = false →
    linkState s.chip = 0 ∨ linkState s.chip = 6 ∨ pstate s.chip = 2 →
    (msg.length < 8 → exec (.freeBurst msg) s = .next (onChip (fun x => peerViol x 8 (trainNow x)) s)) ∧
    (8 ≤ msg.length → field msg 2 1 ≠ 4 → pstate s.chip = 2 → exec (.freeBurst msg) s = .next (onChip burstBad s)) ∧
    (8 ≤ msg.length → field msg 2 1 ≠ 4 → pstate s.chip ≠ 2 → exec (.freeBurst msg) s = .next s) ∧
    (8 ≤ msg.length → field msg 2 1 = 4 → (mboxClosed s.chip = true ∨ field msg 0 2 ∈ s.chip.cp.freeSeen) →
      exec (.freeBurst msg) s = .next s) ∧
    (8 ≤ msg.length → field msg 2 1 = 4 → mboxClosed s.chip = false → field msg 0 2 ∉ s.chip.cp.freeSeen →
      let seen := s.chip.cp.freeSeen ++ [field msg 0 2]
      exec (.freeBurst msg) s = .next (onChip (fun x =>
        freePower { x with cp := { x.cp with freeSeen := seen.drop (seen.length - 8) } } (field msg 3 1)) s) ∧
      (mboxGate s.chip 0x18 ≠ none ∨ 3 < field msg 3 1 ∨ s.chip.pw.trans ≠ none → exec (.freeBurst msg) s = .next (onChip (fun x =>
        { x with cp := { x.cp with freeSeen := seen.drop (seen.length - 8) } }) s)))) ∧
  (∀ (msg : List Byte) (s : State), isHead s.chip = false ∨ mgmtUp s.chip = false ∨ shed s.chip = true ∨
    (linkState s.chip ≠ 0 ∧ linkState s.chip ≠ 6 ∧ pstate s.chip ≠ 2) → exec (.freeBurst msg) s = .next s) ∧
  (∀ (p : List Byte) (ago : Nat) (s : State),
    (footReceives s.chip = true → linkState s.chip = 5 → p.length = 22 → exec (.sampleMessage p) s = .next (onChip (fun x =>
      { x with cp := { x.cp with sample := some (field p 0 4, field p 4 8, field p 12 8, field p 20 2, x.tm.stime.toNat) } }) s)) ∧
    (footReceives s.chip = true → linkState s.chip = 5 → p.length ≠ 22 → exec (.sampleMessage p) s =
      .next (onChip (fun x => peerViol x 8 (trainNow x)) s)) ∧
    (footReceives s.chip = false ∨ linkState s.chip ≠ 5 → exec (.sampleMessage p) s = .next s) ∧
    (∀ (k : Nat) (at_ : BitVec 48), isFoot s.chip = true → linkState s.chip = 5 → s.chip.cp.heard = some (k, at_) →
      exec .wallSend s = .next (onChip (fun x => sendSeg x
        ⟨1, 9, 3, b4 k ++ le 8 (wall x - (x.tm.ticks - at_)).toNat ++ b2 (epoch x), none⟩ none) s)) ∧
    (isFoot s.chip = false ∨ linkState s.chip ≠ 5 ∨ s.chip.cp.heard = none → exec .wallSend s = .next s) ∧
    (isHead s.chip = true → linkState s.chip = 5 → p.length = 14 →
      let e := field p 12 2
      let diff : Int := (BitVec.ofNat 48 (field p 4 8 + 2 ^ 48 - halfRtt s.chip) - (wall s.chip - BitVec.ofNat 48 ago)).toInt
      let news := ∃ v, s.chip.cp.wallEpoch = some v ∧ v ≠ e
      (diff.natAbs ≤ fget s.chip F.LINK_TIME_CFG_tol → ¬news → exec (.wallMessage p ago) s =
        .next (onChip (fun x => { x with cp := { x.cp with wallEpoch := some e } }) s)) ∧
      (fget s.chip F.LINK_TIME_CFG_tol < diff.natAbs ∨ news → ∃ t, exec (.wallMessage p ago) s = .next t ∧ ChipOnly s t ∧
        wall t.chip = wall s.chip + BitVec.ofInt 48 diff ∧ rd t.chip R.LINK_TIME_STATUS = BitVec.ofInt 32 diff ∧
        t.chip.cp.wallEpoch = some e ∧ nextSeq t.chip srcLink = nextSeq s.chip srcLink + 1)) ∧
    (isHead s.chip = true → linkState s.chip = 5 → p.length ≠ 14 → exec (.wallMessage p ago) s =
      .next (onChip (fun x => peerViol x 8 (trainNow x)) s)) ∧
    (isHead s.chip = false ∨ linkState s.chip ≠ 5 → exec (.wallMessage p ago) s = .next s))

/-- Ports and carriage memory (R277 to R299). -/
def Obligations.PortsAndCarriageMemory : Prop :=
  (∀ (p : Nat) (v : Word) (s : State), p < 4 → mgmtUp s.chip = true → fon s.chip (F.APORT_STATUS_contend p) = false →
    let w := rwMerge (R.APORT_CFG p) (rd s.chip (R.APORT_CFG p)) v
    let x1 := wr s.chip (R.APORT_CFG p) w
    let moved := getBits (rd s.chip (R.APORT_CFG p)) 29 1 ≠ getBits w 29 1 ∧ portState s.chip p = 2
    (¬moved → exec (.aportCfgWrite p v) s = .next (onChip (fun _ => portEval x1 p) s)) ∧
    (moved → exec (.aportCfgWrite p v) s = .next (onChip (fun _ => portEval ((portCarrs x1 p).foldl playRefresh x1) p) s))) ∧
  (∀ (p : Nat) (v : Word) (s : State), p < 4 → mgmtUp s.chip = true →
    let w := rwMerge (R.APORT_CFG p) (rd s.chip (R.APORT_CFG p)) v
    let w1 := if fon s.chip (F.APORT_STATUS_contend p) then putBits w 31 1 (getBits (rd s.chip (R.APORT_CFG p)) 31 1) else w
    let x1 := wr s.chip (R.APORT_CFG p) w1
    ∃ t, exec (.aportCfgWrite p v) s = .next t ∧ ChipOnly s t ∧ rd t.chip (R.APORT_CFG p) = w1 ∧
      (dUp s.chip = true → portState s.chip p ≠ 3 → portAble x1 p = false → portState t.chip p = 0) ∧
      (dUp s.chip = true → portState s.chip p = 0 → portAble x1 p = true →
        portState t.chip p = (if fon x1 (F.APORT_CFG_sync_start p) then 1 else 2))) ∧
  (∀ (x : Chip) (p : Nat), p < 4 → dUp x = true → portState x p ≠ 3 →
    (portAble x p = false → portState (portEval x p) p = 0) ∧
    (portAble x p = true → portState x p = 0 → portState (portEval x p) p = (if fon x (F.APORT_CFG_sync_start p) then 1 else 2))) ∧
  (∀ (p e : Nat) (v : Word) (s : State), p < 4 → e < 4 → mgmtUp s.chip = true →
    let w := rwMerge (R.APORT_MAP p e) (rd s.chip (R.APORT_MAP p e)) v
    let x1 := wr (playsSettle s.chip) (R.APORT_MAP p e) w
    (rd s.chip (R.APORT_MAP p e) = w ∨ dUp s.chip = false → exec (.aportMapWrite p e v) s = .next (onChip (fun _ => x1) s)) ∧
    (rd s.chip (R.APORT_MAP p e) ≠ w → dUp s.chip = true →
      let x2 := setMuted x1 p ((portOf x1 p).muted.filter (· ≠ e))
      let old := rd s.chip (R.APORT_MAP p e)
      exec (.aportMapWrite p e v) s = .next (onChip (fun _ =>
        mapJudge (if portState x2 p = 2 then fadeOut (entryFade x2 p e old) p else x2) p) s)) ∧
    ∃ t, exec (.aportMapWrite p e v) s = .next t ∧ ChipOnly s t ∧ ∀ f ∈ [F.APORT_MAP_en p e, F.APORT_MAP_slot0 p e,
      F.APORT_MAP_n p e, F.APORT_MAP_ch0 p e, F.APORT_MAP_carr p e], fget t.chip f = fget x1 f) ∧
  (∀ (p e : Nat) (v : Word) (o : Iface) (s : State), mgmtUp s.chip = false → exec (.aportCfgWrite p v) s = .next s ∧
    exec (.aportMapWrite p e v) s = .next s ∧ exec (.hostRingRdWrite o v) s = .next s) ∧
  (∀ s : State, ∃ t, exec .syncInEdge s = .next t ∧ ChipOnly s t ∧
    ∀ p, p < 4 → portState t.chip p = (if portState s.chip p = 1 then 2 else portState s.chip p)) ∧
  (∀ (x : Chip) (c : Nat),
    (overrunNow x c = true ↔ playing x c = true ∧ 1536 < ((playOf x c).held.filter fun e => decide (frameNow x c < e.1)).length) ∧
    (underrunNow x c = true ↔ playing x c = true ∧ overrunNow x c = false ∧ ∀ e ∈ (playOf x c).held, e.1 ≠ frameNow x c)) ∧
  (∀ (c : Nat) (s : State), idleHead s.chip c = false →
    let faded := fun (t : State) => ChipOnly s t ∧ (playOf t.chip c).faded = true ∧ (playOf t.chip c).offset = none ∧
      (playOf t.chip c).held = [] ∧ fget t.chip F.MGMT_INT_CAUSE_aport = 1
    (underrunNow s.chip c = true → ∃ t, exec (.underrun c) s = .next t ∧ faded t ∧ ∀ p ∈ playingPorts s.chip c, fget t.chip (F.APORT_STATUS_underrun p) = 1 ∧
      rd t.chip (R.APORT_UNDER_COUNT p) = rd s.chip (R.APORT_UNDER_COUNT p) + 1 ∧
      nextSeq t.chip (srcAport p) = nextSeq s.chip (srcAport p) + 1) ∧
    (overrunNow s.chip c = true → ∃ t, exec (.overrun c) s = .next t ∧ faded t ∧ ∀ p ∈ playingPorts s.chip c, fget t.chip (F.APORT_STATUS_overrun p) = 1 ∧
      rd t.chip (R.APORT_OVER_COUNT p) = rd s.chip (R.APORT_OVER_COUNT p) + 1 ∧
      nextSeq t.chip (srcAport p) = nextSeq s.chip (srcAport p) + 1)) ∧
  (∀ (c n : Nat) (x : Chip) (p : Nat), p < 4 →
    rd (portUnder c n x p) (R.APORT_UNDER_COUNT p) = rd x (R.APORT_UNDER_COUNT p) + 1 ∧ fget (portUnder c n x p) (F.APORT_STATUS_underrun p) = 1 ∧
    rd (portOver c n x p) (R.APORT_OVER_COUNT p) = rd x (R.APORT_OVER_COUNT p) + 1 ∧ fget (portOver c n x p) (F.APORT_STATUS_overrun p) = 1 ∧
    nextSeq (portUnder c n x p) (srcAport p) = nextSeq x (srcAport p) + 1 ∧ nextSeq (portOver c n x p) (srcAport p) = nextSeq x (srcAport p) + 1) ∧
  (∀ (c : Nat) (s : State), idleHead s.chip c = true →
    let only := fun (t : State) => ChipOnly s t ∧ (playOf t.chip c).faded = false ∧ (playOf t.chip c).offset = none ∧
      t.chip.lg = s.chip.lg ∧ ∀ p, rd t.chip (R.APORT_UNDER_COUNT p) = rd s.chip (R.APORT_UNDER_COUNT p) ∧
        rd t.chip (R.APORT_OVER_COUNT p) = rd s.chip (R.APORT_OVER_COUNT p)
    (underrunNow s.chip c = true → ∃ t, exec (.underrun c) s = .next t ∧ only t) ∧
    (overrunNow s.chip c = true → ∃ t, exec (.overrun c) s = .next t ∧ only t)) ∧
  (∀ (c : Nat) (s : State), (underrunNow s.chip c = false → exec (.underrun c) s = .next s) ∧
    (overrunNow s.chip c = false → exec (.overrun c) s = .next s) ∧
    (playing s.chip c = false → ∀ p, exec (.slip p c) s = .next s)) ∧
  (∀ (c : Nat) (s : State), (∀ off, (playOf s.chip c).faded = true → fadeOver s.chip c = true →
      (playOf s.chip c).offset = some off → ∃ t,
      exec (.resume c) s = .next t ∧ ChipOnly s t ∧ playOf t.chip c = { playOf s.chip c with faded := false } ∧
      ∀ p ∈ playingPorts s.chip c, nextSeq t.chip (srcAport p) = nextSeq s.chip (srcAport p) + 1) ∧
    ((playOf s.chip c).faded = false ∨ fadeOver s.chip c = false ∨ (playOf s.chip c).offset = none →
      exec (.resume c) s = .next s)) ∧
  (∀ (p c : Nat) (s : State), p < 4 → portPlays s.chip p c = true → playing s.chip c = true → slips s.chip p c = true →
    ∃ t, exec (.slip p c) s = .next t ∧ ChipOnly s t ∧ rd t.chip (R.APORT_SLIP p) = rd s.chip (R.APORT_SLIP p) + 1 ∧
      OnlyRegsLog [R.APORT_SLIP p, R.APORT_STATUS p] { s.chip with ports := t.chip.ports } t.chip) ∧
  (∀ (p e : Nat) (s : State), p < 4 → e < 4 →
    let hears := examines s.chip p e = true ∧ preamble s.chip p e = true
    (hears → e ∉ (portOf s.chip p).muted → exec (.nonpcm p e) s = .next (onChip (fun x =>
      setCause (raise (setMuted x p ((portOf x p).muted ++ [e])) (srcAport p) 0x05 (b1 e ++ b1 1)) .aport) s)) ∧
    (¬hears ∨ e ∈ (portOf s.chip p).muted → exec (.nonpcm p e) s = .next s) ∧
    (e ∈ (portOf s.chip p).muted → ∃ t, exec (.nonpcmRelease p e) s = .next t ∧ ChipOnly s t ∧
      (portOf t.chip p).muted = (portOf s.chip p).muted.filter (· ≠ e) ∧ fget t.chip F.MGMT_INT_CAUSE_aport = 1 ∧
      (portOf t.chip p).rampIn = (portOf s.chip p).rampIn.set e (ownFrame s.chip p) ∧
      nextSeq t.chip (srcAport p) = nextSeq s.chip (srcAport p) + 1) ∧
    (e ∉ (portOf s.chip p).muted → exec (.nonpcmRelease p e) s = .next s)) ∧
  (∀ (p : Nat) (fsync : Bool) (s : State), p < 4 →
    (portState s.chip p = 2 → ∃ t, exec (.contend p fsync) s = .next t ∧ ChipOnly s t ∧ portState t.chip p = 3 ∧
      fget t.chip (F.APORT_CFG_en p) = 0 ∧ fget t.chip (F.APORT_STATUS_contend p) = 1 ∧ fget t.chip F.MGMT_INT_CAUSE_aport = 1) ∧
    (portState s.chip p ≠ 2 → exec (.contend p fsync) s = .next s)) ∧
  (∀ (o : Iface) (v : Word) (s : State), mgmtUp s.chip = true →
    let n := getBits v 0 22
    let ok := n % 4 = 0 ∧ n < fget s.chip F.HOST_RING_CFG_pages * 16384
    (ok → exec (.hostRingRdWrite o v) s = .next (onChip (fun x => hostShow (fset x F.HOST_RING_RD_rd n)) s)) ∧
    (¬ok → o = .hp → exec (.hostRingRdWrite o v) s = .next (onChip (fun x => hpViol x 6 R.HOST_RING_RD) s)) ∧
    (¬ok → o ≠ .hp → exec (.hostRingRdWrite o v) s = .next s)) ∧
  (∀ (g : Seg) (s : State), (s.chip.toOut.find? fun g => privSlots s.chip g == []) = some g →
    let x := s.chip
    let e := ringEntry x g
    let at_ := fget x F.HOST_RING_WR_wr
    let size := ringSize x
    let left := { x with toOut := x.toOut.erase g }
    (ringTakes x g = false → exec .ringEntry s = .next (onChip (fun _ => left) s)) ∧
    (ringTakes x g = true → exec .ringEntry s = .next (onChip hostShow (ringStore (onChip (fun _ => left) s) g))) ∧
    (ringTakes x g = true → at_ + e.length ≤ size → size < ringHeld x + e.length + 4 →
      exec .ringEntry s = .next (onChip (fun _ => hostShow (ringDiscard left g.id)) s)) ∧
    (ringTakes x g = true → at_ + e.length ≤ size → ringHeld x + e.length + 4 ≤ size → ∃ t, exec .ringEntry s = .next t ∧
      bytesAt zeroByte t.mem.cmem (ringBase x + at_) e.length = e ∧ t.chip.toOut = x.toOut.erase g ∧
      fget t.chip F.HOST_RING_WR_wr = (at_ + e.length) % size % 2 ^ 22 ∧ t.mem = { s.mem with cmem := t.mem.cmem } ∧
      ∀ a, a < ringBase x + at_ ∨ ringBase x + at_ + e.length ≤ a → smGet zeroByte t.mem.cmem a = smGet zeroByte s.mem.cmem a)) ∧
  (∀ s : State, ((s.chip.toOut.find? fun g => privSlots s.chip g == []) = none → exec .ringEntry s = .next s) ∧
    ((s.chip.toOut.find? fun g => privSlots s.chip g != []) = none → exec .privWrite s = .next s) ∧
    (∀ g, (s.chip.toOut.find? fun g => privSlots s.chip g != []) = some g → exec .privWrite s =
      .next ((privSlots s.chip g).foldl (privStore g) (onChip (fun x => { x with toOut := x.toOut.erase g }) s))) ∧
    (∀ g, (s.chip.toOut.find? fun g => privSlots s.chip g != []) = some g → ∃ t, exec .privWrite s = .next t ∧
      t.chip.toOut = s.chip.toOut.erase g ∧ t.mem = { s.mem with cmem := t.mem.cmem } ∧ t.pending = s.pending ∧
      (∀ i ∈ privSlots s.chip g, 0 < segFrames s.chip g → (privOf t.chip i).total = ((privOf s.chip i).total + segFrames s.chip g) % 2 ^ 32) ∧
      ∀ a, (∀ i ∈ privSlots s.chip g, let r := privOf s.chip i; 0 < r.len ∧ (a < r.base ∨ r.base + r.bytes ≤ a)) →
        smGet zeroByte t.mem.cmem a = smGet zeroByte s.mem.cmem a)) ∧
  (∀ (g : Seg) (s : State) (i a : Nat), let r := privOf s.chip i
    let t := privStore g s i
    t.mem = { s.mem with cmem := t.mem.cmem } ∧
    (0 < r.len → a < r.base ∨ r.base + r.bytes ≤ a → smGet zeroByte t.mem.cmem a = smGet zeroByte s.mem.cmem a))

/-- The control bus (R305 to R317). -/
def Obligations.ControlBusCommands : Prop :=
  (∀ (hi lo : Byte) (data : List Byte) (stop : Bool) (b : BusObs) (s : State), mgmtUp s.chip = true →
    let p := hi.toNat * 256 + lo.toNat
    ∃ u, ChipOnly s u ∧ exec (.twbWrite (hi :: lo :: data) stop b) s = .next (if stop then twbStop b u else u) ∧
      u.chip.twb = { s.chip.twb with busOpen := !stop, held := s.chip.twb.held ++ (twbHold data p).1 } ∧
      rd u.chip R.TWB_XFER_COUNT = rd s.chip R.TWB_XFER_COUNT + 1 ∧ fget u.chip F.TWB_PTR_ptr = (twbHold data p).2 ∧
      fget u.chip F.TWB_STATUS_role = (if stop then 0 else 1)) ∧
  (∀ (data : List Byte) (p : Nat), (twbHold data p).2 = p - p % 64 + (p % 64 + data.length) % 64 ∧
    (twbHold data p).1 = data.zipIdx.map fun e => (p - p % 64 + (p % 64 + e.2) % 64, e.1)) ∧
  (∀ (b : BusObs) (s : State),
    let s1 := onChip (fun x => { x with twb := { x.twb with held := [] } }) s
    (s.chip.twb.held = [] → twbStop b s = s) ∧
    (∀ (a : Nat) (c d e f : Byte), s.chip.twb.held = [(a, c), (a + 1, d), (a + 2, e), (a + 3, f)] → a % 4 = 0 → isReg a = true →
      twbStop b s = busWord s1 .twb a (BitVec.ofNat 32 (unle [c, d, e, f])) b) ∧
    (∀ (a : Nat) (c : Byte), s.chip.twb.held = [(a, c)] → mgmtUp s.chip = true →
      (isReg a = true → twbStop b s = onChip (fun x => twbViol x 2) s1) ∧
      (isReg a = false → isWin a = true → twbStop b s = writeWin s1 (a - 0x8000) [c]) ∧
      (isReg a = false → isWin a = false → twbStop b s = onChip (fun x => twbViol x 4) s1))) ∧
  (∀ (b : BusObs) (s : State), mgmtUp s.chip = true → s.chip.twb.held = [] → ∃ t, exec (.twbProbe b) s = .next t ∧ ChipOnly s t ∧
    exec (.twbWrite [] true b) s = .next t ∧ rd t.chip R.TWB_XFER_COUNT = rd s.chip R.TWB_XFER_COUNT + 1 ∧ fget t.chip F.TWB_STATUS_role = 0 ∧
    t.chip.twb = { s.chip.twb with busOpen := false } ∧ OnlyRegs [R.TWB_XFER_COUNT, R.TWB_STATUS, R.GEN_WAIT] { s.chip with twb := t.chip.twb } t.chip) ∧
  (∀ (n : Nat) (stop : Bool) (b : BusObs) (s : State), mgmtUp s.chip = true →
    let p := fget s.chip F.TWB_PTR_ptr
    exec (.twbRead n stop b) s = .next (twbEnd stop b (onChip (fun x => fset x F.TWB_PTR_ptr ((p + n) % 65536))
      (readBytes (onChip (fun x => noteWait (count x R.TWB_XFER_COUNT (F.TWB_STATUS_wrap.bit 6) 1) .twb b.ns) s) .twb
        (fget s.chip F.TWB_BANK_bank) p n)))) ∧
  (∀ (n : Nat) (stop : Bool) (b : BusObs) (s : State), mgmtUp s.chip = true → stop = false ∨ s.chip.twb.held = [] →
    ∃ t l, exec (.twbRead n stop b) s = .next t ∧ ChipOnly s t ∧ fget t.chip F.TWB_PTR_ptr = (fget s.chip F.TWB_PTR_ptr + n) % 65536 ∧
      fget t.chip F.TWB_STATUS_role = (if stop then 0 else 1) ∧ t.chip.twb = { s.chip.twb with busOpen := !stop } ∧
      l.length = n ∧ smGet (fun _ => []) t.chip.rdata Iface.twb.code = l) ∧
  (∀ (bytes : List Byte) (n : Nat) (stop : Bool) (b : BusObs) (s : State), mgmtUp s.chip = false → exec (.twbWrite bytes stop b) s = .next s ∧
    exec (.twbProbe b) s = .next s ∧ exec (.twbRead n stop b) s = .next s ∧ exec .twbBusError s = .next s ∧ exec .twbStuck s = .next s) ∧
  (∀ s : State, mgmtUp s.chip = true → ∃ t u, exec .twbBusError s = .next t ∧ exec .twbStuck s = .next u ∧ ChipOnly s t ∧ ChipOnly s u ∧
    t.chip.twb.held = [] ∧ u.chip.twb.held = [] ∧ fget t.chip F.TWB_STATUS_role = 0 ∧ fget u.chip F.TWB_STATUS_role = 0 ∧
    rd t.chip R.TWB_VIOL_COUNT = rd s.chip R.TWB_VIOL_COUNT + 1 ∧ rd u.chip R.TWB_VIOL_COUNT = rd s.chip R.TWB_VIOL_COUNT + 1 ∧
    fget t.chip F.TWB_ERR_bus_err = 1 ∧ fget u.chip F.TWB_ERR_stuck = 1 ∧ t.chip.twb.busOpen = false ∧ u.chip.twb.busOpen = false) ∧
  (∀ (byte : Nat) (s : State),
    let mine := fon s.chip F.TWB_CFG_glide_match = true ∧ byte / 2 = 0x5C + fget s.chip F.TWB_STATUS_addr
    (gliding s.chip = true → mine → exec (.twbWake byte) s = .next (wakeUp s 2 byte)) ∧
    (s.chip.pw.phase ≠ .glide → (s.chip.pw.trans.map Trans.target) = some 3 → mine → s.chip.pw.nrst = false → s.chip.pw.wake = none →
      exec (.twbWake byte) s = .next (onChip (fun x => { x with pw := { x.pw with wake := some ⟨2, byte⟩ } }) s)) ∧
    (gliding s.chip = false ∨ ¬mine → exec (.twbWake byte) s = .next s)) ∧
  (∀ (res : AttnRes) (s : State),
    let may := mgmtUp s.chip = true ∧ s.chip.twb.busOpen = false
    let msg := s.chip.twb.msg ≠ none
    let due := fon s.chip F.TWB_ATTN_CFG_en = true ∧ (rd s.chip R.MGMT_INT_CAUSE &&& rd s.chip R.MGMT_INT_EN) &&& ~~~ s.chip.twb.last &&& ~~~ s.chip.twb.stand ≠ 0
    let sent := fun (t : State) (m : Word) => ChipOnly s t ∧ t.chip.twb.msg = none ∧ t.chip.twb.last = m ∧
      rd t.chip R.TWB_ATTN_SENT = rd s.chip R.TWB_ATTN_SENT + 1 ∧ fget t.chip F.TWB_ATTN_CFG_busy = 0
    let now := rd s.chip R.MGMT_INT_CAUSE &&& rd s.chip R.MGMT_INT_EN
    (may → ¬msg → due → (∃ t, exec (.attnMessage .delivered) s = .next t ∧ sent t now) ∧
      ∃ t, exec (.busFree .delivered) s = .next t ∧ sent t now) ∧
    (∀ m, may → s.chip.twb.msg = some m → (∃ t, exec (.attnRetry .delivered) s = .next t ∧ sent t m.word) ∧
      ∃ t, exec (.busFree .delivered) s = .next t ∧ sent t m.word) ∧
    (may ∧ ¬msg ∧ due → exec (.attnMessage res) s = .next (onChip (fun x => attnTry x res) s)) ∧
    (¬(may ∧ ¬msg ∧ due) → exec (.attnMessage res) s = .next s) ∧
    (may ∧ msg → exec (.attnRetry res) s = .next (onChip (fun x => attnTry x res) s)) ∧ (¬(may ∧ msg) → exec (.attnRetry res) s = .next s) ∧
    (may ∧ (msg ∨ due) → exec (.busFree res) s = .next (onChip (fun x => attnTry x res) s)) ∧
    (¬(may ∧ (msg ∨ due)) → exec (.busFree res) s = .next s) ∧
    (¬(mgmtUp s.chip = true ∧ (msg ∨ due)) → exec .attnBusTimeout s = .next s) ∧
    (∀ m, mgmtUp s.chip = true → s.chip.twb.msg = some m → exec .attnBusTimeout s = .next (onChip (fun x => attnDrop x m 2) s))) ∧
  (∀ (x : Chip) (m : AttnMsg), x.twb.msg = some m →
    let y := attnTry x .delivered
    let z := attnTry x .refused
    (y.twb.msg = none ∧ y.twb.last = m.word ∧ y.twb.sent = m.octets ∧ rd y R.TWB_ATTN_SENT = rd x R.TWB_ATTN_SENT + 1 ∧ fget y F.TWB_ATTN_CFG_busy = 0) ∧
    rd z R.TWB_NACK_COUNT = rd x R.TWB_NACK_COUNT + 1 ∧
    (m.refusals < 3 → fon x F.TWB_ATTN_CFG_en = true → z.twb.msg = some { m with tries := m.tries + 1, refusals := m.refusals + 1 }) ∧
    (3 ≤ m.refusals → z.twb.msg = none ∧ rd z R.TWB_ATTN_DROP_COUNT = rd x R.TWB_ATTN_DROP_COUNT + 1 ∧ z.twb.stand = x.twb.stand ||| m.word) ∧
    (∀ byte bit, let v := attnTry x (.lost byte bit)
      rd v R.TWB_LOST = rd x R.TWB_LOST + 1 ∧
      (m.losses < 7 → fon x F.TWB_ATTN_CFG_en = true → v.twb.msg = some { m with tries := m.tries + 1, losses := m.losses + 1 }) ∧
      (m.losses < 7 → 50 ≤ v.twb.backoff ∧ v.twb.backoff ≤ 400) ∧
      (7 ≤ m.losses → v.twb.msg = none ∧ fget v F.TWB_ERR_drop = 1))) ∧
  (∀ x : Chip, x.twb.msg = none →
    let w := rd x R.MGMT_INT_CAUSE &&& rd x R.MGMT_INT_EN
    let body := b1 (0x5C + fget x F.TWB_STATUS_addr) ++ b1 x.twb.nextSeq ++ b4 w.toNat
    let y := attnTry x .delivered
    y.twb.sent = body ++ b1 (crc8 body) ∧ y.twb.last = w ∧ y.twb.msg = none ∧ y.twb.nextSeq = (x.twb.nextSeq + 1) % 256)

/-- The host port (R293 to R295). -/
def Obligations.HostPortCommands : Prop :=
  (∀ (addr n ns : Nat) (late : Bool) (s : State), mgmtUp s.chip = true →
    let a := addr % 65536
    let y := noteWait s.chip .hp ns
    let shortRead := onChip (fun x => hpViol x 1 a) s
    let lateRead := onChip (fun _ => giveBytes (hpViol (fset { y with host := { y.host with late := true } }
      F.HOST_STATUS_late 1) 7 a) .hp (List.replicate n 0xFF)) s
    (exec (.hpRead addr n ns late true) s = .next shortRead ∧ exec (.hpQread addr n ns late true) s = .next shortRead) ∧
    (exec (.hpRead addr n ns true false) s = .next lateRead ∧ exec (.hpQread addr n ns true false) s = .next lateRead) ∧
    (∃ t l, exec (.hpRead addr n ns false false) s = .next t ∧ exec (.hpQread addr n ns false false) s = .next t ∧ ChipOnly s t ∧
      l.length = n ∧ smGet (fun _ => []) t.chip.rdata Iface.hp.code = l ∧ t.chip.regs = y.regs ∧
      ∃ x1, hpSpan s n a (fget s.chip F.HOST_BANK_bank) none y = (x1, l) ∧ t.chip = giveBytes x1 .hp l)) ∧
  (∀ (addr n ns : Nat) (late short : Bool) (s : State), mgmtUp s.chip = false →
    let early := onChip (fun x => giveBytes x .hp ((List.range n).map fun i => hpEarly x (addr % 65536 + i))) s
    (s.chip.pw.phase = .starting → short = false → exec (.hpRead addr n ns late short) s = .next early ∧
      exec (.hpQread addr n ns late short) s = .next early) ∧
    (s.chip.pw.phase ≠ .starting ∨ short = true → exec (.hpRead addr n ns late short) s = .next s ∧
      exec (.hpQread addr n ns late short) s = .next s) ∧
    (∀ l b, exec (.hpWrite addr l short b) s = .next s ∧ exec (.hpQwrite addr l short b) s = .next s) ∧
    (∀ code, exec (.hpUnknownInstruction code) s = .next s)) ∧
  (∀ (x : Chip) (a : Nat), a % 4 = 0 → a ∉ [R.GEN_ID, R.GEN_REV, R.GEN_STATUS] → hpEarly x a = 0) ∧
  (∀ (addr : Nat) (l : List Byte) (b : BusObs) (s : State), mgmtUp s.chip = true →
    let a := addr % 65536
    let viol := fun (why : Nat) => onChip (fun x => hpViol x why a)
    let s1 := onChip (fun x => noteWait x .hp b.ns) s
    (exec (.hpWrite addr l true b) s = .next (viol 1 s) ∧ exec (.hpQwrite addr l true b) s = .next (viol 1 s)) ∧
    (isReg a = true → a % 4 ≠ 0 → exec (.hpWrite addr l false b) s = .next (viol 5 s) ∧
      exec (.hpQwrite addr l false b) s = .next (viol 5 s)) ∧
    (isReg a = false ∨ a % 4 = 0 → exec (.hpWrite addr [] false b) s = .next s1 ∧ exec (.hpQwrite addr [] false b) s = .next s1) ∧
    (∀ c d e f, l = [c, d, e, f] → isReg a = true → a % 4 = 0 →
      let u := busWord s1 .hp a (BitVec.ofNat 32 (unle l)) b
      exec (.hpWrite addr l false b) s = .next u ∧ exec (.hpQwrite addr l false b) s = .next u) ∧
    (∀ c, l = [c] → isReg a = true → a % 4 = 0 → exec (.hpWrite addr l false b) s = .next (viol 2 s1) ∧
      exec (.hpQwrite addr l false b) s = .next (viol 2 s1)) ∧
    (∀ c, l = [c] → isReg a = false → isWin a = true → exec (.hpWrite addr l false b) s = .next (writeWin s1 (a - 0x8000) [c]) ∧
      exec (.hpQwrite addr l false b) s = .next (writeWin s1 (a - 0x8000) [c])) ∧
    (∀ c, l = [c] → isReg a = false → isWin a = false → exec (.hpWrite addr l false b) s = .next (viol 4 s1) ∧
      exec (.hpQwrite addr l false b) s = .next (viol 4 s1))) ∧
  (∀ s : State, (mgmtUp s.chip = true → ∃ t, exec .hpStatus s = .next t ∧ ChipOnly s t ∧
      t.chip = { s.chip with host := { s.chip.host with late := false, violated := false }, rdata := t.chip.rdata } ∧
      smGet (fun _ => []) t.chip.rdata Iface.hp.code = b1 ((if hostInt s.chip then 1 else 0) + (if s.chip.host.late then 2 else 0)
        + (if s.chip.host.violated then 4 else 0) + (if ringFull s.chip then 8 else 0))) ∧
    (mgmtUp s.chip = false → s.chip.pw.phase = .starting → exec .hpStatus s = .next (onChip (fun x => giveBytes x .hp [0]) s)) ∧
    (mgmtUp s.chip = false → s.chip.pw.phase ≠ .starting → exec .hpStatus s = .next s)) ∧
  (∀ (code : Nat) (s : State), mgmtUp s.chip = true →
    (code % 256 ∈ [0x0B, 0x02, 0xEB, 0x38, 0x05] → exec (.hpUnknownInstruction code) s = .next s) ∧
    (code % 256 ∉ [0x0B, 0x02, 0xEB, 0x38, 0x05] → exec (.hpUnknownInstruction code) s = .next (onChip (fun x => hpViol x 3 0) s))) ∧
  (∀ (x : Chip) (reason a : Nat), let y := hpViol x reason a
    rd y R.HOST_VIOL_COUNT = rd x R.HOST_VIOL_COUNT + 1 ∧ fget y F.HOST_STATUS_viol = 1 ∧ y.host.violated = true ∧
    (limitOk x (smFind reason x.host.viol) = true → nextSeq y srcHost = nextSeq x srcHost + 1) ∧
    (limitOk x (smFind reason x.host.viol) = false → y.lg = x.lg))

/-- The store (R407 to R413). -/
def Obligations.StoreCommands : Prop :=
  (∀ (o : Iface) (s : State), MboxServes s.chip 0x20 →
    exec (.storeInfo o) s = .next (finished 0x00 80 (putWin (begun o 0x20 s) 0 (s.chip.store.lay.flatMap fun e => le 4 e.1 ++ le 4 e.2)))) ∧
  (∀ (o : Iface) (s : State), MboxServes s.chip 0x21 →
    let t := begun o 0x21 s
    let n := arg t.chip 2
    let bad := 8 < arg t.chip 0 ∨ 4096 < n ∨ regionLen t.chip (arg t.chip 0) < arg t.chip 1 + n
    (bad → exec (.storeRead o) s = .next (finished 0x05 0 t)) ∧
    (¬bad → exec (.storeRead o) s = .next (finished 0x00 n (putWin t 0 (flashBytes t (arg t.chip 0) (arg t.chip 1) n))))) ∧
  (∀ (o : Iface) (s : State), MboxServes s.chip 0x22 →
    let t := begun o 0x22 s
    let r := arg t.chip 0
    let n := arg t.chip 2
    let denied := r < 6 ∨ 8 < r ∨ (r = 8 ∧ t.chip.fuse.protect.getLsbD 3 = true)
    let group := if r = 8 then 2 else 3
    let beyond := (regionOf t.chip r).2 < arg t.chip 1 + n
    (denied → exec (.storeErase o) s = .next (finished 0x06 0 t)) ∧
    (¬denied → beyond → exec (.storeErase o) s = .next (finished 0x05 0 t)) ∧
    (¬denied → ¬beyond → n = 0 → exec (.storeErase o) s = .next (finished 0x00 0 t)) ∧
    (¬denied → ¬beyond → n ≠ 0 → jobOf t.chip group ≠ none → exec (.storeErase o) s = .next (finished 0x02 0 t)) ∧
    (¬denied → ¬beyond → n ≠ 0 → jobOf t.chip group = none → ∃ u, exec (.storeErase o) s = .next (finished 0x00 0 u) ∧ ChipOnly t u ∧
      u.chip.store = { t.chip.store with jobs := t.chip.store.jobs ++
        [⟨group, 0x22, r, (List.range n).map fun i => ⟨true, r, (arg t.chip 1 + i) * 4096, []⟩, 0, false, none, false⟩] } ∧
      fget u.chip F.STORE_STATUS_busy = (u.chip.store.jobs.map fun j => 2 ^ j.group).sum % 16)) ∧
  (∀ (o : Iface) (c : CmdObs) (s : State), MboxServes s.chip 0x23 → ewOn s.chip = false → c.fails = [] → c.viols = [] →
    let t := begun o 0x23 s
    let off := arg t.chip 1
    let n := arg t.chip 2
    let denied := arg t.chip 0 ≠ 8 ∨ t.chip.fuse.protect.getLsbD 3 = true
    let bad := 4096 < n ∨ regionLen t.chip 8 < off + n
    let old := flashBytes t 8 off n
    let blank := arg t.chip 3 % 2 = 1 ∨ old = List.replicate n 0xFF
    let u := flashAll t (spanOps 8 n off (List.zipWith (· ||| ·) (winBytes t 0 n) (pad 0 n c.torn)))
    (denied → exec (.storeProgram o c) s = .next (cpDrain (finished 0x06 0 t))) ∧
    (¬denied → bad → exec (.storeProgram o c) s = .next (cpDrain (finished 0x05 0 t))) ∧
    (¬denied → ¬bad → n = 0 → exec (.storeProgram o c) s = .next (cpDrain (finished 0x00 0 t))) ∧
    (¬denied → ¬bad → n ≠ 0 → jobOf t.chip 2 ≠ none → exec (.storeProgram o c) s = .next (cpDrain (finished 0x02 0 t))) ∧
    (¬denied → ¬bad → n ≠ 0 → jobOf t.chip 2 = none → ¬blank → exec (.storeProgram o c) s = .next (cpDrain (finished 0x03 0 t))) ∧
    (¬denied → ¬bad → n ≠ 0 → jobOf t.chip 2 = none → blank → exec (.storeProgram o c) s = .next (cpDrain (finished
      (if flashBytes u 8 off n = List.zipWith (· &&& ·) old (winBytes t 0 n) then 0x00 else 0x0A) 0 (storeShow u))))) ∧
  (∀ (o : Iface) (c : CmdObs) (s : State), MboxServes s.chip 0x23 → ewOn s.chip = true →
    exec (.storeProgram o c) s = .next (cpDrain (begun o 0x23 s))) ∧
  (∀ (o : Iface) (s : State), MboxServes s.chip 0x25 →
    let t := begun o 0x25 s
    let at_ := arg t.chip 0
    let n := arg t.chip 1
    (4096 < n ∨ 131072 < at_ + n → exec (.configStage o) s = .next (finished 0x05 0 t)) ∧
    (n ≤ 4096 → at_ + n ≤ 131072 → ∃ u, exec (.configStage o) s = .next (finished 0x00 0 u) ∧
      u = { t with mem := { t.mem with stage := u.mem.stage } } ∧ bytesAt zeroByte u.mem.stage at_ n = winBytes t 0 n ∧
      ∀ a, a < at_ ∨ at_ + n ≤ a → smGet zeroByte u.mem.stage a = smGet zeroByte t.mem.stage a)) ∧
  (∀ (o : Iface) (s : State),
    (MboxServes s.chip 0x24 → let t := begun o 0x24 s
      let recs := snapshot t
      let img := imgBytes (nextGen t) recs.length 0 (recs.flatMap fun r => recBytes r.1 r.2)
      (∀ st, cfgRefusal t.chip = some st → exec (.storeCommitConfig o) s = .next (finished st 0 t)) ∧
      (cfgRefusal t.chip = none → img.length ≤ 131072 → exec (.storeCommitConfig o) s = .next (finished 0x00 0 (beginWrite t 0x24 img)))) ∧
    (MboxServes s.chip 0x26 → let t := begun o 0x26 s
      let n := arg t.chip 0
      let img := bytesAt zeroByte t.mem.stage 0 n
      (∀ st, cfgRefusal t.chip = some st → exec (.configInstall o) s = .next (finished st 0 t)) ∧
      (∀ i, cfgRefusal t.chip = none → n ≤ 131072 → imageFault img = some i → exec (.configInstall o) s =
        .next (finished 0x05 0 (onChip (fun x => setArg x 1 i) t))) ∧
      (cfgRefusal t.chip = none → n ≤ 131072 → imageFault img = none → exec (.configInstall o) s = .next (finished 0x00 0
        (beginWrite t 0x26 (imgBytes (nextGen t) (field img 16 2) (field img 20 4) (img.drop 40))))))) ∧
  (∀ (x : Chip), let worn := ∃ r ∈ x.store.retired, r = 4 ∨ r = 5
    (x.fuse.protect.getLsbD 2 = true → cfgRefusal x = some 0x06) ∧ (x.fuse.protect.getLsbD 2 = false → worn → cfgRefusal x = some 0x04) ∧
    (x.fuse.protect.getLsbD 2 = false → ¬worn → jobOf x 0 ≠ none → cfgRefusal x = some 0x02) ∧
    (x.fuse.protect.getLsbD 2 = false → ¬worn → jobOf x 0 = none → cfgRefusal x = none)) ∧
  (∀ (t : State) (code : Nat) (img : List Byte), ∃ j, j.code = code ∧ j.group = 0 ∧ j.region = 4 + cfgTarget t ∧
    j.ops = writeOps t 1 (cfgTarget t) 0 img ∧ (beginWrite t code img).mem = t.mem ∧
    (beginWrite t code img).chip.store = { t.chip.store with jobs := t.chip.store.jobs ++ [j] }) ∧
  (∀ (o : Iface) (s : State), MboxServes s.chip 0x27 →
    let t := begun o 0x27 s
    let x := t.chip
    let g := arg x 0
    (3 < g → exec (.storeAbort o) s = .next (finished 0x05 0 t)) ∧
    (g ≤ 3 → jobOf x g ≠ none → exec (.storeAbort o) s = .next (finished 0x00 0 (onChip (fun x => { x with store := { x.store with
      jobs := x.store.jobs.map fun j => if j.group = g then { j with abort := true } else j } }) t))) ∧
    (g = 1 → jobOf x g = none → x.store.update ≠ none → exec (.storeAbort o) s = .next (finished 0x00 0
      (onChip (fun x => { x with store := { x.store with update := none } }) t))) ∧
    (g ≤ 3 → jobOf x g = none → g ≠ 1 ∨ x.store.update = none → exec (.storeAbort o) s = .next (finished 0x0B 0 t))) ∧
  (∀ (o : Iface) (s : State), MboxServes s.chip 0x28 →
    let t := begun o 0x28 s
    (jobOf t.chip 0 ≠ none → exec (.storeMaintain o) s = .next (finished 0x02 0 t)) ∧
    (jobOf t.chip 0 = none → exec (.storeMaintain o) s = .next (finished 0x00 0 (beginMaint t)))) ∧
  (∀ s : State,
    let due := partRuns s.chip = true ∧ ewOn s.chip = false ∧ jobOf s.chip 0 = none ∧ fon s.chip F.STORE_STATUS_maint_due = true
    (due → exec .maintenance s = .next (beginMaint s)) ∧ (¬due → exec .maintenance s = .next s)) ∧
  (∀ s : State, (beginMaint s).mem = s.mem ∧ (beginMaint s).chip.store = { s.chip.store with jobs := s.chip.store.jobs ++
    [⟨0, 0x28, maintRegion s, maintOps s, 0, false, none, false⟩] }) ∧
  (∀ (g n : Nat) (c : CmdObs) (j : Job) (s : State), jobOf s.chip g = some j → j.group = g ∧
    ((mgmtUp s.chip = false ∨ j.code = 0 ∨ (ewOn s.chip = true ∧ j.abort = false)) → exec (.storeDone g n c) s = .next s) ∧
    (mgmtUp s.chip = true → j.code ≠ 0 → ewOn s.chip = false ∨ j.abort = true → c.fails = [] → c.viols = [] →
      let k := if j.abort then max j.done (min n j.ops.length) else j.ops.length
      ∃ t, exec (.storeDone g n c) s = .next t ∧ t.mem = (flashAll s ((j.ops.take k).drop j.done)).mem ∧ t.pending = s.pending ∧
        t.chip.store.jobs = s.chip.store.jobs.filter (fun i => i.group != g) ∧ fget t.chip F.MGMT_INT_CAUSE_store = 1 ∧
        fget t.chip F.STORE_RESULT_status = (if k < j.ops.length then 0x09 else 0x00) ∧ fget t.chip F.STORE_RESULT_code = j.code % 256 ∧
        fget t.chip F.STORE_RESULT_region = j.region % 16)) ∧
  (∀ (g n : Nat) (c : CmdObs) (s : State), jobOf s.chip g = none → exec (.storeDone g n c) s = .next s)

/-- Updates and fuses (R416 to R419). -/
def Obligations.UpdateAndFuseCommands : Prop :=
  (∀ (o : Iface) (s : State), MboxServes s.chip 0x60 →
    let t := begun o 0x60 s
    let x := t.chip
    let k := updateSlot x
    let len := arg x 0
    let bad := len = 0 ∨ 524544 < len
    let denied := onTrial x = true ∨ x.fuse.protect.getLsbD k = true
    let worn := 2 ∈ x.store.retired ∨ 3 ∈ x.store.retired
    let busy := x.store.update ≠ none ∨ jobOf x 1 ≠ none
    (bad → exec (.updateBegin o) s = .next (finished 0x05 0 t)) ∧ (¬bad → denied → exec (.updateBegin o) s = .next (finished 0x06 0 t)) ∧
    (¬bad → ¬denied → worn → exec (.updateBegin o) s = .next (finished 0x04 0 t)) ∧
    (¬bad → ¬denied → ¬worn → busy → exec (.updateBegin o) s = .next (finished 0x02 0 t)) ∧
    (¬bad → ¬denied → ¬worn → ¬busy → ∃ u, exec (.updateBegin o) s = .next (finished 0x00 0 u) ∧ ChipOnly t u ∧
      u.chip.store.update = some ⟨k, len⟩ ∧ k ∈ u.chip.store.spoilt ∧ arg u.chip 0 = k ∧ u.chip.store.jobs = x.store.jobs ++
        [⟨1, 0x60, 2 + k, (List.range (regionOf x (2 + k)).2).map fun i => ⟨true, 2 + k, (0 + i) * 4096, []⟩, 0, false, none, false⟩])) ∧
  (∀ (o : Iface) (c : CmdObs) (s : State), MboxServes s.chip 0x61 → ewOn s.chip = false →
    let t := begun o 0x61 s
    let s0 := jobAdvance t 1 c.erased
    let off := arg t.chip 0
    let n := arg t.chip 1
    (t.chip.store.update = none → exec (.updateData o c) s = .next (cpDrain (finished 0x0B 0 s0))) ∧
    (∀ u, t.chip.store.update = some u →
      let bad := off % 4 ≠ 0 ∨ 4096 < n ∨ u.len < off + n
      let early := ∃ j, jobOf s0.chip 1 = some j ∧ 4096 * j.done < off + n
      (bad → exec (.updateData o c) s = .next (cpDrain (finished 0x05 0 s0))) ∧
      (¬bad → n = 0 → exec (.updateData o c) s = .next (cpDrain (finished 0x00 0 s0))) ∧
      (¬bad → n ≠ 0 → early → exec (.updateData o c) s = .next (cpDrain (finished 0x01 0 s0))) ∧
      (¬bad → n ≠ 0 → ¬early → c.fails = [] → c.viols = [] → exec (.updateData o c) s = .next (cpDrain (finished 0x00 0
        (storeShow (flashAll s0 (spanOps (2 + u.slot) n off (winBytes s0 0 n)))))))) ∧
    (t.chip.store.jobs = [] → s0 = t)) ∧
  (∀ (o : Iface) (s : State), MboxServes s.chip 0x62 → ewOn s.chip = false →
    let t := begun o 0x62 s
    let shut := onChip (fun x => { x with store := { x.store with update := none } }) t
    (t.chip.store.update = none → exec (.updateFinish o) s = .next (cpDrain (finished 0x0B 0 t))) ∧
    (∀ u, t.chip.store.update = some u →
      (jobOf t.chip 1 ≠ none → exec (.updateFinish o) s = .next (cpDrain (finished 0x01 0 t))) ∧
      (∀ st, jobOf t.chip 1 = none → slotRefusal shut u.slot = some st → exec (.updateFinish o) s = .next (cpDrain (finished st 0 shut))) ∧
      (jobOf t.chip 1 = none → slotRefusal shut u.slot = none → u.len ≠ 256 + flashNum shut (2 + u.slot) 16 4 →
        exec (.updateFinish o) s = .next (cpDrain (finished 0x07 0 shut))) ∧
      (jobOf t.chip 1 = none → slotRefusal shut u.slot = none → u.len = 256 + flashNum shut (2 + u.slot) 16 4 →
        exec (.updateFinish o) s = .next (cpDrain (finished 0x00 0 (fwShow (flashProg
          (onChip (fun x => { x with store := { x.store with spoilt := x.store.spoilt.filter fun k => k != u.slot } }) shut)
          (2 + u.slot) 152 [0xFE, 0xFF, 0xFF, 0xFF]))))))) ∧
  (∀ (o : Iface) (s : State), MboxServes s.chip 0x63 → ewOn s.chip = false →
    let t := begun o 0x63 s
    let k := updateSlot t.chip
    let may := t.chip.store.update = none ∧ k ∉ t.chip.store.spoilt ∧ slotIs t k 0 = true ∧ slotIs t k 4 = false
    (¬may → exec (.updateActivate o) s = .next (cpDrain (finished 0x0B 0 t))) ∧
    (may → exec (.updateActivate o) s = .next (cpDrain (finished 0x00 0 (fwShow (flashProg t (2 + k) 152 [0xFD, 0xFF, 0xFF, 0xFF])))))) ∧
  (∀ (o : Iface) (c : CmdObs) (s : State), MboxServes s.chip 0x64 → ewOn s.chip = false →
    let t := begun o 0x64 s
    let k := runSlot t.chip
    let s2 := onChip (fun x => fset x F.STORE_FW_trial 0)
      (flashProg (flashProg t (2 + k) 152 [0xF7, 0xFF, 0xFF, 0xFF]) (2 + (1 - k)) 152 [0xEF, 0xFF, 0xFF, 0xFF])
    (onTrial t.chip = false → exec (.updateConfirm o c) s = .next (cpDrain (finished 0x0B 0 t))) ∧
    (onTrial t.chip = true → arg t.chip 0 % 2 = 0 ∨ slotSec s2 k ≤ s2.chip.fuse.rollback →
      exec (.updateConfirm o c) s = .next (cpDrain (finished 0x00 0 (fwShow s2)))) ∧
    (onTrial t.chip = true → arg t.chip 0 % 2 = 1 → s2.chip.fuse.rollback < slotSec s2 k → c.fuse = 0 →
      exec (.updateConfirm o c) s = .next (cpDrain (finished 0x00 0 (fwShow (onChip (fun x =>
        fuseProgrammed x { x.fuse with rollback := slotSec s2 k } 2 true) s2)))))) ∧
  (∀ (o : Iface) (s : State), MboxServes s.chip 0x62 → MboxServes s.chip 0x63 → ewOn s.chip = true →
    exec (.updateFinish o) s = .next (cpDrain (begun o 0x62 s)) ∧ exec (.updateActivate o) s = .next (cpDrain (begun o 0x63 s))) ∧
  (∀ (o : Iface) (c : CmdObs) (s : State), MboxServes s.chip 0x65 →
    let t := begun o 0x65 s
    let x := t.chip
    let f := arg x 0
    let v := arg x 1
    let bad := 5 < f ∨ (f = 2 ∧ 64 < v)
    let calm := (pstate x = 1 ∨ pstate x = 2) ∧ ewOn x = false
    (bad → exec (.fuseProgram o c) s = .next (finished 0x05 0 t)) ∧
    (f = 0 → exec (.fuseProgram o c) s = .next (finished 0x06 0 t)) ∧
    (¬bad → f ≠ 0 → pstate x ≠ 1 → pstate x ≠ 2 → exec (.fuseProgram o c) s = .next (finished 0x0B 0 t)) ∧
    (¬bad → f ≠ 0 → pstate x = 1 ∨ pstate x = 2 → ewOn x = true → exec (.fuseProgram o c) s = .next (finished 0x09 0 t)) ∧
    (calm → (f = 1 ∧ (x.fuse.key ≠ 0 ∨ x.fuse.mark ≠ 0)) ∨ (f = 5 ∧ x.fuse.roleLock ≠ 0) → exec (.fuseProgram o c) s = .next (finished 0x06 0 t)) ∧
    (calm → f = 2 → v ≤ x.fuse.rollback → v ≤ 64 → exec (.fuseProgram o c) s = .next (finished 0x00 0 t)) ∧
    (c.fuse = 0 → calm →
      let set := fun (g : Fuses) => finished 0x00 0 (onChip (fun x => fuseProgrammed x g f true) t)
      (f = 1 → x.fuse.key = 0 → x.fuse.mark = 0 →
        exec (.fuseProgram o c) s = .next (set { x.fuse with key := BitVec.ofNat 256 (unbe (winBytes t 0 32)), mark := 0xFF })) ∧
      (f = 2 → v ≤ 64 → x.fuse.rollback < v → exec (.fuseProgram o c) s = .next (set { x.fuse with rollback := v })) ∧
      (f = 3 → exec (.fuseProgram o c) s = .next (set { x.fuse with debug := true })) ∧
      (f = 4 → exec (.fuseProgram o c) s = .next (set { x.fuse with protect := x.fuse.protect ||| BitVec.ofNat 4 v })) ∧
      (f = 5 → x.fuse.roleLock = 0 → exec (.fuseProgram o c) s = .next (set { x.fuse with roleLock := v % 4 })))) ∧
  (∀ (x : Chip) (g : Fuses) (f : Nat) (ok : Bool), let y := fuseProgrammed x g f ok
    y.fuse = g ∧ rd y R.FUSE_PROG_COUNT = rd x R.FUSE_PROG_COUNT + 1 ∧ nextSeq y srcFuse = nextSeq x srcFuse + 1 ∧
    (∀ b, b ∉ logRegs → b ≠ R.FUSE_PROG_COUNT → b ≠ R.FUSE_STATUS → rd y b = rd x b))

/-- Faults (R383 to R386). -/
def Obligations.FaultCommands : Prop :=
  (∀ (f : FaultIn) (core : CoreObs) (s : State), mgmtUp s.chip = true → faultKnown f = true → s.chip.ft.fatal = none →
    (faultCls f < 3 → s.chip.ft.queue = [] → s.chip.ft.lost = 0 → exec (.faultTaken f [] core) s =
      .next (cpDrain (onChip (fun x =>
        let y := faultLogged x f
        faultShow (because (lastRef y srcMgmt) (fun z => faultRecover z f) y) none) s))) ∧
    (∀ g, faultCls f < 3 → s.chip.ft.queue = [] → s.chip.ft.lost = 0 → faultKnown g = true → faultCls f < faultCls g → faultCls g < 3 →
      exec (.faultTaken f [g] core) s = .next (cpDrain (onChip (fun x =>
        let y := faultLogged x f
        let z := faultLogged y g
        faultShow (faultEnds (faultEnds z (g, lastRef z srcMgmt)) (f, lastRef y srcMgmt)) none) s))) ∧
    (∀ g, faultCls f < 3 → s.chip.ft.queue = [] → s.chip.ft.lost = 0 → faultKnown g = true → faultCls g ≤ faultCls f →
      exec (.faultTaken f [g] core) s = .next (cpDrain (onChip (fun x =>
        let y := faultLogged x f
        let w := faultEnds { y with ft := { y.ft with queue := [g] } } (f, lastRef y srcMgmt)
        let z := faultLogged { w with ft := { w.ft with queue := [] } } g
        faultShow (faultEnds z (g, lastRef z srcMgmt)) none) s))) ∧
    (faultCls f = 3 → exec (.faultTaken f [] core) s = .next (cpDrain (fatalTake s f core)))) ∧
  (∀ (f : FaultIn) (core : CoreObs) (s : State), mgmtUp s.chip = true → s.chip.ft.fatal = none → s.chip.ft.queue = [] →
    s.chip.ft.lost = 0 → s.chip.cp.queue = [] →
    let taken := fun (t : State) (code cls : Nat) => ChipOnly s t ∧ rd t.chip (R.MGMT_FAULT_COUNT cls) = rd s.chip (R.MGMT_FAULT_COUNT cls) + 1 ∧
      fget t.chip F.MGMT_FAULT_LAST0_code = code ∧ fget t.chip F.MGMT_FAULT_LAST1_cls = cls ∧
      fget t.chip F.MGMT_FAULT_STATUS_active = 0 ∧ nextSeq t.chip srcMgmt = nextSeq s.chip srcMgmt + 1
    (∃ t, exec .wdtHalf s = .next t ∧ taken t 3 1 ∧ fget t.chip F.MGMT_INT_CAUSE_warn = 1) ∧
    (faultKnown f = true → faultCls f < 3 → f.code ∉ [4, 6] → ∃ t, exec (.faultTaken f [] core) s = .next t ∧ taken t f.code (faultCls f))) ∧
  (∀ (x : Chip) (f : FaultIn), f.code < 256 →
    let y := faultLogged x f
    let c := faultCls f
    rd y (R.MGMT_FAULT_COUNT c) = rd x (R.MGMT_FAULT_COUNT c) + 1 ∧ fget y F.MGMT_FAULT_LAST0_code = f.code ∧
    fget y F.MGMT_FAULT_LAST1_cls = c ∧ fget y F.MGMT_FAULT_LAST0_seq = (nextSeq x srcMgmt).toNat ∧ nextSeq y srcMgmt = nextSeq x srcMgmt + 1 ∧
    (c = 1 → fget y F.MGMT_INT_CAUSE_warn = 1) ∧ (2 ≤ c → fget y F.MGMT_INT_CAUSE_fault = 1) ∧ y.ft = x.ft) ∧
  (∀ (x : Chip) (f : FaultIn), (x.ft.queue.length < 16 → faultQueue x f = { x with ft := { x.ft with queue := x.ft.queue ++ [f] } }) ∧
    (16 ≤ x.ft.queue.length → (faultQueue x f).ft = { x.ft with lost := x.ft.lost + 1 } ∧
      rd (faultQueue x f) R.MGMT_FAULT_LOST = rd x R.MGMT_FAULT_LOST + 1)) ∧
  (∀ (f : FaultIn) (t : Fatal) (core : CoreObs) (s : State), mgmtUp s.chip = true → faultKnown f = true → s.chip.ft.fatal = some t →
    (faultCls f < 3 → exec (.faultTaken f [] core) s = .next (cpDrain (onChip (fun x => faultShow (faultQueue x f) (some 3)) s))) ∧
    (faultCls f = 3 → exec (.faultTaken f [] core) s = .next (cpDrain (doubleFatal s t f)))) ∧
  (∀ (f : FaultIn) (more : List FaultIn) (core : CoreObs) (s : State), mgmtUp s.chip = false ∨ faultKnown f = false →
    exec (.faultTaken f more core) s = .next (cpDrain s)) ∧
  (∀ (f : FaultIn) (core : CoreObs) (s : State),
    let x1 := faultLogged (faultShow (cmdAbort s.chip) (some 3)) f
    let s1 := (onChip (fun _ => { x1 with ft := { x1.ft with fatal := some ⟨f.code, nextSeq s.chip srcMgmt, false⟩ } }) s)
    (fon x1 F.MGMT_FAULT_CFG_dump_en = false → fatalTake s f core = fatalEnd s1 f.code) ∧
    (fon x1 F.MGMT_FAULT_CFG_dump_en = true → ewOn x1 = true → fatalTake s f core = dumpEnd s1 f.code 1 0) ∧
    (fon x1 F.MGMT_FAULT_CFG_dump_en = true → ewOn x1 = false → dumpRefused s1 = true → fatalTake s f core = dumpEnd s1 f.code 2 0) ∧
    (fon x1 F.MGMT_FAULT_CFG_dump_en = true → ewOn x1 = false → dumpRefused s1 = false → fatalTake s f core = dumpBegin s1 f core)) ∧
  (∀ (s : State) (code : Nat), (fon s.chip F.MGMT_FAULT_CFG_on_fatal = false → fatalEnd s code = softReset s 2) ∧
    (fon s.chip F.MGMT_FAULT_CFG_on_fatal = true → (fatalEnd s code).chip.pw.phase = .halted ∧
      fget (fatalEnd s code).chip F.MGMT_FAULT_STATUS_halted = 1 ∧ ChipOnly s (fatalEnd s code))) ∧
  (∀ s : State, exec .wdtHalf s = .next (cpDrain (takeFault s ⟨0x03, 1, 0, 0, none, none, none⟩ [] ⟨[], [], []⟩))) ∧
  (∀ (o : Iface) (c : CmdObs) (s : State), MboxServes s.chip 0x08 →
    let t := begun o 0x08 s
    let a := arg s.chip 0
    (3 < a → exec (.faultInject o c) s = .next (cpDrain (finished 0x05 0 t))) ∧
    (a = 3 → s.chip.fuse.debug = true → exec (.faultInject o c) s = .next (cpDrain (finished 0x06 0 t))) ∧
    (a ≤ 3 → (a ≠ 3 ∨ s.chip.fuse.debug = false) → exec (.faultInject o c) s =
      .next (cpDrain (takeFault (finished 0x00 0 t) ⟨0x0A, a, 0, 0, none, none, none⟩ [] c.core)))) ∧
  (∀ (n code : Nat) (j : Job) (c : CmdObs) (s : State), dumpJob s.chip = some (code, j) → c.viols = [] → c.fails = [] →
    (ewOn s.chip = false → exec (.dump n c) s = .next (cpDrain (dumpEnd (flashAll s j.ops) code 0 (j.ops.map fun o => o.bytes.length).sum))) ∧
    (ewOn s.chip = true → exec (.dump n c) s = .next (cpDrain (dumpEnd (flashAll s (j.ops.take n)) code 1 0))) ∧
    (exec (.dumpTimeout n) s = .next (cpDrain (dumpEnd (flashAll s (j.ops.take n)) code 3 0)))) ∧
  (∀ (n code : Nat) (j : Job) (c : CmdObs) (s : State), dumpJob s.chip = some (code, j) → c.viols = [] → c.fails = [] → s.chip.cp.queue = [] →
    fon s.chip F.MGMT_FAULT_CFG_on_fatal = true →
    let ends := fun (t : State) (f : Fld) (u : State) => t.mem = u.mem ∧ t.pending = s.pending ∧ t.chip.pw.phase = .halted ∧
      fget t.chip f = 1 ∧ fget t.chip F.MGMT_FAULT_STATUS_halted = 1
    (ewOn s.chip = false → ∃ t, exec (.dump n c) s = .next t ∧ ends t F.MGMT_FAULT_STATUS_dump_ok (flashAll s j.ops)) ∧
    (ewOn s.chip = true → ∃ t, exec (.dump n c) s = .next t ∧ ends t F.MGMT_FAULT_STATUS_dump_fail (flashAll s (j.ops.take n))) ∧
    (∃ t, exec (.dumpTimeout n) s = .next t ∧ ends t F.MGMT_FAULT_STATUS_dump_fail (flashAll s (j.ops.take n)))) ∧
  (∀ (n : Nat) (c : CmdObs) (s : State), dumpJob s.chip = none → exec (.dump n c) s = .next (cpDrain s) ∧
    exec (.dumpTimeout n) s = .next (cpDrain s)) ∧
  (∀ s : State, s.chip.cp.queue = [] → cpDrain s = s) ∧
  (∀ (s : State) (code result len : Nat), ∃ y, dumpEnd s code result len = fatalEnd (onChip (fun _ => y) s) code ∧
    (result = 0 → fget y F.MGMT_FAULT_STATUS_dump_ok = 1) ∧ (result ≠ 0 → fget y F.MGMT_FAULT_STATUS_dump_fail = 1) ∧
    nextSeq y srcMgmt = nextSeq s.chip srcMgmt + 1 ∧ ∀ j ∈ y.store.jobs, j.code ≠ 0) ∧
  (∀ (c : CmdObs) (s : State), (mirrorMay s.chip = true → ∃ t, exec (.logMirror c) s = .next t ∧
      rd t.chip R.MGMT_LOG_MIRROR = BitVec.ofNat 32 (rd s.chip R.MGMT_LOG_WR).toNat ∧ t.mem = { s.mem with flash := t.mem.flash }) ∧
    (mirrorMay s.chip = false → exec (.logMirror c) s = .next s))
end

