-- ==== Sys2Proof/Laws/Maps.lean ====
section
/-! SUPPORT. Laws of the sorted maps: a read after a write, and the canonical form kept by every operation on one. -/
namespace Sys2Proof.Machine

variable {α : Type}

theorem smFind_insert_same (k : Nat) (v : α) (m : SMap α) : smFind k (smInsert k v m) = some v := by
  induction m with
  | nil => simp [smInsert, smFind]
  | cons e m ih =>
    obtain ⟨k', v'⟩ := e
    simp only [smInsert]
    split
    · simp [smFind]
    · split
      · simp [smFind]
      · rename_i h1 h2
        simp [smFind, h2, ih]

theorem smFind_insert_ne (k j : Nat) (v : α) (m : SMap α) (h : j ≠ k) : smFind j (smInsert k v m) = smFind j m := by
  induction m with
  | nil => simp [smInsert, smFind, h]
  | cons e m ih =>
    obtain ⟨k', v'⟩ := e
    simp only [smInsert]
    split
    · simp [smFind, h]
    · split
      · rename_i h1 h2
        subst h2
        simp [smFind, h]
      · simp [smFind, ih]

theorem smFind_erase_same (k : Nat) (m : SMap α) : smFind k (smErase k m) = none := by
  induction m with
  | nil => rfl
  | cons e m ih =>
    obtain ⟨k', v'⟩ := e
    simp only [smErase]
    split
    · exact ih
    · rename_i h
      simp [smFind, h, ih]

theorem smFind_erase_ne (k j : Nat) (m : SMap α) (h : j ≠ k) : smFind j (smErase k m) = smFind j m := by
  induction m with
  | nil => rfl
  | cons e m ih =>
    obtain ⟨k', v'⟩ := e
    simp only [smErase]
    split
    · rename_i hk
      subst hk
      simp [smFind, h, ih]
    · simp [smFind, ih]

/-- A read after a write, at any key. -/
theorem smGet_smPut [DecidableEq α] (d : Nat → α) (m : SMap α) (k j : Nat) (v : α) :
    smGet d (smPut d m k v) j = if j = k then v else smGet d m j := by
  unfold smPut smGet
  by_cases hv : v = d k
  · by_cases hj : j = k
    · subst hj
      simp [hv, smFind_erase_same]
    · simp [hv, smFind_erase_ne k j m hj, hj]
  · by_cases hj : j = k
    · subst hj
      simp [hv, smFind_insert_same]
    · simp [hv, smFind_insert_ne k j v m hj, hj]

@[simp] theorem smGet_smPut_same [DecidableEq α] (d : Nat → α) (m : SMap α) (k : Nat) (v : α) :
    smGet d (smPut d m k v) k = v := by simp [smGet_smPut]

theorem smGet_smPut_ne [DecidableEq α] (d : Nat → α) (m : SMap α) (k j : Nat) (v : α) (h : j ≠ k) :
    smGet d (smPut d m k v) j = smGet d m j := by simp [smGet_smPut, h]

/-- Every key that an insertion leaves satisfies what the old keys and the new one do. -/
theorem smInsert_all (p : Nat → Bool) (k : Nat) (v : α) (m : SMap α) (hk : p k = true)
    (hm : m.all (fun e => p e.1) = true) : (smInsert k v m).all (fun e => p e.1) = true := by
  induction m with
  | nil => simp [smInsert, hk]
  | cons e m ih =>
    obtain ⟨k', v'⟩ := e
    simp only [List.all_cons, Bool.and_eq_true] at hm
    simp only [smInsert]
    split
    · simpa [hk] using hm
    · split
      · simp only [List.all_cons, Bool.and_eq_true]
        exact ⟨hk, hm.2⟩
      · simp only [List.all_cons, Bool.and_eq_true]
        exact ⟨hm.1, ih hm.2⟩

theorem smErase_all (p : Nat → Bool) (k : Nat) (m : SMap α) (hm : m.all (fun e => p e.1) = true) :
    (smErase k m).all (fun e => p e.1) = true := by
  induction m with
  | nil => rfl
  | cons e m ih =>
    obtain ⟨k', v'⟩ := e
    simp only [List.all_cons, Bool.and_eq_true] at hm
    simp only [smErase]
    split
    · exact ih hm.2
    · simp only [List.all_cons, Bool.and_eq_true]
      exact ⟨hm.1, ih hm.2⟩

theorem smWf_insert [DecidableEq α] (d : Nat → α) (k : Nat) (v : α) (m : SMap α) (hv : v ≠ d k)
    (h : smWf d m = true) : smWf d (smInsert k v m) = true := by
  induction m with
  | nil => simp [smInsert, smWf, hv]
  | cons e m ih =>
    obtain ⟨k', v'⟩ := e
    simp only [smWf, Bool.and_eq_true, decide_eq_true_eq] at h
    simp only [smInsert]
    split
    · rename_i hlt
      simp only [smWf, List.all_cons, Bool.and_eq_true, decide_eq_true_eq]
      refine ⟨⟨hv, hlt, ?_⟩, ⟨h.1.1, h.1.2⟩, h.2⟩
      have := h.1.2
      simp only [List.all_eq_true, decide_eq_true_eq] at this ⊢
      intro e he
      exact Nat.lt_trans hlt (this e he)
    · split
      · rename_i h1 h2
        subst h2
        simp only [smWf, Bool.and_eq_true, decide_eq_true_eq]
        exact ⟨⟨hv, h.1.2⟩, h.2⟩
      · rename_i h1 h2
        simp only [smWf, Bool.and_eq_true, decide_eq_true_eq]
        refine ⟨⟨h.1.1, ?_⟩, ih h.2⟩
        exact smInsert_all (fun j => decide (k' < j)) k v m (by simp; omega) h.1.2

theorem smWf_erase [DecidableEq α] (d : Nat → α) (k : Nat) (m : SMap α) (h : smWf d m = true) :
    smWf d (smErase k m) = true := by
  induction m with
  | nil => rfl
  | cons e m ih =>
    obtain ⟨k', v'⟩ := e
    simp only [smWf, Bool.and_eq_true, decide_eq_true_eq] at h
    simp only [smErase]
    split
    · exact ih h.2
    · simp only [smWf, Bool.and_eq_true, decide_eq_true_eq]
      exact ⟨⟨h.1.1, smErase_all (fun j => decide (k' < j)) k m h.1.2⟩, ih h.2⟩

/-- A write keeps the canonical form. -/
theorem smWf_put [DecidableEq α] (d : Nat → α) (m : SMap α) (k : Nat) (v : α) (h : smWf d m = true) :
    smWf d (smPut d m k v) = true := by
  unfold smPut
  split
  · exact smWf_erase d k m h
  · rename_i hv
    exact smWf_insert d k v m hv h

theorem smWf_filter [DecidableEq α] (d : Nat → α) (p : Nat × α → Bool) (m : SMap α) (h : smWf d m = true) :
    smWf d (m.filter p) = true := by
  induction m with
  | nil => rfl
  | cons e m ih =>
    obtain ⟨k', v'⟩ := e
    simp only [smWf, Bool.and_eq_true, decide_eq_true_eq] at h
    simp only [List.filter]
    split
    · simp only [smWf, Bool.and_eq_true, decide_eq_true_eq]
      refine ⟨⟨h.1.1, ?_⟩, ih h.2⟩
      have h2 := h.1.2
      simp only [List.all_eq_true, decide_eq_true_eq] at h2 ⊢
      intro e he
      exact h2 e (List.mem_of_mem_filter he)
    · exact ih h.2

/-- Clearing a range keeps the canonical form. -/
theorem smWf_clearRange [DecidableEq α] (d : Nat → α) (m : SMap α) (a n : Nat) (h : smWf d m = true) :
    smWf d (clearRange m a n) = true := smWf_filter d _ m h

/-- Storing bytes keeps the canonical form. -/
theorem smWf_putBytes (d : Nat → Byte) (l : List Byte) : ∀ (m : SMap Byte) (a : Nat), smWf d m = true →
    smWf d (putBytes d m a l) = true := by
  induction l with
  | nil => exact fun m a h => h
  | cons b l ih => exact fun m a h => ih _ _ (smWf_put d m a b h)

theorem smRewrite_all [DecidableEq α] (d : Nat → α) (f : Nat → α → α) (p : Nat → Bool) (m : SMap α)
    (hm : m.all (fun e => p e.1) = true) : (smRewrite d f m).all (fun e => p e.1) = true := by
  induction m with
  | nil => rfl
  | cons e m ih =>
    obtain ⟨k', v'⟩ := e
    simp only [List.all_cons, Bool.and_eq_true] at hm
    simp only [smRewrite]
    split
    · exact ih hm.2
    · simp only [List.all_cons, Bool.and_eq_true]
      exact ⟨hm.1, ih hm.2⟩

/-- Rewriting every listed value keeps the canonical form. -/
theorem smWf_rewrite [DecidableEq α] (d : Nat → α) (f : Nat → α → α) (m : SMap α) (h : smWf d m = true) :
    smWf d (smRewrite d f m) = true := by
  induction m with
  | nil => rfl
  | cons e m ih =>
    obtain ⟨k', v'⟩ := e
    simp only [smWf, Bool.and_eq_true, decide_eq_true_eq] at h
    simp only [smRewrite]
    split
    · exact ih h.2
    · rename_i hv
      simp only [smWf, Bool.and_eq_true, decide_eq_true_eq]
      exact ⟨⟨hv, smRewrite_all d f (fun j => decide (k' < j)) m h.1.2⟩, ih h.2⟩

/-- Bytes outside a stored run read as before. -/
theorem smGet_putBytes_out (d : Nat → Byte) (l : List Byte) : ∀ (m : SMap Byte) (a j : Nat), (j < a ∨ a + l.length ≤ j) →
    smGet d (putBytes d m a l) j = smGet d m j := by
  induction l with
  | nil => exact fun m a j _ => rfl
  | cons b l ih =>
    intro m a j h
    simp only [List.length_cons] at h
    simp only [putBytes]
    rw [ih _ _ _ (by omega), smGet_smPut_ne _ _ _ _ _ (by omega)]

/-- A stored run reads back. -/
theorem bytesAt_putBytes (d : Nat → Byte) (l : List Byte) : ∀ (m : SMap Byte) (a : Nat),
    bytesAt d (putBytes d m a l) a l.length = l := by
  induction l with
  | nil => exact fun m a => rfl
  | cons b l ih =>
    intro m a
    simp only [List.length_cons, bytesAt, putBytes]
    rw [smGet_putBytes_out _ _ _ _ _ (by omega), smGet_smPut_same, ih]

end Sys2Proof.Machine
end

