-- ==== Sys2Proof/Laws/Fields.lean ====
section
/-! SUPPORT. Laws of registers and fields: what a read gives after a write of the same or of another register or field, and
what a count leaves. -/
namespace Sys2Proof.Machine

/-- A bit of a word with a field replaced. -/
theorem putBits_bit (w : Word) (lo width v i : Nat) (hi : i < 32) :
    (putBits w lo width v).getLsbD i =
      if lo ≤ i ∧ i < lo + width then v.testBit (i - lo) else w.getLsbD i := by
  have hm : (((2 ^ width - 1) * 2 ^ lo).testBit i) = decide (lo ≤ i ∧ i < lo + width) := by
    rw [← Nat.shiftLeft_eq, Nat.testBit_shiftLeft, Nat.testBit_two_pow_sub_one]
    by_cases h1 : lo ≤ i <;> by_cases h2 : i < lo + width <;> simp [h1, h2] <;> omega
  have hv : (v * 2 ^ lo).testBit i = (decide (lo ≤ i) && v.testBit (i - lo)) := by
    rw [← Nat.shiftLeft_eq, Nat.testBit_shiftLeft]
  unfold putBits
  simp only [BitVec.getLsbD_or, BitVec.getLsbD_and, BitVec.getLsbD_not, BitVec.getLsbD_ofNat, hi, decide_true,
    Bool.true_and, hm, hv]
  by_cases h : lo ≤ i ∧ i < lo + width <;> simp [h]

/-- A bit of a field's value. -/
theorem getBits_bit (w : Word) (lo width i : Nat) :
    (getBits w lo width).testBit i = (decide (i < width) && w.getLsbD (lo + i)) := by
  unfold getBits
  rw [← Nat.shiftRight_eq_div_pow, Nat.testBit_mod_two_pow, Nat.testBit_shiftRight]
  rfl

/-- A field's value stays below two to its width. -/
theorem getBits_lt (w : Word) (lo width : Nat) : getBits w lo width < 2 ^ width := Nat.mod_lt _ (Nat.two_pow_pos _)

/-- A field replaced reads back, modulo its width. -/
theorem getBits_putBits (w : Word) (lo width v : Nat) (h : lo + width ≤ 32) :
    getBits (putBits w lo width v) lo width = v % 2 ^ width := by
  apply Nat.eq_of_testBit_eq
  intro i
  rw [getBits_bit, Nat.testBit_mod_two_pow]
  by_cases hi : i < width
  · rw [putBits_bit _ _ _ _ _ (by omega)]
    have : lo ≤ lo + i ∧ lo + i < lo + width := by omega
    simp [hi]
  · simp [hi]

/-- A field that shares no bit with the one replaced keeps its value. -/
theorem getBits_putBits_apart (w : Word) (lo width v lo' width' : Nat) (h' : lo' + width' ≤ 32)
    (h : lo' + width' ≤ lo ∨ lo + width ≤ lo') : getBits (putBits w lo width v) lo' width' = getBits w lo' width' := by
  apply Nat.eq_of_testBit_eq
  intro i
  rw [getBits_bit, getBits_bit]
  by_cases hi : i < width'
  · rw [putBits_bit _ _ _ _ _ (by omega)]
    have : ¬ (lo ≤ lo' + i ∧ lo' + i < lo + width) := by omega
    simp [this]
  · simp [hi]

/-- A register reads what was written to it, and every other register as before. -/
theorem rd_wr (x : Chip) (a b : Nat) (v : Word) : rd (wr x a v) b = if b = a then v else rd x b :=
  smGet_smPut _ _ _ _ _

@[simp] theorem rd_wr_same (x : Chip) (a : Nat) (v : Word) : rd (wr x a v) a = v := by simp [rd_wr]

theorem rd_wr_ne (x : Chip) (a b : Nat) (v : Word) (h : b ≠ a) : rd (wr x a v) b = rd x b := by simp [rd_wr, h]

/-- A register other than a field's reads as before the field was set. -/
theorem rd_fset_ne (x : Chip) (f : Fld) (v b : Nat) (h : b ≠ f.addr) : rd (fset x f v) b = rd x b := rd_wr_ne _ _ _ _ h

theorem rd_fset_same (x : Chip) (f : Fld) (v : Nat) : rd (fset x f v) f.addr = putBits (rd x f.addr) f.lo f.width v :=
  rd_wr_same _ _ _

/-- A field reads what it was set to, modulo its width. -/
theorem fget_fset_same (x : Chip) (f : Fld) (v : Nat) (h : f.lo + f.width ≤ 32) :
    fget (fset x f v) f = v % 2 ^ f.width := by
  unfold fget
  rw [rd_fset_same, getBits_putBits _ _ _ _ h]

/-- A field of another register, or of other bits, keeps its value. -/
theorem fget_fset_apart (x : Chip) (f g : Fld) (v : Nat) (hg : g.lo + g.width ≤ 32)
    (h : g.addr ≠ f.addr ∨ g.lo + g.width ≤ f.lo ∨ f.lo + f.width ≤ g.lo) : fget (fset x f v) g = fget x g := by
  unfold fget
  by_cases ha : g.addr = f.addr
  · rw [ha, rd_fset_same, getBits_putBits_apart _ _ _ _ _ _ hg (h.resolve_left (by simp [ha]))]
  · rw [rd_fset_ne _ _ _ _ ha]

/-- A register of another address keeps its fields. -/
theorem fget_wr_ne (x : Chip) (a : Nat) (v : Word) (g : Fld) (h : g.addr ≠ a) : fget (wr x a v) g = fget x g := by
  unfold fget
  rw [rd_wr_ne _ _ _ _ h]

/-- Everything but the registers: a write of a register or field leaves it. -/
theorem wr_rest (x : Chip) (a : Nat) (v : Word) : wr x a v = { x with regs := (wr x a v).regs } := rfl

theorem fset_rest (x : Chip) (f : Fld) (v : Nat) : fset x f v = { x with regs := (fset x f v).regs } := rfl

theorem fsets_rest (l : List (Fld × Nat)) : ∀ x : Chip, fsets x l = { x with regs := (fsets x l).regs } := by
  induction l with
  | nil => exact fun x => rfl
  | cons e l ih =>
    intro x
    obtain ⟨f, v⟩ := e
    simp only [fsets]
    rw [ih]
    rfl

/-- Setting fields one after another leaves every register that none of them lies in. -/
theorem rd_fsets_ne (b : Nat) (l : List (Fld × Nat)) : ∀ x : Chip, (∀ e ∈ l, b ≠ e.1.addr) → rd (fsets x l) b = rd x b := by
  induction l with
  | nil => exact fun x _ => rfl
  | cons e l ih =>
    intro x h
    obtain ⟨f, v⟩ := e
    simp only [fsets]
    rw [ih _ (fun e he => h e (List.mem_cons_of_mem _ he)), rd_fset_ne _ _ _ _ (h (f, v) (List.mem_cons_self ..))]

/-- A count adds to its register modulo 2 to the 32. -/
theorem rd_count_same (x : Chip) (a : Nat) (wrap : Fld) (n : Nat) (h : wrap.addr ≠ a) :
    rd (count x a wrap n) a = BitVec.ofNat 32 ((rd x a).toNat + n) := by
  unfold count
  dsimp only
  split
  · rw [rd_fset_ne _ _ _ _ h.symm, rd_wr_same]
  · rw [rd_wr_same]

/-- A count leaves every register but its own and that of its wrap flag. -/
theorem rd_count_ne (x : Chip) (a : Nat) (wrap : Fld) (n b : Nat) (ha : b ≠ a) (hw : b ≠ wrap.addr) :
    rd (count x a wrap n) b = rd x b := by
  unfold count
  dsimp only
  split
  · rw [rd_fset_ne _ _ _ _ hw, rd_wr_ne _ _ _ _ ha]
  · rw [rd_wr_ne _ _ _ _ ha]

/-- A count leaves everything but the registers. -/
theorem count_rest (x : Chip) (a : Nat) (wrap : Fld) (n : Nat) :
    count x a wrap n = { x with regs := (count x a wrap n).regs } := by
  unfold count
  dsimp only
  split <;> rfl

/-- A count sets its wrap flag where it passes 2 to the 32, and leaves it otherwise. -/
theorem fget_count_wrap (x : Chip) (a : Nat) (wrap : Fld) (n : Nat) (h : wrap.addr ≠ a) (hw : wrap.lo < 32)
    (h1 : wrap.width = 1) :
    fget (count x a wrap n) wrap = if 2 ^ 32 ≤ (rd x a).toNat + n then 1 else fget x wrap := by
  unfold count
  dsimp only
  split
  · rw [fget_fset_same _ _ _ (by omega), h1]
    rfl
  · rw [fget_wr_ne _ _ _ _ h]

end Sys2Proof.Machine
end

