-- ==== Sys2Proof/Laws/Events.lean ====
section
/-! SUPPORT. Laws of the event log: what raising an event leaves unchanged, and how its source's counter moves. -/
namespace Sys2Proof.Machine

theorem rd_entryLost (x : Chip) (b : Nat) (h : b ∉ logRegs) : rd (entryLost x) b = rd x b := by
  simp only [logRegs, List.mem_cons, List.not_mem_nil, or_false, not_or] at h
  unfold entryLost
  split
  · exact rd_count_ne _ _ _ _ _ h.2.1 h.2.2.1
  · rfl

theorem entryLost_rest (x : Chip) : entryLost x = { x with regs := (entryLost x).regs } := by
  unfold entryLost
  split
  · exact count_rest _ _ _ _
  · rfl

theorem rd_entryPlace (x : Chip) (e : Entry) (b : Nat) (h : b ∉ logRegs) : rd (entryPlace x e) b = rd x b := by
  simp only [logRegs, List.mem_cons, List.not_mem_nil, or_false, not_or] at h
  unfold entryPlace
  rw [rd_count_ne _ _ _ _ _ h.1 h.2.2.1]
  rfl

theorem entryPlace_rest (x : Chip) (e : Entry) :
    entryPlace x e = { x with regs := (entryPlace x e).regs, lg := (entryPlace x e).lg } := by
  unfold entryPlace
  rw [count_rest]

theorem rd_entryCause (x : Chip) (b : Nat) (h : b ∉ logRegs) : rd (entryCause x) b = rd x b := by
  simp only [logRegs, List.mem_cons, List.not_mem_nil, or_false, not_or] at h
  unfold entryCause
  dsimp only
  split
  · exact rd_fset_ne _ _ _ _ h.2.2.2
  · rfl

theorem entryCause_rest (x : Chip) :
    entryCause x = { x with regs := (entryCause x).regs, lg := (entryCause x).lg } := by
  unfold entryCause
  dsimp only
  split <;> rfl

/-- A register outside those of the log reads as before an entry was placed. -/
theorem rd_pushEntry (x : Chip) (e : Entry) (b : Nat) (h : b ∉ logRegs) : rd (pushEntry x e) b = rd x b := by
  unfold pushEntry
  rw [rd_entryCause _ _ h, rd_entryPlace _ _ _ h, rd_entryLost _ _ h]

/-- Placing an entry changes registers and log alone. -/
theorem pushEntry_rest (x : Chip) (e : Entry) :
    pushEntry x e = { x with regs := (pushEntry x e).regs, lg := (pushEntry x e).lg } := by
  unfold pushEntry
  rw [entryCause_rest, entryPlace_rest, entryLost_rest]

theorem rd_pushEntries (b : Nat) (h : b ∉ logRegs) (l : List Entry) : ∀ x : Chip, rd (pushEntries x l) b = rd x b := by
  induction l with
  | nil => exact fun x => rfl
  | cons e l ih => exact fun x => (ih _).trans (rd_pushEntry x e b h)

theorem pushEntries_rest (l : List Entry) : ∀ x : Chip,
    pushEntries x l = { x with regs := (pushEntries x l).regs, lg := (pushEntries x l).lg } := by
  induction l with
  | nil => exact fun x => rfl
  | cons e l ih =>
    intro x
    show pushEntries (pushEntry x e) l = _
    rw [ih]
    simp only [pushEntries]
    rw [pushEntry_rest]

/-- Raising an event leaves every register outside those of the log. -/
theorem rd_raiseAt (x : Chip) (t : BitVec 48) (src code : Nat) (args : List Byte) (c : Option CauseRef) (b : Nat)
    (h : b ∉ logRegs) : rd (raiseAt x t src code args c) b = rd x b := by
  unfold raiseAt
  dsimp only
  split
  · exact rd_pushEntries b h _ _
  · split
    · rfl
    · simp only [logRegs, List.mem_cons, List.not_mem_nil, or_false, not_or] at h
      exact rd_count_ne _ _ _ _ _ h.2.1 h.2.2.1

/-- Raising an event changes registers and log alone. -/
theorem raiseAt_rest (x : Chip) (t : BitVec 48) (src code : Nat) (args : List Byte) (c : Option CauseRef) :
    raiseAt x t src code args c =
      { x with regs := (raiseAt x t src code args c).regs, lg := (raiseAt x t src code args c).lg } := by
  unfold raiseAt
  dsimp only
  split
  · rw [pushEntries_rest]
  · split
    · rfl
    · rw [count_rest]

theorem rd_raise (x : Chip) (src code : Nat) (args : List Byte) (b : Nat) (h : b ∉ logRegs) :
    rd (raise x src code args) b = rd x b := rd_raiseAt _ _ _ _ _ _ _ h

theorem fget_raise (x : Chip) (src code : Nat) (args : List Byte) (f : Fld) (h : f.addr ∉ logRegs) :
    fget (raise x src code args) f = fget x f := by
  unfold fget
  rw [rd_raise _ _ _ _ _ h]

/-- Placing entries leaves the sources' counters. -/
theorem pushEntry_seqs (x : Chip) (e : Entry) : (pushEntry x e).lg.seqs = x.lg.seqs := by
  have h1 : ∀ y : Chip, (entryCause y).lg.seqs = y.lg.seqs := by
    intro y
    unfold entryCause
    dsimp only
    split <;> rfl
  have h2 : ∀ y : Chip, (entryPlace y e).lg.seqs = y.lg.seqs := by
    intro y
    unfold entryPlace
    rw [count_rest]
  unfold pushEntry
  rw [h1, h2, entryLost_rest]

theorem pushEntries_seqs (l : List Entry) : ∀ x : Chip, (pushEntries x l).lg.seqs = x.lg.seqs := by
  induction l with
  | nil => exact fun x => rfl
  | cons e l ih => exact fun x => (ih _).trans (pushEntry_seqs x e)

/-- An event moves its own source's counter by 1 and no other. -/
theorem raiseAt_seqs (x : Chip) (t : BitVec 48) (src code : Nat) (args : List Byte) (c : Option CauseRef) :
    (raiseAt x t src code args c).lg.seqs = smPut (fun _ => 0) x.lg.seqs src (nextSeq x src + 1) := by
  unfold raiseAt
  dsimp only
  split
  · rw [pushEntries_seqs]
  · split
    · rfl
    · rw [count_rest]

end Sys2Proof.Machine
end

