-- ==== Sys2Proof/Laws/State.lean ====
section
/-! SUPPORT. Laws of updates: for every named update of the chip, the fields it leaves as they were, and what it gives the
field it writes; the same for the updates of the whole state. Each holds by definition. -/
namespace Sys2Proof.Machine

variable (x : Chip) (s : State)

/-! `wr` writes `regs`. -/

@[simp] theorem wr_staged (a : Nat) (v : Word) : (wr x a v).staged = x.staged := rfl
@[simp] theorem wr_captured (a : Nat) (v : Word) : (wr x a v).captured = x.captured := rfl
@[simp] theorem wr_latch (a : Nat) (v : Word) : (wr x a v).latch = x.latch := rfl
@[simp] theorem wr_rdata (a : Nat) (v : Word) : (wr x a v).rdata = x.rdata := rfl
@[simp] theorem wr_pw (a : Nat) (v : Word) : (wr x a v).pw = x.pw := rfl
@[simp] theorem wr_tm (a : Nat) (v : Word) : (wr x a v).tm = x.tm := rfl
@[simp] theorem wr_lg (a : Nat) (v : Word) : (wr x a v).lg = x.lg := rfl
@[simp] theorem wr_ft (a : Nat) (v : Word) : (wr x a v).ft = x.ft := rfl
@[simp] theorem wr_freeCount (a : Nat) (v : Word) : (wr x a v).freeCount = x.freeCount := rfl
@[simp] theorem wr_ain (a : Nat) (v : Word) : (wr x a v).ain = x.ain := rfl
@[simp] theorem wr_cal (a : Nat) (v : Word) : (wr x a v).cal = x.cal := rfl
@[simp] theorem wr_lanes (a : Nat) (v : Word) : (wr x a v).lanes = x.lanes := rfl
@[simp] theorem wr_mot (a : Nat) (v : Word) : (wr x a v).mot = x.mot := rfl
@[simp] theorem wr_follows (a : Nat) (v : Word) : (wr x a v).follows = x.follows := rfl
@[simp] theorem wr_ownedLeads (a : Nat) (v : Word) : (wr x a v).ownedLeads = x.ownedLeads := rfl
@[simp] theorem wr_lines (a : Nat) (v : Word) : (wr x a v).lines = x.lines := rfl
@[simp] theorem wr_carr (a : Nat) (v : Word) : (wr x a v).carr = x.carr := rfl
@[simp] theorem wr_recSeq (a : Nat) (v : Word) : (wr x a v).recSeq = x.recSeq := rfl
@[simp] theorem wr_heldMap (a : Nat) (v : Word) : (wr x a v).heldMap = x.heldMap := rfl
@[simp] theorem wr_toLink (a : Nat) (v : Word) : (wr x a v).toLink = x.toLink := rfl
@[simp] theorem wr_toOut (a : Nat) (v : Word) : (wr x a v).toOut = x.toOut := rfl
@[simp] theorem wr_idmapDue (a : Nat) (v : Word) : (wr x a v).idmapDue = x.idmapDue := rfl
@[simp] theorem wr_lk (a : Nat) (v : Word) : (wr x a v).lk = x.lk := rfl
@[simp] theorem wr_cp (a : Nat) (v : Word) : (wr x a v).cp = x.cp := rfl
@[simp] theorem wr_wsp (a : Nat) (v : Word) : (wr x a v).wsp = x.wsp := rfl
@[simp] theorem wr_ports (a : Nat) (v : Word) : (wr x a v).ports = x.ports := rfl
@[simp] theorem wr_plays (a : Nat) (v : Word) : (wr x a v).plays = x.plays := rfl
@[simp] theorem wr_privs (a : Nat) (v : Word) : (wr x a v).privs = x.privs := rfl
@[simp] theorem wr_host (a : Nat) (v : Word) : (wr x a v).host = x.host := rfl
@[simp] theorem wr_twb (a : Nat) (v : Word) : (wr x a v).twb = x.twb := rfl
@[simp] theorem wr_clk (a : Nat) (v : Word) : (wr x a v).clk = x.clk := rfl
@[simp] theorem wr_sens (a : Nat) (v : Word) : (wr x a v).sens = x.sens := rfl
@[simp] theorem wr_store (a : Nat) (v : Word) : (wr x a v).store = x.store := rfl
@[simp] theorem wr_fuse (a : Nat) (v : Word) : (wr x a v).fuse = x.fuse := rfl
@[simp] theorem wr_keyShown (a : Nat) (v : Word) : (wr x a v).keyShown = x.keyShown := rfl
@[simp] theorem wr_jtag (a : Nat) (v : Word) : (wr x a v).jtag = x.jtag := rfl
@[simp] theorem wr_bist (a : Nat) (v : Word) : (wr x a v).bist = x.bist := rfl

/-! `fset` writes `regs`. -/

@[simp] theorem fset_staged (f : Fld) (v : Nat) : (fset x f v).staged = x.staged := rfl
@[simp] theorem fset_captured (f : Fld) (v : Nat) : (fset x f v).captured = x.captured := rfl
@[simp] theorem fset_latch (f : Fld) (v : Nat) : (fset x f v).latch = x.latch := rfl
@[simp] theorem fset_rdata (f : Fld) (v : Nat) : (fset x f v).rdata = x.rdata := rfl
@[simp] theorem fset_pw (f : Fld) (v : Nat) : (fset x f v).pw = x.pw := rfl
@[simp] theorem fset_tm (f : Fld) (v : Nat) : (fset x f v).tm = x.tm := rfl
@[simp] theorem fset_lg (f : Fld) (v : Nat) : (fset x f v).lg = x.lg := rfl
@[simp] theorem fset_ft (f : Fld) (v : Nat) : (fset x f v).ft = x.ft := rfl
@[simp] theorem fset_freeCount (f : Fld) (v : Nat) : (fset x f v).freeCount = x.freeCount := rfl
@[simp] theorem fset_ain (f : Fld) (v : Nat) : (fset x f v).ain = x.ain := rfl
@[simp] theorem fset_cal (f : Fld) (v : Nat) : (fset x f v).cal = x.cal := rfl
@[simp] theorem fset_lanes (f : Fld) (v : Nat) : (fset x f v).lanes = x.lanes := rfl
@[simp] theorem fset_mot (f : Fld) (v : Nat) : (fset x f v).mot = x.mot := rfl
@[simp] theorem fset_follows (f : Fld) (v : Nat) : (fset x f v).follows = x.follows := rfl
@[simp] theorem fset_ownedLeads (f : Fld) (v : Nat) : (fset x f v).ownedLeads = x.ownedLeads := rfl
@[simp] theorem fset_lines (f : Fld) (v : Nat) : (fset x f v).lines = x.lines := rfl
@[simp] theorem fset_carr (f : Fld) (v : Nat) : (fset x f v).carr = x.carr := rfl
@[simp] theorem fset_recSeq (f : Fld) (v : Nat) : (fset x f v).recSeq = x.recSeq := rfl
@[simp] theorem fset_heldMap (f : Fld) (v : Nat) : (fset x f v).heldMap = x.heldMap := rfl
@[simp] theorem fset_toLink (f : Fld) (v : Nat) : (fset x f v).toLink = x.toLink := rfl
@[simp] theorem fset_toOut (f : Fld) (v : Nat) : (fset x f v).toOut = x.toOut := rfl
@[simp] theorem fset_idmapDue (f : Fld) (v : Nat) : (fset x f v).idmapDue = x.idmapDue := rfl
@[simp] theorem fset_lk (f : Fld) (v : Nat) : (fset x f v).lk = x.lk := rfl
@[simp] theorem fset_cp (f : Fld) (v : Nat) : (fset x f v).cp = x.cp := rfl
@[simp] theorem fset_wsp (f : Fld) (v : Nat) : (fset x f v).wsp = x.wsp := rfl
@[simp] theorem fset_ports (f : Fld) (v : Nat) : (fset x f v).ports = x.ports := rfl
@[simp] theorem fset_plays (f : Fld) (v : Nat) : (fset x f v).plays = x.plays := rfl
@[simp] theorem fset_privs (f : Fld) (v : Nat) : (fset x f v).privs = x.privs := rfl
@[simp] theorem fset_host (f : Fld) (v : Nat) : (fset x f v).host = x.host := rfl
@[simp] theorem fset_twb (f : Fld) (v : Nat) : (fset x f v).twb = x.twb := rfl
@[simp] theorem fset_clk (f : Fld) (v : Nat) : (fset x f v).clk = x.clk := rfl
@[simp] theorem fset_sens (f : Fld) (v : Nat) : (fset x f v).sens = x.sens := rfl
@[simp] theorem fset_store (f : Fld) (v : Nat) : (fset x f v).store = x.store := rfl
@[simp] theorem fset_fuse (f : Fld) (v : Nat) : (fset x f v).fuse = x.fuse := rfl
@[simp] theorem fset_keyShown (f : Fld) (v : Nat) : (fset x f v).keyShown = x.keyShown := rfl
@[simp] theorem fset_jtag (f : Fld) (v : Nat) : (fset x f v).jtag = x.jtag := rfl
@[simp] theorem fset_bist (f : Fld) (v : Nat) : (fset x f v).bist = x.bist := rfl

/-! `fflag` writes `regs`. -/

@[simp] theorem fflag_staged (f : Fld) (b : Bool) : (fflag x f b).staged = x.staged := rfl
@[simp] theorem fflag_captured (f : Fld) (b : Bool) : (fflag x f b).captured = x.captured := rfl
@[simp] theorem fflag_latch (f : Fld) (b : Bool) : (fflag x f b).latch = x.latch := rfl
@[simp] theorem fflag_rdata (f : Fld) (b : Bool) : (fflag x f b).rdata = x.rdata := rfl
@[simp] theorem fflag_pw (f : Fld) (b : Bool) : (fflag x f b).pw = x.pw := rfl
@[simp] theorem fflag_tm (f : Fld) (b : Bool) : (fflag x f b).tm = x.tm := rfl
@[simp] theorem fflag_lg (f : Fld) (b : Bool) : (fflag x f b).lg = x.lg := rfl
@[simp] theorem fflag_ft (f : Fld) (b : Bool) : (fflag x f b).ft = x.ft := rfl
@[simp] theorem fflag_freeCount (f : Fld) (b : Bool) : (fflag x f b).freeCount = x.freeCount := rfl
@[simp] theorem fflag_ain (f : Fld) (b : Bool) : (fflag x f b).ain = x.ain := rfl
@[simp] theorem fflag_cal (f : Fld) (b : Bool) : (fflag x f b).cal = x.cal := rfl
@[simp] theorem fflag_lanes (f : Fld) (b : Bool) : (fflag x f b).lanes = x.lanes := rfl
@[simp] theorem fflag_mot (f : Fld) (b : Bool) : (fflag x f b).mot = x.mot := rfl
@[simp] theorem fflag_follows (f : Fld) (b : Bool) : (fflag x f b).follows = x.follows := rfl
@[simp] theorem fflag_ownedLeads (f : Fld) (b : Bool) : (fflag x f b).ownedLeads = x.ownedLeads := rfl
@[simp] theorem fflag_lines (f : Fld) (b : Bool) : (fflag x f b).lines = x.lines := rfl
@[simp] theorem fflag_carr (f : Fld) (b : Bool) : (fflag x f b).carr = x.carr := rfl
@[simp] theorem fflag_recSeq (f : Fld) (b : Bool) : (fflag x f b).recSeq = x.recSeq := rfl
@[simp] theorem fflag_heldMap (f : Fld) (b : Bool) : (fflag x f b).heldMap = x.heldMap := rfl
@[simp] theorem fflag_toLink (f : Fld) (b : Bool) : (fflag x f b).toLink = x.toLink := rfl
@[simp] theorem fflag_toOut (f : Fld) (b : Bool) : (fflag x f b).toOut = x.toOut := rfl
@[simp] theorem fflag_idmapDue (f : Fld) (b : Bool) : (fflag x f b).idmapDue = x.idmapDue := rfl
@[simp] theorem fflag_lk (f : Fld) (b : Bool) : (fflag x f b).lk = x.lk := rfl
@[simp] theorem fflag_cp (f : Fld) (b : Bool) : (fflag x f b).cp = x.cp := rfl
@[simp] theorem fflag_wsp (f : Fld) (b : Bool) : (fflag x f b).wsp = x.wsp := rfl
@[simp] theorem fflag_ports (f : Fld) (b : Bool) : (fflag x f b).ports = x.ports := rfl
@[simp] theorem fflag_plays (f : Fld) (b : Bool) : (fflag x f b).plays = x.plays := rfl
@[simp] theorem fflag_privs (f : Fld) (b : Bool) : (fflag x f b).privs = x.privs := rfl
@[simp] theorem fflag_host (f : Fld) (b : Bool) : (fflag x f b).host = x.host := rfl
@[simp] theorem fflag_twb (f : Fld) (b : Bool) : (fflag x f b).twb = x.twb := rfl
@[simp] theorem fflag_clk (f : Fld) (b : Bool) : (fflag x f b).clk = x.clk := rfl
@[simp] theorem fflag_sens (f : Fld) (b : Bool) : (fflag x f b).sens = x.sens := rfl
@[simp] theorem fflag_store (f : Fld) (b : Bool) : (fflag x f b).store = x.store := rfl
@[simp] theorem fflag_fuse (f : Fld) (b : Bool) : (fflag x f b).fuse = x.fuse := rfl
@[simp] theorem fflag_keyShown (f : Fld) (b : Bool) : (fflag x f b).keyShown = x.keyShown := rfl
@[simp] theorem fflag_jtag (f : Fld) (b : Bool) : (fflag x f b).jtag = x.jtag := rfl
@[simp] theorem fflag_bist (f : Fld) (b : Bool) : (fflag x f b).bist = x.bist := rfl

/-! `freeNext` writes `freeCount`. -/

@[simp] theorem freeNext_regs : (freeNext x).regs = x.regs := rfl
@[simp] theorem freeNext_staged : (freeNext x).staged = x.staged := rfl
@[simp] theorem freeNext_captured : (freeNext x).captured = x.captured := rfl
@[simp] theorem freeNext_latch : (freeNext x).latch = x.latch := rfl
@[simp] theorem freeNext_rdata : (freeNext x).rdata = x.rdata := rfl
@[simp] theorem freeNext_pw : (freeNext x).pw = x.pw := rfl
@[simp] theorem freeNext_tm : (freeNext x).tm = x.tm := rfl
@[simp] theorem freeNext_lg : (freeNext x).lg = x.lg := rfl
@[simp] theorem freeNext_ft : (freeNext x).ft = x.ft := rfl
@[simp] theorem freeNext_ain : (freeNext x).ain = x.ain := rfl
@[simp] theorem freeNext_cal : (freeNext x).cal = x.cal := rfl
@[simp] theorem freeNext_lanes : (freeNext x).lanes = x.lanes := rfl
@[simp] theorem freeNext_mot : (freeNext x).mot = x.mot := rfl
@[simp] theorem freeNext_follows : (freeNext x).follows = x.follows := rfl
@[simp] theorem freeNext_ownedLeads : (freeNext x).ownedLeads = x.ownedLeads := rfl
@[simp] theorem freeNext_lines : (freeNext x).lines = x.lines := rfl
@[simp] theorem freeNext_carr : (freeNext x).carr = x.carr := rfl
@[simp] theorem freeNext_recSeq : (freeNext x).recSeq = x.recSeq := rfl
@[simp] theorem freeNext_heldMap : (freeNext x).heldMap = x.heldMap := rfl
@[simp] theorem freeNext_toLink : (freeNext x).toLink = x.toLink := rfl
@[simp] theorem freeNext_toOut : (freeNext x).toOut = x.toOut := rfl
@[simp] theorem freeNext_idmapDue : (freeNext x).idmapDue = x.idmapDue := rfl
@[simp] theorem freeNext_lk : (freeNext x).lk = x.lk := rfl
@[simp] theorem freeNext_cp : (freeNext x).cp = x.cp := rfl
@[simp] theorem freeNext_wsp : (freeNext x).wsp = x.wsp := rfl
@[simp] theorem freeNext_ports : (freeNext x).ports = x.ports := rfl
@[simp] theorem freeNext_plays : (freeNext x).plays = x.plays := rfl
@[simp] theorem freeNext_privs : (freeNext x).privs = x.privs := rfl
@[simp] theorem freeNext_host : (freeNext x).host = x.host := rfl
@[simp] theorem freeNext_twb : (freeNext x).twb = x.twb := rfl
@[simp] theorem freeNext_clk : (freeNext x).clk = x.clk := rfl
@[simp] theorem freeNext_sens : (freeNext x).sens = x.sens := rfl
@[simp] theorem freeNext_store : (freeNext x).store = x.store := rfl
@[simp] theorem freeNext_fuse : (freeNext x).fuse = x.fuse := rfl
@[simp] theorem freeNext_keyShown : (freeNext x).keyShown = x.keyShown := rfl
@[simp] theorem freeNext_jtag : (freeNext x).jtag = x.jtag := rfl
@[simp] theorem freeNext_bist : (freeNext x).bist = x.bist := rfl

/-! `setLane` writes `lanes`. -/

@[simp] theorem setLane_regs (n : Nat) (l : LaneRt) : (setLane x n l).regs = x.regs := rfl
@[simp] theorem setLane_staged (n : Nat) (l : LaneRt) : (setLane x n l).staged = x.staged := rfl
@[simp] theorem setLane_captured (n : Nat) (l : LaneRt) : (setLane x n l).captured = x.captured := rfl
@[simp] theorem setLane_latch (n : Nat) (l : LaneRt) : (setLane x n l).latch = x.latch := rfl
@[simp] theorem setLane_rdata (n : Nat) (l : LaneRt) : (setLane x n l).rdata = x.rdata := rfl
@[simp] theorem setLane_pw (n : Nat) (l : LaneRt) : (setLane x n l).pw = x.pw := rfl
@[simp] theorem setLane_tm (n : Nat) (l : LaneRt) : (setLane x n l).tm = x.tm := rfl
@[simp] theorem setLane_lg (n : Nat) (l : LaneRt) : (setLane x n l).lg = x.lg := rfl
@[simp] theorem setLane_ft (n : Nat) (l : LaneRt) : (setLane x n l).ft = x.ft := rfl
@[simp] theorem setLane_freeCount (n : Nat) (l : LaneRt) : (setLane x n l).freeCount = x.freeCount := rfl
@[simp] theorem setLane_ain (n : Nat) (l : LaneRt) : (setLane x n l).ain = x.ain := rfl
@[simp] theorem setLane_cal (n : Nat) (l : LaneRt) : (setLane x n l).cal = x.cal := rfl
@[simp] theorem setLane_mot (n : Nat) (l : LaneRt) : (setLane x n l).mot = x.mot := rfl
@[simp] theorem setLane_follows (n : Nat) (l : LaneRt) : (setLane x n l).follows = x.follows := rfl
@[simp] theorem setLane_ownedLeads (n : Nat) (l : LaneRt) : (setLane x n l).ownedLeads = x.ownedLeads := rfl
@[simp] theorem setLane_lines (n : Nat) (l : LaneRt) : (setLane x n l).lines = x.lines := rfl
@[simp] theorem setLane_carr (n : Nat) (l : LaneRt) : (setLane x n l).carr = x.carr := rfl
@[simp] theorem setLane_recSeq (n : Nat) (l : LaneRt) : (setLane x n l).recSeq = x.recSeq := rfl
@[simp] theorem setLane_heldMap (n : Nat) (l : LaneRt) : (setLane x n l).heldMap = x.heldMap := rfl
@[simp] theorem setLane_toLink (n : Nat) (l : LaneRt) : (setLane x n l).toLink = x.toLink := rfl
@[simp] theorem setLane_toOut (n : Nat) (l : LaneRt) : (setLane x n l).toOut = x.toOut := rfl
@[simp] theorem setLane_idmapDue (n : Nat) (l : LaneRt) : (setLane x n l).idmapDue = x.idmapDue := rfl
@[simp] theorem setLane_lk (n : Nat) (l : LaneRt) : (setLane x n l).lk = x.lk := rfl
@[simp] theorem setLane_cp (n : Nat) (l : LaneRt) : (setLane x n l).cp = x.cp := rfl
@[simp] theorem setLane_wsp (n : Nat) (l : LaneRt) : (setLane x n l).wsp = x.wsp := rfl
@[simp] theorem setLane_ports (n : Nat) (l : LaneRt) : (setLane x n l).ports = x.ports := rfl
@[simp] theorem setLane_plays (n : Nat) (l : LaneRt) : (setLane x n l).plays = x.plays := rfl
@[simp] theorem setLane_privs (n : Nat) (l : LaneRt) : (setLane x n l).privs = x.privs := rfl
@[simp] theorem setLane_host (n : Nat) (l : LaneRt) : (setLane x n l).host = x.host := rfl
@[simp] theorem setLane_twb (n : Nat) (l : LaneRt) : (setLane x n l).twb = x.twb := rfl
@[simp] theorem setLane_clk (n : Nat) (l : LaneRt) : (setLane x n l).clk = x.clk := rfl
@[simp] theorem setLane_sens (n : Nat) (l : LaneRt) : (setLane x n l).sens = x.sens := rfl
@[simp] theorem setLane_store (n : Nat) (l : LaneRt) : (setLane x n l).store = x.store := rfl
@[simp] theorem setLane_fuse (n : Nat) (l : LaneRt) : (setLane x n l).fuse = x.fuse := rfl
@[simp] theorem setLane_keyShown (n : Nat) (l : LaneRt) : (setLane x n l).keyShown = x.keyShown := rfl
@[simp] theorem setLane_jtag (n : Nat) (l : LaneRt) : (setLane x n l).jtag = x.jtag := rfl
@[simp] theorem setLane_bist (n : Nat) (l : LaneRt) : (setLane x n l).bist = x.bist := rfl

/-! `setLead` writes `lanes`. -/

@[simp] theorem setLead_regs (n : Nat) (l : LeadRt) : (setLead x n l).regs = x.regs := rfl
@[simp] theorem setLead_staged (n : Nat) (l : LeadRt) : (setLead x n l).staged = x.staged := rfl
@[simp] theorem setLead_captured (n : Nat) (l : LeadRt) : (setLead x n l).captured = x.captured := rfl
@[simp] theorem setLead_latch (n : Nat) (l : LeadRt) : (setLead x n l).latch = x.latch := rfl
@[simp] theorem setLead_rdata (n : Nat) (l : LeadRt) : (setLead x n l).rdata = x.rdata := rfl
@[simp] theorem setLead_pw (n : Nat) (l : LeadRt) : (setLead x n l).pw = x.pw := rfl
@[simp] theorem setLead_tm (n : Nat) (l : LeadRt) : (setLead x n l).tm = x.tm := rfl
@[simp] theorem setLead_lg (n : Nat) (l : LeadRt) : (setLead x n l).lg = x.lg := rfl
@[simp] theorem setLead_ft (n : Nat) (l : LeadRt) : (setLead x n l).ft = x.ft := rfl
@[simp] theorem setLead_freeCount (n : Nat) (l : LeadRt) : (setLead x n l).freeCount = x.freeCount := rfl
@[simp] theorem setLead_ain (n : Nat) (l : LeadRt) : (setLead x n l).ain = x.ain := rfl
@[simp] theorem setLead_cal (n : Nat) (l : LeadRt) : (setLead x n l).cal = x.cal := rfl
@[simp] theorem setLead_mot (n : Nat) (l : LeadRt) : (setLead x n l).mot = x.mot := rfl
@[simp] theorem setLead_follows (n : Nat) (l : LeadRt) : (setLead x n l).follows = x.follows := rfl
@[simp] theorem setLead_ownedLeads (n : Nat) (l : LeadRt) : (setLead x n l).ownedLeads = x.ownedLeads := rfl
@[simp] theorem setLead_lines (n : Nat) (l : LeadRt) : (setLead x n l).lines = x.lines := rfl
@[simp] theorem setLead_carr (n : Nat) (l : LeadRt) : (setLead x n l).carr = x.carr := rfl
@[simp] theorem setLead_recSeq (n : Nat) (l : LeadRt) : (setLead x n l).recSeq = x.recSeq := rfl
@[simp] theorem setLead_heldMap (n : Nat) (l : LeadRt) : (setLead x n l).heldMap = x.heldMap := rfl
@[simp] theorem setLead_toLink (n : Nat) (l : LeadRt) : (setLead x n l).toLink = x.toLink := rfl
@[simp] theorem setLead_toOut (n : Nat) (l : LeadRt) : (setLead x n l).toOut = x.toOut := rfl
@[simp] theorem setLead_idmapDue (n : Nat) (l : LeadRt) : (setLead x n l).idmapDue = x.idmapDue := rfl
@[simp] theorem setLead_lk (n : Nat) (l : LeadRt) : (setLead x n l).lk = x.lk := rfl
@[simp] theorem setLead_cp (n : Nat) (l : LeadRt) : (setLead x n l).cp = x.cp := rfl
@[simp] theorem setLead_wsp (n : Nat) (l : LeadRt) : (setLead x n l).wsp = x.wsp := rfl
@[simp] theorem setLead_ports (n : Nat) (l : LeadRt) : (setLead x n l).ports = x.ports := rfl
@[simp] theorem setLead_plays (n : Nat) (l : LeadRt) : (setLead x n l).plays = x.plays := rfl
@[simp] theorem setLead_privs (n : Nat) (l : LeadRt) : (setLead x n l).privs = x.privs := rfl
@[simp] theorem setLead_host (n : Nat) (l : LeadRt) : (setLead x n l).host = x.host := rfl
@[simp] theorem setLead_twb (n : Nat) (l : LeadRt) : (setLead x n l).twb = x.twb := rfl
@[simp] theorem setLead_clk (n : Nat) (l : LeadRt) : (setLead x n l).clk = x.clk := rfl
@[simp] theorem setLead_sens (n : Nat) (l : LeadRt) : (setLead x n l).sens = x.sens := rfl
@[simp] theorem setLead_store (n : Nat) (l : LeadRt) : (setLead x n l).store = x.store := rfl
@[simp] theorem setLead_fuse (n : Nat) (l : LeadRt) : (setLead x n l).fuse = x.fuse := rfl
@[simp] theorem setLead_keyShown (n : Nat) (l : LeadRt) : (setLead x n l).keyShown = x.keyShown := rfl
@[simp] theorem setLead_jtag (n : Nat) (l : LeadRt) : (setLead x n l).jtag = x.jtag := rfl
@[simp] theorem setLead_bist (n : Nat) (l : LeadRt) : (setLead x n l).bist = x.bist := rfl

/-! `setDsp` writes `lanes`. -/

@[simp] theorem setDsp_regs (n : Nat) (d : DspRt) : (setDsp x n d).regs = x.regs := rfl
@[simp] theorem setDsp_staged (n : Nat) (d : DspRt) : (setDsp x n d).staged = x.staged := rfl
@[simp] theorem setDsp_captured (n : Nat) (d : DspRt) : (setDsp x n d).captured = x.captured := rfl
@[simp] theorem setDsp_latch (n : Nat) (d : DspRt) : (setDsp x n d).latch = x.latch := rfl
@[simp] theorem setDsp_rdata (n : Nat) (d : DspRt) : (setDsp x n d).rdata = x.rdata := rfl
@[simp] theorem setDsp_pw (n : Nat) (d : DspRt) : (setDsp x n d).pw = x.pw := rfl
@[simp] theorem setDsp_tm (n : Nat) (d : DspRt) : (setDsp x n d).tm = x.tm := rfl
@[simp] theorem setDsp_lg (n : Nat) (d : DspRt) : (setDsp x n d).lg = x.lg := rfl
@[simp] theorem setDsp_ft (n : Nat) (d : DspRt) : (setDsp x n d).ft = x.ft := rfl
@[simp] theorem setDsp_freeCount (n : Nat) (d : DspRt) : (setDsp x n d).freeCount = x.freeCount := rfl
@[simp] theorem setDsp_ain (n : Nat) (d : DspRt) : (setDsp x n d).ain = x.ain := rfl
@[simp] theorem setDsp_cal (n : Nat) (d : DspRt) : (setDsp x n d).cal = x.cal := rfl
@[simp] theorem setDsp_mot (n : Nat) (d : DspRt) : (setDsp x n d).mot = x.mot := rfl
@[simp] theorem setDsp_follows (n : Nat) (d : DspRt) : (setDsp x n d).follows = x.follows := rfl
@[simp] theorem setDsp_ownedLeads (n : Nat) (d : DspRt) : (setDsp x n d).ownedLeads = x.ownedLeads := rfl
@[simp] theorem setDsp_lines (n : Nat) (d : DspRt) : (setDsp x n d).lines = x.lines := rfl
@[simp] theorem setDsp_carr (n : Nat) (d : DspRt) : (setDsp x n d).carr = x.carr := rfl
@[simp] theorem setDsp_recSeq (n : Nat) (d : DspRt) : (setDsp x n d).recSeq = x.recSeq := rfl
@[simp] theorem setDsp_heldMap (n : Nat) (d : DspRt) : (setDsp x n d).heldMap = x.heldMap := rfl
@[simp] theorem setDsp_toLink (n : Nat) (d : DspRt) : (setDsp x n d).toLink = x.toLink := rfl
@[simp] theorem setDsp_toOut (n : Nat) (d : DspRt) : (setDsp x n d).toOut = x.toOut := rfl
@[simp] theorem setDsp_idmapDue (n : Nat) (d : DspRt) : (setDsp x n d).idmapDue = x.idmapDue := rfl
@[simp] theorem setDsp_lk (n : Nat) (d : DspRt) : (setDsp x n d).lk = x.lk := rfl
@[simp] theorem setDsp_cp (n : Nat) (d : DspRt) : (setDsp x n d).cp = x.cp := rfl
@[simp] theorem setDsp_wsp (n : Nat) (d : DspRt) : (setDsp x n d).wsp = x.wsp := rfl
@[simp] theorem setDsp_ports (n : Nat) (d : DspRt) : (setDsp x n d).ports = x.ports := rfl
@[simp] theorem setDsp_plays (n : Nat) (d : DspRt) : (setDsp x n d).plays = x.plays := rfl
@[simp] theorem setDsp_privs (n : Nat) (d : DspRt) : (setDsp x n d).privs = x.privs := rfl
@[simp] theorem setDsp_host (n : Nat) (d : DspRt) : (setDsp x n d).host = x.host := rfl
@[simp] theorem setDsp_twb (n : Nat) (d : DspRt) : (setDsp x n d).twb = x.twb := rfl
@[simp] theorem setDsp_clk (n : Nat) (d : DspRt) : (setDsp x n d).clk = x.clk := rfl
@[simp] theorem setDsp_sens (n : Nat) (d : DspRt) : (setDsp x n d).sens = x.sens := rfl
@[simp] theorem setDsp_store (n : Nat) (d : DspRt) : (setDsp x n d).store = x.store := rfl
@[simp] theorem setDsp_fuse (n : Nat) (d : DspRt) : (setDsp x n d).fuse = x.fuse := rfl
@[simp] theorem setDsp_keyShown (n : Nat) (d : DspRt) : (setDsp x n d).keyShown = x.keyShown := rfl
@[simp] theorem setDsp_jtag (n : Nat) (d : DspRt) : (setDsp x n d).jtag = x.jtag := rfl
@[simp] theorem setDsp_bist (n : Nat) (d : DspRt) : (setDsp x n d).bist = x.bist := rfl

/-! `setCarr` writes `carr`. -/

@[simp] theorem setCarr_regs (c : Nat) (r : CarrRt) : (setCarr x c r).regs = x.regs := rfl
@[simp] theorem setCarr_staged (c : Nat) (r : CarrRt) : (setCarr x c r).staged = x.staged := rfl
@[simp] theorem setCarr_captured (c : Nat) (r : CarrRt) : (setCarr x c r).captured = x.captured := rfl
@[simp] theorem setCarr_latch (c : Nat) (r : CarrRt) : (setCarr x c r).latch = x.latch := rfl
@[simp] theorem setCarr_rdata (c : Nat) (r : CarrRt) : (setCarr x c r).rdata = x.rdata := rfl
@[simp] theorem setCarr_pw (c : Nat) (r : CarrRt) : (setCarr x c r).pw = x.pw := rfl
@[simp] theorem setCarr_tm (c : Nat) (r : CarrRt) : (setCarr x c r).tm = x.tm := rfl
@[simp] theorem setCarr_lg (c : Nat) (r : CarrRt) : (setCarr x c r).lg = x.lg := rfl
@[simp] theorem setCarr_ft (c : Nat) (r : CarrRt) : (setCarr x c r).ft = x.ft := rfl
@[simp] theorem setCarr_freeCount (c : Nat) (r : CarrRt) : (setCarr x c r).freeCount = x.freeCount := rfl
@[simp] theorem setCarr_ain (c : Nat) (r : CarrRt) : (setCarr x c r).ain = x.ain := rfl
@[simp] theorem setCarr_cal (c : Nat) (r : CarrRt) : (setCarr x c r).cal = x.cal := rfl
@[simp] theorem setCarr_lanes (c : Nat) (r : CarrRt) : (setCarr x c r).lanes = x.lanes := rfl
@[simp] theorem setCarr_mot (c : Nat) (r : CarrRt) : (setCarr x c r).mot = x.mot := rfl
@[simp] theorem setCarr_follows (c : Nat) (r : CarrRt) : (setCarr x c r).follows = x.follows := rfl
@[simp] theorem setCarr_ownedLeads (c : Nat) (r : CarrRt) : (setCarr x c r).ownedLeads = x.ownedLeads := rfl
@[simp] theorem setCarr_lines (c : Nat) (r : CarrRt) : (setCarr x c r).lines = x.lines := rfl
@[simp] theorem setCarr_recSeq (c : Nat) (r : CarrRt) : (setCarr x c r).recSeq = x.recSeq := rfl
@[simp] theorem setCarr_heldMap (c : Nat) (r : CarrRt) : (setCarr x c r).heldMap = x.heldMap := rfl
@[simp] theorem setCarr_toLink (c : Nat) (r : CarrRt) : (setCarr x c r).toLink = x.toLink := rfl
@[simp] theorem setCarr_toOut (c : Nat) (r : CarrRt) : (setCarr x c r).toOut = x.toOut := rfl
@[simp] theorem setCarr_idmapDue (c : Nat) (r : CarrRt) : (setCarr x c r).idmapDue = x.idmapDue := rfl
@[simp] theorem setCarr_lk (c : Nat) (r : CarrRt) : (setCarr x c r).lk = x.lk := rfl
@[simp] theorem setCarr_cp (c : Nat) (r : CarrRt) : (setCarr x c r).cp = x.cp := rfl
@[simp] theorem setCarr_wsp (c : Nat) (r : CarrRt) : (setCarr x c r).wsp = x.wsp := rfl
@[simp] theorem setCarr_ports (c : Nat) (r : CarrRt) : (setCarr x c r).ports = x.ports := rfl
@[simp] theorem setCarr_plays (c : Nat) (r : CarrRt) : (setCarr x c r).plays = x.plays := rfl
@[simp] theorem setCarr_privs (c : Nat) (r : CarrRt) : (setCarr x c r).privs = x.privs := rfl
@[simp] theorem setCarr_host (c : Nat) (r : CarrRt) : (setCarr x c r).host = x.host := rfl
@[simp] theorem setCarr_twb (c : Nat) (r : CarrRt) : (setCarr x c r).twb = x.twb := rfl
@[simp] theorem setCarr_clk (c : Nat) (r : CarrRt) : (setCarr x c r).clk = x.clk := rfl
@[simp] theorem setCarr_sens (c : Nat) (r : CarrRt) : (setCarr x c r).sens = x.sens := rfl
@[simp] theorem setCarr_store (c : Nat) (r : CarrRt) : (setCarr x c r).store = x.store := rfl
@[simp] theorem setCarr_fuse (c : Nat) (r : CarrRt) : (setCarr x c r).fuse = x.fuse := rfl
@[simp] theorem setCarr_keyShown (c : Nat) (r : CarrRt) : (setCarr x c r).keyShown = x.keyShown := rfl
@[simp] theorem setCarr_jtag (c : Nat) (r : CarrRt) : (setCarr x c r).jtag = x.jtag := rfl
@[simp] theorem setCarr_bist (c : Nat) (r : CarrRt) : (setCarr x c r).bist = x.bist := rfl

/-! `setFollow` writes `follows`. -/

@[simp] theorem setFollow_regs (p : Nat) (r : Follow) : (setFollow x p r).regs = x.regs := rfl
@[simp] theorem setFollow_staged (p : Nat) (r : Follow) : (setFollow x p r).staged = x.staged := rfl
@[simp] theorem setFollow_captured (p : Nat) (r : Follow) : (setFollow x p r).captured = x.captured := rfl
@[simp] theorem setFollow_latch (p : Nat) (r : Follow) : (setFollow x p r).latch = x.latch := rfl
@[simp] theorem setFollow_rdata (p : Nat) (r : Follow) : (setFollow x p r).rdata = x.rdata := rfl
@[simp] theorem setFollow_pw (p : Nat) (r : Follow) : (setFollow x p r).pw = x.pw := rfl
@[simp] theorem setFollow_tm (p : Nat) (r : Follow) : (setFollow x p r).tm = x.tm := rfl
@[simp] theorem setFollow_lg (p : Nat) (r : Follow) : (setFollow x p r).lg = x.lg := rfl
@[simp] theorem setFollow_ft (p : Nat) (r : Follow) : (setFollow x p r).ft = x.ft := rfl
@[simp] theorem setFollow_freeCount (p : Nat) (r : Follow) : (setFollow x p r).freeCount = x.freeCount := rfl
@[simp] theorem setFollow_ain (p : Nat) (r : Follow) : (setFollow x p r).ain = x.ain := rfl
@[simp] theorem setFollow_cal (p : Nat) (r : Follow) : (setFollow x p r).cal = x.cal := rfl
@[simp] theorem setFollow_lanes (p : Nat) (r : Follow) : (setFollow x p r).lanes = x.lanes := rfl
@[simp] theorem setFollow_mot (p : Nat) (r : Follow) : (setFollow x p r).mot = x.mot := rfl
@[simp] theorem setFollow_ownedLeads (p : Nat) (r : Follow) : (setFollow x p r).ownedLeads = x.ownedLeads := rfl
@[simp] theorem setFollow_lines (p : Nat) (r : Follow) : (setFollow x p r).lines = x.lines := rfl
@[simp] theorem setFollow_carr (p : Nat) (r : Follow) : (setFollow x p r).carr = x.carr := rfl
@[simp] theorem setFollow_recSeq (p : Nat) (r : Follow) : (setFollow x p r).recSeq = x.recSeq := rfl
@[simp] theorem setFollow_heldMap (p : Nat) (r : Follow) : (setFollow x p r).heldMap = x.heldMap := rfl
@[simp] theorem setFollow_toLink (p : Nat) (r : Follow) : (setFollow x p r).toLink = x.toLink := rfl
@[simp] theorem setFollow_toOut (p : Nat) (r : Follow) : (setFollow x p r).toOut = x.toOut := rfl
@[simp] theorem setFollow_idmapDue (p : Nat) (r : Follow) : (setFollow x p r).idmapDue = x.idmapDue := rfl
@[simp] theorem setFollow_lk (p : Nat) (r : Follow) : (setFollow x p r).lk = x.lk := rfl
@[simp] theorem setFollow_cp (p : Nat) (r : Follow) : (setFollow x p r).cp = x.cp := rfl
@[simp] theorem setFollow_wsp (p : Nat) (r : Follow) : (setFollow x p r).wsp = x.wsp := rfl
@[simp] theorem setFollow_ports (p : Nat) (r : Follow) : (setFollow x p r).ports = x.ports := rfl
@[simp] theorem setFollow_plays (p : Nat) (r : Follow) : (setFollow x p r).plays = x.plays := rfl
@[simp] theorem setFollow_privs (p : Nat) (r : Follow) : (setFollow x p r).privs = x.privs := rfl
@[simp] theorem setFollow_host (p : Nat) (r : Follow) : (setFollow x p r).host = x.host := rfl
@[simp] theorem setFollow_twb (p : Nat) (r : Follow) : (setFollow x p r).twb = x.twb := rfl
@[simp] theorem setFollow_clk (p : Nat) (r : Follow) : (setFollow x p r).clk = x.clk := rfl
@[simp] theorem setFollow_sens (p : Nat) (r : Follow) : (setFollow x p r).sens = x.sens := rfl
@[simp] theorem setFollow_store (p : Nat) (r : Follow) : (setFollow x p r).store = x.store := rfl
@[simp] theorem setFollow_fuse (p : Nat) (r : Follow) : (setFollow x p r).fuse = x.fuse := rfl
@[simp] theorem setFollow_keyShown (p : Nat) (r : Follow) : (setFollow x p r).keyShown = x.keyShown := rfl
@[simp] theorem setFollow_jtag (p : Nat) (r : Follow) : (setFollow x p r).jtag = x.jtag := rfl
@[simp] theorem setFollow_bist (p : Nat) (r : Follow) : (setFollow x p r).bist = x.bist := rfl

/-! `setAin` writes `ain`. -/

@[simp] theorem setAin_regs (a : Nat) (r : AinRt) : (setAin x a r).regs = x.regs := rfl
@[simp] theorem setAin_staged (a : Nat) (r : AinRt) : (setAin x a r).staged = x.staged := rfl
@[simp] theorem setAin_captured (a : Nat) (r : AinRt) : (setAin x a r).captured = x.captured := rfl
@[simp] theorem setAin_latch (a : Nat) (r : AinRt) : (setAin x a r).latch = x.latch := rfl
@[simp] theorem setAin_rdata (a : Nat) (r : AinRt) : (setAin x a r).rdata = x.rdata := rfl
@[simp] theorem setAin_pw (a : Nat) (r : AinRt) : (setAin x a r).pw = x.pw := rfl
@[simp] theorem setAin_tm (a : Nat) (r : AinRt) : (setAin x a r).tm = x.tm := rfl
@[simp] theorem setAin_lg (a : Nat) (r : AinRt) : (setAin x a r).lg = x.lg := rfl
@[simp] theorem setAin_ft (a : Nat) (r : AinRt) : (setAin x a r).ft = x.ft := rfl
@[simp] theorem setAin_freeCount (a : Nat) (r : AinRt) : (setAin x a r).freeCount = x.freeCount := rfl
@[simp] theorem setAin_cal (a : Nat) (r : AinRt) : (setAin x a r).cal = x.cal := rfl
@[simp] theorem setAin_lanes (a : Nat) (r : AinRt) : (setAin x a r).lanes = x.lanes := rfl
@[simp] theorem setAin_mot (a : Nat) (r : AinRt) : (setAin x a r).mot = x.mot := rfl
@[simp] theorem setAin_follows (a : Nat) (r : AinRt) : (setAin x a r).follows = x.follows := rfl
@[simp] theorem setAin_ownedLeads (a : Nat) (r : AinRt) : (setAin x a r).ownedLeads = x.ownedLeads := rfl
@[simp] theorem setAin_lines (a : Nat) (r : AinRt) : (setAin x a r).lines = x.lines := rfl
@[simp] theorem setAin_carr (a : Nat) (r : AinRt) : (setAin x a r).carr = x.carr := rfl
@[simp] theorem setAin_recSeq (a : Nat) (r : AinRt) : (setAin x a r).recSeq = x.recSeq := rfl
@[simp] theorem setAin_heldMap (a : Nat) (r : AinRt) : (setAin x a r).heldMap = x.heldMap := rfl
@[simp] theorem setAin_toLink (a : Nat) (r : AinRt) : (setAin x a r).toLink = x.toLink := rfl
@[simp] theorem setAin_toOut (a : Nat) (r : AinRt) : (setAin x a r).toOut = x.toOut := rfl
@[simp] theorem setAin_idmapDue (a : Nat) (r : AinRt) : (setAin x a r).idmapDue = x.idmapDue := rfl
@[simp] theorem setAin_lk (a : Nat) (r : AinRt) : (setAin x a r).lk = x.lk := rfl
@[simp] theorem setAin_cp (a : Nat) (r : AinRt) : (setAin x a r).cp = x.cp := rfl
@[simp] theorem setAin_wsp (a : Nat) (r : AinRt) : (setAin x a r).wsp = x.wsp := rfl
@[simp] theorem setAin_ports (a : Nat) (r : AinRt) : (setAin x a r).ports = x.ports := rfl
@[simp] theorem setAin_plays (a : Nat) (r : AinRt) : (setAin x a r).plays = x.plays := rfl
@[simp] theorem setAin_privs (a : Nat) (r : AinRt) : (setAin x a r).privs = x.privs := rfl
@[simp] theorem setAin_host (a : Nat) (r : AinRt) : (setAin x a r).host = x.host := rfl
@[simp] theorem setAin_twb (a : Nat) (r : AinRt) : (setAin x a r).twb = x.twb := rfl
@[simp] theorem setAin_clk (a : Nat) (r : AinRt) : (setAin x a r).clk = x.clk := rfl
@[simp] theorem setAin_sens (a : Nat) (r : AinRt) : (setAin x a r).sens = x.sens := rfl
@[simp] theorem setAin_store (a : Nat) (r : AinRt) : (setAin x a r).store = x.store := rfl
@[simp] theorem setAin_fuse (a : Nat) (r : AinRt) : (setAin x a r).fuse = x.fuse := rfl
@[simp] theorem setAin_keyShown (a : Nat) (r : AinRt) : (setAin x a r).keyShown = x.keyShown := rfl
@[simp] theorem setAin_jtag (a : Nat) (r : AinRt) : (setAin x a r).jtag = x.jtag := rfl
@[simp] theorem setAin_bist (a : Nat) (r : AinRt) : (setAin x a r).bist = x.bist := rfl

/-! `setCal` writes `cal`. -/

@[simp] theorem setCal_regs (a : Nat) (c : CalRt) : (setCal x a c).regs = x.regs := rfl
@[simp] theorem setCal_staged (a : Nat) (c : CalRt) : (setCal x a c).staged = x.staged := rfl
@[simp] theorem setCal_captured (a : Nat) (c : CalRt) : (setCal x a c).captured = x.captured := rfl
@[simp] theorem setCal_latch (a : Nat) (c : CalRt) : (setCal x a c).latch = x.latch := rfl
@[simp] theorem setCal_rdata (a : Nat) (c : CalRt) : (setCal x a c).rdata = x.rdata := rfl
@[simp] theorem setCal_pw (a : Nat) (c : CalRt) : (setCal x a c).pw = x.pw := rfl
@[simp] theorem setCal_tm (a : Nat) (c : CalRt) : (setCal x a c).tm = x.tm := rfl
@[simp] theorem setCal_lg (a : Nat) (c : CalRt) : (setCal x a c).lg = x.lg := rfl
@[simp] theorem setCal_ft (a : Nat) (c : CalRt) : (setCal x a c).ft = x.ft := rfl
@[simp] theorem setCal_freeCount (a : Nat) (c : CalRt) : (setCal x a c).freeCount = x.freeCount := rfl
@[simp] theorem setCal_ain (a : Nat) (c : CalRt) : (setCal x a c).ain = x.ain := rfl
@[simp] theorem setCal_lanes (a : Nat) (c : CalRt) : (setCal x a c).lanes = x.lanes := rfl
@[simp] theorem setCal_mot (a : Nat) (c : CalRt) : (setCal x a c).mot = x.mot := rfl
@[simp] theorem setCal_follows (a : Nat) (c : CalRt) : (setCal x a c).follows = x.follows := rfl
@[simp] theorem setCal_ownedLeads (a : Nat) (c : CalRt) : (setCal x a c).ownedLeads = x.ownedLeads := rfl
@[simp] theorem setCal_lines (a : Nat) (c : CalRt) : (setCal x a c).lines = x.lines := rfl
@[simp] theorem setCal_carr (a : Nat) (c : CalRt) : (setCal x a c).carr = x.carr := rfl
@[simp] theorem setCal_recSeq (a : Nat) (c : CalRt) : (setCal x a c).recSeq = x.recSeq := rfl
@[simp] theorem setCal_heldMap (a : Nat) (c : CalRt) : (setCal x a c).heldMap = x.heldMap := rfl
@[simp] theorem setCal_toLink (a : Nat) (c : CalRt) : (setCal x a c).toLink = x.toLink := rfl
@[simp] theorem setCal_toOut (a : Nat) (c : CalRt) : (setCal x a c).toOut = x.toOut := rfl
@[simp] theorem setCal_idmapDue (a : Nat) (c : CalRt) : (setCal x a c).idmapDue = x.idmapDue := rfl
@[simp] theorem setCal_lk (a : Nat) (c : CalRt) : (setCal x a c).lk = x.lk := rfl
@[simp] theorem setCal_cp (a : Nat) (c : CalRt) : (setCal x a c).cp = x.cp := rfl
@[simp] theorem setCal_wsp (a : Nat) (c : CalRt) : (setCal x a c).wsp = x.wsp := rfl
@[simp] theorem setCal_ports (a : Nat) (c : CalRt) : (setCal x a c).ports = x.ports := rfl
@[simp] theorem setCal_plays (a : Nat) (c : CalRt) : (setCal x a c).plays = x.plays := rfl
@[simp] theorem setCal_privs (a : Nat) (c : CalRt) : (setCal x a c).privs = x.privs := rfl
@[simp] theorem setCal_host (a : Nat) (c : CalRt) : (setCal x a c).host = x.host := rfl
@[simp] theorem setCal_twb (a : Nat) (c : CalRt) : (setCal x a c).twb = x.twb := rfl
@[simp] theorem setCal_clk (a : Nat) (c : CalRt) : (setCal x a c).clk = x.clk := rfl
@[simp] theorem setCal_sens (a : Nat) (c : CalRt) : (setCal x a c).sens = x.sens := rfl
@[simp] theorem setCal_store (a : Nat) (c : CalRt) : (setCal x a c).store = x.store := rfl
@[simp] theorem setCal_fuse (a : Nat) (c : CalRt) : (setCal x a c).fuse = x.fuse := rfl
@[simp] theorem setCal_keyShown (a : Nat) (c : CalRt) : (setCal x a c).keyShown = x.keyShown := rfl
@[simp] theorem setCal_jtag (a : Nat) (c : CalRt) : (setCal x a c).jtag = x.jtag := rfl
@[simp] theorem setCal_bist (a : Nat) (c : CalRt) : (setCal x a c).bist = x.bist := rfl

/-! `setPort` writes `ports`. -/

@[simp] theorem setPort_regs (p : Nat) (r : PortRt) : (setPort x p r).regs = x.regs := rfl
@[simp] theorem setPort_staged (p : Nat) (r : PortRt) : (setPort x p r).staged = x.staged := rfl
@[simp] theorem setPort_captured (p : Nat) (r : PortRt) : (setPort x p r).captured = x.captured := rfl
@[simp] theorem setPort_latch (p : Nat) (r : PortRt) : (setPort x p r).latch = x.latch := rfl
@[simp] theorem setPort_rdata (p : Nat) (r : PortRt) : (setPort x p r).rdata = x.rdata := rfl
@[simp] theorem setPort_pw (p : Nat) (r : PortRt) : (setPort x p r).pw = x.pw := rfl
@[simp] theorem setPort_tm (p : Nat) (r : PortRt) : (setPort x p r).tm = x.tm := rfl
@[simp] theorem setPort_lg (p : Nat) (r : PortRt) : (setPort x p r).lg = x.lg := rfl
@[simp] theorem setPort_ft (p : Nat) (r : PortRt) : (setPort x p r).ft = x.ft := rfl
@[simp] theorem setPort_freeCount (p : Nat) (r : PortRt) : (setPort x p r).freeCount = x.freeCount := rfl
@[simp] theorem setPort_ain (p : Nat) (r : PortRt) : (setPort x p r).ain = x.ain := rfl
@[simp] theorem setPort_cal (p : Nat) (r : PortRt) : (setPort x p r).cal = x.cal := rfl
@[simp] theorem setPort_lanes (p : Nat) (r : PortRt) : (setPort x p r).lanes = x.lanes := rfl
@[simp] theorem setPort_mot (p : Nat) (r : PortRt) : (setPort x p r).mot = x.mot := rfl
@[simp] theorem setPort_follows (p : Nat) (r : PortRt) : (setPort x p r).follows = x.follows := rfl
@[simp] theorem setPort_ownedLeads (p : Nat) (r : PortRt) : (setPort x p r).ownedLeads = x.ownedLeads := rfl
@[simp] theorem setPort_lines (p : Nat) (r : PortRt) : (setPort x p r).lines = x.lines := rfl
@[simp] theorem setPort_carr (p : Nat) (r : PortRt) : (setPort x p r).carr = x.carr := rfl
@[simp] theorem setPort_recSeq (p : Nat) (r : PortRt) : (setPort x p r).recSeq = x.recSeq := rfl
@[simp] theorem setPort_heldMap (p : Nat) (r : PortRt) : (setPort x p r).heldMap = x.heldMap := rfl
@[simp] theorem setPort_toLink (p : Nat) (r : PortRt) : (setPort x p r).toLink = x.toLink := rfl
@[simp] theorem setPort_toOut (p : Nat) (r : PortRt) : (setPort x p r).toOut = x.toOut := rfl
@[simp] theorem setPort_idmapDue (p : Nat) (r : PortRt) : (setPort x p r).idmapDue = x.idmapDue := rfl
@[simp] theorem setPort_lk (p : Nat) (r : PortRt) : (setPort x p r).lk = x.lk := rfl
@[simp] theorem setPort_cp (p : Nat) (r : PortRt) : (setPort x p r).cp = x.cp := rfl
@[simp] theorem setPort_wsp (p : Nat) (r : PortRt) : (setPort x p r).wsp = x.wsp := rfl
@[simp] theorem setPort_plays (p : Nat) (r : PortRt) : (setPort x p r).plays = x.plays := rfl
@[simp] theorem setPort_privs (p : Nat) (r : PortRt) : (setPort x p r).privs = x.privs := rfl
@[simp] theorem setPort_host (p : Nat) (r : PortRt) : (setPort x p r).host = x.host := rfl
@[simp] theorem setPort_twb (p : Nat) (r : PortRt) : (setPort x p r).twb = x.twb := rfl
@[simp] theorem setPort_clk (p : Nat) (r : PortRt) : (setPort x p r).clk = x.clk := rfl
@[simp] theorem setPort_sens (p : Nat) (r : PortRt) : (setPort x p r).sens = x.sens := rfl
@[simp] theorem setPort_store (p : Nat) (r : PortRt) : (setPort x p r).store = x.store := rfl
@[simp] theorem setPort_fuse (p : Nat) (r : PortRt) : (setPort x p r).fuse = x.fuse := rfl
@[simp] theorem setPort_keyShown (p : Nat) (r : PortRt) : (setPort x p r).keyShown = x.keyShown := rfl
@[simp] theorem setPort_jtag (p : Nat) (r : PortRt) : (setPort x p r).jtag = x.jtag := rfl
@[simp] theorem setPort_bist (p : Nat) (r : PortRt) : (setPort x p r).bist = x.bist := rfl

/-! `setPlay` writes `plays`. -/

@[simp] theorem setPlay_regs (c : Nat) (r : PlayRt) : (setPlay x c r).regs = x.regs := rfl
@[simp] theorem setPlay_staged (c : Nat) (r : PlayRt) : (setPlay x c r).staged = x.staged := rfl
@[simp] theorem setPlay_captured (c : Nat) (r : PlayRt) : (setPlay x c r).captured = x.captured := rfl
@[simp] theorem setPlay_latch (c : Nat) (r : PlayRt) : (setPlay x c r).latch = x.latch := rfl
@[simp] theorem setPlay_rdata (c : Nat) (r : PlayRt) : (setPlay x c r).rdata = x.rdata := rfl
@[simp] theorem setPlay_pw (c : Nat) (r : PlayRt) : (setPlay x c r).pw = x.pw := rfl
@[simp] theorem setPlay_tm (c : Nat) (r : PlayRt) : (setPlay x c r).tm = x.tm := rfl
@[simp] theorem setPlay_lg (c : Nat) (r : PlayRt) : (setPlay x c r).lg = x.lg := rfl
@[simp] theorem setPlay_ft (c : Nat) (r : PlayRt) : (setPlay x c r).ft = x.ft := rfl
@[simp] theorem setPlay_freeCount (c : Nat) (r : PlayRt) : (setPlay x c r).freeCount = x.freeCount := rfl
@[simp] theorem setPlay_ain (c : Nat) (r : PlayRt) : (setPlay x c r).ain = x.ain := rfl
@[simp] theorem setPlay_cal (c : Nat) (r : PlayRt) : (setPlay x c r).cal = x.cal := rfl
@[simp] theorem setPlay_lanes (c : Nat) (r : PlayRt) : (setPlay x c r).lanes = x.lanes := rfl
@[simp] theorem setPlay_mot (c : Nat) (r : PlayRt) : (setPlay x c r).mot = x.mot := rfl
@[simp] theorem setPlay_follows (c : Nat) (r : PlayRt) : (setPlay x c r).follows = x.follows := rfl
@[simp] theorem setPlay_ownedLeads (c : Nat) (r : PlayRt) : (setPlay x c r).ownedLeads = x.ownedLeads := rfl
@[simp] theorem setPlay_lines (c : Nat) (r : PlayRt) : (setPlay x c r).lines = x.lines := rfl
@[simp] theorem setPlay_carr (c : Nat) (r : PlayRt) : (setPlay x c r).carr = x.carr := rfl
@[simp] theorem setPlay_recSeq (c : Nat) (r : PlayRt) : (setPlay x c r).recSeq = x.recSeq := rfl
@[simp] theorem setPlay_heldMap (c : Nat) (r : PlayRt) : (setPlay x c r).heldMap = x.heldMap := rfl
@[simp] theorem setPlay_toLink (c : Nat) (r : PlayRt) : (setPlay x c r).toLink = x.toLink := rfl
@[simp] theorem setPlay_toOut (c : Nat) (r : PlayRt) : (setPlay x c r).toOut = x.toOut := rfl
@[simp] theorem setPlay_idmapDue (c : Nat) (r : PlayRt) : (setPlay x c r).idmapDue = x.idmapDue := rfl
@[simp] theorem setPlay_lk (c : Nat) (r : PlayRt) : (setPlay x c r).lk = x.lk := rfl
@[simp] theorem setPlay_cp (c : Nat) (r : PlayRt) : (setPlay x c r).cp = x.cp := rfl
@[simp] theorem setPlay_wsp (c : Nat) (r : PlayRt) : (setPlay x c r).wsp = x.wsp := rfl
@[simp] theorem setPlay_ports (c : Nat) (r : PlayRt) : (setPlay x c r).ports = x.ports := rfl
@[simp] theorem setPlay_privs (c : Nat) (r : PlayRt) : (setPlay x c r).privs = x.privs := rfl
@[simp] theorem setPlay_host (c : Nat) (r : PlayRt) : (setPlay x c r).host = x.host := rfl
@[simp] theorem setPlay_twb (c : Nat) (r : PlayRt) : (setPlay x c r).twb = x.twb := rfl
@[simp] theorem setPlay_clk (c : Nat) (r : PlayRt) : (setPlay x c r).clk = x.clk := rfl
@[simp] theorem setPlay_sens (c : Nat) (r : PlayRt) : (setPlay x c r).sens = x.sens := rfl
@[simp] theorem setPlay_store (c : Nat) (r : PlayRt) : (setPlay x c r).store = x.store := rfl
@[simp] theorem setPlay_fuse (c : Nat) (r : PlayRt) : (setPlay x c r).fuse = x.fuse := rfl
@[simp] theorem setPlay_keyShown (c : Nat) (r : PlayRt) : (setPlay x c r).keyShown = x.keyShown := rfl
@[simp] theorem setPlay_jtag (c : Nat) (r : PlayRt) : (setPlay x c r).jtag = x.jtag := rfl
@[simp] theorem setPlay_bist (c : Nat) (r : PlayRt) : (setPlay x c r).bist = x.bist := rfl

/-! `setPriv` writes `privs`. -/

@[simp] theorem setPriv_regs (i : Nat) (r : PrivRt) : (setPriv x i r).regs = x.regs := rfl
@[simp] theorem setPriv_staged (i : Nat) (r : PrivRt) : (setPriv x i r).staged = x.staged := rfl
@[simp] theorem setPriv_captured (i : Nat) (r : PrivRt) : (setPriv x i r).captured = x.captured := rfl
@[simp] theorem setPriv_latch (i : Nat) (r : PrivRt) : (setPriv x i r).latch = x.latch := rfl
@[simp] theorem setPriv_rdata (i : Nat) (r : PrivRt) : (setPriv x i r).rdata = x.rdata := rfl
@[simp] theorem setPriv_pw (i : Nat) (r : PrivRt) : (setPriv x i r).pw = x.pw := rfl
@[simp] theorem setPriv_tm (i : Nat) (r : PrivRt) : (setPriv x i r).tm = x.tm := rfl
@[simp] theorem setPriv_lg (i : Nat) (r : PrivRt) : (setPriv x i r).lg = x.lg := rfl
@[simp] theorem setPriv_ft (i : Nat) (r : PrivRt) : (setPriv x i r).ft = x.ft := rfl
@[simp] theorem setPriv_freeCount (i : Nat) (r : PrivRt) : (setPriv x i r).freeCount = x.freeCount := rfl
@[simp] theorem setPriv_ain (i : Nat) (r : PrivRt) : (setPriv x i r).ain = x.ain := rfl
@[simp] theorem setPriv_cal (i : Nat) (r : PrivRt) : (setPriv x i r).cal = x.cal := rfl
@[simp] theorem setPriv_lanes (i : Nat) (r : PrivRt) : (setPriv x i r).lanes = x.lanes := rfl
@[simp] theorem setPriv_mot (i : Nat) (r : PrivRt) : (setPriv x i r).mot = x.mot := rfl
@[simp] theorem setPriv_follows (i : Nat) (r : PrivRt) : (setPriv x i r).follows = x.follows := rfl
@[simp] theorem setPriv_ownedLeads (i : Nat) (r : PrivRt) : (setPriv x i r).ownedLeads = x.ownedLeads := rfl
@[simp] theorem setPriv_lines (i : Nat) (r : PrivRt) : (setPriv x i r).lines = x.lines := rfl
@[simp] theorem setPriv_carr (i : Nat) (r : PrivRt) : (setPriv x i r).carr = x.carr := rfl
@[simp] theorem setPriv_recSeq (i : Nat) (r : PrivRt) : (setPriv x i r).recSeq = x.recSeq := rfl
@[simp] theorem setPriv_heldMap (i : Nat) (r : PrivRt) : (setPriv x i r).heldMap = x.heldMap := rfl
@[simp] theorem setPriv_toLink (i : Nat) (r : PrivRt) : (setPriv x i r).toLink = x.toLink := rfl
@[simp] theorem setPriv_toOut (i : Nat) (r : PrivRt) : (setPriv x i r).toOut = x.toOut := rfl
@[simp] theorem setPriv_idmapDue (i : Nat) (r : PrivRt) : (setPriv x i r).idmapDue = x.idmapDue := rfl
@[simp] theorem setPriv_lk (i : Nat) (r : PrivRt) : (setPriv x i r).lk = x.lk := rfl
@[simp] theorem setPriv_cp (i : Nat) (r : PrivRt) : (setPriv x i r).cp = x.cp := rfl
@[simp] theorem setPriv_wsp (i : Nat) (r : PrivRt) : (setPriv x i r).wsp = x.wsp := rfl
@[simp] theorem setPriv_ports (i : Nat) (r : PrivRt) : (setPriv x i r).ports = x.ports := rfl
@[simp] theorem setPriv_plays (i : Nat) (r : PrivRt) : (setPriv x i r).plays = x.plays := rfl
@[simp] theorem setPriv_host (i : Nat) (r : PrivRt) : (setPriv x i r).host = x.host := rfl
@[simp] theorem setPriv_twb (i : Nat) (r : PrivRt) : (setPriv x i r).twb = x.twb := rfl
@[simp] theorem setPriv_clk (i : Nat) (r : PrivRt) : (setPriv x i r).clk = x.clk := rfl
@[simp] theorem setPriv_sens (i : Nat) (r : PrivRt) : (setPriv x i r).sens = x.sens := rfl
@[simp] theorem setPriv_store (i : Nat) (r : PrivRt) : (setPriv x i r).store = x.store := rfl
@[simp] theorem setPriv_fuse (i : Nat) (r : PrivRt) : (setPriv x i r).fuse = x.fuse := rfl
@[simp] theorem setPriv_keyShown (i : Nat) (r : PrivRt) : (setPriv x i r).keyShown = x.keyShown := rfl
@[simp] theorem setPriv_jtag (i : Nat) (r : PrivRt) : (setPriv x i r).jtag = x.jtag := rfl
@[simp] theorem setPriv_bist (i : Nat) (r : PrivRt) : (setPriv x i r).bist = x.bist := rfl

/-! `freeMot` writes `mot`. -/

@[simp] theorem freeMot_regs (n tid : Nat) : (freeMot x n tid).regs = x.regs := rfl
@[simp] theorem freeMot_staged (n tid : Nat) : (freeMot x n tid).staged = x.staged := rfl
@[simp] theorem freeMot_captured (n tid : Nat) : (freeMot x n tid).captured = x.captured := rfl
@[simp] theorem freeMot_latch (n tid : Nat) : (freeMot x n tid).latch = x.latch := rfl
@[simp] theorem freeMot_rdata (n tid : Nat) : (freeMot x n tid).rdata = x.rdata := rfl
@[simp] theorem freeMot_pw (n tid : Nat) : (freeMot x n tid).pw = x.pw := rfl
@[simp] theorem freeMot_tm (n tid : Nat) : (freeMot x n tid).tm = x.tm := rfl
@[simp] theorem freeMot_lg (n tid : Nat) : (freeMot x n tid).lg = x.lg := rfl
@[simp] theorem freeMot_ft (n tid : Nat) : (freeMot x n tid).ft = x.ft := rfl
@[simp] theorem freeMot_freeCount (n tid : Nat) : (freeMot x n tid).freeCount = x.freeCount := rfl
@[simp] theorem freeMot_ain (n tid : Nat) : (freeMot x n tid).ain = x.ain := rfl
@[simp] theorem freeMot_cal (n tid : Nat) : (freeMot x n tid).cal = x.cal := rfl
@[simp] theorem freeMot_lanes (n tid : Nat) : (freeMot x n tid).lanes = x.lanes := rfl
@[simp] theorem freeMot_follows (n tid : Nat) : (freeMot x n tid).follows = x.follows := rfl
@[simp] theorem freeMot_ownedLeads (n tid : Nat) : (freeMot x n tid).ownedLeads = x.ownedLeads := rfl
@[simp] theorem freeMot_lines (n tid : Nat) : (freeMot x n tid).lines = x.lines := rfl
@[simp] theorem freeMot_carr (n tid : Nat) : (freeMot x n tid).carr = x.carr := rfl
@[simp] theorem freeMot_recSeq (n tid : Nat) : (freeMot x n tid).recSeq = x.recSeq := rfl
@[simp] theorem freeMot_heldMap (n tid : Nat) : (freeMot x n tid).heldMap = x.heldMap := rfl
@[simp] theorem freeMot_toLink (n tid : Nat) : (freeMot x n tid).toLink = x.toLink := rfl
@[simp] theorem freeMot_toOut (n tid : Nat) : (freeMot x n tid).toOut = x.toOut := rfl
@[simp] theorem freeMot_idmapDue (n tid : Nat) : (freeMot x n tid).idmapDue = x.idmapDue := rfl
@[simp] theorem freeMot_lk (n tid : Nat) : (freeMot x n tid).lk = x.lk := rfl
@[simp] theorem freeMot_cp (n tid : Nat) : (freeMot x n tid).cp = x.cp := rfl
@[simp] theorem freeMot_wsp (n tid : Nat) : (freeMot x n tid).wsp = x.wsp := rfl
@[simp] theorem freeMot_ports (n tid : Nat) : (freeMot x n tid).ports = x.ports := rfl
@[simp] theorem freeMot_plays (n tid : Nat) : (freeMot x n tid).plays = x.plays := rfl
@[simp] theorem freeMot_privs (n tid : Nat) : (freeMot x n tid).privs = x.privs := rfl
@[simp] theorem freeMot_host (n tid : Nat) : (freeMot x n tid).host = x.host := rfl
@[simp] theorem freeMot_twb (n tid : Nat) : (freeMot x n tid).twb = x.twb := rfl
@[simp] theorem freeMot_clk (n tid : Nat) : (freeMot x n tid).clk = x.clk := rfl
@[simp] theorem freeMot_sens (n tid : Nat) : (freeMot x n tid).sens = x.sens := rfl
@[simp] theorem freeMot_store (n tid : Nat) : (freeMot x n tid).store = x.store := rfl
@[simp] theorem freeMot_fuse (n tid : Nat) : (freeMot x n tid).fuse = x.fuse := rfl
@[simp] theorem freeMot_keyShown (n tid : Nat) : (freeMot x n tid).keyShown = x.keyShown := rfl
@[simp] theorem freeMot_jtag (n tid : Nat) : (freeMot x n tid).jtag = x.jtag := rfl
@[simp] theorem freeMot_bist (n tid : Nat) : (freeMot x n tid).bist = x.bist := rfl

/-! `giveBytes` writes `rdata`. -/

@[simp] theorem giveBytes_regs (o : Iface) (l : List Byte) : (giveBytes x o l).regs = x.regs := rfl
@[simp] theorem giveBytes_staged (o : Iface) (l : List Byte) : (giveBytes x o l).staged = x.staged := rfl
@[simp] theorem giveBytes_captured (o : Iface) (l : List Byte) : (giveBytes x o l).captured = x.captured := rfl
@[simp] theorem giveBytes_latch (o : Iface) (l : List Byte) : (giveBytes x o l).latch = x.latch := rfl
@[simp] theorem giveBytes_pw (o : Iface) (l : List Byte) : (giveBytes x o l).pw = x.pw := rfl
@[simp] theorem giveBytes_tm (o : Iface) (l : List Byte) : (giveBytes x o l).tm = x.tm := rfl
@[simp] theorem giveBytes_lg (o : Iface) (l : List Byte) : (giveBytes x o l).lg = x.lg := rfl
@[simp] theorem giveBytes_ft (o : Iface) (l : List Byte) : (giveBytes x o l).ft = x.ft := rfl
@[simp] theorem giveBytes_freeCount (o : Iface) (l : List Byte) : (giveBytes x o l).freeCount = x.freeCount := rfl
@[simp] theorem giveBytes_ain (o : Iface) (l : List Byte) : (giveBytes x o l).ain = x.ain := rfl
@[simp] theorem giveBytes_cal (o : Iface) (l : List Byte) : (giveBytes x o l).cal = x.cal := rfl
@[simp] theorem giveBytes_lanes (o : Iface) (l : List Byte) : (giveBytes x o l).lanes = x.lanes := rfl
@[simp] theorem giveBytes_mot (o : Iface) (l : List Byte) : (giveBytes x o l).mot = x.mot := rfl
@[simp] theorem giveBytes_follows (o : Iface) (l : List Byte) : (giveBytes x o l).follows = x.follows := rfl
@[simp] theorem giveBytes_ownedLeads (o : Iface) (l : List Byte) : (giveBytes x o l).ownedLeads = x.ownedLeads := rfl
@[simp] theorem giveBytes_lines (o : Iface) (l : List Byte) : (giveBytes x o l).lines = x.lines := rfl
@[simp] theorem giveBytes_carr (o : Iface) (l : List Byte) : (giveBytes x o l).carr = x.carr := rfl
@[simp] theorem giveBytes_recSeq (o : Iface) (l : List Byte) : (giveBytes x o l).recSeq = x.recSeq := rfl
@[simp] theorem giveBytes_heldMap (o : Iface) (l : List Byte) : (giveBytes x o l).heldMap = x.heldMap := rfl
@[simp] theorem giveBytes_toLink (o : Iface) (l : List Byte) : (giveBytes x o l).toLink = x.toLink := rfl
@[simp] theorem giveBytes_toOut (o : Iface) (l : List Byte) : (giveBytes x o l).toOut = x.toOut := rfl
@[simp] theorem giveBytes_idmapDue (o : Iface) (l : List Byte) : (giveBytes x o l).idmapDue = x.idmapDue := rfl
@[simp] theorem giveBytes_lk (o : Iface) (l : List Byte) : (giveBytes x o l).lk = x.lk := rfl
@[simp] theorem giveBytes_cp (o : Iface) (l : List Byte) : (giveBytes x o l).cp = x.cp := rfl
@[simp] theorem giveBytes_wsp (o : Iface) (l : List Byte) : (giveBytes x o l).wsp = x.wsp := rfl
@[simp] theorem giveBytes_ports (o : Iface) (l : List Byte) : (giveBytes x o l).ports = x.ports := rfl
@[simp] theorem giveBytes_plays (o : Iface) (l : List Byte) : (giveBytes x o l).plays = x.plays := rfl
@[simp] theorem giveBytes_privs (o : Iface) (l : List Byte) : (giveBytes x o l).privs = x.privs := rfl
@[simp] theorem giveBytes_host (o : Iface) (l : List Byte) : (giveBytes x o l).host = x.host := rfl
@[simp] theorem giveBytes_twb (o : Iface) (l : List Byte) : (giveBytes x o l).twb = x.twb := rfl
@[simp] theorem giveBytes_clk (o : Iface) (l : List Byte) : (giveBytes x o l).clk = x.clk := rfl
@[simp] theorem giveBytes_sens (o : Iface) (l : List Byte) : (giveBytes x o l).sens = x.sens := rfl
@[simp] theorem giveBytes_store (o : Iface) (l : List Byte) : (giveBytes x o l).store = x.store := rfl
@[simp] theorem giveBytes_fuse (o : Iface) (l : List Byte) : (giveBytes x o l).fuse = x.fuse := rfl
@[simp] theorem giveBytes_keyShown (o : Iface) (l : List Byte) : (giveBytes x o l).keyShown = x.keyShown := rfl
@[simp] theorem giveBytes_jtag (o : Iface) (l : List Byte) : (giveBytes x o l).jtag = x.jtag := rfl
@[simp] theorem giveBytes_bist (o : Iface) (l : List Byte) : (giveBytes x o l).bist = x.bist := rfl

/-! `sampleStop` writes `tm`. -/

@[simp] theorem sampleStop_regs : (sampleStop x).regs = x.regs := rfl
@[simp] theorem sampleStop_staged : (sampleStop x).staged = x.staged := rfl
@[simp] theorem sampleStop_captured : (sampleStop x).captured = x.captured := rfl
@[simp] theorem sampleStop_latch : (sampleStop x).latch = x.latch := rfl
@[simp] theorem sampleStop_rdata : (sampleStop x).rdata = x.rdata := rfl
@[simp] theorem sampleStop_pw : (sampleStop x).pw = x.pw := rfl
@[simp] theorem sampleStop_lg : (sampleStop x).lg = x.lg := rfl
@[simp] theorem sampleStop_ft : (sampleStop x).ft = x.ft := rfl
@[simp] theorem sampleStop_freeCount : (sampleStop x).freeCount = x.freeCount := rfl
@[simp] theorem sampleStop_ain : (sampleStop x).ain = x.ain := rfl
@[simp] theorem sampleStop_cal : (sampleStop x).cal = x.cal := rfl
@[simp] theorem sampleStop_lanes : (sampleStop x).lanes = x.lanes := rfl
@[simp] theorem sampleStop_mot : (sampleStop x).mot = x.mot := rfl
@[simp] theorem sampleStop_follows : (sampleStop x).follows = x.follows := rfl
@[simp] theorem sampleStop_ownedLeads : (sampleStop x).ownedLeads = x.ownedLeads := rfl
@[simp] theorem sampleStop_lines : (sampleStop x).lines = x.lines := rfl
@[simp] theorem sampleStop_carr : (sampleStop x).carr = x.carr := rfl
@[simp] theorem sampleStop_recSeq : (sampleStop x).recSeq = x.recSeq := rfl
@[simp] theorem sampleStop_heldMap : (sampleStop x).heldMap = x.heldMap := rfl
@[simp] theorem sampleStop_toLink : (sampleStop x).toLink = x.toLink := rfl
@[simp] theorem sampleStop_toOut : (sampleStop x).toOut = x.toOut := rfl
@[simp] theorem sampleStop_idmapDue : (sampleStop x).idmapDue = x.idmapDue := rfl
@[simp] theorem sampleStop_lk : (sampleStop x).lk = x.lk := rfl
@[simp] theorem sampleStop_cp : (sampleStop x).cp = x.cp := rfl
@[simp] theorem sampleStop_wsp : (sampleStop x).wsp = x.wsp := rfl
@[simp] theorem sampleStop_ports : (sampleStop x).ports = x.ports := rfl
@[simp] theorem sampleStop_plays : (sampleStop x).plays = x.plays := rfl
@[simp] theorem sampleStop_privs : (sampleStop x).privs = x.privs := rfl
@[simp] theorem sampleStop_host : (sampleStop x).host = x.host := rfl
@[simp] theorem sampleStop_twb : (sampleStop x).twb = x.twb := rfl
@[simp] theorem sampleStop_clk : (sampleStop x).clk = x.clk := rfl
@[simp] theorem sampleStop_sens : (sampleStop x).sens = x.sens := rfl
@[simp] theorem sampleStop_store : (sampleStop x).store = x.store := rfl
@[simp] theorem sampleStop_fuse : (sampleStop x).fuse = x.fuse := rfl
@[simp] theorem sampleStop_keyShown : (sampleStop x).keyShown = x.keyShown := rfl
@[simp] theorem sampleStop_jtag : (sampleStop x).jtag = x.jtag := rfl
@[simp] theorem sampleStop_bist : (sampleStop x).bist = x.bist := rfl

/-! `sampleRun` writes `tm`. -/

@[simp] theorem sampleRun_regs (fresh : Bool) : (sampleRun x fresh).regs = x.regs := rfl
@[simp] theorem sampleRun_staged (fresh : Bool) : (sampleRun x fresh).staged = x.staged := rfl
@[simp] theorem sampleRun_captured (fresh : Bool) : (sampleRun x fresh).captured = x.captured := rfl
@[simp] theorem sampleRun_latch (fresh : Bool) : (sampleRun x fresh).latch = x.latch := rfl
@[simp] theorem sampleRun_rdata (fresh : Bool) : (sampleRun x fresh).rdata = x.rdata := rfl
@[simp] theorem sampleRun_pw (fresh : Bool) : (sampleRun x fresh).pw = x.pw := rfl
@[simp] theorem sampleRun_lg (fresh : Bool) : (sampleRun x fresh).lg = x.lg := rfl
@[simp] theorem sampleRun_ft (fresh : Bool) : (sampleRun x fresh).ft = x.ft := rfl
@[simp] theorem sampleRun_freeCount (fresh : Bool) : (sampleRun x fresh).freeCount = x.freeCount := rfl
@[simp] theorem sampleRun_ain (fresh : Bool) : (sampleRun x fresh).ain = x.ain := rfl
@[simp] theorem sampleRun_cal (fresh : Bool) : (sampleRun x fresh).cal = x.cal := rfl
@[simp] theorem sampleRun_lanes (fresh : Bool) : (sampleRun x fresh).lanes = x.lanes := rfl
@[simp] theorem sampleRun_mot (fresh : Bool) : (sampleRun x fresh).mot = x.mot := rfl
@[simp] theorem sampleRun_follows (fresh : Bool) : (sampleRun x fresh).follows = x.follows := rfl
@[simp] theorem sampleRun_ownedLeads (fresh : Bool) : (sampleRun x fresh).ownedLeads = x.ownedLeads := rfl
@[simp] theorem sampleRun_lines (fresh : Bool) : (sampleRun x fresh).lines = x.lines := rfl
@[simp] theorem sampleRun_carr (fresh : Bool) : (sampleRun x fresh).carr = x.carr := rfl
@[simp] theorem sampleRun_recSeq (fresh : Bool) : (sampleRun x fresh).recSeq = x.recSeq := rfl
@[simp] theorem sampleRun_heldMap (fresh : Bool) : (sampleRun x fresh).heldMap = x.heldMap := rfl
@[simp] theorem sampleRun_toLink (fresh : Bool) : (sampleRun x fresh).toLink = x.toLink := rfl
@[simp] theorem sampleRun_toOut (fresh : Bool) : (sampleRun x fresh).toOut = x.toOut := rfl
@[simp] theorem sampleRun_idmapDue (fresh : Bool) : (sampleRun x fresh).idmapDue = x.idmapDue := rfl
@[simp] theorem sampleRun_lk (fresh : Bool) : (sampleRun x fresh).lk = x.lk := rfl
@[simp] theorem sampleRun_cp (fresh : Bool) : (sampleRun x fresh).cp = x.cp := rfl
@[simp] theorem sampleRun_wsp (fresh : Bool) : (sampleRun x fresh).wsp = x.wsp := rfl
@[simp] theorem sampleRun_ports (fresh : Bool) : (sampleRun x fresh).ports = x.ports := rfl
@[simp] theorem sampleRun_plays (fresh : Bool) : (sampleRun x fresh).plays = x.plays := rfl
@[simp] theorem sampleRun_privs (fresh : Bool) : (sampleRun x fresh).privs = x.privs := rfl
@[simp] theorem sampleRun_host (fresh : Bool) : (sampleRun x fresh).host = x.host := rfl
@[simp] theorem sampleRun_twb (fresh : Bool) : (sampleRun x fresh).twb = x.twb := rfl
@[simp] theorem sampleRun_clk (fresh : Bool) : (sampleRun x fresh).clk = x.clk := rfl
@[simp] theorem sampleRun_sens (fresh : Bool) : (sampleRun x fresh).sens = x.sens := rfl
@[simp] theorem sampleRun_store (fresh : Bool) : (sampleRun x fresh).store = x.store := rfl
@[simp] theorem sampleRun_fuse (fresh : Bool) : (sampleRun x fresh).fuse = x.fuse := rfl
@[simp] theorem sampleRun_keyShown (fresh : Bool) : (sampleRun x fresh).keyShown = x.keyShown := rfl
@[simp] theorem sampleRun_jtag (fresh : Bool) : (sampleRun x fresh).jtag = x.jtag := rfl
@[simp] theorem sampleRun_bist (fresh : Bool) : (sampleRun x fresh).bist = x.bist := rfl

/-! Updates of the whole state. -/

@[simp] theorem onChip_chip (f : Chip → Chip) : (onChip f s).chip = f s.chip := rfl
@[simp] theorem onChip_mem (f : Chip → Chip) : (onChip f s).mem = s.mem := rfl
@[simp] theorem onChip_pending (f : Chip → Chip) : (onChip f s).pending = s.pending := rfl
@[simp] theorem onChip_onChip (f g : Chip → Chip) : onChip f (onChip g s) = onChip (fun y => f (g y)) s := rfl
@[simp] theorem onChip_id : onChip (fun y => y) s = s := rfl
@[simp] theorem putWin_chip (i : Nat) (l : List Byte) : (putWin s i l).chip = s.chip := rfl
@[simp] theorem putWin_pending (i : Nat) (l : List Byte) : (putWin s i l).pending = s.pending := rfl
@[simp] theorem putWin_win (i : Nat) (l : List Byte) : (putWin s i l).mem.win = putBytes zeroByte s.mem.win i l := rfl
@[simp] theorem putWin_stage (i : Nat) (l : List Byte) : (putWin s i l).mem.stage = s.mem.stage := rfl
@[simp] theorem putWin_cmem (i : Nat) (l : List Byte) : (putWin s i l).mem.cmem = s.mem.cmem := rfl
@[simp] theorem putWin_flash (i : Nat) (l : List Byte) : (putWin s i l).mem.flash = s.mem.flash := rfl
@[simp] theorem withFlash_chip (m : SMap Byte) : (withFlash s m).chip = s.chip := rfl
@[simp] theorem withFlash_pending (m : SMap Byte) : (withFlash s m).pending = s.pending := rfl
@[simp] theorem withFlash_win (m : SMap Byte) : (withFlash s m).mem.win = s.mem.win := rfl
@[simp] theorem withFlash_stage (m : SMap Byte) : (withFlash s m).mem.stage = s.mem.stage := rfl
@[simp] theorem withFlash_cmem (m : SMap Byte) : (withFlash s m).mem.cmem = s.mem.cmem := rfl
@[simp] theorem withFlash_flash (m : SMap Byte) : (withFlash s m).mem.flash = m := rfl
@[simp] theorem clearCarriage_chip : (clearCarriage s).chip = s.chip := rfl
@[simp] theorem clearCarriage_pending : (clearCarriage s).pending = s.pending := rfl
@[simp] theorem coldReset_pending (kind cause : Nat) : (coldReset s kind cause).pending = s.pending := rfl
@[simp] theorem porReset_pending : (porReset s).pending = s.pending := rfl

end Sys2Proof.Machine
end

