-- ==== Sys2Proof/Laws/Memory.lean ====
section
/-! SUPPORT. Laws of the byte memories: every operation that writes window, staging buffer, carriage memory or flash keeps
their canonical form; what a stored run reads as, and that it leaves every other byte. -/
namespace Sys2Proof.Machine

/-- The canonical form of the four memories, one by one. -/
theorem memOk_iff (s : State) : MemOk s ↔ smWf zeroByte s.mem.win = true ∧ smWf zeroByte s.mem.stage = true ∧
    smWf zeroByte s.mem.cmem = true ∧ smWf erasedByte s.mem.flash = true := by
  simp [MemOk, Mem.wf, and_assoc]

/-- What only changes the chip keeps the memories. -/
theorem memOk_onChip (f : Chip → Chip) (s : State) (h : MemOk s) : MemOk (onChip f s) := h

theorem memOk_putWin (s : State) (i : Nat) (l : List Byte) (h : MemOk s) : MemOk (putWin s i l) := by
  rw [memOk_iff] at h ⊢
  exact ⟨smWf_putBytes _ _ _ _ h.1, h.2⟩

theorem memOk_withFlash (s : State) (m : SMap Byte) (h : MemOk s) (hm : smWf erasedByte m = true) :
    MemOk (withFlash s m) := by
  rw [memOk_iff] at h ⊢
  exact ⟨h.1, h.2.1, h.2.2.1, hm⟩

/-- Programming keeps the canonical form. -/
theorem smWf_flashAnd (x : Chip) (region : Nat) (l : List Byte) : ∀ (off : Nat) (m : SMap Byte),
    smWf erasedByte m = true → smWf erasedByte (flashAnd x region off m l) = true := by
  induction l with
  | nil => exact fun off m h => h
  | cons b l ih => exact fun off m h => ih _ _ (smWf_put _ _ _ _ h)

theorem memOk_flashProg (s : State) (region off : Nat) (l : List Byte) (h : MemOk s) :
    MemOk (flashProg s region off l) :=
  memOk_withFlash _ _ h (smWf_flashAnd _ _ _ _ _ ((memOk_iff s).1 h).2.2.2)

theorem memOk_flashErase (s : State) (region off : Nat) (h : MemOk s) : MemOk (flashErase s region off) :=
  memOk_onChip _ _ (memOk_withFlash _ _ h (smWf_clearRange _ _ _ _ ((memOk_iff s).1 h).2.2.2))

theorem memOk_flashDo (s : State) (o : FlashOp) (h : MemOk s) : MemOk (flashDo s o) := by
  unfold flashDo
  split
  · exact memOk_flashErase _ _ _ h
  · exact memOk_flashProg _ _ _ _ h

theorem memOk_flashAll (l : List FlashOp) : ∀ s : State, MemOk s → MemOk (flashAll s l) := by
  induction l with
  | nil => exact fun s h => h
  | cons o l ih => exact fun s h => ih _ (memOk_flashDo s o h)

theorem memOk_flashTorn (s : State) (o : FlashOp) (torn : List Byte) (h : MemOk s) : MemOk (flashTorn s o torn) := by
  unfold flashTorn
  split
  · exact memOk_flashProg _ _ _ _ (memOk_flashErase _ _ _ h)
  · exact memOk_flashProg _ _ _ _ h

theorem memOk_clearCarriage (s : State) (h : MemOk s) : MemOk (clearCarriage s) := by
  rw [memOk_iff] at h ⊢
  exact ⟨h.1, h.2.1, rfl, h.2.2.2⟩

theorem memOk_coldReset (s : State) (kind cause : Nat) (h : MemOk s) : MemOk (coldReset s kind cause) := by
  rw [memOk_iff] at h ⊢
  exact ⟨rfl, rfl, rfl, h.2.2.2⟩

theorem memOk_porReset (s : State) (h : MemOk s) : MemOk (porReset s) := by
  rw [memOk_iff] at h ⊢
  exact ⟨rfl, rfl, rfl, h.2.2.2⟩

/-- A choice between two states with canonical memories. -/
theorem memOk_ite (c : Prop) [Decidable c] (s t : State) (hs : MemOk s) (ht : MemOk t) : MemOk (if c then s else t) := by
  split <;> assumption

/-- A choice between two canonical memories. -/
theorem smWf_ite {d : Nat → Byte} (c : Prop) [Decidable c] (m n : SMap Byte) (hm : smWf d m = true) (hn : smWf d n = true) :
    smWf d (if c then m else n) = true := by
  split <;> assumption

/-- A segment stored in the ring changes carriage memory alone of the four. -/
theorem memOk_ringStore (s : State) (g : Seg) (h : MemOk s) : MemOk (ringStore s g) := by
  unfold ringStore
  dsimp only
  refine memOk_ite _ _ _ h ?_
  rw [memOk_iff] at h ⊢
  refine ⟨h.1, h.2.1, smWf_putBytes _ _ _ _ ?_, h.2.2.2⟩
  exact smWf_ite _ _ _ h.2.2.1 (smWf_putBytes _ _ _ _ h.2.2.1)

/-- A fold of operations that keep a property keeps it. -/
theorem upTo_keeps {α : Type} (P : α → Prop) (n : Nat) (f : Nat → α → α) (h : ∀ i a, P a → P (f i a)) (a : α) (ha : P a) :
    P (upTo n f a) := by
  have : ∀ (l : List Nat) (a : α), P a → P (l.foldl (fun y i => f i y) a) := by
    intro l
    induction l with
    | nil => exact fun a ha => ha
    | cons i l ih => exact fun a ha => ih _ (h i a ha)
  exact this _ a ha

/-- Words stored in privileged buffers keep the canonical form. -/
theorem smWf_privFill (r : PrivRt) (chs frames : Nat) (payload : List Byte) (m : SMap Byte) (h : smWf zeroByte m = true) :
    smWf zeroByte (privFill r chs frames payload m) = true :=
  upTo_keeps (fun m => smWf zeroByte m = true) _ _ (fun _ _ ha =>
    upTo_keeps (fun m => smWf zeroByte m = true) _ _ (fun _ _ hb => smWf_putBytes _ _ _ _ hb) _ ha) _ h

theorem memOk_privStore (g : Seg) (s : State) (i : Nat) (h : MemOk s) : MemOk (privStore g s i) := by
  unfold privStore
  dsimp only
  refine memOk_ite _ _ _ h ?_
  rw [memOk_iff] at h ⊢
  refine ⟨h.1, h.2.1, ?_, h.2.2.2⟩
  apply smWf_putBytes
  apply smWf_privFill
  exact h.2.2.1

theorem memOk_configStage (s : State) (h : MemOk s) : MemOk (configStage s).st := by
  unfold configStage
  dsimp only
  split
  · exact h
  · rw [memOk_iff] at h ⊢
    exact ⟨h.1, smWf_putBytes _ _ _ _ h.2.1, h.2.2⟩

/-- A mailbox command keeps the memories canonical where its body does. -/
theorem memOk_mailbox (code : Nat) (o : Iface) (body : State → MRes) (s : State)
    (hb : ∀ t, MemOk t → MemOk (body t).st) (h : MemOk s) : MemOk (mailbox code o body s) := by
  unfold mailbox
  dsimp only
  split
  · split
    · exact h
    · refine memOk_onChip _ _ ?_
      have h1 : MemOk (if fon s.chip F.MGMT_STATUS_busy then s else onChip (fun y => mboxIssue y o code) s) :=
        memOk_ite _ _ _ h h
      split
      · exact h1
      · exact hb _ h1
  · exact h

/-- Bytes of the window outside a stored run read as before. -/
theorem putWin_out (s : State) (i : Nat) (l : List Byte) (j : Nat) (h : j < i ∨ i + l.length ≤ j) :
    smGet zeroByte (putWin s i l).mem.win j = smGet zeroByte s.mem.win j := smGet_putBytes_out _ _ _ _ _ h

/-- A run stored in the window reads back. -/
theorem winBytes_putWin (s : State) (i : Nat) (l : List Byte) : winBytes (putWin s i l) i l.length = l :=
  bytesAt_putBytes _ _ _ _

end Sys2Proof.Machine
end

