-- ==== Sys2Proof/Laws/Mailbox.lean ====
section
/-! SUPPORT. Laws of the management mailbox: everything that issuing or completing a command can do, and the three ways a
write of `MGMT_CMD` ends. -/
namespace Sys2Proof.Machine

/-- Issuing a command changes registers alone. -/
theorem mboxIssue_rest (x : Chip) (o : Iface) (code : Nat) :
    mboxIssue x o code = { x with regs := (mboxIssue x o code).regs } := fsets_rest _ _

/-- Completing a command changes registers alone, and draws one free value. -/
theorem mboxDone_rest (x : Chip) (status len : Nat) :
    mboxDone x status len =
      { x with regs := (mboxDone x status len).regs, freeCount := x.freeCount + 1 } := by
  unfold mboxDone
  dsimp only
  rw [count_rest]
  conv_lhs => rw [setCause, fset_rest]
  conv_lhs => rw [fsets_rest]
  rfl

/-- Where management does not run, a command changes nothing. -/
theorem mailbox_down (code : Nat) (o : Iface) (body : State → MRes) (s : State) (h : mgmtUp s.chip = false) :
    mailbox code o body s = s := by
  simp [mailbox, h]

/-- A command that the mailbox does not take sets `refused` and nothing else. -/
theorem mailbox_refused (code : Nat) (o : Iface) (body : State → MRes) (s : State) (h : mgmtUp s.chip = true)
    (hr : mboxClosed s.chip = true ∨ (fon s.chip F.MGMT_STATUS_busy = true ∧ fget s.chip F.MGMT_CMD_code ≠ code)) :
    mailbox code o body s = onChip (fun y => fset y F.MGMT_STATUS_refused 1) s := by
  unfold mailbox
  simp only [h, if_true]
  rw [if_pos]
  simpa using hr

/-- A command that the mailbox serves runs its body on the state with the command issued, and completes. -/
theorem mailbox_serves (code : Nat) (o : Iface) (body : State → MRes) (s : State) (h : MboxServes s.chip code) :
    mailbox code o body s = finished (body (begun o code s)).status (body (begun o code s)).len (body (begun o code s)).st := by
  obtain ⟨h1, h2, h3, h4⟩ := h
  unfold mailbox
  simp only [h1, if_true, h2, h3, Bool.false_or]
  rw [if_neg]
  · rfl
  · intro hc
    simp only [Bool.and_eq_true, bne_iff_ne] at hc
    exact hc.2 (h4 hc.1)

end Sys2Proof.Machine
end

