-- ==== Sys2Proof/Laws/Queue.lean ====
section
/-! SUPPORT. Laws of the queue of waiting commands: the shared operations on the whole state leave it as it was. -/
namespace Sys2Proof.Machine

@[simp] theorem flashProg_pending (s : State) (region off : Nat) (l : List Byte) :
    (flashProg s region off l).pending = s.pending := rfl

@[simp] theorem flashErase_pending (s : State) (region off : Nat) : (flashErase s region off).pending = s.pending := rfl

@[simp] theorem flashDo_pending (s : State) (o : FlashOp) : (flashDo s o).pending = s.pending := by
  unfold flashDo
  split <;> rfl

@[simp] theorem flashAll_pending (l : List FlashOp) : ∀ s : State, (flashAll s l).pending = s.pending := by
  induction l with
  | nil => exact fun s => rfl
  | cons o l ih => exact fun s => (ih _).trans (flashDo_pending s o)

@[simp] theorem flashTorn_pending (s : State) (o : FlashOp) (torn : List Byte) :
    (flashTorn s o torn).pending = s.pending := by
  unfold flashTorn
  split <;> rfl

/-- A choice between two states with the same commands waiting. -/
theorem ite_pending (c : Prop) [Decidable c] (s t u : State) (hs : s.pending = u.pending) (ht : t.pending = u.pending) :
    (if c then s else t).pending = u.pending := by
  split <;> assumption

@[simp] theorem ringStore_pending (s : State) (g : Seg) : (ringStore s g).pending = s.pending := by
  unfold ringStore
  dsimp only
  exact ite_pending _ _ _ _ rfl rfl

@[simp] theorem privStore_pending (g : Seg) (s : State) (i : Nat) : (privStore g s i).pending = s.pending := by
  unfold privStore
  dsimp only
  exact ite_pending _ _ _ _ rfl rfl

/-- A mailbox command leaves the queue where its body does. -/
theorem mailbox_pending (code : Nat) (o : Iface) (body : State → MRes) (s : State)
    (hb : ∀ t, (body t).st.pending = t.pending) : (mailbox code o body s).pending = s.pending := by
  have h1 : (if fon s.chip F.MGMT_STATUS_busy then s else onChip (fun y => mboxIssue y o code) s).pending = s.pending :=
    ite_pending _ _ _ _ rfl rfl
  unfold mailbox
  dsimp only
  split
  · split
    · rfl
    · rw [onChip_pending]
      split
      · exact h1
      · exact (hb _).trans h1
  · rfl

end Sys2Proof.Machine
end

