-- ==== Sys2Proof/Laws/Shared.lean ====
section
/-! SUPPORT. Laws of the operations that many commands share: for each, once, everything it can change. -/
namespace Sys2Proof.Machine

/-! Events and their causes. -/

/-- Raising an event changes registers and log alone. -/
theorem raise_rest (x : Chip) (src code : Nat) (args : List Byte) :
    raise x src code args = { x with regs := (raise x src code args).regs, lg := (raise x src code args).lg } :=
  raiseAt_rest _ _ _ _ _ _

/-- Setting an interrupt cause changes registers alone. -/
theorem setCause_rest (x : Chip) (c : IntCause) : setCause x c = { x with regs := (setCause x c).regs } := rfl

@[simp] theorem because_regs (r : CauseRef) (f : Chip → Chip) (x : Chip) :
    (because r f x).regs = (f { x with lg := { x.lg with because := some r } }).regs := rfl

@[simp] theorem because_seqs (r : CauseRef) (f : Chip → Chip) (x : Chip) :
    (because r f x).lg.seqs = (f { x with lg := { x.lg with because := some r } }).lg.seqs := rfl

/-- The cause named for what is done stands only while it is done. -/
@[simp] theorem because_because (r : CauseRef) (f : Chip → Chip) (x : Chip) : (because r f x).lg.because = x.lg.because := rfl

@[simp] theorem after_because (src : Nat) (f : Chip → Chip) (x : Chip) : (after src f x).lg.because = x.lg.because := rfl

/-- What follows an event does just what it does by itself, its events naming that one as their cause. -/
theorem after_eq (src : Nat) (f : Chip → Chip) (x : Chip) :
    after src f x = { f { x with lg := { x.lg with because := some (lastRef x src) } } with
      lg := { (f { x with lg := { x.lg with because := some (lastRef x src) } }).lg with because := x.lg.because } } := rfl

/-- An event raised where no cause stands, or where the source's own does, names none. -/
theorem causeOf_none (x : Chip) (src : Nat) (h : ∀ r, x.lg.because = some r → r.src = src) : causeOf x src = none := by
  unfold causeOf
  cases hb : x.lg.because with
  | none => rfl
  | some r => simp [Option.filter, h r hb]

/-! Counts, lane and link states. -/

/-- Discarded data counts and marks the carriage. -/
theorem discard_rest (x : Chip) (c n : Nat) :
    discard x c n = { x with regs := (discard x c n).regs, carr := (discard x c n).carr } := by
  have h : dropCount x c n = { x with regs := (dropCount x c n).regs } := count_rest _ _ _ _
  unfold discard
  dsimp only [setCarr]
  rw [h]

/-- Telling an event for a lane changes registers, log and what the lane told last. -/
theorem laneTold_raise_rest (x : Chip) (f : Fld) (v n src code : Nat) (args : List Byte) :
    laneTold (raise (fset x f v) src code args) n = { x with
      regs := (laneTold (raise (fset x f v) src code args) n).regs
      lg := (laneTold (raise (fset x f v) src code args) n).lg
      lanes := (laneTold (raise (fset x f v) src code args) n).lanes } := by
  obtain ⟨r, l, h⟩ : ∃ r l, raise (fset x f v) src code args = { x with regs := r, lg := l } :=
    ⟨_, _, raise_rest _ _ _ _⟩
  rw [h]
  rfl

/-- A lane's new state changes registers, log and what the lane told last. -/
theorem laneStateSet_rest (x : Chip) (n st : Nat) :
    laneStateSet x n st = { x with
      regs := (laneStateSet x n st).regs, lg := (laneStateSet x n st).lg, lanes := (laneStateSet x n st).lanes } := by
  unfold laneStateSet
  dsimp only
  split
  · rfl
  · split <;> first | rfl | exact laneTold_raise_rest _ _ _ _ _ _ _

/-- A lane's new state writes its status word and the registers of the log. -/
theorem rd_laneStateSet (x : Chip) (n st b : Nat) (h : b ∉ logRegs) (hb : b ≠ R.LANE_STATUS n) :
    rd (laneStateSet x n st) b = rd x b := by
  have hf : rd (fset x (F.LANE_STATE n) st) b = rd x b := rd_fset_ne _ _ _ _ hb
  unfold laneStateSet
  dsimp only
  split
  · rfl
  · split <;> first | exact (rd_raise _ _ _ _ _ h).trans hf | exact hf

/-- A peer's violation changes registers, log and the limiter of its reason. -/
theorem peerViol_rest (x : Chip) (reason train : Nat) :
    peerViol x reason train = { x with
      regs := (peerViol x reason train).regs, lg := (peerViol x reason train).lg, lk := (peerViol x reason train).lk } := by
  obtain ⟨r, h⟩ : ∃ r, count x R.LINK_VIOL_COUNT (protoWrap 7) 1 = { x with regs := r } := ⟨_, count_rest _ _ _ _⟩
  unfold peerViol
  rw [h]
  dsimp only
  split
  · obtain ⟨r', l', h'⟩ : ∃ r' l', raise { x with
        regs := r
        lk := { x.lk with viol := smInsert reason x.tm.ticks x.lk.viol } } srcLink 0x14
        (b1 reason ++ b4 train) = { x with
        regs := r'
        lg := l'
        lk := { x.lk with viol := smInsert reason x.tm.ticks x.lk.viol } } := ⟨_, _, raise_rest _ _ _ _⟩
    rw [h']
  · rfl

/-- A write to a domain that is down changes registers alone. -/
theorem downWrite_rest (x : Chip) (a : Nat) : downWrite x a = { x with regs := (downWrite x a).regs } := by
  obtain ⟨r, h⟩ : ∃ r, count x R.GEN_DOWN_COUNT F.GEN_STATUS_down_wrap 1 = { x with regs := r } :=
    ⟨_, count_rest _ _ _ _⟩
  unfold downWrite
  rw [h]
  rfl

/-- Noting a wait changes registers alone. -/
theorem noteWait_rest (x : Chip) (o : Iface) (ns : Nat) : noteWait x o ns = { x with regs := (noteWait x o ns).regs } := rfl

end Sys2Proof.Machine
end

