-- ==== Sys2Proof/Tests/Slice0.lean ====
section
/-! SUPPORT. Tests: ill-formed commands that the checks refuse, one step of a command on a small part, and witnesses that
the hypotheses of the statements can be met. Expected results are read from the manual. -/
namespace Sys2Proof.Tests

open Sys2Proof Sys2Proof.Machine
set_option Elab.async false

/-- A part in a phase, with a chip made from that of reset. -/
def base (p : Phase) (f : Chip → Chip) : State :=
  ⟨f { Chip.reset with pw := { Chip.reset.pw with phase := p } }, Mem.reset, []⟩

/-- A part whose firmware runs, with fields set. -/
def up (l : List (Fld × Nat)) : State := base .running fun x => fsets x l

/-- A part with other chip contents. -/
def on (s : State) (f : Chip → Chip) : State := { s with chip := f s.chip }

/-- A predicate of the next state that a command answers. -/
def after (c : Instr) (s : State) (p : State → Bool) : Bool :=
  match step { s with pending := c :: s.pending } with
  | .next t => p t
  | _ => false

/-- A command that meets nothing. -/
def noCmd : CmdObs := ⟨[], [], [], 0, 0, ⟨[], [], []⟩⟩

/-- An access that meets nothing. -/
def noBus : BusObs := ⟨0, [], noCmd⟩


/-! Witnesses: states and operands that meet the hypotheses of each statement, clause by clause, at the ends of the ranges. -/

theorem wit_StepRunsTheFront : ({ State.reset with pending := [Instr.waitClr] } : State).pending = Instr.waitClr :: [] := by decide

theorem wit_EmptyQueueIdles : State.reset.pending = [] := by decide

theorem wit_StepKeepsMemoryCanonical : MemOk { State.reset with pending := [.waitClr] } ∧
    ∃ t, step { State.reset with pending := [.waitClr] } = .next t := ⟨by unfold MemOk; decide, _, rfl⟩

theorem wit_EventEntryLayout : ([] : List Byte).length ≤ 13 ∧ (List.replicate 4 (0 : Byte)).length ≤ 4 ∧
    (List.replicate 13 (0 : Byte)).length ≤ 13 := by decide

theorem wit_EventRing :
    let n := (rd State.reset.chip R.MGMT_LOG_WR).toNat
    let age := fun i : Nat => (n + 2 ^ 32 - i) % 2 ^ 32
    (2 ^ 32 - 1 < 2 ^ 32 ∧ age (2 ^ 32 - 1) = 1) ∧ age (2 ^ 32 - 2047) = 2047 ∧
      (age (2 ^ 32 - 2048) = 2048 ∧ 2 ^ 32 - 2048 ≠ (n + 1) % 2 ^ 32) := by decide

theorem wit_FullEventQueueLoses : mgmtUp State.reset.chip = false ∧
    (State.reset.chip.lg.queue.filter fun q => q.src == srcGen).length < 8 ∧
    mgmtUp (on State.reset fun x => { x with lg := { x.lg with queue := List.replicate 8 ⟨srcGen, []⟩ } }).chip = false ∧
    8 ≤ ((on State.reset fun x => { x with lg := { x.lg with queue := List.replicate 8 ⟨srcGen, []⟩ } }).chip.lg.queue.filter
      fun q => q.src == srcGen).length := by decide

theorem wit_CountersWrap : (F.SUP_STATUS_wrap.bit 0).addr ≠ R.SUP_EW_COUNT ∧ (F.SUP_STATUS_wrap.bit 0).width = 1 ∧
    (F.SUP_STATUS_wrap.bit 0).lo < 32 ∧ 2 ^ 32 ≤ (rd (wr Chip.reset R.SUP_EW_COUNT 0xFFFFFFFF) R.SUP_EW_COUNT).toNat + 1 ∧
    ¬ 2 ^ 32 ≤ (rd (wr Chip.reset R.SUP_EW_COUNT 0xFFFFFFFE) R.SUP_EW_COUNT).toNat + 1 := by decide

theorem wit_WriteAccessTypes : (regRow R.SUP_STATUS).isSome = true ∧ (regRow (R.GEN_SCRATCH 0)).isSome = true ∧ regRow 1 = none := by decide

theorem wit_RegisterWriteAndWaitClear : regsUp (up []).chip = true ∧ regsUp (base .glide id).chip = false ∧
    (0x100 % 4 = 0 ∧ isReg 0x100 = true) ∧ (R.GEN_SCRATCH 3 % 4 = 0 ∧ isReg (R.GEN_SCRATCH 3) = true) ∧ isReg 0x148 = false := by decide

theorem wit_DownDomainAccess :
    let s := up [(F.SUP_STATE_state, 2)]
    (∃ r, regRow R.LINK_PHY_STATUS = some r ∧ downMask s.chip R.LINK_PHY_STATUS r = 0xFFFFFFFF) ∧ regsUp s.chip = true ∧
      R.LINK_PHY_STATUS % 4 = 0 ∧ R.LINK_PHY_STATUS < 65536 ∧ R.LINK_PHY_STATUS ≠ R.MGMT_CMD := by
  refine ⟨⟨_, rfl, by decide⟩, by decide⟩

theorem wit_ReadsLatchTheirPartners : regsUp (up []).chip = true ∧
    ((Instr.serialRead .hp 0, R.FUSE_SERIAL_LO, [R.FUSE_SERIAL_HI]) ∈
      [(Instr.serialRead .hp 0, R.FUSE_SERIAL_LO, [R.FUSE_SERIAL_HI])]) ∧
    (regRow R.RTC_TICK_HI).isSome = true ∧ isPartner R.RTC_TICK_HI = true ∧
    (∀ r, regRow R.RTC_TICK_HI = some r → downMask (up []).chip R.RTC_TICK_HI r = 0) := by
  refine ⟨by decide, by simp, by decide, by decide, ?_⟩
  intro r h
  have : r = (regRow R.RTC_TICK_HI).get (by decide) := by simp [h]
  subst this
  decide

theorem wit_MailboxLifecycle :
    fon (up []).chip F.MGMT_STATUS_busy = false ∧ (0xFF < 256 ∧ 4096 ≤ 4096) ∧ mgmtUp (up []).chip = true ∧
    mboxClosed (on (up []) fun x => { x with ft := { x.ft with fatal := some ⟨1, 0, false⟩ } }).chip = true ∧
    (fon (up [(F.MGMT_STATUS_busy, 1), (F.MGMT_CMD_code, 0x20)]).chip F.MGMT_STATUS_busy = true ∧
      fget (up [(F.MGMT_STATUS_busy, 1), (F.MGMT_CMD_code, 0x20)]).chip F.MGMT_CMD_code ≠ 0x00) ∧
    mgmtUp (base .glide id).chip = false ∧
    ((base .halted id).chip.pw.phase = .halted ∧ 0x18 ∉ [0x00, 0x01, 0x02, 0x05, 0x07] ∧
      fon (base .halted id).chip F.MGMT_STATUS_busy = false) ∧
    ((base .recovery id).chip.pw.phase = .recovery ∧ mboxClosed (base .recovery id).chip = false ∧
      fon (base .recovery id).chip F.MGMT_STATUS_busy = false) := by decide

theorem wit_GeneralMailboxCommands : (∀ c ∈ [0x00, 0x01, 0x05, 0x06, 0x07, 0xFF], MboxServes (up []).chip c) ∧ knownCode 0xFF = false ∧
    MboxServes (up [(F.MGMT_STATUS_busy, 1), (F.MGMT_CMD_code, 1)]).chip 0x01 := by
  simp only [MboxServes]
  decide

theorem wit_LogReadCommand : MboxServes (up []).chip 0x02 ∧ arg (up []).chip 1 = 0 ∧
    (MboxServes (on (up []) fun x => setArg x 1 257).chip 0x02 ∧ 256 < arg (begun .hp 2 (on (up []) fun x => setArg x 1 257)).chip 1) ∧
    (MboxServes (on (up []) fun x => setArg x 1 256).chip 0x02 ∧ arg (begun .hp 2 (on (up []) fun x => setArg x 1 256)).chip 1 = 256) ∧
    arg (begun .hp 2 (on (up []) fun x => setArg x 1 1)).chip 1 = 1 := by
  simp only [MboxServes]
  decide

theorem wit_TimeCommands : MboxServes (up []).chip 0x03 ∧ MboxServes (up []).chip 0x04 ∧ wall Chip.reset = 0 := by
  simp only [MboxServes]
  decide

theorem wit_TimeStepEffects : (((0 : BitVec 48) - wall Chip.reset).toInt = 0) ∧ 0 < ((1 : BitVec 48) - wall Chip.reset).toInt ∧
    ((-1 : BitVec 48) - wall Chip.reset).toInt < 0 := by decide

theorem wit_AlarmCommands : (mgmtUp (up []).chip = true ∧ fon (up []).chip F.RTC_CTRL_arm = false) ∧
    fon (up [(F.RTC_CTRL_arm, 1)]).chip F.RTC_CTRL_arm = true ∧ mgmtUp (base .glide id).chip = false ∧
    (let s := on (base .glide id) fun x => { x with tm := { x.tm with alarm := some (0, 0) } }
     s.chip.tm.alarm = some (0, 0) ∧ (s.chip.tm.ticks - 0).toNat < 2 ^ 47) ∧
    (let s := on (up []) fun x => { x with tm := { x.tm with alarm := some (1, 1) } }
     ∀ a fire, s.chip.tm.alarm = some (a, fire) → 2 ^ 47 ≤ (s.chip.tm.ticks - fire).toNat) := by
  refine ⟨by decide, by decide, by decide, by decide, ?_⟩
  intro s a fire h
  have h1 : some ((1 : BitVec 48), (1 : BitVec 48)) = some (a, fire) := h
  simp only [Option.some.injEq, Prod.mk.injEq] at h1
  rw [← h1.2]
  decide

theorem wit_SampleTimeLatch :
    (let m := (on (up []) fun x => sampleRun x true).chip.tm
     m.stimeHeld = false ∧ m.clockRun = true) ∧
    (State.reset.chip.tm.stimeHeld = true ∧ State.reset.chip.tm.clockRun = false) ∧
    (let m := (on (up []) fun x => sampleRun x false).chip.tm
     m.stimeHeld = true ∧ m.clockRun = true ∧ (m.ticks + 1 - m.latchT).toNat < 2) ∧
    (let m := (on (up []) fun x => sampleRun { x with tm := { x.tm with ticks := 1 } } false).chip.tm
     m.stimeHeld = true ∧ m.clockRun = true ∧ 2 ≤ (m.ticks + 1 - m.latchT).toNat) := by decide

theorem wit_SensorCommands : mgmtUp (up []).chip = true ∧ (6 < 7 ∧ (-32768 : Int) ≤ -32768 ∧ (32767 : Int) ≤ 32767) ∧
    pointTemp (up []).chip 0 ≤ 32767 := by decide

theorem wit_PowerSetCommand :
    MboxServes (up []).chip 0x18 ∧
    (let t := (begun .hp 0x18 (on (up []) fun x => setArg x 0 4)).chip; 3 < arg t 0) ∧
    (let t := (begun .hp 0x18 (on (up []) fun x => { setArg x 0 1 with pw := { x.pw with trans := some ⟨2, 0, 0⟩ } })).chip
     arg t 0 ≤ 3 ∧ t.pw.trans ≠ none) ∧
    (let t := (begun .hp 0x18 (up [])).chip; t.pw.trans = none ∧ arg t 0 = pstate t) ∧
    (let t := (begun .hp 0x18 (on (up [(F.TWB_CFG_glide_match, 0)]) fun x => setArg x 0 3)).chip
     arg t 0 = 3 ∧ t.pw.trans = none ∧ arg t 0 ≠ pstate t ∧ arg t 1 % 2 ≠ 1 ∧ fon t F.LINK_WSP_CFG_wake_en = false ∧
       fon t F.TWB_CFG_glide_match = false ∧ fon t F.RTC_CTRL_arm = false) ∧
    (let t := (begun .hp 0x18 (on (up []) fun x => setArg x 0 2)).chip
     arg t 0 = 2 ∧ t.pw.trans = none ∧ arg t 0 ≠ pstate t) ∧
    (let t := (begun .hp 0x18 (on (up []) fun x => setArgs x [(0, 3), (1, 1)])).chip
     arg t 0 = 3 ∧ t.pw.trans = none ∧ arg t 0 ≠ pstate t ∧ arg t 1 % 2 = 1) := by
  simp only [MboxServes]
  decide

theorem wit_StateReachedCommand :
    (let s := on (up []) fun x => { x with pw := { x.pw with trans := some ⟨2, 0, 0⟩ } }
     s.chip.pw.trans = some ⟨2, 0, 0⟩ ∧ mgmtUp s.chip = true) ∧ (1 ≤ 1) ∧ (up []).chip.pw.wake = none ∧
    (up []).chip.pw.trans = none := by decide

theorem wit_EarlyWarningCommands : (converterOn (up []).chip = true ∧ ewOn (up []).chip = false ∧ 7999 < 8000) ∧
    (converterOn (up [(F.SUP_STATUS_ew, 1)]).chip = true ∧ ewOn (up [(F.SUP_STATUS_ew, 1)]).chip = true ∧ 8500 ≤ 8500 ∧ 4000 ≤ 4000) ∧
    (8499 < 8500 ∧ 3999 < 4000) ∧ 19500 < 19501 ∧ converterOn (base .glide id).chip = false := by decide

theorem wit_ColdResetContents : (7 < 8 ∧ 15 < 16) ∧
    (∃ r, regRow R.MGMT_STATUS = some r ∧ domMask r .k = 0) ∧
    (∃ r, regRow R.RTC_CTRL = some r ∧ domMask r .m = 0 ∧ domMask r .d = 0 ∧ domMask r .lane = 0) := by
  refine ⟨by decide, ⟨_, rfl, by decide⟩, ⟨_, rfl, by decide⟩⟩

theorem wit_ResetCommands : ((up []).chip.pw.phase ≠ .glide ∧ (up []).chip.pw.phase ≠ .waitPower) ∧
    ((base .glide id).chip.pw.phase = .glide) ∧ (2 < 3 ∧ converterOn (up []).chip = true) ∧ (up []).chip.pw.nrst = false ∧
    (on (up []) fun x => { x with pw := { x.pw with nrst := true } }).chip.pw.nrst = true ∧
    (mgmtUp (up []).chip = true ∧ dUp (up []).chip = true) ∧
    (mgmtUp (up [(F.SUP_STATE_state, 2)]).chip = true ∧ dUp (up [(F.SUP_STATE_state, 2)]).chip = false) := by decide

/-- What a start meets: a usable boot store, given straps, nothing in it. -/
def startAt (straps : Nat) (sfdp : Bool) : StartObs := ⟨straps, 0, 32, 500, 0, sfdp, 16, true, true, 50, [], []⟩

/-- A part whose power-on start is to run. -/
def starting (lock : Nat) : State := on State.reset fun x => { x with fuse := { x.fuse with roleLock := lock } }

theorem wit_StartCommand : (starting 0).chip.pw.phase = .starting ∧ (startAt 0 true).straps % 4 = 0 ∧
    ((starting 2).chip.fuse.roleLock ≠ 0 ∧ (starting 2).chip.fuse.roleLock ≠ (startAt 1 true).straps % 4) ∧
    (starting 3).chip.fuse.roleLock = (startAt 3 true).straps % 4 ∧ storeUsable (startAt 1 false) = false ∧
    (up []).chip.pw.phase ≠ .starting := by decide

theorem wit_OverRangeAndSnowplough :
    (3 < 4 ∧ ainPowered (up [(F.AIN_STATUS_state 3, stRun)]).chip 3 = true ∧ ainPowered (up []).chip 3 = false) ∧
    (let x := (up [(F.AIN_STATUS_state 3, stRun), (F.AIN_CFG_snow_en 3, 1), (F.AIN_ATT_total 3, 14), (F.AIN_ATT_snow 3, 14)]).chip
     ainPowered x 3 = true ∧ fon x (F.AIN_CFG_snow_en 3) = true ∧ fget x (F.AIN_ATT_total 3) < 15 ∧ fget x (F.AIN_ATT_snow 3) ≠ 0) ∧
    (let x := (up [(F.AIN_STATUS_state 0, stRun), (F.AIN_CFG_snow_en 0, 1), (F.AIN_ATT_total 0, 15)]).chip
     ainPowered x 0 = true ∧ fon x (F.AIN_CFG_snow_en 0) = true ∧ fget x (F.AIN_ATT_total 0) = 15 ∧ fget x (F.AIN_ATT_snow 0) = 0) := by decide

theorem wit_FeedCommands :
    (feedJust (up [(F.AIN_STATUS_feed_on 3, 1)]).chip 3 = true ∧ fon (up [(F.AIN_STATUS_feed_on 3, 1)]).chip (F.AIN_STATUS_feed_short 3) = false ∧
      fon (up [(F.AIN_STATUS_feed_on 3, 1)]).chip (F.AIN_STATUS_feed_back 3) = false) ∧
    (let s := on (up [(F.AIN_STATUS_feed_back 3, 1)]) fun x => setAin x 3 { ainOf x 3 with opened := some x.tm.ticks }
     feedJust s.chip 3 = true ∧ fon s.chip (F.AIN_STATUS_feed_short 3) = false ∧ fon s.chip (F.AIN_STATUS_feed_back 3) = true) ∧
    (feedJust (up []).chip 3 = false ∧ dUp (up []).chip = true ∧ mgmtUp (up []).chip = true) ∧
    feedMay (up []).chip 0 = false ∧
    (let x := (up [(F.AIN_FEED_en 0, 1), (F.AIN_FEED_quiet_on 0, 1), (F.AIN_STATUS_state 0, stPaused), (F.AIN_CFG_en 0, 1)]).chip
     feedMay x 0 = true ∧ ainState x 0 = stPaused) ∧
    (let x := (up [(F.AIN_FEED_en 0, 1), (F.AIN_STATUS_state 0, stRun), (F.AIN_CFG_en 0, 1)]).chip
     feedMay x 0 = true ∧ ainState x 0 ≠ stPaused) ∧
    fon (up [(F.AIN_STATUS_feed_on 3, 1), (F.SENS_COAX_mv, 5799)]).chip (F.AIN_STATUS_feed_on 3) = true ∧
    (ainState (up []).chip 3 = stOff) ∧ dUp (up [(F.SUP_STATE_state, 2)]).chip = false := by decide

theorem wit_InputStatesAndPlanner :
    ainState (up [(F.AIN_STATUS_state 3, stSettle)]).chip 3 = stSettle ∧ ainState (up []).chip 3 ≠ stSettle ∧
    (ainState (up [(F.AIN_STATUS_state 3, stPlan), (F.AIN_CFG_att_auto 3, 0)]).chip 3 = stPlan ∧
      fon (up [(F.AIN_STATUS_state 3, stPlan), (F.AIN_CFG_att_auto 3, 0)]).chip (F.AIN_CFG_att_auto 3) = false) ∧
    (fon (up [(F.AIN_STATUS_state 3, stPlan), (F.AIN_CFG_att_auto 3, 1)]).chip (F.AIN_CFG_att_auto 3) = true) ∧
    planMin (up []).chip 0 ≤ planMax (up []).chip 0 ∧
    (ainState (up [(F.AIN_STATUS_state 3, stPlan)]).chip 3 ≠ stOff ∧
      ¬(ainState (up [(F.AIN_STATUS_state 3, stPlan)]).chip 3 = stRun ∧
        fon (up [(F.AIN_STATUS_state 3, stPlan)]).chip (F.AIN_CFG_att_auto 3) = true)) ∧
    (let s := on (up [(F.AIN_STATUS_state 0, stRun), (F.AIN_CFG_att_auto 0, 1), (F.AIN_ATT_plan 0, 0)]) fun x =>
       setAin x 0 { ainOf x 0 with hiRun := 2, gap := 9 }
     ainState s.chip 0 = stRun ∧ fon s.chip (F.AIN_CFG_att_auto 0) = true ∧ (ainOf s.chip 0).snowSeen = false ∧
       2 ≤ (ainOf s.chip 0).hiRun ∧ 9 ≤ (ainOf s.chip 0).gap ∧ planHi s.chip 0 < 0 ∧
       fget s.chip (F.AIN_ATT_plan 0) < planMax s.chip 0) ∧
    (let s := on (up [(F.AIN_STATUS_state 0, stRun), (F.AIN_CFG_att_auto 0, 1)]) fun x => setAin x 0 { ainOf x 0 with snowSeen := true }
     ainState s.chip 0 = stRun ∧ fon s.chip (F.AIN_CFG_att_auto 0) = true ∧ (ainOf s.chip 0).snowSeen = true) ∧
    (fon (up [(F.AIN_CFG_presel_auto 3, 0)]).chip (F.AIN_CFG_presel_auto 3) = false ∧
      fon (up [(F.AIN_CFG_presel_auto 3, 1)]).chip (F.AIN_CFG_presel_auto 3) = true ∧
      lanesOn (up [(F.AIN_CFG_presel_auto 3, 1)]).chip 3 = []) ∧
    (let x := (on (up []) fun x => { x with tm := { x.tm with stime := 1 } }).chip
     dUp x = true ∧ (ainOf x 3).caused < nowAt x) ∧
    dUp (up [(F.SUP_STATE_state, 2)]).chip = false := by decide

/-- A lane that runs in a mode, on an input that is enabled. -/
def laneUp (n std : Nat) (l : List (Fld × Nat)) : State :=
  on (up [(F.AIN_CFG_en 0, 1), (F.AIN_STATUS_state 0, stRun)]) fun x =>
    fsets (setLane (fset x (F.LANE_MODE_std n) std) n { laneOf x n with live := true }) l

theorem wit_InputStatesAndPlanner_lanes : fon (laneUp 103 1 [(F.AIN_CFG_presel_auto 0, 1)]).chip (F.AIN_CFG_presel_auto 0) = true ∧
    lanesOn (laneUp 103 1 [(F.AIN_CFG_presel_auto 0, 1)]).chip 0 ≠ [] := by decide

/-- A run of calibration with some windows held. -/
def calAt (w : Nat) : State := on (up [(F.AIN_STATUS_state 3, stRun)]) fun x =>
  setCal x 3 { calOf x 3 with run := some ⟨4, 0, w, List.replicate 12 0, 0⟩ }

/-- A window of so many blocks kept, with the figures of the sub-ADCs and the power of each block. -/
def windowOf (n : Nat) (above : Nat) : CalWindow :=
  ⟨[(n, ⟨false, false, -2000, [3, -1, -1, -1], [1000, 1000, 1000, 1000], [5, 5, 5, 5], above⟩)], 0⟩

theorem wit_CalibrationCommands :
    (ainState (up [(F.AIN_STATUS_state 3, stRun)]).chip 3 = stRun ∧ (calOf (up [(F.AIN_STATUS_state 3, stRun)]).chip 3).run = none) ∧
    ainState (up []).chip 3 ≠ stRun ∧
    (∃ r, (calOf (calAt 14).chip 3).run = some r ∧ r.windows < 15 ∧ ainState (calAt 14).chip 3 = stRun) ∧
    (keptCount (windowOf 4096 400) = 4096 ∧ powerLow (windowOf 4096 400) = false) ∧
    (keptCount (windowOf 4096 399) = 4096 ∧ powerLow (windowOf 4096 399) = true) ∧
    keptCount (windowOf 4095 0) ≠ 4096 ∧
    (∃ r, (calOf (calAt 3).chip 3).run = some r ∧ r.windows < 4) ∧
    (∃ r, (calOf (calAt 4).chip 3).run = some r ∧ 4 ≤ r.windows ∧ calFitsAll (r.sums.map fun v => roundEven v r.windows) = true) ∧
    (fon (up []).chip (F.CAL_STATUS_stale_load.bit 3) = false ∧ tempTrig (up []).chip 3 = false) ∧
    (let x := (up [(F.CAL_LOAD_lanes, 31)]).chip; fget x F.CAL_LOAD_lanes < 32 ∧ fget x F.CAL_LOAD_bucket = 0) ∧
    (let x := (up [(F.CAL_LOAD_lanes, 32)]).chip; ¬ fget x F.CAL_LOAD_lanes < 32 ∧ fget x F.CAL_LOAD_bucket ≠ 1) ∧
    (let x := senseTemp (up []).chip 3 0; ¬(ainState x 3 = stRun)) ∧
    (let x := senseTemp (up [(F.AIN_STATUS_state 3, stRun), (byteFld R.CAL_TLAST 3, 64)]).chip 3 1024
     ainState x 3 = stRun ∧ (calOf x 3).run = none ∧ tempTrig x 3 = true) := by
  refine ⟨by decide, by decide, ⟨_, rfl, by decide⟩, by decide, by decide, by decide, ⟨_, rfl, by decide⟩, ⟨_, rfl, by decide⟩,
    by decide, by decide, by decide, by decide, by decide⟩


theorem wit_LaneSettingsCommands :
    (103 < 104 ∧ 0x2C ∈ stagedOffs ∧ mgmtUp (up []).chip = true ∧ fon (up []).chip (F.LANE_TANDEM_pool 103) = false) ∧
    (regRow (laneBase 103 + 0x2C)).isSome = true ∧
    (0x10 ∈ [0x00, 0x08, 0x0C, 0x10] ∧ fon (up [(F.LANE_TANDEM_pool 103, 1)]).chip (F.LANE_TANDEM_pool 103) = true) ∧
    fon (up [(F.LANE_CTRL_apply 103, 1)]).chip (F.LANE_CTRL_apply 103) = true ∧
    (fon (up []).chip (F.LANE_CTRL_apply 103) = false ∧
      (rejection (up []).chip 103 (ofLane [(R.LANE_MODE 103, 12)] 103)).isSome = true) ∧
    rejection (up []).chip 103 (ofLane (up []).chip.staged 103) = none ∧
    (let s := on (up [(F.LANE_CTRL_apply 103, 1)]) fun x => { x with captured := [(R.LANE_MODE 103, 12)] }
     fon s.chip (F.LANE_CTRL_apply 103) = true ∧ fon s.chip (F.LANE_CTRL_held 103) = false ∧
       (rejection s.chip 103 (ofLane s.chip.captured 103)).isSome = true) ∧
    (let s := on (up [(F.LANE_CTRL_apply 103, 1), (F.GEN_CAPACITY_lanes, 1)]) fun x => { x with captured := [(R.LANE_MODE 103, mScan)] }
     fon s.chip (F.LANE_CTRL_apply 103) = true ∧ fon s.chip (F.LANE_CTRL_held 103) = false ∧
       rejection s.chip 103 (ofLane s.chip.captured 103) = none) ∧
    (rfRuns (up []).chip = true ∧ rfRuns (up [(F.SUP_STATE_state, 1)]).chip = false ∧ mFm ≠ mOff) ∧
    fon (up [(F.LANE_CTRL_held 103, 1)]).chip (F.LANE_CTRL_held 103) = true := by decide

theorem wit_CoachAndLaneResets :
    (12 < 13 ∧ 7 < 8 ∧ rfRuns (laneUp 103 mFm []).chip = true ∧ usesCoach (stdOf (laneUp 103 mFm []).chip (8 * 12 + 7)) = true) ∧
    usesCoach (stdOf (up []).chip 0) = false ∧ rfRuns (up [(F.SUP_STATE_state, 1)]).chip = false ∧
    (100 ≤ 100 ∧ dUp (up []).chip = true) ∧ dUp (up [(F.SUP_STATE_state, 2)]).chip = false ∧
    fon (laneUp 103 mFm []).chip (F.LANE_CTRL_apply 103) = false ∧
    ((laneOf (up []).chip (8 * 12 + 7)).live = false ∧ (laneOf (laneUp 103 mFm []).chip (8 * 12 + 7)).live = true ∧
      dUp (laneUp 103 mFm []).chip = true) ∧
    (104 < 128 ∧ 127 < 128 ∧ mgmtUp (up []).chip = true ∧ fon (up []).chip F.GEN_RESET_lane_go = false) ∧
    (partRuns (up []).chip = true ∧ pstate (up []).chip ≤ 1 ∧ laneHeld (up []).chip 103 = false) ∧
    ¬(pstate (up [(F.SUP_STATE_state, 2)]).chip ≤ 1) ∧
    laneHeld (on (up []) fun x => { x with bist := { x.bist with test := some ⟨103, false, none⟩ } }).chip 103 = true ∧
    fon (up [(F.GEN_RESET_lane_go, 1)]).chip F.GEN_RESET_lane_go = true := by decide

theorem wit_LaneStateEvents : (103 < 104 ∧ 15 < 16) ∧ laneState (laneUp 103 mFm []).chip 103 = 0 ∧
    (∀ m ∈ [1, 2, 3, 4, 5], stdOf (laneUp 103 m []).chip 103 = m) ∧ stdOf (laneUp 103 mScan []).chip 103 ∉ [1, 2, 3, 4, 5] ∧
    (stdOf (laneUp 103 mLead [(F.LANE_STATE 103, 2)]).chip 103 = mLead ∧ laneState (laneUp 103 mLead [(F.LANE_STATE 103, 2)]).chip 103 = 2) := by
  decide

/-- A running lane with other coach contents. -/
def dspUp (std : Nat) (l : List (Fld × Nat)) (f : DspRt → DspRt) : State :=
  on (laneUp 103 std l) fun x => setDsp x 103 (f (laneOf x 103).dsp)

theorem wit_FmAndAmCommands :
    (runs (laneUp 103 mFm []).chip 103 mFm = true ∧
      (laneOf (laneUp 103 mFm []).chip 103).dsp.lockMs < 10 ∧ (laneOf (laneUp 103 mFm []).chip 103).dsp.weakMs < 10) ∧
    (runs (dspUp mFm [] fun d => { d with lockMs := 10 }).chip 103 mFm = true ∧
      fon (dspUp mFm [] fun d => { d with lockMs := 10 }).chip (F.FM_pilot 103) = false ∧
      10 ≤ (laneOf (dspUp mFm [] fun d => { d with lockMs := 10 }).chip 103).dsp.lockMs) ∧
    (let s := on (dspUp mFm [(F.FM_pilot 103, 1)] fun d => { d with weakMs := 10 }) fun x => setAin x 0 { ainOf x 0 with taints := [] }
     runs s.chip 103 mFm = true ∧ fon s.chip (F.FM_pilot 103) = true ∧ 10 ≤ (laneOf s.chip 103).dsp.weakMs ∧
      laneTaint s.chip 103 (nowAt s.chip) = false) ∧
    (let s := dspUp mFm [(F.FM_pilot 103, 1), (F.AIN_STATUS_state 0, stOff)] fun d => { d with weakMs := 10 }
     runs s.chip 103 mFm = true ∧ fon s.chip (F.FM_pilot 103) = true ∧ 10 ≤ (laneOf s.chip 103).dsp.weakMs ∧
      laneTaint s.chip 103 (nowAt s.chip) = true) ∧
    runs (laneUp 103 mAm []).chip 103 mAm = true ∧
    (runs (laneUp 103 mAm [(F.AM_fade 103, 1)]).chip 103 mAm = true ∧ fon (laneUp 103 mAm [(F.AM_fade 103, 1)]).chip (F.AM_fade 103) = true) ∧
    (let s := dspUp mAm [(F.LANE_MODE_opt 103, 8)] fun d => { d with evenMs := 1000, downMs := 200, upMs := 200 }
     runs s.chip 103 mAm = true ∧ (cfgOf s.chip 103).opt / 8 % 4 = 1 ∧ 1000 ≤ (laneOf s.chip 103).dsp.evenMs ∧
      200 ≤ (laneOf s.chip 103).dsp.downMs ∧ 200 ≤ (laneOf s.chip 103).dsp.upMs) ∧
    (cfgOf (laneUp 103 mAm []).chip 103).opt / 8 % 4 ≠ 1 ∧
    sideDue (laneOf (dspUp mAm [] fun d => { d with evenMs := 999 }).chip 103).dsp 0 = false ∧
    (runs (up []).chip 103 mFm = false ∧ runs (up []).chip 103 mAm = false) := by decide

/-- An FM lane with an RDS memory. -/
def rdsAt (r : Rds) : State := on (laneUp 103 mFm []) fun x => setRds x 103 r

/-- A block with a burst length and an offset. -/
def blockOf (burst : Option Nat) (offset : Nat) (adjacent : Bool) : RdsObs :=
  { raw := 0x1235, word := 0x1234, burst := burst, offset := offset, adjacent := adjacent, stamp := 0, cands := [] }

theorem wit_RdsBlocks :
    (let r := laneOf (rdsAt { rdsReset with prev := some 4 }).chip 103
     runs (rdsAt { rdsReset with prev := some 4 }).chip 103 mFm = true ∧ r.rds.sync = false ∧ r.rds.prev = some 4 ∧
      (blockOf (some 0) 0 true).burst = some 0 ∧ (blockOf (some 0) 0 true).offset ≠ 5 ∧ (blockOf (some 0) 0 true).adjacent = true) ∧
    (blockOf (some 0) 0 false).adjacent = false ∧
    (let s := rdsAt { rdsReset with sync := true, last50 := List.replicate 19 true }
     runs s.chip 103 mFm = true ∧ (laneOf s.chip 103).rds.sync = true ∧
       20 ≤ hits (((blockOf none 0 true).burst.isNone :: (laneOf s.chip 103).rds.last50).take 50) ∧
       ¬ 20 ≤ hits (((blockOf (some 0) 0 true).burst.isNone :: (laneOf s.chip 103).rds.last50).take 50)) ∧
    (rbdsOn (cfgOf (rdsAt rdsReset).chip 103) = false ∧ (blockOf (some 0) 5 true).offset = 5 ∧
      rbdsOn (cfgOf (laneUp 103 mFm [(F.LANE_MODE_opt 103, 8)]).chip 103) = true) ∧
    runs (up []).chip 103 mFm = false := by decide

/-- A configuration of one service on one subchannel. -/
def dabOne : DabConfig := ⟨[⟨0x1234, [⟨0, 5, true, false, false, false, none⟩]⟩], [⟨5, 0, 84, 0⟩]⟩

/-- A lead on lane 1 that plays ensemble 0xC181, and a service lane 103 that selects 0x1234 of it. -/
def dabUp (l : List (Fld × Nat)) (ld : LeadRt) : State :=
  on (laneUp 103 mSvc []) fun x =>
    let y := setLane (fset x (F.LANE_MODE_std 1) mLead) 1 { laneOf x 1 with live := true, lead := ld }
    fsets (wr y (R.LANE_TUNE 103) 0xC1811234) ([(F.LANE_STATE 1, 2), (F.LEAD_eid 1, 0xC181), (F.SVC_lead_now 103, 0x7F)] ++ l)

/-- A FIB without a FIG, whose CRC holds or not. -/
def fibOf (ok : Bool) : FibObs :=
  ⟨0xFF :: List.replicate 29 0 ++ [0xA8, if ok then 0xA8 else 0xA9], true, [], 0⟩

/-- A lead in frame sync whose tables are full. -/
def leadFull : LeadRt := { leadReset with sync := true, eid := some 0xC181, config := dabOne }

set_option maxRecDepth 20000 in
theorem wit_DabLeadCommands_fibs :
    (runs (dabUp [] leadFull).chip 1 mLead = true ∧ (laneOf (dabUp [] leadFull).chip 1).lead.sync = true ∧
      stdOf (dabUp [] leadFull).chip 1 = mLead) ∧
    (crcHolds (pad 0 32 (fibOf true).octets) = true ∧ crcHolds (pad 0 32 (fibOf false).octets) = false ∧
      figsOf 30 ((fibOf true).octets.take 30) = [] ∧ (fibOf true).last = true) ∧
    (leadFull.complete = false ∧ tablesFull leadFull = true) ∧
    (cfgOf (dabUp [] leadFull).chip 1).opt % 2 ≠ 1 := by decide

/-- A full ring of CIFs, the newest 15. -/
def ringFull_ : List CifSlot := (List.range 16).reverse.map fun k => ⟨k, 24 * k, [], []⟩

theorem wit_DabLeadCommands :
    (17 ∈ [17] ∧ 27647 < 27648 ∧ 27647 / 1536 ∈ [17]) ∧
    (let s := dabUp [(F.SVC_subch_now 103, 5)] { leadFull with ring := ringFull_ }
     logicalSlots (laneOf s.chip 1).lead.ring (((((laneOf s.chip 1).lead.ring.head?.map CifSlot.cif).getD 0) + 4985) % 5000) =
        some ((List.range 16).map fun k => ⟨k, 24 * k, [], []⟩) ∧
       subOf (laneOf s.chip 1).lead.config (fget s.chip (F.SVC_subch_now 103)) = some ⟨5, 0, 84, 0⟩ ∧ laneState s.chip 103 ≠ 4 ∧
       (laneOf s.chip 103).logical = []) ∧
    (laneOf (dabUp [] { leadReset with announced := some 7 }).chip 1).lead.announced = some 7 ∧
    (laneOf (dabUp [] leadReset).chip 1).lead.announced ≠ some 7 ∧
    (cfgOf (dabUp [(F.LANE_MODE_opt 1, 2)] leadReset).chip 1).opt / 2 % 2 = 1 ∧ runs (up []).chip 1 mLead = false ∧
    (laneOf (dabUp [] leadReset).chip 1).lead.sync = false := by decide

theorem wit_DabServiceAndStateCommands :
    (runs (dabUp [(F.SVC_lead_now 103, 1)] leadReset).chip 103 mSvc = true ∧
      fget (dabUp [(F.SVC_lead_now 103, 1)] leadReset).chip (F.SVC_lead_now 103) ≠ 0x7F ∧
      leadServes (dabUp [(F.SVC_lead_now 103, 1)] leadReset).chip 103 1 = true) ∧
    (fget (dabUp [(F.LEAD_eid 1, 1)] leadReset).chip (F.SVC_lead_now 103) = 0x7F ∧
      leadFor (dabUp [(F.LEAD_eid 1, 1)] leadReset).chip 103 = none) ∧
    (fget (dabUp [] leadReset).chip (F.SVC_lead_now 103) = 0x7F ∧ leadFor (dabUp [] leadReset).chip 103 = some 1 ∧
      svcPin (cfgOf (dabUp [] leadReset).chip 103) = false) ∧
    (leadServes (dabUp [(F.LEAD_eid 1, 1), (F.SVC_lead_now 103, 1)] leadReset).chip 103 1 = false ∧
      fget (dabUp [(F.LEAD_eid 1, 1), (F.SVC_lead_now 103, 1)] leadReset).chip (F.SVC_lead_now 103) = 1) ∧
    (runs (dabUp [] leadReset).chip 1 mLead = true ∧ runs (dabUp [] leadReset).chip 103 mLead = false) ∧
    (laneState (dabUp [(F.SVC_lead_now 103, 1)] leadReset).chip 103 ≠ 4 ∧ laneState (dabUp [(F.LANE_STATE 103, 4)] leadReset).chip 103 = 4) ∧
    (runs (laneUp 103 mDrm []).chip 103 mDrm = true ∧ laneState (laneUp 103 mDrm []).chip 103 ≠ 4) ∧
    (runs (up []).chip 103 mSvc = false ∧ runs (up []).chip 103 mDrm = false) := by decide

/-- A service lane of MPEG audio that has read two logical CIFs. -/
def svcUp : State :=
  on (dabUp [(F.SVC_lead_now 103, 1), (F.SVC_subch_now 103, 5)] leadFull) fun x =>
    setLane x 103 { laneOf x 103 with logical := [⟨1, 24, []⟩, ⟨0, 0, []⟩] }

/-- Two logical CIFs hold a frame of Layer II, whatever their bits decode to. -/
theorem wit_DabServiceAndStateCommands_frame : ∃ f, svcFrame svcUp.chip 103 = some f := by
  have h : svcComp svcUp.chip 103 (configOf svcUp.chip (fget svcUp.chip (F.SVC_lead_now 103))) =
      some ⟨0, 5, true, false, false, false, none⟩ := by decide
  have k : freshCifs (laneOf svcUp.chip 103) = [⟨0, 0, []⟩, ⟨1, 24, []⟩] := by decide
  have e : svcFrame svcUp.chip 103 = layerFrame (laneOf svcUp.chip 103) (fget svcUp.chip (F.SVC_kind 103))
      fun e => Config.viterbi 0 e.soft := by
    unfold svcFrame
    simp only [h]
    rfl
  rw [e]
  unfold layerFrame
  simp only [k]
  repeat' split
  all_goals exact ⟨_, rfl⟩

theorem wit_DabServiceAndStateCommands_attached :
    runs svcUp.chip 103 mSvc = true ∧ fget svcUp.chip (F.SVC_lead_now 103) ≠ 0x7F ∧ laneState svcUp.chip 103 ≠ 4 ∧
    svcFrame (laneUp 103 mSvc []).chip 103 = none := by decide

/-- A MOT pool with one object. -/
def motPool (o : MotObj) : State := on (laneUp 103 mSvc []) fun x => { x with mot := [o] }

/-- A lane with a MOT directory of one entry. -/
def motListed (st : Nat) : State :=
  on (laneUp 103 mSvc []) fun x => setLane x 103 { laneOf x 103 with motDir := [(⟨9, [], []⟩, st)] }

/-- A first segment of object 9's body. -/
def motSeg (len : Nat) : MotObs := ⟨9, false, 0, false, List.replicate len 0, none, [], 0⟩

theorem wit_MotAndDrmCommands :
    (runs (laneUp 103 mSvc []).chip 103 mSvc = true ∧ slsOff (cfgOf (laneUp 103 mSvc []).chip 103) = false) ∧
    ((motSeg 1).dir = [] ∧ (laneUp 103 mSvc []).chip.mot = [] ∧ (motSeg 1).last = false ∧ (motSeg 1).octets.length ≤ 460800 ∧
      (motSeg 1).size.getD 0 ≤ 460800 ∧ ((laneUp 103 mSvc []).chip.mot.map MotObj.got).sum + (motSeg 1).octets.length ≤ 2097152) ∧
    slsOff (cfgOf (laneUp 103 mSvc [(F.LANE_MODE_opt 103, 64)]).chip 103) = true ∧
    (∃ o ∈ (motPool ⟨103, 9, none, ⟨[], none⟩, ⟨[], none⟩, false⟩).chip.mot, o.lane = 103 ∧ o.tid = 9 ∧ o.done = false) ∧
    (∀ o ∈ (motPool ⟨103, 9, none, ⟨[], none⟩, ⟨[], none⟩, true⟩).chip.mot, ¬(o.lane = 103 ∧ o.tid = 9 ∧ o.done = false)) ∧
    ((laneOf (motListed 0).chip 103).motDir.find? fun d => d.1.tid == 9 && d.2 == 0) = some (⟨9, [], []⟩, 0) ∧
    (∀ d ∈ (laneOf (motListed 1).chip 103).motDir, ¬(d.1.tid = 9 ∧ d.2 = 0)) ∧
    runs (laneUp 103 mDrm []).chip 103 mDrm = true ∧
    (fget (laneUp 103 mDrm [(F.DRM_qam 103, 3)]).chip (F.DRM_qam 103) = 3 ∧ fget (laneUp 103 mDrm [(F.DRM_codec 103, 2)]).chip (F.DRM_codec 103) = 2 ∧
      fget (laneUp 103 mDrm []).chip (F.DRM_qam 103) ≠ 3 ∧ fget (laneUp 103 mDrm []).chip (F.DRM_codec 103) ≠ 2) ∧
    (7 < 8 ∧ 3 < 4) ∧ (drmE (cfgOf (laneUp 103 mDrm []).chip 103) = false ∧ (cfgOf (laneUp 103 mDrm []).chip 103).opt % 8 = 0) ∧
    runs (up []).chip 103 mDrm = false := by decide


theorem wit_ClockLockCommands :
    (mgmtUp (up []).chip = true ∧ fon (up []).chip F.CLK_CTRL_relock = false ∧ pstate (up []).chip = 0) ∧
    (let x := (up [(F.SUP_STATE_state, 1), (F.CLK_STATUS_state, ckLocked)]).chip; pstate x ≠ 0 ∧ clkState x = ckLocked) ∧
    (let x := (up [(F.SUP_STATE_state, 2), (F.CLK_STATUS_state, ckSearch)]).chip; pstate x ≠ 0 ∧ clkState x ≠ ckLocked) ∧
    fon (up [(F.CLK_CTRL_relock, 1)]).chip F.CLK_CTRL_relock = true ∧
    clkState (up [(F.CLK_STATUS_state, ckSearch)]).chip = ckSearch ∧
    (State.reset.chip.pw.phase = .starting ∧ clkState State.reset.chip = ckOff) ∧
    (clkState (up [(F.CLK_STATUS_state, ckLocked)]).chip = ckLocked ∧ (up []).chip.pw.phase ≠ .starting) ∧ (1 ≤ 1 ∧ 255 ≤ 255) ∧
    clkState (up [(F.CLK_STATUS_state, ckCoast)]).chip = ckCoast ∧
    (max 1 (fget (up [(F.CLK_PLL_CFG_coast_lim, 1)]).chip F.CLK_PLL_CFG_coast_lim) * 100 < (-101 : Int).natAbs ∧
      (up []).chip.clk.coastLogged = false ∧ ¬ 1 * 100 < (100 : Int).natAbs) ∧
    (32 ≤ fget (up [(F.CLK_VCO_ctrl, 32)]).chip F.CLK_VCO_ctrl ∧ ¬ 32 ≤ fget (up [(F.CLK_VCO_ctrl, 31)]).chip F.CLK_VCO_ctrl ∧
      dUp (up []).chip = true) ∧
    (pstate (up []).chip ≤ 2 ∧ pstate (up [(F.SUP_STATE_state, 3)]).chip = 3 ∧ (up []).chip.clk.sense = false) ∧
    (on (up []) fun x => { x with clk := { x.clk with sense := true } }).chip.clk.sense = true := by decide

/-- A calibration under way in LOCKED. -/
def calibrating : State := on (up [(F.CLK_STATUS_state, ckLocked)]) fun x => { x with clk := { x.clk with cal := some (0, 20) } }

theorem wit_ClockTuningCommands :
    (mgmtUp (up []).chip = true ∧ fon (up []).chip F.CLK_CTRL_vco_cal = false ∧ (up []).chip.clk.cal = none) ∧
    clkState (up [(F.CLK_STATUS_state, ckLocked)]).chip = ckLocked ∧ clkState (up [(F.CLK_STATUS_state, ckCoast)]).chip ≠ ckLocked ∧
    fon (up [(F.CLK_CTRL_vco_cal, 1)]).chip F.CLK_CTRL_vco_cal = true ∧
    (let x := (up [(F.CLK_PLL_CFG_cal_delta, 1), (F.CLK_VCO_cal_temp, 255)]).chip
     partRuns x = true ∧ fget x F.CLK_PLL_CFG_cal_delta ≠ 0 ∧ fget x F.CLK_VCO_cal_temp ≠ 0 ∧
       16 * fget x F.CLK_PLL_CFG_cal_delta < (adcMean x - 16 * ((fget x F.CLK_VCO_cal_temp : Int) - 64)).natAbs) ∧
    fget (up [(F.CLK_PLL_CFG_cal_delta, 0)]).chip F.CLK_PLL_CFG_cal_delta = 0 ∧ partRuns (base .recovery id).chip = false ∧
    (calibrating.chip.clk.cal = some (0, 20) ∧ clkState calibrating.chip = ckLocked) ∧
    (convOk 2000 = true ∧ convOk 2600 = true ∧ convOk 2007 = true ∧ convOk 2089 = true ∧ convOk 2088 = false) ∧ (3 < 4) ∧
    (let x := (up [(F.CLK_PLL_CFG_cal_delta, 1), (F.CLK_VCO_cal_temp, 255), (F.CLK_STATUS_state, ckLocked)]).chip
     clkState x = ckLocked ∧ x.clk.cal = none) ∧
    (let x := (up [(F.CLK_STATUS_state, ckLocked), (F.CLK_CONV_CFG_mode, 1), (F.CLK_CONV_CFG_fnom, 2600)]).chip
     partRuns x = true ∧ 2 ≤ clkState x ∧ fget x F.CLK_CONV_CFG_mode = 1 ∧ convOk (fget x F.CLK_CONV_CFG_fnom) = true) ∧
    (partRuns (up []).chip = true ∧ clkState (up []).chip < 2) ∧
    (let x := (up [(F.GEN_ROLE_role, 1), (F.LINK_STATE_state, 2)]).chip
     mgmtUp x = true ∧ isHead x = true ∧ 2 ≤ fget x F.LINK_STATE_state ∧ isHead (up []).chip = false) := by decide

/-- A candidate of index 31 in a state. -/
def cand (st : Nat) : Cand :=
  { idx := 31, mode := mFm, source := 7, freq := 98000, ident := 0, state := st, lane := 5, lead := 0x7F, score := none, delta := some 0,
    gain := 0, verified := false, aligned := false, linked := false, fails := 0, noLane := false, beaten := 0, why := 0, lineAt := 0 }

/-- A follow record with candidates. -/
def followWith (l : List Cand) (f : Option Fade) : Follow :=
  { policy := 0xFF, margin := 0, bias := 0, guard := 0, line := 0, fade := 5, lineNow := 0, gain := 0, l0 := 0, handovers := 0,
    lastDone := none, cands := l, fading := f, undo := none, past := none, due := none }

/-- FM lane 103 followed, with a record; other lanes as given. -/
def following (r : Follow) (l : List (Fld × Nat)) : State := on (laneUp 103 mFm l) fun x => setFollow x 103 r

/-- A mailbox command's state with its arguments. -/
def args (s : State) (l : List (Nat × Nat)) : State := on s fun x => setArgs x l

/-- The chip with a command of the mailbox issued. -/
def issued (code : Nat) (s : State) : Chip := (begun .hp code s).chip

theorem wit_FollowMailboxCommands :
    (∀ c ∈ [0x40, 0x41, 0x42, 0x43, 0x44], MboxServes (up []).chip c) ∧
    (104 ≤ arg (issued 0x40 (args (up []) [(0, 104)])) 0 % 128) ∧
    (let x := issued 0x40 (args (laneUp 103 mFm []) [(0, 103), (3, 4500 + 200 * 65536)])
     ¬(104 ≤ arg x 0 % 128 ∨ stdOf x (arg x 0 % 128) ∉ [1, 2, 4, 5] ∨ 4500 < arg x 3 % 8192 ∨ arg x 3 / 65536 % 256 < 5 ∨
         200 < arg x 3 / 65536 % 256) ∧ ceilDiv (arg x 3 % 8192 * 48) 480 + blocksUsed x 103 ≤ blocksPool x ∧ lineHolders x 103 < 16 ∧
       followOf x 103 = none) ∧
    (let x := issued 0x40 (on (args (laneUp 103 mFm []) [(0, 103), (3, 1 + 5 * 65536)]) fun y =>
       { y with lines := (List.range 16).map fun k => (k, 1) })
     ¬(104 ≤ arg x 0 % 128 ∨ stdOf x (arg x 0 % 128) ∉ [1, 2, 4, 5] ∨ 4500 < arg x 3 % 8192 ∨ arg x 3 / 65536 % 256 < 5 ∨
         200 < arg x 3 / 65536 % 256) ∧ arg x 3 % 8192 ≠ 0 ∧ 16 ≤ lineHolders x 103) ∧
    (∃ r, followOf (issued 0x40 (args (following (followWith [] none) []) [(0, 103), (3, 5 * 65536)])) 103 = some r ∧ r.fading = none) ∧
    (∃ r f, followOf (issued 0x41 (args (following (followWith [cand 6] (some ⟨31, 0, 0, none⟩)) []) [(0, 103)])) 103 = some r ∧
      r.fading = some f) ∧
    (freqOk mFm 98000 = true ∧ freqOk mFm 0 = false) ∧
    (∃ r, followOf (following (followWith (List.replicate 32 (cand 0)) none) []).chip 103 = some r ∧ 32 ≤ r.cands.length) ∧
    (∃ r, followOf (following (followWith (List.replicate 31 (cand 0)) none) []).chip 103 = some r ∧ r.cands.length < 32) ∧
    (candOf (followWith [cand 5] none) 0 = none ∧ (∃ c, candOf (followWith [cand 4] none) 31 = some c ∧ c.state ≠ 5) ∧
      ∃ c, candOf (followWith [cand 5] none) 31 = some c ∧ c.state = 5) := by
  refine ⟨?_, by decide, by decide, by decide, ⟨_, rfl, by decide⟩, ⟨_, _, rfl, rfl⟩, by decide, ⟨_, rfl, by decide⟩,
    ⟨_, rfl, by decide⟩, by decide, ⟨_, rfl, by decide⟩, ⟨_, rfl, by decide⟩⟩
  simp only [MboxServes]
  decide

/-- A pool lane 5 beside the followed lane 103. -/
def pooled (r : Follow) : State := following r [(F.LANE_TANDEM_pool 5, 1), (F.LANE_MODE_std 5, mScan)]

/-- The same with a candidate of DAB service 0x1234 and lead 9 of its ensemble. -/
def servedPool : State := on (pooled (followWith [{ cand 1 with lane := 0x7F, mode := 4, ident := 0xC1811234 }] none)) fun x =>
  fsets x [(F.LANE_MODE_std 9, mLead), (F.LANE_STATE 9, 2), (F.LEAD_eid 9, 0xC181)]

theorem wit_FollowCandidateCommands_linked :
    (∃ p c, linkedWarm (following (followWith [{ cand 0 with linked := true }] none) [(F.LANE_MODE_std 5, mFm)]).chip = some (p, c)) ∧
    linkedWarm (up []).chip = none := by
  refine ⟨⟨_, _, rfl⟩, by decide⟩

theorem wit_FollowCandidateCommands :
    rfRuns (following (followWith [cand 2] none) []).chip = true ∧
    (∃ r c, followOf (following (followWith [{ cand 2 with ident := 5 }] none) []).chip 103 = some r ∧ candOf r 31 = some c ∧
      c.state = 2 ∧ c.verified = false ∧ byAlignment c = false ∧ identOk r c 5 = true) ∧
    identOk (followWith [cand 2] none) { cand 2 with ident := 5 } 6 = false ∧
    nextWarm (up []).chip [] = none ∧
    (∃ p c, nextWarm (following (followWith [{ cand 1 with lane := 0x7F }] none) []).chip [] = some (p, c) ∧ c.noLane = false ∧
      freePool (following (followWith [{ cand 1 with lane := 0x7F }] none) []).chip = []) ∧
    (∃ p c, nextWarm (following (followWith [{ cand 1 with lane := 0x7F, noLane := true }] none) []).chip [] = some (p, c) ∧
      c.noLane = true) ∧
    (∃ p c, nextWarm (pooled (followWith [{ cand 1 with lane := 0x7F }] none)).chip [] = some (p, c) ∧ c.mode ≠ 4 ∧
      freePool (pooled (followWith [{ cand 1 with lane := 0x7F }] none)).chip ≠ []) ∧
    (∃ p c n l k m, nextWarm servedPool.chip [] = some (p, c) ∧ freePool servedPool.chip = n :: l ∧ c.mode = 4 ∧
      leadsOf servedPool.chip (c.ident / 65536) = k :: m) ∧
    (∃ r f c, followOf (following (followWith [cand 6] (some ⟨31, 0, 0, none⟩)) []).chip 103 = some r ∧ candOf r 31 = some c ∧
      c.state = 6 ∧ r.fading = some f) ∧
    ((cand 4).verified = false ∧ { cand 4 with verified := true, aligned := true }.verified = true) ∧ (cand 4).state = 4 ∧
    (∀ f, (followWith [cand 4] none).fading = some f → f.idx ≠ 31) ∧
    ((cand 7).state = 7 ∧ (cand 7).why ≠ 3) ∧ rfRuns (up [(F.SUP_STATE_state, 1)]).chip = false := by
  refine ⟨by decide, ⟨_, _, rfl, rfl, by decide⟩, by decide, by decide, ⟨_, _, rfl, by decide⟩, ⟨_, _, rfl, by decide⟩,
    ⟨_, _, rfl, by decide⟩, ⟨_, _, _, _, _, _, rfl, rfl, rfl, rfl⟩, ⟨_, _, _, rfl, rfl, rfl, rfl⟩, by decide, by decide,
    by simp [followWith], by decide, by decide⟩

theorem wit_FollowHandoverCommands :
    (∃ c, bestReady (following (followWith [cand 5] none) []).chip (followWith [cand 5] none) = some c) ∧
    (let x := setQuals (following (followWith [cand 5] none) []).chip []
     followOf x 103 = some (followWith [cand 5] none) ∧ laneHeld x 103 = false ∧ guardOver x (followWith [cand 5] none) = true ∧
       (followWith [cand 5] none).policy / 128 % 2 = 1 ∧
       ((followWith [cand 5] none).margin : Int) ≤ effScore x (followWith [cand 5] none) 5 - effScore x (followWith [cand 5] none) 103 ∧
       failing x 103 = false) ∧
    failing (setQuals (following (followWith [cand 5] none) [(F.LANE_STATE 103, 3)]).chip []) 103 = true ∧
    (let r := { followWith [cand 5] none with due := some 31 }
     let x := setQuals (following r []).chip []
     followOf x 103 = some r ∧ laneHeld x 103 = false ∧ (r.due.bind fun i => (candOf r i).filter fun c => c.state == 5) = some (cand 5)) ∧
    bestReady (following (followWith [] none) []).chip (followWith [] none) = none ∧
    fon (following (followWith [] none) [(F.LANE_CTRL_held 103, 1)]).chip (F.LANE_CTRL_held 103) = true ∧
    (103 < 104 ∧ (cand 5).lane < 104 ∧ 103 ≠ (cand 5).lane) ∧
    (∃ r f c, followOf (following (followWith [cand 6] (some ⟨31, 0, 0, none⟩)) []).chip 103 = some r ∧ r.fading = some f ∧
      candOf r f.idx = some c ∧ f.endReason = none) ∧
    (∀ r, followOf (up []).chip 103 = some r → r.fading = none) ∧
    (5 ∈ (on (up []) fun x => { x with ownedLeads := [5] }).chip.ownedLeads ∧
      servicesOf (on (up []) fun x => { x with ownedLeads := [5] }).chip 5 = []) ∧
    (stdOf (laneUp 103 mScan []).chip 103 = 7 ∧ (laneOf (laneUp 103 mScan []).chip 103).live = true ∧
      (cfgOf (laneUp 103 mScan []).chip 103).opt % 2 = 0) ∧
    (cfgOf (laneUp 103 mScan [(F.LANE_MODE_opt 103, 1)]).chip 103).opt % 2 = 1 ∧ stdOf (up []).chip 0 ≠ 7 := by
  refine ⟨⟨_, rfl⟩, by decide, by decide, by decide, by decide, by decide, by decide, ⟨_, _, _, rfl, rfl, rfl, rfl⟩, ?_, by decide, by decide, by decide⟩
  intro r h
  have h1 : (none : Option Follow) = some r := h
  cases h1

/-- A fade of programme 103 that was reversed and ends at a sample time. -/
def undoing (ends : BitVec 64) : State :=
  following { followWith [] none with undo := some ⟨31, 5, 0, 0, false, 0, 0, ends⟩ } []

theorem wit_SampleTimeLatch_undo :
    (∀ e ∈ (following (followWith [] none) []).chip.follows, e.2.undo = none) ∧
    (∃ r o, smFind 103 (undoing 1).chip.follows = some r ∧ r.undo = some o ∧ 0 < (o.ends - (undoing 1).chip.tm.stime).toInt) ∧
    (∃ r o, smFind 103 (undoing 0).chip.follows = some r ∧ r.undo = some o ∧ (o.ends - (undoing 0).chip.tm.stime).toInt ≤ 0 ∧
      r.cands.find? (fun c => c.idx == o.idx) = none) := by
  refine ⟨by decide, ⟨_, _, rfl, rfl, by decide⟩, ⟨_, _, rfl, rfl, by decide⟩⟩

theorem wit_EarlyWarningCommands_shed : shed (up []).chip = false ∧ shed (up [(F.SUP_STATUS_shed, 1)]).chip = true := by decide


/-- Carriage 255 of a type with a descriptor's words, type and state in its registers. -/
def carrAt (type : Nat) (l : List (Fld × Nat)) (r : CarrRt) : State :=
  on (up ([(F.CARR_CFG_en 255, 1), (F.CARR_CFG_type 255, type), (F.CARR_CFG_ch 255, 1), (F.CARR_CFG_state 255, 1)] ++ l)) fun x =>
    setCarr x 255 r

theorem wit_DescriptorCommands :
    (255 < 256 ∧ mgmtUp (up []).chip = true ∧ (carrOf (up []).chip 255).due = none) ∧
    (carrOf (carrAt 0 [] { carrReset 255 with due := some (0, 0) }).chip 255).due = some (0, 0) ∧
    (descReason (up []).chip 255 (0x80F00000, 0) = 3) ∧ descReason (up []).chip 255 (0, 0) = 0 ∧ inProgress (up []).chip 255 = false ∧
    (((0x80000000 : Word).getLsbD 31 = true ∧ getBits (0x80000000 : Word) 20 4 < 5 ∧ getBits (0x80000000 : Word) 14 6 = 0) ∧
      (getBits (0x80084000 : Word) 14 6 = 33) ∧ getBits (0x80080000 : Word) 14 6 = 32) ∧
    (carrMine (up [(F.GEN_ROLE_role, 2)]).chip 255 = false ∧ carrMine (up [(F.GEN_ROLE_role, 2), (F.CARR_CFG_origin 255, 1)]).chip 255 = true) ∧
    (descReason (carrAt 0 [] (carrReset 255)).chip 255 (0, 0) = 0 ∧ inProgress (carrAt 0 [] (carrReset 255)).chip 255 = true) ∧
    (getBits (0x80004000 : Word) 20 4 < 5 ∧ getBits (0x80404000 : Word) 20 4 = 4 ∧ getBits (0x0001 : Word) 8 7 < getBits (0x0001 : Word) 0 7) ∧
    (isHead (on (up [(F.GEN_ROLE_role, 1)]) fun x => { x with heldMap := [255] }).chip = true) ∧
    (isHead (up []).chip = false ∧ 103 < getBits (104 : Word) 0 7 ∧ 15 < 16) := by decide

/-- A carriage that takes segments at a head in RUN. -/
def sending (type : Nat) (r : CarrRt) : State :=
  carrAt type [(F.GEN_ROLE_role, 1), (F.LINK_STATE_state, 5), (F.LANE_CARR_s_en 0, 1), (F.LANE_CARR_side 0, 255)] r

/-- A record that waits. -/
def recOf (len sent : Nat) : SideRec := ⟨0, 0x0101, List.replicate len 0, sent, 0, none⟩

/-- A carriage of IQ samples, one a segment, of lane 103. -/
def sendingIq : State := on (sending 3 (carrReset 255)) fun x => setLane (fsets x [(F.LANE_MODE_std 103, mIq),
  (F.CARR_CFG_frames 255, 1), (F.CARR_SRC_lane_lo 255, 103)]) 103 { laneOf x 103 with live := true }

/-- A PCM carriage that runs, at a sample time. -/
def pcmAtTime (t : BitVec 64) : State := on (sending 0 (carrReset 255)) fun x => { x with tm := { x.tm with stime := t } }

theorem wit_SegmentCommands_emit :
    (isHead (sending 0 (carrReset 255)).chip = true ∧ fget (sending 0 (carrReset 255)).chip F.LINK_STATE_state = 5) ∧
    fget (up [(F.GEN_ROLE_role, 1)]).chip F.LINK_STATE_state ≠ 5 ∧
    (∀ b ∈ ([(103, 0, 1)] : List (Nat × Nat × Nat)), ¬(b.2.1 ≤ 1 ∧ 1 < b.2.1 + b.2.2)) ∧ (laneOf (up []).chip 103).pcm = [] := by
  decide +kernel

theorem wit_SegmentCommands_pcm :
    (rfRuns (pcmAtTime 0).chip = true ∧ carrTakes (pcmAtTime 0).chip 255 0 = true ∧ bindings (pcmAtTime 0).chip 255 = []) ∧
    (firstFrame (pcmAtTime 0).chip [] 0 = 0 ∧ framesOf (pcmAtTime 0).chip 255 = 48) ∧
    (frameDue (pcmAtTime 0).chip [] 47 = false ∧ frameDue (pcmAtTime 0x10000000).chip [] 47 = true) := by decide +kernel

theorem wit_SegmentCommands_iq :
    (rfRuns sendingIq.chip = true ∧ carrTakes sendingIq.chip 255 3 = true ∧
      (bindings sendingIq.chip 255).any (fun b => (laneOf sendingIq.chip b.1).live) = false) ∧
    ([(1, -1)] : List (Int × Int)).length = framesOf sendingIq.chip 255 ∧ ([] : List (Int × Int)).length ≠ framesOf sendingIq.chip 255 ∧
    (stdOf sendingIq.chip (fget sendingIq.chip (F.CARR_SRC_lane_lo 255)) = mIq ∧
      (laneOf sendingIq.chip (fget sendingIq.chip (F.CARR_SRC_lane_lo 255))).live = true) ∧
    (rfRuns (up []).chip = true ∧ rfRuns (up [(F.SUP_STATE_state, 2)]).chip = false ∧ (∀ k, k < 4 → carrTakes (up []).chip 255 k = false) ∧
      ([(1, -1)] : List (Int × Int)) ≠ []) := by decide +kernel

theorem wit_SegmentCommands_queues :
    carrTakes (sending 2 (carrReset 255)).chip 255 2 = true ∧ carrTakes (sending 1 (carrReset 255)).chip 255 1 = true ∧
    ((bindings (sending 2 (carrReset 255)).chip 255).any (fun b => (laneOf (sending 2 (carrReset 255)).chip b.1).live) = false) ∧
    ((recOf 4095 0).octets.length ≤ (recOf 4095 0).sent + 4095 ∧ (recOf 4096 0).sent + 4095 < (recOf 4096 0).octets.length) ∧
    ((carrOf (sending 2 { carrReset 255 with queue := [recOf 5 0] }).chip 255).queue = recOf 5 0 :: [] ∧
      (carrOf (sending 1 { carrReset 255 with units := [⟨[1], 0, 0⟩] }).chip 255).units = ⟨[1], 0, 0⟩ :: [] ∧
      (carrOf (sending 1 (carrReset 255)).chip 255).units = [] ∧ (carrOf (sending 2 (carrReset 255)).chip 255).queue = []) ∧
    (let x := (carrAt 0 [] { carrReset 255 with shed := some 0 }).chip
     carrLocal x 255 = true ∧ carrState x 255 = 1 ∧ ownState x 255 ≠ 1) ∧
    (carrState (up []).chip 255 ≠ 1 ∧ ownState (carrAt 0 [] (carrReset 255)).chip 255 = 1 ∧
      carrLocal (up [(F.GEN_ROLE_role, 2)]).chip 255 = false) := by decide +kernel

theorem wit_SegmentCommands :
    (sideRecord (laneUp 103 mDrm []).chip 103 (.sdc 9 []) = some (0x0302, b1 9) ∧ dUp (laneUp 103 mDrm []).chip = true ∧
      sideRecord (laneUp 103 mFm []).chip 103 (.sdc 9 []) = none ∧ dUp (up [(F.SUP_STATE_state, 2)]).chip = false) ∧
    (fon (up []).chip (F.LANE_CARR_s_en 0) = false ∧ fon (sending 2 (carrReset 255)).chip (F.LANE_CARR_s_en 0) = true ∧
      fget (sending 2 (carrReset 255)).chip (F.LANE_CARR_side 0) = 255 ∧ carrTakes (sending 0 (carrReset 255)).chip 255 2 = false ∧
      queued (carrOf (sending 2 (carrReset 255)).chip 255).queue + (8 + 65528) ≤ 65536) ∧
    (let s := on (sending 4 (carrReset 255)) fun x => setLane (fset x (F.LANE_MODE_std 0) mFm) 0 { laneOf x 0 with live := true }
     let lanes := fun (y : State) => allLanes.filter fun n => decide (fget y.chip (F.CARR_SRC_lane_lo 255) ≤ n) &&
       (decide (n ≤ fget y.chip (F.CARR_SRC_lane_hi 255)) && (stdOf y.chip n != mOff && stdOf y.chip n != mSpare))
     ((lanes s).any fun n => (laneOf s.chip n).live) = true ∧
       ((lanes (sending 4 (carrReset 255))).any fun n => (laneOf (sending 4 (carrReset 255)).chip n).live) = false ∧
       carrTakes (carrAt 4 [] (carrReset 255)).chip 255 4 = true ∧ carrTakes (carrAt 4 [(F.CARR_CFG_state 255, 2)] (carrReset 255)).chip 255 4 = false) ∧
    (carrState (sending 0 (carrReset 255)).chip 255 = 1 ∧ carrLocal (sending 0 (carrReset 255)).chip 255 = true) ∧
    (carrTakes (sending 4 (carrReset 255)).chip 255 4 = true ∧ carrType (sending 4 (carrReset 255)).chip 255 = 4) ∧
    mgmtUp (base .glide id).chip = false := by decide +kernel

theorem wit_SheddingAndReservedIds :
    (isHead (up [(F.GEN_ROLE_role, 1), (F.LINK_STATE_state, 5)]).chip = true ∧
      fget (up [(F.GEN_ROLE_role, 1), (F.LINK_STATE_state, 5)]).chip F.LINK_STATE_state = 5) ∧
    (carrRuns (sending 0 (carrReset 255)).chip).foldl (shedFirst (sending 0 (carrReset 255)).chip) none = some 255 ∧
    (let s := on (sending 0 (carrReset 255)) fun x =>
       { x with lk := { x.lk with dn := { x.lk.dn with now := ⟨1, false, List.replicate 47 0, 0⟩ } } }
     fits s.chip (demand s.chip) = false ∧ (carrRuns s.chip).foldl (shedFirst s.chip) none = some 255 ∧
       (let y := carrShed s.chip 255 0; fits y (demand y) = true)) ∧
    fits (up [(F.GEN_ROLE_role, 1), (F.LINK_STATE_state, 5)]).chip (demand (up [(F.GEN_ROLE_role, 1), (F.LINK_STATE_state, 5)]).chip) = true ∧
    (let x := (carrAt 0 [(F.GEN_ROLE_role, 1), (F.LINK_STATE_state, 5), (F.CARR_CFG_state 255, 2)] { carrReset 255 with shed := some 0 }).chip
     ((carrIn x 2).filter fun c => (carrOf x c).shed == some 0).foldl (restoreFirst x) none = some 255) ∧
    (inProgress (sending 0 (carrReset 255)).chip 255 = true ∧ inProgress (sending 2 (carrReset 255)).chip 255 = false ∧
      fon (sending 2 (carrReset 255)).chip (F.CARR_CFG_en 255) = true) ∧
    isHead (up []).chip = false ∧ fget (up [(F.LINK_STATE_state, 4)]).chip F.LINK_STATE_state = 4 ∧
    (List.replicate 32 (0xFF : Byte)).length = 32 ∧ (List.replicate 31 (0xFF : Byte)).length ≠ 32 := by decide +kernel

/-- A part with self-test as given. -/
def bistAt (l : List (Fld × Nat)) (b : BistRt) : State := on (up l) fun x => { x with bist := b }

/-- Self-test at rest. -/
def bistRest : BistRt := ⟨none, none, none, [], [], []⟩

theorem wit_SelfTestMailboxCommands :
    (∀ c ∈ [0x30, 0x31, 0x32, 0x33, 0x34], MboxServes (up []).chip c) ∧
    (104 ≤ arg (issued 0x30 (args (up []) [(0, 104)])) 0 ∧ failed (issued 0x30 (args (up []) [(0, 103)])) 103 = false) ∧
    (bistAt [] { bistRest with cmd := some ⟨0x30, [], 0, false⟩ }).chip.bist.cmd ≠ none ∧
    (1 < pstate (up [(F.SUP_STATE_state, 2)]).chip ∧ pstate (up [(F.SUP_STATE_state, 1)]).chip = 1) ∧
    ((up []).chip.bist.cmd = none ∧ (up []).chip.bist.mig = none ∧ (up []).chip.bist.test = none ∧ migWaits (up []).chip 103 = false) ∧
    (bistAt [] { bistRest with test := some ⟨5, false, none⟩ }).chip.bist.test ≠ none ∧
    failed (up [((F.BIST_FAILED_f 3).bit 7, 1)]).chip 103 = true ∧
    ((List.range 13).filter fun u => arg (issued 0x31 (up [])) 0 / 2 ^ u % 2 == 1) = [] ∧
    ((List.range 13).filter fun u => arg (issued 0x31 (args (up []) [(0, 0x1000)])) 0 / 2 ^ u % 2 == 1) = [12] ∧
    ((List.range 4).filter fun u => arg (issued 0x32 (args (up []) [(0, 8)])) 0 / 2 ^ u % 2 == 1) = [3] ∧
    ((⟨0x31, [12], 0, false⟩ : BistCmd).code = 0x31 ∧ 12 ∈ [12].take 4) ∧ ((⟨0x32, [3], 0, false⟩ : BistCmd).code = 0x32 ∧ 3 ∈ [3].take 2) ∧
    ((⟨0x30, [], 0, true⟩ : BistCmd).ended = true) := by
  refine ⟨?_, by decide⟩
  simp only [MboxServes]
  decide

theorem wit_LaneTestsAndMigrations :
    (partRuns (up []).chip = true ∧ cmdWaits (up []).chip = none ∧ partRuns (base .recovery id).chip = false) ∧
    (let x := (up [(F.BIST_CTRL_en, 1)]).chip
     fon x F.BIST_CTRL_en = true ∧ pstate x = 0 ∧ fon x F.SUP_STATUS_ew = false ∧ healthyFrom x (fget x F.BIST_SPARES_next) = some 0 ∧
       migWaits x 0 = false) ∧
    fon (up [(F.BIST_CTRL_en, 0)]).chip F.BIST_CTRL_en = false ∧
    (stdOf (up []).chip 0 = 0 ∧ stdOf (laneUp 103 mFm []).chip 103 ≠ 0 ∧ stdOf (laneUp 103 mFm []).chip 103 ≠ 15) ∧
    migDest (up []).chip = some 7 ∧ stdOf (up []).chip 7 = 15 ∧
    (let m : Mig := ⟨103, 0, 0, true, 0, ⟨srcBist, 0⟩⟩; m.src < 104 ∧ m.dst < 104 ∧ m.copied = true) ∧ (1 < 2 ∧ 2 ≤ 2) ∧
    (up []).chip.bist.mig = none ∧ (bistAt [] { bistRest with test := some ⟨103, true, none⟩ }).chip.bist.test = some ⟨103, true, none⟩ ∧
    (⟨103, false, some 0⟩ : LaneTest).retest = some 0 ∧ (⟨103, false, some 1⟩ : LaneTest).retest ≠ none ∧
    cmdWaits (bistAt [] { bistRest with cmd := some ⟨0x33, [5], 0, false⟩ }).chip = some (5, 0x33) ∧
    (let x := (up ((List.range 4).map fun k => (F.BIST_FAILED_f k, 0xFFFFFFFF))).chip
     healthyFrom x (fget x F.BIST_SPARES_next) = none ∧ cmdWaits x = none) ∧ (up []).chip.bist.test = none := by
  decide +kernel


/-- A part of a role whose link is in a state, with fields. -/
def linkAt (role st : Nat) (l : List (Fld × Nat)) : State :=
  up ([(F.GEN_ROLE_role, role), (F.LINK_STATE_state, st), (F.LINK_PHY_STATUS_tx_on, 1), (F.LINK_PHY_STATUS_rx, 1),
    (F.CLK_OUT_on 1, 1)] ++ l)

/-- A part with other link memory. -/
def withLink (s : State) (f : LinkRt → LinkRt) : State := on s fun x => { x with lk := f x.lk }

/-- Soft values that decide the sync word with some bits inverted, then a header block. -/
def softOf (wrong : Nat) (hdr : List Byte) : List Int :=
  let bits := (le 4 (syncWord ^^^ wrong) ++ hdr).flatMap bitsLsb
  List.zipWith (fun b q => if b != q then -1 else 1) bits (prbs 256 0x555555)

theorem wit_LinkTrainsAndStates_received :
    (let bits := headerDecide (softOf 0 (dnHeader (linkAt 1 5 []).chip 7))
     syncErrors (bits.take 32) = 0 ∧ dnHdrOk (headerOf bits) = true) ∧
    (let h := dnHeader (linkAt 1 5 []).chip 7
     let bits := headerDecide (softOf 1 (predictHdr h ++ [0, 0]))
     syncErrors (bits.take 32) = 1 ∧ 1 ≤ min 8 (fget (linkAt 2 1 [(F.LINK_SYNC_TOL_tol, 1)]).chip F.LINK_SYNC_TOL_tol) ∧
       dnHdrOk (headerOf bits) = false ∧ (headerOf bits).take 26 = predictHdr h) ∧
    (let bits := headerDecide (softOf 0x1FF (List.replicate 28 0))
     syncErrors (bits.take 32) = 9 ∧ dnHdrOk (headerOf bits) = false ∧
       min 8 (fget (linkAt 2 1 [(F.LINK_SYNC_TOL_tol, 15)]).chip F.LINK_SYNC_TOL_tol) < 9) ∧
    upHdrOk (headerOf (headerDecide (softOf 0 (upHeader 0 21 0 0 true)))) = true ∧
    syncErrors ((headerDecide (softOf 0 (upHeader 0 21 0 0 true))).take 32) = 0 := by decide +kernel

/-- A foot with the slot of a train open. -/
def slotOpen (st k : Nat) : State := withLink (linkAt 2 st []) fun l => { l with slot := some 0, slotAt := k }

theorem wit_LinkTrainsAndStates :
    (6 ≤ 6 ∧ linkState (linkAt 1 5 []).chip ≠ 6) ∧ headSends (linkAt 1 2 []).chip = true ∧ footReceives (linkAt 2 1 []).chip = true ∧
    (withLink (linkAt 2 5 []) fun l => { l with hdr := some (dnHeader (linkAt 1 5 []).chip 7) }).chip.lk.hdr ≠ none ∧
    (linkAt 2 5 []).chip.lk.hdr = none ∧
    (footReceives (slotOpen 2 7).chip = true ∧ (slotOpen 2 7).chip.lk.slot = some 0 ∧ linkState (slotOpen 2 7).chip = 2 ∧
      (slotOpen 2 7).chip.lk.slotAt % 2 = 1 ∧ (slotOpen 2 0).chip.lk.slotAt % 2 = 0) ∧
    (footReceives (slotOpen 5 7).chip = true ∧ linkState (slotOpen 5 7).chip = 5 ∧ (slotOpen 5 7).chip.lk.slotAt % 16 = 7 ∧
      (slotOpen 5 8).chip.lk.slotAt % 16 ≠ 7) ∧
    ((withLink (linkAt 2 5 []) fun l => { l with expect := some 8 }).chip.lk.expect = some 8 ∧ (linkAt 2 5 []).chip.lk.expect = none) ∧
    (let s := withLink (linkAt 1 2 []) fun l => { l with slot := some 0 }
     headSends s.chip = true ∧ s.chip.lk.slot ≠ none ∧ linkState s.chip ≤ 5 ∧ linkState s.chip = 2) ∧
    (linkState (linkAt 1 2 []).chip = 2 ∧ linkState (linkAt 1 5 []).chip ≠ 2 ∧ (5000 ≤ (25000 : Int) ∧ ¬5000 ≤ (4999 : Int)) ∧
      ((5900 : Int) - 5000 - (fget (linkAt 1 5 [(F.LINK_RTT_ns, 100)]).chip F.LINK_RTT_ns : Nat)).natAbs ≤ 800 ∧
      ¬((5901 : Int) - 5000 - (fget (linkAt 1 5 [(F.LINK_RTT_ns, 100)]).chip F.LINK_RTT_ns : Nat)).natAbs ≤ 800) ∧
    (upHdrOk (upHeader 0 21 0 0 true) = true ∧ upHdrOk (upHeader 0 22 0 0 true) = false) ∧
    (16 * 3 + 7) % 16 = 7 ∧
    ((up []).chip.lk.release = [] ∧ (withLink (up []) fun l => { l with release := [[]] }).chip.lk.release = [[]]) ∧
    (let s := withLink (linkAt 1 2 []) fun l => { l with bursts := 16, empties := 16, noBurst := 256 }
     isHead s.chip = true ∧ linkState s.chip = 2 ∧ 16 ≤ s.chip.lk.bursts ∧ 16 ≤ s.chip.lk.empties ∧ 256 ≤ s.chip.lk.noBurst) ∧
    (let s := withLink (linkAt 1 3 []) fun l => { l with trains := 8 }; linkState s.chip = 3 ∧ 8 ≤ s.chip.lk.trains) ∧
    (let s := withLink (linkAt 1 4 []) fun l => { l with trains := 64 }; linkState s.chip = 4 ∧ 64 ≤ s.chip.lk.trains) ∧
    (let s := withLink (linkAt 2 2 []) fun l => { l with missing := 4 }; isFoot s.chip = true ∧ linkState s.chip = 2 ∧ 4 ≤ s.chip.lk.missing) ∧
    (let s := withLink (linkAt 1 5 []) fun l => { l with noBurst := 128 }; linkState s.chip = 5 ∧ 128 ≤ s.chip.lk.noBurst) ∧
    (fon (linkAt 2 5 [(F.CLK_OUT_en 1, 0)]).chip (F.CLK_OUT_en 1) = false ∧ isFoot (linkAt 2 5 []).chip = true ∧ linkState (linkAt 2 5 []).chip = 5) ∧
    (fon (linkAt 1 1 [(F.LINK_PHY_STATUS_ramp, 1)]).chip F.LINK_PHY_STATUS_ramp = true ∧ true = decide (linkState (linkAt 1 1 []).chip ≠ 0)) ∧
    (isSolo (linkAt 2 5 []).chip = false ∧ isSolo (linkAt 3 0 []).chip = true) := by decide +kernel

theorem wit_LoadingMaps :
    (proposes (linkAt 2 5 []).chip 0 = true ∧ proposes (linkAt 1 4 []).chip 1 = true ∧ proposes (linkAt 1 5 []).chip 0 = false) ∧
    (let s := withLink (linkAt 2 5 [(⟨R.LINK_TRAIN, 0, 32⟩, 16)]) fun l => { l with dn := { l.dn with asked := some (1, 0), mine := [{ mapZero 47 with id := 1 }] } }
     (dirOf s.chip 0).asked = some (1, 0) ∧ 16 ≤ (trainNow s.chip + 2 ^ 32 - 0) % 2 ^ 32 ∧
       ((dirOf s.chip 0).mine.find? fun m => m.id == 1) = some { mapZero 47 with id := 1 }) ∧
    (trainNow (linkAt 2 5 [(⟨R.LINK_TRAIN, 0, 32⟩, 15)]).chip + 2 ^ 32 - 0) % 2 ^ 32 < 16 ∧ (dirOf (linkAt 2 5 []).chip 0).asked = none ∧
    (transmits (linkAt 1 4 []).chip 0 = true ∧ transmits (linkAt 2 5 []).chip 1 = true ∧ transmits (linkAt 2 5 []).chip 0 = false) ∧
    (let p : Proposal := ⟨1, proposeBytes 0 { mapZero 47 with id := 1 }, 5⟩
     let s := withLink (linkAt 1 5 []) fun l => { l with dn := { l.dn with inbox := [p] } }
     (dirOf s.chip 0).inbox = [p] ∧ future p.due 5 = false ∧ (dirOf s.chip 0).sched = none ∧ (dirOf s.chip 0).held = none ∧
       nakReason (dirOf s.chip 0) 0 p = 0) ∧
    (∀ p ∈ (dirOf (withLink (linkAt 1 5 []) fun l => { l with dn := { l.dn with inbox := [⟨1, [], 5⟩] } }).chip 0).inbox, future p.due 4 = true) ∧
    (let s := withLink (linkAt 2 5 []) fun l => { l with slotAt := 7 }
     transmits s.chip 1 = true ∧ s.chip.lk.slotAt % 16 = 7 ∧ (linkAt 2 5 []).chip.lk.slotAt % 16 ≠ 7) ∧
    (let s := withLink (linkAt 1 5 []) fun l => { l with dn := { l.dn with sched := some ⟨mapZero 47, 1, none⟩ }, next := 1 }
     (dirOf s.chip 0).sched = some ⟨mapZero 47, 1, none⟩ ∧ future 1 s.chip.lk.next = false ∧ future 2 s.chip.lk.next = true) ∧
    (notchPairs [] = none ∧ notchPairs [0] = some []) ∧ (linkAt 2 5 []).chip.lk.cwFails = [] ∧
    (∃ e ∈ (withLink (linkAt 2 5 []) fun l => { l with cwFails := [(0, 1)] }).chip.lk.cwFails,
      ((up []).chip.tm.ticks - BitVec.ofNat 48 e.1).toNat < 60 * 32768) := by decide +kernel

/-- A head's whisper receiver in a phase. -/
def wspAt (ph : Phase) (buf : List Byte) (f : Option (List Byte)) (l : List (Fld × Nat)) : State :=
  base ph fun x => { fsets x ([(F.GEN_ROLE_role, 1)] ++ l) with wsp := { x.wsp with buf := buf, frame := f } }

/-- A frame for a pattern of zeros. -/
def wspOf (cmd : Nat) : List Byte := wspFrame (fsets Chip.reset [(⟨R.LINK_WSP_PATTERN, 0, 32⟩, 0)]) cmd

theorem wit_WhisperCommands :
    (isFoot (linkAt 2 1 []).chip = true ∧ mgmtUp (linkAt 2 1 []).chip = true ∧ dUp (linkAt 2 1 []).chip = true ∧ linkState (linkAt 2 6 []).chip = 6) ∧ isFoot (up []).chip = false ∧
    (0xFF < 256) ∧ (∀ ph ∈ [Phase.running, .glide, .starting, .waitPower], wspRuns (wspAt ph [] none []).chip = true) ∧
    (wspAt .running [] none []).chip.pw.phase ≠ .glide ∧ wspComplete [] = false ∧ wspRuns (up []).chip = false ∧
    ((wspAt .running [] none []).chip.wsp.rx = none ∧ (wspAt .running [] none []).chip.wsp.hold = none) ∧
    (0 < 10 * (wspOf 0x4E).length ∧ mgmtUp (wspAt .running [0x7E, 0x57] none []).chip = true) ∧
    (let old : List Byte := if wspComplete [0x7E, 0x57] then [] else [0x7E, 0x57]
     old.length = 2 ∧ ¬ 8 < (8 : Byte).toNat ∧ 8 < (9 : Byte).toNat) ∧
    (let old : List Byte := if wspComplete (wspOf 0x57) then [] else wspOf 0x57; old = []) ∧
    (wspComplete (wspOf 0x57) = true ∧ crc8 (((wspOf 0x57).drop 1).take ((wspOf 0x57).length - 2)) = field (wspOf 0x57) ((wspOf 0x57).length - 1) 1 ∧
      crc8 (([0x7E, 0x4E, 0, 0] : List Byte).drop 1 |>.take 2) ≠ 0 ∧ wspComplete [0x7E, 0x4E, 0, 0] = true ∧
      field (wspOf 0x57) 1 1 ∈ [0x57, 0x52, 0x4E] ∧ field (wspOf 0x41) 1 1 ∉ [0x57, 0x52, 0x4E]) ∧
    (let s := wspAt .glide [] (some (wspOf 0x57)) [(⟨R.LINK_WSP_PATTERN, 0, 32⟩, 0), (F.LINK_WSP_CFG_wake_en, 1)]
     s.chip.wsp.frame = some (wspOf 0x57) ∧ field (wspOf 0x57) 2 1 = 4 ∧ field (wspOf 0x57) 3 4 = (rd s.chip R.LINK_WSP_PATTERN).toNat ∧
       gliding s.chip = true ∧ fon s.chip F.LINK_WSP_CFG_wake_en = true) ∧
    (let s := wspAt .running [] (some (wspOf 0x52)) [(⟨R.LINK_WSP_PATTERN, 0, 32⟩, 0), (F.LINK_WSP_CFG_reset_en, 1)]
     gliding s.chip = false ∧ dUp s.chip = true ∧ linkState s.chip ≠ 5 ∧ shed s.chip = false ∧ s.chip.pw.phase ≠ .waitPower ∧
       s.chip.pw.nrst = false ∧ fon s.chip F.LINK_WSP_CFG_reset_en = true) ∧
    (fon (wspAt .running [] none []).chip F.LINK_WSP_CFG_reset_en = false ∧ dUp (wspAt .starting [] none [(F.SUP_STATE_state, 2)]).chip = false ∧
      mgmtUp (wspAt .glide [] none []).chip = false) ∧
    (field (wspOf 0x57) 3 4 ≠ (rd (wspAt .running [] none [(⟨R.LINK_WSP_PATTERN, 0, 32⟩, 1)]).chip R.LINK_WSP_PATTERN).toNat) ∧
    (field (wspOf 0x4E) 1 1 = 0x4E ∧ field (wspOf 0x4E) 2 1 = 0) := by decide +kernel

/-- Octets of a control-path message: sequence, operation, and the rest. -/
def ctrlMsg (seq op : Nat) (rest : List Byte) : List Byte := b2 seq ++ b1 op ++ rest

theorem wit_ControlPathCommands :
    MboxServes (up []).chip 0x50 ∧ fon (up []).chip F.MGMT_STATUS_busy = false ∧
    (let s := args (linkAt 2 5 []) [(0, 1), (1, 255), (2, 0x104)]
     arg s.chip 0 = 1 ∧ remoteArgsOk (begun .hp 0x50 s).chip 1 = true ∧ isFoot (begun .hp 0x50 s).chip = true ∧
       linkState (begun .hp 0x50 s).chip = 5) ∧
    (let s := args (linkAt 2 0 []) [(0, 4), (1, 0)]
     arg s.chip 0 = 4 ∧ remoteArgsOk (begun .hp 0x50 s).chip 4 = true ∧ linkState (begun .hp 0x50 s).chip ≠ 5) ∧
    remoteArgsOk (begun .hp 0x50 (args (up []) [(0, 1), (1, 256)])).chip 1 = false ∧
    (let w : CpWait := ⟨7, 2, [], true⟩
     let s := on (linkAt 2 5 []) fun x => { x with cp := { x.cp with wait := some w, freeLeft := 1 } }
     footReceives s.chip = true ∧ linkState s.chip = 5 ∧ s.chip.cp.wait = some w ∧ 0 < s.chip.cp.freeLeft ∧
       responseOk 2 (ctrlMsg 7 2 [0]) = true ∧ field (ctrlMsg 7 2 [0]) 0 2 = w.seq ∧ 4 ≤ (ctrlMsg 7 2 [0]).length ∧
       responseOk 1 (ctrlMsg 7 0 [0, 0]) = false ∧ field (ctrlMsg 8 2 [0]) 0 2 ≠ w.seq) ∧
    ((up []).chip.cp.wait = none ∧ (up []).chip.cp.freeLeft = 0) ∧
    (isHead (linkAt 1 5 []).chip = true ∧ mgmtUp (linkAt 1 5 []).chip = true ∧ (linkAt 1 5 []).chip.cp.queue = [] ∧
      (linkAt 1 5 []).chip.cp.responses.find? (fun e => e.1 == 7) = none ∧
      (on (linkAt 1 5 []) fun x => { x with cp := { x.cp with responses := [(7, [])] } }).chip.cp.responses.find? (fun e => e.1 == 7) = some (7, [])) ∧
    ((⟨7, 3, ctrlMsg 7 3 [0, 0, 1, 0], ⟨0, [], noCmd⟩⟩ : CpReq).op = 3 ∧ 255 < field (ctrlMsg 7 3 [0, 0, 1, 0]) 4 2) ∧
    (cpWell (ctrlMsg 7 1 [1, 4, 1, 0, 0]) = true ∧ cpWell (ctrlMsg 7 1 []) = false ∧ 2 ≤ (b2 7).length) ∧
    cpWaits (linkAt 1 5 []).chip ⟨7, 1, ctrlMsg 7 1 [1, 4, 1, 0, 0], ⟨0, [], noCmd⟩⟩ = false ∧
    (fon (linkAt 1 5 [(F.LINK_CP_CFG_wr_en, 1)]).chip F.LINK_CP_CFG_wr_en = true ∧ fon (linkAt 1 5 [(F.LINK_CP_CFG_wr_en, 0)]).chip F.LINK_CP_CFG_wr_en = false) ∧
    (shed (linkAt 1 0 []).chip = false ∧ linkState (linkAt 1 0 []).chip = 0 ∧ pstate (linkAt 1 0 [(F.SUP_STATE_state, 2)]).chip = 2 ∧
      8 ≤ (ctrlMsg 7 4 [2, 0, 0, 0, 0]).length ∧ field (ctrlMsg 7 4 [2, 0, 0, 0, 0]) 2 1 = 4 ∧ field (ctrlMsg 7 1 [2, 0, 0, 0, 0]) 2 1 ≠ 4 ∧
      mboxClosed (linkAt 1 0 []).chip = false ∧ 7 ∉ (linkAt 1 0 []).chip.cp.freeSeen ∧ 3 < field (ctrlMsg 7 4 [4, 0, 0, 0, 0]) 3 1) ∧
    (dUp (linkAt 2 0 []).chip = true ∧ dUp (linkAt 2 0 [(F.SUP_STATE_state, 2)]).chip = false) ∧
    (let x := (linkAt 1 5 [(F.LINK_TIME_CFG_tol, 0)]).chip
     let diff := fun (p : List Byte) => (BitVec.ofNat 48 (field p 4 8 + 2 ^ 48 - halfRtt x) - (wall x - BitVec.ofNat 48 0)).toInt
     (diff (List.replicate 14 0)).natAbs ≤ fget x F.LINK_TIME_CFG_tol ∧
       fget x F.LINK_TIME_CFG_tol < (diff ([0, 0, 0, 0, 1] ++ List.replicate 9 0)).natAbs ∧ x.cp.wallEpoch = none) ∧
    ((on (linkAt 2 5 []) fun x => { x with cp := { x.cp with heard := some (7, 0) } }).chip.cp.heard = some (7, 0) ∧
      (linkAt 2 5 []).chip.cp.heard = none) ∧
    ((List.replicate 22 (0 : Byte)).length = 22 ∧ (List.replicate 14 (0 : Byte)).length = 14 ∧ linkState (linkAt 2 5 []).chip = 5) := by
  refine ⟨by simp only [MboxServes]; decide, ?_⟩
  decide +kernel


/-- A carriage's play-out at an offset, faded or not. -/
def played (offset : Option Int) (faded : Bool) : PlayRt := ⟨offset, faded, [], 0, none, []⟩

/-- A solo part whose port 3 is in a state and maps carriage 255 at entry 3. -/
def portAt (st : Nat) (l : List (Fld × Nat)) : State :=
  on (up ([(F.GEN_ROLE_role, 3), (F.APORT_STATUS_state 3, st), (F.APORT_CFG_en 3, 1), (F.APORT_MAP_en 3 3, 1), (F.APORT_MAP_carr 3 3, 255),
    (F.CARR_CFG_en 255, 1), (F.CARR_CFG_type 255, 0), (F.CARR_CFG_ch 255, 2), (F.APORT_MAP_n 3 3, 2)] ++ l)) fun x =>
    setPlay x 255 (played (some 0) false)

/-- A segment of carriage 255. -/
def segOf (type : Nat) : Seg := ⟨255, type, 7, List.replicate 4 0, some 0⟩

/-- A part whose shared ring of one page is on, with a segment that waits. -/
def ringAt (l : List (Fld × Nat)) : State :=
  on (up ([(F.HOST_RING_CFG_en, 1), (F.HOST_RING_CFG_pages, 1), (F.HOST_RING_CFG_types, 31)] ++ l)) fun x => { x with toOut := [segOf 0] }

/-- The same with a privileged slot 7 that takes it. -/
def privAt : State := on (ringAt []) fun x => setPriv x 7 { privReset 7 with cfg := 0x80010000 ||| 255, ch := 1 }

/-- The same with so many frames held after the one due. -/
def heldFrames (s : State) (n : Nat) : State := on s fun x => setPlay x 255 { played (some 0) false with
  held := (List.range n).map fun k => (frameNow x 255 + 1 + k, [0, 0]) }

/-- A foot whose port plays a carriage of a head that sends keepalives alone. -/
def idlePort : State :=
  withLink (portAt 2 [(F.GEN_ROLE_role, 2), (F.CARR_CFG_origin 255, 0)]) fun l => { l with idle := true }

theorem wit_PortsAndCarriageMemory_frames :
    (underrunNow (portAt 2 []).chip 255 = true ∧ overrunNow (portAt 2 []).chip 255 = false ∧
      overrunNow (heldFrames (portAt 2 []) 1537).chip 255 = true ∧ overrunNow (heldFrames (portAt 2 []) 1536).chip 255 = false ∧
      underrunNow (heldFrames (portAt 2 []) 1536).chip 255 = true ∧ underrunNow (up []).chip 255 = false) ∧
    (idleHead idlePort.chip 255 = true ∧ underrunNow idlePort.chip 255 = true ∧ overrunNow (heldFrames idlePort 1537).chip 255 = true ∧
      idleHead (heldFrames idlePort 1537).chip 255 = true) ∧
    (let s := on (portAt 2 []) fun x => setPlay x 255 (played (some 0) true)
     (playOf s.chip 255).faded = true ∧ fadeOver s.chip 255 = true ∧ (playOf s.chip 255).offset = some 0) ∧
    (let s := on (portAt 2 []) fun x => setPlay x 255 { played (some 0) true with fade := some (frameNow x 255, 0, none) }
     (playOf s.chip 255).faded = true ∧ fadeOver s.chip 255 = false) := by decide +kernel

theorem wit_PortsAndCarriageMemory :
    (3 < 4 ∧ mgmtUp (portAt 2 []).chip = true ∧ fon (portAt 2 []).chip (F.APORT_STATUS_contend 3) = false) ∧
    (portState (portAt 2 []).chip 3 = 2 ∧ portState (portAt 1 []).chip 3 = 1 ∧ portState (portAt 0 []).chip 3 ≠ 3) ∧
    (dUp (portAt 0 []).chip = true ∧ portAble (portAt 0 [(F.APORT_CFG_en 3, 0)]).chip 3 = false) ∧
    portAble (portAt 0 [(F.CLK_OUT_en 2, 1), (F.APORT_CFG_slots 3, 2)]).chip 3 = true ∧
    dUp (portAt 0 [(F.SUP_STATE_state, 2)]).chip = false ∧ mgmtUp (base .glide id).chip = false ∧
    (playing (portAt 2 []).chip 255 = true ∧ idleHead (portAt 2 []).chip 255 = false ∧ playing (up []).chip 255 = false) ∧
    (let s := portAt 2 [(F.GEN_ROLE_role, 2), (F.CARR_CFG_origin 255, 0), (F.APORT_CFG_clksrc 3, 1)]
     portPlays s.chip 3 255 = true ∧ playing s.chip 255 = true ∧ slips s.chip 3 255 = true) ∧
    (let hears := on (portAt 2 []) fun x => setPlay x 255 { played (some 0) false with
       held := (List.range 8).map fun k => ((k : Int), [0xF8720000, 0x4E1F0000]) }
     examines (portAt 2 []).chip 3 3 = true ∧ preamble (portAt 2 []).chip 3 3 = false ∧
       examines hears.chip 3 3 = true ∧ preamble hears.chip 3 3 = true ∧ 3 ∉ (portOf hears.chip 3).muted ∧ examines (up []).chip 3 3 = false) ∧
    (let x := (portAt 2 []).chip
     (getBits (rd x (R.APORT_CFG 3)) 29 1 = 0 ∧ getBits (rwMerge (R.APORT_CFG 3) (rd x (R.APORT_CFG 3)) 0xA0000000) 29 1 = 1) ∧
       rwMerge (R.APORT_MAP 3 3) (rd x (R.APORT_MAP 3 3)) (rd x (R.APORT_MAP 3 3)) = rd x (R.APORT_MAP 3 3) ∧
       rd x (R.APORT_MAP 3 3) ≠ rwMerge (R.APORT_MAP 3 3) (rd x (R.APORT_MAP 3 3)) 0 ∧ playingPorts x 255 = [3]) ∧
    3 ∈ (portOf (on (portAt 2 []) fun x => setPort x 3 { portOf x 3 with muted := [3] }).chip 3).muted ∧
    (getBits (16380 : Word) 0 22 % 4 = 0 ∧ getBits (16380 : Word) 0 22 < fget (ringAt []).chip F.HOST_RING_CFG_pages * 16384 ∧
      ¬ getBits (16384 : Word) 0 22 < fget (ringAt []).chip F.HOST_RING_CFG_pages * 16384) ∧
    ((ringAt []).chip.toOut.find? (fun g => privSlots (ringAt []).chip g == []) = some (segOf 0) ∧ ringTakes (ringAt []).chip (segOf 0) = true) ∧
    ringTakes (ringAt [(F.HOST_RING_CFG_types, 30)]).chip (segOf 0) = false ∧
    (up []).chip.toOut.find? (fun g => privSlots (up []).chip g == []) = none ∧
    (privAt.chip.toOut.find? (fun g => privSlots privAt.chip g != []) = some (segOf 0) ∧ 0 < (privOf privAt.chip 7).len ∧
      0 < (privOf privAt.chip 7).base + (privOf privAt.chip 7).bytes ∧ 7 ∈ privSlots privAt.chip (segOf 0) ∧
      0 < segFrames privAt.chip (segOf 0)) ∧
    (let e := ringEntry (ringAt []).chip (segOf 0)
     fget (ringAt []).chip F.HOST_RING_WR_wr + e.length ≤ ringSize (ringAt []).chip ∧ ringHeld (ringAt []).chip + e.length + 4 ≤ ringSize (ringAt []).chip) ∧
    (let s := ringAt [(F.HOST_RING_RD_rd, 4)]
     let e := ringEntry s.chip (segOf 0)
     fget s.chip F.HOST_RING_WR_wr + e.length ≤ ringSize s.chip ∧ ringSize s.chip < ringHeld s.chip + e.length + 4) := by decide +kernel

/-- A message of the control bus. -/
def msgOf (losses refusals : Nat) : AttnMsg := ⟨0, [], 0, 0, losses, refusals⟩

/-- A part with a message pending. -/
def attnAt (m : AttnMsg) : State := on (up [(F.TWB_ATTN_CFG_en, 1)]) fun x => { x with twb := { x.twb with msg := some m } }

/-- A part with bytes held by the control bus. -/
def heldAt (l : List (Nat × Byte)) : State := on (up []) fun x => { x with twb := { x.twb with held := l } }

theorem wit_ControlBusCommands :
    (mgmtUp (up []).chip = true ∧ (up []).chip.twb.held = [] ∧ (up []).chip.twb.busOpen = false ∧ mgmtUp (base .glide id).chip = false) ∧
    ((heldAt [(0x104, 1), (0x105, 2), (0x106, 3), (0x107, 4)]).chip.twb.held = [(0x104, 1), (0x104 + 1, 2), (0x104 + 2, 3), (0x104 + 3, 4)] ∧
      0x104 % 4 = 0 ∧ isReg 0x104 = true) ∧
    ((heldAt [(0x8000, 1)]).chip.twb.held = [(0x8000, 1)] ∧ isReg 0x8000 = false ∧ isWin 0x8000 = true ∧ isReg 0x148 = false ∧ isWin 0x148 = false) ∧
    (gliding (base .glide id).chip = true ∧ fon (base .glide id).chip F.TWB_CFG_glide_match = true ∧
      0xB8 / 2 = 0x5C + fget (base .glide id).chip F.TWB_STATUS_addr ∧ 0xBA / 2 ≠ 0x5C + fget (base .glide id).chip F.TWB_STATUS_addr) ∧
    (let x := (up [(F.TWB_ATTN_CFG_en, 1), (F.MGMT_INT_CAUSE_mbox, 1), (F.MGMT_INT_EN_en, 0xFFFFFFFF)]).chip
     fon x F.TWB_ATTN_CFG_en = true ∧ (rd x R.MGMT_INT_CAUSE &&& rd x R.MGMT_INT_EN) &&& ~~~ x.twb.last &&& ~~~ x.twb.stand ≠ 0 ∧
       x.twb.busOpen = false ∧ x.twb.msg = none) ∧
    (up []).chip.twb.msg = none ∧
    (let s := on (up [(F.TWB_CFG_glide_match, 1)]) fun x => { x with pw := { x.pw with trans := some ⟨3, 0, 0⟩ } }
     s.chip.pw.phase ≠ .glide ∧ s.chip.pw.trans.map Trans.target = some 3 ∧ fon s.chip F.TWB_CFG_glide_match = true ∧ s.chip.pw.nrst = false ∧
       s.chip.pw.wake = none) ∧
    ((attnAt (msgOf 6 2)).chip.twb.msg = some (msgOf 6 2) ∧ (msgOf 6 2).refusals < 3 ∧ (msgOf 6 2).losses < 7 ∧
      fon (attnAt (msgOf 6 2)).chip F.TWB_ATTN_CFG_en = true) ∧
    (3 ≤ (msgOf 7 3).refusals ∧ 7 ≤ (msgOf 7 3).losses) := by decide +kernel

theorem wit_HostPortCommands :
    (mgmtUp (up []).chip = true ∧ mgmtUp State.reset.chip = false ∧ State.reset.chip.pw.phase = .starting ∧
      (base .glide id).chip.pw.phase ≠ .starting) ∧
    (0x104 % 4 = 0 ∧ 0x104 ∉ [R.GEN_ID, R.GEN_REV, R.GEN_STATUS]) ∧
    (isReg 0x104 = true ∧ isReg 0x105 = true ∧ 0x105 % 4 ≠ 0 ∧ isReg 0x8FFF = false ∧ isWin 0x8FFF = true ∧ isReg 0x148 = false ∧ isWin 0x148 = false) ∧
    (0x05 % 256 ∈ [0x0B, 0x02, 0xEB, 0x38, 0x05] ∧ 0xFF % 256 ∉ [0x0B, 0x02, 0xEB, 0x38, 0x05]) ∧
    limitOk (up []).chip none = true ∧ limitOk (up []).chip (some 0) = false := by decide +kernel

/-- A part with a boot store of 16 MiB. -/
def storeAt (f : StoreRt → StoreRt) (l : List (Fld × Nat)) : State :=
  on (up l) fun x => { x with store := f { x.store with mib := 16, lay := layoutOf 16 } }

/-- A job of a group. -/
def jobFor (g code : Nat) : Job := ⟨g, code, 8, [⟨false, 8, 0, [0]⟩], 0, false, none, false⟩

/-- A store with jobs. -/
def busyStore (l : List Job) : State := storeAt (fun t => { t with jobs := l }) []

theorem wit_StoreCommands :
    (∀ c ∈ [0x20, 0x21, 0x22, 0x23, 0x24, 0x25, 0x26, 0x27, 0x28], MboxServes (storeAt id []).chip c) ∧
    (let x := issued 0x21 (args (storeAt id []) [(0, 8), (1, 61440), (2, 4096)])
     ¬ 8 < arg x 0 ∧ ¬ 4096 < arg x 2 ∧ ¬ regionLen x (arg x 0) < arg x 1 + arg x 2) ∧
    (let x := issued 0x21 (args (storeAt id []) [(0, 8), (1, 61441), (2, 4096)]); regionLen x (arg x 0) < arg x 1 + arg x 2) ∧
    (let x := issued 0x22 (args (storeAt id []) [(0, 8), (1, 15), (2, 1)])
     ¬(arg x 0 < 6 ∨ 8 < arg x 0 ∨ (arg x 0 = 8 ∧ x.fuse.protect.getLsbD 3 = true)) ∧ ¬ (regionOf x 8).2 < arg x 1 + arg x 2 ∧ arg x 2 ≠ 0 ∧
       jobOf x 2 = none) ∧
    ((regionOf (storeAt id []).chip 8).2 < 16 + 1 ∧ jobOf (busyStore [jobFor 2 0x22]).chip 2 ≠ none) ∧
    (let s := args (storeAt id []) [(0, 8), (1, 0), (2, 4096)]
     ewOn s.chip = false ∧ noCmd.fails = [] ∧ noCmd.viols = [] ∧ arg (issued 0x23 s) 0 = 8 ∧ ¬ 4096 < arg (issued 0x23 s) 2 ∧
       arg (issued 0x23 s) 3 % 2 ≠ 1) ∧
    flashBytes (storeAt id []) 8 0 2 = List.replicate 2 0xFF ∧
    flashBytes (withFlash (storeAt id []) [(flashAddr (storeAt id []).chip 8 0, 0)]) 8 0 2 ≠ List.replicate 2 0xFF ∧
    ewOn (storeAt id [(F.SUP_STATUS_ew, 1)]).chip = true ∧ (4096 ≤ 4096 ∧ 126976 + 4096 ≤ 131072 ∧ 131072 < 126977 + 4096) ∧
    (cfgRefusal (storeAt id []).chip = none ∧ cfgRefusal (busyStore [jobFor 0 0x24]).chip = some stRegionBusy) ∧
    (imageFault (imgBytes 1 0 0 []) = none ∧ (imgBytes 1 0 0 []).length ≤ 131072 ∧ imageFault [] = some 0) ∧
    ((storeAt id []).chip.fuse.protect.getLsbD 2 = false ∧ (on (storeAt id []) fun x => { x with fuse := { x.fuse with protect := 4 } }).chip.fuse.protect.getLsbD 2 = true ∧
      ∃ r ∈ (storeAt (fun t => { t with retired := [4] }) []).chip.store.retired, r = 4 ∨ r = 5) ∧
    ((storeAt (fun t => { t with update := some ⟨1, 256⟩ }) []).chip.store.update ≠ none ∧ jobOf (storeAt id []).chip 1 = none) ∧
    (let x := (storeAt id [(F.STORE_STATUS_maint_due, 1)]).chip
     partRuns x = true ∧ ewOn x = false ∧ jobOf x 0 = none ∧ fon x F.STORE_STATUS_maint_due = true) ∧
    (jobOf (busyStore [jobFor 3 0]).chip 3 = some (jobFor 3 0) ∧ (jobFor 3 0).code = 0) ∧
    (jobOf (busyStore [{ jobFor 2 0x22 with abort := true }]).chip 2 = some { jobFor 2 0x22 with abort := true } ∧ (jobFor 2 0x22).code ≠ 0 ∧
      mgmtUp (busyStore []).chip = true) := by
  refine ⟨?_, by decide +kernel⟩
  simp only [MboxServes]
  decide +kernel

/-- A signed image of 256 octets whose payload is empty: its header with the key of private exponent 1, signed with
k = 2; hash and signature were computed outside Lean. -/
def signedImage : List Byte :=
  be 4 0x534C4657 ++ [1, 0, 0x04, 0x96] ++ List.replicate 16 0 ++ be 32 ecGx ++ be 32 ecGy ++
    be 32 0x7cf27b188d034f7e8a52380304b51ac3c08969e277f21b35a60b48fc47669978 ++
    be 32 0x447e550f8999509609b9a48a999cfec89fc043caf5d804eef34529fad2ed7c62 ++ List.replicate 4 0xFF ++ List.replicate 100 0

/-- A store whose slot B holds an image, and whose update of that slot waits for its end. -/
def slotAt (img : List Byte) (u : Option Update) (l : List (Fld × Nat)) : State :=
  flashProg (storeAt (fun t => { t with update := u }) l) 3 0 img

/-- The octets that the signature covers hash to the value computed outside Lean (R415). -/
theorem test_sha256 : sha256 (signedImage.take 88 ++ signedImage.drop 156) =
    be 32 0x0c0a2f06862f51ad892111122e84e2cd7ef71db373bdeea8407f0af95e745f4c := by decide +kernel

/-- The signature computed outside Lean verifies (R415). -/
theorem test_ecdsa : ecVerify ecGx ecGy 0x7cf27b188d034f7e8a52380304b51ac3c08969e277f21b35a60b48fc47669978
    0x447e550f8999509609b9a48a999cfec89fc043caf5d804eef34529fad2ed7c62
    (be 32 0x0c0a2f06862f51ad892111122e84e2cd7ef71db373bdeea8407f0af95e745f4c) = true := by decide +kernel

theorem flashBytes_none (s : State) (r off : Nat) : flashBytes s r off 0 = [] := by simp [flashBytes]

theorem slotAt_image_beq : (flashBytes (slotAt signedImage none []) 3 0 256 == signedImage) = true := by decide +kernel

theorem slotAt_image : flashBytes (slotAt signedImage none []) 3 0 256 = signedImage := eq_of_beq slotAt_image_beq

theorem slotAt_signed : slotSigned (slotAt signedImage none []) 1 = true := by
  unfold slotSigned
  dsimp only
  rw [slotAt_image, if_pos (by decide +kernel)]
  have e0 : field signedImage 16 4 = 0 := by decide +kernel
  have e1 : unbe ((signedImage.drop 24).take 32) = ecGx := by decide +kernel
  have e2 : unbe ((signedImage.drop 56).take 32) = ecGy := by decide +kernel
  have e3 : unbe ((signedImage.drop 88).take 32) = 0x7cf27b188d034f7e8a52380304b51ac3c08969e277f21b35a60b48fc47669978 := by
    decide +kernel
  have e4 : unbe ((signedImage.drop 120).take 32) = 0x447e550f8999509609b9a48a999cfec89fc043caf5d804eef34529fad2ed7c62 := by
    decide +kernel
  rw [e0, e1, e2, e3, e4, flashBytes_none, List.append_nil, test_sha256]
  exact test_ecdsa

/-- A verified image passes the checks of UPDATE_FINISH (R415, R417). -/
theorem test_signed_image_passes : slotRefusal (slotAt signedImage none []) 1 = none := by
  unfold slotRefusal
  dsimp only
  rw [slotAt_signed, if_neg (by decide), if_neg (by decide +kernel), if_neg (by decide +kernel)]

theorem wit_UpdateAndFuseCommands :
    (∀ c ∈ [0x60, 0x61, 0x62, 0x63, 0x64, 0x65], MboxServes (storeAt id []).chip c) ∧
    (let x := issued 0x60 (args (storeAt id []) [(0, 524544)])
     ¬(arg x 0 = 0 ∨ 524544 < arg x 0) ∧ onTrial x = false ∧ x.fuse.protect.getLsbD (updateSlot x) = false ∧ x.store.retired = [] ∧
       x.store.update = none ∧ jobOf x 1 = none) ∧
    (onTrial (storeAt id [(F.STORE_FW_trial, 1)]).chip = true ∧ 3 ∈ (storeAt (fun t => { t with retired := [3] }) []).chip.store.retired) ∧
    (ewOn (storeAt id []).chip = false ∧ (slotAt [] (some ⟨1, 256⟩) []).chip.store.update = some ⟨1, 256⟩ ∧ (storeAt id []).chip.store.jobs = []) ∧
    (¬(4 % 4 ≠ 0 ∨ 4096 < 252 ∨ 256 < 4 + 252) ∧ (256 < 5 + 252)) ∧
    (∃ j, jobOf (busyStore [⟨1, 0x60, 3, [⟨true, 3, 0, []⟩], 0, false, none, false⟩]).chip 1 = some j ∧ 4096 * j.done < 0 + 1) ∧
    (256 = 256 + flashNum (slotAt signedImage none []) 3 16 4 ∧ slotRefusal (slotAt [] none []) 1 = some stBadSignature) ∧
    (let s := slotAt (List.replicate 152 0xFF ++ [0xFE]) none []
     s.chip.store.update = none ∧ updateSlot s.chip = 1 ∧ 1 ∉ s.chip.store.spoilt ∧ slotIs s 1 0 = true ∧ slotIs s 1 4 = false) ∧
    (slotIs (slotAt [] none []) 1 0 = false) ∧
    (let s := on (slotAt [] none [(F.STORE_FW_trial, 1)]) fun x => setArg x 0 1
     onTrial s.chip = true ∧ runSlot s.chip = 0 ∧ s.chip.fuse.rollback < slotSec s 0 ∧ noCmd.fuse = 0 ∧ arg s.chip 0 % 2 = 1) ∧
    ewOn (storeAt id [(F.SUP_STATUS_ew, 1)]).chip = true ∧
    (let x := issued 0x65 (args (up [(F.SUP_STATE_state, 1)]) [(0, 5), (1, 3)])
     (pstate x = 1 ∨ pstate x = 2) ∧ ewOn x = false ∧ arg x 0 = 5 ∧ x.fuse.roleLock = 0 ∧ x.fuse.key = 0 ∧ x.fuse.mark = 0 ∧ x.fuse.rollback < 64) ∧
    (5 < arg (issued 0x65 (args (up []) [(0, 6)])) 0 ∧ 64 < arg (issued 0x65 (args (up []) [(0, 2), (1, 65)])) 1 ∧ pstate (up []).chip = 0) ∧
    ((on (up []) fun x => { x with fuse := { x.fuse with key := 1, rollback := 64, roleLock := 1 } }).chip.fuse.key ≠ 0) := by
  refine ⟨?_, by decide +kernel, by decide +kernel, by decide +kernel, by decide +kernel, ⟨_, rfl, by decide +kernel⟩, by decide +kernel⟩
  simp only [MboxServes]
  decide +kernel

/-- A fault of a code, told with a class. -/
def faultOf (code cls : Nat) : FaultIn := ⟨code, cls, 0, 0, none, none, none⟩

/-- A part in fatal handling. -/
def inFatal (dumping : Bool) (l : List Job) : State :=
  on (busyStore l) fun x => { x with ft := { x.ft with fatal := some ⟨7, 0, dumping⟩ } }

theorem wit_FaultCommands :
    (mgmtUp (up []).chip = true ∧ (up []).chip.ft.fatal = none ∧ (up []).chip.ft.queue = [] ∧ (up []).chip.ft.lost = 0) ∧
    (faultKnown (faultOf 1 0) = true ∧ faultCls (faultOf 1 0) = 0 ∧ faultKnown (faultOf 4 2) = true ∧ faultCls (faultOf 4 2) = 2) ∧
    (faultCls (faultOf 7 3) = 3 ∧ faultKnown (faultOf 0xA 3) = true ∧ faultKnown (faultOf 0xB 0) = false ∧ (faultOf 0xA 3).code < 256) ∧
    ((up []).chip.ft.queue.length < 16 ∧
      16 ≤ (on (up []) fun x => { x with ft := { x.ft with queue := List.replicate 16 (faultOf 1 0) } }).chip.ft.queue.length) ∧
    ((inFatal false []).chip.ft.fatal = some ⟨7, 0, false⟩) ∧
    (fon (up [(F.MGMT_FAULT_CFG_dump_en, 1)]).chip F.MGMT_FAULT_CFG_dump_en = true ∧ fon (up [(F.MGMT_FAULT_CFG_dump_en, 0)]).chip F.MGMT_FAULT_CFG_dump_en = false) ∧
    (dumpRefused (up []) = true ∧ dumpRefused (storeAt id []) = false) ∧
    (fon (up [(F.MGMT_FAULT_CFG_on_fatal, 1)]).chip F.MGMT_FAULT_CFG_on_fatal = true ∧ fon (up [(F.MGMT_FAULT_CFG_on_fatal, 0)]).chip F.MGMT_FAULT_CFG_on_fatal = false) ∧
    (arg (args (up []) [(0, 4)]).chip 0 = 4 ∧ arg (args (up []) [(0, 3)]).chip 0 = 3 ∧ (up []).chip.fuse.debug = false) ∧
    (dumpJob (inFatal true [jobFor 3 0]).chip = some (7, jobFor 3 0) ∧ dumpJob (up []).chip = none) ∧
    (up []).chip.cp.queue = [] ∧ (mirrorMay (storeAt id [(F.MGMT_LOG_CFG_mirror, 1)]).chip = true ∧ mirrorMay (up []).chip = false) := by
  decide +kernel

theorem wit_FaultCommands_inject : MboxServes (args (up []) [(0, 3)]).chip 0x08 := by
  simp only [MboxServes]
  decide


/-- No samples. -/
def noRun : CoachRun := ⟨0, [], []⟩

/-- The last CIF of a frame with so many symbols. -/
def cifOf (n : Nat) : CifObs := ⟨4999, 0, 3, List.replicate n [], none⟩

/-- A start that meets nothing, with straps and address balls. -/
def startOf (straps addr : Nat) : StartObs := ⟨straps, addr, 0, 0, 0, false, 0, false, false, 0, [], []⟩

/-- Every check of a lane number refuses lane 104. -/
theorem test_illformed_lane :
    [Instr.applyStaged 104, .laneApplied 104, .discard 104, .laneGo 104, .fmState 104 ⟨0, 0, 0, 0, 0, noRun⟩, .stereo 104 true,
      .amState 104 ⟨0, 0, 0, 0, true, 0, 0, 0, noRun⟩, .carrierFade 104 0 0, .amSide 104 0, .reconfig 104 0, .svcAttach 104,
      .dabState 104 ⟨0, true, [], 0, 0, 0⟩, .tiiReport 104 [] 0, .motIdleTimeout 104 0, .motMissing 104 0 0, .drmParam 104 0 0 0 false 0,
      .candVerify 104 0 0, .candReady 104 0, .rejectExpiry 104 0, .handoverDecide 104 [], .handoverDone 104 0, .handoverAbort 104 0,
      .followLeadReturn 104, .sideRecord 104 (.text []) 0 [], .rdsBlock 104 (blockOf none 0 false), .fibReceived 104 (fibOf true),
      .cifPublish 104 (cifOf 18), .audioFrame 104 ⟨0, [], [], none⟩,
      .motDataGroup 104 (motSeg 0), .drmState 104 ⟨false, 0, false, false, none, 0, 0, 0⟩, .scanRecord 104 ⟨0, 0, 0, false, none, false, 0⟩,
      .candAligned 104 0, .fineAlign 104 0].all (fun c => !c.wellFormed) = true := by decide

/-- Every check of an input refuses input 4. -/
theorem test_illformed_input :
    [Instr.forcedTaint 4, .calRun 4, .feedFaultClear 4 true false, .ainEnableWrite 4 true, .feedEnableWrite 4 true, .ovr 4 0,
      .snowStep 4 0 true, .snowRelease 4, .gainStep 4 0 0, .presel 4 true, .feedShort 4 0, .feedBack 4 0, .settleDone 4, .planDone 4 none,
      .calWindowEnd 4 ⟨[], 0⟩, .calRunTimeout 4, .calTrig 4 0].all (fun c => !c.wellFormed) = true := by decide

/-- Every check of a coach, position, carriage or port refuses the first number past its range. -/
theorem test_illformed_unit :
    [Instr.coachReset 13, .laneReset 13 0, .laneReset 0 8, .slackLow 13 0, .slackExhausted 13 0 0, .slackExhausted 0 8 0,
      .coachTestDone true 4 0 true, .coachTestDone false 13 0 true, .descCommit 256, .descApply 256, .segmentComplete 256 noRun,
      .keepalive 256, .qualReport 256, .underrun 256, .overrun 256, .resume 256, .slip 0 256, .slip 4 0, .aportMapWrite 4 0 0,
      .aportMapWrite 0 4 0, .aportCfgWrite 4 0, .nonpcm 4 0, .nonpcm 0 4, .nonpcmRelease 4 0, .nonpcmRelease 0 4, .contend 4 true,
      .clkOutEnWrite 4 true].all (fun c => !c.wellFormed) = true := by decide

/-- Every check of an address, a code, a length or a choice refuses a value outside its range. -/
theorem test_illformed_value :
    [Instr.registerWrite .twb 0x102 0 noBus, .registerWrite .hp 0x10000 0 noBus, .laneStagedWrite 0x2A00 0, .laneStagedWrite 0xFFC 0,
      .laneStagedWrite 0x1002 0, .unknownCmdCode .cp 256, .storeDone 4 0 noCmd, .hpRead 0x10000 1 0 false false,
      .hpWrite 0x10000 [] false noBus, .hpQread 0x10000 1 0 false false, .hpQwrite 0x10000 [] false noBus, .hpUnknownInstruction 256,
      .hpUnknownInstruction 0x0B, .twbWrite [] true noBus, .twbWake 256, .railLow 3, .start (startOf 4 0), .start (startOf 0 4),
      .calWindowEnd 0 ⟨[(1, ⟨false, false, 0, [], [], [], 0⟩)], 0⟩, .fmState 0 ⟨0, 0, 0, 0, 0, ⟨0, [], [(0, 0)]⟩⟩,
      .fibReceived 0 ⟨[], false, [], 0⟩, .cifPublish 0 (cifOf 17), .sideRecord 0 (.xpad 32 []) 0 [], .sideRecord 0 (.raw 4 []) 0 [],
      .sideRecord 0 (.sdc 16 []) 0 [], .rdsBlock 0 (blockOf none 6 false), .tiiReport 0 [(128, 0, 0)] 0, .slackLow 0 101, .amSide 0 4, .drmParam 0 8 0 0 false 0, .drmParam 0 0 8 0 false 0,
      .drmParam 0 0 0 4 false 0, .drmParam 0 0 0 0 false 8, .candVerify 0 256 0, .candReady 0 256, .rejectExpiry 0 256,
      .candAligned 0 256, .fineAlign 0 256, .mapPropose 2, .mapProposal 2, .mapProposeRepeat 2, .mapSwitch 2, .tempLimit 7 0, .migAbort 3,
      .faultTaken ⟨0, 0, 0, 0, none, none, none⟩ [] ⟨[], [], []⟩, .faultTaken ⟨0xB, 0, 0, 0, none, none, none⟩ [] ⟨[], [], []⟩,
      .faultTaken ⟨1, 4, 0, 0, none, none, none⟩ [] ⟨[], [], []⟩,
      .faultTaken (faultOf 1 0) [faultOf 0xB 0] ⟨[], [], []⟩].all (fun c => !c.wellFormed) = true := by decide

/-- The last value of each range passes. -/
theorem test_wellformed :
    [Instr.laneGo 103, .calRun 3, .coachReset 12, .laneReset 12 7, .coachTestDone true 3 0 true, .coachTestDone false 12 0 true,
      .descCommit 255, .slip 3 255, .aportMapWrite 3 3 0, .clkOutEnWrite 3 true, .registerWrite .twb 0xFFFC 0 noBus,
      .laneStagedWrite 0x29FC 0, .unknownCmdCode .cp 255, .storeDone 3 0 noCmd, .hpUnknownInstruction 0xFF, .twbWrite [0] true noBus,
      .twbWake 255, .railLow 2, .start (startOf 3 3), .calWindowEnd 3 (windowOf 4096 0), .slackLow 12 100,
      .amSide 103 3, .drmParam 103 7 7 3 true 7, .candVerify 103 255 0, .segmentComplete 255 noRun,
      .mapProposal 1, .cifPublish 103 (cifOf 18), .fibReceived 103 (fibOf true), .sideRecord 103 (.xpad 31 []) 0 [],
      .sideRecord 103 (.raw 3 []) 0 [], .rdsBlock 103 (blockOf none 5 false), .tempLimit 6 0, .migAbort 2,
      .faultTaken (faultOf 1 0) [faultOf 0xA 3] ⟨[], [], []⟩].all Instr.wellFormed = true := by decide


/-- The state after a command. -/
def go (c : Instr) (s : State) : State :=
  match step { s with pending := c :: s.pending } with
  | .next t => t
  | _ => s

/-- The two transfers of the manual's worked example of the lane registers. -/
def laneBytes : List Byte := [0x1D, 0x48, 0x02, 0xAF, 0, 0, 0xCD, 0xCC, 0xCC, 0xFC]

/-- `INPUT`, then `TUNE` staged (worked example, chapter 19). -/
theorem test_lane_staged : after (.twbWrite laneBytes true noBus) (up []) (fun t =>
    t.chip.staged == [(0x1D48, 0xAF02), (0x1D4C, 0xFCCCCCCD)] && fget t.chip (F.LANE_CTRL_staged 53) == 1) = true := by decide +kernel

/-- `MODE` staged, then `apply` captures all three (worked example, chapter 19). -/
theorem test_lane_captured : after (.twbWrite [0x1D, 0x40, 3, 0, 0, 0, 1, 0, 0, 0] true noBus) (go (.twbWrite laneBytes true noBus) (up []))
    (fun t => t.chip.captured == [(0x1D40, 3), (0x1D48, 0xAF02), (0x1D4C, 0xFCCCCCCD)] && fget t.chip (F.LANE_CTRL_apply 53) == 1) = true := by
  decide +kernel

/-- One transfer of the same words captures `MODE` alone: BAD_LANE_WRITE, `INPUT` and `TUNE` left staged (worked example). -/
theorem test_lane_one_transfer :
    after (.laneApplied 53) (go (.twbWrite ([0x1D, 0x40, 3, 0, 0, 0, 1, 0, 0, 0] ++ laneBytes.drop 2) true noBus) (up []))
    (fun t => t.chip.staged == [(0x1D48, 0xAF02), (0x1D4C, 0xFCCCCCCD)] && (stdOf t.chip 53 == 0 && nextSeq t.chip 0x16 == 1)) = true := by
  decide +kernel

/-- A part at a tick. -/
def atTick (n : Nat) (s : State) : State := on s fun x => { x with tm := { x.tm with ticks := BitVec.ofNat 48 n } }

/-- `RTC_SECONDS` 3600 at tick 0x40_0000 gives offset 0x06C8_0000 and leaves the epoch at 0 (worked example, chapter 15). -/
theorem test_seconds_forward : after (.rtcSecondsWrite 0xE10) (atTick 0x400000 (up []))
    (fun t => t.chip.tm.offset == 0x06C80000 && fget t.chip F.RTC_EPOCH_e == 0) = true := by decide +kernel

/-- 3630 s at 3632 s: a step of −65 536 ticks and the next epoch (worked example, chapter 15). -/
theorem test_seconds_back : after (.rtcSecondsWrite 0xE2E) (atTick 0x500000 (go (.rtcSecondsWrite 0xE10) (atTick 0x400000 (up []))))
    (fun t => t.chip.tm.offset == 0x06C70000 && (rd t.chip R.MGMT_STEP_LO == 0xFFFF0000 && (rd t.chip R.MGMT_STEP_HI == 0xFFFFFFFF &&
      fget t.chip F.RTC_EPOCH_e == 1))) = true := by decide +kernel

/-- An input at a planned step of 4. -/
def snowAt : State := up [(F.AIN_STATUS_state 0, 3), (F.AIN_CFG_snow_en 0, 1), (F.AIN_ATT_total 0, 4), (F.AIN_ATT_plan 0, 4)]

/-- 8 dB to 14 dB, offset 3 (worked example, chapter 2). -/
theorem test_snow_step : after (.snowStep 0 0 false) snowAt (fun t =>
    fget t.chip (F.AIN_ATT_total 0) == 7 && fget t.chip (F.AIN_ATT_snow 0) == 3) = true := by decide +kernel

/-- 14 dB to 12 dB, offset 2 (worked example, chapter 2). -/
theorem test_snow_release : after (.snowRelease 0) (go (.snowStep 0 0 false) snowAt) (fun t =>
    fget t.chip (F.AIN_ATT_total 0) == 6 && fget t.chip (F.AIN_ATT_snow 0) == 2) = true := by decide +kernel

/-- Region SNRs that fall from 34.0 dB to 22.5 dB: bits of each region, C, codewords of normal and quiet trains (worked example,
chapter 9). -/
theorem test_map_of_snr :
    ((propose (setSnr (linkAt 2 5 [(F.LINK_PHY_CFG_margin, 12), (F.LINK_PHY_CFG_bmax, 12)]).chip 0
      ((List.range 47).map fun r => 136 - r)) 0 0).lk.dn.mine.map fun m => (m.bits, codedPerSymbol 0 m.bits, codewords 0 m 62, codewords 0 m 61)) =
    [(List.replicate 3 9 ++ List.replicate 12 8 ++ List.replicate 12 7 ++ List.replicate 12 6 ++ List.replicate 8 5, 19100, 609, 599)] := by
  decide +kernel

/-- A head before train 40 202 with map 0x21 in force and proposals 0x22 and 0x23 on their way. -/
def proposedTo : State :=
  let p := proposeBytes 0 ⟨0x22, true, List.replicate 47 8, 0⟩
  on (linkAt 1 5 [(F.LINK_MAP_CFG_lead, 8)]) fun x =>
    setDir { wr x R.LINK_TRAIN 40201 with lk := { x.lk with next := 40202 } } 0
      { dirOf x 0 with now := ⟨0x21, true, List.replicate 47 7, 0⟩, inbox := [⟨0x22, p, 40202⟩, ⟨0x23, p, 40203⟩] }

/-- 0x22 is acknowledged for train 40 210 (worked example, chapter 10). -/
theorem test_map_scheduled : after (.mapPropose 0) proposedTo (fun t =>
    (t.chip.lk.dn.sched.map fun s => (s.map.id, s.at_)) == some (0x22, 40210) && fget t.chip F.LINK_MAP_STATUS_d_next == 0x22) = true := by
  decide +kernel

/-- Carriage 12's segment in the ring: header word 0x8240_B00C, 588 bytes, the word 0xEDCB_AA08 as 0xAA, 0xCB, 0xED (worked example,
chapter 11). -/
theorem test_ring_entry : after .ringEntry
    (on (up [(F.GEN_ROLE_role, 2), (F.CARR_CFG_en 12, 1), (F.CARR_CFG_ch 12, 4), (F.HOST_RING_CFG_en, 1), (F.HOST_RING_CFG_pages, 64),
      (F.HOST_RING_CFG_types, 31)]) fun x => { x with toOut := [⟨12, 0, 0xB, List.replicate 764 0 ++ [8, 0xAA, 0xCB, 0xED], some 0⟩] })
    (fun t => fget t.chip F.HOST_RING_WR_wr == 588 && (t.mem.cmem.filter fun e => decide (e.1 < 4) || decide (584 < e.1)) ==
      [(0, 0x0C), (1, 0xB0), (2, 0x40), (3, 0x82), (585, 0xAA), (586, 0xCB), (587, 0xED)]) = true := by decide +kernel

/-- g = 3.0e-5 and t = 60 fs give −86 dBFS, 0xAA (worked example, chapter 3). -/
theorem test_spur_high : spurFigure [31, -31, 31, -31, 0, 0, 0, 0, 600, -600, 600, -600] (List.replicate 12 0) = -86 := by decide +kernel

/-- g = 1.5e-5 and t = 8 fs give −100 dBFS, 0x9C (worked example, chapter 3). -/
theorem test_spur_low : spurFigure [16, -16, 16, -16, 0, 0, 0, 0, 80, -80, 80, -80] (List.replicate 12 0) = -100 := by decide +kernel

/-- A lane's mode and frequency in kHz. -/
def laneAm (n std khz : Nat) : List (Fld × Nat) :=
  let sb := (2 * khz + 1280) / 2560
  [(F.LANE_MODE_std n, std), (F.LANE_INPUT_ain n, 1), (F.LANE_INPUT_sb n, sb),
    (F.LANE_TUNE_freq n, tcomp 32 (((khz : Int) - 1280 * sb) * 2 ^ 32 / 5120))]

/-- Slalom leaves 2400 kHz for 2394 kHz with a clearance of 22 kHz (worked example, chapter 13). -/
theorem test_slalom_move : after .slalomMove
    (on (up ([(F.CLK_STATUS_state, 3), (F.CLK_CONV_CFG_mode, 3), (F.CLK_CONV_CFG_fnom, 2400), (F.CLK_CONV_NOW_f, 2400),
      (F.CLK_CONV_NOW_mode_now, 3), (F.CLK_SLALOM_clear, 20)] ++ laneAm 40 2 9420 ++ laneAm 41 5 6095 ++ laneAm 42 2 12005)) fun x =>
        [40, 41, 42].foldl (fun y n => setLane y n { laneOf y n with live := true }) x)
    (fun t => fget t.chip F.CLK_CONV_NOW_f == 0x95A && fget t.chip F.CLK_CONV_NOW_clear_now == 0x016) = true := by decide +kernel

/-- Lane 18's programme moves to lane 23 with `ofs` 0x3_6000 (worked example, chapter 17). -/
theorem test_migration_starts : after .bistSchedule
    (up [(F.GEN_ROLE_role, 1), (F.BIST_CTRL_en, 1), (F.BIST_SPARES_next, 18), (F.LANE_MODE_std 18, 1), (F.LANE_STATE 18, 2),
      (F.LANE_MODE_std 7, 0), (F.LANE_MODE_std 15, 0)])
    (fun t => fget t.chip (F.LANE_PHASE_ofs 23) == 0x36000 && (fget t.chip F.BIST_STATUS_phase == 1 && stdOf t.chip 23 == 1)) = true := by
  decide +kernel

/-- FOLLOW_SET's guard, bias, margin, line and fade (worked example, chapter 7). -/
theorem test_follow_set :
    (followOf (followSet (args (up [(F.LANE_MODE_std 54, 4), (F.LANE_STATE 54, 2)])
      [(0, 54), (1, 0xC4), (2, 0x07D0500C), (3, 0x00140000)])).st.chip 54).map (fun r => (r.policy, r.guard, r.bias, r.margin, r.line, r.fade)) =
      some (0xC4, 2000, 80, 12, 0, 20) := by decide +kernel

/-- B loses byte 0 at its 7th bit and keeps its message (worked example, chapter 12). -/
theorem test_arbitration_lost : after (.attnRetry (.lost 0 6)) (attnAt (msgOf 0 0))
    (fun t => fget t.chip F.TWB_LOST_count == 1 && t.chip.twb.msg.isSome) = true := by decide +kernel

/-- An empty queue leaves the state as it is. -/
theorem test_idle : step (up []) = .next (up []) := by rfl

end Sys2Proof.Tests
end

section
/-! Plain register writes (R6, R473): the value rule bit by bit, what a write leaves, and the statement about access types. -/
namespace Sys2Proof.Machine

/-- A merged RW value takes the written bit where the row has it RW, and keeps the old bit elsewhere. -/
theorem rwMerge_bit (a : Nat) (old v : Word) (r : RegRow) (i : Nat) (hr : regRow a = some r) (hi : i < 32) :
    (rwMerge a old v).getLsbD i = if r.rw.testBit i then v.getLsbD i else old.getLsbD i := by
  simp only [rwMerge, hr, BitVec.getLsbD_or, BitVec.getLsbD_and, BitVec.getLsbD_not, BitVec.getLsbD_ofNat, hi]
  cases r.rw.testBit i <;> simp

/-- At a register, a plain write is one write of the merged word less the W1C bits written 1. -/
theorem plainWrite_of_row (x : Chip) (a : Nat) (v : Word) (r : RegRow) (hr : regRow a = some r) :
    plainWrite x a v = wr x a (rwMerge a (rd x a) v &&& ~~~ (v &&& BitVec.ofNat 32 r.w1c)) := by
  simp only [plainWrite, hr]

/-- Where no register is, a plain write changes nothing (R459). -/
theorem plainWrite_of_no_row (x : Chip) (a : Nat) (v : Word) (hr : regRow a = none) : plainWrite x a v = x := by
  simp only [plainWrite, hr]

/-- A bit of the register after a plain write to it. -/
theorem rd_plainWrite_same_bit (x : Chip) (a : Nat) (v : Word) (r : RegRow) (i : Nat) (hr : regRow a = some r) (hi : i < 32) :
    (rd (plainWrite x a v) a).getLsbD i =
      ((if r.rw.testBit i then v.getLsbD i else (rd x a).getLsbD i) && !(v.getLsbD i && r.w1c.testBit i)) := by
  rw [plainWrite_of_row x a v r hr, rd_wr_same, BitVec.getLsbD_and, rwMerge_bit a _ v r i hr hi]
  simp only [BitVec.getLsbD_not, BitVec.getLsbD_and, BitVec.getLsbD_ofNat, hi, decide_true, Bool.true_and]

/-- A plain write leaves every other register. -/
theorem rd_plainWrite_ne (x : Chip) (a b : Nat) (v : Word) (h : b ≠ a) : rd (plainWrite x a v) b = rd x b := by
  cases hr : regRow a with
  | none => rw [plainWrite_of_no_row x a v hr]
  | some r => rw [plainWrite_of_row x a v r hr, rd_wr_ne _ _ _ _ h]

/-- A plain write leaves everything but the registers. -/
theorem plainWrite_rest (x : Chip) (a : Nat) (v : Word) : plainWrite x a v = { x with regs := (plainWrite x a v).regs } := by
  cases hr : regRow a with
  | none => rw [plainWrite_of_no_row x a v hr]
  | some r => rw [plainWrite_of_row x a v r hr, ← wr_rest]

/-- Settles O11: bit by bit at the register written, then the frame, then an address without a register. -/
theorem writeAccessTypes : Obligations.WriteAccessTypes := by
  unfold Obligations.WriteAccessTypes
  refine ⟨rd_plainWrite_same_bit, fun x a v => ⟨plainWrite_rest x a v, fun b hb => ?_⟩, plainWrite_of_no_row⟩
  exact rd_plainWrite_ne x a b v (List.ne_of_not_mem_cons hb)

end Sys2Proof.Machine
end

section
/-! Frames and event numbers: how "only these registers" composes, what raising an event adds to it, and the statement about the
numbering of events. -/
namespace Sys2Proof.Machine

/-! What a chain of updates leaves (R5). -/

theorem onlyRegs_trans {l : List Nat} {x y z : Chip} (h1 : OnlyRegs l x y) (h2 : OnlyRegs l y z) : OnlyRegs l x z := by
  refine ⟨h2.1.trans ?_, fun b hb => (h2.2 b hb).trans (h1.2 b hb)⟩
  rw [h1.1]

theorem onlyRegs_wr {l : List Nat} {a : Nat} (x : Chip) (v : Word) (h : a ∈ l) : OnlyRegs l x (wr x a v) :=
  ⟨wr_rest x a v, fun b hb => rd_wr_ne x a b v fun e => hb (e ▸ h)⟩

theorem onlyRegs_fset {l : List Nat} {f : Fld} (x : Chip) (v : Nat) (h : f.addr ∈ l) : OnlyRegs l x (fset x f v) :=
  onlyRegs_wr x _ h

theorem onlyRegs_ite {l : List Nat} {x y z : Chip} (c : Prop) [Decidable c] (hy : OnlyRegs l x y) (hz : OnlyRegs l x z) :
    OnlyRegs l x (if c then y else z) := by
  split <;> assumption

/-- A change of registers alone, then one of registers and log. -/
theorem onlyRegs_then_log {l : List Nat} {x y z : Chip} (h1 : OnlyRegs l x y) (h2 : OnlyRegsLog l y z) : OnlyRegsLog l x z := by
  refine ⟨h2.1.trans ?_, fun b hb hl => (h2.2 b hb hl).trans (h1.2 b hb)⟩
  rw [h1.1]

theorem onlyRegsLog_of_onlyRegs {l : List Nat} {x y : Chip} (h : OnlyRegs l x y) : OnlyRegsLog l x y := by
  refine ⟨h.1.trans ?_, fun b hb _ => h.2 b hb⟩
  rw [h.1]

theorem onlyRegsLog_raiseAt (l : List Nat) (x : Chip) (t : BitVec 48) (src code : Nat) (args : List Byte) (c : Option CauseRef) :
    OnlyRegsLog l x (raiseAt x t src code args c) :=
  ⟨raiseAt_rest x t src code args c, fun b _ hb => rd_raiseAt x t src code args c b hb⟩

theorem onlyRegsLog_raise (l : List Nat) (x : Chip) (src code : Nat) (args : List Byte) :
    OnlyRegsLog l x (raise x src code args) := onlyRegsLog_raiseAt ..

/-- A change of registers alone moves no source's number. -/
theorem nextSeq_onlyRegs {l : List Nat} {x y : Chip} (h : OnlyRegs l x y) (src : Nat) : nextSeq y src = nextSeq x src := by
  rw [h.1]
  rfl

/-! The sources' numbers (R28). -/

theorem nextSeq_raiseAt (x : Chip) (t : BitVec 48) (src code : Nat) (args : List Byte) (c : Option CauseRef) (j : Nat) :
    nextSeq (raiseAt x t src code args c) j = if j = src then nextSeq x src + 1 else nextSeq x j := by
  rw [nextSeq, raiseAt_seqs, smGet_smPut]
  rfl

theorem nextSeq_raise_same (x : Chip) (src code : Nat) (args : List Byte) :
    nextSeq (raise x src code args) src = nextSeq x src + 1 := by
  rw [raise, nextSeq_raiseAt, if_pos rfl]

/-- A reset that is a start empties the log, whatever it keeps of registers and keep island. -/
theorem coldChip_lg (x : Chip) (kind cause : Nat) : (coldChip x kind cause).lg = Chip.reset.lg := by
  unfold coldChip
  dsimp only
  rw [fsets_rest]

/-- Settles O6: the counters' law of an event, its frame, and the empty log after a start. -/
theorem eventNumbering : Obligations.EventNumbering := by
  unfold Obligations.EventNumbering
  refine ⟨fun x t src code args c => ⟨?_, fun j hj => ?_, onlyRegsLog_raiseAt [] x t src code args c⟩,
    fun s kind cause src => ⟨?_, rfl⟩⟩
  · rw [nextSeq_raiseAt, if_pos rfl]
  · rw [nextSeq_raiseAt, if_neg hj]
  · change smGet _ (coldChip s.chip kind cause).lg.seqs src = 0
    rw [coldChip_lg]
    rfl

end Sys2Proof.Machine
end

section
/-! Staged lane settings (R15, R16, R21, R115, R468): where a lane's addresses lie, what the maps of staged and captured words
hold, the rule of each command, and the statement about them. -/
namespace Sys2Proof.Machine

/-! Addresses of a lane (R116, R468). -/

theorem stagedOffs_lt {off : Nat} (h : off ∈ stagedOffs) : off < 0x40 := by
  simp only [stagedOffs, List.mem_cons, List.not_mem_nil, or_false] at h
  omega

theorem laneBase_index {n off : Nat} (h : off < 0x40) : (laneBase n + off - 0x1000) / 0x40 = n := by
  simp only [laneBase]
  omega

theorem laneBase_offset {n off : Nat} (h : off < 0x40) : (laneBase n + off) % 0x40 = off := by
  simp only [laneBase]
  omega

theorem isLaneAddr_laneBase {n off : Nat} (hn : n < 104) (h : off < 0x40) : isLaneAddr (laneBase n + off) = true := by
  simp only [isLaneAddr, Bool.and_eq_true, decide_eq_true_eq]
  simp only [laneBase]
  omega

/-- A lane's staged registers share its block of 64 octets, and `LANEn_CTRL` is not one of them. -/
theorem stagedAddrs_block {n a : Nat} (h : a ∈ stagedAddrs n) : a / 0x40 = laneBase n / 0x40 ∧ a ≠ R.LANE_CTRL n := by
  obtain ⟨off, ho, rfl⟩ := List.mem_map.1 h
  simp only [stagedOffs, List.mem_cons, List.not_mem_nil, or_false] at ho
  simp only [laneBase, R.LANE_CTRL]
  omega

/-! Maps of words, by lane. -/

/-- A map filtered by key. -/
theorem smFind_filter {α : Type} (p : Nat → Bool) (a : Nat) (m : SMap α) :
    smFind a (m.filter fun e => p e.1) = if p a then smFind a m else none := by
  induction m with
  | nil => simp [smFind]
  | cons e m ih =>
    obtain ⟨k, v⟩ := e
    by_cases hk : a = k
    · subst hk
      cases hp : p a <;> simp [hp, smFind, ih]
    · cases hp : p k <;> simp [hp, smFind, hk, ih]

theorem smFind_notLane_in {m : SMap Word} {n a : Nat} (h : a / 0x40 = laneBase n / 0x40) : smFind a (notLane m n) = none := by
  rw [notLane, smFind_filter fun k => k / 0x40 != laneBase n / 0x40]
  simp [h]

theorem smFind_notLane_out {m : SMap Word} {n a : Nat} (h : a / 0x40 ≠ laneBase n / 0x40) :
    smFind a (notLane m n) = smFind a m := by
  rw [notLane, smFind_filter fun k => k / 0x40 != laneBase n / 0x40]
  simp [h]

/-- A bit of a word with the RW bits of another laid over it. -/
theorem overRw_bit (w v : Word) (m i : Nat) (hi : i < 32) :
    ((w &&& ~~~ BitVec.ofNat 32 m) ||| (v &&& BitVec.ofNat 32 m)).getLsbD i =
      if m.testBit i then v.getLsbD i else w.getLsbD i := by
  simp only [BitVec.getLsbD_or, BitVec.getLsbD_and, BitVec.getLsbD_not, BitVec.getLsbD_ofNat, hi]
  cases m.testBit i <;> simp

/-- An RW bit of a register reads from the map laid over it. -/
theorem overlay_rw_bit {x : Chip} {m : SMap Word} {a : Nat} {v : Word} {r : RegRow} {i : Nat} (hm : smFind a m = some v)
    (hr : regRow a = some r) (hi : i < 32) (hb : r.rw.testBit i = true) : (overlay x m a).getLsbD i = v.getLsbD i := by
  simp only [overlay, hm, hr]
  rw [overRw_bit _ _ _ _ hi, if_pos hb]

/-! LANE_STAGED_WRITE. -/

theorem exec_laneStagedWrite {n off : Nat} (v : Word) {s : State} (hn : n < 104) (ho : off ∈ stagedOffs)
    (hm : mgmtUp s.chip = true) :
    exec (.laneStagedWrite (laneBase n + off) v) s = .next (onChip (fun x => stageWrite x (laneBase n + off) v) s) := by
  have hlt := stagedOffs_lt ho
  have hc : isLaneAddr (laneBase n + off) = true ∧ (laneBase n + off) % 0x40 ∈ stagedOffs ∧ mgmtUp s.chip = true :=
    ⟨isLaneAddr_laneBase hn hlt, (laneBase_offset hlt).symm ▸ ho, hm⟩
  exact congrArg Host.Outcome.next (if_pos hc)

/-- A lane that is no pool lane holds the word written as staged (R15). -/
theorem stageWrite_held {x : Chip} {n off : Nat} (v : Word) (hlt : off < 0x40) (hp : fon x (F.LANE_TANDEM_pool n) = false) :
    stageWrite x (laneBase n + off) v =
      fset { x with staged := smInsert (laneBase n + off) (rwMerge (laneBase n + off) (stagedRead x (laneBase n + off)) v) x.staged }
        (F.LANE_CTRL_staged n) 1 := by
  simp only [stageWrite, laneBase_index hlt, isPool, hp, Bool.false_eq_true, false_and, if_false]

/-- A pool lane's mode, input, tuning and filter take no write (R176). -/
theorem stageWrite_pool {x : Chip} {n off : Nat} (v : Word) (ho : off ∈ [0x00, 0x08, 0x0C, 0x10])
    (hlt : off < 0x40) (hp : fon x (F.LANE_TANDEM_pool n) = true) :
    stageWrite x (laneBase n + off) v = badLaneWrite x n (laneBase n + off) v.toNat := by
  simp only [stageWrite, laneBase_index hlt, laneBase_offset hlt, isPool, hp, ho, and_self, if_true]

/-- Where a word is staged, a read of the register returns its RW bits. -/
theorem stagedRead_rw_bit {x : Chip} {a : Nat} {w : Word} {r : RegRow} {i : Nat} (hm : smFind a x.staged = some w)
    (hr : regRow a = some r) (hi : i < 32) (hb : r.rw.testBit i = true) : (stagedRead x a).getLsbD i = w.getLsbD i := by
  simp only [stagedRead, hm]
  exact overlay_rw_bit hm hr hi hb

/-! DISCARD. -/

theorem exec_discard {n : Nat} {s : State} (hn : n < 104) (hm : mgmtUp s.chip = true) :
    exec (.discard n) s = .next (onChip (fun x => discardStaged x n) s) :=
  congrArg Host.Outcome.next (if_pos ⟨hn, hm⟩)

/-! APPLY. -/

theorem exec_applyStaged {n : Nat} {s : State} (hn : n < 104) (hm : mgmtUp s.chip = true) :
    exec (.applyStaged n) s = .next (onChip (fun x => capture x n) s) :=
  congrArg Host.Outcome.next (if_pos ⟨hn, hm⟩)

theorem exec_applyStaged_pending {n : Nat} {s : State} (h : fon s.chip (F.LANE_CTRL_apply n) = true) :
    exec (.applyStaged n) s = .next s := by
  refine congrArg Host.Outcome.next (ite_eq_right_iff.2 fun _ => ?_)
  simp only [onChip, capture, h, if_true]

/-- The staged words of lane n as captured ones: what APPLY does before it judges them (R468). -/
def takeStaged (x : Chip) (n : Nat) : Chip :=
  { fset { x with staged := notLane x.staged n } (F.LANE_CTRL_staged n) 0 with
    captured := (ofLane x.staged n).foldl (fun m e => smInsert e.1 e.2 m) (notLane x.captured n) }

/-- A refused capture is counted: the rejected register is `LANEn_INPUT` (R94). -/
def countRefusal (x : Chip) (n a : Nat) : Chip :=
  if a = R.LANE_INPUT n then count x R.SPL_REJECT_COUNT F.SPL_STATUS_reject_wrap 1 else x

/-- Illegal values are discarded with their event (R21). -/
theorem capture_illegal {x : Chip} {n a v : Nat} (h0 : fon x (F.LANE_CTRL_apply n) = false)
    (hr : rejection x n (ofLane x.staged n) = some (a, v)) :
    capture x n = dropCaptured (badLaneWrite (countRefusal (takeStaged x n) n a) n a v) n := by
  simp only [capture, h0, hr]
  rfl

/-- The staged words of lane n captured, `apply` at 1, held or due at the next output instant (R468). -/
def awaitApply (x : Chip) (n : Nat) (held : Bool) : Chip :=
  fflag (fset (takeStaged x n) (F.LANE_CTRL_apply n) 1) (F.LANE_CTRL_held n) held

/-- Legal values wait for their instant (R468). -/
theorem capture_legal {x : Chip} {n : Nat} (h0 : fon x (F.LANE_CTRL_apply n) = false)
    (hr : rejection x n (ofLane x.staged n) = none) :
    capture x n = awaitApply x n (laneHeld x n || fadeHolds x n (ofLane x.staged n)) := by
  simp only [capture, h0, hr]
  rfl

theorem rd_takeStaged_ne (x : Chip) (n b : Nat) (h : b ≠ R.LANE_CTRL n) : rd (takeStaged x n) b = rd x b :=
  rd_fset_ne { x with staged := notLane x.staged n } (F.LANE_CTRL_staged n) 0 b h

theorem fget_takeStaged (x : Chip) (n : Nat) : fget (takeStaged x n) (F.LANE_CTRL_staged n) = 0 :=
  fget_fset_same { x with staged := notLane x.staged n } (F.LANE_CTRL_staged n) 0 (by simp [F.LANE_CTRL_staged])

theorem countRefusal_staged (x : Chip) (n a : Nat) : (countRefusal x n a).staged = x.staged := by
  unfold countRefusal
  split
  · rw [count_rest]
  · rfl

/-- The count of refusals writes two registers of the splitter. -/
theorem rd_countRefusal_ne (x : Chip) (n a b : Nat) (h1 : b ≠ R.SPL_REJECT_COUNT) (h2 : b ≠ R.SPL_STATUS) :
    rd (countRefusal x n a) b = rd x b := by
  unfold countRefusal
  split
  · exact rd_count_ne x _ _ 1 b h1 h2
  · rfl

theorem rd_countRefusal (x : Chip) (n a : Nat) :
    rd (countRefusal x n a) R.SPL_REJECT_COUNT = rd x R.SPL_REJECT_COUNT + (if a = R.LANE_INPUT n then 1 else 0) := by
  unfold countRefusal
  split
  · rw [rd_count_same x _ _ 1 (by decide), BitVec.ofNat_add, BitVec.ofNat_toNat, BitVec.setWidth_eq]
    rfl
  · exact (BitVec.add_zero _).symm

theorem fon_fflag_same (x : Chip) (f : Fld) (b : Bool) (h : f.lo + f.width ≤ 32) (hw : f.width = 1) : fon (fflag x f b) f = b := by
  unfold fon fflag
  rw [fget_fset_same x f _ h, hw]
  cases b <;> rfl

/-! LANE_APPLIED. -/

theorem exec_laneApplied {n : Nat} {s : State} (hn : n < 104) (hm : mgmtUp s.chip = true)
    (ha : fon s.chip (F.LANE_CTRL_apply n) = true) (hh : fon s.chip (F.LANE_CTRL_held n) = false) :
    exec (.laneApplied n) s = .next (onChip (fun x => laneApplied x n) s) :=
  congrArg Host.Outcome.next (if_pos ⟨hn, hm, ha, hh⟩)

theorem exec_laneApplied_not_due {n : Nat} {s : State}
    (h : fon s.chip (F.LANE_CTRL_apply n) = false ∨ fon s.chip (F.LANE_CTRL_held n) = true) :
    exec (.laneApplied n) s = .next s := by
  refine congrArg Host.Outcome.next (if_neg ?_)
  rintro ⟨_, _, ha, hh⟩
  rcases h with h | h
  · exact Bool.false_ne_true (h.symm.trans ha)
  · exact Bool.false_ne_true (hh.symm.trans h)

/-- Due values that are illegal by now are discarded with their event (R21). -/
theorem applyDue_illegal {told : Bool} {x : Chip} {n a v : Nat} (hr : rejection x n (ofLane x.captured n) = some (a, v)) :
    applyDue told x n = dropCaptured (badLaneWrite (countRefusal x n a) n a v) n := by
  simp only [applyDue, hr]
  rfl

/-! Values put in force. -/

/-- Words written one after another, each a function of its address alone. -/
theorem rd_foldl_wr (g : Nat → Word) (b : Nat) (l : List Nat) : ∀ x : Chip,
    rd (l.foldl (fun y a => wr y a (g a)) x) b = if b ∈ l then g b else rd x b := by
  induction l with
  | nil => exact fun x => rfl
  | cons a l ih =>
    intro x
    rw [List.foldl_cons, ih, rd_wr]
    by_cases hl : b ∈ l
    · simp [hl]
    · by_cases ha : b = a <;> simp [hl, ha]

/-- Captured values dropped: `LANEn_CTRL` alone of the registers changes. -/
theorem rd_dropCaptured_ne (x : Chip) (n b : Nat) (h : b ≠ R.LANE_CTRL n) : rd (dropCaptured x n) b = rd x b := by
  refine rd_fsets_ne b _ _ fun e he => ?_
  simp only [List.mem_cons, List.not_mem_nil, or_false] at he
  rcases he with rfl | rfl <;> exact h

theorem fget_dropCaptured_apply (x : Chip) (n : Nat) : fget (dropCaptured x n) (F.LANE_CTRL_apply n) = 0 := by
  simp only [dropCaptured, fsets]
  rw [fget_fset_apart _ _ _ _ (by simp [F.LANE_CTRL_apply]) (by simp [F.LANE_CTRL_apply, F.LANE_CTRL_held]),
    fget_fset_same _ _ _ (by simp [F.LANE_CTRL_apply])]
  rfl

theorem fget_dropCaptured_held (x : Chip) (n : Nat) : fget (dropCaptured x n) (F.LANE_CTRL_held n) = 0 := by
  simp only [dropCaptured, fsets]
  rw [fget_fset_same _ _ _ (by simp [F.LANE_CTRL_held])]
  rfl

theorem rd_putCaptured {x : Chip} {n b : Nat} (h : b ≠ R.LANE_CTRL n) :
    rd (putCaptured x n) b = if b ∈ stagedAddrs n then overlay x x.captured b else rd x b := by
  simp only [putCaptured]
  rw [rd_dropCaptured_ne _ _ _ h, rd_foldl_wr]

/-! The run of a lane under new settings. -/

theorem applyRun_off {told : Bool} {x : Chip} {n : Nat} {o c : LaneCfg} {p : Word} (h : c.std = mOff) :
    applyRun told x n o c p = showPlan x n := by
  simp only [applyRun, h, if_true]

theorem applyRun_stopped {told : Bool} {x : Chip} {n : Nat} {o c : LaneCfg} {p : Word} (h : c.std ≠ mOff)
    (hr : laneMayRun x = false) : applyRun told x n o c p = showPlan (wr x (R.LANE_STATUS n) (statusStart c.std)) n := by
  simp only [applyRun, h, if_false, hr, Bool.false_eq_true]

theorem applyRun_runs {x : Chip} {n : Nat} {o c : LaneCfg} {p : Word} (h : c.std ≠ mOff) (hr : laneMayRun x = true) :
    let y := applyLogs (if needsReset o c || !(laneOf x n).live then syncReset x n else applyOptions x n o c p) n o c
    applyRun false x n o c p = if c.std = mSvc ∧ o.std ≠ mSvc then svcEval y n else y := by
  simp only [applyRun, h, if_false, hr, if_true, Bool.false_and, Bool.false_eq_true]

/-! The statement, clause by clause. -/

/-- A staged write leaves every value in force and shows in the read of its register. -/
theorem stageWrite_effect {x : Chip} {n off : Nat} (v : Word) (ho : off ∈ stagedOffs) (hp : fon x (F.LANE_TANDEM_pool n) = false) :
    fget (stageWrite x (laneBase n + off) v) (F.LANE_CTRL_staged n) = 1 ∧
      OnlyRegs [R.LANE_CTRL n] { x with staged := (stageWrite x (laneBase n + off) v).staged } (stageWrite x (laneBase n + off) v) ∧
      ∀ r i, regRow (laneBase n + off) = some r → i < 32 → r.rw.testBit i = true →
        (stagedRead (stageWrite x (laneBase n + off) v) (laneBase n + off)).getLsbD i = v.getLsbD i := by
  rw [stageWrite_held v (stagedOffs_lt ho) hp]
  refine ⟨fget_fset_same _ _ _ (by simp [F.LANE_CTRL_staged]), onlyRegs_fset _ _ (List.mem_singleton.2 rfl), fun r i hr hi hb => ?_⟩
  rw [stagedRead_rw_bit (smFind_insert_same _ _ _) hr hi hb, rwMerge_bit _ _ _ _ _ hr hi, if_pos hb]

/-- DISCARD drops what is staged of its lane, and nothing else. -/
theorem discardStaged_effect (x : Chip) (n : Nat) :
    fget (discardStaged x n) (F.LANE_CTRL_staged n) = 0 ∧
      (∀ a, a ∈ stagedAddrs n → smFind a (discardStaged x n).staged = none) ∧
      (∀ a, a / 0x40 ≠ laneBase n / 0x40 → smFind a (discardStaged x n).staged = smFind a x.staged) ∧
      OnlyRegs [R.LANE_CTRL n] { x with staged := (discardStaged x n).staged } (discardStaged x n) :=
  ⟨fget_fset_same _ _ _ (by simp [F.LANE_CTRL_staged]), fun _ ha => smFind_notLane_in (stagedAddrs_block ha).1,
    fun _ ha => smFind_notLane_out ha, onlyRegs_fset _ _ (List.mem_singleton.2 rfl)⟩

/-- What an illegal APPLY has done when it raises BAD_LANE_WRITE. -/
theorem countRefusal_takeStaged (x : Chip) (n a : Nat) :
    (∀ b, b ∈ stagedAddrs n → smFind b (countRefusal (takeStaged x n) n a).staged = none) ∧
      fget (countRefusal (takeStaged x n) n a) (F.LANE_CTRL_staged n) = 0 ∧
      rd (countRefusal (takeStaged x n) n a) R.SPL_REJECT_COUNT =
        rd x R.SPL_REJECT_COUNT + (if a = R.LANE_INPUT n then 1 else 0) := by
  refine ⟨fun b hb => ?_, ?_, ?_⟩
  · rw [countRefusal_staged]
    exact smFind_notLane_in (stagedAddrs_block hb).1
  · rw [fget, rd_countRefusal_ne]
    · exact fget_takeStaged x n
    · simp only [F.LANE_CTRL_staged, R.LANE_CTRL, R.SPL_REJECT_COUNT]
      omega
    · simp only [F.LANE_CTRL_staged, R.LANE_CTRL, R.SPL_STATUS]
      omega
  · rw [rd_countRefusal, rd_takeStaged_ne]
    simp only [R.LANE_CTRL, R.SPL_REJECT_COUNT]
    omega

/-- A legal APPLY leaves nothing staged and its values captured, `apply` at 1. -/
theorem awaitApply_effect (x : Chip) (n : Nat) (b : Bool) :
    fget (awaitApply x n b) (F.LANE_CTRL_apply n) = 1 ∧ fget (awaitApply x n b) (F.LANE_CTRL_staged n) = 0 ∧
      fon (awaitApply x n b) (F.LANE_CTRL_held n) = b ∧
      OnlyRegs [R.LANE_CTRL n] { x with staged := (awaitApply x n b).staged, captured := (awaitApply x n b).captured }
        (awaitApply x n b) := by
  refine ⟨?_, ?_, fon_fflag_same _ _ _ (by simp [F.LANE_CTRL_held]) rfl, ?_⟩
  · rw [awaitApply, fflag, fget_fset_apart _ _ _ _ (by simp [F.LANE_CTRL_apply]) (by simp [F.LANE_CTRL_apply, F.LANE_CTRL_held]),
      fget_fset_same _ _ _ (by simp [F.LANE_CTRL_apply])]
    rfl
  · rw [awaitApply, fflag, fget_fset_apart _ _ _ _ (by simp [F.LANE_CTRL_staged]) (by simp [F.LANE_CTRL_staged, F.LANE_CTRL_held]),
      fget_fset_apart _ _ _ _ (by simp [F.LANE_CTRL_staged]) (by simp [F.LANE_CTRL_apply, F.LANE_CTRL_staged]), fget_takeStaged]
  · have hc : R.LANE_CTRL n ∈ [R.LANE_CTRL n] := List.mem_singleton.2 rfl
    have ht : OnlyRegs [R.LANE_CTRL n] { x with staged := (takeStaged x n).staged, captured := (takeStaged x n).captured }
        (takeStaged x n) := ⟨rfl, fun b hb => rd_takeStaged_ne x n b fun e => hb (List.mem_singleton.2 e)⟩
    exact onlyRegs_trans ht (onlyRegs_trans (onlyRegs_fset _ _ hc) (onlyRegs_fset _ _ hc))

/-- Settles O33: each command by its rule, then the values put in force and the run under them. -/
theorem laneSettingsCommands : Obligations.LaneSettingsCommands := by
  unfold Obligations.LaneSettingsCommands
  refine ⟨fun n off v s hn ho hm hp => ?staged, fun n off v s hn ho hm hp => ?pool, fun n s hn hm => ?discard,
    fun n s => exec_applyStaged_pending, fun n s hn hm h0 => ⟨fun a v hr => ?illegal, fun hr => ?legal⟩,
    fun n s => exec_laneApplied_not_due, fun n s hn hm ha hh => ⟨fun a v hr => ?late, fun hr => ?applied⟩,
    fun x n _ => ⟨fget_dropCaptured_apply _ n, fget_dropCaptured_held _ n, fun a ha => ?put, fun a ha hc => ?kept⟩,
    fun x n o c p => ⟨applyRun_off, applyRun_stopped, rfl, applyRun_runs⟩⟩
  case staged =>
    obtain ⟨hs, hf, hb⟩ := stageWrite_effect v ho hp
    exact ⟨_, exec_laneStagedWrite v hn ho hm, rfl, hs, hf, hb⟩
  case pool =>
    have ho' : off ∈ stagedOffs := by
      simp only [stagedOffs, List.mem_cons, List.not_mem_nil, or_false] at ho ⊢
      omega
    rw [exec_laneStagedWrite v hn ho' hm, onChip, onChip, stageWrite_pool v ho (stagedOffs_lt ho') hp]
  case discard =>
    obtain ⟨h0, hin, hout, hf⟩ := discardStaged_effect s.chip n
    exact ⟨_, exec_discard hn hm, rfl, h0, hin, hout, hf⟩
  case illegal =>
    refine ⟨countRefusal (takeStaged s.chip n) n a, ?_, countRefusal_takeStaged s.chip n a⟩
    rw [exec_applyStaged hn hm, onChip, onChip, capture_illegal h0 hr]
  case legal =>
    obtain ⟨ha, hs, hh, hf⟩ := awaitApply_effect s.chip n (laneHeld s.chip n || fadeHolds s.chip n (ofLane s.chip.staged n))
    rw [exec_applyStaged hn hm, onChip, capture_legal h0 hr]
    exact ⟨_, rfl, rfl, ha, hs, hh, rfl, rfl, hf⟩
  case late =>
    rw [exec_laneApplied hn hm ha hh, onChip, onChip, laneApplied, applyDue_illegal hr]
    rfl
  case applied =>
    rw [exec_laneApplied hn hm ha hh, onChip, onChip, laneApplied]
    simp only [applyDue, hr]
  case put => rw [rd_putCaptured (stagedAddrs_block ha).2, if_pos ha]
  case kept => rw [rd_putCaptured hc, if_neg ha]

end Sys2Proof.Machine
end

section
/-! Resets of lanes and coaches, slack and LANE_GO (R24 to R26, R111, R353, R356): the rule of each command, what a coach's
slack window shows, and the statement about them. -/
namespace Sys2Proof.Machine

/-! LANE_RESET and COACH_RESET (R111). -/

theorem exec_laneReset {c p : Nat} {s : State} (hc : c < 13) (hp : p < 8) (hr : rfRuns s.chip = true)
    (hu : usesCoach (stdOf s.chip (8 * c + p)) = true) :
    exec (.laneReset c p) s = .next (onChip (fun x => syncReset x (8 * c + p)) s) :=
  congrArg Host.Outcome.next (if_pos ⟨hc, hp, hr, hu⟩)

theorem exec_laneReset_none {c p : Nat} {s : State}
    (h : usesCoach (stdOf s.chip (8 * c + p)) = false ∨ rfRuns s.chip = false) : exec (.laneReset c p) s = .next s := by
  refine congrArg Host.Outcome.next (if_neg ?_)
  rintro ⟨_, _, hr, hu⟩
  rcases h with h | h
  · exact Bool.false_ne_true (h.symm.trans hu)
  · exact Bool.false_ne_true (h.symm.trans hr)

/-- A lane that uses a coach slot counts its synchronising reset at its coach and raises the event before it begins. -/
theorem syncReset_of_coach {x : Chip} {c p : Nat} (hp : p < 8) (hu : usesCoach (stdOf x (8 * c + p)) = true) :
    syncReset x (8 * c + p) = laneBegin (raise (count x (R.COACH_RESET_COUNT c) (F.COACH_STATUS_reset_wrap c) 1)
      (srcLane (8 * c + p)) 0x02 (b1 (8 * c + p) ++ b1 (stdOf x (8 * c + p)) ++
        b2s (settleSamples (cfgOf x (8 * c + p))))) (8 * c + p) := by
  have hc : (8 * c + p) / 8 = c := by omega
  simp only [syncReset, resetLog, hu, if_true, hc]

theorem exec_coachReset {c : Nat} {s : State} (hc : c < 13) (hr : rfRuns s.chip = true) :
    exec (.coachReset c) s = .next (onChip (fun x => coachReset x c 0) s) :=
  congrArg Host.Outcome.next (if_pos ⟨hc, hr⟩)

theorem exec_coachReset_down {c : Nat} {s : State} (hr : rfRuns s.chip = false) : exec (.coachReset c) s = .next s := by
  refine congrArg Host.Outcome.next (if_neg ?_)
  rintro ⟨_, h⟩
  exact Bool.false_ne_true (hr.symm.trans h)

/-- The coach's count leaves the slack that its window shows. -/
theorem fget_count_slack (x : Chip) (c : Nat) :
    fget (count x (R.COACH_RESET_COUNT c) (F.COACH_STATUS_reset_wrap c) 1) (F.COACH_SLACK_now c) = fget x (F.COACH_SLACK_now c) := by
  have h1 : (F.COACH_SLACK_now c).addr ≠ R.COACH_RESET_COUNT c := by
    simp [F.COACH_SLACK_now, R.COACH_SLACK, R.COACH_RESET_COUNT]
  have h2 : (F.COACH_SLACK_now c).addr ≠ (F.COACH_STATUS_reset_wrap c).addr := by
    simp [F.COACH_SLACK_now, R.COACH_SLACK, F.COACH_STATUS_reset_wrap, R.COACH_STATUS]
  rw [fget, rd_count_ne _ _ _ _ _ h1 h2, fget]

theorem coachTold_eq (x : Chip) (c cause : Nat) :
    coachTold x c cause = raise (fset (count x (R.COACH_RESET_COUNT c) (F.COACH_STATUS_reset_wrap c) 1) (F.COACH_SLACK_min c)
      (fget x (F.COACH_SLACK_now c))) (srcCoach c) 0x03 (b1 cause) := by
  simp only [coachTold, fget_count_slack]

/-- Without an apply that waits, a running position that uses a coach slot begins afresh, and any other is left. -/
theorem coachLane_without_apply {x : Chip} {n : Nat} (h : fon x (F.LANE_CTRL_apply n) = false) :
    coachLane x n = if (laneOf x n).live && usesCoach (stdOf x n) then laneBegin x n else x := by
  simp only [coachLane, h, Bool.false_and, Bool.false_eq_true, if_false]

/-! SLACK_LOW (R24, R25). -/

theorem exec_slackLow {c now : Nat} {s : State} (hc : c < 13) (hd : dUp s.chip = true) :
    exec (.slackLow c now) s = .next (onChip (fun x => slackWindow x c (min now 100)) s) :=
  congrArg Host.Outcome.next (if_pos ⟨hc, hd⟩)

theorem exec_slackLow_down {c now : Nat} {s : State} (hd : dUp s.chip = false) : exec (.slackLow c now) s = .next s := by
  refine congrArg Host.Outcome.next (if_neg ?_)
  rintro ⟨_, h⟩
  exact Bool.false_ne_true (hd.symm.trans h)

/-- A window's slack shown, the lowest kept: what SLACK_LOW does before its event. -/
def slackShown (x : Chip) (c now : Nat) : Chip :=
  let x1 := fset x (F.COACH_SLACK_now c) now
  if now < fget x1 (F.COACH_SLACK_min c) then fset x1 (F.COACH_SLACK_min c) now else x1

theorem slackWindow_eq (x : Chip) (c now : Nat) : slackWindow x c now =
    if now < 5 then raise (slackShown x c now) (srcCoach c) 0x04 (b1 now) else slackShown x c now := rfl

theorem fget_slack_min_after_now (x : Chip) (c now : Nat) :
    fget (fset x (F.COACH_SLACK_now c) now) (F.COACH_SLACK_min c) = fget x (F.COACH_SLACK_min c) :=
  fget_fset_apart _ _ _ _ (by simp [F.COACH_SLACK_min]) (by simp [F.COACH_SLACK_min, F.COACH_SLACK_now])

theorem fget_slackShown_now {now : Nat} (x : Chip) (c : Nat) (h : now ≤ 100) :
    fget (slackShown x c now) (F.COACH_SLACK_now c) = now := by
  have h1 : fget (fset x (F.COACH_SLACK_now c) now) (F.COACH_SLACK_now c) = now :=
    (fget_fset_same _ _ _ (by simp [F.COACH_SLACK_now])).trans (Nat.mod_eq_of_lt (by simp only [F.COACH_SLACK_now]; omega))
  simp only [slackShown]
  split
  · rw [fget_fset_apart _ _ _ _ (by simp [F.COACH_SLACK_now]) (by simp [F.COACH_SLACK_min, F.COACH_SLACK_now]), h1]
  · exact h1

theorem fget_slackShown_min {now : Nat} (x : Chip) (c : Nat) (h : now ≤ 100) :
    fget (slackShown x c now) (F.COACH_SLACK_min c) = min now (fget x (F.COACH_SLACK_min c)) := by
  simp only [slackShown, fget_slack_min_after_now]
  split
  next hlt =>
    rw [fget_fset_same _ _ _ (by simp [F.COACH_SLACK_min]), Nat.min_eq_left (Nat.le_of_lt hlt)]
    exact Nat.mod_eq_of_lt (by simp only [F.COACH_SLACK_min]; omega)
  next hge => rw [fget_slack_min_after_now, Nat.min_eq_right (Nat.le_of_not_lt hge)]

theorem onlyRegs_slackShown (x : Chip) (c now : Nat) : OnlyRegs [R.COACH_SLACK c] x (slackShown x c now) := by
  have hm : R.COACH_SLACK c ∈ [R.COACH_SLACK c] := List.mem_singleton.2 rfl
  have h1 : OnlyRegs [R.COACH_SLACK c] x (fset x (F.COACH_SLACK_now c) now) := onlyRegs_fset _ _ hm
  exact onlyRegs_ite _ (onlyRegs_trans h1 (onlyRegs_fset _ _ hm)) h1

theorem coachSlack_not_log (c : Nat) : R.COACH_SLACK c ∉ logRegs := by
  simp only [logRegs, R.COACH_SLACK, R.MGMT_LOG_WR, R.MGMT_LOG_LOST, R.MGMT_FAULT_STATUS, R.MGMT_INT_CAUSE, List.mem_cons,
    List.not_mem_nil, or_false]
  omega

/-- A window below 5 percent adds its event to what is shown. -/
theorem slackWindow_effect (x : Chip) (c now : Nat) :
    rd (slackWindow x c now) (R.COACH_SLACK c) = rd (slackShown x c now) (R.COACH_SLACK c) ∧
      nextSeq (slackWindow x c now) (srcCoach c) = nextSeq x (srcCoach c) + (if now < 5 then 1 else 0) ∧
      OnlyRegsLog [R.COACH_SLACK c] x (slackWindow x c now) := by
  have hs := onlyRegs_slackShown x c now
  rw [slackWindow_eq]
  split
  · exact ⟨rd_raise _ _ _ _ _ (coachSlack_not_log c), by rw [nextSeq_raise_same, nextSeq_onlyRegs hs],
      onlyRegs_then_log hs (onlyRegsLog_raise _ _ _ _ _)⟩
  · exact ⟨rfl, (nextSeq_onlyRegs hs _).trans (BitVec.add_zero _).symm, onlyRegsLog_of_onlyRegs hs⟩

/-! SLACK_EXHAUSTED (R26). -/

theorem exec_slackExhausted {c p n : Nat} {s : State} (hc : c < 13) (hp : p < 8) (hd : dUp s.chip = true) :
    exec (.slackExhausted c p n) s = .next (onChip (fun x => slackLost x c p n) s) :=
  congrArg Host.Outcome.next (if_pos ⟨hc, hp, hd⟩)

theorem exec_slackExhausted_down {c p n : Nat} {s : State} (hd : dUp s.chip = false) :
    exec (.slackExhausted c p n) s = .next s := by
  refine congrArg Host.Outcome.next (if_neg ?_)
  rintro ⟨_, _, h⟩
  exact Bool.false_ne_true (hd.symm.trans h)

/-- The gap of lost samples noted at lane k, where it runs in a coach slot: outputs across it are tainted. -/
def gapNoted (x : Chip) (k : Nat) : Chip :=
  if (laneOf x k).live && usesCoach (stdOf x k) then
    setDsp x k { (laneOf x k).dsp with gaps := spanAdd (nowAt x) (laneOf x k).dsp.gaps (nowAt x) (nowAt x) }
  else x

theorem slackLost_eq (x : Chip) (c p n : Nat) : slackLost x c p n =
    raise (count (gapNoted x (8 * c + p)) (R.COACH_OVF_COUNT c) (F.COACH_STATUS_ovf_wrap c) n) (srcCoach c) 0x05 (b1 p ++ b2s n) := rfl

theorem gapNoted_rest (x : Chip) (k : Nat) : gapNoted x k = { x with lanes := (gapNoted x k).lanes } := by
  unfold gapNoted
  split <;> rfl

theorem gapNoted_stopped {x : Chip} {k : Nat} (h : (laneOf x k).live = false) : gapNoted x k = x := by
  simp only [gapNoted, h, Bool.false_and, Bool.false_eq_true, if_false]

theorem laneOf_setLane_same (x : Chip) (k : Nat) (l : LaneRt) : laneOf (setLane x k l) k = l := smGet_smPut_same _ _ _ _

theorem dsp_gapNoted {x : Chip} {k : Nat} (h : (laneOf x k).live = true) (hu : usesCoach (stdOf x k) = true) :
    (laneOf (gapNoted x k) k).dsp =
      { (laneOf x k).dsp with gaps := spanAdd (nowAt x) (laneOf x k).dsp.gaps (nowAt x) (nowAt x) } := by
  simp only [gapNoted, h, hu, Bool.and_self, if_true, setDsp, laneOf_setLane_same]

/-! LANE_GO (R353, R356). -/

theorem exec_laneGo {n : Nat} {s : State} (hn : n < 128) (hm : mgmtUp s.chip = true)
    (hg : fon s.chip F.GEN_RESET_lane_go = false) : exec (.laneGo n) s = .next (onChip (fun x => laneGo x n) s) := by
  have hc : (mgmtUp s.chip && !fon s.chip F.GEN_RESET_lane_go) = true := by rw [hm, hg]; rfl
  have h : exec (.laneGo n) s = .next (onChip (fun x => laneGo x (n % 128)) s) := congrArg Host.Outcome.next (if_pos hc)
  rwa [Nat.mod_eq_of_lt hn] at h

theorem exec_laneGo_ignored {n : Nat} {s : State} (h : mgmtUp s.chip = false ∨ fon s.chip F.GEN_RESET_lane_go = true) :
    exec (.laneGo n) s = .next s := by
  refine congrArg Host.Outcome.next (if_neg ?_)
  rcases h with h | h <;> simp [h]

/-- The part runs in ACTIVE or QUIET: a lane's reset may be had (R356). -/
def LaneResetAllowed (x : Chip) : Prop := partRuns x = true ∧ pstate x ≤ 1

/-- Noting the lane leaves what decides on its reset. -/
theorem laneReset_refused_noted {x : Chip} (n : Nat) :
    (partRuns (fset x F.GEN_RESET_lane n) = false ∨ 1 < pstate (fset x F.GEN_RESET_lane n)) ↔ ¬ LaneResetAllowed x := by
  have hp : pstate (fset x F.GEN_RESET_lane n) = pstate x := fget_fset_apart _ _ _ _ (by decide) (by decide)
  have hr : partRuns (fset x F.GEN_RESET_lane n) = partRuns x := rfl
  rw [hp, hr, LaneResetAllowed, not_and_or, Bool.not_eq_true, Nat.not_le]

theorem laneGo_no_lane {n : Nat} (x : Chip) (h : 104 ≤ n) : laneGo x n = fset x F.GEN_RESET_lane n := if_pos h

theorem laneGo_bad {x : Chip} {n : Nat} (h : n < 104) (hr : ¬ LaneResetAllowed x) :
    laneGo x n = badLaneWrite (fset x F.GEN_RESET_lane n) n R.GEN_RESET (n * 256 + 4) :=
  (if_neg (Nat.not_le.2 h)).trans (if_pos ((laneReset_refused_noted n).2 hr))

theorem laneGo_held {x : Chip} {n : Nat} (h : n < 104) (hr : LaneResetAllowed x) (hh : laneHeld x n = true) :
    laneGo x n = (let x1 := fset x F.GEN_RESET_lane n
      fset { x1 with bist := { x1.bist with heldGo := x1.bist.heldGo ++ [n] } } F.GEN_RESET_lane_go 1) :=
  (if_neg (Nat.not_le.2 h)).trans ((if_neg fun hb => (laneReset_refused_noted n).1 hb hr).trans (if_pos hh))

theorem laneGo_resets {x : Chip} {n : Nat} (h : n < 104) (hr : LaneResetAllowed x) (hh : laneHeld x n = false) :
    laneGo x n = laneDomainReset (fset x F.GEN_RESET_lane n) n 0 :=
  (if_neg (Nat.not_le.2 h)).trans ((if_neg fun hb => (laneReset_refused_noted n).1 hb hr).trans
    (if_neg fun ht => Bool.false_ne_true (hh.symm.trans ht)))

/-- Settles O34: each command by its rule, where lanes run and where they do not. -/
theorem coachAndLaneResets : Obligations.CoachAndLaneResets := by
  unfold Obligations.CoachAndLaneResets
  refine ⟨fun c p s hc hp hr hu => ?lane, fun c p s => exec_laneReset_none, fun c s hc hr => ?coach,
    fun x n => coachLane_without_apply, fun c s => exec_coachReset_down, fun c now s hc hnow hd => ?low,
    fun c p n s hc hp hd => ?exhausted, fun c p n now s hd => ⟨exec_slackLow_down hd, exec_slackExhausted_down hd⟩,
    fun n s hn hm hg => ?go, fun n s => exec_laneGo_ignored⟩
  case lane => rw [exec_laneReset hc hp hr hu, onChip, onChip, syncReset_of_coach hp hu]
  case coach => rw [exec_coachReset hc hr, onChip, onChip, coachReset, coachTold_eq]
  case low =>
    obtain ⟨hw, hseq, hf⟩ := slackWindow_effect s.chip c now
    rw [exec_slackLow hc hd, Nat.min_eq_left hnow]
    refine ⟨_, rfl, rfl, ?_, ?_, hseq, hf⟩
    · exact (congrArg (getBits · 0 8) hw).trans (fget_slackShown_now s.chip c hnow)
    · exact (congrArg (getBits · 8 8) hw).trans (fget_slackShown_min s.chip c hnow)
  case exhausted =>
    refine ⟨gapNoted s.chip (8 * c + p), ?_, gapNoted_rest _ _, gapNoted_stopped, dsp_gapNoted⟩
    rw [exec_slackExhausted hc hp hd, onChip, onChip, slackLost_eq]
  case go =>
    rw [exec_laneGo hn hm hg, onChip]
    refine ⟨fun h => ?_, fun h hr => ?_, fun h hr hh => ?_, fun h hr hh => ?_⟩
    · rw [laneGo_no_lane _ h, onChip]
    · rw [laneGo_bad h hr, onChip]
    · rw [laneGo_held h hr hh, onChip]
    · rw [laneGo_resets h hr hh, onChip, laneDomainReset]

end Sys2Proof.Machine
end

section
/-! Frames of the inputs (R40 to R64): how "registers, log and the inputs' bookkeeping alone" composes, and which operations leave
the registers of the inputs as they are: events, counts, calibration, and all that lanes do (R34, R48). -/
namespace Sys2Proof.Machine

variable {l : List Nat} {x y z : Chip}

/-! Registers, log and the inputs' bookkeeping. -/

theorem onlyRegsAin_trans (h1 : OnlyRegsAin l x y) (h2 : OnlyRegsAin l y z) : OnlyRegsAin l x z := by
  refine ⟨h2.1.trans ?_, fun b hb hl => (h2.2 b hb hl).trans (h1.2 b hb hl)⟩
  rw [h1.1]

theorem onlyRegsAin_mono {l' : List Nat} (hl : l ⊆ l') (h : OnlyRegsAin l x y) : OnlyRegsAin l' x y :=
  ⟨h.1, fun b hb => h.2 b fun hm => hb (hl hm)⟩

theorem onlyRegsAin_of_onlyRegs (h : OnlyRegs l x y) : OnlyRegsAin l x y := by
  refine ⟨h.1.trans ?_, fun b hb _ => h.2 b hb⟩
  rw [h.1]

theorem onlyRegsAin_of_onlyRegsLog (h : OnlyRegsLog l x y) : OnlyRegsAin l x y := by
  refine ⟨h.1.trans ?_, h.2⟩
  rw [h.1]

theorem onlyRegsAin_raise (l : List Nat) (x : Chip) (src code : Nat) (args : List Byte) :
    OnlyRegsAin l x (raise x src code args) := onlyRegsAin_of_onlyRegsLog (onlyRegsLog_raise ..)

theorem onlyRegsAin_setAin (l : List Nat) (x : Chip) (a : Nat) (r : AinRt) : OnlyRegsAin l x (setAin x a r) :=
  ⟨rfl, fun _ _ _ => rfl⟩

theorem onlyRegsAin_fset {f : Fld} (x : Chip) (v : Nat) (h : f.addr ∈ l) : OnlyRegsAin l x (fset x f v) :=
  onlyRegsAin_of_onlyRegs (onlyRegs_fset x v h)

theorem onlyRegs_count {a : Nat} {w : Fld} (x : Chip) (n : Nat) (ha : a ∈ l) (hw : w.addr ∈ l) :
    OnlyRegs l x (count x a w n) :=
  ⟨count_rest x a w n, fun b hb => rd_count_ne x a w n b (fun e => hb (e ▸ ha)) fun e => hb (e ▸ hw)⟩

/-- Every interrupt cause lies in the register of causes, which the log writes too. -/
theorem intCause_addr (c : IntCause) : c.fld.addr = R.MGMT_INT_CAUSE := by cases c <;> rfl

theorem onlyRegsAin_setCause (l : List Nat) (x : Chip) (c : IntCause) : OnlyRegsAin l x (setCause x c) :=
  onlyRegsAin_of_onlyRegsLog ⟨setCause_rest x c, fun b _ hb => rd_fset_ne x c.fld 1 b fun e =>
    hb (by rw [e, intCause_addr]; simp [logRegs])⟩

/-! The inputs' fields. -/

/-- A field of an input's registers; in `AINa_STATUS` one below `presel_mismatch`, which lanes set (R48). -/
def InputFld (f : Fld) : Prop :=
  0x200 ≤ f.addr ∧ f.addr < 0x300 ∧ f.lo + f.width ≤ 32 ∧ (f.addr % 0x40 = 0x14 → f.lo + f.width ≤ 21)

/-- Every such field keeps its value. -/
def InputsStay (x y : Chip) : Prop := ∀ f, InputFld f → fget y f = fget x f

theorem InputsStay.trans (h1 : InputsStay x y) (h2 : InputsStay y z) : InputsStay x z :=
  fun f hf => (h2 f hf).trans (h1 f hf)

theorem inputsStay_of_rd (h : ∀ b, 0x200 ≤ b → b < 0x300 → rd y b = rd x b) : InputsStay x y :=
  fun f hf => congrArg (getBits · f.lo f.width) (h f.addr hf.1 hf.2.1)

theorem inputsStay_of_regs (h : y.regs = x.regs) : InputsStay x y :=
  inputsStay_of_rd fun b _ _ => congrArg (smGet resetWord · b) h

theorem InputsStay.ite {c : Prop} [Decidable c] (hy : InputsStay x y) (hz : InputsStay x z) :
    InputsStay x (if c then y else z) := by
  split <;> assumption

theorem inputsStay_refl (x : Chip) : InputsStay x x := fun _ _ => rfl

/-- An address outside the block of the inputs. -/
def OffInputs (b : Nat) : Prop := b < 0x200 ∨ 0x300 ≤ b

theorem OffInputs.ne {b c : Nat} (h : OffInputs b) (h1 : 0x200 ≤ c) (h2 : c < 0x300) : c ≠ b := by
  unfold OffInputs at h
  omega

theorem inputsStay_wr {b : Nat} (x : Chip) (v : Word) (h : OffInputs b) : InputsStay x (wr x b v) :=
  inputsStay_of_rd fun c h1 h2 => rd_wr_ne x b c v (h.ne h1 h2)

theorem inputsStay_fset {f : Fld} (x : Chip) (v : Nat) (h : OffInputs f.addr) : InputsStay x (fset x f v) :=
  inputsStay_wr x _ h

theorem inputsStay_fsets (x : Chip) (l : List (Fld × Nat)) (h : ∀ e ∈ l, OffInputs e.1.addr) : InputsStay x (fsets x l) :=
  inputsStay_of_rd fun b h1 h2 => rd_fsets_ne b l x fun e he => (h e he).ne h1 h2

theorem inputsStay_count {b : Nat} {w : Fld} (x : Chip) (n : Nat) (h : OffInputs b) (hw : OffInputs w.addr) :
    InputsStay x (count x b w n) :=
  inputsStay_of_rd fun c h1 h2 => rd_count_ne x b w n c (h.ne h1 h2) (hw.ne h1 h2)

theorem not_logRegs_of_lt {b : Nat} (h : b < 0x728) : b ∉ logRegs := by
  simp only [logRegs, R.MGMT_LOG_WR, R.MGMT_LOG_LOST, R.MGMT_FAULT_STATUS, R.MGMT_INT_CAUSE, List.mem_cons, List.not_mem_nil,
    or_false]
  omega

theorem inputsStay_raise (x : Chip) (src code : Nat) (args : List Byte) : InputsStay x (raise x src code args) :=
  inputsStay_of_rd fun b _ h => rd_raise x src code args b (not_logRegs_of_lt (by omega))

theorem inputsStay_foldl {α : Type} {f : Chip → α → Chip} (h : ∀ y a, InputsStay y (f y a)) (l : List α) :
    ∀ x, InputsStay x (l.foldl f x) := by
  induction l with
  | nil => exact inputsStay_refl
  | cons a l ih => exact fun x => (h x a).trans (ih _)

theorem inputsStay_because {f : Chip → Chip} (r : CauseRef) (x : Chip) (h : ∀ y, InputsStay y (f y)) :
    InputsStay x (because r f x) :=
  h { x with lg := { x.lg with because := some r } }

theorem inputsStay_after {f : Chip → Chip} (src : Nat) (x : Chip) (h : ∀ y, InputsStay y (f y)) :
    InputsStay x (after src f x) :=
  inputsStay_because _ x h

/-! What lanes do (R34, R35, R48, R111, R152). -/

theorem offInputs_laneStatus (n : Nat) : OffInputs (R.LANE_STATUS n) := by
  simp only [OffInputs, R.LANE_STATUS]
  omega

theorem inputsStay_laneStateSet (x : Chip) (n st : Nat) : InputsStay x (laneStateSet x n st) :=
  inputsStay_of_rd fun b h1 h2 =>
    rd_laneStateSet x n st b (not_logRegs_of_lt (by omega)) ((offInputs_laneStatus n).ne h1 h2)

theorem inputsStay_rampFollow (x : Chip) (n : Nat) : InputsStay x (rampFollow x n) :=
  InputsStay.ite (inputsStay_refl x) (inputsStay_of_regs rfl)

theorem inputsStay_mutesFollow (x : Chip) : InputsStay x (mutesFollow x) :=
  inputsStay_foldl (fun y n => InputsStay.ite (inputsStay_rampFollow y n) (inputsStay_refl y)) _ x

theorem inputsStay_svcBlank (x : Chip) (n : Nat) : InputsStay x (svcBlank x n) := by
  refine inputsStay_fsets x _ fun e he => ?_
  simp only [List.mem_cons, List.not_mem_nil, or_false] at he
  rcases he with rfl | rfl | rfl | rfl | rfl <;> exact offInputs_laneStatus n

theorem inputsStay_svcLeave (x : Chip) (n : Nat) : InputsStay x (svcLeave x n) := by
  refine InputsStay.ite (InputsStay.trans ?_ (inputsStay_raise _ _ _ _)) (inputsStay_refl x)
  have h0 : InputsStay x (setLane x n { laneOf x n with logical := [], super := none, eaten := none }) := inputsStay_of_regs rfl
  exact (h0.trans (inputsStay_svcBlank _ n)).trans (inputsStay_fset _ _ (offInputs_laneStatus n))

theorem inputsStay_svcDetach (lead : Nat) (x : Chip) (n : Nat) : InputsStay x (svcDetach lead x n) := by
  unfold svcDetach
  refine InputsStay.trans ?_ ((inputsStay_laneStateSet _ _ _).trans (inputsStay_rampFollow _ n))
  refine InputsStay.trans ?_ (InputsStay.ite (inputsStay_laneStateSet _ _ _) (inputsStay_refl _))
  exact (InputsStay.ite (inputsStay_fset _ _ (offInputs_laneStatus n)) (inputsStay_refl x)).trans (inputsStay_svcLeave _ n)

theorem inputsStay_setLaneState (x : Chip) (n st : Nat) : InputsStay x (setLaneState x n st) := by
  have h : InputsStay x (rampFollow (laneStateSet x n st) n) :=
    (inputsStay_laneStateSet x n st).trans (inputsStay_rampFollow _ n)
  exact h.trans (InputsStay.ite (inputsStay_after _ _ fun y => inputsStay_foldl (inputsStay_svcDetach n) _ y) (inputsStay_refl _))

/-- PRESEL_MISMATCH sets the one flag of the inputs' registers that lanes set. -/
theorem inputsStay_preselMismatch (a : Nat) (x : Chip) (n : Nat) : InputsStay x (preselMismatch a x n) := by
  have hf : InputsStay x (fset x (F.AIN_STATUS_presel_mismatch a) 1) := fun f ⟨_, _, h32, h21⟩ => by
    refine fget_fset_apart x _ f 1 h32 ?_
    simp only [F.AIN_STATUS_presel_mismatch, R.AIN_STATUS]
    omega
  unfold preselMismatch
  split
  · exact hf.trans (inputsStay_raise _ _ _ _)
  · exact inputsStay_refl x

theorem inputsStay_preselSweep (x : Chip) (a : Nat) : InputsStay x (preselSweep x a) := by
  refine InputsStay.ite (inputsStay_refl x) (InputsStay.trans ?_ (inputsStay_foldl (inputsStay_preselMismatch a) _ _))
  exact inputsStay_of_regs rfl

theorem inputsStay_preselSweeps (x : Chip) : InputsStay x (preselSweeps x) :=
  inputsStay_foldl (fun y a => inputsStay_preselSweep y a) _ x

theorem inputsStay_showPlan (x : Chip) (n : Nat) : InputsStay x (showPlan x n) := by
  have hf : OffInputs (R.LANE_FILT n) := by
    simp only [OffInputs, R.LANE_FILT]
    omega
  unfold showPlan
  split
  · exact (inputsStay_fset x _ hf).trans (inputsStay_fset _ _ hf)
  · exact (inputsStay_fset x _ hf).trans (inputsStay_fset _ _ hf)

theorem lineRestart_regs (x : Chip) (n : Nat) : (lineRestart x n).regs = x.regs := by
  unfold lineRestart
  dsimp only
  split
  · split <;> rfl
  · rfl

theorem inputsStay_amSideSet (x : Chip) (n : Nat) : InputsStay x (amSideSet x n) :=
  InputsStay.ite (inputsStay_refl x) ((inputsStay_fset x _ (offInputs_laneStatus n)).trans (inputsStay_raise _ _ _ _))

theorem inputsStay_laneBegin (x : Chip) (n : Nat) : InputsStay x (laneBegin x n) := by
  have hq : OffInputs (R.LANE_QUAL n) := by
    simp only [OffInputs, R.LANE_QUAL]
    omega
  unfold laneBegin
  refine InputsStay.trans ?_ (inputsStay_preselSweeps _)
  refine InputsStay.trans ?_ (InputsStay.ite (inputsStay_amSideSet _ n) (inputsStay_refl _))
  refine InputsStay.trans ?_ ((inputsStay_showPlan _ n).trans (inputsStay_setLaneState _ n _))
  refine InputsStay.trans ?_ (inputsStay_of_regs (lineRestart_regs _ n))
  refine InputsStay.trans ?_ (inputsStay_of_regs rfl)
  exact ((inputsStay_svcLeave x n).trans (inputsStay_wr _ _ (offInputs_laneStatus n))).trans (inputsStay_wr _ _ hq)

theorem inputsStay_resetLog (x : Chip) (n : Nat) : InputsStay x (resetLog x n) := by
  refine InputsStay.ite (InputsStay.trans (inputsStay_count x 1 ?_ ?_) (inputsStay_raise _ _ _ _)) (inputsStay_refl x)
  · simp only [OffInputs, R.COACH_RESET_COUNT]
    omega
  · simp only [OffInputs, F.COACH_STATUS_reset_wrap, R.COACH_STATUS]
    omega

theorem inputsStay_divSingle (x : Chip) (n : Nat) : InputsStay x (divSingle x n) :=
  InputsStay.ite (inputsStay_raise _ _ _ _) (inputsStay_refl x)

theorem inputsStay_laneStart (x : Chip) (n : Nat) : InputsStay x (laneStart x n) :=
  InputsStay.ite (((inputsStay_resetLog x n).trans (inputsStay_laneBegin _ n)).trans (inputsStay_divSingle _ n))
    (inputsStay_refl x)

theorem inputsStay_footStart (x : Chip) : InputsStay x (footStart x) :=
  InputsStay.ite (inputsStay_foldl (fun y n => InputsStay.ite (inputsStay_refl y) (inputsStay_laneStart y n)) _ x)
    (inputsStay_refl x)

theorem inputsStay_dropBranch (x : Chip) (n : Nat) : InputsStay x (dropBranch x n) := by
  have hb : ∀ f, selFld (stdOf x n) n = some f → OffInputs f.addr := by
    unfold selFld
    intro f hf
    split at hf
    · exact Option.some.inj hf ▸ offInputs_laneStatus n
    · split at hf
      · exact Option.some.inj hf ▸ offInputs_laneStatus n
      · cases hf
  unfold dropBranch
  split
  next f hf => exact (inputsStay_fset x 0 (hb f hf)).trans (inputsStay_of_regs rfl)
  next => exact inputsStay_of_regs rfl

end Sys2Proof.Machine
end

section
/-! Over-range and snowplough (R53 to R57, R96): the stretch and the count of a taint, the over-range sample, what a change of the
offset shows, and the statement about them. -/
namespace Sys2Proof.Machine

variable {x y : Chip} {a : Nat}

/-! Fields and bookkeeping of an input. -/

theorem inputFld_at (off : Nat) {lo w : Nat} (ha : a < 4) (h : off < 0x40 ∧ lo + w ≤ 32 ∧ (off = 0x14 → lo + w ≤ 21)) :
    InputFld ⟨0x200 + off + 0x40 * a, lo, w⟩ := by
  simp only [InputFld]
  omega

theorem ainState_stays (ha : a < 4) (h : InputsStay x y) : ainState y a = ainState x a :=
  h (F.AIN_STATUS_state a) (inputFld_at 0x14 ha (by decide))

theorem fget_word (x : Chip) (b : Nat) : fget x ⟨b, 0, 32⟩ = (rd x b).toNat := by
  simp only [fget, getBits, Nat.pow_zero, Nat.div_one]
  exact Nat.mod_eq_of_lt (rd x b).isLt

theorem InputsStay.rd_eq {b : Nat} (h : InputsStay x y) (hb : InputFld ⟨b, 0, 32⟩) : rd y b = rd x b := by
  have hw := h _ hb
  rw [fget_word, fget_word] at hw
  exact BitVec.eq_of_toNat_eq hw

theorem planWord_congr (h : rd y (R.AIN_GAINPLAN a) = rd x (R.AIN_GAINPLAN a)) : planWord y a = planWord x a := by
  have hf : ∀ f : Fld, f.addr = R.AIN_GAINPLAN a → fget y f = fget x f := fun f e => by rw [fget, fget, e, h]
  have hi : planInconsistent y a = planInconsistent x a := by
    simp only [planInconsistent, hf (F.AIN_GAINPLAN_hi a) rfl, hf (F.AIN_GAINPLAN_lo a) rfl, hf (F.AIN_GAINPLAN_max a) rfl,
      hf (F.AIN_GAINPLAN_min a) rfl]
  rw [planWord, planWord, hi, h]

/-- What the planned step that acts is read from (R52). -/
theorem planActing_congr (hs : ainState y a = ainState x a) (hc : fget y (F.AIN_CFG_att_auto a) = fget x (F.AIN_CFG_att_auto a))
    (hp : fget y (F.AIN_ATT_plan a) = fget x (F.AIN_ATT_plan a)) (hg : rd y (R.AIN_GAINPLAN a) = rd x (R.AIN_GAINPLAN a)) :
    planActing y a = planActing x a := by
  rw [planActing, planActing, fon, fon, hs, hc, hp, planMax, planMax, planWord_congr hg]

@[simp] theorem ainOf_setAin_same (x : Chip) (a : Nat) (r : AinRt) : ainOf (setAin x a r) a = r := smGet_smPut_same _ _ _ _

theorem fget_setAin (x : Chip) (a : Nat) (r : AinRt) (f : Fld) : fget (setAin x a r) f = fget x f := by
  rw [fget, rd, setAin_regs, fget, rd]

theorem nextSeq_setAin (x : Chip) (a : Nat) (r : AinRt) (src : Nat) : nextSeq (setAin x a r) src = nextSeq x src := by
  rw [nextSeq, setAin_lg, nextSeq]

theorem ainOf_raise (x : Chip) (src code : Nat) (args : List Byte) (a : Nat) : ainOf (raise x src code args) a = ainOf x a := by
  rw [raise_rest]
  rfl

theorem fget_count_apart (x : Chip) {b : Nat} {w f : Fld} (n : Nat) (h32 : f.lo + f.width ≤ 32) (hb : f.addr ≠ b)
    (hw : f.addr ≠ w.addr ∨ f.lo + f.width ≤ w.lo ∨ w.lo + w.width ≤ f.lo) : fget (count x b w n) f = fget x f := by
  unfold count
  dsimp only
  split
  · rw [fget_fset_apart _ _ _ _ h32 hw, fget_wr_ne _ _ _ _ hb]
  · exact fget_wr_ne _ _ _ _ hb

theorem nextSeq_count (x : Chip) (b : Nat) (w : Fld) (n src : Nat) : nextSeq (count x b w n) src = nextSeq x src := by
  rw [count_rest]
  rfl

/-! Taint (R96). -/

/-- A stretch that ends at an instant or later contains every instant from its start to there. -/
theorem span_holds {s e u : Int} (h1 : s ≤ u) (h2 : u ≤ e) : Span.holds 0 u ⟨s, some e⟩ = true := by
  simp [Span.holds, h1, h2]

theorem heldAt_append_last (k : List Span) {s : Span} {u : Int} (h : Span.holds 0 u s = true) : heldAt (k ++ [s]) 0 u = true := by
  simp [heldAt, h]

/-- The stretch that joins the others is held, whether or not it prolongs the last. -/
theorem heldAt_spanAdd (now : Int) (l : List Span) {b e u : Int} (h1 : b ≤ u) (h2 : u ≤ e) :
    heldAt (spanAdd now l b e) 0 u = true := by
  unfold spanAdd
  dsimp only
  split
  next s' e' _ =>
    split
    next h => exact heldAt_append_last _ (span_holds (h.1.trans h1) (h2.trans (le_max_right _ _)))
    next => exact heldAt_append_last _ (span_holds h1 h2)
  next => exact heldAt_append_last _ (span_holds h1 h2)

theorem ainOf_taintWindow (x : Chip) (a : Nat) (t : Int) (ns : Nat) : ainOf (taintWindow x a t ns) a =
    { ainOf x a with
      taints := spanAdd (nowAt x) (ainOf x a).taints t (t + ofNs ns)
      caused := max (t + ofNs ns) (ainOf x a).caused } :=
  ainOf_setAin_same _ _ _

theorem rd_taintWindow (x : Chip) (a : Nat) (t : Int) (ns : Nat) : rd (taintWindow x a t ns) (R.SPL_TAINT a) =
    rd x (R.SPL_TAINT a) + BitVec.ofNat 32 (framesIn x a (max (t - 1) (ainOf x a).caused) (t + ofNs ns)) := by
  have hw : (F.SPL_STATUS_taint_wrap.bit a).addr ≠ R.SPL_TAINT a := by
    simp only [Fld.bit, F.SPL_STATUS_taint_wrap, R.SPL_STATUS, R.SPL_TAINT]
    omega
  refine (rd_count_same x _ _ _ hw).trans ?_
  rw [BitVec.ofNat_add, BitVec.ofNat_toNat, BitVec.setWidth_eq]

theorem nextSeq_taintWindow (x : Chip) (a : Nat) (t : Int) (ns src : Nat) :
    nextSeq (taintWindow x a t ns) src = nextSeq x src := nextSeq_count x _ _ _ src

theorem onlyRegsAin_taintWindow (x : Chip) (a : Nat) (t : Int) (ns : Nat) :
    OnlyRegsAin [R.SPL_TAINT a, R.SPL_STATUS] x (taintWindow x a t ns) :=
  onlyRegsAin_trans (onlyRegsAin_of_onlyRegs (onlyRegs_count x _ (by simp) (by simp [Fld.bit, F.SPL_STATUS_taint_wrap])))
    (onlyRegsAin_setAin _ _ _ _)

theorem inputsStay_taintWindow (x : Chip) (a : Nat) (t : Int) (ns : Nat) : InputsStay x (taintWindow x a t ns) := by
  have ht : OffInputs (R.SPL_TAINT a) := by
    simp only [OffInputs, R.SPL_TAINT]
    omega
  have hw : OffInputs (F.SPL_STATUS_taint_wrap.bit a).addr := Or.inr (by simp [Fld.bit, F.SPL_STATUS_taint_wrap, R.SPL_STATUS])
  exact (inputsStay_count x _ ht hw).trans (inputsStay_of_regs rfl)

/-! The over-range sample (R57, R58). -/

theorem fget_overRange_ovr (x : Chip) (a t : Nat) : fget (overRange x a t) (F.AIN_STATUS_ovr a) = 1 := by
  rw [overRange, fget_wr_ne _ _ _ _ (by simp [F.AIN_STATUS_ovr, R.AIN_STATUS, R.AIN_OVR_TIME])]
  exact fget_fset_same _ _ _ (by simp [F.AIN_STATUS_ovr])

/-- The flag and the sample time are all that an over-range sample sets. -/
theorem fget_overRange_apart (t : Nat) {f : Fld} (h32 : f.lo + f.width ≤ 32) (ht : f.addr ≠ R.AIN_OVR_TIME a)
    (ho : f.addr ≠ R.AIN_STATUS a ∨ f.lo + f.width ≤ 8 ∨ 9 ≤ f.lo) : fget (overRange x a t) f = fget x f := by
  rw [overRange, fget_wr_ne _ _ _ _ ht]
  exact fget_fset_apart _ _ _ _ h32 ho

/-- An over-range sample with its 8.0 µs of taint: what SNOW_STEP does before the snowplough. -/
def sampleTaken (x : Chip) (a t : Nat) : Chip := taintWindow (overRange x a t) a (sampleAt x t) 8000

theorem rd_sampleTaken (t : Nat) {b : Nat} (hb : b < 0x300) (hs : b ≠ R.AIN_STATUS a) (ht : b ≠ R.AIN_OVR_TIME a) :
    rd (sampleTaken x a t) b = rd x b := by
  have hm : b ∉ [R.SPL_TAINT a, R.SPL_STATUS] := by
    simp only [R.SPL_TAINT, R.SPL_STATUS, List.mem_cons, List.not_mem_nil, or_false]
    omega
  rw [sampleTaken, (onlyRegsAin_taintWindow _ _ _ _).2 b hm (not_logRegs_of_lt (by omega)), overRange, rd_wr_ne _ _ _ _ ht,
    rd_fset_ne _ _ _ _ hs]

theorem rd_sampleTaken_time (x : Chip) (t : Nat) (ha : a < 4) : rd (sampleTaken x a t) (R.AIN_OVR_TIME a) = BitVec.ofNat 32 t :=
  ((inputsStay_taintWindow _ _ _ _).rd_eq (inputFld_at 0x1C ha (by decide))).trans (rd_wr_same _ _ _)

theorem fget_sampleTaken_ovr (x : Chip) (t : Nat) (ha : a < 4) : fget (sampleTaken x a t) (F.AIN_STATUS_ovr a) = 1 :=
  (inputsStay_taintWindow _ _ _ _ _ (inputFld_at 0x14 ha (by decide))).trans (fget_overRange_ovr x a t)

theorem ainState_sampleTaken (x : Chip) (t : Nat) (ha : a < 4) : ainState (sampleTaken x a t) a = ainState x a :=
  (ainState_stays ha (inputsStay_taintWindow _ _ _ _)).trans (fget_overRange_apart t (by simp [F.AIN_STATUS_state])
    (by simp [F.AIN_STATUS_state, R.AIN_STATUS, R.AIN_OVR_TIME]) (by simp [F.AIN_STATUS_state]))

/-- Every field of the input outside its status and the time of the sample stays. -/
theorem fget_sampleTaken_at (off : Nat) {t lo w : Nat} (ha : a < 4) (h : off < 0x40 ∧ off ≠ 0x14 ∧ off ≠ 0x1C) :
    fget (sampleTaken x a t) ⟨0x200 + off + 0x40 * a, lo, w⟩ = fget x ⟨0x200 + off + 0x40 * a, lo, w⟩ := by
  have hr := rd_sampleTaken (x := x) (a := a) t (b := 0x200 + off + 0x40 * a) (by omega)
    (by simp only [R.AIN_STATUS]; omega) (by simp only [R.AIN_OVR_TIME]; omega)
  rw [fget, hr, fget]

theorem planActing_sampleTaken (x : Chip) (t : Nat) (ha : a < 4) : planActing (sampleTaken x a t) a = planActing x a := by
  refine planActing_congr (ainState_sampleTaken x t ha) (fget_sampleTaken_at 0x00 ha (by decide))
    (fget_sampleTaken_at 0x0C ha (by decide)) (rd_sampleTaken t ?_ ?_ ?_)
  all_goals
    simp only [R.AIN_GAINPLAN, R.AIN_STATUS, R.AIN_OVR_TIME]
    omega

theorem nextSeq_sampleTaken (x : Chip) (a t src : Nat) : nextSeq (sampleTaken x a t) src = nextSeq x src :=
  nextSeq_taintWindow _ _ _ _ _

theorem onlyRegsAin_sampleTaken (x : Chip) (a t : Nat) :
    OnlyRegsAin [R.AIN_STATUS a, R.AIN_OVR_TIME a, R.SPL_TAINT a, R.SPL_STATUS] x (sampleTaken x a t) := by
  have h : OnlyRegsAin [R.AIN_STATUS a, R.AIN_OVR_TIME a, R.SPL_TAINT a, R.SPL_STATUS] x (overRange x a t) :=
    onlyRegsAin_of_onlyRegs (onlyRegs_trans (onlyRegs_fset (f := F.AIN_STATUS_ovr a) _ 1 (by simp [F.AIN_STATUS_ovr]))
      (onlyRegs_wr _ _ (by simp)))
  exact onlyRegsAin_trans h (onlyRegsAin_mono (by simp) (onlyRegsAin_taintWindow _ _ _ _))

theorem satLogged_sampleTaken (x : Chip) (a t : Nat) : (ainOf (sampleTaken x a t) a).satLogged = (ainOf x a).satLogged := by
  rw [sampleTaken, ainOf_taintWindow]
  rfl

theorem snowSample_eq (x : Chip) (t : Nat) (near : Bool) (ha : a < 4) : snowSample x a t near =
    if fon x (F.AIN_CFG_snow_en a) && !near then snowAdd (sampleTaken x a t) a else sampleTaken x a t := by
  have h : fon (sampleTaken x a t) (F.AIN_CFG_snow_en a) = fon x (F.AIN_CFG_snow_en a) :=
    congrArg (· != 0) (fget_sampleTaken_at 0x00 ha (by decide))
  rw [← h]
  rfl

/-! A change of the offset (R53, R54). -/

/-- The offset and its flag, as a change of the offset shows them. -/
def snowShown (x : Chip) (a n : Nat) : Chip := fflag (fset x (F.AIN_ATT_snow a) n) (F.AIN_STATUS_snow a) (n != 0)

theorem setSnow_regs (x : Chip) (a n : Nat) : (setSnow x a n).regs = (showTotal (snowShown x a n) a).regs := by
  unfold setSnow
  dsimp only
  split <;> rfl

theorem fget_setSnow (x : Chip) (a n : Nat) (f : Fld) : fget (setSnow x a n) f = fget (showTotal (snowShown x a n) a) f := by
  rw [fget, fget, rd, rd, setSnow_regs]

theorem nextSeq_setSnow (x : Chip) (a n src : Nat) : nextSeq (setSnow x a n) src = nextSeq x src := by
  unfold setSnow
  dsimp only
  split <;> rfl

theorem onlyRegsAin_setSnow (x : Chip) (a n : Nat) : OnlyRegsAin [R.AIN_ATT a, R.AIN_STATUS a] x (setSnow x a n) := by
  have ha : R.AIN_ATT a ∈ [R.AIN_ATT a, R.AIN_STATUS a] := by simp
  have hs : R.AIN_STATUS a ∈ [R.AIN_ATT a, R.AIN_STATUS a] := by simp
  have h : OnlyRegsAin [R.AIN_ATT a, R.AIN_STATUS a] x (showTotal (snowShown x a n) a) :=
    onlyRegsAin_of_onlyRegs (onlyRegs_trans (onlyRegs_trans (onlyRegs_fset x n ha) (onlyRegs_fset _ _ hs)) (onlyRegs_fset _ _ ha))
  unfold setSnow
  dsimp only
  split
  · exact onlyRegsAin_trans h (onlyRegsAin_setAin _ _ _ _)
  · exact h

/-- A field apart from offset, total and the offset's flag stays. -/
theorem fget_setSnow_apart (x : Chip) (n : Nat) {f : Fld} (h32 : f.lo + f.width ≤ 32)
    (ha : f.addr ≠ R.AIN_ATT a ∨ f.lo + f.width ≤ 16) (hs : f.addr ≠ R.AIN_STATUS a ∨ f.lo + f.width ≤ 3 ∨ 4 ≤ f.lo) :
    fget (setSnow x a n) f = fget x f := by
  rw [fget_setSnow, showTotal, fget_fset_apart _ _ _ _ h32, snowShown, fflag, fget_fset_apart _ _ _ _ h32 hs,
    fget_fset_apart _ _ _ _ h32]
  all_goals
    simp only [F.AIN_ATT_snow, F.AIN_ATT_total]
    omega

theorem fget_snowShown_snow {n : Nat} (x : Chip) (a : Nat) (hn : n < 16) : fget (snowShown x a n) (F.AIN_ATT_snow a) = n := by
  rw [snowShown, fflag, fget_fset_apart _ _ _ _ (by simp [F.AIN_ATT_snow])
    (by simp [F.AIN_ATT_snow, F.AIN_STATUS_snow, R.AIN_ATT, R.AIN_STATUS]), fget_fset_same _ _ _ (by simp [F.AIN_ATT_snow])]
  exact Nat.mod_eq_of_lt hn

theorem fget_setSnow_snow {n : Nat} (x : Chip) (a : Nat) (hn : n < 16) : fget (setSnow x a n) (F.AIN_ATT_snow a) = n := by
  rw [fget_setSnow, showTotal, fget_fset_apart _ _ _ _ (by simp [F.AIN_ATT_snow]) (by simp [F.AIN_ATT_snow, F.AIN_ATT_total]),
    fget_snowShown_snow x a hn]

theorem fon_setSnow_flag (x : Chip) (a n : Nat) : fon (setSnow x a n) (F.AIN_STATUS_snow a) = (n != 0) := by
  rw [fon, fget_setSnow, showTotal, fget_fset_apart _ _ _ _ (by simp [F.AIN_STATUS_snow])
    (by simp [F.AIN_STATUS_snow, F.AIN_ATT_total, R.AIN_ATT, R.AIN_STATUS])]
  exact fon_fflag_same _ _ _ (by simp [F.AIN_STATUS_snow]) rfl

theorem planActing_snowShown (x : Chip) (a n : Nat) : planActing (snowShown x a n) a = planActing x a := by
  have h : ∀ f : Fld, f.lo + f.width ≤ 32 → (f.addr ≠ R.AIN_ATT a ∨ f.lo + f.width ≤ 16) →
      (f.addr ≠ R.AIN_STATUS a ∨ f.lo + f.width ≤ 3) → fget (snowShown x a n) f = fget x f := fun f h32 ha hs => by
    rw [snowShown, fflag, fget_fset_apart _ _ _ _ h32 (hs.imp_right Or.inl), fget_fset_apart _ _ _ _ h32 (ha.imp_right Or.inl)]
  have hg : rd (snowShown x a n) (R.AIN_GAINPLAN a) = rd x (R.AIN_GAINPLAN a) := by
    rw [snowShown, fflag, rd_fset_ne _ _ _ _ (by simp [F.AIN_STATUS_snow, R.AIN_GAINPLAN, R.AIN_STATUS]),
      rd_fset_ne _ _ _ _ (by simp [F.AIN_ATT_snow, R.AIN_GAINPLAN, R.AIN_ATT])]
  refine planActing_congr (h (F.AIN_STATUS_state a) ?_ ?_ ?_) (h _ ?_ ?_ ?_) (h _ ?_ ?_ ?_) hg
  all_goals simp [F.AIN_STATUS_state, F.AIN_CFG_att_auto, F.AIN_ATT_plan, R.AIN_STATUS, R.AIN_CFG, R.AIN_ATT]

/-- The total follows the offset (R50). -/
theorem fget_setSnow_total {n : Nat} (x : Chip) (a : Nat) (hn : n < 16) :
    fget (setSnow x a n) (F.AIN_ATT_total a) = min 15 (planActing x a + n) := by
  rw [fget_setSnow, showTotal, fget_fset_same _ _ _ (by simp [F.AIN_ATT_total]), planActing_snowShown, fget_snowShown_snow x a hn]
  exact Nat.mod_eq_of_lt (Nat.lt_succ_of_le (Nat.min_le_left _ _))

/-- The offset's count and event leave what the change shows. -/
theorem fget_snowLog (x : Chip) (add : Nat) {f : Fld} (h32 : f.lo + f.width ≤ 32) (hb : f.addr < 0x300)
    (hc : f.addr ≠ R.AIN_SNOW_COUNT a) (hw : f.addr ≠ R.AIN_STATUS a ∨ f.lo + f.width ≤ 10) :
    fget (snowLog x a add) f = fget x f := by
  rw [snowLog, fget_raise _ _ _ _ _ (not_logRegs_of_lt (by omega)), fget_count_apart x 1 h32 hc (hw.imp_right Or.inl)]

theorem nextSeq_snowLog (x : Chip) (a add : Nat) : nextSeq (snowLog x a add) (srcAin a) = nextSeq x (srcAin a) + 1 := by
  rw [snowLog, nextSeq_raise_same, nextSeq_count]

theorem rd_snowLog_count (x : Chip) (add : Nat) (ha : a < 4) :
    rd (snowLog x a add) (R.AIN_SNOW_COUNT a) = rd x (R.AIN_SNOW_COUNT a) + 1 := by
  rw [snowLog, rd_raise _ _ _ _ _ (not_logRegs_of_lt (by simp only [R.AIN_SNOW_COUNT]; omega)), rd_count_same _ _ _ _
    (by simp [F.AIN_STATUS_snow_wrap, R.AIN_STATUS, R.AIN_SNOW_COUNT]), BitVec.ofNat_add, BitVec.ofNat_toNat, BitVec.setWidth_eq]
  rfl

theorem onlyRegsAin_snowLog (x : Chip) (a add : Nat) : OnlyRegsAin [R.AIN_STATUS a, R.AIN_SNOW_COUNT a] x (snowLog x a add) :=
  onlyRegsAin_trans (onlyRegsAin_of_onlyRegs (onlyRegs_count x 1 (by simp) (by simp [F.AIN_STATUS_snow_wrap])))
    (onlyRegsAin_raise _ _ _ _ _)

/-- What a change of the offset to n shows, counts and logs. -/
theorem snowChange_effect {n : Nat} (x : Chip) (add : Nat) (ha : a < 4) (hn : n < 16) :
    let y := snowLog (setSnow x a n) a add
    fget y (F.AIN_ATT_snow a) = n ∧ fget y (F.AIN_ATT_total a) = min 15 (planActing x a + n) ∧
      fon y (F.AIN_STATUS_snow a) = (n != 0) ∧ rd y (R.AIN_SNOW_COUNT a) = rd x (R.AIN_SNOW_COUNT a) + 1 ∧
      nextSeq y (srcAin a) = nextSeq x (srcAin a) + 1 ∧
      OnlyRegsAin [R.AIN_ATT a, R.AIN_STATUS a, R.AIN_SNOW_COUNT a] x y := by
  have hatt : R.AIN_ATT a < 0x300 ∧ R.AIN_ATT a ≠ R.AIN_SNOW_COUNT a ∧ R.AIN_ATT a ≠ R.AIN_STATUS a := by
    simp only [R.AIN_ATT, R.AIN_SNOW_COUNT, R.AIN_STATUS]
    omega
  obtain ⟨hlt, hcount, hstatus⟩ := hatt
  have hset := onlyRegsAin_setSnow x a n
  refine ⟨?_, ?_, ?_, ?_, ?_, ?_⟩
  · rw [fget_snowLog _ _ (by simp [F.AIN_ATT_snow]) hlt hcount (Or.inl hstatus), fget_setSnow_snow x a hn]
  · rw [fget_snowLog _ _ (by simp [F.AIN_ATT_total]) hlt hcount (Or.inl hstatus), fget_setSnow_total x a hn]
  · rw [fon, fget_snowLog _ _ (by simp [F.AIN_STATUS_snow]) (by simp only [F.AIN_STATUS_snow, R.AIN_STATUS]; omega)
      (by simp [F.AIN_STATUS_snow, R.AIN_STATUS, R.AIN_SNOW_COUNT]) (by simp [F.AIN_STATUS_snow])]
    exact fon_setSnow_flag x a n
  · rw [rd_snowLog_count _ _ ha, hset.2 _ (by simp [R.AIN_SNOW_COUNT, R.AIN_ATT, R.AIN_STATUS])
      (not_logRegs_of_lt (by simp only [R.AIN_SNOW_COUNT]; omega))]
  · rw [nextSeq_snowLog, nextSeq_setSnow]
  · exact onlyRegsAin_trans (onlyRegsAin_mono (by simp) hset) (onlyRegsAin_mono (by simp) (onlyRegsAin_snowLog _ a add))

/-! Step 15 (R55). -/

/-- Each cause but `log` is a bit apart from that of `log`. -/
theorem intCause_apart_log {c : IntCause} (hc : c ≠ .log) : c.fld.lo + c.fld.width ≤ 32 ∧
    (c.fld.lo + c.fld.width ≤ F.MGMT_INT_CAUSE_log.lo ∨ F.MGMT_INT_CAUSE_log.lo + F.MGMT_INT_CAUSE_log.width ≤ c.fld.lo) := by
  revert hc
  cases c <;> decide

/-- The log's counts lie apart from the causes. -/
theorem fget_logCount_cause {c : IntCause} {b : Nat} {w : Fld} (x : Chip) (hc : c ≠ .log) (hb : b ≠ R.MGMT_INT_CAUSE)
    (hw : w.addr = R.MGMT_FAULT_STATUS) : fget (count x b w 1) c.fld = fget x c.fld :=
  fget_count_apart x 1 (intCause_apart_log hc).1 (by rw [intCause_addr]; exact hb.symm)
    (Or.inl (by rw [intCause_addr, hw]; decide))

theorem fget_pushEntry_cause {c : IntCause} (x : Chip) (e : Entry) (hc : c ≠ .log) :
    fget (pushEntry x e) c.fld = fget x c.fld := by
  have hlost : fget (entryLost x) c.fld = fget x c.fld := by
    unfold entryLost
    split
    · exact fget_logCount_cause x hc (by decide) rfl
    · rfl
  have hplace : fget (entryPlace (entryLost x) e) c.fld = fget (entryLost x) c.fld :=
    fget_logCount_cause _ hc (by decide) rfl
  rw [← hlost, ← hplace, pushEntry, entryCause]
  dsimp only
  split
  · exact fget_fset_apart _ _ _ _ (intCause_apart_log hc).1 (Or.inr (intCause_apart_log hc).2)
  · rfl

theorem fget_pushEntries_cause {c : IntCause} (hc : c ≠ .log) (l : List Entry) : ∀ x : Chip,
    fget (pushEntries x l) c.fld = fget x c.fld := by
  induction l with
  | nil => exact fun x => rfl
  | cons e l ih => exact fun x => (ih _).trans (fget_pushEntry_cause x e hc)

/-- An event sets no cause but `log` (R380). -/
theorem fget_raise_cause (x : Chip) (src code : Nat) (args : List Byte) {c : IntCause} (hc : c ≠ .log) :
    fget (raise x src code args) c.fld = fget x c.fld := by
  unfold raise raiseAt
  dsimp only
  split
  · exact fget_pushEntries_cause hc _ _
  · split
    · rfl
    · exact fget_logCount_cause _ hc (by decide) rfl

/-- The flag and the cause of an over-range sample at step 15. -/
def satShown (x : Chip) (a : Nat) : Chip := setCause (fset x (F.AIN_STATUS_att_sat a) 1) .ain

theorem onlyRegsAin_satShown (x : Chip) (a : Nat) : OnlyRegsAin [R.AIN_STATUS a] x (satShown x a) :=
  onlyRegsAin_trans (onlyRegsAin_fset (f := F.AIN_STATUS_att_sat a) x 1 (by simp [F.AIN_STATUS_att_sat]))
    (onlyRegsAin_setCause _ _ _)

theorem fget_satShown {f : Fld} (x : Chip) (hb : f.addr < 0x300) :
    fget (satShown x a) f = fget (fset x (F.AIN_STATUS_att_sat a) 1) f :=
  congrArg (getBits · f.lo f.width) (rd_fset_ne _ _ _ _ (by rw [intCause_addr]; simp only [R.MGMT_INT_CAUSE]; omega))

theorem snowAdd_below (h : fget x (F.AIN_ATT_total a) < 15) :
    snowAdd x a = snowLog (setSnow x a (min (snowRoom x a) (fget x (F.AIN_ATT_snow a) + 3))) a 1 := if_neg (Nat.not_le.2 h)

/-- At step 15 the event comes once an episode. -/
theorem snowAdd_top (h : fget x (F.AIN_ATT_total a) = 15) : snowAdd x a =
    if (ainOf x a).satLogged then satShown x a
    else raise (setAin (satShown x a) a { ainOf x a with satLogged := true }) (srcAin a) 0x03 (b1 15) :=
  if_pos (Nat.le_of_eq h.symm)

theorem snowAdd_top_effect (ha : a < 4) (h : fget x (F.AIN_ATT_total a) = 15) :
    fget (snowAdd x a) (F.AIN_STATUS_att_sat a) = 1 ∧ fget (snowAdd x a) F.MGMT_INT_CAUSE_ain = 1 ∧
      fget (snowAdd x a) (F.AIN_STATUS_ovr a) = fget x (F.AIN_STATUS_ovr a) ∧
      nextSeq (snowAdd x a) (srcAin a) = nextSeq x (srcAin a) + (if (ainOf x a).satLogged then 0 else 1) ∧
      (ainOf (snowAdd x a) a).satLogged = true ∧ OnlyRegsAin [R.AIN_STATUS a] x (snowAdd x a) := by
  have hlt : R.AIN_STATUS a < 0x300 := by
    simp only [R.AIN_STATUS]
    omega
  have hsat : fget (satShown x a) (F.AIN_STATUS_att_sat a) = 1 :=
    (fget_satShown x hlt).trans (fget_fset_same _ _ _ (by simp [F.AIN_STATUS_att_sat]))
  have hovr : fget (satShown x a) (F.AIN_STATUS_ovr a) = fget x (F.AIN_STATUS_ovr a) :=
    (fget_satShown x hlt).trans (fget_fset_apart _ _ _ _ (by simp [F.AIN_STATUS_ovr])
      (by simp [F.AIN_STATUS_ovr, F.AIN_STATUS_att_sat]))
  have hain : fget (satShown x a) F.MGMT_INT_CAUSE_ain = 1 := fget_fset_same _ _ _ (by decide)
  have hframe := onlyRegsAin_satShown x a
  have hseq : nextSeq (satShown x a) (srcAin a) = nextSeq x (srcAin a) := rfl
  rw [snowAdd_top h]
  cases hs : (ainOf x a).satLogged with
  | true =>
    refine ⟨hsat, hain, hovr, ?_, hs, hframe⟩
    rw [if_pos rfl, if_pos rfl, hseq]
    exact (BitVec.add_zero _).symm
  | false =>
    have hlog : R.AIN_STATUS a ∉ logRegs := not_logRegs_of_lt (by omega)
    rw [if_neg Bool.false_ne_true, if_neg Bool.false_ne_true]
    refine ⟨?_, ?_, ?_, ?_, ?_, ?_⟩
    · rw [fget_raise _ _ _ _ _ hlog, fget_setAin, hsat]
    · rw [show F.MGMT_INT_CAUSE_ain = IntCause.ain.fld from rfl, fget_raise_cause _ _ _ _ (by decide), fget_setAin]
      exact hain
    · rw [fget_raise _ _ _ _ _ hlog, fget_setAin, hovr]
    · rw [nextSeq_raise_same, nextSeq_setAin, hseq]
    · rw [ainOf_raise, ainOf_setAin_same]
    · exact onlyRegsAin_trans hframe (onlyRegsAin_trans (onlyRegsAin_setAin _ _ _ _) (onlyRegsAin_raise _ _ _ _ _))

/-! The commands. -/

theorem exec_ovr {t : Nat} {s : State} (ha : a < 4) (hp : ainPowered s.chip a = true) :
    exec (.ovr a t) s = .next (onChip (fun x => ovrBegin x a t) s) := congrArg Host.Outcome.next (if_pos ⟨ha, hp⟩)

theorem exec_snowStep {t : Nat} {near : Bool} {s : State} (ha : a < 4) (hp : ainPowered s.chip a = true) :
    exec (.snowStep a t near) s = .next (onChip (fun x => snowSample x a t near) s) :=
  congrArg Host.Outcome.next (if_pos ⟨ha, hp⟩)

theorem exec_snowRelease {s : State} (ha : a < 4) (hp : ainPowered s.chip a = true) :
    exec (.snowRelease a) s = .next (onChip (fun x => snowDown x a) s) := congrArg Host.Outcome.next (if_pos ⟨ha, hp⟩)

/-- An input that is not powered takes no sample. -/
theorem exec_unpowered {t : Nat} {near : Bool} {s : State} (hp : ainPowered s.chip a = false) :
    exec (.ovr a t) s = .next s ∧ exec (.snowStep a t near) s = .next s ∧ exec (.snowRelease a) s = .next s := by
  have h : ¬(a < 4 ∧ ainPowered s.chip a = true) := fun h => Bool.false_ne_true (hp.symm.trans h.2)
  exact ⟨congrArg Host.Outcome.next (if_neg h), congrArg Host.Outcome.next (if_neg h), congrArg Host.Outcome.next (if_neg h)⟩

/-- A sample that the snowplough takes (R53, R55). -/
theorem snowSample_top (x : Chip) (t : Nat) (ha : a < 4) (he : fon x (F.AIN_CFG_snow_en a) = true) :
    snowSample x a t false = snowAdd (sampleTaken x a t) a := by
  rw [snowSample_eq x t false ha, he, if_pos (by rfl)]

/-- A sample that the snowplough takes below step 15. -/
theorem snowSample_below (x : Chip) (t : Nat) (ha : a < 4) (he : fon x (F.AIN_CFG_snow_en a) = true)
    (h : fget x (F.AIN_ATT_total a) < 15) : snowSample x a t false =
    snowLog (setSnow (sampleTaken x a t) a (min (15 - planActing x a) (fget x (F.AIN_ATT_snow a) + 3))) a 1 := by
  have htot : fget (sampleTaken x a t) (F.AIN_ATT_total a) = fget x (F.AIN_ATT_total a) := fget_sampleTaken_at 0x0C ha (by decide)
  have hsnow : fget (sampleTaken x a t) (F.AIN_ATT_snow a) = fget x (F.AIN_ATT_snow a) := fget_sampleTaken_at 0x0C ha (by decide)
  rw [snowSample_top x t ha he, snowAdd_below (htot.trans_lt h), snowRoom, planActing_sampleTaken x t ha, hsnow]

/-- A sample that the snowplough leaves. -/
theorem snowSample_left (x : Chip) (t : Nat) {near : Bool} (ha : a < 4)
    (h : near = true ∨ fon x (F.AIN_CFG_snow_en a) = false) : snowSample x a t near = sampleTaken x a t := by
  rw [snowSample_eq x t near ha, if_neg]
  rcases h with h | h <;> simp [h]

theorem snowDown_lowers (h : fget x (F.AIN_ATT_snow a) ≠ 0) :
    snowDown x a = snowLog (setSnow x a (fget x (F.AIN_ATT_snow a) - 1)) a 0 := if_neg h

/-- The sample's flag and time stand after the offset has grown. -/
theorem snowSample_below_sample (x : Chip) (t n : Nat) (ha : a < 4) :
    let y := snowLog (setSnow (sampleTaken x a t) a n) a 1
    fget y (F.AIN_STATUS_ovr a) = 1 ∧ rd y (R.AIN_OVR_TIME a) = BitVec.ofNat 32 t := by
  constructor
  · rw [fget_snowLog _ _ (by simp [F.AIN_STATUS_ovr]) (by simp only [F.AIN_STATUS_ovr, R.AIN_STATUS]; omega)
      (by simp [F.AIN_STATUS_ovr, R.AIN_STATUS, R.AIN_SNOW_COUNT]) (by simp [F.AIN_STATUS_ovr]),
      fget_setSnow_apart _ _ (by simp [F.AIN_STATUS_ovr]) (by simp [F.AIN_STATUS_ovr, R.AIN_STATUS, R.AIN_ATT])
        (by simp [F.AIN_STATUS_ovr]), fget_sampleTaken_ovr x t ha]
  · have hlog : R.AIN_OVR_TIME a ∉ logRegs := not_logRegs_of_lt (by simp only [R.AIN_OVR_TIME]; omega)
    rw [(onlyRegsAin_snowLog _ a 1).2 _ (by simp [R.AIN_OVR_TIME, R.AIN_STATUS, R.AIN_SNOW_COUNT]) hlog,
      (onlyRegsAin_setSnow _ a n).2 _ (by simp [R.AIN_OVR_TIME, R.AIN_STATUS, R.AIN_ATT]) hlog, rd_sampleTaken_time x t ha]

/-- Settles O29: each command by its rule, on powered inputs below and at step 15, and on inputs that are not powered. -/
theorem overRangeAndSnowplough : Obligations.OverRangeAndSnowplough := by
  unfold Obligations.OverRangeAndSnowplough
  refine ⟨fun a t s ha hp => ?ovr, fun a ns w x _ => ?taint, fun a t s ha hp he hlt => ?below, fun a t s ha hp he htop => ?top,
    fun a t near s ha hp hl => ?left, fun a s ha hp hn => ?release, fun a s ha hp h0 => ?zero, fun a t near s => exec_unpowered⟩
  case ovr => rw [exec_ovr ha hp]; rfl
  case taint =>
    refine ⟨fun u h1 h2 => ?_, ?_, rd_taintWindow x a w ns, onlyRegsAin_taintWindow x a w ns⟩
    · rw [ainOf_taintWindow]
      exact heldAt_spanAdd _ _ h1 h2
    · rw [ainOf_taintWindow]
  case below =>
    have hn : min (15 - planActing s.chip a) (fget s.chip (F.AIN_ATT_snow a) + 3) < 16 := by omega
    obtain ⟨hovr, htime⟩ := snowSample_below_sample s.chip t (a := a) _ ha
    obtain ⟨hsnow, htot, _, hcount, hseq, hframe⟩ := snowChange_effect (sampleTaken s.chip a t) 1 ha hn
    rw [exec_snowStep ha hp, onChip, snowSample_below _ t ha he hlt]
    refine ⟨_, rfl, rfl, hovr, htime, hsnow, ?_, ?_, ?_, ?_⟩
    · rw [htot, hsnow, planActing_sampleTaken _ t ha]
    · rw [hcount, rd_sampleTaken t]
      all_goals
        simp only [R.AIN_SNOW_COUNT, R.AIN_STATUS, R.AIN_OVR_TIME]
        omega
    · rw [hseq, nextSeq_sampleTaken]
    · exact onlyRegsAin_trans (onlyRegsAin_mono (by simp) (onlyRegsAin_sampleTaken s.chip a t))
        (onlyRegsAin_mono (by simp) hframe)
  case top =>
    have htot : fget (sampleTaken s.chip a t) (F.AIN_ATT_total a) = 15 := (fget_sampleTaken_at 0x0C ha (by decide)).trans htop
    obtain ⟨hsat, hain, hovr, hseq, hlogged, hframe⟩ := snowAdd_top_effect ha htot
    have htime : R.AIN_OVR_TIME a ∉ [R.AIN_STATUS a] := by simp [R.AIN_OVR_TIME, R.AIN_STATUS]
    rw [exec_snowStep ha hp, onChip, snowSample_top _ t ha he]
    refine ⟨_, rfl, rfl, ?_, ?_, hsat, hain, ?_, hlogged, ?_⟩
    · rw [hovr, fget_sampleTaken_ovr _ t ha]
    · rw [hframe.2 _ htime (not_logRegs_of_lt (by simp only [R.AIN_OVR_TIME]; omega)), rd_sampleTaken_time _ t ha]
    · rw [hseq, nextSeq_sampleTaken, satLogged_sampleTaken]
    · exact onlyRegsAin_trans (onlyRegsAin_sampleTaken s.chip a t) (onlyRegsAin_mono (by simp) hframe)
  case left => rw [exec_snowStep ha hp, onChip, onChip, snowSample_left _ _ ha hl]; rfl
  case release =>
    have hlt : fget s.chip (F.AIN_ATT_snow a) < 16 := getBits_lt _ _ _
    obtain ⟨hsnow, _, hflag, hcount, _, hframe⟩ := snowChange_effect s.chip 0 ha (Nat.lt_of_le_of_lt (Nat.sub_le _ 1) hlt)
    rw [exec_snowRelease ha hp, onChip, snowDown_lowers hn]
    refine ⟨_, rfl, rfl, hsnow, hflag.trans ?_, hcount, hframe⟩
    rw [Bool.eq_iff_iff, bne_iff_ne, decide_eq_true_iff]
    omega
  case zero => rw [exec_snowRelease ha hp, onChip, snowDown, if_pos h0]

end Sys2Proof.Machine
end

section
/-! Input states, planner, preselector and forced taint (R47, R48, R51, R52, R72, R96): what a change of state and of the planned
step leaves, the planner's window, and the statement about them. -/
namespace Sys2Proof.Machine

variable {x y : Chip} {a : Nat}

/-! A change of state (R52). -/

theorem inputsStay_setAin (x : Chip) (a : Nat) (r : AinRt) : InputsStay x (setAin x a r) := inputsStay_of_regs rfl

theorem inputsStay_setCal (x : Chip) (a : Nat) (c : CalRt) : InputsStay x (setCal x a c) := inputsStay_of_regs rfl

theorem inputsStay_runGone (x : Chip) (a : Nat) : InputsStay x (runGone x a) := by
  have hs : OffInputs (F.CAL_STATUS_busy.bit a).addr := Or.inr (by simp [Fld.bit, F.CAL_STATUS_busy, R.CAL_STATUS])
  have hc : OffInputs (F.CAL_CTRL_run.bit a).addr := Or.inr (by simp [Fld.bit, F.CAL_CTRL_run, R.CAL_CTRL])
  exact ((inputsStay_setCal x a _).trans (inputsStay_fset _ 0 hs)).trans (inputsStay_fset _ 0 hc)

theorem inputsStay_calAbandon (x : Chip) (a : Nat) : InputsStay x (calAbandon x a) := by
  unfold calAbandon
  dsimp only
  split
  · exact ((inputsStay_setCal x a _).trans (inputsStay_setCal _ a _)).trans (inputsStay_runGone _ a)
  · exact inputsStay_setCal x a _

/-- What a change of state does between the state's field and its event: the splitter's taint, a run abandoned (R78, R97). -/
def stateTaken (x : Chip) (a st : Nat) : Chip :=
  let x1 := fflag (fset x (F.AIN_STATUS_state a) st) (F.SPL_STATUS_taint.bit a) (st != stRun)
  if ainState x a = stRun then taintTurn (calAbandon x1 a) a true else if st = stRun then taintTurn x1 a false else x1

theorem setAinState_eq (x : Chip) (a st : Nat) : setAinState x a st = if ainState x a = st then x else
    showTotal (raise (stateTaken x a st) (srcAin a) 0x0B (b1 (ainState x a) ++ b1 st)) a := rfl

theorem inputsStay_stateTaken (x : Chip) (a st : Nat) : InputsStay (fset x (F.AIN_STATUS_state a) st) (stateTaken x a st) := by
  have h1 : InputsStay (fset x (F.AIN_STATUS_state a) st)
      (fflag (fset x (F.AIN_STATUS_state a) st) (F.SPL_STATUS_taint.bit a) (st != stRun)) :=
    inputsStay_fset _ _ (Or.inr (by simp [Fld.bit, F.SPL_STATUS_taint, R.SPL_STATUS]))
  exact h1.trans (InputsStay.ite ((inputsStay_calAbandon _ a).trans (inputsStay_setAin _ a _))
    (InputsStay.ite (inputsStay_setAin _ a _) (inputsStay_refl _)))

/-- The total writes bits of its own alone. -/
theorem fget_showTotal_apart {f : Fld} (x : Chip) (h32 : f.lo + f.width ≤ 32) (ht : f.addr ≠ R.AIN_ATT a ∨ f.lo + f.width ≤ 24) :
    fget (showTotal x a) f = fget x f :=
  fget_fset_apart _ _ _ _ h32 (ht.imp_right Or.inl)

/-- A change of state leaves every field of the inputs but the state and the total. -/
theorem fget_setAinState_apart {f : Fld} (x : Chip) (st : Nat) (hf : InputFld f) (hs : f.addr ≠ R.AIN_STATUS a ∨ 3 ≤ f.lo)
    (ht : f.addr ≠ R.AIN_ATT a ∨ f.lo + f.width ≤ 24) : fget (setAinState x a st) f = fget x f := by
  rw [setAinState_eq]
  split
  · rfl
  · rw [fget_showTotal_apart _ hf.2.2.1 ht, inputsStay_raise _ _ _ _ f hf, inputsStay_stateTaken x a st f hf,
      fget_fset_apart _ _ _ _ hf.2.2.1 (hs.imp_right Or.inr)]

theorem ainState_setAinState {st : Nat} (x : Chip) (ha : a < 4) (hst : st < 8) : ainState (setAinState x a st) a = st := by
  rw [setAinState_eq]
  split
  next h => exact h
  next =>
    have hf : InputFld (F.AIN_STATUS_state a) := inputFld_at 0x14 ha (by decide)
    rw [ainState, fget_showTotal_apart _ hf.2.2.1 (by simp [F.AIN_STATUS_state, R.AIN_STATUS, R.AIN_ATT]),
      inputsStay_raise _ _ _ _ _ hf, inputsStay_stateTaken x a st _ hf, fget_fset_same _ _ _ hf.2.2.1]
    exact Nat.mod_eq_of_lt hst

theorem exec_settleDone {s : State} (ha : a < 4) : exec (.settleDone a) s = .next (onChip (fun x => settleDone x a) s) :=
  congrArg Host.Outcome.next (if_pos ha)

/-! The planned step (R51, R52). -/

theorem fget_setPlan_plan {p : Nat} (x : Chip) (hp : p < 16) : fget (setPlan x a p) (F.AIN_ATT_plan a) = p := by
  rw [setPlan, fget_showTotal_apart _ (by simp [F.AIN_ATT_plan]) (by simp [F.AIN_ATT_plan]),
    fget_fset_same _ _ _ (by simp [F.AIN_ATT_plan])]
  exact Nat.mod_eq_of_lt hp

theorem fget_setPlan_ne {f : Fld} (x : Chip) (p : Nat) (h32 : f.lo + f.width ≤ 32) (h : f.addr ≠ R.AIN_ATT a) :
    fget (setPlan x a p) f = fget x f := by
  rw [setPlan, fget_showTotal_apart _ h32 (Or.inl h), fget_fset_apart _ _ _ _ h32 (Or.inl h)]

theorem ainOf_setPlan (x : Chip) (a p : Nat) : ainOf (setPlan x a p) a = ainOf x a := by
  rw [setPlan, showTotal, ainOf, fset_ain, fset_ain, ainOf]

theorem inputsStay_runAuto (x : Chip) (a cause : Nat) : InputsStay x (runAuto x a cause) := by
  have hs : OffInputs (F.CAL_STATUS_busy.bit a).addr := Or.inr (by simp [Fld.bit, F.CAL_STATUS_busy, R.CAL_STATUS])
  have hr : InputsStay x (runStart x a cause) :=
    InputsStay.ite ((inputsStay_setCal x a _).trans (inputsStay_fset _ 1 hs)) (inputsStay_refl x)
  exact InputsStay.ite hr (inputsStay_refl x)

theorem inputsStay_calEnterRun (x : Chip) (a : Nat) : InputsStay x (calEnterRun x a) :=
  (inputsStay_setCal x a _).trans (InputsStay.ite (inputsStay_runAuto _ a 0)
    (InputsStay.ite (inputsStay_runAuto _ a 1) (inputsStay_refl _)))

/-- The step with which PLAN ends (R52). -/
def planChosen (x : Chip) (a : Nat) (peak : Option Int) : Nat :=
  if fon x (F.AIN_CFG_att_auto a) then planFound x a peak else fget x (F.AIN_ATT_man a)

theorem inputsStay_planDone (x : Chip) (a : Nat) (peak : Option Int) :
    InputsStay (setPlan (setAinState x a stRun) a (planChosen x a peak)) (planDone x a peak) :=
  (inputsStay_setAin _ a _).trans (inputsStay_calEnterRun _ a)

theorem ainState_planDone (x : Chip) (peak : Option Int) (ha : a < 4) : ainState (planDone x a peak) a = stRun := by
  rw [ainState_stays ha (inputsStay_planDone x a peak), ainState, fget_setPlan_ne _ _ (by simp [F.AIN_STATUS_state])
    (by simp [F.AIN_STATUS_state, R.AIN_STATUS, R.AIN_ATT])]
  exact ainState_setAinState x ha (by decide)

theorem fget_planDone_plan {peak : Option Int} (x : Chip) (ha : a < 4) (hp : planChosen x a peak < 16) :
    fget (planDone x a peak) (F.AIN_ATT_plan a) = planChosen x a peak :=
  (inputsStay_planDone x a peak _ (inputFld_at 0x0C ha (by decide))).trans (fget_setPlan_plan _ hp)

theorem exec_planDone {peak : Option Int} {s : State} (ha : a < 4) (h : ainState s.chip a = stPlan) : exec (.planDone a peak) s =
    .next (onChip (fun x => after (srcAin a) (fun y => restartOn y a) (planDone x a peak)) s) :=
  congrArg Host.Outcome.next (if_pos ⟨ha, h⟩)

theorem exec_planDone_elsewhere {peak : Option Int} {s : State} (h : ainState s.chip a ≠ stPlan) :
    exec (.planDone a peak) s = .next s := congrArg Host.Outcome.next (if_neg fun hc => h hc.2)

/-- Step k qualifies in PLAN with a peak p measured at `max` (R52): its predicted peak is 2 dB below `hi`. -/
def stepFits (x : Chip) (a : Nat) (p : Int) (k : Nat) : Prop := p + 2 * ((planMax x a : Int) - k) ≤ planHi x a - 2

/-- PLAN finds the first step that qualifies, and `max` where none does (R52). -/
theorem planFound_spec (x : Chip) (a : Nat) (p : Int) (hm : planMin x a ≤ planMax x a) :
    planMin x a ≤ planFound x a (some p) ∧ planFound x a (some p) ≤ planMax x a ∧
      (planFound x a (some p) < planMax x a → stepFits x a p (planFound x a (some p))) ∧
      ∀ j, planMin x a ≤ j → j < planFound x a (some p) → ¬ stepFits x a p j := by
  have hmax : planMax x a < 16 := getBits_lt _ _ _
  rw [planFound]
  cases hf : (List.range 16).find? fun k => decide (planMin x a ≤ k) && decide (k ≤ planMax x a) &&
      decide (p + 2 * ((planMax x a : Int) - k) ≤ planHi x a - 2) with
  | none =>
    rw [Option.getD_none]
    refine ⟨hm, Nat.le_refl _, fun h => absurd h (Nat.lt_irrefl _), fun j h1 h2 hfit => ?_⟩
    have hj := List.find?_eq_none.1 hf j (List.mem_range.2 (by omega))
    simp only [Bool.and_eq_true, decide_eq_true_eq] at hj
    exact hj ⟨⟨h1, Nat.le_of_lt h2⟩, hfit⟩
  | some k =>
    obtain ⟨hk, _, hmin⟩ := List.find?_range_eq_some.1 hf
    simp only [Bool.and_eq_true, decide_eq_true_eq, Bool.not_eq_true', Bool.and_eq_false_imp, decide_eq_false_iff_not] at hk hmin
    obtain ⟨⟨hlo, hhi⟩, hfit⟩ := hk
    rw [Option.getD_some]
    exact ⟨hlo, hhi, fun _ => hfit, fun j h1 h2 => hmin j h2 ⟨h1, by omega⟩⟩

/-! The planner's window (R51, R72). -/

theorem exec_gainStep {peak rms : Int} {s : State} (ha : a < 4) :
    exec (.gainStep a peak rms) s = .next (onChip (fun x => gainWindow x a peak rms) s) := congrArg Host.Outcome.next (if_pos ha)

theorem exec_gainStep_off {peak rms : Int} {s : State} (h : ainState s.chip a = stOff) :
    exec (.gainStep a peak rms) s = .next s := by
  refine congrArg Host.Outcome.next (ite_eq_right_iff.2 fun _ => ?_)
  rw [onChip, gainWindow, if_pos h]

/-- The level of a window as `AINa_LEVEL` shows it (R72). -/
def levelShown (x : Chip) (a : Nat) (peak rms : Int) : Chip :=
  fset (fset x (F.AIN_LEVEL_peak a) (tcomp 8 peak)) (F.AIN_LEVEL_rms a) (tcomp 8 rms)

theorem gainWindow_shows {peak rms : Int} (h : ainState x a ≠ stOff)
    (hn : ¬(ainState x a = stRun ∧ fon x (F.AIN_CFG_att_auto a) = true)) :
    gainWindow x a peak rms = levelShown x a peak rms := (if_neg h).trans (if_neg hn)

theorem gainWindow_plans {peak rms : Int} (h : ainState x a = stRun) (hn : fon x (F.AIN_CFG_att_auto a) = true) :
    gainWindow x a peak rms = planWindow (planCheck (levelShown x a peak rms) a) a peak :=
  (if_neg (by rw [h]; decide)).trans (if_pos ⟨h, hn⟩)

theorem tcomp_lt (w : Nat) (i : Int) : tcomp w i < 2 ^ w := by
  have h : (0 : Int) < 2 ^ w := by positivity
  have h1 := Int.emod_lt_of_pos i h
  have h2 := Int.emod_nonneg i (ne_of_gt h)
  rw [tcomp]
  zify
  rwa [Int.toNat_of_nonneg h2]

theorem fget_levelShown (x : Chip) (a : Nat) (peak rms : Int) :
    fget (levelShown x a peak rms) (F.AIN_LEVEL_peak a) = tcomp 8 peak ∧
    fget (levelShown x a peak rms) (F.AIN_LEVEL_rms a) = tcomp 8 rms := by
  constructor
  · rw [levelShown, fget_fset_apart _ _ _ _ (by simp [F.AIN_LEVEL_peak]) (by simp [F.AIN_LEVEL_peak, F.AIN_LEVEL_rms]),
      fget_fset_same _ _ _ (by simp [F.AIN_LEVEL_peak])]
    exact Nat.mod_eq_of_lt (tcomp_lt 8 peak)
  · rw [levelShown, fget_fset_same _ _ _ (by simp [F.AIN_LEVEL_rms])]
    exact Nat.mod_eq_of_lt (tcomp_lt 8 rms)

theorem onlyRegs_levelShown (x : Chip) (a : Nat) (peak rms : Int) : OnlyRegs [R.AIN_LEVEL a] x (levelShown x a peak rms) :=
  onlyRegs_trans (onlyRegs_fset (f := F.AIN_LEVEL_peak a) x _ (by simp [F.AIN_LEVEL_peak]))
    (onlyRegs_fset (f := F.AIN_LEVEL_rms a) _ _ (by simp [F.AIN_LEVEL_rms]))

theorem inputsStay_planCheck (x : Chip) (a : Nat) : InputsStay x (planCheck x a) :=
  InputsStay.ite (InputsStay.ite (inputsStay_refl x) ((inputsStay_setAin x a _).trans (inputsStay_raise _ _ _ _)))
    (inputsStay_setAin x a _)

theorem onlyRegsAin_planCheck (l : List Nat) (x : Chip) (a : Nat) : OnlyRegsAin l x (planCheck x a) := by
  unfold planCheck
  dsimp only
  split
  · split
    · exact onlyRegsAin_of_onlyRegs ⟨rfl, fun _ _ => rfl⟩
    · exact onlyRegsAin_trans (onlyRegsAin_setAin _ _ _ _) (onlyRegsAin_raise _ _ _ _ _)
  · exact onlyRegsAin_setAin _ _ _ _

/-- The check of the thresholds notes whether they are bad, and nothing else. -/
theorem ainOf_planCheck (x : Chip) (a : Nat) : ∃ b, ainOf (planCheck x a) a = { ainOf x a with planBad := b } := by
  unfold planCheck
  dsimp only
  split
  · split
    next hb => exact ⟨true, by rw [← hb]⟩
    next => exact ⟨true, by rw [ainOf_raise, ainOf_setAin_same]⟩
  · exact ⟨false, ainOf_setAin_same _ _ _⟩

/-- What the planner reads is not changed by the window's level and the check of its thresholds. -/
theorem rd_window (x : Chip) (peak rms : Int) {b : Nat} (hb : InputFld ⟨b, 0, 32⟩) (hl : b ≠ R.AIN_LEVEL a) :
    rd (planCheck (levelShown x a peak rms) a) b = rd x b :=
  ((inputsStay_planCheck _ a).rd_eq hb).trans ((onlyRegs_levelShown x a peak rms).2 b (by simpa using hl))

theorem ainOf_window (x : Chip) (a : Nat) (peak rms : Int) :
    ∃ b, ainOf (planCheck (levelShown x a peak rms) a) a = { ainOf x a with planBad := b } :=
  ainOf_planCheck (levelShown x a peak rms) a

/-- The planned step, counted afresh, with its event. -/
theorem planStep_effect {p : Nat} (x : Chip) (peak : Int) (ha : a < 4) (hp : p < 16) :
    fget (planStep x a p peak) (F.AIN_ATT_plan a) = p ∧ (ainOf (planStep x a p peak) a).gap = 0 := by
  have hf : InputFld (F.AIN_ATT_plan a) := inputFld_at 0x0C ha (by decide)
  constructor
  · rw [planStep, inputsStay_raise _ _ _ _ _ hf, fget_setPlan_plan _ hp]
  · rw [planStep, ainOf_raise, ainOf_setPlan, ainOf_setAin_same]

/-- The third window above `hi`, 100 ms after the last step, raises the plan (R51). -/
theorem planWindow_raises {peak : Int} (hs : (ainOf x a).snowSeen = false) (hh : 2 ≤ (ainOf x a).hiRun)
    (hg : 9 ≤ (ainOf x a).gap) (hp : planHi x a < peak) (hm : fget x (F.AIN_ATT_plan a) < planMax x a) :
    ∃ r, planWindow x a peak = planStep (setAin x a r) a (fget x (F.AIN_ATT_plan a) + 1) peak := by
  have hrun : (if planHi x a < peak then (ainOf x a).hiRun + 1 else 0) = (ainOf x a).hiRun + 1 := if_pos hp
  unfold planWindow
  dsimp only
  rw [hs, if_neg Bool.false_ne_true, hrun, if_pos ⟨by omega, by omega, hm⟩]
  exact ⟨_, rfl⟩

/-- A window with an offset leaves the plan and the runs of windows (R51). -/
theorem planWindow_snow {peak : Int} (hs : (ainOf x a).snowSeen = true) : planWindow x a peak =
    setAin x a { ainOf x a with gap := (ainOf x a).gap + 1, snowSeen := fon x (F.AIN_ATT_snow a) } := if_pos hs

/-! The preselector (R47, R48). -/

theorem exec_presel {stable : Bool} {s : State} (ha : a < 4) (hd : dUp s.chip = true) :
    exec (.presel a stable) s = .next (onChip (fun x => preselEval x a stable) s) :=
  congrArg Host.Outcome.next (if_pos ⟨ha, hd⟩)

theorem fget_setPresel {p : Nat} (x : Chip) (ha : a < 4) (hp : p < 8) : fget (setPresel x a p) (F.AIN_PRESEL_now a) = p := by
  have hf : InputFld (F.AIN_PRESEL_now a) := inputFld_at 0x08 ha (by decide)
  have hs : fget (fset x (F.AIN_PRESEL_now a) p) (F.AIN_PRESEL_now a) = p :=
    (fget_fset_same _ _ _ (by simp [F.AIN_PRESEL_now])).trans (Nat.mod_eq_of_lt hp)
  unfold setPresel
  dsimp only
  split
  next h => exact h
  next =>
    split
    · rw [inputsStay_taintWindow _ _ _ _ _ hf, inputsStay_raise _ _ _ _ _ hf, hs]
    · rw [inputsStay_raise _ _ _ _ _ hf, hs]

theorem preselOf_lt (v : Nat) : preselOf v < 8 := by
  unfold preselOf
  split <;> omega

theorem preselBest_lt (x : Chip) (a : Nat) : preselBest x a < 8 := by
  unfold preselBest
  cases h : [3, 4, 1, 2, 0].find? (preselFits x a) with
  | none => decide
  | some p =>
    have hm := List.mem_of_find?_eq_some h
    simp only [List.mem_cons, List.not_mem_nil, or_false] at hm
    rw [Option.getD_some]
    omega

theorem preselEval_fixed (stable : Bool) (h : fon x (F.AIN_CFG_presel_auto a) = false) :
    preselEval x a stable = preselSweep (setPresel x a (preselOf (fget x (F.AIN_PRESEL_sel a)))) a := by
  rw [preselEval, h]
  rfl

theorem preselEval_no_lanes (stable : Bool) (h : fon x (F.AIN_CFG_presel_auto a) = true) (hl : lanesOn x a = []) :
    preselEval x a stable = x := by
  rw [preselEval, h, hl]
  rfl

theorem preselEval_stable (h : fon x (F.AIN_CFG_presel_auto a) = true) (hl : lanesOn x a ≠ []) :
    preselEval x a true = setPresel x a (preselBest x a) := by
  rw [preselEval, h, if_pos rfl, if_neg (by simpa using hl), if_neg (by simp)]

/-! Forced taint (R96). -/

theorem exec_forcedTaint {s : State} (ha : a < 4) (hd : dUp s.chip = true) :
    exec (.forcedTaint a) s = .next (onChip (fun x => forcedTaint x a) s) := congrArg Host.Outcome.next (if_pos ⟨ha, hd⟩)

theorem exec_forcedTaint_down {s : State} (hd : dUp s.chip = false) : exec (.forcedTaint a) s = .next s :=
  congrArg Host.Outcome.next (if_neg fun h => Bool.false_ne_true (hd.symm.trans h.2))

/-- In 8.0 µs and the instant before them end 40 or 41 frames of 3125/16 ns. -/
theorem framesIn_window (x : Chip) (a : Nat) (t : Int) :
    framesIn x a (t - 1) (t + ofNs 8000) = 40 ∨ framesIn x a (t - 1) (t + ofNs 8000) = 41 := by
  unfold framesIn ofFrames ofNs
  dsimp only
  norm_num
  omega

/-- FORCED_TAINT of an input that no cause taints any more. -/
theorem rd_forcedTaint (x : Chip) (ha : a < 4) (h : (ainOf x a).caused < nowAt x) :
    ∃ k, (k = 40 ∨ k = 41) ∧ rd (forcedTaint x a) (R.SPL_TAINT a) = rd x (R.SPL_TAINT a) + k := by
  have hmax : max (nowAt x - 1) (ainOf x a).caused = nowAt x - 1 := max_eq_left (by omega)
  refine ⟨BitVec.ofNat 32 (framesIn x a (nowAt x - 1) (nowAt x + ofNs 8000)), ?_, ?_⟩
  · rcases framesIn_window x a (nowAt x) with hk | hk <;> simp [hk]
  · rw [forcedTaint, rd_raise _ _ _ _ _ (not_logRegs_of_lt (by simp only [R.SPL_TAINT]; omega)), rd_taintWindow, hmax]

/-- Settles O31: each command by its rule, in the state that takes it and in the others. -/
theorem inputStatesAndPlanner : Obligations.InputStatesAndPlanner := by
  unfold Obligations.InputStatesAndPlanner
  refine ⟨fun a s ha hs => ?settle, fun a s ha hs => ?settled, fun a peak s ha hp => ?planned,
    fun x a p hm => ?found, fun a peak s => exec_planDone_elsewhere, fun a peak rms s ha ho hn => ?shows,
    fun a peak rms s ha hr hauto hs hh hg hp hm => ?raises, fun a peak rms s ha hr hauto hs => ?snow,
    fun a peak rms s => exec_gainStep_off, fun a stable s ha hd => ?presel, fun a s ha hd hc => ?forced,
    fun a s ha hd => exec_forcedTaint ha hd, fun a s => exec_forcedTaint_down⟩
  case settle =>
    rw [exec_settleDone ha, onChip, settleDone, if_pos hs]
    exact ⟨_, rfl, rfl, ainState_setAinState _ ha (by decide), rfl⟩
  case settled => rw [exec_settleDone ha, onChip, settleDone, if_neg hs]
  case planned =>
    refine ⟨exec_planDone ha hp, ainState_planDone _ peak ha, fun hman => ?_, fun hauto hnone => ?_⟩
    · have hc : planChosen s.chip a peak = fget s.chip (F.AIN_ATT_man a) := if_neg (ne_true_of_eq_false hman)
      rw [← hc]
      exact fget_planDone_plan _ ha (hc ▸ getBits_lt _ _ _)
    · have hc : planChosen s.chip a peak = planMin s.chip a := (if_pos hauto).trans (by rw [hnone]; rfl)
      rw [← hc]
      exact fget_planDone_plan _ ha (hc ▸ getBits_lt _ _ _)
  case found =>
    obtain ⟨hlo, hhi, hfit, hmin⟩ := planFound_spec x a p hm
    exact ⟨hlo, hhi, hfit, fun j h1 h2 => Int.not_le.1 (hmin j h1 h2)⟩
  case shows => rw [exec_gainStep ha, onChip, onChip, gainWindow_shows ho hn]; rfl
  case raises =>
    obtain ⟨b, hain⟩ := ainOf_window s.chip a peak rms
    have hgain : R.AIN_GAINPLAN a ≠ R.AIN_LEVEL a := by simp [R.AIN_GAINPLAN, R.AIN_LEVEL]
    have hatt : R.AIN_ATT a ≠ R.AIN_LEVEL a := by simp [R.AIN_ATT, R.AIN_LEVEL]
    have hword := planWord_congr (rd_window s.chip peak rms (inputFld_at 0x10 ha (by decide)) hgain)
    have hplan : fget (planCheck (levelShown s.chip a peak rms) a) (F.AIN_ATT_plan a) = fget s.chip (F.AIN_ATT_plan a) :=
      congrArg (getBits · 8 4) (rd_window s.chip peak rms (inputFld_at 0x0C ha (by decide)) hatt)
    have hmax : planMax s.chip a < 16 := getBits_lt _ _ _
    obtain ⟨r, hr'⟩ := planWindow_raises (x := planCheck (levelShown s.chip a peak rms) a) (a := a) (peak := peak)
      (by rw [hain]; exact hs) (by rw [hain]; exact hh) (by rw [hain]; exact hg) (by rw [planHi, hword]; exact hp)
      (by rw [hplan, planMax, hword]; exact hm)
    rw [exec_gainStep ha, onChip, gainWindow_plans hr hauto, hr', hplan]
    exact ⟨_, rfl, rfl, planStep_effect _ peak ha (by omega)⟩
  case snow =>
    obtain ⟨b, hain⟩ := ainOf_window s.chip a peak rms
    obtain ⟨hpeak, hrms⟩ := fget_levelShown s.chip a peak rms
    have hstay := inputsStay_planCheck (levelShown s.chip a peak rms) a
    rw [exec_gainStep ha, onChip, gainWindow_plans hr hauto, planWindow_snow (by rw [hain]; exact hs)]
    refine ⟨_, rfl, rfl, ?_, ?_, ?_, ?_⟩
    · rw [fget_setAin, hstay (F.AIN_LEVEL_peak a) (inputFld_at 0x24 ha (by decide)), hpeak]
    · rw [fget_setAin, hstay (F.AIN_LEVEL_rms a) (inputFld_at 0x24 ha (by decide)), hrms]
    · exact onlyRegsAin_trans (onlyRegsAin_of_onlyRegs (onlyRegs_levelShown _ a peak rms))
        (onlyRegsAin_trans (onlyRegsAin_planCheck _ _ a) (onlyRegsAin_setAin _ _ _ _))
    · rw [ainOf_setAin_same, hain]
      exact ⟨rfl, rfl, rfl⟩
  case presel =>
    have hf : InputFld (F.AIN_PRESEL_now a) := inputFld_at 0x08 ha (by decide)
    refine ⟨_, exec_presel ha hd, rfl, fun hfix => ?_, fun hauto hl => ?_, fun hauto hl hst => ?_⟩
    · rw [onChip, preselEval_fixed stable hfix, inputsStay_preselSweep _ a _ hf, fget_setPresel _ ha (preselOf_lt _), preselOf]
    · rw [onChip, preselEval_no_lanes stable hauto hl]
    · rw [onChip, hst, preselEval_stable hauto hl, fget_setPresel _ ha (preselBest_lt _ a)]
  case forced =>
    refine ⟨_, exec_forcedTaint ha hd, rfl, rd_forcedTaint _ ha hc, ?_⟩
    rw [onChip, forcedTaint, nextSeq_raise_same, nextSeq_taintWindow]

end Sys2Proof.Machine
end

section
/-! Feed switch and input enables (R40 to R46, R52): what trips, clears and closes the switch, what an enable leaves of state and
switch, and the statement about them. -/
namespace Sys2Proof.Machine

variable {x : Chip} {a : Nat}

/-! Faults (R43, R44). -/

theorem exec_feedShort {mv : Nat} {s : State} (ha : a < 4) : exec (.feedShort a mv) s =
    .next (onChip (fun x => feedFault x a mv (F.AIN_STATUS_feed_short a) 0x08) s) := congrArg Host.Outcome.next (if_pos ha)

theorem exec_feedBack {mv : Nat} {s : State} (ha : a < 4) : exec (.feedBack a mv) s =
    .next (onChip (fun x => feedFault x a mv (F.AIN_STATUS_feed_back a) 0x09) s) := congrArg Host.Outcome.next (if_pos ha)

theorem feedFault_trips {flag : Fld} {mv code : Nat} (hj : feedJust x a = true) (hf : fon x flag = false) :
    feedFault x a mv flag code = raise (setCause (fset (feedTrip x a) flag 1) .ain) (srcAin a) code (b2s mv) :=
  if_pos (by rw [hj, hf]; rfl)

/-- An open switch and a flag that stands take no fault. -/
theorem feedFault_ignored {flag : Fld} {mv code : Nat} (h : feedJust x a = false ∨ fon x flag = true) :
    feedFault x a mv flag code = x := by
  refine if_neg ?_
  rcases h with h | h <;> simp [h]

theorem exec_feedShort_ignored {mv : Nat} {s : State}
    (h : feedJust s.chip a = false ∨ fon s.chip (F.AIN_STATUS_feed_short a) = true) : exec (.feedShort a mv) s = .next s :=
  congrArg Host.Outcome.next (ite_eq_right_iff.2 fun _ => by rw [onChip, feedFault_ignored h])

theorem exec_feedBack_ignored {mv : Nat} {s : State}
    (h : feedJust s.chip a = false ∨ fon s.chip (F.AIN_STATUS_feed_back a) = true) : exec (.feedBack a mv) s = .next s :=
  congrArg Host.Outcome.next (ite_eq_right_iff.2 fun _ => by rw [onChip, feedFault_ignored h])

/-! The open switch (R42). -/

theorem fget_feedOpen_on (x : Chip) (a : Nat) : fget (feedOpen x a) (F.AIN_STATUS_feed_on a) = 0 := by
  rw [feedOpen, fget_fset_apart _ _ _ _ (by simp [F.AIN_STATUS_feed_on]) (by simp [F.AIN_STATUS_feed_on, F.AIN_STATUS_feed_low]),
    fget_fset_same _ _ _ (by simp [F.AIN_STATUS_feed_on]), Nat.zero_mod]

theorem fget_feedOpen_low (x : Chip) (a : Nat) : fget (feedOpen x a) (F.AIN_STATUS_feed_low a) = 0 := by
  rw [feedOpen, fget_fset_same _ _ _ (by simp [F.AIN_STATUS_feed_low]), Nat.zero_mod]

/-- The switch's two bits are all that opening it writes. -/
theorem fget_feedOpen_apart {f : Fld} (x : Chip) (h32 : f.lo + f.width ≤ 32)
    (hs : f.addr ≠ R.AIN_STATUS a ∨ f.lo + f.width ≤ 16 ∨ 20 ≤ f.lo) : fget (feedOpen x a) f = fget x f := by
  rw [feedOpen, fget_fset_apart _ _ _ _ h32, fget_fset_apart _ _ _ _ h32]
  all_goals
    simp only [F.AIN_STATUS_feed_on, F.AIN_STATUS_feed_low]
    omega

theorem onlyRegs_feedOpen (x : Chip) (a : Nat) : OnlyRegs [R.AIN_STATUS a] x (feedOpen x a) :=
  onlyRegs_trans (onlyRegs_fset (f := F.AIN_STATUS_feed_on a) x 0 (by simp [F.AIN_STATUS_feed_on]))
    (onlyRegs_fset (f := F.AIN_STATUS_feed_low a) _ 0 (by simp [F.AIN_STATUS_feed_low]))

theorem feedTrip_effect (x : Chip) (a : Nat) : fget (feedTrip x a) (F.AIN_STATUS_feed_on a) = 0 ∧
    fget (feedTrip x a) (F.AIN_STATUS_feed_low a) = 0 ∧ (ainOf (feedTrip x a) a).opened = some x.tm.ticks ∧
    OnlyRegsAin [R.AIN_STATUS a] x (feedTrip x a) := by
  refine ⟨?_, ?_, ?_, ?_⟩
  · rw [feedTrip, fget_setAin, fget_feedOpen_on]
  · rw [feedTrip, fget_setAin, fget_feedOpen_low]
  · rw [feedTrip, ainOf_setAin_same]
  · exact onlyRegsAin_trans (onlyRegsAin_of_onlyRegs (onlyRegs_feedOpen x a)) (onlyRegsAin_setAin _ _ _ _)

/-! Faults cleared (R43). -/

theorem exec_feedFaultClear {short back : Bool} {s : State} (ha : a < 4) (hd : dUp s.chip = true) :
    exec (.feedFaultClear a short back) s = .next (onChip (fun x => faultClear x a short back) s) :=
  congrArg Host.Outcome.next (if_pos ⟨ha, hd⟩)

/-- A one-bit field cleared where its bit is written 1. -/
def clearIf (x : Chip) (f : Fld) (b : Bool) : Chip := if b then fset x f 0 else x

theorem fget_clearIf_same {f : Fld} (x : Chip) (b : Bool) (h : f.lo + f.width ≤ 32) :
    fget (clearIf x f b) f = if b then 0 else fget x f := by
  cases b with
  | true => exact (fget_fset_same x f 0 h).trans (Nat.zero_mod _)
  | false => rfl

theorem fget_clearIf_apart {f g : Fld} (x : Chip) (b : Bool) (hg : g.lo + g.width ≤ 32)
    (h : g.addr ≠ f.addr ∨ g.lo + g.width ≤ f.lo ∨ f.lo + f.width ≤ g.lo) : fget (clearIf x f b) g = fget x g := by
  cases b with
  | true => exact fget_fset_apart x f g 0 hg h
  | false => rfl

theorem onlyRegs_clearIf {l : List Nat} {f : Fld} (x : Chip) (b : Bool) (h : f.addr ∈ l) : OnlyRegs l x (clearIf x f b) :=
  onlyRegs_ite _ (onlyRegs_fset x 0 h) ⟨rfl, fun _ _ => rfl⟩

/-- The faults of a feed, cleared where written 1. -/
def faultsCleared (x : Chip) (a : Nat) (short back : Bool) : Chip :=
  clearIf (clearIf x (F.AIN_STATUS_feed_short a) short) (F.AIN_STATUS_feed_back a) back

theorem faultsCleared_effect (x : Chip) (a : Nat) (short back : Bool) :
    fget (faultsCleared x a short back) (F.AIN_STATUS_feed_short a) = (if short then 0 else fget x (F.AIN_STATUS_feed_short a)) ∧
    fget (faultsCleared x a short back) (F.AIN_STATUS_feed_back a) = (if back then 0 else fget x (F.AIN_STATUS_feed_back a)) ∧
    fget (faultsCleared x a short back) (F.AIN_STATUS_feed_on a) = fget x (F.AIN_STATUS_feed_on a) ∧
    OnlyRegs [R.AIN_STATUS a] x (faultsCleared x a short back) := by
  refine ⟨?_, ?_, ?_, ?_⟩
  · rw [faultsCleared, fget_clearIf_apart _ _ (by simp [F.AIN_STATUS_feed_short])
      (by simp [F.AIN_STATUS_feed_short, F.AIN_STATUS_feed_back]), fget_clearIf_same _ _ (by simp [F.AIN_STATUS_feed_short])]
  · rw [faultsCleared, fget_clearIf_same _ _ (by simp [F.AIN_STATUS_feed_back]), fget_clearIf_apart _ _
      (by simp [F.AIN_STATUS_feed_back]) (by simp [F.AIN_STATUS_feed_short, F.AIN_STATUS_feed_back])]
  · rw [faultsCleared, fget_clearIf_apart _ _ (by simp [F.AIN_STATUS_feed_on])
      (by simp [F.AIN_STATUS_feed_on, F.AIN_STATUS_feed_back]), fget_clearIf_apart _ _
      (by simp [F.AIN_STATUS_feed_on]) (by simp [F.AIN_STATUS_feed_on, F.AIN_STATUS_feed_short])]
  · exact onlyRegs_trans (onlyRegs_clearIf x short (by simp [F.AIN_STATUS_feed_short]))
      (onlyRegs_clearIf _ back (by simp [F.AIN_STATUS_feed_back]))

theorem faultClear_eq (x : Chip) (a : Nat) (short back : Bool) : faultClear x a short back =
    if (fon x (F.AIN_STATUS_feed_short a) || fon x (F.AIN_STATUS_feed_back a)) && !fon x (F.AIN_STATUS_feed_on a)
      then feedClose (faultsCleared x a short back) a else faultsCleared x a short back := by
  obtain ⟨_, _, hon, _⟩ := faultsCleared_effect x a short back
  rw [fon, fon, fon, ← hon]
  rfl

/-! The switch that closes (R42, R52). -/

theorem feedClose_kept (h : feedMay x a = false) : feedClose x a = x := if_neg (ne_true_of_eq_false h)

theorem feedClose_paused (h : feedMay x a = true) (hs : ainState x a = stPaused) :
    feedClose x a = feedLow (fset x (F.AIN_STATUS_feed_on a) 1) a :=
  (if_pos h).trans ((if_pos hs).trans (if_pos h))

theorem feedClose_settles (h : feedMay x a = true) (hs : ainState x a ≠ stPaused) : feedClose x a = enterSettle x a :=
  (if_pos h).trans (if_neg hs)

/-- A closed switch shows `feed_low` by the voltage measured last (R42). -/
theorem fon_feedLow (h : fon x (F.AIN_STATUS_feed_on a) = true) : fon (feedLow x a) (F.AIN_STATUS_feed_low a) =
    (decide (fget x F.SENS_COAX_mv ≠ 0) &&
      decide (fget x F.SENS_COAX_mv < (if fon x (F.AIN_FEED_volt a) then 8800 else 5800))) := by
  rw [feedLow, feedLowAt, fon_fflag_same _ _ _ (by simp [F.AIN_STATUS_feed_low]) rfl, h, Bool.true_and]
  have hb : (fget x F.SENS_COAX_mv != 0) = decide (fget x F.SENS_COAX_mv ≠ 0) := by
    rw [Bool.eq_iff_iff, bne_iff_ne, decide_eq_true_iff]
  rw [hb]
  cases fon x (F.AIN_FEED_volt a) <;> rfl

theorem onlyRegs_feedLow (x : Chip) (a : Nat) : OnlyRegs [R.AIN_STATUS a] x (feedLow x a) :=
  onlyRegs_fset (f := F.AIN_STATUS_feed_low a) x _ (by simp [F.AIN_STATUS_feed_low])

/-! Enables (R40, R46, R52). -/

theorem exec_feedEnableWrite {en : Bool} {s : State} (ha : a < 4) (hm : mgmtUp s.chip = true) :
    exec (.feedEnableWrite a en) s = .next (onChip (fun x => feedEnable x a en) s) :=
  congrArg Host.Outcome.next (if_pos ⟨ha, hm⟩)

theorem exec_ainEnableWrite {en : Bool} {s : State} (ha : a < 4) (hm : mgmtUp s.chip = true) :
    exec (.ainEnableWrite a en) s = .next (onChip (fun x => ainEnableWrite x a en) s) :=
  congrArg Host.Outcome.next (if_pos ⟨ha, hm⟩)

/-- A write outside the supply block leaves the power state, and with it what is powered and what runs. -/
theorem dUp_fset {f : Fld} (x : Chip) (v : Nat) (h : f.addr ≠ R.SUP_STATE) : dUp (fset x f v) = dUp x := by
  have hp : pstate (fset x f v) = pstate x := congrArg (getBits · 0 2) (rd_fset_ne x f v R.SUP_STATE h.symm)
  rw [dUp, hp, partRuns, fset_pw, dUp, partRuns]

theorem rfRuns_fset {f : Fld} (x : Chip) (v : Nat) (h : f.addr ≠ R.SUP_STATE) (hs : f.addr ≠ R.SUP_STATUS) :
    rfRuns (fset x f v) = rfRuns x := by
  have hp : pstate (fset x f v) = pstate x := congrArg (getBits · 0 2) (rd_fset_ne x f v R.SUP_STATE h.symm)
  have hd : shed (fset x f v) = shed x := congrArg (getBits · 1 1 != 0) (rd_fset_ne x f v R.SUP_STATUS hs.symm)
  rw [rfRuns, hp, hd, partRuns, fset_pw, rfRuns, partRuns]

theorem ainFeed_not_supply (a : Nat) : R.AIN_FEED a ≠ R.SUP_STATE := by
  simp only [R.AIN_FEED, R.SUP_STATE]
  omega

theorem ainCfg_not_supply (a : Nat) : R.AIN_CFG a ≠ R.SUP_STATE ∧ R.AIN_CFG a ≠ R.SUP_STATUS := by
  simp only [R.AIN_CFG, R.SUP_STATE, R.SUP_STATUS]
  omega

theorem dUp_feedWritten (x : Chip) (a : Nat) (en : Bool) : dUp (fflag x (F.AIN_FEED_en a) en) = dUp x :=
  dUp_fset x _ (ainFeed_not_supply a)

theorem feedEnable_down {en : Bool} (hd : dUp x = false) : feedEnable x a en = fset x (F.AIN_FEED_en a) (if en then 1 else 0) :=
  if_neg (ne_true_of_eq_false ((dUp_feedWritten x a en).trans hd))

theorem feedEnable_off (hd : dUp x = true) : feedEnable x a false = feedOpen (fset x (F.AIN_FEED_en a) 0) a :=
  if_pos ((dUp_feedWritten x a false).trans hd)

theorem feedEnable_on (hd : dUp x = true) : feedEnable x a true =
    if fon x (F.AIN_FEED_en a) then fset x (F.AIN_FEED_en a) 1 else feedClose (fset x (F.AIN_FEED_en a) 1) a :=
  if_pos ((dUp_feedWritten x a true).trans hd)

/-- The switch's two bits are all that following the state writes. -/
theorem fget_feedFollow_apart {f : Fld} (x : Chip) (h32 : f.lo + f.width ≤ 32)
    (hs : f.addr ≠ R.AIN_STATUS a ∨ f.lo + f.width ≤ 16 ∨ 20 ≤ f.lo) : fget (feedFollow x a) f = fget x f := by
  unfold feedFollow
  split
  · rw [feedLow, feedLowAt, fflag, fget_fset_apart _ _ _ _ h32, fget_fset_apart _ _ _ _ h32]
    all_goals
      simp only [F.AIN_STATUS_feed_on, F.AIN_STATUS_feed_low]
      omega
  · exact fget_feedOpen_apart x h32 hs

/-- The enable of an input lies apart from all that its state and switch write. -/
theorem ainCfg_apart (a : Nat) : R.AIN_CFG a ≠ R.AIN_STATUS a ∧ R.AIN_CFG a ≠ R.AIN_ATT a := by
  simp [R.AIN_CFG, R.AIN_STATUS, R.AIN_ATT]

/-- An input that leaves for a state without an offset keeps its enable. -/
theorem offsetCleared_effect {st : Nat} (x : Chip) (ha : a < 4) (hst : st < 8) :
    let y := setSnow (setAinState x a st) a 0
    ainState y a = st ∧ fget y (F.AIN_CFG_en a) = fget x (F.AIN_CFG_en a) := by
  obtain ⟨hcs, hca⟩ := ainCfg_apart a
  constructor
  · rw [ainState, fget_setSnow_apart _ _ (by simp [F.AIN_STATUS_state]) (by simp [F.AIN_STATUS_state, R.AIN_STATUS, R.AIN_ATT])
      (by simp [F.AIN_STATUS_state])]
    exact ainState_setAinState x ha hst
  · rw [fget_setSnow_apart _ _ (by simp [F.AIN_CFG_en]) (.inl hca) (.inl hcs)]
    exact fget_setAinState_apart x st (inputFld_at 0x00 ha (by decide)) (.inl hcs) (.inl hca)

/-- An input that enters OFF: no offset, its switch open (R40, R60). -/
theorem enterOff_effect (x : Chip) (ha : a < 4) : ainState (enterOff x a) a = stOff ∧
    fget (enterOff x a) (F.AIN_STATUS_feed_on a) = 0 ∧ fget (enterOff x a) (F.AIN_ATT_snow a) = 0 ∧
    fget (enterOff x a) (F.AIN_CFG_en a) = fget x (F.AIN_CFG_en a) := by
  obtain ⟨hstate, hen⟩ := offsetCleared_effect (st := stOff) x ha (by decide)
  refine ⟨?_, fget_feedOpen_on _ a, ?_, ?_⟩
  · rw [← hstate]
    exact fget_feedOpen_apart _ (by simp [F.AIN_STATUS_state]) (by simp [F.AIN_STATUS_state])
  · rw [enterOff, fget_feedOpen_apart _ (by simp [F.AIN_ATT_snow]) (by simp [F.AIN_ATT_snow, R.AIN_ATT, R.AIN_STATUS])]
    exact fget_setSnow_snow _ a (by decide)
  · rw [← hen]
    exact fget_feedOpen_apart _ (by simp [F.AIN_CFG_en]) (.inl (ainCfg_apart a).1)

theorem enterPaused_effect (x : Chip) (ha : a < 4) : ainState (enterPaused x a) a = stPaused ∧
    fget (enterPaused x a) (F.AIN_CFG_en a) = fget x (F.AIN_CFG_en a) := by
  obtain ⟨hstate, hen⟩ := offsetCleared_effect (st := stPaused) x ha (by decide)
  constructor
  · rw [← hstate]
    exact fget_feedFollow_apart _ (by simp [F.AIN_STATUS_state]) (by simp [F.AIN_STATUS_state])
  · rw [← hen]
    exact fget_feedFollow_apart _ (by simp [F.AIN_CFG_en]) (.inl (ainCfg_apart a).1)

theorem inputsStay_framePhase (x : Chip) (a : Nat) : InputsStay x (framePhase x a) :=
  (inputsStay_fset (f := byteFld R.SPL_FPHASE a) x _ (Or.inr (by simp [byteFld, R.SPL_FPHASE]))).trans (inputsStay_of_regs rfl)

theorem enterSettle_effect (x : Chip) (ha : a < 4) : ainState (enterSettle x a) a = stSettle ∧
    fget (enterSettle x a) (F.AIN_CFG_en a) = fget x (F.AIN_CFG_en a) := by
  obtain ⟨hcs, hca⟩ := ainCfg_apart a
  have hcfg : InputFld (F.AIN_CFG_en a) := inputFld_at 0x00 ha (by decide)
  rw [ainState, enterSettle, fget_feedFollow_apart _ (by simp [F.AIN_STATUS_state]) (by simp [F.AIN_STATUS_state]),
    fget_feedFollow_apart _ hcfg.2.2.1 (.inl hcs)]
  split
  next h => exact ⟨h, rfl⟩
  next =>
    refine ⟨ainState_setAinState _ ha (by decide), ?_⟩
    rw [fget_setAinState_apart _ _ hcfg (.inl hcs) (.inl hca), inputsStay_framePhase x a _ hcfg]

/-- What the lanes do after an input's enable leaves the inputs' fields (R35, R38). -/
theorem inputsStay_ainEnableWrite (x : Chip) (a : Nat) (en : Bool) : InputsStay (ainEnable x a en) (ainEnableWrite x a en) := by
  refine InputsStay.ite (inputsStay_refl _) (InputsStay.ite ?_ ?_)
  · exact (inputsStay_mutesFollow _).trans (inputsStay_after _ _ inputsStay_footStart)
  · refine (inputsStay_mutesFollow _).trans (inputsStay_after _ _ (inputsStay_foldl (fun y n => ?_) _))
    exact InputsStay.ite ((inputsStay_dropBranch y n).trans (inputsStay_divSingle _ n)) (inputsStay_refl y)

theorem dUp_enWritten (x : Chip) (a : Nat) (en : Bool) : dUp (fflag x (F.AIN_CFG_en a) en) = dUp x :=
  dUp_fset x _ (ainCfg_not_supply a).1

theorem fget_enWritten (x : Chip) (a : Nat) (en : Bool) :
    fget (fflag x (F.AIN_CFG_en a) en) (F.AIN_CFG_en a) = if en then 1 else 0 := by
  rw [fflag, fget_fset_same _ _ _ (by simp [F.AIN_CFG_en])]
  cases en <;> rfl

theorem ainEnable_off (hd : dUp x = true) : ainEnable x a false = enterOff (fflag x (F.AIN_CFG_en a) false) a := by
  rw [ainEnable, dUp_enWritten, if_pos hd, if_neg Bool.false_ne_true]

/-- `en` at 1 takes an input that is OFF to SETTLE where aerials run, and to PAUSED elsewhere (R52). -/
theorem ainEnable_starts (hd : dUp x = true) (hs : ainState x a = stOff) : ainEnable x a true =
    if rfRuns x then enterSettle (fflag x (F.AIN_CFG_en a) true) a else enterPaused (fflag x (F.AIN_CFG_en a) true) a := by
  obtain ⟨hstate, hstatus⟩ := ainCfg_not_supply a
  have hoff : ainState (fflag x (F.AIN_CFG_en a) true) a = stOff := by
    rw [← hs]
    exact fget_fset_apart _ _ _ _ (by simp [F.AIN_STATUS_state]) (.inl (ainCfg_apart a).1.symm)
  have hen : fon (fflag x (F.AIN_CFG_en a) true) (F.AIN_CFG_en a) = true := by
    rw [fon, fget_enWritten]
    rfl
  have hrf : rfRuns (fflag x (F.AIN_CFG_en a) true) = rfRuns x := rfRuns_fset x _ hstate hstatus
  rw [ainEnable, dUp_enWritten, if_pos hd, if_pos rfl, ainStart, if_pos ⟨hoff, hen⟩, dUp_enWritten, if_pos hd, hrf]

/-- Settles O30: each command by its rule, on switches open and closed, with domain D up and down. -/
theorem feedCommands : Obligations.FeedCommands := by
  unfold Obligations.FeedCommands
  refine ⟨fun a mv s ha hj hf => ?short, fun a mv s ha hj hf => ?back, fun x a _ => feedTrip_effect x a,
    fun a mv s hj => ⟨exec_feedShort_ignored (.inl hj), exec_feedBack_ignored (.inl hj)⟩,
    fun a mv s => ⟨fun h => exec_feedShort_ignored (.inr h), fun h => exec_feedBack_ignored (.inr h)⟩,
    fun a short back s ha hd => ?clear, fun x a => ⟨feedClose_kept, feedClose_paused, feedClose_settles⟩,
    fun x a _ h => ⟨fon_feedLow h, onlyRegs_feedLow x a⟩, fun a s ha hm hd => ⟨?feedOff, ?feedOn⟩,
    fun a s ha hm hd => ?off, fun a s ha hm hd hs => ?on, fun a en s ha hm hd => ?down⟩
  case short => rw [exec_feedShort ha, onChip, onChip, feedFault_trips hj hf]
  case back => rw [exec_feedBack ha, onChip, onChip, feedFault_trips hj hf]
  case clear =>
    obtain ⟨hshort, hback, _, hframe⟩ := faultsCleared_effect s.chip a short back
    refine ⟨faultsCleared s.chip a short back, ?_, hshort, hback, hframe⟩
    rw [exec_feedFaultClear ha hd, onChip, onChip, faultClear_eq]
  case feedOff =>
    rw [exec_feedEnableWrite ha hm, onChip, onChip, feedEnable_off hd, feedOpen]
  case feedOn => rw [exec_feedEnableWrite ha hm, onChip, onChip, feedEnable_on hd]
  case off =>
    obtain ⟨hstate, hfeed, hsnow, hen⟩ := enterOff_effect (fflag s.chip (F.AIN_CFG_en a) false) ha
    have hstay := inputsStay_ainEnableWrite s.chip a false
    rw [ainEnable_off hd] at hstay
    refine ⟨_, exec_ainEnableWrite ha hm, rfl, ?_, (ainState_stays ha hstay).trans hstate, ?_, ?_⟩
    · rw [onChip, hstay (F.AIN_CFG_en a) (inputFld_at 0x00 ha (by decide)), hen, fget_enWritten]
      rfl
    · rw [onChip, hstay (F.AIN_STATUS_feed_on a) (inputFld_at 0x14 ha (by decide)), hfeed]
    · rw [onChip, hstay (F.AIN_ATT_snow a) (inputFld_at 0x0C ha (by decide)), hsnow]
  case on =>
    have hstay := inputsStay_ainEnableWrite s.chip a true
    rw [ainEnable_starts hd hs] at hstay
    refine ⟨_, exec_ainEnableWrite ha hm, rfl, ?_, ?_⟩
    · rw [onChip, hstay (F.AIN_CFG_en a) (inputFld_at 0x00 ha (by decide))]
      split
      · rw [(enterSettle_effect _ ha).2, fget_enWritten, if_pos rfl]
      · rw [(enterPaused_effect _ ha).2, fget_enWritten, if_pos rfl]
    · rw [onChip, ainState_stays ha hstay]
      split
      · exact (enterSettle_effect _ ha).1
      · exact (enterPaused_effect _ ha).1
  case down => rw [exec_feedEnableWrite ha hm, onChip, onChip, feedEnable_down hd]

end Sys2Proof.Machine
end

section
/-! Blind calibration (R75 to R87): what events and sensors leave of the calibration block, a window and its estimate, a run's
start, failure and end, the commands' rules, and the statement about them. -/
namespace Sys2Proof.Machine

variable {x y z : Chip} {a : Nat}

/-! What leaves the calibration block and its bookkeeping. -/

/-- The registers of the `CAL` block and the inputs' calibration keep their values. -/
def CalStays (x y : Chip) : Prop := y.cal = x.cal ∧ ∀ b, 0x300 ≤ b → b < 0x400 → rd y b = rd x b

theorem calStays_refl (x : Chip) : CalStays x x := ⟨rfl, fun _ _ _ => rfl⟩

theorem CalStays.trans (h1 : CalStays x y) (h2 : CalStays y z) : CalStays x z :=
  ⟨h2.1.trans h1.1, fun b hl hh => (h2.2 b hl hh).trans (h1.2 b hl hh)⟩

theorem CalStays.ite {c : Prop} [Decidable c] (hy : CalStays x y) (hz : CalStays x z) : CalStays x (if c then y else z) := by
  split <;> assumption

theorem CalStays.calOf (h : CalStays x y) : calOf y a = calOf x a := congrArg (smGet calReset · a) h.1

theorem CalStays.fget (h : CalStays x y) {f : Fld} (hl : 0x300 ≤ f.addr) (hh : f.addr < 0x400) : fget y f = fget x f :=
  congrArg (getBits · f.lo f.width) (h.2 f.addr hl hh)

theorem calStays_fset {f : Fld} (x : Chip) (v : Nat) (h : f.addr < 0x300 ∨ 0x400 ≤ f.addr) : CalStays x (fset x f v) :=
  ⟨rfl, fun b hl hh => rd_fset_ne x f v b (by omega)⟩

theorem calStays_raise (x : Chip) (src code : Nat) (args : List Byte) : CalStays x (raise x src code args) :=
  ⟨by rw [raise_rest], fun b _ hh => rd_raise x src code args b (not_logRegs_of_lt (by omega))⟩

theorem calStays_setCause (x : Chip) (c : IntCause) : CalStays x (setCause x c) :=
  calStays_fset x 1 (Or.inr (by rw [intCause_addr]; decide))

theorem calStays_foldl {α : Type} {f : Chip → α → Chip} (h : ∀ y p, CalStays y (f y p)) (l : List α) :
    ∀ x, CalStays x (l.foldl f x) := by
  induction l with
  | nil => exact calStays_refl
  | cons p l ih => exact fun x => (h x p).trans (ih _)

theorem tempFld_addr_lt (p : Nat) : (tempFld p).addr < 0x300 := by
  unfold tempFld
  split
  · simp only [R.SENS_TADC01]
    omega
  · decide

/-- A conversion of a temperature writes the sensors' block alone (R392). -/
theorem calStays_senseTemp (x : Chip) (p : Nat) (t : Int) : CalStays x (senseTemp x p t) := by
  have hm : CalStays x (fset (fset x (tempFld p) (tcomp 16 t)) F.SENS_TCONV_tmax
      (tcomp 16 (hottest (fset x (tempFld p) (tcomp 16 t))))) :=
    (calStays_fset x _ (.inl (tempFld_addr_lt p))).trans (calStays_fset _ _ (.inl (by decide)))
  exact CalStays.ite (hm.trans (calStays_fset _ _ (.inl (by decide)))) hm

@[simp] theorem calOf_setCal_same (x : Chip) (a : Nat) (c : CalRt) : calOf (setCal x a c) a = c := smGet_smPut_same _ _ _ _

theorem calOf_setCal_run (x : Chip) (a : Nat) (r : Option CalRun) :
    (calOf (setCal x a { calOf x a with run := r }) a).run = r ∧
      (calOf (setCal x a { calOf x a with run := r }) a).force = (calOf x a).force := by
  rw [calOf_setCal_same]
  exact ⟨rfl, rfl⟩

@[simp] theorem calOf_fset (x : Chip) (f : Fld) (v a : Nat) : calOf (fset x f v) a = calOf x a := rfl

@[simp] theorem calOf_wr (x : Chip) (b : Nat) (v : Word) (a : Nat) : calOf (wr x b v) a = calOf x a := rfl

@[simp] theorem fget_setCal (x : Chip) (a : Nat) (c : CalRt) (f : Fld) : fget (setCal x a c) f = fget x f := rfl

@[simp] theorem fon_setCal (x : Chip) (a : Nat) (c : CalRt) (f : Fld) : fon (setCal x a c) f = fon x f := rfl

@[simp] theorem calOf_count (x : Chip) (b n a : Nat) (w : Fld) : calOf (count x b w n) a = calOf x a := by
  rw [count_rest]
  rfl

/-! The estimate of a window (R76). -/

theorem nth_map_range {α : Type} {d : α} {g : Nat → α} {n k : Nat} (h : k < n) : nth d ((List.range n).map g) k = g k := by
  simp [nth, h]

/-- The figures of the quantity that value k belongs to: gain, offset or skew of the four sub-ADCs. -/
def figures (w : CalWindow) (k : Nat) : List Int :=
  if k < 4 then (List.range 4).map (Config.gainFigure (windowPowers w))
  else if k < 8 then windowMeans w
  else (List.range 4).map (Config.skewFigure (windowPowers w) (windowDiffs w))

theorem estimated_eq (w : CalWindow) (k : Nat) :
    estimated w k = centred (figures w k) (if 4 ≤ k ∧ k < 8 then 65536 else 4096) (k % 4) := by
  unfold estimated figures
  by_cases h4 : k < 4
  · simp [h4, Nat.not_le.2 h4]
  · by_cases h8 : k < 8 <;> simp [h4, h8, Nat.not_lt.1 h4]

theorem nth_estimate {w : CalWindow} {f : List Int} {k : Nat} (h : k < 12) :
    nth 0 (estimate w f) k = if powerLow w = true ∧ 8 ≤ k then nth 0 f k
      else centred (figures w k) (if 4 ≤ k ∧ k < 8 then 65536 else 4096) (k % 4) := by
  rw [estimate, nth_map_range h, estimated_eq]
  simp only [Bool.and_eq_true, decide_eq_true_eq]

/-- The estimate of a window against the corrections in force. -/
def estOf (x : Chip) (a : Nat) (w : CalWindow) : List Int := estimate w (calOf x a).force.vals

theorem estOf_eq (x : Chip) (a : Nat) (w : CalWindow) : estOf x a w = estimate w (calOf x a).force.vals := rfl

/-! The spur figure of a window and the applications it reports (R78, R86). -/

/-- The figure shown and judged against the limit, before its event. -/
def spurJudged (x : Chip) (a : Nat) (s : Int) : Chip :=
  let hi := decide (spurLimit x < s)
  setCal (fset x (byteFld R.CAL_SPUR a) (tcomp 8 s)) a
    { calOf x a with high := hi, overs := if hi then (calOf x a).overs + 1 else 0 }

theorem calStays_windowSpur (x : Chip) (a : Nat) (s : Int) : CalStays (spurJudged x a s) (windowSpur x a s) :=
  CalStays.ite ((calStays_setCause _ _).trans (calStays_raise _ _ _ _)) (calStays_refl _)

theorem calStays_windowApply (x : Chip) (a : Nat) (s : Int) :
    CalStays (setCal x a { calOf x a with pend := [] }) (windowApply x a s) :=
  calStays_foldl (fun y _ => calStays_raise y _ _ _) _ _

/-- What every complete window shows first: whether its skew was observable, and its temperature. -/
def windowSensed (x : Chip) (a : Nat) (w : CalWindow) : Chip :=
  setTempOf (fset x (F.CAL_STATUS_skew_held.bit a) (if powerLow w then 1 else 0)) a w.temp

theorem calStays_windowSensed (x : Chip) (a : Nat) (w : CalWindow) :
    CalStays (fset x (F.CAL_STATUS_skew_held.bit a) (if powerLow w then 1 else 0)) (windowSensed x a w) :=
  calStays_senseTemp _ a w.temp

theorem calOf_windowSensed (x : Chip) (a : Nat) (w : CalWindow) : calOf (windowSensed x a w) a = calOf x a :=
  (calStays_windowSensed x a w).calOf

/-- A window that fits shows its spur figure and reports the applications that waited for it. -/
def windowShown (x : Chip) (a : Nat) (w : CalWindow) : Chip :=
  let g := spurFigure (estOf x a w) (calOf x a).force.vals
  windowApply (windowSpur (windowSensed x a w) a g) a g

theorem calOf_windowShown (x : Chip) (a : Nat) (w : CalWindow) :
    (calOf (windowShown x a w) a).run = (calOf x a).run ∧ (calOf (windowShown x a w) a).force = (calOf x a).force := by
  rw [windowShown, (calStays_windowApply _ a _).calOf, calOf_setCal_same, (calStays_windowSpur _ a _).calOf, spurJudged,
    calOf_setCal_same, calOf_windowSensed]
  exact ⟨rfl, rfl⟩

/-- The calibration block shows the spur figure of the window beside what `windowSensed` shows. -/
theorem fget_windowShown (x : Chip) (a : Nat) (w : CalWindow) {f : Fld} (hl : 0x300 ≤ f.addr) (hh : f.addr < 0x400) :
    fget (windowShown x a w) f =
      fget (fset (windowSensed x a w) (byteFld R.CAL_SPUR a) (tcomp 8 (spurFigure (estOf x a w) (calOf x a).force.vals))) f := by
  rw [windowShown, (calStays_windowApply _ a _).fget hl hh, fget_setCal, (calStays_windowSpur _ a _).fget hl hh, spurJudged,
    fget_setCal]

theorem fget_windowShown_spur (x : Chip) (w : CalWindow) (ha : a < 4) :
    fget (windowShown x a w) (byteFld R.CAL_SPUR a) = tcomp 8 (spurFigure (estOf x a w) (calOf x a).force.vals) := by
  rw [fget_windowShown x a w (by simp [byteFld, R.CAL_SPUR]) (by simp [byteFld, R.CAL_SPUR]),
    fget_fset_same _ _ _ (by simp only [byteFld]; omega)]
  exact Nat.mod_eq_of_lt (tcomp_lt 8 _)

theorem fon_windowShown_skew (x : Chip) (w : CalWindow) (ha : a < 4) :
    fon (windowShown x a w) (F.CAL_STATUS_skew_held.bit a) = powerLow w := by
  have hl : 0x300 ≤ (F.CAL_STATUS_skew_held.bit a).addr := by simp [Fld.bit, F.CAL_STATUS_skew_held, R.CAL_STATUS]
  have hh : (F.CAL_STATUS_skew_held.bit a).addr < 0x400 := by simp [Fld.bit, F.CAL_STATUS_skew_held, R.CAL_STATUS]
  have h32 : (F.CAL_STATUS_skew_held.bit a).lo + (F.CAL_STATUS_skew_held.bit a).width ≤ 32 := by
    simp only [Fld.bit, F.CAL_STATUS_skew_held]
    omega
  rw [fon, fget_windowShown x a w hl hh,
    fget_fset_apart _ (byteFld R.CAL_SPUR a) _ _ h32 (.inl (by decide : R.CAL_STATUS ≠ R.CAL_SPUR)),
    (calStays_windowSensed x a w).fget hl hh]
  exact fon_fflag_same x _ (powerLow w) h32 rfl

/-! CAL_WINDOW_END (R75 to R78, R86, R87). -/

theorem exec_calWindowEnd {w : CalWindow} {s : State} (ha : a < 4) :
    exec (.calWindowEnd a w) s = .next (onChip (fun x => windowEnd x a w) s) :=
  congrArg Host.Outcome.next (if_pos ha)

theorem exec_calWindowEnd_ignored {w : CalWindow} {s : State} (h : ainState s.chip a ≠ stRun ∨ keptCount w ≠ 4096) :
    exec (.calWindowEnd a w) s = .next s := by
  refine congrArg Host.Outcome.next (ite_eq_right_iff.2 fun _ => ?_)
  rw [onChip, windowEnd, if_neg fun hc => h.elim (fun hs => hs hc.1) fun hk => hk hc.2]

theorem windowEnd_fits {w : CalWindow} (hs : ainState x a = stRun) (hk : keptCount w = 4096)
    (hf : calFitsAll (estOf x a w) = true) : windowEnd x a w = windowJoin (windowShown x a w) a (estOf x a w) w.temp :=
  (if_pos ⟨hs, hk⟩).trans (if_pos hf)

theorem windowEnd_out_of_range {w : CalWindow} (hs : ainState x a = stRun) (hk : keptCount w = 4096)
    (hf : calFitsAll (estOf x a w) = false) : windowEnd x a w = windowBad (windowSensed x a w) a :=
  (if_pos ⟨hs, hk⟩).trans (if_neg (ne_true_of_eq_false hf))

theorem windowBad_of_run {r : CalRun} (h : (calOf x a).run = some r) : windowBad x a = runFail x a r 1 := by
  simp only [windowBad, h]

theorem windowBad_without_run (h : (calOf x a).run = none) : windowBad x a = x := by
  simp only [windowBad, h]

/-- A run with a window's sums added. -/
def runJoined (r : CalRun) (est : List Int) (temp : Int) : CalRun :=
  ⟨r.cause, r.bucket, r.windows + 1, (List.range 12).map fun k => nth 0 r.sums k + nth 0 est k, r.tempSum + temp⟩

theorem windowJoin_below_full {r : CalRun} {est : List Int} {t : Int} (h : (calOf x a).run = some r) (hw : r.windows < 15) :
    windowJoin x a est t = setCal x a { calOf x a with run := some (runJoined r est t) } := by
  have hn : ¬16 ≤ r.windows + 1 := by omega
  simp only [windowJoin, h, if_neg hn, runJoined]

theorem windowJoin_without_run {est : List Int} {t : Int} (h : (calOf x a).run = none) :
    windowJoin x a est t = if trigHolds x a 3 then runAuto x a 3 else x := by
  simp only [windowJoin, h]

/-- A window in range joins a run that it does not complete. -/
theorem windowEnd_joins {w : CalWindow} {r : CalRun} (hs : ainState x a = stRun) (hk : keptCount w = 4096)
    (hr : (calOf x a).run = some r) (hw : r.windows < 15) (hf : calFitsAll (estOf x a w) = true) :
    windowEnd x a w = setCal (windowShown x a w) a
      { calOf (windowShown x a w) a with run := some (runJoined r (estOf x a w) w.temp) } := by
  rw [windowEnd_fits hs hk hf, windowJoin_below_full ((calOf_windowShown x a w).1.trans hr) hw]

/-- A window out of range fails the run (R87). -/
theorem windowEnd_fails {w : CalWindow} {r : CalRun} (hs : ainState x a = stRun) (hk : keptCount w = 4096)
    (hr : (calOf x a).run = some r) (hf : calFitsAll (estOf x a w) = false) :
    windowEnd x a w = runFail (windowSensed x a w) a r 1 := by
  rw [windowEnd_out_of_range hs hk hf, windowBad_of_run]
  rw [calOf_windowSensed, hr]

/-- A window without a run is shown where it fits, and the limit trigger tested (R85, R87). -/
theorem windowEnd_without_run {w : CalWindow} (hs : ainState x a = stRun) (hk : keptCount w = 4096)
    (hr : (calOf x a).run = none) : windowEnd x a w = if calFitsAll (estOf x a w) then
      if trigHolds (windowShown x a w) a 3 then runAuto (windowShown x a w) a 3 else windowShown x a w
      else windowSensed x a w := by
  split
  next hf => rw [windowEnd_fits hs hk hf, windowJoin_without_run ((calOf_windowShown x a w).1.trans hr)]
  next hf =>
    rw [windowEnd_out_of_range hs hk (Bool.eq_false_of_not_eq_true hf), windowBad_without_run]
    rw [calOf_windowSensed, hr]

/-! CAL_RUN (R85, R87). -/

theorem exec_calRun {s : State} (ha : a < 4) (hm : mgmtUp s.chip = true) :
    exec (.calRun a) s = .next (onChip (fun x => calRunWrite x a) s) :=
  congrArg Host.Outcome.next (if_pos ⟨ha, hm⟩)

theorem calRunWrite_starts (hs : ainState x a = stRun) (hr : (calOf x a).run = none) :
    calRunWrite x a = fset (fset (setCal x a { calOf x a with
      run := some ⟨4, fget x F.CAL_LOAD_bucket, 0, List.replicate 12 0, 0⟩ }) (F.CAL_STATUS_busy.bit a) 1)
      (F.CAL_CTRL_run.bit a) 1 := by
  rw [calRunWrite, if_pos ⟨hs, hr⟩, runStart, if_pos ⟨hs, hr⟩]

theorem exec_calRun_ignored {s : State} (h : ainState s.chip a ≠ stRun ∨ (calOf s.chip a).run ≠ none) :
    exec (.calRun a) s = .next s := by
  refine congrArg Host.Outcome.next (ite_eq_right_iff.2 fun _ => ?_)
  rw [onChip, calRunWrite, if_neg fun hc => h.elim (fun hs => hs hc.1) fun hr => hr hc.2]

/-! The end of a run (R84, R86, R87). -/

theorem exec_calRunTimeout {r : CalRun} {s : State} (ha : a < 4) (hr : (calOf s.chip a).run = some r) :
    exec (.calRunTimeout a) s = .next (onChip (fun x => runEnd x a r) s) := by
  refine congrArg Host.Outcome.next ((if_pos ha).trans ?_)
  simp only [onChip, hr]

theorem exec_calRunTimeout_without_run {s : State} (hr : (calOf s.chip a).run = none) :
    exec (.calRunTimeout a) s = .next s := by
  refine congrArg Host.Outcome.next (ite_eq_right_iff.2 fun _ => ?_)
  simp only [onChip, hr]

/-- The average of a run's windows in force, its temperature and the count shown, before it is learnt. -/
def runInForce (x : Chip) (a : Nat) (r : CalRun) : Chip :=
  let temp := roundEven r.tempSum (16 * r.windows)
  count (fset (calPut (runGone x a) a (r.sums.map fun v => roundEven v r.windows) temp r.bucket (some r.cause))
    (byteFld R.CAL_TLAST a) (tcomp 8 (temp + 64))) R.CAL_RUN_COUNT F.CAL_STATUS_run_wrap 1

/-- The run's result in force, and in the set table where `learn` is 1. -/
def runApplied (x : Chip) (a : Nat) (r : CalRun) : Chip :=
  if fon (runInForce x a r) F.CAL_CTRL_learn then
    calLearn (runInForce x a r) a ⟨r.sums.map fun v => roundEven v r.windows, roundEven r.tempSum (16 * r.windows), r.bucket,
      (runInForce x a r).tm.ticks⟩
  else runInForce x a r

/-- What an applied run shows (R83, R86): its averages in force with the bucket of its start, no run left, its temperature and
the count. -/
def RunTaken (x : Chip) (a : Nat) (r : CalRun) (y : Chip) : Prop :=
  (calOf y a).force.vals = (r.sums.map fun v => roundEven v r.windows) ∧ (calOf y a).force.bucket = r.bucket ∧
    (calOf y a).run = none ∧ fget y (F.CAL_STATUS_busy.bit a) = 0 ∧
    fget y (byteFld R.CAL_TLAST a) = tcomp 8 (roundEven r.tempSum (16 * r.windows) + 64) ∧
    rd y R.CAL_RUN_COUNT = rd x R.CAL_RUN_COUNT + 1

theorem runEnd_applies {r : CalRun} (hw : 4 ≤ r.windows) (hf : calFitsAll (r.sums.map fun v => roundEven v r.windows) = true) :
    runEnd x a r = runRetry (runApplied x a r) a :=
  (if_neg (Nat.not_lt.2 hw)).trans (if_pos hf)

theorem calOf_runGone (x : Chip) (a : Nat) : calOf (runGone x a) a = { calOf x a with run := none } :=
  calOf_setCal_same x a _

theorem rd_runGone_ne (x : Chip) {b : Nat} (hs : b ≠ R.CAL_STATUS) (hc : b ≠ R.CAL_CTRL) : rd (runGone x a) b = rd x b := by
  rw [runGone, rd_fset_ne _ _ _ _ hc, rd_fset_ne _ _ _ _ hs]
  rfl

theorem busy_fits (ha : a < 4) : (F.CAL_STATUS_busy.bit a).lo + (F.CAL_STATUS_busy.bit a).width ≤ 12 := by
  simp only [Fld.bit, F.CAL_STATUS_busy]
  omega

theorem fget_runGone_busy (x : Chip) (ha : a < 4) : fget (runGone x a) (F.CAL_STATUS_busy.bit a) = 0 := by
  have h32 := (busy_fits ha).trans (by decide : 12 ≤ 32)
  rw [runGone, fget_fset_apart _ (F.CAL_CTRL_run.bit a) _ _ h32 (.inl (by decide : R.CAL_STATUS ≠ R.CAL_CTRL)),
    fget_fset_same _ _ _ h32, Nat.zero_mod]

/-- Corrections put in force: the input's calibration, the time of the application and the input's `stale_load` (R83, R90). -/
theorem calPut_eq (x : Chip) (a : Nat) (vals : List Int) (t : Int) (b : Nat) (c : Option Nat) : ∃ p v h,
    calPut x a vals t b c = fflag (wr (setCal x a { calOf x a with force := ⟨vals, t, b, x.tm.ticks⟩, forced := true, pend := p })
      R.CAL_LAST_TIME v) (F.CAL_STATUS_stale_load.bit a) h := ⟨_, _, _, rfl⟩

theorem calOf_calPut (x : Chip) (a : Nat) (vals : List Int) (t : Int) (b : Nat) (c : Option Nat) :
    (calOf (calPut x a vals t b c) a).force = ⟨vals, t, b, x.tm.ticks⟩ ∧
      (calOf (calPut x a vals t b c) a).run = (calOf x a).run := by
  obtain ⟨p, v, h, he⟩ := calPut_eq x a vals t b c
  rw [he, fflag, calOf_fset, calOf_wr, calOf_setCal_same]
  exact ⟨rfl, rfl⟩

theorem fget_calPut (x : Chip) (vals : List Int) (t : Int) (b : Nat) (c : Option Nat) {f : Fld} (ha : a < 4)
    (h32 : f.lo + f.width ≤ 32) (hl : f.addr ≠ R.CAL_LAST_TIME) (hs : f.addr ≠ R.CAL_STATUS ∨ 4 ≤ f.lo) :
    fget (calPut x a vals t b c) f = fget x f := by
  obtain ⟨p, v, h, he⟩ := calPut_eq x a vals t b c
  have hlo : (F.CAL_STATUS_stale_load.bit a).lo + (F.CAL_STATUS_stale_load.bit a).width ≤ 4 := by
    simp only [Fld.bit, F.CAL_STATUS_stale_load]
    omega
  rw [he, fflag, fget_fset_apart _ _ _ _ h32 (hs.imp_right fun h4 => .inr (hlo.trans h4)), fget_wr_ne _ _ _ _ hl, fget_setCal]

theorem rd_calPut_ne (x : Chip) (vals : List Int) (t : Int) (b : Nat) (c : Option Nat) {k : Nat} (hl : k ≠ R.CAL_LAST_TIME)
    (hs : k ≠ R.CAL_STATUS) : rd (calPut x a vals t b c) k = rd x k := by
  obtain ⟨p, v, h, he⟩ := calPut_eq x a vals t b c
  rw [he, fflag, rd_fset_ne _ _ _ _ hs, rd_wr_ne _ _ _ _ hl]
  rfl

theorem runInForce_effect (x : Chip) (r : CalRun) (ha : a < 4) : RunTaken x a r (runInForce x a r) := by
  have h12 := busy_fits ha
  have h32 := h12.trans (by decide : 12 ≤ 32)
  have ht : (byteFld R.CAL_TLAST a).lo + (byteFld R.CAL_TLAST a).width ≤ 32 := by
    simp only [byteFld]
    omega
  obtain ⟨hforce, hrun⟩ := calOf_calPut (runGone x a) a (r.sums.map fun v => roundEven v r.windows)
    (roundEven r.tempSum (16 * r.windows)) r.bucket (some r.cause)
  rw [RunTaken, runInForce, calOf_count, calOf_fset]
  refine ⟨by rw [hforce], by rw [hforce], by rw [hrun, calOf_runGone], ?busy, ?temp, ?count⟩
  case busy =>
    rw [fget_count_apart _ _ h32 (by decide : R.CAL_STATUS ≠ R.CAL_RUN_COUNT) (.inr (.inl (h12.trans (by decide)))),
      fget_fset_apart _ (byteFld R.CAL_TLAST a) _ _ h32 (.inl (by decide : R.CAL_STATUS ≠ R.CAL_TLAST)),
      fget_calPut _ _ _ _ _ ha h32 (by decide : R.CAL_STATUS ≠ R.CAL_LAST_TIME)
        (.inr (Nat.le_add_right_of_le (by decide : 4 ≤ F.CAL_STATUS_busy.lo))), fget_runGone_busy x ha]
  case temp =>
    rw [fget_count_apart (w := F.CAL_STATUS_run_wrap) _ _ ht (by decide : R.CAL_TLAST ≠ R.CAL_RUN_COUNT)
      (.inl (by decide : R.CAL_TLAST ≠ R.CAL_STATUS)), fget_fset_same _ _ _ ht]
    exact Nat.mod_eq_of_lt (tcomp_lt 8 _)
  case count =>
    rw [rd_count_same _ _ _ _ (by decide), rd_fset_ne _ _ _ _ (by decide : R.CAL_RUN_COUNT ≠ R.CAL_TLAST),
      rd_calPut_ne _ _ _ _ _ (by decide) (by decide),
      rd_runGone_ne x (by decide) (by decide), BitVec.ofNat_add, BitVec.ofNat_toNat, BitVec.setWidth_eq]
    rfl

theorem calOf_calLearn (x : Chip) (a : Nat) (c : CalSet) :
    calOf (calLearn x a c) a = { calOf x a with sets := learnSet (calOf x a).sets c } :=
  calOf_setCal_same x a _

/-- A set that enters the table shows in `CAL_SETS` and in the input's `no_set` alone (R84, R90). -/
theorem fget_calLearn (x : Chip) (a : Nat) (c : CalSet) {f : Fld} (h32 : f.lo + f.width ≤ 32) (hn : f.addr ≠ R.CAL_SETS)
    (hs : f.addr ≠ R.CAL_STATUS ∨ f.lo + f.width ≤ 16) : fget (calLearn x a c) f = fget x f := by
  rw [calLearn, showSets, fget_fset_apart _ _ _ _ h32 (hs.imp_right fun h => .inl (h.trans (Nat.le_add_right 16 a))),
    fget_fset_apart _ _ _ _ h32 (.inl hn), fget_setCal]

theorem rd_calLearn_ne (x : Chip) (a : Nat) (c : CalSet) {b : Nat} (hn : b ≠ R.CAL_SETS) (hs : b ≠ R.CAL_STATUS) :
    rd (calLearn x a c) b = rd x b := by
  rw [calLearn, showSets, rd_fset_ne _ _ _ _ hs, rd_fset_ne _ _ _ _ hn]
  rfl

/-- Learning a run's result leaves what the run put in force. -/
theorem runApplied_effect (x : Chip) (r : CalRun) (ha : a < 4) : RunTaken x a r (runApplied x a r) := by
  have h := runInForce_effect x r ha
  unfold runApplied
  split
  · have h12 := busy_fits ha
    rw [RunTaken, calOf_calLearn, fget_calLearn _ _ _ (h12.trans (by decide)) (by decide : R.CAL_STATUS ≠ R.CAL_SETS)
        (.inr (h12.trans (by decide))),
      fget_calLearn _ _ _ (by simp only [byteFld]; omega) (by decide : R.CAL_TLAST ≠ R.CAL_SETS)
        (.inl (by decide : R.CAL_TLAST ≠ R.CAL_STATUS)),
      rd_calLearn_ne _ _ _ (by decide) (by decide)]
    exact h
  · exact h

theorem tempFire_kept (h : tempTrig x a = false) : tempFire x a = x := if_neg (ne_true_of_eq_false h)

theorem runRetry_kept (hs : fon x (F.CAL_STATUS_stale_load.bit a) = false) (ht : tempTrig x a = false) : runRetry x a = x := by
  simp only [runRetry, hs, Bool.false_eq_true, if_false, tempFire_kept ht, ite_self]

/-! LOAD_BUCKET (R80, R86). -/

theorem exec_loadBucket {s : State} (hm : mgmtUp s.chip = true) : exec .loadBucket s = .next (onChip bucketChange s) :=
  congrArg Host.Outcome.next (if_pos hm)

theorem bucketChange_same (h : bucketOf (fget x F.CAL_LOAD_lanes) = fget x F.CAL_LOAD_bucket) : bucketChange x = x := if_pos h

theorem bucketChange_differs (h : bucketOf (fget x F.CAL_LOAD_lanes) ≠ fget x F.CAL_LOAD_bucket) :
    bucketChange x = (List.range 4).foldl (bucketOn (bucketOf (fget x F.CAL_LOAD_lanes)))
      (raise (fset x F.CAL_LOAD_bucket (bucketOf (fget x F.CAL_LOAD_lanes))) srcCal 0x07
        (b1 (fget x F.CAL_LOAD_bucket) ++ b1 (bucketOf (fget x F.CAL_LOAD_lanes)) ++ b1 (fget x F.CAL_LOAD_lanes))) := if_neg h

/-! CAL_TRIG (R85 to R87). -/

theorem exec_calTrig {t : Int} {s : State} (ha : a < 4) (hm : mgmtUp s.chip = true) :
    exec (.calTrig a t) s = .next (onChip (fun x => calTrig x a t) s) :=
  congrArg Host.Outcome.next (if_pos ⟨ha, hm⟩)

/-- The check acts on an input in RUN without a run. -/
theorem calTrig_eq (x : Chip) (a : Nat) (t : Int) : calTrig x a t =
    if ainState (senseTemp x a t) a = stRun ∧ (calOf (senseTemp x a t) a).run = none then tempFire (senseTemp x a t) a
    else senseTemp x a t := by
  unfold calTrig
  exact if_congr (by rw [Bool.and_eq_true, decide_eq_true_iff, Option.isNone_iff_eq_none]; rfl) rfl rfl

theorem calTrig_notes {t : Int} (h : ¬(ainState (senseTemp x a t) a = stRun ∧ (calOf (senseTemp x a t) a).run = none ∧
    tempTrig (senseTemp x a t) a = true)) : calTrig x a t = senseTemp x a t := by
  rw [calTrig_eq, ite_eq_right_iff]
  rintro ⟨hs, hr⟩
  exact tempFire_kept (Bool.eq_false_of_not_eq_true fun ht => h ⟨hs, hr, ht⟩)

theorem calTrig_fires {t : Int} (hs : ainState (senseTemp x a t) a = stRun) (hr : (calOf (senseTemp x a t) a).run = none) :
    calTrig x a t = tempFire (senseTemp x a t) a := by
  rw [calTrig_eq, if_pos ⟨hs, hr⟩]

theorem tempFire_acts (h : tempTrig x a = true) : tempFire x a =
    runAuto (calLoad (raise x srcCal 0x03 (b1 a ++ i2 (16 * ((fget x (byteFld R.CAL_TLAST a) : Int) - 64)) ++ i2 (tempOf x a)))
      a (some 2)) a 2 := if_pos h

/-- Settles O32: each command by its rule, then the estimate of a window and what a run's end tests. -/
theorem calibrationCommands : Obligations.CalibrationCommands := by
  unfold Obligations.CalibrationCommands
  refine ⟨fun a s ha hm hs hr => ?start, fun a s => exec_calRun_ignored, fun a w r s ha hs hk hr hw => ?joins,
    fun a w s ha hs hk hr => ?alone, fun a w s => exec_calWindowEnd_ignored, fun w f k hk => ?estimate,
    fun a r s ha hr hw => ?few, fun a r s ha hr hw => ?enough, fun x a => runRetry_kept,
    fun a s => exec_calRunTimeout_without_run, fun s hm => ⟨fun h => ?same, fun h => ?differs⟩,
    fun a t s ha hm => ⟨fun h => ?notes, fun ⟨hs, hr, ht⟩ => ?fires⟩⟩
  case start =>
    rw [exec_calRun ha hm, onChip, calRunWrite_starts hs hr]
    rfl
  case joins =>
    refine ⟨_, exec_calWindowEnd ha, rfl, ?_⟩
    rw [onChip_chip, ← estOf_eq]
    cases hf : calFitsAll (estOf s.chip a w) with
    | true =>
      refine Or.inl ⟨rfl, ?_⟩
      obtain ⟨hrun, hforce⟩ := calOf_setCal_run (windowShown s.chip a w) a (some (runJoined r (estOf s.chip a w) w.temp))
      rw [windowEnd_joins hs hk hr hw hf, fget_setCal, fon_setCal, hforce]
      exact ⟨fget_windowShown_spur _ w ha, fon_windowShown_skew _ w ha, hrun, (calOf_windowShown _ a w).2⟩
    | false =>
      refine Or.inr ⟨rfl, ?_⟩
      rw [onChip, onChip, windowEnd_fails hs hk hr hf]
      rfl
  case alone =>
    rw [exec_calWindowEnd ha, onChip, windowEnd_without_run hs hk hr]
    rfl
  case estimate =>
    rw [nth_estimate hk]
    rfl
  case few =>
    rw [exec_calRunTimeout ha hr, onChip, runEnd, if_pos hw]
    rfl
  case enough =>
    intro avg hf
    refine ⟨runApplied s.chip a r, ?_, runApplied_effect s.chip r ha⟩
    rw [exec_calRunTimeout ha hr, onChip, onChip, runEnd_applies hw hf]
  case same =>
    rw [exec_loadBucket hm, onChip, bucketChange_same h]
  case differs =>
    rw [exec_loadBucket hm, onChip, bucketChange_differs h]
    rfl
  case notes => rw [exec_calTrig ha hm, onChip, onChip, calTrig_notes h]
  case fires => rw [exec_calTrig ha hm, onChip, onChip, calTrig_fires hs hr, tempFire_acts ht]

end Sys2Proof.Machine
end

section
/-! Lanes' status words and memory (R144, R145, R468): what setting a list of fields gives and leaves, frames of a change of a
lane's memory, and which registers a lane's settings are read from. -/
namespace Sys2Proof.Machine

variable {l : List Nat} {x y : Chip} {n : Nat}

/-! Lists of fields. -/

/-- Two fields share no bit. -/
def Fld.Apart (f g : Fld) : Prop := f.addr ≠ g.addr ∨ f.lo + f.width ≤ g.lo ∨ g.lo + g.width ≤ f.lo

theorem fget_fsets_apart {f : Fld} (h32 : f.lo + f.width ≤ 32) (m : List (Fld × Nat)) : ∀ x : Chip,
    (∀ e ∈ m, f.Apart e.1) → fget (fsets x m) f = fget x f := by
  induction m with
  | nil => exact fun x _ => rfl
  | cons e m ih =>
    intro x h
    exact (ih _ fun g hg => h g (List.mem_cons_of_mem _ hg)).trans
      (fget_fset_apart x e.1 f e.2 h32 (h e (List.mem_cons_self ..)))

/-- Of fields that share no bit each reads what it was set to, modulo its width. -/
theorem fget_fsets_mem {f : Fld} {v : Nat} (h32 : f.lo + f.width ≤ 32) {m : List (Fld × Nat)}
    (hp : m.Pairwise fun e g => e.1.Apart g.1) : ∀ x : Chip, (f, v) ∈ m → fget (fsets x m) f = v % 2 ^ f.width := by
  induction hp with
  | nil => exact fun x h => absurd h List.not_mem_nil
  | cons he _ ih =>
    intro x h
    rcases List.mem_cons.1 h with rfl | h
    · exact (fget_fsets_apart h32 _ _ he).trans (fget_fset_same x f v h32)
    · exact ih _ h

theorem fon_of_fget {f : Fld} {b : Bool} (hw : f.width = 1) (h : fget x f = b.toNat % 2 ^ f.width) : fon x f = b := by
  rw [fon, h, hw]
  cases b <;> rfl

theorem onlyRegs_fsets {m : List (Fld × Nat)} (x : Chip) (h : ∀ e ∈ m, e.1.addr ∈ l) : OnlyRegs l x (fsets x m) :=
  ⟨fsets_rest m x, fun b hb => rd_fsets_ne b m x fun e he hbe => hb (hbe ▸ h e he)⟩

/-! A lane's memory. -/

theorem laneOf_congr (h : y.lanes = x.lanes) : laneOf y n = laneOf x n := congrArg (smGet laneReset · n) h

@[simp] theorem laneOf_wr (x : Chip) (a : Nat) (v : Word) (n : Nat) : laneOf (wr x a v) n = laneOf x n := rfl

@[simp] theorem laneOf_fset (x : Chip) (f : Fld) (v n : Nat) : laneOf (fset x f v) n = laneOf x n := rfl

@[simp] theorem laneOf_fsets (x : Chip) (m : List (Fld × Nat)) (n : Nat) : laneOf (fsets x m) n = laneOf x n :=
  laneOf_congr (by rw [fsets_rest])

@[simp] theorem laneOf_raise (x : Chip) (src code : Nat) (args : List Byte) (n : Nat) :
    laneOf (raise x src code args) n = laneOf x n := laneOf_congr (by rw [raise_rest])

@[simp] theorem laneOf_setDsp_same (x : Chip) (n : Nat) (d : DspRt) : laneOf (setDsp x n d) n = { laneOf x n with dsp := d } :=
  laneOf_setLane_same _ _ _

@[simp] theorem fget_setDsp (x : Chip) (n : Nat) (d : DspRt) (f : Fld) : fget (setDsp x n d) f = fget x f := rfl

/-- A change of registers after one of the lanes' memory: the lanes are those of the end. -/
theorem onlyRegs_lanes {m : SMap LaneRt} (h : OnlyRegs l { x with lanes := m } y) : OnlyRegs l { x with lanes := y.lanes } y := by
  have hm : y.lanes = m := by rw [h.1]
  rw [hm]
  exact h

theorem onlyRegsLog_lanes {m : SMap LaneRt} (h : OnlyRegsLog l { x with lanes := m } y) :
    OnlyRegsLog l { x with lanes := y.lanes } y := by
  have hm : y.lanes = m := by rw [h.1]
  rw [hm]
  exact h

/-- A change of registers is the same one with other lanes' memory. -/
theorem onlyRegs_with_lanes (h : OnlyRegs l x y) (m : SMap LaneRt) : OnlyRegs l { x with lanes := m } { y with lanes := m } :=
  ⟨by rw [h.1], h.2⟩

/-- An event after a change of registers and of the lanes' memory. -/
theorem onlyRegsLog_raise_lanes (h : OnlyRegs l { x with lanes := y.lanes } y) (src code : Nat) (args : List Byte) :
    OnlyRegsLog l { x with lanes := (raise y src code args).lanes } (raise y src code args) :=
  onlyRegsLog_lanes (onlyRegs_then_log h (onlyRegsLog_raise l y src code args))

/-! A lane's registers. -/

theorem laneStatus_not_log (n : Nat) : R.LANE_STATUS n ∉ logRegs := by
  simp only [logRegs, R.LANE_STATUS, R.MGMT_LOG_WR, R.MGMT_LOG_LOST, R.MGMT_FAULT_STATUS, R.MGMT_INT_CAUSE, List.mem_cons,
    List.not_mem_nil, or_false]
  omega

/-- An event leaves what a lane's status shows. -/
theorem fget_raise_status (x : Chip) (src code : Nat) (args : List Byte) {f : Fld} (h : f.addr = R.LANE_STATUS n) :
    fget (raise x src code args) f = fget x f :=
  fget_raise x src code args f (h ▸ laneStatus_not_log n)

/-- A lane's settings are read from other registers than its status and its figures. -/
theorem cfgOf_onlyRegs (h : OnlyRegs [R.LANE_QUAL n, R.LANE_STATUS n] x y) : cfgOf y n = cfgOf x n := by
  have hw : ∀ o ∈ [0, 8, 0xC, 0x10, 0x14, 0x20, 0x2C], rd y (laneBase n + o) = rd x (laneBase n + o) := fun o ho => h.2 _ (by
    simp only [List.mem_cons, List.not_mem_nil, or_false, laneBase, R.LANE_QUAL, R.LANE_STATUS] at ho ⊢
    omega)
  simp only [List.forall_mem_cons] at hw
  obtain ⟨h0, h8, hc, h10, h14, h20, h2c, -⟩ := hw
  simp only [cfgOf, cfgFrom, h0, h8, hc, h10, h14, h20, h2c]

end Sys2Proof.Machine
end

section
/-! Changes of a lane's state (R138, R152, R163): the event of each mode, what a change leaves, the ramp that follows it, and the
statement about them. -/
namespace Sys2Proof.Machine

variable {x : Chip} {n st : Nat}

/-- Code and arguments of the event by which a mode tells a change of state, none where it has no such event (R138, R163). -/
def stateEvent (std n old st q : Nat) : Option (Nat × List Byte) :=
  match std with
  | 1 => some (0x10, b1 n ++ b1 old ++ b1 st ++ b1 q)
  | 2 => some (0x14, b1 n ++ b1 old ++ b1 st ++ b1 q)
  | 3 => some (0x20, b1 n ++ b1 3 ++ b1 old ++ b1 st ++ b1 q)
  | 4 => some (0x20, b1 n ++ b1 4 ++ b1 old ++ b1 st ++ b1 q)
  | 5 => some (0x28, b1 n ++ b1 old ++ b1 st ++ b1 q)
  | _ => none

theorem stateEvent_none {std : Nat} (h : std ∉ [1, 2, 3, 4, 5]) (n old st q : Nat) : stateEvent std n old st q = none := by
  unfold stateEvent
  split
  case h_6 => rfl
  all_goals exact absurd (by decide) h

theorem laneStateSet_same (h : st = laneState x n) : laneStateSet x n st = x := if_pos h.symm

/-- A change of state is shown, and told by the event of the lane's mode where it has one. -/
theorem laneStateSet_changes (h : st ≠ laneState x n) : laneStateSet x n st =
    (stateEvent (stdOf x n) n (laneState x n) st (fget x (F.LANE_QUAL_cnr n))).elim (fset x (F.LANE_STATE n) st)
      fun e => laneTold (raise (fset x (F.LANE_STATE n) st) (srcLane n) e.1 e.2) n := by
  rw [laneStateSet, if_neg h.symm]
  dsimp only
  generalize stdOf x n = std
  match std with
  | 0 | 1 | 2 | 3 | 4 | 5 | _ + 6 => rfl

theorem laneState_laneStateSet (x : Chip) (n : Nat) (h : st < 16) : laneState (laneStateSet x n st) n = st := by
  by_cases hs : st = laneState x n
  · rw [laneStateSet_same hs, hs]
  · have hz : laneState (fset x (F.LANE_STATE n) st) n = st :=
      (fget_fset_same _ _ _ (by simp [F.LANE_STATE])).trans (Nat.mod_eq_of_lt h)
    rw [laneStateSet_changes hs]
    cases stateEvent (stdOf x n) n (laneState x n) st (fget x (F.LANE_QUAL_cnr n)) with
    | none => exact hz
    | some e => exact (fget_raise_status (n := n) _ _ _ _ rfl).trans hz

theorem muted_laneStateSet (x : Chip) (n st : Nat) : (laneOf (laneStateSet x n st) n).muted = (laneOf x n).muted := by
  by_cases hs : st = laneState x n
  · rw [laneStateSet_same hs]
  · rw [laneStateSet_changes hs]
    cases stateEvent (stdOf x n) n (laneState x n) st (fget x (F.LANE_QUAL_cnr n)) with
    | none => rfl
    | some e => rw [Option.elim_some, laneTold, laneOf_setLane_same, laneOf_raise, laneOf_fset]

theorem onlyRegsLog_laneStateSet (x : Chip) (n st : Nat) :
    OnlyRegsLog [R.LANE_STATUS n] { x with lanes := (laneStateSet x n st).lanes } (laneStateSet x n st) :=
  ⟨laneStateSet_rest x n st, fun b hb hl => rd_laneStateSet x n st b hl (List.ne_of_not_mem_cons hb)⟩

/-! The ramp of a lane's audio (R138). -/

theorem rampFollow_rest (x : Chip) (n : Nat) : rampFollow x n = { x with lanes := (rampFollow x n).lanes } := by
  unfold rampFollow
  dsimp only
  split <;> rfl

/-- After the ramp has followed, audio is let through just where the lane is audible. -/
theorem letThrough_rampFollow (x : Chip) (n : Nat) : letThrough (laneOf (rampFollow x n) n) = audible x n := by
  unfold rampFollow
  dsimp only
  split
  next h => exact h.symm
  next =>
    rw [laneOf_setLane_same]
    rfl

theorem audible_laneStateSet (x : Chip) (n : Nat) (h : st < 16) :
    audible (laneStateSet x n st) n = (st == 2 && (!(laneOf x n).muted && inputOn (laneStateSet x n st) n)) := by
  rw [audible, laneState_laneStateSet x n h, muted_laneStateSet]

/-- A lane that is no lead leaving PLAY changes its state and the ramp of its audio alone. -/
theorem setLaneState_alone (h : ¬(stdOf x n = mLead ∧ laneState x n = 2 ∧ st ≠ 2)) :
    setLaneState x n st = rampFollow (laneStateSet x n st) n := if_neg h

/-- A lead that leaves PLAY detaches its services (R152). -/
theorem setLaneState_lead (h : stdOf x n = mLead ∧ laneState x n = 2 ∧ st ≠ 2) :
    setLaneState x n st = after (srcLane n)
      (fun w => (servicesOf (rampFollow (laneStateSet x n st) n) n).foldl (svcDetach n) w) (rampFollow (laneStateSet x n st) n) :=
  if_pos h

/-- Settles O35: the state shown and its frame, the event of each mode, then the ramp and the services of a lead. -/
theorem laneStateEvents : Obligations.LaneStateEvents := by
  unfold Obligations.LaneStateEvents
  intro x n st _ hst
  refine ⟨laneState_laneStateSet x n hst, onlyRegsLog_laneStateSet x n st, laneStateSet_same, ?fm, ?am, ?lead, ?service, ?drm,
    fun hs hm => ?untold, fun h => ?alone, rfl, fun hm ho hs => setLaneState_lead ⟨hm, ho, hs⟩⟩
  case untold => rw [laneStateSet_changes hs, stateEvent_none hm, Option.elim_none]
  case alone =>
    refine ⟨(setLaneState x n st).lanes, ?_, ?_⟩
    · rw [setLaneState_alone h]
      exact rampFollow_rest _ n
    · rw [setLaneState_alone h, ← rampFollow_rest, letThrough_rampFollow, audible_laneStateSet x n hst]
  all_goals
    intro hs hm
    rw [laneStateSet_changes hs, hm]
    rfl

end Sys2Proof.Machine
end

section
/-! RDS blocks (R129 to R132, R142): what the RDS memory of a lane shows, sync gained and lost, a block in sync, and the statement
about them. -/
namespace Sys2Proof.Machine

variable {x : Chip} {n : Nat} {o : RdsObs} {s : State}

/-! The RDS memory and what the status shows of it (R144). -/

/-- What the status shows of an RDS memory. -/
def rdsFields (n : Nat) (r : Rds) : List (Fld × Nat) :=
  [(F.FM_rds_sync n, r.sync.toNat), (F.FM_bler n, if r.sync then percent r.last64 else 0xFF),
    (F.FM_rbds_e n, (r.e50.any id).toNat)]

theorem setRds_eq (x : Chip) (n : Nat) (r : Rds) :
    setRds x n r = fsets (setLane x n { laneOf x n with rds := r }) (rdsFields n r) := rfl

theorem rdsFields_apart (n : Nat) (r : Rds) : (rdsFields n r).Pairwise fun e g => e.1.Apart g.1 := by
  simp [rdsFields, Fld.Apart, F.FM_rds_sync, F.FM_bler, F.FM_rbds_e]

theorem rdsFields_addr (n : Nat) (r : Rds) : ∀ e ∈ rdsFields n r, e.1.addr ∈ [R.LANE_STATUS n] := by
  simp [rdsFields, F.FM_rds_sync, F.FM_bler, F.FM_rbds_e]

theorem rds_setRds (x : Chip) (n : Nat) (r : Rds) : (laneOf (setRds x n r) n).rds = r := by
  rw [setRds_eq, laneOf_fsets, laneOf_setLane_same]

theorem fget_setRds_sync (x : Chip) (n : Nat) (r : Rds) : fget (setRds x n r) (F.FM_rds_sync n) = r.sync.toNat := by
  rw [setRds_eq, fget_fsets_mem (by simp [F.FM_rds_sync]) (rdsFields_apart n r) _ (List.mem_cons_self ..)]
  cases r.sync <;> rfl

theorem onlyRegs_setRds (x : Chip) (n : Nat) (r : Rds) :
    OnlyRegs [R.LANE_STATUS n] { x with lanes := (setRds x n r).lanes } (setRds x n r) :=
  onlyRegs_lanes (onlyRegs_fsets (setLane x n { laneOf x n with rds := r }) (rdsFields_addr n r))

theorem nextSeq_setRds (x : Chip) (n : Nat) (r : Rds) (src : Nat) : nextSeq (setRds x n r) src = nextSeq x src :=
  nextSeq_onlyRegs (onlyRegs_setRds x n r) src

/-! Sync gained and lost (R129). -/

/-- A change of sync shows, is told once, and keeps the items decoded. -/
theorem rdsSync_effect (x : Chip) (n : Nat) (gained : Bool) :
    let y := rdsSync x n gained
    (laneOf y n).rds.sync = gained ∧ fget y (F.FM_rds_sync n) = gained.toNat ∧
      nextSeq y (srcLane n) = nextSeq x (srcLane n) + 1 ∧ (laneOf y n).rds.items = (laneOf x n).rds.items ∧
      OnlyRegsLog [R.LANE_STATUS n] { x with lanes := y.lanes } y := by
  refine ⟨?_, ?_, ?_, ?_, onlyRegsLog_raise_lanes (onlyRegs_setRds _ _ _) _ _ _⟩
  · rw [rdsSync, laneOf_raise, rds_setRds]
  · rw [rdsSync, fget_raise_status (n := n) _ _ _ _ rfl, fget_setRds_sync]
  · rw [rdsSync, nextSeq_raise_same, nextSeq_setRds]
  · rw [rdsSync, laneOf_raise, rds_setRds]
    rfl

/-- The legal sequence of offset words (R129). -/
theorem legalNext_iff (rbds : Bool) (p b : Nat) : legalNext rbds p b = true ↔
    (p = 0 ∧ b = 1) ∨ (p = 1 ∧ (b = 2 ∨ b = 3)) ∨ ((p = 2 ∨ p = 3) ∧ b = 4) ∨ (p = 4 ∧ b = 0) ∨
      (rbds = true ∧ (p = 5 ∨ b = 5)) := by
  unfold legalNext
  match p with
  | 0 | 1 | 2 | 3 | 4 | 5 | _ + 6 => simp [or_comm]

/-- A block of zero syndrome that counts for sync (R129). -/
def ZeroBlock (x : Chip) (n : Nat) (o : RdsObs) : Prop :=
  o.burst = some 0 ∧ (rbdsOn (cfgOf x n) = true ∨ o.offset ≠ 5)

/-- A zero-syndrome block follows legally and at 26 bits on another one (R129). -/
def GainsSync (x : Chip) (n : Nat) (o : RdsObs) : Prop :=
  ZeroBlock x n o ∧ o.adjacent = true ∧
    ∃ p, (laneOf x n).rds.prev = some p ∧ legalNext (rbdsOn (cfgOf x n)) p o.offset = true

theorem rdsSearch_gains (h : GainsSync x n o) : rdsSearch x n o = rdsSync x n true := by
  obtain ⟨hz, ha, p, hp, hl⟩ := h
  refine (if_pos hz).trans ?_
  simp only [hp, ha, hl, Bool.and_self, if_true]

/-- A zero-syndrome block that gains no sync is remembered. -/
theorem rdsSearch_remembers (hz : ZeroBlock x n o) (h : ¬GainsSync x n o) :
    rdsSearch x n o = setRds x n { (laneOf x n).rds with prev := some o.offset } := by
  refine (if_pos hz).trans (if_neg fun hok => ?_)
  cases hp : (laneOf x n).rds.prev with
  | none => simp [hp] at hok
  | some p =>
    rw [hp, Bool.and_eq_true] at hok
    exact h ⟨hz, hok.1, p, hp, hok.2⟩

/-- Any other block forgets the one remembered. -/
theorem rdsSearch_forgets (hz : ¬ZeroBlock x n o) :
    rdsSearch x n o = setRds x n { (laneOf x n).rds with prev := none } := if_neg hz

/-! A block in sync (R129 to R132). -/

/-- A block as sync takes it: without `rbds` what looks like a block E is uncorrectable. -/
def asTaken (x : Chip) (n : Nat) (q : RdsObs) : RdsObs :=
  if q.offset = 5 ∧ rbdsOn (cfgOf x n) = false then { q with burst := none } else q

/-- The last 50 blocks hold 20 uncorrectable ones, this one among them (R129). -/
def LosesSync (x : Chip) (n : Nat) (q : RdsObs) : Prop :=
  20 ≤ hits (((asTaken x n q).burst.isNone :: (laneOf x n).rds.last50).take 50)

theorem rdsTake_loses {q : RdsObs} (h : LosesSync x n q) : ∃ y, rdsTake x n q = rdsSync y n false := ⟨_, if_pos h⟩

/-- A block that does not lose sync joins the histories and its group, and names its candidates. -/
def blockTaken (x : Chip) (n : Nat) (q : RdsObs) : Chip :=
  let o := asTaken x n q
  let r := (laneOf x n).rds
  let f := blockFlag ((cfgOf x n).opt / 16 % 4) (blockTouched x n o) o
  let r1 : Rds := { r with
    last50 := List.take 50 (o.burst.isNone :: r.last50)
    last64 := List.take 64 ((f == 3) :: r.last64)
    e50 := List.take 50 ((rbdsOn (cfgOf x n) && o.offset == 5) :: r.e50) }
  let y := rdsGroup (setRds x n r1) n o f
  if f < 3 then addCands y n o.cands else y

theorem rdsTake_keeps {q : RdsObs} (h : ¬LosesSync x n q) : rdsTake x n q = blockTaken x n q := if_neg h

/-- An E block is published on its own (R131). -/
theorem rdsGroup_of_e {f : Nat} (ho : o.offset = 5) (hr : rbdsOn (cfgOf x n) = true) :
    rdsGroup x n o f = publish x n 0x0102 (b2 (blockData f o) ++ b1 f) o.stamp := (if_pos ho).trans (if_pos hr)

/-! RDS_BLOCK. -/

theorem exec_rdsBlock_search (h : runs s.chip n mFm = true) (hs : (laneOf s.chip n).rds.sync = false) :
    exec (.rdsBlock n o) s = .next (onChip (fun x => rdsSearch x n o) s) := by
  refine congrArg Host.Outcome.next ((if_pos h).trans ?_)
  rw [onChip, hs]
  rfl

theorem exec_rdsBlock_take (h : runs s.chip n mFm = true) (hs : (laneOf s.chip n).rds.sync = true) :
    exec (.rdsBlock n o) s = .next (onChip (fun x => rdsTake x n o) s) := by
  refine congrArg Host.Outcome.next ((if_pos h).trans ?_)
  rw [onChip, hs]
  rfl

theorem exec_rdsBlock_idle (h : runs s.chip n mFm = false) : exec (.rdsBlock n o) s = .next s :=
  congrArg Host.Outcome.next (if_neg (ne_true_of_eq_false h))

/-- Settles O37: blocks out of sync that gain it, are remembered or forget, then blocks in sync, an E block, and other lanes. -/
theorem rdsBlocks : Obligations.RdsBlocks := by
  unfold Obligations.RdsBlocks
  refine ⟨fun n o s hr hs => ?search, fun n q s hr hs => ⟨fun hl => ?loses, fun hl => ?keeps⟩,
    fun x n o f => rdsGroup_of_e, fun n o s => exec_rdsBlock_idle⟩
  case search =>
    simp only [← legalNext_iff]
    rw [exec_rdsBlock_search hr hs, onChip]
    refine ⟨fun hg => ?_, fun hg => ?_⟩
    · obtain ⟨hsync, hshown, hseq, hitems, hframe⟩ := rdsSync_effect s.chip n true
      rw [rdsSearch_gains hg]
      exact ⟨_, rfl, rfl, hsync, hshown, hseq, hitems, hframe⟩
    · by_cases hz : ZeroBlock s.chip n o
      · rw [rdsSearch_remembers hz hg]
        refine ⟨_, rfl, rfl, (rds_setRds _ _ _).trans ?_, onlyRegs_setRds _ _ _⟩
        rw [if_pos]
        exact hz
      · rw [rdsSearch_forgets hz]
        refine ⟨_, rfl, rfl, (rds_setRds _ _ _).trans ?_, onlyRegs_setRds _ _ _⟩
        rw [if_neg]
        exact hz
  case loses =>
    obtain ⟨y, hy⟩ := rdsTake_loses hl
    obtain ⟨hsync, hshown, -⟩ := rdsSync_effect y n false
    rw [exec_rdsBlock_take hr hs, onChip, hy]
    exact ⟨_, rfl, rfl, hsync, hshown⟩
  case keeps =>
    rw [exec_rdsBlock_take hr hs, onChip, rdsTake_keeps hl]
    rfl

end Sys2Proof.Machine
end

section
/-! FM lanes (R121 to R128, R137, R138, R142): what a quality update leaves in a lane's memory and shows, the pilot found and
lost, and the rules of FM_STATE and STEREO. -/
namespace Sys2Proof.Machine

variable {x y : Chip} {n : Nat} {s : State}

theorem lasting_iff {b : Bool} {p : Prop} [Decidable p] (h : b = true ↔ p) (so ms : Nat) :
    lasting b so ms = if p then so + ms else 0 := if_congr h rfl rfl

theorem lasting_decide (p : Prop) [Decidable p] (so ms : Nat) : lasting (decide p) so ms = if p then so + ms else 0 :=
  lasting_iff decide_eq_true_iff so ms

/-- Audio delivered joins what waits in the depot. -/
theorem laneOf_deliver (x : Chip) (n : Nat) (l : List Pcm) : laneOf (deliver x n l) n =
    { laneOf x n with pcm := l.foldl (pcmPush (nowAt x)) (laneOf x n).pcm } := laneOf_setLane_same _ _ _

/-! A quality update (R123, R125, R127, R128, R137). -/

/-- The multipath index of an update, open where the envelope's mean is 0 (R125). -/
def fmIndex (x : Chip) (n : Nat) (o : FmObs) : Nat := (multipath (fmRun x n o.run).1.envelope).getD ((free x).toNat % 101)

/-- The lane's memory after an update, but for the audio that it delivers. -/
def fmMemory (x : Chip) (n : Nat) (o : FmObs) : LaneRt :=
  let d := (laneOf x n).dsp
  let cnr := sat 8 o.cnr
  { laneOf x n with
    fm := (fmRun x n o.run).1
    dsp := { d with
      blend := if d.gone && laneTaint x n (nowAt x) then d.blend
        else blendMove d.blend (blendTarget x n (fmScore cnr (fmIndex x n o))) o.ms
      smute := smuteMove x n d.smute cnr o.ms
      above := lasting (decide (32 ≤ cnr)) d.above o.ms
      below := lasting (decide (cnr < 16)) d.below o.ms
      low := branchLow x n d.low o.run
      lockMs := lasting (decide (o.pilot.natAbs ≤ 50 ∧ 3500 ≤ o.inject)) d.lockMs o.ms
      weakMs := lasting (decide (o.inject < 2500)) d.weakMs o.ms } }

/-- What the status shows of a lane's memory. -/
def fmFields (n : Nat) (r : LaneRt) : List (Fld × Nat) :=
  [(F.FM_blend n, r.dsp.blend / 10), (F.FM_smute n, r.dsp.smute / 2), (F.FM_nb n, (decide (r.fm.quiet < 2048)).toNat)]

theorem fmFields_apart (n : Nat) (r : LaneRt) : (fmFields n r).Pairwise fun e g => e.1.Apart g.1 := by
  simp [fmFields, Fld.Apart, F.FM_blend, F.FM_smute, F.FM_nb]

theorem fmFields_addr (n : Nat) (r : LaneRt) : ∀ e ∈ fmFields n r, e.1.addr = R.LANE_STATUS n := by
  simp [fmFields, F.FM_blend, F.FM_smute, F.FM_nb]

/-- A memory put in place with samples delivered, the figures q shown, and of the memory what the status has fields for. -/
def fmShown (x : Chip) (n : Nat) (r : LaneRt) (l : List Pcm) (q : Word) : Chip :=
  fsets (wr (deliver (setLane (freeNext x) n r) n l) (R.LANE_QUAL n) q) (fmFields n r)

theorem fmTake_eq (x : Chip) (n : Nat) (o : FmObs) : fmTake x n o = fmShown x n (fmMemory x n o) (fmRun x n o.run).2
    (qualWord (fmScore (sat 8 o.cnr) (fmIndex x n o)) (sat 8 o.cnr) o.level (fmIndex x n o)) := by
  rw [fmTake, fmShown, fmFields, fmMemory, fmIndex]

section
variable (x : Chip) (n : Nat) (r : LaneRt) (l : List Pcm) (q : Word)

theorem laneOf_fmShown : laneOf (fmShown x n r l q) n = { r with pcm := l.foldl (pcmPush (nowAt x)) r.pcm } := by
  rw [fmShown, laneOf_fsets, laneOf_wr, laneOf_deliver, laneOf_setLane_same]
  rfl

theorem rd_fmShown_qual : rd (fmShown x n r l q) (R.LANE_QUAL n) = q := by
  have hne : R.LANE_QUAL n ≠ R.LANE_STATUS n := by simp [R.LANE_QUAL, R.LANE_STATUS]
  rw [fmShown, rd_fsets_ne _ _ _ fun e he => by rwa [fmFields_addr n _ e he], rd_wr_same]

theorem laneState_fmShown : laneState (fmShown x n r l q) n = laneState x n := by
  have hne : (F.LANE_STATE n).addr ≠ R.LANE_QUAL n := by simp [F.LANE_STATE, R.LANE_QUAL, R.LANE_STATUS]
  rw [laneState, fmShown, fget_fsets_apart (by simp [F.LANE_STATE]), fget_wr_ne _ _ _ _ hne]
  · rfl
  · simp [fmFields, Fld.Apart, F.LANE_STATE, F.FM_blend, F.FM_smute, F.FM_nb]

/-- Each field shows its part of the memory. -/
theorem fget_fmShown {f : Fld} {v : Nat} (h32 : f.lo + f.width ≤ 32) (h : (f, v) ∈ fmFields n r) :
    fget (fmShown x n r l q) f = v % 2 ^ f.width := by
  rw [fmShown, fget_fsets_mem h32 (fmFields_apart n _) _ h]

theorem onlyRegs_fmShown : OnlyRegs [R.LANE_QUAL n, R.LANE_STATUS n]
    { x with lanes := (fmShown x n r l q).lanes, freeCount := (fmShown x n r l q).freeCount } (fmShown x n r l q) := by
  have hf : ∀ e ∈ fmFields n r, e.1.addr ∈ [R.LANE_QUAL n, R.LANE_STATUS n] := fun e he => by simp [fmFields_addr n _ e he]
  have h : OnlyRegs [R.LANE_QUAL n, R.LANE_STATUS n] (deliver (setLane (freeNext x) n r) n l) (fmShown x n r l q) :=
    onlyRegs_trans (onlyRegs_wr _ _ (List.mem_cons_self ..)) (onlyRegs_fsets _ hf)
  exact h

end

/-- The lane's memory after an update. -/
theorem laneOf_fmTake (x : Chip) (n : Nat) (o : FmObs) :
    let d := (laneOf x n).dsp
    let cnr := sat 8 o.cnr
    let r := laneOf (fmTake x n o) n
    r.fm = (fmRun x n o.run).1 ∧ r.pcm = (fmRun x n o.run).2.foldl (pcmPush (nowAt x)) (laneOf x n).pcm ∧
      r.dsp.blend = (if d.gone && laneTaint x n (nowAt x) then d.blend
        else blendMove d.blend (blendTarget x n (fmScore cnr (fmIndex x n o))) o.ms) ∧
      r.dsp.smute = smuteMove x n d.smute cnr o.ms ∧ r.dsp.above = (if 32 ≤ cnr then d.above + o.ms else 0) ∧
      r.dsp.below = (if cnr < 16 then d.below + o.ms else 0) ∧
      r.dsp.lockMs = (if o.pilot.natAbs ≤ 50 ∧ 3500 ≤ o.inject then d.lockMs + o.ms else 0) ∧
      r.dsp.weakMs = (if o.inject < 2500 then d.weakMs + o.ms else 0) ∧ r.dsp.gone = d.gone := by
  dsimp only
  rw [fmTake_eq, laneOf_fmShown, fmMemory]
  simp only [lasting_decide, and_self]

theorem rd_fmTake_qual (x : Chip) (n : Nat) (o : FmObs) : rd (fmTake x n o) (R.LANE_QUAL n) =
    qualWord (fmScore (sat 8 o.cnr) (fmIndex x n o)) (sat 8 o.cnr) o.level (fmIndex x n o) := by
  rw [fmTake_eq, rd_fmShown_qual]

theorem laneState_fmTake (x : Chip) (n : Nat) (o : FmObs) : laneState (fmTake x n o) n = laneState x n := by
  rw [fmTake_eq, laneState_fmShown]

theorem onlyRegs_fmTake (x : Chip) (n : Nat) (o : FmObs) : OnlyRegs [R.LANE_QUAL n, R.LANE_STATUS n]
    { x with lanes := (fmTake x n o).lanes, freeCount := (fmTake x n o).freeCount } (fmTake x n o) := by
  rw [fmTake_eq]
  exact onlyRegs_fmShown _ _ _ _ _

/-- What the status shows is the lane's memory. -/
theorem fmTake_shows (x : Chip) (n : Nat) (o : FmObs) :
    let r := laneOf (fmTake x n o) n
    fget (fmTake x n o) (F.FM_blend n) = r.dsp.blend / 10 % 128 ∧ fget (fmTake x n o) (F.FM_smute n) = r.dsp.smute / 2 % 32 ∧
      fon (fmTake x n o) (F.FM_nb n) = decide (r.fm.quiet < 2048) := by
  dsimp only
  rw [fmTake_eq, laneOf_fmShown]
  refine ⟨?_, ?_, fon_of_fget rfl ?_⟩
  · exact fget_fmShown _ _ _ _ _ (by simp [F.FM_blend]) (by simp [fmFields])
  · exact fget_fmShown _ _ _ _ _ (by simp [F.FM_smute]) (by simp [fmFields])
  · exact fget_fmShown _ _ _ _ _ (by simp [F.FM_nb]) (by simp [fmFields])

/-! The pilot (R127, R142). -/

/-- A pilot lost in a taint that has ended is told, or forgotten where its injection has come back. -/
def pilotSettled (x : Chip) (n : Nat) : Chip :=
  if (laneOf x n).dsp.gone && !laneTaint x n (nowAt x) then
    (if 10 ≤ (laneOf x n).dsp.weakMs then pilotLost x n else setDsp x n { (laneOf x n).dsp with gone := false })
  else x

theorem laneState_pilotLost (x : Chip) (n : Nat) : laneState (pilotLost x n) n = laneState x n := by
  rw [laneState, pilotLost, fget_raise_status (n := n) _ _ _ _ rfl, fget_fset_apart _ _ _ _ (by simp [F.LANE_STATE])
    (by simp [F.LANE_STATE, F.FM_pilot]), fget_setDsp]
  rfl

theorem laneState_pilotSettled (x : Chip) (n : Nat) : laneState (pilotSettled x n) n = laneState x n := by
  unfold pilotSettled
  split
  · split
    · exact laneState_pilotLost x n
    · rfl
  · rfl

/-- A loss shows and is told. -/
theorem pilotLost_effect (x : Chip) (n : Nat) : fget (pilotLost x n) (F.FM_pilot n) = 0 ∧
    nextSeq (pilotLost x n) (srcLane n) = nextSeq x (srcLane n) + 1 ∧
    OnlyRegsLog [R.LANE_STATUS n] { x with lanes := (pilotLost x n).lanes } (pilotLost x n) := by
  have hf : OnlyRegs [R.LANE_STATUS n] (setDsp x n { (laneOf x n).dsp with gone := false })
      (fset (setDsp x n { (laneOf x n).dsp with gone := false }) (F.FM_pilot n) 0) :=
    onlyRegs_fset (f := F.FM_pilot n) _ 0 (List.mem_cons_self ..)
  refine ⟨?_, ?_, onlyRegsLog_raise_lanes (onlyRegs_lanes hf) _ _ _⟩
  · rw [pilotLost, fget_raise_status (n := n) _ _ _ _ rfl, fget_fset_same _ _ _ (by simp [F.FM_pilot]), Nat.zero_mod]
  · rw [pilotLost, nextSeq_raise_same, nextSeq_onlyRegs hf]
    rfl

/-- A pilot found shows; the blend stays where one had been locked since acquisition. -/
theorem pilotFound_effect (x : Chip) (n : Nat) : fget (pilotFound x n) (F.FM_pilot n) = 1 ∧
    (laneOf (pilotFound x n) n).dsp.piloted = true ∧
    ((laneOf x n).dsp.piloted = true → (laneOf (pilotFound x n) n).dsp.blend = (laneOf x n).dsp.blend) ∧
    OnlyRegs [R.LANE_STATUS n] { x with lanes := (pilotFound x n).lanes } (pilotFound x n) := by
  have hs : ∀ f : Fld, f.addr = R.LANE_STATUS n → f.addr ∈ [R.LANE_STATUS n] := fun f h => List.mem_singleton.2 h
  refine ⟨?_, ?_, fun hp => ?_, ?_⟩
  · rw [pilotFound, fget_fset_apart _ _ _ _ (by simp [F.FM_pilot]) (by simp [F.FM_pilot, F.FM_blend]), fget_setDsp,
      fget_fset_same _ _ _ (by simp [F.FM_pilot])]
    rfl
  · rw [pilotFound, laneOf_fset, laneOf_setDsp_same]
  · rw [pilotFound, laneOf_fset, laneOf_setDsp_same]
    exact if_pos hp
  · exact onlyRegs_trans (onlyRegs_fset _ 1 (hs (F.FM_pilot n) rfl)) (onlyRegs_fset _ _ (hs (F.FM_blend n) rfl))

/-! FM_STATE and STEREO. -/

theorem exec_fmState {o : FmObs} (h : runs s.chip n mFm = true) :
    exec (.fmState n o) s = .next (onChip (fun x => fmUpdate x n o) s) := congrArg Host.Outcome.next (if_pos h)

theorem exec_stereo {b : Bool} (h : runs s.chip n mFm = true) :
    exec (.stereo n b) s = .next (onChip (fun x => stereo x n b) s) := congrArg Host.Outcome.next (if_pos h)

theorem exec_fm_idle {o : FmObs} {b : Bool} (h : runs s.chip n mFm = false) :
    exec (.fmState n o) s = .next s ∧ exec (.stereo n b) s = .next s :=
  ⟨congrArg Host.Outcome.next (if_neg (ne_true_of_eq_false h)), congrArg Host.Outcome.next (if_neg (ne_true_of_eq_false h))⟩

/-- An update settles the pilot and moves the lane's state by how long its cnr has been high or low (R138). -/
theorem fmUpdate_eq (x : Chip) (n : Nat) (o : FmObs) : fmUpdate x n o =
    moveState (pilotSettled (fmTake x n o) n) n (fmNext (laneState x n) (laneOf (fmTake x n o) n).dsp.above
      (laneOf (fmTake x n o) n).dsp.below) := by
  rw [← laneState_fmTake x n o, ← laneState_pilotSettled]
  rfl

/-- How long the condition of STEREO has held. -/
def stereoMs (d : DspRt) (present : Bool) : Nat := if present then d.lockMs else d.weakMs

theorem stereo_early {b : Bool} (h : stereoMs (laneOf x n).dsp b < 10) : stereo x n b = x := if_pos h

theorem exec_stereo_early {b : Bool} (h : stereoMs (laneOf s.chip n).dsp b < 10) : exec (.stereo n b) s = .next s := by
  by_cases hr : runs s.chip n mFm = true
  · rw [exec_stereo hr, onChip, stereo_early h]
  · exact congrArg Host.Outcome.next (if_neg hr)

theorem stereo_as_shown {b : Bool} (h : 10 ≤ stereoMs (laneOf x n).dsp b) (hp : fon x (F.FM_pilot n) = b) :
    stereo x n b = setDsp x n { (laneOf x n).dsp with gone := (laneOf x n).dsp.gone && !b } :=
  (if_neg (Nat.not_lt.2 h)).trans (if_pos hp)

theorem stereo_found (h : 10 ≤ stereoMs (laneOf x n).dsp true) (hp : fon x (F.FM_pilot n) = false) :
    stereo x n true = raise (pilotFound x n) (srcLane n) 0x11 (b1 n ++ b1 1) :=
  (if_neg (Nat.not_lt.2 h)).trans ((if_neg (ne_true_of_eq_false hp)).trans (if_pos rfl))

theorem stereo_weak (h : 10 ≤ stereoMs (laneOf x n).dsp false) (hp : fon x (F.FM_pilot n) = true) : stereo x n false =
    if laneTaint x n (nowAt x) then setDsp x n { (laneOf x n).dsp with gone := true } else pilotLost x n :=
  (if_neg (Nat.not_lt.2 h)).trans ((if_neg (by rw [hp]; decide)).trans (if_neg (by decide)))

end Sys2Proof.Machine
end

section
/-! AM lanes (R133 to R138, R142): what a quality update leaves in a lane's memory and shows, carrier fades, sidebands, and the
statement about FM and AM lanes. -/
namespace Sys2Proof.Machine

variable {x y : Chip} {n : Nat} {s : State}

/-! The stages of an update (R133 to R136). -/

/-- The figures and the carrier correction of an update, shown before its samples are taken. -/
def amFigured (x : Chip) (n : Nat) (o : AmObs) : Chip :=
  fset (wr x (R.LANE_QUAL n) (qualWord (min (sat 8 o.cnr) 240) (sat 8 o.cnr) o.level (min 150 o.depth))) (F.AM_foff n)
    (amOffset x n o)

theorem onlyRegs_amFigured (x : Chip) (n : Nat) (o : AmObs) :
    OnlyRegs [R.LANE_QUAL n, R.LANE_STATUS n] x (amFigured x n o) :=
  onlyRegs_trans (onlyRegs_wr _ _ (List.mem_cons_self ..))
    (onlyRegs_fset (f := F.AM_foff n) _ _ (List.mem_cons_of_mem _ (List.mem_cons_self ..)))

theorem laneOf_amFigured (x : Chip) (n : Nat) (o : AmObs) (k : Nat) : laneOf (amFigured x n o) k = laneOf x k := by
  rw [amFigured, laneOf_fset, laneOf_wr]

theorem nowAt_amFigured (x : Chip) (n : Nat) (o : AmObs) : nowAt (amFigured x n o) = nowAt x := by
  rw [nowAt, amFigured, fset_tm, wr_tm, nowAt]

theorem rd_amFigured_qual (x : Chip) (n : Nat) (o : AmObs) : rd (amFigured x n o) (R.LANE_QUAL n) =
    qualWord (min (sat 8 o.cnr) 240) (sat 8 o.cnr) o.level (min 150 o.depth) := by
  have hne : R.LANE_QUAL n ≠ (F.AM_foff n).addr := by simp [R.LANE_QUAL, F.AM_foff, R.LANE_STATUS]
  rw [amFigured, rd_fset_ne _ _ _ _ hne, rd_wr_same]

/-- The correction is the status's highest field. -/
theorem fget_amFigured (x : Chip) (o : AmObs) {f : Fld} (ha : f.addr = R.LANE_STATUS n) (hw : f.lo + f.width ≤ 22) :
    fget (amFigured x n o) f = fget x f := by
  have hne : f.addr ≠ R.LANE_QUAL n := by simp [ha, R.LANE_QUAL, R.LANE_STATUS]
  rw [amFigured, fget_fset_apart _ _ _ _ (hw.trans (by decide)) (.inr (.inl hw)), fget_wr_ne _ _ _ _ hne]

theorem amOffset_lt (x : Chip) (n : Nat) (o : AmObs) : amOffset x n o < 2 ^ 10 := by
  unfold amOffset
  split
  · exact getBits_lt _ _ _
  · exact tcomp_lt 10 _

theorem fget_amFigured_foff (x : Chip) (n : Nat) (o : AmObs) : fget (amFigured x n o) (F.AM_foff n) = amOffset x n o := by
  rw [amFigured, fget_fset_same _ _ _ (by simp [F.AM_foff])]
  exact Nat.mod_eq_of_lt (amOffset_lt x n o)

theorem smuteMove_amFigured (x : Chip) (n : Nat) (o : AmObs) (a cnr ms : Nat) :
    smuteMove (amFigured x n o) n a cnr ms = smuteMove x n a cnr ms := by
  rw [smuteMove, cfgOf_onlyRegs (onlyRegs_amFigured x n o), smuteMove]

/-- What the samples and figures make of a lane's memory; entering LOST in a fade frees the gain. -/
theorem amMove_effect (x : Chip) (n : Nat) (o : AmObs) (cnr : Nat) (ends : Bool) :
    let d := (laneOf x n).dsp
    let a := amRun x n o.run
    let r := laneOf (amMove x n o cnr ends) n
    r.dsp.dc = a.2.1 ∧ r.am = (if ends then { a.1 with gain := none } else a.1) ∧
      r.pcm = a.2.2.foldl (pcmPush (nowAt x)) (laneOf x n).pcm ∧ r.dsp.smute = smuteMove x n d.smute cnr o.ms ∧
      r.dsp.above = lasting (decide (40 ≤ cnr)) d.above o.ms ∧
      r.dsp.below = lasting (decide (cnr < 24) && !fon x (F.AM_fade n)) d.below o.ms ∧
      r.dsp.acqMs = lasting (laneState x n == 1) d.acqMs o.ms := by
  rw [amMove]
  cases ends with
  | true =>
    rw [if_pos rfl, amHold, laneOf_setLane_same, laneOf_deliver, laneOf_setLane_same]
    exact ⟨rfl, rfl, rfl, rfl, rfl, rfl, rfl⟩
  | false =>
    rw [if_neg Bool.false_ne_true, laneOf_deliver, laneOf_setLane_same]
    exact ⟨rfl, rfl, rfl, rfl, rfl, rfl, rfl⟩

theorem amMove_rest (x : Chip) (n : Nat) (o : AmObs) (cnr : Nat) (ends : Bool) :
    amMove x n o cnr ends = { x with lanes := (amMove x n o cnr ends).lanes } := by
  rw [amMove]
  cases ends <;> rfl

theorem rd_amMove (x : Chip) (n : Nat) (o : AmObs) (cnr : Nat) (ends : Bool) (b : Nat) :
    rd (amMove x n o cnr ends) b = rd x b := by
  rw [amMove_rest]
  rfl

/-! What an update shows (R133 to R138). -/

/-- The loop is locked: a carrier more than 200 Hz away does not lock (R133). -/
def amLocked (x : Chip) (n : Nat) (o : AmObs) : Bool := o.locked && decide ((amReach x n o).natAbs ≤ 200)

/-- The state that an update leads to (R138). -/
def amNew (x : Chip) (n : Nat) (o : AmObs) : Nat :=
  let d := (laneOf x n).dsp
  let cnr := sat 8 o.cnr
  let fade := fon x (F.AM_fade n)
  amNext (laneState x n) (amLocked x n o) (lasting (decide (40 ≤ cnr)) d.above o.ms)
    (lasting (decide (cnr < 24) && !fade) d.below o.ms) (lasting fade d.fadeMs o.ms)
    (lasting (laneState x n == 1) d.acqMs o.ms)

/-- An update that enters LOST ends the fade. -/
def amEnds (x : Chip) (n : Nat) (o : AmObs) : Bool := fon x (F.AM_fade n) && (amNew x n o == 3 && laneState x n != 3)

/-- What the status shows beside state, sideband and correction. -/
def amFields (n : Nat) (r : LaneRt) (locked fade : Bool) : List (Fld × Nat) :=
  [(F.AM_smute n, r.dsp.smute / 2), (F.AM_nb n, (decide (r.am.quiet < 256)).toNat), (F.AM_sync n, locked.toNat),
    (F.AM_fade n, fade.toNat)]

theorem amFields_apart (n : Nat) (r : LaneRt) (locked fade : Bool) :
    (amFields n r locked fade).Pairwise fun e g => e.1.Apart g.1 := by
  simp [amFields, Fld.Apart, F.AM_smute, F.AM_nb, F.AM_sync, F.AM_fade]

theorem amFields_addr (n : Nat) (r : LaneRt) (locked fade : Bool) :
    ∀ e ∈ amFields n r locked fade, e.1.addr = R.LANE_STATUS n := by
  simp [amFields, F.AM_smute, F.AM_nb, F.AM_sync, F.AM_fade]

theorem amFields_range (n : Nat) (r : LaneRt) (locked fade : Bool) :
    ∀ e ∈ amFields n r locked fade, 8 ≤ e.1.lo ∧ e.1.lo + e.1.width ≤ 20 := by
  simp [amFields, F.AM_smute, F.AM_nb, F.AM_sync, F.AM_fade]

/-- The chip after the samples of an update. -/
def amHeard (x : Chip) (n : Nat) (o : AmObs) : Chip := amMove (amFigured x n o) n o (sat 8 o.cnr) (amEnds x n o)

theorem amHeard_rest (x : Chip) (n : Nat) (o : AmObs) :
    amHeard x n o = { amFigured x n o with lanes := (amHeard x n o).lanes } := amMove_rest _ _ _ _ _

/-- The chip after an update but for the lane's state. -/
def amTaken (x : Chip) (n : Nat) (o : AmObs) : Chip :=
  fsets (amHeard x n o) (amFields n (laneOf (amHeard x n o) n) (amLocked x n o) (fon x (F.AM_fade n) && !amEnds x n o))

theorem amUpdate_eq (x : Chip) (n : Nat) (o : AmObs) : amUpdate x n o = moveState (amTaken x n o) n (amNew x n o) := by
  rw [amUpdate, amTaken, amHeard, amEnds, amNew, amLocked, amFields, amFigured]

theorem rd_amTaken_qual (x : Chip) (n : Nat) (o : AmObs) : rd (amTaken x n o) (R.LANE_QUAL n) =
    qualWord (min (sat 8 o.cnr) 240) (sat 8 o.cnr) o.level (min 150 o.depth) := by
  have hne : R.LANE_QUAL n ≠ R.LANE_STATUS n := by simp [R.LANE_QUAL, R.LANE_STATUS]
  rw [amTaken, rd_fsets_ne _ _ _ fun e he => by rwa [amFields_addr n _ _ _ e he], amHeard, rd_amMove, rd_amFigured_qual]

/-- State, sideband and correction are as the figures left them. -/
theorem fget_amTaken_apart (x : Chip) (o : AmObs) {f : Fld} (h32 : f.lo + f.width ≤ 32) (h : f.lo + f.width ≤ 8 ∨ 20 ≤ f.lo) :
    fget (amTaken x n o) f = fget (amFigured x n o) f := by
  rw [amTaken, fget_fsets_apart h32, amHeard, fget, rd_amMove, fget]
  intro e he
  obtain ⟨hlo, hhi⟩ := amFields_range n _ _ _ e he
  exact .inr (h.imp (fun h8 => h8.trans hlo) hhi.trans)

/-- What the status shows of memory, lock and fade. -/
theorem amTaken_shows (x : Chip) (n : Nat) (o : AmObs) :
    fon (amTaken x n o) (F.AM_sync n) = amLocked x n o ∧
      fon (amTaken x n o) (F.AM_fade n) = (fon x (F.AM_fade n) && !amEnds x n o) ∧
      fon (amTaken x n o) (F.AM_nb n) = decide ((laneOf (amTaken x n o) n).am.quiet < 256) := by
  rw [amTaken, laneOf_fsets]
  refine ⟨fon_of_fget rfl ?_, fon_of_fget rfl ?_, fon_of_fget rfl ?_⟩
  · exact fget_fsets_mem (by simp [F.AM_sync]) (amFields_apart n _ _ _) _ (by simp [amFields])
  · exact fget_fsets_mem (by simp [F.AM_fade]) (amFields_apart n _ _ _) _ (by simp [amFields])
  · exact fget_fsets_mem (by simp [F.AM_nb]) (amFields_apart n _ _ _) _ (by simp [amFields])

theorem laneState_amTaken (x : Chip) (n : Nat) (o : AmObs) : laneState (amTaken x n o) n = laneState x n := by
  rw [laneState, fget_amTaken_apart x o (by simp [F.LANE_STATE]) (by simp [F.LANE_STATE]),
    fget_amFigured x o rfl (by simp [F.LANE_STATE]), laneState]

theorem onlyRegs_amTaken (x : Chip) (n : Nat) (o : AmObs) :
    OnlyRegs [R.LANE_QUAL n, R.LANE_STATUS n] { x with lanes := (amTaken x n o).lanes } (amTaken x n o) := by
  have hf : ∀ e ∈ amFields n (laneOf (amHeard x n o) n) (amLocked x n o) (fon x (F.AM_fade n) && !amEnds x n o),
      e.1.addr ∈ [R.LANE_QUAL n, R.LANE_STATUS n] := fun e he => by simp [amFields_addr n _ _ _ e he]
  have hm := onlyRegs_with_lanes (onlyRegs_amFigured x n o) (amHeard x n o).lanes
  rw [← amHeard_rest] at hm
  exact onlyRegs_lanes (onlyRegs_trans hm (onlyRegs_fsets _ hf))

/-- The lane's memory after an update. -/
theorem laneOf_amTaken (x : Chip) (n : Nat) (o : AmObs) :
    let d := (laneOf x n).dsp
    let cnr := sat 8 o.cnr
    let a := amRun (amFigured x n o) n o.run
    let r := laneOf (amTaken x n o) n
    r.dsp.dc = a.2.1 ∧ r.am = (if amEnds x n o then { a.1 with gain := none } else a.1) ∧
      r.pcm = a.2.2.foldl (pcmPush (nowAt x)) (laneOf x n).pcm ∧ r.dsp.smute = smuteMove x n d.smute cnr o.ms ∧
      r.dsp.above = lasting (decide (40 ≤ cnr)) d.above o.ms ∧
      r.dsp.below = lasting (decide (cnr < 24) && !fon x (F.AM_fade n)) d.below o.ms ∧
      r.dsp.acqMs = lasting (laneState x n == 1) d.acqMs o.ms := by
  have h := amMove_effect (amFigured x n o) n o (sat 8 o.cnr) (amEnds x n o)
  have hf : fon (amFigured x n o) (F.AM_fade n) = fon x (F.AM_fade n) := by
    rw [fon, fget_amFigured x o rfl (by simp [F.AM_fade]), fon]
  have hs : laneState (amFigured x n o) n = laneState x n := fget_amFigured x o rfl (by simp [F.LANE_STATE])
  dsimp only at h ⊢
  rw [smuteMove_amFigured, hf, hs, laneOf_amFigured, nowAt_amFigured] at h
  rw [amTaken, laneOf_fsets]
  exact h

/-! Carrier fades (R134). -/

/-- A fade begun, with the gain held, or ended, with the gain free, under new bookkeeping. -/
def fadeTurned (x : Chip) (n : Nat) (on : Bool) (d : DspRt) : Chip := setDsp (fflag (amHold x n on) (F.AM_fade n) on) n d

theorem fadeTurned_effect (x : Chip) (n : Nat) (on : Bool) (d : DspRt) :
    fon (fadeTurned x n on d) (F.AM_fade n) = on ∧ (laneOf (fadeTurned x n on d) n).dsp = d ∧
      (laneOf (fadeTurned x n on d) n).am.gain = (if on then some (power (laneOf x n).dsp.dc) else none) ∧
      OnlyRegs [R.LANE_STATUS n] { x with lanes := (fadeTurned x n on d).lanes } (fadeTurned x n on d) := by
  refine ⟨?_, ?_, ?_, ?_⟩
  · exact fon_fflag_same (amHold x n on) (F.AM_fade n) on (by simp [F.AM_fade]) rfl
  · rw [fadeTurned, laneOf_setDsp_same]
  · rw [fadeTurned, laneOf_setDsp_same, fflag, laneOf_fset, amHold, laneOf_setLane_same]
  · exact onlyRegs_fset (f := F.AM_fade n) { x with lanes := (fadeTurned x n on d).lanes } _ (List.mem_cons_self ..)

theorem carrierFade_in {p a : Int} (h : fon x (F.AM_fade n) = true) : carrierFade x n p a =
    if (laneOf x n).dsp.fadeAvg - 600 ≤ p then fadeTurned x n false { (laneOf x n).dsp with fadeMs := 0 } else x := if_pos h

theorem carrierFade_out {p a : Int} (h : fon x (F.AM_fade n) = false) : carrierFade x n p a =
    if p ≤ a - 1000 then fadeTurned x n true { (laneOf x n).dsp with fadeAvg := a, fadeMs := 0 } else x :=
  if_neg (ne_true_of_eq_false h)

/-- What a comparison of the carrier with its average shows and holds. -/
theorem carrierFade_effect (x : Chip) (n : Nat) (p a : Int) :
    let d := (laneOf x n).dsp
    let was := fon x (F.AM_fade n)
    let y := carrierFade x n p a
    fon y (F.AM_fade n) = (if was then decide (p < d.fadeAvg - 600) else decide (p ≤ a - 1000)) ∧
      (laneOf y n).dsp.fadeAvg = (if was = false ∧ p ≤ a - 1000 then a else d.fadeAvg) ∧
      (laneOf y n).am.gain = (if was = true ∧ d.fadeAvg - 600 ≤ p then none
        else if was = false ∧ p ≤ a - 1000 then some (power d.dc) else (laneOf x n).am.gain) ∧
      OnlyRegs [R.LANE_STATUS n] { x with lanes := y.lanes } y := by
  dsimp only
  cases hw : fon x (F.AM_fade n) with
  | true =>
    rw [carrierFade_in hw]
    by_cases hp : (laneOf x n).dsp.fadeAvg - 600 ≤ p
    · obtain ⟨hon, hd, hg, hf⟩ := fadeTurned_effect x n false { (laneOf x n).dsp with fadeMs := 0 }
      rw [if_pos hp, hon, hd, hg]
      exact ⟨by simp [hp], by simp, by simp [hp], hf⟩
    · rw [if_neg hp, hw]
      exact ⟨by simp [not_le.1 hp], by simp, by simp [hp], rfl, fun _ _ => rfl⟩
  | false =>
    rw [carrierFade_out hw]
    by_cases hp : p ≤ a - 1000
    · obtain ⟨hon, hd, hg, hf⟩ := fadeTurned_effect x n true { (laneOf x n).dsp with fadeAvg := a, fadeMs := 0 }
      rw [if_pos hp, hon, hd, hg]
      exact ⟨by simp [hp], by simp [hp], by simp [hp], hf⟩
    · rw [if_neg hp, hw]
      exact ⟨by simp [hp], by simp [hp], by simp [hp], rfl, fun _ _ => rfl⟩

/-! AM_STATE, CARRIER_FADE and AM_SIDE. -/

theorem exec_amState {o : AmObs} (h : runs s.chip n mAm = true) :
    exec (.amState n o) s = .next (onChip (fun x => amUpdate x n o) s) := congrArg Host.Outcome.next (if_pos h)

theorem exec_carrierFade {p a : Int} (h : runs s.chip n mAm = true) :
    exec (.carrierFade n p a) s = .next (onChip (fun x => carrierFade x n p a) s) := congrArg Host.Outcome.next (if_pos h)

theorem exec_amSide {side : Nat} (h : runs s.chip n mAm = true) (ho : sideOpt (cfgOf s.chip n) = 1)
    (hd : sideDue (laneOf s.chip n).dsp side = true) :
    exec (.amSide n side) s = .next (onChip (fun x => sideTurn x n side) s) :=
  congrArg Host.Outcome.next (if_pos ⟨h, ho, hd⟩)

theorem exec_amSide_not_due {side : Nat} (h : sideOpt (cfgOf s.chip n) ≠ 1 ∨ sideDue (laneOf s.chip n).dsp side = false) :
    exec (.amSide n side) s = .next s := by
  refine congrArg Host.Outcome.next (if_neg ?_)
  rintro ⟨_, ho, hd⟩
  exact h.elim (fun hn => hn ho) fun hn => Bool.false_ne_true (hn.symm.trans hd)

theorem exec_am_idle {o : AmObs} {p a : Int} {side : Nat} (h : runs s.chip n mAm = false) :
    exec (.amState n o) s = .next s ∧ exec (.carrierFade n p a) s = .next s ∧ exec (.amSide n side) s = .next s :=
  ⟨congrArg Host.Outcome.next (if_neg (ne_true_of_eq_false h)), congrArg Host.Outcome.next (if_neg (ne_true_of_eq_false h)),
    congrArg Host.Outcome.next (if_neg fun hc => ne_true_of_eq_false h hc.1)⟩

theorem sideDue_of {d : DspRt} {side : Nat}
    (h : side = 0 ∧ 1000 ≤ d.evenMs ∨ side = 2 ∧ 200 ≤ d.downMs ∨ side = 3 ∧ 200 ≤ d.upMs) : sideDue d side = true := by
  rcases h with ⟨rfl, h⟩ | ⟨rfl, h⟩ | ⟨rfl, h⟩ <;> exact decide_eq_true h

/-- Settles O36: the quality updates field by field, then pilot, carrier fade and sideband by their rules, and other lanes. -/
theorem fmAndAmCommands : Obligations.FmAndAmCommands := by
  unfold Obligations.FmAndAmCommands
  refine ⟨fun n o s hr => ?fm, fun x n st => rfl, fun n s h => exec_stereo_early h, fun n s h => exec_stereo_early h,
    fun n s hr hp hl => ?found, fun n s hr hp hw => ⟨fun ht => ?lost, fun ht => ?held⟩, fun n on s hr hp hl => ?shown,
    fun n o s hr => ?am, fun n p a s hr => ?fade, fun n side s hr ho hd => ?side, fun n side s => exec_amSide_not_due,
    fun n side o q b p a s hf ha => ?idle⟩
  case fm =>
    intro st d r cnr mp score above below lock weak
    have hmp : fmIndex s.chip n o = mp := by
      simp only [fmIndex, mp, r]
      cases multipath (fmRun s.chip n o.run).1.envelope <;> rfl
    obtain ⟨hfm, hpcm, hblend, hsmute, habove, hbelow, hlock, hweak, hgone⟩ := laneOf_fmTake s.chip n o
    obtain ⟨hshowBlend, hshowSmute, hshowNb⟩ := fmTake_shows s.chip n o
    refine ⟨fmTake s.chip n o, ?_, ?_, ?_, ?_, hshowBlend, hsmute, hshowSmute, ?_, hfm, hpcm, habove, hbelow, hlock, hweak,
      hgone, onlyRegs_fmTake s.chip n o⟩
    · rw [exec_fmState hr, onChip, onChip, fmUpdate_eq, pilotSettled, habove, hbelow, hgone, hweak, fmNext]
    · rw [rd_fmTake_qual, hmp]
      rfl
    · rw [laneState_fmTake]
    · rw [hblend, hmp]
      rfl
    · rw [hshowNb, hfm]
  case found =>
    obtain ⟨hon, hlocked, hkept, hframe⟩ := pilotFound_effect s.chip n
    rw [exec_stereo hr, onChip, stereo_found hl hp]
    refine ⟨_, rfl, rfl, ?_, ?_, ?_, ?_, onlyRegsLog_raise_lanes hframe _ _ _⟩
    · rw [fget_raise_status (n := n) _ _ _ _ rfl, hon]
    · rw [nextSeq_raise_same, nextSeq_onlyRegs hframe]
      rfl
    · rw [laneOf_raise, hlocked]
    · rw [laneOf_raise]
      exact hkept
  case lost =>
    obtain ⟨hoff, hseq, hframe⟩ := pilotLost_effect s.chip n
    rw [exec_stereo hr, onChip, stereo_weak hw hp, ht, if_neg Bool.false_ne_true]
    exact ⟨_, rfl, rfl, hoff, hseq, hframe⟩
  case held => rw [exec_stereo hr, onChip, onChip, stereo_weak hw hp, if_pos ht]
  case shown => rw [exec_stereo hr, onChip, onChip, stereo_as_shown hl hp]
  case am =>
    intro st d fade cnr reach foff locked above below fadeMs acqMs new ends r
    have habove : lasting (decide (40 ≤ cnr)) d.above o.ms = above := lasting_decide _ _ _
    have hbelow : lasting (decide (cnr < 24) && !fade) d.below o.ms = below := lasting_iff (by simp) _ _
    have hacq : lasting (st == 1) d.acqMs o.ms = acqMs := lasting_iff (by simp) _ _
    have hnew : amNew s.chip n o = new := by
      rw [amNew, amNext, habove, hbelow, hacq]
      rfl
    have hends : amEnds s.chip n o = ends := by rw [amEnds, hnew]
    have hrun : amRun (amFigured s.chip n o) n o.run = r := rfl
    obtain ⟨hsync, hfade, hnb⟩ := amTaken_shows s.chip n o
    obtain ⟨hdc, ham, hpcm, hsmute, habove', hbelow', hacq'⟩ := laneOf_amTaken s.chip n o
    rw [hrun, hends] at ham
    refine ⟨amTaken s.chip n o, ?_, rd_amTaken_qual s.chip n o, laneState_amTaken s.chip n o, hsync, ?_, ?_, hsmute, ?_, ?_, ham,
      ?_, habove'.trans habove, hbelow'.trans hbelow, hacq'.trans hacq, onlyRegs_amTaken s.chip n o⟩
    · rw [exec_amState hr, onChip, onChip, amUpdate_eq, hnew]
    · rw [hfade, hends]
    · rw [fget_amTaken_apart _ _ (by simp [F.AM_foff]) (by simp [F.AM_foff]), fget_amFigured_foff]
      rfl
    · rw [hnb, ham]
      cases ends <;> rfl
    · rw [hdc, hrun]
    · rw [hpcm, hrun]
  case fade =>
    obtain ⟨hon, havg, hgain, hframe⟩ := carrierFade_effect s.chip n p a
    rw [exec_carrierFade hr]
    exact ⟨_, rfl, rfl, hon, havg, hgain, hframe⟩
  case side =>
    rw [exec_amSide hr ho (sideDue_of hd)]
    rfl
  case idle =>
    obtain ⟨hfm, hstereo⟩ := exec_fm_idle (o := o) (b := b) hf
    obtain ⟨ham, hfade, hside⟩ := exec_am_idle (o := q) (p := p) (a := a) (side := side) ha
    exact ⟨hfm, hstereo, ham, hfade, hside⟩

end Sys2Proof.Machine
end

section
/-! The soft values of a CIF (R150): how many a symbol gives, how they are packed, and where those of an erased symbol lie. -/
namespace Sys2Proof.Machine

/-! Blocks of one length. -/

/-- A place in a run of blocks of one length lies in the block that its quotient by the length names. -/
theorem nth_flatten {α : Type} (d : α) {c : Nat} (hc : 0 < c) : ∀ (l : List (List α)) (k : Nat), (∀ b ∈ l, b.length = c) →
    nth d l.flatten k = nth d (nth [] l (k / c)) (k % c)
  | [], k, _ => by simp [nth]
  | b :: l, k, h => by
    have hb : b.length = c := h b (List.mem_cons_self ..)
    rcases Nat.lt_or_ge k c with hk | hk
    · have hin : (b ++ l.flatten)[k]? = b[k]? := List.getElem?_append_left (hb.symm ▸ hk)
      simp only [nth, List.flatten_cons, hin, Nat.div_eq_of_lt hk, Nat.mod_eq_of_lt hk, List.getElem?_cons_zero,
        Option.getD_some]
    · obtain ⟨j, rfl⟩ := Nat.exists_eq_add_of_le hk
      have hpast : (b ++ l.flatten)[c + j]? = l.flatten[j]? := by
        rw [← hb, List.getElem?_append_right (Nat.le_add_right ..), Nat.add_sub_cancel_left]
      have ih := nth_flatten d hc l j fun e he => h e (List.mem_cons_of_mem _ he)
      simp only [nth] at ih
      simp only [nth, List.flatten_cons, hpast, ih, Nat.add_div_left j hc, Nat.add_mod_left, List.getElem?_cons_succ]

/-! A symbol's soft values. -/

theorem length_packSoft : ∀ (m : Nat) (l : List Nat), l.length = 2 * m → (packSoft l).length = m
  | 0, l, h => by rw [List.length_eq_zero_iff.1 h]; rfl
  | m + 1, [], h => absurd h (by simp)
  | m + 1, [_], h => absurd h (by simp; omega)
  | m + 1, a :: b :: r, h => by
    rw [packSoft, List.length_cons, length_packSoft m r (by simp at h; omega)]

theorem packSoft_erased : ∀ m : Nat, packSoft (List.replicate (2 * m) 0) = List.replicate m 0
  | 0 => rfl
  | m + 1 => congrArg (0 :: ·) (packSoft_erased m)

/-- The order of a symbol's QPSK symbols names 1536 carriers. -/
theorem length_carrierOrder : carrierOrder.length = 1536 := by decide +kernel

theorem length_symbolSoft (erased : Bool) (est : Int × Int) (before s : List (Int × Int)) :
    (symbolSoft erased est before s).length = 3072 := by
  cases erased with
  | true => exact List.length_replicate
  | false => simp only [symbolSoft, dqpsk, Bool.false_eq_true, if_false, List.length_append, List.length_map, length_carrierOrder]

/-! A CIF's soft values. -/

theorem length_cifSoft (er : List Nat) (est : Int × Int) (l : List (List (Int × Int))) : (cifSoft er est l).length = 27648 := by
  simp only [cifSoft, List.length_flatMap, length_packSoft 1536 _ (length_symbolSoft ..), List.map_const', List.length_range,
    List.sum_replicate, smul_eq_mul]

/-- The soft values of an erased symbol are 0. -/
theorem cifSoft_erased {er : List Nat} {k : Nat} (est : Int × Int) (l : List (List (Int × Int))) (hk : k < 27648)
    (he : k / 1536 ∈ er) : nth 0 (cifSoft er est l) k = 0 := by
  have hb : ∀ b ∈ (List.range 18).map fun i =>
      packSoft (symbolSoft (er.contains i) est (nth [] l i) (nth [] l (i + 1))), b.length = 1536 := by
    simp only [List.mem_map, forall_exists_index, and_imp, forall_apply_eq_imp_iff₂]
    exact fun i _ => length_packSoft 1536 _ (length_symbolSoft ..)
  have hs : symbolSoft (er.contains (k / 1536)) est (nth [] l (k / 1536)) (nth [] l (k / 1536 + 1)) =
      List.replicate (2 * 1536) 0 := if_pos (List.contains_iff_mem.2 he)
  have hn : nth [] ((List.range 18).map fun i =>
      packSoft (symbolSoft (er.contains i) est (nth [] l i) (nth [] l (i + 1)))) (k / 1536) = List.replicate 1536 0 := by
    rw [nth, List.getElem?_map, List.getElem?_range (Nat.div_lt_of_lt_mul hk), Option.map_some, Option.getD_some, hs,
      packSoft_erased]
  rw [cifSoft, List.flatMap_def, nth_flatten 0 (by decide) _ _ hb, hn, nth,
    List.getElem?_replicate_of_lt (Nat.mod_lt k (by decide)), Option.getD_some]

end Sys2Proof.Machine
end

section
/-! DAB leads (R150, R151, R153 to R155, R205): running lanes, lanes' memories side by side, FIBs, CIFs, a new configuration,
TII, and the statement about them. -/
namespace Sys2Proof.Machine

variable {x : Chip} {n : Nat} {s : State}

/-! Running lanes and lanes' memories. -/

theorem runs_iff {std : Nat} : runs x n std = true ↔ n < 104 ∧ stdOf x n = std ∧ (laneOf x n).live = true := by
  rw [runs, Bool.and_eq_true, Bool.and_eq_true, decide_eq_true_eq, beq_iff_eq]
  rfl

/-- A lane runs in one mode alone. -/
theorem runs_other {a b : Nat} (h : runs x n a = true) (hab : a ≠ b) : runs x n b = false := by
  obtain ⟨-, hstd, -⟩ := runs_iff.1 h
  refine Bool.eq_false_iff.2 fun hb => ?_
  obtain ⟨-, hother, -⟩ := runs_iff.1 hb
  exact hab (hstd.symm.trans hother)

theorem laneOf_setLane (x : Chip) (k : Nat) (l : LaneRt) (j : Nat) : laneOf (setLane x k l) j = if j = k then l else laneOf x j :=
  smGet_smPut _ _ _ _ _

@[simp] theorem laneOf_setLead_same (x : Chip) (n : Nat) (l : LeadRt) : laneOf (setLead x n l) n = { laneOf x n with lead := l } :=
  laneOf_setLane_same _ _ _

theorem lanesOnly_trans {y z : Chip} (hy : y = { x with lanes := y.lanes }) (hz : z = { y with lanes := z.lanes }) :
    z = { x with lanes := z.lanes } := hz.trans (by rw [hy])

/-- Of a change of lanes' memory alone no register is one. -/
theorem onlyRegs_of_lanes {y : Chip} (h : y = { x with lanes := y.lanes }) : OnlyRegs [] { x with lanes := y.lanes } y :=
  ⟨by rw [h], fun b _ => by rw [h]⟩

/-! CIFs (R150, R151, R153). -/

/-- What reading the ring changes of a lane: the logical CIFs that it has read. -/
theorem svcRead_eq_or (lead : Nat) (x : Chip) (n : Nat) :
    svcRead lead x n = x ∨ ∃ l, svcRead lead x n = setLane x n { laneOf x n with logical := l } := by
  unfold svcRead
  dsimp only
  split
  next =>
    split
    · exact .inl rfl
    · exact .inr ⟨_, rfl⟩
  next => exact .inl rfl

/-- Reading the ring leaves every lane's tables, coach slot and demodulator, and all but the lanes. -/
theorem svcRead_keeps (lead : Nat) (x : Chip) (k n : Nat) :
    svcRead lead x k = { x with lanes := (svcRead lead x k).lanes } ∧
      (laneOf (svcRead lead x k) n).lead = (laneOf x n).lead ∧ (laneOf (svcRead lead x k) n).dsp = (laneOf x n).dsp := by
  rcases svcRead_eq_or lead x k with h | ⟨l, h⟩
  · rw [h]
    exact ⟨rfl, rfl, rfl⟩
  · rw [h, laneOf_setLane]
    refine ⟨rfl, ?_⟩
    split
    next hk => exact ⟨by rw [hk], by rw [hk]⟩
    next => exact ⟨rfl, rfl⟩

theorem svcReads_keep (lead : Nat) (x : Chip) (l : List Nat) (n : Nat) :
    let y := l.foldl (svcRead lead) x
    y = { x with lanes := y.lanes } ∧ (laneOf y n).lead = (laneOf x n).lead ∧ (laneOf y n).dsp = (laneOf x n).dsp := by
  refine List.foldlRecOn (motive := fun y => y = { x with lanes := y.lanes } ∧ (laneOf y n).lead = (laneOf x n).lead ∧
    (laneOf y n).dsp = (laneOf x n).dsp) l (svcRead lead) ⟨rfl, rfl, rfl⟩ fun y ⟨hrest, hlead, hdsp⟩ k _ => ?_
  obtain ⟨hrest', hlead', hdsp'⟩ := svcRead_keeps lead y k n
  exact ⟨lanesOnly_trans hrest hrest', hlead'.trans hlead, hdsp'.trans hdsp⟩

/-- A service that does not wait and has not read it yet reads the logical CIF that the ring completes. -/
theorem svcRead_new {lead : Nat} {slots : List CifSlot} {b : DabSub}
    (hs : logicalSlots (laneOf x lead).lead.ring
      (cifAfter (((laneOf x lead).lead.ring.head?.map CifSlot.cif).getD 0) 4985) = some slots)
    (hb : subOf (laneOf x lead).lead.config (fget x (F.SVC_subch_now n)) = some b) (hw : laneState x n ≠ 4)
    (hn : ∀ e ∈ (laneOf x n).logical, e.cif ≠ cifAfter (((laneOf x lead).lead.ring.head?.map CifSlot.cif).getD 0) 4985) :
    svcRead lead x n = setLane x n { laneOf x n with
      logical := (⟨cifAfter (((laneOf x lead).lead.ring.head?.map CifSlot.cif).getD 0) 4985,
        ((slots.head?).map CifSlot.at_).getD 0, logicalBits slots b⟩ :: (laneOf x n).logical).take 5 } := by
  unfold svcRead
  simp only [hs, hb]
  exact if_neg (by simpa [hw] using hn)

/-- The input for a CIF: chosen at the first of a frame. -/
def cifInput (x : Chip) (n : Nat) (o : CifObs) : Chip :=
  match o.sel with
  | some d => if o.place % 4 = 0 then divSelect x n (F.LEAD_in n) d else x
  | none => x

/-- A CIF's symbols through the DC block, with the estimate after them. -/
def cifWords (x : Chip) (n : Nat) (o : CifObs) : List (List (Int × Int)) × (Int × Int) :=
  dcSymbols x n o.first (4 + 18 * (o.place % 4)) (laneOf x n).dsp.dc (o.symbols.map fun s => s.map
    (coachIn x (if fget x (F.LEAD_in n) = 1 then partner (cfgOf x n).ain else (cfgOf x n).ain)))

/-- A CIF as it enters the ring. -/
def cifSlot (x : Chip) (n : Nat) (o : CifObs) : CifSlot :=
  let erased := cifErased x n (fget x (F.LEAD_in n)) o.first (o.place % 4)
  ⟨o.cif, cifInstant x n o.first (o.place % 4), erased, cifSoft erased (laneOf x n).lead.est (cifWords x n o).1⟩

/-- A CIF in the ring. -/
def cifTaken (x : Chip) (n : Nat) (o : CifObs) : Chip :=
  setLead (setDsp x n { (laneOf x n).dsp with dc := (cifWords x n o).2 }) n
    { (laneOf x n).lead with ring := (cifSlot x n o :: (laneOf x n).lead.ring).take 18 }

theorem cifTaken_rest (x : Chip) (n : Nat) (o : CifObs) : cifTaken x n o = { x with lanes := (cifTaken x n o).lanes } := rfl

theorem cifPublish_eq (x : Chip) (n : Nat) (o : CifObs) : cifPublish x n o =
    (servicesOf (cifTaken (cifInput x n o) n o) n).foldl (svcRead n) (cifTaken (cifInput x n o) n o) := rfl

/-- What a CIF changes beside the input chosen. -/
theorem cifPublish_effect (x : Chip) (n : Nat) (o : CifObs) :
    let x1 := cifInput x n o
    let y := cifPublish x n o
    (laneOf y n).lead = { (laneOf x1 n).lead with ring := (cifSlot x1 n o :: (laneOf x1 n).lead.ring).take 18 } ∧
      (laneOf y n).dsp = { (laneOf x1 n).dsp with dc := (cifWords x1 n o).2 } ∧
      OnlyRegs [] { x1 with lanes := y.lanes } y := by
  dsimp only
  rw [cifPublish_eq]
  generalize cifInput x n o = x1
  obtain ⟨hrest, hlead, hdsp⟩ := svcReads_keep n (cifTaken x1 n o) (servicesOf (cifTaken x1 n o) n) n
  refine ⟨hlead.trans ?_, hdsp.trans ?_, onlyRegs_of_lanes (lanesOnly_trans (cifTaken_rest x1 n o) hrest)⟩
  · rw [cifTaken, laneOf_setLead_same]
  · rw [cifTaken, laneOf_setLead_same, laneOf_setDsp_same]

/-! FIB_RECEIVED, CIF_PUBLISH, RECONFIG and TII_REPORT. -/

theorem exec_fibReceived {o : FibObs} (h : runs s.chip n mLead = true) (hs : (laneOf s.chip n).lead.sync = true) :
    exec (.fibReceived n o) s = .next (onChip (fun x => fibTake x n o) s) := congrArg Host.Outcome.next (if_pos ⟨h, hs⟩)

theorem exec_cifPublish {o : CifObs} (h : runs s.chip n mLead = true) (hs : (laneOf s.chip n).lead.sync = true) :
    exec (.cifPublish n o) s = .next (onChip (fun x => cifPublish x n o) s) := congrArg Host.Outcome.next (if_pos ⟨h, hs⟩)

theorem exec_lead_out_of_sync {o : FibObs} {q : CifObs}
    (h : runs s.chip n mLead = false ∨ (laneOf s.chip n).lead.sync = false) :
    exec (.fibReceived n o) s = .next s ∧ exec (.cifPublish n q) s = .next s := by
  have hn : ¬(runs s.chip n mLead = true ∧ (laneOf s.chip n).lead.sync = true) := fun ⟨hr, hs⟩ =>
    h.elim (fun hf => ne_true_of_eq_false hf hr) fun hf => ne_true_of_eq_false hf hs
  exact ⟨congrArg Host.Outcome.next (if_neg hn), congrArg Host.Outcome.next (if_neg hn)⟩

theorem exec_reconfig {cif : Nat} (h : runs s.chip n mLead = true) (ha : (laneOf s.chip n).lead.announced = some cif) :
    exec (.reconfig n cif) s = .next (onChip (fun x => reconfig x n cif) s) := congrArg Host.Outcome.next (if_pos ⟨h, ha⟩)

theorem exec_reconfig_other {cif : Nat} (h : (laneOf s.chip n).lead.announced ≠ some cif) :
    exec (.reconfig n cif) s = .next s := congrArg Host.Outcome.next (if_neg fun hc => h hc.2)

theorem exec_tiiReport {ids : List (Nat × Nat × Int)} {stamp : Nat} (h : runs s.chip n mLead = true)
    (ht : (cfgOf s.chip n).opt / 2 % 2 = 1) :
    exec (.tiiReport n ids stamp) s = .next (onChip (fun x => publish x n 0x0203
      (b1 (ids.take 8).length ++ (ids.take 8).flatMap fun e => b1 e.1 ++ b1 e.2.1 ++ leInt 1 e.2.2) stamp) s) :=
  congrArg Host.Outcome.next (if_pos ⟨h, ht⟩)

theorem exec_no_lead {cif : Nat} {ids : List (Nat × Nat × Int)} {stamp : Nat} (h : runs s.chip n mLead = false) :
    exec (.reconfig n cif) s = .next s ∧ exec (.tiiReport n ids stamp) s = .next s :=
  ⟨congrArg Host.Outcome.next (if_neg fun hc => ne_true_of_eq_false h hc.1),
    congrArg Host.Outcome.next (if_neg fun hc => ne_true_of_eq_false h hc.1)⟩

/-- Settles O38: a FIB by what follows it, the CRC, the ENSEMBLE, a CIF and its soft values, what services read, then the other
commands. -/
theorem dabLeadCommands : Obligations.DabLeadCommands := by
  unfold Obligations.DabLeadCommands
  refine ⟨fun n o s hr hs => ?fib, fun l => rfl, fun x n _ _ => ⟨_, rfl, rfl⟩, fun n o s hr hs => ?cif,
    fun er est l => ⟨length_cifSoft er est l, fun k hk he => cifSoft_erased est l hk he⟩,
    fun x lead n slots b => ?reads, fun n cif s hr ha => ?reconfig,
    fun n cif s => exec_reconfig_other, fun n ids stamp s => exec_tiiReport, fun n o q s => exec_lead_out_of_sync,
    fun n cif ids stamp s => exec_no_lead⟩
  case fib =>
    intro l octets ok figs bad x1 x2 new y z x3 due
    have hfib : fibTake s.chip n o =
        if o.last = true ∧ (laneOf x3 n).lead.complete = false ∧ tablesFull (laneOf x3 n).lead = true then ensemble x3 n
        else if ok then showServices x3 n else x3 := rfl
    rw [exec_fibReceived hr hs, onChip, onChip, onChip, onChip, hfib]
    refine ⟨fun hd => ?_, fun hd hok => ?_, fun hd hok => ?_⟩
    · rw [if_pos hd]
    · rw [if_neg hd, if_pos hok]
    · have hx3 : x3 = x2 := if_neg (ne_true_of_eq_false hok)
      rw [if_neg hd, if_neg (ne_true_of_eq_false hok), hx3]
  case cif =>
    intro x1 sel ain r w erased
    obtain ⟨hlead, hdsp, hregs⟩ := cifPublish_effect s.chip n o
    exact ⟨_, exec_cifPublish hr hs, rfl, hlead, hdsp, hregs⟩
  case reads =>
    intro r l hs hb hw hn
    exact svcRead_new hs hb hw hn
  case reconfig => rw [exec_reconfig hr ha]; rfl

end Sys2Proof.Machine
end

section
/-! DAB services (R152, R153) and a lead's frames (R150, R163, R166): which registers lanes are read from, attachment, what a frame
shows, audio units (R156, R157). -/
namespace Sys2Proof.Machine

variable {x y : Chip} {n : Nat} {s : State}

/-! Registers of lanes. -/

theorem onlyRegs_mono {l l' : List Nat} (hl : l ⊆ l') (h : OnlyRegs l x y) : OnlyRegs l' x y :=
  ⟨h.1, fun b hb => h.2 b fun hm => hb (hl hm)⟩

theorem fget_onlyRegs {l : List Nat} {f : Fld} (h : OnlyRegs l x y) (hf : f.addr ∉ l) : fget y f = fget x f := by
  rw [fget, fget, h.2 _ hf]

theorem lanes_onlyRegs {l : List Nat} (h : OnlyRegs l x y) : y.lanes = x.lanes := by rw [h.1]

theorem laneStatus_ne_qual (n k : Nat) : R.LANE_STATUS n ≠ R.LANE_QUAL k := by
  simp only [R.LANE_STATUS, R.LANE_QUAL]
  omega

/-- An input's use is read from other registers than a lane's status and figures, but for the lead in force. -/
theorem inputOn_onlyRegs (h : OnlyRegs [R.LANE_STATUS n, R.LANE_QUAL n] x y)
    (hl : fget y (F.SVC_lead_now n) = fget x (F.SVC_lead_now n)) : inputOn y n = inputOn x n := by
  have hstd : stdOf y n = stdOf x n := fget_onlyRegs h (by simp [F.LANE_MODE_std, R.LANE_MODE, R.LANE_STATUS, R.LANE_QUAL])
  have hain : ∀ k, fget y (F.LANE_INPUT_ain k) = fget x (F.LANE_INPUT_ain k) := fun k => fget_onlyRegs h (by
    simp only [F.LANE_INPUT_ain, R.LANE_INPUT, R.LANE_STATUS, R.LANE_QUAL, List.mem_cons, List.not_mem_nil, or_false]
    omega)
  have hen : ∀ a, fget y (F.AIN_CFG_en a) = fget x (F.AIN_CFG_en a) := fun a => fget_onlyRegs h (by
    simp only [F.AIN_CFG_en, R.AIN_CFG, R.LANE_STATUS, R.LANE_QUAL, List.mem_cons, List.not_mem_nil, or_false]
    omega)
  simp only [inputOn, hstd, hl, hain, fon, hen]

theorem laneDelay_congr (hc : cfgOf y n = cfgOf x n) (hk : fget y (F.SVC_kind n) = fget x (F.SVC_kind n))
    (hi : fget y (F.DRM_ilong n) = fget x (F.DRM_ilong n)) : laneDelay y n = laneDelay x n := by
  rw [laneDelay, laneDelay, fon, fon, hc, hk, hi]

/-! Attachment (R152). -/

theorem exec_svcAttach (h : runs s.chip n mSvc = true) : exec (.svcAttach n) s = .next (onChip (fun x => svcEval x n) s) :=
  congrArg Host.Outcome.next (if_pos h)

theorem svcEval_served (hl : fget x (F.SVC_lead_now n) ≠ 0x7F) (hs : leadServes x n (fget x (F.SVC_lead_now n)) = true) :
    svcEval x n = if laneState x n = 4 ∧ (svcComp x n (configOf x (fget x (F.SVC_lead_now n)))).any (fun p => !p.ca) = true
      then svcSelect x n (fget x (F.SVC_lead_now n)) else x := if_pos ⟨hl, hs⟩

/-- A service that no lead serves, or not its own, is looked up among the leads. -/
theorem svcEval_unserved (h : ¬(fget x (F.SVC_lead_now n) ≠ 0x7F ∧ leadServes x n (fget x (F.SVC_lead_now n)) = true)) :
    svcEval x n =
      let x1 := if fget x (F.SVC_lead_now n) = 0x7F then x else svcDetach (fget x (F.SVC_lead_now n)) x n
      match leadFor x1 n with
      | some l => svcAttach x1 n l
      | none => x1 := if_neg h

theorem svcEval_without_lead (hl : fget x (F.SVC_lead_now n) = 0x7F) : svcEval x n =
    match leadFor x n with
    | some l => svcAttach x n l
    | none => x := by
  rw [svcEval_unserved fun h => h.1 hl, if_pos hl]

theorem svcEval_left (hl : fget x (F.SVC_lead_now n) ≠ 0x7F) (hs : leadServes x n (fget x (F.SVC_lead_now n)) = false) :
    svcEval x n =
      match leadFor (svcDetach (fget x (F.SVC_lead_now n)) x n) n with
      | some l => svcAttach (svcDetach (fget x (F.SVC_lead_now n)) x n) n l
      | none => svcDetach (fget x (F.SVC_lead_now n)) x n := by
  rw [svcEval_unserved fun h => ne_true_of_eq_false hs h.2, if_neg hl]

/-- A service without a pinned lead attaches to the lowest that serves it. -/
theorem leadFor_lowest {l : Nat} (hp : svcPin (cfgOf x n) = false) (h : leadFor x n = some l) :
    leadServes x n l = true ∧ ∀ k, k < l → leadServes x n k = false := by
  have hf : (List.range laneCount).find? (leadServes x n) = some l := (if_neg (ne_true_of_eq_false hp)).symm.trans h
  obtain ⟨hl, -, hk⟩ := List.find?_range_eq_some.1 hf
  exact ⟨hl, fun k hlt => by simpa using hk k hlt⟩

/-! A lead's frames (R150, R163, R166). -/

/-- A frame is good: its null symbol found, MER 4 dB or more. -/
def leadGood (o : DabObs) : Bool := o.null && decide (16 ≤ o.all)

/-- The bad frames in a row after one. -/
def leadBads (x : Chip) (n : Nat) (o : DabObs) : Nat := if leadGood o then 0 else (laneOf x n).bads + 1

/-- Frame sync and the estimate of timing and frequency after a frame. -/
def leadTracked (x : Chip) (n : Nat) (o : DabObs) : LeadRt :=
  { (laneOf x n).lead with
    sync := leadGood o || ((laneOf x n).lead.sync && decide (leadBads x n o < 4))
    est := if taintMeets x n (usedSpans x n (fget x (F.LEAD_in n))) o.first (nullSamples + symSamples)
      then (laneOf x n).lead.est else Config.refEstimate o.ref }

/-- A lead with a frame's figures. -/
def leadMeasured (x : Chip) (n : Nat) (o : DabObs) : Chip :=
  wr (setLane x n { laneOf x n with bads := leadBads x n o, lead := leadTracked x n o }) (R.LANE_QUAL n)
    (qualWord (min o.all 240) o.mer o.level (fget x (F.LANE_QUAL_aux n)))

/-- The same with its services' figures. -/
def leadShown (x : Chip) (n : Nat) (o : DabObs) : Chip :=
  (servicesOf (leadMeasured x n o) n).foldl svcQual (leadMeasured x n o)

theorem leadFrame_eq (x : Chip) (n : Nat) (o : DabObs) : leadFrame x n o =
    moveState (leadShown x n o) n (leadNext (laneState x n) (leadBads x n o) (leadGood o) (laneOf x n).lead.complete) := by
  have hst : laneState (leadMeasured x n o) n = laneState x n := fget_wr_ne _ _ _ _ (laneStatus_ne_qual n n)
  rw [← hst]
  rfl

/-- Services' figures are shown in their own registers alone. -/
theorem onlyRegs_svcQuals (x : Chip) (l : List Nat) : OnlyRegs (l.map R.LANE_QUAL) x (l.foldl svcQual x) :=
  List.foldlRecOn (motive := fun y => OnlyRegs (l.map R.LANE_QUAL) x y) l svcQual ⟨rfl, fun _ _ => rfl⟩
    fun y hy _ hk => onlyRegs_trans hy (onlyRegs_wr y _ (List.mem_map_of_mem hk))

theorem mem_servicesOf {lead k : Nat} (h : k ∈ servicesOf x lead) : k < 104 ∧ stdOf x k = mSvc := by
  obtain ⟨hk, hp⟩ := List.mem_filter.1 h
  exact ⟨List.mem_range.1 hk, eq_of_beq (Bool.and_elim_left hp)⟩

/-- A lead is no service of its own. -/
theorem laneQual_not_services (h : stdOf x n = mLead) : R.LANE_QUAL n ∉ (servicesOf x n).map R.LANE_QUAL := by
  intro hm
  obtain ⟨k, hk, hkn⟩ := List.mem_map.1 hm
  have hkn : k = n := by simpa [R.LANE_QUAL] using hkn
  obtain ⟨-, hstd⟩ := mem_servicesOf hk
  rw [hkn, h] at hstd
  exact absurd hstd (by decide)

theorem laneState_leadMeasured (x : Chip) (n : Nat) (o : DabObs) : laneState (leadMeasured x n o) n = laneState x n :=
  fget_wr_ne _ _ _ _ (laneStatus_ne_qual n n)

theorem stdOf_leadMeasured (x : Chip) (n : Nat) (o : DabObs) : stdOf (leadMeasured x n o) n = stdOf x n :=
  fget_wr_ne _ _ _ _ (by simp [F.LANE_MODE_std, R.LANE_MODE, R.LANE_QUAL])

theorem laneOf_leadMeasured (x : Chip) (n : Nat) (o : DabObs) :
    laneOf (leadMeasured x n o) n = { laneOf x n with bads := leadBads x n o, lead := leadTracked x n o } := by
  rw [leadMeasured, laneOf_wr, laneOf_setLane_same]

theorem rd_leadMeasured_qual (x : Chip) (n : Nat) (o : DabObs) : rd (leadMeasured x n o) (R.LANE_QUAL n) =
    qualWord (min o.all 240) o.mer o.level (fget x (F.LANE_QUAL_aux n)) := rd_wr_same _ _ _

theorem onlyRegs_leadMeasured (x : Chip) (n : Nat) (o : DabObs) :
    OnlyRegs [R.LANE_QUAL n] { x with lanes := (leadMeasured x n o).lanes } (leadMeasured x n o) :=
  onlyRegs_wr { x with lanes := (leadMeasured x n o).lanes } _ (List.mem_cons_self ..)

theorem onlyRegs_leadShown (x : Chip) (n : Nat) (o : DabObs) :
    OnlyRegs ((servicesOf (leadMeasured x n o) n).map R.LANE_QUAL) (leadMeasured x n o) (leadShown x n o) :=
  onlyRegs_svcQuals _ _

/-- What a frame of a lead shows and keeps, and that it shows it in lanes' figures alone. -/
theorem leadShown_effect (x : Chip) (n : Nat) (o : DabObs) (hn : n < 104) (hstd : stdOf x n = mLead) :
    let y := leadShown x n o
    rd y (R.LANE_QUAL n) = qualWord (min o.all 240) o.mer o.level (fget x (F.LANE_QUAL_aux n)) ∧
      laneState y n = laneState x n ∧
      laneOf y n = { laneOf x n with bads := leadBads x n o, lead := leadTracked x n o } ∧
      OnlyRegs ((List.range 104).map R.LANE_QUAL) { x with lanes := y.lanes } y := by
  have hregs := onlyRegs_leadShown x n o
  have hown : R.LANE_QUAL n ∉ (servicesOf (leadMeasured x n o) n).map R.LANE_QUAL :=
    laneQual_not_services ((stdOf_leadMeasured x n o).trans hstd)
  have hstatus : R.LANE_STATUS n ∉ (servicesOf (leadMeasured x n o) n).map R.LANE_QUAL := fun hm =>
    have ⟨k, _, hk⟩ := List.mem_map.1 hm
    laneStatus_ne_qual n k hk.symm
  have hqual : ∀ k, k < 104 → R.LANE_QUAL k ∈ (List.range 104).map R.LANE_QUAL := fun k hk =>
    List.mem_map_of_mem (List.mem_range.2 hk)
  have hlane : [R.LANE_QUAL n] ⊆ (List.range 104).map R.LANE_QUAL := List.cons_subset.2 ⟨hqual n hn, List.nil_subset _⟩
  have hsvc : (servicesOf (leadMeasured x n o) n).map R.LANE_QUAL ⊆ (List.range 104).map R.LANE_QUAL :=
    List.map_subset _ fun k hk => List.mem_range.2 (mem_servicesOf hk).1
  refine ⟨?_, ?_, ?_, ?_⟩
  · rw [hregs.2 _ hown, rd_leadMeasured_qual]
  · exact (fget_onlyRegs hregs hstatus).trans (laneState_leadMeasured x n o)
  · rw [laneOf_congr (lanes_onlyRegs hregs), laneOf_leadMeasured]
  · exact onlyRegs_lanes (onlyRegs_trans (onlyRegs_mono hlane (onlyRegs_leadMeasured x n o)) (onlyRegs_mono hsvc hregs))

theorem exec_dabState_lead {o : DabObs} (h : runs s.chip n mLead = true) :
    exec (.dabState n o) s = .next (onChip (fun x => leadFrame x n o) s) := congrArg Host.Outcome.next (if_pos h)

theorem exec_dabState_service {o : DabObs} (hl : runs s.chip n mLead = false) (h : runs s.chip n mSvc = true) :
    exec (.dabState n o) s = .next (onChip (fun x => svcPlays x n) s) :=
  congrArg Host.Outcome.next ((if_neg (ne_true_of_eq_false hl)).trans (if_pos h))

/-! Audio units (R156, R157, R166). -/

section
variable (now : Int) (lets : Bool) (window delay : Nat) (t : Int) (l : LaneRt) (u : AudioUnit)

/-- A good unit ends the concealment. -/
theorem unitTake_good (h : u.good = true) : let m := unitTake now lets window delay t l u
    m.concealUs = 0 ∧ m.muted = false ∧ m.run = 0 ∧ m.heard = true := by
  simp only [unitTake, h, if_true, and_self]

/-- A bad unit adds to the concealment, which mutes from 100 ms on. -/
theorem unitTake_bad (h : u.good = false) : let m := unitTake now lets window delay t l u
    m.concealUs = l.concealUs + u.samples * 125 / 6 ∧
      m.muted = (l.muted || decide (100000 ≤ l.concealUs + u.samples * 125 / 6)) ∧ m.run = l.run + 1 ∧ m.heard = l.heard := by
  have hmuted : ∀ a b : Bool, (a || (b && !a)) = (a || b) := by decide
  rw [unitTake, if_neg (ne_true_of_eq_false h)]
  exact ⟨rfl, hmuted _ _, rfl, rfl⟩

theorem pcm_unitTake : (unitTake now lets window delay t l u).pcm = (stampSamples t delay (if u.good then 0 else 8)
    (if u.good then unitSamples u l.unit else concealed l u.samples)).foldl (pcmPush now) l.pcm := by
  cases h : u.good <;> simp only [unitTake, h, if_true, Bool.false_eq_true, if_false]

end

/-! Audio frames of services (R153, R156 to R158, R163). -/

end Sys2Proof.Machine
end

section
/-! Audio frames of services (R153, R156 to R158, R163): what the status and the memory of a lane hold after one. -/
namespace Sys2Proof.Machine

variable {x y : Chip} {n : Nat}

/-- What the status shows of a frame decoded. -/
def svcKinds (n : Nat) (f : SvcFrame) : List (Fld × Nat) :=
  [(F.SVC_kind n, f.kind), (F.SVC_sbr n, f.sbr.toNat), (F.SVC_ps n, f.ps.toNat)]

theorem svcKinds_apart (n : Nat) (f : SvcFrame) : (svcKinds n f).Pairwise fun e g => e.1.Apart g.1 := by
  simp [svcKinds, Fld.Apart, F.SVC_kind, F.SVC_sbr, F.SVC_ps]

theorem svcKinds_addr (n : Nat) (f : SvcFrame) : ∀ e ∈ svcKinds n f, e.1.addr = R.LANE_STATUS n := by
  simp [svcKinds, F.SVC_kind, F.SVC_sbr, F.SVC_ps]

theorem svcKinds_range (n : Nat) (f : SvcFrame) :
    ∀ e ∈ svcKinds n f, e.1.lo + e.1.width ≤ 32 ∧ e.1.Apart (F.SVC_conceal n) := by
  simp [svcKinds, Fld.Apart, F.SVC_kind, F.SVC_sbr, F.SVC_ps, F.SVC_conceal]

/-- A service about to take the units of a frame: what it shows of them, and the logical CIFs used. -/
def svcDecoded (x : Chip) (n : Nat) (f : SvcFrame) : Chip :=
  setLane (fsets x (svcKinds n f)) n { laneOf (fsets x (svcKinds n f)) n with eaten := some f.eaten, super := f.super }

/-- A service with the units of a frame, before its compressed unit is delivered. -/
def svcShown (x : Chip) (n : Nat) (f : SvcFrame) : Chip :=
  svcQual (fset (unitsInto (svcDecoded x n f) n 1920000 f.at_ f.units) (F.SVC_conceal n) (lastBad f.units).toNat) n

/-- A service once a frame is delivered: its DLS, then LOST where it has been bad for 480 ms, ACQ where a good one has come. -/
theorem svcAudio_eq (x : Chip) (n : Nat) (f : SvcFrame) (dls : List DlsIn) : svcAudio x n f dls =
    let stamp := (toTicks f.at_ % 2 ^ 64).toNat
    let z := deliverUnit (svcShown x n f) n f.out stamp
    let w := if padOff (cfgOf x n) then z else dls.foldl (dlsTake n stamp) z
    if laneState w n = 2 ∧ 480000 ≤ (laneOf w n).concealUs then moveState (setLane w n { laneOf w n with heard := false }) n 3
    else if laneState w n = 3 ∧ f.units.any AudioUnit.good = true then moveState w n 1 else w := rfl

theorem onlyRegs_lanes_trans {l : List Nat} {z : Chip} (hy : OnlyRegs l { x with lanes := y.lanes } y)
    (hz : OnlyRegs l { y with lanes := z.lanes } z) : OnlyRegs l { x with lanes := z.lanes } z :=
  onlyRegs_trans (onlyRegs_with_lanes hy z.lanes) hz

theorem onlyRegs_svcQual (x : Chip) (n : Nat) : OnlyRegs [R.LANE_STATUS n, R.LANE_QUAL n] x (svcQual x n) :=
  onlyRegs_wr x _ (by simp)

theorem onlyRegs_svcDecoded (x : Chip) (n : Nat) (f : SvcFrame) : OnlyRegs [R.LANE_STATUS n, R.LANE_QUAL n]
    { x with lanes := (svcDecoded x n f).lanes } (svcDecoded x n f) :=
  onlyRegs_with_lanes (onlyRegs_fsets x fun e he => by simp [svcKinds_addr n f e he]) _

theorem onlyRegs_svcShown (x : Chip) (n : Nat) (f : SvcFrame) :
    OnlyRegs [R.LANE_STATUS n, R.LANE_QUAL n] { x with lanes := (svcShown x n f).lanes } (svcShown x n f) := by
  have hset := onlyRegs_fset (l := [R.LANE_STATUS n, R.LANE_QUAL n]) (f := F.SVC_conceal n)
    (unitsInto (svcDecoded x n f) n 1920000 f.at_ f.units) (lastBad f.units).toNat (List.mem_cons_self ..)
  exact onlyRegs_lanes_trans (onlyRegs_svcDecoded x n f) (onlyRegs_lanes
    (m := (unitsInto (svcDecoded x n f) n 1920000 f.at_ f.units).lanes) (onlyRegs_trans hset (onlyRegs_svcQual _ n)))

@[simp] theorem fget_setLane (x : Chip) (n : Nat) (l : LaneRt) (g : Fld) : fget (setLane x n l) g = fget x g := rfl

/-- A field of the status that a frame does not set before it takes its units. -/
theorem fget_svcDecoded_apart (x : Chip) (f : SvcFrame) {g : Fld} (h32 : g.lo + g.width ≤ 32)
    (h : ∀ e ∈ svcKinds n f, g.Apart e.1) : fget (svcDecoded x n f) g = fget x g := by
  rw [svcDecoded, fget_setLane, fget_fsets_apart h32 _ x h]

theorem fget_svcQual (x : Chip) {g : Fld} (hg : g.addr = R.LANE_STATUS n) : fget (svcQual x n) g = fget x g := by
  rw [svcQual, fget_wr_ne _ _ _ _ (hg ▸ laneStatus_ne_qual n n)]

theorem fget_svcShown_conceal (x : Chip) (n : Nat) (f : SvcFrame) :
    fget (svcShown x n f) (F.SVC_conceal n) = (lastBad f.units).toNat := by
  rw [svcShown, fget_svcQual _ rfl, fget_fset_same _ _ _ (by simp [F.SVC_conceal])]
  cases lastBad f.units <;> rfl

/-- The other fields of the status are as they were before the units. -/
theorem fget_svcShown_apart (x : Chip) (f : SvcFrame) {g : Fld} (hg : g.addr = R.LANE_STATUS n) (h32 : g.lo + g.width ≤ 32)
    (ha : g.Apart (F.SVC_conceal n)) : fget (svcShown x n f) g = fget (svcDecoded x n f) g := by
  rw [svcShown, fget_svcQual _ hg, fget_fset_apart _ _ _ _ h32 ha, unitsInto, fget_setLane]

/-- What the status shows of a frame. -/
theorem fget_svcShown_mem (x : Chip) (f : SvcFrame) {g : Fld} {v : Nat} (h : (g, v) ∈ svcKinds n f) :
    fget (svcShown x n f) g = v % 2 ^ g.width := by
  obtain ⟨h32, ha⟩ := svcKinds_range n f _ h
  rw [fget_svcShown_apart x f (svcKinds_addr n f _ h) h32 ha, svcDecoded, fget_setLane,
    fget_fsets_mem h32 (svcKinds_apart n f) x h]

theorem svcShown_shows (x : Chip) (n : Nat) (f : SvcFrame) : let y := svcShown x n f
    fget y (F.SVC_kind n) = f.kind % 16 ∧ fon y (F.SVC_sbr n) = f.sbr ∧ fon y (F.SVC_ps n) = f.ps :=
  ⟨fget_svcShown_mem x f (by simp [svcKinds]), fon_of_fget rfl (fget_svcShown_mem x f (by simp [svcKinds])),
    fon_of_fget rfl (fget_svcShown_mem x f (by simp [svcKinds]))⟩

/-- Concealment is a bit that the delay of a lane is not read from. -/
theorem laneDelay_svcShown (x : Chip) (n : Nat) (f : SvcFrame) : laneDelay (svcShown x n f) n = laneDelay (svcDecoded x n f) n := by
  have hcfg : ∀ y : Chip, OnlyRegs [R.LANE_STATUS n, R.LANE_QUAL n] { x with lanes := y.lanes } y →
      cfgOf y n = cfgOf { x with lanes := y.lanes } n := fun y hy => cfgOf_onlyRegs (onlyRegs_mono (by simp) hy)
  refine laneDelay_congr ?_ (fget_svcShown_apart x f rfl ?_ ?_) (fget_svcShown_apart x f rfl ?_ ?_)
  · rw [hcfg _ (onlyRegs_svcShown x n f), hcfg _ (onlyRegs_svcDecoded x n f)]
    rfl
  all_goals simp [Fld.Apart, F.SVC_kind, F.DRM_ilong, F.SVC_conceal]

theorem letsAudio_svcDecoded (x : Chip) (n : Nat) (f : SvcFrame) :
    letsAudio (svcDecoded x n f) n = (laneState x n == 2 && inputOn x n) := by
  have hstate : laneState (svcDecoded x n f) n = laneState x n := fget_svcDecoded_apart x f (by simp [F.LANE_STATE])
    (by simp [svcKinds, Fld.Apart, F.LANE_STATE, F.SVC_kind, F.SVC_sbr, F.SVC_ps])
  have hlead : fget (svcDecoded x n f) (F.SVC_lead_now n) = fget x (F.SVC_lead_now n) := fget_svcDecoded_apart x f
    (by simp [F.SVC_lead_now]) (by simp [svcKinds, Fld.Apart, F.SVC_lead_now, F.SVC_kind, F.SVC_sbr, F.SVC_ps])
  have hinput : inputOn (svcDecoded x n f) n = inputOn { x with lanes := (svcDecoded x n f).lanes } n :=
    inputOn_onlyRegs (onlyRegs_svcDecoded x n f) hlead
  rw [letsAudio, hstate, hinput]
  rfl

theorem nowAt_svcDecoded (x : Chip) (n : Nat) (f : SvcFrame) : nowAt (svcDecoded x n f) = nowAt x := by
  rw [svcDecoded, fsets_rest]
  rfl

/-- The memory of a service after a frame. -/
theorem laneOf_svcShown (x : Chip) (n : Nat) (f : SvcFrame) : laneOf (svcShown x n f) n =
    unitsTake (nowAt x) (laneState x n == 2 && inputOn x n) 1920000 (laneDelay (svcShown x n f) n) f.at_
      { laneOf x n with eaten := some f.eaten, super := f.super } f.units := by
  have hlane : laneOf (svcDecoded x n f) n = { laneOf x n with eaten := some f.eaten, super := f.super } := by
    rw [svcDecoded, laneOf_setLane_same, laneOf_fsets]
  have hunits : laneOf (svcShown x n f) n = unitsTake (nowAt (svcDecoded x n f)) (letsAudio (svcDecoded x n f) n) 1920000
      (laneDelay (svcDecoded x n f) n) f.at_ (laneOf (svcDecoded x n f) n) f.units := by
    rw [svcShown, svcQual, laneOf_wr, laneOf_fset, unitsInto, laneOf_setLane_same]
  rw [hunits, nowAt_svcDecoded, letsAudio_svcDecoded, laneDelay_svcShown, hlane]

end Sys2Proof.Machine
end

section
/-! AUDIO_FRAME of services and DRM lanes (R153, R157, R162), and the statement about services and states. -/
namespace Sys2Proof.Machine

variable {n : Nat} {s : State}

theorem exec_audioFrame_service {o : AudioObs} {f : SvcFrame} (h : runs s.chip n mSvc = true)
    (hl : fget s.chip (F.SVC_lead_now n) ≠ 0x7F) (hs : laneState s.chip n ≠ 4) (hf : svcFrame s.chip n = some f) :
    exec (.audioFrame n o) s = .next (onChip (fun x => svcAudio x n f o.dls) s) := by
  refine congrArg Host.Outcome.next ((if_pos h).trans ((if_neg (not_or.2 ⟨hl, hs⟩)).trans ?_))
  rw [hf]

/-- A service that holds no frame decodes nothing. -/
theorem exec_audioFrame_no_frame {o : AudioObs} (h : runs s.chip n mSvc = true) (hf : svcFrame s.chip n = none) :
    exec (.audioFrame n o) s = .next s := by
  refine congrArg Host.Outcome.next ((if_pos h).trans ?_)
  rw [hf]
  exact ite_self s

theorem exec_audioFrame_waits {o : AudioObs} (h : runs s.chip n mSvc = true)
    (hw : fget s.chip (F.SVC_lead_now n) = 0x7F ∨ laneState s.chip n = 4) : exec (.audioFrame n o) s = .next s :=
  congrArg Host.Outcome.next ((if_pos h).trans (if_pos hw))

/-! Audio superframes of DRM lanes (R157, R162). -/

theorem exec_audioFrame_drm {o : AudioObs} (h : runs s.chip n mDrm = true) :
    exec (.audioFrame n o) s = .next (onChip (fun x => drmAudio x n o) s) :=
  congrArg Host.Outcome.next ((if_neg (ne_true_of_eq_false (runs_other h (by decide)))).trans (if_pos h))

/-- A DRM lane with the input chosen for a superframe. -/
def drmInput (x : Chip) (n : Nat) (o : AudioObs) : Chip :=
  match o.sel with
  | some d => divSelect x n (F.DRM_in n) d
  | none => x

/-- A DRM lane's superframe as a unit. -/
def drmUnit (x : Chip) (n : Nat) (o : AudioObs) : AudioUnit :=
  let octets := Config.drmSuper (drmShape x n) (drmCells x n (fget x (F.DRM_in n)) (fget x (F.DRM_rmode n)) o.cells)
  ⟨octets, 10 + fget x (F.DRM_codec n), false, if drmE (cfgOf x n) then 9600 else 19200, Config.drmOk octets⟩

/-- Its instant. -/
def drmInstant (x : Chip) (n : Nat) (o : AudioObs) : Int := refOf (cfgOf x n) (gridAt x n o.first)

/-- A DRM lane, input chosen, with its compressed unit delivered, which an unsupported signal's is only with `raw`. -/
def drmDelivered (x x1 : Chip) (n : Nat) (o : AudioObs) : Chip :=
  if (drmUnsupp x1 n).isSome = true ∧ (cfgOf x n).opt / 16 % 2 = 0 then x1
  else deliverUnit x1 n ⟨2 * (!(drmUnit x1 n o).good).toNat, (drmUnit x1 n o).octets⟩
    (toTicks (drmInstant x1 n o) % 2 ^ 64).toNat

theorem drmAudio_eq (x : Chip) (n : Nat) (o : AudioObs) : drmAudio x n o =
    let x1 := drmInput x n o
    let y := drmDelivered x x1 n o
    if laneState y n = 4 then y
    else fset (unitsInto y n 4000000 (drmInstant x1 n o) [drmUnit x1 n o]) (F.DRM_conceal n) (!(drmUnit x1 n o).good).toNat := rfl

/-! SVC_ATTACH, DAB_STATE and AUDIO_FRAME of other lanes. -/

theorem exec_svcAttach_idle (h : runs s.chip n mSvc = false) : exec (.svcAttach n) s = .next s :=
  congrArg Host.Outcome.next (if_neg (ne_true_of_eq_false h))

theorem exec_dabState_idle {o : DabObs} (h : runs s.chip n mSvc = false) (hl : runs s.chip n mLead = false) :
    exec (.dabState n o) s = .next s :=
  congrArg Host.Outcome.next ((if_neg (ne_true_of_eq_false hl)).trans (if_neg (ne_true_of_eq_false h)))

theorem exec_audioFrame_idle {o : AudioObs} (h : runs s.chip n mSvc = false) (hd : runs s.chip n mDrm = false) :
    exec (.audioFrame n o) s = .next s :=
  congrArg Host.Outcome.next ((if_neg (ne_true_of_eq_false h)).trans (if_neg (ne_true_of_eq_false hd)))

/-- Settles O39: attachment by whether the lead serves, then a lead's frame, a service's state and audio frame, a unit, a DRM
superframe, and other lanes. -/
theorem dabServiceAndStateCommands : Obligations.DabServiceAndStateCommands := by
  unfold Obligations.DabServiceAndStateCommands
  refine ⟨fun n s hr => ?attach, fun x n l => leadFor_lowest, fun n o s hr => ?lead,
    fun n o s => exec_dabState_service, fun n o f s hr hl hw hf => ?audio, fun n o s => exec_audioFrame_no_frame,
    fun now lets window delay t l u => ⟨unitTake_good now lets window delay t l u, unitTake_bad now lets window delay t l u,
      pcm_unitTake now lets window delay t l u⟩, fun n o s hr => ?drm, fun n o q s => ?idle⟩
  case attach =>
    rw [exec_svcAttach hr]
    refine ⟨fun hl hs => ?_, fun hl hn => ?_, fun l hl hf => ?_, fun hl hs => ?_⟩
    · rw [onChip, onChip, svcEval_served hl hs]
    · rw [onChip, svcEval_without_lead hl, hn]
    · rw [onChip, onChip, svcEval_without_lead hl, hf]
      rfl
    · exact congrArg (fun c => Host.Outcome.next { s with chip := c }) (svcEval_left hl hs)
  case lead =>
    obtain ⟨hn, hstd, -⟩ := runs_iff.1 hr
    obtain ⟨hqual, hstate, hlane, hregs⟩ := leadShown_effect s.chip n o hn hstd
    intro st r good bads
    refine ⟨leadShown s.chip n o, ?_, hqual, hstate, ?_, ?_, hregs⟩
    · rw [exec_dabState_lead hr, onChip, onChip, leadFrame_eq]
      rfl
    · rw [hlane]
      rfl
    · rw [hlane]
      rfl
  case audio =>
    obtain ⟨hkind, hsbr, hps⟩ := svcShown_shows s.chip n f
    refine ⟨svcShown s.chip n f, ?_, fget_svcShown_conceal s.chip n f, hkind, hsbr, hps, laneOf_svcShown s.chip n f,
      onlyRegs_svcShown s.chip n f⟩
    rw [exec_audioFrame_service hr hl hw hf, onChip, onChip, svcAudio_eq]
  case drm =>
    intro x1 octets at_ bad kept
    refine ⟨drmDelivered s.chip x1 n o, fun hk => if_pos hk, fun hk => if_neg hk, fun hw => ?_, fun hw => ?_⟩
    · rw [exec_audioFrame_drm hr, onChip, onChip, drmAudio_eq]
      exact congrArg (fun c => Host.Outcome.next { s with chip := c }) (if_pos hw)
    · rw [exec_audioFrame_drm hr, onChip, onChip, drmAudio_eq]
      exact congrArg (fun c => Host.Outcome.next { s with chip := c }) (if_neg hw)
  case idle =>
    exact ⟨exec_svcAttach_idle, exec_dabState_idle, exec_audioFrame_idle, exec_audioFrame_waits⟩

end Sys2Proof.Machine
end

section
/-! MOT (R159, R160): the pool, data groups, a directory's missing entries. -/
namespace Sys2Proof.Machine

variable {x : Chip} {n tid : Nat} {s : State}

/-- A lane takes data groups where it runs in a mode that has them, slideshows on, and PAD where they come in it. -/
theorem motTakes_iff : motTakes x n = true ↔ (runs x n mSvc = true ∨ runs x n mDrm = true) ∧ slsOff (cfgOf x n) = false ∧
    ¬(stdOf x n = mSvc ∧ padOff (cfgOf x n) = true ∧ fget x (F.SVC_kind n) ≠ 4) := by
  have hstd : (cfgOf x n).std = stdOf x n := by
    simp only [cfgOf, cfgFrom, stdOf, fget, F.LANE_MODE_std, R.LANE_MODE, laneBase, Nat.add_zero, Nat.mul_comm]
  simp only [motTakes, hstd, Bool.and_eq_true, Bool.or_eq_true, Bool.not_eq_true', ← Bool.not_eq_true, beq_iff_eq, bne_iff_ne]

/-! The pool (R159). -/

theorem motDirectory_nil (x : Chip) (n stamp : Nat) : motDirectory x n stamp [] = x := rfl

theorem motAt_none (h : ∀ e ∈ x.mot, ¬(e.lane = n ∧ e.tid = tid)) : motAt x n tid = none :=
  List.find?_eq_none.2 fun e he => by simpa using h e he

/-- An object that is not in the pool enters it last. -/
theorem motPut_new {o : MotObj} (h : motAt x o.lane o.tid = none) : motPut x o = { x with mot := x.mot ++ [o] } := by
  rw [motPut, h]
  rfl

theorem motAt_last {o : MotObj} (h : motAt x o.lane o.tid = none) :
    motAt { x with mot := x.mot ++ [o] } o.lane o.tid = some o := by
  have h1 : x.mot.find? (fun e => e.lane == o.lane && e.tid == o.tid) = none := h
  rw [motAt, List.find?_append, h1]
  simp

/-- A pool that is not full is left as it is. -/
theorem motRoom_fits (h : poolUsed x ≤ 2097152) : ∀ f, motRoom x f = x
  | 0 => rfl
  | _ + 1 => if_pos h

/-- An object whose body is not whole is not published. -/
theorem motPublish_part {o : MotObj} {stamp : Nat} (h : motAt x n tid = some o) (hb : o.body.whole = none) :
    motPublish x n tid stamp = x := by
  rw [motPublish, h]
  dsimp only
  rw [hb]
  split
  next h' => cases h'
  next => rfl

/-- An object of one segment, which is not the last. -/
def motFirst (n : Nat) (o : MotObs) : MotObj :=
  ⟨n, o.tid, o.size, ⟨if o.head then [(o.num, o.octets)] else [], none⟩,
    ⟨if o.head then [] else [(o.num, o.octets)], none⟩, false⟩

theorem got_motFirst (n : Nat) (o : MotObs) : (motFirst n o).got = o.octets.length := by
  cases h : o.head <;> simp [motFirst, MotObj.got, MotPart.got, h]

/-- An object with a data group's segment. -/
def motJoined (old : MotObj) (g : MotObs) : MotObj :=
  { old with
    size := if g.size.isSome then g.size else old.size
    head := if g.head then old.head.join g.num g.last g.octets else old.head
    body := if g.head then old.body else old.body.join g.num g.last g.octets }

theorem motJoin_eq (x : Chip) (n : Nat) (g : MotObs) : motJoin x n g =
    let old := (motAt x n g.tid).getD ⟨n, g.tid, none, ⟨[], none⟩, ⟨[], none⟩, false⟩
    let y := motPut x (motJoined old g)
    if old.done then x
    else if 460800 < (motJoined old g).got ∨ 460800 < (motJoined old g).size.getD 0 then motDrop y n g.tid 0
    else motPublish (motRoom y y.mot.length) n g.tid g.stamp := rfl

theorem motJoined_first {o : MotObs} (h : o.last = false) :
    motJoined ⟨n, o.tid, none, ⟨[], none⟩, ⟨[], none⟩, false⟩ o = motFirst n o := by
  rw [motFirst, motJoined, h]
  cases o.head <;> cases o.size <;> rfl

/-- A first segment of an object that completes nothing and fits enters the pool and does nothing else. -/
theorem motJoin_first {o : MotObs} (h : motAt x n o.tid = none) (hl : o.last = false) (ho : o.octets.length ≤ 460800)
    (hs : o.size.getD 0 ≤ 460800) (hp : poolUsed x + o.octets.length ≤ 2097152) :
    motJoin x n o = { x with mot := x.mot ++ [motFirst n o] } := by
  have hput : motPut x (motFirst n o) = { x with mot := x.mot ++ [motFirst n o] } := motPut_new h
  have hbig : ¬(460800 < (motFirst n o).got ∨ 460800 < (motFirst n o).size.getD 0) := by
    rw [got_motFirst]
    exact not_or.2 ⟨not_lt.2 ho, not_lt.2 hs⟩
  have hused : poolUsed { x with mot := x.mot ++ [motFirst n o] } ≤ 2097152 := by
    simpa [poolUsed, got_motFirst] using hp
  rw [motJoin_eq, h]
  dsimp only [Option.getD_none]
  rw [motJoined_first hl, if_neg Bool.false_ne_true, if_neg hbig, hput, motRoom_fits hused]
  exact motPublish_part (motAt_last (o := motFirst n o) h) (by cases o.head <;> rfl)

/-! MOT_DATA_GROUP, MOT_IDLE_TIMEOUT and MOT_MISSING. -/

theorem exec_motDataGroup {o : MotObs} (h : motTakes s.chip n = true) : exec (.motDataGroup n o) s =
    .next (onChip (fun x => motJoin (motDirectory x n o.stamp o.dir) n o) s) := congrArg Host.Outcome.next (if_pos h)

theorem exec_motDataGroup_idle {o : MotObs} (h : motTakes s.chip n = false) : exec (.motDataGroup n o) s = .next s :=
  congrArg Host.Outcome.next (if_neg (ne_true_of_eq_false h))

theorem exec_motIdleTimeout (h : ∃ o ∈ s.chip.mot, o.lane = n ∧ o.tid = tid ∧ o.done = false) :
    exec (.motIdleTimeout n tid) s = .next (onChip (fun x => motDrop x n tid 2) s) :=
  congrArg Host.Outcome.next (if_pos (by simpa using h))

theorem exec_motIdleTimeout_none (h : ∀ o ∈ s.chip.mot, ¬(o.lane = n ∧ o.tid = tid ∧ o.done = false)) :
    exec (.motIdleTimeout n tid) s = .next s :=
  congrArg Host.Outcome.next (if_neg (by simpa using h))

theorem exec_motMissing {stamp : Nat} {e : MotEntry × Nat} (hn : n < 104)
    (h : ((laneOf s.chip n).motDir.find? fun d => d.1.tid == tid && d.2 == 0) = some e) :
    exec (.motMissing n tid stamp) s = .next (onChip (fun x => motMissing x n stamp e.1) s) := by
  refine congrArg Host.Outcome.next ?_
  rw [h]
  exact if_pos hn

theorem exec_motMissing_none {stamp : Nat} (h : ∀ d ∈ (laneOf s.chip n).motDir, ¬(d.1.tid = tid ∧ d.2 = 0)) :
    exec (.motMissing n tid stamp) s = .next s := by
  have hf : ((laneOf s.chip n).motDir.find? fun d => d.1.tid == tid && d.2 == 0) = none :=
    List.find?_eq_none.2 fun d hd => by simpa using h d hd
  refine congrArg Host.Outcome.next ?_
  rw [hf]

end Sys2Proof.Machine
end

section
/-! DRM lanes (R146, R161, R163, R166): a transmission frame, the parameters of a signal, and the statement about MOT and DRM. -/
namespace Sys2Proof.Machine

variable {x : Chip} {n : Nat} {s : State}

/-! A transmission frame (R161, R163). -/

/-- The failures of the FAC in a row after a frame. -/
def drmBads (x : Chip) (n : Nat) (o : DrmObs) : Nat := if o.fac then 0 else (laneOf x n).bads + 1

/-- The SDC valid after a frame: looked at in the first of a superframe. -/
def drmSdc (x : Chip) (n : Nat) (o : DrmObs) : Bool :=
  if 5 ≤ drmBads x n o then false
  else if o.index % (if drmE (cfgOf x n) then 4 else 3) == 0 then o.sdc else fon x (F.DRM_sdc n)

/-- Good audio heard and not forgotten at a frame. -/
def drmHeard (x : Chip) (n : Nat) (o : DrmObs) : Bool :=
  (laneOf x n).heard && (decide (drmBads x n o < 5) && laneState x n != 4)

theorem drmSdc_eq (x : Chip) (n : Nat) (o : DrmObs) : drmSdc x n o = if decide (5 ≤ drmBads x n o) then false
    else if o.index % (if drmE (cfgOf x n) then 4 else 3) == 0 then o.sdc else fon x (F.DRM_sdc n) := by
  simp only [drmSdc, decide_eq_true_eq]

theorem drmHeard_eq (x : Chip) (n : Nat) (o : DrmObs) :
    drmHeard x n o = ((laneOf x n).heard && (!decide (5 ≤ drmBads x n o) && laneState x n != 4)) := by
  simp only [drmHeard, ← decide_not, not_le]

/-- What the status shows of a frame. -/
def drmFields (x : Chip) (n : Nat) (sdc : Bool) : List (Fld × Nat) :=
  [(F.DRM_sdc n, sdc.toNat), (F.DRM_svc_now n, (cfgOf x n).opt / 32 % 4), (F.DRM_unsupp n, (drmUnsupp x n).isSome.toNat)]

/-- A lane with a frame's figures, SDC and audio as given. -/
def drmShownAs (x : Chip) (n : Nat) (o : DrmObs) (sdc heard : Bool) : Chip :=
  let l := laneOf x n
  let aux := if l.errs.isEmpty then 0xFF else percent (l.errs.map Prod.snd)
  fsets (wr (setLane x n { l with
    bads := drmBads x n o, fac := o.fac, heard := heard
    change := if o.fac then o.change else l.change.bind fun k => if k = 0 then none else some (k - 1) })
    (R.LANE_QUAL n) (qualWord (digitalScore o.all (if aux = 0xFF then 0 else aux)) o.mer o.level aux)) (drmFields x n sdc)

/-- A lane with a frame's figures. -/
def drmShown (x : Chip) (n : Nat) (o : DrmObs) : Chip := drmShownAs x n o (drmSdc x n o) (drmHeard x n o)

theorem laneState_drmShown (x : Chip) (n : Nat) (o : DrmObs) : laneState (drmShown x n o) n = laneState x n := by
  rw [laneState, drmShown, drmShownAs, fget_fsets_apart, fget_wr_ne _ _ _ _ (laneStatus_ne_qual n n), fget_setLane, laneState]
  · simp [F.LANE_STATE]
  · simp [drmFields, Fld.Apart, F.LANE_STATE, F.DRM_sdc, F.DRM_svc_now, F.DRM_unsupp]

/-- What a lane that shows a frame makes of it: it waits on what is not supported, else its state and its service follow. -/
def drmFollows (x y : Chip) (n : Nat) (o : DrmObs) (sdc : Bool) : Chip :=
  match drmUnsupp x n with
  | some k => unsupported y n k (F.DRM_unsupp n)
  | none =>
    let absent := o.fac && !o.present
    let z := moveState y n (drmNext (laneState y n) (drmBads x n o) absent (o.fac && (sdc && (laneOf x n).heard)))
    if o.fac then drmService z n ((cfgOf x n).opt / 32 % 4) absent else z

theorem drmFrame_eq (x : Chip) (n : Nat) (o : DrmObs) : drmFrame x n o = drmFollows x (drmShown x n o) n o (drmSdc x n o) := by
  rw [drmShown, drmHeard_eq, drmSdc_eq]
  rfl

/-- The state that a frame of a supported signal leads to. -/
def drmMoved (x : Chip) (n : Nat) (o : DrmObs) : Chip :=
  moveState (drmShown x n o) n (drmNext (laneState x n) (drmBads x n o) (o.fac && !o.present)
    (o.fac && (drmSdc x n o && (laneOf x n).heard)))

theorem drmFrame_unsupported {o : DrmObs} {k : Nat} (h : drmUnsupp x n = some k) :
    drmFrame x n o = unsupported (drmShown x n o) n k (F.DRM_unsupp n) := by
  rw [drmFrame_eq, drmFollows, h]

theorem drmFrame_supported {o : DrmObs} (h : drmUnsupp x n = none) : drmFrame x n o =
    if o.fac then drmService (drmMoved x n o) n ((cfgOf x n).opt / 32 % 4) (o.fac && !o.present) else drmMoved x n o := by
  rw [drmFrame_eq, drmFollows, h, drmMoved]
  dsimp only
  rw [laneState_drmShown]

theorem drmFrame_failed {o : DrmObs} (h : drmUnsupp x n = none) (hf : o.fac = false) : drmFrame x n o = drmMoved x n o := by
  rw [drmFrame_supported h, if_neg (ne_true_of_eq_false hf)]

theorem drmFrame_absent {o : DrmObs} (h : drmUnsupp x n = none) (hf : o.fac = true) (hp : o.present = false) :
    drmFrame x n o = svcMissing (drmMoved x n o) n 0 ((cfgOf x n).opt / 32 % 4) := by
  rw [drmFrame_supported h, if_pos hf, drmService, hf, hp, if_pos (by decide)]

theorem drmFrame_present {o : DrmObs} (h : drmUnsupp x n = none) (hf : o.fac = true) (hp : o.present = true) :
    drmFrame x n o = svcThere (drmMoved x n o) n := by
  rw [drmFrame_supported h, if_pos hf, drmService, hf, hp, if_neg (by decide)]

/-! The parameters of a signal (R146, R161). -/

theorem drmModeOk_iff (c : LaneCfg) (rmode : Nat) : drmModeOk c rmode = true ↔
    if drmE c then rmode = 5 else if 1 ≤ c.opt % 8 ∧ c.opt % 8 ≤ 4 then rmode = c.opt % 8 else 1 ≤ rmode ∧ rmode ≤ 4 := by
  unfold drmModeOk
  dsimp only
  split
  · exact beq_iff_eq
  · split
    · exact beq_iff_eq
    · rw [Bool.and_eq_true, decide_eq_true_eq, decide_eq_true_eq]

theorem drmSignalOk_iff (rmode occ qam : Nat) : drmSignalOk rmode occ qam = true ↔
    if rmode = 5 then occ = 0 ∧ qam ≤ 1 else occ ≤ 5 ∧ 1 ≤ qam := by
  unfold drmSignalOk
  split
  · rw [Bool.and_eq_true, beq_iff_eq, decide_eq_true_eq]
  · rw [Bool.and_eq_true, decide_eq_true_eq, decide_eq_true_eq]

/-- A signal's parameters as the status shows them. -/
def drmParams (n rmode occ qam ilong codec : Nat) : List (Fld × Nat) :=
  [(F.DRM_rmode n, rmode), (F.DRM_occ n, occ), (F.DRM_qam n, qam), (F.DRM_ilong n, ilong), (F.DRM_codec n, codec)]

section
variable {rmode occ qam ilong codec : Nat}

theorem drmParams_apart : (drmParams n rmode occ qam ilong codec).Pairwise fun e g => e.1.Apart g.1 := by
  simp [drmParams, Fld.Apart, F.DRM_rmode, F.DRM_occ, F.DRM_qam, F.DRM_ilong, F.DRM_codec]

theorem onlyRegs_drmParams (x : Chip) : OnlyRegs [R.LANE_STATUS n] x (fsets x (drmParams n rmode occ qam ilong codec)) :=
  onlyRegs_fsets x (by simp [drmParams, F.DRM_rmode, F.DRM_occ, F.DRM_qam, F.DRM_ilong, F.DRM_codec])

/-- Each parameter shows, of those that its field holds. -/
theorem fget_drmParams (x : Chip) (hr : rmode < 8) (ho : occ < 8) (hq : qam < 4) (hi : ilong < 2) (hc : codec < 8) :
    let y := fsets x (drmParams n rmode occ qam ilong codec)
    fget y (F.DRM_rmode n) = rmode ∧ fget y (F.DRM_occ n) = occ ∧ fget y (F.DRM_qam n) = qam ∧
      fget y (F.DRM_ilong n) = ilong ∧ fget y (F.DRM_codec n) = codec := by
  have hget : ∀ (f : Fld) (v : Nat), f.lo + f.width ≤ 32 → v < 2 ^ f.width →
      (f, v) ∈ drmParams n rmode occ qam ilong codec →
      fget (fsets x (drmParams n rmode occ qam ilong codec)) f = v := fun f v h32 hv hm =>
    (fget_fsets_mem h32 drmParams_apart x hm).trans (Nat.mod_eq_of_lt hv)
  exact ⟨hget (F.DRM_rmode n) rmode (by simp [F.DRM_rmode]) hr (by simp [drmParams]),
    hget (F.DRM_occ n) occ (by simp [F.DRM_occ]) ho (by simp [drmParams]),
    hget (F.DRM_qam n) qam (by simp [F.DRM_qam]) hq (by simp [drmParams]),
    hget (F.DRM_ilong n) ilong (by simp [F.DRM_ilong]) hi (by simp [drmParams]),
    hget (F.DRM_codec n) codec (by simp [F.DRM_codec]) hc (by simp [drmParams])⟩

/-- Parameters other than those shown are told, and lose sync unless the change was announced for this frame. -/
theorem drmParam_eq (x : Chip) (hr : rmode < 8) (ho : occ < 8) (hq : qam < 4) (hi : ilong < 2) (hc : codec < 8) :
    drmParam x n rmode occ qam ilong codec =
      let y := fsets x (drmParams n rmode occ qam ilong codec)
      let z := raise y (srcLane n) 0x29 (b1 n ++ b1 rmode ++ b1 occ ++ b1 qam ++ b1 ilong)
      if fget x (F.DRM_rmode n) = rmode ∧ fget x (F.DRM_occ n) = occ ∧ fget x (F.DRM_qam n) = qam ∧
        fget x (F.DRM_ilong n) = ilong then y
      else if (laneOf x n).change = some 0 then setLane z n { laneOf z n with change := none } else decodeAgain z n := by
  obtain ⟨hrmode, hocc, hqam, hilong, -⟩ := fget_drmParams (n := n) x hr ho hq hi hc
  refine if_congr ?_ rfl rfl
  have hy : fset (fsets x [(F.DRM_rmode n, rmode), (F.DRM_occ n, occ), (F.DRM_qam n, qam), (F.DRM_ilong n, ilong)])
    (F.DRM_codec n) codec = fsets x (drmParams n rmode occ qam ilong codec) := rfl
  simp only [hy, List.all_cons, List.all_nil, Bool.and_true, Bool.and_eq_true, beq_iff_eq, hrmode, hocc, hqam, hilong]

end

/-! DRM_STATE and DRM_PARAM. -/

theorem exec_drmState {o : DrmObs} (h : runs s.chip n mDrm = true) :
    exec (.drmState n o) s = .next (onChip (fun x => drmFrame x n o) s) := congrArg Host.Outcome.next (if_pos h)

section
variable {rmode occ qam codec : Nat} {ilong : Bool}

/-- DRM_PARAM of values that their fields hold. -/
theorem exec_drmParam_eq (hr : rmode < 8) (ho : occ < 8) (hq : qam < 4) (hc : codec < 8) :
    exec (.drmParam n rmode occ qam ilong codec) s =
      .next (if runs s.chip n mDrm = true ∧ drmModeOk (cfgOf s.chip n) rmode = true ∧ drmSignalOk rmode occ qam = true then
        onChip (fun x => drmParam x n rmode occ qam ilong.toNat codec) s else s) := by
  have h : exec (.drmParam n rmode occ qam ilong codec) s = execDrmParam n rmode occ qam ilong codec s := rfl
  rw [h, execDrmParam, Nat.mod_eq_of_lt hr, Nat.mod_eq_of_lt ho, Nat.mod_eq_of_lt hq, Nat.mod_eq_of_lt hc]

theorem exec_drmParam (hr : rmode < 8) (ho : occ < 8) (hq : qam < 4) (hc : codec < 8) (h : runs s.chip n mDrm = true)
    (hm : drmModeOk (cfgOf s.chip n) rmode = true) (hs : drmSignalOk rmode occ qam = true) :
    exec (.drmParam n rmode occ qam ilong codec) s =
      .next (onChip (fun x => drmParam x n rmode occ qam ilong.toNat codec) s) :=
  (exec_drmParam_eq hr ho hq hc).trans (congrArg Host.Outcome.next (if_pos ⟨h, hm, hs⟩))

theorem exec_drmParam_unsupported (hr : rmode < 8) (ho : occ < 8) (hq : qam < 4) (hc : codec < 8)
    (h : ¬(drmModeOk (cfgOf s.chip n) rmode = true ∧ drmSignalOk rmode occ qam = true)) :
    exec (.drmParam n rmode occ qam ilong codec) s = .next s :=
  (exec_drmParam_eq hr ho hq hc).trans (congrArg Host.Outcome.next (if_neg fun hc => h hc.2))

theorem exec_drm_idle {o : DrmObs} (h : runs s.chip n mDrm = false) :
    exec (.drmState n o) s = .next s ∧ exec (.drmParam n rmode occ qam ilong codec) s = .next s :=
  ⟨congrArg Host.Outcome.next (if_neg (ne_true_of_eq_false h)),
    congrArg Host.Outcome.next (if_neg fun hc => ne_true_of_eq_false h hc.1)⟩

end

/-- Settles O40: data groups, the lanes that take them and the pool's commands, then a DRM frame by what it decodes, the parameters
by what is supported, and other lanes. -/
theorem motAndDrmCommands : Obligations.MotAndDrmCommands := by
  unfold Obligations.MotAndDrmCommands
  refine ⟨fun n o s ht hd hn hl ho hs hp => ?first, fun n o s ht => ?group, fun n o s => exec_motDataGroup_idle,
    fun x n => motTakes_iff, fun n tid s => exec_motIdleTimeout, fun n tid s => exec_motIdleTimeout_none,
    fun n tid stamp e s hn he => ?missing, fun n tid stamp s => exec_motMissing_none, fun n o s hr => ?frame,
    fun n rmode occ qam ilong codec s hr hrm hoc hqa hco => ?param, fun n rmode occ qam ilong codec o s => exec_drm_idle⟩
  case first =>
    rw [exec_motDataGroup ht, onChip, onChip, hd, motDirectory_nil, motJoin_first (motAt_none hn) hl ho hs hp]
    rfl
  case group =>
    rw [exec_motDataGroup ht]
    rfl
  case missing =>
    obtain ⟨htid, -⟩ : e.1.tid = tid ∧ e.2 = 0 := by simpa using List.find?_some he
    rw [exec_motMissing hn he, ← htid]
    rfl
  case frame =>
    intro l bads first svc aux sdc x1 x2 bad x3 st x4
    rw [exec_drmState hr]
    refine ⟨fun k hk => ?_, fun hb hf => ?_, fun hb hf hp => ?_, fun hb hf hp => ?_⟩
    · rw [onChip, onChip, drmFrame_unsupported hk]
      rfl
    · rw [onChip, onChip, drmFrame_failed hb hf]
      rfl
    · rw [onChip, onChip, drmFrame_absent hb hf hp]
      rfl
    · rw [onChip, onChip, drmFrame_present hb hf hp]
      rfl
  case param =>
    intro set ok
    refine ⟨fun hn => ?_, fun ⟨hm, hs⟩ => ⟨fsets s.chip (drmParams n rmode occ qam ilong.toNat codec), ?_, ?_⟩⟩
    · refine exec_drmParam_unsupported hrm hoc hqa hco fun ⟨hm, hs⟩ => hn ?_
      exact ⟨(drmModeOk_iff _ _).1 hm, (drmSignalOk_iff _ _ _).1 hs⟩
    · have hi : ilong.toNat < 2 := Bool.toNat_lt ilong
      obtain ⟨hrmode, hocc, hqam, hilong, hcodec⟩ := fget_drmParams (n := n) s.chip hrm hoc hqa hi hco
      exact ⟨hrmode, hocc, hqam, hilong, hcodec, onlyRegs_drmParams s.chip⟩
    · rw [exec_drmParam hrm hoc hqa hco hr ((drmModeOk_iff _ _).2 hm) ((drmSignalOk_iff _ _ _).2 hs), onChip, onChip,
        drmParam_eq s.chip hrm hoc hqa (Bool.toNat_lt ilong) hco]
      rfl

end Sys2Proof.Machine
end

section
/-! Octets, mailbox answers and follow records (R171 to R174, R362): what a spelled number holds, where a block of a run of equal
blocks lies, the two plain answers of a mailbox command, and a programme's record and candidates. -/
namespace Sys2Proof.Machine

variable {x : Chip} {s : State}

/-! Octets. -/

theorem length_le (n v : Nat) : (le n v).length = n := by rw [le, List.length_map, List.length_range]

theorem le_succ (n v : Nat) : le (n + 1) v = BitVec.ofNat 8 v :: le n (v / 256) := by
  simp only [le, List.range_succ_eq_map, List.map_cons, List.map_map, Nat.pow_zero, Nat.div_one, Function.comp_def,
    Nat.succ_eq_add_one, Nat.pow_succ', Nat.div_div_eq_div_mul]

theorem b1_eq (v : Nat) : b1 v = [BitVec.ofNat 8 v] := le_succ 0 v

/-- The octets of a number hold it, modulo what they can hold. -/
theorem unle_le : ∀ n v : Nat, unle (le n v) = v % 256 ^ n
  | 0, v => (Nat.mod_one v).symm
  | n + 1, v => by
    rw [le_succ, unle, unle_le n, BitVec.toNat_ofNat, Nat.pow_succ' (m := 256)]
    exact Nat.mod_mul.symm

/-- The part of a run of octets that lies between two others. -/
theorem field_between (a l z : List Byte) : field (a ++ l ++ z) a.length l.length = unle l := by
  rw [field, List.append_assoc, List.drop_left, List.take_left]

/-- Block i of a run of blocks of one length. -/
theorem take_drop_flatten {α : Type} {c : Nat} : ∀ (l : List (List α)) (i : Nat) (b : List α), (∀ e ∈ l, e.length = c) →
    l[i]? = some b → (l.flatten.drop (c * i)).take c = b
  | [], _, _, _, hi => absurd hi (by simp)
  | e :: l, 0, b, h, hi => by
    obtain rfl : e = b := Option.some.inj hi
    rw [List.flatten_cons, Nat.mul_zero, List.drop_zero, ← h e (List.mem_cons_self ..), List.take_left]
  | e :: l, i + 1, b, h, hi => by
    have he : e.length = c := h e (List.mem_cons_self ..)
    have ih := take_drop_flatten l i b (fun f hf => h f (List.mem_cons_of_mem _ hf)) hi
    rwa [List.flatten_cons, Nat.mul_succ, Nat.add_comm, ← List.drop_drop, ← he, List.drop_left, he]

/-! The two plain answers of a mailbox command (R362). -/

theorem mailbox_of_refuse {code st : Nat} {o : Iface} {body : State → MRes} (h : MboxServes s.chip code)
    (hb : body (begun o code s) = refuse (begun o code s) st) : mailbox code o body s = finished st 0 (begun o code s) := by
  rw [mailbox_serves code o body s h, hb]
  rfl

theorem mailbox_of_okChip {code : Nat} {o : Iface} {body : State → MRes} {y : Chip} (h : MboxServes s.chip code)
    (hb : body (begun o code s) = okChip (begun o code s) y) :
    mailbox code o body s = finished 0x00 0 (onChip (fun _ => y) (begun o code s)) := by
  rw [mailbox_serves code o body s h, hb]
  rfl

/-! Records and candidates (R171, R174). -/

theorem followOf_setFollow_same (x : Chip) (p : Nat) (r : Follow) : followOf (setFollow x p r) p = some r :=
  smFind_insert_same _ _ _

theorem idx_of_candOf {r : Follow} {i : Nat} {c : Cand} (h : candOf r i = some c) : c.idx = i := by
  simpa using List.find?_some h

theorem updCand_eq {p : Nat} {r : Follow} (h : followOf x p = some r) (c : Cand) :
    updCand x p c = setFollow x p (putCand r c) := by
  rw [updCand, h]

/-- A table of fewer than 32 candidates has a free index (R174): no 32 indices fit among those held. -/
theorem freeIndex_of_room {r : Follow} (h : r.cands.length < 32) :
    ∃ i, freeIndex r = some i ∧ i < 32 ∧ ∀ c ∈ r.cands, c.idx ≠ i := by
  cases hf : freeIndex r with
  | some i =>
    refine ⟨i, rfl, List.mem_range.1 (List.mem_of_find?_eq_some hf), ?_⟩
    simpa using List.find?_some hf
  | none =>
    have htaken : List.range 32 ⊆ r.cands.map Cand.idx := by
      intro i hi
      have := List.find?_eq_none.1 hf i hi
      simpa using this
    have := (List.nodup_range.subperm htaken).length_le
    rw [List.length_range, List.length_map] at this
    omega

end Sys2Proof.Machine
end

section
/-! The follow commands of the mailbox (R171 to R174, R184): what each answers to its arguments, the octets of FOLLOW_STATUS, and
the statement about them. -/
namespace Sys2Proof.Machine

variable {x : Chip} {t : State} {p : Nat} {r : Follow}

/-! FOLLOW_SET (R171, R172). -/

/-- Arguments that FOLLOW_SET refuses: no programme lane, a line or a fade out of range. -/
def FollowArgsBad (x : Chip) (p a3 : Nat) : Prop :=
  104 ≤ p ∨ stdOf x p ∉ [1, 2, 4, 5] ∨ 4500 < a3 % 8192 ∨ a3 / 65536 % 256 < 5 ∨ 200 < a3 / 65536 % 256

/-- A line in ms finds its blocks, beside fewer than 16 others. -/
theorem lineFits_iff (x : Chip) (p line : Nat) : lineFits x p (line * 48) = true ↔
    line = 0 ∨ (ceilDiv (line * 48) 480 + blocksUsed x p ≤ blocksPool x ∧ lineHolders x p < 16) := by
  simp [lineFits]

theorem followSet_bad (h : FollowArgsBad t.chip (arg t.chip 0 % 128) (arg t.chip 3)) : followSet t = refuse t 0x05 := if_pos h

theorem followSet_denied (h : ¬FollowArgsBad t.chip (arg t.chip 0 % 128) (arg t.chip 3))
    (hl : lineFits t.chip (arg t.chip 0 % 128) (arg t.chip 3 % 8192 * 48) = false) : followSet t = refuse t 0x06 :=
  (if_neg h).trans (if_pos hl)

/-- Where arguments and line are accepted, following starts or its settings change. -/
theorem followSet_accepted (h : ¬FollowArgsBad t.chip (arg t.chip 0 % 128) (arg t.chip 3))
    (hl : lineFits t.chip (arg t.chip 0 % 128) (arg t.chip 3 % 8192 * 48) = true) : followSet t =
      match followOf t.chip (arg t.chip 0 % 128) with
      | some r => okChip t (setFollow t.chip (arg t.chip 0 % 128) { r with
          policy := arg t.chip 1 % 256, margin := arg t.chip 2 % 256, bias := sext 8 (arg t.chip 2 / 256 % 256)
          guard := arg t.chip 2 / 65536, line := arg t.chip 3 % 8192, fade := arg t.chip 3 / 65536 % 256 })
      | none => okChip t (followStart t.chip (arg t.chip 0 % 128)
          (newFollow t.chip (arg t.chip 0 % 128) (arg t.chip 1) (arg t.chip 2) (arg t.chip 3))) :=
  (if_neg h).trans ((if_neg (ne_false_of_eq_true hl)).trans rfl)

/-! FOLLOW_CLEAR (R172). -/

theorem followClear_unknown (h : followOf t.chip (arg t.chip 0) = none) : followClear t = refuse t 0x0B := by
  rw [followClear, h]
  rfl

theorem followClear_fading {f : Fade} (h : followOf t.chip (arg t.chip 0) = some r) (hf : r.fading = some f) :
    followClear t = okChip t (setFollow t.chip (arg t.chip 0) { r with fading := some { f with endReason := some 0 } }) := by
  rw [followClear, h]
  dsimp only
  rw [hf]

theorem followClear_ends (h : followOf t.chip (arg t.chip 0) = some r) (hf : r.fading = none) :
    followClear t = okChip t (followEnd t.chip (arg t.chip 0) 0) := by
  rw [followClear, h]
  dsimp only
  rw [hf]

/-- Following ends at the host's wish: the line in force stays with its lane. -/
theorem followEnd_asked (h : followOf x p = some r) : followEnd x p 0 =
    after srcMgmt (fun y => r.cands.foldl releaseCand y) (raise { x with
      follows := smErase p x.follows
      lines := if 0 < r.lineNow then smInsert p r.lineNow.toNat x.lines else x.lines } srcMgmt 0x41 (b1 p ++ b1 0)) := by
  rw [followEnd, h]
  simp only [and_true]

/-! FOLLOW_ADD (R172, R174). -/

theorem followAdd_unknown (h : followOf t.chip (arg t.chip 0) = none) : followAdd t = refuse t 0x0B := by
  rw [followAdd, h]
  rfl

theorem followAdd_known (h : followOf t.chip (arg t.chip 0) = some r) : followAdd t =
    if freqOk (arg t.chip 1) (arg t.chip 2) = false then refuse t 0x05
    else if 32 ≤ r.cands.length then refuse t 0x01
    else okChip t (setFollow t.chip (arg t.chip 0)
      (listCand r fun i => newCand i (arg t.chip 1) 7 (arg t.chip 2) (arg t.chip 3))) := by
  rw [followAdd, h]
  rfl

/-- A table with room takes a candidate at its lowest free index (R174). -/
theorem listCand_free {i : Nat} (c : Nat → Cand) (h : freeIndex r = some i) :
    listCand r c = { r with cands := r.cands ++ [c i] } := by
  rw [listCand, h]

/-! FOLLOW_FORCE (R184, R187). -/

theorem followForce_unknown (h : followOf t.chip (arg t.chip 0) = none) : followForce t = refuse t 0x0B := by
  rw [followForce, h]
  rfl

theorem followForce_no_candidate (h : followOf t.chip (arg t.chip 0) = some r) (hc : candOf r (arg t.chip 1) = none) :
    followForce t = refuse t 0x0B := by
  rw [followForce, h]
  dsimp only
  rw [hc]
  rfl

theorem followForce_candidate {c : Cand} (h : followOf t.chip (arg t.chip 0) = some r)
    (hc : candOf r (arg t.chip 1) = some c) : followForce t =
      if c.state ≠ 5 then refuse t 0x0B
      else if r.fading.isSome then okChip t t.chip
      else if laneHeld t.chip (arg t.chip 0) then okChip t (setFollow t.chip (arg t.chip 0) { r with due := some c.idx })
      else okChip t (decideFor t.chip (arg t.chip 0) r c 2) := by
  rw [followForce, h]
  dsimp only
  rw [hc]
  rfl

/-! FOLLOW_STATUS (R173). -/

theorem length_candEntry (x : Chip) (r : Follow) (i : Nat) : (candEntry x r i).length = 16 := by
  rw [candEntry]
  split
  · exact List.length_replicate
  · simp only [List.length_append, b1, b2, b4, i2, leInt, length_le, deltaMs]
    split <;> split <;> simp only [length_le]

/-- The octets before the candidates. -/
def followHead (x : Chip) (p : Nat) (r : Follow) : List Byte :=
  b1 p ++ b1 r.fading.isSome.toNat ++ b1 r.cands.length ++ b1 0 ++ leInt 4 r.lineNow ++ b4 r.handovers ++
    i2 (effScore x r p) ++ b2 0

theorem followTable_eq (x : Chip) (p : Nat) (r : Follow) :
    followTable x p r = followHead x p r ++ ((List.range 32).map (candEntry x r)).flatten := by
  rw [followTable, List.flatMap_def, followHead]

theorem length_followHead (x : Chip) (p : Nat) (r : Follow) : (followHead x p r).length = 16 := by
  simp only [followHead, List.length_append, b1, b2, b4, i2, leInt, length_le]

theorem length_followTable (x : Chip) (p : Nat) (r : Follow) : (followTable x p r).length = 528 := by
  simp only [followTable, List.length_append, List.length_flatMap, length_candEntry, b1, b2, b4, i2, leInt, length_le,
    List.map_const', List.length_range, List.sum_replicate, smul_eq_mul]

/-- The first octets: the programme, a fade under way, the number of candidates. -/
theorem followTable_begins (x : Chip) (p : Nat) (r : Follow) :
    nth 0 (followTable x p r) 0 = BitVec.ofNat 8 p ∧ nth 0 (followTable x p r) 1 = BitVec.ofNat 8 r.fading.isSome.toNat ∧
      nth 0 (followTable x p r) 2 = BitVec.ofNat 8 r.cands.length := by
  rw [followTable_eq, followHead, b1_eq, b1_eq, b1_eq]
  exact ⟨rfl, rfl, rfl⟩

theorem followTable_handovers (x : Chip) (p : Nat) (r : Follow) : field (followTable x p r) 8 4 = r.handovers % 2 ^ 32 := by
  have h := field_between (b1 p ++ b1 r.fading.isSome.toNat ++ b1 r.cands.length ++ b1 0 ++ leInt 4 r.lineNow)
    (b4 r.handovers) (i2 (effScore x r p) ++ b2 0 ++ ((List.range 32).map (candEntry x r)).flatten)
  simp only [List.length_append, b1, b4, leInt, length_le, unle_le] at h
  rw [followTable_eq, followHead]
  simp only [List.append_assoc, b1, b4, leInt] at h ⊢
  exact h

/-- The entry of candidate i, after the first 16 octets and the entries before it. -/
theorem followTable_entry (x : Chip) (p : Nat) (r : Follow) {i : Nat} (hi : i < 32) :
    ((followTable x p r).drop (16 + 16 * i)).take 16 = candEntry x r i := by
  rw [followTable_eq, ← List.drop_drop, List.drop_left' (length_followHead x p r)]
  refine take_drop_flatten _ i _ ?_ ?_
  · simp only [List.mem_map, forall_exists_index, and_imp, forall_apply_eq_imp_iff₂]
    exact fun j _ => length_candEntry x r j
  · rw [List.getElem?_map, List.getElem?_range hi, Option.map_some]

theorem exec_followStatus {o : Iface} {s : State} (hm : MboxServes s.chip 0x44)
    (h : followOf (begun o 0x44 s).chip (arg (begun o 0x44 s).chip 0) = some r) : exec (.followStatus o) s =
      .next (finished 0x00 528 (putWin (begun o 0x44 s) 0
        (followTable (begun o 0x44 s).chip (arg (begun o 0x44 s).chip 0) r))) := by
  refine congrArg Host.Outcome.next ((mailbox_serves _ o _ s hm).trans ?_)
  dsimp only
  rw [h]
  rfl

theorem exec_followStatus_unknown {o : Iface} {s : State} (hm : MboxServes s.chip 0x44)
    (h : followOf (begun o 0x44 s).chip (arg (begun o 0x44 s).chip 0) = none) : exec (.followStatus o) s =
      .next (finished 0x0B 0 (begun o 0x44 s)) := by
  refine congrArg Host.Outcome.next (mailbox_of_refuse hm ?_)
  dsimp only
  rw [h]
  rfl

/-- Settles O43: each command's answers, by the programme's record and the arguments. -/
theorem followMailboxCommands : Obligations.FollowMailboxCommands := by
  unfold Obligations.FollowMailboxCommands
  refine ⟨fun o s hm => ?set, fun o s hm => ?clear, fun o s hm => ?add, fun o s hm => ?force, fun o s hm => ?status⟩
  case set =>
    intro t x p a1 a2 line fade bad
    have refused {st : Nat} (h : followSet t = refuse t st) : exec (.followSet o) s = .next (finished st 0 t) :=
      congrArg Host.Outcome.next (mailbox_of_refuse hm h)
    have done {y : Chip} (h : followSet t = okChip t y) : exec (.followSet o) s = .next (finished 0x00 0 (onChip (fun _ => y) t)) :=
      congrArg Host.Outcome.next (mailbox_of_okChip hm h)
    refine ⟨fun hb => refused (followSet_bad hb), fun hb hl => ?_, fun hb hl hn => ?_, fun r hb hl hr => ?_⟩
    · exact refused (followSet_denied hb (Bool.eq_false_iff.2 fun h => hl ((lineFits_iff x p line).1 h)))
    · have h := followSet_accepted hb ((lineFits_iff x p line).2 hl)
      rw [hn] at h
      refine ⟨newFollow x p a1 a2 (arg x 3), ?_, done h⟩
      exact ⟨rfl, rfl, rfl, rfl, rfl, rfl, rfl, rfl, rfl, rfl, rfl, rfl, rfl, rfl⟩
    · have h := followSet_accepted hb ((lineFits_iff x p line).2 hl)
      rw [hr] at h
      exact done h
  case clear =>
    intro t x p
    have done {y : Chip} (h : followClear t = okChip t y) :
        exec (.followClear o) s = .next (finished 0x00 0 (onChip (fun _ => y) t)) :=
      congrArg Host.Outcome.next (mailbox_of_okChip hm h)
    refine ⟨fun hn => congrArg Host.Outcome.next (mailbox_of_refuse hm (followClear_unknown hn)),
      fun r f hr hf => done (followClear_fading hr hf), fun r hr hf => ?_⟩
    rw [← followEnd_asked hr]
    exact done (followClear_ends hr hf)
  case add =>
    intro t x p
    have refused {st : Nat} (h : followAdd t = refuse t st) : exec (.followAdd o) s = .next (finished st 0 t) :=
      congrArg Host.Outcome.next (mailbox_of_refuse hm h)
    refine ⟨fun hn => refused (followAdd_unknown hn), fun r hr hq => refused ?_, fun r hr hq hfull => refused ?_,
      fun r hr hq hroom => ?_⟩
    · rw [followAdd_known hr, if_pos hq]
    · rw [followAdd_known hr, if_neg (ne_false_of_eq_true hq), if_pos hfull]
    · obtain ⟨i, hi, hlt, hfree⟩ := freeIndex_of_room hroom
      refine ⟨i, hlt, hfree, congrArg Host.Outcome.next (mailbox_of_okChip hm ?_)⟩
      rw [followAdd_known hr, if_neg (ne_false_of_eq_true hq), if_neg (Nat.not_le.2 hroom), listCand_free _ hi]
      rfl
  case force =>
    intro t x p
    have refused {st : Nat} (h : followForce t = refuse t st) : exec (.followForce o) s = .next (finished st 0 t) :=
      congrArg Host.Outcome.next (mailbox_of_refuse hm h)
    have done {y : Chip} (h : followForce t = okChip t y) :
        exec (.followForce o) s = .next (finished 0x00 0 (onChip (fun _ => y) t)) :=
      congrArg Host.Outcome.next (mailbox_of_okChip hm h)
    refine ⟨fun hn => refused (followForce_unknown hn), fun r hr hc => refused (followForce_no_candidate hr hc),
      fun r c hr hc hs => refused ?_, fun r c hr hc hs => ?_⟩
    · rw [followForce_candidate hr hc, if_pos hs]
    have ready := followForce_candidate hr hc
    rw [if_neg (not_not.2 hs)] at ready
    refine ⟨fun hf => done (ready.trans (if_pos (Option.isSome_iff_ne_none.2 hf))), fun hf hl => done ?_, fun hf hl => done ?_⟩
    · rw [ready, hf, if_neg (by simp), if_pos hl]
    · rw [ready, hf, if_neg (by simp), if_neg (ne_true_of_eq_false hl)]
  case status =>
    intro t
    refine ⟨exec_followStatus_unknown hm, fun r hr => ⟨_, exec_followStatus hm hr, length_followTable .., ?_⟩⟩
    obtain ⟨hprogramme, hfade, hcount⟩ := followTable_begins t.chip (arg t.chip 0) r
    exact ⟨hprogramme, hfade, hcount, followTable_handovers .., fun i hi => followTable_entry t.chip _ r hi⟩

end Sys2Proof.Machine
end

section
/-! Candidates (R174 to R182): rejection, warming, verification, alignment with the reserve of its line, the repeated fine stage,
and the statement about a candidate's way through its states. -/
namespace Sys2Proof.Machine

variable {x : Chip} {s : State} {p i : Nat} {r : Follow} {c : Cand}

/-! A programme's command to one of its candidates. -/

theorem onChip_congr {f g : Chip → Chip} (h : f s.chip = g s.chip) : onChip f s = onChip g s :=
  congrArg ({ s with chip := · }) h

theorem onCand_acts {states : List Nat} {f : Chip → Follow → Cand → Chip} (hrun : rfRuns s.chip = true)
    (hr : followOf s.chip p = some r) (hc : candOf r i = some c) (hs : c.state ∈ states) :
    onCand p i states f s = onChip (fun x => f x r c) s := by
  rw [onCand, if_pos hrun, hr]
  dsimp only
  rw [hc]
  exact if_pos hs

theorem onCand_down {states : List Nat} {f : Chip → Follow → Cand → Chip} (hrun : rfRuns s.chip = false) :
    onCand p i states f s = s := if_neg (ne_true_of_eq_false hrun)

/-! Rejection (R175). -/

/-- A candidate as its rejection leaves it, with the line then in force. -/
def rejectedCand (r : Follow) (c : Cand) (why : Nat) : Cand :=
  { c with
    state := caRejected, lane := (if c.linked then c.lane else 0x7F), lead := 0x7F, delta := none, verified := false
    aligned := false, fails := 0, beaten := 0, why := why, lineAt := r.lineNow }

theorem rejectCand_eq (h : followOf x p = some r) (c : Cand) (why : Nat) : rejectCand x p c why =
    after srcMgmt (fun y => releaseCand y c) (raise (setFollow x p (putCand r (rejectedCand r c why))) srcMgmt 0x44
      (b1 p ++ b1 c.idx ++ b1 why)) := by
  rw [rejectCand, markRejected, h]
  rfl

/-! CAND_WARM (R177, R178). -/

theorem exec_candWarm {sched : List (Nat × Nat)} (hrun : rfRuns s.chip = true) :
    exec (.candWarm sched) s = .next (onChip (fun x => candWarm x sched) s) := congrArg Host.Outcome.next (if_pos hrun)

theorem candWarm_linked (sched : List (Nat × Nat)) (h : linkedWarm x = some (p, c)) :
    candWarm x sched = warmOn x p c c.lane 0x7F := by
  rw [candWarm, h]

theorem candWarm_pool (sched : List (Nat × Nat)) (h : linkedWarm x = none) : candWarm x sched = poolWarm x sched := by
  rw [candWarm, h]

theorem poolWarm_nobody {sched : List (Nat × Nat)} (h : nextWarm x sched = none) : poolWarm x sched = x := by
  rw [poolWarm, h]

theorem poolWarm_no_lane {sched : List (Nat × Nat)} (h : nextWarm x sched = some (p, c)) (hf : freePool x = []) :
    poolWarm x sched = noLane x p c 0 := by
  rw [poolWarm, h]
  dsimp only
  rw [hf]

/-- A candidate other than a DAB service is tuned to on the first free pool lane. -/
theorem poolWarm_tuned {sched : List (Nat × Nat)} {n : Nat} {l : List Nat} (h : nextWarm x sched = some (p, c))
    (hf : freePool x = n :: l) (hm : c.mode ≠ 4) : poolWarm x sched = after srcMgmt (fun y =>
      manageLane y n (BitVec.ofNat 32 c.mode) (tuneWords c.freq).2 (tuneWords c.freq).1) (warmOn x p c n 0x7F) := by
  rw [poolWarm, h]
  dsimp only
  rw [hf]
  exact if_pos hm

/-- A DAB service is attached to a lead that has its ensemble. -/
theorem poolWarm_attached {sched : List (Nat × Nat)} {n k : Nat} {l m : List Nat} (h : nextWarm x sched = some (p, c))
    (hf : freePool x = n :: l) (hm : c.mode = 4) (hk : leadsOf x (c.ident / 65536) = k :: m) : poolWarm x sched =
      after srcMgmt (fun y => manageLane y n 4 (BitVec.ofNat 32 c.ident) (fget y (F.LANE_INPUT_sb n))) (warmOn x p c n k) := by
  rw [poolWarm, h]
  dsimp only
  rw [hf]
  dsimp only
  rw [if_neg (not_not.2 (show c.mode = mSvc from hm)), hk]
  rfl

/-! CAND_VERIFY (R174, R175). -/

theorem exec_candVerify (ident : Nat) (hrun : rfRuns s.chip = true) (hr : followOf s.chip p = some r)
    (hc : candOf r i = some c) (hs : c.state = 2 ∨ c.state = 4) (hv : c.verified = false) (ha : byAlignment c = false) :
    exec (.candVerify p i ident) s = .next (onChip (fun x => candVerify x p r c ident) s) := by
  refine congrArg Host.Outcome.next ((onCand_acts hrun hr hc (by simpa [caWarm, caAligned] using hs)).trans (onChip_congr ?_))
  exact if_neg (by simp [hv, ha])

theorem candVerify_confirmed (h : followOf x p = some r) {ident : Nat} (hi : identOk r c ident = true) :
    candVerify x p r c ident = raise (setFollow x p (putCand r
      { c with verified := true, state := (if c.state = 2 then 3 else c.state) })) srcMgmt 0x43 (b1 p ++ b1 c.idx ++ b4 ident) := by
  rw [candVerify, if_pos hi, updCand_eq h]
  rfl

theorem candVerify_other {ident : Nat} (hi : identOk r c ident = false) : candVerify x p r c ident = rejectCand x p c 0 :=
  if_neg (ne_true_of_eq_false hi)

/-! Alignment (R175, R180, R182). -/

theorem peakOk_iff (c : Cand) (k : Peak) : peakOk c k = true ↔
    0 < k.cross ∧ (if byAlignment c then 64 else 25) * k.energy ≤ 100 * (k.cross * k.cross).toNat := by
  rw [peakOk, Peak.reaches, Bool.and_eq_true, decide_eq_true_eq, decide_eq_true_eq]
  cases byAlignment c <;> rfl

/-- An offset that is taken, by the range of the line it needs and the blocks left for it. -/
theorem takeOffset_eq (h : followOf x p = some r) {d : Int} (hd : c.delta = some d) (state : Nat) : takeOffset x p r c state =
    if r.lineNow - d < 0 ∨ 216000 < r.lineNow - d then rejectCand x p c 3
    else if blocksPool x - blocksUsed x p < blocksOf (max (ringOf r) (r.lineNow - d)) ∨
        (0 < blocksOf (max (ringOf r) (r.lineNow - d)) ∧ 16 ≤ lineHolders x p) then
      raise (setFollow x p (putCand r { c with delta := none, aligned := false, state := (if c.verified then 3 else 2) })) srcMgmt 0x4A
        (b1 p ++ b2s (blocksOf (max (ringOf r) (r.lineNow - d))) ++ b2s (blocksPool x - blocksUsed x p))
    else setFollow x p (putCand r { c with aligned := true, state := state }) := by
  rw [takeOffset, lineOf, hd, updCand_eq h, updCand_eq h]
  rfl

/-- A candidate with an offset and gain that a correlation has shown. -/
def measuredCand (r : Follow) (c : Cand) (o : PeakObs) : Cand :=
  { c with delta := some o.delta, gain := clipGain r (o.gain + r.gain), fails := 0, verified := c.verified || byAlignment c }

theorem candAlign_eq (h : followOf x p = some r) (c : Cand) (o : PeakObs) : candAlign x p r c o =
    if peakOk c o.peak = false then
      if c.fails < 2 then setFollow x p (putCand r { c with fails := c.fails + 1 }) else rejectCand x p c 2
    else takeOffset x p r (measuredCand r c o) 4 := by
  rw [candAlign, updCand_eq h]
  refine if_congr Iff.rfl ?_ rfl
  rw [← ite_not]
  exact if_congr Nat.not_le rfl rfl

theorem exec_candAligned (hrun : rfRuns s.chip = true) (hr : followOf s.chip p = some r) (hc : candOf r i = some c)
    (hs : c.state = 2 ∨ c.state = 3) :
    exec (.candAligned p i) s = .next (onChip (fun x => candAlign x p r c (bothStages x p c.lane)) s) :=
  congrArg Host.Outcome.next (onCand_acts hrun hr hc (by simpa [caWarm, caVerified] using hs))

/-! CAND_READY (R177, R182). -/

theorem exec_candReady (hrun : rfRuns s.chip = true) (hr : followOf s.chip p = some r) (hc : candOf r i = some c)
    (hs : c.state = 4) (hv : c.verified = true) (ha : c.aligned = true) : exec (.candReady p i) s =
      .next (onChip (fun x => raise (setFollow x p (putCand r { c with state := 5 })) srcMgmt 0x45
        (b1 p ++ b1 i ++ leInt 4 (c.delta.getD 0) ++ leInt 4 (r.lineNow - c.delta.getD 0))) s) := by
  refine congrArg Host.Outcome.next ((onCand_acts hrun hr hc (by simp [hs, caAligned])).trans (onChip_congr ?_))
  rw [hv, ha, updCand_eq hr]
  rfl

theorem exec_candReady_waits (hrun : rfRuns s.chip = true) (hr : followOf s.chip p = some r) (hc : candOf r i = some c)
    (hs : c.state = 4) (h : c.verified = false ∨ c.aligned = false) : exec (.candReady p i) s = .next s := by
  refine congrArg Host.Outcome.next ((onCand_acts hrun hr hc (by simp [hs, caAligned])).trans (onChip_congr (g := fun x => x) ?_))
  exact if_neg (ne_true_of_eq_false (by rcases h with h | h <;> simp [h]))

/-! FINE_ALIGN (R181, R185, R187). -/

/-- The state after a fine stage: a move of more than 2 samples returns the candidate to ALIGNED. -/
def fineState (c : Cand) (o : PeakObs) : Nat := if (o.delta - c.delta.getD o.delta).natAbs ≤ 2 then c.state else 4

theorem exec_fineAlign (hrun : rfRuns s.chip = true) (hr : followOf s.chip p = some r) (hc : candOf r i = some c)
    (hs : c.state = 4 ∨ c.state = 5 ∨ c.state = 6) : exec (.fineAlign p i) s =
      .next (onChip (fun x => fineAlign x p r c (fineStage x p c.lane (c.delta.getD 0))) s) :=
  congrArg Host.Outcome.next (onCand_acts hrun hr hc (by simpa [caAligned, caReady, caFading] using hs))

/-- During the candidate's fade a lost peak or a line out of range aborts it; the gain stays. -/
theorem fineAlign_fading (h : followOf x p = some r) (o : PeakObs) {f : Fade} (hf : r.fading = some f) (hi : f.idx = c.idx) :
    fineAlign x p r c o =
      if peakOk c o.peak = false ∨ r.lineNow - o.delta < 0 ∨ 216000 < r.lineNow - o.delta then handoverAbort x p r f c 1
      else setFollow x p (putCand r { c with delta := some o.delta, state := fineState c o }) := by
  have hfade : r.fading.filter (fun f => f.idx == c.idx) = some f := by rw [hf, Option.filter_some, if_pos (by simpa using hi)]
  rw [fineAlign, hfade]
  dsimp only [Option.isSome_some, if_true]
  rw [updCand_eq h]
  rfl

/-- Out of its fade it returns to ALIGNED without a peak, else takes the offset with range and room. -/
theorem fineAlign_alone (h : followOf x p = some r) (o : PeakObs) (hf : ∀ f, r.fading = some f → f.idx ≠ c.idx) :
    fineAlign x p r c o =
      if peakOk c o.peak = false then setFollow x p (putCand r { c with state := 4 })
      else takeOffset x p r { c with delta := some o.delta, gain := clipGain r (o.gain + r.gain) } (fineState c o) := by
  have hfade : r.fading.filter (fun f => f.idx == c.idx) = none := by
    cases hr : r.fading with
    | none => rfl
    | some f => rw [Option.filter_some, if_neg (by simpa using hf f hr)]
  rw [fineAlign, hfade]
  dsimp only [Option.isSome_none]
  rw [updCand_eq h]
  rfl

/-! REJECT_EXPIRY (R175, R177). -/

theorem exec_rejectExpiry (hr : followOf s.chip p = some r) (hc : candOf r i = some c) : exec (.rejectExpiry p i) s =
    .next (if c.state = 7 ∧ (c.why ≠ 3 ∨ c.lineAt ≠ r.lineNow) then
      onChip (fun x => setFollow x p (putCand r { c with state := 0, noLane := false })) s else s) := by
  have he : exec (.rejectExpiry p i) s = .next (if c.state = 7 ∧ (c.why ≠ 3 ∨ c.lineAt ≠ r.lineNow) then
      onChip (fun x => updCand x p { c with state := 0, noLane := false }) s else s) := by
    refine congrArg Host.Outcome.next ?_
    rw [hr]
    dsimp only
    rw [hc]
    rfl
  rw [he]
  exact congrArg Host.Outcome.next (if_congr Iff.rfl (onChip_congr (updCand_eq hr _)) rfl)

/-- Settles O44: each command by the candidate's state and what it is given. -/
theorem followCandidateCommands : Obligations.FollowCandidateCommands := by
  unfold Obligations.FollowCandidateCommands
  refine ⟨fun x p r c why hr => ⟨rejectedCand r c why, ⟨rfl, rfl, rfl, rfl, rfl, rfl, fun hl => if_neg (ne_true_of_eq_false hl)⟩,
    rejectCand_eq hr c why⟩, fun sched p c s hrun hl => ?linked, fun sched s hrun hl => ?pool,
    fun p i ident r c s hrun hr hc hs hv ha => ?verify, fun p i r c s hrun hr hc hs => ?aligned,
    fun p i r c s hrun hr hc hs => ⟨exec_candReady hrun hr hc hs, exec_candReady_waits hrun hr hc hs⟩,
    fun p i r c s hrun hr hc hs => ?fine, peakOk_iff, fun p i r c s hr hc => ?expiry,
    fun p i ident sched s hd => ?down⟩
  case linked =>
    rw [exec_candWarm hrun]
    exact congrArg Host.Outcome.next (onChip_congr (candWarm_linked sched hl))
  case pool =>
    have warms {g : Chip → Chip} (h : poolWarm s.chip sched = g s.chip) : exec (.candWarm sched) s = .next (onChip g s) :=
      (exec_candWarm hrun).trans (congrArg Host.Outcome.next (onChip_congr ((candWarm_pool sched hl).trans h)))
    refine ⟨fun hn => warms (g := fun x => x) (poolWarm_nobody hn), fun p c hn hf ht => warms (g := fun x => x) ?_,
      fun p c hn hf ht => warms ?_, fun p c n l hn hf hm => warms (poolWarm_tuned hn hf hm),
      fun p c n l k m hn hf hm hk => warms (poolWarm_attached hn hf hm hk)⟩
    · rw [poolWarm_no_lane hn hf, noLane, if_pos ht]
    · rw [poolWarm_no_lane hn hf, noLane, if_neg (ne_true_of_eq_false ht)]
  case verify =>
    rw [exec_candVerify ident hrun hr hc hs hv ha]
    refine ⟨fun hi => ?_, fun hi => congrArg Host.Outcome.next (onChip_congr (candVerify_other hi))⟩
    have hstate : (if c.state = 2 then 3 else c.state) = if c.state = 2 then 3 else 4 := by
      rcases hs with h | h <;> simp [h]
    refine congrArg Host.Outcome.next (onChip_congr ((candVerify_confirmed hr hi).trans ?_))
    rw [hstate, idx_of_candOf hc]
  case aligned =>
    rw [exec_candAligned hrun hr hc hs]
    refine congrArg Host.Outcome.next (onChip_congr ((candAlign_eq hr c _).trans ?_))
    rw [takeOffset_eq hr (c := measuredCand r c _) rfl]
    rfl
  case fine =>
    rw [exec_fineAlign hrun hr hc hs]
    refine ⟨fun f hf hi => congrArg Host.Outcome.next (onChip_congr (fineAlign_fading hr _ hf hi)),
      fun hf => congrArg Host.Outcome.next (onChip_congr ((fineAlign_alone hr _ hf).trans ?_))⟩
    rw [takeOffset_eq hr rfl]
    rfl
  case expiry =>
    rw [exec_rejectExpiry hr hc]
    refine ⟨fun hs hw => congrArg Host.Outcome.next (if_pos ⟨hs, hw⟩), fun h => congrArg Host.Outcome.next (if_neg ?_)⟩
    rintro ⟨hs, hw⟩
    rcases h with h | ⟨h3, hl⟩
    · exact h hs
    · exact hw.elim (· h3) (· hl)
  case down =>
    have stays {states : List Nat} {f : Chip → Follow → Cand → Chip} : onCand p i states f s = s := onCand_down hd
    exact ⟨congrArg Host.Outcome.next (if_neg (ne_true_of_eq_false hd)), congrArg Host.Outcome.next stays,
      congrArg Host.Outcome.next stays, congrArg Host.Outcome.next stays, congrArg Host.Outcome.next stays⟩

end Sys2Proof.Machine
end

section
/-! Decisions (R184, R185, R189): the best READY candidate, when a programme's evaluation decides, and what a decision leaves. -/
namespace Sys2Proof.Machine

variable {x : Chip} {p : Nat} {r : Follow} {c : Cand}

/-! The READY candidate of highest E (R184). -/

/-- Candidate c comes before d in a decision: its E is higher, or equal and its index not above. -/
def Outranks (x : Chip) (r : Follow) (c d : Cand) : Prop :=
  effScore x r d.lane < effScore x r c.lane ∨ (effScore x r d.lane = effScore x r c.lane ∧ c.idx ≤ d.idx)

theorem Outranks.refl (x : Chip) (r : Follow) (c : Cand) : Outranks x r c c := .inr ⟨rfl, Nat.le_refl _⟩

theorem Outranks.trans {d e : Cand} (h1 : Outranks x r c d) (h2 : Outranks x r d e) : Outranks x r c e := by
  unfold Outranks at *
  omega

/-- The best candidate so far and one more. -/
def betterReady (x : Chip) (r : Follow) (a : Option Cand) (c : Cand) : Option Cand :=
  match a with
  | none => some c
  | some b =>
    if effScore x r b.lane < effScore x r c.lane ∨ (effScore x r b.lane = effScore x r c.lane ∧ c.idx < b.idx) then some c
    else some b

theorem bestReady_eq (x : Chip) (r : Follow) :
    bestReady x r = (r.cands.filter fun c => c.state == caReady).foldl (betterReady x r) none := rfl

/-- Of the best so far and one more, one comes before both. -/
theorem betterReady_spec (x : Chip) (r : Follow) (a : Option Cand) (e : Cand) : ∃ b, betterReady x r a e = some b ∧
    (b = e ∨ a = some b) ∧ Outranks x r b e ∧ ∀ d, a = some d → Outranks x r b d := by
  cases a with
  | none => exact ⟨e, rfl, .inl rfl, .refl x r e, fun d hd => absurd hd (by simp)⟩
  | some b =>
    by_cases h : effScore x r b.lane < effScore x r e.lane ∨ (effScore x r b.lane = effScore x r e.lane ∧ e.idx < b.idx)
    · exact ⟨e, if_pos h, .inl rfl, .refl x r e, fun d hd => Option.some.inj hd ▸ h.imp_right (And.imp_right Nat.le_of_lt)⟩
    · refine ⟨b, if_neg h, .inr rfl, ?_, fun d hd => Option.some.inj hd ▸ .refl x r b⟩
      unfold Outranks
      omega

theorem foldl_betterReady (l : List Cand) : ∀ a, l.foldl (betterReady x r) a = some c →
    (c ∈ l ∨ a = some c) ∧ (∀ d ∈ l, Outranks x r c d) ∧ ∀ d, a = some d → Outranks x r c d := by
  induction l with
  | nil => exact fun a h => ⟨.inr h, by simp, fun d hd => Option.some.inj (hd.symm.trans h) ▸ .refl x r d⟩
  | cons e l ih =>
    intro a h
    obtain ⟨b, hb, hfrom, hbe, hba⟩ := betterReady_spec x r a e
    rw [List.foldl_cons, hb] at h
    obtain ⟨hmem, hall, hacc⟩ := ih _ h
    have hcb : Outranks x r c b := hacc b rfl
    refine ⟨?_, fun d hd => ?_, fun d hd => hcb.trans (hba d hd)⟩
    · rcases hmem with hin | hin
      · exact .inl (List.mem_cons_of_mem _ hin)
      · obtain rfl := Option.some.inj hin
        exact hfrom.imp_left fun he => List.mem_cons.2 (.inl he)
    · rcases List.mem_cons.1 hd with rfl | hd
      · exact hcb.trans hbe
      · exact hall d hd

theorem bestReady_spec (h : bestReady x r = some c) :
    c ∈ r.cands ∧ c.state = 5 ∧ ∀ d ∈ r.cands, d.state = 5 → Outranks x r c d := by
  obtain ⟨hmem, hall, -⟩ := foldl_betterReady _ none (bestReady_eq x r ▸ h)
  obtain ⟨hin, hs⟩ := List.mem_filter.1 (hmem.resolve_right (by simp))
  exact ⟨hin, beq_iff_eq.1 hs, fun d hd hds => hall d (List.mem_filter.2 ⟨hd, beq_iff_eq.2 hds⟩)⟩

/-! The evaluation of a programme (R184, R187). -/

/-- The READY candidate that FOLLOW_FORCE named while a migration ran. -/
def forcedCand (r : Follow) : Option Cand := r.due.bind fun i => (candOf r i).filter fun c => c.state == 5

theorem evaluate_held (h : followOf x p = some r) (hf : r.fading ≠ none ∨ laneHeld x p = true) : evaluate x p = x := by
  rw [evaluate, h]
  exact if_pos (by simpa [Option.isSome_iff_ne_none] using hf)

theorem evaluate_open (h : followOf x p = some r) (hf : r.fading = none) (hl : laneHeld x p = false) : evaluate x p =
    match forcedCand r, bestReady x r with
    | some c, _ => decideFor x p r c 2
    | none, none => setFollow x p { r with due := none }
    | none, some c =>
      if failing x p then byLane p (fun y => decideFor y p r c 1) x
      else if r.policy / 128 % 2 = 1 ∧ guardOver x r = true ∧ (r.margin : Int) ≤ effScore x r c.lane - effScore x r p then
        decideFor x p r c 0
      else setFollow x p { r with due := none } := by
  rw [evaluate, h]
  exact if_neg (by simp [hf, hl])

theorem evaluate_forced (h : followOf x p = some r) (hf : r.fading = none) (hl : laneHeld x p = false)
    (hd : forcedCand r = some c) : evaluate x p = decideFor x p r c 2 := by
  rw [evaluate_open h hf hl, hd]

theorem evaluate_nobody (h : followOf x p = some r) (hf : r.fading = none) (hl : laneHeld x p = false)
    (hd : forcedCand r = none) (hb : bestReady x r = none) : evaluate x p = setFollow x p { r with due := none } := by
  rw [evaluate_open h hf hl, hd, hb]

theorem evaluate_best (h : followOf x p = some r) (hf : r.fading = none) (hl : laneHeld x p = false)
    (hd : forcedCand r = none) (hb : bestReady x r = some c) : evaluate x p =
      if failing x p then byLane p (fun y => decideFor y p r c 1) x
      else if r.policy / 128 % 2 = 1 ∧ guardOver x r = true ∧ (r.margin : Int) ≤ effScore x r c.lane - effScore x r p then
        decideFor x p r c 0
      else setFollow x p { r with due := none } := by
  rw [evaluate_open h hf hl, hd, hb]

theorem exec_handoverDecide {s : State} {quals : List (Nat × Word)} (hrun : rfRuns s.chip = true) :
    exec (.handoverDecide p quals) s = .next (onChip (fun x => evaluate (setQuals x quals) p) s) :=
  congrArg Host.Outcome.next (if_pos hrun)

/-! A decision (R185, R189). -/

/-- What shows a lane's part in a handover. -/
def busyFields (n : Nat) (peer : Option Nat) : List (Fld × Nat) :=
  [(F.LANE_TANDEM_busy n, peer.isSome.toNat), (F.LANE_TANDEM_peer n, peer.getD 0x7F)]

theorem setBusy_eq (x : Chip) (n : Nat) (peer : Option Nat) : setBusy x n peer = fsets x (busyFields n peer) := rfl

theorem busyFields_apart (n : Nat) (peer : Option Nat) : (busyFields n peer).Pairwise fun e g => e.1.Apart g.1 := by
  simp [busyFields, Fld.Apart, F.LANE_TANDEM_busy, F.LANE_TANDEM_peer]

theorem onlyRegs_setBusy (x : Chip) (n : Nat) (peer : Option Nat) : OnlyRegs [R.LANE_TANDEM n] x (setBusy x n peer) :=
  onlyRegs_fsets x (by simp [F.LANE_TANDEM_busy, F.LANE_TANDEM_peer])

theorem fget_setBusy_busy (x : Chip) (n k : Nat) : fget (setBusy x n (some k)) (F.LANE_TANDEM_busy n) = 1 :=
  fget_fsets_mem (v := 1) (by simp [F.LANE_TANDEM_busy]) (busyFields_apart n (some k)) x (by simp [busyFields])

theorem fget_setBusy_peer (x : Chip) (n : Nat) {k : Nat} (hk : k < 104) :
    fget (setBusy x n (some k)) (F.LANE_TANDEM_peer n) = k :=
  (fget_fsets_mem (v := k) (by simp [F.LANE_TANDEM_peer]) (busyFields_apart n (some k)) x (by simp [busyFields])).trans
    (Nat.mod_eq_of_lt (by simp only [F.LANE_TANDEM_peer]; omega))

theorem laneTandem_not_log (n : Nat) : R.LANE_TANDEM n ∉ logRegs := by
  simp only [logRegs, R.LANE_TANDEM, R.MGMT_LOG_WR, R.MGMT_LOG_LOST, R.MGMT_FAULT_STATUS, R.MGMT_INT_CAUSE, List.mem_cons,
    List.not_mem_nil, or_false]
  omega

theorem laneTandem_ne {n k : Nat} (h : n ≠ k) : R.LANE_TANDEM n ∉ [R.LANE_TANDEM k] := by
  simp only [R.LANE_TANDEM, List.mem_singleton]
  omega

theorem followOf_onlyRegsLog {l : List Nat} {y : Chip} (h : OnlyRegsLog l x y) (p : Nat) : followOf y p = followOf x p := by
  rw [h.1]
  rfl

/-- The record of a programme for which a candidate has been decided. -/
def decidedFollow (x : Chip) (r : Follow) (c : Cand) (cause : Nat) : Follow :=
  { putCand { r with due := none } { c with state := 6 } with fading := some ⟨c.idx, cause, x.tm.stime, none⟩ }

/-- A programme's record and both lanes taken up by a decision, before its event. -/
def decided (x : Chip) (p : Nat) (r : Follow) (c : Cand) (cause : Nat) : Chip :=
  setBusy (setBusy (setFollow x p (decidedFollow x r c cause)) p (some c.lane)) c.lane (some p)

theorem decideFor_eq (x : Chip) (p : Nat) (r : Follow) (c : Cand) (cause : Nat) : decideFor x p r c cause =
    raise (decided x p r c cause) srcMgmt 0x46
      (b1 p ++ b1 c.idx ++ i2 (effScore x r p) ++ i2 (effScore x r c.lane) ++ b1 cause) := rfl

theorem fget_decideFor (x : Chip) (r : Follow) (c : Cand) (cause : Nat) {n : Nat} {f : Fld} (h : f.addr = R.LANE_TANDEM n) :
    fget (decideFor x p r c cause) f = fget (decided x p r c cause) f := by
  rw [decideFor_eq]
  exact fget_raise _ _ _ _ _ (h ▸ laneTandem_not_log n)

/-- The second lane's part leaves what the first one shows. -/
theorem fget_decided_primary (x : Chip) (r : Follow) (cause : Nat) (hne : p ≠ c.lane) {f : Fld} (h : f.addr = R.LANE_TANDEM p) :
    fget (decided x p r c cause) f = fget (setBusy (setFollow x p (decidedFollow x r c cause)) p (some c.lane)) f :=
  fget_onlyRegs (onlyRegs_setBusy _ _ _) (h ▸ laneTandem_ne hne)

theorem onlyRegs_decided (x : Chip) (p : Nat) (r : Follow) (c : Cand) (cause : Nat) :
    OnlyRegs [R.LANE_TANDEM p, R.LANE_TANDEM c.lane] (setFollow x p (decidedFollow x r c cause)) (decided x p r c cause) :=
  onlyRegs_trans (onlyRegs_mono (by simp) (onlyRegs_setBusy _ _ _)) (onlyRegs_mono (by simp) (onlyRegs_setBusy _ _ _))

theorem followOf_decideFor (x : Chip) (p : Nat) (r : Follow) (c : Cand) (cause : Nat) :
    followOf (decideFor x p r c cause) p = some (decidedFollow x r c cause) := by
  have hall := onlyRegs_then_log (onlyRegs_decided x p r c cause) (onlyRegsLog_raise _ _ srcMgmt 0x46
    (b1 p ++ b1 c.idx ++ i2 (effScore x r p) ++ i2 (effScore x r c.lane) ++ b1 cause))
  rw [decideFor_eq, followOf_onlyRegsLog hall, followOf_setFollow_same]

theorem nextSeq_decideFor (x : Chip) (p : Nat) (r : Follow) (c : Cand) (cause : Nat) :
    nextSeq (decideFor x p r c cause) srcMgmt = nextSeq x srcMgmt + 1 := by
  rw [decideFor_eq, nextSeq_raise_same, nextSeq_onlyRegs (onlyRegs_decided x p r c cause)]
  rfl

end Sys2Proof.Machine
end

section
/-! Handovers, owned leads and scans (R178, R179, R186, R187, R205): a fade that ends or is reversed, held values that move, a
channel measured, and the statement about them. -/
namespace Sys2Proof.Machine

variable {x : Chip} {s : State} {p n : Nat} {r : Follow} {f : Fade} {c : Cand}

/-! What a command does to a programme's fade. -/

/-- A change for a programme during a fade, given its record, its fade and the candidate. -/
def duringFade (p : Nat) (g : Follow → Fade → Cand → Chip → Chip) (s : State) : State :=
  match followOf s.chip p with
  | none => s
  | some r => match r.fading with
    | none => s
    | some f => match candOf r f.idx with
      | some c => onChip (g r f c) s
      | none => s

theorem exec_handoverDone (p stamp : Nat) (s : State) :
    exec (.handoverDone p stamp) s = .next (duringFade p (fun r f c x => handoverDone x p r f c stamp) s) := rfl

theorem exec_handoverAbort (p reason : Nat) (s : State) :
    exec (.handoverAbort p reason) s = .next (duringFade p (fun r f c x => handoverAbort x p r f c (min reason 1)) s) := rfl

theorem duringFade_acts (g : Follow → Fade → Cand → Chip → Chip) (hr : followOf s.chip p = some r) (hf : r.fading = some f)
    (hc : candOf r f.idx = some c) : duringFade p g s = onChip (g r f c) s := by
  rw [duringFade, hr]
  dsimp only
  rw [hf]
  dsimp only
  rw [hc]

theorem duringFade_idle (g : Follow → Fade → Cand → Chip → Chip) (h : ∀ r, followOf s.chip p = some r → r.fading = none) :
    duringFade p g s = s := by
  rw [duringFade]
  cases hr : followOf s.chip p with
  | none => rfl
  | some r =>
    dsimp only
    rw [h r hr]

/-! HANDOVER_DONE (R17, R186, R187). -/

/-- A record handed over to a candidate's lane: its line and gain in force, the other candidates measured from it. -/
def handedOver (x : Chip) (p : Nat) (r : Follow) (f : Fade) (c : Cand) : Follow :=
  { r with
    cands := (r.cands.filter fun d => d.idx != c.idx).map fun d => { d with delta := d.delta.map fun v => v - c.delta.getD 0 }
    lineNow := r.lineNow - c.delta.getD 0
    gain := c.gain
    handovers := r.handovers + 1
    lastDone := some x.tm.ticks
    fading := none
    past := some ⟨p, r.gain, behindOf x r p r.lineNow, r.lineNow != 0, f.began, f.began + BitVec.ofNat 64 (2048 * r.fade)⟩ }

/-- What a programme leaves to its new lane: bindings, the handover record, its own record gone from the old lane. -/
def programmeMoved (p : Nat) (r : Follow) (c : Cand) (stamp : Nat) (z : Chip) : Chip :=
  setBusy (setBusy (publish (moveBindings { z with follows := smErase p z.follows } p c.lane) c.lane 0x0501
    (handoverRecord p c.lane c.source c.mode c.freq c.ident (lineOf r c) c.gain) stamp) p none) c.lane none

theorem handoverDone_stays (stamp : Nat) (he : f.endReason = none) : handoverDone x p r f c stamp =
    after srcMgmt (fun y => swapLanes y p c (handedOver x p r f c))
      (setCause (raise (moveCaptured p c.lane (programmeMoved p r c stamp) x) srcMgmt 0x47
        (b1 p ++ b1 c.lane ++ leInt 4 (lineOf r c))) .follow) := by
  rw [handoverDone, he]
  rfl

theorem moveCaptured_held {old new : Nat} (g : Chip → Chip) (h : fon x (F.LANE_CTRL_held old) = true) :
    moveCaptured old new g x = fset (fset { g (dropCaptured x old) with
      captured := ((ofLane x.captured old).map fun e => (e.1 - laneBase old + laneBase new, e.2)).foldl
        (fun a e => smInsert e.1 e.2 a) (g (dropCaptured x old)).captured } (F.LANE_CTRL_apply new) 1) (F.LANE_CTRL_held new) 0 :=
  if_pos h

/-! HANDOVER_ABORT (R187). -/

/-- A record whose fade turns back: at the same rate, from the weight that it has reached. -/
def reversedFollow (x : Chip) (r : Follow) (f : Fade) (c : Cand) : Follow :=
  { r with
    fading := none
    undo := some ⟨c.idx, c.lane, c.gain, behindOf x r c.lane (lineOf r c), lineOf r c != 0, f.began, x.tm.stime,
      x.tm.stime + BitVec.ofNat 64 (min (2048 * r.fade) (x.tm.stime - f.began).toInt.toNat)⟩ }

/-- The event of a reversal. -/
def tellAbort (p : Nat) (c : Cand) (reason : Nat) (y : Chip) : Chip :=
  setCause (raise y srcMgmt 0x48 (b1 p ++ b1 c.idx ++ b1 reason)) .follow

/-- The chip with a fade turned back, its lanes and their held values free. -/
def fadeReversed (x : Chip) (p : Nat) (r : Follow) (f : Fade) (c : Cand) : Chip :=
  releaseHeld (releaseHeld (setBusy (setBusy (setFollow x p (reversedFollow x r f c)) p none) c.lane none) p) c.lane

theorem handoverAbort_stays (reason : Nat) (he : f.endReason = none) : handoverAbort x p r f c reason =
    markRejected (if reason = 0 then byLane c.lane (tellAbort p c reason) (fadeReversed x p r f c)
      else tellAbort p c reason (fadeReversed x p r f c)) p c (if reason = 0 then 1 else 2) := by
  rw [handoverAbort, he]
  rfl

/-! FOLLOW_LEAD_RETURN (R178). -/

theorem exec_followLeadReturn (ho : n ∈ s.chip.ownedLeads) (hv : servicesOf s.chip n = []) : exec (.followLeadReturn n) s =
    .next (onChip (fun x => toPool { x with ownedLeads := x.ownedLeads.erase n } n) s) :=
  congrArg Host.Outcome.next (if_pos ⟨ho, List.isEmpty_iff.2 hv⟩)

theorem exec_followLeadReturn_kept (h : n ∉ s.chip.ownedLeads ∨ servicesOf s.chip n ≠ []) :
    exec (.followLeadReturn n) s = .next s :=
  congrArg Host.Outcome.next (if_neg fun ⟨ho, hv⟩ => h.elim (· ho) (· (List.isEmpty_iff.1 hv)))

/-! SCAN_RECORD (R58, R179, R205). -/

theorem exec_scanRecord {o : ScanObs} (hn : n < 104) (hstd : stdOf s.chip n = 7) (hl : (laneOf s.chip n).live = true)
    (ht : o.touched = false) : exec (.scanRecord n o) s = .next (onChip (fun x => scanRecord x n o) s) :=
  congrArg Host.Outcome.next (if_pos ⟨hn, hstd, hl, ht⟩)

theorem exec_scanRecord_not_taken {o : ScanObs}
    (h : 104 ≤ n ∨ stdOf s.chip n ≠ 7 ∨ (laneOf s.chip n).live = false ∨ o.touched = true) :
    exec (.scanRecord n o) s = .next s := by
  refine congrArg Host.Outcome.next (if_neg ?_)
  rintro ⟨hn, hstd, hl, ht⟩
  rcases h with h | h | h | h
  · exact absurd hn (Nat.not_lt.2 h)
  · exact h hstd
  · simp [hl] at h
  · simp [ht] at h

theorem scanList_off {opt : Nat} (h : opt % 2 = 0) : scanList opt = false := by simp [scanList, h]

theorem scanList_on {opt : Nat} (h : opt % 2 = 1) : scanList opt = true := by simp [scanList, h]

/-- A channel measured and published, its figures shown. -/
def scanMeasured (x : Chip) (n freq : Nat) (o : ScanObs) : Chip :=
  scanQual (publish (scanMove x n freq) n 0x0401 (scanBytes (cfgOf x n) (fget x (F.SCAN_idx n)) freq o) o.stamp) n freq o

/-- The channel of a band sweep after the one in force. -/
def nextChannel (opt idx : Nat) : Nat := if (scanBand opt).1 ≤ idx + 1 then 0 else idx + 1

/-- A band sweep moves on to its next channel, and counts where that is the first again. -/
theorem scanRecord_sweep {o : ScanObs} (h : (cfgOf x n).opt % 2 = 0) : scanRecord x n o =
    let opt := (cfgOf x n).opt
    let idx := fget x (F.SCAN_idx n)
    let next := nextChannel opt idx
    let y := fset (scanMove (scanMeasured x n (scanFreq opt idx) o) n (scanFreq opt next)) (F.SCAN_idx n) next
    if next = 0 then fset y (F.SCAN_sweeps n) ((fget y (F.SCAN_sweeps n) + 1) % 0x8000) else y := by
  simp only [scanRecord, scanList_off h, Bool.false_eq_true, if_false, scanMeasured, nextChannel]
  cases o.cand <;> rfl

/-- A list sweep that goes on notes the candidate measured and moves on the index. -/
theorem scanRecord_list {o : ScanObs} (h : (cfgOf x n).opt % 2 = 1) (hl : o.last = false) : scanRecord x n o =
    let y := scanMeasured x n o.freq o
    fset (match o.cand with
      | some (p, i) => scanSwept (scanCand y p i o) n p
      | none => y) (F.SCAN_idx n) (fget x (F.SCAN_idx n) + 1) := by
  cases hc : o.cand <;>
    simp only [scanRecord, hc, scanList_on h, hl, if_true, Bool.false_eq_true, if_false, Nat.succ_ne_zero, scanMeasured]

/-- Settles O45: decisions by the programme's evaluation, fades that end or turn back, leads and channels. -/
theorem followHandoverCommands : Obligations.FollowHandoverCommands := by
  unfold Obligations.FollowHandoverCommands
  refine ⟨fun x r c => bestReady_spec, fun p quals r s hrun => ?decide,
    fun x p r c cause hp hc hne => ?decided, fun p stamp r f c s hr hf hc he => ?done,
    fun old new g x => moveCaptured_held g, fun p reason r f c s hr hf hc he => ?abort,
    fun p reason stamp s h => ?idle,
    fun n s => ⟨exec_followLeadReturn, exec_followLeadReturn_kept⟩,
    fun n o s hn hstd hl ht ho => ?sweep, fun n o s hn hstd hl ht ho hlast => ?list, fun n o s => exec_scanRecord_not_taken⟩
  case decide =>
    intro x hr forced rest
    have evaluates {y : Chip} (h : evaluate x p = y) : exec (.handoverDecide p quals) s = .next (onChip (fun _ => y) s) :=
      (exec_handoverDecide hrun).trans (congrArg Host.Outcome.next (onChip_congr h))
    refine ⟨fun h => evaluates (evaluate_held hr h), fun c hf hl hd => evaluates (evaluate_forced hr hf hl hd),
      fun hf hl hd hb => evaluates (evaluate_nobody hr hf hl hd hb), fun c hf hl hd hb => ?_⟩
    have best := evaluate_best hr hf hl hd hb
    refine ⟨fun hx => evaluates (best.trans (if_pos hx)), fun hx hauto hg hm => ?_, fun hx hno => ?_⟩
    · rw [if_neg (ne_true_of_eq_false hx), if_pos ⟨hauto, hg, hm⟩] at best
      exact evaluates best
    · have hnot : ¬(r.policy / 128 % 2 = 1 ∧ guardOver x r = true ∧
          (r.margin : Int) ≤ effScore x r c.lane - effScore x r p) := by
        rintro ⟨hauto, hg, hm⟩
        rcases hno with h | h | h
        · exact h hauto
        · exact ne_true_of_eq_false h hg
        · exact absurd hm (Int.not_le.2 h)
      rw [if_neg (ne_true_of_eq_false hx), if_neg hnot] at best
      exact evaluates best
  case decided =>
    refine ⟨?_, ?_, ?_, ?_, followOf_decideFor .., nextSeq_decideFor ..⟩
    · rw [fget_decideFor (n := p) _ _ _ _ rfl, fget_decided_primary _ _ _ hne rfl, fget_setBusy_busy]
    · rw [fget_decideFor (n := p) _ _ _ _ rfl, fget_decided_primary _ _ _ hne rfl, fget_setBusy_peer _ _ hc]
    · rw [fget_decideFor (n := c.lane) _ _ _ _ rfl, decided, fget_setBusy_busy]
    · rw [fget_decideFor (n := c.lane) _ _ _ _ rfl, decided, fget_setBusy_peer _ _ hp]
  case done =>
    rw [exec_handoverDone, duringFade_acts _ hr hf hc]
    exact congrArg Host.Outcome.next (onChip_congr (handoverDone_stays stamp he))
  case abort =>
    rw [exec_handoverAbort, duringFade_acts _ hr hf hc]
    have hzero : min reason 1 = 0 ↔ reason = 0 := by omega
    refine congrArg Host.Outcome.next (onChip_congr ((handoverAbort_stays _ he).trans ?_))
    simp only [hzero]
    rfl
  case idle =>
    rw [exec_handoverDone, exec_handoverAbort, duringFade_idle _ h, duringFade_idle _ h]
    exact ⟨rfl, rfl⟩
  case sweep =>
    rw [exec_scanRecord hn hstd hl ht]
    exact congrArg Host.Outcome.next (onChip_congr (scanRecord_sweep ho))
  case list =>
    rw [exec_scanRecord hn hstd hl ht]
    refine congrArg Host.Outcome.next (onChip_congr ((scanRecord_list ho hlast).trans ?_))
    rfl

end Sys2Proof.Machine
end

section
/-! What a carriage holds (R191, R192, R216): where its registers lie, its memory beside that of the others, its state, and the frame of
what is done to some carriages alone. -/
namespace Sys2Proof.Machine

variable {x y z : Chip} {c k : Nat} {l : List Nat}

/-! Registers of carriages. -/

theorem carrCfg_not_log (c : Nat) : R.CARR_CFG c ∉ logRegs := by
  simp only [logRegs, R.CARR_CFG, R.MGMT_LOG_WR, R.MGMT_LOG_LOST, R.MGMT_FAULT_STATUS, R.MGMT_INT_CAUSE, List.mem_cons,
    List.not_mem_nil, or_false]
  omega

theorem carrSrc_not_log (c : Nat) : R.CARR_SRC c ∉ logRegs := by
  simp only [logRegs, R.CARR_SRC, R.MGMT_LOG_WR, R.MGMT_LOG_LOST, R.MGMT_FAULT_STATUS, R.MGMT_INT_CAUSE, List.mem_cons,
    List.not_mem_nil, or_false]
  omega

theorem carrCfg_ne_src (c k : Nat) : R.CARR_CFG c ≠ R.CARR_SRC k := by
  simp only [R.CARR_CFG, R.CARR_SRC]
  omega

theorem carrCfg_ne_drop (c k : Nat) : R.CARR_CFG c ≠ R.CARR_DROP k := by
  simp only [R.CARR_CFG, R.CARR_DROP]
  omega

theorem carrCfg_notMem (h : c ∉ l) : R.CARR_CFG c ∉ l.map R.CARR_CFG := by
  rintro hm
  obtain ⟨k, hk, he⟩ := List.mem_map.1 hm
  simp only [R.CARR_CFG] at he
  obtain rfl : k = c := by omega
  exact h hk

/-- The registers below the log's, those of roles and power states among them, belong to no carriage. -/
theorem low_notMem {b : Nat} (h : b < 0x728) : b ∉ l.map R.CARR_CFG := by
  rintro hm
  obtain ⟨k, -, he⟩ := List.mem_map.1 hm
  simp only [R.CARR_CFG] at he
  omega

/-! Memory of carriages. -/

@[simp] theorem carrOf_setCarr_same (x : Chip) (c : Nat) (r : CarrRt) : carrOf (setCarr x c r) c = r := smGet_smPut_same ..

theorem carrOf_setCarr_ne (x : Chip) (r : CarrRt) (h : k ≠ c) : carrOf (setCarr x c r) k = carrOf x k := smGet_smPut_ne _ _ _ _ _ h

@[simp] theorem nextSeq_setCarr (x : Chip) (c : Nat) (r : CarrRt) (src : Nat) : nextSeq (setCarr x c r) src = nextSeq x src := rfl

theorem carrOf_congr (h : y.carr = x.carr) (k : Nat) : carrOf y k = carrOf x k := congrArg (smGet carrReset · k) h

@[simp] theorem carrOf_setCause (x : Chip) (i : IntCause) (k : Nat) : carrOf (setCause x i) k = carrOf x k := rfl

@[simp] theorem carrOf_refreshState (x : Chip) (c k : Nat) : carrOf (refreshState x c) k = carrOf x k := rfl

@[simp] theorem carrOf_fsets (x : Chip) (m : List (Fld × Nat)) (k : Nat) : carrOf (fsets x m) k = carrOf x k :=
  carrOf_congr (by rw [fsets_rest]) k

@[simp] theorem carrOf_raise (x : Chip) (src code : Nat) (args : List Byte) (k : Nat) :
    carrOf (raise x src code args) k = carrOf x k := carrOf_congr (by rw [raise_rest]) k

@[simp] theorem carrOf_count (x : Chip) (a : Nat) (w : Fld) (n k : Nat) : carrOf (count x a w n) k = carrOf x k :=
  carrOf_congr (by rw [count_rest]) k

/-! The state of a carriage (R216). -/

theorem fget_raise_carr (x : Chip) (src code : Nat) (args : List Byte) {f : Fld} (h : f.addr = R.CARR_CFG c) :
    fget (raise x src code args) f = fget x f := fget_raise x src code args f (h ▸ carrCfg_not_log c)

theorem fget_setCause_carr (x : Chip) (i : IntCause) {f : Fld} (h : f.addr = R.CARR_CFG c) :
    fget (setCause x i) f = fget x f :=
  congrArg (getBits · f.lo f.width) (rd_fset_ne _ _ _ _ fun e => carrCfg_not_log c (by
    rw [← h, e, intCause_addr]
    simp [logRegs]))

@[simp] theorem carrState_raise (x : Chip) (src code : Nat) (args : List Byte) (c : Nat) :
    carrState (raise x src code args) c = carrState x c := fget_raise_carr (c := c) _ _ _ _ rfl

@[simp] theorem carrState_setCause (x : Chip) (i : IntCause) (c : Nat) : carrState (setCause x i) c = carrState x c :=
  fget_setCause_carr (c := c) _ _ rfl

@[simp] theorem carrState_setCarr (x : Chip) (c : Nat) (r : CarrRt) (k : Nat) : carrState (setCarr x c r) k = carrState x k := rfl

theorem ownState_lt (x : Chip) (c : Nat) : ownState x c < 4 := by
  unfold ownState
  repeat' split
  all_goals decide

/-- The state of a carriage is judged by the role, the ids that are held, its `en` and whether it is shed. -/
theorem ownState_congr (hrole : isHead y = isHead x) (hheld : y.heldMap = x.heldMap)
    (hen : fon y (F.CARR_CFG_en c) = fon x (F.CARR_CFG_en c)) (hshed : (carrOf y c).shed = (carrOf x c).shed) :
    ownState y c = ownState x c := by
  simp only [ownState, hrole, hheld, hen, hshed]

/-- A carriage that the foot reserves is held. -/
theorem ownState_held (hh : isHead x = true) (hm : c ∈ x.heldMap) : ownState x c = 3 := if_pos ⟨hh, hm⟩

theorem ownState_shed (hen : fon x (F.CARR_CFG_en c) = true) (hm : c ∉ x.heldMap) (hs : (carrOf x c).shed.isSome = true) :
    ownState x c = 2 := by
  simp [ownState, hm, hen, hs, csShed]

/-- A carriage that is shed does not run. -/
theorem ownState_ne_run (hs : (carrOf x c).shed.isSome = true) : ownState x c ≠ 1 := by
  unfold ownState
  rw [if_pos hs]
  repeat' split
  all_goals decide

/-- Bringing a carriage's state up to date shows it. -/
@[simp] theorem carrState_refreshState (x : Chip) (c : Nat) : carrState (refreshState x c) c = ownState x c :=
  (fget_fset_same x (F.CARR_CFG_state c) _ (by simp [F.CARR_CFG_state])).trans (Nat.mod_eq_of_lt (ownState_lt x c))

theorem fget_refreshState {f : Fld} (x : Chip) (c : Nat) (h32 : f.lo + f.width ≤ 32) (h : f.Apart (F.CARR_CFG_state c)) :
    fget (refreshState x c) f = fget x f := fget_fset_apart _ _ _ _ h32 h

/-! What is done to some carriages alone. -/

/-- Of a chip only registers, the event log and carriages' memory change: no register but the descriptors of some carriages and
those of the log, and the memory of no other carriage. -/
structure OnlyCarrs (l : List Nat) (x y : Chip) : Prop where
  rest : y = { x with regs := y.regs, lg := y.lg, carr := y.carr }
  regs : ∀ b, b ∉ logRegs → b ∉ l.map R.CARR_CFG → rd y b = rd x b
  others : ∀ k, k ∉ l → carrOf y k = carrOf x k

namespace OnlyCarrs

theorem refl (l : List Nat) (x : Chip) : OnlyCarrs l x x := ⟨rfl, fun _ _ _ => rfl, fun _ _ => rfl⟩

theorem trans (h1 : OnlyCarrs l x y) (h2 : OnlyCarrs l y z) : OnlyCarrs l x z := by
  refine ⟨h2.rest.trans ?_, fun b hb hl => (h2.regs b hb hl).trans (h1.regs b hb hl),
    fun k hk => (h2.others k hk).trans (h1.others k hk)⟩
  rw [h1.rest]

theorem mono {l' : List Nat} (hl : l ⊆ l') (h : OnlyCarrs l x y) : OnlyCarrs l' x y :=
  ⟨h.rest, fun b hb hm => h.regs b hb fun hm' => hm (List.map_subset _ hl hm'), fun k hk => h.others k fun hk' => hk (hl hk')⟩

theorem ite {p : Prop} [Decidable p] (hy : OnlyCarrs l x y) (hz : OnlyCarrs l x z) : OnlyCarrs l x (if p then y else z) := by
  split <;> assumption

theorem setCarr (x : Chip) (r : CarrRt) (hc : c ∈ l) : OnlyCarrs l x (setCarr x c r) :=
  ⟨rfl, fun _ _ _ => rfl, fun _ hk => carrOf_setCarr_ne x r fun e => hk (e ▸ hc)⟩

theorem refreshState (x : Chip) (hc : c ∈ l) : OnlyCarrs l x (refreshState x c) :=
  ⟨rfl, fun _ _ hb => rd_fset_ne _ _ _ _ fun e => hb (e ▸ List.mem_map_of_mem hc), fun _ _ => rfl⟩

theorem raise (l : List Nat) (x : Chip) (src code : Nat) (args : List Byte) : OnlyCarrs l x (raise x src code args) :=
  ⟨by rw [raise_rest], fun b hb _ => rd_raise x src code args b hb, fun k _ => carrOf_raise x src code args k⟩

theorem setCause (l : List Nat) (x : Chip) (i : IntCause) : OnlyCarrs l x (setCause x i) :=
  ⟨rfl, fun b hb _ => rd_fset_ne x i.fld 1 b fun e => hb (by rw [e, intCause_addr]; simp [logRegs]), fun _ _ => rfl⟩

theorem heldMap (h : OnlyCarrs l x y) : y.heldMap = x.heldMap := by rw [h.rest]

theorem rd_cfg (h : OnlyCarrs l x y) (hc : c ∉ l) : rd y (R.CARR_CFG c) = rd x (R.CARR_CFG c) :=
  h.regs _ (carrCfg_not_log c) (carrCfg_notMem hc)

theorem fget_cfg (h : OnlyCarrs l x y) (hc : c ∉ l) {f : Fld} (hf : f.addr = R.CARR_CFG c) : fget y f = fget x f :=
  congrArg (getBits · f.lo f.width) (hf ▸ h.rd_cfg hc)

theorem fget_low (h : OnlyCarrs l x y) {f : Fld} (hf : f.addr < 0x728) : fget y f = fget x f :=
  congrArg (getBits · f.lo f.width) (h.regs _ (not_logRegs_of_lt hf) (low_notMem hf))

theorem carrState (h : OnlyCarrs l x y) (hc : c ∉ l) : carrState y c = carrState x c := h.fget_cfg hc rfl

theorem role (h : OnlyCarrs l x y) : role y = role x := h.fget_low (by decide)

theorem isHead (h : OnlyCarrs l x y) : isHead y = isHead x := congrArg (· == 1) h.role

theorem isFoot (h : OnlyCarrs l x y) : isFoot y = isFoot x := congrArg (· == 2) h.role

theorem rfRuns (h : OnlyCarrs l x y) : rfRuns y = rfRuns x := by
  have hpw : y.pw = x.pw := by rw [h.rest]
  have hstate : pstate y = pstate x := h.fget_low (by decide)
  have hshed : fget y F.SUP_STATUS_shed = fget x F.SUP_STATUS_shed := h.fget_low (by decide)
  simp only [Machine.rfRuns, partRuns, Machine.shed, fon, hpw, hstate, hshed]

theorem ownState (h : OnlyCarrs l x y) (hc : c ∉ l) : ownState y c = ownState x c :=
  ownState_congr h.isHead h.heldMap (congrArg (· != 0) (h.fget_cfg hc rfl)) (congrArg CarrRt.shed (h.others c hc))

theorem inProgress (h : OnlyCarrs l x y) (hc : c ∉ l) : inProgress y c = inProgress x c := by
  have htype : carrType y c = carrType x c := h.fget_cfg hc rfl
  have horigin : fget y (F.CARR_CFG_origin c) = fget x (F.CARR_CFG_origin c) := h.fget_cfg hc rfl
  simp only [Machine.inProgress, carrLocal, fon, h.rfRuns, h.isFoot, h.carrState hc, htype, horigin, h.others c hc]

end OnlyCarrs

end Sys2Proof.Machine
end

section
/-! Descriptors (R191 to R193, R210, R213, R216): what an installed descriptor and a rejected one leave, why one is rejected, and the
statement about descriptors. -/
namespace Sys2Proof.Machine

variable {x : Chip} {c : Nat} {d : Word × Word} {s : State}

/-! Merged words. -/

theorem regRow_carrCfg (hc : c < 256) : regRow (R.CARR_CFG c) =
    some ⟨0x00, 0x00000000, 0xCFFFFCFF, 0x10000000, 0x20000000, .m, 0x0, .m⟩ := by
  have haddr : R.CARR_CFG c = 0x4000 + 0x10 * c := rfl
  have halign : R.CARR_CFG c % 4 = 0 := by omega
  have hlo : ¬ R.CARR_CFG c < 0x4000 := by omega
  have hhi : R.CARR_CFG c < 0x5000 := by omega
  have hoff : (R.CARR_CFG c - 0x4000) % 0x10 = 0 := by omega
  have hno : ∀ n ≤ 0x4000, ¬ R.CARR_CFG c < n := fun n hn => by omega
  simp [regRow, halign, hhi, hoff, hno, rowAt, carrRows]

/-- A field that the table has RW takes the written value. -/
theorem getBits_rwMerge {a lo width : Nat} {r : RegRow} (old v : Word) (hr : regRow a = some r) (h32 : lo + width ≤ 32)
    (hrw : ∀ i < width, r.rw.testBit (lo + i) = true) : getBits (rwMerge a old v) lo width = getBits v lo width := by
  apply Nat.eq_of_testBit_eq
  intro i
  rw [getBits_bit, getBits_bit]
  by_cases hi : i < width
  · rw [rwMerge_bit a old v r _ hr (by omega), if_pos (hrw i hi)]
  · simp [hi]

theorem getBits_one (w : Word) (i : Nat) : (getBits w i 1 != 0) = w.getLsbD i := by
  have hbit : (getBits w i 1).testBit 0 = w.getLsbD i := (getBits_bit w i 1 0).trans (by simp)
  rw [← hbit, Nat.testBit_zero]
  have hlt := getBits_lt w i 1
  interval_cases getBits w i 1 <;> rfl

/-! DESC_COMMIT and DESC_APPLY. -/

theorem exec_descCommit (hc : c < 256) (hm : mgmtUp s.chip = true) {g : Chip → Chip}
    (h : descCommit s.chip c = g s.chip) : exec (.descCommit c) s = .next (onChip g s) :=
  congrArg Host.Outcome.next ((if_pos ⟨hc, hm⟩).trans (onChip_congr h))

theorem exec_descCommit_foreign (h : carrMine s.chip c = false) : exec (.descCommit c) s = .next s := by
  refine congrArg Host.Outcome.next ?_
  split
  · exact onChip_congr (g := fun x => x) (if_pos h)
  · rfl

section
variable (hm : carrMine x c = true)
include hm

theorem descCommit_waiting (hd : (carrOf x c).due ≠ none) :
    descCommit x c = setCarr x c { carrOf x c with due := some (stagedDesc x c) } := by
  simp only [descCommit, hm, Bool.true_eq_false, if_false, Option.isSome_iff_ne_none.2 hd, if_true]

/-- With none waiting a commit rejects, waits or installs. -/
theorem descCommit_fresh (hd : (carrOf x c).due = none) : descCommit x c =
    if descReason x c (stagedDesc x c) ≠ 0 then descReject x c (descReason x c (stagedDesc x c))
    else if inProgress x c then fset (setCarr x c { carrOf x c with due := some (stagedDesc x c) }) (F.CARR_CFG_commit c) 1
    else descInstall x c (stagedDesc x c) := by
  simp only [descCommit, hm, hd, Bool.true_eq_false, if_false, Option.isSome_none, Bool.false_eq_true]

end

theorem exec_descApply_idle (h : (carrOf s.chip c).due = none) : exec (.descApply c) s = .next s := by
  show execDescApply c s = _
  rw [execDescApply, h]

theorem exec_descApply (hc : c < 256) (h : (carrOf s.chip c).due = some d) :
    exec (.descApply c) s = .next (onChip (fun x => descSettle x c d) s) := by
  show execDescApply c s = _
  rw [execDescApply, h]
  exact congrArg Host.Outcome.next (if_pos hc)

/-! A descriptor rejected (R193). -/

/-- What shows a rejection. -/
def rejectFields (c why : Nat) : List (Fld × Nat) :=
  [(F.CARR_CFG_commit c, 0), (F.CARR_CFG_rej c, 1), (F.CARR_SRC_why c, why)]

/-- A carriage with nothing waiting or staged and a rejection shown, before its event. -/
def rejected (x : Chip) (c why : Nat) : Chip :=
  fsets (setCarr (dropStaged x c) c { carrOf x c with due := none }) (rejectFields c why)

theorem descReject_eq (x : Chip) (c why : Nat) :
    descReject x c why = raise (rejected x c why) srcCarr 0x02 (b1 c ++ b1 why) := rfl

theorem fget_descReject {why v : Nat} {f : Fld} (h32 : f.lo + f.width ≤ 32) (hlog : f.addr ∉ logRegs)
    (hf : (f, v) ∈ rejectFields c why) (hv : v < 2 ^ f.width) : fget (descReject x c why) f = v := by
  have hapart : (rejectFields c why).Pairwise fun e g => e.1.Apart g.1 := by
    simp [rejectFields, Fld.Apart, F.CARR_CFG_commit, F.CARR_CFG_rej, F.CARR_SRC_why, carrCfg_ne_src]
  rw [descReject_eq, fget_raise _ _ _ _ _ hlog, rejected, fget_fsets_mem h32 hapart _ hf, Nat.mod_eq_of_lt hv]

theorem carrOf_descReject (x : Chip) (c why : Nat) : carrOf (descReject x c why) c = { carrOf x c with due := none } := by
  rw [descReject_eq, carrOf_raise, rejected, carrOf_fsets, carrOf_setCarr_same]

theorem staged_descReject (x : Chip) (c why : Nat) :
    (descReject x c why).staged = smErase (R.CARR_CFG c) (smErase (R.CARR_SRC c) x.staged) := by
  rw [descReject_eq, raise_rest, rejected, fsets_rest]
  rfl

theorem nextSeq_descReject (x : Chip) (c why : Nat) : nextSeq (descReject x c why) srcCarr = nextSeq x srcCarr + 1 := by
  rw [descReject_eq, nextSeq_raise_same, rejected, nextSeq, fsets_rest]
  rfl

theorem rd_descReject (x : Chip) (c why : Nat) {b : Nat} (hlog : b ∉ logRegs) (hcfg : b ≠ R.CARR_CFG c)
    (hsrc : b ≠ R.CARR_SRC c) : rd (descReject x c why) b = rd x b := by
  rw [descReject_eq, rd_raise _ _ _ _ _ hlog, rejected, rd_fsets_ne]
  · rfl
  · simp [rejectFields, F.CARR_CFG_commit, F.CARR_CFG_rej, F.CARR_SRC_why, hcfg, hsrc]

/-! A descriptor installed (R192, R210, R213, R216). -/

/-- The words of a descriptor in force, with no commit waiting. -/
def descWords (x : Chip) (c : Nat) (d : Word × Word) : Chip :=
  let y := wr x (R.CARR_CFG c) (rwMerge (R.CARR_CFG c) (rd x (R.CARR_CFG c)) d.1)
  fset (wr y (R.CARR_SRC c) (rwMerge (R.CARR_SRC c) (rd y (R.CARR_SRC c)) d.2)) (F.CARR_CFG_commit c) 0

/-- No longer staging a value changes what is staged alone. -/
theorem unstage_eq (x : Chip) (a : Nat) : ∃ m, unstage x a = { x with staged := m } := by
  unfold unstage
  split
  · split
    · exact ⟨_, rfl⟩
    · exact ⟨x.staged, rfl⟩
  · exact ⟨x.staged, rfl⟩

/-- The words of a descriptor in force, with what is lost by it counted. -/
def descCounted (x : Chip) (c : Nat) (d : Word × Word) (lost : Nat) : Chip :=
  if lost = 0 then descWords x c d else dropCount (descWords x c d) c lost

/-- An installation is the words in force, the count of what is lost, the carriage's memory with nothing waiting and `disc` due, its
state, and the event. -/
theorem descInstall_eq (x : Chip) (c : Nat) (d : Word × Word) : ∃ lost r staged idmap args, r.due = none ∧ r.disc = true ∧
    descInstall x c d = raise { refreshState (setCarr (descCounted x c d lost) c r) c with
      staged := staged, idmapDue := idmap } srcCarr 0x01 args := by
  unfold descInstall
  extract_lets r old origin en x1 x2 cut lost x3 x4 x5
  obtain ⟨m1, h1⟩ := unstage_eq (refreshState x3 c) (R.CARR_CFG c)
  obtain ⟨m2, h2⟩ := unstage_eq (unstage (refreshState x3 c) (R.CARR_CFG c)) (R.CARR_SRC c)
  have hx4 : x4 = { refreshState x3 c with staged := m2 } := h2.trans (by rw [h1])
  have hx5 : ∃ i, x5 = { refreshState x3 c with staged := m2, idmapDue := i } := by
    simp only [x5, hx4]
    split
    · exact ⟨true, rfl⟩
    · exact ⟨x3.idmapDue, rfl⟩
  obtain ⟨i, hi⟩ := hx5
  exact ⟨lost, _, m2, i, _, rfl, rfl, by rw [hi]; rfl⟩

/-- A field of `CARRc_CFG` that the table has RW, apart from `commit`, is the written one once the words are in force. -/
theorem fget_descCounted (hc : c < 256) (lost : Nat) {f : Fld} (haddr : f.addr = R.CARR_CFG c) (h32 : f.lo + f.width ≤ 32)
    (hcommit : f.Apart (F.CARR_CFG_commit c)) (hrw : ∀ i < f.width, Nat.testBit 0xCFFFFCFF (f.lo + i) = true) :
    fget (descCounted x c d lost) f = getBits d.1 f.lo f.width := by
  have hwords : fget (descWords x c d) f = getBits d.1 f.lo f.width := by
    rw [descWords, fget_fset_apart _ _ _ _ h32 hcommit, fget_wr_ne _ _ _ _ (haddr ▸ carrCfg_ne_src c c), fget, haddr, rd_wr_same]
    exact getBits_rwMerge _ _ (regRow_carrCfg hc) h32 hrw
  rw [← hwords, descCounted]
  split
  · rfl
  · rw [fget, fget, dropCount, haddr, rd_count_ne _ _ _ _ _ (carrCfg_ne_drop c c) (carrCfg_ne_src c c)]

theorem fget_descCounted_commit (lost : Nat) : fget (descCounted x c d lost) (F.CARR_CFG_commit c) = 0 := by
  have hwords : fget (descWords x c d) (F.CARR_CFG_commit c) = 0 := fget_fset_same _ _ _ (by simp [F.CARR_CFG_commit])
  rw [← hwords, descCounted]
  split
  · rfl
  · rw [fget, fget, dropCount]
    exact congrArg (getBits · 29 1) (rd_count_ne _ _ _ _ _ (carrCfg_ne_drop c c) (carrCfg_ne_src c c))

theorem nextSeq_descCounted (lost : Nat) : nextSeq (descCounted x c d lost) srcCarr = nextSeq x srcCarr := by
  rw [descCounted]
  split
  · rfl
  · rw [dropCount, nextSeq_count]
    rfl

/-- What an installed descriptor shows. -/
structure Installed (x y : Chip) (c : Nat) (d : Word × Word) : Prop where
  field : ∀ f : Fld, f.addr = R.CARR_CFG c → f.lo + f.width ≤ 32 → f.Apart (F.CARR_CFG_commit c) → f.Apart (F.CARR_CFG_state c) →
    (∀ i < f.width, Nat.testBit 0xCFFFFCFF (f.lo + i) = true) → fget y f = getBits d.1 f.lo f.width
  commit : fget y (F.CARR_CFG_commit c) = 0
  due : (carrOf y c).due = none
  disc : (carrOf y c).disc = true
  state : carrState y c = ownState y c
  event : nextSeq y srcCarr = nextSeq x srcCarr + 1

theorem descInstall_installed (x : Chip) (d : Word × Word) (hc : c < 256) : Installed x (descInstall x c d) c d := by
  obtain ⟨lost, r, m, i, args, hdue, hdisc, h⟩ := descInstall_eq x c d
  let z := setCarr (descCounted x c d lost) c r
  have hcarr : carrOf (descInstall x c d) c = r := by
    rw [h, carrOf_raise]
    exact carrOf_setCarr_same (descCounted x c d lost) c r
  have hcfg : ∀ f : Fld, f.addr = R.CARR_CFG c → fget (descInstall x c d) f = fget (refreshState z c) f := fun f hf => by
    rw [h, fget_raise_carr _ _ _ _ hf]
    rfl
  have hkeep : ∀ f : Fld, f.addr = R.CARR_CFG c → f.lo + f.width ≤ 32 → f.Apart (F.CARR_CFG_state c) →
      fget (descInstall x c d) f = fget (descCounted x c d lost) f := fun f hf h32 happ => by
    rw [hcfg f hf, fget_refreshState _ _ h32 happ]
    rfl
  refine ⟨fun f hf h32 hcommit hstate hrw => ?_, ?_, hcarr ▸ hdue, hcarr ▸ hdisc, ?_, ?_⟩
  · rw [hkeep f hf h32 hstate, fget_descCounted hc lost hf h32 hcommit hrw]
  · rw [hkeep _ rfl (by simp [F.CARR_CFG_commit]) (by simp [Fld.Apart, F.CARR_CFG_commit, F.CARR_CFG_state]),
      fget_descCounted_commit]
  · have hshown : carrState (descInstall x c d) c = ownState z c := (hcfg _ rfl).trans (carrState_refreshState z c)
    have hen : fget (descInstall x c d) (F.CARR_CFG_en c) = fget z (F.CARR_CFG_en c) :=
      hkeep _ rfl (by simp [F.CARR_CFG_en]) (by simp [Fld.Apart, F.CARR_CFG_en, F.CARR_CFG_state])
    have hown : ownState (descInstall x c d) c = ownState z c := by
      refine ownState_congr ?_ ?_ (congrArg (· != 0) hen) ?_
      · rw [h, isHead, role, fget_raise _ _ _ _ _ (by decide)]
        exact congrArg (· == 1) (fget_fset_apart z _ _ _ (by decide)
          (.inl (by simp only [F.GEN_ROLE_role, R.GEN_ROLE, F.CARR_CFG_state, R.CARR_CFG]; omega)))
      · rw [h, raise_rest]
        rfl
      · rw [hcarr, carrOf_setCarr_same]
    rw [hshown, hown]
  · rw [h, nextSeq_raise_same]
    exact congrArg (· + 1) (nextSeq_descCounted lost)

/-! Why a descriptor is rejected (R193). -/

theorem descReason_disabled (h : d.1.getLsbD 31 = false) : descReason x c d = 0 := if_pos h

/-- A channel count outside that of a descriptor's type. -/
def BadChannels (d : Word × Word) : Prop :=
  getBits d.1 14 6 = 0 ∨ (getBits d.1 20 4 = 0 ∧ 32 < getBits d.1 14 6) ∨ (getBits d.1 20 4 ≠ 0 ∧ getBits d.1 14 6 ≠ 1)

section
variable (hen : d.1.getLsbD 31 = true)
include hen

theorem descReason_type (h : 5 ≤ getBits d.1 20 4) : descReason x c d = 3 := by
  simp only [descReason, hen, Bool.true_eq_false, if_false, h, if_true]

section
variable (ht : getBits d.1 20 4 < 5)
include ht

theorem descReason_channels (h : BadChannels d) : descReason x c d = 1 := by
  simp only [descReason, hen, Bool.true_eq_false, if_false, Nat.not_le.2 ht, tPcm]
  exact if_pos h

theorem descReason_reserved (hch : ¬BadChannels d) (hh : isHead x = true) (hm : c ∈ x.heldMap) : descReason x c d = 2 := by
  simp only [descReason, hen, Bool.true_eq_false, if_false, Nat.not_le.2 ht, tPcm]
  exact (if_neg hch).trans (if_pos ⟨hh, hm⟩)

theorem descReason_lanes (hch : ¬BadChannels d) (hfree : isHead x = false ∨ c ∉ x.heldMap)
    (h : 103 < getBits d.2 0 7 ∨ 103 < getBits d.2 8 7 ∨ (getBits d.1 20 4 = 4 ∧ getBits d.2 8 7 < getBits d.2 0 7)) :
    descReason x c d = 4 := by
  have hnot : ¬(isHead x = true ∧ c ∈ x.heldMap) := by
    rintro ⟨hh, hm⟩
    rcases hfree with hf | hf
    · exact Bool.false_ne_true (hf.symm.trans hh)
    · exact hf hm
  simp only [descReason, hen, Bool.true_eq_false, if_false, Nat.not_le.2 ht, tPcm]
  exact (if_neg hch).trans ((if_neg hnot).trans (if_pos h))

end
end

/-- Settles O46: a commit by what waits, its checks and the segment in progress; what an installation and a rejection leave. -/
theorem descriptorCommands : Obligations.DescriptorCommands := by
  unfold Obligations.DescriptorCommands
  refine ⟨fun c s => exec_descCommit_foreign, fun x c h => by simp [carrMine, h], fun c s hc hup hm => ?commit,
    fun x c why hc hwhy => ?reject, fun x c d hc => ?install, fun c d s hc hd => ?apply, fun c s => exec_descApply_idle,
    fun x c d => ⟨descReason_disabled, descReason_type, fun hen ht => ?reasons⟩⟩
  case commit =>
    refine ⟨fun hd => exec_descCommit hc hup (descCommit_waiting hm hd), fun hd hr => exec_descCommit hc hup ?_,
      fun hd hr hp => exec_descCommit hc hup ?_, fun hd hr hp => exec_descCommit hc hup ?_⟩
    · exact (descCommit_fresh hm hd).trans (if_pos hr)
    · exact (descCommit_fresh hm hd).trans ((if_neg (not_not.2 hr)).trans (if_pos hp))
    · exact (descCommit_fresh hm hd).trans ((if_neg (not_not.2 hr)).trans (if_neg (ne_true_of_eq_false hp)))
  case reject =>
    intro y
    refine ⟨fget_descReject (by simp [F.CARR_CFG_commit]) (carrCfg_not_log c) (by simp [rejectFields]) (by simp),
      fget_descReject (by simp [F.CARR_CFG_rej]) (carrCfg_not_log c) (by simp [rejectFields]) (by simp [F.CARR_CFG_rej]),
      fget_descReject (by simp [F.CARR_SRC_why]) (carrSrc_not_log c) (by simp [rejectFields]) hwhy,
      congrArg CarrRt.due (carrOf_descReject x c why), ?_, ?_, nextSeq_descReject x c why, fun b => rd_descReject x c why⟩
    · rw [staged_descReject, smFind_erase_same]
    · rw [staged_descReject, smFind_erase_ne _ _ _ (carrCfg_ne_src c c).symm, smFind_erase_same]
  case install =>
    obtain ⟨hfield, hcommit, hdue, hdisc, hstate, hevent⟩ := descInstall_installed x d hc
    intro y
    have hen : fget y (F.CARR_CFG_en c) = getBits d.1 31 1 :=
      hfield _ rfl (by simp [F.CARR_CFG_en]) (by simp [Fld.Apart, F.CARR_CFG_en, F.CARR_CFG_commit])
        (by simp [Fld.Apart, F.CARR_CFG_en, F.CARR_CFG_state]) (by simp only [F.CARR_CFG_en]; decide)
    refine ⟨(congrArg (· != 0) hen).trans (getBits_one d.1 31), ?_, ?_, hcommit, hdue, hdisc, hstate, hevent⟩
    · exact hfield _ rfl (by simp [F.CARR_CFG_type]) (by simp [Fld.Apart, F.CARR_CFG_type, F.CARR_CFG_commit])
        (by simp [Fld.Apart, F.CARR_CFG_type, F.CARR_CFG_state]) (by simp only [F.CARR_CFG_type]; decide)
    · exact hfield _ rfl (by simp [F.CARR_CFG_ch]) (by simp [Fld.Apart, F.CARR_CFG_ch, F.CARR_CFG_commit])
        (by simp [Fld.Apart, F.CARR_CFG_ch, F.CARR_CFG_state]) (by simp only [F.CARR_CFG_ch]; decide)
  case apply =>
    rw [exec_descApply hc hd]
    exact ⟨fun hr => congrArg Host.Outcome.next (onChip_congr (if_pos hr)),
      fun hr => congrArg Host.Outcome.next (onChip_congr (if_neg hr))⟩
  case reasons =>
    exact ⟨descReason_channels hen ht, descReason_reserved hen ht, descReason_lanes hen ht⟩

end Sys2Proof.Machine
end

section
/-! Segments (R194 to R207): what a segment that is sent leaves, what each type of carriage sends and discards, its boundary, records,
keepalives and quality reports, and the statement about segments. -/
namespace Sys2Proof.Machine

variable {x : Chip} {c n : Nat} {iq : CoachRun} {s : State}

/-! A segment sent (R196, R202, R259). -/

section
variable (first last unit : Bool) (payload : List Byte) (ts : Option Nat)

/-- The flags of a segment: its timestamp, a due `disc` that a unit spends, first and last. -/
def segFlags (x : Chip) (c : Nat) (first last unit : Bool) (ts : Option Nat) : Nat :=
  (if ts.isSome then 8 else 0) + (if unit = true ∧ (carrOf x c).disc = true then 4 else 0) + (if first then 2 else 0)
    + (if last then 1 else 0)

/-- A segment goes its way after the carriage has noted it. -/
theorem emit_eq : ∃ sent, emit x c first last unit payload ts = routeSeg (setCarr x c { carrOf x c with
    disc := ((carrOf x c).disc && !(unit && (carrOf x c).disc)) || (unit && !goesOut x), sent := sent })
      ⟨c, carrType x c, segFlags x c first last unit ts, payload, ts⟩ := by
  have hflags : segFlags x c first last unit ts = (if ts.isSome then 8 else 0) +
      (if unit && (carrOf x c).disc then 4 else 0) + (if first then 2 else 0) + (if last then 1 else 0) := by
    simp only [segFlags, Bool.and_eq_true]
  rw [hflags]
  exact ⟨_, rfl⟩

/-- A head in RUN sends a segment to its link, and a unit spends a due `disc`. -/
theorem emit_sent (hh : isHead x = true) (hr : fget x F.LINK_STATE_state = 5) : ∃ r : CarrRt,
    r.disc = ((carrOf x c).disc && !unit) ∧ emit x c first last unit payload ts = { setCarr x c r with
      toLink := x.toLink ++ [⟨c, carrType x c, segFlags x c first last unit ts, payload, ts⟩] } := by
  obtain ⟨sent, h⟩ := emit_eq (x := x) (c := c) first last unit payload ts
  have hgo : goesOut x = true := by simp [goesOut, hr]
  refine ⟨_, ?_, h.trans ((if_pos hh).trans (if_pos hgo))⟩
  rw [hgo]
  cases unit <;> cases (carrOf x c).disc <;> rfl

/-- A head outside RUN drops a segment, and `disc` stays due for a unit. -/
theorem emit_dropped (hh : isHead x = true) (hr : fget x F.LINK_STATE_state ≠ 5) : ∃ r : CarrRt,
    r.disc = ((carrOf x c).disc || unit) ∧ emit x c first last unit payload ts = setCarr x c r := by
  obtain ⟨sent, h⟩ := emit_eq (x := x) (c := c) first last unit payload ts
  have hgo : goesOut x = false := by simp [goesOut, hh, hr]
  refine ⟨_, ?_, h.trans ((if_pos hh).trans (if_neg (ne_true_of_eq_false hgo)))⟩
  rw [hgo]
  cases unit <;> cases (carrOf x c).disc <;> rfl

end

/-! What a carriage takes (R195). -/

theorem carrTakes_type {t : Nat} (h : carrTakes x c t = true) : carrType x c = t := by
  simp only [carrTakes, Bool.and_eq_true, beq_iff_eq] at h
  exact h.2.1

/-- A carriage takes data of one type. -/
theorem carrTakes_other {t u : Nat} (h : carrTakes x c t = true) (hne : t ≠ u) : carrTakes x c u = false := by
  cases hu : carrTakes x c u with
  | false => rfl
  | true => exact absurd ((carrTakes_type h).symm.trans (carrTakes_type hu)) hne

theorem carrOf_discard (x : Chip) (c n : Nat) : carrOf (discard x c n) c = { carrOf x c with disc := true } := by
  rw [discard, carrOf_setCarr_same, dropCount, carrOf_count]

theorem rd_discard (x : Chip) (c n : Nat) {b : Nat} (h : b ∉ [R.CARR_DROP c, R.CARR_SRC c]) : rd (discard x c n) b = rd x b := by
  simp only [List.mem_cons, List.not_mem_nil, or_false, not_or] at h
  exact rd_count_ne _ _ _ _ _ h.1 h.2

/-- What a carriage takes is judged by its descriptor and the role, which data discarded leave. -/
theorem carrTakes_discard (x : Chip) (c n t : Nat) : carrTakes (discard x c n) c t = carrTakes x c t := by
  have hcfg : rd (discard x c n) (R.CARR_CFG c) = rd x (R.CARR_CFG c) :=
    rd_discard x c n (by simp [carrCfg_ne_drop, carrCfg_ne_src])
  have hrole : rd (discard x c n) R.GEN_ROLE = rd x R.GEN_ROLE :=
    rd_discard x c n (by simp only [R.GEN_ROLE, R.CARR_DROP, R.CARR_SRC, List.mem_cons, List.not_mem_nil, or_false]; omega)
  simp only [carrTakes, carrState, carrType, carrLocal, isFoot, role, fon, fget, F.CARR_CFG_state, F.CARR_CFG_type,
    F.CARR_CFG_origin, F.GEN_ROLE_role, hcfg, hrole]

/-! A segment by the type in force (R198 to R204). -/

/-- Audio of a running lane is bound to carriage c. -/
def boundLive (x : Chip) (c : Nat) : Bool := (bindings x c).any fun b => (laneOf x b.1).live

theorem segment_pcm {i : Nat} {l : List (Int × Int)} (h : carrTakes x c 0 = true) :
    segment x c ⟨i, [], l⟩ = carrStop (pcmSegment x c) c := by
  simp only [segment, tPcm, h, if_true, List.isEmpty_nil]

theorem segment_iq (h : carrTakes x c 3 = true) (hb : boundLive x c = false) :
    segment x c iq = carrStop (iqSegment x c iq) c := by
  rw [boundLive] at hb
  simp only [segment, tPcm, tIq, carrTakes_other h (by decide : 3 ≠ 0), h, hb, if_true, Bool.false_eq_true, if_false]

/-- Without samples and without audio of a running lane nothing is unclaimed. -/
theorem unclaimed_none {i : Nat} {l : List (Int × Int)} (hb : boundLive x c = false) : unclaimed x c ⟨i, [], l⟩ = x := by
  rw [boundLive] at hb
  simp [unclaimed, hb]

theorem segment_side {i : Nat} {l : List (Int × Int)} (h : carrTakes x c 2 = true) (hb : boundLive x c = false) :
    segment x c ⟨i, [], l⟩ = carrStop (sideSegment x c) c := by
  simp only [segment, tPcm, tIq, tSide, carrTakes_other h (by decide : 2 ≠ 0), carrTakes_other h (by decide : 2 ≠ 3),
    unclaimed_none hb, h, if_true, Bool.false_eq_true, if_false]

theorem segment_comp {i : Nat} {l : List (Int × Int)} (h : carrTakes x c 1 = true) (hb : boundLive x c = false) :
    segment x c ⟨i, [], l⟩ = carrStop (compSegment x c) c := by
  simp only [segment, tPcm, tIq, tSide, tComp, carrTakes_other h (by decide : 1 ≠ 0), carrTakes_other h (by decide : 1 ≠ 3),
    carrTakes_other h (by decide : 1 ≠ 2), unclaimed_none hb, h, if_true, Bool.false_eq_true, if_false]

/-- A carriage that takes none of what reaches it counts one discarded. -/
theorem segment_untaken (h : ∀ t < 4, carrTakes x c t = false) (hd : iq.named ≠ [] ∨ boundLive x c = true) :
    segment x c iq = carrStop (discard x c 1) c := by
  have hun : unclaimed x c iq = discard x c 1 := by
    refine if_pos ?_
    rcases hd with hd | hd
    · simp [hd]
    · rw [boundLive] at hd
      rw [hd, Bool.or_true]
  simp only [segment, tPcm, tIq, tSide, tComp, hun, carrTakes_discard, h 0 (by decide), h 1 (by decide), h 2 (by decide),
    h 3 (by decide), Bool.false_eq_true, if_false]

theorem exec_segmentComplete (hc : c < 256) (hr : rfRuns s.chip = true) {g : Chip → Chip}
    (h : segment s.chip c iq = g s.chip) : exec (.segmentComplete c iq) s = .next (onChip g s) := by
  have hno : ¬(256 ≤ c ∨ rfRuns s.chip = false) := by
    simp only [hr, Bool.true_eq_false, or_false]
    omega
  exact congrArg Host.Outcome.next ((if_neg hno).trans (onChip_congr h))

/-! PCM (R194, R198 to R200). -/

/-- The frame with which the next segment begins, by the bindings with which it began. -/
def segStart (x : Chip) (c : Nat) : Int :=
  (carrOf x c).next.getD (firstFrame x ((carrOf x c).bound.getD (bindings x c)) (carrOf x c).began)

theorem pcmSegment_waits
    (h : frameDue x ((carrOf x c).bound.getD (bindings x c)) (segStart x c + framesOf x c - 1) = false) : pcmSegment x c = x :=
  if_neg (ne_true_of_eq_false h)

theorem pcmSegment_sends
    (h : frameDue x ((carrOf x c).bound.getD (bindings x c)) (segStart x c + framesOf x c - 1) = true) : pcmSegment x c =
    let l := (carrOf x c).bound.getD (bindings x c)
    let j := segStart x c
    let y := emit (if excess x c l then dropCount x c 1 else x) c true true true
      ((pcmWords x l (framesOf x c) (fget x (F.CARR_CFG_ch c)) j).flatMap b4) (some (frameStamp j))
    setCarr y c { carrOf y c with next := some (j + framesOf x c), bound := some (bindings y c) } := if_pos h

/-- A channel to which no lane is bound gives muted zeros. -/
theorem frameWords_unfed (x : Chip) {l : List (Nat × Nat × Nat)} {chans k : Nat} (j : Int) (hk : k < chans)
    (h : ∀ b ∈ l, ¬(b.2.1 ≤ k ∧ k < b.2.1 + b.2.2)) : (frameWords x l chans j)[k]? = some 4 := by
  have hnone : (l.map fun b => (b, programmeFrame x b.1 (gridThrice j))).find?
      (fun e => decide (e.1.2.1 ≤ k) && decide (k < e.1.2.1 + e.1.2.2)) = none := by
    rw [List.find?_eq_none]
    intro e he
    obtain ⟨b, hb, rfl⟩ := List.mem_map.1 he
    simpa using h b hb
  simp only [frameWords, List.getElem?_map, List.getElem?_range hk, Option.map_some, hnone]
  rfl

/-- A lane of which nothing is held gives muted zeros. -/
theorem laneSample_silent (h : (laneOf x n).pcm = []) (t : Int) : laneSample x n t = (0, 0, 4) := by
  rw [laneSample, h]
  rfl

/-! IQ (R197, R201). -/

/-- The samples fill a segment of a lane that runs in IQ. -/
def IqFills (x : Chip) (c : Nat) (iq : CoachRun) : Prop :=
  iq.named.length = framesOf x c ∧ stdOf x (fget x (F.CARR_SRC_lane_lo c)) = mIq ∧
    (laneOf x (fget x (F.CARR_SRC_lane_lo c))).live = true

theorem iqSegment_none (h : ¬IqFills x c iq) : iqSegment x c iq = x := if_neg h

theorem iqSegment_sends (h : IqFills x c iq) : iqSegment x c iq =
    let n := fget x (F.CARR_SRC_lane_lo c)
    let d := (laneOf x n).dsp
    let w := iqWords x n d.dc (runSamples x n iq)
    let r := carrOf x c
    let y := setCarr (setDsp x n { d with dc := w.2 }) c { r with
      disc := r.disc || r.next != some (iq.first : Int), next := some ((iq.first + iq.named.length : Nat) : Int) }
    emit y c true true true (w.1.flatMap b4) (some (toTicks (refOf (cfgOf x n) (gridAt x n iq.first)) % 2 ^ 64).toNat) :=
  if_pos h

/-! SIDE and COMP (R203, R204). -/

theorem sideSegment_nil (h : (carrOf x c).queue = []) : sideSegment x c = x := by
  simp only [sideSegment, h]

section
variable {q : SideRec} {rest : List SideRec} (h : (carrOf x c).queue = q :: rest)
include h

/-- The rest of the oldest record, which leaves the queue. -/
theorem sideSegment_last (hl : q.octets.length ≤ q.sent + 4095) : sideSegment x c =
    emit (setCarr (match q.mot with
        | some t => freeMot x q.lane t
        | none => x) c { carrOf x c with queue := rest }) c (q.sent == 0) true (q.sent == 0) ((q.octets.drop q.sent).take 4095)
      (if q.sent = 0 then some q.stamp else none) := by
  cases hm : q.mot <;> simp only [sideSegment, h, hl, hm, decide_true, if_true]

/-- The next part of the oldest record, which stays. -/
theorem sideSegment_part (hl : q.sent + 4095 < q.octets.length) : sideSegment x c =
    emit (setCarr x c { carrOf x c with queue := { q with sent := q.sent + 4095 } :: rest }) c (q.sent == 0) false (q.sent == 0)
      ((q.octets.drop q.sent).take 4095) (if q.sent = 0 then some q.stamp else none) := by
  simp only [sideSegment, h, Nat.not_le.2 hl, decide_false, Bool.false_eq_true, if_false]
  cases q.mot <;> rfl

end

theorem compSegment_nil (h : (carrOf x c).units = []) : compSegment x c = x := by
  simp only [compSegment, h]

section
variable {q : UnitRec} {rest : List UnitRec} (h : (carrOf x c).units = q :: rest)
include h

theorem compSegment_last (hl : q.octets.length ≤ q.sent + 4095) : compSegment x c =
    emit (setCarr x c { carrOf x c with units := rest }) c (q.sent == 0) true (q.sent == 0) ((q.octets.drop q.sent).take 4095)
      (if q.sent = 0 then some q.stamp else none) := by
  simp only [compSegment, h, hl, decide_true, if_true]

theorem compSegment_part (hl : q.sent + 4095 < q.octets.length) : compSegment x c =
    emit (setCarr x c { carrOf x c with units := { q with sent := q.sent + 4095 } :: rest }) c (q.sent == 0) false (q.sent == 0)
      ((q.octets.drop q.sent).take 4095) (if q.sent = 0 then some q.stamp else none) := by
  simp only [compSegment, h, Nat.not_le.2 hl, decide_false, Bool.false_eq_true, if_false]

end

/-! The boundary of a segment (R208, R211). -/

/-- A carriage that is not this part's, does not run or is to run on passes its boundary. -/
theorem carrStop_runs (h : carrLocal x c = false ∨ carrState x c ≠ 1 ∨ ownState x c = 1) : carrStop x c = x := by
  refine if_neg ?_
  rintro ⟨hl, hs, ho⟩
  rcases h with h | h | h
  · exact Bool.false_ne_true (h.symm.trans hl)
  · exact h hs
  · exact ho h

/-- A carriage at its boundary, in its own state with `disc` due. -/
def stopped (x : Chip) (c : Nat) : Chip := refreshState (setCarr x c { carrOf x c with disc := true }) c

theorem carrState_stopped (x : Chip) (c : Nat) : carrState (stopped x c) c = ownState x c := by
  rw [stopped, carrState_refreshState]
  exact ownState_congr rfl rfl rfl (by rw [carrOf_setCarr_same])

theorem carrStop_stops (hl : carrLocal x c = true) (hs : carrState x c = 1) (ho : ownState x c ≠ 1) : carrStop x c =
    if ownState x c = 3 then setCause (raise (stopped x c) srcCarr 0x05 (b1 c ++ b1 1)) .carr else stopped x c := by
  rw [← carrState_stopped]
  exact if_pos ⟨hl, hs, ho⟩

/-! Records (R195, R204 to R206). -/

theorem exec_sideRecord {i : SideIn} {stamp : Nat} {cands : List CandIn} {type : Nat} {payload : List Byte}
    (hd : dUp s.chip = true) (h : sideRecord s.chip n i = some (type, payload)) : exec (.sideRecord n i stamp cands) s =
    .next (onChip (fun x => addCands (publish x n type payload stamp) n cands) s) := by
  show execSideRecord n i stamp cands s = _
  rw [execSideRecord, h]
  exact congrArg Host.Outcome.next (if_pos hd)

theorem exec_sideRecord_none {i : SideIn} {stamp : Nat} {cands : List CandIn}
    (h : dUp s.chip = false ∨ sideRecord s.chip n i = none) : exec (.sideRecord n i stamp cands) s = .next s := by
  show execSideRecord n i stamp cands s = _
  rw [execSideRecord]
  rcases h with h | h
  · cases sideRecord s.chip n i with
    | none => rfl
    | some r => exact congrArg Host.Outcome.next (if_neg (ne_true_of_eq_false h))
  · rw [h]

/-- A queue with room for a record discards none for it. -/
theorem makeRoom_room {k : Nat} (f : Nat) (h : queued (carrOf x c).queue + k ≤ 65536) : makeRoom x c k f = x := by
  cases f with
  | zero => rfl
  | succ f => exact if_pos h

/-- A record joins its carriage's queue where there is room for it, made where there is none. -/
def joinQueue (x : Chip) (c n : Nat) (q : SideRec) : Chip :=
  let y := makeRoom x c q.octets.length (carrOf x c).queue.length
  if queued (carrOf y c).queue + q.octets.length ≤ 65536 then setCarr y c { carrOf y c with queue := (carrOf y c).queue ++ [q] }
  else recDrop y c n

theorem joinQueue_room {q : SideRec} (h : queued (carrOf x c).queue + q.octets.length ≤ 65536) :
    joinQueue x c n q = setCarr x c { carrOf x c with queue := (carrOf x c).queue ++ [q] } := by
  rw [joinQueue, makeRoom_room _ h]
  exact if_pos h

/-- The number of the next record of lane n on carriage c. -/
def recordNumber (x : Chip) (c n : Nat) : Nat := smGet (fun _ => 0) x.recSeq (c * 128 + n)

/-- The next record of lane n on carriage c has been numbered. -/
def numbered (x : Chip) (c n : Nat) : Chip :=
  { x with recSeq := smPut (fun _ => 0) x.recSeq (c * 128 + n) ((recordNumber x c n + 1) % 256) }

/-- The octets of a record: its header with its number, then its payload. -/
def recordOctets (n type seq : Nat) (payload : List Byte) : List Byte :=
  b2 type ++ b1 n ++ b1 seq ++ b4 payload.length ++ payload

theorem length_recordOctets (n type seq : Nat) (payload : List Byte) :
    (recordOctets n type seq payload).length = 8 + payload.length := by
  simp only [recordOctets, b1, b2, b4, le, List.length_append, List.length_map, List.length_range]

section
variable {type stamp : Nat} {payload : List Byte}

theorem publish_unbound (h : fon x (F.LANE_CARR_s_en n) = false) : publish x n type payload stamp = x := by
  simp only [publish, publishAs, sideOf, h, Bool.false_eq_true, if_false]

section
variable (h : fon x (F.LANE_CARR_s_en n) = true)
include h

theorem publish_discarded (ht : carrTakes x (fget x (F.LANE_CARR_side n)) 2 = false) :
    publish x n type payload stamp = discard x (fget x (F.LANE_CARR_side n)) 1 := by
  simp only [publish, publishAs, sideOf, h, if_true, tSide, ht, Bool.false_eq_true, if_false]

/-- A record that its carriage takes is numbered and joins the queue. -/
theorem publish_taken (ht : carrTakes x (fget x (F.LANE_CARR_side n)) 2 = true) : publish x n type payload stamp =
    let c := fget x (F.LANE_CARR_side n)
    joinQueue (numbered x c n) c n ⟨n, type, recordOctets n type (recordNumber x c n) payload, 0, stamp, none⟩ := by
  have hside : sideOf x n = some (fget x (F.LANE_CARR_side n)) := if_pos h
  rw [publish, publishAs, hside]
  exact if_pos ht

theorem publish_queued (ht : carrTakes x (fget x (F.LANE_CARR_side n)) 2 = true)
    (hroom : queued (carrOf x (fget x (F.LANE_CARR_side n))).queue + (8 + payload.length) ≤ 65536) :
    publish x n type payload stamp =
      let c := fget x (F.LANE_CARR_side n)
      setCarr (numbered x c n) c { carrOf x c with
        queue := (carrOf x c).queue ++ [⟨n, type, recordOctets n type (recordNumber x c n) payload, 0, stamp, none⟩] } := by
  rw [publish_taken h ht]
  exact joinQueue_room (by rw [length_recordOctets]; exact hroom)

end
end

/-! Keepalives and quality reports (R202, R207). -/

section
variable (hc : c < 256) (hm : mgmtUp s.chip = true)
include hc hm

theorem exec_keepalive (hs : carrState s.chip c = 1) (hl : carrLocal s.chip c = true) :
    exec (.keepalive c) s = .next (onChip (fun x => keepalive x c) s) := congrArg Host.Outcome.next (if_pos ⟨hc, hm, hs, hl⟩)

theorem exec_qualReport (ht : carrType s.chip c = 4) : exec (.qualReport c) s =
    .next (if carrTakes s.chip c 4 then onChip (fun x => qualReport x c) s else onChip (fun x => discard x c 1) s) := by
  refine congrArg Host.Outcome.next (if_neg ?_)
  rintro (h | h | h)
  · omega
  · exact Bool.false_ne_true (h.symm.trans hm)
  · exact h ht

end

theorem exec_keepalive_none (h : mgmtUp s.chip = false ∨ carrState s.chip c ≠ 1 ∨ carrLocal s.chip c = false) :
    exec (.keepalive c) s = .next s := by
  refine congrArg Host.Outcome.next (if_neg ?_)
  rintro ⟨-, hm, hs, hl⟩
  rcases h with h | h | h
  · exact Bool.false_ne_true (h.symm.trans hm)
  · exact h hs
  · exact Bool.false_ne_true (h.symm.trans hl)

theorem exec_qualReport_none (h : mgmtUp s.chip = false ∨ carrType s.chip c ≠ 4) : exec (.qualReport c) s = .next s :=
  congrArg Host.Outcome.next (if_pos (.inr h))

/-- The lanes of a quality report's range that are neither off nor spare. -/
def reportLanes (x : Chip) (c : Nat) : List Nat :=
  allLanes.filter fun n => decide (fget x (F.CARR_SRC_lane_lo c) ≤ n) &&
    (decide (n ≤ fget x (F.CARR_SRC_lane_hi c)) && (stdOf x n != mOff && stdOf x n != mSpare))

/-- Where no lane of its range runs a report is an empty segment. -/
theorem qualReport_empty (ht : carrType x c = 4) (h : ((reportLanes x c).any fun n => (laneOf x n).live) = false) :
    qualReport x c = emit x c true true false [] (some x.tm.stime.toNat) := by
  refine (if_neg (ne_true_of_eq_false h)).trans ?_
  simp only [keepalive, ht]
  rfl

theorem qualReport_lanes (h : ((reportLanes x c).any fun n => (laneOf x n).live) = true) :
    qualReport x c = emit { x with freeCount := x.freeCount + 104 } c true true true ((reportLanes x c).flatMap (qualEntry x))
      (some x.tm.stime.toNat) := if_pos h

/-- Settles O47: a segment sent and dropped, each type of carriage in turn, its boundary, records, keepalives and reports. -/
theorem segmentCommands : Obligations.SegmentCommands := by
  unfold Obligations.SegmentCommands
  refine ⟨fun x c first last unit payload ts hh hr => ?sent, fun x c first last unit payload ts hh hr => ?dropped,
    fun c iq s h => congrArg Host.Outcome.next (if_pos h), fun c s hc hr ht => ?pcm, fun x l chans k j => frameWords_unfed x j,
    fun x n t h => laneSample_silent h t, fun c iq s hc hr ht hb => ?iq,
    fun c iq s hc hr hno hd => exec_segmentComplete hc hr (segment_untaken hno hd), fun x c => ?discard,
    fun c q rest s hc hr ht hb hq => ?side, fun c s hc hr hb => ?queues, fun x c => ⟨carrStop_runs, fun _ hl hs ho => ?stop⟩,
    fun n stamp i cands s => ⟨fun type payload => exec_sideRecord, exec_sideRecord_none⟩,
    fun x n type payload stamp hn => ⟨publish_unbound, fun h => ⟨publish_discarded h, publish_queued h⟩⟩,
    fun c s hc hm => ⟨exec_keepalive hc hm, fun h => exec_keepalive_none (.inr h)⟩, fun c s hc hm ht => ?report,
    fun c s h => exec_qualReport_none (.inr h), fun c s h => ⟨exec_keepalive_none (.inl h), exec_qualReport_none (.inl h)⟩⟩
  case sent =>
    obtain ⟨r, hdisc, h⟩ := emit_sent (c := c) first last unit payload ts hh hr
    intro y
    refine ⟨congrArg Chip.toLink h, by simp only [y, h]; rfl, fun k hk => ?_, ?_⟩
    · exact (congrArg (carrOf · k) h).trans (carrOf_setCarr_ne x r hk)
    · exact (congrArg (fun z => (carrOf z c).disc) h).trans ((congrArg CarrRt.disc (carrOf_setCarr_same x c r)).trans hdisc)
  case dropped =>
    obtain ⟨r, hdisc, h⟩ := emit_dropped (c := c) first last unit payload ts hh hr
    intro y
    refine ⟨by simp only [y, h]; rfl, fun k hk => ?_, ?_⟩
    · exact (congrArg (carrOf · k) h).trans (carrOf_setCarr_ne x r hk)
    · exact (congrArg (fun z => (carrOf z c).disc) h).trans ((congrArg CarrRt.disc (carrOf_setCarr_same x c r)).trans hdisc)
  case pcm =>
    exact ⟨fun h => exec_segmentComplete hc hr ((segment_pcm ht).trans (congrArg (carrStop · c) (pcmSegment_waits h))),
      fun h => exec_segmentComplete hc hr ((segment_pcm ht).trans (congrArg (carrStop · c) (pcmSegment_sends h)))⟩
  case iq =>
    exact ⟨fun h => exec_segmentComplete hc hr ((segment_iq ht hb).trans (congrArg (carrStop · c) (iqSegment_none h))),
      fun h => exec_segmentComplete hc hr ((segment_iq ht hb).trans (congrArg (carrStop · c) (iqSegment_sends h)))⟩
  case discard =>
    refine ⟨congrArg CarrRt.disc (carrOf_discard x c 1), fun b => rd_discard x c 1, ?_⟩
    rw [discard_rest]
  case side =>
    exact ⟨fun h => exec_segmentComplete hc hr ((segment_side ht hb).trans (congrArg (carrStop · c) (sideSegment_last hq h))),
      fun h => exec_segmentComplete hc hr ((segment_side ht hb).trans (congrArg (carrStop · c) (sideSegment_part hq h)))⟩
  case queues =>
    refine ⟨fun ht hq => ?_, fun ht hq => ?_, fun q rest ht hq h => ?_, fun q rest ht hq h => ?_⟩
    · exact exec_segmentComplete hc hr ((segment_side ht hb).trans (congrArg (carrStop · c) (sideSegment_nil hq)))
    · exact exec_segmentComplete hc hr ((segment_comp ht hb).trans (congrArg (carrStop · c) (compSegment_nil hq)))
    · exact exec_segmentComplete hc hr ((segment_comp ht hb).trans (congrArg (carrStop · c) (compSegment_last hq h)))
    · exact exec_segmentComplete hc hr ((segment_comp ht hb).trans (congrArg (carrStop · c) (compSegment_part hq h)))
  case stop =>
    rw [carrStop_stops hl hs ho]
    split
    · refine ⟨?_, ?_, fun _ => fget_fset_same _ IntCause.carr.fld 1 (by decide)⟩
      · rw [carrState_setCause, carrState_raise, carrState_stopped]
      · rw [carrOf_setCause, carrOf_raise, stopped, carrOf_refreshState, carrOf_setCarr_same]
    · refine ⟨carrState_stopped x c, ?_, fun h => absurd h ‹_›⟩
      rw [stopped, carrOf_refreshState, carrOf_setCarr_same]
  case report =>
    rw [exec_qualReport hc hm ht]
    refine ⟨fun htake h => ?_, fun htake h => ?_, fun htake => ?_⟩
    · rw [if_pos htake]
      exact congrArg Host.Outcome.next (onChip_congr (qualReport_empty ht h))
    · rw [if_pos htake]
      exact congrArg Host.Outcome.next (onChip_congr (qualReport_lanes h))
    · exact congrArg Host.Outcome.next (if_neg (ne_true_of_eq_false htake))

end Sys2Proof.Machine
end

section
/-! Shedding and the ids of the foot (R208 to R211): what is shed and restored first, when shedding ends, what a shed carriage and a
reserved id show, and the statement about both. -/
namespace Sys2Proof.Machine

variable {x y : Chip} {c k cause : Nat} {s : State} {l : List Nat}

/-! The carriage to shed (R208). -/

theorem mem_carrIn {st : Nat} : k ∈ carrIn x st ↔ k < 256 ∧ carrState x k = st := by simp [carrIn]

theorem mem_carrRuns : k ∈ carrRuns x ↔ k < 256 ∧ carrState x k = 1 ∧ (carrOf x k).shed = none := by
  simp [carrRuns, mem_carrIn, csRun, and_assoc]

theorem carrRuns_sorted (x : Chip) : (carrRuns x).Pairwise (· < ·) := (List.pairwise_lt_range.filter _).filter _

/-- Carriage c is shed before d: its prio is lower, or equal and its id not below. -/
def ShedsBefore (x : Chip) (c d : Nat) : Prop :=
  fget x (F.CARR_CFG_prio c) < fget x (F.CARR_CFG_prio d) ∨ (fget x (F.CARR_CFG_prio c) = fget x (F.CARR_CFG_prio d) ∧ d ≤ c)

theorem ShedsBefore.refl (x : Chip) (c : Nat) : ShedsBefore x c c := .inr ⟨rfl, Nat.le_refl _⟩

theorem ShedsBefore.trans {d e : Nat} (h1 : ShedsBefore x c d) (h2 : ShedsBefore x d e) : ShedsBefore x c e := by
  unfold ShedsBefore at *
  omega

/-- Of a carriage and one of a higher id, the one kept is shed before both. -/
theorem shedFirst_spec {b e : Nat} (h : b < e) : ∃ a, shedFirst x (some b) e = some a ∧ (a = b ∨ a = e) ∧
    ShedsBefore x a b ∧ ShedsBefore x a e := by
  by_cases hp : fget x (F.CARR_CFG_prio e) ≤ fget x (F.CARR_CFG_prio b)
  · refine ⟨e, if_pos hp, .inr rfl, ?_, .refl x e⟩
    unfold ShedsBefore
    omega
  · exact ⟨b, if_neg hp, .inl rfl, .refl x b, .inl (Nat.not_le.1 hp)⟩

/-- Of carriages in the order of their ids, the one chosen is shed before every other. -/
theorem foldl_shedFirst : ∀ (l : List Nat) (b : Nat), (b :: l).Pairwise (· < ·) →
    ∃ a ∈ b :: l, l.foldl (shedFirst x) (some b) = some a ∧ ∀ d ∈ b :: l, ShedsBefore x a d := by
  intro l
  induction l with
  | nil => exact fun b _ => ⟨b, List.mem_cons_self .., rfl, fun d hd => List.mem_singleton.1 hd ▸ .refl x b⟩
  | cons e l ih =>
    intro b hl
    obtain ⟨hb, hel⟩ := List.pairwise_cons.1 hl
    obtain ⟨hbe, hbl⟩ := List.forall_mem_cons.1 hb
    obtain ⟨a, ha, hfrom, hab, hae⟩ := shedFirst_spec (x := x) hbe
    have hal : (a :: l).Pairwise (· < ·) := by
      rcases hfrom with rfl | rfl
      · exact List.pairwise_cons.2 ⟨hbl, (List.pairwise_cons.1 hel).2⟩
      · exact hel
    obtain ⟨c, hc, hfold, hall⟩ := ih a hal
    have hca : ShedsBefore x c a := hall a (List.mem_cons_self ..)
    refine ⟨c, ?_, by rw [List.foldl_cons, ha, hfold], ?_⟩
    · rcases List.mem_cons.1 hc with rfl | hc
      · rcases hfrom with rfl | rfl <;> simp
      · exact List.mem_cons_of_mem _ (List.mem_cons_of_mem _ hc)
    · exact List.forall_mem_cons.2 ⟨hca.trans hab, List.forall_mem_cons.2
        ⟨hca.trans hae, fun d hd => hall d (List.mem_cons_of_mem _ hd)⟩⟩

/-- The carriage to shed, none where none runs. -/
theorem shedPick_spec (x : Chip) : (carrRuns x = [] ∧ (carrRuns x).foldl (shedFirst x) none = none) ∨
    ∃ c ∈ carrRuns x, (carrRuns x).foldl (shedFirst x) none = some c ∧ ∀ d ∈ carrRuns x, ShedsBefore x c d := by
  have hsorted := carrRuns_sorted x
  cases h : carrRuns x with
  | nil => exact .inl ⟨rfl, rfl⟩
  | cons b l => exact .inr (foldl_shedFirst l b (h ▸ hsorted))

theorem shedPick_some (h : (carrRuns x).foldl (shedFirst x) none = some c) :
    c ∈ carrRuns x ∧ ∀ d ∈ carrRuns x, ShedsBefore x c d := by
  rcases shedPick_spec x with ⟨-, hnone⟩ | ⟨a, ha, hsome, hall⟩
  · exact absurd (hnone.symm.trans h) (by simp)
  · obtain rfl := Option.some.inj (hsome.symm.trans h)
    exact ⟨ha, hall⟩

/-! A carriage shed (R208). -/

/-- A carriage with its shedding noted, and its state where no segment is in progress, before its event. -/
def shedNoted (x : Chip) (c cause : Nat) : Chip :=
  let y := setCarr x c { carrOf x c with shed := some cause, disc := true }
  if inProgress x c then y else refreshState y c

/-- The event and the cause of a shedding. -/
def shedTold (x : Chip) (c cause : Nat) : Chip :=
  setCause (raise (shedNoted x c cause) srcCarr 0x03 (b1 c ++ b1 (fget x (F.CARR_CFG_prio c)) ++ b1 cause)) .carr

theorem carrShed_eq (x : Chip) (c cause : Nat) : carrShed x c cause =
    setCarr (shedTold x c cause) c { carrOf (shedTold x c cause) c with shedRef := some (lastRef (shedTold x c cause) srcCarr) } :=
  rfl

theorem carrOf_shedNoted (x : Chip) (c cause : Nat) :
    carrOf (shedNoted x c cause) c = { carrOf x c with shed := some cause, disc := true } := by
  unfold shedNoted
  dsimp only
  split <;> simp

theorem carrOf_shedTold (x : Chip) (c cause : Nat) :
    carrOf (shedTold x c cause) c = { carrOf x c with shed := some cause, disc := true } := by
  rw [shedTold, carrOf_setCause, carrOf_raise, carrOf_shedNoted]

theorem carrShed_only (x : Chip) (c cause : Nat) : OnlyCarrs [c] x (carrShed x c cause) := by
  have hc : c ∈ [c] := List.mem_singleton_self c
  have hnoted : OnlyCarrs [c] x (shedNoted x c cause) :=
    .ite (.setCarr x _ hc) ((OnlyCarrs.setCarr x _ hc).trans (.refreshState _ hc))
  rw [carrShed_eq]
  exact hnoted.trans ((OnlyCarrs.raise ..).trans ((OnlyCarrs.setCause ..).trans (.setCarr _ _ hc)))

theorem shed_carrShed (x : Chip) (c cause : Nat) : (carrOf (carrShed x c cause) c).shed = some cause := by
  rw [carrShed_eq, carrOf_setCarr_same, carrOf_shedTold]

theorem carrState_carrShed (x : Chip) (c cause : Nat) :
    carrState (carrShed x c cause) c = carrState (shedNoted x c cause) c := by
  rw [carrShed_eq, carrState_setCarr, shedTold, carrState_setCause, carrState_raise]

/-- A carriage with a segment in progress runs on to its boundary. -/
theorem carrState_shed_later (cause : Nat) (h : inProgress x c = true) : carrState (carrShed x c cause) c = carrState x c := by
  rw [carrState_carrShed, shedNoted, h]
  rfl

theorem carrState_shed_now (cause : Nat) (h : inProgress x c = false) : carrState (carrShed x c cause) c =
    ownState (setCarr x c { carrOf x c with shed := some cause, disc := true }) c := by
  rw [carrState_carrShed, shedNoted, h]
  exact carrState_refreshState _ c

theorem nextSeq_carrShed (x : Chip) (c cause : Nat) : nextSeq (carrShed x c cause) srcCarr = nextSeq x srcCarr + 1 := by
  have hnoted : nextSeq (shedNoted x c cause) srcCarr = nextSeq x srcCarr := by
    unfold shedNoted
    dsimp only
    split <;> rfl
  rw [carrShed_eq, nextSeq_setCarr, ← hnoted]
  exact nextSeq_raise_same ..

/-! Shedding until the demand fits (R208). -/

/-- A carriage shed runs no longer, and no other begins to run. -/
theorem length_carrRuns_carrShed_lt (h : c ∈ carrRuns x) : (carrRuns (carrShed x c cause)).length < (carrRuns x).length := by
  have hout : c ∉ carrRuns (carrShed x c cause) := fun hm => by
    have hnone := (mem_carrRuns.1 hm).2.2
    rw [shed_carrShed] at hnone
    exact absurd hnone (by simp)
  have hsub : c :: carrRuns (carrShed x c cause) ⊆ carrRuns x := by
    refine List.cons_subset.2 ⟨h, fun k hk => ?_⟩
    have hk' : k ∉ [c] := fun e => hout (List.mem_singleton.1 e ▸ hk)
    have hkeep := carrShed_only x c cause
    rw [mem_carrRuns, hkeep.carrState hk', hkeep.others k hk'] at hk
    exact mem_carrRuns.2 hk
  have hnodup : (c :: carrRuns (carrShed x c cause)).Nodup := List.nodup_cons.2 ⟨hout, (carrRuns_sorted _).nodup⟩
  exact (List.subperm_of_subset hnodup hsub).length_le

theorem shedLoop_fits (f : Nat) (h : fits x (demand x) = true) : shedLoop x f = x := by
  cases f with
  | zero => rfl
  | succ f => exact if_pos h

theorem shedLoop_sheds (f : Nat) (h : fits x (demand x) = false) (hc : (carrRuns x).foldl (shedFirst x) none = some c) :
    shedLoop x (f + 1) = shedLoop (carrShed x c 0) f := by
  rw [shedLoop, h, hc]
  rfl

theorem shedLoop_ends : ∀ (f : Nat) (x : Chip), (carrRuns x).length ≤ f →
    fits (shedLoop x f) (demand (shedLoop x f)) = true ∨ carrRuns (shedLoop x f) = [] := by
  intro f
  induction f with
  | zero => exact fun x h => .inr (List.eq_nil_of_length_eq_zero (Nat.le_zero.1 h))
  | succ f ih =>
    intro x hlen
    cases hfit : fits x (demand x) with
    | true => exact .inl (by rw [shedLoop_fits _ hfit, hfit])
    | false =>
      rcases shedPick_spec x with ⟨hnil, hnone⟩ | ⟨c, hc, hsome, -⟩
      · refine .inr ?_
        rw [shedLoop, hfit, hnone]
        exact hnil
      · rw [shedLoop_sheds f hfit hsome]
        exact ih _ (Nat.le_of_lt_succ (Nat.lt_of_lt_of_le (length_carrRuns_carrShed_lt hc) hlen))

theorem length_carrRuns_le (x : Chip) : (carrRuns x).length ≤ 256 :=
  (List.length_filter_le ..).trans ((List.length_filter_le ..).trans (List.length_range ..).le)

/-! CARR_SHED and CARR_RESTORE. -/

section
variable (hh : isHead s.chip = true) (hr : fget s.chip F.LINK_STATE_state = 5)
include hh hr

theorem exec_carrShed {g : Chip → Chip} (h : shedLoop s.chip 256 = g s.chip) : exec .carrShed s = .next (onChip g s) :=
  congrArg Host.Outcome.next ((if_pos ⟨hh, hr⟩).trans (onChip_congr h))

theorem exec_carrRestore {g : Chip → Chip} (h : carrRestore s.chip = g s.chip) : exec .carrRestore s = .next (onChip g s) :=
  congrArg Host.Outcome.next ((if_pos ⟨hh, hr⟩).trans (onChip_congr h))

end

theorem exec_carrShed_carrRestore_idle (h : isHead s.chip = false ∨ fget s.chip F.LINK_STATE_state ≠ 5) :
    exec .carrShed s = .next s ∧ exec .carrRestore s = .next s := by
  have hno : ¬(isHead s.chip = true ∧ fget s.chip F.LINK_STATE_state = 5) := by
    rintro ⟨hh, hr⟩
    rcases h with h | h
    · exact Bool.false_ne_true (h.symm.trans hh)
    · exact h hr
  exact ⟨congrArg Host.Outcome.next (if_neg hno), congrArg Host.Outcome.next (if_neg hno)⟩

/-- The carriage to restore (R209). -/
def restorePick (x : Chip) : Option Nat :=
  ((carrIn x csShed).filter fun c => (carrOf x c).shed == some 0).foldl (restoreFirst x) none

theorem carrRestore_none (h : restorePick x = none) : carrRestore x = x := by
  rw [restorePick] at h
  rw [carrRestore, h]

theorem carrRestore_some (h : restorePick x = some c) : carrRestore x =
    let d := addFrac (demand x) (demandOf x c)
    if fits x (d.1 * 11, d.2 * 10) then
      raise (refreshState (carrBegin (setCarr x c { carrOf x c with shed := none, sent := [] }) c) c) srcCarr 0x04 (b1 c)
    else x := by
  rw [restorePick] at h
  rw [carrRestore, h]

/-! The ids of the foot (R210, R211). -/

theorem mem_idsOf {p : List Byte} (hc : c < 256) : c ∈ idsOf p ↔ (nth 0 p (c / 8)).getLsbD (c % 8) = true := by
  simp [idsOf, hc]

/-- A carriage whose state is brought up to date, told where it is enabled. -/
def stateTold (held : Bool) (x y : Chip) (c : Nat) : Chip :=
  if fon x (F.CARR_CFG_en c) then setCause (raise (refreshState y c) srcCarr 0x05 (b1 c ++ b1 held.toNat)) .carr
  else refreshState y c

theorem stateTold_only (held : Bool) (x y : Chip) (c : Nat) : OnlyCarrs [c] y (stateTold held x y c) := by
  have hstate : OnlyCarrs [c] y (refreshState y c) := .refreshState y (List.mem_singleton_self c)
  exact .ite (hstate.trans ((OnlyCarrs.raise ..).trans (OnlyCarrs.setCause ..))) hstate

theorem carrOf_stateTold (held : Bool) (x y : Chip) (c : Nat) : carrOf (stateTold held x y c) c = carrOf y c := by
  unfold stateTold
  split <;> simp

theorem carrState_stateTold (held : Bool) (x y : Chip) (c : Nat) : carrState (stateTold held x y c) c = ownState y c := by
  unfold stateTold
  split <;> simp

theorem carrHeld_enters (x : Chip) (c : Nat) : carrHeld true x c =
    if inProgress x c then x else stateTold true x (setCarr x c { carrOf x c with disc := true }) c := rfl

theorem carrHeld_leaves (x : Chip) (c : Nat) : carrHeld false x c =
    if carrState x c = 3 then stateTold false x (carrBegin x c) c else x := rfl

theorem carrHeld_only (held : Bool) (x : Chip) (c : Nat) : OnlyCarrs [c] x (carrHeld held x c) := by
  have hc : c ∈ [c] := List.mem_singleton_self c
  cases held with
  | true =>
    rw [carrHeld_enters]
    exact .ite (.refl ..) ((OnlyCarrs.setCarr x _ hc).trans (stateTold_only ..))
  | false =>
    rw [carrHeld_leaves]
    exact .ite ((OnlyCarrs.setCarr x _ hc).trans (stateTold_only ..)) (.refl ..)

/-- What a new map of the foot's ids does to carriage c. -/
def idmapAt (ids old : List Nat) (x : Chip) (c : Nat) : Chip :=
  if c ∈ ids ∧ c ∉ old then carrHeld true x c else if c ∉ ids ∧ c ∈ old then carrHeld false x c else x

theorem takeIdmap_eq (x : Chip) (p : List Byte) :
    takeIdmap x p = (List.range 256).foldl (idmapAt (idsOf p) x.heldMap) { x with heldMap := idsOf p } := rfl

theorem idmapAt_only (ids old : List Nat) (x : Chip) (c : Nat) : OnlyCarrs [c] x (idmapAt ids old x c) :=
  .ite (carrHeld_only ..) (.ite (carrHeld_only ..) (.refl ..))

theorem foldl_only {f : Chip → Nat → Chip} (hf : ∀ y k, OnlyCarrs [k] y (f y k)) (l : List Nat) :
    ∀ x, OnlyCarrs l x (l.foldl f x) := by
  induction l with
  | nil => exact fun x => .refl [] x
  | cons k l ih => exact fun x => ((hf x k).mono (by simp)).trans ((ih _).mono (by simp))

/-- Of updates of one carriage each, that of carriage c meets and leaves it as the others do not touch it. -/
theorem foldl_meets {f : Chip → Nat → Chip} (hf : ∀ y k, OnlyCarrs [k] y (f y k)) (hl : l.Nodup) (hc : c ∈ l) (x : Chip) :
    ∃ y before later, c ∉ before ∧ c ∉ later ∧ OnlyCarrs before x y ∧ OnlyCarrs later (f y c) (l.foldl f x) := by
  obtain ⟨before, later, rfl⟩ := List.append_of_mem hc
  have hmid := List.nodup_middle.1 hl
  have hout := (List.nodup_cons.1 hmid).1
  rw [List.mem_append, not_or] at hout
  refine ⟨before.foldl f x, before, later, hout.1, hout.2, foldl_only hf before x, ?_⟩
  rw [List.foldl_append, List.foldl_cons]
  exact foldl_only hf later _

/-- What a carriage judges its state by stays as it is brought up to date and told. -/
theorem ownState_stateTold (held : Bool) (x y : Chip) (c : Nat) : ownState (stateTold held x y c) c = ownState y c := by
  have hkeep := stateTold_only held x y c
  have hen : fget (stateTold held x y c) (F.CARR_CFG_en c) = fget y (F.CARR_CFG_en c) := by
    have hstate : fget (refreshState y c) (F.CARR_CFG_en c) = fget y (F.CARR_CFG_en c) :=
      fget_refreshState _ _ (by simp [F.CARR_CFG_en]) (by simp [Fld.Apart, F.CARR_CFG_en, F.CARR_CFG_state])
    unfold stateTold
    split
    · rw [fget_setCause_carr (c := c) _ _ rfl, fget_raise_carr (c := c) _ _ _ _ rfl, hstate]
    · exact hstate
  exact ownState_congr hkeep.isHead hkeep.heldMap (congrArg (· != 0) hen) (by rw [carrOf_stateTold])

/-- The head's map of reserved ids before any carriage follows it. -/
def mapTaken (x : Chip) (p : List Byte) : Chip := { x with heldMap := idsOf p }

theorem takeIdmap_only (x : Chip) (p : List Byte) : OnlyCarrs (List.range 256) (mapTaken x p) (takeIdmap x p) :=
  takeIdmap_eq x p ▸ foldl_only (idmapAt_only _ _) _ _

theorem heldMap_takeIdmap (x : Chip) (p : List Byte) : (takeIdmap x p).heldMap = idsOf p := (takeIdmap_only x p).heldMap

section
variable (p : List Byte) (hc : c < 256)
include hc

/-- A new map as carriage c meets it and as it is left. -/
theorem takeIdmap_meets (x : Chip) : ∃ y before later, c ∉ before ∧ c ∉ later ∧ OnlyCarrs before (mapTaken x p) y ∧
    OnlyCarrs later (idmapAt (idsOf p) x.heldMap y c) (takeIdmap x p) :=
  foldl_meets (idmapAt_only _ _) List.nodup_range (List.mem_range.2 hc) _

/-- A reserved id without a segment in progress is held at once. -/
theorem carrState_takeIdmap_enters (hh : isHead x = true) (hin : c ∈ idsOf p) (hold : c ∉ x.heldMap)
    (hp : inProgress x c = false) : carrState (takeIdmap x p) c = 3 := by
  obtain ⟨y, before, later, hb, hl, hto, hfrom⟩ := takeIdmap_meets p hc x
  have hidle : inProgress y c = false := (hto.inProgress hb).trans hp
  have hat : idmapAt (idsOf p) x.heldMap y c = stateTold true y (setCarr y c { carrOf y c with disc := true }) c := by
    rw [idmapAt, if_pos ⟨hin, hold⟩, carrHeld_enters, hidle]
    rfl
  rw [hfrom.carrState hl, hat, carrState_stateTold]
  exact ownState_held (hto.isHead.trans hh) (hto.heldMap.symm ▸ hin)

/-- An id whose place in the map stays, and one with a segment in progress that is reserved now, keep their descriptor. -/
theorem rd_takeIdmap_kept (h : (c ∈ idsOf p ↔ c ∈ x.heldMap) ∨ (c ∈ idsOf p ∧ c ∉ x.heldMap ∧ inProgress x c = true)) :
    rd (takeIdmap x p) (R.CARR_CFG c) = rd x (R.CARR_CFG c) := by
  obtain ⟨y, before, later, hb, hl, hto, hfrom⟩ := takeIdmap_meets p hc x
  have hat : idmapAt (idsOf p) x.heldMap y c = y := by
    rcases h with h | ⟨hin, hold, hp⟩
    · rw [idmapAt, if_neg (fun hm => hm.2 (h.1 hm.1)), if_neg (fun hm => hm.1 (h.2 hm.2))]
    · rw [idmapAt, if_pos ⟨hin, hold⟩, carrHeld_enters, (hto.inProgress hb).trans hp]
      rfl
  rw [hfrom.rd_cfg hl, hat, hto.rd_cfg hb]
  rfl

/-- A held id that is released begins afresh in its own state. -/
theorem takeIdmap_leaves (hout : c ∉ idsOf p) (hold : c ∈ x.heldMap) (hs : carrState x c = 3) :
    carrState (takeIdmap x p) c = ownState (takeIdmap x p) c ∧ (carrOf (takeIdmap x p) c).disc = true := by
  obtain ⟨y, before, later, hb, hl, hto, hfrom⟩ := takeIdmap_meets p hc x
  have hheld : carrState y c = 3 := (hto.carrState hb).trans hs
  have hat : idmapAt (idsOf p) x.heldMap y c = stateTold false y (carrBegin y c) c := by
    rw [idmapAt, if_neg (fun hm => hout hm.1), if_pos ⟨hout, hold⟩, carrHeld_leaves, if_pos hheld]
  constructor
  · rw [hfrom.carrState hl, hfrom.ownState hl, hat, carrState_stateTold, ownState_stateTold]
  · rw [hfrom.others c hl, hat, carrOf_stateTold, carrBegin, carrOf_setCarr_same]

end

theorem chipOnly_onChip (f : Chip → Chip) (s : State) : ChipOnly s (onChip f s) := rfl

/-- IDMAP_SEGMENT at a head in MAP_XCHG or RUN. -/
theorem exec_idmapSegment {p : List Byte} (hh : isHead s.chip = true)
    (hst : fget s.chip F.LINK_STATE_state = 4 ∨ fget s.chip F.LINK_STATE_state = 5) : exec (.idmapSegment p) s =
    .next (onChip (fun x => if p.length = 32 then takeIdmap x p else peerViol x 8 (rd x R.LINK_TRAIN).toNat) s) :=
  congrArg Host.Outcome.next (if_pos ⟨hh, by omega, by omega⟩)

theorem exec_idmapSegment_idle {p : List Byte} (h : isHead s.chip = false ∨ fget s.chip F.LINK_STATE_state < 4 ∨
    5 < fget s.chip F.LINK_STATE_state) : exec (.idmapSegment p) s = .next s := by
  refine congrArg Host.Outcome.next (if_neg ?_)
  rintro ⟨hh, hlo, hhi⟩
  rcases h with h | h
  · exact Bool.false_ne_true (h.symm.trans hh)
  · omega

/-- Settles O48: shedding by the fuel that suffices, one carriage shed, one restored, and the map of the foot's ids. -/
theorem sheddingAndReservedIds : Obligations.SheddingAndReservedIds := by
  unfold Obligations.SheddingAndReservedIds
  refine ⟨fun s hh hr => ⟨exec_carrShed hh hr rfl, fun hfit => ?fitting, fun c hfit hc hy => ?once⟩,
    fun x => shedLoop_ends 256 x (length_carrRuns_le x), fun x c h => ?pick, fun x c cause hc => ?shed,
    fun s hh hr => ⟨fun h => exec_carrRestore hh hr (g := fun x => x) (carrRestore_none h), fun c hc => ?restore⟩,
    fun s => exec_carrShed_carrRestore_idle, fun p s hh hst hlen => ?map, fun p s => ⟨fun hh hst hlen => ?length,
    exec_idmapSegment_idle⟩⟩
  case fitting => exact exec_carrShed hh hr (g := fun x => x) (shedLoop_fits 256 hfit)
  case once => exact exec_carrShed hh hr (g := fun _ => carrShed s.chip c 0) ((shedLoop_sheds 255 hfit hc).trans (shedLoop_fits 255 hy))
  case pick =>
    obtain ⟨hmem, hall⟩ := shedPick_some h
    obtain ⟨-, hs, hn⟩ := mem_carrRuns.1 hmem
    exact ⟨hs, hn, fun d hd hds hdn => hall d (mem_carrRuns.2 ⟨hd, hds, hdn⟩)⟩
  case shed =>
    intro y
    have hset : (carrOf (setCarr x c { carrOf x c with shed := some cause, disc := true }) c).shed.isSome = true := by simp
    refine ⟨shed_carrShed x c cause, ?_, ?_, nextSeq_carrShed x c cause, carrState_shed_later cause, fun hp => ?_,
      fun b hlog hcfg => (carrShed_only x c cause).regs b hlog (by simpa using hcfg)⟩
    · simp only [y, carrShed_eq, carrOf_setCarr_same, carrOf_shedTold]
    · exact fget_fset_same _ IntCause.carr.fld 1 (by decide)
    · have hown : carrState y c = _ := carrState_shed_now cause hp
      rw [hown]
      exact ⟨ownState_ne_run hset, fun hen hm => ownState_shed hen hm hset⟩
  case restore =>
    exact ⟨fun hfit => exec_carrRestore hh hr (g := fun x => x) ((carrRestore_some hc).trans (if_neg (ne_true_of_eq_false hfit))),
      fun hfit => exec_carrRestore hh hr ((carrRestore_some hc).trans (if_pos hfit))⟩
  case map =>
    have hexec : exec (.idmapSegment p) s = .next (onChip (fun x => takeIdmap x p) s) :=
      (exec_idmapSegment hh hst).trans (congrArg Host.Outcome.next (onChip_congr (if_pos hlen)))
    refine ⟨_, hexec, chipOnly_onChip _ s, ?_⟩
    rw [onChip_chip]
    exact ⟨heldMap_takeIdmap s.chip p, fun c => mem_idsOf, fun c hc => carrState_takeIdmap_enters p hc hh,
      fun c hc hin hold hp => rd_takeIdmap_kept p hc (.inr ⟨hin, hold, hp⟩), fun c hc => takeIdmap_leaves p hc,
      fun c hc h => rd_takeIdmap_kept p hc (.inl h)⟩
  case length =>
    exact (exec_idmapSegment hh hst).trans (congrArg Host.Outcome.next (onChip_congr (if_neg hlen)))

end Sys2Proof.Machine
end

section
/-! The whisper channel (R240 to R245): the octets and the keying of a frame, one reading of the receiver, what it frames, a complete
frame, what its commands do, and the statement about them. -/
namespace Sys2Proof.Machine

variable {x y : Chip} {s : State} {f : List Byte}

/-- A command that does something to the chip does anything that comes to the same on this one. -/
theorem exec_does {i : Instr} {f g : Chip → Chip} (he : exec i s = .next (onChip f s)) (h : f s.chip = g s.chip) :
    exec i s = .next (onChip g s) := he.trans (congrArg Host.Outcome.next (onChip_congr h))

/-! The frame of a command (R243, R244). -/

/-- The arguments of a command: the pattern, but for NOP. -/
def wspArgs (x : Chip) (cmd : Nat) : List Byte := if cmd = 0x4E then [] else le 4 (rd x R.LINK_WSP_PATTERN).toNat

theorem length_wspArgs (x : Chip) (cmd : Nat) : (wspArgs x cmd).length = if cmd = 0x4E then 0 else 4 := by
  rw [wspArgs]
  split
  · rfl
  · exact length_le 4 _

/-- A frame begins at 0x7E, and the length of its arguments stands after the command. -/
theorem wspFrame_eq (x : Chip) (cmd : Nat) : ∃ crc, wspFrame x cmd =
    0x7E#8 :: BitVec.ofNat 8 cmd :: BitVec.ofNat 8 (wspArgs x cmd).length :: (wspArgs x cmd ++ [crc]) := by
  refine ⟨BitVec.ofNat 8 (crc8 (b1 cmd ++ b1 (wspArgs x cmd).length ++ wspArgs x cmd)), ?_⟩
  simp only [wspFrame, b1_eq, wspArgs, List.cons_append, List.nil_append]

/-- A frame is complete, and its first octets are its mark, its command and its length. -/
theorem wspFrame_fields (x : Chip) {cmd : Nat} (h : cmd < 256) : wspComplete (wspFrame x cmd) = true ∧
    field (wspFrame x cmd) 0 1 = 0x7E ∧ field (wspFrame x cmd) 1 1 = cmd ∧
    field (wspFrame x cmd) 2 1 = (if cmd = 0x4E then 0 else 4) := by
  obtain ⟨crc, he⟩ := wspFrame_eq x cmd
  have hlen : (wspArgs x cmd).length = if cmd = 0x4E then 0 else 4 := length_wspArgs x cmd
  have hle : (wspArgs x cmd).length ≤ 4 := by rw [hlen]; split <;> omega
  have h2 : field (wspFrame x cmd) 2 1 = (wspArgs x cmd).length := by
    simp only [he, field, List.drop_succ_cons, List.drop_zero, List.take_succ_cons, List.take_zero, unle, BitVec.toNat_ofNat]
    omega
  refine ⟨?_, by rw [he]; rfl, ?_, h2.trans hlen⟩
  · rw [wspComplete, h2, he]
    simp only [List.length_cons, List.length_append, List.length_nil, Bool.and_eq_true, decide_eq_true_eq, beq_iff_eq]
    omega
  · simp only [he, field, List.drop_succ_cons, List.drop_zero, List.take_succ_cons, List.take_zero, unle, BitVec.toNat_ofNat]
    omega

/-! Keying (R240). -/

/-- A character's bits: a start bit, the octet's bits from the lowest, a stop bit. -/
theorem nth_charBits (b : Byte) {j : Nat} (h : j < 10) :
    (!nth true (charBits b) j) = (decide (j = 0) || (decide (j ≤ 8) && !b.getLsbD (j - 1))) := by
  interval_cases j <;> simp [charBits, bitsLsb, nth, List.range_succ]

theorem length_charBits (b : Byte) : (charBits b).length = 10 := rfl

/-- Bit i of a frame is a bit of its octet i/10. -/
theorem nth_flatMap_charBits : ∀ (f : List Byte) (i : Nat), i < 10 * f.length →
    nth true (f.flatMap charBits) i = nth true (charBits (nth 0 f (i / 10))) (i % 10)
  | [], i, h => absurd h (Nat.not_lt_zero i)
  | b :: f, i, h => by
    simp only [nth, List.flatMap_cons]
    rcases Nat.lt_or_ge i 10 with hi | hi
    · rw [List.getElem?_append_left hi, Nat.div_eq_of_lt hi, Nat.mod_eq_of_lt hi]
      rfl
    · obtain ⟨k, rfl⟩ := Nat.exists_eq_add_of_le hi
      have ih := nth_flatMap_charBits f k (by simp only [List.length_cons] at h; omega)
      simp only [nth] at ih
      rw [List.getElem?_append_right hi, length_charBits, Nat.add_sub_cancel_left, ih, Nat.add_mod_left,
        Nat.add_div_left k (by decide), List.getElem?_cons_succ]

theorem length_flatMap_charBits (f : List Byte) : (f.flatMap charBits).length = 10 * f.length := by
  simp only [List.length_flatMap, length_charBits, List.map_const', List.sum_replicate, smul_eq_mul, Nat.mul_comm]

/-- Each bit of a frame is keyed, carrier on for 0, for 427, 427 and 426 cycles in turn. -/
theorem getElem?_keying {i : Nat} (h : i < 10 * f.length) : (keying f)[i]? = some (decide (i % 10 = 0) ||
    (decide (i % 10 ≤ 8) && !(nth 0 f (i / 10)).getLsbD (i % 10 - 1)), if i % 3 = 2 then 426 else 427) := by
  rw [keying, List.getElem?_map, List.getElem?_range (by rwa [length_flatMap_charBits]), Option.map_some,
    nth_flatMap_charBits f i h, nth_charBits _ (Nat.mod_lt i (by decide))]
  rfl

/-! A foot's frames (R240, R265). -/

theorem wspTx_sends (cmd : Nat) (h : dUp x = true) : wspTx x cmd =
    { x with wsp := { x.wsp with sent := wspFrame x cmd, keyed := keying (wspFrame x cmd) } } := if_pos h

theorem wspTx_down (cmd : Nat) (h : dUp x = false) : wspTx x cmd = x := if_neg (ne_true_of_eq_false h)

theorem exec_wspSend (hm : mgmtUp s.chip = true) (hf : isFoot s.chip = true) :
    exec .wspSend s = .next (onChip (fun x => wspTx x (fget x F.LINK_WSP_TX_cmd)) s) :=
  congrArg Host.Outcome.next (if_pos (by rw [hm, hf]; rfl))

theorem exec_wspSend_idle (h : mgmtUp s.chip = false ∨ isFoot s.chip = false ∨ dUp s.chip = false) :
    exec .wspSend s = .next s := by
  by_cases hs : (mgmtUp s.chip && isFoot s.chip) = true
  · obtain ⟨hm, hf⟩ := (Bool.and_eq_true ..).mp hs
    have hd : dUp s.chip = false := by simpa [hm, hf] using h
    exact exec_does (g := fun x => x) (exec_wspSend hm hf) (wspTx_down _ hd)
  · exact congrArg Host.Outcome.next (if_neg hs)

theorem exec_wakeFrameTx (hf : isFoot s.chip = true) (hd : dUp s.chip = true)
    (hl : linkState s.chip = 1 ∨ linkState s.chip = 6) : exec .wakeFrameTx s = .next (onChip (fun x => wspTx x 0x57) s) :=
  congrArg Host.Outcome.next (if_pos ⟨hf, hd, hl⟩)

theorem exec_wakeFrameTx_idle
    (h : isFoot s.chip = false ∨ dUp s.chip = false ∨ (linkState s.chip ≠ 1 ∧ linkState s.chip ≠ 6)) :
    exec .wakeFrameTx s = .next s := by
  refine congrArg Host.Outcome.next (if_neg ?_)
  rintro ⟨hf, hd, hl⟩
  rw [hf, hd] at h
  simp only [lsWake, lsLost] at hl
  simp at h
  omega

/-! Receiver: one reading of an idle receiver (R241, R242). -/

/-- An idle receiver takes a reading: an edge starts a character and the oscillator. -/
theorem tick_idle {w : WspRt} (hrx : w.rx = none) (hh : w.hold = none) (mv : Nat) :
    let c := envelope w.carrier mv
    tick w mv = (.nothing, { w with
      carrier := c, osc := oscStep w.osc (c != w.carrier), rx := if c && !w.carrier then some [true] else none }) := by
  simp only [tick, hrx, hh]
  split <;> rfl

theorem wspTick_idle (hrx : x.wsp.rx = none) (hh : x.wsp.hold = none) (mv : Nat) :
    let c := envelope x.wsp.carrier mv
    wspTick x mv = { x with wsp := { x.wsp with
      carrier := c, osc := oscStep x.wsp.osc (c != x.wsp.carrier), rx := if c && !x.wsp.carrier then some [true] else none } } := by
  simp only [wspTick, tick_idle hrx hh, wspFramed]

theorem exec_wspCharacter (hr : wspRuns s.chip = true) (mv : List Nat) :
    exec (.wspCharacter mv) s = .next (onChip (fun x => mv.foldl wspTick x) s) := congrArg Host.Outcome.next (if_pos hr)

/-! Errors and events of the receiver (R242 to R245). -/

theorem mgmtUp_congr (h : y.pw = x.pw) : mgmtUp y = mgmtUp x := by rw [mgmtUp, mgmtUp, h]

theorem mgmtUp_count (x : Chip) (a : Nat) (w : Fld) (n : Nat) : mgmtUp (count x a w n) = mgmtUp x :=
  mgmtUp_congr (by rw [count_rest])

theorem phase_count (x : Chip) (a : Nat) (w : Fld) (n : Nat) : (count x a w n).pw.phase = x.pw.phase := by rw [count_rest]

theorem wsp_count (x : Chip) (a : Nat) (w : Fld) (n : Nat) : (count x a w n).wsp = x.wsp := by rw [count_rest]

theorem rd_count_one (x : Chip) (a : Nat) (w : Fld) (h : w.addr ≠ a) : rd (count x a w 1) a = rd x a + 1 := by
  rw [rd_count_same _ _ _ _ h, BitVec.ofNat_add, BitVec.ofNat_toNat, BitVec.setWidth_eq]
  rfl

/-- Outside GLIDE an error counts in its register alone. -/
theorem wspErr_counts (hp : x.pw.phase ≠ .glide) : wspErr x = count x R.LINK_WSP_ERR_COUNT F.LINK_WSP_CFG_err_wrap 1 :=
  if_neg hp

/-- An error is counted by one, in GLIDE for its sum too, and changes nothing else that is told. -/
theorem wspErr_effect (x : Chip) : rd (wspErr x) R.LINK_WSP_ERR_COUNT = rd x R.LINK_WSP_ERR_COUNT + 1 ∧
    (x.pw.phase = .glide → (wspErr x).pw.wspGlideErr = x.pw.wspGlideErr + 1) ∧ (wspErr x).lg = x.lg := by
  have hrd := rd_count_one x R.LINK_WSP_ERR_COUNT F.LINK_WSP_CFG_err_wrap (by decide)
  by_cases hp : x.pw.phase = .glide
  · simp only [wspErr, if_pos hp]
    exact ⟨hrd, fun _ => by rw [count_rest], by rw [count_rest]⟩
  · rw [wspErr_counts hp]
    exact ⟨hrd, fun h => absurd h hp, by rw [count_rest]⟩

theorem wspErr_pw_phase (x : Chip) : (wspErr x).pw.phase = x.pw.phase := by
  unfold wspErr
  dsimp only
  split <;> exact phase_count ..

theorem mgmtUp_wspErr (x : Chip) : mgmtUp (wspErr x) = mgmtUp x := by rw [mgmtUp, mgmtUp, wspErr_pw_phase]

theorem wspLog_up {code : Nat} {args : List Byte} (h : mgmtUp x = true) : wspLog x code args = raise x srcLink code args := if_pos h

theorem wspLog_down {code : Nat} {args : List Byte} (h : mgmtUp x = false) : wspLog x code args = x :=
  if_neg (ne_true_of_eq_false h)

/-- While management runs, a bad frame is dropped, counted and logged. -/
theorem wspBad_up (why : Nat) (hm : mgmtUp x = true) (hp : x.pw.phase ≠ .glide) : wspBad x why =
    raise (count { x with wsp := { x.wsp with buf := [], frame := none } } R.LINK_WSP_ERR_COUNT F.LINK_WSP_CFG_err_wrap 1)
      srcLink 0x05 (b1 why) := by
  rw [wspBad, wspLog_up (by rw [mgmtUp_wspErr]; exact hm), wspErr_counts (by exact hp)]

/-- While management runs, a framing error drops the frame, counted and logged. -/
theorem wspFraming_up (stop0 : Bool) (hm : mgmtUp x = true) (hp : x.pw.phase ≠ .glide) : wspFraming x stop0 =
    raise (count { x with wsp := { x.wsp with buf := [] } } R.LINK_WSP_ERR_COUNT F.LINK_WSP_CFG_err_wrap 1)
      srcLink 0x04 (b1 x.wsp.buf.length ++ b1 stop0.toNat) := by
  rw [wspFraming, wspLog_up (by rw [mgmtUp_wspErr]; exact hm), wspErr_counts (by exact hp)]

/-- Without management a framing error drops the frame and is counted alone. -/
theorem wspFraming_down (stop0 : Bool) (hm : mgmtUp x = false) :
    wspFraming x stop0 = wspErr { x with wsp := { x.wsp with buf := [] } } :=
  wspLog_down (by rw [mgmtUp_wspErr]; exact hm)

/-! Characters (R243). -/

/-- The octets of the frame in progress as a character finds them: none after a complete frame. -/
def wspOld (x : Chip) : List Byte := if wspComplete x.wsp.buf then [] else x.wsp.buf

theorem wspTake_begins (c : Byte) (h : wspOld x = []) :
    wspTake x c = { x with wsp := { x.wsp with buf := if c = 0x7E then [c] else [] } } := by
  rw [wspOld] at h
  simp only [wspTake, h, List.isEmpty_nil, if_true]
  refine if_neg fun hl => ?_
  have := hl.1
  split at this <;> simp at this

theorem wspTake_goes_on (c : Byte) (h : wspOld x ≠ []) (hl : ¬((wspOld x).length = 2 ∧ 8 < c.toNat)) :
    wspTake x c = { x with wsp := { x.wsp with buf := wspOld x ++ [c] } } := by
  rw [wspOld] at h hl ⊢
  simp only [wspTake, List.isEmpty_iff, h, if_false]
  refine if_neg fun hb => hl ⟨?_, hb.2⟩
  have := hb.1
  rw [List.length_append, List.length_singleton] at this
  omega

theorem wspTake_too_long (c : Byte) (hl : (wspOld x).length = 2) (hc : 8 < c.toNat) : wspTake x c = wspBad x 1 := by
  have h : wspOld x ≠ [] := fun e => absurd hl (by rw [e]; decide)
  rw [wspOld] at h hl
  simp only [wspTake, List.isEmpty_iff, h, if_false]
  exact if_pos ⟨by rw [List.length_append, hl]; rfl, hc⟩

/-! Complete frames, gaps and breaks (R243 to R245). -/

theorem exec_wspFrame (hr : wspRuns s.chip = true) (hc : wspComplete s.chip.wsp.buf = true) :
    exec .wspFrame s = .next (onChip wspJudge s) := congrArg Host.Outcome.next (if_pos ⟨hr, hc⟩)

theorem exec_wspFrameGap (hr : wspRuns s.chip = true) (hb : s.chip.wsp.buf ≠ []) :
    exec .wspFrameGap s = .next (onChip (fun x => wspBad x 2) s) := congrArg Host.Outcome.next (if_pos ⟨hr, hb⟩)

theorem exec_wspBreak (hr : wspRuns s.chip = true) : exec .wspBreak s = .next (onChip wspBreak s) :=
  congrArg Host.Outcome.next (if_pos hr)

/-- The CRC of the octets of a frame passes. -/
def WspCrcOk (buf : List Byte) : Prop := crc8 ((buf.drop 1).take (buf.length - 2)) = field buf (buf.length - 1) 1

theorem wspJudge_bad_crc (h : ¬WspCrcOk x.wsp.buf) : wspJudge x = wspBad x 0 := if_pos h

theorem wspJudge_good_crc (h : WspCrcOk x.wsp.buf) (hp : x.pw.phase ≠ .glide) :
    let x1 := count x R.LINK_WSP_RX_COUNT F.LINK_WSP_CFG_rx_wrap 1
    wspJudge x = if field x.wsp.buf 1 1 ∈ [0x57, 0x52, 0x4E] then
      { x1 with wsp := { x.wsp with buf := [], frame := some x.wsp.buf } } else wspBad x1 3 := by
  rw [WspCrcOk] at h
  simp only [wspJudge, h, ne_eq, not_true_eq_false, if_false, phase_count, hp, wsp_count]

/-! Commands (R244). -/

theorem wspIs_of_frame (hr : wspRuns x = true) (hf : x.wsp.frame = some f) (cmd : Nat) : wspIs x cmd = (field f 1 1 == cmd) := by
  rw [wspIs, hr, hf]
  rfl

theorem wspPattern_of_frame (hf : x.wsp.frame = some f) : wspPattern x =
    if field f 2 1 ≠ 4 then 1 else if field f 3 4 = (rd x R.LINK_WSP_PATTERN).toNat then 0 else 4 := by
  rw [wspPattern, hf]

/-- What WAKE and RESET have in common: with a good pattern the frame is spent and the command goes on. -/
def wspCommand (goes : State → State) (s : State) : State :=
  if wspPattern s.chip ≠ 0 then onChip (fun x => wspBad x (wspPattern s.chip)) (onChip wspSpent s)
  else if gliding s.chip then wspGlide (onChip wspSpent s) else goes (onChip wspSpent s)

/-- A WAKE with the right pattern outside GLIDE trains where the link may. -/
def wakeGoes (s : State) : State :=
  if wspActs s.chip && !shed s.chip then onChip (fun x => linkTrain (raise x srcLink 0x06 (b1 1))) s else s

/-- A RESET with the right pattern outside GLIDE resets where it may. -/
def resetGoes (s : State) : State := if wspResets s.chip then softReset s 1 else s

theorem exec_wspWake (h : wspIs s.chip 0x57 = true) : exec .wspWake s = .next (wspCommand wakeGoes s) :=
  congrArg Host.Outcome.next (if_pos h)

theorem exec_wspReset (h : wspIs s.chip 0x52 = true) : exec .wspReset s = .next (wspCommand resetGoes s) :=
  congrArg Host.Outcome.next (if_pos h)

theorem exec_wspNop (h : wspIs s.chip 0x4E = true) : exec .wspNop s = .next (onChip (fun x =>
    if (x.wsp.frame.map fun b => field b 2 1) = some 0 then wspSpent x else wspBad x 1) s) :=
  congrArg Host.Outcome.next (if_pos h)

/-- Without a receiver no command of a frame is at hand. -/
theorem exec_wsp_idle (h : wspRuns s.chip = false) (mv : List Nat) : exec (.wspCharacter mv) s = .next s ∧
    exec .wspFrame s = .next s ∧ exec .wspFrameGap s = .next s ∧ exec .wspBreak s = .next s ∧ exec .wspWake s = .next s ∧
    exec .wspReset s = .next s ∧ exec .wspNop s = .next s := by
  have hr : ¬wspRuns s.chip = true := ne_true_of_eq_false h
  have his : ∀ cmd, ¬wspIs s.chip cmd = true := fun cmd => by rw [wspIs, h]; exact Bool.false_ne_true
  exact ⟨congrArg Host.Outcome.next (if_neg hr), congrArg Host.Outcome.next (if_neg fun e => hr e.1),
    congrArg Host.Outcome.next (if_neg fun e => hr e.1), congrArg Host.Outcome.next (if_neg hr),
    congrArg Host.Outcome.next (if_neg (his _)), congrArg Host.Outcome.next (if_neg (his _)),
    congrArg Host.Outcome.next (if_neg (his _))⟩

section
variable {goes : State → State} (hf : s.chip.wsp.frame = some f)
include hf

theorem wspCommand_length (h : field f 2 1 ≠ 4) : wspCommand goes s = onChip (fun x => wspBad x 1) (onChip wspSpent s) := by
  have hp : wspPattern s.chip = 1 := by rw [wspPattern_of_frame hf, if_pos h]
  rw [wspCommand, hp]
  exact if_pos (by decide)

theorem wspCommand_wrong (h : field f 2 1 = 4) (hw : field f 3 4 ≠ (rd s.chip R.LINK_WSP_PATTERN).toNat) :
    wspCommand goes s = onChip (fun x => wspBad x 4) (onChip wspSpent s) := by
  have hp : wspPattern s.chip = 4 := by rw [wspPattern_of_frame hf, if_neg (not_not.mpr h), if_neg hw]
  rw [wspCommand, hp]
  exact if_pos (by decide)

theorem wspPattern_right (h : field f 2 1 = 4 ∧ field f 3 4 = (rd s.chip R.LINK_WSP_PATTERN).toNat) : wspPattern s.chip = 0 := by
  rw [wspPattern_of_frame hf, if_neg (not_not.mpr h.1), if_pos h.2]

/-- In GLIDE a command with the right pattern wakes the part where `wake_en` is set. -/
theorem wspCommand_wakes (h : field f 2 1 = 4 ∧ field f 3 4 = (rd s.chip R.LINK_WSP_PATTERN).toNat) (hg : gliding s.chip = true)
    (hen : fon s.chip F.LINK_WSP_CFG_wake_en = true) : wspCommand goes s = wakeUp (onChip wspSpent s) 1 0 := by
  rw [wspCommand, wspPattern_right hf h, if_neg (not_not.mpr rfl), if_pos hg]
  exact if_pos hen

theorem wspCommand_goes (h : field f 2 1 = 4 ∧ field f 3 4 = (rd s.chip R.LINK_WSP_PATTERN).toNat) (hg : gliding s.chip = false) :
    wspCommand goes s = goes (onChip wspSpent s) := by
  rw [wspCommand, wspPattern_right hf h, if_neg (not_not.mpr rfl)]
  exact if_neg (ne_true_of_eq_false hg)

end

theorem wspActs_iff (x : Chip) : wspActs x = true ↔ dUp x = true ∧ linkState x ≠ 5 := by
  rw [wspActs, Bool.and_eq_true, bne_iff_ne]
  rfl

theorem wspResets_iff (x : Chip) : wspResets x = true ↔
    x.pw.phase ≠ .waitPower ∧ x.pw.nrst = false ∧ fon x F.LINK_WSP_CFG_reset_en = true := by
  rw [wspResets, Bool.and_eq_true, Bool.and_eq_true, bne_iff_ne, Bool.not_eq_true']

theorem wakeGoes_trains (ha : dUp s.chip = true ∧ linkState s.chip ≠ 5) (hs : shed s.chip = false) :
    wakeGoes s = onChip (fun x => linkTrain (raise x srcLink 0x06 (b1 1))) s :=
  if_pos (by rw [(wspActs_iff s.chip).2 ha, hs]; rfl)

theorem wakeGoes_spent (h : ¬(dUp s.chip = true ∧ linkState s.chip ≠ 5) ∨ shed s.chip = true) : wakeGoes s = s := by
  refine if_neg fun hw => ?_
  obtain ⟨ha, hs⟩ := (Bool.and_eq_true ..).mp hw
  rcases h with h | h
  · exact h ((wspActs_iff s.chip).1 ha)
  · rw [h] at hs
    exact Bool.false_ne_true hs

/-- Settles O53: the foot's frames and their keying, the receiver's readings and what it frames, complete frames, and the commands
by the length and pattern of their frame. -/
theorem whisperCommands : Obligations.WhisperCommands := by
  unfold Obligations.WhisperCommands
  refine ⟨fun s => ⟨fun hm hf hd => ?send, exec_wspSend_idle, fun hf hd hl => ?wake, exec_wakeFrameTx_idle⟩,
    fun x cmd h => wspFrame_fields x h, fun f i h => getElem?_keying h, fun mv s hr => exec_wspCharacter hr mv,
    fun v s hr hrx hh => ?reading, fun x hm hp => ?framed, fun s => rfl, fun s hr hm hp => ?judged, fun s hr hm => ?down,
    fun mv s h => exec_wsp_idle h mv, fun f s hr hf => ?commands⟩
  case send => exact exec_does (exec_wspSend hm hf) (wspTx_sends _ hd)
  case wake => exact exec_does (exec_wakeFrameTx hf hd hl) (wspTx_sends _ hd)
  case reading =>
    refine exec_does (exec_wspCharacter hr [v]) ((wspTick_idle hrx hh v).trans ?_)
    simp only [envelope, oscStep, oscTicks, bne_iff_ne, ne_eq]
    rfl
  case framed =>
    refine ⟨rfl, wspErr_counts hp, fun z => wspFraming_up z hm hp, fun c h => wspTake_begins c h,
      fun c h hl => wspTake_goes_on c h hl, fun c hl hc => ?_⟩
    exact (wspTake_too_long c hl hc).trans (wspBad_up 1 hm hp)
  case judged =>
    refine ⟨?_, fun hb => ?_, fun hb => ?_, fun hc => ?_, fun hc => ⟨fun hok => ?_, fun hok hcmd => ?_, fun hok hcmd => ?_⟩⟩
    · exact exec_does (exec_wspBreak hr) (wspFraming_up true hm hp)
    · exact exec_does (exec_wspFrameGap hr hb) (wspBad_up 2 hm hp)
    · exact congrArg Host.Outcome.next (if_neg fun h => h.2 hb)
    · exact congrArg Host.Outcome.next (if_neg fun h => Bool.false_ne_true (hc.symm.trans h.2))
    · exact exec_does (exec_wspFrame hr hc) ((wspJudge_bad_crc hok).trans (wspBad_up 0 hm hp))
    · have hj := (wspJudge_good_crc hok hp).trans (if_neg hcmd)
      have hb := wspBad_up (x := count s.chip R.LINK_WSP_RX_COUNT F.LINK_WSP_CFG_rx_wrap 1) 3 (by rwa [mgmtUp_count])
        (by rwa [phase_count])
      exact exec_does (exec_wspFrame hr hc) (hj.trans hb)
    · exact exec_does (exec_wspFrame hr hc) ((wspJudge_good_crc hok hp).trans (if_pos hcmd))
  case down =>
    refine ⟨_, exec_wspBreak hr, chipOnly_onChip _ s, ?_⟩
    rw [onChip_chip, wspBreak, wspFraming_down true (by exact hm)]
    exact wspErr_effect _
  case commands =>
    have his : ∀ {cmd}, field f 1 1 = cmd → wspIs s.chip cmd = true := fun h => by rw [wspIs_of_frame hr hf, h, beq_self_eq_true]
    have wake : ∀ {t}, field f 1 1 = 0x57 → wspCommand wakeGoes s = t → exec .wspWake s = .next t :=
      fun h ht => (exec_wspWake (his h)).trans (congrArg Host.Outcome.next ht)
    have reset : ∀ {t}, field f 1 1 = 0x52 → wspCommand resetGoes s = t → exec .wspReset s = .next t :=
      fun h ht => (exec_wspReset (his h)).trans (congrArg Host.Outcome.next ht)
    refine ⟨fun h hl => wake h (wspCommand_length hf hl),
      fun h hl hw => wake h (wspCommand_wrong hf hl fun e => hw ⟨hl, e⟩),
      fun h hp hg hen => wake h (wspCommand_wakes hf hp hg hen),
      fun h hp hg ha hs => wake h ((wspCommand_goes hf hp hg).trans (wakeGoes_trains ha hs)),
      fun h hp hg ha => wake h ((wspCommand_goes hf hp hg).trans (wakeGoes_spent ha)),
      fun h hl => reset h (wspCommand_length hf hl),
      fun h hl hw => reset h (wspCommand_wrong hf hl fun e => hw ⟨hl, e⟩),
      fun h hp hg hen => reset h (wspCommand_wakes hf hp hg hen),
      fun h hp hg ha => reset h ((wspCommand_goes hf hp hg).trans (if_pos ((wspResets_iff s.chip).2 ha))),
      fun h hp hg ha => reset h ((wspCommand_goes hf hp hg).trans (if_neg (mt (wspResets_iff s.chip).1 ha))),
      fun h hl => exec_does (exec_wspNop (his h)) (if_pos ?_), fun h hl => exec_does (exec_wspNop (his h)) (if_neg ?_)⟩
    · rw [hf, Option.map_some, hl]
    · rw [hf, Option.map_some]
      exact fun e => hl (Option.some.inj e)

end Sys2Proof.Machine
end

section
/-! Work on the link (R224, R229, R231 to R233, R260 to R264, R273): how "maps, receiver and violations alone" composes, and which
operations do no more. -/
namespace Sys2Proof.Machine

variable {x y z : Chip}

/-- The registers that show the maps of both directions, the receiver's tracking and violations. -/
def linkRegs : List Nat := [R.LINK_STATE, R.LINK_PHY_STATUS, R.LINK_AGC, R.LINK_TRACK, R.LINK_SNR, R.LINK_SYNC_FIX_COUNT,
  R.LINK_MAP_STATUS, R.LINK_DN_AT, R.LINK_UP_AT, R.LINK_DN_CAP, R.LINK_UP_CAP, R.LINK_VIOL_COUNT, R.LINK_PROTO_STATUS]

/-- A field of these registers that shares no bit with the link's state. -/
def linkFld (f : Fld) : Bool :=
  linkRegs.contains f.addr && decide (R.LINK_STATE ≠ f.addr ∨ f.lo + f.width ≤ 0 ∨ 4 ≤ f.lo)

/-- Of the link's memory only the directions' maps, what waits to be sent and the proposer's bookkeeping change, of the registers
only those that show maps, tracking and violations and those of the log, and the link's state stays. -/
structure LinkWork (x y : Chip) : Prop where
  lk : y.lk = { x.lk with
    dn := y.lk.dn, up := y.lk.up, out := y.lk.out, slow := y.lk.slow, viol := y.lk.viol, notchDue := y.lk.notchDue }
  regs : ∀ b, b ∉ linkRegs → b ∉ logRegs → rd y b = rd x b
  state : linkState y = linkState x

namespace LinkWork

theorem refl (x : Chip) : LinkWork x x := ⟨rfl, fun _ _ _ => rfl, rfl⟩

theorem trans (h1 : LinkWork x y) (h2 : LinkWork y z) : LinkWork x z := by
  refine ⟨h2.lk.trans ?_, fun b hb hl => (h2.regs b hb hl).trans (h1.regs b hb hl), h2.state.trans h1.state⟩
  rw [h1.lk]

theorem ite {p : Prop} [Decidable p] (hy : LinkWork x y) (hz : LinkWork x z) : LinkWork x (if p then y else z) := by
  split <;> assumption

/-- A change of the link's memory alone. -/
theorem of_lk {l : LinkRt} (h : l = { x.lk with
    dn := l.dn, up := l.up, out := l.out, slow := l.slow, viol := l.viol, notchDue := l.notchDue }) : LinkWork x { x with lk := l } :=
  ⟨h, fun _ _ _ => rfl, rfl⟩

theorem fset (x : Chip) {f : Fld} (v : Nat) (h : linkFld f = true) : LinkWork x (fset x f v) := by
  simp only [linkFld, Bool.and_eq_true, List.contains_iff_mem, decide_eq_true_eq] at h
  refine ⟨rfl, fun b hb _ => rd_fset_ne _ _ _ _ fun e => hb (e ▸ h.1), fget_fset_apart _ _ _ _ (by decide) ?_⟩
  exact h.2.imp_right fun h => h.symm

theorem fsets (m : List (Fld × Nat)) : ∀ x, (m.all fun e => linkFld e.1) = true → LinkWork x (fsets x m) := by
  induction m with
  | nil => exact fun x _ => refl x
  | cons e m ih =>
    intro x h
    obtain ⟨he, hm⟩ := (Bool.and_eq_true ..).mp h
    exact (fset x e.2 he).trans (ih _ hm)

theorem count (x : Chip) {a : Nat} {w : Fld} (n : Nat) (ha : a ∈ linkRegs ∧ a ≠ R.LINK_STATE) (hw : linkFld w = true) :
    LinkWork x (count x a w n) := by
  have hwr : LinkWork x (wr x a (BitVec.ofNat 32 ((rd x a).toNat + n))) :=
    ⟨rfl, fun b hb _ => rd_wr_ne _ _ _ _ fun e => hb (e ▸ ha.1), fget_wr_ne _ _ _ _ ha.2.symm⟩
  exact ite (hwr.trans (fset _ 1 hw)) hwr

theorem raise (x : Chip) (src code : Nat) (args : List Byte) : LinkWork x (raise x src code args) :=
  ⟨by rw [raise_rest], fun b _ hl => rd_raise _ _ _ _ _ hl, fget_raise _ _ _ _ _ (by decide)⟩

/-! Maps (R258 to R264, R276). -/

theorem setDir (x : Chip) (d : Nat) (l : LinkDir) : LinkWork x (setDir x d l) :=
  ite ((of_lk rfl).trans (fsets _ _ rfl)) ((of_lk rfl).trans (fsets _ _ rfl))

theorem sendSeg (x : Chip) (s : Seg) (n : Option Nat) : LinkWork x (sendSeg x s n) := of_lk rfl

theorem rejectMap (x : Chip) (d id why a : Nat) : LinkWork x (rejectMap x d id why a) := (sendSeg ..).trans (raise ..)

theorem acknowledge (x : Chip) (d : Nat) (m : LoadMap) (a : Nat) : LinkWork x (acknowledge x d m a) :=
  (setDir ..).trans ((sendSeg ..).trans (raise ..))

theorem arriveOne (d a : Nat) (acc : Chip × List Proposal) (p : Proposal) : LinkWork acc.1 (arriveOne d a acc p).1 := by
  unfold Machine.arriveOne
  dsimp only
  split
  · split
    · exact sendSeg ..
    · split
      · exact rejectMap ..
      · exact refl _
  · split
    · exact rejectMap ..
    · exact refl _

theorem arrivals (d a : Nat) (l : List Proposal) : ∀ acc : Chip × List Proposal,
    LinkWork acc.1 (l.foldl (Machine.arriveOne d a) acc).1 := by
  induction l with
  | nil => exact fun acc => refl _
  | cons p l ih => exact fun acc => (arriveOne d a acc p).trans (ih _)

theorem proposalsArrive (x : Chip) (d a : Nat) : LinkWork x (proposalsArrive x d a) := by
  unfold Machine.proposalsArrive
  dsimp only
  have h := (setDir x d _).trans (arrivals d a ((dirOf x d).inbox.filter fun p => !future p.due a)
    (Machine.setDir x d { dirOf x d with inbox := (dirOf x d).inbox.filter fun p => future p.due a }, []))
  split
  next heq =>
    rw [heq] at h
    exact h.trans (ite (acknowledge ..) (setDir ..))
  next heq =>
    rw [heq] at h
    exact h

theorem propose (x : Chip) (d now : Nat) : LinkWork x (propose x d now) := by
  have h0 : LinkWork x (if 10 < recentFails x then { x with lk := { x.lk with slow := true } } else x) :=
    ite (of_lk rfl) (refl x)
  exact h0.trans ((setDir ..).trans ((sendSeg ..).trans (ite (raise ..) (refl _))))

theorem mapSwitch (x : Chip) (d k : Nat) (m : LoadMap) (notch : Option (List (Nat × Nat))) : LinkWork x (mapSwitch x d k m notch) :=
  (setDir ..).trans (raise ..)

/-- A switch of the upstream map sheds nothing. -/
theorem switchDue_up (x : Chip) (k : Nat) : LinkWork x (switchDue x 1 k) := by
  unfold switchDue
  split
  · refine ite (refl x) ?_
    rw [if_neg (by simp)]
    exact mapSwitch ..
  · exact refl x

theorem ackHeld (x : Chip) (d k : Nat) : LinkWork x (ackHeld x d k) := by
  unfold Machine.ackHeld
  dsimp only
  split
  · exact ite (refl x) ((setDir ..).trans (ite (acknowledge ..) (rejectMap ..)))
  · exact refl x

theorem notchAnnounce (x : Chip) (d : Nat) : LinkWork x (notchAnnounce x d) :=
  ite ((of_lk rfl).trans ((setDir ..).trans (sendSeg ..))) (refl x)

/-- The slot of a train opens at the foot, and its maps are seen to. -/
theorem footSlot (x : Chip) (k : Nat) : LinkWork { x with lk := { x.lk with slot := some 0, slotAt := k } } (footSlot x k) :=
  ite (ite (switchDue_up _ k)
    ((notchAnnounce _ 1).trans ((ackHeld _ 1 k).trans ((switchDue_up _ k).trans (proposalsArrive _ 1 k))))) (refl _)

/-! Receiver (R229, R231 to R233, R273). -/

theorem peerViol (x : Chip) (reason train : Nat) : LinkWork x (peerViol x reason train) :=
  (count x 1 (by decide) (by decide)).trans (ite ((of_lk rfl).trans (raise ..)) (refl _))

theorem setRx (x : Chip) (st : Nat) : LinkWork x (setRx x st) := ite (refl x) ((fset _ _ (by decide)).trans (raise ..))

theorem trackShow (x : Chip) (cfo sco : Int) : LinkWork x (trackShow x cfo sco) :=
  have h := fsets [(F.LINK_TRACK_cfo, tcomp 16 (max (-20000) (min cfo 20000))),
    (F.LINK_TRACK_sco, tcomp 16 (max (-10000) (min sco 10000)))] x rfl
  ite h (h.trans ((fset _ 1 (by decide)).trans (raise ..)))

theorem agcShow (x : Chip) (levels : List Int) (missing : Bool) : LinkWork x (agcShow x levels missing) := by
  unfold Machine.agcShow
  dsimp only
  split
  · exact fset x _ (by decide)
  · exact (fset x _ (by decide)).trans ((fset _ 1 (by decide)).trans (raise ..))

theorem setSnr (x : Chip) (d : Nat) (snr : List Nat) : LinkWork x (setSnr x d snr) :=
  (setDir ..).trans (ite (fsets _ _ rfl) (fset _ _ (by decide)))

theorem measure (x : Chip) (d : Nat) (gain : List Nat) (sound : Bool) (symbols : List (List Nat)) :
    LinkWork x (measure x d gain sound symbols) :=
  ite (refl x) ((setDir ..).trans (ite (refl _) (setSnr ..)))

end LinkWork

end Sys2Proof.Machine
end

section
/-! The link's states (R265): what an entry into a state leaves of the counts of trains, what the end of a wait for a response leaves,
and how a state is entered afresh. -/
namespace Sys2Proof.Machine

variable {x y z : Chip}

/-! What an entry into a state leaves (R235, R259, R264 to R266, R271). -/

/-- The link's state and its counts of trains stay. -/
structure CountsStay (x y : Chip) : Prop where
  state : linkState y = linkState x
  trains : y.lk.trains = x.lk.trains
  missing : y.lk.missing = x.lk.missing
  noBurst : y.lk.noBurst = x.lk.noBurst

namespace CountsStay

theorem refl (x : Chip) : CountsStay x x := ⟨rfl, rfl, rfl, rfl⟩

theorem trans (h1 : CountsStay x y) (h2 : CountsStay y z) : CountsStay x z :=
  ⟨h2.state.trans h1.state, h2.trains.trans h1.trains, h2.missing.trans h1.missing, h2.noBurst.trans h1.noBurst⟩

theorem ite {p : Prop} [Decidable p] (hy : CountsStay x y) (hz : CountsStay x z) : CountsStay x (if p then y else z) := by
  split <;> assumption

theorem of_work (h : LinkWork x y) : CountsStay x y := ⟨h.state, by rw [h.lk], by rw [h.lk], by rw [h.lk]⟩

theorem foldl {α : Type} {f : Chip → α → Chip} (h : ∀ y a, CountsStay y (f y a)) (l : List α) :
    ∀ x, CountsStay x (l.foldl f x) := by
  induction l with
  | nil => exact refl
  | cons a l ih => exact fun x => (h x a).trans (ih _)

theorem count (x : Chip) {a : Nat} {w : Fld} (n : Nat) (ha : R.LINK_STATE ≠ a) (hw : R.LINK_STATE ≠ w.addr) :
    CountsStay x (count x a w n) := by
  have hrd : rd (Machine.count x a w n) R.LINK_STATE = rd x R.LINK_STATE := rd_count_ne x a w n _ ha hw
  refine ⟨congrArg (getBits · 0 4) hrd, ?_, ?_, ?_⟩ <;> rw [count_rest]

theorem linkForget (x : Chip) (b : Bool) : CountsStay x (linkForget x b) := by
  have keep : ∀ y d l, CountsStay x y → CountsStay x (if b then setDir y d l else y) :=
    fun y d l h => ite (h.trans (of_work (.setDir y d l))) h
  refine keep _ _ _ (keep _ _ _ ?_)
  have hcut : CountsStay x { x with lk := { x.lk with out := [], hdr := none, notchDue := false }, toLink := [] } :=
    ⟨rfl, rfl, rfl, rfl⟩
  exact hcut.trans (of_work ((LinkWork.setDir ..).trans (.setDir ..)))

theorem clashClear (x : Chip) : CountsStay x (clashClear x) := by
  unfold Machine.clashClear
  refine foldl (fun y c => ?_) _ x
  exact ite ⟨rfl, rfl, rfl, rfl⟩ (refl y)

theorem discAll (x : Chip) : CountsStay x (discAll x) := by
  unfold Machine.discAll
  refine foldl (fun y c => ?_) _ x
  exact ite ⟨rfl, rfl, rfl, rfl⟩ (refl y)

theorem linkEnter (x : Chip) (old st : Nat) : CountsStay x (linkEnter x old st) := by
  unfold Machine.linkEnter
  dsimp only
  have h1 : ∀ (p : Prop) [Decidable p] b, CountsStay x (if p then Machine.linkForget x b else x) :=
    fun p _ b => ite (linkForget x b) (refl x)
  specialize h1 (st ≤ lsUp ∨ st = lsLost ∨ old = lsRun) (isHead x && st == lsLost)
  generalize (if st ≤ lsUp ∨ st = lsLost ∨ old = lsRun then _ else x) = x1 at h1 ⊢
  split
  · have hload : CountsStay x1 (if isFoot x then txLoad x1 else x1) := ite ⟨rfl, rfl, rfl, rfl⟩ (refl x1)
    have hcount := (h1.trans hload).trans (count _ (a := R.LINK_TRAIN_COUNT) (w := protoWrap 9) 1 (by decide) (by decide))
    exact ⟨hcount.state, hcount.trains, hcount.missing, hcount.noBurst⟩
  · exact ⟨h1.state, h1.trains, h1.missing, h1.noBurst⟩
  · have hcarr := h1.trans (ite (p := isFoot x = true) (clashClear x1) (discAll x1))
    exact ⟨hcarr.state, h1.trains, h1.missing, h1.noBurst⟩
  · exact h1.trans (count x1 1 (by decide) (by decide))
  · exact h1

theorem linkRx (x : Chip) (st : Nat) : CountsStay x (linkRx x st) := by
  have hcut : CountsStay x { x with lk := { x.lk with expect := none, slot := none } } := ⟨rfl, rfl, rfl, rfl⟩
  exact ite (hcut.trans (of_work (.setRx ..))) (refl x)

end CountsStay

/-! The foot's wait for a response (R267). -/

theorem fget_freeNext (x : Chip) (f : Fld) : fget (freeNext x) f = fget x f := rfl

theorem fget_setCause_apart (x : Chip) (i : IntCause) {f : Fld} (h32 : f.lo + f.width ≤ 32) (h : f.Apart i.fld) :
    fget (setCause x i) f = fget x f := fget_fset_apart x i.fld f 1 h32 h

/-- The end of a wait leaves every field that completing a command does not write. -/
theorem fget_mboxDone (x : Chip) (status len : Nat) {f : Fld} (h32 : f.lo + f.width ≤ 32)
    (hs : f.addr ∉ [R.MGMT_STATUS, R.MGMT_CMD_TIME, R.MGMT_CMD_COUNT, R.MGMT_FAULT_STATUS]) (hm : f.Apart IntCause.mbox.fld) :
    fget (mboxDone x status len) f = fget x f := by
  simp only [List.mem_cons, List.not_mem_nil, or_false, not_or] at hs
  obtain ⟨hstat, htime, hcount, hfault⟩ := hs
  simp only [mboxDone]
  rw [fget_count_apart _ 1 h32 hcount (.inl hfault), fget_setCause_apart _ _ h32 hm, fget_freeNext, fget_wr_ne _ _ _ _ htime]
  refine fget_fsets_apart h32 _ x ?_
  simp only [List.forall_mem_cons, List.not_mem_nil, false_imp_iff, implies_true, and_true]
  exact ⟨.inl hstat, .inl hstat, .inl hstat⟩

/-- A response awaited in RUN is given up: the link's memory, its state and cause `link` stay. -/
theorem cpAborts_keeps (x : Chip) : (cpAborts x).lk = x.lk ∧ linkState (cpAborts x) = linkState x ∧
    fget (cpAborts x) F.MGMT_INT_CAUSE_link = fget x F.MGMT_INT_CAUSE_link := by
  unfold cpAborts
  split
  · split
    · refine ⟨by rw [waitDone, mboxDone_rest], ?_, ?_⟩
      · exact fget_mboxDone _ _ _ (by decide) (by decide) (.inl (by decide))
      · exact fget_mboxDone _ _ _ (by decide) (by decide) (.inr (by decide))
    · exact ⟨rfl, rfl, rfl⟩
  · exact ⟨rfl, rfl, rfl⟩

/-- A state of the link entered: shown with cause `link`, the counts of trains afresh. -/
def EnteredAfresh (st : Nat) (y : Chip) : Prop := linkState y = st ∧ fget y F.MGMT_INT_CAUSE_link = 1 ∧ y.lk.trains = 0 ∧
  y.lk.missing = 0 ∧ y.lk.noBurst = 0

/-- The state set and the counts cleared. -/
def linkStateSet (x : Chip) (st : Nat) : Chip :=
  fset { x with lk := { x.lk with trains := 0, missing := 0, noBurst := 0 } } F.LINK_STATE_state st

/-- The state set and its entry done, before it is told. -/
def linkStateEntered (x : Chip) (st : Nat) : Chip := linkRx (linkEnter (linkStateSet x st) (linkState x) st) st

/-- The new state told. -/
def linkStateTold (x : Chip) (st : Nat) : Chip :=
  setCause (raise (linkStateEntered x st) srcLink 0x0B (b1 (linkState x) ++ b1 st ++ b4 (trainNow x))) .link

/-- The event by which the link was lost, as a new state leaves it. -/
def lostRefNow (x : Chip) (st : Nat) : Option CauseRef :=
  if st = lsLost then some (lastRef (linkStateTold x st) srcLink) else if st = lsRun then none else (linkStateTold x st).lk.lostRef

theorem setLinkState_eq {st : Nat} (hne : linkState x ≠ st) :
    let y := { linkStateTold x st with lk := { (linkStateTold x st).lk with lostRef := lostRefNow x st } }
    setLinkState x st = if linkState x = lsRun then cpAborts y else y := by
  simp only [setLinkState, if_neg hne, lostRefNow, linkStateTold, linkStateEntered, linkStateSet]

theorem linkStateTold_afresh {st : Nat} (hst : st ≤ 6) : EnteredAfresh st (linkStateTold x st) := by
  have hset : linkState (linkStateSet x st) = st :=
    (fget_fset_same _ _ _ (by decide)).trans (Nat.mod_eq_of_lt (Nat.lt_of_le_of_lt hst (by decide)))
  have h : CountsStay (linkStateSet x st)
      (raise (linkStateEntered x st) srcLink 0x0B (b1 (linkState x) ++ b1 st ++ b4 (trainNow x))) :=
    ((CountsStay.linkEnter ..).trans (.linkRx ..)).trans (.of_work (.raise ..))
  exact ⟨(fget_fset_apart _ _ _ 1 (by decide) (.inl (by decide))).trans (h.state.trans hset),
    fget_fset_same _ IntCause.link.fld 1 (by decide), h.trains, h.missing, h.noBurst⟩

theorem cpAborts_afresh {st : Nat} (h : EnteredAfresh st x) : EnteredAfresh st (cpAborts x) := by
  obtain ⟨hlk, hs, hc⟩ := cpAborts_keeps x
  rw [EnteredAfresh, hs, hc, hlk]
  exact h

/-- A change of state enters it afresh (R265). -/
theorem setLinkState_afresh {st : Nat} (hst : st ≤ 6) (hne : linkState x ≠ st) : EnteredAfresh st (setLinkState x st) := by
  have h : EnteredAfresh st { linkStateTold x st with lk := { (linkStateTold x st).lk with lostRef := lostRefNow x st } } :=
    linkStateTold_afresh (x := x) hst
  rw [setLinkState_eq hne]
  split
  · exact cpAborts_afresh h
  · exact h

end Sys2Proof.Machine
end

section
/-! Trains (R224, R249 to R254, R259, R265): headers and their CRC, the train that a head sends, and what a foot makes of a train: a
missing one, one whose header is accepted or predicted, one whose header is discarded; segments released. -/
namespace Sys2Proof.Machine

variable {x : Chip} {s : State}

/-! Headers (R250 to R252). -/

theorem crcBit_lt {w poly r : Nat} (hp : poly < 2 ^ w) (b : Bool) : crcBit w poly r b < 2 ^ w := by
  have hsh : r * 2 % 2 ^ w < 2 ^ w := Nat.mod_lt _ (Nat.two_pow_pos w)
  unfold crcBit
  dsimp only
  split
  · exact Nat.xor_lt_two_pow hsh hp
  · exact hsh

theorem crc16_lt (l : List Byte) : crc16 l < 2 ^ 16 :=
  List.foldlRecOn (motive := fun r => r < 2 ^ 16) _ _ (by decide) fun _ _ b _ => crcBit_lt (by decide) b

/-- The CRC of a block of 26 octets with its CRC passes. -/
theorem hdrCrcOk_hdrBlock {body : List Byte} (h : body.length = 26) : hdrCrcOk (hdrBlock body) = true := by
  have hfield : field (hdrBlock body) 26 2 = crc16 body := by
    have := field_between body (le 2 (crc16 body)) []
    rw [List.append_nil, h, length_le, unle_le] at this
    exact this.trans (Nat.mod_eq_of_lt (crc16_lt body))
  rw [hdrCrcOk, hfield, hdrBlock, List.take_left' h, List.length_append, h, length_le, beq_self_eq_true, beq_self_eq_true]
  rfl

/-- A downlink header has 28 octets, begins with its train's number and bears a good CRC. -/
theorem dnHeader_spec (x : Chip) (k : Nat) : (dnHeader x k).length = 28 ∧ (dnHeader x k).take 4 = b4 k ∧
    hdrCrcOk (dnHeader x k) = true := by
  refine ⟨?_, ?_, hdrCrcOk_hdrBlock ?_⟩
  · simp only [dnHeader, hdrBlock, b1, b2, b4, List.length_append, length_le, List.length_replicate]
  · simp only [dnHeader, hdrBlock, List.append_assoc]
    exact List.take_left' (length_le 4 k)
  · simp only [b1, b2, b4, List.length_append, length_le, List.length_replicate]

/-! The train that a head sends (R222, R249, R250, R259). -/

theorem exec_trainTx (h : headSends s.chip = true) (noise : List Nat) : exec (.trainTx noise) s = .next (onChip (trainTx noise) s) :=
  congrArg Host.Outcome.next (if_pos h)

/-- A train's signal begins with its sync and header symbols. -/
theorem trainWave_begins (x : Chip) (k : Nat) (hdr : List Byte) (segs : List Seg) : (trainWave x k hdr segs).symbols.take 2 =
    [syncSymbol 0 x.lk.dn.notches, headerSymbol 0 x.lk.dn.notches hdr] := by
  simp only [trainWave, waveOf, List.take_succ_cons, List.take_zero]

/-- Whatever goes before it, a train is sent with its number, opens its slot and has its header. -/
theorem trainTx_effect (x : Chip) (noise : List Nat) :
    let y := trainTx noise x
    rd y R.LINK_TRAIN = BitVec.ofNat 32 x.lk.next ∧ y.lk.next = (x.lk.next + 1) % 2 ^ 32 ∧ y.lk.slot = some 0 ∧
    y.lk.slotAt = x.lk.next ∧ y.lk.txHdr.length = 28 ∧ y.lk.txHdr.take 4 = b4 x.lk.next ∧ hdrCrcOk y.lk.txHdr = true ∧
    y.lk.wave.symbols.take 2 = [syncSymbol 0 y.lk.dn.notches, headerSymbol 0 y.lk.dn.notches y.lk.txHdr] := by
  intro y
  simp only [y, trainTx]
  generalize trainPack (txLevels (sampleMsg (headMaps (slotDone x noise) x.lk.next) x.lk.next)) x.lk.next = q
  obtain ⟨hlen, hnum, hcrc⟩ := dnHeader_spec q.1 x.lk.next
  exact ⟨rd_wr_same .., rfl, rfl, rfl, hlen, hnum, hcrc, trainWave_begins ..⟩

/-! A train at the foot (R224, R231, R253). -/

theorem exec_trainRx (h : footReceives s.chip = true) (o : TrainObs) : exec (.trainRx o) s = .next (onChip (fun x => trainRx x o) s) :=
  congrArg Host.Outcome.next (if_pos h)

/-- Too many errors in the sync word: the train is missing. -/
theorem trainJudge_missing {o : TrainObs} {e : Nat} {hdr : List Byte} (h : syncTol x < e) :
    trainJudge x o e hdr = trainMissing (agcShow x o.levels true) e := by
  simp only [trainJudge, decide_eq_true h, if_true]

theorem trainJudge_heard {o : TrainObs} {e : Nat} {hdr : List Byte} (h : e ≤ syncTol x) :
    trainJudge x o e hdr = trainHeard (agcShow x o.levels false) o e hdr := by
  simp only [trainJudge, decide_eq_false (Nat.not_lt.2 h), Bool.false_eq_true, if_false]

theorem count_lk (x : Chip) (a : Nat) (w : Fld) (n : Nat) : (count x a w n).lk = x.lk := by rw [count_rest]

/-- A missing train counted and noted, before it is told. -/
def missNoted (x : Chip) : Chip :=
  let y := count x R.LINK_SYNC_MISS_COUNT F.LINK_PHY_STATUS_miss_wrap 1
  { y with lk := { y.lk with
    miss := (limitAdd y y.lk.miss 1).1, missing := y.lk.missing + 1, hdr := none, expect := y.lk.expect.map nextTrain, slot := none } }

theorem trainMissing_work (x : Chip) (e : Nat) : LinkWork (missNoted x) (trainMissing x e) := by
  simp only [trainMissing]
  split
  · exact .raise ..
  · exact .refl _

theorem trainMissing_effect (x : Chip) (e : Nat) : (trainMissing x e).lk.missing = x.lk.missing + 1 ∧
    rd (trainMissing x e) R.LINK_SYNC_MISS_COUNT = rd x R.LINK_SYNC_MISS_COUNT + 1 ∧ (trainMissing x e).lk.hdr = none ∧
    (trainMissing x e).lk.slot = none := by
  have hw := trainMissing_work x e
  have hrd : rd (missNoted x) R.LINK_SYNC_MISS_COUNT = rd x R.LINK_SYNC_MISS_COUNT + 1 := rd_count_one _ _ _ (by decide)
  have hmissing : (missNoted x).lk.missing = x.lk.missing + 1 := congrArg (LinkRt.missing · + 1) (count_lk ..)
  rw [hw.lk]
  exact ⟨hmissing, (hw.regs _ (by decide) (by decide)).trans hrd, rfl, rfl⟩

/-- A train whose sync word was accepted with some errors: no train is missing, the receiver is locked, errors corrected count. -/
def trainFound (x : Chip) (o : TrainObs) (e : Nat) : Chip :=
  let y := setRx (trackShow { x with lk := { x.lk with missing := 0 } } o.cfo o.sco) 2
  if e = 0 then y else count y R.LINK_SYNC_FIX_COUNT F.LINK_PHY_STATUS_fix_wrap 1

theorem trainFound_work (x : Chip) (o : TrainObs) (e : Nat) :
    LinkWork { x with lk := { x.lk with missing := 0 } } (trainFound x o e) := by
  have h := (LinkWork.trackShow { x with lk := { x.lk with missing := 0 } } o.cfo o.sco).trans (.setRx _ 2)
  exact .ite h (h.trans (.count _ 1 (by decide) (by decide)))

theorem trainHeard_passed {o : TrainObs} {e : Nat} {hdr : List Byte} (h : dnHdrOk hdr = true) :
    trainHeard x o e hdr = trainAccepted (trainFound x o e) o hdr false := if_pos h

theorem trainHeard_predicted {o : TrainObs} {e : Nat} {hdr p : List Byte} (h : dnHdrOk hdr = false) (hp : x.lk.hdr = some p)
    (he : hdr.take 26 = predictHdr p) : trainHeard x o e hdr = trainAccepted (hdrPredicted (trainFound x o e)) o hdr true := by
  simp only [trainHeard, h, hp, he, Bool.false_eq_true, if_false, if_true, trainFound]

theorem trainHeard_bad {o : TrainObs} {e : Nat} {hdr : List Byte} (h : dnHdrOk hdr = false)
    (hp : ∀ p, x.lk.hdr = some p → hdr.take 26 ≠ predictHdr p) : trainHeard x o e hdr = hdrBad (trainFound x o e) := by
  simp only [trainHeard, h, Bool.false_eq_true, if_false, trainFound]
  split
  next p hx => exact if_neg (hp p hx)
  next => rfl

/-- A discarded header counted and noted, before it is told. -/
def badNoted (x : Chip) : Chip :=
  let y := count x R.LINK_HDR_BAD_COUNT (protoWrap 1) 1
  { y with lk := { y.lk with bad := (limitAdd y y.lk.bad 1).1, hdr := none, expect := y.lk.expect.map nextTrain, slot := none } }

/-- A discarded header told: what is left before the slot of its train opens. -/
def hdrDropped (x : Chip) : Chip :=
  let y := count x R.LINK_HDR_BAD_COUNT (protoWrap 1) 1
  match (limitAdd y y.lk.bad 1).2 with
  | some n => raise (badNoted x) srcLink 0x0D (b2s n)
  | none => badNoted x

theorem hdrDropped_work (x : Chip) : LinkWork (badNoted x) (hdrDropped x) := by
  simp only [hdrDropped]
  split
  · exact .raise ..
  · exact .refl _

theorem hdrDropped_effect (x : Chip) : (hdrDropped x).lk.missing = x.lk.missing ∧ (hdrDropped x).lk.hdr = none ∧
    (hdrDropped x).lk.slot = none ∧ rd (hdrDropped x) R.LINK_HDR_BAD_COUNT = rd x R.LINK_HDR_BAD_COUNT + 1 := by
  have hw := hdrDropped_work x
  have hrd : rd (badNoted x) R.LINK_HDR_BAD_COUNT = rd x R.LINK_HDR_BAD_COUNT + 1 := rd_count_one _ _ _ (by decide)
  have hmissing : (badNoted x).lk.missing = x.lk.missing :=
    (congrArg LinkRt.missing (count_lk x R.LINK_HDR_BAD_COUNT (protoWrap 1) 1) :)
  rw [hw.lk]
  exact ⟨hmissing, rfl, rfl, (hw.regs _ (by decide) (by decide)).trans hrd⟩

theorem hdrBad_unexpected (h : x.lk.expect = none) : hdrBad x = hdrDropped x := by
  have hexp : (count x R.LINK_HDR_BAD_COUNT (protoWrap 1) 1).lk.expect = none := by rw [count_lk, h]
  simp only [hdrBad, hdrDropped, badNoted, hexp] <;> rfl

theorem hdrBad_expected {k : Nat} (h : x.lk.expect = some k) : hdrBad x = footSlot (hdrDropped x) k := by
  have hexp : (count x R.LINK_HDR_BAD_COUNT (protoWrap 1) 1).lk.expect = some k := by rw [count_lk, h]
  simp only [hdrBad, hdrDropped, badNoted, hexp] <;> rfl

/-- A header discarded is counted, and the slot of the train that was expected opens. -/
theorem hdrBad_effect (x : Chip) : (hdrBad x).lk.missing = x.lk.missing ∧ (hdrBad x).lk.hdr = none ∧
    (hdrBad x).lk.slot = x.lk.expect.map (fun _ => 0) ∧ (∀ k, x.lk.expect = some k → (hdrBad x).lk.slotAt = k) ∧
    rd (hdrBad x) R.LINK_HDR_BAD_COUNT = rd x R.LINK_HDR_BAD_COUNT + 1 := by
  obtain ⟨hmissing, hhdr, hslot, hrd⟩ := hdrDropped_effect x
  cases hx : x.lk.expect with
  | none =>
    rw [hdrBad_unexpected hx]
    exact ⟨hmissing, hhdr, hslot, fun k h => absurd h (by simp), hrd⟩
  | some k =>
    have hw := LinkWork.footSlot (hdrDropped x) k
    rw [hdrBad_expected hx, hw.lk]
    exact ⟨hmissing, hhdr, rfl, fun j hj => Option.some.inj hj, (hw.regs _ (by decide) (by decide)).trans hrd⟩

/-- Errors of the sync word in what a train's soft values decide. -/
def trainErrs (o : TrainObs) : Nat := syncErrors ((headerDecide o.soft).take 32)

/-- The header that a train's soft values decide. -/
def trainHdr (o : TrainObs) : List Byte := headerOf (headerDecide o.soft)

theorem trainRx_missing {o : TrainObs} (h : syncTol x < trainErrs o) : (trainRx x o).lk.missing = x.lk.missing + 1 ∧
    rd (trainRx x o) R.LINK_SYNC_MISS_COUNT = rd x R.LINK_SYNC_MISS_COUNT + 1 ∧ (trainRx x o).lk.hdr = none ∧
    (trainRx x o).lk.slot = none := by
  have hagc := LinkWork.agcShow x o.levels true
  have hlk : (agcShow x o.levels true).lk.missing = x.lk.missing := by rw [hagc.lk]
  have he : trainRx x o = trainMissing (agcShow x o.levels true) (trainErrs o) := trainJudge_missing h
  rw [he, ← hlk, ← hagc.regs _ (by decide) (by decide)]
  exact trainMissing_effect ..

theorem trainRx_passed {o : TrainObs} (h : trainErrs o ≤ syncTol x) (hok : dnHdrOk (trainHdr o) = true) :
    trainRx x o = trainAccepted (trainFound (agcShow x o.levels false) o (trainErrs o)) o (trainHdr o) false :=
  (trainJudge_heard h).trans (trainHeard_passed hok)

theorem trainRx_predicted {o : TrainObs} {p : List Byte} (h : trainErrs o ≤ syncTol x) (hbad : dnHdrOk (trainHdr o) = false)
    (hp : x.lk.hdr = some p) (he : (trainHdr o).take 26 = predictHdr p) : trainRx x o =
    trainAccepted (hdrPredicted (trainFound (agcShow x o.levels false) o (trainErrs o))) o (trainHdr o) true := by
  have hhdr : (agcShow x o.levels false).lk.hdr = some p := by rw [(LinkWork.agcShow x o.levels false).lk, ← hp]
  exact (trainJudge_heard h).trans (trainHeard_predicted hbad hhdr he)

/-- A train whose header neither passes nor is predicted: no train is missing, the header is discarded and counted, and the slot of
the train that was expected opens. -/
theorem trainRx_bad {o : TrainObs} (h : trainErrs o ≤ syncTol x) (hbad : dnHdrOk (trainHdr o) = false)
    (hp : ∀ p, x.lk.hdr = some p → (trainHdr o).take 26 ≠ predictHdr p) : (trainRx x o).lk.missing = 0 ∧
    (trainRx x o).lk.hdr = none ∧ (trainRx x o).lk.slot = x.lk.expect.map (fun _ => 0) ∧
    (∀ k, x.lk.expect = some k → (trainRx x o).lk.slotAt = k) ∧
    rd (trainRx x o) R.LINK_HDR_BAD_COUNT = rd x R.LINK_HDR_BAD_COUNT + 1 := by
  have hagc := LinkWork.agcShow x o.levels false
  have hw := trainFound_work (agcShow x o.levels false) o (trainErrs o)
  have hhdr : (agcShow x o.levels false).lk.hdr = x.lk.hdr := by rw [hagc.lk]
  have hrx : trainRx x o = hdrBad (trainFound (agcShow x o.levels false) o (trainErrs o)) :=
    (trainJudge_heard h).trans (trainHeard_bad hbad fun p h => hp p (hhdr.symm.trans h))
  have hmissing : (trainFound (agcShow x o.levels false) o (trainErrs o)).lk.missing = 0 := by rw [hw.lk]
  have hexpect : (trainFound (agcShow x o.levels false) o (trainErrs o)).lk.expect = x.lk.expect := by
    rw [hw.lk]
    change (agcShow x o.levels false).lk.expect = _
    rw [hagc.lk]
  have hrd : rd (trainFound (agcShow x o.levels false) o (trainErrs o)) R.LINK_HDR_BAD_COUNT = rd x R.LINK_HDR_BAD_COUNT :=
    (hw.regs _ (by decide) (by decide)).trans (hagc.regs _ (by decide) (by decide))
  have heffect := hdrBad_effect (trainFound (agcShow x o.levels false) o (trainErrs o))
  rw [hmissing, hexpect, hrd] at heffect
  rw [hrx]
  exact heffect

/-! Segments released (R259). -/

theorem outPlay_lk (x : Chip) (g : Seg) : (outPlay x g).lk = x.lk := by
  have hsend : ∀ (l : List Nat) (y : Chip),
      (l.foldl (fun y p => setPort y p { portOf y p with sent := portFrame y p }) y).lk = y.lk := by
    intro l
    induction l with
    | nil => exact fun y => rfl
    | cons p l ih => exact fun y => ih _
  unfold outPlay
  split
  · rfl
  · split
    · exact hsend _ _
    · rfl

theorem outArrive_lk (x : Chip) (g : Seg) : (outArrive x g).lk = x.lk := by
  unfold outArrive
  dsimp only
  split
  · split <;> exact outPlay_lk x g
  · rfl

theorem foldl_outArrive_lk (l : List Seg) : ∀ x : Chip, (l.foldl outArrive x).lk = x.lk := by
  induction l with
  | nil => exact fun x => rfl
  | cons g l ih => exact fun x => (ih _).trans (outArrive_lk x g)

theorem exec_segmentRelease_none (h : s.chip.lk.release = []) : exec .segmentRelease s = .next s := by
  change execSegmentRelease s = _
  rw [execSegmentRelease, h]

theorem exec_segmentRelease {l : List Seg} {r : List (List Seg)} (h : s.chip.lk.release = l :: r) : exec .segmentRelease s =
    .next (onChip (fun x => l.foldl outArrive { x with lk := { x.lk with release := r } }) s) := by
  change execSegmentRelease s = _
  rw [execSegmentRelease, h]

end Sys2Proof.Machine
end

section
/-! Bursts (R239, R245, R251, R253, R265) and the changes of link state: the burst that a foot sends, what a head makes of a burst,
the head's and either end's changes of state, the ramp, LINK_RESTART, and the statement about trains, bursts and states. -/
namespace Sys2Proof.Machine

variable {x : Chip} {s : State}

/-! The burst that a foot sends (R239, R251). -/

theorem exec_burstTx (hf : footReceives s.chip = true) (hs : s.chip.lk.slot = some 0)
    (hl : linkState s.chip = 2 ∨ linkState s.chip = 4 ∨ linkState s.chip = 5) : exec .burstTx s = .next (onChip burstTx s) :=
  congrArg Host.Outcome.next (if_pos ⟨hf, hs, hl⟩)

theorem burstTx_sounds (hl : linkState x = 2) (hk : x.lk.slotAt % 2 = 0) : burstTx x = burstSent (txLevels x) 21 true [] :=
  (if_pos hl).trans (if_pos hk)

theorem burstTx_odd (hl : linkState x = 2) (hk : x.lk.slotAt % 2 = 1) : burstTx x = x :=
  (if_pos hl).trans (if_neg (by omega))

theorem burstTx_noise (hl : linkState x ≠ 2) (hk : x.lk.slotAt % 16 = 7) : burstTx x = x :=
  (if_neg hl).trans (if_pos hk)

/-- The link segments of a foot's burst, and what waits on. -/
def burstPack (x : Chip) : List Seg × List OutSeg × Nat :=
  packLink (segBytes 1 (txLevels (idmapSend x)).lk.up.now 21) x.lk.slotAt (txLevels (idmapSend x)).lk.out

theorem burstTx_carries (hl : linkState x ≠ 2) (hk : x.lk.slotAt % 16 ≠ 7) : burstTx x =
    burstSent { txLevels (idmapSend x) with lk := { (txLevels (idmapSend x)).lk with out := (burstPack x).2.1 } }
      (if (burstPack x).1.isEmpty then 0 else 21) false (burstPack x).1 :=
  (if_neg hl).trans (if_neg hk)

/-- What goes with a burst beyond its levels: the foot's reserved ids alone, put in line. -/
theorem idmapSend_lk (x : Chip) : ∃ out, (idmapSend x).lk = { x.lk with out := out } := by
  unfold idmapSend
  split
  · exact ⟨_, rfl⟩
  · exact ⟨_, rfl⟩

theorem burstTx_carries_effect (hl : linkState x ≠ 2) (hk : x.lk.slotAt % 16 ≠ 7) :
    (burstTx x).lk.slot = some 1 ∧ (burstTx x).lk.out = (burstPack x).2.1 ∧ (burstTx x).lk.txSegs = (burstPack x).1 ∧
    (burstTx x).lk.txHdr =
      upHeader x.lk.slotAt (if (burstPack x).1 = [] then 0 else 21) x.lk.up.now.id x.lk.dn.now.id false := by
  obtain ⟨out, hlk⟩ := idmapSend_lk x
  rw [burstTx_carries hl hk]
  refine ⟨rfl, rfl, rfl, ?_⟩
  simp only [burstSent, txLevels, hlk, List.isEmpty_iff]

/-! A burst at the head (R239, R245, R253). -/

theorem exec_burstRx (hh : headSends s.chip = true) (hs : s.chip.lk.slot ≠ none) (hl : linkState s.chip ≤ 5) (o : BurstObs) :
    exec (.burstRx o) s = .next (onChip (fun x => burstRx x o) s) :=
  congrArg Host.Outcome.next (if_pos ⟨hh, Option.isSome_iff_ne_none.2 hs, hl⟩)

/-- The sync word of a burst is accepted. -/
def BurstHeard (x : Chip) (o : BurstObs) : Prop := syncErrors ((headerDecide o.soft).take 32) ≤ syncTol x

/-- A burst arrives where none is expected: out of its window, or in a noise slot. -/
def BurstOutside (x : Chip) (o : BurstObs) : Prop := inWindow x o = false ∨ (trainNow x % 16 = 7 ∧ linkState x ≠ 2)

theorem inWindow_iff (x : Chip) (o : BurstObs) : inWindow x o = true ↔ if linkState x = 2 then 5000 ≤ o.at_ ∧ o.at_ ≤ 25000
    else (o.at_ - 5000 - (fget x F.LINK_RTT_ns : Nat)).natAbs ≤ 800 := by
  by_cases hl : linkState x = 2
  · have he : inWindow x o = (decide (5000 ≤ o.at_) && decide (o.at_ ≤ 25000)) := if_pos hl
    rw [he, if_pos hl, Bool.and_eq_true, decide_eq_true_iff, decide_eq_true_iff]
  · have he : inWindow x o = decide ((roundTrip o - (fget x F.LINK_RTT_ns : Nat)).natAbs ≤ 800) := if_neg hl
    rw [he, if_neg hl, decide_eq_true_iff]
    rfl

/-- A burst outside, as the link's state tells where bursts are expected. -/
theorem burstOutside_iff (x : Chip) (o : BurstObs) : (¬(if linkState x = 2 then 5000 ≤ o.at_ ∧ o.at_ ≤ 25000
    else (o.at_ - 5000 - (fget x F.LINK_RTT_ns : Nat)).natAbs ≤ 800) ∨ (trainNow x % 16 = 7 ∧ linkState x ≠ 2)) ↔
    BurstOutside x o := by
  rw [← inWindow_iff, Bool.not_eq_true, BurstOutside]

theorem burstRx_unheard {o : BurstObs} (h : ¬BurstHeard x o) : burstRx x o = x := if_pos (Nat.lt_of_not_le h)

theorem burstRx_heard {o : BurstObs} (h : BurstHeard x o) : burstRx x o = burstJudge x o (headerOf (headerDecide o.soft)) :=
  if_neg (Nat.not_lt.2 h)

theorem burstJudge_outside {o : BurstObs} {hdr : List Byte} (h : BurstOutside x o) :
    burstJudge x o hdr = burstBad { x with lk := { x.lk with slot := some 2 } } := if_pos h

theorem burstJudge_bad {o : BurstObs} {hdr : List Byte} (h : ¬BurstOutside x o) (hb : upHdrOk hdr = false) :
    burstJudge x o hdr = burstBad (setRx { x with lk := { x.lk with slot := some 2 } } 2) := (if_neg h).trans (if_pos hb)

theorem burstJudge_good {o : BurstObs} {hdr : List Byte} (h : ¬BurstOutside x o) (hg : upHdrOk hdr = true) :
    burstJudge x o hdr = burstGood (setRx { x with lk := { x.lk with slot := some 2 } } 2) o hdr (trainNow x) :=
  (if_neg h).trans (if_neg (by rw [hg]; exact Bool.noConfusion))

/-- A good burst as it is measured, before it is counted or delivered. -/
def burstMeasured (x : Chip) (o : BurstObs) (hdr : List Byte) (k : Nat) : Chip :=
  let y := if field hdr 0 4 = k then x else peerViol x 1 k
  measure (trackShow { y with lk := { y.lk with slot := some 1, noBurst := 0 } } o.cfo o.sco) 1 o.gain (linkState x == lsUp) []

theorem burstMeasured_lk (x : Chip) (o : BurstObs) (hdr : List Byte) (k : Nat) : (burstMeasured x o hdr k).lk.slot = some 1 ∧
    (burstMeasured x o hdr k).lk.noBurst = 0 ∧ (burstMeasured x o hdr k).lk.bursts = x.lk.bursts := by
  have hy : LinkWork x (if field hdr 0 4 = k then x else peerViol x 1 k) := .ite (.refl x) (.peerViol ..)
  unfold burstMeasured
  generalize (if field hdr 0 4 = k then x else peerViol x 1 k) = y at hy
  have hw : LinkWork { y with lk := { y.lk with slot := some 1, noBurst := 0 } } (measure (trackShow
    { y with lk := { y.lk with slot := some 1, noBurst := 0 } } o.cfo o.sco) 1 o.gain (linkState x == lsUp) []) :=
    (LinkWork.trackShow ..).trans (.measure ..)
  refine ⟨by rw [hw.lk], by rw [hw.lk], ?_⟩
  rw [hw.lk]
  change y.lk.bursts = _
  rw [hy.lk]

/-- A good burst of a sounding fills its slot, is counted and shows its round trip. -/
theorem burstGood_sounds {o : BurstObs} {hdr : List Byte} {k : Nat} (hl : linkState x = 2) :
    (burstGood x o hdr k).lk.slot = some 1 ∧ (burstGood x o hdr k).lk.noBurst = 0 ∧
    (burstGood x o hdr k).lk.bursts = x.lk.bursts + 1 ∧
    fget (burstGood x o hdr k) F.LINK_RTT_ns = min (o.at_ - 5000).toNat 65535 := by
  obtain ⟨hslot, hnone, hbursts⟩ := burstMeasured_lk x o hdr k
  have he : burstGood x o hdr k = fset { burstMeasured x o hdr k with lk := { (burstMeasured x o hdr k).lk with
      bursts := (burstMeasured x o hdr k).lk.bursts + 1 } } F.LINK_RTT_ns (sat 16 (roundTrip o).toNat) := if_pos hl
  rw [he]
  refine ⟨hslot, hnone, congrArg (· + 1) hbursts, (fget_fset_same _ _ _ (by decide)).trans (Nat.mod_eq_of_lt ?_)⟩
  exact Nat.lt_of_le_of_lt (Nat.min_le_right _ _) (by decide)

theorem burstRx_sounds {o : BurstObs} (h : BurstHeard x o) (ho : ¬BurstOutside x o)
    (hg : upHdrOk (headerOf (headerDecide o.soft)) = true) (hl : linkState x = 2) : (burstRx x o).lk.slot = some 1 ∧
    (burstRx x o).lk.noBurst = 0 ∧ (burstRx x o).lk.bursts = x.lk.bursts + 1 ∧
    fget (burstRx x o) F.LINK_RTT_ns = min (o.at_ - 5000).toNat 65535 := by
  have hw := LinkWork.setRx { x with lk := { x.lk with slot := some 2 } } 2
  have hbursts : (setRx { x with lk := { x.lk with slot := some 2 } } 2).lk.bursts = x.lk.bursts := by rw [hw.lk]
  rw [burstRx_heard h, burstJudge_good ho hg, ← hbursts]
  exact burstGood_sounds (hw.state.trans hl)

/-! Changes of state (R237, R265). -/

/-- The link is lost: dark or without trains at a foot from UP_SOUND to RUN, dark or without bursts at a head in RUN. -/
theorem linkLostNow_iff (x : Chip) : linkLostNow x = true ↔
    (isFoot x = true ∧ 2 ≤ linkState x ∧ linkState x ≤ 5 ∧ (fon x (F.CLK_OUT_en 1) = false ∨ 4 ≤ x.lk.missing)) ∨
    (isHead x = true ∧ linkState x = 5 ∧ (fon x (F.CLK_OUT_en 1) = false ∨ 128 ≤ x.lk.noBurst)) := by
  simp only [linkLostNow, Bool.or_eq_true, Bool.and_eq_true, decide_eq_true_eq, beq_iff_eq, Bool.not_eq_true', and_assoc]
  rfl

/-- A ramp that ends leaves a silent transmitter on or off. -/
theorem txRamp_effect (x : Chip) (up : Bool) :
    let y := fsets { x with lk := { x.lk with wave := Wave.none } } [(F.LINK_PHY_STATUS_ramp, 0), (F.LINK_PHY_STATUS_tx_on, up.toNat)]
    fon y F.LINK_PHY_STATUS_ramp = false ∧ fon y F.LINK_PHY_STATUS_tx_on = up ∧ y.lk.wave = ⟨[], [], 0, 0⟩ := by
  have hp : [(F.LINK_PHY_STATUS_ramp, 0), (F.LINK_PHY_STATUS_tx_on, up.toNat)].Pairwise fun e g => e.1.Apart g.1 :=
    List.pairwise_pair.2 (.inr (.inr (Nat.le_refl 7)))
  intro y
  refine ⟨fon_of_fget (b := false) rfl ?_, fon_of_fget rfl ?_, ?_⟩
  · exact fget_fsets_mem (by decide) hp _ (List.mem_cons_self ..)
  · exact fget_fsets_mem (by decide) hp _ (List.mem_cons_of_mem _ (List.mem_cons_self ..))
  · simp only [y]
    rw [fsets_rest]
    rfl

theorem exec_txRamp {up : Bool} (hr : fon s.chip F.LINK_PHY_STATUS_ramp = true) (hu : up = decide (linkState s.chip ≠ 0)) :
    exec (.txRamp up) s = .next (onChip (fun x => fsets { x with lk := { x.lk with wave := Wave.none } }
      [(F.LINK_PHY_STATUS_ramp, 0), (F.LINK_PHY_STATUS_tx_on, up.toNat)]) s) := congrArg Host.Outcome.next (if_pos ⟨hr, hu⟩)

theorem exec_txRamp_idle {up : Bool} (h : fon s.chip F.LINK_PHY_STATUS_ramp = false ∨ up ≠ decide (linkState s.chip ≠ 0)) :
    exec (.txRamp up) s = .next s := by
  refine congrArg Host.Outcome.next (if_neg ?_)
  rintro ⟨hr, hu⟩
  rcases h with h | h
  · exact Bool.false_ne_true (h.symm.trans hr)
  · exact h hu

theorem exec_linkRestart (hm : mgmtUp s.chip = true) (hs : isSolo s.chip = false) :
    exec .linkRestart s = .next (onChip linkRestart s) := congrArg Host.Outcome.next (if_pos (by rw [hm, hs]; rfl))

theorem exec_linkRestart_idle (h : mgmtUp s.chip = false ∨ isSolo s.chip = true) : exec .linkRestart s = .next s := by
  refine congrArg Host.Outcome.next (if_neg ?_)
  rcases h with h | h <;> simp [h]

/-- Settles O51: states entered afresh, trains sent and judged, bursts sent and judged, segments released, and each change of state
exactly when it is due. -/
theorem linkTrainsAndStates : Obligations.LinkTrainsAndStates := by
  unfold Obligations.LinkTrainsAndStates
  refine ⟨fun x st hst hne => setLinkState_afresh hst hne,
    fun s hh noise => ⟨_, exec_trainTx hh noise, chipOnly_onChip _ s, trainTx_effect s.chip noise⟩, fun o s hf => ?train,
    fun s hf hslot => ?burst, fun o s hh hslot hl => ?heard, fun s => ⟨exec_segmentRelease_none, fun l r h =>
      ⟨_, exec_segmentRelease h, chipOnly_onChip _ s, congrArg LinkRt.release (foldl_outArrive_lk l _), rfl⟩⟩, fun s => ?states,
    fun up s => ⟨fun hr hu => ⟨_, exec_txRamp hr hu, chipOnly_onChip _ s, txRamp_effect s.chip up⟩, exec_txRamp_idle⟩,
    fun s => ⟨fun hm hs => exec_linkRestart hm hs, exec_linkRestart_idle⟩⟩
  case train =>
    have hexec := exec_trainRx hf o
    exact ⟨fun he => ⟨_, hexec, chipOnly_onChip _ s, trainRx_missing he⟩, fun he hok => exec_does hexec (trainRx_passed he hok),
      fun p he hbad hp heq => exec_does hexec (trainRx_predicted he hbad hp heq),
      fun he hbad hp => ⟨_, hexec, chipOnly_onChip _ s, trainRx_bad he hbad hp⟩⟩
  case burst =>
    exact ⟨fun hl hk => ⟨_, exec_does (g := fun x => burstSent (txLevels x) 21 true [])
        (exec_burstTx hf hslot (.inl hl)) (burstTx_sounds hl hk), chipOnly_onChip _ s, rfl, rfl, rfl⟩,
      fun hl hk => exec_does (g := fun x => x) (exec_burstTx hf hslot (.inl hl)) (burstTx_odd hl hk),
      fun hl hk => exec_does (g := fun x => x) (exec_burstTx hf hslot (.inr hl)) (burstTx_noise (by omega) hk),
      fun hl hk => ⟨_, exec_burstTx hf hslot (.inr hl), chipOnly_onChip _ s, burstTx_carries_effect (by omega) hk⟩⟩
  case heard =>
    have hexec := exec_burstRx hh hslot hl o
    have hout := burstOutside_iff s.chip o
    exact ⟨fun h => exec_does (g := fun x => x) hexec (burstRx_unheard h),
      fun h ho => exec_does hexec ((burstRx_heard h).trans (burstJudge_outside (hout.1 ho))),
      fun h ho hb => exec_does hexec ((burstRx_heard h).trans (burstJudge_bad (mt hout.2 ho) hb)),
      fun h ho hg h2 => ⟨_, hexec, chipOnly_onChip _ s, burstRx_sounds h (mt hout.2 ho) hg h2⟩,
      fun h ho hg => exec_does hexec ((burstRx_heard h).trans (burstJudge_good (mt hout.2 ho) hg))⟩
  case states =>
    exact ⟨fun h => congrArg Host.Outcome.next (if_pos h), fun h => congrArg Host.Outcome.next (if_neg h),
      fun h => congrArg Host.Outcome.next (if_pos h), fun h => congrArg Host.Outcome.next (if_neg h),
      fun h => congrArg Host.Outcome.next (if_pos h), fun h => congrArg Host.Outcome.next (if_neg h),
      fun h => congrArg Host.Outcome.next (if_pos h), fun h => congrArg Host.Outcome.next (if_neg h),
      fun h => congrArg Host.Outcome.next (if_pos ((linkLostNow_iff s.chip).2 h)),
      fun h => congrArg Host.Outcome.next (if_neg (mt (linkLostNow_iff s.chip).1 h))⟩

end Sys2Proof.Machine
end

section
/-! Loading maps (R229, R230, R260 to R264): what a change of one direction leaves, region SNRs, a proposal made and sent again,
proposals answered, the switch at the scheduled train, and the statement about them. -/
namespace Sys2Proof.Machine

variable {x : Chip} {s : State} {d : Nat}

/-! A direction changed (R258, R276). -/

theorem setDir_rest (x : Chip) (d : Nat) (l : LinkDir) : setDir x d l = { x with
    regs := (setDir x d l).regs
    lk := if d = 0 then { x.lk with dn := touch l } else { x.lk with up := touch l } } := by
  unfold setDir
  dsimp only
  split <;> rw [fsets_rest]

theorem lk_setDir (x : Chip) (d : Nat) (l : LinkDir) :
    (setDir x d l).lk = if d = 0 then { x.lk with dn := touch l } else { x.lk with up := touch l } := by
  rw [setDir_rest]

@[simp] theorem dirOf_setDir_same (x : Chip) (d : Nat) (l : LinkDir) : dirOf (setDir x d l) d = touch l := by
  unfold dirOf
  rw [lk_setDir]
  split <;> rfl

theorem dirOf_setDir_other (x : Chip) (l : LinkDir) (hd : d < 2) : dirOf (setDir x d l) (1 - d) = dirOf x (1 - d) := by
  unfold dirOf
  rw [lk_setDir]
  obtain rfl | rfl : d = 0 ∨ d = 1 := by omega
  · rfl
  · rfl

@[simp] theorem out_setDir (x : Chip) (d : Nat) (l : LinkDir) : (setDir x d l).lk.out = x.lk.out := by
  rw [lk_setDir]
  split <;> rfl

@[simp] theorem nextSeq_setDir (x : Chip) (d : Nat) (l : LinkDir) (src : Nat) : nextSeq (setDir x d l) src = nextSeq x src := by
  rw [setDir_rest]
  rfl

@[simp] theorem lk_raise (x : Chip) (src code : Nat) (args : List Byte) : (raise x src code args).lk = x.lk := by rw [raise_rest]

theorem dirOf_congr {y : Chip} (h : y.lk = x.lk) (d : Nat) : dirOf y d = dirOf x d := by rw [dirOf, dirOf, h]

@[simp] theorem dirOf_raise (x : Chip) (src code : Nat) (args : List Byte) (d : Nat) :
    dirOf (raise x src code args) d = dirOf x d := dirOf_congr (lk_raise ..) d

@[simp] theorem dirOf_sendSeg (x : Chip) (g : Seg) (n : Option Nat) (d : Nat) : dirOf (sendSeg x g n) d = dirOf x d := rfl

@[simp] theorem out_sendSeg (x : Chip) (g : Seg) (n : Option Nat) : (sendSeg x g n).lk.out = x.lk.out ++ [⟨g, n⟩] := rfl

@[simp] theorem nextSeq_sendSeg (x : Chip) (g : Seg) (n : Option Nat) (src : Nat) :
    nextSeq (sendSeg x g n) src = nextSeq x src := rfl

/-! Region SNRs (R229). -/

/-- The lowest of values up to a bound, sought from that bound, is one of them. -/
theorem foldl_min_spec {b : Nat} {l : List Nat} (hne : l ≠ []) (hb : ∀ v ∈ l, v ≤ b) :
    l.foldl min b ∈ l ∧ ∀ v ∈ l, l.foldl min b ≤ v := by
  obtain ⟨hmem, hle⟩ := List.min?_eq_some_iff.1 (List.min?_cons' (x := b) (xs := l))
  refine ⟨?_, fun v hv => hle v (List.mem_cons_of_mem _ hv)⟩
  rcases List.mem_cons.1 hmem with h | h
  · obtain ⟨v, hv⟩ := List.exists_mem_of_ne_nil l hne
    have hv' : l.foldl min b = v := Nat.le_antisymm (hle v (List.mem_cons_of_mem _ hv)) ((hb v hv).trans h.ge)
    exact hv' ▸ hv
  · exact h

/-- `LINK_SNR`'s field of the lowest SNR of a direction. -/
def snrMin (d : Nat) : Fld := if d = 0 then F.LINK_SNR_dn_min else F.LINK_SNR_up_min

theorem dirOf_setSnr (x : Chip) (d : Nat) (snr : List Nat) : dirOf (setSnr x d snr) d = touch { dirOf x d with snr := snr } := by
  have h : (setSnr x d snr).lk = (setDir x d { dirOf x d with snr := snr }).lk := by
    unfold setSnr
    dsimp only
    split
    · rw [fsets_rest]
    · rfl
  rw [dirOf_congr h, dirOf_setDir_same]

/-- The lowest SNR is shown where it fits its field. -/
theorem fget_setSnr (x : Chip) (d : Nat) {snr : List Nat} (h : snr.foldl min 255 ≤ 255) :
    fget (setSnr x d snr) (snrMin d) = snr.foldl min 255 := by
  have hlt : snr.foldl min 255 % 2 ^ 8 = snr.foldl min 255 := Nat.mod_eq_of_lt (Nat.lt_succ_of_le h)
  unfold setSnr snrMin
  dsimp only
  split
  · refine (fget_fsets_mem (by decide) ?_ _ (List.mem_cons_self ..)).trans hlt
    simp only [List.pairwise_cons, List.forall_mem_cons, List.not_mem_nil, false_imp_iff, implies_true, and_true,
      List.Pairwise.nil]
    exact ⟨⟨.inr (.inl (by decide)), .inr (.inr (by decide))⟩, .inr (.inr (by decide))⟩
  · exact (fget_fset_same _ _ _ (by decide)).trans hlt

/-! A map proposed (R230, R260). -/

/-- Failed codewords of the last second slow the rate of what is proposed. -/
def slowed (x : Chip) : Chip := if 10 < recentFails x then { x with lk := { x.lk with slow := true } } else x

theorem dirOf_slowed (x : Chip) (d : Nat) : dirOf (slowed x) d = dirOf x d := by
  unfold slowed
  split <;> rfl

theorem out_slowed (x : Chip) : (slowed x).lk.out = x.lk.out := by
  unfold slowed
  split <;> rfl

/-- The bookkeeping of a proposal made now, before it is sent. -/
def proposeNoted (x : Chip) (d now : Nat) : Chip :=
  setDir (slowed x) d { dirOf (slowed x) d with
    mine := ((computeMap (slowed x) d).1 :: (dirOf (slowed x) d).mine).take 4, nextId := (dirOf (slowed x) d).nextId % 255 + 1
    asked := some ((computeMap (slowed x) d).1.id, now) }

/-- A proposal sent. -/
def proposeSent (x : Chip) (d now : Nat) : Chip :=
  sendSeg (proposeNoted x d now)
    (linkSeg 0xA (computeMap (slowed x) d).1.id (proposeBytes d (computeMap (slowed x) d).1)) none

theorem propose_eq (x : Chip) (d now : Nat) : propose x d now = if (computeMap (slowed x) d).2 then
    raise (proposeSent x d now) srcLink 0x11 (b1 d ++ b1 (computeMap (slowed x) d).1.id) else proposeSent x d now := rfl

theorem lk_propose (x : Chip) (d now : Nat) : (propose x d now).lk = (proposeSent x d now).lk := by
  rw [propose_eq]
  split
  · exact lk_raise ..
  · rfl

/-- The map that the region SNRs measured call for. -/
def mapMeasured (x : Chip) (d : Nat) : LoadMap :=
  ⟨(dirOf x d).nextId, proposalFast x, (List.range (regions d)).map fun r =>
      if silenced (notchesDue (dirOf x d)) r then 0 else if (dirOf x d).snr.isEmpty then 2
      else bitsFor (nth 0 (dirOf x d).snr r) (fget x F.LINK_PHY_CFG_margin) (bitLimit x d),
    notchMask d (notchesDue (dirOf x d))⟩

/-- The map proposed in its place where that one carries too little: 2 bits on every region. -/
def mapTwo (x : Chip) (d : Nat) : LoadMap := ⟨(dirOf x d).nextId, false, List.replicate (regions d) 2, 0⟩

/-- The octets that a map carries at the least (R260). -/
def mapFloor (d : Nat) : Nat := if d = 0 then 4112 else 1040

theorem computeMap_eq (x : Chip) (d : Nat) : computeMap x d =
    if payloadBytes d (mapMeasured x d) (fullSymbols d) < mapFloor d then (mapTwo x d, true) else (mapMeasured x d, false) := rfl

theorem id_computeMap (x : Chip) (d : Nat) : (computeMap x d).1.id = (dirOf x d).nextId := by
  rw [computeMap_eq]
  split <;> rfl

theorem mapFloor_le_mapTwo (x : Chip) (hd : d < 2) : mapFloor d ≤ payloadBytes d (mapTwo x d) (fullSymbols d) := by
  have hbytes : payloadBytes d (mapTwo x d) (fullSymbols d) = payloadBytes d (mapZero (regions d)) (fullSymbols d) := rfl
  rw [hbytes]
  obtain rfl | rfl : d = 0 ∨ d = 1 := by omega
  · decide
  · decide

/-- A computed map carries no less than the floor (R260). -/
theorem mapFloor_le_computeMap (x : Chip) (hd : d < 2) :
    mapFloor d ≤ payloadBytes d (computeMap x d).1 (fullSymbols d) := by
  rw [computeMap_eq]
  split
  · exact mapFloor_le_mapTwo x hd
  next h => exact Nat.not_lt.1 h

/-- A proposal: the next id in turn, kept among the last four, asked for and sent; nothing else of the directions changes. -/
theorem propose_effect (x : Chip) (d now : Nat) (hd : d < 2) :
    let y := propose x d now
    ∃ m, m.id = (dirOf x d).nextId ∧ (dirOf y d).mine = (m :: (dirOf x d).mine).take 4 ∧
      (dirOf y d).nextId = (dirOf x d).nextId % 255 + 1 ∧ (dirOf y d).asked = some (m.id, now) ∧ (dirOf y d).now = (dirOf x d).now ∧
      (dirOf y d).sched = (dirOf x d).sched ∧ y.lk.out = x.lk.out ++ [⟨⟨m.id, 0xA, 3, proposeBytes d m, none⟩, none⟩] ∧
      mapFloor d ≤ payloadBytes d m (fullSymbols d) ∧ dirOf y (1 - d) = dirOf x (1 - d) := by
  intro y
  have hlk : y.lk = (proposeSent x d now).lk := lk_propose x d now
  have hsame : dirOf y d = _ := (dirOf_congr hlk d).trans (dirOf_setDir_same (slowed x) d _)
  have hother : dirOf y (1 - d) = dirOf (slowed x) (1 - d) := (dirOf_congr hlk _).trans (dirOf_setDir_other (slowed x) _ hd)
  have hout : y.lk.out = _ := (congrArg LinkRt.out hlk).trans (congrArg (· ++ _) (out_setDir (slowed x) d _))
  rw [dirOf_slowed] at hsame hother
  rw [out_slowed] at hout
  refine ⟨(computeMap (slowed x) d).1, (id_computeMap ..).trans (congrArg _ (dirOf_slowed x d)), ?_⟩
  rw [hsame]
  exact ⟨rfl, rfl, rfl, rfl, rfl, hout, mapFloor_le_computeMap _ hd, hother⟩

theorem exec_mapProposal (h : proposes s.chip d = true) :
    exec (.mapProposal d) s = .next (onChip (fun x => propose x d (trainNow x)) s) := congrArg Host.Outcome.next (if_pos h)

theorem exec_mapProposal_idle (h : proposes s.chip d = false) :
    exec (.mapProposal d) s = .next s ∧ exec (.mapProposeRepeat d) s = .next s := by
  have hn : ¬proposes s.chip d = true := ne_true_of_eq_false h
  exact ⟨congrArg Host.Outcome.next (if_neg hn), congrArg Host.Outcome.next (if_neg hn)⟩

/-! A proposal sent again (R262). -/

/-- Trains since a train. -/
def trainsSince (x : Chip) (k : Nat) : Nat := (trainNow x + 2 ^ 32 - k) % 2 ^ 32

theorem exec_mapProposeRepeat (h : proposes s.chip d = true) :
    exec (.mapProposeRepeat d) s = .next (onChip (fun x => proposeAgain x d) s) := congrArg Host.Outcome.next (if_pos h)

theorem proposeAgain_none (h : (dirOf x d).asked = none) : proposeAgain x d = x := by rw [proposeAgain, h]

theorem proposeAgain_early {id k : Nat} (h : (dirOf x d).asked = some (id, k)) (hk : trainsSince x k < 16) :
    proposeAgain x d = x := by
  rw [proposeAgain, h]
  exact if_neg (Nat.not_le.2 hk)

theorem proposeAgain_sends {id k : Nat} {m : LoadMap} (h : (dirOf x d).asked = some (id, k)) (hk : 16 ≤ trainsSince x k)
    (hm : ((dirOf x d).mine.find? fun m => m.id == id) = some m) : proposeAgain x d =
    sendSeg (setDir x d { dirOf x d with asked := some (id, trainNow x) }) (linkSeg 0xA id (proposeBytes d m)) none := by
  rw [proposeAgain, h]
  dsimp only
  rw [hm]
  exact if_pos hk

/-! Proposals answered (R261 to R263). -/

theorem exec_mapPropose (hd : d < 2) (ht : transmits s.chip d = true) (hl : linkState s.chip = 4 ∨ linkState s.chip = 5)
    (ha : d = 0 ∨ linkAt s.chip % 16 ≠ 7) :
    exec (.mapPropose d) s = .next (onChip (fun x => proposalsArrive x d (linkAt s.chip)) s) :=
  exec_does (f := fun x => proposalsArrive x d (linkAt x)) (congrArg Host.Outcome.next (if_pos ⟨hd, ht, hl, ha⟩)) rfl

theorem exec_mapPropose_idle (h : 2 ≤ d ∨ transmits s.chip d = false ∨ (linkState s.chip ≠ 4 ∧ linkState s.chip ≠ 5) ∨
    (d = 1 ∧ linkAt s.chip % 16 = 7)) : exec (.mapPropose d) s = .next s := by
  refine congrArg Host.Outcome.next (if_neg ?_)
  rintro ⟨hd, ht, hl, ha⟩
  rcases h with h | h | h | h
  · omega
  · exact Bool.false_ne_true (h.symm.trans ht)
  · exact hl.elim h.1 h.2
  · omega

/-- Proposals on their way are left there. -/
theorem proposalsArrive_none {a : Nat} (h : ∀ p ∈ (dirOf x d).inbox, future p.due a = true) :
    proposalsArrive x d a = setDir x d (dirOf x d) := by
  have hhere : ((dirOf x d).inbox.filter fun p => !future p.due a) = [] :=
    List.filter_eq_nil_iff.2 fun p hp => by simp [h p hp]
  have hstay : ((dirOf x d).inbox.filter fun p => future p.due a) = (dirOf x d).inbox := List.filter_eq_self.2 h
  unfold proposalsArrive
  dsimp only
  rw [hhere, hstay]
  rfl

/-- A direction whose one proposal has been taken. -/
def proposalTaken (x : Chip) (d : Nat) : Chip := setDir x d { dirOf x d with inbox := [] }

/-- One proposal that has arrived, with nothing scheduled or held and no reason to reject it, is acknowledged. -/
theorem proposalsArrive_one {a : Nat} {p : Proposal} (hi : (dirOf x d).inbox = [p]) (hp : future p.due a = false)
    (hs : (dirOf x d).sched = none) (hh : (dirOf x d).held = none) (hn : nakReason (dirOf x d) d p = 0) :
    proposalsArrive x d a = acknowledge (proposalTaken x d) d (proposed d p) a := by
  have hdir : dirOf (proposalTaken x d) d = touch { dirOf x d with inbox := [] } := dirOf_setDir_same ..
  have hsched : (dirOf (proposalTaken x d) d).sched = none := (congrArg LinkDir.sched hdir).trans hs
  have hheld : (dirOf (proposalTaken x d) d).held = none := (congrArg LinkDir.held hdir).trans hh
  have hnak : nakReason (dirOf (proposalTaken x d) d) d p = 0 := by rw [hdir, ← hn]; rfl
  have hone : arriveOne d a (proposalTaken x d, []) p = (proposalTaken x d, [p]) := by
    simp only [arriveOne, hsched, hnak, ne_eq, not_true_eq_false, if_false]
  unfold proposalsArrive
  simp only [hi, hp, Bool.not_false, List.filter_cons_of_pos, List.filter_nil, Bool.false_eq_true, not_false_eq_true,
    List.filter_cons_of_neg, List.foldl_cons, List.foldl_nil]
  rw [← proposalTaken, hone]
  exact if_pos ⟨Option.isNone_iff_eq_none.2 hsched, Option.isNone_iff_eq_none.2 hheld⟩

/-- A map acknowledged is scheduled, told and its ACK put in line. -/
theorem acknowledge_effect (x : Chip) (d : Nat) (m : LoadMap) (a : Nat) :
    let y := acknowledge x d m a
    let at_ := (a + mapLead x) % 2 ^ 32
    (dirOf y d).sched = some ⟨m, at_, (dirOf x d).announced⟩ ∧ (dirOf y d).inbox = (dirOf x d).inbox ∧
    nextSeq y srcLink = nextSeq x srcLink + 1 ∧
    y.lk.out = x.lk.out ++ [⟨⟨m.id, 0xA, 3, ackBytes d at_, none⟩, some a⟩] := by
  intro y at_
  have hdir : dirOf y d = touch { dirOf x d with sched := some ⟨m, at_, (dirOf x d).announced⟩ } :=
    (dirOf_raise ..).trans (dirOf_setDir_same x d _)
  have hinbox : (dirOf y d).inbox = (dirOf x d).inbox := (congrArg LinkDir.inbox hdir :)
  refine ⟨congrArg LinkDir.sched hdir, hinbox, ?_, ?_⟩
  · simp only [y, acknowledge, nextSeq_raise_same, nextSeq_sendSeg, nextSeq_setDir]
  · simp only [y, acknowledge, lk_raise, out_sendSeg, out_setDir, linkSeg]
    rfl

theorem proposalTaken_effect (x : Chip) (d : Nat) : (dirOf (proposalTaken x d) d).inbox = [] ∧
    mapLead (proposalTaken x d) = mapLead x ∧ nextSeq (proposalTaken x d) srcLink = nextSeq x srcLink ∧
    (proposalTaken x d).lk.out = x.lk.out := by
  refine ⟨congrArg LinkDir.inbox (dirOf_setDir_same x d _), ?_, nextSeq_setDir .., out_setDir ..⟩
  have hrd : rd (proposalTaken x d) R.LINK_MAP_CFG = rd x R.LINK_MAP_CFG :=
    (LinkWork.setDir x d _).regs _ (by decide) (by decide)
  exact congrArg (fun w => max 2 (getBits w 8 8)) hrd

/-! The switch at the scheduled train (R261, R265). -/

theorem exec_mapSwitch (hd : d < 2) : exec (.mapSwitch d) s = .next (onChip (fun x =>
    headRun (switchDue x d (if isHead x then x.lk.next else nextTrain (trainNow x)))) s) := congrArg Host.Outcome.next (if_pos hd)

theorem exec_mapSwitch_no_direction (hd : 2 ≤ d) : exec (.mapSwitch d) s = .next s :=
  congrArg Host.Outcome.next (if_neg (Nat.not_lt.2 hd))

theorem switchDue_none {k : Nat} (h : (dirOf x d).sched = none) : switchDue x d k = x := by rw [switchDue, h]

theorem switchDue_early {c : Sched} {k : Nat} (h : (dirOf x d).sched = some c) (hk : future c.at_ k = true) :
    switchDue x d k = x := by
  rw [switchDue, h]
  exact if_pos hk

theorem switchDue_switches {c : Sched} {k : Nat} (h : (dirOf x d).sched = some c) (hk : future c.at_ k = false) :
    switchDue x d k = if isHead (mapSwitch x d k c.map c.notch) && d == 0 then
      after srcLink (fun z => shedLoop z 256) (mapSwitch x d k c.map c.notch) else mapSwitch x d k c.map c.notch := by
  have hx : isHead (mapSwitch x d k c.map c.notch) = isHead x :=
    congrArg (fun w => getBits w 0 2 == 1) ((LinkWork.mapSwitch x d k c.map c.notch).regs R.GEN_ROLE (by decide) (by decide))
  rw [switchDue, h, hx]
  exact if_neg (ne_true_of_eq_false hk)

/-- A scheduled map in force: told, and scheduled no more. -/
theorem mapSwitch_effect {c : Sched} (k : Nat) (h : (dirOf x d).sched = some c) :
    let y := mapSwitch x d k c.map c.notch
    (dirOf y d).now = c.map ∧ (dirOf y d).sched = none ∧ nextSeq y srcLink = nextSeq x srcLink + 1 := by
  intro y
  simp only [y, mapSwitch, dirOf_raise, dirOf_setDir_same, nextSeq_raise_same, nextSeq_setDir, touch, h, if_true, true_and]

theorem nextSeq_carrShed_ne (x : Chip) (c cause : Nat) {src : Nat} (h : src ≠ srcCarr) :
    nextSeq (carrShed x c cause) src = nextSeq x src := by
  have hnoted : nextSeq (shedNoted x c cause) src = nextSeq x src := by
    unfold shedNoted
    dsimp only
    split <;> rfl
  rw [carrShed_eq, nextSeq_setCarr, ← hnoted]
  exact (nextSeq_raiseAt ..).trans (if_neg h)

/-- Shedding changes carriages alone, and no number of another source's events. -/
theorem shedLoop_only (f : Nat) : ∀ x, OnlyCarrs (List.range 256) x (shedLoop x f) ∧
    ∀ src, src ≠ srcCarr → nextSeq (shedLoop x f) src = nextSeq x src := by
  induction f with
  | zero => exact fun x => ⟨.refl _ x, fun _ _ => rfl⟩
  | succ f ih =>
    intro x
    cases hfit : fits x (demand x) with
    | true =>
      rw [shedLoop_fits _ hfit]
      exact ⟨.refl _ x, fun _ _ => rfl⟩
    | false =>
      rcases shedPick_spec x with ⟨hnil, hnone⟩ | ⟨c, hc, hsome, -⟩
      · rw [shedLoop, hfit, hnone]
        exact ⟨.refl _ x, fun _ _ => rfl⟩
      · rw [shedLoop_sheds f hfit hsome]
        obtain ⟨hloop, hseq⟩ := ih (carrShed x c 0)
        have hc' : [c] ⊆ List.range 256 := List.cons_subset.2 ⟨List.mem_range.2 (mem_carrRuns.1 hc).1, List.nil_subset _⟩
        exact ⟨((carrShed_only x c 0).mono hc').trans hloop,
          fun src h => (hseq src h).trans (nextSeq_carrShed_ne x c 0 h)⟩

/-- The shedding at a switch leaves the link and the numbers of its events. -/
theorem shedAfter_keeps (x : Chip) : (after srcLink (fun z => shedLoop z 256) x).lk = x.lk ∧
    linkState (after srcLink (fun z => shedLoop z 256) x) = linkState x ∧
    nextSeq (after srcLink (fun z => shedLoop z 256) x) srcLink = nextSeq x srcLink := by
  obtain ⟨honly, hseq⟩ := shedLoop_only 256 { x with lg := { x.lg with because := some (lastRef x srcLink) } }
  refine ⟨?_, honly.fget_low (f := F.LINK_STATE_state) (by decide), hseq srcLink (by decide)⟩
  rw [after_eq, honly.rest]

/-- A switch at its train puts the map in force and tells it, whatever it sheds. -/
theorem switchDue_effect {c : Sched} {k : Nat} (h : (dirOf x d).sched = some c) (hk : future c.at_ k = false) :
    let y := switchDue x d k
    (dirOf y d).now = c.map ∧ (dirOf y d).sched = none ∧ nextSeq y srcLink = nextSeq x srcLink + 1 ∧
    linkState y = linkState x := by
  obtain ⟨hnow, hsched, hseq⟩ := mapSwitch_effect k h
  have hstate := (LinkWork.mapSwitch x d k c.map c.notch).state
  intro y
  simp only [y]
  rw [switchDue_switches h hk]
  split
  · obtain ⟨hlk, hl, hs⟩ := shedAfter_keeps (mapSwitch x d k c.map c.notch)
    rw [dirOf_congr hlk, hs, hl]
    exact ⟨hnow, hsched, hseq, hstate⟩
  · exact ⟨hnow, hsched, hseq, hstate⟩

theorem headRun_idle (h : linkState x ≠ 4) : headRun x = x := by
  refine if_neg ?_
  simp only [Bool.and_eq_true, beq_iff_eq, not_and]
  exact fun _ hl => absurd hl h

/-- The entry into RUN leaves the maps of both directions. -/
theorem dirOf_setLinkState_run (h : linkState x = 4) (d : Nat) : dirOf (setLinkState x 5) d = dirOf x d := by
  have hrx : ∀ y : Chip, linkRx y 5 = y := fun y => if_neg (by simp [lsUp, lsLost, lsWake])
  have henter : (linkStateEntered x 5).lk.dn = x.lk.dn ∧ (linkStateEntered x 5).lk.up = x.lk.up := by
    rw [linkStateEntered, hrx, h]
    exact ⟨rfl, rfl⟩
  have htold : (linkStateTold x 5).lk = (linkStateEntered x 5).lk := lk_raise ..
  have hset := (setLinkState_eq (x := x) (st := 5) (by rw [h]; decide)).trans (if_neg (by rw [h]; decide))
  simp only [hset, dirOf, htold, henter]

theorem dirOf_headRun (x : Chip) (d : Nat) : dirOf (headRun x) d = dirOf x d := by
  unfold headRun
  split
  next h =>
    simp only [Bool.and_eq_true, beq_iff_eq] at h
    exact dirOf_setLinkState_run h.2.1 d
  next => rfl

/-! Notches and rate (R260, R264). -/

/-- The direction whose maps a head or a foot proposes. -/
def proposerDir (x : Chip) : Nat := if isHead x then 1 else 0

theorem exec_notchSegment_idle {p : List Byte} (h : proposes s.chip (proposerDir s.chip) = false ∨ notchPairs p = none) :
    exec (.notchSegment p) s = .next s := by
  refine congrArg Host.Outcome.next ?_
  rw [← proposerDir]
  rcases h with h | h
  · rw [h]
    rfl
  · rw [h]
    exact ite_self _

theorem exec_notchSegment {p : List Byte} {l : List (Nat × Nat)} (h : proposes s.chip (proposerDir s.chip) = true)
    (hl : notchPairs p = some l) : exec (.notchSegment p) s = .next (onChip (fun x =>
      propose (setDir x (proposerDir s.chip) { dirOf x (proposerDir s.chip) with announced := some l }) (proposerDir s.chip)
        (trainNow x)) s) := by
  refine congrArg Host.Outcome.next ?_
  rw [← proposerDir, hl]
  exact if_pos h

/-- A minute without a failed codeword. -/
def minuteClean (x : Chip) : Prop := ∀ e ∈ x.lk.cwFails, 60 * 32768 ≤ (x.tm.ticks - BitVec.ofNat 48 e.1).toNat

theorem exec_rateRecover (h : minuteClean s.chip) :
    exec .rateRecover s = .next (onChip (fun x => { x with lk := { x.lk with slow := false } }) s) :=
  congrArg Host.Outcome.next (if_pos (List.all_eq_true.2 fun e he => decide_eq_true (h e he)))

theorem exec_rateRecover_idle (h : ¬minuteClean s.chip) : exec .rateRecover s = .next s :=
  congrArg Host.Outcome.next (if_neg fun hall => h fun e he => of_decide_eq_true (List.all_eq_true.1 hall e he))

/-- Settles O52: proposals made, sent again and answered by their rules, the switch by its train, then notches and the rate. -/
theorem loadingMaps : Obligations.LoadingMaps := by
  unfold Obligations.LoadingMaps
  refine ⟨fun d s => exec_mapProposal, fun x d snr hd hne hle => ?snr, fun x d now hd => propose_effect x d now hd,
    fun d s => exec_mapProposal_idle, fun d id k s hp hask => ⟨fun hk => ?early, fun m hk hm => ?again⟩,
    fun d s hp hask => exec_does (g := fun x => x) (exec_mapProposeRepeat hp) (proposeAgain_none hask),
    fun d s => exec_mapPropose_idle, fun d s hd ht hl ha => ⟨exec_mapPropose hd ht hl ha, fun hall => ?waits,
      fun p hi hp hs hh hn => ?one⟩, fun d c s hd hc => ⟨fun hk => ?due, fun hk => ?before⟩,
    fun d s => exec_mapSwitch_no_direction, fun d s hd hc => ?unscheduled,
    fun p s => ⟨exec_notchSegment_idle, fun l => exec_notchSegment⟩, fun s => ⟨exec_rateRecover, fun ⟨e, he, hlt⟩ => ?recent⟩⟩
  case snr =>
    obtain ⟨hmem, hmin⟩ := foldl_min_spec hne hle
    have hlow : (if d = 0 then fget (setSnr x d snr) F.LINK_SNR_dn_min else fget (setSnr x d snr) F.LINK_SNR_up_min) =
        snr.foldl min 255 := by
      rw [← fget_setSnr x d (hle _ hmem), snrMin, apply_ite (fget (setSnr x d snr))]
    intro y low
    have hy : low = snr.foldl min 255 := hlow
    rw [dirOf_setSnr, hy]
    exact ⟨rfl, hmem, hmin⟩
  case early => exact exec_does (g := fun x => x) (exec_mapProposeRepeat hp) (proposeAgain_early hask hk)
  case again =>
    refine ⟨_, exec_mapProposeRepeat hp, chipOnly_onChip _ s, ?_⟩
    rw [onChip_chip, proposeAgain_sends hask hk hm, out_sendSeg, out_setDir, dirOf_sendSeg, dirOf_setDir_same]
    exact ⟨rfl, rfl⟩
  case waits => exact exec_does (exec_mapPropose hd ht hl ha) (proposalsArrive_none hall)
  case one =>
    obtain ⟨hinbox, hlead, hseq, hout⟩ := proposalTaken_effect s.chip d
    obtain ⟨hsched, hinbox', hseq', hout'⟩ := acknowledge_effect (proposalTaken s.chip d) d (proposed d p) (linkAt s.chip)
    rw [hlead] at hsched hout'
    refine ⟨_, (dirOf (proposalTaken s.chip d) d).announced, exec_mapPropose hd ht hl ha, chipOnly_onChip _ s, ?_⟩
    rw [onChip_chip, proposalsArrive_one hi (a := linkAt s.chip) hp hs hh hn]
    exact ⟨hsched, hinbox'.trans hinbox, hseq'.trans (congrArg (· + 1) hseq), hout'.trans (congrArg (· ++ _) hout)⟩
  case due =>
    obtain ⟨hnow, hnone, hseq, hstate⟩ := switchDue_effect hc hk
    refine ⟨_, exec_mapSwitch hd, chipOnly_onChip _ s, ?_⟩
    rw [onChip_chip, dirOf_headRun]
    refine ⟨hnow, hnone, fun hl => ?_⟩
    rw [headRun_idle (hstate.trans_ne hl)]
    exact hseq
  case before => exact exec_does (exec_mapSwitch hd) (congrArg headRun (switchDue_early hc hk))
  case unscheduled => exact exec_does (exec_mapSwitch hd) (congrArg headRun (switchDue_none hc))
  case recent => exact exec_rateRecover_idle fun hall => Nat.not_le.2 hlt (hall e he)

end Sys2Proof.Machine
end

section
/-! The foot's end of the control path (R267 to R270): REMOTE's answers and its request, messages cut and sent, a response, its
repetition and its timeout. -/
namespace Sys2Proof.Machine

variable {x : Chip} {s : State}

/-- A condition that fails in one of its two parts. -/
theorem not_and_of_false_or {b : Bool} {p : Prop} (h : b = false ∨ ¬p) : ¬(b = true ∧ p) := fun ⟨hb, hp⟩ =>
  h.elim (fun h => Bool.false_ne_true (h.symm.trans hb)) fun h => h hp

/-! Messages sent (R255, R268, R270). -/

/-- A message as CTRL segments in line. -/
def ctrlOut (msg : List Byte) : List OutSeg := (ctrlSegs (msg.length + 1) msg true).map fun g => ⟨g, none⟩

theorem foldl_sendSeg (l : List Seg) : ∀ x : Chip, l.foldl (fun y g => sendSeg y g none) x =
    { x with lk := { x.lk with out := x.lk.out ++ l.map fun g => ⟨g, none⟩ } } := by
  induction l with
  | nil =>
    intro x
    rw [List.map_nil, List.append_nil]
    rfl
  | cons g l ih =>
    intro x
    rw [List.foldl_cons, ih, out_sendSeg, List.append_assoc]
    rfl

theorem sendCtrl_eq (x : Chip) (msg : List Byte) :
    sendCtrl x msg = { x with lk := { x.lk with out := x.lk.out ++ ctrlOut msg } } := foldl_sendSeg _ x

/-- A free burst changes the link's memory alone, and that only where the transmitter is up: its levels, header, segments and
signal. -/
theorem freeBurstTx_effect (x : Chip) (msg : List Byte) :
    let y := freeBurstTx x msg
    y.regs = x.regs ∧ y.cp = x.cp ∧ (dUp x = false → y.lk = x.lk) ∧ (dUp x = true → y.lk.out = x.lk.out ∧
      y.lk.txSegs = ctrlSegs (msg.length + 1) msg true ∧ y.lk.txHdr = upHeader 0xFFFFFFFF 21 0 0 false) := by
  intro y
  cases hd : dUp x with
  | false =>
    have hy : y = x := if_neg (ne_true_of_eq_false hd)
    exact ⟨by rw [hy], by rw [hy], fun _ => by rw [hy], fun h => absurd h Bool.false_ne_true⟩
  | true =>
    have hy : y = _ := if_pos hd
    rw [hy]
    exact ⟨rfl, rfl, fun h => absurd h.symm Bool.false_ne_true, fun _ => ⟨rfl, rfl, rfl⟩⟩

/-! REMOTE (R267, R362). -/

section
variable {code : Nat} {o : Iface} {body : State → State × Option (Nat × Nat)}
variable (h : MboxServes s.chip code) (hb : fon s.chip F.MGMT_STATUS_busy = false)
include h hb

/-- A command that an idle mailbox serves and that completes at once. -/
theorem mailboxLong_completes {st len : Nat} {u : State} (hr : body (begun o code s) = (u, some (st, len))) :
    mailboxLong code o body s = finished st len u := by
  obtain ⟨hup, hclosed, hgate, -⟩ := h
  rw [begun, hb, if_neg Bool.false_ne_true] at hr
  simp only [mailboxLong, hup, hclosed, hb, hgate, hr, Bool.or_false, Bool.false_eq_true, if_true, if_false]
  rfl

/-- A command that an idle mailbox serves and that goes on. -/
theorem mailboxLong_goes_on {u : State} (hr : body (begun o code s) = (u, none)) : mailboxLong code o body s = u := by
  obtain ⟨hup, hclosed, hgate, -⟩ := h
  rw [begun, hb, if_neg Bool.false_ne_true] at hr
  simp only [mailboxLong, hup, hclosed, hb, hgate, hr, Bool.or_false, Bool.false_eq_true, if_true, if_false]

end

section
variable {op : Nat} {o : Iface} (h : MboxServes s.chip 0x50) (hb : fon s.chip F.MGMT_STATUS_busy = false) (ha : arg s.chip 0 = op)
include h hb ha

theorem remote_badArg (hbad : remoteArgsOk (begun o 0x50 s).chip op = false) :
    remote op o s = finished 0x05 0 (begun o 0x50 s) := by
  refine (if_neg fun hn => hn.1 ha).trans (mailboxLong_completes h hb ?_)
  exact if_pos (.inr hbad)

theorem remote_notInState (hok : ¬remoteArgsOk (begun o 0x50 s).chip op = false)
    (hoff : isFoot (begun o 0x50 s).chip = false ∨ (linkState (begun o 0x50 s).chip ≠ 5 ∧ op ≠ 4)) :
    remote op o s = finished 0x0B 0 (begun o 0x50 s) := by
  refine (if_neg fun hn => hn.1 ha).trans (mailboxLong_completes h hb ?_)
  exact (if_neg fun hn => hn.elim (fun hne => hne ha) hok).trans (if_pos hoff)

theorem remote_begins (hok : ¬remoteArgsOk (begun o 0x50 s).chip op = false)
    (hon : ¬(isFoot (begun o 0x50 s).chip = false ∨ (linkState (begun o 0x50 s).chip ≠ 5 ∧ op ≠ 4))) :
    remote op o s = remoteBegin (begun o 0x50 s) op := by
  refine (if_neg fun hn => hn.1 ha).trans (mailboxLong_goes_on h hb ?_)
  exact (if_neg fun hn => hn.elim (fun hne => hne ha) hok).trans (if_neg hon)

end

/-- The foot waits for the answer to its numbered request, in RUN or not. -/
def remoteWaits (t : State) (op : Nat) : Chip :=
  { t.chip with cp := { t.chip.cp with
    seq := (t.chip.cp.seq + 1) % 65536, wait := some ⟨t.chip.cp.seq, op, requestOctets t t.chip.cp.seq op, linkState t.chip == 5⟩
    freeLeft := if linkState t.chip == 5 then 0 else 2 } }

/-- A request goes out in RUN as CTRL segments, otherwise as a free burst where the transmitter is up; the foot waits. -/
def RemoteGoes (t : State) (op : Nat) (u : State) : Prop :=
  let msg := requestOctets t t.chip.cp.seq op
  ChipOnly t u ∧ u.chip.regs = t.chip.regs ∧ u.chip.cp.seq = (t.chip.cp.seq + 1) % 65536 ∧
  u.chip.cp.wait = some ⟨t.chip.cp.seq, op, msg, linkState t.chip == 5⟩ ∧
  (linkState t.chip = 5 → u.chip.lk.out = t.chip.lk.out ++ ctrlOut msg) ∧
  (linkState t.chip ≠ 5 → u.chip.cp.freeLeft = 2 ∧ (dUp t.chip = false → u.chip.lk = t.chip.lk) ∧
    (dUp t.chip = true → u.chip.lk.out = t.chip.lk.out ∧ u.chip.lk.txSegs = ctrlSegs (msg.length + 1) msg true ∧
      u.chip.lk.txHdr = upHeader 0xFFFFFFFF 21 0 0 false))

theorem remoteBegin_goes (t : State) (op : Nat) : RemoteGoes t op (remoteBegin t op) := by
  unfold RemoteGoes
  intro msg
  have hu : (remoteBegin t op).chip =
      if linkState t.chip == 5 then sendCtrl (remoteWaits t op) msg else freeBurstTx (remoteWaits t op) msg := rfl
  by_cases hl : linkState t.chip = 5
  · rw [if_pos (beq_iff_eq.2 hl), sendCtrl_eq] at hu
    rw [hu]
    exact ⟨rfl, rfl, rfl, rfl, fun _ => rfl, fun hn => absurd hl hn⟩
  · rw [if_neg (mt beq_iff_eq.1 hl)] at hu
    obtain ⟨hregs, hcp, hdown, hup⟩ := freeBurstTx_effect (remoteWaits t op) msg
    have hleft : (remoteWaits t op).cp.freeLeft = 2 := if_neg (mt beq_iff_eq.1 hl)
    rw [hu, hcp]
    exact ⟨rfl, hregs, rfl, rfl, fun h => absurd h hl, fun _ => ⟨hleft, hdown, hup⟩⟩

/-- REMOTE at an idle mailbox, for each operation of its table. -/
theorem remote_answers {op : Nat} {o : Iface} (h : MboxServes s.chip 0x50) (hb : fon s.chip F.MGMT_STATUS_busy = false) {i : Instr}
    (hexec : exec i s = .next (remote op o s)) (ha : arg s.chip 0 = op) :
    let t := begun o 0x50 s
    let bad := remoteArgsOk t.chip op = false
    let off := isFoot t.chip = false ∨ (linkState t.chip ≠ 5 ∧ op ≠ 4)
    (bad → exec i s = .next (finished 0x05 0 t)) ∧ (¬bad → off → exec i s = .next (finished 0x0B 0 t)) ∧
    (¬bad → ¬off → ∃ u, exec i s = .next u ∧ RemoteGoes t op u) :=
  ⟨fun hbad => hexec.trans (congrArg _ (remote_badArg h hb ha hbad)),
    fun hok hoff => hexec.trans (congrArg _ (remote_notInState h hb ha hok hoff)),
    fun hok hon => ⟨_, hexec.trans (congrArg _ (remote_begins h hb ha hok hon)), remoteBegin_goes _ op⟩⟩

/-! A response (R267, R269, R273). -/

theorem responseBad_iff {w : Option CpWait} {msg : List Byte} : responseBad w msg = true ↔ msg.length < 4 ∨
    responseOk (field msg 2 1) msg = false ∨ ∃ r, w = some r ∧ field msg 0 2 = r.seq ∧ field msg 2 1 ≠ r.op := by
  cases w <;> simp [responseBad]

/-- A response of the right form, of the operation that waits if it is to the request that waits. -/
theorem responseBad_false {w : Option CpWait} {msg : List Byte} (hlen : 4 ≤ msg.length)
    (hok : responseOk (field msg 2 1) msg = true) (hop : ∀ r, w = some r → field msg 0 2 = r.seq → field msg 2 1 = r.op) :
    responseBad w msg = false := by
  refine Bool.eq_false_iff.2 fun hbad => ?_
  rcases responseBad_iff.1 hbad with h | h | ⟨r, hr, hseq, hne⟩
  · exact Nat.not_lt.2 hlen h
  · exact Bool.false_ne_true (h.symm.trans hok)
  · exact hne (hop r hr hseq)

theorem exec_ctrlResponse_idle {msg : List Byte} (h : footReceives s.chip = false ∨ linkState s.chip ≠ 5) :
    exec (.ctrlResponse msg) s = .next s :=
  congrArg Host.Outcome.next (if_neg (not_and_of_false_or h))

/-- A well-formed response that the foot does not wait for. -/
theorem exec_ctrlResponse_unasked {msg : List Byte} (hb : responseBad s.chip.cp.wait msg = false)
    (hw : ∀ w, s.chip.cp.wait = some w → field msg 0 2 ≠ w.seq) : exec (.ctrlResponse msg) s = .next s := by
  change execCtrlResponse msg s = _
  rw [execCtrlResponse, hb]
  refine congrArg Host.Outcome.next (ite_eq_right_iff.2 fun _ => ?_)
  cases hwait : s.chip.cp.wait with
  | none => rfl
  | some w => exact if_neg (hw w hwait)

section
variable {msg : List Byte} (hf : footReceives s.chip = true) (hl : linkState s.chip = 5)
include hf hl

theorem exec_ctrlResponse_bad (hb : responseBad s.chip.cp.wait msg = true) :
    exec (.ctrlResponse msg) s = .next (onChip (fun x => peerViol x 8 (trainNow x)) s) :=
  congrArg Host.Outcome.next ((if_pos ⟨hf, hl⟩).trans (if_pos hb))

/-- The response to the request waited for. -/
theorem exec_ctrlResponse_taken {w : CpWait} (hb : responseBad s.chip.cp.wait msg = false) (hw : s.chip.cp.wait = some w)
    (hseq : field msg 0 2 = w.seq) : exec (.ctrlResponse msg) s = .next (responseTake s w.op msg) := by
  change execCtrlResponse msg s = _
  rw [execCtrlResponse, if_pos ⟨hf, hl⟩, hb, hw]
  exact congrArg Host.Outcome.next (if_pos hseq)

end

/-- The request answered, with its status in ARG0. -/
def responseNoted (x : Chip) (msg : List Byte) : Chip :=
  setArg { x with cp := { x.cp with wait := none, freeLeft := 0 } } 0 (field msg 3 1)

theorem responseTake_read (msg : List Byte) : responseTake s 1 msg =
    finished 0x00 (msg.length - 4) (putWin (onChip (fun _ => responseNoted s.chip msg) s) 0 (msg.drop 4)) := by
  rw [← List.length_drop]
  rfl

theorem responseTake_plain {op : Nat} (h : op = 2 ∨ op = 4) (msg : List Byte) : responseTake s op msg =
    finished 0x00 0 (onChip (fun _ => responseNoted s.chip msg) s) := by
  rcases h with rfl | rfl
  · rfl
  · rfl

/-! No response (R267, R269, R270, R274). -/

section
variable {w : CpWait} (hw : s.chip.cp.wait = some w)
include hw

theorem exec_cpTimeout : exec .cpTimeout s = .next (finished 0x08 0 (onChip (fun x =>
    { raise x srcLink 0x15 (b2 w.seq ++ b1 w.op) with
      cp := { (raise x srcLink 0x15 (b2 w.seq ++ b1 w.op)).cp with wait := none, freeLeft := 0 } }) s)) := by
  change execCpTimeout s = _
  rw [execCpTimeout, hw]
  rfl

theorem exec_cpRetry (hr : w.run = true) (hl : linkState s.chip = 5) : exec .cpRetry s =
    .next (onChip (fun x => sendCtrl (count x R.LINK_CP_RETRY_COUNT (protoWrap 8) 1) w.octets) s) := by
  change execCpRetry s = _
  rw [execCpRetry, hw]
  exact congrArg Host.Outcome.next (if_pos ⟨hr, hl⟩)

theorem exec_cpRetry_idle (h : w.run = false ∨ linkState s.chip ≠ 5) : exec .cpRetry s = .next s := by
  change execCpRetry s = _
  rw [execCpRetry, hw]
  exact congrArg Host.Outcome.next (if_neg (not_and_of_false_or h))

theorem exec_freeBurstRepeat (hn : 0 < s.chip.cp.freeLeft) : exec .freeBurstRepeat s = .next (onChip (fun x =>
    freeBurstTx { x with cp := { x.cp with freeLeft := x.cp.freeLeft - 1 } } w.octets) s) := by
  change execFreeBurstRepeat s = _
  rw [execFreeBurstRepeat, hw]
  exact congrArg Host.Outcome.next (if_pos hn)

theorem exec_freeBurstRepeat_idle (hn : s.chip.cp.freeLeft = 0) : exec .freeBurstRepeat s = .next s := by
  change execFreeBurstRepeat s = _
  rw [execFreeBurstRepeat, hw, hn]
  rfl

end

theorem exec_unawaited (h : s.chip.cp.wait = none) :
    exec .cpTimeout s = .next s ∧ exec .cpRetry s = .next s ∧ exec .freeBurstRepeat s = .next s := by
  change execCpTimeout s = _ ∧ execCpRetry s = _ ∧ execFreeBurstRepeat s = _
  rw [execCpTimeout, execCpRetry, execFreeBurstRepeat, h]
  exact ⟨rfl, rfl, rfl⟩

/-- A request sent again is counted. -/
theorem cpRetry_effect (x : Chip) (msg : List Byte) :
    let y := sendCtrl (count x R.LINK_CP_RETRY_COUNT (protoWrap 8) 1) msg
    rd y R.LINK_CP_RETRY_COUNT = rd x R.LINK_CP_RETRY_COUNT + 1 ∧ y.cp = x.cp ∧ y.lk.out = x.lk.out ++ ctrlOut msg := by
  intro y
  have hrd : rd (count x R.LINK_CP_RETRY_COUNT (protoWrap 8) 1) R.LINK_CP_RETRY_COUNT = rd x R.LINK_CP_RETRY_COUNT + 1 :=
    rd_count_one _ _ _ (by decide)
  simp only [y, sendCtrl_eq]
  refine ⟨hrd, ?_, ?_⟩
  · rw [count_rest]
  · rw [count_lk]

end Sys2Proof.Machine
end

section
/-! The head's end of the control path (R32, R268 to R270): a request taken and run, and free bursts. -/
namespace Sys2Proof.Machine

variable {x : Chip} {s : State}

/-! A request taken (R269, R273). -/

theorem exec_ctrlRequest (hh : isHead s.chip = true) (hm : mgmtUp s.chip = true) (hl : linkState s.chip = 5) (msg : List Byte)
    (b : BusObs) : exec (.ctrlRequest msg b) s = .next (cpDrain (cpTake msg b s)) :=
  congrArg Host.Outcome.next (if_pos (by rw [hh, hm, hl]; rfl))

theorem exec_ctrlRequest_idle {msg : List Byte} {b : BusObs}
    (h : isHead s.chip = false ∨ mgmtUp s.chip = false ∨ linkState s.chip ≠ 5) : exec (.ctrlRequest msg b) s = .next s := by
  refine congrArg Host.Outcome.next (if_neg ?_)
  simp only [Bool.and_eq_true, beq_iff_eq]
  rintro ⟨hh, hm, hl⟩
  rcases h with h | h | h
  · exact Bool.false_ne_true (h.symm.trans hh)
  · exact Bool.false_ne_true (h.symm.trans hm)
  · exact h hl

theorem cpDrain_none (h : s.chip.cp.queue = []) : cpDrain s = s := by rw [cpDrain, h]; rfl

/-- One request that need not wait is run, and none is left. -/
theorem cpDrain_one {r : CpReq} (hq : s.chip.cp.queue = []) (hw : cpWaits s.chip r = false) (hm : mgmtUp s.chip = true) :
    cpDrain (onChip (fun x => { x with cp := { x.cp with queue := [r] } }) s) =
      onChip (fun x => fset x F.LINK_PROTO_STATUS_cp_out x.cp.queue.length) (cpRun s r) := by
  have hruns : (cpWaits s.chip r || !regsUp s.chip) = false := by rw [hw, regsUp, hm]; rfl
  have hsame : onChip (fun x => { x with cp := { x.cp with queue := [] } }) s = s := by rw [onChip, ← hq]
  have hn : cpDrainN 1 (onChip (fun x => { x with cp := { x.cp with queue := [r] } }) s) =
      cpRun (onChip (fun x => { x with cp := { x.cp with queue := [] } }) s) r := if_neg (ne_true_of_eq_false hruns)
  rw [hsame] at hn
  exact (if_neg Bool.false_ne_true).trans (congrArg (onChip _) hn)

theorem cp_peerViol (x : Chip) (reason train : Nat) : (peerViol x reason train).cp = x.cp := by rw [peerViol_rest]

theorem queue_cpReply (x : Chip) (seq op status : Nat) (data : List Byte) :
    (cpReply x seq op status data).cp.queue = x.cp.queue := by
  unfold cpReply
  dsimp only
  split
  · rw [sendCtrl_eq]
  · rfl

section
variable {msg : List Byte} {b : BusObs} (hlen : 2 ≤ msg.length)
include hlen

/-- A request whose response is kept. -/
theorem cpTake_kept {e : Nat × List Byte} (hk : (s.chip.cp.responses.find? fun e => e.1 == field msg 0 2) = some e) :
    cpTake msg b s = onChip (fun x => sendCtrl x e.2) s := by
  simp only [cpTake, if_neg (Nat.not_lt.2 hlen), hk]

variable (hk : (s.chip.cp.responses.find? fun e => e.1 == field msg 0 2) = none) (hq : s.chip.cp.queue = [])
include hk hq

theorem cpTake_malformed (hw : cpWell msg = false) : cpTake msg b s =
    cpRefuse (onChip (fun x => peerViol x 8 (trainNow x)) s) ⟨field msg 0 2, field msg 2 1, msg, b⟩ 0x05 := by
  simp only [cpTake, if_neg (Nat.not_lt.2 hlen), hk, hq, hw, List.any_nil, Bool.false_eq_true, if_false, Bool.not_false, if_true]
  rfl

theorem cpTake_queues (hw : cpWell msg = true) : cpTake msg b s = onChip (fun x =>
    { x with cp := { x.cp with queue := [⟨field msg 0 2, field msg 2 1, msg, b⟩] } }) s := by
  simp only [cpTake, if_neg (Nat.not_lt.2 hlen), hk, hq, hw, List.any_nil, Bool.false_eq_true, if_false, Bool.not_true]
  refine (if_neg (Nat.not_succ_le_zero 3)).trans (onChip_congr ?_)
  rw [hq, List.nil_append]

end

/-! A request run (R269). -/

theorem cpRun_read {r : CpReq} (h : r.op = 1) : cpRun s r =
    onChip (fun x => cpReply x r.seq 1 0 (smGet (fun _ => []) x.rdata Iface.cp.code))
      (readBytes (onChip (fun x => noteWait x .cp r.obs.ns) s) .cp (fget s.chip F.GEN_CTRL_cp_bank) (field r.octets 4 2)
        (4 * field r.octets 3 1)) := by
  simp only [cpRun, h]
  rfl

theorem cpRun_denied {r : CpReq} (h : r.op = 2 ∨ r.op = 3) (hw : fon s.chip F.LINK_CP_CFG_wr_en = false) :
    cpRun s r = cpRefuse s r 0x06 := by
  rcases h with h | h
  · simp only [cpRun, h, hw, Bool.false_eq_true, if_false]
    rfl
  · simp only [cpRun, h, hw, Bool.not_false, if_true]
    rfl

theorem cpRun_mbox_badArg {r : CpReq} (h : r.op = 3) (hw : fon s.chip F.LINK_CP_CFG_wr_en = true) (ha : 255 < field r.octets 4 2) :
    cpRun s r = cpRefuse s r 0x05 := by
  simp only [cpRun, h, hw, Bool.not_true, Bool.false_eq_true, if_false, if_pos ha]
  rfl

theorem cpRun_unknown {r : CpReq} (h : r.op = 0 ∨ 4 < r.op) : cpRun s r = cpRefuse s r 0x05 := by
  unfold cpRun
  dsimp only
  split
  case h_5 => rfl
  all_goals omega

/-! Free bursts (R32, R270). -/

theorem exec_freeBurst (hh : isHead s.chip = true) (hm : mgmtUp s.chip = true) (hs : shed s.chip = false)
    (hl : linkState s.chip = 0 ∨ linkState s.chip = 6 ∨ pstate s.chip = 2) (msg : List Byte) :
    exec (.freeBurst msg) s = .next (onChip (fun x => freeTake x msg) s) := by
  refine congrArg Host.Outcome.next (if_pos ?_)
  simp only [hh, hm, hs, Bool.not_false, Bool.true_and, Bool.or_eq_true, beq_iff_eq]
  exact or_assoc.2 hl

theorem exec_freeBurst_idle {msg : List Byte} (h : isHead s.chip = false ∨ mgmtUp s.chip = false ∨ shed s.chip = true ∨
    (linkState s.chip ≠ 0 ∧ linkState s.chip ≠ 6 ∧ pstate s.chip ≠ 2)) : exec (.freeBurst msg) s = .next s := by
  refine congrArg Host.Outcome.next (if_neg ?_)
  simp only [Bool.and_eq_true, Bool.not_eq_true', Bool.or_eq_true, beq_iff_eq]
  rintro ⟨hh, ⟨hm, hs⟩, hl⟩
  rcases h with h | h | h | ⟨h0, h6, h2⟩
  · exact Bool.false_ne_true (h.symm.trans hh)
  · exact Bool.false_ne_true (h.symm.trans hm)
  · exact Bool.false_ne_true (hs.symm.trans h)
  · exact (or_assoc.1 hl).elim h0 fun hl => hl.elim h6 h2

/-- A free burst's number kept among the last eight. -/
def numberSeen (x : Chip) (seq : Nat) : Chip :=
  { x with cp := { x.cp with freeSeen := (x.cp.freeSeen ++ [seq]).drop ((x.cp.freeSeen ++ [seq]).length - 8) } }

theorem freeTake_short {msg : List Byte} (h : msg.length < 8) : freeTake x msg = peerViol x 8 (trainNow x) := if_pos h

section
variable {msg : List Byte} (hlen : 8 ≤ msg.length)
include hlen

theorem freeTake_other (h : field msg 2 1 ≠ 4) : freeTake x msg = if pstate x = 2 then burstBad x else x :=
  (if_neg (Nat.not_lt.2 hlen)).trans (if_pos h)

variable (hop : field msg 2 1 = 4)
include hop

theorem freeTake_stays (h : mboxClosed x = true ∨ field msg 0 2 ∈ x.cp.freeSeen) : freeTake x msg = x :=
  (if_neg (Nat.not_lt.2 hlen)).trans ((if_neg (not_not.2 hop)).trans (if_pos h))

theorem freeTake_acts (hc : mboxClosed x = false) (hs : field msg 0 2 ∉ x.cp.freeSeen) :
    freeTake x msg = freePower (numberSeen x (field msg 0 2)) (field msg 3 1) :=
  (if_neg (Nat.not_lt.2 hlen)).trans ((if_neg (not_not.2 hop)).trans
    (if_neg fun h => h.elim (fun h => Bool.false_ne_true (hc.symm.trans h)) hs))

end

theorem powerSet_refused {target : Nat} (h : 3 < target ∨ x.pw.trans ≠ none) (pin : Bool) (origin : Nat) :
    (powerSet x target pin origin).1 = x ∧ (powerSet x target pin origin).2 ≠ stOk := by
  unfold powerSet
  split
  · exact ⟨rfl, fun h => absurd h (by decide : stBadArg ≠ stOk)⟩
  next h3 =>
    rw [if_pos (Option.isSome_iff_ne_none.2 (h.resolve_left h3))]
    exact ⟨rfl, fun h => absurd h (by decide : stBusy ≠ stOk)⟩

/-- A POWER that management does not serve, for no state or during a transition, changes nothing. -/
theorem freePower_refused {target : Nat} (h : mboxGate x 0x18 ≠ none ∨ 3 < target ∨ x.pw.trans ≠ none) :
    freePower x target = x := by
  unfold freePower
  split
  · rfl
  next hgate =>
    obtain ⟨hx, hst⟩ := powerSet_refused (h.resolve_left (not_not.2 hgate)) false 1
    dsimp only
    rw [if_pos hst, hx]

theorem freePower_numberSeen_refused {seq target : Nat} (h : mboxGate x 0x18 ≠ none ∨ 3 < target ∨ x.pw.trans ≠ none) :
    freePower (numberSeen x seq) target = numberSeen x seq := by
  have hgate : mboxGate (numberSeen x seq) 0x18 = mboxGate x 0x18 := rfl
  have htrans : (numberSeen x seq).pw.trans = x.pw.trans := rfl
  exact freePower_refused (by rwa [hgate, htrans])

end Sys2Proof.Machine
end

section
/-! Time distribution (R271, R272): SAMPLE and WALL messages, wall time put at a target, and the statement about the control
path. -/
namespace Sys2Proof.Machine

variable {x : Chip} {s : State}

/-! SAMPLE and WALL messages sent and kept. -/

theorem exec_sampleMessage (hf : footReceives s.chip = true) (hl : linkState s.chip = 5) (p : List Byte) :
    exec (.sampleMessage p) s = .next (onChip (fun x => if p.length = 22 then { x with cp := { x.cp with
      sample := some (field p 0 4, field p 4 8, field p 12 8, field p 20 2, x.tm.stime.toNat) } }
      else peerViol x 8 (trainNow x)) s) := congrArg Host.Outcome.next (if_pos ⟨hf, hl⟩)

theorem exec_sampleMessage_idle {p : List Byte} (h : footReceives s.chip = false ∨ linkState s.chip ≠ 5) :
    exec (.sampleMessage p) s = .next s :=
  congrArg Host.Outcome.next (if_neg (not_and_of_false_or h))

theorem wallMsg_none (h : x.cp.heard = none) : wallMsg x = x := by rw [wallMsg, h]

theorem wallMsg_some {k : Nat} {at_ : BitVec 48} (h : x.cp.heard = some (k, at_)) : wallMsg x = sendSeg x
    ⟨1, 9, 3, b4 k ++ le 8 (wall x - (x.tm.ticks - at_)).toNat ++ b2 (epoch x), none⟩ none := by
  rw [wallMsg, h]
  rfl

theorem exec_wallSend (hf : isFoot s.chip = true) (hl : linkState s.chip = 5) : exec .wallSend s = .next (onChip wallMsg s) :=
  congrArg Host.Outcome.next (if_pos ⟨hf, hl⟩)

theorem exec_wallSend_idle (h : isFoot s.chip = false ∨ linkState s.chip ≠ 5 ∨ s.chip.cp.heard = none) :
    exec .wallSend s = .next s := by
  by_cases hon : isFoot s.chip = true ∧ linkState s.chip = 5
  · refine exec_does (g := fun x => x) (exec_wallSend hon.1 hon.2) (wallMsg_none ?_)
    exact (h.resolve_left fun h => Bool.false_ne_true (h.symm.trans hon.1)).resolve_left fun h => h hon.2
  · exact congrArg Host.Outcome.next (if_neg hon)

/-! Wall time put at a target (R369, R370). -/

theorem wall_raise (x : Chip) (src code : Nat) (args : List Byte) : wall (raise x src code args) = wall x := by
  rw [raise_rest]
  rfl

theorem cp_raise (x : Chip) (src code : Nat) (args : List Byte) : (raise x src code args).cp = x.cp := by rw [raise_rest]

theorem wall_wr (x : Chip) (a : Nat) (v : Word) : wall (wr x a v) = wall x := rfl

theorem nextSeq_wr (x : Chip) (a : Nat) (v : Word) (src : Nat) : nextSeq (wr x a v) src = nextSeq x src := rfl

/-- Wall time put at a target: registers, log and the offset alone change, and no number of events but those of the clock. -/
structure WallSet (target : BitVec 48) (x y : Chip) : Prop where
  rest : y = { x with regs := y.regs, lg := y.lg, tm := { x.tm with offset := target - x.tm.ticks } }
  seqs : ∀ src, src ≠ srcRtc → nextSeq y src = nextSeq x src

namespace WallSet

variable {target : BitVec 48} {y : Chip}

theorem wall_eq (h : WallSet target x y) : wall y = target := by
  rw [wall, h.rest]
  bv_omega

theorem cp_eq (h : WallSet target x y) : y.cp = x.cp := by rw [h.rest]

/-- What stands at the target already. -/
theorem of_wall (h : wall x = target) : WallSet target x x := by
  have hoff : target - x.tm.ticks = x.tm.offset := by
    rw [← h, wall]
    bv_omega
  exact ⟨by rw [hoff], fun _ _ => rfl⟩

theorem raise (h : WallSet target x y) (code : Nat) (args : List Byte) : WallSet target x (raise y srcRtc code args) := by
  refine ⟨?_, fun src hs => ((nextSeq_raiseAt ..).trans (if_neg hs)).trans (h.seqs src hs)⟩
  have hr := raise_rest y srcRtc code args
  generalize Machine.raise y srcRtc code args = z at hr ⊢
  exact hr.trans (by rw [h.rest])

end WallSet

/-- The step from wall time to a target. -/
def wallStep (x : Chip) (target : BitVec 48) : Int := (target - x.tm.ticks - x.tm.offset).toInt

/-- The offset of wall time put, with the registers of its step, before the clock's events. -/
def wallPut (x : Chip) (target : BitVec 48) : Chip :=
  let y := wr (wr { x with tm := { x.tm with offset := target - x.tm.ticks } } R.MGMT_STEP_LO (BitVec.ofInt 32 (wallStep x target)))
    R.MGMT_STEP_HI (BitVec.ofInt 32 (wallStep x target / 2 ^ 32))
  let z := setCause (fset y F.RTC_STATUS_stepped 1) .time
  if wallStep x target < 0 then epochUp z else z

theorem setWall_eq (x : Chip) (origin : Nat) (target : BitVec 48) : setWall x origin target =
    if wallStep x target = 0 then x
    else if wallStep x target < 0 then
      raise (raise (wallPut x target) srcRtc 0x02 (b1 origin ++ leInt 6 (wallStep x target))) srcRtc 0x03
        (b2 (epoch x) ++ b2 (epoch x + 1))
    else raise (wallPut x target) srcRtc 0x02 (b1 origin ++ leInt 6 (wallStep x target)) := rfl

theorem wallSet_wallPut (x : Chip) (target : BitVec 48) : WallSet target x (wallPut x target) := by
  unfold wallPut
  dsimp only
  split
  · exact ⟨rfl, fun _ _ => rfl⟩
  · exact ⟨rfl, fun _ _ => rfl⟩

/-- Wall time is what it is set to. -/
theorem wallSet_setWall (x : Chip) (origin : Nat) (target : BitVec 48) : WallSet target x (setWall x origin target) := by
  have hput := wallSet_wallPut x target
  rw [setWall_eq]
  split
  next h =>
    have hz : target - x.tm.ticks - x.tm.offset = 0 := BitVec.toInt_inj.1 (h.trans BitVec.toInt_zero.symm)
    refine .of_wall ?_
    rw [wall]
    bv_omega
  next =>
    split
    · exact (hput.raise ..).raise ..
    · exact hput.raise ..

/-! A WALL message at the head. -/

/-- How far a WALL message is ahead of the head's wall time. -/
def wallDiff (x : Chip) (p : List Byte) (ago : Nat) : Int :=
  (BitVec.ofNat 48 (field p 4 8 + 2 ^ 48 - halfRtt x) - (wall x - BitVec.ofNat 48 ago)).toInt

/-- A WALL message has another epoch than the last. -/
def wallNews (x : Chip) (p : List Byte) : Bool :=
  match x.cp.wallEpoch with
  | some v => v != field p 12 2
  | none => false

theorem wallNews_iff {p : List Byte} : wallNews x p = true ↔ ∃ v, x.cp.wallEpoch = some v ∧ v ≠ field p 12 2 := by
  unfold wallNews
  cases x.cp.wallEpoch <;> simp

/-- A WALL message's epoch is kept. -/
def wallNoted (x : Chip) (p : List Byte) : Chip := { x with cp := { x.cp with wallEpoch := some (field p 12 2) } }

/-- A WALL message's step taken, before it is told. -/
def wallStepped (x : Chip) (p : List Byte) (ago : Nat) : Chip :=
  wr (setWall (wallNoted x p) 2 (wall x + BitVec.ofInt 48 (wallDiff x p ago))) R.LINK_TIME_STATUS
    (BitVec.ofInt 32 (wallDiff x p ago))

theorem exec_wallMessage (hh : isHead s.chip = true) (hl : linkState s.chip = 5) (p : List Byte) (ago : Nat) :
    exec (.wallMessage p ago) s = .next (onChip (fun x => if p.length = 14 then wallTake x p ago
      else peerViol x 8 (trainNow x)) s) := congrArg Host.Outcome.next (if_pos ⟨hh, hl⟩)

theorem exec_wallMessage_taken (hh : isHead s.chip = true) (hl : linkState s.chip = 5) {p : List Byte} (ago : Nat)
    (hlen : p.length = 14) : exec (.wallMessage p ago) s = .next (onChip (fun x => wallTake x p ago) s) :=
  exec_does (g := fun x => wallTake x p ago) (exec_wallMessage hh hl p ago) (if_pos hlen)

theorem exec_wallMessage_idle {p : List Byte} {ago : Nat} (h : isHead s.chip = false ∨ linkState s.chip ≠ 5) :
    exec (.wallMessage p ago) s = .next s :=
  congrArg Host.Outcome.next (if_neg (not_and_of_false_or h))

theorem wallTake_eq (x : Chip) (p : List Byte) (ago : Nat) : wallTake x p ago =
    if fget x F.LINK_TIME_CFG_tol < (wallDiff x p ago).natAbs ∨ wallNews x p = true then
      raise (wallStepped x p ago) srcLink 0x16 (leInt 6 (wallDiff x p ago) ++ b2 (field p 12 2))
    else wallNoted x p := by
  unfold wallTake
  dsimp only
  generalize hd : (BitVec.ofNat 48 (field p 4 8 + 2 ^ 48 - halfRtt x) - (wall x - BitVec.ofNat 48 ago)).toInt = diff
  have hdiff : wallDiff x p ago = diff := hd
  rw [wallStepped, hdiff]
  rfl

theorem wallTake_within {p : List Byte} {ago : Nat} (h : (wallDiff x p ago).natAbs ≤ fget x F.LINK_TIME_CFG_tol)
    (hn : ¬wallNews x p = true) : wallTake x p ago = wallNoted x p := by
  rw [wallTake_eq, if_neg (not_or.2 ⟨Nat.not_lt.2 h, hn⟩)]

/-- What a step leaves: wall time and the epoch of the message, its size shown, and the link's events as they were. -/
theorem wallStepped_effect (x : Chip) (p : List Byte) (ago : Nat) :
    wall (wallStepped x p ago) = wall x + BitVec.ofInt 48 (wallDiff x p ago) ∧
    rd (wallStepped x p ago) R.LINK_TIME_STATUS = BitVec.ofInt 32 (wallDiff x p ago) ∧
    (wallStepped x p ago).cp = (wallNoted x p).cp ∧ nextSeq (wallStepped x p ago) srcLink = nextSeq x srcLink := by
  have hset := wallSet_setWall (wallNoted x p) 2 (wall x + BitVec.ofInt 48 (wallDiff x p ago))
  unfold wallStepped
  rw [wall_wr, hset.wall_eq, rd_wr_same, wr_cp, hset.cp_eq, nextSeq_wr, hset.seqs srcLink (by decide)]
  exact ⟨rfl, rfl, rfl, rfl⟩

/-- Beyond the tolerance, or with another epoch, the head's wall time steps by the difference. -/
theorem wallTake_steps {p : List Byte} {ago : Nat}
    (h : fget x F.LINK_TIME_CFG_tol < (wallDiff x p ago).natAbs ∨ wallNews x p = true) :
    wall (wallTake x p ago) = wall x + BitVec.ofInt 48 (wallDiff x p ago) ∧
    rd (wallTake x p ago) R.LINK_TIME_STATUS = BitVec.ofInt 32 (wallDiff x p ago) ∧
    (wallTake x p ago).cp.wallEpoch = some (field p 12 2) ∧ nextSeq (wallTake x p ago) srcLink = nextSeq x srcLink + 1 := by
  obtain ⟨hwall, hrd, hcp, hseq⟩ := wallStepped_effect x p ago
  rw [wallTake_eq, if_pos h, wall_raise, hwall, rd_raise _ _ _ _ _ (by decide), hrd, cp_raise, hcp, nextSeq_raise_same, hseq]
  exact ⟨rfl, rfl, rfl, rfl⟩

/-- Settles O54: REMOTE for each operation, a response by what it answers, no response, a request at the head and what running it
does, free bursts, then SAMPLE and WALL messages. -/
theorem controlPathCommands : Obligations.ControlPathCommands := by
  unfold Obligations.ControlPathCommands
  refine ⟨fun o s h hb => ?remote, fun msg s hf hl hbad => ?malformed, fun msg s hw hlen hok => ?unawaited,
    fun msg s => exec_ctrlResponse_idle, fun msg w s hf hl hw hok => ?response, fun w s hw => ?waiting, fun s => exec_unawaited,
    fun msg b s hh hm hl hq hlen => ?request, fun r s => ⟨cpRun_read, cpRun_denied, cpRun_mbox_badArg, cpRun_unknown⟩,
    fun msg b s => exec_ctrlRequest_idle, fun msg s hh hm hs hl => ?free, fun msg s => exec_freeBurst_idle, fun p ago s => ?time⟩
  case remote =>
    exact ⟨remote_answers h hb (i := .remoteRead o) rfl, remote_answers h hb (i := .remoteWrite o) rfl,
      remote_answers h hb (i := .remoteMbox o) rfl, remote_answers h hb (i := .remotePower o) rfl⟩
  case malformed => exact exec_ctrlResponse_bad hf hl (responseBad_iff.2 (hbad.imp_right .inl))
  case unawaited =>
    have hnone : ∀ w, s.chip.cp.wait ≠ some w := fun w h => absurd (hw.symm.trans h) (by simp)
    exact exec_ctrlResponse_unasked (responseBad_false hlen hok fun r hr => absurd hr (hnone r)) fun w h => absurd h (hnone w)
  case response =>
    have hone : ∀ v, s.chip.cp.wait = some v → w = v := fun v hv => Option.some.inj (hw.symm.trans hv)
    have htaken : 4 ≤ msg.length → field msg 0 2 = w.seq → field msg 2 1 = w.op →
        exec (.ctrlResponse msg) s = .next (responseTake s w.op msg) :=
      fun hlen hseq hop => exec_ctrlResponse_taken hf hl (responseBad_false hlen hok fun v hv _ => hone v hv ▸ hop) hw hseq
    refine ⟨fun _ hseq hne => exec_ctrlResponse_bad hf hl (responseBad_iff.2 (.inr (.inr ⟨w, hw, hseq, hne⟩))),
      fun hlen hne => ?_, fun hlen hseq hop h1 => ?_, fun hlen hseq hop h24 => ?_⟩
    · have hother : ∀ v, s.chip.cp.wait = some v → field msg 0 2 ≠ v.seq := fun v hv => hone v hv ▸ hne
      exact exec_ctrlResponse_unasked (responseBad_false hlen hok fun v hv h => absurd h (hother v hv)) hother
    · exact (htaken hlen hseq hop).trans (congrArg Host.Outcome.next (by rw [h1]; exact responseTake_read msg))
    · exact (htaken hlen hseq hop).trans (congrArg Host.Outcome.next (responseTake_plain h24 msg))
  case waiting =>
    refine ⟨exec_cpTimeout hw, fun hr hl => ⟨_, exec_cpRetry hw hr hl, chipOnly_onChip _ s, cpRetry_effect s.chip w.octets⟩,
      exec_cpRetry_idle hw, fun hn => ⟨_, exec_freeBurstRepeat hw hn, chipOnly_onChip _ s, ?_⟩, exec_freeBurstRepeat_idle hw⟩
    obtain ⟨hregs, hcp, hdown, hup⟩ := freeBurstTx_effect
      { s.chip with cp := { s.chip.cp with freeLeft := s.chip.cp.freeLeft - 1 } } w.octets
    refine ⟨hregs, hcp, hdown, fun hd => ?_⟩
    obtain ⟨hout, hsegs, hhdr⟩ := hup hd
    exact ⟨hsegs, hhdr, hout⟩
  case request =>
    have hexec := exec_ctrlRequest hh hm hl msg b
    refine ⟨fun e he => ?_, fun hk hw => ?_, fun hk hw hwaits => ?_⟩
    · have hsent : cpDrain (cpTake msg b s) = onChip (fun x => sendCtrl x e.2) s := by
        rw [cpTake_kept hlen he]
        exact cpDrain_none (by rw [onChip_chip, sendCtrl_eq, hq])
      refine ⟨_, hexec.trans (congrArg _ hsent), chipOnly_onChip _ s, ?_⟩
      rw [onChip_chip, sendCtrl_eq]
      exact ⟨rfl, rfl, rfl⟩
    · rw [hexec, cpTake_malformed hlen hk hq hw]
      refine congrArg Host.Outcome.next (cpDrain_none ?_)
      rw [cpRefuse, onChip_chip, queue_cpReply, onChip_chip, cp_peerViol, hq]
    · rw [hexec, cpTake_queues hlen hk hq hw]
      exact congrArg Host.Outcome.next (cpDrain_one hq hwaits hm)
  case free =>
    have hexec := exec_freeBurst hh hm hs hl msg
    refine ⟨fun hlen => exec_does hexec (freeTake_short hlen),
      fun hlen hop h2 => exec_does hexec ((freeTake_other hlen hop).trans (if_pos h2)),
      fun hlen hop h2 => exec_does (g := fun x => x) hexec ((freeTake_other hlen hop).trans (if_neg h2)),
      fun hlen hop h => exec_does (g := fun x => x) hexec (freeTake_stays hlen hop h), fun hlen hop hc hseen => ?_⟩
    have hacts := freeTake_acts hlen hop hc hseen
    exact ⟨exec_does hexec hacts, fun h => exec_does hexec (hacts.trans (freePower_numberSeen_refused h))⟩
  case time =>
    refine ⟨fun hf hl hlen => exec_does (exec_sampleMessage hf hl p) (if_pos hlen),
      fun hf hl hlen => exec_does (exec_sampleMessage hf hl p) (if_neg hlen), exec_sampleMessage_idle,
      fun k at_ hf hl hk => exec_does (exec_wallSend hf hl) (wallMsg_some hk), exec_wallSend_idle,
      fun hh hl hlen => ⟨fun hd hn => ?_, fun h => ?_⟩,
      fun hh hl hlen => exec_does (exec_wallMessage hh hl p ago) (if_neg hlen), exec_wallMessage_idle⟩
    · exact exec_does (exec_wallMessage_taken hh hl ago hlen) (wallTake_within hd (mt wallNews_iff.1 hn))
    · exact ⟨_, exec_wallMessage_taken hh hl ago hlen, chipOnly_onChip _ s, wallTake_steps (h.imp_right wallNews_iff.2)⟩

end Sys2Proof.Machine
end

section
/-! The host port (R293 to R295, R478): a violation, bytes read and written, the STATUS byte, and the statement about its
commands. -/
namespace Sys2Proof.Machine

variable {x : Chip} {s : State}

/-! A violation (R295). -/

/-- What shows the host port's part of the interrupt writes the causes' register alone. -/
theorem onlyRegs_hostShow (x : Chip) : OnlyRegs [R.MGMT_INT_CAUSE] x (hostShow x) := onlyRegs_fset _ _ (by decide)

/-- A violation counted and flagged, before it is logged. -/
def violNoted (x : Chip) : Chip :=
  let y := fset (count x R.HOST_VIOL_COUNT F.HOST_STATUS_viol_wrap 1) F.HOST_STATUS_viol 1
  { y with host := { y.host with violated := true } }

/-- A violation logged now, against its limit (R295). -/
def violLogged (x : Chip) (reason addr : Nat) : Chip :=
  raise { x with host := { x.host with viol := smInsert reason x.tm.ticks x.host.viol } } srcHost 0x01 (b1 reason ++ b2 addr)

theorem hpViol_eq (x : Chip) (reason addr : Nat) : hpViol x reason addr = hostShow
    (if limitOk (violNoted x) (smFind reason (violNoted x).host.viol) then violLogged (violNoted x) reason addr
      else violNoted x) := rfl

theorem violNoted_rest (x : Chip) :
    violNoted x = { x with regs := (violNoted x).regs, host := { x.host with violated := true } } := by
  unfold violNoted
  dsimp only
  rw [count_rest]
  rfl

theorem limitOk_violNoted (x : Chip) (reason : Nat) :
    limitOk (violNoted x) (smFind reason (violNoted x).host.viol) = limitOk x (smFind reason x.host.viol) := by
  rw [violNoted_rest]
  rfl

theorem hpViol_logged {reason : Nat} (addr : Nat) (h : limitOk x (smFind reason x.host.viol) = true) :
    hpViol x reason addr = hostShow (violLogged (violNoted x) reason addr) := by
  rw [hpViol_eq, limitOk_violNoted, if_pos h]

theorem hpViol_limited {reason : Nat} (addr : Nat) (h : limitOk x (smFind reason x.host.viol) = false) :
    hpViol x reason addr = hostShow (violNoted x) := by
  rw [hpViol_eq, limitOk_violNoted, if_neg (ne_true_of_eq_false h)]

theorem violNoted_effect (x : Chip) : rd (violNoted x) R.HOST_VIOL_COUNT = rd x R.HOST_VIOL_COUNT + 1 ∧
    fget (violNoted x) F.HOST_STATUS_viol = 1 := by
  refine ⟨(rd_fset_ne _ _ _ _ (by decide)).trans (rd_count_one _ _ _ (by decide)), ?_⟩
  exact fget_fset_same (count x R.HOST_VIOL_COUNT F.HOST_STATUS_viol_wrap 1) _ _ (by decide)

/-- Registers of the host block read as before a violation is logged and shown. -/
theorem rd_hpViol (x : Chip) (reason addr : Nat) {b : Nat} (hb : b < 0x728) :
    rd (hpViol x reason addr) b = rd (violNoted x) b := by
  rw [hpViol_eq, (onlyRegs_hostShow _).2 b (by simp [R.MGMT_INT_CAUSE]; omega)]
  split
  · exact rd_raise _ _ _ _ _ (not_logRegs_of_lt hb)
  · rfl

theorem violated_hpViol (x : Chip) (reason addr : Nat) : (hpViol x reason addr).host.violated = true := by
  rw [hpViol_eq, (onlyRegs_hostShow _).1]
  split
  · rw [violLogged, raise_rest]
    rfl
  · rfl

theorem nextSeq_violNoted (x : Chip) (src : Nat) : nextSeq (violNoted x) src = nextSeq x src := by
  rw [violNoted_rest]
  rfl

/-- A violation that its limit lets through raises one event of the host port. -/
theorem nextSeq_hpViol {reason : Nat} (addr : Nat) (h : limitOk x (smFind reason x.host.viol) = true) :
    nextSeq (hpViol x reason addr) srcHost = nextSeq x srcHost + 1 := by
  rw [hpViol_logged addr h, nextSeq_onlyRegs (onlyRegs_hostShow _), violLogged, nextSeq_raise_same]
  exact congrArg (· + 1) (nextSeq_violNoted x srcHost)

theorem lg_hpViol {reason : Nat} (addr : Nat) (h : limitOk x (smFind reason x.host.viol) = false) :
    (hpViol x reason addr).lg = x.lg := by
  rw [hpViol_limited addr h, (onlyRegs_hostShow _).1, violNoted_rest]

theorem hpViol_effect (x : Chip) (reason addr : Nat) :
    rd (hpViol x reason addr) R.HOST_VIOL_COUNT = rd x R.HOST_VIOL_COUNT + 1 ∧
    fget (hpViol x reason addr) F.HOST_STATUS_viol = 1 ∧ (hpViol x reason addr).host.violated = true := by
  obtain ⟨hcount, hflag⟩ := violNoted_effect x
  refine ⟨(rd_hpViol x reason addr (by decide)).trans hcount, ?_, violated_hpViol x reason addr⟩
  exact (congrArg (getBits · 1 1) (rd_hpViol x reason addr (by decide))).trans hflag

/-! Bytes read (R294, R473, R478). -/

theorem regs_latchAll (o : Iface) (l : List Nat) : ∀ x : Chip, (latchAll x o l).regs = x.regs := by
  induction l with
  | nil => exact fun x => rfl
  | cons a l ih => exact fun x => ih _

theorem regs_readTake (x : Chip) (o : Iface) (a : Nat) : (readTake x o a).1.regs = x.regs := by
  unfold readTake
  dsimp only
  split <;> exact regs_latchAll o _ x

/-- A burst gives as many bytes as it reads. -/
theorem length_hpSpan (s : State) : ∀ (n a bank : Nat) (w : Option Word) (x : Chip), (hpSpan s n a bank w x).2.length = n := by
  intro n
  induction n with
  | zero => exact fun a bank w x => rfl
  | succ n ih =>
    intro a bank w x
    unfold hpSpan
    dsimp only
    split <;> exact congrArg (· + 1) (ih ..)

/-- A burst leaves the registers. -/
theorem regs_hpSpan (s : State) : ∀ (n a bank : Nat) (w : Option Word) (x : Chip), (hpSpan s n a bank w x).1.regs = x.regs := by
  intro n
  induction n with
  | zero => exact fun a bank w x => rfl
  | succ n ih =>
    intro a bank w x
    unfold hpSpan
    dsimp only
    split
    · refine (ih ..).trans ?_
      split
      · exact regs_readTake x .hp _
      · rfl
    · exact ih ..

theorem rdata_giveBytes (x : Chip) (o : Iface) (l : List Byte) : smGet (fun _ => []) (giveBytes x o l).rdata o.code = l :=
  smGet_smPut_same ..

theorem hpEarly_zero {a : Nat} (x : Chip) (h4 : a % 4 = 0) (ha : a ∉ [R.GEN_ID, R.GEN_REV, R.GEN_STATUS]) : hpEarly x a = 0 := by
  simp only [List.mem_cons, List.not_mem_nil, or_false] at ha
  simp only [hpEarly, h4, Nat.sub_zero]
  exact if_neg ha

section
variable {addr n ns : Nat}

/-- Both read instructions do what a read burst does. -/
theorem exec_hpReads {late short : Bool} {t : State} (h : hpRead addr n ns late short s = t) :
    exec (.hpRead addr n ns late short) s = .next t ∧ exec (.hpQread addr n ns late short) s = .next t :=
  ⟨congrArg Host.Outcome.next h, congrArg Host.Outcome.next h⟩

theorem hpRead_short (hm : mgmtUp s.chip = true) (late : Bool) :
    hpRead addr n ns late true s = onChip (fun x => hpViol x 1 (addr % 65536)) s := if_pos hm

theorem hpRead_late (hm : mgmtUp s.chip = true) : hpRead addr n ns true false s = onChip (fun _ =>
    giveBytes (hpViol (fset { noteWait s.chip .hp ns with host := { (noteWait s.chip .hp ns).host with late := true } }
      F.HOST_STATUS_late 1) 7 (addr % 65536)) .hp (List.replicate n 0xFF)) s := if_pos hm

/-- What a burst in time reads, from the bank that `HOST_BANK` names. -/
def hpTaken (s : State) (addr n ns : Nat) : Chip × List Byte :=
  hpSpan s n (addr % 65536) (fget s.chip F.HOST_BANK_bank) none (noteWait s.chip .hp ns)

theorem hpRead_gives (hm : mgmtUp s.chip = true) : hpRead addr n ns false false s =
    onChip (fun _ => giveBytes (hpTaken s addr n ns).1 .hp (hpTaken s addr n ns).2) s := by
  have hbank : fget (noteWait s.chip .hp ns) F.HOST_BANK_bank = fget s.chip F.HOST_BANK_bank :=
    fget_fset_apart _ _ _ _ (by decide) (.inl (by decide))
  rw [hpTaken, ← hbank]
  exact if_pos hm

theorem hpRead_early (hm : mgmtUp s.chip = false) (hp : s.chip.pw.phase = .starting) (late : Bool) :
    hpRead addr n ns late false s =
      onChip (fun x => giveBytes x .hp ((List.range n).map fun i => hpEarly x (addr % 65536 + i))) s :=
  (if_neg (ne_true_of_eq_false hm)).trans (if_pos ⟨hp, rfl⟩)

theorem hpRead_silent {short : Bool} (hm : mgmtUp s.chip = false) (h : s.chip.pw.phase ≠ .starting ∨ short = true) (late : Bool) :
    hpRead addr n ns late short s = s := by
  refine (if_neg (ne_true_of_eq_false hm)).trans (if_neg ?_)
  rintro ⟨hp, rfl⟩
  exact h.elim (· hp) Bool.false_ne_true

end

/-! Bytes written (R294, R295). -/

section
variable {addr a : Nat} {l : List Byte} {b : BusObs}

/-- Both write instructions do what a write burst does. -/
theorem exec_hpWrites {short : Bool} {t : State} (h : hpWrite addr l short b s = t) :
    exec (.hpWrite addr l short b) s = .next t ∧ exec (.hpQwrite addr l short b) s = .next t :=
  ⟨congrArg Host.Outcome.next h, congrArg Host.Outcome.next h⟩

theorem hpWrite_down (hm : mgmtUp s.chip = false) (short : Bool) : hpWrite addr l short b s = s :=
  if_neg (ne_true_of_eq_false hm)

theorem hpWrite_short (hm : mgmtUp s.chip = true) :
    hpWrite addr l true b s = onChip (fun x => hpViol x 1 (addr % 65536)) s := if_pos hm

theorem hpWrite_within (hm : mgmtUp s.chip = true) (hr : isReg (addr % 65536) = true) (h4 : addr % 65536 % 4 ≠ 0) :
    hpWrite addr l false b s = onChip (fun x => hpViol x 5 (addr % 65536)) s :=
  (if_pos hm).trans ((if_neg Bool.false_ne_true).trans (if_pos (Bool.and_eq_true_iff.2 ⟨hr, bne_iff_ne.2 h4⟩)))

theorem hpWrite_bytes (hm : mgmtUp s.chip = true) (h : isReg (addr % 65536) = false ∨ addr % 65536 % 4 = 0) :
    hpWrite addr l false b s = hpBytes b l (addr % 65536) [] false (onChip (fun x => noteWait x .hp b.ns) s) := by
  refine (if_pos hm).trans ((if_neg Bool.false_ne_true).trans (if_neg fun hin => ?_))
  obtain ⟨hr, h4⟩ := Bool.and_eq_true_iff.1 hin
  exact h.elim (ne_true_of_eq_false · hr) (bne_iff_ne.1 h4)

theorem hpBad_up (hm : mgmtUp s.chip = true) (reason a : Nat) : hpBad s reason a = onChip (fun x => hpViol x reason a) s :=
  if_pos hm

theorem hpBad_down (hm : mgmtUp s.chip = false) (reason a : Nat) : hpBad s reason a = s := if_neg (ne_true_of_eq_false hm)

/-- A register holds the bytes of its word. -/
theorem isReg_add {k : Nat} (h4 : a % 4 = 0) (hk : k < 4) : isReg (a + k) = isReg a := by
  unfold isReg
  rw [show a + k - (a + k) % 4 = a - a % 4 by omega]

/-- The byte of a register's word before its last waits for the rest. -/
theorem hpBytes_part {v : Byte} {part : List Byte} {seen : Bool} {k : Nat} (h4 : a % 4 = 0) (hk : k < 3)
    (hr : isReg a = true) : hpBytes b (v :: l) (a + k) part seen s = hpBytes b l (a + (k + 1)) (part ++ [v]) seen s := by
  have hreg : isReg (a + k) = true := (isReg_add h4 (by omega)).trans hr
  rw [hpBytes, if_pos hreg, if_neg (by omega), if_neg (by omega)]
  rfl

/-- The last byte of a register's word writes the word. -/
theorem hpBytes_last {v : Byte} {part : List Byte} {seen : Bool} (h4 : a % 4 = 0) (hr : isReg a = true) :
    hpBytes b [v] (a + 3) part seen s = busWord s .hp a (BitVec.ofNat 32 (unle (part ++ [v]))) b := by
  have hreg : isReg (a + 3) = true := (isReg_add h4 (by omega)).trans hr
  rw [hpBytes, if_pos hreg, if_pos (by omega)]
  rfl

theorem hpBytes_word {c d e f : Byte} (h4 : a % 4 = 0) (hr : isReg a = true) :
    hpBytes b [c, d, e, f] a [] false s = busWord s .hp a (BitVec.ofNat 32 (unle [c, d, e, f])) b :=
  calc hpBytes b [c, d, e, f] a [] false s
      = hpBytes b [d, e, f] (a + 1) [c] false s := hpBytes_part (k := 0) h4 (by omega) hr
    _ = hpBytes b [e, f] (a + 2) [c, d] false s := hpBytes_part (k := 1) h4 (by omega) hr
    _ = hpBytes b [f] (a + 3) [c, d, e] false s := hpBytes_part (k := 2) h4 (by omega) hr
    _ = _ := hpBytes_last h4 hr

/-- A burst that ends within a word is a violation at that word. -/
theorem hpBytes_partial {c : Byte} (hm : mgmtUp s.chip = true) (h4 : a % 4 = 0) (hr : isReg a = true) :
    hpBytes b [c] a [] false s = onChip (fun x => hpViol x 2 a) s := by
  refine (hpBytes_part (k := 0) h4 (by omega) hr).trans ?_
  refine (hpBad_up hm 2 (a + 1 - (a + 1) % 4)).trans ?_
  rw [show a + 1 - (a + 1) % 4 = a by omega]

theorem hpBytes_window {c : Byte} (hm : mgmtUp s.chip = true) (hr : isReg a = false) (hw : isWin a = true) :
    hpBytes b [c] a [] false s = writeWin s (a - 0x8000) [c] := by
  rw [hpBytes, if_neg (ne_true_of_eq_false hr), if_pos hw]
  exact if_pos hm

theorem hpBytes_elsewhere {c : Byte} (hm : mgmtUp s.chip = true) (hr : isReg a = false) (hw : isWin a = false) :
    hpBytes b [c] a [] false s = onChip (fun x => hpViol x 4 a) s := by
  rw [hpBytes, if_neg (ne_true_of_eq_false hr), if_neg (ne_true_of_eq_false hw)]
  exact hpBad_up hm 4 a

end

/-! The STATUS byte and unknown instructions (R293, R295). -/

theorem exec_hpStatus (hm : mgmtUp s.chip = true) : exec .hpStatus s = .next (onChip (fun x =>
    giveBytes { x with host := { x.host with late := false, violated := false } } .hp (b1 (hpStatusByte x))) s) :=
  congrArg Host.Outcome.next (if_pos hm)

theorem exec_hpStatus_early (hm : mgmtUp s.chip = false) (hp : s.chip.pw.phase = .starting) :
    exec .hpStatus s = .next (onChip (fun x => giveBytes x .hp [0]) s) :=
  congrArg Host.Outcome.next ((if_neg (ne_true_of_eq_false hm)).trans (if_pos hp))

theorem exec_hpStatus_silent (hm : mgmtUp s.chip = false) (hp : s.chip.pw.phase ≠ .starting) : exec .hpStatus s = .next s :=
  congrArg Host.Outcome.next ((if_neg (ne_true_of_eq_false hm)).trans (if_neg hp))

theorem exec_hpUnknown_table {code : Nat} (h : code % 256 ∈ [0x0B, 0x02, 0xEB, 0x38, 0x05]) :
    exec (.hpUnknownInstruction code) s = .next s :=
  congrArg Host.Outcome.next (if_pos (List.contains_iff_mem.2 h))

theorem exec_hpUnknown {code : Nat} (h : code % 256 ∉ [0x0B, 0x02, 0xEB, 0x38, 0x05]) :
    exec (.hpUnknownInstruction code) s = .next (hpBad s 3 0) :=
  congrArg Host.Outcome.next (if_neg (mt List.contains_iff_mem.1 h))

theorem exec_hpUnknown_down (hm : mgmtUp s.chip = false) (code : Nat) : exec (.hpUnknownInstruction code) s = .next s := by
  by_cases h : code % 256 ∈ [0x0B, 0x02, 0xEB, 0x38, 0x05]
  · exact exec_hpUnknown_table h
  · exact (exec_hpUnknown h).trans (congrArg Host.Outcome.next (hpBad_down hm 3 0))

/-- Settles O57: reads by how they end, reads and writes while registers do not answer, writes by where they begin and what they
hold, the STATUS byte, unknown instructions, and what a violation leaves. -/
theorem hostPortCommands : Obligations.HostPortCommands := by
  unfold Obligations.HostPortCommands
  refine ⟨fun addr n ns late s hm => ⟨exec_hpReads (hpRead_short hm late), exec_hpReads (hpRead_late hm), ?gives⟩,
    fun addr n ns late short s hm => ⟨fun hp hs => ?early, fun h => exec_hpReads (hpRead_silent hm h late),
      fun l b => exec_hpWrites (hpWrite_down hm short), exec_hpUnknown_down hm⟩,
    fun x a h4 ha => hpEarly_zero x h4 ha, fun addr l b s hm => ?write, fun s => ⟨fun hm => ?status, exec_hpStatus_early,
    exec_hpStatus_silent⟩, fun code s hm => ⟨exec_hpUnknown_table, fun h => ?unknown⟩, fun x reason a => ?viol⟩
  case gives =>
    obtain ⟨hread, hqread⟩ := exec_hpReads (hpRead_gives (addr := addr) (n := n) (ns := ns) hm)
    exact ⟨_, (hpTaken s addr n ns).2, hread, hqread, chipOnly_onChip _ s, length_hpSpan .., rdata_giveBytes .., regs_hpSpan ..,
      (hpTaken s addr n ns).1, rfl, rfl⟩
  case early =>
    subst hs
    exact exec_hpReads (hpRead_early hm hp late)
  case write =>
    refine ⟨exec_hpWrites (hpWrite_short hm), fun hr h4 => exec_hpWrites (hpWrite_within hm hr h4),
      fun h => exec_hpWrites (hpWrite_bytes hm h), ?_, ?_, ?_, ?_⟩
    · rintro c d e f rfl hr h4
      exact exec_hpWrites ((hpWrite_bytes hm (.inr h4)).trans (hpBytes_word h4 hr))
    · rintro c rfl hr h4
      exact exec_hpWrites ((hpWrite_bytes hm (.inr h4)).trans (hpBytes_partial hm h4 hr))
    · rintro c rfl hr hw
      exact exec_hpWrites ((hpWrite_bytes hm (.inl hr)).trans (hpBytes_window hm hr hw))
    · rintro c rfl hr hw
      exact exec_hpWrites ((hpWrite_bytes hm (.inl hr)).trans (hpBytes_elsewhere hm hr hw))
  case status => exact ⟨_, exec_hpStatus hm, chipOnly_onChip _ s, rfl, rdata_giveBytes ..⟩
  case unknown => exact (exec_hpUnknown h).trans (congrArg Host.Outcome.next (hpBad_up hm 3 0))
  case viol =>
    obtain ⟨hcount, hflag, hviol⟩ := hpViol_effect x reason a
    exact ⟨hcount, hflag, hviol, nextSeq_hpViol a, lg_hpViol a⟩

end Sys2Proof.Machine
end

section
/-! Work of the ports (R277 to R292): what a fold over ports or slots does to each, how "registers, log and what the ports hold
alone, and of the registers these fields" composes, what each operation of the ports leaves, and the states of a port that follows
its settings. -/
namespace Sys2Proof.Machine

variable {x y z : Chip} {w : List Fld} {p st : Nat}

/-! What a fold over ports or slots does to each. -/

/-- In a fold of steps of which each changes what belongs to its own index alone, what belongs to p is changed by p's step, once. -/
theorem foldl_own {σ β : Type} {f : σ → Nat → σ} {view : Nat → σ → β} {up : Nat → β → β} {l : List Nat}
    (own : ∀ a, ∀ q ∈ l, view q (f a q) = up q (view q a))
    (apart : ∀ a, ∀ q ∈ l, ∀ k ∈ l, k ≠ q → view k (f a q) = view k a) (hl : l.Nodup) (hp : p ∈ l) (a : σ) :
    view p (l.foldl f a) = up p (view p a) := by
  obtain ⟨before, later, rfl⟩ := List.append_of_mem hp
  have hout := (List.nodup_cons.1 (List.nodup_middle.1 hl)).1
  have stays : ∀ m : List Nat, (∀ q ∈ m, q ∈ before ++ later) → ∀ b, view p (m.foldl f b) = view p b := fun m hm b =>
    List.foldlRecOn (motive := fun b' => view p b' = view p b) m f rfl fun b' hb q hq => by
      have hne : p ≠ q := fun e => hout (e ▸ hm q hq)
      have hmem : q ∈ before ++ p :: later := by
        rcases List.mem_append.1 (hm q hq) with h | h <;> simp [h]
      exact (apart b' q hmem p hp hne).trans hb
  rw [List.foldl_append, List.foldl_cons, stays later (fun q hq => List.mem_append_right _ hq), own _ p hp,
    stays before fun q hq => List.mem_append_left _ hq]

/-! Frames. -/

/-- Work of the ports: registers, log and what the ports hold change alone, and of the registers only those of the log and the
fields of a list. -/
structure OnlyPorts (w : List Fld) (x y : Chip) : Prop where
  rest : y = { x with regs := y.regs, lg := y.lg, ports := y.ports, plays := y.plays }
  flds : ∀ f : Fld, f.lo + f.width ≤ 32 → f.addr ∉ logRegs → (∀ g ∈ w, f.Apart g) → fget y f = fget x f

namespace OnlyPorts

theorem refl (w : List Fld) (x : Chip) : OnlyPorts w x x := ⟨rfl, fun _ _ _ _ => rfl⟩

theorem trans (h1 : OnlyPorts w x y) (h2 : OnlyPorts w y z) : OnlyPorts w x z := by
  refine ⟨h2.rest.trans ?_, fun f h32 hl hw => (h2.flds f h32 hl hw).trans (h1.flds f h32 hl hw)⟩
  rw [h1.rest]

theorem mono {w' : List Fld} (hw : w ⊆ w') (h : OnlyPorts w x y) : OnlyPorts w' x y :=
  ⟨h.rest, fun f h32 hl ha => h.flds f h32 hl fun g hg => ha g (hw hg)⟩

theorem ite {q : Prop} [Decidable q] (hy : OnlyPorts w x y) (hz : OnlyPorts w x z) : OnlyPorts w x (if q then y else z) := by
  split <;> assumption

theorem foldl {α : Type} {f : Chip → α → Chip} (l : List α) (h : ∀ y, ∀ a ∈ l, OnlyPorts w y (f y a)) (x : Chip) :
    OnlyPorts w x (l.foldl f x) :=
  List.foldlRecOn (motive := OnlyPorts w x) l f (refl w x) fun y hy a ha => hy.trans (h y a ha)

theorem upTo {n : Nat} {f : Nat → Chip → Chip} (h : ∀ i, i < n → ∀ y, OnlyPorts w y (f i y)) (x : Chip) :
    OnlyPorts w x (Machine.upTo n f x) := foldl _ (fun y i hi => h i (List.mem_range.1 hi) y) x

theorem fset {f : Fld} (x : Chip) (v : Nat) (hf : f ∈ w) : OnlyPorts w x (fset x f v) :=
  ⟨rfl, fun g h32 _ ha => fget_fset_apart x f g v h32 (ha f hf)⟩

theorem raise (w : List Fld) (x : Chip) (src code : Nat) (args : List Byte) : OnlyPorts w x (raise x src code args) :=
  ⟨by rw [raise_rest], fun f _ hl _ => fget_raise x src code args f hl⟩

theorem setPort (w : List Fld) (x : Chip) (p : Nat) (r : PortRt) : OnlyPorts w x (setPort x p r) := ⟨rfl, fun _ _ _ _ => rfl⟩

theorem setPlay (w : List Fld) (x : Chip) (c : Nat) (r : PlayRt) : OnlyPorts w x (setPlay x c r) := ⟨rfl, fun _ _ _ _ => rfl⟩

theorem playsSettle (w : List Fld) (x : Chip) : OnlyPorts w x (playsSettle x) := ⟨rfl, fun _ _ _ _ => rfl⟩

/-- A register in which none of the fields lies reads as before. -/
theorem rd {b : Nat} (h : OnlyPorts w x y) (hl : b ∉ logRegs) (hw : ∀ g ∈ w, b ≠ g.addr) : rd y b = rd x b := by
  have hb := h.flds ⟨b, 0, 32⟩ (Nat.le_refl 32) hl fun g hg => .inl (hw g hg)
  rw [fget_word, fget_word] at hb
  exact BitVec.eq_of_toNat_eq hb

/-- A register below the ports' reads as before. -/
theorem rd_low {b : Nat} (h : OnlyPorts w x y) (hw : ∀ g ∈ w, 0x500 ≤ g.addr) (hb : b < 0x500) : Machine.rd y b = Machine.rd x b :=
  h.rd (not_logRegs_of_lt (by omega)) fun g hg e => Nat.not_lt.2 (hw g hg) (e ▸ hb)

theorem fget_low {f : Fld} (h : OnlyPorts w x y) (hw : ∀ g ∈ w, 0x500 ≤ g.addr) (hb : f.addr < 0x500) : fget y f = fget x f :=
  congrArg (getBits · f.lo f.width) (h.rd_low hw hb)

theorem dUp (h : OnlyPorts w x y) (hw : ∀ g ∈ w, 0x500 ≤ g.addr) : dUp y = dUp x := by
  have hpw : y.pw = x.pw := by rw [h.rest]
  have hstate : pstate y = pstate x := h.fget_low hw (by decide)
  simp only [Machine.dUp, partRuns, hpw, hstate]

/-- Whether a port may run depends on its settings and on nothing that the ports' work changes. -/
theorem portAble (h : OnlyPorts w x y) (hw : ∀ g ∈ w, 0x500 ≤ g.addr)
    (hcfg : Machine.rd y (R.APORT_CFG p) = Machine.rd x (R.APORT_CFG p)) : portAble y p = portAble x p := by
  have hrole : fget y F.GEN_ROLE_role = fget x F.GEN_ROLE_role := h.fget_low hw (by decide)
  have hclk : fget y (F.CLK_OUT_en 2) = fget x (F.CLK_OUT_en 2) := h.fget_low hw (by decide)
  have hen : fget y (F.APORT_CFG_en p) = fget x (F.APORT_CFG_en p) := congrArg (getBits · 31 1) hcfg
  have hslots : portSlots y p = portSlots x p := congrArg (fun v => min 32 (getBits v 16 6)) hcfg
  simp only [Machine.portAble, isFoot, isSolo, role, fon, h.dUp hw, hrole, hclk, hen, hslots]

end OnlyPorts

/-- Port p's registers lie apart from those of the log. -/
theorem portReg_not_log {off : Nat} (hp : p < 4) (h : off < 0x40) : 0x500 + off + 0x40 * p ∉ logRegs :=
  not_logRegs_of_lt (by omega)

/-! The fields that the ports' work writes. -/

/-- The fields that a stop of port p or its start writes. -/
def stateFlds (p : Nat) : List Fld :=
  [F.APORT_STATUS_state p, F.APORT_STATUS_nonpcm p, F.APORT_STATUS_fading p, F.APORT_STATUS_no_link p]

/-- The fields that judging port p's map writes. -/
def badFlds (p : Nat) : List Fld := (List.range 4).map (F.APORT_MAP_bad p)

/-- The fields that say of each port that it fades. -/
def fadingFlds : List Fld := (List.range 4).map F.APORT_STATUS_fading

theorem bad_mem {i : Nat} (hi : i < 4) : F.APORT_MAP_bad p i ∈ badFlds p := List.mem_map_of_mem (List.mem_range.2 hi)

theorem forall_badFlds {P : Fld → Prop} : (∀ g ∈ badFlds p, P g) ↔ ∀ i, i < 4 → P (F.APORT_MAP_bad p i) := by
  simp only [badFlds, List.forall_mem_map, List.mem_range]

theorem forall_stateFlds {P : Fld → Prop} : (∀ g ∈ stateFlds p, P g) ↔ P (F.APORT_STATUS_state p) ∧ P (F.APORT_STATUS_nonpcm p) ∧
    P (F.APORT_STATUS_fading p) ∧ P (F.APORT_STATUS_no_link p) := by
  simp only [stateFlds, List.forall_mem_cons, List.not_mem_nil, false_imp_iff, implies_true, and_true]

theorem portStatus_high : 0x500 ≤ R.APORT_STATUS p := by
  rw [R.APORT_STATUS]
  omega

theorem fadingFlds_high : ∀ g ∈ fadingFlds, 0x500 ≤ g.addr := List.forall_mem_map.2 fun _ _ => portStatus_high

/-- The settings of a port are no status. -/
theorem portCfg_ne_status (p q : Nat) : R.APORT_CFG p ≠ R.APORT_STATUS q := by
  simp only [R.APORT_CFG, R.APORT_STATUS]
  omega

theorem portCfg_ne_map (p i : Nat) : R.APORT_CFG p ≠ R.APORT_MAP p i := by
  simp only [R.APORT_CFG, R.APORT_MAP]
  omega

/-- A port's map is no status. -/
theorem portStatus_ne_map (p : Nat) {i : Nat} (hi : i < 4) : R.APORT_STATUS p ≠ R.APORT_MAP p i := by
  simp only [R.APORT_STATUS, R.APORT_MAP]
  omega

theorem portCfg_not_log (hp : p < 4) : R.APORT_CFG p ∉ logRegs := portReg_not_log (off := 0) hp (by decide)

theorem portStatus_not_log (hp : p < 4) : R.APORT_STATUS p ∉ logRegs := portReg_not_log (off := 0x18) hp (by decide)

/-- A field of a port's status lies apart from its map. -/
theorem status_apart_bad {f : Fld} (hf : f.addr = R.APORT_STATUS p) : ∀ g ∈ badFlds p, f.Apart g :=
  forall_badFlds.2 fun _ hi => .inl (hf.trans_ne (portStatus_ne_map p hi))

/-! Operations of the ports. -/

/-- A fade or ramp writes `fading` and the port's memory. -/
theorem portFade_only (x : Chip) (ms : Nat) (h : F.APORT_STATUS_fading p ∈ w) : OnlyPorts w x (portFade x p ms) :=
  .ite (.refl w x) ((OnlyPorts.setPort w x p _).trans (.fset _ _ h))

theorem setPortState_only (x : Chip) (st : Nat) (h : F.APORT_STATUS_state p ∈ w) : OnlyPorts w x (setPortState x p st) :=
  .ite (.refl w x) ((OnlyPorts.fset x st h).trans (.raise ..))

theorem setMuted_only (x : Chip) (l : List Nat) (h : F.APORT_STATUS_nonpcm p ∈ w) : OnlyPorts w x (setMuted x p l) :=
  (OnlyPorts.setPort w x p _).trans (.fset _ _ h)

/-- What a stop leaves once the state is written. -/
theorem portStop_clears (x : Chip) (p st : Nat) :
    OnlyPorts [F.APORT_STATUS_nonpcm p, F.APORT_STATUS_fading p] (setPortState x p st) (portStop x p st) := by
  refine (setMuted_only (p := p) _ [] (by simp)).trans ?_
  exact ((OnlyPorts.setPort _ _ p _).trans (.fset _ _ (by simp))).trans (.playsSettle ..)

/-- A stop writes the port's status. -/
theorem portStop_only (x : Chip) (p st : Nat) : OnlyPorts (stateFlds p) x (portStop x p st) :=
  (setPortState_only x st (by simp [stateFlds])).trans ((portStop_clears x p st).mono (by simp [stateFlds]))

theorem portStart_only (x : Chip) (p : Nat) : OnlyPorts (stateFlds p) x (portStart x p) :=
  (OnlyPorts.setPort _ x p _).trans (.ite (setPortState_only _ _ (by simp [stateFlds])) (setPortState_only _ _ (by simp [stateFlds])))

/-- One entry judged writes its `bad` bit. -/
theorem entryJudge_only {i : Nat} (hi : i < 4) (acc : Chip × List Nat) : OnlyPorts (badFlds p) acc.1 (entryJudge p i acc).1 := by
  have hnoted : ∀ b l, OnlyPorts (badFlds p) acc.1 (fflag (setPort acc.1 p { portOf acc.1 p with bad := l }) (F.APORT_MAP_bad p i) b) :=
    fun _ _ => (OnlyPorts.setPort _ acc.1 p _).trans (.fset _ _ (bad_mem hi))
  unfold entryJudge
  dsimp only
  split
  · exact .ite (hnoted _ _) ((hnoted _ _).trans (.raise ..))
  · exact hnoted _ _

/-- Judging a map writes its `bad` bits. -/
theorem mapJudge_only (x : Chip) (p : Nat) : OnlyPorts (badFlds p) x (mapJudge x p) := by
  unfold mapJudge
  split
  · have hall : OnlyPorts (badFlds p) x ((List.range 4).foldl (fun a i => entryJudge p i a) (x, [])).1 :=
      List.foldlRecOn (motive := fun a => OnlyPorts (badFlds p) x a.1) _ _ (.refl _ x)
        fun a ha i hi => ha.trans (entryJudge_only (List.mem_range.1 hi) a)
    exact hall.trans (.playsSettle ..)
  · exact ((OnlyPorts.setPort _ x p _).trans (.upTo (fun i hi y => .fset y 0 (bad_mem hi)) _)).trans (.playsSettle ..)

/-- A carriage that fades writes `fading` of the ports that play it. -/
theorem playRefresh_only (x : Chip) (c : Nat) : OnlyPorts fadingFlds x (playRefresh x c) := by
  refine .ite (.trans ?_ (.setPlay ..)) (.refl _ x)
  refine .foldl _ (fun y p hp => portFade_only y _ ?_) x
  exact List.mem_map_of_mem (List.mem_filter.1 hp).1

/-! A port's state (R277, R289, R303). -/

/-- A port's state stays where the fields written lie apart from it. -/
theorem OnlyPorts.portState (h : OnlyPorts w x y) (hp : p < 4) (hw : ∀ g ∈ w, (F.APORT_STATUS_state p).Apart g) :
    portState y p = portState x p := h.flds _ (by simp [F.APORT_STATUS_state]) (portStatus_not_log hp) hw

theorem portState_setPortState (x : Chip) (hp : p < 4) (hst : st < 4) : portState (setPortState x p st) p = st := by
  unfold setPortState
  dsimp only
  split
  next h => exact h
  next =>
    refine (fget_raise _ _ _ _ _ (portStatus_not_log hp)).trans ((fget_fset_same x _ st (by simp [F.APORT_STATUS_state])).trans ?_)
    exact Nat.mod_eq_of_lt hst

theorem portState_mapJudge (x : Chip) (hp : p < 4) : portState (mapJudge x p) p = portState x p :=
  (mapJudge_only x p).portState hp (status_apart_bad rfl)

theorem portState_portStop (x : Chip) (hp : p < 4) (hst : st < 4) : portState (portStop x p st) p = st :=
  ((portStop_clears x p st).portState hp
    (by simp [Fld.Apart, F.APORT_STATUS_state, F.APORT_STATUS_nonpcm, F.APORT_STATUS_fading])).trans
    (portState_setPortState x hp hst)

theorem portState_portStart (x : Chip) (hp : p < 4) :
    portState (portStart x p) p = if fon x (F.APORT_CFG_sync_start p) then 1 else 2 := by
  unfold portStart
  dsimp only
  show portState (if fon x (F.APORT_CFG_sync_start p) = true then _ else _) p = _
  split
  · exact portState_setPortState _ hp (by decide)
  · exact portState_setPortState _ hp (by decide)

/-! A port follows its settings (R36, R277, R289, R292). -/

/-- A port with `no_link` brought up to date. -/
def portLinked (x : Chip) (p : Nat) : Chip :=
  fflag (playsSettle x) (F.APORT_STATUS_no_link p) (isSolo x && !fon x (F.APORT_CFG_clksrc p))

/-- A port that is able runs by its settings. -/
def portRuns (x : Chip) (p : Nat) : Chip :=
  let x2 := if portState x p = 2 ∧ (portOf x p).fmt ≠ portFmt x p then portStop x p 0 else x
  let x3 := if portState x2 p = 0 ∨ (portState x2 p = 1 ∧ !fon x2 (F.APORT_CFG_sync_start p)) then portStart x2 p else x2
  mapJudge (if portState x3 p = 1 then setPort x3 p { portOf x3 p with fmt := portFmt x3 p } else x3) p

theorem portEval_eq (x : Chip) (p : Nat) : portEval x p = if !dUp x then playsSettle x
    else if portState (portLinked x p) p = 3 then portLinked x p
    else if portAble (portLinked x p) p then portRuns (portLinked x p) p
    else if portState (portLinked x p) p = 0 then portLinked x p
    else mapJudge (portStop (portLinked x p) p 0) p := rfl

theorem portLinked_only (x : Chip) (p : Nat) (h : F.APORT_STATUS_no_link p ∈ w) : OnlyPorts w x (portLinked x p) :=
  (OnlyPorts.playsSettle w x).trans (.fset _ _ h)

theorem portState_portLinked (x : Chip) (hp : p < 4) : portState (portLinked x p) p = portState x p :=
  (portLinked_only x p (List.mem_singleton_self _)).portState hp
    (by simp [Fld.Apart, F.APORT_STATUS_state, F.APORT_STATUS_no_link])

theorem rd_cfg_portLinked (x : Chip) (hp : p < 4) : rd (portLinked x p) (R.APORT_CFG p) = rd x (R.APORT_CFG p) :=
  (portLinked_only x p (List.mem_singleton_self _)).rd (portCfg_not_log hp)
    (by simpa [F.APORT_STATUS_no_link] using portCfg_ne_status p p)

theorem portAble_portLinked (x : Chip) (hp : p < 4) : portAble (portLinked x p) p = portAble x p :=
  (portLinked_only x p (List.mem_singleton_self _)).portAble
    (by simpa [F.APORT_STATUS_no_link] using portStatus_high) (rd_cfg_portLinked x hp)

theorem portRuns_only (x : Chip) (p : Nat) : OnlyPorts (stateFlds p ++ badFlds p) x (portRuns x p) := by
  have hstate : ∀ {y z : Chip}, OnlyPorts (stateFlds p) y z → OnlyPorts (stateFlds p ++ badFlds p) y z :=
    fun h => h.mono (List.subset_append_left ..)
  have h2 : OnlyPorts (stateFlds p ++ badFlds p) x
      (if portState x p = 2 ∧ (portOf x p).fmt ≠ portFmt x p then portStop x p 0 else x) :=
    .ite (hstate (portStop_only x p 0)) (.refl _ x)
  unfold portRuns
  dsimp only
  generalize (if portState x p = 2 ∧ (portOf x p).fmt ≠ portFmt x p then portStop x p 0 else x) = x2 at h2 ⊢
  have h3 : OnlyPorts (stateFlds p ++ badFlds p) x
      (if portState x2 p = 0 ∨ (portState x2 p = 1 ∧ !fon x2 (F.APORT_CFG_sync_start p)) then portStart x2 p else x2) :=
    .ite (h2.trans (hstate (portStart_only x2 p))) h2
  generalize (if portState x2 p = 0 ∨ (portState x2 p = 1 ∧ !fon x2 (F.APORT_CFG_sync_start p)) then portStart x2 p else x2) = x3
    at h3 ⊢
  exact (OnlyPorts.ite (h3.trans (.setPort ..)) h3).trans ((mapJudge_only _ p).mono (List.subset_append_right ..))

/-- A port that follows writes its status and the `bad` bits of its map. -/
theorem portEval_only (x : Chip) (p : Nat) : OnlyPorts (stateFlds p ++ badFlds p) x (portEval x p) := by
  have hlink : OnlyPorts (stateFlds p ++ badFlds p) x (portLinked x p) := portLinked_only x p (by simp [stateFlds])
  have hstop := ((portStop_only (portLinked x p) p 0).mono (List.subset_append_left _ (badFlds p))).trans
    ((mapJudge_only _ p).mono (List.subset_append_right ..))
  rw [portEval_eq]
  exact .ite (.playsSettle ..) (.ite hlink (.ite (hlink.trans (portRuns_only ..)) (.ite hlink (hlink.trans hstop))))

/-- A port that is not able goes OFF. -/
theorem portState_portEval_off (hp : p < 4) (hd : dUp x = true) (h3 : portState x p ≠ 3) (ha : portAble x p = false) :
    portState (portEval x p) p = 0 := by
  rw [portEval_eq, if_neg (by simp [hd]), portAble_portLinked x hp, if_neg (by rwa [portState_portLinked x hp]),
    if_neg (ne_true_of_eq_false ha)]
  split
  next h => exact h
  next => rw [portState_mapJudge _ hp, portState_portStop _ hp (by decide)]

/-- A port that is OFF starts when it runs by its settings. -/
theorem portState_portRuns_start (hp : p < 4) (h0 : portState x p = 0) :
    portState (portRuns x p) p = if fon x (F.APORT_CFG_sync_start p) then 1 else 2 := by
  have hx2 : (if portState x p = 2 ∧ (portOf x p).fmt ≠ portFmt x p then portStop x p 0 else x) = x :=
    if_neg fun h => absurd (h0.symm.trans h.1) (by decide)
  unfold portRuns
  dsimp only
  rw [hx2, if_pos (Or.inl h0), portState_mapJudge _ hp, ← portState_portStart x hp]
  split <;> rfl

/-- An able port that is OFF goes to WAIT_SYNC with `sync_start`, else to RUN. -/
theorem portState_portEval_start (hp : p < 4) (hd : dUp x = true) (h0 : portState x p = 0) (ha : portAble x p = true) :
    portState (portEval x p) p = if fon x (F.APORT_CFG_sync_start p) then 1 else 2 := by
  have hlinked : portState (portLinked x p) p = 0 := (portState_portLinked x hp).trans h0
  have hsync : fon (portLinked x p) (F.APORT_CFG_sync_start p) = fon x (F.APORT_CFG_sync_start p) :=
    congrArg (getBits · 30 1 != 0) (rd_cfg_portLinked x hp)
  rw [portEval_eq, if_neg (by simp [hd]), portAble_portLinked x hp, if_neg (by rw [hlinked]; decide), if_pos ha,
    portState_portRuns_start hp hlinked, hsync]

end Sys2Proof.Machine
end

section
/-! What ports are told (R277, R281, R284, R289, R291): their settings and maps written, the sync edge, contention. -/
namespace Sys2Proof.Machine

variable {x : Chip} {s : State} {p e : Nat}

/-! APORT_CFG_WRITE (R277, R281, R291, R292). -/

/-- What a write of a port's settings leaves in them: `en` stays while `contend` is set. -/
def cfgWord (x : Chip) (p : Nat) (v : Word) : Word :=
  let w := rwMerge (R.APORT_CFG p) (rd x (R.APORT_CFG p)) v
  if fon x (F.APORT_STATUS_contend p) then putBits w 31 1 (getBits (rd x (R.APORT_CFG p)) 31 1) else w

/-- A port's settings written, and P fixed afresh where a running port's clock moves, before the port follows. -/
def cfgMoved (x : Chip) (p : Nat) (v : Word) : Chip :=
  let x1 := wr x (R.APORT_CFG p) (cfgWord x p v)
  if getBits (rd x (R.APORT_CFG p)) 29 1 ≠ getBits (cfgWord x p v) 29 1 ∧ portState x p = 2 then
    (portCarrs x1 p).foldl playRefresh x1
  else x1

theorem aportCfg_eq (x : Chip) (p : Nat) (v : Word) : aportCfg x p v = portEval (cfgMoved x p v) p := rfl

theorem cfgWord_free (h : fon x (F.APORT_STATUS_contend p) = false) (v : Word) :
    cfgWord x p v = rwMerge (R.APORT_CFG p) (rd x (R.APORT_CFG p)) v := if_neg (ne_true_of_eq_false h)

theorem exec_aportCfgWrite (hp : p < 4) (hm : mgmtUp s.chip = true) (v : Word) :
    exec (.aportCfgWrite p v) s = .next (onChip (fun x => aportCfg x p v) s) := congrArg Host.Outcome.next (if_pos ⟨hm, hp⟩)

theorem cfgMoved_only (x : Chip) (p : Nat) (v : Word) :
    OnlyPorts fadingFlds (wr x (R.APORT_CFG p) (cfgWord x p v)) (cfgMoved x p v) :=
  .ite (.foldl _ (fun y c _ => playRefresh_only y c) _) (.refl ..)

theorem rd_cfgMoved (x : Chip) (hp : p < 4) (v : Word) : rd (cfgMoved x p v) (R.APORT_CFG p) = cfgWord x p v :=
  ((cfgMoved_only x p v).rd (portCfg_not_log hp) (List.forall_mem_map.2 fun q _ => portCfg_ne_status p q)).trans (rd_wr_same ..)

/-- What the port judges itself by after its settings are written. -/
theorem cfgMoved_effect (x : Chip) (hp : p < 4) (v : Word) : dUp (cfgMoved x p v) = dUp x ∧
    portState (cfgMoved x p v) p = portState x p ∧
    portAble (cfgMoved x p v) p = portAble (wr x (R.APORT_CFG p) (cfgWord x p v)) p := by
  have hkeep := cfgMoved_only x p v
  have hstate : portState (wr x (R.APORT_CFG p) (cfgWord x p v)) p = portState x p :=
    fget_wr_ne _ _ _ _ (portCfg_ne_status p p).symm
  have hpstate : pstate (wr x (R.APORT_CFG p) (cfgWord x p v)) = pstate x :=
    fget_wr_ne _ _ _ _ (by simp only [F.SUP_STATE_state, R.SUP_STATE, R.APORT_CFG]; omega)
  have hdup : dUp (wr x (R.APORT_CFG p) (cfgWord x p v)) = dUp x := by simp only [dUp, partRuns, wr_pw, hpstate]
  refine ⟨(hkeep.dUp fadingFlds_high).trans hdup, (hkeep.portState hp (List.forall_mem_map.2 fun q _ => ?_)).trans hstate,
    hkeep.portAble fadingFlds_high ((rd_cfgMoved x hp v).trans (rd_wr_same ..).symm)⟩
  exact .inr (.inl (by simp [F.APORT_STATUS_state, F.APORT_STATUS_fading]))

/-- The settings read what the write left in them. -/
theorem rd_aportCfg (x : Chip) (hp : p < 4) (v : Word) : rd (aportCfg x p v) (R.APORT_CFG p) = cfgWord x p v := by
  refine ((portEval_only _ p).rd (portCfg_not_log hp) ?_).trans (rd_cfgMoved x hp v)
  have hstate : ∀ g ∈ stateFlds p, R.APORT_CFG p ≠ g.addr :=
    forall_stateFlds.2 ⟨portCfg_ne_status p p, portCfg_ne_status p p, portCfg_ne_status p p, portCfg_ne_status p p⟩
  exact List.forall_mem_append.2 ⟨hstate, forall_badFlds.2 fun i _ => portCfg_ne_map p i⟩

theorem portState_aportCfg_off (hp : p < 4) (hd : dUp x = true) (h3 : portState x p ≠ 3)
    (ha : portAble (wr x (R.APORT_CFG p) (cfgWord x p v)) p = false) : portState (aportCfg x p v) p = 0 := by
  obtain ⟨hdup, hstate, hable⟩ := cfgMoved_effect x hp v
  exact portState_portEval_off hp (hdup.trans hd) (hstate.trans_ne h3) (hable.trans ha)

theorem portState_aportCfg_start (hp : p < 4) (hd : dUp x = true) (h0 : portState x p = 0)
    (ha : portAble (wr x (R.APORT_CFG p) (cfgWord x p v)) p = true) : portState (aportCfg x p v) p =
      if fon (wr x (R.APORT_CFG p) (cfgWord x p v)) (F.APORT_CFG_sync_start p) then 1 else 2 := by
  obtain ⟨hdup, hstate, hable⟩ := cfgMoved_effect x hp v
  have hsync : fon (cfgMoved x p v) (F.APORT_CFG_sync_start p) =
      fon (wr x (R.APORT_CFG p) (cfgWord x p v)) (F.APORT_CFG_sync_start p) :=
    congrArg (getBits · 30 1 != 0) ((rd_cfgMoved x hp v).trans (rd_wr_same ..).symm)
  exact (portState_portEval_start hp (hdup.trans hd) (hstate.trans h0) (hable.trans ha)).trans (by rw [hsync])

/-! APORT_MAP_WRITE (R284). -/

/-- The word of a map entry written. -/
def mapWritten (x : Chip) (p e : Nat) (v : Word) : Chip :=
  wr (playsSettle x) (R.APORT_MAP p e) (rwMerge (R.APORT_MAP p e) (rd x (R.APORT_MAP p e)) v)

/-- What follows a change of a map entry: it plays again, and its old slots fade where the port runs. -/
def mapFaded (x : Chip) (p e : Nat) (old : Word) : Chip :=
  let y := setMuted x p ((portOf x p).muted.filter (· ≠ e))
  if portState y p = 2 then fadeOut (entryFade y p e old) p else y

theorem aportMap_eq (x : Chip) (p e : Nat) (v : Word) : aportMap x p e v =
    if rd x (R.APORT_MAP p e) = rwMerge (R.APORT_MAP p e) (rd x (R.APORT_MAP p e)) v ∨ dUp x = false then mapWritten x p e v
    else mapJudge (mapFaded (mapWritten x p e v) p e (rd x (R.APORT_MAP p e))) p := rfl

theorem exec_aportMapWrite (hp : p < 4) (he : e < 4) (hm : mgmtUp s.chip = true) (v : Word) :
    exec (.aportMapWrite p e v) s = .next (onChip (fun x => aportMap x p e v) s) :=
  congrArg Host.Outcome.next (if_pos ⟨hm, hp, he⟩)

theorem mapFaded_only (x : Chip) (p e : Nat) (old : Word) :
    OnlyPorts [F.APORT_STATUS_nonpcm p, F.APORT_STATUS_fading p] x (mapFaded x p e old) := by
  have hmuted := setMuted_only (p := p) x ((portOf x p).muted.filter (· ≠ e))
    (w := [F.APORT_STATUS_nonpcm p, F.APORT_STATUS_fading p]) (by simp)
  exact .ite (hmuted.trans ((OnlyPorts.setPort _ _ p _).trans (portFade_only _ _ (by simp)))) hmuted

theorem portMap_not_log (hp : p < 4) (he : e < 4) : R.APORT_MAP p e ∉ logRegs :=
  not_logRegs_of_lt (by simp only [R.APORT_MAP]; omega)

/-- A map entry keeps what was written to it but for `bad`. -/
theorem fget_aportMap {f : Fld} (x : Chip) (v : Word) (hp : p < 4) (he : e < 4) (hf : f.addr = R.APORT_MAP p e)
    (h32 : f.lo + f.width ≤ 32) (hbad : f.lo + f.width ≤ 30 ∨ 31 ≤ f.lo) : fget (aportMap x p e v) f = fget (mapWritten x p e v) f := by
  have hlog : f.addr ∉ logRegs := hf ▸ portMap_not_log hp he
  have hstat : f.addr ≠ R.APORT_STATUS p := hf.trans_ne (portStatus_ne_map p he).symm
  rw [aportMap_eq]
  split
  · rfl
  · refine ((mapJudge_only _ p).flds f h32 hlog (forall_badFlds.2 fun i _ => .inr hbad)).trans ?_
    exact (mapFaded_only _ p e _).flds f h32 hlog (by simp [Fld.Apart, F.APORT_STATUS_nonpcm, F.APORT_STATUS_fading, hstat])

/-! SYNC_IN_EDGE and CONTEND (R289, R291). -/

/-- A port that waits runs. -/
def syncRun (y : Chip) (p : Nat) : Chip := if portState y p = 1 then setPortState y p 2 else y

theorem exec_syncInEdge (s : State) : exec .syncInEdge s = .next (onChip (fun x => (List.range 4).foldl syncRun x) s) := rfl

theorem portState_syncRun (x : Chip) (hp : p < 4) : portState (syncRun x p) p = if portState x p = 1 then 2 else portState x p := by
  unfold syncRun
  split
  · exact portState_setPortState x hp (by decide)
  · rfl

/-- Another port's status stays. -/
theorem portStatus_ne {q : Nat} (h : q ≠ p) : R.APORT_STATUS q ≠ R.APORT_STATUS p := by
  simp only [R.APORT_STATUS]
  omega

theorem portState_syncRun_ne {q : Nat} (x : Chip) (hq : q < 4) (h : q ≠ p) : portState (syncRun x p) q = portState x q := by
  have honly : OnlyPorts [F.APORT_STATUS_state p] x (syncRun x p) := .ite (setPortState_only x 2 (List.mem_singleton_self _)) (.refl _ x)
  exact honly.portState hq (by simpa [Fld.Apart, F.APORT_STATUS_state] using portStatus_ne h)

theorem portState_syncInEdge (x : Chip) (hp : p < 4) :
    portState ((List.range 4).foldl syncRun x) p = if portState x p = 1 then 2 else portState x p :=
  foldl_own (view := fun q y => portState y q) (up := fun _ st => if st = 1 then 2 else st)
    (fun y _ hq => portState_syncRun y (List.mem_range.1 hq))
    (fun y _ _ _ hk hne => portState_syncRun_ne y (List.mem_range.1 hk) hne) List.nodup_range (List.mem_range.2 hp) x

theorem exec_contend (hp : p < 4) (h : portState s.chip p = 2) (fsync : Bool) :
    exec (.contend p fsync) s = .next (onChip (fun x => contend x p fsync.toNat) s) := congrArg Host.Outcome.next (if_pos ⟨hp, h⟩)

theorem exec_contend_idle (h : portState s.chip p ≠ 2) (fsync : Bool) : exec (.contend p fsync) s = .next s :=
  congrArg Host.Outcome.next (if_neg fun hc => h hc.2)

/-- A port with `contend` noted and `en` taken back. -/
def contendNoted (x : Chip) (p : Nat) : Chip := fset (fset x (F.APORT_STATUS_contend p) 1) (F.APORT_CFG_en p) 0

theorem contendNoted_effect (x : Chip) (p : Nat) :
    fget (contendNoted x p) (F.APORT_CFG_en p) = 0 ∧ fget (contendNoted x p) (F.APORT_STATUS_contend p) = 1 := by
  refine ⟨fget_fset_same _ (F.APORT_CFG_en p) 0 (by simp [F.APORT_CFG_en]), ?_⟩
  have hone := fget_fset_same x (F.APORT_STATUS_contend p) 1 (by simp [F.APORT_STATUS_contend])
  exact (fget_fset_apart _ (F.APORT_CFG_en p) _ 0 (by simp [F.APORT_STATUS_contend]) (.inl (portCfg_ne_status p p).symm)).trans hone

theorem fget_setCause_same (x : Chip) (i : IntCause) (hw : i.fld.width = 1) (h32 : i.fld.lo + i.fld.width ≤ 32) :
    fget (setCause x i) i.fld = 1 := by
  rw [setCause, fget_fset_same x i.fld 1 h32, hw, Nat.pow_one, Nat.mod_eq_of_lt Nat.one_lt_two]

/-- A field outside the registers that the log writes keeps its value when a cause is set. -/
theorem fget_setCause_not_log {f : Fld} (x : Chip) (i : IntCause) (h : f.addr ∉ logRegs) : fget (setCause x i) f = fget x f :=
  congrArg (getBits · f.lo f.width) (rd_fset_ne x i.fld 1 f.addr fun e => h (by rw [e, intCause_addr]; simp [logRegs]))

/-- A port in contention is in HIZ with `en` 0 and `contend` set. -/
theorem contend_effect (x : Chip) (hp : p < 4) (which : Nat) : portState (contend x p which) p = 3 ∧
    fget (contend x p which) (F.APORT_CFG_en p) = 0 ∧ fget (contend x p which) (F.APORT_STATUS_contend p) = 1 ∧
    fget (contend x p which) F.MGMT_INT_CAUSE_aport = 1 := by
  have htold : ∀ f : Fld, f.addr ∉ logRegs →
      fget (contend x p which) f = fget (mapJudge (portStop (contendNoted x p) p 3) p) f :=
    fun f hf => (fget_setCause_not_log _ .aport hf).trans (fget_raise _ _ _ _ f hf)
  have hstop : OnlyPorts (stateFlds p ++ badFlds p) (contendNoted x p) (mapJudge (portStop (contendNoted x p) p 3) p) :=
    ((portStop_only _ p 3).mono (List.subset_append_left ..)).trans ((mapJudge_only _ p).mono (List.subset_append_right ..))
  obtain ⟨hen, hcont⟩ := contendNoted_effect x p
  refine ⟨?_, ?_, ?_, fget_setCause_same _ .aport rfl (by decide)⟩
  · rw [portState, htold _ (portStatus_not_log hp)]
    exact (portState_mapJudge _ hp).trans (portState_portStop _ hp (by decide))
  · rw [htold _ (portCfg_not_log hp), hstop.flds _ (by simp [F.APORT_CFG_en]) (portCfg_not_log hp), hen]
    have hne := portCfg_ne_status p p
    exact List.forall_mem_append.2 ⟨forall_stateFlds.2 ⟨.inl hne, .inl hne, .inl hne, .inl hne⟩,
      forall_badFlds.2 fun i _ => .inl (portCfg_ne_map p i)⟩
  · rw [htold _ (portStatus_not_log hp), hstop.flds _ (by simp [F.APORT_STATUS_contend]) (portStatus_not_log hp), hcont]
    have hstate : ∀ g ∈ stateFlds p, (F.APORT_STATUS_contend p).Apart g := forall_stateFlds.2 (by
      simp [Fld.Apart, F.APORT_STATUS_contend, F.APORT_STATUS_state, F.APORT_STATUS_nonpcm, F.APORT_STATUS_fading,
        F.APORT_STATUS_no_link])
    exact List.forall_mem_append.2 ⟨hstate, status_apart_bad rfl⟩

end Sys2Proof.Machine
end

section
/-! Play-out (R282, R283, R286 to R290): underruns and overruns of a carriage, its fade and its return, slips, and entries muted as
non-PCM. -/
namespace Sys2Proof.Machine

variable {x y : Chip} {s : State} {p e c : Nat}

/-! Frames due (R286, R287). -/

theorem overrunNow_iff (x : Chip) (c : Nat) : overrunNow x c = true ↔
    playing x c = true ∧ 1536 < ((playOf x c).held.filter fun e => decide (frameNow x c < e.1)).length := by
  simp only [overrunNow, Bool.and_eq_true, decide_eq_true_eq]

theorem underrunNow_iff (x : Chip) (c : Nat) : underrunNow x c = true ↔
    playing x c = true ∧ overrunNow x c = false ∧ ∀ e ∈ (playOf x c).held, e.1 ≠ frameNow x c := by
  simp only [underrunNow, Bool.and_eq_true, Bool.not_eq_true', List.all_eq_true, bne_iff_ne]

/-- Frames of a carriage that plays are due at a fixed offset, and it has not faded. -/
theorem playing_unfaded (h : playing x c = true) : (playOf x c).offset.isSome = true ∧ (playOf x c).faded = false := by
  simp only [playing, Bool.and_eq_true, Bool.not_eq_true'] at h
  exact ⟨h.1, h.2.1⟩

/-! What ports hold of a carriage. -/

@[simp] theorem playOf_setPlay_same (x : Chip) (c : Nat) (r : PlayRt) : playOf (setPlay x c r) c = r := smGet_smPut_same ..

@[simp] theorem portOf_setPort_same (x : Chip) (p : Nat) (r : PortRt) : portOf (setPort x p r) p = r := smGet_smPut_same ..

@[simp] theorem playOf_setCause (x : Chip) (i : IntCause) (k : Nat) : playOf (setCause x i) k = playOf x k := rfl

@[simp] theorem portOf_setCause (x : Chip) (i : IntCause) (k : Nat) : portOf (setCause x i) k = portOf x k := rfl

@[simp] theorem nextSeq_setCause (x : Chip) (i : IntCause) (src : Nat) : nextSeq (setCause x i) src = nextSeq x src := rfl

@[simp] theorem nextSeq_setPlay (x : Chip) (k : Nat) (r : PlayRt) (src : Nat) : nextSeq (setPlay x k r) src = nextSeq x src := rfl

theorem ports_raise (x : Chip) (src code : Nat) (args : List Byte) : (raise x src code args).ports = x.ports := by rw [raise_rest]

@[simp] theorem portOf_raise (x : Chip) (src code : Nat) (args : List Byte) (k : Nat) :
    portOf (raise x src code args) k = portOf x k := by rw [portOf, ports_raise, portOf]

/-! A fade or ramp on a port (R286). -/

theorem lg_portFade (x : Chip) (p ms : Nat) : (portFade x p ms).lg = x.lg := by
  unfold portFade
  split <;> rfl

theorem nextSeq_portFade (x : Chip) (p ms src : Nat) : nextSeq (portFade x p ms) src = nextSeq x src := by
  rw [nextSeq, lg_portFade, nextSeq]

theorem rd_portFade_ne {b : Nat} (x : Chip) (ms : Nat) (h : b ≠ R.APORT_STATUS p) : rd (portFade x p ms) b = rd x b := by
  unfold portFade
  split
  · rfl
  · exact rd_fset_ne _ _ _ _ h

/-- Of a port's memory a fade or ramp writes its end alone. -/
theorem portOf_portFade (x : Chip) (p ms : Nat) : ∃ t, portOf (portFade x p ms) p = { portOf x p with fadeEnd := t } := by
  unfold portFade
  split
  · exact ⟨_, rfl⟩
  · exact ⟨_, portOf_setPort_same ..⟩

/-- Fades on ports leave the log, and every register that is no port's status. -/
theorem foldl_fadeOut_rest (l : List Nat) (x : Chip) : (l.foldl fadeOut x).lg = x.lg ∧
    ∀ b, (∀ q, b ≠ R.APORT_STATUS q) → rd (l.foldl fadeOut x) b = rd x b :=
  List.foldlRecOn (motive := fun y => y.lg = x.lg ∧ ∀ b, (∀ q, b ≠ R.APORT_STATUS q) → rd y b = rd x b) l fadeOut
    ⟨rfl, fun _ _ => rfl⟩ fun y ⟨hlg, hrd⟩ p _ =>
      ⟨(lg_portFade y p _).trans hlg, fun b hb => (rd_portFade_ne y _ (hb p)).trans (hrd b hb)⟩

/-! A port that runs out of frames or holds too many (R286, R287). -/

/-- The flag of a port's overruns, or of its underruns. -/
def failFlag (many : Bool) (p : Nat) : Fld := if many then F.APORT_STATUS_overrun p else F.APORT_STATUS_underrun p

/-- Their count. -/
def failCount (many : Bool) (p : Nat) : Nat := if many then R.APORT_OVER_COUNT p else R.APORT_UNDER_COUNT p

/-- The flag of its wrap. -/
def failWrap (many : Bool) (p : Nat) : Fld := if many then F.APORT_STATUS_over_wrap p else F.APORT_STATUS_under_wrap p

/-- A port's failure flagged and counted, before it is told. -/
def failNoted (many : Bool) (x : Chip) (p : Nat) : Chip :=
  count (fset (fadeOut x p) (failFlag many p) 1) (failCount many p) (failWrap many p) 1

/-- What tells a port's failures: its flag, its count, and the number of the port's events. -/
def failView (many : Bool) (p : Nat) (x : Chip) : Nat × Word × BitVec 16 :=
  (fget x (failFlag many p), rd x (failCount many p), nextSeq x (srcAport p))

/-- A step of one port that notes its failure and tells it in one event. -/
def FailStep (many : Bool) (f : Chip → Nat → Chip) : Prop :=
  ∀ x p, ∃ t code args cause, f x p = raiseAt (failNoted many x p) t (srcAport p) code args cause

theorem failStep_portUnder (c held : Nat) : FailStep false (portUnder c held) := fun _ _ => ⟨_, _, _, _, rfl⟩

theorem failStep_portOver (c n : Nat) : FailStep true (portOver c n) := fun _ _ => ⟨_, _, _, _, rfl⟩

theorem failFlag_addr (many : Bool) (p : Nat) : (failFlag many p).addr = R.APORT_STATUS p := by cases many <;> rfl

theorem failWrap_addr (many : Bool) (p : Nat) : (failWrap many p).addr = R.APORT_STATUS p := by cases many <;> rfl

theorem failFlag_shape (many : Bool) (p : Nat) : (failFlag many p).lo + (failFlag many p).width ≤ 32 ∧ (failFlag many p).width = 1 ∧
    (failFlag many p).Apart (failWrap many p) := by
  cases many <;> simp [failFlag, failWrap, Fld.Apart, F.APORT_STATUS_overrun, F.APORT_STATUS_underrun, F.APORT_STATUS_over_wrap,
    F.APORT_STATUS_under_wrap]

/-- A port's counts are no status. -/
theorem failCount_ne_status (many : Bool) (p q : Nat) : failCount many p ≠ R.APORT_STATUS q := by
  cases many <;> simp only [failCount, if_pos, Bool.false_eq_true, if_false, R.APORT_OVER_COUNT, R.APORT_UNDER_COUNT, R.APORT_STATUS] <;>
    omega

theorem failCount_ne (many : Bool) {p q : Nat} (h : q ≠ p) : failCount many q ≠ failCount many p := by
  cases many <;> simp only [failCount, if_pos, Bool.false_eq_true, if_false, R.APORT_OVER_COUNT, R.APORT_UNDER_COUNT] <;> omega

theorem failCount_not_log (many : Bool) (hp : p < 4) : failCount many p ∉ logRegs := by
  cases many
  · exact portReg_not_log (off := 0x20) hp (by decide)
  · exact portReg_not_log (off := 0x24) hp (by decide)

/-- A port's failure sets its flag, adds one to its count and raises one event of the port. -/
theorem failView_own {many : Bool} {f : Chip → Nat → Chip} (hf : FailStep many f) (x : Chip) (hp : p < 4) :
    failView many p (f x p) = (1, rd x (failCount many p) + 1, nextSeq x (srcAport p) + 1) := by
  obtain ⟨t, code, args, cause, hstep⟩ := hf x p
  obtain ⟨h32, hw, hapart⟩ := failFlag_shape many p
  have hrd : ∀ b, b ∉ logRegs → rd (f x p) b = rd (failNoted many x p) b := fun b hb => by rw [hstep, rd_raiseAt _ _ _ _ _ _ _ hb]
  have hflag : fget (f x p) (failFlag many p) = 1 := by
    rw [fget, hrd _ (by rw [failFlag_addr]; exact portStatus_not_log hp), ← fget, failNoted,
      fget_count_apart _ 1 h32 (by rw [failFlag_addr]; exact (failCount_ne_status many p p).symm) hapart,
      fget_fset_same _ _ _ h32, hw, Nat.pow_one, Nat.mod_eq_of_lt Nat.one_lt_two]
  have hcount : rd (f x p) (failCount many p) = rd x (failCount many p) + 1 := by
    rw [hrd _ (failCount_not_log many hp), failNoted,
      rd_count_one _ _ _ (by rw [failWrap_addr]; exact (failCount_ne_status many p p).symm),
      rd_fset_ne _ _ _ _ (by rw [failFlag_addr]; exact failCount_ne_status many p p), fadeOut,
      rd_portFade_ne _ _ (failCount_ne_status many p p)]
  have hseq : nextSeq (f x p) (srcAport p) = nextSeq x (srcAport p) + 1 := by
    rw [hstep, nextSeq_raiseAt, if_pos rfl, failNoted, nextSeq_count]
    exact congrArg (· + 1) (nextSeq_portFade ..)
  rw [failView, hflag, hcount, hseq]

/-- What tells another port's failures stays. -/
theorem failView_apart {many : Bool} {f : Chip → Nat → Chip} (hf : FailStep many f) (x : Chip) {q : Nat} (hq : q < 4) (h : q ≠ p) :
    failView many q (f x p) = failView many q x := by
  obtain ⟨t, code, args, cause, hstep⟩ := hf x p
  have hrd : ∀ b, b ∉ logRegs → b ≠ R.APORT_STATUS p → b ≠ failCount many p → rd (f x p) b = rd x b := by
    intro b hl hs hc
    rw [hstep, rd_raiseAt _ _ _ _ _ _ _ hl, failNoted, rd_count_ne _ _ _ _ _ hc (by rwa [failWrap_addr]),
      rd_fset_ne _ _ _ _ (by rwa [failFlag_addr]), fadeOut, rd_portFade_ne _ _ hs]
  have hseq : nextSeq (f x p) (srcAport q) = nextSeq x (srcAport q) := by
    rw [hstep, nextSeq_raiseAt, if_neg (by simp only [srcAport]; omega), failNoted, nextSeq_count]
    exact nextSeq_portFade ..
  have hflag : rd (f x p) (failFlag many q).addr = rd x (failFlag many q).addr := by
    rw [failFlag_addr]
    exact hrd _ (portStatus_not_log hq) (portStatus_ne h) (failCount_ne_status many p q).symm
  rw [failView, fget, hflag, hrd _ (failCount_not_log many hq) (failCount_ne_status many q p) (failCount_ne many h), hseq]
  rfl

theorem mem_playingPorts (h : p ∈ playingPorts x c) : p < 4 := List.mem_range.1 (List.mem_filter.1 h).1

theorem nodup_playingPorts (x : Chip) (c : Nat) : (playingPorts x c).Nodup := List.nodup_range.filter _

/-- Every port that plays a carriage fails once as the carriage does. -/
theorem failView_foldl {many : Bool} {f : Chip → Nat → Chip} (hf : FailStep many f) (hp : p ∈ playingPorts x c) :
    failView many p ((playingPorts x c).foldl f x) = (1, rd x (failCount many p) + 1, nextSeq x (srcAport p) + 1) :=
  foldl_own (view := failView many) (up := fun _ r => (1, r.2.1 + 1, r.2.2 + 1))
    (fun y _ hq => failView_own hf y (mem_playingPorts hq)) (fun y _ _ _ hk hne => failView_apart hf y (mem_playingPorts hk) hne)
    (nodup_playingPorts x c) hp x

/-- A carriage that fails: every port that plays it notes it, and it fades. -/
def carrFails (f : Chip → Nat → Chip) (c : Nat) (x : Chip) : Chip :=
  setCause (setPlay ((playingPorts x c).foldl f x) c (playFade x c true)) .aport

/-- A carriage that fails has faded, holds no frame and no offset, and cause `aport` is set. -/
theorem carrFails_faded (f : Chip → Nat → Chip) (c : Nat) (x : Chip) : (playOf (carrFails f c x) c).faded = true ∧
    (playOf (carrFails f c x) c).offset = none ∧ (playOf (carrFails f c x) c).held = [] ∧
    fget (carrFails f c x) F.MGMT_INT_CAUSE_aport = 1 := by
  have hplay : playOf (carrFails f c x) c = playFade x c true := by rw [carrFails, playOf_setCause, playOf_setPlay_same]
  rw [hplay]
  exact ⟨rfl, rfl, rfl, fget_setCause_same _ .aport rfl (by decide)⟩

/-- Each port that plays a carriage that fails shows it. -/
theorem carrFails_told {many : Bool} {f : Chip → Nat → Chip} (hf : FailStep many f) (hp : p ∈ playingPorts x c) :
    fget (carrFails f c x) (failFlag many p) = 1 ∧
    rd (carrFails f c x) (failCount many p) = rd x (failCount many p) + 1 ∧
    nextSeq (carrFails f c x) (srcAport p) = nextSeq x (srcAport p) + 1 := by
  have hp4 := mem_playingPorts hp
  have hcause : ∀ b, b ∉ logRegs → rd (carrFails f c x) b = rd ((playingPorts x c).foldl f x) b := fun b hb =>
    rd_fset_ne _ _ _ _ fun h => hb (by rw [h, intCause_addr]; simp [logRegs])
  have hview : failView many p (carrFails f c x) = failView many p ((playingPorts x c).foldl f x) := by
    rw [failView, fget, hcause _ (by rw [failFlag_addr]; exact portStatus_not_log hp4), hcause _ (failCount_not_log many hp4), carrFails,
      nextSeq_setCause, nextSeq_setPlay]
    rfl
  have hall := hview.trans (failView_foldl hf hp)
  simp only [failView, Prod.mk.injEq] at hall
  exact hall

/-- The fade of an idle head's carriage alone (R288). -/
theorem playRefresh_fades (h : playing x c = true) :
    playRefresh x c = setPlay ((playingPorts x c).foldl fadeOut x) c (playFade x c false) := if_pos (playing_unfaded h)

/-- An idle head's carriage fades without a flag, a count or an event. -/
theorem playRefresh_effect (h : playing x c = true) : (playOf (playRefresh x c) c).faded = false ∧
    (playOf (playRefresh x c) c).offset = none ∧ (playRefresh x c).lg = x.lg ∧
    ∀ p, rd (playRefresh x c) (R.APORT_UNDER_COUNT p) = rd x (R.APORT_UNDER_COUNT p) ∧
      rd (playRefresh x c) (R.APORT_OVER_COUNT p) = rd x (R.APORT_OVER_COUNT p) := by
  obtain ⟨hlg, hrd⟩ := foldl_fadeOut_rest (playingPorts x c) x
  rw [playRefresh_fades h, playOf_setPlay_same]
  exact ⟨rfl, rfl, hlg, fun p => ⟨hrd _ (failCount_ne_status false p), hrd _ (failCount_ne_status true p)⟩⟩

/-! UNDERRUN and OVERRUN (R286 to R288). -/

theorem exec_underrun (h : underrunNow s.chip c = true) (hi : idleHead s.chip c = false) : exec (.underrun c) s =
    .next (onChip (fun x => carrFails (portUnder c (framesHeld x c)) c x) s) :=
  exec_does (g := fun x => carrFails (portUnder c (framesHeld x c)) c x)
    (congrArg Host.Outcome.next (if_pos h)) (if_neg (ne_true_of_eq_false hi))

theorem exec_overrun (h : overrunNow s.chip c = true) (hi : idleHead s.chip c = false) : exec (.overrun c) s =
    .next (onChip (fun x => carrFails (portOver c (framesHeld x c)) c x) s) :=
  exec_does (g := fun x => carrFails (portOver c (framesHeld x c)) c x)
    (congrArg Host.Outcome.next (if_pos h)) (if_neg (ne_true_of_eq_false hi))

theorem exec_underrun_idleHead (h : underrunNow s.chip c = true) (hi : idleHead s.chip c = true) : exec (.underrun c) s =
    .next (onChip (fun x => playRefresh x c) s) :=
  exec_does (g := fun x => playRefresh x c) (congrArg Host.Outcome.next (if_pos h)) (if_pos hi)

theorem exec_overrun_idleHead (h : overrunNow s.chip c = true) (hi : idleHead s.chip c = true) : exec (.overrun c) s =
    .next (onChip (fun x => playRefresh x c) s) :=
  exec_does (g := fun x => playRefresh x c) (congrArg Host.Outcome.next (if_pos h)) (if_pos hi)

theorem exec_underrun_none (h : underrunNow s.chip c = false) : exec (.underrun c) s = .next s :=
  congrArg Host.Outcome.next (if_neg (ne_true_of_eq_false h))

theorem exec_overrun_none (h : overrunNow s.chip c = false) : exec (.overrun c) s = .next s :=
  congrArg Host.Outcome.next (if_neg (ne_true_of_eq_false h))

/-! RESUME (R282, R286, R292). -/

/-- A carriage that plays again, its ports ramping in. -/
def resumed (c : Nat) (off : Int) (x : Chip) : Chip :=
  setPlay ((playingPorts x c).foldl (portResume c off) x) c { playOf x c with faded := false }

theorem exec_resume {off : Int} (hf : (playOf s.chip c).faded = true) (hover : fadeOver s.chip c = true)
    (hoff : (playOf s.chip c).offset = some off) : exec (.resume c) s = .next (onChip (resumed c off) s) := by
  show execResume c s = _
  unfold execResume
  rw [hf, hover, hoff]
  rfl

theorem exec_resume_none (h : (playOf s.chip c).faded = false ∨ fadeOver s.chip c = false ∨ (playOf s.chip c).offset = none) :
    exec (.resume c) s = .next s := by
  show execResume c s = _
  unfold execResume
  split
  next off hready hoff =>
    obtain ⟨hf, hover⟩ := Bool.and_eq_true_iff.1 hready
    rcases h with h | h | h
    · exact absurd (h.symm.trans hf) (by decide)
    · exact absurd (h.symm.trans hover) (by decide)
    · exact absurd (h.symm.trans hoff) (by simp)
  next => rfl

theorem nextSeq_portResume (c : Nat) (off : Int) (x : Chip) (p q : Nat) : nextSeq (portResume c off x p) (srcAport q) =
    if q = p then nextSeq x (srcAport p) + 1 else nextSeq x (srcAport q) := by
  simp only [portResume, raise, nextSeq_raiseAt, rampIn, nextSeq_portFade, srcAport, Nat.add_left_cancel_iff]

/-- Each port that plays a carriage tells once that it plays again. -/
theorem nextSeq_resumed (off : Int) (hp : p ∈ playingPorts x c) :
    nextSeq (resumed c off x) (srcAport p) = nextSeq x (srcAport p) + 1 :=
  foldl_own (view := fun q y => nextSeq y (srcAport q)) (up := fun _ n => n + 1)
    (fun y q _ => (nextSeq_portResume c off y q q).trans (if_pos rfl))
    (fun y q _ k _ hne => (nextSeq_portResume c off y q k).trans (if_neg hne)) (nodup_playingPorts x c) hp x

/-! SLIP (R283). -/

theorem exec_slip (hp : p < 4) (h1 : portPlays s.chip p c = true) (h2 : playing s.chip c = true) (h3 : slips s.chip p c = true) :
    exec (.slip p c) s = .next (onChip (fun x => portSlip x p c) s) := congrArg Host.Outcome.next (if_pos ⟨hp, h1, h2, h3⟩)

theorem exec_slip_none (h : playing s.chip c = false) (p : Nat) : exec (.slip p c) s = .next s :=
  congrArg Host.Outcome.next (if_neg fun hc => ne_true_of_eq_false h hc.2.2.1)

/-- A slip counted, with its limit brought up to date. -/
def slipNoted (x : Chip) (p : Nat) : Chip :=
  let x1 := count x (R.APORT_SLIP p) (F.APORT_STATUS_slip_wrap p) 1
  setPort x1 p { portOf x1 p with slip := (limitSec x1 (portOf x1 p).slip 1).1 }

/-- A slip is counted, and told where its limit lets it through. -/
theorem portSlip_cases (x : Chip) (p c : Nat) : portSlip x p c = slipNoted x p ∨
    ∃ n, portSlip x p c = raise (slipNoted x p) (srcAport p) 0x03 (b2s n ++ b1 c) := by
  unfold portSlip
  dsimp only
  split
  · exact .inr ⟨_, rfl⟩
  · exact .inl rfl

theorem slipNoted_effect (x : Chip) (p : Nat) : rd (slipNoted x p) (R.APORT_SLIP p) = rd x (R.APORT_SLIP p) + 1 ∧
    OnlyRegs [R.APORT_SLIP p, R.APORT_STATUS p] { x with ports := (slipNoted x p).ports } (slipNoted x p) := by
  have hne : (F.APORT_STATUS_slip_wrap p).addr ≠ R.APORT_SLIP p := by
    simp only [F.APORT_STATUS_slip_wrap, R.APORT_STATUS, R.APORT_SLIP]
    omega
  refine ⟨rd_count_one x _ _ hne, ?_, fun b hb => ?_⟩
  · unfold slipNoted
    dsimp only
    rw [count_rest]
    rfl
  · simp only [List.mem_cons, List.not_mem_nil, or_false, not_or] at hb
    exact rd_count_ne x _ _ 1 b hb.1 hb.2

theorem portSlip_effect (x : Chip) (c : Nat) (hp : p < 4) : rd (portSlip x p c) (R.APORT_SLIP p) = rd x (R.APORT_SLIP p) + 1 ∧
    OnlyRegsLog [R.APORT_SLIP p, R.APORT_STATUS p] { x with ports := (portSlip x p c).ports } (portSlip x p c) := by
  obtain ⟨hcount, honly⟩ := slipNoted_effect x p
  rcases portSlip_cases x p c with h | ⟨n, h⟩
  · rw [h]
    exact ⟨hcount, onlyRegsLog_of_onlyRegs honly⟩
  · have hlog : R.APORT_SLIP p ∉ logRegs := portReg_not_log (off := 0x1C) hp (by decide)
    rw [h, rd_raise _ _ _ _ _ hlog, ports_raise]
    exact ⟨hcount, onlyRegs_then_log honly (onlyRegsLog_raise ..)⟩

/-! NONPCM and NONPCM_RELEASE (R290). -/

theorem exec_nonpcm (hp : p < 4) (he : e < 4) (hx : examines s.chip p e = true) (hpre : preamble s.chip p e = true)
    (hm : e ∉ (portOf s.chip p).muted) : exec (.nonpcm p e) s = .next (onChip (fun x =>
      setCause (raise (setMuted x p ((portOf x p).muted ++ [e])) (srcAport p) 0x05 (b1 e ++ b1 1)) .aport) s) :=
  congrArg Host.Outcome.next (if_pos ⟨hp, he, hx, hpre, Bool.eq_false_iff.2 (mt List.contains_iff_mem.1 hm)⟩)

theorem exec_nonpcm_none (h : ¬(examines s.chip p e = true ∧ preamble s.chip p e = true) ∨ e ∈ (portOf s.chip p).muted) :
    exec (.nonpcm p e) s = .next s := by
  refine congrArg Host.Outcome.next (if_neg ?_)
  rintro ⟨_, _, hx, hpre, hm⟩
  exact h.elim (· ⟨hx, hpre⟩) fun hmem => ne_true_of_eq_false hm (List.contains_iff_mem.2 hmem)

theorem exec_nonpcmRelease (hp : p < 4) (hm : e ∈ (portOf s.chip p).muted) : exec (.nonpcmRelease p e) s = .next (onChip (fun x =>
    setCause (raise (rampIn (unmute x p e) p) (srcAport p) 0x05 (b1 e ++ b1 0)) .aport) s) :=
  congrArg Host.Outcome.next (if_pos ⟨hp, List.contains_iff_mem.2 hm⟩)

theorem exec_nonpcmRelease_none (hm : e ∉ (portOf s.chip p).muted) : exec (.nonpcmRelease p e) s = .next s :=
  congrArg Host.Outcome.next (if_neg fun h => hm (List.contains_iff_mem.1 h.2))

/-- The frame that a port begins does not depend on the entries muted. -/
theorem ownFrame_setMuted (x : Chip) (p : Nat) (l : List Nat) : ownFrame (setMuted x p l) p = ownFrame x p := by
  have hrole : fget (setMuted x p l) F.GEN_ROLE_role = fget x F.GEN_ROLE_role :=
    fget_wr_ne _ _ _ _ (by simp only [F.GEN_ROLE_role, R.GEN_ROLE, F.APORT_STATUS_nonpcm, R.APORT_STATUS]; omega)
  have hclk : fget (setMuted x p l) (F.APORT_CFG_clksrc p) = fget x (F.APORT_CFG_clksrc p) :=
    fget_wr_ne _ _ _ _ (portCfg_ne_status p p)
  have hcp : (setMuted x p l).cp = x.cp := rfl
  have htm : (setMuted x p l).tm = x.tm := rfl
  have hlk : (setMuted x p l).lk = x.lk := rfl
  simp only [ownFrame, portTime, isFoot, role, fon, headTime, hrole, hclk, hcp, htm, hlk]

/-- An entry that plays again is muted no more, and ramps in from the frame that begins now. -/
theorem portOf_unmute (x : Chip) (p e : Nat) : portOf (unmute x p e) p = { portOf x p with
    muted := (portOf x p).muted.filter (· ≠ e), rampIn := (portOf x p).rampIn.set e (ownFrame x p) } := by
  have hmuted : portOf (setMuted x p ((portOf x p).muted.filter (· ≠ e))) p =
      { portOf x p with muted := (portOf x p).muted.filter (· ≠ e) } := portOf_setPort_same ..
  unfold unmute
  dsimp only
  rw [portOf_setPort_same, hmuted, ownFrame_setMuted]
  rfl

/-- A release leaves the entry unmuted, told in one event with cause `aport`. -/
theorem release_effect (x : Chip) (p e : Nat) (args : List Byte) :
    let y := setCause (raise (rampIn (unmute x p e) p) (srcAport p) 0x05 args) .aport
    (portOf y p).muted = (portOf x p).muted.filter (· ≠ e) ∧ fget y F.MGMT_INT_CAUSE_aport = 1 ∧
    (portOf y p).rampIn = (portOf x p).rampIn.set e (ownFrame x p) ∧
    nextSeq y (srcAport p) = nextSeq x (srcAport p) + 1 := by
  obtain ⟨t, ht⟩ := portOf_portFade (unmute x p e) p (fget (unmute x p e) (F.APORT_FADE_ramp p))
  simp only [portOf_setCause, portOf_raise, nextSeq_setCause, nextSeq_raise_same, rampIn, nextSeq_portFade]
  rw [ht, portOf_unmute]
  exact ⟨rfl, fget_setCause_same _ .aport rfl (by decide), rfl, rfl⟩

end Sys2Proof.Machine
end

section
/-! Carriage memory (R296 to R299): the reader's index, entries stored in the shared ring or discarded, segments stored in privileged
buffers, and the statement about ports and carriage memory. -/
namespace Sys2Proof.Machine

variable {x : Chip} {s t u : State} {g : Seg} {v : Word} {o : Iface}

/-! HOST_RING_RD_WRITE (R295, R298). -/

theorem exec_hostRingRdWrite (hm : mgmtUp s.chip = true) (o : Iface) (v : Word) :
    exec (.hostRingRdWrite o v) s = .next (onChip (fun x => ringRd x o v) s) := congrArg Host.Outcome.next (if_pos hm)

/-- An index on the grid and inside the ring. -/
def RdFits (x : Chip) (v : Word) : Prop := getBits v 0 22 % 4 = 0 ∧ getBits v 0 22 < fget x F.HOST_RING_CFG_pages * 16384

theorem ringRd_moves (h : RdFits x v) (o : Iface) : ringRd x o v = hostShow (fset x F.HOST_RING_RD_rd (getBits v 0 22)) :=
  if_neg fun hbad => hbad.elim (· h.1) (Nat.not_le.2 h.2)

theorem ringRd_off (h : ¬RdFits x v) (o : Iface) : ringRd x o v = if o = .hp then hpViol x 6 R.HOST_RING_RD else x :=
  if_pos (by simpa only [RdFits, not_and_or, Nat.not_lt] using h)

/-! The shared ring (R296 to R298). -/

/-- A segment waits no more. -/
def segTaken (g : Seg) (x : Chip) : Chip := { x with toOut := x.toOut.erase g }

theorem exec_ringEntry (h : (s.chip.toOut.find? fun g => privSlots s.chip g == []) = some g) : exec .ringEntry s =
    .next (if ringTakes s.chip g then onChip hostShow (ringStore (onChip (segTaken g) s) g) else onChip (segTaken g) s) := by
  show execRingEntry s = _
  unfold execRingEntry
  rw [h]
  rfl

theorem exec_ringEntry_none (h : (s.chip.toOut.find? fun g => privSlots s.chip g == []) = none) : exec .ringEntry s = .next s := by
  show execRingEntry s = _
  unfold execRingEntry
  rw [h]

theorem exec_ringEntry_dropped (h : (s.chip.toOut.find? fun g => privSlots s.chip g == []) = some g)
    (ht : ringTakes s.chip g = false) : exec .ringEntry s = .next (onChip (segTaken g) s) :=
  (exec_ringEntry h).trans (congrArg Host.Outcome.next (if_neg (ne_true_of_eq_false ht)))

theorem exec_ringEntry_taken (h : (s.chip.toOut.find? fun g => privSlots s.chip g == []) = some g)
    (ht : ringTakes s.chip g = true) : exec .ringEntry s = .next (onChip hostShow (ringStore (onChip (segTaken g) s) g)) :=
  (exec_ringEntry h).trans (congrArg Host.Outcome.next (if_pos ht))

/-- An entry ends at the ring's end or before it. -/
def EntryFits (x : Chip) (g : Seg) : Prop := fget x F.HOST_RING_WR_wr + (ringEntry x g).length ≤ ringSize x

/-- An entry that the ring has no room for is discarded. -/
theorem ringStore_discards (hfit : EntryFits s.chip g)
    (hfull : ringSize s.chip < ringHeld s.chip + (ringEntry s.chip g).length + 4) :
    ringStore s g = onChip (fun y => ringDiscard y g.id) s := by
  unfold ringStore
  simp only [if_neg (Nat.not_lt.2 hfit), Nat.add_zero]
  exact if_pos hfull

/-- Where an entry that fits is stored. -/
def entryStored (s : State) (g : Seg) : State :=
  { s with
    chip := fset { s.chip with host := { s.chip.host with owed := s.chip.host.owed.filter (· ≠ g.id) } } F.HOST_RING_WR_wr
      ((fget s.chip F.HOST_RING_WR_wr + (ringEntry s.chip g).length) % ringSize s.chip)
    mem := { s.mem with cmem := putBytes zeroByte s.mem.cmem (ringBase s.chip + fget s.chip F.HOST_RING_WR_wr) (ringEntry s.chip g) } }

theorem ringStore_stores (hfit : EntryFits s.chip g)
    (hroom : ringHeld s.chip + (ringEntry s.chip g).length + 4 ≤ ringSize s.chip) : ringStore s g = entryStored s g := by
  unfold ringStore
  simp only [if_neg (Nat.not_lt.2 hfit), Nat.add_zero, if_true]
  exact if_neg (Nat.not_lt.2 hroom)

/-- An entry stored stands at the write index, which moves past it; other bytes of carriage memory stay. -/
theorem entryStored_effect (s : State) (g : Seg) :
    let a := ringBase s.chip + fget s.chip F.HOST_RING_WR_wr
    let e := ringEntry s.chip g
    let t := onChip hostShow (entryStored s g)
    bytesAt zeroByte t.mem.cmem a e.length = e ∧ t.chip.toOut = s.chip.toOut ∧
    fget t.chip F.HOST_RING_WR_wr = (fget s.chip F.HOST_RING_WR_wr + e.length) % ringSize s.chip % 2 ^ 22 ∧
    ∀ b, b < a ∨ a + e.length ≤ b → smGet zeroByte t.mem.cmem b = smGet zeroByte s.mem.cmem b := by
  refine ⟨bytesAt_putBytes .., rfl, ?_, fun b hb => smGet_putBytes_out _ _ _ _ _ hb⟩
  exact (congrArg (getBits · 0 22) ((onlyRegs_hostShow (entryStored s g).chip).2 R.HOST_RING_WR (by decide))).trans
    (fget_fset_same _ _ _ (by decide))

theorem entryFits_segTaken (h : EntryFits x g) : EntryFits (segTaken g x) g := h

theorem exec_ringEntry_discards (h : (s.chip.toOut.find? fun g => privSlots s.chip g == []) = some g)
    (ht : ringTakes s.chip g = true) (hfit : EntryFits s.chip g)
    (hfull : ringSize s.chip < ringHeld s.chip + (ringEntry s.chip g).length + 4) :
    exec .ringEntry s = .next (onChip (fun x => hostShow (ringDiscard (segTaken g x) g.id)) s) := by
  rw [exec_ringEntry_taken h ht, ringStore_discards (s := onChip (segTaken g) s) (entryFits_segTaken hfit) hfull]
  rfl

theorem exec_ringEntry_stores (h : (s.chip.toOut.find? fun g => privSlots s.chip g == []) = some g)
    (ht : ringTakes s.chip g = true) (hfit : EntryFits s.chip g)
    (hroom : ringHeld s.chip + (ringEntry s.chip g).length + 4 ≤ ringSize s.chip) :
    exec .ringEntry s = .next (onChip hostShow (entryStored (onChip (segTaken g) s) g)) := by
  rw [exec_ringEntry_taken h ht, ringStore_stores (s := onChip (segTaken g) s) (entryFits_segTaken hfit) hroom]

/-! A word of a privileged buffer (R299). -/

/-- Steps that keep a property while they are below their number keep it. -/
theorem upTo_keeps_below {α : Type} {P : α → Prop} {n : Nat} {f : Nat → α → α} (h : ∀ i, i < n → ∀ a, P a → P (f i a)) {a : α}
    (ha : P a) : P (upTo n f a) :=
  List.foldlRecOn (motive := P) _ _ ha fun b hb i hi => h i (List.mem_range.1 hi) b hb

theorem length_wordAs_le {w : List Byte} (r : PrivRt) (hw : w.length ≤ 4) : (wordAs r.pack4 w).length ≤ r.width := by
  unfold wordAs PrivRt.width
  split
  · exact hw
  · rw [List.length_drop]
    omega

/-- A byte outside privileged buffer r. -/
def OutPriv (r : PrivRt) (a : Nat) : Prop := 0 < r.len ∧ (a < r.base ∨ r.base + r.bytes ≤ a)

/-- The place of frame f of channel k ends inside the buffer. -/
theorem privPlace_le {r : PrivRt} {k f : Nat} (hk : k < r.ch) (hlen : 0 < r.len) :
    k * r.len * r.width + f % r.len * r.width + r.width ≤ r.ch * r.len * r.width :=
  calc k * r.len * r.width + f % r.len * r.width + r.width = k * r.len * r.width + (f % r.len + 1) * r.width := by ring
    _ ≤ k * r.len * r.width + r.len * r.width :=
      Nat.add_le_add_left (Nat.mul_le_mul_right _ (Nat.mod_lt f hlen)) _
    _ = (k + 1) * r.len * r.width := by ring
    _ ≤ r.ch * r.len * r.width := Nat.mul_le_mul_right _ (Nat.mul_le_mul_right _ hk)

/-- A word stored in a privileged buffer leaves what lies outside it. -/
theorem privPut_out {r : PrivRt} {a k f : Nat} {w : List Byte} (m : SMap Byte) (ha : OutPriv r a) (hk : k < r.ch) (hw : w.length ≤ 4) :
    smGet zeroByte (privPut r m k f w) a = smGet zeroByte m a := by
  obtain ⟨hlen, hout⟩ := ha
  have hend := privPlace_le (f := f) hk hlen
  have hword := length_wordAs_le r hw
  rw [PrivRt.bytes] at hout
  exact smGet_putBytes_out _ _ _ _ _ (by omega)

theorem privFill_out {r : PrivRt} {a : Nat} (chs frames : Nat) (payload : List Byte) (m : SMap Byte) (ha : OutPriv r a) :
    smGet zeroByte (privFill r chs frames payload m) a = smGet zeroByte m a :=
  upTo_keeps_below (P := fun b => smGet zeroByte b a = smGet zeroByte m a) (fun _ _ _ hb =>
    upTo_keeps_below (P := fun b => smGet zeroByte b a = smGet zeroByte m a) (fun _ hk b hb =>
      (privPut_out b ha (Nat.lt_of_lt_of_le hk (Nat.min_le_right ..)) (List.length_take_le ..)).trans hb) hb) rfl

theorem length_privHeader (r : PrivRt) (n : Nat) (g : Seg) : (privHeader r n g).length = 64 := by
  simp only [privHeader, b1, b4, List.length_append, length_le, List.length_replicate]

/-! A segment in a privileged buffer (R299). -/

/-- What privileged slot i holds after a segment of n frames. -/
def slotFilled (r : PrivRt) (n : Nat) : PrivRt := { r with total := (r.total + n) % 2 ^ 32, unread := min (r.unread + n) r.len }

/-- The overflow of privileged slot i counted, flagged and told. -/
def privLost (x : Chip) (i c : Nat) : Chip :=
  raise (fset (count x R.HOST_OVF_COUNT F.HOST_STATUS_ovf_wrap 1) F.HOST_STATUS_priv_ovf 1) srcHost 0x03 (b1 i ++ b1 c)

/-- The chip that a segment stored in privileged slot i leaves, before the host's interrupt follows. -/
def slotStored (g : Seg) (x : Chip) (i : Nat) : Chip :=
  let y := setPriv x i (slotFilled (privOf x i) (segFrames x g))
  if (privOf x i).len < (privOf x i).unread + segFrames x g then privLost y i g.id else y

/-- The carriage memory that a segment stored in privileged slot i leaves. -/
def slotMem (g : Seg) (s : State) (i : Nat) : SMap Byte :=
  let x := s.chip
  let r := privOf x i
  let n := segFrames x g
  let chs := if g.type = tIq then 2 else max 1 (fget x (F.CARR_CFG_ch g.id))
  putBytes zeroByte (privFill r chs n g.payload s.mem.cmem) r.base (privHeader r n g)

theorem privStore_eq (g : Seg) (s : State) (i : Nat) : privStore g s i = if segFrames s.chip g = 0 then s
    else { s with chip := hostShow (slotStored g s.chip i), mem := { s.mem with cmem := slotMem g s i } } := rfl

theorem slotMem_out {a i : Nat} (ha : OutPriv (privOf s.chip i) a) :
    smGet zeroByte (slotMem g s i) a = smGet zeroByte s.mem.cmem a := by
  refine (smGet_putBytes_out _ _ _ _ _ ?_).trans (privFill_out _ _ _ _ ha)
  rw [length_privHeader]
  have hout := ha.2
  rw [PrivRt.bytes] at hout
  omega

/-- Segments stored in privileged buffers: registers below the carriages', log, what slots hold and carriage memory change alone, and
of a slot neither its settings nor its channels. -/
structure PrivWork (s t : State) : Prop where
  chip : t.chip = { s.chip with regs := t.chip.regs, lg := t.chip.lg, privs := t.chip.privs }
  mem : t.mem = { s.mem with cmem := t.mem.cmem }
  pending : t.pending = s.pending
  regs : ∀ b, 0x4000 ≤ b → rd t.chip b = rd s.chip b
  slots : ∀ j, (privOf t.chip j).cfg = (privOf s.chip j).cfg ∧ (privOf t.chip j).ch = (privOf s.chip j).ch

namespace PrivWork

theorem refl (s : State) : PrivWork s s := ⟨rfl, rfl, rfl, fun _ _ => rfl, fun _ => ⟨rfl, rfl⟩⟩

theorem trans (h1 : PrivWork s t) (h2 : PrivWork t u) : PrivWork s u := by
  refine ⟨h2.chip.trans ?_, h2.mem.trans ?_, h2.pending.trans h1.pending, fun b hb => (h2.regs b hb).trans (h1.regs b hb),
    fun j => ⟨(h2.slots j).1.trans (h1.slots j).1, (h2.slots j).2.trans (h1.slots j).2⟩⟩
  · rw [h1.chip]
  · rw [h1.mem]

/-- A byte outside a slot's buffer stays outside it. -/
theorem outPriv {a i : Nat} (h : PrivWork s t) (ha : OutPriv (privOf s.chip i) a) : OutPriv (privOf t.chip i) a := by
  obtain ⟨hcfg, hch⟩ := h.slots i
  have hpack : (privOf t.chip i).pack4 = (privOf s.chip i).pack4 := congrArg (getBits · 30 1 == 1) hcfg
  have hlen : (privOf t.chip i).len = (privOf s.chip i).len := congrArg (getBits · 16 4 * 1024) hcfg
  have hbase : (privOf t.chip i).base = (privOf s.chip i).base := congrArg (getBits · 8 8 * 16384) hcfg
  simpa only [OutPriv, PrivRt.bytes, PrivRt.width, hpack, hlen, hbase, hch] using ha

theorem segFrames (h : PrivWork s t) (g : Seg) : segFrames t.chip g = segFrames s.chip g := by
  have hch : fget t.chip (F.CARR_CFG_ch g.id) = fget s.chip (F.CARR_CFG_ch g.id) :=
    congrArg (getBits · 14 6) (h.regs _ (Nat.le_add_right ..))
  simp only [Machine.segFrames, hch]

end PrivWork

theorem onlyRegsLog_trans {l : List Nat} {x y z : Chip} (h1 : OnlyRegsLog l x y) (h2 : OnlyRegsLog l y z) : OnlyRegsLog l x z := by
  refine ⟨h2.1.trans ?_, fun b hb hl => (h2.2 b hb hl).trans (h1.2 b hb hl)⟩
  rw [h1.1]

theorem privOf_setPriv (x : Chip) (i j : Nat) (r : PrivRt) : privOf (setPriv x i r) j = if j = i then r else privOf x j :=
  smGet_smPut ..

/-- The registers that a segment stored in a privileged buffer writes, beside those of the log. -/
def overflowRegs : List Nat := [R.HOST_OVF_COUNT, R.HOST_STATUS, R.MGMT_INT_CAUSE]

/-- An overflow told changes the host's registers and the log. -/
theorem privLost_only (x : Chip) (i c : Nat) : OnlyRegsLog overflowRegs x (privLost x i c) :=
  onlyRegs_then_log (onlyRegs_trans (onlyRegs_count x 1 (by decide) (by decide)) (onlyRegs_fset _ _ (by decide)))
    (onlyRegsLog_raise ..)

/-- What a segment leaves of the chip beside its slot: the host's registers, those of the log, and the log. -/
theorem slotStored_only (g : Seg) (x : Chip) (i : Nat) :
    OnlyRegsLog overflowRegs (setPriv x i (slotFilled (privOf x i) (segFrames x g))) (hostShow (slotStored g x i)) := by
  have hshow : ∀ y, OnlyRegsLog overflowRegs y (hostShow y) := fun y => onlyRegsLog_of_onlyRegs (onlyRegs_fset y _ (by decide))
  unfold slotStored
  dsimp only
  split
  · exact onlyRegsLog_trans (privLost_only ..) (hshow _)
  · exact hshow _

theorem slotStored_rest (g : Seg) (x : Chip) (i : Nat) : hostShow (slotStored g x i) = { x with
    regs := (hostShow (slotStored g x i)).regs
    lg := (hostShow (slotStored g x i)).lg
    privs := (hostShow (slotStored g x i)).privs } := by
  have hrest := (slotStored_only g x i).1
  generalize hostShow (slotStored g x i) = y at hrest ⊢
  rw [hrest]
  rfl

theorem privStore_none {i : Nat} (h : segFrames s.chip g = 0) : privStore g s i = s := by rw [privStore_eq, if_pos h]

theorem privStore_chip (i : Nat) (h : segFrames s.chip g ≠ 0) : (privStore g s i).chip = hostShow (slotStored g s.chip i) := by
  rw [privStore_eq, if_neg h]

theorem privStore_mem (i : Nat) (h : segFrames s.chip g ≠ 0) : (privStore g s i).mem = { s.mem with cmem := slotMem g s i } := by
  rw [privStore_eq, if_neg h]

theorem privStore_cmem (i : Nat) (h : segFrames s.chip g ≠ 0) : (privStore g s i).mem.cmem = slotMem g s i := by
  rw [privStore_mem i h]

/-- A segment fills its own slot and no other. -/
theorem privOf_privStore (g : Seg) (s : State) (i j : Nat) (hn : segFrames s.chip g ≠ 0) :
    privOf (privStore g s i).chip j = if j = i then slotFilled (privOf s.chip i) (segFrames s.chip g) else privOf s.chip j := by
  rw [privStore_chip i hn, privOf, (slotStored_only g s.chip i).1]
  exact privOf_setPriv ..

theorem privStore_work (g : Seg) (s : State) (i : Nat) : PrivWork s (privStore g s i) := by
  by_cases hn : segFrames s.chip g = 0
  · rw [privStore_none hn]
    exact .refl s
  · refine ⟨?_, by rw [privStore_mem i hn], privStore_pending g s i, fun b hb => ?_, fun j => ?_⟩
    · rw [privStore_chip i hn]
      exact slotStored_rest g s.chip i
    · rw [privStore_chip i hn]
      refine (slotStored_only g s.chip i).2 b ?_ ?_
      · simp only [overflowRegs, List.mem_cons, List.not_mem_nil, or_false, R.HOST_OVF_COUNT, R.HOST_STATUS, R.MGMT_INT_CAUSE]
        omega
      · simp only [logRegs, List.mem_cons, List.not_mem_nil, or_false, R.MGMT_LOG_WR, R.MGMT_LOG_LOST, R.MGMT_FAULT_STATUS,
          R.MGMT_INT_CAUSE]
        omega
    · rw [privOf_privStore g s i j hn]
      split
      next h => exact h ▸ ⟨rfl, rfl⟩
      next => exact ⟨rfl, rfl⟩

/-- No byte outside the buffer changes. -/
theorem privStore_out {a i : Nat} (ha : OutPriv (privOf s.chip i) a) :
    smGet zeroByte (privStore g s i).mem.cmem a = smGet zeroByte s.mem.cmem a := by
  by_cases hn : segFrames s.chip g = 0
  · rw [privStore_none hn]
  · rw [privStore_cmem i hn]
    exact slotMem_out ha

/-! PRIV_WRITE (R299). -/

theorem exec_privWrite (h : (s.chip.toOut.find? fun g => privSlots s.chip g != []) = some g) : exec .privWrite s =
    .next ((privSlots s.chip g).foldl (privStore g) (onChip (segTaken g) s)) := by
  show execPrivWrite s = _
  unfold execPrivWrite
  rw [h]
  rfl

theorem exec_privWrite_none (h : (s.chip.toOut.find? fun g => privSlots s.chip g != []) = none) : exec .privWrite s = .next s := by
  show execPrivWrite s = _
  unfold execPrivWrite
  rw [h]

/-- A segment stored in each of some slots: a byte outside all their buffers stays. -/
theorem foldl_privStore_out {a : Nat} (l : List Nat) (ha : ∀ i ∈ l, OutPriv (privOf s.chip i) a) :
    PrivWork s (l.foldl (privStore g) s) ∧ smGet zeroByte (l.foldl (privStore g) s).mem.cmem a = smGet zeroByte s.mem.cmem a :=
  List.foldlRecOn (motive := fun t => PrivWork s t ∧ smGet zeroByte t.mem.cmem a = smGet zeroByte s.mem.cmem a) l _
    ⟨.refl s, rfl⟩ fun t ⟨hwork, hmem⟩ i hi =>
      ⟨hwork.trans (privStore_work g t i), (privStore_out (hwork.outPriv (ha i hi))).trans hmem⟩

theorem foldl_privStore_work (g : Seg) (l : List Nat) (s : State) : PrivWork s (l.foldl (privStore g) s) :=
  List.foldlRecOn (motive := PrivWork s) l _ (.refl s) fun t ht i _ => ht.trans (privStore_work g t i)

/-- Each slot's frames are counted once, beside the number of frames that the segment holds. -/
theorem foldl_privStore_total {i : Nat} {l : List Nat} (hl : l.Nodup) (hi : i ∈ l) (s : State) (hn : 0 < segFrames s.chip g) :
    (privOf (l.foldl (privStore g) s).chip i).total = ((privOf s.chip i).total + segFrames s.chip g) % 2 ^ 32 := by
  have hown := foldl_own (f := privStore g) (view := fun j t => (segFrames t.chip g, (privOf t.chip j).total))
    (up := fun _ r => if r.1 = 0 then r else (r.1, (r.2 + r.1) % 2 ^ 32)) (l := l) (p := i) ?own ?apart hl hi s
  case own =>
    intro t j _
    rw [(privStore_work g t j).segFrames]
    by_cases h0 : segFrames t.chip g = 0
    · rw [if_pos h0, privStore_none h0]
    · rw [if_neg h0, privOf_privStore g t j j h0, if_pos rfl]
      rfl
  case apart =>
    intro t j _ k _ hne
    rw [(privStore_work g t j).segFrames]
    by_cases h0 : segFrames t.chip g = 0
    · rw [privStore_none h0]
    · rw [privOf_privStore g t j k h0, if_neg hne]
  rw [if_neg (Nat.pos_iff_ne_zero.1 hn)] at hown
  exact congrArg Prod.snd hown

/-- What a segment stored in the slots that take it leaves. -/
theorem privWrite_effect (g : Seg) (s : State) :
    let left := onChip (segTaken g) s
    let t := (privSlots s.chip g).foldl (privStore g) left
    t.chip.toOut = s.chip.toOut.erase g ∧ t.mem = { s.mem with cmem := t.mem.cmem } ∧ t.pending = s.pending ∧
    (∀ i ∈ privSlots s.chip g, 0 < segFrames s.chip g →
      (privOf t.chip i).total = ((privOf s.chip i).total + segFrames s.chip g) % 2 ^ 32) ∧
    ∀ a, (∀ i ∈ privSlots s.chip g, OutPriv (privOf s.chip i) a) → smGet zeroByte t.mem.cmem a = smGet zeroByte s.mem.cmem a := by
  intro left t
  have hwork : PrivWork left t := foldl_privStore_work g _ left
  have hout : t.chip.toOut = left.chip.toOut := by rw [hwork.chip]
  exact ⟨hout, hwork.mem, hwork.pending, fun i hi hn => foldl_privStore_total (List.nodup_range.filter _) hi left hn,
    fun a ha => (foldl_privStore_out (g := g) (s := left) _ ha).2⟩

/-! The statement. -/

/-- Settles O55: settings and map written, ports that follow, the sync edge, carriages that fail, fade and play again, slips, entries
muted, contention, the ring's reader, entries of the ring, and privileged buffers. -/
theorem portsAndCarriageMemory : Obligations.PortsAndCarriageMemory := by
  unfold Obligations.PortsAndCarriageMemory
  refine ⟨fun p v s hp hm hc => ⟨fun h => ?still, fun h => ?moved⟩, fun p v s hp hm => ?cfg,
    fun x p hp hd h3 => ⟨portState_portEval_off hp hd h3, fun ha h0 => portState_portEval_start hp hd h0 ha⟩,
    fun p e v s hp he hm => ⟨fun h => ?same, fun hne hd => ?map, ?flds⟩, fun p e v o s hm => ?down,
    fun s => ⟨_, exec_syncInEdge s, chipOnly_onChip _ s, fun p hp => portState_syncInEdge s.chip hp⟩,
    fun x c => ⟨overrunNow_iff x c, underrunNow_iff x c⟩, fun c s hi => ?fails, fun c n x p hp => ?steps, fun c s hi => ?idle,
    fun c s => ⟨exec_underrun_none, exec_overrun_none, exec_slip_none⟩, fun c s => ⟨fun off hf hover hoff => ?resume, exec_resume_none⟩,
    fun p c s hp h1 h2 h3 => ?slip, fun p e s hp he => ⟨fun h hm => exec_nonpcm hp he h.1 h.2 hm, exec_nonpcm_none, fun hm => ?release,
      exec_nonpcmRelease_none⟩, fun p fsync s hp => ⟨fun h => ?contend, fun h => exec_contend_idle h fsync⟩,
    fun o v s hm => ?reader, fun g s hfind => ?ring, fun s => ⟨exec_ringEntry_none, exec_privWrite_none, fun g => exec_privWrite,
      fun g h => ⟨_, exec_privWrite h, privWrite_effect g s⟩⟩,
    fun g s i a => ⟨(privStore_work g s i).mem, fun hlen ha => privStore_out ⟨hlen, ha⟩⟩⟩
  case still =>
    refine exec_does (exec_aportCfgWrite hp hm v) ?_
    rw [aportCfg_eq, cfgMoved, cfgWord_free hc, if_neg h]
  case moved =>
    refine exec_does (exec_aportCfgWrite hp hm v) ?_
    rw [aportCfg_eq, cfgMoved, cfgWord_free hc, if_pos h]
  case cfg =>
    exact ⟨_, exec_aportCfgWrite hp hm v, chipOnly_onChip _ s, rd_aportCfg s.chip hp v, portState_aportCfg_off hp,
      portState_aportCfg_start hp⟩
  case same => exact exec_does (exec_aportMapWrite hp he hm v) (if_pos h)
  case map =>
    refine exec_does (exec_aportMapWrite hp he hm v) (if_neg ?_)
    exact not_or.2 ⟨hne, ne_false_of_eq_true hd⟩
  case flds =>
    refine ⟨_, exec_aportMapWrite hp he hm v, chipOnly_onChip _ s, ?_⟩
    have hkeep : ∀ lo width, lo + width ≤ 32 → lo + width ≤ 30 ∨ 31 ≤ lo → fget (aportMap s.chip p e v) ⟨R.APORT_MAP p e, lo, width⟩ =
        fget (mapWritten s.chip p e v) ⟨R.APORT_MAP p e, lo, width⟩ := fun lo width =>
      fget_aportMap (f := ⟨R.APORT_MAP p e, lo, width⟩) s.chip v hp he rfl
    simp only [List.forall_mem_cons, List.not_mem_nil, false_imp_iff, implies_true, and_true]
    exact ⟨hkeep 31 1 (by decide) (by decide), hkeep 24 5 (by decide) (by decide), hkeep 16 6 (by decide) (by decide),
      hkeep 8 5 (by decide) (by decide), hkeep 0 8 (by decide) (by decide)⟩
  case down =>
    have hno : ¬mgmtUp s.chip = true := ne_true_of_eq_false hm
    exact ⟨congrArg Host.Outcome.next (if_neg fun h => hno h.1), congrArg Host.Outcome.next (if_neg fun h => hno h.1),
      congrArg Host.Outcome.next (if_neg hno)⟩
  case fails =>
    exact ⟨fun h => ⟨_, exec_underrun h hi, ⟨chipOnly_onChip _ s, carrFails_faded _ c s.chip⟩,
        fun p => carrFails_told (failStep_portUnder c _)⟩,
      fun h => ⟨_, exec_overrun h hi, ⟨chipOnly_onChip _ s, carrFails_faded _ c s.chip⟩,
        fun p => carrFails_told (failStep_portOver c _)⟩⟩
  case steps =>
    have hunder := failView_own (failStep_portUnder c n) x hp
    have hover := failView_own (failStep_portOver c n) x hp
    simp only [failView, Prod.mk.injEq] at hunder hover
    obtain ⟨huflag, hucount, huseq⟩ := hunder
    obtain ⟨hoflag, hocount, hoseq⟩ := hover
    exact ⟨hucount, huflag, hocount, hoflag, huseq, hoseq⟩
  case idle =>
    exact ⟨fun h => ⟨_, exec_underrun_idleHead h hi, chipOnly_onChip _ s, playRefresh_effect ((underrunNow_iff _ _).1 h).1⟩,
      fun h => ⟨_, exec_overrun_idleHead h hi, chipOnly_onChip _ s, playRefresh_effect ((overrunNow_iff _ _).1 h).1⟩⟩
  case resume =>
    exact ⟨_, exec_resume hf hover hoff, chipOnly_onChip _ s, playOf_setPlay_same .., fun p => nextSeq_resumed off⟩
  case slip => exact ⟨_, exec_slip hp h1 h2 h3, chipOnly_onChip _ s, portSlip_effect s.chip c hp⟩
  case release => exact ⟨_, exec_nonpcmRelease hp hm, chipOnly_onChip _ s, release_effect s.chip p e _⟩
  case contend => exact ⟨_, exec_contend hp h fsync, chipOnly_onChip _ s, contend_effect s.chip hp fsync.toNat⟩
  case reader =>
    have hexec := exec_hostRingRdWrite hm o v
    exact ⟨fun h => exec_does hexec (ringRd_moves h o), fun h ho => exec_does hexec ((ringRd_off h o).trans (if_pos ho)),
      fun h ho => exec_does (g := fun x => x) hexec ((ringRd_off h o).trans (if_neg ho))⟩
  case ring =>
    refine ⟨exec_ringEntry_dropped hfind, exec_ringEntry_taken hfind, exec_ringEntry_discards hfind,
      fun ht hfit hroom => ⟨_, exec_ringEntry_stores hfind ht hfit hroom, ?_⟩⟩
    obtain ⟨hbytes, hout, hwr, hmem⟩ := entryStored_effect (onChip (segTaken g) s) g
    exact ⟨hbytes, hout, hwr, rfl, hmem⟩

end Sys2Proof.Machine
end

section
/-! What every command keeps: the queue of waiting commands, and the canonical form of window, staging buffer, carriage memory and
flash. The relation, and the shared operations that meet it. -/
namespace Sys2Proof.Machine

/-- A state t that keeps what s has: the same commands wait, and memories in canonical form stay so. -/
def Keeps (s t : State) : Prop := (MemOk s → MemOk t) ∧ t.pending = s.pending

theorem Keeps.refl (s : State) : Keeps s s := ⟨id, rfl⟩

theorem Keeps.trans {s t u : State} (h1 : Keeps s t) (h2 : Keeps t u) : Keeps s u :=
  ⟨fun h => h2.1 (h1.1 h), h2.2.trans h1.2⟩

theorem Keeps.ite {s t u : State} (c : Prop) [Decidable c] (ht : Keeps s t) (hu : Keeps s u) : Keeps s (if c then t else u) := by
  split <;> assumption

/-- What a command does where a condition holds, doing nothing elsewhere. -/
theorem Keeps.when {s t : State} (c : Prop) [Decidable c] (ht : Keeps s t) : Keeps s (if c then t else s) := .ite c ht (.refl s)

theorem keeps_onChip (f : Chip → Chip) (s : State) : Keeps s (onChip f s) := ⟨id, rfl⟩

theorem keeps_chip (x : Chip) (s : State) : Keeps s { s with chip := x } := ⟨id, rfl⟩

/-- What changes the chip alone. -/
theorem Keeps.of_rest {s t : State} (hm : t.mem = s.mem) (hp : t.pending = s.pending) : Keeps s t :=
  ⟨fun h => by unfold MemOk; rw [hm]; exact h, hp⟩

theorem Keeps.onChip {s t : State} (f : Chip → Chip) (h : Keeps s t) : Keeps s (onChip f t) := h

/-- A fold of operations that each keep. -/
theorem Keeps.foldl {α : Type} {f : State → α → State} (hf : ∀ s a, Keeps s (f s a)) (l : List α) :
    ∀ s, Keeps s (l.foldl f s) := by
  induction l with
  | nil => exact .refl
  | cons a l ih => exact fun s => (hf s a).trans (ih _)

theorem keeps_putWin (s : State) (i : Nat) (l : List Byte) : Keeps s (putWin s i l) := ⟨memOk_putWin s i l, rfl⟩

theorem keeps_clearCarriage (s : State) : Keeps s (clearCarriage s) := ⟨memOk_clearCarriage s, rfl⟩

theorem keeps_coldReset (s : State) (kind cause : Nat) : Keeps s (coldReset s kind cause) := ⟨memOk_coldReset s kind cause, rfl⟩

theorem keeps_porReset (s : State) : Keeps s (porReset s) := ⟨memOk_porReset s, rfl⟩

theorem keeps_glideExit (s : State) (src : Nat) : Keeps s (glideExit s src) := keeps_coldReset _ 5 src

theorem keeps_ringStore (s : State) (g : Seg) : Keeps s (ringStore s g) := ⟨memOk_ringStore s g, ringStore_pending s g⟩

theorem keeps_privStore (g : Seg) (s : State) (i : Nat) : Keeps s (privStore g s i) := ⟨memOk_privStore g s i, privStore_pending g s i⟩

theorem keeps_wakeUp (s : State) (src byte : Nat) : Keeps s (wakeUp s src byte) :=
  .ite _ (.refl s) (.ite _ (keeps_glideExit _ src) (.when _ (keeps_onChip _ s)))

theorem keeps_wspGlide (s : State) : Keeps s (wspGlide s) := .when _ (keeps_wakeUp s 1 0)

theorem keeps_enterGlide (s : State) : Keeps s (enterGlide s) := by
  unfold enterGlide
  dsimp only
  split
  · exact (keeps_onChip _ s).trans (keeps_glideExit _ _)
  · exact keeps_onChip _ s

theorem keeps_reachState (s : State) (old new origin : Nat) : Keeps s (reachState s old new origin) :=
  .ite _ (keeps_chip _ s) (.ite _ (.ite _ ((keeps_chip _ s).trans (keeps_clearCarriage _)) (keeps_chip _ s))
    (.ite _ (keeps_chip _ s) (keeps_chip _ s)))

theorem keeps_writeWin (s : State) (i : Nat) (l : List Byte) : Keeps s (writeWin s i l) :=
  .ite _ (keeps_onChip _ s) (keeps_putWin s i l)

/-! Mailbox commands: they keep where their bodies do. -/

theorem keeps_mailbox (code : Nat) (o : Iface) {body : State → MRes} (s : State) (hb : ∀ t, Keeps t (body t).st) :
    Keeps s (mailbox code o body s) :=
  ⟨memOk_mailbox code o body s fun t => (hb t).1, mailbox_pending code o body s fun t => (hb t).2⟩

theorem keeps_mailboxFlash (code : Nat) (o : Iface) {body : State → MRes} (s : State) (hb : ∀ t, Keeps t (body t).st) :
    Keeps s (mailboxFlash code o body s) :=
  .ite _ (keeps_onChip _ s) (.ite _ (.refl s) (keeps_mailbox code o s hb))

theorem keeps_mailboxLong (code : Nat) (o : Iface) {body : State → State × Option (Nat × Nat)} (s : State)
    (hb : ∀ t, Keeps t (body t).1) : Keeps s (mailboxLong code o body s) := by
  refine .when _ (.ite _ (keeps_onChip _ s) ?_)
  dsimp only
  have h : Keeps s (match mboxGate s.chip code with
      | some st => (onChip (fun y => mboxIssue y o code) s, some (st, 0))
      | none => body (onChip (fun y => mboxIssue y o code) s)).1 := by
    split
    · exact keeps_onChip _ s
    · exact (keeps_onChip _ s).trans (hb _)
  split
  · exact h
  · exact h

/-- A body that looks at one condition after another. -/
theorem keeps_body_ite {s : State} (c : Prop) [Decidable c] {p q : MRes} (hp : Keeps s p.st) (hq : Keeps s q.st) :
    Keeps s (if c then p else q).st := by
  split <;> assumption

end Sys2Proof.Machine
end

section
/-! What the boot store's operations keep. -/
namespace Sys2Proof.Machine

/-- No entry of a map in canonical form holds what its key reads as when unlisted. -/
theorem ne_default_of_mem {α : Type} [DecidableEq α] (d : Nat → α) {m : SMap α} (h : smWf d m = true) :
    ∀ e ∈ m, e.2 ≠ d e.1 := by
  induction m with
  | nil => exact fun e he => (List.not_mem_nil he).elim
  | cons a m ih =>
    simp only [smWf, Bool.and_eq_true, decide_eq_true_eq] at h
    obtain ⟨⟨ha, -⟩, hm⟩ := h
    intro e he
    obtain rfl | he := List.mem_cons.1 he
    · exact ha
    · exact ih hm e he

/-- A sector moved to another keeps the canonical form: no byte moved reads as an erased one. -/
theorem smWf_sectorMove (m : SMap Byte) (src dst : Nat) (h : smWf erasedByte m = true) :
    smWf erasedByte (sectorMove m src dst) = true := by
  have hfold : ∀ (l : List (Nat × Byte)) (k : SMap Byte), (∀ e ∈ l, e.2 ≠ 0xFF) → smWf erasedByte k = true →
      smWf erasedByte (l.foldl (fun k e => smInsert (e.1 - src * sectorSize + dst * sectorSize) e.2 k) k) = true := by
    intro l
    induction l with
    | nil => exact fun k _ hk => hk
    | cons e l ih =>
      exact fun k hl hk => ih _ (fun e' he' => hl e' (List.mem_cons_of_mem _ he'))
        (smWf_insert erasedByte _ _ k (hl e List.mem_cons_self) hk)
  exact hfold _ _ (fun e he => ne_default_of_mem erasedByte h e (List.mem_of_mem_filter he)) (smWf_clearRange _ _ _ _ h)

theorem keeps_flashProg (s : State) (region off : Nat) (l : List Byte) : Keeps s (flashProg s region off l) :=
  ⟨memOk_flashProg s region off l, rfl⟩

theorem keeps_flashDo (s : State) (o : FlashOp) : Keeps s (flashDo s o) := ⟨memOk_flashDo s o, flashDo_pending s o⟩

theorem keeps_flashAll (s : State) (l : List FlashOp) : Keeps s (flashAll s l) := ⟨memOk_flashAll l s, flashAll_pending l s⟩

theorem keeps_flashTorn (s : State) (o : FlashOp) (torn : List Byte) : Keeps s (flashTorn s o torn) :=
  ⟨memOk_flashTorn s o torn, flashTorn_pending s o torn⟩

theorem keeps_sectorMoved (s : State) (src dst : Nat) : Keeps s (withFlash s (sectorMove s.mem.flash src dst)) :=
  ⟨fun h => memOk_withFlash s _ h (smWf_sectorMove _ src dst ((memOk_iff s).1 h).2.2.2), rfl⟩

theorem keeps_withStore (s : State) (f : StoreRt → StoreRt) : Keeps s (withStore s f) := keeps_onChip _ s

theorem keeps_storeShow (s : State) : Keeps s (storeShow s) := keeps_onChip _ s

theorem keeps_fwShow (s : State) : Keeps s (fwShow s) := .ite _ (.refl s) (keeps_onChip _ s)

theorem Keeps.withStore {s t : State} (f : StoreRt → StoreRt) (h : Keeps s t) : Keeps s (withStore t f) := h.onChip _

theorem Keeps.storeShow {s t : State} (h : Keeps s t) : Keeps s (storeShow t) := h.trans (keeps_storeShow t)

theorem Keeps.fwShow {s t : State} (h : Keeps s t) : Keeps s (fwShow t) := h.trans (keeps_fwShow t)

theorem keeps_beginJob (s : State) (j : Job) : Keeps s (beginJob s j) := .of_rest rfl rfl

theorem keeps_beginWrite (s : State) (code : Nat) (img : List Byte) : Keeps s (beginWrite s code img) := .of_rest rfl rfl

theorem keeps_beginMaint (s : State) : Keeps s (beginMaint s) := .of_rest rfl rfl

theorem keeps_anchorWrite (s : State) : Keeps s (anchorWrite s) := (keeps_flashAll s _).onChip _

theorem keeps_sectorFail {s t : State} {region off : Nat} (h : sectorFail s region off = some t) : Keeps s t := by
  unfold sectorFail at h
  split at h
  · cases h
  next n fromLog _ =>
    obtain rfl := Option.some.inj h
    have hshrunk : Keeps s (if fromLog then onChip logShrink s else s) := .when _ (keeps_onChip _ s)
    have hmoved := hshrunk.trans (keeps_sectorMoved _ (sectorAt s.chip region off) n)
    exact (((hmoved.onChip _).trans (keeps_anchorWrite _)).onChip _)

theorem keeps_flashRun (fails : List Nat) (l : List FlashOp) : ∀ (i : Nat) (s : State), Keeps s (flashRun fails i s l).1 := by
  induction l with
  | nil => exact fun _ => .refl
  | cons o l ih =>
    intro i s
    unfold flashRun
    split
    · split
      next s1 h => exact ((keeps_onChip _ s).trans (keeps_sectorFail h)).trans ((keeps_flashDo s1 o).trans (ih _ _))
      next => exact keeps_onChip _ s
    · exact (keeps_flashDo s o).trans (ih _ _)

theorem keeps_logDropSector (s : State) (k : Nat) : Keeps s (logDropSector s k) :=
  have hshrunk := keeps_onChip logShrink s
  .ite _ (hshrunk.trans (keeps_anchorWrite _)) (((hshrunk.trans (keeps_sectorMoved _ _ _)).onChip _).trans (keeps_anchorWrite _))

theorem keeps_eraseLog (fails : List Nat) (l : List FlashOp) : ∀ (i : Nat) (s : State), Keeps s (eraseLog fails i s l) := by
  induction l with
  | nil => exact fun _ => .refl
  | cons o l ih =>
    intro i s
    have hrun := keeps_flashRun fails [o] i s
    exact .ite _ (ih _ s) (Keeps.trans (.ite _ (hrun.trans (keeps_logDropSector _ _)) hrun) (ih _ _))

theorem keeps_jobEnd (s : State) (j : Job) (status : Nat) (worn : Option Nat) : Keeps s (jobEnd s j status worn) := by
  refine Keeps.trans ?_ (keeps_fwShow _)
  cases worn
  · exact .of_rest rfl rfl
  · exact .of_rest rfl rfl

theorem keeps_jobRun (s : State) (j : Job) (n : Nat) (c : CmdObs) : Keeps s (jobRun s j n c) := by
  refine Keeps.trans ?_ (keeps_jobEnd _ j _ _)
  by_cases hlog : j.region = 7
  · simp only [hlog, if_true]
    exact (keeps_onChip _ s).trans (keeps_eraseLog _ _ _ _)
  · simp only [hlog, if_false]
    exact (keeps_onChip _ s).trans (keeps_flashRun _ _ _ _)

theorem keeps_jobAdvance (s : State) (g n : Nat) : Keeps s (jobAdvance s g n) := by
  unfold jobAdvance
  split
  · exact (keeps_flashAll s _).trans (keeps_withStore _ _)
  · exact .refl s

theorem keeps_slotClear (s : State) (k bit : Nat) : Keeps s (slotClear s k bit) := keeps_flashProg s _ _ _

theorem keeps_logAppend (fails : List Nat) (e : Entry) (f : Nat) : ∀ (i : Nat) (s : State), Keeps s (logAppend fails e f i s).2 := by
  induction f with
  | zero => exact fun _ => .refl
  | succ f ih =>
    intro i s
    unfold logAppend
    split
    · exact .refl s
    · have hrun := keeps_flashRun fails ((logPlace s).2 ++ [⟨false, 7, (logPlace s).1, entryBytes e⟩]) i s
      dsimp only
      split
      · exact (hrun.trans (keeps_logDropSector _ _)).trans (ih _ _)
      · exact hrun

theorem keeps_logAppends (fails : List Nat) (l : List Entry) : ∀ (i : Nat) (s : State), Keeps s (logAppends fails l i s) := by
  induction l with
  | nil => exact fun _ => .refl
  | cons e l ih => exact fun i s => (keeps_logAppend fails e _ i s).trans (ih _ _)

theorem keeps_logMirror (c : CmdObs) (s : State) : Keeps s (logMirror c s) :=
  ((keeps_onChip _ s).trans (keeps_logAppends _ _ _ _)).onChip _

end Sys2Proof.Machine
end

section
/-! What mailbox commands keep, and the interfaces that write words and run them. -/
namespace Sys2Proof.Machine

/-! The bodies of mailbox commands. -/

theorem keeps_logRead (s : State) : Keeps s (logRead s).st :=
  keeps_body_ite _ (.refl s) (keeps_body_ite _ (keeps_chip _ s) ((keeps_putWin s _ _).trans (keeps_chip _ _)))

theorem keeps_faultInject (s : State) : Keeps s (faultInject s).st :=
  keeps_body_ite _ (.refl s) (keeps_body_ite _ (.refl s) (.refl s))

theorem keeps_storeRead (s : State) : Keeps s (storeRead s).st := keeps_body_ite _ (.refl s) (keeps_putWin s _ _)

theorem keeps_storeErase (s : State) : Keeps s (storeErase s).st :=
  keeps_body_ite _ (.refl s) <| keeps_body_ite _ (.refl s) <| keeps_body_ite _ (.refl s) <| keeps_body_ite _ (.refl s) <|
    keeps_beginJob s _

theorem keeps_programUser (s : State) (off : Nat) (l : List Byte) (c : CmdObs) : Keeps s (programUser s off l c).st :=
  ((keeps_onChip _ s).trans (keeps_flashRun _ _ _ _)).trans (keeps_storeShow _)

theorem keeps_storeProgram (c : CmdObs) (s : State) : Keeps s (storeProgram c s).st :=
  keeps_body_ite _ (.refl s) <| keeps_body_ite _ (.refl s) <| keeps_body_ite _ (.refl s) <| keeps_body_ite _ (.refl s) <|
    keeps_body_ite _ (.refl s) <| keeps_programUser s _ _ c

theorem keeps_storeCommit (s : State) : Keeps s (storeCommit s).st := by
  unfold storeCommit
  split
  · exact .refl s
  · exact keeps_body_ite _ (.refl s) (keeps_beginWrite s _ _)

/-- A body that answers one of two states with the same commands waiting. -/
theorem ite_pending_st (c : Prop) [Decidable c] {p q : MRes} {l : List Instr} (hp : p.st.pending = l) (hq : q.st.pending = l) :
    (if c then p else q).st.pending = l := by
  split <;> assumption

theorem keeps_configStage (s : State) : Keeps s (configStage s).st :=
  ⟨memOk_configStage s, ite_pending_st _ rfl rfl⟩

theorem keeps_configInstall (s : State) : Keeps s (configInstall s).st := by
  unfold configInstall
  split
  · exact .refl s
  · dsimp only
    split
    · exact keeps_onChip _ s
    · exact keeps_beginWrite s _ _

theorem keeps_storeAbort (s : State) : Keeps s (storeAbort s).st :=
  keeps_body_ite _ (.refl s) <| keeps_body_ite _ (keeps_chip _ s) <| keeps_body_ite _ (keeps_chip _ s) <| .refl s

theorem keeps_updateBegin (s : State) : Keeps s (updateBegin s).st :=
  keeps_body_ite _ (.refl s) <| keeps_body_ite _ (.refl s) <| keeps_body_ite _ (.refl s) <| keeps_body_ite _ (.refl s) <|
    (((keeps_withStore s _).trans (keeps_beginJob _ _)).trans (keeps_fwShow _)).onChip _

theorem keeps_updateProgram (s : State) (k off : Nat) (l : List Byte) (c : CmdObs) : Keeps s (updateProgram s k off l c).st := by
  have hrun := (keeps_onChip (fun x => storeViols x c.viols) s).trans (keeps_flashRun c.fails (spanOps (2 + k) l.length off l) 0 _)
  unfold updateProgram
  dsimp only
  split
  · exact hrun
  · exact hrun

theorem keeps_updateData (c : CmdObs) (s : State) : Keeps s (updateData c s).st := by
  have h0 := keeps_jobAdvance s 1 c.erased
  unfold updateData
  dsimp only
  split
  · exact h0
  · exact keeps_body_ite _ h0 <| keeps_body_ite _ h0 <| keeps_body_ite _ h0 <| h0.trans (keeps_updateProgram _ _ _ _ _)

theorem keeps_updateFinish (s : State) : Keeps s (updateFinish s).st := by
  unfold updateFinish
  split
  · exact .refl s
  · refine keeps_body_ite _ (.refl s) ?_
    dsimp only
    split
    · exact keeps_withStore s _
    · exact keeps_body_ite _ (keeps_withStore s _) (.fwShow (.trans (keeps_onChip _ s) (keeps_slotClear _ _ _)))

theorem keeps_updateActivate (s : State) : Keeps s (updateActivate s).st :=
  keeps_body_ite _ (.refl s) ((keeps_slotClear s _ _).trans (keeps_fwShow _))

theorem keeps_updateConfirm (c : CmdObs) (s : State) : Keeps s (updateConfirm c s).st := by
  have h2 : Keeps s (onChip (fun x => fset x F.STORE_FW_trial 0)
      (slotClear (slotClear s (runSlot s.chip) fwConfirmed) (1 - runSlot s.chip) fwRetired)) :=
    (keeps_slotClear s _ _).trans (keeps_slotClear _ _ _)
  exact keeps_body_ite _ (.refl s) <| keeps_body_ite _ (.fwShow (h2.trans (.of_rest rfl rfl))) (.fwShow h2)

theorem keeps_fuseProgram (c : CmdObs) (s : State) : Keeps s (fuseProgram c s).st :=
  keeps_body_ite _ (.refl s) <| keeps_body_ite _ (.refl s) <| keeps_body_ite _ (.refl s) <| keeps_body_ite _ (.refl s) <|
    keeps_body_ite _ (.refl s) <| keeps_body_ite _ (.refl s) <| .of_rest rfl rfl

theorem keeps_bistLane (s : State) : Keeps s (bistLane s).st :=
  keeps_body_ite _ (.refl s) <| keeps_body_ite _ (.refl s) <| keeps_body_ite _ (.refl s) <| keeps_chip _ s

theorem keeps_bistUnits (code units : Nat) (s : State) : Keeps s (bistUnits code units s).st :=
  keeps_body_ite _ (.refl s) <| keeps_body_ite _ (.refl s) <| keeps_body_ite _ (.refl s) <| keeps_chip _ s

theorem keeps_bistRetest (s : State) : Keeps s (bistRetest s).st :=
  keeps_body_ite _ (.refl s) <| keeps_body_ite _ (.refl s) <| keeps_body_ite _ (.refl s) <| keeps_chip _ s

theorem keeps_followSet (s : State) : Keeps s (followSet s).st := by
  refine keeps_body_ite _ (.refl s) (keeps_body_ite _ (.refl s) ?_)
  dsimp only
  split
  · exact keeps_chip _ s
  · exact keeps_chip _ s

theorem keeps_followClear (s : State) : Keeps s (followClear s).st := by
  unfold followClear
  dsimp only
  split
  · exact .refl s
  · split
    · exact keeps_chip _ s
    · exact keeps_chip _ s

theorem keeps_followAdd (s : State) : Keeps s (followAdd s).st := by
  unfold followAdd
  dsimp only
  split
  · exact .refl s
  · exact keeps_body_ite _ (.refl s) <| keeps_body_ite _ (.refl s) <| keeps_chip _ s

theorem keeps_followForce (s : State) : Keeps s (followForce s).st := by
  unfold followForce
  dsimp only
  split
  · exact .refl s
  · split
    · exact keeps_body_ite _ (.refl s) <| keeps_body_ite _ (keeps_chip _ s) <| keeps_body_ite _ (keeps_chip _ s) <| keeps_chip _ s
    · exact .refl s

end Sys2Proof.Machine
end

section
/-! What each mailbox command keeps, and what the interfaces' writes and the control path keep. -/
namespace Sys2Proof.Machine

/-- A command that completes with a state that keeps what the state before has. -/
def Completes (s : State) (a : Outc) : Prop := ∃ t, a = .next t ∧ Keeps s t

theorem Completes.landed {s : State} {a : Outc} (h : Completes s a) : Keeps s (landed s a) := by
  obtain ⟨t, rfl, ht⟩ := h
  exact ht

theorem completes_mailbox (code : Nat) (o : Iface) {body : State → MRes} (s : State) (hb : ∀ t, Keeps t (body t).st) :
    Completes s (.next (mailbox code o body s)) := ⟨_, rfl, keeps_mailbox code o s hb⟩

theorem completes_nop (o : Iface) (s : State) : Completes s (execNop o s) := completes_mailbox _ o s .refl

theorem completes_getInfo (o : Iface) (s : State) : Completes s (execGetInfo o s) :=
  completes_mailbox _ o s fun t => keeps_putWin t _ _

theorem completes_logRead (o : Iface) (s : State) : Completes s (execLogRead o s) := completes_mailbox _ o s keeps_logRead

theorem completes_timeSet (o : Iface) (s : State) : Completes s (execTimeSet o s) := completes_mailbox _ o s fun _ => .of_rest rfl rfl

theorem completes_timeGet (o : Iface) (s : State) : Completes s (execTimeGet o s) := completes_mailbox _ o s fun _ => .of_rest rfl rfl

theorem completes_crumbRead (o : Iface) (s : State) : Completes s (execCrumbRead o s) := by
  refine completes_mailbox _ o s fun t => ?_
  split
  · exact keeps_putWin t _ _
  · exact .refl t

theorem completes_crumbClear (o : Iface) (s : State) : Completes s (execCrumbClear o s) := completes_mailbox _ o s fun _ => .of_rest rfl rfl

theorem completes_dumpInfo (o : Iface) (s : State) : Completes s (execDumpInfo o s) :=
  completes_mailbox _ o s fun t => keeps_body_ite _ (keeps_putWin t _ _) (.refl t)

theorem completes_unknownCmdCode (o : Iface) (code : Nat) (s : State) : Completes s (execUnknownCmdCode o code s) :=
  ⟨_, rfl, .ite _ (.refl s) (keeps_mailbox _ o s .refl)⟩

theorem completes_powerSet (o : Iface) (s : State) : Completes s (execPowerSet o s) := completes_mailbox _ o s fun _ => .of_rest rfl rfl

theorem completes_storeInfo (o : Iface) (s : State) : Completes s (execStoreInfo o s) :=
  completes_mailbox _ o s fun t => keeps_putWin t _ _

theorem completes_storeRead (o : Iface) (s : State) : Completes s (execStoreRead o s) := completes_mailbox _ o s keeps_storeRead

theorem completes_storeErase (o : Iface) (s : State) : Completes s (execStoreErase o s) := completes_mailbox _ o s keeps_storeErase

theorem completes_storeCommitConfig (o : Iface) (s : State) : Completes s (execStoreCommitConfig o s) :=
  completes_mailbox _ o s keeps_storeCommit

theorem completes_configStage (o : Iface) (s : State) : Completes s (execConfigStage o s) := completes_mailbox _ o s keeps_configStage

theorem completes_configInstall (o : Iface) (s : State) : Completes s (execConfigInstall o s) :=
  completes_mailbox _ o s keeps_configInstall

theorem completes_storeAbort (o : Iface) (s : State) : Completes s (execStoreAbort o s) := completes_mailbox _ o s keeps_storeAbort

theorem completes_storeMaintain (o : Iface) (s : State) : Completes s (execStoreMaintain o s) :=
  completes_mailbox _ o s fun t => keeps_body_ite _ (.refl t) (keeps_beginMaint t)

theorem completes_updateBegin (o : Iface) (s : State) : Completes s (execUpdateBegin o s) := completes_mailbox _ o s keeps_updateBegin

theorem completes_fuseProgram (o : Iface) (c : CmdObs) (s : State) : Completes s (execFuseProgram o c s) :=
  completes_mailbox _ o s (keeps_fuseProgram c)

theorem completes_bistLane (o : Iface) (s : State) : Completes s (execBistLane o s) := completes_mailbox _ o s keeps_bistLane

theorem completes_bistCoach (o : Iface) (s : State) : Completes s (execBistCoach o s) := completes_mailbox _ o s (keeps_bistUnits _ _)

theorem completes_bistSplitter (o : Iface) (s : State) : Completes s (execBistSplitter o s) :=
  completes_mailbox _ o s (keeps_bistUnits _ _)

theorem completes_bistRetest (o : Iface) (s : State) : Completes s (execBistRetest o s) := completes_mailbox _ o s keeps_bistRetest

theorem completes_bistReport (o : Iface) (s : State) : Completes s (execBistReport o s) :=
  completes_mailbox _ o s fun t => keeps_putWin t _ _

theorem completes_followSet (o : Iface) (s : State) : Completes s (execFollowSet o s) := completes_mailbox _ o s keeps_followSet

theorem completes_followClear (o : Iface) (s : State) : Completes s (execFollowClear o s) := completes_mailbox _ o s keeps_followClear

theorem completes_followAdd (o : Iface) (s : State) : Completes s (execFollowAdd o s) := completes_mailbox _ o s keeps_followAdd

theorem completes_followForce (o : Iface) (s : State) : Completes s (execFollowForce o s) := completes_mailbox _ o s keeps_followForce

theorem completes_followStatus (o : Iface) (s : State) : Completes s (execFollowStatus o s) := by
  refine completes_mailbox _ o s fun t => ?_
  dsimp only
  split
  · exact .refl t
  · exact keeps_putWin t _ _

theorem keeps_programCmd (o : Iface) (c : CmdObs) (s : State) : Keeps s (programCmd o c s) :=
  keeps_mailboxFlash _ o s (keeps_storeProgram c)

theorem keeps_updateDataCmd (o : Iface) (c : CmdObs) (s : State) : Keeps s (updateDataCmd o c s) :=
  keeps_mailboxFlash _ o s (keeps_updateData c)

theorem keeps_updateFinishCmd (o : Iface) (s : State) : Keeps s (updateFinishCmd o s) := keeps_mailboxFlash _ o s keeps_updateFinish

theorem keeps_updateActivateCmd (o : Iface) (s : State) : Keeps s (updateActivateCmd o s) :=
  keeps_mailboxFlash _ o s keeps_updateActivate

theorem keeps_updateConfirmCmd (o : Iface) (c : CmdObs) (s : State) : Keeps s (updateConfirmCmd o c s) :=
  keeps_mailboxFlash _ o s (keeps_updateConfirm c)

theorem keeps_remote (op : Nat) (o : Iface) (s : State) : Keeps s (remote op o s) := by
  refine .ite _ (.refl s) (keeps_mailboxLong _ o s fun t => ?_)
  dsimp only
  split
  · exact .refl t
  · split
    · exact .refl t
    · exact keeps_chip _ t

/-! Faults. -/

theorem keeps_wdtReset (s : State) (cause : Nat) : Keeps s (wdtReset s cause) := keeps_coldReset s 3 cause

theorem keeps_fatalEnd (s : State) (code : Nat) : Keeps s (fatalEnd s code) := .ite _ (keeps_onChip _ s) (keeps_coldReset s 4 2)

theorem keeps_dumpEnd (s : State) (code result len : Nat) : Keeps s (dumpEnd s code result len) :=
  ((keeps_onChip _ s).trans (keeps_storeShow _)).trans (keeps_fatalEnd _ code)

theorem keeps_dumpBegin (s : State) (f : FaultIn) (core : CoreObs) : Keeps s (dumpBegin s f core) :=
  (keeps_onChip _ s).trans (keeps_beginJob _ _)

theorem keeps_fatalTake (s : State) (f : FaultIn) (core : CoreObs) : Keeps s (fatalTake s f core) :=
  .ite _ ((keeps_chip _ s).trans (keeps_fatalEnd _ _)) <| .ite _ ((keeps_chip _ s).trans (keeps_dumpEnd _ _ _ _)) <|
    .ite _ ((keeps_chip _ s).trans (keeps_dumpEnd _ _ _ _)) ((keeps_chip _ s).trans (keeps_dumpBegin _ _ _))

theorem keeps_doubleFatal (s : State) (t : Fatal) (f : FaultIn) : Keeps s (doubleFatal s t f) :=
  (keeps_onChip _ s).trans (keeps_wdtReset _ 1)

theorem keeps_afterFatal (l : List FaultIn) : ∀ s : State, Keeps s (afterFatal s l) := by
  induction l with
  | nil => exact .refl
  | cons f l ih =>
    intro s
    unfold afterFatal
    split
    · exact .refl s
    · exact .ite _ (keeps_doubleFatal s _ f) ((keeps_onChip _ s).trans (ih _))

theorem keeps_takeFault (s : State) (f : FaultIn) (more : List FaultIn) (core : CoreObs) : Keeps s (takeFault s f more core) := by
  refine .when _ (.ite _ (keeps_afterFatal _ s) (.ite _ ((keeps_fatalTake s f core).trans (keeps_afterFatal _ _)) ?_))
  dsimp only
  split
  · exact ((keeps_chip _ s).trans (keeps_fatalTake _ _ core)).trans (keeps_afterFatal _ _)
  · exact keeps_chip _ s

theorem keeps_injectFault (o : Iface) (c : CmdObs) (s : State) : Keeps s (injectFault o c s) :=
  have h := keeps_mailbox 0x08 o s keeps_faultInject
  .ite _ (h.trans (keeps_takeFault _ _ _ _)) h

theorem keeps_dumpDone (n : Nat) (c : CmdObs) (s : State) : Keeps s (dumpDone n c s) := by
  unfold dumpDone
  split
  · have hrun : ∀ ops, Keeps s (flashRun c.fails 0 (onChip (fun x => storeViols x c.viols) s) ops).1 :=
      fun ops => (keeps_onChip _ s).trans (keeps_flashRun _ ops _ _)
    exact .ite _ ((hrun _).trans (keeps_dumpEnd _ _ _ _)) <| .ite _ ((hrun _).trans (keeps_dumpEnd _ _ _ _)) <|
      (hrun _).trans (keeps_dumpEnd _ _ _ _)
  · exact .refl s

theorem keeps_dumpLate (n : Nat) (s : State) : Keeps s (dumpLate n s) := by
  unfold dumpLate
  split
  · exact (keeps_flashAll s _).trans (keeps_dumpEnd _ _ _ _)
  · exact .refl s

/-! Words written, and commands run, by an interface. -/

theorem keeps_runLow (o : Iface) (code : Nat) (c : CmdObs) (s : State) : Keeps s (runLow o code c s) := by
  unfold runLow
  split
  · exact (completes_nop o s).landed
  · exact (completes_getInfo o s).landed
  · exact (completes_logRead o s).landed
  · exact (completes_timeSet o s).landed
  · exact (completes_timeGet o s).landed
  · exact (completes_crumbRead o s).landed
  · exact (completes_crumbClear o s).landed
  · exact (completes_dumpInfo o s).landed
  · exact keeps_injectFault o c s
  · exact (completes_powerSet o s).landed
  · exact (completes_storeInfo o s).landed
  · exact (completes_storeRead o s).landed
  · exact (completes_storeErase o s).landed
  · exact keeps_programCmd o c s
  · exact (completes_storeCommitConfig o s).landed
  · exact (completes_configStage o s).landed
  · exact (completes_configInstall o s).landed
  · exact (completes_storeAbort o s).landed
  · exact (completes_storeMaintain o s).landed
  · exact (completes_unknownCmdCode o _ s).landed

theorem keeps_runHigh (o : Iface) (code : Nat) (c : CmdObs) (s : State) : Keeps s (runHigh o code c s) := by
  unfold runHigh
  split
  · exact (completes_bistLane o s).landed
  · exact (completes_bistCoach o s).landed
  · exact (completes_bistSplitter o s).landed
  · exact (completes_bistRetest o s).landed
  · exact (completes_bistReport o s).landed
  · exact (completes_followSet o s).landed
  · exact (completes_followClear o s).landed
  · exact (completes_followAdd o s).landed
  · exact (completes_followForce o s).landed
  · exact (completes_followStatus o s).landed
  · exact keeps_remote _ o s
  · exact (completes_updateBegin o s).landed
  · exact keeps_updateDataCmd o c s
  · exact keeps_updateFinishCmd o s
  · exact keeps_updateActivateCmd o s
  · exact keeps_updateConfirmCmd o c s
  · exact (completes_fuseProgram o c s).landed
  · exact (completes_unknownCmdCode o _ s).landed

theorem keeps_runCmd (o : Iface) (code : Nat) (c : CmdObs) (s : State) : Keeps s (runCmd o code c s) :=
  .ite _ (keeps_runLow o code c s) (keeps_runHigh o code c s)

theorem keeps_writeReg (s : State) (o : Iface) (a : Nat) (v : Word) (collides : Bool) : Keeps s (writeReg s o a v collides) := by
  unfold writeReg
  split
  · exact .refl s
  · have h1 : Keeps s (if collides then onChip (fun x => count x R.GEN_COLLIDE_COUNT F.GEN_STATUS_collide_wrap 1) s else s) :=
      .when _ (keeps_onChip _ s)
    exact .ite _ (keeps_onChip _ s) <| .ite _ (keeps_onChip _ s) <| .ite _ (h1.trans (keeps_coldReset _ 4 0)) <|
      .ite _ ((h1.onChip _).trans (keeps_clearCarriage _)) (h1.onChip _)

theorem keeps_busWord (s : State) (o : Iface) (a : Nat) (v : Word) (b : BusObs) : Keeps s (busWord s o a v b) :=
  .ite _ (.refl s) (.ite _ (keeps_runCmd _ _ _ s) (keeps_writeReg s _ _ _ _))

theorem keeps_cpWords (b : BusObs) (n : Nat) : ∀ (a : Nat) (l : List Byte) (s : State), Keeps s (cpWords b n a l s) := by
  induction n with
  | zero => exact fun _ _ => .refl
  | succ n ih =>
    exact fun a l s => (Keeps.ite _ (keeps_writeWin s _ _) (.when _ (keeps_busWord s _ _ _ _))).trans (ih _ _ _)

theorem keeps_cpMbox (s : State) (r : CpReq) : Keeps s (cpMbox s r) := by
  have h : Keeps s (runCmd .cp (field r.octets 4 2) r.obs.cmd
      (onChip (fun x => setArgs x ((List.range 8).map fun i => (i, field r.octets (8 + 4 * i) 4)))
        (putWin s 0 ((r.octets.drop 40).take 4096)))) :=
    ((keeps_putWin s _ _).onChip _).trans (keeps_runCmd _ _ _ _)
  exact .ite _ (h.onChip _) h

theorem keeps_cpRun (s : State) (r : CpReq) : Keeps s (cpRun s r) := by
  unfold cpRun
  dsimp only
  split
  · exact keeps_chip _ s
  · have h := (keeps_onChip (fun x => noteWait x .cp r.obs.ns) s).trans
      (keeps_cpWords r.obs (field r.octets 3 1) (field r.octets 4 2) (r.octets.drop 8) _)
    exact .ite _ (.ite _ (h.onChip _) h) (keeps_onChip _ s)
  · exact .ite _ (keeps_onChip _ s) (.ite _ (keeps_onChip _ s) (keeps_cpMbox s r))
  · exact keeps_onChip _ s
  · exact keeps_onChip _ s

theorem keeps_cpDrainN (k : Nat) : ∀ s : State, Keeps s (cpDrainN k s) := by
  induction k with
  | zero => exact .refl
  | succ k ih =>
    intro s
    unfold cpDrainN
    split
    · exact .refl s
    · exact .ite _ (.refl s) (((keeps_onChip _ s).trans (keeps_cpRun _ _)).trans (ih _))

theorem keeps_cpDrain (s : State) : Keeps s (cpDrain s) := .ite _ (.refl s) ((keeps_cpDrainN _ s).onChip _)

theorem Keeps.cpDrain {s t : State} (h : Keeps s t) : Keeps s (cpDrain t) := h.trans (keeps_cpDrain t)

theorem keeps_cpTake (msg : List Byte) (b : BusObs) (s : State) : Keeps s (cpTake msg b s) := by
  refine .ite _ (keeps_onChip _ s) ?_
  dsimp only
  split
  · exact keeps_onChip _ s
  · exact .ite _ (.refl s) (.ite _ (.of_rest rfl rfl) (.ite _ (.of_rest rfl rfl) (.of_rest rfl rfl)))

theorem keeps_hpBad (s : State) (reason a : Nat) : Keeps s (hpBad s reason a) := .when _ (keeps_onChip _ s)

theorem keeps_hpBytes (b : BusObs) (l : List Byte) : ∀ (a : Nat) (part : List Byte) (seen : Bool) (s : State),
    Keeps s (hpBytes b l a part seen s) := by
  induction l with
  | nil => exact fun a _ _ s => .ite _ (.refl s) (keeps_hpBad s 2 _)
  | cons v l ih =>
    exact fun a part seen s => .ite _ (.ite _ ((keeps_busWord s _ _ _ _).trans (ih _ _ _ _)) (ih _ _ _ s)) <|
      .ite _ ((Keeps.when _ (keeps_writeWin s _ _)).trans (ih _ _ _ _)) ((Keeps.ite _ (.refl s) (keeps_hpBad s 4 a)).trans (ih _ _ _ _))

theorem keeps_hpWrite (a : Nat) (bytes : List Byte) (short : Bool) (b : BusObs) (s : State) : Keeps s (hpWrite a bytes short b s) :=
  .when _ <| .ite _ (keeps_onChip _ s) <| .ite _ (keeps_onChip _ s) <| (keeps_onChip _ s).trans (keeps_hpBytes b bytes _ _ _ _)

theorem keeps_hpRead (a n ns : Nat) (late short : Bool) (s : State) : Keeps s (hpRead a n ns late short s) :=
  .ite _ (.ite _ (keeps_onChip _ s) (.ite _ (keeps_chip _ s) (keeps_chip _ s))) (.when _ (keeps_chip _ s))

theorem keeps_twbItems (b : BusObs) (all l : List (Nat × Byte)) : ∀ (s : State) (part bad : Bool),
    Keeps s (twbItems b all l (s, part, bad)).1 := by
  induction l with
  | nil => exact fun s _ _ => .refl s
  | cons e l ih =>
    intro s part bad
    obtain ⟨a, v⟩ := e
    unfold twbItems
    split
    · exact ih s part bad
    · split
      · split
        · exact (keeps_busWord s _ _ _ _).trans (ih _ _ _)
        · exact ih s true bad
      · split
        · exact (Keeps.when _ (keeps_writeWin s _ _)).trans (ih _ _ _)
        · exact ih s part true

theorem keeps_twbBad (s : State) (reason : Nat) : Keeps s (twbBad s reason) := .when _ (keeps_onChip _ s)

theorem keeps_twbStop (b : BusObs) (s : State) : Keeps s (twbStop b s) := by
  have h := (keeps_onChip (fun x => { x with twb := { x.twb with held := [] } }) s).trans
    (keeps_twbItems b s.chip.twb.held s.chip.twb.held _ false false)
  have h2 := Keeps.ite ((twbItems b s.chip.twb.held s.chip.twb.held
    (onChip (fun x => { x with twb := { x.twb with held := [] } }) s, false, false)).2.1 = true) (h.trans (keeps_twbBad _ 2)) h
  exact .ite _ (h2.trans (keeps_twbBad _ 4)) h2

theorem keeps_twbEnd (stop : Bool) (b : BusObs) (s : State) : Keeps s (twbEnd stop b s) :=
  .ite _ ((keeps_onChip _ s).trans (keeps_twbStop b _)) (keeps_onChip _ s)

theorem keeps_twbWrite (bytes : List Byte) (stop : Bool) (b : BusObs) (s : State) : Keeps s (twbWrite bytes stop b s) :=
  .when _ ((keeps_onChip _ s).trans (keeps_twbEnd stop b _))

theorem keeps_readRow (o : Iface) (a ns : Nat) (s : State) : Keeps s (readRow o a ns s) := .when _ (keeps_onChip _ s)

end Sys2Proof.Machine
end

section
/-! What a start keeps. -/
namespace Sys2Proof.Machine

theorem keeps_layoutLoad (s : State) (mib : Nat) : Keeps s (layoutLoad s mib) := by
  unfold layoutLoad
  split <;> exact keeps_withStore s _

theorem keeps_anchorFirst (s : State) : Keeps s (anchorFirst s) :=
  .when _ ((keeps_flashProg s _ _ _).trans (keeps_flashProg _ _ _ _))

theorem keeps_cutApply (s : State) (j : Job) (c : Nat × List Byte) : Keeps s (cutApply s j c) := by
  unfold cutApply
  dsimp only
  split
  · exact (keeps_flashAll s _).trans (keeps_flashTorn _ _ _)
  · exact keeps_flashAll s _

theorem keeps_cutsApply (l : List Job) : ∀ (s : State) (cs : List (Nat × List Byte)), Keeps s (cutsApply s l cs) := by
  induction l with
  | nil => exact fun s _ => .refl s
  | cons j l ih => exact fun s cs => (keeps_cutApply s j _).trans (ih _ _)

theorem keeps_startStore (s : State) (o : StartObs) : Keeps s (startStore s o) :=
  ((((keeps_layoutLoad s _).trans (keeps_cutsApply _ _ _)).trans (keeps_layoutLoad _ _)).trans (keeps_anchorFirst _)).onChip _

theorem keeps_slotBoot (s : State) (k : Nat) (trial : Bool) : Keeps s (slotBoot s k trial) :=
  (keeps_onChip _ s).trans (keeps_fwShow _)

theorem keeps_bootChoice (s : State) : Keeps s (bootChoice s).1 := by
  unfold bootChoice
  dsimp only
  split
  · exact keeps_slotClear s _ _
  · exact Keeps.foldl (fun t k => .when _ (keeps_slotClear t k _)) _ s

theorem keeps_rollForward (s : State) (i : Intent) : Keeps s (rollForward s i) :=
  .ite _ (.refl s) (((keeps_flashProg s _ _ _).trans (keeps_flashProg _ _ _ _)).onChip _)

theorem keeps_journalResolve (s : State) : Keeps s (journalResolve s) := by
  unfold journalResolve
  split
  · exact .refl s
  · exact ((Keeps.when _ (keeps_rollForward s _)).trans (keeps_flashProg _ _ _ _)).onChip _

theorem keeps_recReject (s : State) (t reason : Nat) : Keeps s (recReject s t reason) := keeps_onChip _ s

theorem keeps_recTake (c : Choice) (t : Nat) (p : List Byte) : Keeps c.st (recTake c t p).st := by
  unfold recTake
  split
  · exact keeps_recReject c.st t 1
  · exact .refl c.st

theorem keeps_recJudge (f : Nat) (other : List CfgRec) (c : Choice) (e : Nat × CfgRec) : Keeps c.st (recJudge f other c e).st := by
  unfold recJudge
  dsimp only
  split
  · exact keeps_recTake c _ _
  · split
    · refine Keeps.trans ?_ (keeps_recTake _ _ _)
      exact .of_rest rfl rfl
    · exact keeps_recReject c.st _ 0

theorem keeps_configRead (s : State) : Keeps s (configRead s).1 := by
  have hfold : ∀ (f : Nat) (other : List CfgRec) (l : List (Nat × CfgRec)) (c : Choice), Keeps c.st (l.foldl (recJudge f other) c).st := by
    intro f other l
    induction l with
    | nil => exact fun c => .refl c.st
    | cons e l ih => exact fun c => (keeps_recJudge f other c e).trans (ih _)
  unfold configRead
  dsimp only
  split
  · exact .of_rest rfl rfl
  · exact Keeps.trans (keeps_withStore s fun t => { t with marks := deriveMarks s }) (hfold _ _ _ ⟨_, [], []⟩)

theorem keeps_applyPairs (t : Nat) (s : State) (p : List Byte) : Keeps s (applyPairs t s p) := by
  refine .ite _ (keeps_recReject s t 3) ?_
  have h := fun l : List (Nat × Nat) => Keeps.foldl (f := fun k (e : Nat × Nat) =>
    writeReg k .mgmt e.1 (pairValue k.chip t e.1 (BitVec.ofNat 32 e.2)) false) (fun k e => keeps_writeReg k _ _ _ _) l s
  exact .ite _ (h _) ((h _).trans (keeps_recReject _ t 2))

theorem keeps_applyCalset (acc : State × List (Nat × Nat)) (p : List Byte) : Keeps acc.1 (applyCalset acc p).1 := by
  unfold applyCalset
  dsimp only
  split
  · exact keeps_recReject acc.1 _ 4
  · split
    · exact keeps_recReject acc.1 _ 5
    · split
      · exact .refl acc.1
      · exact keeps_onChip _ acc.1

theorem keeps_applyLanes (s : State) (recs : List (List Byte)) : Keeps s (applyLanes s recs).1 :=
  (((keeps_onChip _ s).trans (Keeps.foldl (fun k _ => keeps_applyPairs 0x11 k _) recs _)).onChip _).onChip _

theorem keeps_applyFollowEntry (m : List (Nat × Nat)) (s : State) (e : List Byte) : Keeps s (applyFollowEntry m s e) :=
  ((keeps_onChip _ s).trans (keeps_followSet _)).onChip _

theorem keeps_applyFollows (m : List (Nat × Nat)) (s : State) (p : List Byte) : Keeps s (applyFollows m s p) :=
  .ite _ (keeps_recReject s _ 3) (Keeps.foldl (keeps_applyFollowEntry m) _ s)

theorem keeps_applyCarriages (s : State) (p : List Byte) : Keeps s (applyCarriages s p) := (keeps_applyPairs 0x13 s p).onChip _

theorem keeps_applyEarly (s : State) (recs : List (Nat × List Byte)) (mismatch : Bool) : Keeps s (applyEarly s recs mismatch) := by
  have hset : ∀ t k, Keeps k (if mismatch then k else (ofType recs t).foldl (applyPairs t) k) :=
    fun t k => .ite _ (.refl k) (Keeps.foldl (keeps_applyPairs t) _ k)
  have hcal : ∀ (l : List (List Byte)) (a : State × List (Nat × Nat)), Keeps a.1 (l.foldl applyCalset a).1 := by
    intro l
    induction l with
    | nil => exact fun a => .refl a.1
    | cons p l ih => exact fun a => (keeps_applyCalset a p).trans (ih _)
  exact ((((Keeps.when _ (hset 0x02 s)).onChip _).trans (hset 0x03 _)).trans (hset 0x10 _)).trans (hcal _ (_, []))

theorem keeps_applyLate (s : State) (recs : List (Nat × List Byte)) : Keeps s (applyLate s recs) :=
  ((((keeps_applyLanes s _).onChip _).trans (Keeps.foldl (keeps_applyFollows _) _ _)).trans
    (Keeps.foldl keeps_applyCarriages _ _)).trans
      ((Keeps.foldl (keeps_applyPairs 0x14) _ _).trans (Keeps.foldl (keeps_applyPairs 0x15) _ _))

theorem keeps_enterInit (s : State) (init : Nat) : Keeps s (enterInit s init) :=
  .ite _ ((keeps_chip _ s).trans (keeps_clearCarriage _)) (keeps_chip _ s)

theorem keeps_startApply (s : State) (recs : List (Nat × List Byte)) (mismatch : Bool) (init : Nat) :
    Keeps s (startApply s recs mismatch init) := by
  have h2 := ((keeps_onChip (fun x => startSpares (newEpoch x)) s).trans (keeps_applyEarly _ recs mismatch)).trans (keeps_enterInit _ init)
  have h4 := (Keeps.ite (mismatch = true) h2 (h2.trans (keeps_applyLate _ recs))).onChip (fun x => fset x F.GEN_STATUS_ready 1)
  exact .ite _ ((h4.trans (keeps_storeShow _)).trans (keeps_enterGlide _)) (h4.trans (keeps_storeShow _))

theorem keeps_startConfigure (s : State) : Keeps s (startConfigure s) := by
  have h := ((keeps_journalResolve s).trans (keeps_withStore _ fun t => { t with cut := [] })).trans (keeps_configRead _)
  unfold startConfigure
  dsimp only
  split
  · split
    · exact (h.onChip _).trans (keeps_startApply _ _ _ _)
    · exact (h.trans (keeps_chip _ _)).trans (keeps_startApply _ _ _ _)
  · exact h.trans (keeps_startApply _ _ _ _)

theorem Keeps.startConfigure {s t : State} (h : Keeps s t) : Keeps s (startConfigure t) := h.trans (keeps_startConfigure t)

theorem Keeps.slotBoot {s t : State} (k : Nat) (trial : Bool) (h : Keeps s t) : Keeps s (slotBoot t k trial) :=
  h.trans (keeps_slotBoot t k trial)

theorem Keeps.enterRecovery {s t : State} (h : Keeps s t) : Keeps s (enterRecovery t) := h.onChip _

theorem keeps_startRun (s : State) (o : StartObs) : Keeps s (startRun s o) := by
  have h1 := keeps_onChip (fun x => startDevice (startRole (startLock x o) o) o) s
  unfold startRun
  cases storeUsable o
  · exact .enterRecovery (.withStore _ (.onChip _ h1))
  · have h2 := (h1.trans (keeps_startStore _ o)).trans (keeps_bootChoice _)
    simp only [if_true]
    split
    · exact .startConfigure (.slotBoot _ _ (.onChip _ h2))
    · exact .storeShow (.enterRecovery (.withStore _ (.onChip _ h2)))

end Sys2Proof.Machine
end

section
/-! Every command completes and keeps the queue and the memories' canonical form: the statements about a step. -/
namespace Sys2Proof.Machine

/-- A command that acts on the chip where a condition holds, and does nothing elsewhere. -/
theorem completes_when (c : Prop) [Decidable c] (f : Chip → Chip) (s : State) : Completes s (.next (if c then onChip f s else s)) :=
  ⟨_, rfl, .when c (keeps_onChip f s)⟩

theorem keeps_onCand (p i : Nat) (sts : List Nat) (f : Chip → Follow → Cand → Chip) (s : State) : Keeps s (onCand p i sts f s) := by
  unfold onCand
  refine .when _ ?_
  split
  · exact .refl s
  · split
    · exact .when _ (keeps_onChip _ s)
    · exact .refl s

/-! Commands that act on what the part holds of a fade, a segment, a migration, a test, a wait or a job. -/

theorem completes_audioFrame (n : Nat) (o : AudioObs) (s : State) : Completes s (execAudioFrame n o s) := by
  refine ⟨_, rfl, .ite _ (.ite _ (.refl s) ?_) (.when _ (keeps_onChip _ s))⟩
  split
  · exact keeps_onChip _ s
  · exact .refl s

theorem completes_handoverDone (p stamp : Nat) (s : State) : Completes s (execHandoverDone p stamp s) := by
  refine ⟨_, rfl, ?_⟩
  split
  · exact .refl s
  · split
    · exact .refl s
    · split
      · exact keeps_onChip _ s
      · exact .refl s

theorem completes_handoverAbort (p reason : Nat) (s : State) : Completes s (execHandoverAbort p reason s) := by
  refine ⟨_, rfl, ?_⟩
  split
  · exact .refl s
  · split
    · exact .refl s
    · split
      · exact keeps_onChip _ s
      · exact .refl s

theorem completes_rejectExpiry (p i : Nat) (s : State) : Completes s (execRejectExpiry p i s) := by
  refine ⟨_, rfl, ?_⟩
  split
  · exact .refl s
  · split
    · exact .when _ (keeps_onChip _ s)
    · exact .refl s

theorem completes_ctrlResponse (msg : List Byte) (s : State) : Completes s (execCtrlResponse msg s) := by
  refine ⟨_, rfl, .when _ (.ite _ (keeps_onChip _ s) ?_)⟩
  split
  next w _ =>
    refine .when _ ?_
    unfold responseTake
    dsimp only
    split
    · exact Keeps.onChip _ (Keeps.trans (keeps_chip _ s) (keeps_putWin _ _ _))
    · exact Keeps.onChip _ (Keeps.trans (keeps_chip _ s) (keeps_putWin _ _ _))
    · exact keeps_chip _ s
  · exact .refl s

theorem completes_ringEntry (s : State) : Completes s (execRingEntry s) := by
  refine ⟨_, rfl, ?_⟩
  split
  · exact .ite _ (.onChip _ ((keeps_onChip _ s).trans (keeps_ringStore _ _))) (keeps_onChip _ s)
  · exact .refl s

theorem completes_privWrite (s : State) : Completes s (execPrivWrite s) := by
  refine ⟨_, rfl, ?_⟩
  split
  · exact (keeps_onChip _ s).trans (.foldl (keeps_privStore _) _ _)
  · exact .refl s

theorem completes_storeDone (g n : Nat) (c : CmdObs) (s : State) : Completes s (execStoreDone g n c s) := by
  refine ⟨_, rfl, ?_⟩
  split
  · exact .when _ (keeps_jobRun s _ n c)
  · exact .refl s

theorem completes_stateReached (s : State) : Completes s (execStateReached s) := by
  refine ⟨_, rfl, ?_⟩
  split
  next t _ =>
    have h := ((keeps_onChip (fun x => fset x F.SUP_TRANS_TIME_us (sat 16 ((s.chip.tm.ticks - t.start).toNat * 100000 / 32768))) s).trans
      (keeps_reachState _ (pstate s.chip) t.target t.origin)).onChip cpTrain
    exact .when _ (.ite _ (h.trans (keeps_enterGlide _)) h)
  · exact .refl s

theorem completes_alarm (s : State) : Completes s (execAlarm s) := by
  refine ⟨_, rfl, ?_⟩
  split
  · exact .when _ (.ite _ ((keeps_onChip _ s).trans (keeps_wakeUp _ 3 0)) (keeps_onChip _ s))
  · exact .refl s

theorem completes_start (o : StartObs) (s : State) : Completes s (execStart o s) := by
  refine ⟨_, rfl, .when _ ?_⟩
  split
  · exact keeps_chip _ s
  · exact keeps_startRun s o

/-! Commands of supply, interfaces and clock that act on the whole state. -/

theorem completes_railLow (rail : Nat) (s : State) : Completes s (execRailLow rail s) :=
  ⟨_, rfl, .when _ (.onChip _ (.onChip _ ((keeps_onChip _ s).trans (keeps_coldReset _ 1 1))))⟩

theorem completes_bor (s : State) : Completes s (execBor s) :=
  ⟨_, rfl, .ite _ (.refl s) (.onChip _ ((keeps_onChip _ s).trans (keeps_coldReset _ 1 0)))⟩

theorem completes_nrstLow (s : State) : Completes s (execNrstLow s) :=
  ⟨_, rfl, .ite _ (.refl s) (.ite _ (keeps_onChip _ s) ((keeps_onChip _ s).trans (keeps_coldReset _ 2 0)))⟩

theorem completes_nrstRelease (s : State) : Completes s (execNrstRelease s) :=
  ⟨_, rfl, .when _ (.ite _ ((keeps_onChip _ s).trans (keeps_glideExit _ 4)) (.onChip _ (keeps_onChip _ s)))⟩

theorem keeps_dataResetAll (s : State) (cause : Nat) : Keeps s (dataResetAll s cause) :=
  (keeps_onChip _ s).trans (keeps_clearCarriage _)

theorem keeps_onCause (src : Nat) {f : State → State} (hf : ∀ t, Keeps t (f t)) (s : State) : Keeps s (onCause src f s) :=
  .onChip _ ((keeps_onChip _ s).trans (hf _))

theorem completes_coastEnd (band us : Nat) (ofs : Int) (s : State) : Completes s (execCoastEnd band us ofs s) :=
  have h := keeps_onChip (fun x => coastEnd x band us ofs) s
  ⟨_, rfl, .when _ (.ite _ (h.trans (keeps_onCause srcClk (keeps_dataResetAll · 1) _)) h)⟩

theorem completes_wspWake (s : State) : Completes s (execWspWake s) :=
  have h := keeps_onChip wspSpent s
  ⟨_, rfl, .when _ (.ite _ (h.onChip _) (.ite _ (h.trans (keeps_wspGlide _)) (.ite _ (h.onChip _) h)))⟩

theorem completes_wspReset (s : State) : Completes s (execWspReset s) :=
  have h := keeps_onChip wspSpent s
  ⟨_, rfl, .when _ (.ite _ (h.onChip _) (.ite _ (h.trans (keeps_wspGlide _)) (.ite _ (h.trans (keeps_coldReset _ 4 1)) h)))⟩

theorem completes_twbRead (n : Nat) (stop : Bool) (b : BusObs) (s : State) : Completes s (execTwbRead n stop b s) :=
  ⟨_, rfl, .when _ (Keeps.trans (.onChip _ ((keeps_onChip _ s).trans (keeps_chip _ _))) (keeps_twbEnd stop b _))⟩

theorem completes_registerWrite (o : Iface) (a : Nat) (v : Word) (b : BusObs) (s : State) : Completes s (execRegisterWrite o a v b s) :=
  ⟨_, rfl, .when _ ((keeps_onChip _ s).trans (keeps_busWord _ o a v b))⟩

/-- Every command completes, and keeps what every command keeps. -/
theorem completes_exec (c : Instr) (s : State) : Completes s (exec c s) := by
  cases c with
  | nop o => exact completes_nop o s
  | getInfo o => exact completes_getInfo o s
  | logRead o => exact completes_logRead o s
  | timeSet o => exact completes_timeSet o s
  | timeGet o => exact completes_timeGet o s
  | crumbRead o => exact completes_crumbRead o s
  | crumbClear o => exact completes_crumbClear o s
  | dumpInfo o => exact completes_dumpInfo o s
  | faultInject o c => exact ⟨_, rfl, (keeps_injectFault o c s).cpDrain⟩
  | unknownCmdCode o code => exact completes_unknownCmdCode o code s
  | powerSet o => exact completes_powerSet o s
  | stateReached => exact completes_stateReached s
  | storeInfo o => exact completes_storeInfo o s
  | storeRead o => exact completes_storeRead o s
  | storeErase o => exact completes_storeErase o s
  | storeProgram o c => exact ⟨_, rfl, (keeps_programCmd o c s).cpDrain⟩
  | storeCommitConfig o => exact completes_storeCommitConfig o s
  | configStage o => exact completes_configStage o s
  | configInstall o => exact completes_configInstall o s
  | storeAbort o => exact completes_storeAbort o s
  | storeMaintain o => exact completes_storeMaintain o s
  | storeDone g n c => exact completes_storeDone g n c s
  | maintenance => exact ⟨_, rfl, .when _ (keeps_beginMaint s)⟩
  | updateBegin o => exact completes_updateBegin o s
  | updateData o c => exact ⟨_, rfl, (keeps_updateDataCmd o c s).cpDrain⟩
  | updateFinish o => exact ⟨_, rfl, (keeps_updateFinishCmd o s).cpDrain⟩
  | updateActivate o => exact ⟨_, rfl, (keeps_updateActivateCmd o s).cpDrain⟩
  | updateConfirm o c => exact ⟨_, rfl, (keeps_updateConfirmCmd o c s).cpDrain⟩
  | fuseProgram o c => exact completes_fuseProgram o c s
  | bistLane o => exact completes_bistLane o s
  | bistCoach o => exact completes_bistCoach o s
  | bistSplitter o => exact completes_bistSplitter o s
  | bistRetest o => exact completes_bistRetest o s
  | bistReport o => exact completes_bistReport o s
  | followSet o => exact completes_followSet o s
  | followClear o => exact completes_followClear o s
  | followAdd o => exact completes_followAdd o s
  | followForce o => exact completes_followForce o s
  | followStatus o => exact completes_followStatus o s
  | remoteRead o => exact ⟨_, rfl, keeps_remote 1 o s⟩
  | remoteWrite o => exact ⟨_, rfl, keeps_remote 2 o s⟩
  | remoteMbox o => exact ⟨_, rfl, keeps_remote 3 o s⟩
  | remotePower o => exact ⟨_, rfl, keeps_remote 4 o s⟩
  | registerWrite o a v b => exact completes_registerWrite o a v b s
  | splEpochRead o ns | rtcTickRead o ns | rtcWallRead o ns | rtcSecondsRead o ns | logDataRead o ns | stimeRead o ns
  | stepRead o ns | serialRead o ns => exact ⟨_, rfl, keeps_readRow o _ ns s⟩
  | hpRead a n ns late short | hpQread a n ns late short => exact ⟨_, rfl, keeps_hpRead a n ns late short s⟩
  | hpWrite a bytes short b | hpQwrite a bytes short b => exact ⟨_, rfl, keeps_hpWrite a bytes short b s⟩
  | hpStatus => exact ⟨_, rfl, .ite _ (keeps_onChip _ s) (.when _ (keeps_onChip _ s))⟩
  | hpUnknownInstruction code => exact ⟨_, rfl, .ite _ (.refl s) (keeps_hpBad s 3 0)⟩
  | twbWrite bytes stop b => exact ⟨_, rfl, keeps_twbWrite bytes stop b s⟩
  | twbProbe b => exact ⟨_, rfl, keeps_twbWrite [] true b s⟩
  | twbRead n stop b => exact completes_twbRead n stop b s
  | twbWake byte => exact ⟨_, rfl, .when _ (keeps_wakeUp s 2 byte)⟩
  | por => exact ⟨_, rfl, keeps_porReset s⟩
  | bor => exact completes_bor s
  | railLow rail => exact completes_railLow rail s
  | nrstLow => exact completes_nrstLow s
  | nrstRelease => exact completes_nrstRelease s
  | wdtExpiry => exact ⟨_, rfl, .when _ (keeps_wdtReset s 0)⟩
  | genResetFull => exact ⟨_, rfl, .when _ (keeps_coldReset s 4 0)⟩
  | genResetDatapath => exact ⟨_, rfl, .when _ (keeps_dataResetAll s 0)⟩
  | wdtHalf => exact ⟨_, rfl, (keeps_takeFault s _ _ _).cpDrain⟩
  | faultTaken f more core => exact ⟨_, rfl, (keeps_takeFault s f more core).cpDrain⟩
  | dump n c => exact ⟨_, rfl, (keeps_dumpDone n c s).cpDrain⟩
  | dumpTimeout n => exact ⟨_, rfl, (keeps_dumpLate n s).cpDrain⟩
  | ewClear coax vmin => exact ⟨_, rfl, (Keeps.when _ (keeps_onChip _ s)).cpDrain⟩
  | logMirror c => exact ⟨_, rfl, .when _ (keeps_logMirror c s)⟩
  | start o => exact completes_start o s
  | alarm => exact completes_alarm s
  | coastEnd band us ofs => exact completes_coastEnd band us ofs s
  | wspWake => exact completes_wspWake s
  | wspReset => exact completes_wspReset s
  | ctrlRequest msg b => exact ⟨_, rfl, .when _ (keeps_cpTake msg b s).cpDrain⟩
  | ctrlResponse msg => exact completes_ctrlResponse msg s
  | ringEntry => exact completes_ringEntry s
  | privWrite => exact completes_privWrite s
  | audioFrame n o => exact completes_audioFrame n o s
  | handoverDone p stamp => exact completes_handoverDone p stamp s
  | handoverAbort p reason => exact completes_handoverAbort p reason s
  | rejectExpiry p k => exact completes_rejectExpiry p k s
  | candVerify p k ident | candAligned p k | candReady p k | fineAlign p k => exact ⟨_, rfl, keeps_onCand p k _ _ s⟩
  | coaxPowerGood | sampleTimeLatch counts | syncInEdge => exact ⟨_, rfl, keeps_onChip _ s⟩
  | dabState n o => exact ⟨_, rfl, .ite _ (keeps_onChip _ s) (.when _ (keeps_onChip _ s))⟩
  | segmentComplete c iq => exact ⟨_, rfl, .ite _ (.refl s) (keeps_onChip _ s)⟩
  | qualReport c => exact ⟨_, rfl, .ite _ (.refl s) (.ite _ (keeps_onChip _ s) (keeps_onChip _ s))⟩
  | descApply | motMissing | sideRecord | migDone | coachTestDone | bistDone | cpRetry | freeBurstRepeat | vcoCalStep =>
    refine ⟨_, rfl, ?_⟩
    split
    · exact .when _ (keeps_onChip _ s)
    · exact .refl s
  | migStateCopy =>
    refine ⟨_, rfl, ?_⟩
    split
    · exact .ite _ (.refl s) (keeps_onChip _ s)
    · exact .refl s
  | segmentRelease =>
    refine ⟨_, rfl, ?_⟩
    split
    · exact .refl s
    · exact keeps_onChip _ s
  | migAbort | laneTestDone | cpTimeout | resume =>
    refine ⟨_, rfl, ?_⟩
    split
    · exact keeps_onChip _ s
    · exact .refl s
  | notchSegment payload =>
    refine ⟨_, rfl, .when _ ?_⟩
    split
    · exact keeps_onChip _ s
    · exact .refl s
  | _ => exact completes_when _ _ s

/-- Settles O3: no arm of the dispatch answers anything but a next state, and none touches the queue. -/
theorem everyCommandCompletes : Obligations.EveryCommandCompletes := by
  unfold Obligations.EveryCommandCompletes
  intro c s
  obtain ⟨t, hexec, -, hqueue⟩ := completes_exec c s
  exact ⟨t, hexec, hqueue⟩

/-- Settles O1: the step with a command at the front. -/
theorem stepRunsTheFront : Obligations.StepRunsTheFront := by
  unfold Obligations.StepRunsTheFront
  intro c s l h
  simp only [step, h]

/-- Settles O2: the step of an empty queue. -/
theorem emptyQueueIdles : Obligations.EmptyQueueIdles := by
  unfold Obligations.EmptyQueueIdles
  intro s h
  simp only [step, h]

/-- Settles O4: an idle step changes nothing, and any other is a command, which keeps the canonical form. -/
theorem stepKeepsMemoryCanonical : Obligations.StepKeepsMemoryCanonical := by
  unfold Obligations.StepKeepsMemoryCanonical
  intro s t hs hstep
  cases hq : s.pending with
  | nil =>
    obtain rfl := Host.Outcome.next.inj ((emptyQueueIdles s hq).symm.trans hstep)
    exact hs
  | cons c l =>
    obtain ⟨u, hexec, hkeep, -⟩ := completes_exec c { s with pending := l }
    obtain rfl := Host.Outcome.next.inj (hexec.symm.trans ((stepRunsTheFront c s l hq).symm.trans hstep))
    exact hkeep hs

/-- Settles O5: nothing is listed at reset, and an unlisted register reads its reset word. -/
theorem resetState : Obligations.ResetState := by
  unfold Obligations.ResetState
  exact ⟨rfl, rfl, rfl, fun _ => rfl, by decide⟩

end Sys2Proof.Machine
end

section
/-! PROOF. Counters, the octets of an event's entries and the ring that holds them (15_management, R376 to R382). -/
namespace Sys2Proof.Machine
open Sys2Proof

/-- Settles O10: a count is the register's write of the sum, and of the flag where the sum passes the end. -/
theorem countersWrap : Obligations.CountersWrap := fun x a n w ha hw hlo =>
  ⟨rd_count_same x a w n ha, fget_count_wrap x a w n ha hlo hw,
    onlyRegs_count x n (List.mem_cons_self ..) (List.mem_cons_of_mem _ (List.mem_cons_self ..))⟩

/-- Writing the value of octets out again gives the octets. -/
theorem le_unle : ∀ l : List Byte, le l.length (unle l) = l
  | [] => rfl
  | b :: l => by
    rw [List.length_cons, le_succ, unle, Nat.add_mul_div_left _ _ (by decide), Nat.div_eq_of_lt b.isLt, Nat.zero_add,
      le_unle l, BitVec.ofNat_add, BitVec.ofNat_mul, BitVec.ofNat_toNat, BitVec.setWidth_eq]
    simp

theorem unle_lt : ∀ l : List Byte, unle l < 256 ^ l.length
  | [] => Nat.one_pos
  | b :: l => by
    have hb := b.isLt
    have ih := unle_lt l
    rw [unle, List.length_cons, Nat.pow_succ']
    omega

/-- An entry holds the sixteen octets it was made of. -/
theorem entryBytes_entryOf {l : List Byte} (h : l.length = 16) : entryBytes (entryOf l) = l := by
  have hlt : unle l < 2 ^ 128 := lt_of_lt_of_eq (unle_lt l) (by rw [h]; rfl)
  rw [entryBytes, entryOf, BitVec.toNat_ofNat, Nat.mod_eq_of_lt hlt, ← h, le_unle]

theorem length_pad {α : Type} (d : α) (n : Nat) (l : List α) : (pad d n l).length = n := by
  rw [pad, List.length_append, List.length_take, List.length_replicate]
  omega

/-- The octets of an event's first entry. -/
theorem length_firstOctets (src code seq ep tick : Nat) (args : List Byte) :
    (b1 src ++ b1 code ++ b2 seq ++ b2 ep ++ le 6 tick ++ pad 0 4 args).length = 16 := by
  simp only [b1, b2, List.length_append, length_le, length_pad]

/-- The octets of its continuation, with three for the cause. -/
theorem length_moreOctets (src code seq : Nat) (args : List Byte) {c : List Byte} (h : c.length = 3) :
    (b1 src ++ b1 (code + 0x80) ++ b2 seq ++ pad 0 9 (args.drop 4) ++ c).length = 16 := by
  simp only [b1, b2, List.length_append, length_le, length_pad, h]

/-- An event that names no cause and has few arguments is one entry. -/
theorem packEvent_short (src code seq ep tick : Nat) {args : List Byte} (h : args.length ≤ 4) :
    packEvent src code seq ep tick args none =
      [entryOf (b1 src ++ b1 code ++ b2 seq ++ b2 ep ++ le 6 tick ++ pad 0 4 args)] := by
  simp [packEvent, Nat.not_lt.2 h]

theorem packEvent_long (src code seq ep tick : Nat) {args : List Byte} (h : 4 < args.length) :
    packEvent src code seq ep tick args none =
      [entryOf (b1 src ++ b1 code ++ b2 seq ++ b2 ep ++ le 6 tick ++ pad 0 4 args),
        entryOf (b1 src ++ b1 (code + 0x80) ++ b2 seq ++ pad 0 9 (args.drop 4) ++ [0xFF, 0, 0])] := by
  simp [packEvent, h]

/-- Settles O7: an entry's octets are the sixteen it was made of, and each of the two is made of sixteen. -/
theorem eventEntryLayout : Obligations.EventEntryLayout := by
  intro src code seq ep tick args c _
  have first := entryBytes_entryOf (length_firstOctets src code seq ep tick args)
  cases c with
  | some r =>
    refine ⟨by simp [packEvent], congrArg some first, fun e he => ?_⟩
    cases he
    exact entryBytes_entryOf (length_moreOctets src code seq args (by simp only [b1, b2, List.length_append, length_le]))
  | none =>
    rcases Nat.lt_or_ge 4 args.length with hl | hl
    · rw [packEvent_long src code seq ep tick hl]
      refine ⟨by simp [Nat.not_le.2 hl], congrArg some first, fun e he => ?_⟩
      cases he
      exact entryBytes_entryOf (length_moreOctets src code seq args rfl)
    · rw [packEvent_short src code seq ep tick hl]
      exact ⟨by simp [hl], congrArg some first, fun e he => nomatch he⟩

/-- The lost entry's count leaves every register but those of lost entries. -/
theorem onlyRegs_entryLost (x : Chip) : OnlyRegs [R.MGMT_LOG_LOST, R.MGMT_FAULT_STATUS] x (entryLost x) := by
  unfold entryLost
  split
  · exact onlyRegs_count x 1 (by decide) (by decide)
  · exact ⟨rfl, fun _ _ => rfl⟩

theorem rd_entryCause_wr (x : Chip) : rd (entryCause x) R.MGMT_LOG_WR = rd x R.MGMT_LOG_WR := by
  unfold entryCause
  dsimp only
  split
  · exact rd_fset_ne _ _ _ _ (by decide)
  · rfl

theorem ring_entryCause (x : Chip) : (entryCause x).lg.ring = x.lg.ring := by
  unfold entryCause
  dsimp only
  split <;> rfl

theorem rd_wr_pushEntry (x : Chip) (e : Entry) : rd (pushEntry x e) R.MGMT_LOG_WR = rd x R.MGMT_LOG_WR + 1 := by
  rw [pushEntry, rd_entryCause_wr, entryPlace, rd_count_one _ _ _ (by decide)]
  exact congrArg (· + 1) ((onlyRegs_entryLost x).2 _ (by decide))

theorem ring_pushEntry (x : Chip) (e : Entry) :
    (pushEntry x e).lg.ring = smPut (fun _ => 0) x.lg.ring ((rd x R.MGMT_LOG_WR).toNat % 2048) e := by
  rw [pushEntry, ring_entryCause, entryPlace, count_rest, (onlyRegs_entryLost x).2 _ (by decide),
    congrArg Chip.lg (onlyRegs_entryLost x).1]

/-- Where the ring holds an index: within 2048 of the write index. -/
theorem logEntry_of_held {x : Chip} {n i : Nat} (hn : (rd x R.MGMT_LOG_WR).toNat = n) (h : (n + 2 ^ 32 - i) % 2 ^ 32 ≤ 2048)
    (hi : i ≠ n) : logEntry x i = smGet (fun _ => 0) x.lg.ring (i % 2048) := by
  subst hn
  exact if_pos ⟨h, hi⟩

theorem logEntry_of_not_held {x : Chip} {n i : Nat} (hn : (rd x R.MGMT_LOG_WR).toNat = n)
    (h : 2048 < (n + 2 ^ 32 - i) % 2 ^ 32) : logEntry x i = 0 := by
  subst hn
  exact if_neg fun hh => absurd hh.1 (Nat.not_le.2 h)

/-- Settles O8: the index told in the register says which entries of the ring are held, and placing one writes its place alone. -/
theorem eventRing : Obligations.EventRing := by
  intro x e
  dsimp only
  have hw : (rd (pushEntry x e) R.MGMT_LOG_WR).toNat = ((rd x R.MGMT_LOG_WR).toNat + 1) % 2 ^ 32 := by
    rw [rd_wr_pushEntry, BitVec.toNat_add]
    rfl
  have hn := (rd x R.MGMT_LOG_WR).isLt
  generalize hN : (rd x R.MGMT_LOG_WR).toNat = n at hw hn
  have hring := ring_pushEntry x e
  rw [hN] at hring
  refine ⟨hw, ?_, fun i hi h1 h2 => ?_, fun i hi h1 hne => ?_⟩
  · rw [logEntry_of_held hw (by omega) (by omega), hring, smGet_smPut_same]
  · rw [logEntry_of_held hw (by omega) (by omega), logEntry_of_held hN (by omega) (by rintro rfl; omega), hring,
      smGet_smPut_ne _ _ _ _ _ (by omega)]
  · exact logEntry_of_not_held hw (by omega)

/-- Settles O9: while management does not run an event joins its source's queue, or counts as lost where that is full. -/
theorem fullEventQueueLoses : Obligations.FullEventQueueLoses := by
  intro x t src code args c hm
  refine ⟨(nextSeq_raiseAt ..).trans (if_pos rfl), ?_, fun h => ?_, fun h => ?_⟩
  · unfold raiseAt
    simp only [hm, Bool.false_eq_true, if_false]
    split
    · rfl
    · rw [count_rest]
  · unfold raiseAt
    simp only [hm, Bool.false_eq_true, if_false]
    rw [if_pos h]
    exact ⟨rfl, rfl⟩
  · unfold raiseAt
    simp only [hm, Bool.false_eq_true, if_false]
    rw [if_neg (Nat.not_lt.2 h), rd_count_one _ _ _ (by decide), count_rest]
    exact ⟨rfl, rfl⟩

end Sys2Proof.Machine
end

section
/-! PROOF. The general mailbox commands (R366), the log's reading, and wall time (R369, R370). -/
namespace Sys2Proof.Machine
open Sys2Proof

variable {s : State} {o : Iface}

/-- Issuing a command writes registers alone. -/
theorem begun_eq (o : Iface) (code : Nat) (s : State) :
    begun o code s = { s with chip := { s.chip with regs := (begun o code s).chip.regs } } := by
  unfold begun
  split
  · rfl
  · rw [onChip, mboxIssue_rest]

/-- A command whose body answers OK with the chip changed, in the form of that change. -/
theorem mailbox_of_chip {code : Nat} {body : State → MRes} (f : Chip → Chip) (h : MboxServes s.chip code)
    (hb : body (begun o code s) = okChip (begun o code s) (f (begun o code s).chip)) :
    mailbox code o body s = finished 0x00 0 (onChip f (begun o code s)) := by
  rw [mailbox_of_okChip h hb, onChip, onChip]

theorem begun_ft (o : Iface) (code : Nat) (s : State) : (begun o code s).chip.ft = s.chip.ft := by rw [begun_eq]

/-- CRUMB_READ answers by what the crumb holds. -/
theorem exec_crumbRead (h : MboxServes s.chip 0x05) : exec (.crumbRead o) s = .next (match s.chip.ft.crumb with
    | some c => finished 0x00 64 (putWin (begun o 0x05 s) 0 c)
    | none => finished 0x00 0 (begun o 0x05 s)) := by
  refine (congrArg Host.Outcome.next (mailbox_serves 0x05 o _ s h)).trans ?_
  rw [begun_ft]
  cases s.chip.ft.crumb <;> rfl

/-- Settles O16: each command is the mailbox's service of its body. -/
theorem generalMailboxCommands : Obligations.GeneralMailboxCommands := by
  refine ⟨fun o s h => congrArg Host.Outcome.next (mailbox_of_refuse h rfl), fun o s h => congrArg Host.Outcome.next (mailbox_serves 0x01 o _ s h),
    fun o s h => exec_crumbRead h, fun o s h => congrArg Host.Outcome.next (mailbox_of_okChip h rfl), fun o s h => ?dump,
    fun o code s hc hk h => ?unknown⟩
  case dump =>
    refine (congrArg Host.Outcome.next (mailbox_serves 0x07 o _ s h)).trans ?_
    split <;> rfl
  case unknown =>
    refine (congrArg Host.Outcome.next ?_ :)
    rw [Nat.mod_eq_of_lt hc, if_neg (by simp [hk])]
    exact mailbox_of_refuse h rfl

/-- LOG_READ with a good number of entries. -/
theorem logRead_entries {s : State} (h1 : 1 ≤ arg s.chip 1) (hn : arg s.chip 1 ≤ 256) : logRead s =
    let f := logFirst s.chip (arg s.chip 0)
    let k := logAvail s.chip f (arg s.chip 1)
    ⟨onChip (fun _ => setArgs s.chip [(0, f), (1, k)])
      (putWin s 0 ((List.range k).flatMap fun i => entryBytes (logEntry s.chip ((f + i) % 2 ^ 32)))), stOk, 16 * k⟩ := by
  unfold logRead
  dsimp only
  rw [if_neg (Nat.not_lt.2 hn), if_neg (Nat.ne_of_gt h1)]
  rfl

theorem logRead_indices {s : State} (hn : arg s.chip 1 = 0) : logRead s =
    okChip s (setArgs s.chip [(0, logOldest s.chip), (1, (rd s.chip R.MGMT_LOG_WR).toNat)]) := by
  unfold logRead
  dsimp only
  rw [if_neg (by omega), if_pos hn]

/-- Settles O17: the three answers of LOG_READ by the number of entries asked for. -/
theorem logReadCommand : Obligations.LogReadCommand := by
  intro o s h
  refine ⟨fun hn => congrArg Host.Outcome.next (mailbox_of_refuse h (if_pos hn)),
    fun hn => congrArg Host.Outcome.next (mailbox_of_chip (fun x => setArgs x
      [(0, logOldest (begun o 0x02 s).chip), (1, (rd (begun o 0x02 s).chip R.MGMT_LOG_WR).toNat)]) h (logRead_indices hn)), fun h1 hn => ?_⟩
  refine congrArg Host.Outcome.next ((mailbox_serves 0x02 o logRead s h).trans ?_)
  rw [logRead_entries h1 hn]
  rfl

theorem setWall_of_eq {x : Chip} {target : BitVec 48} (h : target = wall x) (origin : Nat) : setWall x origin target = x := by
  have hz : wallStep x target = 0 := by
    have : target - x.tm.ticks - x.tm.offset = 0 := by
      rw [h, wall]
      bv_omega
    rw [wallStep, this]
    rfl
  rw [setWall_eq, if_pos hz]

theorem WallSet.ticks_eq {x y : Chip} {target : BitVec 48} (h : WallSet target x y) : y.tm.ticks = x.tm.ticks := by rw [h.rest]

theorem WallSet.stime_eq {x y : Chip} {target : BitVec 48} (h : WallSet target x y) : y.tm.stime = x.tm.stime := by rw [h.rest]

/-- Settles O18: each command puts wall time by `setWall`, whose effect is that of `WallSet`. -/
theorem timeCommands : Obligations.TimeCommands := by
  refine ⟨fun o s h => congrArg Host.Outcome.next (mailbox_of_chip (fun x =>
      setWall x 1 (BitVec.ofNat 48 (arg x 0 + 2 ^ 32 * (arg x 1 % 2 ^ 16)))) h rfl),
    fun o s h => congrArg Host.Outcome.next (mailbox_of_okChip h rfl), fun v s h => ?_, fun x origin target => ?_⟩
  · have hset := wallSet_setWall s.chip 0 (BitVec.ofNat 48 (v.toNat * 2 ^ 15 + fget s.chip F.RTC_CTRL_s47 * 2 ^ 47))
    have hexec : exec (.rtcSecondsWrite v) s = .next (onChip (fun x => secondsWrite x v) s) :=
      congrArg Host.Outcome.next (if_pos h)
    refine ⟨_, hexec, chipOnly_onChip _ s, ?_⟩
    rw [onChip_chip, secondsWrite]
    exact ⟨hset.wall_eq, hset.ticks_eq⟩
  · have hset := wallSet_setWall x origin target
    exact ⟨hset.wall_eq, hset.ticks_eq, (setWall_of_eq · origin)⟩

end Sys2Proof.Machine
end

section
/-! PROOF. A step of wall time (R370) and the alarm (R372). -/
namespace Sys2Proof.Machine
open Sys2Proof

variable {x : Chip} {d : Int} {target : BitVec 48}

/-- Wall time put with its step told in the registers and the cause, before the epoch and the events. -/
def wallTold (x : Chip) (target : BitVec 48) (d : Int) : Chip :=
  setCause (fset (wr (wr { x with tm := { x.tm with offset := target - x.tm.ticks } } R.MGMT_STEP_LO (BitVec.ofInt 32 d))
    R.MGMT_STEP_HI (BitVec.ofInt 32 (d / 2 ^ 32))) F.RTC_STATUS_stepped 1) .time

/-- What tells a step of wall time: its size, the flag and the cause. -/
structure StepTold (d : Int) (y : Chip) : Prop where
  lo : rd y R.MGMT_STEP_LO = BitVec.ofInt 32 d
  hi : rd y R.MGMT_STEP_HI = BitVec.ofInt 32 (d / 2 ^ 32)
  stepped : fget y F.RTC_STATUS_stepped = 1
  cause : fget y F.MGMT_INT_CAUSE_time = 1

theorem stepTold_wallTold (x : Chip) (target : BitVec 48) (d : Int) : StepTold d (wallTold x target d) where
  lo := by
    rw [wallTold, setCause, rd_fset_ne _ _ _ _ (by decide), rd_fset_ne _ _ _ _ (by decide), rd_wr_ne _ _ _ _ (by decide), rd_wr_same]
  hi := by rw [wallTold, setCause, rd_fset_ne _ _ _ _ (by decide), rd_fset_ne _ _ _ _ (by decide), rd_wr_same]
  stepped := by
    rw [wallTold, fget_setCause_not_log _ _ (by decide), fget_fset_same _ _ _ (by decide)]
    rfl
  cause := fget_setCause_same _ .time rfl (by decide)

theorem StepTold.raise {y : Chip} (h : StepTold d y) (code : Nat) (args : List Byte) : StepTold d (raise y srcRtc code args) where
  lo := (rd_raise _ _ _ _ _ (by decide)).trans h.lo
  hi := (rd_raise _ _ _ _ _ (by decide)).trans h.hi
  stepped := (fget_raise _ _ _ _ _ (by decide)).trans h.stepped
  cause := (fget_raise_cause y srcRtc code args (c := .time) (by decide)).trans h.cause

theorem StepTold.epochUp {y : Chip} (h : StepTold d y) : StepTold d (epochUp y) where
  lo := by rw [Machine.epochUp, rd_fset_ne _ _ _ _ (by decide), rd_fset_ne _ _ _ _ (by decide), h.lo]
  hi := by rw [Machine.epochUp, rd_fset_ne _ _ _ _ (by decide), rd_fset_ne _ _ _ _ (by decide), h.hi]
  stepped := by
    rw [Machine.epochUp, fget_fset_apart _ _ _ _ (by decide) (by decide), fget_fset_apart _ _ _ _ (by decide) (by decide), h.stepped]
  cause := by
    rw [Machine.epochUp, fget_fset_apart _ _ _ _ (by decide) (by decide), fget_fset_apart _ _ _ _ (by decide) (by decide), h.cause]

theorem epoch_wallTold (x : Chip) (target : BitVec 48) (d : Int) : epoch (wallTold x target d) = epoch x := by
  rw [wallTold, epoch, fget_setCause_not_log _ _ (by decide), fget_fset_apart _ _ _ _ (by decide) (by decide),
    fget_wr_ne _ _ _ _ (by decide), fget_wr_ne _ _ _ _ (by decide)]
  rfl

theorem epochUp_effect (x : Chip) : fget (epochUp x) F.RTC_EPOCH_e = (epoch x + 1) % 65536 ∧ fget (epochUp x) F.RTC_STATUS_back = 1 := by
  rw [epochUp, fget_fset_same _ _ _ (by decide), fget_fset_apart _ _ _ _ (by decide) (by decide), fget_fset_same _ _ _ (by decide)]
  exact ⟨rfl, rfl⟩

/-- The step is the distance of the target from wall time. -/
theorem wallStep_eq (x : Chip) (target : BitVec 48) : wallStep x target = (target - wall x).toInt := by
  rw [wallStep, wall]
  congr 1
  bv_omega

theorem setWall_forward (h : 0 < wallStep x target) (origin : Nat) : setWall x origin target =
    raise (wallTold x target (wallStep x target)) srcRtc 0x02 (b1 origin ++ leInt 6 (wallStep x target)) := by
  rw [setWall_eq, if_neg (Int.ne_of_gt h), if_neg (Int.not_lt.2 h.le), wallPut]
  dsimp only
  rw [if_neg (Int.not_lt.2 h.le)]
  rfl

theorem setWall_back (h : wallStep x target < 0) (origin : Nat) : setWall x origin target =
    raise (raise (epochUp (wallTold x target (wallStep x target))) srcRtc 0x02 (b1 origin ++ leInt 6 (wallStep x target)))
      srcRtc 0x03 (b2 (epoch x) ++ b2 (epoch x + 1)) := by
  rw [setWall_eq, if_neg (Int.ne_of_lt h), if_pos h, wallPut]
  dsimp only
  rw [if_pos h]
  rfl

theorem stepTold_setWall (h : wallStep x target ≠ 0) (origin : Nat) : StepTold (wallStep x target) (setWall x origin target) := by
  have htold := stepTold_wallTold x target (wallStep x target)
  rcases Int.lt_or_gt_of_ne h with h | h
  · rw [setWall_back h]
    exact (htold.epochUp.raise ..).raise ..
  · rw [setWall_forward h]
    exact htold.raise ..

/-- Settles O19: by the sign of the step, whose registers, flag and cause both directions tell. -/
theorem timeStepEffects : Obligations.TimeStepEffects := by
  intro x origin target
  have hset := wallSet_setWall x origin target
  have htold : wallStep x target ≠ 0 → _ := fun h => stepTold_setWall h origin
  have hstay : wallStep x target = 0 → setWall x origin target = x := fun h => if_pos h
  have hfwd : 0 < wallStep x target → _ := fun h => setWall_forward h origin
  have hback : wallStep x target < 0 → _ := fun h => setWall_back h origin
  rw [wallStep_eq] at htold hstay hfwd hback
  refine ⟨hset.ticks_eq, hset.stime_eq, hstay, fun h => ?_, fun h => ⟨?_, hfwd h⟩, fun h => ⟨?_, ?_, ?_⟩⟩
  · obtain ⟨hlo, hhi, hstepped, hcause⟩ := htold h
    exact ⟨hlo, hhi, hstepped, hcause⟩
  · rw [hfwd h, fget_raise _ _ _ _ _ (by decide)]
    exact epoch_wallTold ..
  · rw [hback h, fget_raise _ _ _ _ _ (by decide), fget_raise _ _ _ _ _ (by decide), (epochUp_effect _).1, epoch_wallTold]
    rfl
  · rw [hback h, fget_raise _ _ _ _ _ (by decide), fget_raise _ _ _ _ _ (by decide), (epochUp_effect _).2]
  · have hup : epochUp (wallTold x target (target - wall x).toInt) =
        fset (fset (wallTold x target (target - wall x).toInt) F.RTC_EPOCH_e (epoch x + 1)) F.RTC_STATUS_back 1 := by
      rw [epochUp, epoch_wallTold]
    rw [hback h, hup]
    rfl

/-- The armed alarm's end in domain K: disarmed, with `fired` set. -/
def alarmDropped (x : Chip) : Chip :=
  fsets { x with tm := { x.tm with alarm := none } } [(F.RTC_CTRL_arm, 0), (F.RTC_STATUS_fired, 1)]

theorem alarmDropped_effect (x : Chip) : (alarmDropped x).tm = { x.tm with alarm := none } ∧ mgmtUp (alarmDropped x) = mgmtUp x ∧
    fget (alarmDropped x) F.RTC_CTRL_arm = 0 ∧ fget (alarmDropped x) F.RTC_STATUS_fired = 1 := by
  unfold alarmDropped
  refine ⟨by rw [fsets_rest], mgmtUp_congr (by rw [fsets_rest]), ?_, ?_⟩
  · rw [fsets, fsets, fsets, fget_fset_apart _ _ _ _ (by decide) (by decide), fget_fset_same _ _ _ (by decide)]
    rfl
  · rw [fsets, fsets, fsets, fget_fset_same _ _ _ (by decide)]
    rfl

theorem alarmFire_up {a : BitVec 48} (h : mgmtUp x = true) :
    alarmFire x a = raise (setCause (alarmDropped x) .rtc) srcRtc 0x01 (b4 a.toNat) :=
  if_pos ((alarmDropped_effect x).2.1.trans h)

theorem alarmFire_down {a : BitVec 48} (h : mgmtUp x = false) : alarmFire x a =
    { alarmDropped x with tm := { (alarmDropped x).tm with alarmMissed := some a } } :=
  if_neg (by rw [show mgmtUp (fsets _ _) = _ from (alarmDropped_effect x).2.1, h]; decide)

/-- What the alarm's instant leaves in domain K, whether management runs or not. -/
theorem alarmFire_effect (x : Chip) (a : BitVec 48) : (alarmFire x a).tm.alarm = none ∧
    fget (alarmFire x a) F.RTC_CTRL_arm = 0 ∧ fget (alarmFire x a) F.RTC_STATUS_fired = 1 := by
  obtain ⟨htm, _, harm, hfired⟩ := alarmDropped_effect x
  cases h : mgmtUp x with
  | true =>
    rw [alarmFire_up h, fget_raise _ _ _ _ _ (by decide), fget_raise _ _ _ _ _ (by decide),
      fget_setCause_not_log _ _ (by decide), fget_setCause_not_log _ _ (by decide), raise_rest, setCause_rest, htm]
    exact ⟨rfl, harm, hfired⟩
  | false =>
    rw [alarmFire_down h, htm]
    exact ⟨rfl, harm, hfired⟩

theorem exec_alarm_fires {s : State} {a fire : BitVec 48} (ha : s.chip.tm.alarm = some (a, fire))
    (ht : (s.chip.tm.ticks - fire).toNat < 2 ^ 47) : exec .alarm s =
      .next (if s.chip.pw.phase = .glide ∧ fon s.chip F.SUP_GLIDE_CFG_rtc_wake = true
        then wakeUp (onChip (fun x => alarmFire x a) s) 3 0 else onChip (fun x => alarmFire x a) s) := by
  refine congrArg Host.Outcome.next ?_
  rw [ha]
  exact if_pos ht

theorem exec_alarm_waits {s : State} (h : ∀ a fire, s.chip.tm.alarm = some (a, fire) → 2 ^ 47 ≤ (s.chip.tm.ticks - fire).toNat) :
    exec .alarm s = .next s := by
  refine congrArg Host.Outcome.next ?_
  split
  next a fire ha => exact if_neg (Nat.not_lt.2 (h a fire ha))
  next => rfl

/-- Settles O20: arming and disarming write `arm` and the latched tick, and the instant reached drops them. -/
theorem alarmCommands : Obligations.AlarmCommands := by
  refine ⟨fun s hm ha => congrArg Host.Outcome.next (if_pos (by rw [hm, ha]; rfl)),
    fun s h => congrArg Host.Outcome.next (if_neg ?_), fun s hm => congrArg Host.Outcome.next (if_pos hm),
    fun s a fire ha ht => ⟨_, exec_alarm_fires ha ht, chipOnly_onChip _ s, ?_⟩, fun s h => exec_alarm_waits h⟩
  · rcases h with h | h <;> simp [h]
  · obtain ⟨halarm, harm, hfired⟩ := alarmFire_effect s.chip a
    refine ⟨halarm, harm, hfired, fun hm => onChip_congr (alarmFire_up hm), fun hm => ?_⟩
    rw [onChip_chip, alarmFire_down hm]

end Sys2Proof.Machine
end

section
/-! PROOF. The sensors' readings and limits (R375, R392). -/
namespace Sys2Proof.Machine
open Sys2Proof

variable {x y z : Chip}

/-- No register outside a list has changed. -/
def RegsKept (l : List Nat) (x y : Chip) : Prop := ∀ b, b ∉ l → rd y b = rd x b

theorem RegsKept.trans {l : List Nat} (h : RegsKept l x y) (g : RegsKept l y z) : RegsKept l x z :=
  fun b hb => (g b hb).trans (h b hb)

theorem RegsKept.fget {l : List Nat} (h : RegsKept l x y) {f : Fld} (hf : f.addr ∉ l) : fget y f = fget x f :=
  congrArg (getBits · f.lo f.width) (h f.addr hf)

theorem regsKept_raise (l : List Nat) (x : Chip) (src code : Nat) (args : List Byte) :
    RegsKept (l ++ logRegs) x (raise x src code args) :=
  fun _ hb => rd_raise _ _ _ _ _ fun h => hb (List.mem_append_right _ h)

theorem regsKept_fset {l : List Nat} (x : Chip) (f : Fld) (v : Nat) (h : f.addr ∈ l) : RegsKept l x (fset x f v) :=
  fun _ hb => rd_fset_ne _ _ _ _ fun e => hb (e ▸ h)

theorem regsKept_count {l : List Nat} (x : Chip) (a : Nat) (w : Fld) (n : Nat) (ha : a ∈ l) (hw : w.addr ∈ l) :
    RegsKept l x (count x a w n) := (onlyRegs_count x n ha hw).2

/-- The registers that the limits write. -/
def limitRegs : List Nat := [R.SENS_STATUS, R.SENS_LIMIT_COUNT, R.SENS_CONV_COUNT] ++ logRegs

theorem regsKept_limitCross (x : Chip) {flag : Fld} (code : Nat) (args : List Byte) (hf : flag.addr = R.SENS_STATUS) :
    RegsKept limitRegs x (limitCross x flag code args) := by
  unfold limitCross
  have hset : RegsKept limitRegs x (fset x flag 1) := regsKept_fset x flag 1 (by rw [hf]; decide)
  have hcount := regsKept_count (l := limitRegs) (fset x flag 1) R.SENS_LIMIT_COUNT F.SENS_STATUS_lim_wrap 1 (by decide) (by decide)
  exact ((hset.trans hcount).trans (regsKept_fset _ IntCause.sens.fld 1 (by decide))).trans (regsKept_raise _ _ _ _ _)

theorem sens_limitCross (x : Chip) (flag : Fld) (code : Nat) (args : List Byte) :
    (limitCross x flag code args).sens = x.sens := by
  rw [limitCross, raise_rest, setCause_rest, count_rest]
  rfl

theorem regsKept_sensNow (x : Chip) : RegsKept limitRegs x (sensNow x) := regsKept_fset _ _ _ (by decide)

theorem sens_sensNow (x : Chip) : (sensNow x).sens = x.sens := rfl

/-! Temperatures. -/

/-- The seven points have fields of their own, off the limits, and apart from the highest and the peak. -/
theorem tempFld_apart : ∀ p < 7, (tempFld p).lo + (tempFld p).width ≤ 32 ∧ (tempFld p).width = 16 ∧ (tempFld p).addr ∉ limitRegs ∧
    ((tempFld p).addr ≠ R.SENS_TCONV ∨ (tempFld p).lo + (tempFld p).width ≤ 16) ∧ (tempFld p).addr ≠ R.SENS_PEAK ∧
    (tempFld p).addr ≠ R.SENS_TLIM ∧
    ∀ q < 7, q ≠ p → ((tempFld q).addr ≠ (tempFld p).addr ∨ (tempFld q).lo + (tempFld q).width ≤ (tempFld p).lo ∨
      (tempFld p).lo + (tempFld p).width ≤ (tempFld q).lo) := by decide

theorem pointTemp_kept (h : RegsKept limitRegs x y) {p : Nat} (hp : p < 7) : pointTemp y p = pointTemp x p := by
  rw [pointTemp, pointTemp, h.fget (tempFld_apart p hp).2.2.1]

theorem foldl_congr_mem {α β : Type} {f g : α → β → α} : ∀ {l : List β} {a : α}, (∀ b ∈ l, ∀ a, f a b = g a b) →
    l.foldl f a = l.foldl g a
  | [], _, _ => rfl
  | b :: l, a, h => by
    rw [List.foldl_cons, List.foldl_cons, h b (List.mem_cons_self ..), foldl_congr_mem fun c hc => h c (List.mem_cons_of_mem _ hc)]

theorem hottest_kept (h : RegsKept limitRegs x y) : hottest y = hottest x :=
  foldl_congr_mem fun p hp m => by rw [pointTemp_kept h (List.mem_range.1 hp)]

/-- The field of a point after a conversion of point p. -/
theorem fget_senseTemp (x : Chip) {p q : Nat} (t : Int) (hq : q < 7) :
    fget (senseTemp x p t) (tempFld q) = fget (fset x (tempFld p) (tcomp 16 t)) (tempFld q) := by
  obtain ⟨h32, hw, _, hmax, hpeak, -, -⟩ := tempFld_apart q hq
  have hmaxStays : ∀ (z : Chip) (v : Nat), fget (fset z F.SENS_TCONV_tmax v) (tempFld q) = fget z (tempFld q) :=
    fun z v => fget_fset_apart _ _ _ _ h32 (hmax.imp_right .inl)
  unfold senseTemp
  dsimp only
  split
  · rw [fget_fset_apart _ _ _ _ h32 (.inl hpeak), hmaxStays]
  · rw [hmaxStays]

theorem sext_tcomp {t : Int} (h1 : -32768 ≤ t) (h2 : t ≤ 32767) : sext 16 (tcomp 16 t % 2 ^ 16) = t := by
  unfold sext tcomp
  split <;> omega

theorem pointTemp_senseTemp_same (x : Chip) {p : Nat} {t : Int} (hp : p < 7) (h1 : -32768 ≤ t) (h2 : t ≤ 32767) :
    pointTemp (senseTemp x p t) p = t := by
  obtain ⟨h32, hw, -⟩ := tempFld_apart p hp
  rw [pointTemp, fget_senseTemp x t hp, fget_fset_same _ _ _ h32, hw, sext_tcomp h1 h2]

theorem pointTemp_senseTemp_ne (x : Chip) {p q : Nat} (t : Int) (hp : p < 7) (hq : q < 7) (h : q ≠ p) :
    pointTemp (senseTemp x p t) q = pointTemp x q := by
  obtain ⟨-, -, -, -, -, -, hapart⟩ := tempFld_apart p hp
  rw [pointTemp, fget_senseTemp x t hq, fget_fset_apart _ _ _ _ (tempFld_apart q hq).1 (hapart q hq h), pointTemp]

/-- A conversion leaves the limits. -/
theorem rd_tlim_senseTemp (x : Chip) {p : Nat} (t : Int) (hp : p < 7) :
    rd (senseTemp x p t) R.SENS_TLIM = rd x R.SENS_TLIM := by
  obtain ⟨-, -, -, -, -, hlim, -⟩ := tempFld_apart p hp
  unfold senseTemp
  dsimp only
  split
  · rw [rd_fset_ne _ _ _ _ (by decide), rd_fset_ne _ _ _ _ (by decide), rd_fset_ne _ _ _ _ hlim.symm]
  · rw [rd_fset_ne _ _ _ _ (by decide), rd_fset_ne _ _ _ _ hlim.symm]

/-- A temperature limit in 1/16 of a degree: of errors, or of warnings. -/
def tempLim (x : Chip) (err : Bool) : Int := 16 * ((fget x (if err then F.SENS_TLIM_err else F.SENS_TLIM_warn) : Int) - 64)

/-- Whether it is crossed. -/
def tempOn (l : SensRt) (err : Bool) : Bool := if err then l.err else l.warn

/-- It becomes crossed or not. -/
def setTempOn (l : SensRt) (err b : Bool) : SensRt := if err then { l with err := b } else { l with warn := b }

/-- The flag of a temperature limit. -/
def tempFlag (err : Bool) : Fld := if err then F.SENS_STATUS_terr else F.SENS_STATUS_twarn

/-- The arguments of the event of a limit crossed, 1 or 2, or left, 0. -/
def tempArgs (x : Chip) (k : Nat) : List Byte := b1 (hottestPoint x) ++ i2 (hottest x) ++ b1 k

theorem tempCheck_eq (x : Chip) (err : Bool) : tempCheck x err =
    if !tempOn x.sens err && decide (tempLim x err < hottest x) then
      limitCross { x with sens := setTempOn x.sens err true } (tempFlag err) 0x01 (tempArgs x (if err then 2 else 1))
    else if tempOn x.sens err && decide (hottest x ≤ tempLim x err - 48) then
      raise { x with sens := setTempOn x.sens err false } srcSens 0x01 (tempArgs x 0)
    else x := rfl

theorem tempOn_setTempOn (l : SensRt) (err b : Bool) :
    tempOn (setTempOn l err b) err = b ∧ tempOn (setTempOn l err b) (!err) = tempOn l (!err) := by
  cases err <;> exact ⟨rfl, rfl⟩

theorem regsKept_tempCheck (x : Chip) (err : Bool) : RegsKept limitRegs x (tempCheck x err) := by
  have hflag : (tempFlag err).addr = R.SENS_STATUS := by cases err <;> rfl
  rw [tempCheck_eq]
  split
  · exact regsKept_limitCross { x with sens := setTempOn x.sens err true } _ _ hflag
  · split
    · exact regsKept_raise _ { x with sens := setTempOn x.sens err false } _ _ _
    · exact fun _ _ => rfl

/-- A limit is crossed beyond it, not crossed 3 degrees inside it, and the other stays. -/
theorem tempOn_tempCheck (x : Chip) (err : Bool) : (tempLim x err < hottest x → tempOn (tempCheck x err).sens err = true) ∧
    (hottest x ≤ tempLim x err - 48 → tempOn (tempCheck x err).sens err = false) ∧
    tempOn (tempCheck x err).sens (!err) = tempOn x.sens (!err) := by
  rw [tempCheck_eq]
  split
  next h =>
    rw [sens_limitCross]
    obtain ⟨hsame, hother⟩ := tempOn_setTempOn x.sens err true
    simp only [Bool.and_eq_true, decide_eq_true_eq] at h
    exact ⟨fun _ => hsame, fun hlt => absurd hlt (by omega), hother⟩
  next h =>
    split
    next g =>
      rw [raise_rest]
      obtain ⟨hsame, hother⟩ := tempOn_setTempOn x.sens err false
      simp only [Bool.and_eq_true, decide_eq_true_eq] at g
      exact ⟨fun hlt => absurd hlt (by omega), fun _ => hsame, hother⟩
    next g =>
      cases hc : tempOn x.sens err
      · simp only [hc, Bool.not_false, Bool.true_and, decide_eq_true_eq] at h
        exact ⟨fun hlt => absurd hlt h, fun _ => rfl, rfl⟩
      · simp only [hc, Bool.true_and, decide_eq_true_eq] at g
        exact ⟨fun _ => rfl, fun hle => absurd hle g, rfl⟩

/-- Both temperature limits checked, and `now` shown. -/
def tempChecked (x : Chip) (p : Nat) (t : Int) : Chip := sensNow (tempCheck (tempCheck (senseTemp x p t) false) true)

theorem regsKept_tempChecked (x : Chip) (p : Nat) (t : Int) : RegsKept limitRegs (senseTemp x p t) (tempChecked x p t) :=
  ((regsKept_tempCheck _ _).trans (regsKept_tempCheck _ _)).trans (regsKept_sensNow _)

/-- What the checks leave crossed, told of the limits and temperatures that they saw. -/
theorem tempOn_tempChecked (x : Chip) (p : Nat) (t : Int) (err : Bool) :
    (tempLim (senseTemp x p t) err < hottest (senseTemp x p t) → tempOn (tempChecked x p t).sens err = true) ∧
    (hottest (senseTemp x p t) ≤ tempLim (senseTemp x p t) err - 48 → tempOn (tempChecked x p t).sens err = false) := by
  obtain ⟨hw1, hw0, -⟩ := tempOn_tempCheck (senseTemp x p t) false
  obtain ⟨he1, he0, hsame⟩ := tempOn_tempCheck (tempCheck (senseTemp x p t) false) true
  have hkept := regsKept_tempCheck (senseTemp x p t) false
  have hlim : tempLim (tempCheck (senseTemp x p t) false) true = tempLim (senseTemp x p t) true := by
    rw [tempLim, tempLim, if_pos rfl, hkept.fget (by decide)]
  rw [hottest_kept hkept, hlim] at he1 he0
  rw [tempChecked, sens_sensNow]
  cases err with
  | true => exact ⟨he1, he0⟩
  | false => exact ⟨fun h => hsame.trans (hw1 h), fun h => hsame.trans (hw0 h)⟩

/-- What TEMP_LIMIT leaves: the conversion of the last point counts too. -/
def tempTaken (x : Chip) (p : Nat) (t : Int) : Chip :=
  if p = 6 then count (tempChecked x p t) R.SENS_CONV_COUNT F.SENS_STATUS_conv_wrap 1 else tempChecked x p t

theorem regsKept_tempTaken (x : Chip) (p : Nat) (t : Int) : RegsKept limitRegs (senseTemp x p t) (tempTaken x p t) := by
  unfold tempTaken
  split
  · exact (regsKept_tempChecked x p t).trans (regsKept_count _ _ _ _ (by decide) (by decide))
  · exact regsKept_tempChecked x p t

theorem sens_tempTaken (x : Chip) (p : Nat) (t : Int) : (tempTaken x p t).sens = (tempChecked x p t).sens := by
  unfold tempTaken
  split
  · rw [count_rest]
  · rfl

theorem exec_tempLimit {s : State} {p : Nat} (hp : p < 7) (hm : mgmtUp s.chip = true) (t : Int) :
    exec (.tempLimit p t) s = .next (onChip (fun x => tempTaken x p t) s) :=
  congrArg Host.Outcome.next (if_pos ⟨hp, hm⟩)

/-! The COAX limits. -/

/-- The limit of one of the COAX figures exceeded: 0 low, 1 high, 2 current. -/
def coaxBeyond (x : Chip) (mv ma k : Nat) : Bool :=
  if k = 0 then decide (mv < 100 * fget x F.SENS_VLIM_lo) else if k = 1 then decide (100 * fget x F.SENS_VLIM_hi < mv)
  else decide (10 * fget x F.SENS_ILIM_hi < ma)

/-- The figure well inside it. -/
def coaxInside (x : Chip) (mv ma k : Nat) : Bool :=
  if k = 0 then decide (100 * fget x F.SENS_VLIM_lo + 200 ≤ mv) else if k = 1 then decide (mv + 200 ≤ 100 * fget x F.SENS_VLIM_hi)
  else decide (ma + 50 ≤ 10 * fget x F.SENS_ILIM_hi)

def coaxFlag (k : Nat) : Fld := if k = 0 then F.SENS_STATUS_vlo else if k = 1 then F.SENS_STATUS_vhi else F.SENS_STATUS_ihi

theorem coaxCheck_eq (mv ma : Nat) (x : Chip) (k : Nat) : coaxCheck mv ma x k =
    if !coaxOn x.sens k && coaxBeyond x mv ma k then
      limitCross { x with sens := setCoaxOn x.sens k true } (coaxFlag k) 0x02 (b1 k ++ b1 1 ++ b2s mv ++ b2s ma)
    else if coaxOn x.sens k && coaxInside x mv ma k then
      raise { x with sens := setCoaxOn x.sens k false } srcSens 0x02 (b1 k ++ b1 0 ++ b2s mv ++ b2s ma)
    else x := rfl

theorem coaxOn_setCoaxOn_same (l : SensRt) (k : Nat) (b : Bool) : coaxOn (setCoaxOn l k b) k = b := by
  unfold coaxOn setCoaxOn
  split
  · rfl
  · split <;> rfl

theorem coaxOn_setCoaxOn_ne (l : SensRt) (b : Bool) : ∀ k < 3, ∀ j < 3, j ≠ k → coaxOn (setCoaxOn l k b) j = coaxOn l j
  | 0, _, 1, _, _ | 0, _, 2, _, _ | 1, _, 0, _, _ | 1, _, 2, _, _ | 2, _, 0, _, _ | 2, _, 1, _, _ => rfl
  | 0, _, 0, _, h | 1, _, 1, _, h | 2, _, 2, _, h => absurd rfl h

theorem regsKept_coaxCheck (mv ma : Nat) (x : Chip) (k : Nat) : RegsKept limitRegs x (coaxCheck mv ma x k) := by
  have hflag : (coaxFlag k).addr = R.SENS_STATUS := by
    unfold coaxFlag
    split
    · rfl
    · split <;> rfl
  rw [coaxCheck_eq]
  split
  · exact regsKept_limitCross { x with sens := setCoaxOn x.sens k true } _ _ hflag
  · split
    · exact regsKept_raise _ { x with sens := setCoaxOn x.sens k false } _ _ _
    · exact fun _ _ => rfl

/-- Beyond a limit one is not inside it. -/
theorem coaxInside_of_beyond {mv ma k : Nat} (h : coaxBeyond x mv ma k = true) : coaxInside x mv ma k = false := by
  unfold coaxBeyond at h
  unfold coaxInside
  split at h
  · rw [if_pos ‹_›]
    simp only [decide_eq_true_eq, decide_eq_false_iff_not] at h ⊢
    omega
  · rw [if_neg ‹_›]
    split at h
    · rw [if_pos ‹_›]
      simp only [decide_eq_true_eq, decide_eq_false_iff_not] at h ⊢
      omega
    · rw [if_neg ‹_›]
      simp only [decide_eq_true_eq, decide_eq_false_iff_not] at h ⊢
      omega

theorem coaxOn_coaxCheck_same (mv ma : Nat) (x : Chip) (k : Nat) :
    (coaxBeyond x mv ma k = true → coaxOn (coaxCheck mv ma x k).sens k = true) ∧
    (coaxInside x mv ma k = true → coaxOn (coaxCheck mv ma x k).sens k = false) := by
  rw [coaxCheck_eq]
  split
  next h =>
    rw [sens_limitCross]
    have hin := coaxInside_of_beyond (Bool.and_eq_true_iff.1 h).2
    exact ⟨fun _ => coaxOn_setCoaxOn_same .., fun h => absurd h (by simp [hin])⟩
  next h =>
    split
    next g =>
      rw [raise_rest]
      have hin := (Bool.and_eq_true_iff.1 g).2
      exact ⟨fun h => absurd hin (by simp [coaxInside_of_beyond h]), fun _ => coaxOn_setCoaxOn_same ..⟩
    next g =>
      cases hc : coaxOn x.sens k
      · exact ⟨fun hb => absurd (by rw [hc, hb]; rfl) h, fun _ => rfl⟩
      · exact ⟨fun _ => rfl, fun hb => absurd (by rw [hc, hb]; rfl) g⟩

theorem coaxOn_coaxCheck_ne (mv ma : Nat) (x : Chip) {k j : Nat} (hk : k < 3) (hj : j < 3) (h : j ≠ k) :
    coaxOn (coaxCheck mv ma x k).sens j = coaxOn x.sens j := by
  rw [coaxCheck_eq]
  split
  · rw [sens_limitCross]
    exact coaxOn_setCoaxOn_ne _ _ k hk j hj h
  · split
    · rw [raise_rest]
      exact coaxOn_setCoaxOn_ne _ _ k hk j hj h
    · rfl

theorem coax_kept (h : RegsKept limitRegs x y) (mv ma k : Nat) :
    coaxBeyond y mv ma k = coaxBeyond x mv ma k ∧ coaxInside y mv ma k = coaxInside x mv ma k := by
  rw [coaxBeyond, coaxBeyond, coaxInside, coaxInside, h.fget (f := F.SENS_VLIM_lo) (by decide),
    h.fget (f := F.SENS_VLIM_hi) (by decide), h.fget (f := F.SENS_ILIM_hi) (by decide)]
  exact ⟨rfl, rfl⟩

/-- The three limits checked. -/
def coaxChecked (mv ma : Nat) (x : Chip) : Chip := coaxCheck mv ma (coaxCheck mv ma (coaxCheck mv ma x 0) 1) 2

theorem regsKept_coaxChecked (mv ma : Nat) (x : Chip) : RegsKept limitRegs x (coaxChecked mv ma x) :=
  ((regsKept_coaxCheck _ _ _ _).trans (regsKept_coaxCheck _ _ _ _)).trans (regsKept_coaxCheck _ _ _ _)

theorem coaxOn_coaxChecked (mv ma : Nat) (x : Chip) : ∀ k < 3,
    (coaxBeyond x mv ma k = true → coaxOn (coaxChecked mv ma x).sens k = true) ∧
    (coaxInside x mv ma k = true → coaxOn (coaxChecked mv ma x).sens k = false) := by
  have h0 := regsKept_coaxCheck mv ma x 0
  have h1 := h0.trans (regsKept_coaxCheck mv ma (coaxCheck mv ma x 0) 1)
  unfold coaxChecked
  intro k hk
  match k, hk with
  | 0, _ =>
    rw [coaxOn_coaxCheck_ne _ _ _ (by decide) (by decide) (by decide), coaxOn_coaxCheck_ne _ _ _ (by decide) (by decide) (by decide)]
    exact coaxOn_coaxCheck_same mv ma x 0
  | 1, _ =>
    rw [coaxOn_coaxCheck_ne _ _ _ (by decide) (by decide) (by decide), ← (coax_kept h0 mv ma 1).1, ← (coax_kept h0 mv ma 1).2]
    exact coaxOn_coaxCheck_same mv ma _ 1
  | 2, _ =>
    rw [← (coax_kept h1 mv ma 2).1, ← (coax_kept h1 mv ma 2).2]
    exact coaxOn_coaxCheck_same mv ma _ 2

/-! A measurement of COAX. -/

/-- What a measurement of COAX writes. -/
def coaxRegs : List Nat := [R.SENS_COAX, R.SENS_PEAK, R.AIN_STATUS 0, R.AIN_STATUS 1, R.AIN_STATUS 2, R.AIN_STATUS 3]

theorem onlyRegs_feeds (x : Chip) : OnlyRegs [R.AIN_STATUS 0, R.AIN_STATUS 1, R.AIN_STATUS 2, R.AIN_STATUS 3] x
    (upTo 4 (fun a y => feedLow y a) x) := by
  refine upTo_keeps_below (P := OnlyRegs _ x) (fun a ha y hy => onlyRegs_trans hy (onlyRegs_mono ?_ (onlyRegs_feedLow y a)))
    ⟨rfl, fun _ _ => rfl⟩
  intro b hb
  rw [List.mem_singleton.1 hb]
  match a, ha with
  | 0, _ | 1, _ | 2, _ | 3, _ => simp

theorem onlyRegs_senseCoax (x : Chip) (mv ma : Nat) : OnlyRegs coaxRegs x (senseCoax x mv ma) := by
  have hfeeds : ∀ y, OnlyRegs coaxRegs y (upTo 4 (fun a y => feedLow y a) y) :=
    fun y => onlyRegs_mono (by decide) (onlyRegs_feeds y)
  have hcoax := onlyRegs_trans (onlyRegs_fset (l := coaxRegs) (f := F.SENS_COAX_ma) x (sat 16 ma) (by decide))
    (onlyRegs_fset (f := F.SENS_COAX_mv) _ (sat 16 mv) (by decide))
  unfold senseCoax senseVolts
  dsimp only
  split
  · exact onlyRegs_trans (onlyRegs_trans hcoax (hfeeds _)) (onlyRegs_fset (f := F.SENS_PEAK_vmin) _ _ (by decide))
  · exact onlyRegs_trans hcoax (hfeeds _)

theorem fget_senseCoax (x : Chip) (mv ma : Nat) : fget (senseCoax x mv ma) F.SENS_COAX_mv = min mv 0xFFFF ∧
    fget (senseCoax x mv ma) F.SENS_COAX_ma = min ma 0xFFFF := by
  have hfeeds : ∀ (y : Chip) (f : Fld), f.addr = R.SENS_COAX → fget (upTo 4 (fun a y => feedLow y a) y) f = fget y f :=
    fun y f hf => congrArg (getBits · f.lo f.width) ((onlyRegs_feeds y).2 f.addr (by rw [hf]; decide))
  have hsat : ∀ v, sat 16 v % 2 ^ 16 = min v 0xFFFF := fun v => by
    rw [sat]
    omega
  have hmv : ∀ y, fget (upTo 4 (fun a y => feedLow y a) (fset y F.SENS_COAX_mv (sat 16 mv))) F.SENS_COAX_mv = min mv 0xFFFF := by
    intro y
    rw [hfeeds _ _ rfl, fget_fset_same _ _ _ (by decide)]
    exact hsat mv
  have hma : fget (upTo 4 (fun a y => feedLow y a) (fset (fset x F.SENS_COAX_ma (sat 16 ma)) F.SENS_COAX_mv (sat 16 mv)))
      F.SENS_COAX_ma = min ma 0xFFFF := by
    rw [hfeeds _ _ rfl, fget_fset_apart _ _ _ _ (by decide) (by decide), fget_fset_same _ _ _ (by decide)]
    exact hsat ma
  unfold senseCoax senseVolts
  dsimp only
  split
  · rw [fget_fset_apart _ _ _ _ (by decide) (by decide), fget_fset_apart _ _ _ _ (by decide) (by decide)]
    exact ⟨hmv _, hma⟩
  · exact ⟨hmv _, hma⟩

theorem exec_coaxLimit {s : State} (hm : mgmtUp s.chip = true) (mv ma : Nat) :
    exec (.coaxLimit mv ma) s = .next (onChip (fun x => sensNow (coaxChecked mv ma (senseCoax x mv ma))) s) :=
  congrArg Host.Outcome.next (if_pos hm)

/-- Settles O22: the reading taken, then each limit judged by the reading and the limits that the command found. -/
theorem sensorCommands : Obligations.SensorCommands := by
  refine ⟨fun s hm => congrArg Host.Outcome.next (if_pos hm), fun p t s hp hm h1 h2 =>
    ⟨_, exec_tempLimit hp hm t, chipOnly_onChip _ s, ?_⟩, fun mv ma s hm => ⟨_, exec_coaxLimit hm mv ma, chipOnly_onChip _ s, ?_⟩⟩
  · have hkept := regsKept_tempTaken s.chip p t
    have hlim : ∀ err, tempLim (senseTemp s.chip p t) err = tempLim s.chip err := fun err => by
      cases err <;> simp only [tempLim, fget, F.SENS_TLIM_err, F.SENS_TLIM_warn, rd_tlim_senseTemp s.chip t hp, if_true, if_false,
        Bool.false_eq_true]
    have hwarn := tempOn_tempChecked s.chip p t false
    have herr := tempOn_tempChecked s.chip p t true
    rw [hlim] at hwarn herr
    rw [onChip_chip, pointTemp_kept hkept hp, hottest_kept hkept, sens_tempTaken]
    refine ⟨pointTemp_senseTemp_same s.chip hp h1 h2, fun q hq hne => ?_, hwarn.1, hwarn.2, herr.1, herr.2⟩
    rw [pointTemp_kept hkept hq, pointTemp_senseTemp_ne s.chip t hp hq hne]
  · have hkept := (regsKept_coaxChecked mv ma (senseCoax s.chip mv ma)).trans (regsKept_sensNow _)
    obtain ⟨hmv, hma⟩ := fget_senseCoax s.chip mv ma
    have hlim : ∀ f : Fld, f.addr ∉ coaxRegs → fget (senseCoax s.chip mv ma) f = fget s.chip f :=
      fun f hf => congrArg (getBits · f.lo f.width) ((onlyRegs_senseCoax s.chip mv ma).2 _ hf)
    have hon := coaxOn_coaxChecked mv ma (senseCoax s.chip mv ma)
    have hlo := hon 0 (by decide)
    have hhi := hon 1 (by decide)
    have hcur := hon 2 (by decide)
    simp only [coaxBeyond, coaxInside, hlim F.SENS_VLIM_lo (by decide), hlim F.SENS_VLIM_hi (by decide),
      hlim F.SENS_ILIM_hi (by decide), decide_eq_true_eq, if_true, if_false, OfNat.ofNat_ne_zero, one_ne_zero,
      OfNat.ofNat_ne_one] at hlo hhi hcur
    rw [onChip_chip, hkept.fget (by decide), hkept.fget (by decide), sens_sensNow]
    exact ⟨hmv, hma, hlo.1, hlo.2, hhi.1, hhi.2, hcur.1, hcur.2⟩

end Sys2Proof.Machine
end

section
/-! PROOF. Supply, power states and resets (R341 to R357), and the tick (R355). -/
namespace Sys2Proof.Machine
open Sys2Proof

variable {x : Chip} {s : State} {o : Iface}

/-! POWER_SET (R349). -/

theorem powerSet_badArg {g : Nat} {p : Bool} (h : 3 < g) : powerSet x g p 0 = (x, stBadArg) := if_pos h

theorem powerSet_busy {g : Nat} {p : Bool} (h : g ≤ 3) (ht : x.pw.trans ≠ none) : powerSet x g p 0 = (x, stBusy) := by
  rw [powerSet, if_neg (Nat.not_lt.2 h), if_pos (Option.isSome_iff_ne_none.2 ht)]

theorem powerSet_same {g : Nat} {p : Bool} (h : g ≤ 3) (ht : x.pw.trans = none) (hg : g = pstate x) :
    powerSet x g p 0 = (x, stOk) := by
  rw [powerSet, if_neg (Nat.not_lt.2 h), if_neg (by simp [ht]), if_pos hg]

theorem powerSet_denied {p : Bool} (ht : x.pw.trans = none) (hg : 3 ≠ pstate x) (hp : p = false) (hw : wakeArmed x = false) :
    powerSet x 3 p 0 = (x, stDenied) := by
  rw [powerSet, if_neg (by decide), if_neg (by simp [ht]), if_neg hg, if_pos ⟨rfl, hp, hw⟩]

theorem powerSet_begins {g : Nat} {p : Bool} (h : g ≤ 3) (ht : x.pw.trans = none) (hg : g ≠ pstate x)
    (hw : g ≠ 3 ∨ p = true ∨ wakeArmed x = true) : powerSet x g p 0 = (powerBegin x g 0, stOk) := by
  rw [powerSet, if_neg (Nat.not_lt.2 h), if_neg (by simp [ht]), if_neg hg, if_neg]
  rintro ⟨h3, hp, harm⟩
  rcases hw with hw | hw | hw
  · exact hw h3
  · exact Bool.false_ne_true (hp.symm.trans hw)
  · exact Bool.false_ne_true (harm.symm.trans hw)

theorem wakeArmed_iff : wakeArmed x = true ↔ fon x F.LINK_WSP_CFG_wake_en = true ∨ fon x F.TWB_CFG_glide_match = true ∨
    (fon x F.RTC_CTRL_arm = true ∧ fon x F.SUP_GLIDE_CFG_rtc_wake = true) := by
  simp only [wakeArmed, Bool.or_eq_true, Bool.and_eq_true]

/-- Where the mailbox serves it, POWER_SET answers what `powerSet` does. -/
theorem exec_powerSet {y : Chip} {st : Nat} (h : MboxServes s.chip 0x18)
    (hr : powerSet (begun o 0x18 s).chip (arg (begun o 0x18 s).chip 0) (arg (begun o 0x18 s).chip 1 % 2 == 1) 0 = (y, st)) :
    exec (.powerSet o) s = .next (finished st 0 { begun o 0x18 s with chip := y }) := by
  refine (congrArg Host.Outcome.next (mailbox_serves 0x18 o _ s h)).trans ?_
  dsimp only
  rw [hr]

/-- Where it changes nothing, it answers its status. -/
theorem exec_powerSet_refused {st : Nat} (h : MboxServes s.chip 0x18)
    (hr : powerSet (begun o 0x18 s).chip (arg (begun o 0x18 s).chip 0) (arg (begun o 0x18 s).chip 1 % 2 == 1) 0 =
      ((begun o 0x18 s).chip, st)) :
    exec (.powerSet o) s = .next (finished st 0 (begun o 0x18 s)) := exec_powerSet h hr

/-- Settles O23: the five answers of POWER_SET. -/
theorem powerSetCommand : Obligations.PowerSetCommand := by
  intro o s h
  refine ⟨fun hg => exec_powerSet_refused h (powerSet_badArg hg), fun hg ht => exec_powerSet_refused h (powerSet_busy hg ht),
    fun hg ht he => exec_powerSet_refused h (powerSet_same hg ht he), fun hg ht hne hp hw => ?_, fun hg ht hne hw => ⟨_, ?_, rfl⟩⟩
  · have harg : powerSet (begun o 0x18 s).chip (arg (begun o 0x18 s).chip 0) (arg (begun o 0x18 s).chip 1 % 2 == 1) 0 =
        ((begun o 0x18 s).chip, stDenied) := by
      rw [hg] at hne ⊢
      exact powerSet_denied ht hne (by simpa using hp) (Bool.eq_false_iff.2 fun harm => hw (wakeArmed_iff.1 harm))
    exact exec_powerSet_refused h harg
  · exact exec_powerSet h (powerSet_begins hg ht hne (hw.imp_right (Or.imp (by simp) wakeArmed_iff.2)))

/-! A power state reached (R350). -/

/-- Down from ACTIVE or QUIET to STANDBY. -/
theorem reachState_standby {old : Nat} (origin : Nat) (h : old ≤ 1) : reachState s old 2 origin =
    clearCarriage { s with chip := standbyDown (clkOutputs (stateSay (stateFields s.chip 2) old 2 origin)) } := by
  unfold reachState
  dsimp only
  rw [if_neg (fun h2 => absurd h2.2 (by decide)), if_pos (by decide), if_pos h]

theorem exec_stateReached {tr : Trans} (ht : s.chip.pw.trans = some tr) (hm : mgmtUp s.chip = true) :
    exec .stateReached s = .next (
      let us := (s.chip.tm.ticks - tr.start).toNat * 100000 / 32768
      let u := onChip cpTrain (reachState (onChip (fun x => fset x F.SUP_TRANS_TIME_us (sat 16 us)) s) (pstate s.chip)
        tr.target tr.origin)
      if tr.target = 3 then enterGlide u else u) := by
  refine congrArg Host.Outcome.next ?_
  rw [ht]
  exact if_pos hm

theorem exec_stateReached_idle (h : s.chip.pw.trans = none ∨ mgmtUp s.chip = false) : exec .stateReached s = .next s := by
  refine congrArg Host.Outcome.next ?_
  split
  next t ht =>
    refine if_neg ?_
    rw [h.resolve_left (by rw [ht]; exact Option.some_ne_none t)]
    decide
  next => rfl

/-- GLIDE entered with no wake latched: the chip's keep island, its sample clock held. -/
def glided (x : Chip) : Chip := sampleStop { x with
  wsp := if isHead x then { x.wsp with trimmed := some x.tm.ticks } else x.wsp
  store := { x.store with jobs := x.store.jobs.map fun j => { j with left := true } }
  pw := { x.pw with phase := .glide, glideStart := x.tm.ticks, wspGlideRx := 0, wspGlideErr := 0, ewStart := none } }

theorem enterGlide_of_no_wake (h : s.chip.pw.wake = none) : enterGlide s = onChip glided s := by
  have hw : (onChip glided s).chip.pw.wake = none := h
  unfold enterGlide
  dsimp only
  split
  next w hw' => exact absurd (hw.symm.trans hw') (Option.some_ne_none w).symm
  next => rfl

/-- Settles O24: the transition's end, and what GLIDE leaves. -/
theorem stateReachedCommand : Obligations.StateReachedCommand := by
  refine ⟨fun s tr ht hm => exec_stateReached ht hm, fun s old origin h => reachState_standby origin h, fun s h => ?_,
    fun s h => exec_stateReached_idle h⟩
  rw [enterGlide_of_no_wake h]
  refine ⟨rfl, rfl, rfl, rfl, fun j hj => ?_, rfl⟩
  obtain ⟨i, -, rfl⟩ := List.mem_map.1 hj
  rfl

/-! The early warning and the over-voltage (R343 to R345). -/

theorem exec_ew {coax : Nat} (hold : Nat) (hc : converterOn s.chip = true) (he : ewOn s.chip = false) (hv : coax < 8000) :
    exec (.ew coax hold) s = .next (onChip (fun x => ewRaise x coax hold) s) :=
  congrArg Host.Outcome.next (if_pos (by rw [hc, he, decide_eq_true hv]; rfl))

theorem exec_ew_idle {coax : Nat} (hold : Nat) (h : converterOn s.chip = false ∨ ewOn s.chip = true ∨ 8000 ≤ coax) :
    exec (.ew coax hold) s = .next s := by
  refine congrArg Host.Outcome.next (if_neg ?_)
  rcases h with h | h | h <;> simp [h]

/-- The early warning cleared and told, before what was shed restarts. -/
def ewTold (x : Chip) (vmin : Nat) : Chip :=
  let ms := match x.pw.ewStart.filter fun _ => shed x with
    | some t => (x.tm.ticks - t).toNat * 1000 / 32768
    | none => 0
  let low := min x.pw.holdMin vmin
  let x0 := fsets { x with pw := { x.pw with ewStart := none, holdMin := low } } [(F.SUP_STATUS_ew, 0), (F.SUP_STATUS_shed, 0)]
  let x1 := if shed x then fsets x0 [(F.SUP_SHED_TIME_ms, sat 16 ms), (F.SUP_SHED_TIME_vmin, sat 16 (low / 10))] else x0
  bistPauseShow (raise x1 srcSup 0x02 (b2s ms ++ b2s (low / 10)))

theorem ewDrop_eq (x : Chip) (vmin : Nat) : ewDrop x vmin =
    if shed x then after srcSup (fun z => linkAuto (rfStart z)) (ewTold x vmin) else ewTold x vmin := rfl

/-- What is told of an event shows in every register that neither the log nor the pause writes. -/
theorem fget_told (y : Chip) (code : Nat) (args : List Byte) {f : Fld} (hl : f.addr ∉ logRegs) (hb : f.addr ≠ R.BIST_STATUS) :
    fget (bistPauseShow (raise y srcSup code args)) f = fget y f := by
  rw [bistPauseShow, fflag, ← fget_raise y srcSup code args f hl]
  exact congrArg (getBits · f.lo f.width) (rd_fset_ne _ _ _ _ hb)

theorem rd_told (y : Chip) (code : Nat) (args : List Byte) {b : Nat} (hl : b ∉ logRegs) (hb : b ≠ R.BIST_STATUS) :
    rd (bistPauseShow (raise y srcSup code args)) b = rd y b := by
  rw [bistPauseShow, fflag, rd_fset_ne _ _ _ _ hb, rd_raise _ _ _ _ _ hl]

theorem pw_told (y : Chip) (code : Nat) (args : List Byte) : (bistPauseShow (raise y srcSup code args)).pw = y.pw := by
  rw [bistPauseShow, fflag, fset_rest, raise_rest]

theorem ewTold_effect (x : Chip) (vmin : Nat) :
    (ewTold x vmin).pw = { x.pw with ewStart := none, holdMin := min x.pw.holdMin vmin } ∧
    fget (ewTold x vmin) F.SUP_STATUS_ew = 0 ∧ fget (ewTold x vmin) F.SUP_STATUS_shed = 0 ∧
    (shed x = false → rd (ewTold x vmin) R.SUP_SHED_TIME = rd x R.SUP_SHED_TIME) ∧
    (shed x = true → fget (ewTold x vmin) F.SUP_SHED_TIME_vmin = min (min x.pw.holdMin vmin / 10) 65535) := by
  unfold ewTold
  dsimp only
  rw [pw_told, fget_told _ _ _ (by decide) (by decide), fget_told _ _ _ (by decide) (by decide),
    rd_told _ _ _ (by decide) (by decide), fget_told _ _ _ (by decide) (by decide)]
  cases shed x with
  | true =>
    simp only [if_true, fsets]
    refine ⟨rfl, ?_, ?_, fun h => (Bool.false_ne_true h.symm).elim, fun _ => ?_⟩
    · rw [fget_fset_apart _ _ _ _ (by decide) (by decide), fget_fset_apart _ _ _ _ (by decide) (by decide),
        fget_fset_apart _ _ _ _ (by decide) (by decide), fget_fset_same _ _ _ (by decide), Nat.zero_mod]
    · rw [fget_fset_apart _ _ _ _ (by decide) (by decide), fget_fset_apart _ _ _ _ (by decide) (by decide),
        fget_fset_same _ _ _ (by decide), Nat.zero_mod]
    · rw [fget_fset_same _ _ _ (by decide), sat]
      exact Nat.mod_eq_of_lt (by simp only [F.SUP_SHED_TIME_vmin]; omega)
  | false =>
    simp only [Bool.false_eq_true, if_false, fsets]
    refine ⟨rfl, ?_, ?_, fun _ => ?_, fun h => h.elim⟩
    · rw [fget_fset_apart _ _ _ _ (by decide) (by decide), fget_fset_same _ _ _ (by decide), Nat.zero_mod]
    · rw [fget_fset_same _ _ _ (by decide), Nat.zero_mod]
    · rw [rd_fset_ne _ _ _ _ (by decide), rd_fset_ne _ _ _ _ (by decide)]
      rfl

theorem exec_ewClear {coax vmin : Nat} (hc : converterOn s.chip = true) (he : ewOn s.chip = true) (hv : 8500 ≤ coax)
    (hm : 4000 ≤ vmin) : exec (.ewClear coax vmin) s = .next (cpDrain (onChip (fun x => feedsLowAt coax (ewDrop x vmin)) s)) := by
  refine congrArg (fun t => Host.Outcome.next (cpDrain t)) (if_pos ?_)
  rw [hc, he, decide_eq_true hv, decide_eq_true hm]
  rfl

theorem exec_ewClear_idle {coax vmin : Nat} (h : converterOn s.chip = false ∨ ewOn s.chip = false ∨ coax < 8500 ∨ vmin < 4000) :
    exec (.ewClear coax vmin) s = .next (cpDrain s) := by
  refine congrArg (fun t => Host.Outcome.next (cpDrain t)) (if_neg ?_)
  rcases h with h | h | h | h <;> simp [h, Nat.not_le.2]

theorem exec_overvolt_idle {mv : Nat} (h : converterOn s.chip = false ∨ mv ≤ 19500) : exec (.overvolt mv) s = .next s := by
  refine congrArg Host.Outcome.next (if_neg ?_)
  rcases h with h | h <;> simp [h]

/-- Settles O25: the three commands inside their limits, and that nothing happens outside. -/
theorem earlyWarningCommands : Obligations.EarlyWarningCommands := by
  refine ⟨fun coax hold s hc he hv => exec_ew hold hc he hv, fun coax hold s h => exec_ew_idle hold h,
    fun coax vmin s hc he hv hm => ⟨ewTold s.chip vmin, ?_, ?_⟩, fun coax vmin s h => exec_ewClear_idle h, fun mv s hc hv => ?_,
    fun mv s h => exec_overvolt_idle h⟩
  · refine (exec_ewClear hc he hv hm).trans (congrArg (fun t => Host.Outcome.next (cpDrain t)) ?_)
    exact onChip_congr (g := fun _ => _) (congrArg (feedsLowAt coax) (ewDrop_eq s.chip vmin))
  · obtain ⟨hpw, hew, hshed, hstay, hmin⟩ := ewTold_effect s.chip vmin
    exact ⟨hstay, hmin, hpw, hew, hshed⟩
  · exact congrArg Host.Outcome.next (if_pos (by rw [hc, decide_eq_true hv]; rfl))

/-! Resets (R353 to R357). -/

/-- A running part whose list of registers names one register twice, first at its reset word 0: it reads 0, and a reset that drops
what equals a reset word shows the 5 behind it. -/
def twiceListed (a : Nat) : State :=
  { State.reset with chip := { State.reset.chip with pw := { State.reset.chip.pw with phase := .running }, regs := [(a, 0), (a, 5)] } }

theorem rd_coldReset_twiceListed : rd (coldReset (twiceListed R.SUP_BOR_COUNT) 0 0).chip R.SUP_BOR_COUNT = 5 ∧
    rd (twiceListed R.SUP_BOR_COUNT).chip R.SUP_BOR_COUNT = 0 := by decide

/-- Refutes O26: the statement speaks of every state, those too whose list of registers is not in canonical form. A reset drops
the entry that equals the reset word, and the one behind it shows: SUP_BOR_COUNT, of domain K, reads 0 before and 5 after. -/
theorem not_coldResetContents : ¬ Obligations.ColdResetContents := by
  intro h
  obtain ⟨-, -, -, hkeep, -⟩ := h (twiceListed R.SUP_BOR_COUNT) 0 0 (by decide) (by decide)
  have hrow : regRow R.SUP_BOR_COUNT = some ⟨0x28, 0, 0xFFFFFFFF, 0, 0, .k, 0, .k⟩ := by decide
  have hsame := hkeep R.SUP_BOR_COUNT _ hrow (by decide) (by decide) (by decide) (by decide)
  rw [rd_coldReset_twiceListed.1, rd_coldReset_twiceListed.2] at hsame
  exact absurd hsame (by decide)

theorem rd_wdtReset_twiceListed : rd (wdtReset (twiceListed R.SUP_WDT_COUNT) 0).chip R.SUP_WDT_COUNT = 6 ∧
    rd (twiceListed R.SUP_WDT_COUNT).chip R.SUP_WDT_COUNT = 0 := by decide

theorem exec_wdtExpiry (h : mgmtUp s.chip = true) : exec .wdtExpiry s = .next (wdtReset s 0) :=
  congrArg Host.Outcome.next (if_pos h)

/-- Refutes O27: WDT_EXPIRY counts by one what SUP_WDT_COUNT, of domain K, read before only where the list of registers is in
canonical form. Listed twice, first as 0 and then as 5, it reads 0 before and 6 after. -/
theorem not_resetCommands : ¬ Obligations.ResetCommands := by
  intro h
  obtain ⟨-, -, -, -, -, -, -, hwdt, -⟩ := h
  obtain ⟨⟨t, ht, -, -, hcount, -⟩, -⟩ := hwdt (twiceListed R.SUP_WDT_COUNT) (by decide)
  obtain rfl : wdtReset (twiceListed R.SUP_WDT_COUNT) 0 = t := Host.Outcome.next.inj ((exec_wdtExpiry (by decide)).symm.trans ht)
  rw [rd_wdtReset_twiceListed.1, rd_wdtReset_twiceListed.2] at hcount
  exact absurd hcount (by decide)

/-! The tick (R355). -/

theorem mem_follows_of_smFind {p : Nat} {r : Follow} (h : smFind p x.follows = some r) : ∃ e ∈ x.follows, e.2 = r := by
  generalize x.follows = m at h ⊢
  induction m with
  | nil => cases h
  | cons e m ih =>
    obtain ⟨k, v⟩ := e
    rw [smFind] at h
    split at h
    · exact ⟨_, List.mem_cons_self .., Option.some.inj h⟩
    · obtain ⟨e, he, hr⟩ := ih h
      exact ⟨e, List.mem_cons_of_mem _ he, hr⟩

theorem undoEnd_of_no_undo (h : ∀ e ∈ x.follows, e.2.undo = none) (p : Nat) : undoEnd p x = x := by
  unfold undoEnd
  split
  next => rfl
  next r hr =>
    obtain ⟨e, he, rfl⟩ := mem_follows_of_smFind hr
    rw [h e he]

theorem undosEnd_of_no_undo (h : ∀ e ∈ x.follows, e.2.undo = none) : undosEnd x = x :=
  List.foldlRecOn (motive := fun y => y = x) _ _ rfl fun y hy e _ => by rw [hy, undoEnd_of_no_undo h]

/-- A reversed fade that runs goes on. -/
theorem undoEnd_runs {p : Nat} {r : Follow} {u : Undo} (hr : smFind p x.follows = some r) (hu : r.undo = some u)
    (h : 0 < (u.ends - x.tm.stime).toInt) : undoEnd p x = x := by
  unfold undoEnd followOf
  simp only [hr, hu]
  rw [if_neg (Int.not_le.2 h)]

/-- One that has ended is dropped; a candidate that is gone has no lanes to release. -/
theorem undoEnd_drops {p : Nat} {r : Follow} {u : Undo} (hr : smFind p x.follows = some r) (hu : r.undo = some u)
    (h : (u.ends - x.tm.stime).toInt ≤ 0) (hc : candOf r u.idx = none) :
    undoEnd p x = { x with follows := smInsert p { r with undo := none } x.follows } := by
  unfold undoEnd followOf
  simp only [hr, hu, hc]
  rw [if_pos h, setFollow]

/-- What a tick makes of the sample-time counter. -/
theorem tickTime_effect (m : Time) (counts : Nat) :
    (tickTime m counts).ticks = m.ticks + 1 ∧ (tickTime m counts).offset = m.offset ∧ (tickTime m counts).alarm = m.alarm := by
  unfold tickTime
  dsimp only
  split
  · split <;> exact ⟨rfl, rfl, rfl⟩
  · split <;> exact ⟨rfl, rfl, rfl⟩

theorem tickTime_runs {m : Time} (counts : Nat) (hh : m.stimeHeld = false) (hc : m.clockRun = true) : tickTime m counts =
    let f := m.stime + BitVec.ofNat 64 counts
    { m with ticks := m.ticks + 1, stime := f, latchF := f, latchT := m.ticks + 1 } := by
  simp [tickTime, hh, hc]

theorem tickTime_holds {m : Time} (counts : Nat) (hh : m.stimeHeld = true)
    (h : m.clockRun = false ∨ (m.ticks + 1 - m.latchT).toNat < 2) : tickTime m counts = { m with ticks := m.ticks + 1 } := by
  have hl : stimeLoads m = false := by
    rcases h with h | h
    · simp [stimeLoads, h]
    · simp only [stimeLoads, Nat.not_le.2 h, decide_false, Bool.and_false]
  rw [tickTime, if_pos hh, if_neg (by rw [hl]; decide)]

theorem tickTime_loads {m : Time} (counts : Nat) (hh : m.stimeHeld = true) (hc : m.clockRun = true)
    (h : 2 ≤ (m.ticks + 1 - m.latchT).toNat) : tickTime m counts =
    let f := m.latchF + BitVec.ofNat 64 (ceilDiv (125 * (m.ticks + 1 - m.latchT).toNat) 2)
    { m with ticks := m.ticks + 1, stime := f, stimeHeld := false, latchF := f, latchT := m.ticks + 1 } := by
  have hl : stimeLoads m = true := by simp only [stimeLoads, hh, hc, h, decide_true, Bool.and_true]
  rw [tickTime, if_pos hh, if_pos hl]

/-- Settles O21: the tick by what the sample-time counter does, then the reversed fades. -/
theorem sampleTimeLatch : Obligations.SampleTimeLatch := by
  intro counts s
  obtain ⟨hticks, hoff, halarm⟩ := tickTime_effect s.chip.tm counts
  refine ⟨fun x h => undosEnd_of_no_undo h, fun x p r u hr hu => ⟨undoEnd_runs hr hu, undoEnd_drops hr hu⟩,
    tickTime s.chip.tm counts, rfl, hticks, hoff, halarm, fun hh hc => ?_, fun hh h => ?_, fun hh hc h => ?_⟩
  · rw [tickTime_runs counts hh hc]
    exact ⟨rfl, rfl, rfl, hh⟩
  · rw [tickTime_holds counts hh h]
    exact ⟨rfl, hh⟩
  · rw [tickTime_loads counts hh hc h]
    exact ⟨rfl, rfl, rfl, rfl⟩

end Sys2Proof.Machine
end

section
/-! PROOF. Access to registers: writes of plain registers, domains that are down, reads that latch (R382, R464, R473 to R477). -/
namespace Sys2Proof.Machine
open Sys2Proof

variable {x y : Chip} {s : State} {o : Iface} {a : Nat} {r : RegRow}

/-! What a noted wait leaves (R464). -/

theorem fget_noteWait (x : Chip) (o : Iface) (ns : Nat) {f : Fld} (h : f.addr ≠ R.GEN_WAIT) :
    fget (noteWait x o ns) f = fget x f := by
  refine congrArg (getBits · f.lo f.width) (rd_fset_ne _ _ _ _ ?_)
  cases o <;> exact h

theorem regsUp_noteWait (x : Chip) (o : Iface) (ns : Nat) : regsUp (noteWait x o ns) = regsUp x := mgmtUp_congr rfl

/-- What is down hangs on phase, state and role alone. -/
theorem downMask_congr (hp : y.pw = x.pw) (hs : pstate y = pstate x) (hr : role y = role x) (a : Nat) (r : RegRow) :
    downMask y a r = downMask x a r := by
  rw [downMask, downMask, dUp, dUp, partRuns, partRuns, isHead, isHead, hp, hs, hr]

theorem downMask_noteWait (x : Chip) (o : Iface) (ns a : Nat) (r : RegRow) :
    downMask (noteWait x o ns) a r = downMask x a r :=
  downMask_congr (x := x) (y := noteWait x o ns) rfl (fget_noteWait x o ns (f := F.SUP_STATE_state) (by decide))
    (fget_noteWait x o ns (f := F.GEN_ROLE_role) (by decide)) a r

theorem isReg_of_row (h : regRow a = some r) (h4 : a % 4 = 0) : isReg a = true := by
  rw [isReg, h4, Nat.sub_zero, h]
  rfl

theorem row_of_isReg (h : isReg a = true) (h4 : a % 4 = 0) : ∃ r, regRow a = some r := by
  rw [isReg, h4, Nat.sub_zero] at h
  exact Option.isSome_iff_exists.1 h

/-- REGISTER_WRITE of a register that is no mailbox command is the write of its word, the wait noted. -/
theorem exec_registerWrite (hu : regsUp s.chip = true) (h4 : a % 4 = 0) (hr : isReg a = true) (hm : a ≠ R.MGMT_CMD) (v : Word)
    (b : BusObs) : exec (.registerWrite o a v b) s =
      .next (writeReg (onChip (fun x => noteWait x o b.ns) s) o a v (b.hits.contains a)) := by
  refine (congrArg Host.Outcome.next (if_pos (by rw [hu, hr, h4]; rfl))).trans (congrArg Host.Outcome.next ?_)
  have hup : regsUp (onChip (fun x => noteWait x o b.ns) s).chip = true := (regsUp_noteWait s.chip o b.ns).trans hu
  rw [busWord]
  simp only [hup, Bool.not_true, Bool.false_eq_true, if_false]
  rw [if_neg fun h => hm h.1]

theorem exec_registerWrite_idle (h : isReg a = false ∨ regsUp s.chip = false) (v : Word) (b : BusObs) :
    exec (.registerWrite o a v b) s = .next s := by
  refine congrArg Host.Outcome.next (if_neg ?_)
  rcases h with h | h <;> simp [h]

/-! Domains that are down (R476). -/

/-- A register that is wholly down is not written, which is counted and told. -/
theorem writeReg_down (hr : regRow a = some r) (hd : downMask s.chip a r = 0xFFFFFFFF) (v : Word) (c : Bool) :
    writeReg s o a v c = onChip (fun x => downWrite x a) s := by
  unfold writeReg
  simp only [hr, hd]
  refine if_pos ⟨by decide, ?_⟩
  rw [show ~~~BitVec.ofNat 32 0xFFFFFFFF = 0#32 from rfl, BitVec.and_zero]
  rfl

theorem regView_down (hr : regRow a = some r) (hd : downMask x a r = 0xFFFFFFFF) : regView x o a = resetWord a := by
  simp only [regView, hr, hd]
  rw [show ~~~BitVec.ofNat 32 0xFFFFFFFF = 0#32 from rfl, show BitVec.ofNat 32 0xFFFFFFFF = BitVec.allOnes 32 from rfl,
    BitVec.and_zero, BitVec.zero_or, BitVec.and_allOnes]

/-- Settles O13: what is wholly down reads its reset word, and writes to it are counted and told. -/
theorem downDomainAccess : Obligations.DownDomainAccess := by
  intro s o a r hr hd
  refine ⟨regView_down hr hd, fun v b hu h4 _ hm => ?_, fget_fset_same _ _ _ (by decide), ?_⟩
  · rw [exec_registerWrite hu h4 (isReg_of_row hr h4) hm]
    exact congrArg Host.Outcome.next (writeReg_down hr ((downMask_noteWait s.chip o b.ns a r).trans hd) v _)
  · rw [downWrite, rd_fset_ne _ _ _ _ (by decide), rd_count_one _ _ _ (by decide)]

/-! Registers whose write is plain (R464, R473). -/

/-- A supply register or a scratch register. -/
def PlainReg (a : Nat) : Prop :=
  0x100 ≤ a ∧ a < 0x180 ∨ a ∈ [R.GEN_SCRATCH 0, R.GEN_SCRATCH 1, R.GEN_SCRATCH 2, R.GEN_SCRATCH 3]

theorem supRows_not_d : ∀ r ∈ supRows, domMask r .d = 0 := by decide

theorem scratch_rows : ∀ a ∈ [R.GEN_SCRATCH 0, R.GEN_SCRATCH 1, R.GEN_SCRATCH 2, R.GEN_SCRATCH 3],
    a < 0x80 ∧ a ≠ R.GEN_RESET ∧ a ≠ R.GEN_CTRL ∧ (regRow a).all (fun r => domMask r .d == 0) = true := by decide

theorem regRow_sup (h1 : 0x100 ≤ a) (h2 : a < 0x180) (h4 : a % 4 = 0) : regRow a = rowAt supRows (a - 0x100) := by
  rw [regRow, if_neg (by omega), if_neg (by omega), if_neg (by omega), if_neg (by omega), if_pos h2]

/-- No bit of such a register is ever down. -/
theorem downMask_plainReg (x : Chip) (h : PlainReg a) (h4 : a % 4 = 0) (hr : regRow a = some r) : downMask x a r = 0 := by
  have hd : domMask r .d = 0 := by
    rcases h with ⟨h1, h2⟩ | h
    · rw [regRow_sup h1 h2 h4] at hr
      exact supRows_not_d r (List.mem_of_find?_eq_some hr)
    · have hall := (scratch_rows a h).2.2.2
      rw [hr] at hall
      exact beq_iff_eq.1 hall
  rw [downMask, hd, ite_self]

theorem regWrite_plainReg (x : Chip) (h : PlainReg a) (v : Word) : regWrite x o a v = plainWrite x a v := by
  rcases h with ⟨h1, h2⟩ | h
  · rw [regWrite, if_neg (by omega), if_neg (by omega), if_neg (by omega), if_pos h2]
  · obtain ⟨hlt, hreset, hctrl, -⟩ := scratch_rows a h
    rw [regWrite, if_pos hlt, genWrite, if_neg hreset, if_neg hctrl]

theorem plainReg_not_special (h : PlainReg a) : a ≠ R.GEN_RESET ∧ a ≠ R.MGMT_CMD ∧ mboxReg a = false := by
  have hlt : a < 0x180 := by
    rcases h with ⟨-, h2⟩ | h
    · exact h2
    · exact lt_trans (scratch_rows a h).1 (by decide)
  have hcmd : a ≠ R.MGMT_CMD := by
    rintro rfl
    exact absurd hlt (by decide)
  refine ⟨?_, hcmd, ?_⟩
  · rcases h with ⟨h1, -⟩ | h
    · rintro rfl
      exact absurd h1 (by decide)
    · exact (scratch_rows a h).2.1
  · have harg : ¬ R.MGMT_ARG 0 ≤ a := fun h => absurd (lt_of_le_of_lt h hlt) (by decide)
    rw [mboxReg, beq_eq_false_iff_ne.2 hcmd, decide_eq_false harg]
    rfl

/-- The write of such a register, counted where it meets an update. -/
theorem writeReg_plainReg (h : PlainReg a) (h4 : a % 4 = 0) (hr : isReg a = true) (v : Word) (c : Bool) : writeReg s o a v c =
    onChip (fun x => plainWrite (if c then count x R.GEN_COLLIDE_COUNT F.GEN_STATUS_collide_wrap 1 else x) a v) s := by
  obtain ⟨r, hrow⟩ := row_of_isReg hr h4
  obtain ⟨hreset, -, hmbox⟩ := plainReg_not_special h
  unfold writeReg
  simp only [hrow, downMask_plainReg s.chip h h4 hrow, hmbox, hreset, false_and, if_false, Bool.and_false, Bool.false_eq_true,
    ne_eq, not_true_eq_false, regWrite_plainReg _ h]
  cases c <;> rfl

theorem exec_registerWrite_plainReg (hu : regsUp s.chip = true) (h : PlainReg a) (h4 : a % 4 = 0) (hr : isReg a = true) (v : Word)
    (b : BusObs) : exec (.registerWrite o a v b) s = .next (onChip (fun x =>
      plainWrite (if b.hits.contains a then count (noteWait x o b.ns) R.GEN_COLLIDE_COUNT F.GEN_STATUS_collide_wrap 1
        else noteWait x o b.ns) a v) s) := by
  rw [exec_registerWrite hu h4 hr (plainReg_not_special h).2.1, writeReg_plainReg h h4 hr]
  rfl

theorem scratch_row : ∀ i < 4, R.GEN_SCRATCH i ∈ [R.GEN_SCRATCH 0, R.GEN_SCRATCH 1, R.GEN_SCRATCH 2, R.GEN_SCRATCH 3] ∧
    R.GEN_SCRATCH i % 4 = 0 ∧ (regRow (R.GEN_SCRATCH i)).map (fun r => (r.rw, r.w1c)) = some (0xFFFFFFFF, 0) := by decide

/-- A scratch register takes every bit. -/
theorem rd_plainWrite_scratch (x : Chip) {i : Nat} (hi : i < 4) (v : Word) :
    rd (plainWrite x (R.GEN_SCRATCH i) v) (R.GEN_SCRATCH i) = v := by
  obtain ⟨r, hr, hm⟩ := Option.map_eq_some_iff.1 (scratch_row i hi).2.2
  obtain ⟨hrw, hw1c⟩ := Prod.mk.inj hm
  rw [plainWrite_of_row x _ v r hr, rd_wr_same, rwMerge]
  simp only [hr, hrw, hw1c]
  rw [show ~~~BitVec.ofNat 32 0xFFFFFFFF = 0#32 from rfl, show BitVec.ofNat 32 0xFFFFFFFF = BitVec.allOnes 32 from rfl,
    BitVec.and_zero, BitVec.zero_or, BitVec.and_allOnes, show BitVec.ofNat 32 0 = 0#32 from rfl, BitVec.and_zero]
  exact BitVec.and_allOnes

/-- Settles O12: a supply or scratch register takes its word by the access types, counted where it meets an update. -/
theorem registerWriteAndWaitClear : Obligations.RegisterWriteAndWaitClear := by
  refine ⟨fun o a v b s hu h h4 hr => exec_registerWrite_plainReg hu h h4 hr v b, fun o i v b s hu hi => ?_,
    fun o a v b s h => exec_registerWrite_idle h v b, fun s hu => congrArg Host.Outcome.next (if_pos hu),
    fun s hu => congrArg Host.Outcome.next (if_neg (by rw [hu]; decide))⟩
  obtain ⟨hmem, h4, hrow⟩ := scratch_row i hi
  obtain ⟨r, hr, -⟩ := Option.map_eq_some_iff.1 hrow
  exact ⟨_, exec_registerWrite_plainReg hu (.inr hmem) h4 (isReg_of_row hr h4) v b, rd_plainWrite_scratch _ hi v⟩

/-! Reads that latch (R382, R477). -/

theorem ownView_latch (x : Chip) (m : SMap Word) (a : Nat) : ownView { x with latch := m } a = ownView x a := rfl

/-- What an interface latches of a partner: its bits that are up. -/
def latchWord (x : Chip) (a : Nat) : Word :=
  match regRow a with
  | some r => ownView x a &&& ~~~ BitVec.ofNat 32 (downMask x a r)
  | none => 0

theorem latchAll_cons (x : Chip) (o : Iface) (a : Nat) (l : List Nat) : latchAll x o (a :: l) =
    latchAll { x with latch := smPut (fun _ => 0) x.latch (latchKey o a) (latchWord x a) } o l := rfl

theorem latchWord_latch (x : Chip) (m : SMap Word) (a : Nat) : latchWord { x with latch := m } a = latchWord x a := rfl

theorem latchKey_inj {b : Nat} (h : latchKey o a = latchKey o b) : a = b := by
  simpa [latchKey] using h

/-- Latching partners changes the latches alone. -/
theorem latchAll_rest (o : Iface) (l : List Nat) : ∀ x : Chip, latchAll x o l = { x with latch := (latchAll x o l).latch } := by
  induction l with
  | nil => exact fun x => rfl
  | cons a l ih => exact fun x => (ih _).trans rfl

/-- The other latches stay. -/
theorem latchAll_other {k : Nat} (l : List Nat) : ∀ x : Chip, (∀ a ∈ l, k ≠ latchKey o a) →
    smGet (fun _ => 0) (latchAll x o l).latch k = smGet (fun _ => 0) x.latch k := by
  induction l with
  | nil => exact fun x _ => rfl
  | cons a l ih =>
    intro x h
    rw [latchAll_cons, ih _ fun b hb => h b (List.mem_cons_of_mem _ hb), smGet_smPut_ne _ _ _ _ _ (h a (List.mem_cons_self ..))]

/-- Each partner is latched. -/
theorem latchAll_latched (l : List Nat) : ∀ x : Chip, ∀ a ∈ l,
    smGet (fun _ => 0) (latchAll x o l).latch (latchKey o a) = latchWord x a := by
  induction l with
  | nil => exact fun x a h => nomatch h
  | cons b l ih =>
    intro x a h
    rw [latchAll_cons]
    by_cases hl : a ∈ l
    · rw [ih _ a hl, latchWord_latch]
    · obtain rfl : a = b := (List.mem_cons.1 h).resolve_right hl
      rw [latchAll_other l _ fun c hc hk => hl (by rwa [latchKey_inj hk]), smGet_smPut_same]

/-- What a read of a register that is not measured leaves: its word given, its partners latched. -/
theorem readReg_effect (x : Chip) (o : Iface) {lo : Nat} (ns : Nat) (hm : measured lo = false) :
    let y := noteWait x o ns
    (readReg x o lo ns).regs = y.regs ∧ smGet (fun _ => []) (readReg x o lo ns).rdata o.code = le 4 (regView y o lo).toNat ∧
    (∀ hi ∈ partners lo, smGet (fun _ => 0) (readReg x o lo ns).latch (latchKey o hi) = latchWord y hi) ∧
    (∀ k, (∀ hi ∈ partners lo, k ≠ latchKey o hi) →
      smGet (fun _ => 0) (readReg x o lo ns).latch k = smGet (fun _ => 0) x.latch k) := by
  have hread : readReg x o lo ns =
      giveBytes (latchAll (noteWait x o ns) o (partners lo)) o (le 4 (regView (noteWait x o ns) o lo).toNat) := by
    simp only [readReg, readTake, hm, Bool.false_eq_true, if_false]
  rw [hread]
  refine ⟨regs_latchAll .., ?_, fun hi h => latchAll_latched _ _ hi h, fun k h => latchAll_other _ _ h⟩
  rw [giveBytes, smGet_smPut_same]

theorem latchWord_of_row (hr : regRow a = some r) :
    latchWord x a = ownView x a &&& ~~~ BitVec.ofNat 32 (downMask x a r) := by
  rw [latchWord, hr]

theorem readRow_up (hu : regsUp s.chip = true) (a ns : Nat) : readRow o a ns s = onChip (fun x => readReg x o a ns) s := if_pos hu

/-- The row of an RL register with its partners. -/
theorem readRow_latches (hu : regsUp s.chip = true) (o : Iface) (ns : Nat) {lo : Nat} {his : List Nat} (hm : measured lo = false)
    (hp : partners lo = his) :
    let y := noteWait s.chip o ns
    let t := readRow o lo ns s
    ChipOnly s t ∧ t.chip.regs = y.regs ∧ smGet (fun _ => []) t.chip.rdata o.code = le 4 (regView y o lo).toNat ∧
      (∀ hi ∈ his, ∀ r, regRow hi = some r →
        smGet (fun _ => 0) t.chip.latch (latchKey o hi) = ownView y hi &&& ~~~ BitVec.ofNat 32 (downMask s.chip hi r)) ∧
      (∀ k, (∀ hi ∈ his, k ≠ latchKey o hi) → smGet (fun _ => 0) t.chip.latch k = smGet (fun _ => 0) s.chip.latch k) := by
  subst hp
  obtain ⟨hregs, hgiven, hlatched, hother⟩ := readReg_effect s.chip o ns hm
  dsimp only
  rw [readRow_up hu]
  refine ⟨chipOnly_onChip _ s, hregs, hgiven, fun hi h r hr => ?_, hother⟩
  rw [onChip_chip, hlatched hi h, latchWord_of_row hr, downMask_noteWait]

/-- A partner that is up reads what the interface latched of it. -/
theorem regView_partner (hr : regRow a = some r) (hp : isPartner a = true) (hd : downMask x a r = 0) :
    regView x o a = smGet (fun _ => 0) x.latch (latchKey o a) := by
  simp only [regView, hr, hp, hd, if_true]
  rw [show BitVec.ofNat 32 0 = 0#32 from rfl, BitVec.not_zero, BitVec.and_allOnes, BitVec.and_zero, BitVec.or_zero]

/-- The registers of the log entry named by `MGMT_LOG_SEL`. -/
theorem ownView_logData (x : Chip) : ∀ i < 4, ownView x (R.MGMT_LOG_DATA i) = logWord x i
  | 0, _ => rfl
  | 1, _ => rfl
  | 2, _ => rfl
  | 3, _ => rfl

/-- Settles O14: a row for each RL register, then the partners' own views. -/
theorem readsLatchTheirPartners : Obligations.ReadsLatchTheirPartners := by
  refine ⟨fun o ns s hu => ⟨⟨_, rfl, readRow_latches hu o ns (by decide) (by decide)⟩,
    ⟨_, rfl, readRow_latches hu o ns (by decide) (by decide)⟩, ⟨_, rfl, readRow_latches hu o ns (by decide) (by decide)⟩,
    ⟨_, rfl, readRow_latches hu o ns (by decide) (by decide)⟩, ⟨_, rfl, readRow_latches hu o ns (by decide) (by decide)⟩,
    ⟨_, rfl, readRow_latches hu o ns (by decide) (by decide)⟩, ⟨_, rfl, readRow_latches hu o ns (by decide) (by decide)⟩,
    ⟨_, rfl, readRow_latches hu o ns (by decide) (by decide)⟩⟩,
    fun x o hi r hr hp hd => regView_partner hr hp hd, fun x => ⟨BitVec.toNat_add .., rfl, rfl, ?stime, rfl, rfl, rfl, ownView_logData x⟩,
    fun k => rfl⟩
  case stime =>
    have hview : ownView x R.MGMT_STIME_HI = (x.tm.stime >>> 32).setWidth 32 := rfl
    rw [hview]
    refine BitVec.eq_of_toNat_eq ?_
    rw [BitVec.toNat_setWidth, BitVec.toNat_ushiftRight, BitVec.toNat_ofNat, Nat.shiftRight_eq_div_pow]

/-! The life of a mailbox command (R362, R363, R385, R400). -/

theorem begun_of_idle (h : fon s.chip F.MGMT_STATUS_busy = false) (o : Iface) (code : Nat) :
    begun o code s = onChip (fun y => mboxIssue y o code) s := by
  rw [begun, h]
  rfl

theorem mboxIssue_effect (x : Chip) (o : Iface) {code : Nat} (hc : code < 256) :
    fget (mboxIssue x o code) F.MGMT_CMD_code = code ∧ fget (mboxIssue x o code) F.MGMT_CMD_owner = o.code ∧
    fget (mboxIssue x o code) F.MGMT_STATUS_busy = 1 ∧ OnlyRegs [R.MGMT_CMD, R.MGMT_STATUS] x (mboxIssue x o code) := by
  have ho : o.code < 16 := by cases o <;> decide
  refine ⟨?_, ?_, ?_, onlyRegs_fsets x (by simp [F.MGMT_CMD_code, F.MGMT_CMD_owner, F.MGMT_STATUS_busy])⟩
  · rw [mboxIssue, fsets, fsets, fsets, fsets, fget_fset_apart _ _ _ _ (by decide) (by decide),
      fget_fset_apart _ _ _ _ (by decide) (by decide), fget_fset_same _ _ _ (by decide)]
    exact Nat.mod_eq_of_lt hc
  · rw [mboxIssue, fsets, fsets, fsets, fsets, fget_fset_apart _ _ _ _ (by decide) (by decide), fget_fset_same _ _ _ (by decide)]
    cases o <;> rfl
  · rw [mboxIssue, fsets, fsets, fsets, fsets, fget_fset_same _ _ _ (by decide)]
    rfl

/-- The registers that the completion of a command writes. -/
def doneRegs : List Nat := [R.MGMT_STATUS, R.MGMT_CMD_TIME, R.MGMT_INT_CAUSE, R.MGMT_CMD_COUNT, R.MGMT_FAULT_STATUS]

/-- A command completed, before its cause and its count. -/
def doneShown (x : Chip) (status len : Nat) : Chip :=
  let y := fsets x [(F.MGMT_STATUS_len, len), (F.MGMT_STATUS_status, status), (F.MGMT_STATUS_busy, 0)]
  freeNext (wr y R.MGMT_CMD_TIME (free y))

theorem mboxDone_eq (x : Chip) (status len : Nat) :
    mboxDone x status len = count (setCause (doneShown x status len) .mbox) R.MGMT_CMD_COUNT cmdCountWrap 1 := rfl

theorem rd_freeNext (x : Chip) (b : Nat) : rd (freeNext x) b = rd x b := rfl

theorem rd_doneShown_ne (x : Chip) (status len : Nat) {b : Nat} (hs : b ≠ R.MGMT_STATUS) (ht : b ≠ R.MGMT_CMD_TIME) :
    rd (doneShown x status len) b = rd x b := by
  rw [doneShown, rd_freeNext, rd_wr_ne _ _ _ _ ht]
  refine rd_fsets_ne b _ x fun e he => ?_
  simp only [List.mem_cons, List.not_mem_nil, or_false] at he
  rcases he with rfl | rfl | rfl <;> exact hs

theorem fget_doneShown (x : Chip) {status len : Nat} (hs : status < 256) (hl : len ≤ 4096) :
    fget (doneShown x status len) F.MGMT_STATUS_len = len ∧ fget (doneShown x status len) F.MGMT_STATUS_status = status ∧
    fget (doneShown x status len) F.MGMT_STATUS_busy = 0 := by
  have hwr : ∀ f : Fld, f.addr = R.MGMT_STATUS → fget (doneShown x status len) f =
      fget (fsets x [(F.MGMT_STATUS_len, len), (F.MGMT_STATUS_status, status), (F.MGMT_STATUS_busy, 0)]) f :=
    fun f hf => by rw [doneShown, fget_freeNext, fget_wr_ne _ _ _ _ (by rw [hf]; decide)]
  rw [hwr _ rfl, hwr _ rfl, hwr _ rfl, fsets, fsets, fsets, fsets, fget_fset_apart _ _ _ _ (by decide) (by decide),
    fget_fset_apart _ _ _ _ (by decide) (by decide), fget_fset_same _ _ _ (by decide), fget_fset_apart _ _ _ _ (by decide) (by decide),
    fget_fset_same _ _ _ (by decide), fget_fset_same _ _ _ (by decide)]
  exact ⟨Nat.mod_eq_of_lt (by simp only [F.MGMT_STATUS_len]; omega), Nat.mod_eq_of_lt hs, rfl⟩

theorem rd_mboxDone_ne (x : Chip) (status len : Nat) {b : Nat} (h : b ∉ doneRegs) : rd (mboxDone x status len) b = rd x b := by
  simp only [doneRegs, List.mem_cons, List.not_mem_nil, or_false, not_or] at h
  obtain ⟨hstat, htime, hint, hcount, hfault⟩ := h
  rw [mboxDone_eq, rd_count_ne _ _ _ _ _ hcount hfault, setCause, rd_fset_ne _ _ _ _ hint, rd_doneShown_ne _ _ _ hstat htime]

/-- What a completed command shows. -/
theorem mboxDone_effect (x : Chip) {status len : Nat} (hs : status < 256) (hl : len ≤ 4096) :
    fget (mboxDone x status len) F.MGMT_STATUS_busy = 0 ∧ fget (mboxDone x status len) F.MGMT_STATUS_status = status ∧
    fget (mboxDone x status len) F.MGMT_STATUS_len = len ∧ fget (mboxDone x status len) F.MGMT_INT_CAUSE_mbox = 1 ∧
    rd (mboxDone x status len) R.MGMT_CMD_COUNT = rd x R.MGMT_CMD_COUNT + 1 ∧
    rd (mboxDone x status len) R.MGMT_CMD_TIME = Config.freeWord x.freeCount := by
  obtain ⟨hlen, hstatus, hbusy⟩ := fget_doneShown x hs hl
  have hfld : ∀ f : Fld, f.lo + f.width ≤ 32 → f.addr = R.MGMT_STATUS →
      fget (mboxDone x status len) f = fget (doneShown x status len) f := by
    intro f h32 hf
    rw [mboxDone_eq, fget_count_apart _ 1 h32 (by rw [hf]; decide) (.inl (by rw [hf]; decide)),
      fget_setCause_apart _ _ h32 (.inl (by rw [hf]; decide))]
  rw [hfld _ (by decide) rfl, hfld _ (by decide) rfl, hfld _ (by decide) rfl]
  refine ⟨hbusy, hstatus, hlen, ?_, ?_, ?_⟩
  · rw [mboxDone_eq, fget_count_apart _ 1 (by decide) (by decide) (.inl (by decide))]
    exact fget_setCause_same _ .mbox rfl (by decide)
  · rw [mboxDone_eq, rd_count_one _ _ _ (by decide), setCause, rd_fset_ne _ _ _ _ (by decide),
      rd_doneShown_ne _ _ _ (by decide) (by decide)]
  · rw [mboxDone_eq, rd_count_ne _ _ _ _ _ (by decide) (by decide), setCause, rd_fset_ne _ _ _ _ (by decide), doneShown,
      rd_freeNext, rd_wr_same, free, fsets_rest]

/-- A command that the gate answers is issued and completes with the gate's status. -/
theorem mailbox_gated {code st : Nat} {body : State → MRes} (hm : mgmtUp s.chip = true) (hc : mboxClosed s.chip = false)
    (hg : mboxGate s.chip code = some st)
    (hb : fon s.chip F.MGMT_STATUS_busy = true → fget s.chip F.MGMT_CMD_code = code) :
    mailbox code o body s = finished st 0 (begun o code s) := by
  have hrun : ¬(mboxClosed s.chip || (fon s.chip F.MGMT_STATUS_busy && fget s.chip F.MGMT_CMD_code != code)) = true := by
    rw [hc, Bool.false_or, Bool.and_eq_true, bne_iff_ne]
    exact fun h => h.2 (hb h.1)
  unfold mailbox
  simp only [hm, if_true, hg]
  rw [if_neg hrun]
  rfl

theorem mailbox_halted {code : Nat} {body : State → MRes} (hp : s.chip.pw.phase = .halted)
    (hc : code ∉ [0x00, 0x01, 0x02, 0x05, 0x07])
    (hb : fon s.chip F.MGMT_STATUS_busy = true → fget s.chip F.MGMT_CMD_code = code) :
    mailbox code o body s = finished 0x06 0 (begun o code s) := by
  refine mailbox_gated (by rw [mgmtUp, hp]) ?_ ?_ hb
  · rw [mboxClosed, hp]
    exact Bool.and_false _
  · rw [mboxGate, hp]
    exact if_neg hc

theorem mailbox_recovery {code : Nat} {body : State → MRes} (hp : s.chip.pw.phase = .recovery) (hc : mboxClosed s.chip = false)
    (hb : fon s.chip F.MGMT_STATUS_busy = false) (hr : recoveryServes s.chip code = false) :
    mailbox code o body s = finished 0x06 0 (begun o code s) := by
  refine mailbox_gated (by rw [mgmtUp, hp]) hc ?_ fun h => absurd (hb.symm.trans h) Bool.false_ne_true
  rw [mboxGate, hp]
  exact if_neg (by rw [hr]; decide)

/-- Settles O15: issue, completion, refusal, then what the halt and recovery answer. -/
theorem mailboxLifecycle : Obligations.MailboxLifecycle := by
  refine ⟨fun o code s hb hc => ?_, fun status len s hs hl => ?_, fun code o body s hm hr => mailbox_refused code o body s hm hr,
    fun code o body s hm => mailbox_down code o body s hm, fun code o body s hp hc hb => mailbox_halted hp hc hb,
    fun o s hp hc hb => ?_⟩
  · obtain ⟨hcode, howner, hbusy, honly⟩ := mboxIssue_effect s.chip o hc
    dsimp only
    rw [begun_of_idle hb]
    exact ⟨hcode, howner, hbusy, chipOnly_onChip _ s, honly⟩
  · obtain ⟨hbusy, hstatus, hlen, hcause, hcount, htime⟩ := mboxDone_effect s.chip hs hl
    exact ⟨hbusy, hstatus, hlen, hcause, hcount, htime, chipOnly_onChip _ s, mboxDone_rest ..,
      fun b hb' => rd_mboxDone_ne _ _ _ hb'⟩
  · have hden : ∀ {code : Nat} {body : State → MRes}, recoveryServes s.chip code = false →
        Host.Outcome.next (mailbox code o body s) = (.next (finished 0x06 0 (begun o code s)) : Outc) :=
      fun hr => congrArg Host.Outcome.next (mailbox_recovery hp hc hb hr)
    have hlow : ∀ code ∈ [0x02, 0x18, 0x22, 0x40], recoveryServes s.chip code = false := by
      simp [recoveryServes]
    exact ⟨hden (hlow 0x02 (by decide)), hden (hlow 0x18 (by decide)), hden (hlow 0x22 (by decide)), hden (hlow 0x40 (by decide))⟩

end Sys2Proof.Machine
end

section
/-! PROOF. Clock synthesis: lock, coast and their end (R324 to R337). -/
namespace Sys2Proof.Machine
open Sys2Proof

variable {x y : Chip} {s : State}

theorem clk_raise (x : Chip) (src code : Nat) (args : List Byte) : (raise x src code args).clk = x.clk := by rw [raise_rest]

theorem tm_raise (x : Chip) (src code : Nat) (args : List Byte) : (raise x src code args).tm = x.tm := by rw [raise_rest]

theorem clk_count (x : Chip) (a : Nat) (w : Fld) (n : Nat) : (count x a w n).clk = x.clk := by rw [count_rest]

theorem tm_count (x : Chip) (a : Nat) (w : Fld) (n : Nat) : (count x a w n).tm = x.tm := by rw [count_rest]

/-! The outputs follow (R322). -/

def outRegs : List Nat := [R.CLK_OUT 0, R.CLK_OUT 1, R.CLK_OUT 2, R.CLK_OUT 3]

theorem clkOut_mem : ∀ i < 4, R.CLK_OUT i ∈ outRegs := by decide

/-- The outputs' `on` bits alone follow. -/
theorem onlyRegs_clkOutputs (x : Chip) : OnlyRegs outRegs x (clkOutputs x) :=
  upTo_keeps_below (P := OnlyRegs outRegs x) (fun i hi _ hy => onlyRegs_trans hy (onlyRegs_fset (f := F.CLK_OUT_on i) _ _ (clkOut_mem i hi)))
    ⟨rfl, fun _ _ => rfl⟩

theorem clkOutputs_rest (x : Chip) : clkOutputs x = { x with regs := (clkOutputs x).regs } := (onlyRegs_clkOutputs x).1

theorem fget_clkOutputs (x : Chip) {f : Fld} (h : f.addr ∉ outRegs) : fget (clkOutputs x) f = fget x f :=
  fget_onlyRegs (onlyRegs_clkOutputs x) h

/-! A lock (R324, R335). -/

/-- The loop locked and told, before what waited for it. -/
def lockTold (x : Chip) (band us how : Nat) (fresh : Bool) : Chip :=
  raise (clkOutputs (sampleRun (fsets x [(F.CLK_STATUS_state, ckLocked), (F.CLK_STATUS_lock_sense, 1), (F.CLK_STATUS_ref_lost, 0),
    (F.CLK_VCO_band, band % 64), (F.CLK_LOCK_TIME_us, sat 16 us), (F.CLK_CTRL_relock, 0)]) fresh)) srcClk 0x01
    (b1 (band % 64) ++ b2s us ++ b1 how)

/-- What waited for the lock begins: a calibration, or nothing. -/
theorem lockNow_cases (x : Chip) (band us how : Nat) (fresh : Bool) :
    lockNow x band us how fresh = lockTold x band us how fresh ∨
      ∃ c, lockNow x band us how fresh = calBegin (lockTold x band us how fresh) c := by
  unfold lockNow
  dsimp only
  split
  next c _ => exact .inr ⟨c, rfl⟩
  next => exact .inl rfl

theorem fget_sampleRun (x : Chip) (fresh : Bool) (f : Fld) : fget (sampleRun x fresh) f = fget x f := rfl

theorem lockTold_effect (x : Chip) (band us how : Nat) (fresh : Bool) :
    fget (lockTold x band us how fresh) F.CLK_STATUS_state = ckLocked ∧ fget (lockTold x band us how fresh) F.CLK_VCO_band = band % 64 ∧
    fget (lockTold x band us how fresh) F.CLK_CTRL_relock = 0 ∧ (lockTold x band us how fresh).tm.clockRun = true ∧
    nextSeq (lockTold x band us how fresh) srcClk = nextSeq x srcClk + 1 := by
  unfold lockTold
  refine ⟨?_, ?_, ?_, ?_, ?_⟩
  · rw [fget_raise _ _ _ _ _ (by decide), fget_clkOutputs _ (by decide), fget_sampleRun]
    simp (disch := decide) only [fsets, fget_fset_apart, fget_fset_same]
    rfl
  · rw [fget_raise _ _ _ _ _ (by decide), fget_clkOutputs _ (by decide), fget_sampleRun]
    simp (disch := decide) only [fsets, fget_fset_apart, fget_fset_same]
    exact Nat.mod_eq_of_lt (by simp only [F.CLK_VCO_band]; omega)
  · rw [fget_raise _ _ _ _ _ (by decide), fget_clkOutputs _ (by decide), fget_sampleRun]
    simp (disch := decide) only [fsets, fget_fset_same]
    rfl
  · rw [tm_raise, clkOutputs_rest]
    rfl
  · rw [nextSeq_raise_same, nextSeq_onlyRegs (onlyRegs_clkOutputs _), sampleRun, fsets_rest]
    rfl

theorem fget_calBegin (x : Chip) (c : Nat) {f : Fld} (h32 : f.lo + f.width ≤ 32) (h : f.Apart F.CLK_STATUS_cal_busy) :
    fget (calBegin x c) f = fget x f := fget_fset_apart _ _ _ _ h32 h

theorem lockNow_effect (x : Chip) (band us how : Nat) (fresh : Bool) :
    clkState (lockNow x band us how fresh) = ckLocked ∧ fget (lockNow x band us how fresh) F.CLK_VCO_band = band % 64 ∧
    fget (lockNow x band us how fresh) F.CLK_CTRL_relock = 0 ∧ (lockNow x band us how fresh).tm.clockRun = true ∧
    nextSeq (lockNow x band us how fresh) srcClk = nextSeq x srcClk + 1 := by
  have htold := lockTold_effect x band us how fresh
  rcases lockNow_cases x band us how fresh with h | ⟨c, h⟩
  · rw [h]
    exact htold
  · rw [h, clkState, fget_calBegin _ _ (by decide) (.inr (.inl (by decide))), fget_calBegin _ _ (by decide) (.inl (by decide)),
      fget_calBegin _ _ (by decide) (.inl (by decide))]
    exact htold

/-! LOCK, CLK_RELOCK and LOCK_LOST. -/

theorem exec_clkRelock (hm : mgmtUp s.chip = true) (hr : fon s.chip F.CLK_CTRL_relock = false) :
    exec .clkRelock s = .next (onChip relock s) := congrArg Host.Outcome.next (if_pos (by rw [hm, hr]; rfl))

theorem exec_clkRelock_idle (h : mgmtUp s.chip = false ∨ fon s.chip F.CLK_CTRL_relock = true) : exec .clkRelock s = .next s := by
  refine congrArg Host.Outcome.next (if_neg ?_)
  rcases h with h | h <;> simp [h]

theorem exec_lock (band us : Nat) (ppm : Int) (h : clkState s.chip = ckSearch ∨ (s.chip.pw.phase = .starting ∧ clkState s.chip = ckOff)) :
    exec (.lock band us ppm) s = .next (onChip (fun y => fset (searchEnd y band us (y.pw.phase == .starting && y.pw.kind == 0))
      F.CLK_REF_MON_ppm (tcomp 16 (clip 16 ppm))) s) := by
  refine congrArg Host.Outcome.next (if_pos ?_)
  rcases h with h | ⟨hp, ho⟩
  · simp [h]
  · simp [hp, ho]

theorem exec_lock_idle (band us : Nat) (ppm : Int) (hs : clkState s.chip ≠ ckSearch)
    (h : s.chip.pw.phase ≠ .starting ∨ clkState s.chip ≠ ckOff) : exec (.lock band us ppm) s = .next s := by
  refine congrArg Host.Outcome.next (if_neg ?_)
  simp only [Bool.or_eq_true, Bool.and_eq_true, beq_iff_eq, not_or]
  exact ⟨not_and_or.2 h, hs⟩

/-- The state of a coast that begins, before it is counted and told. -/
def coastBegun (x : Chip) (cause ctrl : Nat) : Chip :=
  let y := fsets x [(F.CLK_STATUS_state, ckCoast), (F.CLK_STATUS_ref_lost, cause), (F.CLK_STATUS_lock_sense, 0),
    (F.CLK_STATUS_cal_busy, 0), (F.CLK_CTRL_vco_cal, 0), (F.CLK_VCO_ctrl, ctrl), (F.CLK_COAST_time, 0)]
  { y with clk := { y.clk with coast := some x.tm.ticks, coastLogged := false, cal := none } }

theorem lockLost_eq (x : Chip) (cause ctrl : Nat) : lockLost x cause ctrl =
    setCause (raise (count (count (coastBegun x cause ctrl) R.CLK_LOSS_COUNT (F.CLK_STATUS_wrap.bit 0) 1) R.CLK_COAST_COUNT
      (F.CLK_STATUS_wrap.bit 1) 1) srcClk 0x02 (b1 cause)) .clk := rfl

/-- What the loss of the lock leaves. -/
theorem lockLost_effect (x : Chip) {cause ctrl : Nat} (hc : cause ≤ 1) (hv : ctrl ≤ 255) :
    let y := lockLost x cause ctrl
    clkState y = ckCoast ∧ fget y F.CLK_STATUS_ref_lost = cause ∧ fget y F.CLK_VCO_ctrl = ctrl ∧ fget y F.CLK_STATUS_lock_sense = 0 ∧
    fget y F.MGMT_INT_CAUSE_clk = 1 ∧ rd y R.CLK_LOSS_COUNT = rd x R.CLK_LOSS_COUNT + 1 ∧
    rd y R.CLK_COAST_COUNT = rd x R.CLK_COAST_COUNT + 1 ∧ y.clk.coast = some x.tm.ticks ∧ y.clk.cal = none ∧ y.tm = x.tm := by
  have hfld : ∀ f : Fld, f.lo + f.width ≤ 32 → f.addr ∉ R.CLK_LOSS_COUNT :: R.CLK_COAST_COUNT :: logRegs →
      f.Apart F.CLK_STATUS_wrap → fget (lockLost x cause ctrl) f = fget (coastBegun x cause ctrl) f := by
    intro f h32 hf hw
    simp only [List.mem_cons, not_or] at hf
    obtain ⟨hloss, hcoast, hlog⟩ := hf
    have hbit : ∀ i < 3, f.Apart (F.CLK_STATUS_wrap.bit i) := fun i hi =>
      hw.imp_right (Or.imp (fun h => h.trans (Nat.le_add_right ..))
        fun h => le_trans (by simp only [Fld.bit, F.CLK_STATUS_wrap]; omega) h)
    rw [lockLost_eq, fget_setCause_not_log _ _ hlog, fget_raise _ _ _ _ _ hlog, fget_count_apart _ 1 h32 hcoast (hbit 1 (by decide)),
      fget_count_apart _ 1 h32 hloss (hbit 0 (by decide))]
  have hbegun : ∀ b, b ∉ [R.CLK_STATUS, R.CLK_CTRL, R.CLK_VCO, R.CLK_COAST] → rd (coastBegun x cause ctrl) b = rd x b :=
    (onlyRegs_fsets (l := [R.CLK_STATUS, R.CLK_CTRL, R.CLK_VCO, R.CLK_COAST]) x (m := [(F.CLK_STATUS_state, ckCoast),
      (F.CLK_STATUS_ref_lost, cause), (F.CLK_STATUS_lock_sense, 0), (F.CLK_STATUS_cal_busy, 0), (F.CLK_CTRL_vco_cal, 0),
      (F.CLK_VCO_ctrl, ctrl), (F.CLK_COAST_time, 0)]) (by simp [F.CLK_STATUS_state, F.CLK_STATUS_ref_lost, F.CLK_STATUS_lock_sense,
        F.CLK_STATUS_cal_busy, F.CLK_CTRL_vco_cal, F.CLK_VCO_ctrl, F.CLK_COAST_time])).2
  have hset : ∀ f : Fld, fget (coastBegun x cause ctrl) f = fget (fsets x [(F.CLK_STATUS_state, ckCoast),
      (F.CLK_STATUS_ref_lost, cause), (F.CLK_STATUS_lock_sense, 0), (F.CLK_STATUS_cal_busy, 0), (F.CLK_CTRL_vco_cal, 0),
      (F.CLK_VCO_ctrl, ctrl), (F.CLK_COAST_time, 0)]) f := fun _ => rfl
  refine ⟨(hfld F.CLK_STATUS_state (by decide) (by decide) (.inr (.inl (by decide)))).trans ?_,
    (hfld _ (by decide) (by decide) (.inr (.inl (by decide)))).trans ?_, (hfld _ (by decide) (by decide) (.inl (by decide))).trans ?_,
    (hfld _ (by decide) (by decide) (.inr (.inl (by decide)))).trans ?_, fget_setCause_same _ .clk rfl (by decide), ?_, ?_, ?_, ?_, ?_⟩
  · rw [hset]
    simp (disch := decide) only [fsets, fget_fset_apart, fget_fset_same]
    rfl
  · rw [hset]
    simp (disch := decide) only [fsets, fget_fset_apart, fget_fset_same]
    exact Nat.mod_eq_of_lt (by simp only [F.CLK_STATUS_ref_lost]; omega)
  · rw [hset]
    simp (disch := decide) only [fsets, fget_fset_apart, fget_fset_same]
    exact Nat.mod_eq_of_lt (by simp only [F.CLK_VCO_ctrl]; omega)
  · rw [hset]
    simp (disch := decide) only [fsets, fget_fset_apart, fget_fset_same]
    rfl
  · rw [lockLost_eq, setCause, rd_fset_ne _ _ _ _ (by decide), rd_raise _ _ _ _ _ (by decide), rd_count_ne _ _ _ _ _ (by decide) (by decide),
      rd_count_one _ _ _ (by decide), hbegun _ (by decide)]
  · rw [lockLost_eq, setCause, rd_fset_ne _ _ _ _ (by decide), rd_raise _ _ _ _ _ (by decide), rd_count_one _ _ _ (by decide),
      rd_count_ne _ _ _ _ _ (by decide) (by decide), hbegun _ (by decide)]
  · rw [lockLost_eq, setCause, fset_clk, clk_raise, clk_count, clk_count]
    rfl
  · rw [lockLost_eq, setCause, fset_clk, clk_raise, clk_count, clk_count]
    rfl
  · rw [lockLost_eq, setCause, fset_tm, tm_raise, tm_count, tm_count]
    rfl

theorem exec_lockLost {cause ctrl : Nat} (hc : cause ≤ 1) (hv : ctrl ≤ 255) (h : clkState s.chip = ckLocked ∨ clkState s.chip = ckStep) :
    exec (.lockLost cause ctrl) s = .next (onChip (fun x => lockLost x cause ctrl) s) := by
  refine (congrArg Host.Outcome.next (if_pos h)).trans ?_
  rw [Nat.min_eq_left hc, Nat.min_eq_left hv]

theorem exec_lockLost_idle (cause ctrl : Nat) (h1 : clkState s.chip ≠ ckLocked) (h2 : clkState s.chip ≠ ckStep) :
    exec (.lockLost cause ctrl) s = .next s := congrArg Host.Outcome.next (if_neg (not_or.2 ⟨h1, h2⟩))

/-! A coast measured and ended (R327, R328). -/

theorem exec_coastLimit (h : clkState s.chip = ckCoast) (ofs : Int) :
    exec (.coastLimit ofs) s = .next (onChip (fun x => coastMeasure x ofs) s) := congrArg Host.Outcome.next (if_pos h)

theorem coastCloses_iff : coastCloses x = true ↔ 32 ≤ fget x F.CLK_VCO_ctrl ∧ fget x F.CLK_VCO_ctrl ≤ 223 := by
  rw [coastCloses, Bool.and_eq_true, decide_eq_true_eq, decide_eq_true_eq]

theorem clk_coastShow (x : Chip) (ofs : Int) : (coastShow x ofs).clk = x.clk := by rw [coastShow, fsets_rest]

theorem coastEnd_eq (x : Chip) (band us : Nat) (ofs : Int) : coastEnd x band us ofs =
    raise (if 32 ≤ fget x F.CLK_VCO_ctrl ∧ fget x F.CLK_VCO_ctrl ≤ 223
      then lockNow { coastShow x ofs with clk := { x.clk with coast := none } } (fget x F.CLK_VCO_band) us 1 false
      else searchEnd (searchBegin { coastShow x ofs with clk := { x.clk with coast := none } }) band us false)
      srcClk 0x03 (b2s (coastMs x) ++ i2 (clip 16 ofs)) := by
  unfold coastEnd
  dsimp only
  rw [clk_coastShow]
  congr 1
  exact if_congr coastCloses_iff rfl rfl

theorem exec_coastEnd (h : clkState s.chip = ckCoast) (band us : Nat) (ofs : Int) : exec (.coastEnd band us ofs) s =
    .next (if ¬(32 ≤ fget s.chip F.CLK_VCO_ctrl ∧ fget s.chip F.CLK_VCO_ctrl ≤ 223) ∧ dUp s.chip = true ∧ pstate s.chip = 0
      then onCause srcClk (dataResetAll · 1) (onChip (fun x => coastEnd x band us ofs) s)
      else onChip (fun x => coastEnd x band us ofs) s) := by
  refine congrArg Host.Outcome.next ((if_pos h).trans (if_congr ?_ rfl rfl))
  rw [Bool.and_eq_true, Bool.and_eq_true, Bool.not_eq_true', ← Bool.not_eq_true, coastCloses_iff, beq_iff_eq]

theorem exec_coast_idle (h : clkState s.chip ≠ ckCoast) (band us : Nat) (ofs : Int) :
    exec (.coastEnd band us ofs) s = .next s ∧ exec (.coastLimit ofs) s = .next s :=
  ⟨congrArg Host.Outcome.next (if_neg h), congrArg Host.Outcome.next (if_neg h)⟩

/-! The LOCK ball (R335). -/

/-- The ball's level agrees with the state. -/
abbrev senseAgrees (x : Chip) (sense : Bool) : Prop := sense = (clkState x == ckLocked || clkState x == ckStep)

theorem senseCheck_agrees {sense : Bool} (h : senseAgrees x sense) : senseCheck x sense =
    { fflag x F.CLK_STATUS_lock_sense sense with clk := { x.clk with sense := false } } := if_pos h

theorem senseCheck_again {sense : Bool} (h : ¬senseAgrees x sense) (hs : x.clk.sense = true) :
    senseCheck x sense = fflag x F.CLK_STATUS_lock_sense sense := (if_neg h).trans (if_pos hs)

theorem senseCheck_first {sense : Bool} (h : ¬senseAgrees x sense) (hs : x.clk.sense = false) : senseCheck x sense =
    raise (fset { fflag x F.CLK_STATUS_lock_sense sense with clk := { x.clk with sense := true } } F.CLK_STATUS_mismatch 1)
      srcClk 0x0A (b1 (clkShown x) ++ b1 sense.toNat) := (if_neg h).trans (if_neg (by rw [hs]; decide))

theorem fon_fflag_sense (x : Chip) (sense : Bool) : fon (fflag x F.CLK_STATUS_lock_sense sense) F.CLK_STATUS_lock_sense = sense :=
  fon_fflag_same _ _ _ (by decide) rfl

/-- What the check of the ball leaves. -/
theorem senseCheck_effect (x : Chip) (sense : Bool) :
    let y := senseCheck x sense
    fon y F.CLK_STATUS_lock_sense = sense ∧ (senseAgrees x sense → y.clk.sense = false ∧ y.lg = x.lg) ∧
    (¬senseAgrees x sense → y.clk.sense = true) ∧
    (¬senseAgrees x sense → x.clk.sense = false → fget y F.CLK_STATUS_mismatch = 1 ∧ nextSeq y srcClk = nextSeq x srcClk + 1) ∧
    (¬senseAgrees x sense → x.clk.sense = true → y.lg = x.lg) := by
  by_cases h : senseAgrees x sense
  · dsimp only
    rw [senseCheck_agrees h]
    exact ⟨fon_fflag_sense x sense, fun _ => ⟨rfl, rfl⟩, fun hn => absurd h hn, fun hn => absurd h hn, fun hn => absurd h hn⟩
  · cases hs : x.clk.sense with
    | true =>
      dsimp only
      rw [senseCheck_again h hs]
      exact ⟨fon_fflag_sense x sense, fun h' => absurd h' h, fun _ => hs, fun _ hf => absurd hf.symm Bool.false_ne_true, fun _ _ => rfl⟩
    | false =>
      dsimp only
      rw [senseCheck_first h hs, fon, fget_raise _ _ _ _ _ (by decide), fget_fset_apart _ _ _ _ (by decide) (by decide),
        fget_raise _ _ _ _ _ (by decide), fget_fset_same _ _ _ (by decide), nextSeq_raise_same]
      refine ⟨fon_fflag_sense x sense, fun h' => absurd h' h, fun _ => ?_, fun _ _ => ⟨rfl, rfl⟩, fun _ hf => absurd hf Bool.false_ne_true⟩
      rw [raise_rest]
      rfl

theorem exec_lockSense (hp : pstate s.chip ≤ 2) (hm : mgmtUp s.chip = true) (sense : Bool) :
    exec (.lockSenseMismatch sense) s = .next (onChip (fun x => senseCheck x sense) s) := congrArg Host.Outcome.next (if_pos ⟨hp, hm⟩)

theorem exec_lockSense_idle (h : pstate s.chip = 3 ∨ mgmtUp s.chip = false) (sense : Bool) :
    exec (.lockSenseMismatch sense) s = .next s := by
  refine congrArg Host.Outcome.next (if_neg ?_)
  rintro ⟨hp, hm⟩
  rcases h with h | h
  · omega
  · exact Bool.false_ne_true (h.symm.trans hm)

/-- Settles O41: relock, lock, loss of the lock, coast and its end, then the LOCK ball. -/
theorem clockLockCommands : Obligations.ClockLockCommands := by
  refine ⟨fun s hm hr => ⟨fun hp => ?_, fun hp hc => ?_, fun hp hc => ?_⟩, fun s h => exec_clkRelock_idle h,
    fun band us ppm s h => exec_lock band us ppm h, lockNow_effect, fun band us ppm s h1 h2 => exec_lock_idle band us ppm h1 h2,
    fun cause ctrl s hc hv h => ⟨_, exec_lockLost hc hv h, chipOnly_onChip _ s, lockLost_effect s.chip hc hv⟩,
    fun cause ctrl s h1 h2 => exec_lockLost_idle cause ctrl h1 h2, fun ofs s h => ⟨fun hb => ?_, fun hb => ?_⟩,
    fun band us ofs s h => ⟨coastEnd s.chip band us ofs, coastEnd_eq .., exec_coastEnd h band us ofs⟩,
    fun band us ofs s h => exec_coast_idle h band us ofs, fun sense s hp hm => ?_, fun sense s h => exec_lockSense_idle h sense⟩
  · exact exec_does (exec_clkRelock hm hr) (if_pos hp)
  · exact exec_does (exec_clkRelock hm hr) ((if_neg hp).trans (if_pos hc))
  · exact exec_does (g := fun x => x) (exec_clkRelock hm hr) ((if_neg hp).trans (if_neg hc))
  · exact exec_does (exec_coastLimit h ofs) (if_neg hb)
  · exact exec_does (exec_coastLimit h ofs) (if_pos hb)
  · obtain ⟨hsense, hagrees, hnot, hfirst, hagain⟩ := senseCheck_effect s.chip sense
    refine ⟨_, exec_lockSense hp hm sense, chipOnly_onChip _ s, hsense, ?_, fun h => (hagrees h).2, hfirst, hagain⟩
    by_cases h : senseAgrees s.chip sense
    · exact (hagrees h).1.trans (decide_eq_false (not_not.2 h)).symm
    · exact (hnot h).trans (decide_eq_true h).symm

end Sys2Proof.Machine
end

section
/-! PROOF. Clock synthesis: calibration, the converter and the outputs (R321 to R334). -/
namespace Sys2Proof.Machine
open Sys2Proof

variable {x y : Chip} {s : State}

/-! VCO calibration (R329, R330). -/

theorem exec_vcoCalStart (hm : mgmtUp s.chip = true) (hv : fon s.chip F.CLK_CTRL_vco_cal = false) : exec .vcoCalStart s =
    .next (onChip (fun x => if x.clk.cal.isSome then x else calTrigger (fset x F.CLK_CTRL_vco_cal 1) 0) s) :=
  congrArg Host.Outcome.next (if_pos (by rw [hm, hv]; rfl))

theorem calTrigger_locked (cause : Nat) (hc : x.clk.cal = none) (hl : clkState x = ckLocked) : calTrigger x cause = calBegin x cause := by
  rw [calTrigger, if_neg (by simp [hc]), if_pos hl]

theorem calTrigger_waits (cause : Nat) (hc : x.clk.cal = none) (hl : clkState x ≠ ckLocked) :
    calTrigger x cause = { x with clk := { x.clk with calDue := some cause } } := by
  rw [calTrigger, if_neg (by simp [hc]), if_neg hl]

theorem clkState_vcoCal (x : Chip) : clkState (fset x F.CLK_CTRL_vco_cal 1) = clkState x :=
  fget_fset_apart _ _ _ _ (by decide) (by decide)

theorem exec_vcoCalStart_idle (h : mgmtUp s.chip = false ∨ fon s.chip F.CLK_CTRL_vco_cal = true ∨ s.chip.clk.cal ≠ none) :
    exec .vcoCalStart s = .next s := by
  by_cases hon : (mgmtUp s.chip && !fon s.chip F.CLK_CTRL_vco_cal) = true
  · rw [Bool.and_eq_true, Bool.not_eq_true'] at hon
    have hcal : s.chip.clk.cal ≠ none := (h.resolve_left (by simp [hon.1])).resolve_left (by simp [hon.2])
    exact exec_does (g := fun x => x) (exec_vcoCalStart hon.1 hon.2) (if_pos (Option.isSome_iff_ne_none.2 hcal))
  · exact congrArg Host.Outcome.next (if_neg hon)

theorem exec_vcoCalTempTrig (h : partRuns s.chip = true) : exec .vcoCalTempTrig s = .next (onChip vcoTrig s) :=
  congrArg Host.Outcome.next (if_pos h)

theorem exec_slalomMove (h : partRuns s.chip = true) : exec .slalomMove s = .next (onChip convEval s) :=
  congrArg Host.Outcome.next (if_pos h)

theorem exec_clock_idle (h : partRuns s.chip = false) : exec .vcoCalTempTrig s = .next s ∧ exec .slalomMove s = .next s :=
  ⟨congrArg Host.Outcome.next (if_neg (by rw [h]; decide)), congrArg Host.Outcome.next (if_neg (by rw [h]; decide))⟩

theorem exec_vcoCalStep {c : Nat × Nat} (hc : s.chip.clk.cal = some c) (hl : clkState s.chip = ckLocked) (m : Option Bool)
    (ctrl : Nat) (last : Bool) : exec (.vcoCalStep m ctrl last) s = .next (onChip (fun x => calStep x c m ctrl last) s) := by
  refine congrArg Host.Outcome.next ?_
  rw [hc]
  exact if_pos hl

theorem exec_vcoCalStep_idle (h : s.chip.clk.cal = none ∨ clkState s.chip ≠ ckLocked) (m : Option Bool) (ctrl : Nat) (last : Bool) :
    exec (.vcoCalStep m ctrl last) s = .next s := by
  refine congrArg Host.Outcome.next ?_
  split
  next c hc => exact if_neg (h.resolve_left (by rw [hc]; exact Option.some_ne_none c))
  next => rfl

/-- The registers of the taints of the four inputs. -/
def taintRegs : List Nat := [R.SPL_TAINT 0, R.SPL_TAINT 1, R.SPL_TAINT 2, R.SPL_TAINT 3, R.SPL_STATUS]

theorem splTaint_mem : ∀ a < 4, [R.SPL_TAINT a, R.SPL_STATUS] ⊆ taintRegs := by decide

theorem onlyRegsAin_taintPowered (x : Chip) (ns : Nat) : OnlyRegsAin taintRegs x (taintPowered x ns) := by
  refine upTo_keeps_below (P := OnlyRegsAin taintRegs x) (fun a ha y hy => ?_) ⟨rfl, fun _ _ _ => rfl⟩
  split
  · exact onlyRegsAin_trans hy (onlyRegsAin_mono (splTaint_mem a ha) (onlyRegsAin_taintWindow y a (nowAt y) (ns + 8000)))
  · exact hy

theorem fget_taintPowered (x : Chip) (ns : Nat) {f : Fld} (h : f.addr ∉ taintRegs) (hl : f.addr ∉ logRegs) :
    fget (taintPowered x ns) f = fget x f := congrArg (getBits · f.lo f.width) ((onlyRegsAin_taintPowered x ns).2 _ h hl)

/-- The registers of a step of the band. -/
def bandMoved (x : Chip) (up : Bool) (ctrl : Nat) : Chip :=
  fsets x [(F.CLK_VCO_band, if up then min 63 (fget x F.CLK_VCO_band + 1) else fget x F.CLK_VCO_band - 1), (F.CLK_VCO_ctrl, ctrl)]

theorem fget_calMove (x : Chip) (up : Bool) (ctrl : Nat) {f : Fld} (h : f.addr ∉ taintRegs) (hl : f.addr ∉ logRegs) :
    fget (calMove x up ctrl) f = fget (bandMoved x up ctrl) f := fget_taintPowered _ _ h hl

/-- The band moves by one, within its range, and the control value is the one given. -/
theorem calMove_effect (x : Chip) (up : Bool) {ctrl : Nat} (hc : ctrl ≤ 255) :
    fget (calMove x up ctrl) F.CLK_VCO_band = (if up then min 63 (fget x F.CLK_VCO_band + 1) else fget x F.CLK_VCO_band - 1) ∧
    fget (calMove x up ctrl) F.CLK_VCO_ctrl = ctrl := by
  have hb : fget x F.CLK_VCO_band < 64 := getBits_lt ..
  rw [fget_calMove _ _ _ (by decide) (by decide), fget_calMove _ _ _ (by decide) (by decide), bandMoved]
  simp (disch := decide) only [fsets, fget_fset_apart, fget_fset_same]
  refine ⟨Nat.mod_eq_of_lt ?_, Nat.mod_eq_of_lt (lt_of_le_of_lt hc (by decide))⟩
  cases up <;> simp only [F.CLK_VCO_band, if_true, Bool.false_eq_true, if_false] at hb ⊢ <;> omega

/-- The state of a calibration that ends, before it is counted and told. -/
def calShown (x : Chip) : Chip :=
  fsets { x with clk := { x.clk with cal := none } } [(F.CLK_VCO_cal_temp, (max 0 (min 255 ((adcMean x + 8) / 16 + 64))).toNat),
    (F.CLK_STATUS_cal_busy, 0), (F.CLK_CTRL_vco_cal, 0), (F.CLK_STATUS_state, ckLocked)]

theorem calEnd_eq (x : Chip) (cause old : Nat) : calEnd x cause old =
    raise (count (calShown x) R.CLK_CAL_COUNT (F.CLK_STATUS_wrap.bit 2) 1) srcClk 0x05
      (b1 cause ++ b1 old ++ b1 (fget x F.CLK_VCO_band) ++ i2 (clip 16 (adcMean x))) := rfl

/-- What the end of a calibration leaves. -/
theorem calEnd_effect (x : Chip) (cause old : Nat) :
    (calEnd x cause old).clk.cal = none ∧ fget (calEnd x cause old) F.CLK_STATUS_cal_busy = 0 ∧
    fget (calEnd x cause old) F.CLK_CTRL_vco_cal = 0 ∧ rd (calEnd x cause old) R.CLK_CAL_COUNT = rd x R.CLK_CAL_COUNT + 1 ∧
    nextSeq (calEnd x cause old) srcClk = nextSeq x srcClk + 1 := by
  have hshown : OnlyRegs [R.CLK_VCO, R.CLK_STATUS, R.CLK_CTRL] { x with clk := { x.clk with cal := none } } (calShown x) :=
    onlyRegs_fsets _ (by simp [F.CLK_VCO_cal_temp, F.CLK_STATUS_cal_busy, F.CLK_CTRL_vco_cal, F.CLK_STATUS_state])
  rw [calEnd_eq]
  refine ⟨?_, ?_, ?_, ?_, ?_⟩
  · rw [clk_raise, clk_count, hshown.1]
  · rw [fget_raise _ _ _ _ _ (by decide), fget_count_apart _ 1 (by decide) (by decide) (by decide), calShown]
    simp (disch := decide) only [fsets, fget_fset_apart, fget_fset_same]
    rfl
  · rw [fget_raise _ _ _ _ _ (by decide), fget_count_apart _ 1 (by decide) (by decide) (by decide), calShown]
    simp (disch := decide) only [fsets, fget_fset_apart, fget_fset_same]
    rfl
  · rw [rd_raise _ _ _ _ _ (by decide), rd_count_one _ _ _ (by decide), hshown.2 _ (by decide)]
    rfl
  · rw [nextSeq_raise_same, nextSeq_count, nextSeq_onlyRegs hshown]
    rfl

/-! The converter (R331 to R334). -/

theorem convEval_stopped (h : clkState x < 2) : convEval x = x := by
  rw [convEval, if_neg]
  rw [clkRuns, decide_eq_true_eq]
  exact Nat.not_le.2 h

/-- In fixed mode at a legal frequency. -/
theorem convEval_fixed (hr : 2 ≤ clkState x) (hm : fget x F.CLK_CONV_CFG_mode = 1) (hf : convOk (fget x F.CLK_CONV_CFG_fnom) = true) :
    convEval x = convMode (fset { x with clk := { x.clk with clipF := none } } F.CLK_CONV_NOW_clear_now 0xFFF) 1
      (fget x F.CLK_CONV_CFG_fnom) := by
  have hc : clkRuns x = true := decide_eq_true hr
  unfold convEval
  rw [if_pos hc, convNom]
  simp only [hf, if_true, hm]

theorem clk_convMode (x : Chip) (mode f : Nat) : (convMode x mode f).clk = { x.clk with ramp := none } := by
  unfold convMode
  dsimp only
  split
  · rw [fsets_rest]
  · rw [clk_raise, fsets_rest]

/-- A mode put: mode and frequency read it, and every other field stays. -/
theorem fget_convMode (x : Chip) (mode f : Nat) {g : Fld} (h : g.addr ∉ logRegs) : fget (convMode x mode f) g =
    fget (fsets x [(F.CLK_CONV_NOW_mode_now, mode), (F.CLK_CONV_NOW_f, f)]) g := by
  unfold convMode
  dsimp only
  split
  · rfl
  · rw [fget_raise _ _ _ _ _ h]
    rfl

theorem convOk_lt {f : Nat} (h : convOk f = true) : f < 4096 := by
  simp only [convOk, Bool.and_eq_true, decide_eq_true_eq] at h
  omega

theorem convMode_effect (x : Chip) {f : Nat} (hf : f < 4096) :
    let y := convMode (fset { x with clk := { x.clk with clipF := none } } F.CLK_CONV_NOW_clear_now 0xFFF) 1 f
    fget y F.CLK_CONV_NOW_mode_now = 1 ∧ fget y F.CLK_CONV_NOW_f = f ∧ fget y F.CLK_CONV_NOW_clear_now = 0xFFF ∧ y.clk.ramp = none := by
  dsimp only
  rw [fget_convMode _ _ _ (by decide), fget_convMode _ _ _ (by decide), fget_convMode _ _ _ (by decide), clk_convMode]
  simp (disch := decide) only [fsets, fget_fset_apart, fget_fset_same]
  exact ⟨rfl, Nat.mod_eq_of_lt hf, rfl, trivial⟩

theorem convOk_of_cand {f : Nat} (h : f ∈ convCands) : convOk f = true := (List.mem_filter.1 h).2

/-- The nearest of some candidates is one of them. -/
theorem foldl_nearer_mem (t : Nat) (l : List Nat) : ∀ a : Option Nat, ∀ c, l.foldl (nearer t) a = some c → a = some c ∨ c ∈ l := by
  induction l with
  | nil => exact fun a c h => .inl h
  | cons b l ih =>
    intro a c h
    rcases ih _ c h with h | h
    · cases a with
      | none => exact .inr (List.mem_cons.2 (.inl (Option.some.inj h).symm))
      | some v =>
        simp only [nearer] at h
        split at h
        · exact .inr (List.mem_cons.2 (.inl (Option.some.inj h).symm))
        · exact .inl h
    · exact .inr (List.mem_cons_of_mem _ h)

/-- The clearest of some candidates is one of them. -/
theorem foldl_clearer_mem (bands : List (Int × Int)) (l : List Nat) : ∀ a : Option (Nat × Nat), ∀ c,
    l.foldl (clearer bands) a = some c → a = some c ∨ c.1 ∈ l := by
  induction l with
  | nil => exact fun a c h => .inl h
  | cons b l ih =>
    intro a c h
    rcases ih _ c h with h | h
    · cases a with
      | none => exact .inr (List.mem_cons.2 (.inl (congrArg Prod.fst (Option.some.inj h)).symm))
      | some v =>
        simp only [clearer] at h
        split at h
        · exact .inr (List.mem_cons.2 (.inl (congrArg Prod.fst (Option.some.inj h)).symm))
        · exact .inl h
    · exact .inr (List.mem_cons_of_mem _ h)

/-- The target chosen keeps to the converter's ranges, and is clear unless told otherwise. -/
theorem slalomTarget_ok (bands : List (Int × Int)) {target : Nat} (clear : Nat) (h : convOk target = true) :
    convOk (slalomTarget bands target clear).1 = true ∧
    ((slalomTarget bands target clear).2 = false → clearOk (clearance bands (slalomTarget bands target clear).1) clear = true) := by
  unfold slalomTarget
  split
  next hc => exact ⟨h, fun _ => hc⟩
  next =>
    split
    next f hf =>
      have hmem := (foldl_nearer_mem _ _ none f hf).resolve_left (fun h => nomatch h)
      exact ⟨convOk_of_cand (List.mem_filter.1 hmem).1, fun _ => (List.mem_filter.1 hmem).2⟩
    next =>
      refine ⟨?_, fun h => absurd h.symm Bool.false_ne_true⟩
      cases hc : convCands.foldl (clearer bands) none with
      | none => exact h
      | some c => exact convOk_of_cand ((foldl_clearer_mem _ _ none c hc).resolve_left (fun h => nomatch h))

/-! The outputs' enables (R237, R322). -/

theorem exec_clkOutEnWrite {i : Nat} (hi : i < 4) (hm : mgmtUp s.chip = true) (en : Bool) :
    exec (.clkOutEnWrite i en) s = .next (onChip (fun x => portsEval (outEnable x i en)) s) :=
  congrArg Host.Outcome.next (if_pos ⟨hm, hi⟩)

theorem outEnable_denied {i : Nat} (h : i = 0 ∨ i = 3) : outEnable x i false = clkDenied x (0x10 + 4 * i) := by
  rw [outEnable, if_pos]
  rcases h with rfl | rfl <;> rfl

/-- The write meets a head's transmitter. -/
def outSends (x : Chip) (i : Nat) : Bool := isHead x && (i == 1 && decide (2 ≤ fget x F.LINK_STATE_state))

theorem out_not_denied {i : Nat} {en : Bool} (h : en = true ∨ i = 1 ∨ i = 2) : ¬(!en && (i == 0 || i == 3)) = true := by
  rcases h with rfl | rfl | rfl <;> simp

/-- An output that is not denied, and meets no transmitter. -/
theorem outEnable_plain {i : Nat} {en : Bool} (h : en = true ∨ i = 1 ∨ i = 2) (hs : outSends x i = false) :
    outEnable x i en = clkOutputs (fflag x (F.CLK_OUT_en i) en) := by
  rw [outEnable, if_neg (out_not_denied h)]
  exact if_pos (by rw [← outSends, hs]; rfl)

/-- One that takes a head's transmitter with it. -/
theorem outEnable_sends {i : Nat} {en : Bool} (h : en = true ∨ i = 1 ∨ i = 2) (hs : outSends x i = true) : outEnable x i en =
    let y := clkOutputs (fflag x (F.CLK_OUT_en i) en)
    fsets { y with lk := { y.lk with next := if en then 0 else y.lk.next, wave := ⟨[], [], 0, 0⟩ } }
      [(F.LINK_PHY_STATUS_tx_on, en.toNat), (F.LINK_PHY_STATUS_ramp, en.toNat)] := by
  rw [outEnable, if_neg (out_not_denied h)]
  exact if_neg (by rw [← outSends, hs]; decide)

theorem clkOut_on_below_en (i : Nat) : (F.CLK_OUT_on i).lo + (F.CLK_OUT_on i).width ≤ (F.CLK_OUT_en 1).lo := by
  show 30 + 1 ≤ 31
  decide

/-- `on` of an output leaves `en`. -/
theorem fget_outOn_en (y : Chip) (i : Nat) (b : Bool) : fget (fflag y (F.CLK_OUT_on i) b) (F.CLK_OUT_en 1) = fget y (F.CLK_OUT_en 1) :=
  fget_fset_apart _ _ _ _ (by decide) (.inr (.inr (clkOut_on_below_en i)))

theorem fget_clkOutputs_en (x : Chip) : fget (clkOutputs x) (F.CLK_OUT_en 1) = fget x (F.CLK_OUT_en 1) := by
  unfold clkOutputs
  exact upTo_keeps (fun y => fget y (F.CLK_OUT_en 1) = fget x (F.CLK_OUT_en 1)) 4 _ (fun i y hy => (fget_outOn_en y i _).trans hy) x rfl

/-- Settles O42: calibration by its commands, the converter by its mode, the outputs by what the write of `en` meets. -/
theorem clockTuningCommands : Obligations.ClockTuningCommands := by
  refine ⟨fun s hm hv hc => ⟨fun hl => ?_, fun hl => ?_⟩, fun s h => exec_vcoCalStart_idle h, fun s hp => ⟨fun h => ?_, fun h => ?_⟩,
    fun s h => exec_clock_idle h, fun cause old ctrl last s hc hl => ⟨exec_vcoCalStep hc hl none ctrl last, fun up =>
      ⟨exec_vcoCalStep hc hl (some up) ctrl last, calMove_effect s.chip up (Nat.min_le_right ..)⟩⟩, calEnd_effect,
    fun m ctrl last s h => exec_vcoCalStep_idle h m ctrl last, fun s hp hd hc hh hl hcal => ⟨onChip (fun x => calBegin x 1) s, ?_, ?_⟩,
    fun s hp => exec_slalomMove hp, fun s hp hr hm hf => ⟨_, exec_slalomMove hp, chipOnly_onChip _ s, ?_⟩,
    fun s hp hr => exec_does (g := fun x => x) (exec_slalomMove hp) (convEval_stopped hr),
    fun bands target clear h => slalomTarget_ok bands clear h, fun i s hi hm => ⟨fun h => ?_, fun en h hn => ?_, fun en h1 hh hs => ?_⟩⟩
  · refine exec_does (exec_vcoCalStart hm hv) ((if_neg (by simp [hc])).trans ?_)
    rw [calTrigger_locked (x := fset s.chip F.CLK_CTRL_vco_cal 1) 0 hc ((clkState_vcoCal _).trans hl), calBegin, fget_fset_apart _ _ _ _ (by decide) (by decide)]
    rfl
  · refine exec_does (exec_vcoCalStart hm hv) ((if_neg (by simp [hc])).trans ?_)
    rw [calTrigger_waits (x := fset s.chip F.CLK_CTRL_vco_cal 1) 0 hc (by rw [clkState_vcoCal]; exact hl)]
    rfl
  · exact exec_does (exec_vcoCalTempTrig hp) (if_pos h)
  · exact exec_does (g := fun x => x) (exec_vcoCalTempTrig hp) (if_neg h)
  · exact exec_does (exec_vcoCalTempTrig hp) ((if_pos ⟨hd, hc, hh⟩).trans (calTrigger_locked 1 hcal hl))
  · refine ⟨chipOnly_onChip _ s, rfl, rfl, fget_fset_same _ _ _ (by decide), onlyRegs_fset (f := F.CLK_STATUS_cal_busy) _ 1 (by decide)⟩
  · rw [onChip_chip, convEval_fixed hr hm hf]
    exact convMode_effect s.chip (convOk_lt hf)
  · exact exec_does (exec_clkOutEnWrite hi hm false) (congrArg portsEval (outEnable_denied h))
  · refine exec_does (exec_clkOutEnWrite hi hm en) (congrArg portsEval (outEnable_plain h (Bool.eq_false_iff.2 fun hs => hn ?_)))
    simpa [outSends, and_left_comm, and_assoc] using hs
  · subst h1
    have hsends : outSends s.chip 1 = true := by
      rw [outSends, hh, decide_eq_true hs]
      rfl
    refine ⟨_, exec_does (g := fun _ => portsEval _) (exec_clkOutEnWrite hi hm en)
      (congrArg portsEval (outEnable_sends (.inr (.inl rfl)) hsends)), ?_, ?_, ?_, ?_⟩
    · rw [fon]
      simp (disch := decide) only [fsets, fget_fset_apart]
      rw [show ∀ (z : Chip) (k : LinkRt), fget { z with lk := k } (F.CLK_OUT_en 1) = fget z (F.CLK_OUT_en 1) from fun _ _ => rfl,
        fget_clkOutputs_en]
      exact fon_fflag_same _ _ _ (by decide) rfl
    · rw [fon]
      simp (disch := decide) only [fsets, fget_fset_apart, fget_fset_same]
      cases en <;> rfl
    · rw [fon]
      simp (disch := decide) only [fsets, fget_fset_same]
      cases en <;> rfl
    · rw [fsets_rest, clkOutputs_rest]
      rfl

end Sys2Proof.Machine
end

section
/-! PROOF. The control bus: transfers, held bytes, violations and wakes (R305 to R313, R317). -/
namespace Sys2Proof.Machine
open Sys2Proof

variable {x y : Chip} {s : State}

theorem twb_raise (x : Chip) (src code : Nat) (args : List Byte) : (raise x src code args).twb = x.twb := by rw [raise_rest]

theorem twb_count (x : Chip) (a : Nat) (w : Fld) (n : Nat) : (count x a w n).twb = x.twb := by rw [count_rest]

/-! Data bytes held (R308). -/

theorem ptrWrap_page (p : Nat) : ptrWrap p - ptrWrap p % 64 = p - p % 64 := by
  unfold ptrWrap
  omega

theorem ptrWrap_offset (p : Nat) : ptrWrap p % 64 = (p % 64 + 1) % 64 := by
  unfold ptrWrap
  omega

theorem twbHold_ptr (data : List Byte) (p : Nat) : (twbHold data p).2 = p - p % 64 + (p % 64 + data.length) % 64 := by
  induction data generalizing p with
  | nil =>
    show p = p - p % 64 + (p % 64 + 0) % 64
    omega
  | cons v data ih =>
    refine (ih (ptrWrap p)).trans ?_
    rw [ptrWrap_page, ptrWrap_offset, List.length_cons]
    omega

theorem twbHold_bytes (data : List Byte) (p : Nat) :
    (twbHold data p).1 = data.zipIdx.map fun e => (p - p % 64 + (p % 64 + e.2) % 64, e.1) := by
  induction data generalizing p with
  | nil => rfl
  | cons v data ih =>
    rw [List.zipIdx_cons', List.map_cons, List.map_map]
    show (p, v) :: (twbHold data (ptrWrap p)).1 = _
    rw [ih]
    refine congrArg₂ List.cons (Prod.ext (by show p = _; simp only []; omega) rfl) (List.map_congr_left fun e _ => Prod.ext ?_ rfl)
    show ptrWrap p - ptrWrap p % 64 + (ptrWrap p % 64 + e.2) % 64 = p - p % 64 + (p % 64 + (e.2 + 1)) % 64
    rw [ptrWrap_page, ptrWrap_offset]
    omega

/-- The pointer stays in 16 bits. -/
theorem twbHold_ptr_lt (hi lo : Byte) (data : List Byte) : (twbHold data (hi.toNat * 256 + lo.toNat)).2 < 65536 := by
  rw [twbHold_ptr]
  have hhi := hi.isLt
  have hlo := lo.isLt
  omega

/-! A STOP (R309, R317). -/

/-- The chip's held bytes taken out. -/
def heldGone (s : State) : State := onChip (fun x => { x with twb := { x.twb with held := [] } }) s

/-- What a STOP tells of held bytes that could not be applied. -/
def stopTold (q : State × Bool × Bool) : State :=
  if q.2.2 then twbBad (if q.2.1 then twbBad q.1 2 else q.1) 4 else if q.2.1 then twbBad q.1 2 else q.1

theorem twbStop_of_held {l : List (Nat × Byte)} (b : BusObs) (h : s.chip.twb.held = l) :
    twbStop b s = stopTold (twbItems b l l (heldGone s, false, false)) := by
  subst h
  rfl

theorem twbBad_up (hm : mgmtUp s.chip = true) (reason : Nat) : twbBad s reason = onChip (fun x => twbViol x reason) s := if_pos hm

theorem twbStop_nil (b : BusObs) (h : s.chip.twb.held = []) : twbStop b s = s := by
  rw [twbStop_of_held b h]
  show onChip (fun x => { x with twb := { x.twb with held := [] } }) s = s
  rw [← h]
  rfl

theorem twbKey_reg {a k : Nat} (h4 : a % 4 = 0) (hk : k < 4) (hr : isReg a = true) : twbKey (a + k) = a := by
  rw [twbKey, if_pos ((isReg_add h4 hk).trans hr)]
  omega

/-- A byte of a word of which more is held waits for the rest. -/
theorem twbItems_wait {all r : List (Nat × Byte)} {e : Nat × Byte} (b : BusObs) (q : State × Bool × Bool)
    (h : ∃ f ∈ r, twbKey f.1 = twbKey e.1) : twbItems b all (e :: r) q = twbItems b all r q := by
  obtain ⟨f, hf, hk⟩ := h
  obtain ⟨s, part, bad⟩ := q
  have hany : (r.any fun f => twbKey f.1 == twbKey e.1) = true := List.any_eq_true.2 ⟨f, hf, beq_iff_eq.2 hk⟩
  exact if_pos hany

/-- The last byte held applies the word it belongs to. -/
theorem twbItems_last {all : List (Nat × Byte)} {a : Nat} {v : Byte} {w : Word} (b : BusObs) (hr : isReg a = true)
    (hw : twbWord all (twbKey a) = some w) : twbItems b all [(a, v)] (s, false, false) = (busWord s .twb (twbKey a) w b, false, false) := by
  simp only [twbItems, List.any_nil, Bool.false_eq_true, if_false, if_pos hr, hw]

theorem twbStop_word {a : Nat} {c d e f : Byte} (b : BusObs) (h : s.chip.twb.held = [(a, c), (a + 1, d), (a + 2, e), (a + 3, f)])
    (h4 : a % 4 = 0) (hr : isReg a = true) :
    twbStop b s = busWord (heldGone s) .twb a (BitVec.ofNat 32 (unle [c, d, e, f])) b := by
  have hk : ∀ k < 4, twbKey (a + k) = a := fun k hk => twbKey_reg h4 hk hr
  have hk0 : twbKey a = a := hk 0 (by omega)
  have hword : twbWord [(a, c), (a + 1, d), (a + 2, e), (a + 3, f)] (twbKey (a + 3)) = some (BitVec.ofNat 32 (unle [c, d, e, f])) := by
    rw [hk 3 (by omega)]
    simp [twbWord, twbLast]
  rw [twbStop_of_held b h, twbItems_wait b _ ⟨(a + 1, d), by simp, (hk 1 (by omega)).trans hk0.symm⟩,
    twbItems_wait b _ ⟨(a + 2, e), by simp, (hk 2 (by omega)).trans (hk 1 (by omega)).symm⟩,
    twbItems_wait b _ ⟨(a + 3, f), by simp, (hk 3 (by omega)).trans (hk 2 (by omega)).symm⟩,
    twbItems_last b ((isReg_add h4 (by omega)).trans hr) hword, hk 3 (by omega)]
  rfl

section
variable {a : Nat} {c : Byte}

/-- A single byte of a register is a partial word. -/
theorem twbStop_partial (b : BusObs) (h : s.chip.twb.held = [(a, c)]) (hm : mgmtUp s.chip = true) (hr : isReg a = true) :
    twbStop b s = onChip (fun x => twbViol x 2) (heldGone s) := by
  have hkey : twbKey a = a - a % 4 := if_pos hr
  have hword : twbWord [(a, c)] (twbKey a) = none := by
    rw [hkey]
    by_cases h0 : a % 4 = 0
    · simp [twbWord, twbLast, h0]
    · have hne : ¬a = a - a % 4 := by omega
      simp [twbWord, twbLast, hne]
  rw [twbStop_of_held b h]
  simp only [twbItems, List.any_nil, Bool.false_eq_true, if_false, if_pos hr, hword]
  exact twbBad_up (s := heldGone s) hm 2

theorem twbStop_window (b : BusObs) (h : s.chip.twb.held = [(a, c)]) (hm : mgmtUp s.chip = true) (hr : isReg a = false)
    (hw : isWin a = true) : twbStop b s = writeWin (heldGone s) (a - 0x8000) [c] := by
  have hup : regsUp (heldGone s).chip = true := hm
  rw [twbStop_of_held b h]
  simp only [twbItems, List.any_nil, Bool.false_eq_true, if_false, hr, hw, if_true, hup]
  rfl

theorem twbStop_elsewhere (b : BusObs) (h : s.chip.twb.held = [(a, c)]) (hm : mgmtUp s.chip = true) (hr : isReg a = false)
    (hw : isWin a = false) : twbStop b s = onChip (fun x => twbViol x 4) (heldGone s) := by
  rw [twbStop_of_held b h]
  simp only [twbItems, List.any_nil, Bool.false_eq_true, if_false, hr, hw]
  exact twbBad_up (s := heldGone s) hm 4

end

/-! A transfer (R305, R307, R308, R320). -/

/-- Registers that the beginning and the end of a transfer write. -/
def xferRegs : List Nat := [R.TWB_XFER_COUNT, R.TWB_STATUS, R.GEN_WAIT]

theorem onlyRegs_twbBegin (x : Chip) (ns : Nat) : OnlyRegs xferRegs x (twbBegin x ns) :=
  onlyRegs_trans (onlyRegs_count (w := twbWrap 6) x 1 (by decide) (by decide)) (onlyRegs_fset (f := F.GEN_WAIT_twb) _ _ (by decide))

theorem rd_twbBegin_count (x : Chip) (ns : Nat) : rd (twbBegin x ns) R.TWB_XFER_COUNT = rd x R.TWB_XFER_COUNT + 1 :=
  (rd_fset_ne _ F.GEN_WAIT_twb _ _ (by decide)).trans (rd_count_one x _ _ (by decide))

/-- The chip after a transfer's last byte: the bus is open where no STOP ended it. -/
def xferEnd (stop : Bool) (x : Chip) : Chip :=
  fset { x with twb := { x.twb with busOpen := !stop } } F.TWB_STATUS_role (if stop then 0 else 1)

theorem twbEnd_eq (stop : Bool) (b : BusObs) (s : State) :
    twbEnd stop b s = if stop then twbStop b (onChip (xferEnd stop) s) else onChip (xferEnd stop) s := rfl

theorem fget_xferEnd_role (stop : Bool) (x : Chip) : fget (xferEnd stop x) F.TWB_STATUS_role = if stop then 0 else 1 := by
  refine (fget_fset_same _ F.TWB_STATUS_role _ (by decide)).trans ?_
  cases stop <;> rfl

theorem rd_xferEnd (stop : Bool) (x : Chip) {r : Nat} (h : r ≠ R.TWB_STATUS) : rd (xferEnd stop x) r = rd x r :=
  rd_fset_ne _ F.TWB_STATUS_role _ _ h

theorem twb_xferEnd (stop : Bool) (x : Chip) : (xferEnd stop x).twb = { x.twb with busOpen := !stop } := rfl

theorem twbWrite_up (hm : mgmtUp s.chip = true) (bytes : List Byte) (stop : Bool) (b : BusObs) :
    twbWrite bytes stop b s = twbEnd stop b (onChip (fun x => twbTake bytes stop (twbBegin x b.ns)) s) := if_pos hm

theorem twbWrite_down (hm : mgmtUp s.chip = false) (bytes : List Byte) (stop : Bool) (b : BusObs) : twbWrite bytes stop b s = s :=
  if_neg (ne_true_of_eq_false hm)

/-- The chip after the bytes of a write with its pointer. -/
def written (hi lo : Byte) (data : List Byte) (stop : Bool) (ns : Nat) (x : Chip) : Chip :=
  xferEnd stop (twbTake (hi :: lo :: data) stop (twbBegin x ns))

theorem written_effect (hi lo : Byte) (data : List Byte) (stop : Bool) (ns : Nat) (x : Chip) :
    let q := twbHold data (hi.toNat * 256 + lo.toNat)
    (written hi lo data stop ns x).twb = { x.twb with busOpen := !stop, held := x.twb.held ++ q.1 } ∧
    rd (written hi lo data stop ns x) R.TWB_XFER_COUNT = rd x R.TWB_XFER_COUNT + 1 ∧
    fget (written hi lo data stop ns x) F.TWB_PTR_ptr = q.2 ∧
    fget (written hi lo data stop ns x) F.TWB_STATUS_role = if stop then 0 else 1 := by
  intro q
  refine ⟨?_, ?_, ?_, fget_xferEnd_role ..⟩
  · rw [written, twb_xferEnd]
    show { (twbBegin x ns).twb with busOpen := !stop, held := (twbBegin x ns).twb.held ++ q.1 } = _
    rw [(onlyRegs_twbBegin x ns).1]
  · rw [written, rd_xferEnd _ _ (by decide)]
    exact (rd_fset_ne _ F.TWB_PTR_ptr _ _ (by decide)).trans (rd_twbBegin_count x ns)
  · refine (fget_fset_apart _ _ _ _ (by decide) (.inl (by decide))).trans ?_
    exact (fget_fset_same _ F.TWB_PTR_ptr _ (by decide)).trans (Nat.mod_eq_of_lt (twbHold_ptr_lt hi lo data))

/-- The chip after a transfer of no byte. -/
def probed (ns : Nat) (x : Chip) : Chip := xferEnd true (twbBegin x ns)

theorem exec_twbProbe (b : BusObs) (hm : mgmtUp s.chip = true) (hh : s.chip.twb.held = []) :
    twbWrite [] true b s = onChip (probed b.ns) s := by
  rw [twbWrite_up hm, twbEnd_eq, if_pos rfl]
  refine twbStop_nil b ?_
  show (twbBegin s.chip b.ns).twb.held = []
  rw [(onlyRegs_twbBegin s.chip b.ns).1, ← hh]

theorem probed_effect (ns : Nat) (x : Chip) : rd (probed ns x) R.TWB_XFER_COUNT = rd x R.TWB_XFER_COUNT + 1 ∧
    fget (probed ns x) F.TWB_STATUS_role = 0 ∧ (probed ns x).twb = { x.twb with busOpen := false } ∧
    OnlyRegs xferRegs { x with twb := (probed ns x).twb } (probed ns x) := by
  have htwb : (probed ns x).twb = { x.twb with busOpen := false } := by
    rw [probed, twb_xferEnd, (onlyRegs_twbBegin x ns).1]
    rfl
  refine ⟨?_, fget_xferEnd_role true _, htwb, ?_, fun r hr => ?_⟩
  · rw [probed, rd_xferEnd _ _ (by decide)]
    exact rd_twbBegin_count x ns
  · show fset { twbBegin x ns with twb := (probed ns x).twb } F.TWB_STATUS_role 0 = _
    rw [(onlyRegs_twbBegin x ns).1]
    rfl
  · rw [probed, rd_xferEnd _ _ fun e => hr (by rw [e]; decide)]
    exact (onlyRegs_twbBegin x ns).2 r hr

/-! A read (R308, R310). -/

theorem twb_latchAll (o : Iface) (l : List Nat) (x : Chip) : (latchAll x o l).twb = x.twb := by rw [latchAll_rest]

theorem twb_readTake (x : Chip) (o : Iface) (a : Nat) : (readTake x o a).1.twb = x.twb := by
  unfold readTake
  dsimp only
  split <;> exact twb_latchAll o _ x

/-- What a read of bytes from an address on leaves of the control bus, and how many bytes it gives. -/
theorem readSpan_effect (s : State) (o : Iface) (page : Nat) : ∀ (n a : Nat) (w : Option Word) (x : Chip),
    (readSpan s o page n a w x).1.twb = x.twb ∧ (readSpan s o page n a w x).2.length = n := by
  intro n
  induction n with
  | zero => exact fun a w x => ⟨rfl, rfl⟩
  | succ n ih =>
    intro a w x
    unfold readSpan
    dsimp only
    split
    · refine ⟨(ih ..).1.trans ?_, congrArg (· + 1) (ih ..).2⟩
      split
      · exact twb_readTake x o _
      · rfl
    · exact ⟨(ih ..).1, congrArg (· + 1) (ih ..).2⟩

/-- The bytes read from the pointer on. -/
def busTaken (s : State) (n ns : Nat) : Chip × List Byte :=
  readSpan (onChip (fun x => twbBegin x ns) s) .twb (fget s.chip F.TWB_BANK_bank) n (fget s.chip F.TWB_PTR_ptr) none (twbBegin s.chip ns)

/-- The chip after a read, its pointer moved on. -/
def busRead (s : State) (n ns : Nat) : Chip :=
  fset (giveBytes (busTaken s n ns).1 .twb (busTaken s n ns).2) F.TWB_PTR_ptr ((fget s.chip F.TWB_PTR_ptr + n) % 65536)

theorem exec_twbRead (n : Nat) (stop : Bool) (b : BusObs) (hm : mgmtUp s.chip = true) :
    exec (.twbRead n stop b) s = .next (twbEnd stop b { s with chip := busRead s n b.ns }) :=
  congrArg Host.Outcome.next (if_pos hm)

theorem exec_twbRead_ends {n : Nat} {stop : Bool} {b : BusObs} (hm : mgmtUp s.chip = true) (h : stop = false ∨ s.chip.twb.held = []) :
    exec (.twbRead n stop b) s = .next { s with chip := xferEnd stop (busRead s n b.ns) } := by
  rw [exec_twbRead n stop b hm, twbEnd_eq]
  cases stop with
  | false => rfl
  | true =>
    have hh : s.chip.twb.held = [] := h.resolve_left (by decide)
    refine congrArg Host.Outcome.next ((if_pos rfl).trans (twbStop_nil b ?_))
    show (busTaken s n b.ns).1.twb.held = []
    rw [busTaken, (readSpan_effect ..).1, (onlyRegs_twbBegin s.chip b.ns).1, ← hh]

theorem busRead_effect (n ns : Nat) (stop : Bool) (s : State) :
    fget (xferEnd stop (busRead s n ns)) F.TWB_PTR_ptr = (fget s.chip F.TWB_PTR_ptr + n) % 65536 ∧
    fget (xferEnd stop (busRead s n ns)) F.TWB_STATUS_role = (if stop then 0 else 1) ∧
    (xferEnd stop (busRead s n ns)).twb = { s.chip.twb with busOpen := !stop } ∧ (busTaken s n ns).2.length = n ∧
    smGet (fun _ => []) (xferEnd stop (busRead s n ns)).rdata Iface.twb.code = (busTaken s n ns).2 := by
  refine ⟨?_, fget_xferEnd_role .., ?_, (readSpan_effect ..).2, rdata_giveBytes ..⟩
  · refine (fget_fset_apart _ _ _ _ (by decide) (.inl (by decide))).trans ?_
    exact (fget_fset_same _ F.TWB_PTR_ptr _ (by decide)).trans (Nat.mod_eq_of_lt (Nat.mod_lt _ (by decide)))
  · show { (busTaken s n ns).1.twb with busOpen := !stop } = _
    rw [busTaken, (readSpan_effect ..).1, (onlyRegs_twbBegin s.chip ns).1]

/-! Violations (R317). -/

/-- A violation counted and flagged, before its event. -/
def busViolCounted (x : Chip) (reason : Nat) : Chip :=
  match reason with
  | 2 => fset (fset (count x R.TWB_VIOL_COUNT (twbWrap 4) 1) F.TWB_ERR_viol 1) F.TWB_ERR_partial 1
  | 3 => fset (fset (count x R.TWB_VIOL_COUNT (twbWrap 4) 1) F.TWB_ERR_viol 1) F.TWB_ERR_bus_err 1
  | 5 => fset (fset (count x R.TWB_VIOL_COUNT (twbWrap 4) 1) F.TWB_ERR_viol 1) F.TWB_ERR_stuck 1
  | _ => fset (count x R.TWB_VIOL_COUNT (twbWrap 4) 1) F.TWB_ERR_viol 1

/-- The time of a reason's event noted. -/
def busViolNoted (x : Chip) (reason : Nat) : Chip :=
  { x with twb := { x.twb with viol := smInsert reason x.tm.ticks x.twb.viol } }

/-- The event of a violation is raised, or its limit holds it back. -/
theorem twbViol_cases (x : Chip) (reason : Nat) : twbViol x reason = busViolCounted x reason ∨
    ∃ args, twbViol x reason = raise (busViolNoted (busViolCounted x reason) reason) srcTwb 0x05 args := by
  rw [show twbViol x reason = if limitOk (busViolCounted x reason) (smFind reason (busViolCounted x reason).twb.viol) then
    raise (busViolNoted (busViolCounted x reason) reason) srcTwb 0x05 (b1 reason ++ b2 (fget (busViolCounted x reason) F.TWB_PTR_ptr))
    else busViolCounted x reason from rfl]
  split
  · exact .inr ⟨_, rfl⟩
  · exact .inl rfl

theorem onlyRegs_busViolCounted (x : Chip) (reason : Nat) :
    OnlyRegs [R.TWB_VIOL_COUNT, R.TWB_STATUS, R.TWB_ERR] x (busViolCounted x reason) := by
  have hviol : OnlyRegs [R.TWB_VIOL_COUNT, R.TWB_STATUS, R.TWB_ERR] x
      (fset (count x R.TWB_VIOL_COUNT (twbWrap 4) 1) F.TWB_ERR_viol 1) :=
    onlyRegs_trans (onlyRegs_count (w := twbWrap 4) x 1 (by decide) (by decide)) (onlyRegs_fset (f := F.TWB_ERR_viol) _ _ (by decide))
  unfold busViolCounted
  split
  · exact onlyRegs_trans hviol (onlyRegs_fset (f := F.TWB_ERR_partial) _ _ (by decide))
  · exact onlyRegs_trans hviol (onlyRegs_fset (f := F.TWB_ERR_bus_err) _ _ (by decide))
  · exact onlyRegs_trans hviol (onlyRegs_fset (f := F.TWB_ERR_stuck) _ _ (by decide))
  · exact hviol

/-- Registers and the bus, but the times of its events, are those of the count. -/
theorem twbViol_keeps (x : Chip) (reason : Nat) :
    (∀ r, r ∉ logRegs → rd (twbViol x reason) r = rd (busViolCounted x reason) r) ∧
    (twbViol x reason).twb.held = x.twb.held ∧ (twbViol x reason).twb.busOpen = x.twb.busOpen := by
  have htwb : (busViolCounted x reason).twb = x.twb := by rw [(onlyRegs_busViolCounted x reason).1]
  rcases twbViol_cases x reason with h | ⟨args, h⟩
  · rw [h, htwb]
    exact ⟨fun _ _ => rfl, rfl, rfl⟩
  · rw [h, twb_raise]
    refine ⟨fun r hr => rd_raise _ _ _ _ _ hr, ?_, ?_⟩
    · show (busViolCounted x reason).twb.held = _
      rw [htwb]
    · show (busViolCounted x reason).twb.busOpen = _
      rw [htwb]

theorem rd_busViolCounted (x : Chip) (reason : Nat) : rd (busViolCounted x reason) R.TWB_VIOL_COUNT = rd x R.TWB_VIOL_COUNT + 1 := by
  have hviol : rd (fset (count x R.TWB_VIOL_COUNT (twbWrap 4) 1) F.TWB_ERR_viol 1) R.TWB_VIOL_COUNT = rd x R.TWB_VIOL_COUNT + 1 :=
    (rd_fset_ne _ _ _ _ (by decide)).trans (rd_count_one x _ _ (by decide))
  unfold busViolCounted
  split
  · exact (rd_fset_ne _ _ _ _ (by decide)).trans hviol
  · exact (rd_fset_ne _ _ _ _ (by decide)).trans hviol
  · exact (rd_fset_ne _ _ _ _ (by decide)).trans hviol
  · exact hviol

/-- A transfer abandoned: nothing held, the bus free, role 0, the violation counted. -/
theorem twbAbandon_effect (x : Chip) (reason : Nat) :
    (twbAbandon x reason).twb.held = [] ∧ fget (twbAbandon x reason) F.TWB_STATUS_role = 0 ∧
    rd (twbAbandon x reason) R.TWB_VIOL_COUNT = rd x R.TWB_VIOL_COUNT + 1 ∧ (twbAbandon x reason).twb.busOpen = false := by
  obtain ⟨hrd, hheld, hopen⟩ := twbViol_keeps { x with twb := { x.twb with held := [], busOpen := false } } reason
  refine ⟨hheld, fget_fset_same _ F.TWB_STATUS_role _ (by decide), ?_, hopen⟩
  refine (rd_fset_ne _ _ _ _ (by decide)).trans ((hrd _ (by decide)).trans ?_)
  exact rd_busViolCounted { x with twb := { x.twb with held := [], busOpen := false } } reason

/-- A flag of the errors reads as in the count. -/
theorem fget_twbAbandon_err (x : Chip) (reason : Nat) {f : Fld} (h : f.addr = R.TWB_ERR) : fget (twbAbandon x reason) f =
    fget (busViolCounted { x with twb := { x.twb with held := [], busOpen := false } } reason) f := by
  obtain ⟨hrd, -, -⟩ := twbViol_keeps { x with twb := { x.twb with held := [], busOpen := false } } reason
  rw [fget, fget, h, twbAbandon, rd_fset_ne _ _ _ _ (by decide), hrd _ (by decide)]

theorem fget_twbAbandon_busErr (x : Chip) : fget (twbAbandon x 3) F.TWB_ERR_bus_err = 1 :=
  (fget_twbAbandon_err x 3 rfl).trans (fget_fset_same _ F.TWB_ERR_bus_err _ (by decide))

theorem fget_twbAbandon_stuck (x : Chip) : fget (twbAbandon x 5) F.TWB_ERR_stuck = 1 :=
  (fget_twbAbandon_err x 5 rfl).trans (fget_fset_same _ F.TWB_ERR_stuck _ (by decide))

theorem exec_twbBusError (hm : mgmtUp s.chip = true) : exec .twbBusError s = .next (onChip (fun x => twbAbandon x 3) s) :=
  congrArg Host.Outcome.next (if_pos hm)

theorem exec_twbStuck (hm : mgmtUp s.chip = true) : exec .twbStuck s = .next (onChip (fun x => twbAbandon x 5) s) :=
  congrArg Host.Outcome.next (if_pos hm)

/-- While registers do not answer no transfer and no condition of the bus has an effect. -/
theorem exec_bus_down (hm : mgmtUp s.chip = false) (bytes : List Byte) (n : Nat) (stop : Bool) (b : BusObs) :
    exec (.twbWrite bytes stop b) s = .next s ∧ exec (.twbProbe b) s = .next s ∧ exec (.twbRead n stop b) s = .next s ∧
    exec .twbBusError s = .next s ∧ exec .twbStuck s = .next s :=
  have hf := ne_true_of_eq_false hm
  ⟨congrArg Host.Outcome.next (twbWrite_down hm bytes stop b), congrArg Host.Outcome.next (twbWrite_down hm [] true b),
    congrArg Host.Outcome.next (if_neg hf), congrArg Host.Outcome.next (if_neg hf), congrArg Host.Outcome.next (if_neg hf)⟩

/-! A wake (R313, R351). -/

/-- The latched address matches. -/
abbrev wakesMine (x : Chip) (byte : Nat) : Prop :=
  fon x F.TWB_CFG_glide_match = true ∧ byte / 2 = 0x5C + fget x F.TWB_STATUS_addr

theorem exec_twbWake {byte : Nat} (hg : gliding s.chip = true) (hmine : wakesMine s.chip byte) :
    exec (.twbWake byte) s = .next (wakeUp s 2 byte) := by
  refine congrArg Host.Outcome.next (if_pos ?_)
  rw [hg, hmine.1]
  exact beq_iff_eq.2 hmine.2

theorem exec_twbWake_idle {byte : Nat} (h : gliding s.chip = false ∨ ¬wakesMine s.chip byte) : exec (.twbWake byte) s = .next s := by
  refine congrArg Host.Outcome.next (if_neg fun hall => ?_)
  simp only [Bool.and_eq_true, beq_iff_eq] at hall
  obtain ⟨hg, hmatch, haddr⟩ := hall
  exact h.elim (fun h => Bool.false_ne_true (h.symm.trans hg)) fun h => h ⟨hmatch, haddr⟩

/-- While GLIDE is entered the first wake is latched. -/
theorem wakeUp_latched {src byte : Nat} (hp : s.chip.pw.phase ≠ .glide) (ht : (s.chip.pw.trans.map Trans.target) = some 3)
    (hn : s.chip.pw.nrst = false) (hw : s.chip.pw.wake = none) :
    wakeUp s src byte = onChip (fun x => { x with pw := { x.pw with wake := some ⟨src, byte⟩ } }) s :=
  (if_neg (ne_true_of_eq_false hn)).trans ((if_neg hp).trans (if_pos ⟨ht, by rw [hw]; rfl⟩))

theorem gliding_of_target (h : (s.chip.pw.trans.map Trans.target) = some 3) : gliding s.chip = true := by
  unfold gliding
  rw [h]
  simp

end Sys2Proof.Machine
end

section
/-! PROOF. Attention messages of the control bus (R314 to R316), and the obligation on the bus's commands. -/
namespace Sys2Proof.Machine
open Sys2Proof

variable {x y : Chip} {s : State} {m : AttnMsg}

/-! The pending message. -/

theorem twb_setMsg (x : Chip) (m : Option AttnMsg) : (setMsg x m).twb = { x.twb with msg := m } := rfl

theorem rd_setMsg (x : Chip) (m : Option AttnMsg) {r : Nat} (h : r ≠ R.TWB_ATTN_CFG) : rd (setMsg x m) r = rd x r :=
  rd_fset_ne _ F.TWB_ATTN_CFG_busy _ _ h

theorem fget_setMsg_none (x : Chip) : fget (setMsg x none) F.TWB_ATTN_CFG_busy = 0 :=
  fget_fset_same _ F.TWB_ATTN_CFG_busy _ (by decide)

/-! Its ends. -/

/-- What a message delivered leaves. -/
theorem attnSent_effect (x : Chip) (m : AttnMsg) :
    (attnSent x m).twb = { x.twb with last := m.word, sent := m.octets, msg := none } ∧
    rd (attnSent x m) R.TWB_ATTN_SENT = rd x R.TWB_ATTN_SENT + 1 ∧ fget (attnSent x m) F.TWB_ATTN_CFG_busy = 0 := by
  unfold attnSent
  dsimp only
  refine ⟨?_, ?_, ?_⟩
  · rw [twb_raise, twb_count, twb_setMsg]
  · rw [rd_raise _ _ _ _ _ (by decide), rd_count_one _ _ _ (by decide), rd_setMsg _ _ (by decide)]
    rfl
  · rw [fget_raise _ _ _ _ _ (by decide), fget_count_apart _ _ (by decide) (by decide) (.inl (by decide))]
    exact fget_setMsg_none _

/-- What a message dropped leaves. -/
theorem attnDrop_effect (x : Chip) (m : AttnMsg) (why : Nat) :
    (attnDrop x m why).twb = { x.twb with stand := x.twb.stand ||| m.word, msg := none } ∧
    rd (attnDrop x m why) R.TWB_ATTN_DROP_COUNT = rd x R.TWB_ATTN_DROP_COUNT + 1 ∧ fget (attnDrop x m why) F.TWB_ERR_drop = 1 ∧
    ∀ r ∈ [R.TWB_LOST, R.TWB_NACK_COUNT], rd (attnDrop x m why) r = rd x r := by
  have hcounted : ∀ y : Chip, OnlyRegs [R.TWB_ATTN_DROP_COUNT, R.TWB_STATUS, R.TWB_ERR] y
      (fset (count y R.TWB_ATTN_DROP_COUNT (twbWrap 3) 1) F.TWB_ERR_drop 1) := fun y =>
    onlyRegs_trans (onlyRegs_count (w := twbWrap 3) y 1 (by decide) (by decide)) (onlyRegs_fset (f := F.TWB_ERR_drop) _ _ (by decide))
  unfold attnDrop
  dsimp only
  refine ⟨?_, ?_, ?_, fun r hr => ?_⟩
  · rw [twb_raise, fset_twb, twb_count, twb_setMsg]
  · rw [rd_raise _ _ _ _ _ (by decide), rd_fset_ne _ _ _ _ (by decide), rd_count_one _ _ _ (by decide), rd_setMsg _ _ (by decide)]
    rfl
  · rw [fget_raise _ _ _ _ _ (by decide)]
    exact fget_fset_same _ F.TWB_ERR_drop _ (by decide)
  · have hout : r ∉ logRegs ∧ r ∉ [R.TWB_ATTN_DROP_COUNT, R.TWB_STATUS, R.TWB_ERR] ∧ r ≠ R.TWB_ATTN_CFG := by
      revert r
      decide
    obtain ⟨hlog, hdrop, hcfg⟩ := hout
    rw [rd_raise _ _ _ _ _ hlog, (hcounted _).2 r hdrop, rd_setMsg _ _ hcfg]
    rfl

/-- With `en` set a message stays to be tried again. -/
theorem attnAgain_on (h : fon x F.TWB_ATTN_CFG_en = true) (m : AttnMsg) : attnAgain x m = setMsg x (some m) := by
  rw [attnAgain, if_pos h]

theorem rd_attnAgain (x : Chip) (m : AttnMsg) {r : Nat} (h : r ≠ R.TWB_ATTN_CFG) : rd (attnAgain x m) r = rd x r :=
  rd_setMsg x _ h

/-! An attempt (R314, R316). -/

theorem fon_congr {f : Fld} (h : fget y f = fget x f) : fon y f = fon x f := by rw [fon, fon, h]

theorem attnBuild_some (h : x.twb.msg = some m) : attnBuild x = (x, m) := by
  unfold attnBuild
  rw [h]

/-- The octets of a new message. -/
def attnBody (x : Chip) : List Byte := b1 (0x5C + fget x F.TWB_STATUS_addr) ++ b1 x.twb.nextSeq ++ b4 (causeWord x).toNat

/-- A new message. -/
def attnFresh (x : Chip) : AttnMsg := ⟨x.twb.nextSeq, attnBody x ++ b1 (crc8 (attnBody x)), causeWord x, 0, 0, 0⟩

/-- The chip that has taken a new message's number. -/
def attnNumbered (x : Chip) : Chip :=
  fset { x with twb := { x.twb with nextSeq := (x.twb.nextSeq + 1) % 256 } } F.TWB_ATTN_CFG_seq x.twb.nextSeq

theorem attnBuild_none (h : x.twb.msg = none) : attnBuild x = (attnNumbered x, attnFresh x) := by
  unfold attnBuild
  rw [h]
  rfl

/-- The message noted as the one on the bus. -/
def attnOut (x : Chip) (m : AttnMsg) : Chip := { x with twb := { x.twb with sent := m.octets } }

theorem attnTry_delivered {x' : Chip} (h : attnBuild x = (x', m)) :
    attnTry x .delivered = attnSent (attnOut x' m) { m with tries := m.tries + 1 } := by
  unfold attnTry
  rw [h]
  rfl

theorem attnTry_refused (h : x.twb.msg = some m) : attnTry x .refused =
    if 4 ≤ m.refusals + 1 then
      attnDrop (count (attnOut x m) R.TWB_NACK_COUNT (twbWrap 1) 1) { m with tries := m.tries + 1, refusals := m.refusals + 1 } 1
    else attnAgain (count (attnOut x m) R.TWB_NACK_COUNT (twbWrap 1) 1) { m with tries := m.tries + 1, refusals := m.refusals + 1 } := by
  unfold attnTry
  rw [attnBuild_some h]
  rfl

/-- A loss counted and told. -/
def attnLostTold (x : Chip) (m : AttnMsg) (byte bit : Nat) : Chip :=
  raise (count (attnOut x m) R.TWB_LOST (twbWrap 0) 1) srcTwb 0x01 (b2 m.seq ++ b1 byte ++ b1 bit ++ b1 (m.losses + 1))

theorem attnTry_lost (h : x.twb.msg = some m) (byte bit : Nat) : attnTry x (.lost byte bit) =
    if 8 ≤ m.losses + 1 then attnDrop (attnLostTold x m byte bit) { m with tries := m.tries + 1, losses := m.losses + 1 } 0
    else attnAgain (backoffDraw (attnLostTold x m byte bit)) { m with tries := m.tries + 1, losses := m.losses + 1 } := by
  unfold attnTry
  rw [attnBuild_some h]
  rfl

theorem delivered_effect (h : x.twb.msg = some m) :
    (attnTry x .delivered).twb.msg = none ∧ (attnTry x .delivered).twb.last = m.word ∧ (attnTry x .delivered).twb.sent = m.octets ∧
    rd (attnTry x .delivered) R.TWB_ATTN_SENT = rd x R.TWB_ATTN_SENT + 1 ∧
    fget (attnTry x .delivered) F.TWB_ATTN_CFG_busy = 0 := by
  obtain ⟨htwb, hcount, hbusy⟩ := attnSent_effect (attnOut x m) { m with tries := m.tries + 1 }
  rw [attnTry_delivered (attnBuild_some h), htwb]
  exact ⟨rfl, rfl, rfl, hcount, hbusy⟩

/-- A new message delivered at its first attempt. -/
theorem delivered_fresh (h : x.twb.msg = none) :
    (attnTry x .delivered).twb.sent = attnBody x ++ b1 (crc8 (attnBody x)) ∧ (attnTry x .delivered).twb.last = causeWord x ∧
    (attnTry x .delivered).twb.msg = none ∧ (attnTry x .delivered).twb.nextSeq = (x.twb.nextSeq + 1) % 256 ∧
    rd (attnTry x .delivered) R.TWB_ATTN_SENT = rd x R.TWB_ATTN_SENT + 1 ∧
    fget (attnTry x .delivered) F.TWB_ATTN_CFG_busy = 0 := by
  obtain ⟨htwb, hcount, hbusy⟩ := attnSent_effect (attnOut (attnNumbered x) (attnFresh x)) { attnFresh x with tries := 0 + 1 }
  rw [attnTry_delivered (attnBuild_none h)]
  refine ⟨congrArg TwbRt.sent htwb, congrArg TwbRt.last htwb, congrArg TwbRt.msg htwb, congrArg TwbRt.nextSeq htwb,
    hcount.trans (congrArg (· + 1) ?_), hbusy⟩
  exact rd_fset_ne _ F.TWB_ATTN_CFG_seq _ _ (by decide)

theorem refused_effect (h : x.twb.msg = some m) :
    rd (attnTry x .refused) R.TWB_NACK_COUNT = rd x R.TWB_NACK_COUNT + 1 ∧
    (m.refusals < 3 → fon x F.TWB_ATTN_CFG_en = true →
      (attnTry x .refused).twb.msg = some { m with tries := m.tries + 1, refusals := m.refusals + 1 }) ∧
    (3 ≤ m.refusals → (attnTry x .refused).twb.msg = none ∧
      rd (attnTry x .refused) R.TWB_ATTN_DROP_COUNT = rd x R.TWB_ATTN_DROP_COUNT + 1 ∧
      (attnTry x .refused).twb.stand = x.twb.stand ||| m.word) := by
  have hnack : rd (count (attnOut x m) R.TWB_NACK_COUNT (twbWrap 1) 1) R.TWB_NACK_COUNT = rd x R.TWB_NACK_COUNT + 1 :=
    rd_count_one (attnOut x m) _ _ (by decide)
  have hen : fon (count (attnOut x m) R.TWB_NACK_COUNT (twbWrap 1) 1) F.TWB_ATTN_CFG_en = fon x F.TWB_ATTN_CFG_en :=
    fon_congr (fget_count_apart (attnOut x m) 1 (by decide) (by decide) (.inl (by decide)))
  obtain ⟨htwb, hdrop, -, hkeep⟩ := attnDrop_effect (count (attnOut x m) R.TWB_NACK_COUNT (twbWrap 1) 1)
    { m with tries := m.tries + 1, refusals := m.refusals + 1 } 1
  rw [attnTry_refused h]
  refine ⟨?_, fun hlt hon => ?_, fun hle => ?_⟩
  · split
    · exact (hkeep _ (by decide)).trans hnack
    · exact (rd_attnAgain _ _ (by decide)).trans hnack
  · rw [if_neg (by omega), attnAgain_on (hen.trans hon)]
    rfl
  · rw [if_pos (by omega), htwb, hdrop, twb_count]
    refine ⟨rfl, congrArg (· + 1) ?_, rfl⟩
    exact rd_count_ne (attnOut x m) _ _ _ _ (by decide) (by decide)

theorem lost_effect (h : x.twb.msg = some m) (byte bit : Nat) :
    rd (attnTry x (.lost byte bit)) R.TWB_LOST = rd x R.TWB_LOST + 1 ∧
    (m.losses < 7 → fon x F.TWB_ATTN_CFG_en = true →
      (attnTry x (.lost byte bit)).twb.msg = some { m with tries := m.tries + 1, losses := m.losses + 1 }) ∧
    (m.losses < 7 → 50 ≤ (attnTry x (.lost byte bit)).twb.backoff ∧ (attnTry x (.lost byte bit)).twb.backoff ≤ 400) ∧
    (7 ≤ m.losses → (attnTry x (.lost byte bit)).twb.msg = none ∧ fget (attnTry x (.lost byte bit)) F.TWB_ERR_drop = 1) := by
  have hlost : rd (attnLostTold x m byte bit) R.TWB_LOST = rd x R.TWB_LOST + 1 :=
    (rd_raise _ _ _ _ _ (by decide)).trans (rd_count_one (attnOut x m) _ _ (by decide))
  have hen : fon (backoffDraw (attnLostTold x m byte bit)) F.TWB_ATTN_CFG_en = fon x F.TWB_ATTN_CFG_en :=
    fon_congr ((fget_raise _ _ _ _ _ (by decide)).trans
      (fget_count_apart (attnOut x m) 1 (by decide) (by decide) (.inl (by decide))))
  obtain ⟨htwb, -, herr, hkeep⟩ := attnDrop_effect (attnLostTold x m byte bit)
    { m with tries := m.tries + 1, losses := m.losses + 1 } 0
  rw [attnTry_lost h]
  refine ⟨?_, fun hlt hon => ?_, fun hlt => ?_, fun hle => ?_⟩
  · split
    · exact (hkeep _ (by decide)).trans hlost
    · exact (rd_attnAgain (backoffDraw _) _ (by decide)).trans hlost
  · rw [if_neg (by omega), attnAgain_on (hen.trans hon)]
    rfl
  · rw [if_neg (by omega)]
    show 50 ≤ 50 + Config.backoffWait (Config.backoffNext (attnLostTold x m byte bit).twb.gen) % 351 ∧
      50 + Config.backoffWait (Config.backoffNext (attnLostTold x m byte bit).twb.gen) % 351 ≤ 400
    omega
  · rw [if_pos (by omega), htwb]
    exact ⟨rfl, herr⟩

/-! The four rows of the attention messages. -/

/-- The part may send. -/
abbrev mayAttend (x : Chip) : Prop := mgmtUp x = true ∧ x.twb.busOpen = false

/-- Causes call for a message. -/
abbrev attnCalled (x : Chip) : Prop :=
  fon x F.TWB_ATTN_CFG_en = true ∧ (rd x R.MGMT_INT_CAUSE &&& rd x R.MGMT_INT_EN) &&& ~~~ x.twb.last &&& ~~~ x.twb.stand ≠ 0

theorem attnMay_iff : attnMay x = true ↔ mayAttend x := by
  rw [attnMay, Bool.and_eq_true, Bool.not_eq_true']

theorem attnDue_iff : attnDue x = true ↔ attnCalled x := by
  rw [attnDue, Bool.and_eq_true, bne_iff_ne]
  rfl

theorem msg_isNone_iff : x.twb.msg.isNone = true ↔ ¬x.twb.msg ≠ none := by
  rw [Option.isNone_iff_eq_none, not_not]

theorem msg_isSome_iff : x.twb.msg.isSome = true ↔ x.twb.msg ≠ none := Option.isSome_iff_ne_none

theorem attnMessage_guard : (attnMay x && (x.twb.msg.isNone && attnDue x)) = true ↔ mayAttend x ∧ ¬x.twb.msg ≠ none ∧ attnCalled x := by
  rw [Bool.and_eq_true, Bool.and_eq_true, attnMay_iff, msg_isNone_iff, attnDue_iff]

theorem attnRetry_guard : (attnMay x && x.twb.msg.isSome) = true ↔ mayAttend x ∧ x.twb.msg ≠ none := by
  rw [Bool.and_eq_true, attnMay_iff, msg_isSome_iff]

theorem busFree_guard : (attnMay x && (x.twb.msg.isSome || attnDue x)) = true ↔ mayAttend x ∧ (x.twb.msg ≠ none ∨ attnCalled x) := by
  rw [Bool.and_eq_true, Bool.or_eq_true, attnMay_iff, msg_isSome_iff, attnDue_iff]

theorem attnTimeout_guard : (mgmtUp x && (x.twb.msg.isSome || attnDue x)) = true ↔
    mgmtUp x = true ∧ (x.twb.msg ≠ none ∨ attnCalled x) := by
  rw [Bool.and_eq_true, Bool.or_eq_true, msg_isSome_iff, attnDue_iff]

section
variable (res : AttnRes)

theorem exec_attnMessage (h : mayAttend s.chip ∧ ¬s.chip.twb.msg ≠ none ∧ attnCalled s.chip) :
    exec (.attnMessage res) s = .next (onChip (fun x => attnTry x res) s) :=
  congrArg Host.Outcome.next (if_pos (attnMessage_guard.2 h))

theorem exec_attnMessage_idle (h : ¬(mayAttend s.chip ∧ ¬s.chip.twb.msg ≠ none ∧ attnCalled s.chip)) :
    exec (.attnMessage res) s = .next s :=
  congrArg Host.Outcome.next (if_neg (mt attnMessage_guard.1 h))

theorem exec_attnRetry (h : mayAttend s.chip ∧ s.chip.twb.msg ≠ none) :
    exec (.attnRetry res) s = .next (onChip (fun x => attnTry x res) s) :=
  congrArg Host.Outcome.next (if_pos (attnRetry_guard.2 h))

theorem exec_attnRetry_idle (h : ¬(mayAttend s.chip ∧ s.chip.twb.msg ≠ none)) : exec (.attnRetry res) s = .next s :=
  congrArg Host.Outcome.next (if_neg (mt attnRetry_guard.1 h))

theorem exec_busFree (h : mayAttend s.chip ∧ (s.chip.twb.msg ≠ none ∨ attnCalled s.chip)) :
    exec (.busFree res) s = .next (onChip (fun x => attnTry x res) s) :=
  congrArg Host.Outcome.next (if_pos (busFree_guard.2 h))

theorem exec_busFree_idle (h : ¬(mayAttend s.chip ∧ (s.chip.twb.msg ≠ none ∨ attnCalled s.chip))) :
    exec (.busFree res) s = .next s :=
  congrArg Host.Outcome.next (if_neg (mt busFree_guard.1 h))

end

theorem exec_attnBusTimeout_idle (h : ¬(mgmtUp s.chip = true ∧ (s.chip.twb.msg ≠ none ∨ attnCalled s.chip))) :
    exec .attnBusTimeout s = .next s :=
  congrArg Host.Outcome.next (if_neg (mt attnTimeout_guard.1 h))

theorem exec_attnBusTimeout (hm : mgmtUp s.chip = true) (h : s.chip.twb.msg = some m) :
    exec .attnBusTimeout s = .next (onChip (fun x => attnDrop x m 2) s) := by
  refine congrArg Host.Outcome.next ((if_pos (attnTimeout_guard.2 ⟨hm, .inl (by rw [h]; exact Option.some_ne_none m)⟩)).trans ?_)
  refine onChip_congr ?_
  show attnDrop (attnBuild s.chip).1 (attnBuild s.chip).2 2 = _
  rw [attnBuild_some h]

/-- Settles O56: transfers through their pointer and their STOP, reads, what is abandoned, wakes, and attention messages by their
four rows and the ends of an attempt. -/
theorem controlBusCommands : Obligations.ControlBusCommands := by
  unfold Obligations.ControlBusCommands
  refine ⟨fun hi lo data stop b s hm => ⟨onChip (written hi lo data stop b.ns) s, chipOnly_onChip _ s, ?write,
      written_effect hi lo data stop b.ns s.chip⟩,
    fun data p => ⟨twbHold_ptr data p, twbHold_bytes data p⟩,
    fun b s => ⟨twbStop_nil b, fun a c d e f h h4 hr => twbStop_word b h h4 hr, fun a c h hm => ⟨fun hr => twbStop_partial b h hm hr,
      fun hr hw => twbStop_window b h hm hr hw, fun hr hw => twbStop_elsewhere b h hm hr hw⟩⟩,
    fun b s hm hh => ⟨onChip (probed b.ns) s, congrArg Host.Outcome.next (exec_twbProbe b hm hh), chipOnly_onChip _ s,
      congrArg Host.Outcome.next (exec_twbProbe b hm hh), probed_effect b.ns s.chip⟩,
    fun n stop b s hm => exec_twbRead n stop b hm,
    fun n stop b s hm h => ⟨_, (busTaken s n b.ns).2, exec_twbRead_ends hm h, rfl, busRead_effect n b.ns stop s⟩,
    fun bytes n stop b s hm => exec_bus_down hm bytes n stop b, fun s hm => ?abandon, fun byte s => ?wake, fun res s => ?attn,
    fun x m h => ?again, fun x h => ?fresh⟩
  case write => exact congrArg Host.Outcome.next (twbWrite_up hm _ stop b)
  case abandon =>
    obtain ⟨hheld, hrole, hcount, hopen⟩ := twbAbandon_effect s.chip 3
    obtain ⟨hheld', hrole', hcount', hopen'⟩ := twbAbandon_effect s.chip 5
    exact ⟨_, _, exec_twbBusError hm, exec_twbStuck hm, chipOnly_onChip _ s, chipOnly_onChip _ s, hheld, hheld', hrole, hrole',
      hcount, hcount', fget_twbAbandon_busErr s.chip, fget_twbAbandon_stuck s.chip, hopen, hopen'⟩
  case wake =>
    refine ⟨exec_twbWake, fun hp ht hmine hn hw => ?_, exec_twbWake_idle⟩
    exact (exec_twbWake (gliding_of_target ht) hmine).trans (congrArg Host.Outcome.next (wakeUp_latched hp ht hn hw))
  case attn =>
    refine ⟨fun hmay hmsg hdue => ?_, fun m hmay hmsg => ?_, exec_attnMessage res, exec_attnMessage_idle res, exec_attnRetry res,
      exec_attnRetry_idle res, exec_busFree res, exec_busFree_idle res, exec_attnBusTimeout_idle, fun m hm => exec_attnBusTimeout hm⟩
    · obtain ⟨-, hlast, hnone, -, hcount, hbusy⟩ := delivered_fresh (not_not.1 hmsg)
      exact ⟨⟨_, exec_attnMessage .delivered ⟨hmay, hmsg, hdue⟩, chipOnly_onChip _ s, hnone, hlast, hcount, hbusy⟩,
        ⟨_, exec_busFree .delivered ⟨hmay, .inr hdue⟩, chipOnly_onChip _ s, hnone, hlast, hcount, hbusy⟩⟩
    · obtain ⟨hnone, hlast, -, hcount, hbusy⟩ := delivered_effect hmsg
      have hpend : s.chip.twb.msg ≠ none := by rw [hmsg]; exact Option.some_ne_none m
      exact ⟨⟨_, exec_attnRetry .delivered ⟨hmay, hpend⟩, chipOnly_onChip _ s, hnone, hlast, hcount, hbusy⟩,
        ⟨_, exec_busFree .delivered ⟨hmay, .inl hpend⟩, chipOnly_onChip _ s, hnone, hlast, hcount, hbusy⟩⟩
  case again =>
    obtain ⟨hnack, hstay, hdrop⟩ := refused_effect h
    exact ⟨delivered_effect h, hnack, hstay, hdrop, lost_effect h⟩
  case fresh =>
    obtain ⟨hsent, hlast, hnone, hseq, -, -⟩ := delivered_fresh h
    exact ⟨hsent, hlast, hnone, hseq⟩

end Sys2Proof.Machine
end

section
/-! PROOF. Mailbox commands of self-test and the tests of units (R426, R435, R436, R439, R440). -/
namespace Sys2Proof.Machine
open Sys2Proof

variable {x y : Chip} {s : State} {n : Nat}

/-! BIST_LANE and BIST_RETEST (R432, R436). -/

/-- The chip on which a BIST command has begun. -/
def bistBegun (x : Chip) (code : Nat) (left : List Nat) : Chip :=
  { x with bist := { x.bist with cmd := some ⟨code, left, 0, false⟩ } }

theorem isSome_cmd (h : x.bist.cmd ≠ none) : x.bist.cmd.isSome = true := Option.isSome_iff_ne_none.2 h

theorem not_isSome_cmd (h : x.bist.cmd = none) : ¬x.bist.cmd.isSome = true := by
  rw [h]
  exact Bool.false_ne_true

theorem bistIdle_iff : bistIdle x = true ↔ x.bist.mig = none ∧ x.bist.test = none := by
  rw [bistIdle, Bool.and_eq_true, Option.isNone_iff_eq_none, Option.isNone_iff_eq_none]

/-- A command waits for what runs and for a handover of its lane. -/
theorem cmdTurn_busy {code : Nat} (hw : cmdWaits x = some (n, code))
    (h : x.bist.mig ≠ none ∨ x.bist.test ≠ none ∨ migWaits x n = true) : cmdTurn x = x := by
  unfold cmdTurn
  rw [hw]
  refine if_neg fun hall => ?_
  obtain ⟨hidle, hmig⟩ := Bool.and_eq_true_iff.1 hall
  obtain ⟨hm, ht⟩ := bistIdle_iff.1 hidle
  rcases h with h | h | h
  · exact h hm
  · exact h ht
  · rw [h] at hmig
    exact Bool.false_ne_true hmig

/-- With nothing in its way a command's test begins. -/
theorem cmdTurn_free {code : Nat} (hw : cmdWaits x = some (n, code)) (hm : x.bist.mig = none) (ht : x.bist.test = none)
    (hfree : migWaits x n = false) : cmdTurn x = cmdBegin x n code := by
  unfold cmdTurn
  rw [hw]
  refine if_pos ?_
  rw [bistIdle_iff.2 ⟨hm, ht⟩, hfree]
  rfl

theorem cmdWaits_lane (x : Chip) (n : Nat) : cmdWaits (bistBegun x 0x30 [n]) = some (n, 0x30) := rfl

theorem cmdWaits_retest (x : Chip) (n : Nat) : cmdWaits (bistBegun x 0x33 [n]) = some (n, 0x33) := rfl

theorem bistLane_badArg (h : 104 ≤ arg s.chip 0 ∨ failed s.chip (arg s.chip 0) = true) : bistLane s = refuse s 0x05 := if_pos h

section
variable (hn : arg s.chip 0 < 104)
include hn

theorem bistLane_busy (hf : failed s.chip (arg s.chip 0) = false) (hc : s.chip.bist.cmd ≠ none) : bistLane s = refuse s 0x01 := by
  have hok : ¬(laneCount ≤ arg s.chip 0 ∨ failed s.chip (arg s.chip 0) = true) := by
    rw [hf]
    simpa [laneCount] using hn
  exact (if_neg hok).trans (if_pos (isSome_cmd hc))

theorem bistLane_idle (hf : failed s.chip (arg s.chip 0) = false) (hc : s.chip.bist.cmd = none) : bistLane s =
    if 1 < pstate s.chip ∨ (pstate s.chip = 1 ∧ stdOf s.chip (arg s.chip 0) ≠ 0 ∧ stdOf s.chip (arg s.chip 0) ≠ 15) then refuse s 0x0B
    else okChip s (cmdTurn (bistBegun s.chip 0x30 [arg s.chip 0])) := by
  have hok : ¬(laneCount ≤ arg s.chip 0 ∨ failed s.chip (arg s.chip 0) = true) := by
    rw [hf]
    simpa [laneCount] using hn
  exact (if_neg hok).trans (if_neg (not_isSome_cmd hc))

theorem bistRetest_busy (hc : s.chip.bist.cmd ≠ none) : bistRetest s = refuse s 0x01 :=
  (if_neg (Nat.not_le.2 hn)).trans (if_pos (isSome_cmd hc))

theorem bistRetest_idle (hc : s.chip.bist.cmd = none) : bistRetest s =
    if failed s.chip (arg s.chip 0) = false ∨ 1 < pstate s.chip then refuse s 0x0B
    else okChip s (cmdTurn (bistBegun s.chip 0x33 [arg s.chip 0])) :=
  (if_neg (Nat.not_le.2 hn)).trans (if_neg (not_isSome_cmd hc))

end

/-! The units' tests (R435, R440). -/

theorem bistUnits_badArg {code units : Nat} (h : ((List.range units).filter fun u => arg s.chip 0 / 2 ^ u % 2 == 1) = []) :
    bistUnits code units s = refuse s 0x05 :=
  if_pos (by rw [h]; rfl)

section
variable {code units : Nat} {l : List Nat} (hl : ((List.range units).filter fun u => arg s.chip 0 / 2 ^ u % 2 == 1) = l) (hne : l ≠ [])
include hl hne

theorem bistUnits_busy (hc : s.chip.bist.cmd ≠ none) : bistUnits code units s = refuse s 0x01 := by
  subst hl
  exact (if_neg (mt List.isEmpty_iff.1 hne)).trans (if_pos (isSome_cmd hc))

theorem bistUnits_idle (hc : s.chip.bist.cmd = none) : bistUnits code units s =
    if pstate s.chip ≠ 1 then refuse s 0x0B else okChip s (setUnits s.chip ⟨code, l, 0, false⟩ l) := by
  subst hl
  exact (if_neg (mt List.isEmpty_iff.1 hne)).trans (if_neg (not_isSome_cmd hc))

end

/-- The busy bits of units that stand in fields apart each show their own unit. -/
theorem upTo_flags {f : Nat → Fld} {k u : Nat} (now : List Nat) (hf : ∀ i < k, (f i).lo + (f i).width ≤ 32 ∧ (f i).width = 1)
    (hap : ∀ i < k, ∀ j < k, i ≠ j → (f i).Apart (f j)) (hu : u < k) (x : Chip) :
    fon (upTo k (fun i y => fflag y (f i) (now.contains i)) x) (f u) = now.contains u :=
  foldl_own (f := fun y i => fflag y (f i) (now.contains i)) (view := fun i y => fon y (f i)) (up := fun i _ => now.contains i)
    (fun a i hi => fon_fflag_same a (f i) _ (hf i (List.mem_range.1 hi)).1 (hf i (List.mem_range.1 hi)).2)
    (fun _ i hi j hj hne => fon_congr (fget_fset_apart _ _ _ _ (hf j (List.mem_range.1 hj)).1
      (hap j (List.mem_range.1 hj) i (List.mem_range.1 hi) hne)))
    List.nodup_range (List.mem_range.2 hu) x

/-- Units shown busy change registers alone. -/
theorem upTo_fflag_rest (f : Nat → Fld) (k : Nat) (now : List Nat) (x : Chip) :
    upTo k (fun i y => fflag y (f i) (now.contains i)) x =
      { x with regs := (upTo k (fun i y => fflag y (f i) (now.contains i)) x).regs } :=
  upTo_keeps (fun y => y = { x with regs := y.regs }) k (fun i y => fflag y (f i) (now.contains i))
    (fun i y hy => by rw [hy]; rfl) x rfl

theorem contains_eq_mem (l : List Nat) (u : Nat) : l.contains u = decide (u ∈ l) := by
  rw [Bool.eq_iff_iff, List.contains_iff_mem, decide_eq_true_iff]

/-- A phase shown changes the register of self-test alone. -/
theorem onlyRegs_bistPhase (x : Chip) (phase lane dest : Nat) : OnlyRegs [R.BIST_STATUS] x (bistPhase x phase lane dest) :=
  onlyRegs_fsets x (by simp [F.BIST_STATUS_busy, F.BIST_STATUS_phase, F.BIST_STATUS_lane, F.BIST_STATUS_dest])

theorem fget_bistPhase (x : Chip) {phase : Nat} (lane dest : Nat) (h : phase < 16) :
    fget (bistPhase x phase lane dest) F.BIST_STATUS_phase = phase ∧ fget (bistPhase x phase lane dest) F.BIST_STATUS_busy = min phase 1 := by
  unfold bistPhase
  refine ⟨?_, ?_⟩
  · simp (disch := decide) only [fsets, fget_fset_apart, fget_fset_same]
    exact Nat.mod_eq_of_lt h
  · simp (disch := decide) only [fsets, fget_fset_apart, fget_fset_same]
    exact Nat.mod_eq_of_lt (by simp only [F.BIST_STATUS_busy]; omega)

theorem fget_bistPhase_lane (x : Chip) (phase dest : Nat) {lane : Nat} (h : lane < 128) :
    fget (bistPhase x phase lane dest) F.BIST_STATUS_lane = lane := by
  unfold bistPhase
  simp (disch := decide) only [fsets, fget_fset_apart, fget_fset_same]
  exact Nat.mod_eq_of_lt h

/-- The units left to test, with some left: those at work are shown, and the phase. -/
theorem setUnits_some (x : Chip) (c : BistCmd) {left : List Nat} (h : left ≠ []) : setUnits x c left =
    bistPhase (unitsBusy { x with bist := { x.bist with cmd := some { c with left := left } } } c.code (left.take (unitsAtOnce c.code)))
      (if c.code = 0x32 then 4 else 3) 0x7F 0x7F :=
  if_neg (mt List.isEmpty_iff.1 h)

theorem coachBusy_fields : (∀ c < 13, (F.COACH_BIST_STATUS_busy c).lo + (F.COACH_BIST_STATUS_busy c).width ≤ 32 ∧
    (F.COACH_BIST_STATUS_busy c).width = 1) ∧
    ∀ c < 13, ∀ d < 13, c ≠ d → (F.COACH_BIST_STATUS_busy c).Apart (F.COACH_BIST_STATUS_busy d) := by
  refine ⟨fun c _ => ⟨by simp [F.COACH_BIST_STATUS_busy], rfl⟩, fun c _ d _ hne => .inl ?_⟩
  simp only [F.COACH_BIST_STATUS_busy, R.COACH_BIST_STATUS]
  omega

theorem splitterBusy_fields : (∀ a < 4, (F.SPL_BIST_busy.bit a).lo + (F.SPL_BIST_busy.bit a).width ≤ 32 ∧
    (F.SPL_BIST_busy.bit a).width = 1) ∧
    ∀ a < 4, ∀ b < 4, a ≠ b → (F.SPL_BIST_busy.bit a).Apart (F.SPL_BIST_busy.bit b) := by
  refine ⟨fun a ha => ⟨by simp only [Fld.bit, F.SPL_BIST_busy]; omega, rfl⟩, fun a ha b hb hne => .inr ?_⟩
  simp only [Fld.bit, F.SPL_BIST_busy]
  omega

theorem setUnits_coach (x : Chip) {l : List Nat} (h : l ≠ []) :
    let y := setUnits x ⟨0x31, l, 0, false⟩ l
    y = { x with regs := y.regs, bist := { x.bist with cmd := some ⟨0x31, l, 0, false⟩ } } ∧
    fget y F.BIST_STATUS_phase = 3 ∧ fget y F.BIST_STATUS_busy = 1 ∧
    ∀ c, c < 13 → fon y (F.COACH_BIST_STATUS_busy c) = decide (c ∈ l.take 4) := by
  intro y
  have hy : y = bistPhase (upTo 13 (fun c y => fflag y (F.COACH_BIST_STATUS_busy c) ((l.take 4).contains c)) (bistBegun x 0x31 l)) 3 0x7F 0x7F :=
    setUnits_some x _ h
  obtain ⟨hphase, hbusy⟩ := fget_bistPhase (upTo 13 (fun c y => fflag y (F.COACH_BIST_STATUS_busy c) ((l.take 4).contains c))
    (bistBegun x 0x31 l)) 0x7F 0x7F (phase := 3) (by decide)
  obtain ⟨hfits, hapart⟩ := coachBusy_fields
  refine ⟨?_, hy ▸ hphase, hy ▸ hbusy, fun c hc => ?_⟩
  · rw [hy, (onlyRegs_bistPhase _ _ _ _).1, upTo_fflag_rest]
    rfl
  · rw [hy, ← contains_eq_mem, ← upTo_flags (l.take 4) hfits hapart hc (bistBegun x 0x31 l)]
    exact fon_congr (fget_onlyRegs (onlyRegs_bistPhase _ _ _ _)
      (by simp only [F.COACH_BIST_STATUS_busy, R.COACH_BIST_STATUS, R.BIST_STATUS, List.mem_singleton]; omega))

theorem setUnits_splitter (x : Chip) {l : List Nat} (h : l ≠ []) :
    let y := setUnits x ⟨0x32, l, 0, false⟩ l
    y = { x with regs := y.regs, bist := { x.bist with cmd := some ⟨0x32, l, 0, false⟩ } } ∧
    fget y F.BIST_STATUS_phase = 4 ∧ fget y F.BIST_STATUS_busy = 1 ∧
    ∀ a, a < 4 → fon y (F.SPL_BIST_busy.bit a) = decide (a ∈ l.take 2) := by
  intro y
  have hy : y = bistPhase (upTo 4 (fun a y => fflag y (F.SPL_BIST_busy.bit a) ((l.take 2).contains a)) (bistBegun x 0x32 l)) 4 0x7F 0x7F :=
    setUnits_some x _ h
  obtain ⟨hphase, hbusy⟩ := fget_bistPhase (upTo 4 (fun a y => fflag y (F.SPL_BIST_busy.bit a) ((l.take 2).contains a))
    (bistBegun x 0x32 l)) 0x7F 0x7F (phase := 4) (by decide)
  obtain ⟨hfits, hapart⟩ := splitterBusy_fields
  refine ⟨?_, hy ▸ hphase, hy ▸ hbusy, fun a ha => ?_⟩
  · rw [hy, (onlyRegs_bistPhase _ _ _ _).1, upTo_fflag_rest]
    rfl
  · rw [hy, ← contains_eq_mem, ← upTo_flags (l.take 2) hfits hapart ha (bistBegun x 0x32 l)]
    exact fon_congr (fget_onlyRegs (onlyRegs_bistPhase _ _ _ _) (by decide : R.SPL_BIST ∉ [R.BIST_STATUS]))

section
variable {c : BistCmd} {u : Nat} (sig : Word) (pass : Bool) (hc : s.chip.bist.cmd = some c)
include hc

theorem unitCmd_running (he : c.ended = false) (h : c.code = 0x31 ∨ c.code = 0x32) : unitCmd s.chip = some c := by
  unfold unitCmd
  rw [hc]
  exact if_pos ⟨h, he⟩

theorem exec_coachTestDone_coach (he : c.ended = false) (h : c.code = 0x31) (hu : u ∈ c.left.take 4) :
    exec (.coachTestDone false u sig pass) s = .next (onChip (fun x => unitDone x c u sig.toNat pass) s) := by
  have hrun : execCoachTestDone false u sig pass s = .next (match unitCmd s.chip with
    | some c => if (c.code == 0x32) = false ∧ u ∈ c.left.take (unitsAtOnce c.code) then
        onChip (fun x => unitDone x c u sig.toNat pass) s else s
    | none => s) := rfl
  refine hrun.trans (congrArg Host.Outcome.next ?_)
  rw [unitCmd_running hc he (.inl h)]
  refine if_pos ⟨by rw [h]; rfl, ?_⟩
  rw [h]
  exact hu

theorem exec_coachTestDone_splitter (he : c.ended = false) (h : c.code = 0x32) (hu : u ∈ c.left.take 2) :
    exec (.coachTestDone true u sig pass) s = .next (onChip (fun x => unitDone x c u sig.toNat pass) s) := by
  have hrun : execCoachTestDone true u sig pass s = .next (match unitCmd s.chip with
    | some c => if (c.code == 0x32) = true ∧ u ∈ c.left.take (unitsAtOnce c.code) then
        onChip (fun x => unitDone x c u sig.toNat pass) s else s
    | none => s) := rfl
  refine hrun.trans (congrArg Host.Outcome.next ?_)
  rw [unitCmd_running hc he (.inr h)]
  refine if_pos ⟨by rw [h]; rfl, ?_⟩
  rw [h]
  exact hu

end

theorem exec_coachTestDone_idle (h : s.chip.bist.cmd = none) (sp : Bool) (u : Nat) (sig : Word) (pass : Bool) :
    exec (.coachTestDone sp u sig pass) s = .next s := by
  show Host.Outcome.next _ = _
  unfold unitCmd
  rw [h]

/-! BIST_REPORT and BIST_DONE. -/

theorem length_reportBytes (x : Chip) (n : Nat) : (reportBytes x n).length = 8 := by
  unfold reportBytes
  simp only [List.length_append, b1, b2s, length_le]

/-- The report's octets of lane n. -/
theorem report_lane (x : Chip) (hn : n < 104) : ((allLanes.flatMap (reportBytes x)).drop (8 * n)).take 8 = reportBytes x n := by
  rw [List.flatMap_def]
  refine take_drop_flatten _ n _ (fun e he => ?_) ?_
  · obtain ⟨k, -, rfl⟩ := List.mem_map.1 he
    exact length_reportBytes x k
  · rw [List.getElem?_map, allLanes, List.getElem?_range (show n < laneCount from hn)]
    rfl

theorem length_report (x : Chip) : (allLanes.flatMap (reportBytes x)).length = 832 := by
  rw [List.length_flatMap, List.map_congr_left (fun n _ => length_reportBytes x n)]
  rfl

theorem exec_bistDone {c : BistCmd} (hc : s.chip.bist.cmd = some c) (he : c.ended = true) : exec .bistDone s =
    .next (onChip (fun x => setCause (raise { x with bist := { x.bist with cmd := none } } srcBist 0x0A (b1 c.code ++ b1 c.status)) .bist) s) := by
  show Host.Outcome.next _ = _
  rw [hc]
  exact congrArg Host.Outcome.next (if_pos he)

theorem exec_bistDone_running {c : BistCmd} (hc : s.chip.bist.cmd = some c) (he : c.ended = false) : exec .bistDone s = .next s := by
  show Host.Outcome.next _ = _
  rw [hc]
  exact congrArg Host.Outcome.next (if_neg (ne_true_of_eq_false he))

theorem exec_bistDone_idle (hc : s.chip.bist.cmd = none) : exec .bistDone s = .next s := by
  show Host.Outcome.next _ = _
  rw [hc]

/-- Settles O49: each command's checks in their order, the tests of units as they begin and go on, the report and the end. -/
theorem selfTestMailboxCommands : Obligations.SelfTestMailboxCommands := by
  unfold Obligations.SelfTestMailboxCommands
  refine ⟨fun o s h => ⟨fun hbad => ?laneBad, fun hn hf hc => ?laneBusy, fun hn hf hc hearly => ?laneEarly,
      fun hn hf hc hearly hm ht hw => ?laneRuns, fun hn hf hc hearly hwait => ?laneWaits⟩,
    fun o s h => ⟨fun hn => ?testBad, fun hn hc => ?testBusy, fun hn hc hbad => ?testEarly, fun hn hc hf hp hm ht hw => ?testRuns⟩,
    fun o s h => ⟨fun hl => ?coachBad, fun hl hc => ?coachBusy, fun hl hc hp => ?coachState, fun hl hc hp => ?coachRuns⟩,
    fun o s h => ⟨fun hl => ?splitBad, fun hl hc => ?splitBusy, fun hl hc hp => ?splitState, fun hl hc hp => ?splitRuns⟩,
    fun u sig pass c s hc he => ⟨fun h hu => ?coachDone, fun h hu => ?splitDone⟩,
    fun sp pass u sig s hc => exec_coachTestDone_idle hc sp u sig pass, fun o s h => ?report,
    fun c s hc => ⟨exec_bistDone hc, exec_bistDone_running hc⟩, fun s => exec_bistDone_idle⟩
  case laneBad => exact congrArg Host.Outcome.next (mailbox_of_refuse h (bistLane_badArg hbad))
  case laneBusy => exact congrArg Host.Outcome.next (mailbox_of_refuse h (bistLane_busy hn hf hc))
  case laneEarly => exact congrArg Host.Outcome.next (mailbox_of_refuse h ((bistLane_idle hn hf hc).trans (if_pos hearly)))
  case laneRuns =>
    refine congrArg Host.Outcome.next (mailbox_of_okChip h (((bistLane_idle hn hf hc).trans (if_neg hearly)).trans ?_))
    exact congrArg (okChip _) (cmdTurn_free (cmdWaits_lane _ _) hm ht hw)
  case laneWaits =>
    refine congrArg Host.Outcome.next (mailbox_of_okChip h (((bistLane_idle hn hf hc).trans (if_neg hearly)).trans ?_))
    exact congrArg (okChip _) (cmdTurn_busy (cmdWaits_lane _ _) hwait)
  case testBad => exact congrArg Host.Outcome.next (mailbox_of_refuse h (if_pos hn))
  case testBusy => exact congrArg Host.Outcome.next (mailbox_of_refuse h (bistRetest_busy hn hc))
  case testEarly => exact congrArg Host.Outcome.next (mailbox_of_refuse h ((bistRetest_idle hn hc).trans (if_pos hbad)))
  case testRuns =>
    have hok : ¬(failed (begun o 0x33 s).chip (arg (begun o 0x33 s).chip 0) = false ∨ 1 < pstate (begun o 0x33 s).chip) := by
      rw [hf]
      simpa using hp
    refine congrArg Host.Outcome.next (mailbox_of_okChip h (((bistRetest_idle hn hc).trans (if_neg hok)).trans ?_))
    exact congrArg (okChip _) (cmdTurn_free (cmdWaits_retest _ _) hm ht hw)
  case coachBad => exact congrArg Host.Outcome.next (mailbox_of_refuse h (bistUnits_badArg hl))
  case coachBusy => exact congrArg Host.Outcome.next (mailbox_of_refuse h (bistUnits_busy rfl hl hc))
  case coachState => exact congrArg Host.Outcome.next (mailbox_of_refuse h ((bistUnits_idle rfl hl hc).trans (if_pos hp)))
  case coachRuns =>
    exact ⟨_, congrArg Host.Outcome.next (mailbox_of_okChip h ((bistUnits_idle rfl hl hc).trans (if_neg (not_not.2 hp)))),
      setUnits_coach _ hl⟩
  case splitBad => exact congrArg Host.Outcome.next (mailbox_of_refuse h (bistUnits_badArg hl))
  case splitBusy => exact congrArg Host.Outcome.next (mailbox_of_refuse h (bistUnits_busy rfl hl hc))
  case splitState => exact congrArg Host.Outcome.next (mailbox_of_refuse h ((bistUnits_idle rfl hl hc).trans (if_pos hp)))
  case splitRuns =>
    exact ⟨_, congrArg Host.Outcome.next (mailbox_of_okChip h ((bistUnits_idle rfl hl hc).trans (if_neg (not_not.2 hp)))),
      setUnits_splitter _ hl⟩
  case coachDone =>
    refine (exec_coachTestDone_coach sig pass hc he h hu).trans (congrArg Host.Outcome.next (onChip_congr ?_))
    exact congrArg (setUnits · c (c.left.erase u)) (if_neg (by rw [h]; decide))
  case splitDone =>
    refine (exec_coachTestDone_splitter sig pass hc he h hu).trans (congrArg Host.Outcome.next (onChip_congr ?_))
    exact congrArg (setUnits · c (c.left.erase u)) (if_pos h)
  case report =>
    exact ⟨_, length_report _, congrArg Host.Outcome.next (mailbox_serves 0x34 o _ s h), fun n hn => report_lane _ hn⟩

end Sys2Proof.Machine
end

section
/-! PROOF. What a lane's stop and start leave (R34, R111, R138, R152, R357): settings, self-test and most registers stay. -/
namespace Sys2Proof.Machine
open Sys2Proof

variable {x y z : Chip} {n k : Nat}

/-- A register that the work of lanes, shown under the coach of lane n, does not write. -/
def OffLane (n b : Nat) : Prop :=
  b ∉ logRegs ∧ (b < 0x200 ∨ 0x400 ≤ b) ∧ b ≠ R.COACH_RESET_COUNT (n / 8) ∧ b ≠ R.COACH_STATUS (n / 8) ∧
    ∀ k, b ≠ R.LANE_FILT k ∧ b ≠ R.LANE_STATUS k ∧ b ≠ R.LANE_QUAL k

/-- A field that no event writes: it lies apart from the log's counts, their wrap flags and cause `log`. -/
def OffLog (f : Fld) : Prop :=
  f.lo + f.width ≤ 32 ∧ f.addr ≠ R.MGMT_LOG_WR ∧ f.addr ≠ R.MGMT_LOG_LOST ∧ f.Apart logWrWrap ∧ f.Apart logLostWrap ∧
    f.Apart F.MGMT_INT_CAUSE_log

theorem fget_pushEntry_offLog {f : Fld} (h : OffLog f) (x : Chip) (e : Entry) : fget (pushEntry x e) f = fget x f := by
  obtain ⟨h32, hwr, hlost, hawr, halost, hcause⟩ := h
  have hplace : fget (entryPlace (entryLost x) e) f = fget x f := by
    refine Eq.trans (fget_count_apart _ 1 h32 hwr hawr) ?_
    show fget (entryLost x) f = fget x f
    unfold entryLost
    split
    · exact fget_count_apart x 1 h32 hlost halost
    · rfl
  rw [pushEntry, entryCause]
  dsimp only
  split
  · exact (fget_fset_apart _ _ _ _ h32 hcause).trans hplace
  · exact hplace

theorem fget_pushEntries_offLog {f : Fld} (h : OffLog f) (l : List Entry) : ∀ x : Chip, fget (pushEntries x l) f = fget x f := by
  induction l with
  | nil => exact fun x => rfl
  | cons e l ih => exact fun x => (ih _).trans (fget_pushEntry_offLog h x e)

theorem fget_raiseAt_offLog {f : Fld} (h : OffLog f) (x : Chip) (tick : BitVec 48) (src code : Nat) (args : List Byte)
    (c : Option CauseRef) : fget (raiseAt x tick src code args c) f = fget x f := by
  unfold raiseAt
  dsimp only
  split
  · exact fget_pushEntries_offLog h _ _
  · split
    · rfl
    · exact fget_count_apart _ 1 h.1 h.2.2.1 h.2.2.2.2.1

theorem not_logRegs_of_gt {b : Nat} (h : 0x760 ≤ b) : b ∉ logRegs := by
  simp only [logRegs, List.mem_cons, List.not_mem_nil, or_false, R.MGMT_LOG_WR, R.MGMT_LOG_LOST, R.MGMT_FAULT_STATUS, R.MGMT_INT_CAUSE]
  omega

/-- The flags of a dump's result, and cause `bist`. -/
def logFlags : List Fld := [F.MGMT_INT_CAUSE_bist, F.MGMT_FAULT_STATUS_dump_ok, F.MGMT_FAULT_STATUS_dump_fail]

theorem offLog_of_logFlags {f : Fld} (h : f ∈ logFlags) : OffLog f := by
  simp only [logFlags, List.mem_cons, List.not_mem_nil, or_false] at h
  rcases h with rfl | rfl | rfl <;> simp only [OffLog, Fld.Apart] <;> decide

theorem addr_of_logFlags {f : Fld} (h : f ∈ logFlags) : f.addr ∈ logRegs := by
  simp only [logFlags, List.mem_cons, List.not_mem_nil, or_false] at h
  rcases h with rfl | rfl | rfl <;> decide

/-- The work of lanes: registers, the log and what lanes and their programmes hold change alone; the flags of the log's registers
and the events of self-test stay. -/
structure LaneWork (n : Nat) (x y : Chip) : Prop where
  rest : y = { x with regs := y.regs, lg := y.lg, ain := y.ain, lanes := y.lanes, mot := y.mot, follows := y.follows, lines := y.lines }
  regs : ∀ b, OffLane n b → rd y b = rd x b
  flags : ∀ f ∈ logFlags, fget y f = fget x f
  seq : srcLane n ≠ srcBist → nextSeq y srcBist = nextSeq x srcBist

namespace LaneWork

theorem refl (n : Nat) (x : Chip) : LaneWork n x x := ⟨rfl, fun _ _ => rfl, fun _ _ => rfl, fun _ => rfl⟩

theorem trans (h1 : LaneWork n x y) (h2 : LaneWork n y z) : LaneWork n x z := by
  refine ⟨h2.rest.trans ?_, fun b hb => (h2.regs b hb).trans (h1.regs b hb), fun f hf => (h2.flags f hf).trans (h1.flags f hf),
    fun hs => (h2.seq hs).trans (h1.seq hs)⟩
  rw [h1.rest]

theorem ite {p : Prop} [Decidable p] (hy : LaneWork n x y) (hz : LaneWork n x z) : LaneWork n x (if p then y else z) := by
  split <;> assumption

theorem foldl {α : Type} {f : Chip → α → Chip} {l : List α} (h : ∀ y, ∀ a ∈ l, LaneWork n y (f y a)) : LaneWork n x (l.foldl f x) :=
  List.foldlRecOn (motive := LaneWork n x) _ _ (refl n x) fun y hy a ha => hy.trans (h y a ha)

theorem raise (x : Chip) {src : Nat} (code : Nat) (args : List Byte) (hs : srcLane n ≠ srcBist → src ≠ srcBist) :
    LaneWork n x (raise x src code args) := by
  refine ⟨?_, fun b hb => rd_raise _ _ _ _ _ hb.1, fun f hf => fget_raiseAt_offLog (offLog_of_logFlags hf) _ _ _ _ _ _, fun hn => ?_⟩
  · rw [raise_rest]
  · exact (nextSeq_raiseAt _ _ _ _ _ _ _).trans (if_neg (hs hn).symm)

theorem because {f : Chip → Chip} (r : CauseRef) (h : ∀ y, LaneWork n y (f y)) : LaneWork n x (because r f x) := by
  obtain ⟨hrest, hregs, hflags, hseq⟩ := h { x with lg := { x.lg with because := some r } }
  refine ⟨?_, hregs, hflags, hseq⟩
  unfold Machine.because
  dsimp only
  rw [hrest]

theorem after {f : Chip → Chip} (src : Nat) (h : ∀ y, LaneWork n y (f y)) : LaneWork n x (after src f x) := because _ h

theorem wr (x : Chip) {a : Nat} (v : Word) (ha : ¬OffLane n a) (hc : a ∉ logRegs) : LaneWork n x (wr x a v) :=
  ⟨rfl, fun _ hb => rd_wr_ne _ _ _ _ fun e => ha (e ▸ hb), fun _ hf => fget_wr_ne _ _ _ _ fun e => hc (e ▸ addr_of_logFlags hf), fun _ => rfl⟩

theorem fset (x : Chip) {f : Fld} (v : Nat) (ha : ¬OffLane n f.addr) (hc : f.addr ∉ logRegs) : LaneWork n x (fset x f v) :=
  wr x _ ha hc

theorem fsets (m : List (Fld × Nat)) : ∀ x, (∀ e ∈ m, ¬OffLane n e.1.addr ∧ e.1.addr ∉ logRegs) →
    LaneWork n x (fsets x m) := by
  induction m with
  | nil => exact fun x _ => refl n x
  | cons e m ih =>
    intro x h
    obtain ⟨he, hc⟩ := h e (List.mem_cons_self ..)
    exact (fset x e.2 he hc).trans (ih _ fun d hd => h d (List.mem_cons_of_mem _ hd))

theorem count (x : Chip) {a : Nat} {w : Fld} (m : Nat) (ha : ¬OffLane n a) (hc : a ∉ logRegs) (hw : ¬OffLane n w.addr)
    (hwc : w.addr ∉ logRegs) : LaneWork n x (count x a w m) :=
  ite ((wr x _ ha hc).trans (fset _ 1 hw hwc)) (wr x _ ha hc)

theorem setLane (x : Chip) (k : Nat) (l : LaneRt) : LaneWork n x (setLane x k l) := ⟨rfl, fun _ _ => rfl, fun _ _ => rfl, fun _ => rfl⟩

theorem setAin (x : Chip) (a : Nat) (r : AinRt) : LaneWork n x (setAin x a r) := ⟨rfl, fun _ _ => rfl, fun _ _ => rfl, fun _ => rfl⟩

/-! Registers of lanes and inputs. -/

theorem status_on (n k : Nat) : ¬OffLane n (R.LANE_STATUS k) := fun h => (h.2.2.2.2 k).2.1 rfl

theorem qual_on (n k : Nat) : ¬OffLane n (R.LANE_QUAL k) := fun h => (h.2.2.2.2 k).2.2 rfl

theorem filt_on (n k : Nat) : ¬OffLane n (R.LANE_FILT k) := fun h => (h.2.2.2.2 k).1 rfl

theorem status_not_log (k : Nat) : R.LANE_STATUS k ∉ logRegs := not_logRegs_of_gt (by simp only [R.LANE_STATUS]; omega)

theorem filt_not_log (k : Nat) : R.LANE_FILT k ∉ logRegs := not_logRegs_of_gt (by simp only [R.LANE_FILT]; omega)

theorem qual_not_log (k : Nat) : R.LANE_QUAL k ∉ logRegs := not_logRegs_of_gt (by simp only [R.LANE_QUAL]; omega)

theorem status (x : Chip) {f : Fld} (v : Nat) (h : f.addr = R.LANE_STATUS k) : LaneWork n x (Machine.fset x f v) :=
  fset x v (h ▸ status_on n k) (h ▸ status_not_log k)

/-! A lane's state (R138, R152). -/

theorem rampFollow (x : Chip) (k : Nat) : LaneWork n x (rampFollow x k) := ite (refl n x) (setLane ..)

theorem svcBlank (x : Chip) (k : Nat) : LaneWork n x (svcBlank x k) := by
  refine fsets _ x fun e he => ?_
  simp only [List.mem_cons, List.not_mem_nil, or_false] at he
  rcases he with rfl | rfl | rfl | rfl | rfl <;> exact ⟨status_on n k, status_not_log k⟩

section
variable (hs : srcLane n ≠ srcBist → srcLane k ≠ srcBist)
include hs

theorem laneStateSet (x : Chip) (st : Nat) : LaneWork n x (laneStateSet x k st) := by
  by_cases h : st = laneState x k
  · rw [laneStateSet_same h]
    exact refl n x
  · have hset : LaneWork n x (Machine.fset x (F.LANE_STATE k) st) := status (k := k) x st rfl
    rw [laneStateSet_changes h]
    cases stateEvent (stdOf x k) k (laneState x k) st (fget x (F.LANE_QUAL_cnr k)) with
    | none => exact hset
    | some e => exact hset.trans ((raise _ e.1 e.2 hs).trans (setLane ..))

theorem svcLeave (x : Chip) : LaneWork n x (svcLeave x k) :=
  ite (((setLane x k _).trans (svcBlank _ k)).trans ((status (k := k) _ _ rfl).trans (raise _ _ _ hs))) (refl n x)

theorem svcDetach (lead : Nat) (x : Chip) : LaneWork n x (svcDetach lead x k) := by
  unfold Machine.svcDetach
  dsimp only
  have hlost : ∀ b : Bool, LaneWork n x (Machine.svcLeave (if b then Machine.fset x (F.SVC_conceal k) 1 else x) k) := fun b =>
    (ite (status (k := k) x 1 rfl) (refl n x)).trans (svcLeave hs _)
  exact (hlost _).trans ((ite (laneStateSet hs _ 1) (refl n _)).trans ((laneStateSet hs _ _).trans (rampFollow _ k)))

end

theorem servicesOf_src {k : Nat} (lead : Nat) (h : k ∈ servicesOf x lead) : srcLane k ≠ srcBist := by
  have hk : k < 104 := List.mem_range.1 (List.mem_filter.1 h).1
  simp only [srcLane, srcBist]
  omega

theorem setLaneState (x : Chip) (n st : Nat) : LaneWork n x (setLaneState x n st) := by
  have h : LaneWork n x (Machine.rampFollow (Machine.laneStateSet x n st) n) := (laneStateSet id x st).trans (rampFollow _ n)
  exact ite (h.trans (after _ fun y => foldl fun z k hk => svcDetach (fun _ => servicesOf_src n hk) n z)) h

/-! Preselections and plans (R48, R105). -/

theorem ainStatus_on {a : Nat} (h : a < 4) : ¬OffLane n (R.AIN_STATUS a) ∧ R.AIN_STATUS a ∉ logRegs := by
  refine ⟨?_, not_logRegs_of_lt ?_⟩ <;> simp only [OffLane, R.AIN_STATUS] <;> omega

theorem preselMismatch {a : Nat} (h : a < 4) (x : Chip) (k : Nat) : LaneWork n x (preselMismatch a x k) := by
  have hsrc : srcAin a ≠ srcBist := by
    simp only [srcAin, srcBist]
    omega
  obtain ⟨hon, hne⟩ := ainStatus_on (n := n) h
  unfold Machine.preselMismatch
  split
  · exact (fset (f := F.AIN_STATUS_presel_mismatch a) x 1 hon hne).trans (raise _ _ _ fun _ => hsrc)
  · exact refl n x

theorem preselSweep {a : Nat} (h : a < 4) (x : Chip) : LaneWork n x (preselSweep x a) :=
  ite (refl n x) ((setAin ..).trans (foldl fun y k _ => preselMismatch h y k))

theorem preselSweeps (x : Chip) : LaneWork n x (preselSweeps x) :=
  upTo_keeps_below (P := LaneWork n x) (fun _ ha y hy => hy.trans (preselSweep ha y)) (refl n x)

theorem showPlan (x : Chip) (k : Nat) : LaneWork n x (showPlan x k) := by
  have hf : ∀ (y : Chip) (f : Fld) (v : Nat), f.addr = R.LANE_FILT k → LaneWork n y (Machine.fset y f v) := fun y f v h =>
    fset y v (h ▸ filt_on n k) (h ▸ filt_not_log k)
  unfold Machine.showPlan
  split
  · exact (hf _ _ _ rfl).trans (hf _ _ _ rfl)
  · exact (hf _ _ _ rfl).trans (hf _ _ _ rfl)

/-! A lane stops, begins and starts. -/

theorem clear (x : Chip) (n : Nat) (w : Word) : LaneWork n x (Machine.wr (Machine.wr x (R.LANE_STATUS n) w) (R.LANE_QUAL n) (resetWord (R.LANE_QUAL n))) :=
  (wr x _ (status_on n n) (status_not_log n)).trans (wr _ _ (qual_on n n) (qual_not_log n))

theorem motDrop (x : Chip) (l : List MotObj) : LaneWork n x { x with mot := l } := ⟨rfl, fun _ _ => rfl, fun _ _ => rfl, fun _ => rfl⟩

theorem laneStop (x : Chip) (n : Nat) : LaneWork n x (laneStop x n) :=
  ((svcLeave id x).trans (setLaneState _ n 0)).trans ((clear _ n _).trans ((motDrop _ _).trans ((setLane ..).trans (preselSweeps _))))

theorem lineRestart (x : Chip) (k : Nat) : LaneWork n x (lineRestart x k) := by
  have hlines : ∀ l, LaneWork n x { x with lines := l } := fun l => ⟨rfl, fun _ _ => rfl, fun _ _ => rfl, fun _ => rfl⟩
  unfold Machine.lineRestart
  dsimp only
  split
  · exact ite ((hlines _).trans ⟨rfl, fun _ _ => rfl, fun _ _ => rfl, fun _ => rfl⟩) (hlines _)
  · exact hlines _

theorem amSideSet (x : Chip) (n : Nat) : LaneWork n x (amSideSet x n) :=
  ite (refl n x) ((status (k := n) x _ rfl).trans (raise _ _ _ id))

theorem laneBegin (x : Chip) (n : Nat) : LaneWork n x (laneBegin x n) := by
  unfold Machine.laneBegin
  refine LaneWork.trans ?_ (preselSweeps _)
  refine LaneWork.trans ?_ (ite (amSideSet _ n) (refl n _))
  refine LaneWork.trans ?_ ((showPlan _ n).trans (setLaneState _ n _))
  exact ((svcLeave id x).trans (clear _ n _)).trans ((setLane ..).trans (lineRestart _ n))

theorem coach_on (n : Nat) : ¬OffLane n (R.COACH_RESET_COUNT (n / 8)) ∧ ¬OffLane n (R.COACH_STATUS (n / 8)) :=
  ⟨fun h => h.2.2.1 rfl, fun h => h.2.2.2.1 rfl⟩

theorem resetLog (x : Chip) (n : Nat) : LaneWork n x (resetLog x n) := by
  refine ite ((count (w := F.COACH_STATUS_reset_wrap (n / 8)) x 1 (coach_on n).1 ?_ (coach_on n).2 ?_).trans (raise _ _ _ id)) (refl n x)
  · exact not_logRegs_of_gt (by simp only [R.COACH_RESET_COUNT]; omega)
  · exact not_logRegs_of_gt (by simp only [F.COACH_STATUS_reset_wrap, R.COACH_STATUS]; omega)

theorem divSingle (x : Chip) (n : Nat) : LaneWork n x (divSingle x n) := ite (raise _ _ _ id) (refl n x)

theorem laneStart (x : Chip) (n : Nat) : LaneWork n x (laneStart x n) :=
  ite (((resetLog x n).trans (laneBegin _ n)).trans (divSingle _ n)) (refl n x)

theorem capLeave (x : Chip) {c : LaneCfg} (h : c.ain < 4) : LaneWork n x (capLeave x c) := by
  have hcap : ∀ (y : Chip) (f : Fld) (v : Nat), f.addr = R.SPL_CAP c.ain → LaneWork n y (Machine.fset y f v) := fun y f v hf => by
    refine fset y v ?_ (not_logRegs_of_lt ?_) <;> (rw [hf]; simp only [OffLane, R.SPL_CAP]; omega)
  have hlanes : ∀ k, (capLanes c.ain k).addr = R.SPL_CAP c.ain ∧ (capK0 c.ain k).addr = R.SPL_CAP c.ain := fun k => by
    unfold capLanes capK0
    split <;> exact ⟨rfl, rfl⟩
  unfold Machine.capLeave
  refine ite ?_ (refl n x)
  split
  next k _ =>
    obtain ⟨hl, hk⟩ := hlanes k
    exact ite ((hcap _ _ _ hl).trans ((hcap _ _ _ hk).trans (raise _ _ _ fun _ => by decide))) (hcap _ _ _ hl)
  next => exact refl n x

end LaneWork

theorem ain_cfgOf_lt (x : Chip) (n : Nat) : (cfgOf x n).ain < 4 := by
  show getBits _ _ 2 < 4
  unfold getBits
  omega

/-- The LANE reset of a lane is the work of lanes. -/
theorem laneWork_laneDomainReset (x : Chip) (n cause : Nat) : LaneWork n x (laneDomainReset x n cause) :=
  ((LaneWork.laneStop x n).trans (LaneWork.raise _ _ _ fun _ => by decide)).trans (LaneWork.after _ fun y => LaneWork.laneStart y n)

/-- Registers of self-test lie off every lane's. -/
theorem offLane_bist {b : Nat} (n : Nat) (h : 0x680 ≤ b ∧ b < 0x728) : OffLane n b := by
  refine ⟨not_logRegs_of_lt h.2, .inr (by omega), ?_, ?_, fun k => ?_⟩
  · simp only [R.COACH_RESET_COUNT]
    omega
  · simp only [R.COACH_STATUS]
    omega
  · simp only [R.LANE_FILT, R.LANE_STATUS, R.LANE_QUAL]
    omega

/-- The mode registers of lanes lie off the part's lanes. -/
theorem offLane_mode (n k : Nat) : OffLane n (R.LANE_MODE k) := by
  refine ⟨?_, ?_, ?_, ?_, fun j => ?_⟩
  · simp only [logRegs, R.LANE_MODE, R.MGMT_LOG_WR, R.MGMT_LOG_LOST, R.MGMT_FAULT_STATUS, R.MGMT_INT_CAUSE, List.mem_cons,
      List.not_mem_nil, or_false]
    omega
  · simp only [R.LANE_MODE]
    omega
  · simp only [R.LANE_MODE, R.COACH_RESET_COUNT]
    omega
  · simp only [R.LANE_MODE, R.COACH_STATUS]
    omega
  · simp only [R.LANE_MODE, R.LANE_FILT, R.LANE_STATUS, R.LANE_QUAL]
    omega

end Sys2Proof.Machine
end

section
/-! PROOF. What self-test's operations on lanes leave (R20, R426 to R437): the counts of lanes, vacated lanes, ended programmes,
migrations and tests that begin. -/
namespace Sys2Proof.Machine
open Sys2Proof

variable {x y z : Chip} {n : Nat}

/-! The counts of lanes (R20, R439). -/

/-- A register that shows no count of lanes. -/
def OffCounts (b : Nat) : Prop :=
  0x40 ≤ b ∧ b ≠ R.CAL_LOAD ∧ b ≠ R.SPL_ROUTES ∧ b ≠ R.BIST_SPARES ∧ ∀ k, b ≠ R.COACH_MAP k ∧ b ≠ R.LANE_CTRL k

/-- Registers that show counts of lanes change alone. -/
structure LanesCounted (x y : Chip) : Prop where
  rest : y = { x with regs := y.regs }
  regs : ∀ b, OffCounts b → rd y b = rd x b

namespace LanesCounted

theorem refl (x : Chip) : LanesCounted x x := ⟨rfl, fun _ _ => rfl⟩

theorem trans (h1 : LanesCounted x y) (h2 : LanesCounted y z) : LanesCounted x z := by
  refine ⟨h2.rest.trans ?_, fun b hb => (h2.regs b hb).trans (h1.regs b hb)⟩
  rw [h1.rest]

theorem fset (x : Chip) {f : Fld} (v : Nat) (h : ¬OffCounts f.addr) : LanesCounted x (fset x f v) :=
  ⟨rfl, fun _ hb => rd_fset_ne _ _ _ _ fun e => h (e ▸ hb)⟩

theorem upTo {m : Nat} {f : Nat → Chip → Chip} (h : ∀ i < m, ∀ y, LanesCounted y (f i y)) (x : Chip) : LanesCounted x (upTo m f x) :=
  upTo_keeps_below (P := LanesCounted x) (fun i hi y hy => hy.trans (h i hi y)) (refl x)

theorem laneCounts (x : Chip) : LanesCounted x (laneCounts x) := by
  have hspare : ∀ i < 4, ¬OffCounts (R.GEN_SPARE i) ∧ ¬OffCounts (R.GEN_ASSIGNED i) := fun i hi => by
    simp only [OffCounts, R.GEN_SPARE, R.GEN_ASSIGNED]
    omega
  have hctrl : ∀ k, ¬OffCounts (R.LANE_CTRL k) := fun k h => (h.2.2.2.2 k).2 rfl
  unfold Machine.laneCounts
  refine LanesCounted.trans ?_ (upTo (fun k _ y => (fset (f := F.LANE_CTRL_spare k) y _ (hctrl k)).trans
    (fset (f := F.LANE_CTRL_failed k) _ _ (hctrl k))) _)
  refine LanesCounted.trans ?_ (upTo (fun a _ y => fset (f := byteFld R.SPL_ROUTES a) y _ fun h => h.2.2.1 rfl) _)
  refine LanesCounted.trans ?_ (upTo (fun c _ y => upTo (fun p _ z => fset z _ fun h => (h.2.2.2.2 c).1 rfl) y) _)
  refine LanesCounted.trans ?_ (fset (f := F.CAL_LOAD_lanes) _ _ fun h => h.2.1 rfl)
  exact upTo (fun i hi y => (fset (f := F.GEN_SPARE_s i) y _ (hspare i hi).1).trans
    (fset (f := F.GEN_ASSIGNED_a i) _ _ (hspare i hi).2)) x

theorem bistCounts (x : Chip) : LanesCounted x (bistCounts x) := by
  have hspares : ¬OffCounts R.BIST_SPARES := fun h => h.2.2.2.1 rfl
  exact (laneCounts x).trans ((fset (f := F.BIST_SPARES_spares) _ _ hspares).trans (fset (f := F.BIST_SPARES_failed) _ _ hspares))

end LanesCounted

theorem offCounts_mode (k : Nat) : OffCounts (R.LANE_MODE k) := by
  refine ⟨?_, ?_, ?_, ?_, fun j => ?_⟩
  · simp only [R.LANE_MODE]
    omega
  · simp only [R.LANE_MODE, R.CAL_LOAD]
    omega
  · simp only [R.LANE_MODE, R.SPL_ROUTES]
    omega
  · simp only [R.LANE_MODE, R.BIST_SPARES]
    omega
  · simp only [R.LANE_MODE, R.COACH_MAP, R.LANE_CTRL]
    omega

theorem offCounts_logRegs {b : Nat} (h : b ∈ logRegs) : OffCounts b := by
  have hb : 0x700 ≤ b ∧ b < 0x800 ∧ b ≠ R.CAL_LOAD ∧ b ≠ R.SPL_ROUTES ∧ b ≠ R.BIST_SPARES := by
    simp only [logRegs, List.mem_cons, List.not_mem_nil, or_false] at h
    rcases h with rfl | rfl | rfl | rfl <;> decide
  obtain ⟨hlo, hhi, hload, hroutes, hspares⟩ := hb
  refine ⟨Nat.le_trans (by decide) hlo, hload, hroutes, hspares, fun k => ?_⟩
  simp only [R.COACH_MAP, R.LANE_CTRL]
  omega

theorem LanesCounted.flags (h : LanesCounted x y) : ∀ f ∈ logFlags, fget y f = fget x f := fun f hf =>
  congrArg (getBits · f.lo f.width) (h.regs _ (offCounts_logRegs (addr_of_logFlags hf)))

theorem offCounts_bistStatus : OffCounts R.BIST_STATUS := by
  refine ⟨by decide, by decide, by decide, by decide, fun k => ?_⟩
  simp only [R.BIST_STATUS, R.COACH_MAP, R.LANE_CTRL]
  omega

/-! What is not of lanes, and self-test's own state, through the work on lanes. -/

/-- Faults, the control path, the fuses and the flags of the log's registers stay. -/
structure PartStays (x y : Chip) : Prop where
  ft : y.ft = x.ft
  cp : y.cp = x.cp
  fuse : y.fuse = x.fuse
  flags : ∀ f ∈ logFlags, fget y f = fget x f

namespace PartStays

theorem refl (x : Chip) : PartStays x x := ⟨rfl, rfl, rfl, fun _ _ => rfl⟩

theorem trans (h1 : PartStays x y) (h2 : PartStays y z) : PartStays x z :=
  ⟨h2.ft.trans h1.ft, h2.cp.trans h1.cp, h2.fuse.trans h1.fuse, fun f hf => (h2.flags f hf).trans (h1.flags f hf)⟩

theorem ite {p : Prop} [Decidable p] (hy : PartStays x y) (hz : PartStays x z) : PartStays x (if p then y else z) := by
  split <;> assumption

theorem of_lane (h : LaneWork n x y) : PartStays x y := ⟨by rw [h.rest], by rw [h.rest], by rw [h.rest], h.flags⟩

theorem of_onlyRegs {l : List Nat} (h : OnlyRegs l x y) (hl : ∀ b ∈ l, b ∉ logRegs) : PartStays x y :=
  ⟨by rw [h.1], by rw [h.1], by rw [h.1], fun _ hf => fget_onlyRegs h fun hm => hl _ hm (addr_of_logFlags hf)⟩

theorem wr (x : Chip) {a : Nat} (v : Word) (h : a ∉ logRegs) : PartStays x (wr x a v) :=
  of_onlyRegs (l := [a]) (onlyRegs_wr x v (List.mem_singleton_self a)) fun _ hb => List.mem_singleton.1 hb ▸ h

theorem raiseAt (x : Chip) (tick : BitVec 48) (src code : Nat) (args : List Byte) (c : Option CauseRef) :
    PartStays x (raiseAt x tick src code args c) :=
  ⟨by rw [raiseAt_rest], by rw [raiseAt_rest], by rw [raiseAt_rest],
    fun _ hf => fget_raiseAt_offLog (offLog_of_logFlags hf) x tick src code args c⟩

theorem raise (x : Chip) (src code : Nat) (args : List Byte) : PartStays x (raise x src code args) := raiseAt ..

theorem foldl {α : Type} {f : Chip → α → Chip} (h : ∀ y a, PartStays y (f y a)) (l : List α) : PartStays x (l.foldl f x) :=
  List.foldlRecOn (motive := PartStays x) _ _ (refl x) fun y hy a _ => hy.trans (h y a)

theorem because {f : Chip → Chip} (r : CauseRef) (h : ∀ y, PartStays y (f y)) : PartStays x (because r f x) :=
  ⟨(h _).ft, (h _).cp, (h _).fuse, (h _).flags⟩

end PartStays

/-- Self-test's state and the register that shows it stay too. -/
structure SelfTestStays (x y : Chip) : Prop extends PartStays x y where
  bist : y.bist = x.bist
  status : rd y R.BIST_STATUS = rd x R.BIST_STATUS

namespace SelfTestStays

theorem refl (x : Chip) : SelfTestStays x x := ⟨.refl x, rfl, rfl⟩

theorem trans (h1 : SelfTestStays x y) (h2 : SelfTestStays y z) : SelfTestStays x z :=
  ⟨h1.toPartStays.trans h2.toPartStays, h2.bist.trans h1.bist, h2.status.trans h1.status⟩

theorem ite {p : Prop} [Decidable p] (hy : SelfTestStays x y) (hz : SelfTestStays x z) : SelfTestStays x (if p then y else z) := by
  split <;> assumption

theorem of_lane (h : LaneWork n x y) : SelfTestStays x y :=
  ⟨.of_lane h, by rw [h.rest], h.regs _ (offLane_bist n (by decide))⟩

theorem of_counted (h : LanesCounted x y) : SelfTestStays x y :=
  ⟨⟨by rw [h.rest], by rw [h.rest], by rw [h.rest], h.flags⟩, by rw [h.rest], h.regs _ offCounts_bistStatus⟩

theorem wr (x : Chip) {a : Nat} (v : Word) (h : 0x1000 ≤ a) : SelfTestStays x (wr x a v) := by
  refine ⟨.wr x v (not_logRegs_of_gt (Nat.le_trans (by decide) h)), rfl, rd_wr_ne _ _ _ _ ?_⟩
  simp only [R.BIST_STATUS]
  omega

theorem raise (x : Chip) (src code : Nat) (args : List Byte) : SelfTestStays x (raise x src code args) :=
  ⟨.raise .., by rw [raise_rest], rd_raise _ _ _ _ _ (by decide)⟩

theorem foldl {α : Type} {f : Chip → α → Chip} (h : ∀ y a, SelfTestStays y (f y a)) (l : List α) : ∀ x, SelfTestStays x (l.foldl f x) := by
  induction l with
  | nil => exact refl
  | cons a l ih => exact fun x => (h x a).trans (ih _)

theorem after {f : Chip → Chip} (src : Nat) (h : ∀ y, SelfTestStays y (f y)) : SelfTestStays x (after src f x) :=
  ⟨.because _ fun y => (h y).toPartStays, (h _).bist, (h _).status⟩

theorem superWrite (x : Chip) (f : Fld) (v : Nat) (h : 0x1000 ≤ f.addr) : SelfTestStays x (superWrite x f v) := by
  have hset : SelfTestStays { x with staged := meetWrite x.staged f (fget x f) v, captured := meetWrite x.captured f (fget x f) v }
      (Machine.superWrite x f v) := wr _ _ h
  exact ⟨⟨hset.ft, hset.cp, hset.fuse, hset.flags⟩, hset.bist, hset.status⟩

theorem capLeave (x y : Chip) (n : Nat) : SelfTestStays y (capLeave y (cfgOf x n)) :=
  of_lane (LaneWork.capLeave (n := 0) y (ain_cfgOf_lt x n))

theorem manageLane (x : Chip) (n : Nat) (mode tune : Word) (sb : Nat) : SelfTestStays x (manageLane x n mode tune sb) := by
  have hmode : 0x1000 ≤ R.LANE_MODE n := by simp only [R.LANE_MODE]; omega
  have hstop : SelfTestStays x (if (laneOf x n).live then laneStop x n else x) := ite (of_lane (LaneWork.laneStop x n)) (refl x)
  unfold Machine.manageLane
  dsimp only
  refine SelfTestStays.trans ?_ ((of_counted (LanesCounted.laneCounts _)).trans (of_lane (LaneWork.laneStart _ n)))
  refine SelfTestStays.trans ?_ (of_lane (LaneWork.clear _ n _))
  refine SelfTestStays.trans ?_ (superWrite _ (F.LANE_INPUT_sb n) _ (by simp only [F.LANE_INPUT_sb, R.LANE_INPUT]; omega))
  refine SelfTestStays.trans ?_ (superWrite _ (F.LANE_TUNE_freq n) _ (by simp only [F.LANE_TUNE_freq, R.LANE_TUNE]; omega))
  refine SelfTestStays.trans ?_ (superWrite _ ⟨R.LANE_MODE n, 16, 16⟩ _ hmode)
  exact (hstop.trans (capLeave x _ n)).trans (superWrite _ (F.LANE_MODE_std n) _ hmode)

theorem releaseCand (x : Chip) (c : Cand) : SelfTestStays x (releaseCand x c) :=
  ite (refl x) (ite ((manageLane ..).trans (superWrite _ _ _ (by simp only [F.LANE_TANDEM_pool, R.LANE_TANDEM]; omega)))
    (refl x))

theorem followEnd (x : Chip) (p reason : Nat) : SelfTestStays x (followEnd x p reason) := by
  unfold Machine.followEnd
  split
  · exact refl x
  · have hend : ∀ f l, SelfTestStays x { x with follows := f, lines := l } := fun _ _ =>
      ⟨⟨rfl, rfl, rfl, fun _ _ => rfl⟩, rfl, rfl⟩
    exact ((hend _ _).trans (raise ..)).trans (after _ fun y => foldl releaseCand _ y)

end SelfTestStays

/-! A lane vacated (R17, R428). -/

theorem stdOf_discardStaged (x : Chip) (n : Nat) : stdOf (discardStaged x n) n = stdOf x n := by
  refine fget_wr_ne _ _ _ _ ?_
  simp only [F.LANE_MODE_std, F.LANE_CTRL_staged, R.LANE_MODE, R.LANE_CTRL]
  omega

theorem stdOf_vacate (x : Chip) (n std : Nat) : stdOf (vacate x n std) n = std % 16 :=
  (stdOf_discardStaged _ n).trans (fget_fset_same _ (F.LANE_MODE_std n) _ (by simp [F.LANE_MODE_std]))

theorem bist_foldl_wr (g : Nat → Word) (l : List Nat) : ∀ x : Chip, (l.foldl (fun y a => wr y a (g a)) x).bist = x.bist := by
  induction l with
  | nil => exact fun x => rfl
  | cons a l ih => exact fun x => ih _

theorem bist_vacate (x : Chip) (n std : Nat) : (vacate x n std).bist = x.bist := by
  have hstop : (laneStop (if stdOf x n = mSvc then fset x (F.SVC_lead_now n) 0x7F else x) n).bist = x.bist := by
    rw [(LaneWork.laneStop _ n).rest]
    split <;> rfl
  exact (bist_foldl_wr resetWord _ _).trans hstop

theorem bist_migFade (x : Chip) (p : Nat) (f : Option Fade) : (migFade x p f).bist = x.bist := by
  unfold migFade
  split <;> rfl

theorem bist_setBusy (x : Chip) (n : Nat) (peer : Option Nat) : (setBusy x n peer).bist = x.bist := by
  rw [(onlyRegs_setBusy x n peer).1]

/-! LANE resets held, and tests that begin (R426, R437). -/

/-- A LANE reset that was held is made: migration, test and the lanes' modes stay. -/
theorem releaseGo_effect (x : Chip) (n : Nat) : (releaseGo x n).bist.mig = x.bist.mig ∧ (releaseGo x n).bist.test = x.bist.test ∧
    (releaseGo x n).bist.cmd = x.bist.cmd ∧ ∀ k, rd (releaseGo x n) (R.LANE_MODE k) = rd x (R.LANE_MODE k) := by
  unfold releaseGo
  dsimp only
  split
  · have hreset := laneWork_laneDomainReset { x with bist := { x.bist with heldGo := x.bist.heldGo.erase n } } n 0
    have hbist : (fset (laneDomainReset { x with bist := { x.bist with heldGo := x.bist.heldGo.erase n } } n 0)
        F.GEN_RESET_lane_go 0).bist = { x.bist with heldGo := x.bist.heldGo.erase n } := by
      rw [fset_bist, hreset.rest]
    rw [hbist]
    refine ⟨rfl, rfl, rfl, fun k => (rd_fset_ne _ _ _ _ ?_).trans (hreset.regs _ (offLane_mode n k))⟩
    simp only [R.LANE_MODE, F.GEN_RESET_lane_go, R.GEN_RESET]
    omega
  · exact ⟨rfl, rfl, rfl, fun _ => rfl⟩

theorem bist_bistPhase (x : Chip) (phase lane dest : Nat) : (bistPhase x phase lane dest).bist = x.bist := by
  rw [(onlyRegs_bistPhase x phase lane dest).1]

/-- What a lane test that begins leaves. -/
theorem testStart_effect (x : Chip) {n : Nat} (second : Bool) (retest : Option Nat) (hn : n < 104) :
    (testStart x n second retest).bist = { x.bist with test := some ⟨n, second, retest⟩ } ∧
    fget (testStart x n second retest) F.BIST_STATUS_phase = 2 ∧ fget (testStart x n second retest) F.BIST_STATUS_busy = 1 ∧
    fget (testStart x n second retest) F.BIST_STATUS_lane = n ∧
    ∀ k, rd (testStart x n second retest) (R.LANE_MODE k) = rd x (R.LANE_MODE k) := by
  unfold testStart
  dsimp only
  have hreset := laneWork_laneDomainReset { x with bist := { x.bist with test := some ⟨n, second, retest⟩ } } n 1
  generalize laneDomainReset { x with bist := { x.bist with test := some ⟨n, second, retest⟩ } } n 1 = y at hreset ⊢
  obtain ⟨hphase, hbusy⟩ := fget_bistPhase y n 0x7F (phase := 2) (by decide)
  refine ⟨?_, hphase, hbusy, fget_bistPhase_lane y 2 0x7F (by omega), fun k => ?_⟩
  · rw [bist_bistPhase, hreset.rest]
  · refine ((onlyRegs_bistPhase y 2 n 0x7F).2 _ ?_).trans (hreset.regs _ (offLane_mode n k))
    simp only [R.LANE_MODE, R.BIST_STATUS, List.mem_singleton]
    omega

end Sys2Proof.Machine
end

section
/-! PROOF. Lane tests and migrations (R426 to R437): the schedule, migrations from their start to their end, the ends of tests, and
the obligation on them. -/
namespace Sys2Proof.Machine
open Sys2Proof

variable {x y : Chip} {s : State} {n : Nat}

/-! The schedule (R427). -/

theorem fget_bistPauseShow (x : Chip) {f : Fld} (h : f.addr ≠ R.BIST_STATUS) : fget (bistPauseShow x) f = fget x f :=
  fget_wr_ne _ _ _ _ h

theorem failed_bistPauseShow (x : Chip) : failed (bistPauseShow x) = failed x := by
  funext k
  refine fon_congr (fget_bistPauseShow x ?_)
  simp only [Fld.bit, F.BIST_FAILED_f, R.BIST_FAILED, R.BIST_STATUS]
  omega

theorem healthyFrom_bistPauseShow (x : Chip) (k : Nat) : healthyFrom (bistPauseShow x) k = healthyFrom x k := by
  rw [healthyFrom, failed_bistPauseShow]
  rfl

theorem migWaits_bistPauseShow (x : Chip) (n : Nat) : migWaits (bistPauseShow x) n = migWaits x n := by
  refine fon_congr (fget_bistPauseShow x ?_)
  simp only [F.LANE_TANDEM_busy, R.LANE_TANDEM, R.BIST_STATUS]
  omega

theorem bistPaused_bistPauseShow (x : Chip) : bistPaused (bistPauseShow x) = bistPaused x := by
  have hstate : pstate (bistPauseShow x) = pstate x := fget_bistPauseShow x (by decide)
  have hew : fon (bistPauseShow x) F.SUP_STATUS_ew = fon x F.SUP_STATUS_ew := fon_congr (fget_bistPauseShow x (by decide))
  rw [bistPaused, bistPaused, hstate, hew]

theorem exec_bistSchedule (hp : partRuns s.chip = true) (h : bistTurn (bistPauseShow s.chip) = y) :
    exec .bistSchedule s = .next (onChip (fun _ => y) s) := by
  subst h
  exact congrArg Host.Outcome.next (if_pos hp)

/-- The schedule's own turn: nothing runs, `en` is set and nothing pauses it. -/
def turnFree (x : Chip) : Prop :=
  x.bist.mig = none ∧ x.bist.test = none ∧ fon x F.BIST_CTRL_en = true ∧ pstate x = 0 ∧ fon x F.SUP_STATUS_ew = false

theorem turnFree_iff (x : Chip) :
    (bistIdle (bistPauseShow x) && (fon (bistPauseShow x) F.BIST_CTRL_en && !bistPaused (bistPauseShow x))) = true ↔ turnFree x := by
  have hen : fon (bistPauseShow x) F.BIST_CTRL_en = fon x F.BIST_CTRL_en := fon_congr (fget_bistPauseShow x (by decide))
  have hidle : bistIdle (bistPauseShow x) = bistIdle x := rfl
  rw [bistPaused_bistPauseShow, hen, hidle, Bool.and_eq_true, bistIdle_iff, Bool.and_eq_true, Bool.not_eq_true', bistPaused,
    Bool.or_eq_false_iff, bne_eq_false_iff_eq, turnFree, and_assoc]

theorem no_command_bistPauseShow (hc : cmdWaits x = none) : ¬(cmdWaits (bistPauseShow x)).isSome = true := by
  show ¬(cmdWaits x).isSome = true
  rw [hc]
  exact Bool.false_ne_true

theorem bistTurn_blocked (hc : cmdWaits x = none) (h : ¬turnFree x) : bistTurn (bistPauseShow x) = bistPauseShow x := by
  unfold bistTurn
  rw [if_neg (no_command_bistPauseShow hc), if_neg (mt (turnFree_iff x).1 h)]

theorem bistTurn_healthy (hc : cmdWaits x = none) (h : turnFree x) (hn : healthyFrom x (fget x F.BIST_SPARES_next) = some n) :
    bistTurn (bistPauseShow x) = if migWaits x n = true then bistPauseShow x
      else runLane (fset (bistPauseShow x) F.BIST_SPARES_next ((healthyFrom x ((n + 1) % 104)).getD n)) n := by
  unfold bistTurn
  rw [if_neg (no_command_bistPauseShow hc), if_pos ((turnFree_iff x).2 h), healthyFrom_bistPauseShow,
    fget_bistPauseShow x (by decide), hn]
  dsimp only
  rw [migWaits_bistPauseShow, healthyFrom_bistPauseShow, laneCount]

theorem bistTurn_runs (hc : cmdWaits x = none) (h : turnFree x) (hn : healthyFrom x (fget x F.BIST_SPARES_next) = some n)
    (hw : migWaits x n = false) : bistTurn (bistPauseShow x) =
      runLane (fset (bistPauseShow x) F.BIST_SPARES_next ((healthyFrom x ((n + 1) % 104)).getD n)) n :=
  (bistTurn_healthy hc h hn).trans (if_neg (ne_true_of_eq_false hw))

theorem bistTurn_waits (hc : cmdWaits x = none) (hn : healthyFrom x (fget x F.BIST_SPARES_next) = some n)
    (hw : migWaits x n = true) : bistTurn (bistPauseShow x) = bistPauseShow x := by
  by_cases h : turnFree x
  · exact (bistTurn_healthy hc h hn).trans (if_pos hw)
  · exact bistTurn_blocked hc h

theorem bistTurn_noHealthy (hc : cmdWaits x = none) (hn : healthyFrom x (fget x F.BIST_SPARES_next) = none) :
    bistTurn (bistPauseShow x) = bistPauseShow x := by
  unfold bistTurn
  rw [if_neg (no_command_bistPauseShow hc), healthyFrom_bistPauseShow, fget_bistPauseShow x (by decide), hn]
  exact ite_self _

theorem bistTurn_command {code : Nat} (hc : cmdWaits x = some (n, code)) : bistTurn (bistPauseShow x) = cmdTurn (bistPauseShow x) := by
  refine if_pos ?_
  show (cmdWaits x).isSome = true
  rw [hc]
  rfl

theorem healthyFrom_lt {k : Nat} (h : healthyFrom x k = some n) : n < 104 := by
  obtain ⟨j, -, rfl⟩ := List.mem_map.1 (List.mem_of_find?_eq_some h)
  exact Nat.mod_lt _ (by decide)

/-- The schedule's test in place. -/
theorem runLane_place (h : stdOf x n = 0 ∨ stdOf x n = 15) : runLane x n = testStart x n false none := if_pos h

theorem runLane_moves {d : Nat} (h0 : stdOf x n ≠ 0) (h15 : stdOf x n ≠ 15) (hd : migDest x = some d) : runLane x n = migStart x n d := by
  unfold runLane
  rw [hd]
  exact if_neg (not_or.2 ⟨h0, h15⟩)

theorem runLane_skips (h0 : stdOf x n ≠ 0) (h15 : stdOf x n ≠ 15) (hd : migDest x = none) :
    runLane x n = cmdEnds (fset (raise x srcBist 0x06 (b1 n ++ b1 0)) F.BIST_STATUS_no_dest 1) 0x09 := by
  unfold runLane
  rw [hd]
  exact if_neg (not_or.2 ⟨h0, h15⟩)

/-- What the schedule's test of a lane in place leaves. -/
theorem scheduledTest (v : Nat) (hn : n < 104) (hm : x.bist.mig = none) (h : stdOf x n = 0 ∨ stdOf x n = 15) :
    let t := runLane (fset (bistPauseShow x) F.BIST_SPARES_next v) n
    t.bist.test = some ⟨n, false, none⟩ ∧ t.bist.mig = none ∧ fget t F.BIST_STATUS_phase = 2 ∧ fget t F.BIST_STATUS_lane = n ∧
      fget t F.BIST_STATUS_busy = 1 := by
  intro t
  have hstd : stdOf (fset (bistPauseShow x) F.BIST_SPARES_next v) n = stdOf x n := by
    refine (fget_wr_ne _ _ _ _ ?_).trans (fget_bistPauseShow x ?_)
    · simp only [F.LANE_MODE_std, R.LANE_MODE, F.BIST_SPARES_next, R.BIST_SPARES]
      omega
    · simp only [F.LANE_MODE_std, R.LANE_MODE, R.BIST_STATUS]
      omega
  have ht : t = testStart (fset (bistPauseShow x) F.BIST_SPARES_next v) n false none := runLane_place (by rwa [hstd])
  obtain ⟨hbist, hphase, hbusy, hlane, -⟩ := testStart_effect (fset (bistPauseShow x) F.BIST_SPARES_next v) false none hn
  rw [ht, hbist]
  exact ⟨rfl, hm, hphase, hlane, hbusy⟩

/-! The destination of a migration (R428). -/

/-- A lane fit to be the destination in a mode. -/
def destOk (x : Chip) (std n : Nat) : Bool := stdOf x n == std && !failed x n && !(x.bist.test.map LaneTest.lane == some n)

theorem destOk_iff {std : Nat} : destOk x std n = true ↔ stdOf x n = std ∧ failed x n = false ∧ x.bist.test.map LaneTest.lane ≠ some n := by
  simp only [destOk, Bool.and_eq_true, beq_iff_eq, Bool.not_eq_true', beq_eq_false_iff_ne, and_assoc]

theorem not_destOk {std : Nat} (h : destOk x std n = false) (hs : stdOf x n = std) :
    failed x n = true ∨ x.bist.test.map LaneTest.lane = some n := by
  by_contra hc
  obtain ⟨hf, ht⟩ := not_or.1 hc
  exact ne_true_of_eq_false h (destOk_iff.2 ⟨hs, Bool.eq_false_iff.2 hf, ht⟩)

theorem migDest_eq (x : Chip) : migDest x = match allLanes.find? (destOk x 15) with
    | some n => some n
    | none => allLanes.find? (destOk x 0) := rfl

/-- The destination is the lowest lane that fits, SPARE before OFF. -/
theorem migDest_cases {d : Nat} (h : migDest x = some d) : allLanes.find? (destOk x 15) = some d ∨
    (allLanes.find? (destOk x 15) = none ∧ allLanes.find? (destOk x 0) = some d) := by
  rw [migDest_eq] at h
  split at h
  next k hk => exact .inl (hk.trans h)
  next hk => exact .inr ⟨hk, h⟩

theorem find_destOk {d std : Nat} (h : allLanes.find? (destOk x std) = some d) : d < 104 ∧ stdOf x d = std ∧ failed x d = false ∧
    ∀ k < d, stdOf x k = std → failed x k = true ∨ x.bist.test.map LaneTest.lane = some k := by
  obtain ⟨hd, hmem, hless⟩ := List.find?_range_eq_some.1 h
  obtain ⟨hstd, hfail, -⟩ := destOk_iff.1 hd
  exact ⟨List.mem_range.1 hmem, hstd, hfail, fun k hk => not_destOk (by simpa using hless k hk)⟩

theorem find_destOk_none {std : Nat} (h : allLanes.find? (destOk x std) = none) :
    ∀ k < 104, stdOf x k = std → failed x k = true ∨ x.bist.test.map LaneTest.lane = some k :=
  fun k hk => not_destOk (by simpa using List.find?_range_eq_none.1 h k hk)

theorem migDest_lowest {d : Nat} (h : migDest x = some d) : d < 104 ∧ failed x d = false ∧ (stdOf x d = 15 ∨ stdOf x d = 0) ∧
    (∀ k, k < d → stdOf x k = stdOf x d → failed x k = true ∨ x.bist.test.map LaneTest.lane = some k) ∧
    (stdOf x d = 0 → ∀ k, k < 104 → stdOf x k = 15 → failed x k = true ∨ x.bist.test.map LaneTest.lane = some k) := by
  rcases migDest_cases h with hs | ⟨hno, ho⟩
  · obtain ⟨hd, hstd, hfail, hless⟩ := find_destOk hs
    exact ⟨hd, hfail, .inl hstd, fun k hk he => hless k hk (he.trans hstd), fun h0 => absurd (hstd.symm.trans h0) (by decide)⟩
  · obtain ⟨hd, hstd, hfail, hless⟩ := find_destOk ho
    exact ⟨hd, hfail, .inr hstd, fun k hk he => hless k hk (he.trans hstd), fun _ => find_destOk_none hno⟩

/-! The state copied (R429). -/

/-- The lane's memory, status and quality copied, before a fade begins. -/
def migCopied (x : Chip) (m : Mig) : Chip :=
  let x0 := laneStateSet x m.dst (laneState x m.src)
  let x1 := setLane x0 m.dst { laneOf x m.src with told := (laneOf x0 m.dst).told }
  let x2 := wr (wr x1 (R.LANE_STATUS m.dst) (rd x (R.LANE_STATUS m.src))) (R.LANE_QUAL m.dst) (rd x (R.LANE_QUAL m.src))
  { x2 with bist := { x2.bist with mig := some { m with copied := true } } }

/-- What the copy leaves of self-test and of the destination lane. -/
structure Copied (x : Chip) (m : Mig) (y : Chip) : Prop where
  bist : y.bist = { x.bist with mig := some { m with copied := true } }
  lane : laneOf y m.dst = { laneOf x m.src with told := (laneOf y m.dst).told }
  status : rd y (R.LANE_STATUS m.dst) = rd x (R.LANE_STATUS m.src)
  qual : rd y (R.LANE_QUAL m.dst) = rd x (R.LANE_QUAL m.src)

theorem copied_migCopied (x : Chip) (m : Mig) : Copied x m (migCopied x m) := by
  have hlane : laneOf (migCopied x m) m.dst = { laneOf x m.src with told := (laneOf (laneStateSet x m.dst (laneState x m.src)) m.dst).told } :=
    laneOf_setLane_same ..
  refine ⟨?_, ?_, ?_, rd_wr_same ..⟩
  · show { (laneStateSet x m.dst (laneState x m.src)).bist with mig := some { m with copied := true } } = _
    rw [laneStateSet_rest]
  · rw [hlane]
  · refine (rd_wr_ne _ _ _ _ ?_).trans (rd_wr_same ..)
    simp only [R.LANE_STATUS, R.LANE_QUAL]
    omega

/-- A fade that begins keeps what was copied. -/
theorem Copied.fade {m : Mig} (h : Copied x m y) (f : Option Fade) (r : CauseRef) (args : List Byte) :
    Copied x m (because r (fun z => raise z srcMgmt 0x46 args)
      (migFade (setBusy (setBusy y m.src (some m.dst)) m.dst (some m.src)) m.src f)) := by
  have hbusy : ∀ (z : Chip) (a b : Nat), (setBusy z a (some b)).bist = z.bist ∧ (setBusy z a (some b)).lanes = z.lanes ∧
      rd (setBusy z a (some b)) (R.LANE_STATUS m.dst) = rd z (R.LANE_STATUS m.dst) ∧
      rd (setBusy z a (some b)) (R.LANE_QUAL m.dst) = rd z (R.LANE_QUAL m.dst) := by
    intro z a b
    have hz := onlyRegs_setBusy z a (some b)
    refine ⟨bist_setBusy z a _, lanes_onlyRegs hz, hz.2 _ ?_, hz.2 _ ?_⟩
    · simp only [List.mem_singleton, R.LANE_STATUS, R.LANE_TANDEM]
      omega
    · simp only [List.mem_singleton, R.LANE_QUAL, R.LANE_TANDEM]
      omega
  have hfade : ∀ z : Chip, (migFade z m.src f).bist = z.bist ∧ (migFade z m.src f).lanes = z.lanes ∧ (migFade z m.src f).regs = z.regs := by
    intro z
    unfold migFade
    split <;> exact ⟨rfl, rfl, rfl⟩
  have hraise : ∀ z : Chip, (because r (fun z => raise z srcMgmt 0x46 args) z).bist = z.bist ∧
      (because r (fun z => raise z srcMgmt 0x46 args) z).lanes = z.lanes ∧
      ∀ b, b ∉ logRegs → rd (because r (fun z => raise z srcMgmt 0x46 args) z) b = rd z b := by
    intro z
    unfold because
    dsimp only
    rw [raise_rest]
    refine ⟨rfl, rfl, fun b hb => ?_⟩
    exact (rd_raise { z with lg := { z.lg with because := some r } } srcMgmt 0x46 args b hb)
  obtain ⟨hb1, hl1, hs1, hq1⟩ := hbusy y m.src m.dst
  obtain ⟨hb2, hl2, hs2, hq2⟩ := hbusy (setBusy y m.src (some m.dst)) m.dst m.src
  generalize setBusy (setBusy y m.src (some m.dst)) m.dst (some m.src) = z2 at hb2 hl2 hs2 hq2 ⊢
  obtain ⟨hb3, hl3, hr3⟩ := hfade z2
  generalize migFade z2 m.src f = z3 at hb3 hl3 hr3 ⊢
  obtain ⟨hb4, hl4, hr4⟩ := hraise z3
  have hlane : laneOf (because r (fun z => raise z srcMgmt 0x46 args) z3) m.dst = laneOf y m.dst :=
    laneOf_congr (((hl4.trans hl3).trans hl2).trans hl1)
  have hrd : ∀ b, rd z3 b = rd z2 b := fun b => congrArg (smGet resetWord · b) hr3
  refine ⟨(((hb4.trans hb3).trans hb2).trans hb1).trans h.bist, ?_, ?_, ?_⟩
  · rw [hlane, ← h.lane]
  · exact (hr4 _ (by simp only [logRegs, R.LANE_STATUS, R.MGMT_LOG_WR, R.MGMT_LOG_LOST, R.MGMT_FAULT_STATUS, R.MGMT_INT_CAUSE,
      List.mem_cons, List.not_mem_nil, or_false]; omega)).trans (((hrd _).trans (hs2.trans hs1)).trans h.status)
  · exact (hr4 _ (by simp only [logRegs, R.LANE_QUAL, R.MGMT_LOG_WR, R.MGMT_LOG_LOST, R.MGMT_FAULT_STATUS, R.MGMT_INT_CAUSE,
      List.mem_cons, List.not_mem_nil, or_false]; omega)).trans (((hrd _).trans (hq2.trans hq1)).trans h.qual)

theorem copied_migCopy (x : Chip) (m : Mig) : Copied x m (migCopy x m) := by
  have h := copied_migCopied x m
  unfold migCopy
  dsimp only
  split
  · exact h.fade _ _ _
  · exact h

section
variable {m : Mig} (hm : s.chip.bist.mig = some m)
include hm

theorem exec_migStateCopy : exec .migStateCopy s = .next (if m.copied then s else onChip (fun x => migCopy x m) s) := by
  show Host.Outcome.next _ = _
  rw [hm]

theorem exec_migDone (stamp : Nat) : exec (.migDone stamp) s = .next (if m.copied then onChip (fun x => migDone x m stamp) s else s) := by
  show Host.Outcome.next _ = _
  rw [hm]

theorem exec_migAbort (reason : Nat) : exec (.migAbort reason) s = .next (onChip (fun x => migAbort x m (min reason 2)) s) := by
  show Host.Outcome.next _ = _
  rw [hm]

end

theorem exec_mig_none (hm : s.chip.bist.mig = none) (stamp reason : Nat) :
    exec .migStateCopy s = .next s ∧ exec (.migDone stamp) s = .next s ∧ exec (.migAbort reason) s = .next s := by
  refine ⟨?_, ?_, ?_⟩ <;> (show Host.Outcome.next _ = _; rw [hm])

/-! A migration ends (R429, R431, R437). -/

/-- The chip with no migration under way, its lanes counted. -/
def migOver (x : Chip) : Chip := bistCounts { x with bist := { x.bist with mig := none } }

theorem migOver_effect (x : Chip) (n : Nat) : (migOver x).bist = { x.bist with mig := none } ∧ stdOf (migOver x) n = stdOf x n := by
  have h := LanesCounted.bistCounts { x with bist := { x.bist with mig := none } }
  exact ⟨by rw [migOver, h.rest], congrArg (getBits · 0 4) (h.regs _ (offCounts_mode n))⟩

theorem rd_mode_raise (x : Chip) (src code : Nat) (args : List Byte) (n : Nat) :
    rd (raise x src code args) (R.LANE_MODE n) = rd x (R.LANE_MODE n) :=
  rd_raise _ _ _ _ _ (offLane_mode 0 n).1

theorem stdOf_congr (h : rd y (R.LANE_MODE n) = rd x (R.LANE_MODE n)) : stdOf y n = stdOf x n := congrArg (getBits · 0 4) h

theorem bist_after (src : Nat) (f : Chip → Chip) (x : Chip) :
    (after src f x).bist = (f { x with lg := { x.lg with because := some (lastRef x src) } }).bist := rfl

theorem regs_after (src : Nat) (f : Chip → Chip) (x : Chip) :
    (after src f x).regs = (f { x with lg := { x.lg with because := some (lastRef x src) } }).regs := rfl

theorem fget_of_regs (h : y.regs = x.regs) (f : Fld) : fget y f = fget x f := by rw [fget, rd, h, fget, rd]

/-- A test of the lane that a migration has left. -/
theorem sourceTested (x : Chip) {n : Nat} (hn : n < 104) (hm : x.bist.mig = none) :
    (after srcBist (fun y => testStart (releaseGo y n) n false none) x).bist.mig = none ∧
    (after srcBist (fun y => testStart (releaseGo y n) n false none) x).bist.test = some ⟨n, false, none⟩ ∧
    stdOf (after srcBist (fun y => testStart (releaseGo y n) n false none) x) n = stdOf x n ∧
    fget (after srcBist (fun y => testStart (releaseGo y n) n false none) x) F.BIST_STATUS_phase = 2 ∧
    fget (after srcBist (fun y => testStart (releaseGo y n) n false none) x) F.BIST_STATUS_lane = n := by
  have hregs := regs_after srcBist (fun y => testStart (releaseGo y n) n false none) x
  rw [bist_after, stdOf, fget_of_regs hregs, fget_of_regs hregs, fget_of_regs hregs]
  have hz : ({ x with lg := { x.lg with because := some (lastRef x srcBist) } } : Chip).bist.mig = none := hm
  have hstd : stdOf { x with lg := { x.lg with because := some (lastRef x srcBist) } } n = stdOf x n := rfl
  generalize ({ x with lg := { x.lg with because := some (lastRef x srcBist) } } : Chip) = z at hz hstd ⊢
  obtain ⟨hgm, -, -, hgr⟩ := releaseGo_effect z n
  obtain ⟨hbist, hphase, -, hlane, hrd⟩ := testStart_effect (releaseGo z n) false none hn
  rw [hbist]
  exact ⟨hgm.trans hz, rfl, (stdOf_congr ((hrd n).trans (hgr n))).trans hstd, hphase, hlane⟩

theorem migDone_effect (x : Chip) (m : Mig) (stamp : Nat) (hs : m.src < 104) :
    (migDone x m stamp).bist.mig = none ∧ (migDone x m stamp).bist.test = some ⟨m.src, false, none⟩ ∧
    stdOf (migDone x m stamp) m.src = m.former % 16 ∧ fget (migDone x m stamp) F.BIST_STATUS_phase = 2 ∧
    fget (migDone x m stamp) F.BIST_STATUS_lane = m.src := by
  unfold migDone
  dsimp only
  generalize moveCaptured m.src m.dst _ x = x3
  generalize b1 m.src ++ b1 m.dst ++ b2s _ = args
  have hstd := stdOf_vacate (capLeave x3 (cfgOf x m.src)) m.src m.former
  generalize vacate (capLeave x3 (cfgOf x m.src)) m.src m.former = x4 at hstd ⊢
  obtain ⟨hbist, hover⟩ := migOver_effect x4 m.src
  have htold : (raise (migOver x4) srcBist 0x02 args).bist.mig = none := by rw [raise_rest, hbist]
  obtain ⟨hmig, htest, hstd', hphase, hlane⟩ := sourceTested (raise (migOver x4) srcBist 0x02 args) hs htold
  exact ⟨hmig, htest, ((hstd'.trans (stdOf_congr (rd_mode_raise ..))).trans hover).trans hstd, hphase, hlane⟩

/-- The destination given back and a held LANE reset made. -/
def migDropped (x : Chip) (m : Mig) : Chip :=
  let faded := fon x (F.LANE_TANDEM_busy m.src)
  let x1 := if faded then setBusy (setBusy x m.src none) m.dst none else x
  let x2 := if faded then migFade x1 m.src none else x1
  let x3 := vacate (capLeave x2 (cfgOf x2 m.dst)) m.dst m.former
  let x4 := bistCounts { x3 with bist := { x3.bist with mig := none } }
  releaseGo (releaseHeld x4 m.src) m.src

theorem bist_capLeave (x y : Chip) (n : Nat) : (capLeave y (cfgOf x n)).bist = y.bist := (SelfTestStays.capLeave x y n).bist

theorem bist_releaseHeld (x : Chip) (n : Nat) : (releaseHeld x n).bist = x.bist := by
  unfold releaseHeld
  split <;> rfl

theorem migDropped_effect (x : Chip) (m : Mig) : (migDropped x m).bist.mig = none ∧ (migDropped x m).bist.test = x.bist.test := by
  have hfade : ∀ p : Bool, (if p then migFade (if p then setBusy (setBusy x m.src none) m.dst none else x) m.src none
      else (if p then setBusy (setBusy x m.src none) m.dst none else x)).bist = x.bist := fun p => by
    cases p
    · rfl
    · exact (bist_migFade _ _ _).trans ((bist_setBusy _ _ _).trans (bist_setBusy _ _ _))
  specialize hfade (fon x (F.LANE_TANDEM_busy m.src))
  unfold migDropped
  dsimp only
  generalize (if fon x (F.LANE_TANDEM_busy m.src) = true then _ else _ : Chip) = x2 at hfade ⊢
  obtain ⟨hmig, htest, -, -⟩ := releaseGo_effect (releaseHeld (bistCounts { vacate (capLeave x2 (cfgOf x2 m.dst)) m.dst m.former with
    bist := { (vacate (capLeave x2 (cfgOf x2 m.dst)) m.dst m.former).bist with mig := none } }) m.src) m.src
  rw [hmig, htest, bist_releaseHeld, (LanesCounted.bistCounts _).rest]
  refine ⟨rfl, ?_⟩
  show (vacate (capLeave x2 (cfgOf x2 m.dst)) m.dst m.former).bist.test = x.bist.test
  rw [bist_vacate, bist_capLeave, hfade]

/-- The migration told abandoned, its follow record ended where it was to end. -/
def migTold (x : Chip) (m : Mig) (reason : Nat) : Chip :=
  let x6 := bistPhase (raise (migDropped x m) srcBist 0x03 (b1 m.src ++ b1 m.dst ++ b1 reason)) 0 0x7F 0x7F
  match (followOf x m.src).bind fun r => r.fading.bind Fade.endReason with
  | some e => if fon x (F.LANE_TANDEM_busy m.src) then followEnd x6 m.src e else x6
  | none => x6

theorem migAbort_eq (x : Chip) (m : Mig) (reason : Nat) : migAbort x m reason =
    if reason = 2 then testStart (migTold x m reason) m.dst false none else cmdEnds (migTold x m reason) 0x09 := rfl

theorem migTold_effect (x : Chip) (m : Mig) (reason : Nat) : (migTold x m reason).bist.mig = none ∧
    (migTold x m reason).bist.test = x.bist.test ∧ fget (migTold x m reason) F.BIST_STATUS_phase = 0 := by
  obtain ⟨hmig, htest⟩ := migDropped_effect x m
  have hphase : ∀ z : Chip, SelfTestStays (bistPhase (raise (migDropped x m) srcBist 0x03 (b1 m.src ++ b1 m.dst ++ b1 reason)) 0 0x7F 0x7F) z →
      z.bist.mig = none ∧ z.bist.test = x.bist.test ∧ fget z F.BIST_STATUS_phase = 0 := by
    intro z hz
    have hb := hz.bist
    have hst := hz.status
    have hbist : z.bist = (migDropped x m).bist := hb.trans ((bist_bistPhase _ _ _ _).trans (SelfTestStays.raise ..).bist)
    rw [hbist]
    exact ⟨hmig, htest, (congrArg (getBits · 12 4) hst).trans (fget_bistPhase _ _ _ (by decide)).1⟩
  refine hphase _ ?_
  unfold migTold
  dsimp only
  split
  · exact SelfTestStays.ite (SelfTestStays.followEnd ..) (SelfTestStays.refl _)
  · exact SelfTestStays.refl _

theorem cmdEnds_effect (x : Chip) (st : Nat) : (cmdEnds x st).bist.mig = x.bist.mig ∧ (cmdEnds x st).bist.test = x.bist.test ∧
    (cmdEnds x st).regs = x.regs := by
  unfold cmdEnds
  split
  · split <;> exact ⟨rfl, rfl, rfl⟩
  · exact ⟨rfl, rfl, rfl⟩

theorem migAbort_ends (x : Chip) (m : Mig) {reason : Nat} (hr : reason < 2) : (migAbort x m (min reason 2)).bist.mig = none ∧
    (migAbort x m (min reason 2)).bist.test = x.bist.test ∧ fget (migAbort x m (min reason 2)) F.BIST_STATUS_phase = 0 := by
  obtain ⟨hmig, htest, hphase⟩ := migTold_effect x m (min reason 2)
  rw [migAbort_eq, if_neg (by omega)]
  obtain ⟨hm', ht', hregs⟩ := cmdEnds_effect (migTold x m (min reason 2)) 0x09
  rw [hm', ht']
  exact ⟨hmig, htest, (congrArg (fun r => getBits (smGet resetWord r R.BIST_STATUS) 12 4) hregs).trans hphase⟩

theorem migAbort_tests (x : Chip) (m : Mig) {reason : Nat} (hr : 2 ≤ reason) (hd : m.dst < 104) :
    (migAbort x m (min reason 2)).bist.mig = none ∧ (migAbort x m (min reason 2)).bist.test = some ⟨m.dst, false, none⟩ ∧
    fget (migAbort x m (min reason 2)) F.BIST_STATUS_phase = 2 := by
  obtain ⟨hmig, -, -⟩ := migTold_effect x m (min reason 2)
  rw [migAbort_eq, if_pos (by omega)]
  obtain ⟨hbist, hphase, -, -, -⟩ := testStart_effect (migTold x m (min reason 2)) false none hd
  rw [hbist]
  exact ⟨hmig, rfl, hphase⟩

/-! A lane test ends (R426, R432). -/

/-- The test counted and shown. -/
def testCounted (x : Chip) (n : Nat) (pass : Bool) : Chip :=
  fflag (fset (count x R.BIST_RUN_COUNT F.BIST_STATUS_run_wrap 1) F.BIST_LAST_lane n) F.BIST_LAST_fail (!pass)

theorem testCounted_rest (x : Chip) (n : Nat) (pass : Bool) : (testCounted x n pass).bist = x.bist ∧ (testCounted x n pass).tm = x.tm := by
  unfold testCounted
  rw [fflag_bist, fset_bist, fflag_tm, fset_tm, count_rest]
  exact ⟨rfl, rfl⟩

/-- A report of the lane put. -/
def reported (x : Chip) (n : Nat) (e : LaneReport) : Chip :=
  { x with bist := { x.bist with reports := smPut reportReset x.bist.reports n e } }

theorem testPassed_eq (x : Chip) (n sig : Nat) : testPassed x n sig =
    raise (reported x n ⟨true, false, (reportOf x n).passes + 1, some x.tm.ticks⟩) srcBist 0x04 (b1 n ++ b4 sig) := rfl

theorem testFailed_eq (x : Chip) (n : Nat) : testFailed x n =
    reported x n ⟨true, true, (reportOf x n).passes, (reportOf x n).last⟩ := rfl

theorem testPassed_counted (x : Chip) (n sig : Nat) : testPassed (testCounted x n true) n sig =
    raise (reported (testCounted x n true) n ⟨true, false, (reportOf x n).passes + 1, some x.tm.ticks⟩) srcBist 0x04 (b1 n ++ b4 sig) := by
  obtain ⟨hbist, htm⟩ := testCounted_rest x n true
  have hrep : reportOf (testCounted x n true) n = reportOf x n := by rw [reportOf, hbist, reportOf]
  rw [testPassed_eq, hrep, htm]

theorem testFailed_counted (x : Chip) (n : Nat) : testFailed (testCounted x n false) n =
    reported (testCounted x n false) n ⟨true, true, (reportOf x n).passes, (reportOf x n).last⟩ := by
  obtain ⟨hbist, -⟩ := testCounted_rest x n false
  have hrep : reportOf (testCounted x n false) n = reportOf x n := by rw [reportOf, hbist, reportOf]
  rw [testFailed_eq, hrep]

theorem exec_laneTestDone {g : LaneTest} (hg : s.chip.bist.test = some g) (sig : Word) (pass : Bool) :
    exec (.laneTestDone sig pass) s = .next (onChip (fun x => testDone x g sig.toNat pass) s) := by
  show Host.Outcome.next _ = _
  rw [hg]

theorem exec_laneTestDone_idle (hg : s.chip.bist.test = none) (sig : Word) (pass : Bool) : exec (.laneTestDone sig pass) s = .next s := by
  show Host.Outcome.next _ = _
  rw [hg]

section
variable {g : LaneTest} (x : Chip) (sig : Nat)

/-- A test passed: told, and what follows of it. -/
theorem testDone_pass : testDone x g sig true = match g.retest with
    | some k => if k == 0 then testStart (testPassed (testCounted x g.lane true) g.lane sig) g.lane false (some 1)
      else cmdEnds (unfail (testFree (testPassed (testCounted x g.lane true) g.lane sig) g.lane) g.lane) 0
    | none => cmdEnds (testFree (testPassed (testCounted x g.lane true) g.lane sig) g.lane) 0 := rfl

/-- A test failed, and what follows of it. -/
theorem testDone_fail : testDone x g sig false = match g.retest with
    | some _ => cmdEnds (testFree (testFailed (testCounted x g.lane false) g.lane) g.lane) 0
    | none => if g.second then cmdEnds (sparesNow (markFailed (testFree (testFailed (testCounted x g.lane false) g.lane) g.lane) g.lane 0 sig)) 0
      else testStart (testFailed (testCounted x g.lane false) g.lane) g.lane true none := rfl

end

/-! A lane fails (R432, R433). -/

theorem lanes_preselMismatch (a : Nat) (x : Chip) (n : Nat) : (preselMismatch a x n).lanes = x.lanes := by
  unfold preselMismatch
  split
  · rw [raise_rest]
    rfl
  · rfl

theorem lanes_preselSweep (x : Chip) (a : Nat) : (preselSweep x a).lanes = x.lanes := by
  unfold preselSweep
  dsimp only
  generalize (if fon x (F.AIN_CFG_presel_auto a) then [] else allLanes.filter (outsideOf x a)) = now
  split
  · rfl
  · exact List.foldlRecOn (motive := fun y => y.lanes = x.lanes) _ (preselMismatch a) (setAin_lanes ..) fun y hy k _ =>
      (lanes_preselMismatch a y k).trans hy

theorem lanes_preselSweeps (x : Chip) : (preselSweeps x).lanes = x.lanes :=
  upTo_keeps (fun y => y.lanes = x.lanes) 4 (fun a y => preselSweep y a) (fun a y hy => (lanes_preselSweep y a).trans hy) x rfl

/-- A stopped lane keeps nothing but the audio that waits in the depot. -/
theorem laneOf_laneStop (x : Chip) (n : Nat) : ∃ l, laneOf (laneStop x n) n = laneClear l := by
  unfold laneStop
  dsimp only
  exact ⟨_, (laneOf_congr (lanes_preselSweeps _)).trans (laneOf_setLane_same ..)⟩

theorem lanes_capLeave (x : Chip) (c : LaneCfg) : (capLeave x c).lanes = x.lanes := by
  unfold capLeave
  dsimp only
  split
  · split
    · split
      · rw [raise_rest]
        rfl
      · rfl
    · rfl
  · rfl

/-- The lane's failure noted, before it stops. -/
def laneFailNoted (x : Chip) (n cause sig : Nat) : Chip :=
  setCause (raise (fset (if stdOf x n = mOff ∨ stdOf x n = mSpare then x
    else { x with bist := { x.bist with parked := smInsert n (rd x (R.LANE_MODE n)) x.bist.parked } }) F.BIST_STATUS_fail_new 1)
    srcBist 0x05 (b1 n ++ b1 cause ++ b4 sig)) .bist

/-- The failed lane stopped. -/
def failStopped (n : Nat) (y : Chip) : Chip := capLeave (laneStop y n) (cfgOf y n)

theorem markFailed_eq (x : Chip) (n cause sig : Nat) : markFailed x n cause sig =
    superWrite (fset (after srcBist (failStopped n) (laneFailNoted x n cause sig)) ((F.BIST_FAILED_f (n / 32)).bit (n % 32)) 1)
      (F.LANE_MODE_std n) 15 := rfl

theorem laneWork_failStopped (n : Nat) (y : Chip) : LaneWork n y (failStopped n y) :=
  (LaneWork.laneStop y n).trans (LaneWork.capLeave _ (ain_cfgOf_lt y n))

theorem failNoted_effect (x : Chip) (n cause sig : Nat) : fget (laneFailNoted x n cause sig) F.BIST_STATUS_fail_new = 1 ∧
    fget (laneFailNoted x n cause sig) F.MGMT_INT_CAUSE_bist = 1 ∧ nextSeq (laneFailNoted x n cause sig) srcBist = nextSeq x srcBist + 1 := by
  unfold laneFailNoted
  have hseq : nextSeq (if stdOf x n = mOff ∨ stdOf x n = mSpare then x
      else { x with bist := { x.bist with parked := smInsert n (rd x (R.LANE_MODE n)) x.bist.parked } }) srcBist = nextSeq x srcBist := by
    split <;> rfl
  generalize (if stdOf x n = mOff ∨ stdOf x n = mSpare then x else _ : Chip) = z at hseq ⊢
  refine ⟨?_, fget_fset_same _ _ _ (by decide), ?_⟩
  · rw [fget_setCause_not_log _ _ (by decide), fget_raise _ _ _ _ _ (by decide)]
    exact fget_fset_same _ _ _ (by decide)
  · rw [nextSeq_setCause, nextSeq_raise_same]
    exact congrArg (· + 1) hseq

theorem markFailed_effect (x : Chip) {n : Nat} (cause sig : Nat) (hn : n < 104) :
    let y := markFailed x n cause sig
    failed y n = true ∧ stdOf y n = 15 ∧ fget y F.BIST_STATUS_fail_new = 1 ∧ fget y F.MGMT_INT_CAUSE_bist = 1 ∧
    (laneOf y n).live = false ∧ laneOf y n = { laneReset n with pcm := (laneOf y n).pcm, turns := (laneOf y n).turns } ∧
    nextSeq y srcBist = nextSeq x srcBist + 1 := by
  intro y
  obtain ⟨hnew, hcause, hseq⟩ := failNoted_effect x n cause sig
  let w := after srcBist (failStopped n) (laneFailNoted x n cause sig)
  have hw : LaneWork n (laneFailNoted x n cause sig) w := LaneWork.after srcBist (laneWork_failStopped n)
  have hy : y = superWrite (fset w ((F.BIST_FAILED_f (n / 32)).bit (n % 32)) 1) (F.LANE_MODE_std n) 15 := markFailed_eq x n cause sig
  have hlane : ∃ l, laneOf y n = laneClear l := by
    obtain ⟨l, hl⟩ := laneOf_laneStop { laneFailNoted x n cause sig with
      lg := { (laneFailNoted x n cause sig).lg with because := some (lastRef (laneFailNoted x n cause sig) srcBist) } } n
    exact ⟨l, (laneOf_congr (lanes_capLeave _ _)).trans hl⟩
  have hbit : (F.BIST_FAILED_f (n / 32)).lo + n % 32 + 1 ≤ 32 := by
    simp only [F.BIST_FAILED_f]
    omega
  have hfld : ∀ f : Fld, f.addr ≠ R.LANE_MODE n → f.addr ≠ R.BIST_FAILED (n / 32) → fget y f = fget w f := fun f hm hf => by
    rw [hy]
    exact (fget_wr_ne _ _ _ _ hm).trans (fget_wr_ne _ _ _ _ hf)
  have hlow : ∀ b < 0x1000, b ≠ R.LANE_MODE n := fun b hb => by
    simp only [R.LANE_MODE]
    omega
  refine ⟨?_, ?_, ?_, ?_, ?_, ?_, ?_⟩
  · have hone : fget y ((F.BIST_FAILED_f (n / 32)).bit (n % 32)) = 1 := by
      rw [hy]
      refine (fget_wr_ne _ _ _ _ (hlow _ ?_)).trans (fget_fset_same _ ((F.BIST_FAILED_f (n / 32)).bit (n % 32)) _ hbit)
      simp only [Fld.bit, F.BIST_FAILED_f, R.BIST_FAILED]
      omega
    rw [failed, fon, hone]
    rfl
  · rw [hy]
    exact fget_fset_same _ (F.LANE_MODE_std n) _ (by simp [F.LANE_MODE_std])
  · refine (hfld _ (hlow _ (by decide)) ?_).trans ((congrArg (getBits · 1 1) (hw.regs _ (offLane_bist n (by decide)))).trans hnew)
    simp only [F.BIST_STATUS_fail_new, R.BIST_STATUS, R.BIST_FAILED]
    omega
  · refine (hfld _ (hlow _ (by decide)) ?_).trans ((hw.flags _ (List.mem_cons_self ..)).trans hcause)
    simp only [F.MGMT_INT_CAUSE_bist, R.MGMT_INT_CAUSE, R.BIST_FAILED]
    omega
  · obtain ⟨l, hl⟩ := hlane
    rw [hl]
    rfl
  · obtain ⟨l, hl⟩ := hlane
    rw [hl]
    rfl
  · have hsrc : srcLane n ≠ srcBist := by
      simp only [srcLane, srcBist]
      omega
    exact (hw.seq hsrc).trans hseq

/-! BIST_ABORT (R437). -/

theorem exec_bistAbort (hp : partRuns s.chip = true) {f : Chip → Chip} (h : bistInterrupt s.chip = f s.chip) :
    exec .bistAbort s = .next (onChip f s) :=
  congrArg Host.Outcome.next ((if_pos hp).trans (onChip_congr h))

theorem bistInterrupt_mig {m : Mig} (h : x.bist.mig = some m) : bistInterrupt x = cmdAbandon (migAbort x m 1) := by
  unfold bistInterrupt
  rw [h]

theorem bistInterrupt_test {g : LaneTest} (hm : x.bist.mig = none) (ht : x.bist.test = some g) :
    bistInterrupt x = cmdAbandon (testSkip x g.lane) := by
  unfold bistInterrupt
  rw [hm, ht]

theorem bistInterrupt_idle (hm : x.bist.mig = none) (ht : x.bist.test = none) (hc : x.bist.cmd = none) : bistInterrupt x = x := by
  unfold bistInterrupt
  rw [hm, ht]
  dsimp only
  unfold cmdAbandon
  rw [hc]

/-- Settles O50: the schedule's turn, what a migration and a test leave at each of their ends, the lane that fails, and the abort. -/
theorem laneTestsAndMigrations : Obligations.LaneTestsAndMigrations := by
  unfold Obligations.LaneTestsAndMigrations
  refine ⟨fun s hp => ?schedule, fun s hp => ⟨congrArg Host.Outcome.next (if_neg (ne_true_of_eq_false hp)),
      congrArg Host.Outcome.next (if_neg (ne_true_of_eq_false hp))⟩,
    fun x n => ⟨runLane_place, fun h0 h15 => ⟨fun d => runLane_moves h0 h15, runLane_skips h0 h15⟩⟩,
    fun x d => migDest_lowest, fun m s hm hsrc hdst => ?migration, fun stamp reason s hm => exec_mig_none hm stamp reason,
    fun g sig pass s hg => ?ends, fun x n cause sig hn => markFailed_effect x cause sig hn, fun sig pass s hg => exec_laneTestDone_idle hg sig pass,
    fun s hp => ?abort⟩
  case schedule =>
    refine ⟨fun hc hbusy => exec_bistSchedule hp (bistTurn_blocked hc fun hfree => ?_), fun n hc hm ht hen hst hew hn => ?_,
      fun hc hn => exec_bistSchedule hp (bistTurn_noHealthy hc hn), fun n code hc => ⟨fun hbusy => ?_, fun hm ht hw => ?_⟩⟩
    · obtain ⟨hm, ht, hen, hst, hew⟩ := hfree
      simp [hm, ht, hen, hst, hew] at hbusy
    · have hfree : turnFree s.chip := ⟨hm, ht, hen, hst, hew⟩
      refine ⟨fun hw => exec_bistSchedule hp (bistTurn_waits hc hn hw), fun hw => exec_bistSchedule hp (bistTurn_runs hc hfree hn hw),
        fun hw hstd => ⟨_, exec_bistSchedule hp (bistTurn_runs hc hfree hn hw), chipOnly_onChip _ s, ?_⟩⟩
      exact scheduledTest _ (healthyFrom_lt hn) hm hstd
    · refine exec_bistSchedule hp ((bistTurn_command hc).trans (cmdTurn_busy hc ?_))
      rwa [migWaits_bistPauseShow]
    · refine exec_bistSchedule hp ((bistTurn_command hc).trans (cmdTurn_free hc hm ht ?_))
      rwa [migWaits_bistPauseShow]
  case migration =>
    refine ⟨fun hc => (exec_migStateCopy hm).trans (congrArg Host.Outcome.next (if_pos hc)), fun hc => ?_,
      fun stamp hc => (exec_migDone hm stamp).trans (congrArg Host.Outcome.next (if_neg (ne_true_of_eq_false hc))), fun stamp hc => ?_,
      fun reason hr => ⟨_, exec_migAbort hm reason, chipOnly_onChip _ s, migAbort_ends s.chip m hr⟩,
      fun reason hr => ⟨_, exec_migAbort hm reason, chipOnly_onChip _ s, migAbort_tests s.chip m hr hdst⟩⟩
    · have hcopied := copied_migCopy s.chip m
      exact ⟨_, (exec_migStateCopy hm).trans (congrArg Host.Outcome.next (if_neg (ne_true_of_eq_false hc))), chipOnly_onChip _ s,
        hcopied.bist, hcopied.lane, hcopied.status, hcopied.qual⟩
    · exact ⟨_, (exec_migDone hm stamp).trans (congrArg Host.Outcome.next (if_pos hc)), chipOnly_onChip _ s,
        migDone_effect s.chip m stamp hsrc⟩
  case ends =>
    have hexec := exec_laneTestDone hg sig pass
    refine ⟨fun hpass hr => ?_, fun hpass hr => ?_, fun k hpass hr hk => ?_, fun hpass hr h2 => ?_, fun hpass hr h2 => ?_,
      fun hpass hr => ?_⟩ <;> subst hpass <;> refine hexec.trans (congrArg Host.Outcome.next (onChip_congr ?_))
    · rw [testDone_pass, hr, testPassed_counted]
      rfl
    · rw [testDone_pass, hr, testPassed_counted]
      rfl
    · rw [testDone_pass, hr, testPassed_counted]
      exact if_neg (mt beq_iff_eq.1 hk)
    · rw [testDone_fail, hr, testFailed_counted]
      exact if_neg (ne_true_of_eq_false h2)
    · rw [testDone_fail, hr, testFailed_counted]
      exact if_pos h2
    · obtain ⟨k, hk⟩ := Option.ne_none_iff_exists'.1 hr
      rw [testDone_fail, hk, testFailed_counted]
      rfl
  case abort =>
    exact ⟨fun m hm => exec_bistAbort hp (bistInterrupt_mig hm), fun g hm ht => exec_bistAbort hp (bistInterrupt_test hm ht),
      fun hm ht hc => exec_bistAbort (f := id) hp (bistInterrupt_idle hm ht hc)⟩

end Sys2Proof.Machine
end

section
/-! PROOF. The end of a background store command (R407): the bytes it leaves, and an erase of LOG beyond the region. -/
namespace Sys2Proof.Machine

variable {s : State}

theorem fwShow_mem (s : State) : (fwShow s).mem = s.mem := by
  unfold fwShow
  split <;> rfl

theorem storeShow_mem (s : State) : (storeShow s).mem = s.mem := rfl

theorem jobEnd_mem (s : State) (j : Job) (status : Nat) (worn : Option Nat) : (jobEnd s j status worn).mem = s.mem := by
  unfold jobEnd
  rw [fwShow_mem, storeShow_mem]
  cases worn <;> rfl

theorem exec_storeDone_runs {g n : Nat} {c : CmdObs} {j : Job} (hj : jobOf s.chip g = some j) (hm : mgmtUp s.chip = true)
    (hc : j.code ≠ 0) (he : ewOn s.chip = false ∨ j.abort = true) : exec (.storeDone g n c) s = .next (jobRun s j n c) := by
  have hgo : (mgmtUp s.chip && (j.code != 0 && (!ewOn s.chip || j.abort))) = true := by
    rcases he with he | he <;> simp [hm, hc, he]
  show Host.Outcome.next _ = _
  rw [hj]
  exact congrArg Host.Outcome.next (if_pos hgo)

/-- The erase of one sector of LOG that lies beyond the region. -/
def eraseBeyond : Job := ⟨3, 0x22, 7, [⟨true, 7, 0, []⟩], 0, false, none, false⟩

/-- Nothing is observed of the device. -/
def quietObs : CmdObs := ⟨[], [], [], 0, 0, ⟨[], [], []⟩⟩

/-- A running part whose layout lists no region, with that erase under way; byte 0 of the flash is programmed. -/
def shrunkLog : State :=
  { State.reset with
    chip := { State.reset.chip with
      pw := { State.reset.chip.pw with phase := .running }
      store := { State.reset.chip.store with lay := [], jobs := [eraseBeyond] } }
    mem := { State.reset.mem with flash := [(0, 0)] } }

theorem jobRun_shrunkLog : (jobRun shrunkLog eraseBeyond 0 quietObs).mem.flash = [(0, 0)] := by
  unfold jobRun
  dsimp only
  rw [jobEnd_mem]
  decide

/-- Refutes O58: an erase of LOG leaves alone a sector that the region does not hold any more, where the statement has every
operation of the command done. The state's layout is empty, so that sector 0 of LOG lies beyond it: the byte stays. -/
theorem not_storeCommands : ¬ Obligations.StoreCommands := by
  intro h
  obtain ⟨-, -, -, -, -, -, -, -, -, -, -, -, -, hdone, -⟩ := h
  have hj : jobOf shrunkLog.chip 3 = some eraseBeyond := by decide
  obtain ⟨t, ht, hmem, -⟩ := (hdone 3 0 quietObs eraseBeyond shrunkLog hj).2.2 (by decide) (by decide) (.inl (by decide)) rfl rfl
  obtain rfl := Host.Outcome.next.inj ((exec_storeDone_runs hj (by decide) (by decide) (.inl (by decide))).symm.trans ht)
  have hflash := (congrArg Mem.flash hmem).symm.trans jobRun_shrunkLog
  exact absurd hflash (by decide)

end Sys2Proof.Machine
end

section
/-! PROOF. Updates and fuses (R416 to R419): the body of each command by its cases. -/
namespace Sys2Proof.Machine

variable {s : State} {o : Iface} {c : CmdObs}

/-! What the commands share. -/

theorem flashRun_without_fails (l : List FlashOp) : ∀ i s, flashRun [] i s l = (flashAll s l, none) := by
  induction l with
  | nil => exact fun _ _ => rfl
  | cons op l ih => exact fun i s => (if_neg List.not_mem_nil).trans (ih _ _)

theorem length_winBytes (s : State) (i n : Nat) : (winBytes s i n).length = n := by
  suffices ∀ (m : SMap Byte) n a, (bytesAt zeroByte m a n).length = n from this _ _ _
  intro m n
  induction n with
  | zero => exact fun _ => rfl
  | succ n ih => exact fun a => congrArg (· + 1) (ih _)

theorem isSome_jobOf_iff {x : Chip} {g : Nat} : (jobOf x g).isSome = true ↔ jobOf x g ≠ none := Option.isSome_iff_ne_none

theorem mailboxFlash_powered (hew : ewOn s.chip = false) (code : Nat) (o : Iface) (body : State → MRes) :
    mailboxFlash code o body s = mailbox code o body s := by
  simp [mailboxFlash, hew]

/-- Under the early warning a command that programs flash is issued and stays running. -/
theorem mailboxFlash_warned {code : Nat} (h : MboxServes s.chip code) (hew : ewOn s.chip = true) (o : Iface) (body : State → MRes) :
    mailboxFlash code o body s = begun o code s := by
  obtain ⟨hup, hclosed, hgate, hcode⟩ := h
  cases hb : fon s.chip F.MGMT_STATUS_busy
  case false => rw [begun_of_idle hb]; simp [mailboxFlash, hup, hew, hclosed, hgate, hb]
  case true => simp [mailboxFlash, begun, hup, hew, hclosed, hgate, hb, hcode hb]

theorem mailboxFlash_serves {code : Nat} (h : MboxServes s.chip code) (hew : ewOn s.chip = false) {u : State} {st : Nat}
    {body : State → MRes} (hb : body (begun o code s) = refuse u st) : mailboxFlash code o body s = finished st 0 u := by
  rw [mailboxFlash_powered hew, mailbox_serves code o body s h, hb]
  rfl

theorem chipOnly_trans {t u : State} (h1 : ChipOnly s t) (h2 : ChipOnly t u) : ChipOnly s u := by
  rw [ChipOnly, h2, h1]

theorem fwShow_chipOnly (s : State) : ChipOnly s (fwShow s) := by
  unfold fwShow
  split <;> rfl

theorem fwShow_store (s : State) : (fwShow s).chip.store = s.chip.store := by
  unfold fwShow
  split <;> rfl

theorem storeShow_store (s : State) : (storeShow s).chip.store = s.chip.store := by
  unfold storeShow
  dsimp only [onChip]
  rw [fsets_rest]

/-! UPDATE_BEGIN (R417). -/

/-- The store with an update of the slot k opened. -/
def storeOpened (t : StoreRt) (k len : Nat) : StoreRt :=
  { t with update := some ⟨k, len⟩, spoilt := if t.spoilt.contains k then t.spoilt else t.spoilt ++ [k] }

/-- The state with an update begun. -/
def updateOpened (s : State) : State :=
  let x := s.chip
  let k := updateSlot x
  onChip (fun y => setArg y 0 k) (fwShow (beginJob (withStore s fun t => storeOpened t k (arg x 0))
    ⟨1, 0x60, 2 + k, eraseOps (2 + k) 0 (regionOf x (2 + k)).2, 0, false, none, false⟩))

theorem updateBegin_eq (s : State) : updateBegin s =
    if arg s.chip 0 = 0 ∨ 524544 < arg s.chip 0 then refuse s 0x05
    else if onTrial s.chip = true ∨ s.chip.fuse.protect.getLsbD (updateSlot s.chip) = true then refuse s 0x06
    else if 2 ∈ s.chip.store.retired ∨ 3 ∈ s.chip.store.retired then refuse s 0x04
    else if s.chip.store.update ≠ none ∨ jobOf s.chip 1 ≠ none then refuse s 0x02
    else refuse (updateOpened s) 0x00 := by
  have hworn : (s.chip.store.retired.any fun r => r == 2 || r == 3) = true ↔
      2 ∈ s.chip.store.retired ∨ 3 ∈ s.chip.store.retired := by
    simp only [List.any_eq_true, Bool.or_eq_true, beq_iff_eq]
    exact ⟨fun ⟨r, hr, h⟩ => h.imp (fun (e : r = 2) => e ▸ hr) (fun (e : r = 3) => e ▸ hr),
      fun h => h.elim (⟨2, ·, .inl rfl⟩) (⟨3, ·, .inr rfl⟩)⟩
  have hbusy : (s.chip.store.update.isSome || (jobOf s.chip 1).isSome) = true ↔
      s.chip.store.update ≠ none ∨ jobOf s.chip 1 ≠ none := by
    rw [Bool.or_eq_true, Option.isSome_iff_ne_none, Option.isSome_iff_ne_none]
  unfold updateBegin
  simp only [Bool.or_eq_true, hworn, hbusy]
  rfl

theorem updateSlot_lt (x : Chip) : updateSlot x < 2 := by
  unfold updateSlot
  split <;> omega

theorem beginJob_chipOnly (s : State) (j : Job) : ChipOnly s (beginJob s j) := rfl

theorem beginJob_store (s : State) (j : Job) :
    (beginJob s j).chip.store = { s.chip.store with jobs := s.chip.store.jobs ++ [j] } := storeShow_store _

theorem updateOpened_chipOnly (s : State) : ChipOnly s (updateOpened s) := by
  unfold updateOpened
  refine chipOnly_trans (chipOnly_trans (chipOnly_trans ?_ (beginJob_chipOnly _ _)) (fwShow_chipOnly _)) (chipOnly_onChip _ _)
  exact chipOnly_onChip _ s

theorem updateOpened_store (s : State) : (updateOpened s).chip.store =
    let k := updateSlot s.chip
    { storeOpened s.chip.store k (arg s.chip 0) with jobs := s.chip.store.jobs ++
      [⟨1, 0x60, 2 + k, eraseOps (2 + k) 0 (regionOf s.chip (2 + k)).2, 0, false, none, false⟩] } :=
  (fwShow_store _).trans (beginJob_store _ _)

theorem arg_updateOpened (s : State) : arg (updateOpened s).chip 0 = updateSlot s.chip := by
  have hlt := updateSlot_lt s.chip
  show (rd (wr _ _ _) _).toNat = _
  rw [rd_wr_same, BitVec.toNat_ofNat, Nat.mod_eq_of_lt (by omega)]

theorem mem_storeOpened (t : StoreRt) (k len : Nat) : k ∈ (storeOpened t k len).spoilt := by
  unfold storeOpened
  dsimp only
  split
  next h => exact List.contains_iff_mem.1 h
  next => exact List.mem_append_right _ (List.mem_singleton_self k)

/-! UPDATE_DATA, UPDATE_FINISH and UPDATE_ACTIVATE (R416, R417). -/

theorem updateData_closed (h : s.chip.store.update = none) : updateData c s = refuse (jobAdvance s 1 c.erased) 0x0B := by
  unfold updateData
  rw [h]
  rfl

theorem updateData_open {u : Update} (h : s.chip.store.update = some u) : updateData c s =
    let s0 := jobAdvance s 1 c.erased
    let off := arg s.chip 0
    let n := arg s.chip 1
    if off % 4 ≠ 0 ∨ 4096 < n ∨ u.len < off + n then refuse s0 0x05
    else if n = 0 then refuse s0 0x00
    else if ∃ j, jobOf s0.chip 1 = some j ∧ 4096 * j.done < off + n then refuse s0 0x01
    else updateProgram s0 u.slot off (winBytes s0 0 n) c := by
  unfold updateData
  rw [h]
  dsimp only
  refine if_congr Iff.rfl rfl (if_congr Iff.rfl rfl (if_congr ?_ rfl rfl))
  rw [Option.map_eq_some_iff]
  exact exists_congr fun j => and_congr_right fun _ => decide_eq_true_iff

theorem updateProgram_quiet (hf : c.fails = []) (hv : c.viols = []) (s : State) (k off : Nat) (l : List Byte) :
    updateProgram s k off l c = refuse (storeShow (flashAll s (spanOps (2 + k) l.length off l))) 0x00 := by
  unfold updateProgram
  rw [hf, hv, flashRun_without_fails]
  rfl

theorem jobAdvance_idle {g n : Nat} (h : s.chip.store.jobs = []) : jobAdvance s g n = s := by
  unfold jobAdvance jobOf
  rw [h]
  rfl

/-- The update is closed. -/
def updateShut (s : State) : State := onChip (fun x => { x with store := { x.store with update := none } }) s

theorem updateFinish_closed (h : s.chip.store.update = none) : updateFinish s = refuse s 0x0B := by
  unfold updateFinish
  rw [h]
  rfl

theorem updateFinish_erasing {u : Update} (h : s.chip.store.update = some u) (hj : jobOf s.chip 1 ≠ none) :
    updateFinish s = refuse s 0x01 := by
  unfold updateFinish
  rw [h]
  exact if_pos (isSome_jobOf_iff.2 hj)

section
variable {u : Update} (h : s.chip.store.update = some u) (hj : jobOf s.chip 1 = none)
include h hj

theorem updateFinish_refused {st : Nat} (hr : slotRefusal (updateShut s) u.slot = some st) :
    updateFinish s = refuse (updateShut s) st := by
  have hr : slotRefusal (withStore s fun t => { t with update := none }) u.slot = some st := hr
  unfold updateFinish
  rw [h]
  dsimp only
  rw [hj, hr]
  rfl

theorem updateFinish_judged (hr : slotRefusal (updateShut s) u.slot = none) : updateFinish s =
    if u.len ≠ 256 + flashNum (updateShut s) (2 + u.slot) 16 4 then refuse (updateShut s) 0x07
    else refuse (fwShow (flashProg (onChip (fun x => { x with store := { x.store with
      spoilt := x.store.spoilt.filter fun k => k != u.slot } }) (updateShut s)) (2 + u.slot) 152 [0xFE, 0xFF, 0xFF, 0xFF])) 0x00 := by
  have hr : slotRefusal (withStore s fun t => { t with update := none }) u.slot = none := hr
  unfold updateFinish
  rw [h]
  dsimp only
  rw [hj, hr]
  rfl

end

theorem updateActivate_eq (s : State) : updateActivate s =
    let k := updateSlot s.chip
    if s.chip.store.update = none ∧ k ∉ s.chip.store.spoilt ∧ slotIs s k 0 = true ∧ slotIs s k 4 = false then
      refuse (fwShow (flashProg s (2 + k) 152 [0xFD, 0xFF, 0xFF, 0xFF])) 0x00
    else refuse s 0x0B := by
  unfold updateActivate fwVerified fwRetired
  rw [← ite_not]
  refine if_congr ?_ rfl rfl
  simp only [Bool.or_eq_true, Option.isSome_iff_ne_none, List.contains_iff_mem, Bool.not_eq_true', ne_eq]
  simp only [not_or, not_not, Bool.not_eq_true, Bool.not_eq_false]

/-! UPDATE_CONFIRM and the fuses (R417 to R419). -/

/-- The state with the running slot confirmed and the other retired. -/
def updateConfirmed (s : State) : State :=
  let k := runSlot s.chip
  onChip (fun x => fset x F.STORE_FW_trial 0)
    (flashProg (flashProg s (2 + k) 152 [0xF7, 0xFF, 0xFF, 0xFF]) (2 + (1 - k)) 152 [0xEF, 0xFF, 0xFF, 0xFF])

theorem updateConfirm_settled (h : onTrial s.chip = false) : updateConfirm c s = refuse s 0x0B := by
  unfold updateConfirm
  rw [h]
  rfl

theorem updateConfirm_trial (h : onTrial s.chip = true) : updateConfirm c s =
    let k := runSlot s.chip
    let s2 := updateConfirmed s
    if arg s.chip 0 % 2 = 1 ∧ s2.chip.fuse.rollback < slotSec s2 k then
      let r := fuseRollback s2.chip (slotSec s2 k) c
      refuse (fwShow { s2 with chip := r.1 }) (if r.2 then 0x00 else 0x0A)
    else refuse (fwShow s2) 0x00 := by
  unfold updateConfirm
  rw [h]
  rfl

theorem rollbackTo_good (old v : Nat) : rollbackTo old v 0 = v := by
  simp [rollbackTo, popCount]

theorem fuseRollback_good (h : c.fuse = 0) (x : Chip) (v : Nat) :
    fuseRollback x v c = (fuseProgrammed x { x.fuse with rollback := v } 2 true, true) := by
  unfold fuseRollback
  simp only [h, rollbackTo_good, beq_self_eq_true]

theorem and_not_zero {w : Nat} (v : BitVec w) : v &&& ~~~ BitVec.ofNat w 0 = v := by
  rw [show BitVec.ofNat w 0 = 0#w from rfl, BitVec.not_zero, BitVec.and_allOnes]

theorem fuseKey_good (h : c.fuse = 0) (x : Chip) (k : BitVec 256) :
    fuseKey x k c = (fuseProgrammed x { x.fuse with key := k, mark := 0xFF } 1 true, true) := by
  unfold fuseKey
  simp only [h, and_not_zero, if_pos, Nat.zero_div]
  rfl

theorem fuseDebug_good (h : c.fuse = 0) (x : Chip) (v : Nat) :
    fuseOther x 3 v c = (fuseProgrammed x { x.fuse with debug := true } 3 true, true) := by
  unfold fuseOther
  simp [h]

theorem fuseProtect_good (h : c.fuse = 0) (x : Chip) (v : Nat) :
    fuseOther x 4 v c = (fuseProgrammed x { x.fuse with protect := x.fuse.protect ||| BitVec.ofNat 4 v } 4 true, true) := by
  have hv : (x.fuse.protect ||| BitVec.ofNat 4 v) &&& BitVec.ofNat 4 v = BitVec.ofNat 4 v := by
    ext i
    simp only [BitVec.getElem_and, BitVec.getElem_or]
    cases x.fuse.protect[i] <;> simp
  unfold fuseOther
  simp only [h, and_not_zero, hv, beq_self_eq_true]
  rfl

theorem fuseRole_good (h : c.fuse = 0) (x : Chip) (v : Nat) :
    fuseOther x 5 v c = (fuseProgrammed x { x.fuse with roleLock := v % 4 } 5 true, true) := by
  have hv : (BitVec.ofNat 4 (v % 4)).toNat = v % 4 := by
    rw [BitVec.toNat_ofNat, Nat.mod_eq_of_lt (by omega)]
  unfold fuseOther
  simp only [h, and_not_zero, hv, beq_self_eq_true]
  rfl

theorem fuseProgrammed_effect (x : Chip) (g : Fuses) (f : Nat) (ok : Bool) :
    (fuseProgrammed x g f ok).fuse = g ∧ rd (fuseProgrammed x g f ok) R.FUSE_PROG_COUNT = rd x R.FUSE_PROG_COUNT + 1 ∧
    nextSeq (fuseProgrammed x g f ok) srcFuse = nextSeq x srcFuse + 1 ∧
    ∀ b, b ∉ logRegs → b ≠ R.FUSE_PROG_COUNT → b ≠ R.FUSE_STATUS → rd (fuseProgrammed x g f ok) b = rd x b := by
  unfold fuseProgrammed
  refine ⟨?_, ?_, ?_, fun b hb hc hs => ?_⟩
  · rw [raise_rest, count_rest]
  · rw [rd_raise _ _ _ _ _ (by decide), rd_count_one _ _ _ (by decide)]
    rfl
  · rw [nextSeq_raise_same, nextSeq_count]
    rfl
  · rw [rd_raise _ _ _ _ _ hb, rd_count_ne _ _ _ _ _ hc hs]
    rfl

/-- A field or value that names no fuse. -/
def FuseArgsBad (x : Chip) : Prop := 5 < arg x 0 ∨ (arg x 0 = 2 ∧ 64 < arg x 1)

/-- A field that may not be programmed any more. -/
def FuseSpent (x : Chip) : Prop := (arg x 0 = 1 ∧ (x.fuse.key ≠ 0 ∨ x.fuse.mark ≠ 0)) ∨ (arg x 0 = 5 ∧ x.fuse.roleLock ≠ 0)

theorem fuseProgram_badArg (h : FuseArgsBad s.chip) : fuseProgram c s = refuse s 0x05 := if_pos h

theorem fuseProgram_serial (h : arg s.chip 0 = 0) : fuseProgram c s = refuse s 0x06 :=
  (if_neg (by rintro (h5 | ⟨h2, -⟩) <;> omega)).trans (if_pos h)

section
variable (hb : ¬FuseArgsBad s.chip) (h0 : arg s.chip 0 ≠ 0)
include hb h0

theorem fuseProgram_running (h1 : pstate s.chip ≠ 1) (h2 : pstate s.chip ≠ 2) : fuseProgram c s = refuse s 0x0B :=
  (if_neg hb).trans ((if_neg h0).trans (if_pos ⟨h1, h2⟩))

variable (hp : pstate s.chip = 1 ∨ pstate s.chip = 2)
include hp

theorem fuseProgram_warned (he : ewOn s.chip = true) : fuseProgram c s = refuse s 0x09 :=
  have hstate : ¬(pstate s.chip ≠ 1 ∧ pstate s.chip ≠ 2) := fun h => hp.elim h.1 h.2
  (if_neg hb).trans ((if_neg h0).trans ((if_neg hstate).trans (if_pos he)))

variable (he : ewOn s.chip = false)
include he

/-- In QUIET or STANDBY with no early warning. -/
theorem fuseProgram_calm [Decidable (FuseSpent s.chip)] : fuseProgram c s =
    if FuseSpent s.chip then refuse s 0x06
    else if arg s.chip 0 = 2 ∧ arg s.chip 1 ≤ s.chip.fuse.rollback then refuse s 0x00
    else
      let r := if arg s.chip 0 = 1 then fuseKey s.chip (windowHash s) c
        else if arg s.chip 0 = 2 then fuseRollback s.chip (arg s.chip 1) c else fuseOther s.chip (arg s.chip 0) (arg s.chip 1) c
      refuse { s with chip := r.1 } (if r.2 then 0x00 else 0x0A) := by
  have hstate : ¬(pstate s.chip ≠ 1 ∧ pstate s.chip ≠ 2) := fun h => hp.elim h.1 h.2
  refine ((if_neg hb).trans ((if_neg h0).trans ((if_neg hstate).trans (if_neg (ne_true_of_eq_false he))))).trans ?_
  exact if_congr Iff.rfl rfl rfl

theorem fuseProgram_spent (h : FuseSpent s.chip) : fuseProgram c s = refuse s 0x06 := by
  classical exact (fuseProgram_calm hb h0 hp he).trans (if_pos h)

theorem fuseProgram_held (hs : ¬FuseSpent s.chip) (h2 : arg s.chip 0 = 2) (hle : arg s.chip 1 ≤ s.chip.fuse.rollback) :
    fuseProgram c s = refuse s 0x00 := by
  classical exact (fuseProgram_calm hb h0 hp he).trans ((if_neg hs).trans (if_pos ⟨h2, hle⟩))

end

theorem not_fuseArgsBad {x : Chip} {f : Nat} (hf : arg x 0 = f) (h5 : f ≤ 5) (hv : f = 2 → arg x 1 ≤ 64) : ¬FuseArgsBad x := by
  rintro (h | ⟨h2, h⟩)
  · omega
  · exact absurd (hv (hf.symm.trans h2)) (by omega)

/-- What programs a field whose bits take. -/
theorem fuseProgram_takes {f : Nat} {g : Fuses} (hc : (pstate s.chip = 1 ∨ pstate s.chip = 2) ∧ ewOn s.chip = false)
    (hf : arg s.chip 0 = f) (h1 : 1 ≤ f) (h5 : f ≤ 5) (hv : f = 2 → arg s.chip 1 ≤ 64 ∧ s.chip.fuse.rollback < arg s.chip 1)
    (hkey : f = 1 → s.chip.fuse.key = 0 ∧ s.chip.fuse.mark = 0) (hrole : f = 5 → s.chip.fuse.roleLock = 0)
    (h : (if f = 1 then fuseKey s.chip (windowHash s) c
      else if f = 2 then fuseRollback s.chip (arg s.chip 1) c else fuseOther s.chip f (arg s.chip 1) c) =
        (fuseProgrammed s.chip g f true, true)) :
    fuseProgram c s = refuse (onChip (fun x => fuseProgrammed x g f true) s) 0x00 := by
  classical
  have hspent : ¬FuseSpent s.chip := by
    rintro (⟨h1, hk⟩ | ⟨h5, hr⟩)
    · obtain ⟨hkey, hmark⟩ := hkey (hf.symm.trans h1)
      exact hk.elim (· hkey) (· hmark)
    · exact hr (hrole (hf.symm.trans h5))
  have hheld : ¬(arg s.chip 0 = 2 ∧ arg s.chip 1 ≤ s.chip.fuse.rollback) := fun h =>
    absurd (hv (hf.symm.trans h.1)).2 (Nat.not_lt.2 h.2)
  refine (fuseProgram_calm (not_fuseArgsBad hf h5 fun h2 => (hv h2).1) (by omega) hc.1 hc.2).trans
    ((if_neg hspent).trans ((if_neg hheld).trans ?_))
  rw [hf, h]
  rfl

/-! The commands. -/

/-- UPDATE_BEGIN answers what its body refuses with. -/
theorem exec_updateBegin {u : State} {st : Nat} (h : MboxServes s.chip 0x60)
    (hb : updateBegin (begun o 0x60 s) = refuse u st) : exec (.updateBegin o) s = .next (finished st 0 u) := by
  refine congrArg Host.Outcome.next ((mailbox_serves 0x60 o updateBegin s h).trans ?_)
  rw [hb]
  rfl

theorem exec_fuseProgram {u : State} {st : Nat} (h : MboxServes s.chip 0x65)
    (hb : fuseProgram c (begun o 0x65 s) = refuse u st) : exec (.fuseProgram o c) s = .next (finished st 0 u) := by
  refine congrArg Host.Outcome.next ((mailbox_serves 0x65 o (fuseProgram c) s h).trans ?_)
  rw [hb]
  rfl

section
variable (hew : ewOn s.chip = false) {u : State} {st : Nat}
include hew

theorem exec_updateData (h : MboxServes s.chip 0x61) (hb : updateData c (begun o 0x61 s) = refuse u st) :
    exec (.updateData o c) s = .next (cpDrain (finished st 0 u)) :=
  congrArg (fun t => Host.Outcome.next (cpDrain t)) (mailboxFlash_serves h hew hb)

theorem exec_updateFinish (h : MboxServes s.chip 0x62) (hb : updateFinish (begun o 0x62 s) = refuse u st) :
    exec (.updateFinish o) s = .next (cpDrain (finished st 0 u)) :=
  congrArg (fun t => Host.Outcome.next (cpDrain t)) (mailboxFlash_serves h hew hb)

theorem exec_updateActivate (h : MboxServes s.chip 0x63) (hb : updateActivate (begun o 0x63 s) = refuse u st) :
    exec (.updateActivate o) s = .next (cpDrain (finished st 0 u)) :=
  congrArg (fun t => Host.Outcome.next (cpDrain t)) (mailboxFlash_serves h hew hb)

theorem exec_updateConfirm (h : MboxServes s.chip 0x64) (hb : updateConfirm c (begun o 0x64 s) = refuse u st) :
    exec (.updateConfirm o c) s = .next (cpDrain (finished st 0 u)) :=
  congrArg (fun t => Host.Outcome.next (cpDrain t)) (mailboxFlash_serves h hew hb)

end

/-- Settles O59: each command by the order in which its body looks at what it needs. -/
theorem updateAndFuseCommands : Obligations.UpdateAndFuseCommands := by
  refine ⟨fun o s h => ?_, fun o c s h hew => ?_, fun o s h hew => ?_, fun o s h hew => ?_, fun o c s h hew => ?_,
    fun o s hf ha hew => ⟨congrArg (fun t => Host.Outcome.next (cpDrain t)) (mailboxFlash_warned hf hew o _),
      congrArg (fun t => Host.Outcome.next (cpDrain t)) (mailboxFlash_warned ha hew o _)⟩,
    fun o c s h => ?_, fuseProgrammed_effect⟩
  case refine_1 =>
    intro t x k len bad denied worn busy
    have hbody := updateBegin_eq t
    refine ⟨fun hb => exec_updateBegin h (hbody.trans (if_pos hb)), fun hb hd => exec_updateBegin h ?_, fun hb hd hw => exec_updateBegin h ?_,
      fun hb hd hw hy => exec_updateBegin h ?_, fun hb hd hw hy => ⟨updateOpened t, exec_updateBegin h ?_, updateOpened_chipOnly t, ?_⟩⟩
    case refine_1 => rw [hbody, if_neg hb, if_pos hd]
    case refine_2 => rw [hbody, if_neg hb, if_neg hd, if_pos hw]
    case refine_3 => rw [hbody, if_neg hb, if_neg hd, if_neg hw, if_pos hy]
    case refine_4 => rw [hbody, if_neg hb, if_neg hd, if_neg hw, if_neg hy]
    case refine_5 =>
      rw [updateOpened_store]
      exact ⟨rfl, mem_storeOpened _ _ (arg t.chip 0), arg_updateOpened t, rfl⟩
  case refine_2 =>
    intro t s0 off n
    refine ⟨fun hu => exec_updateData hew h (updateData_closed hu), fun u hu => ?_, fun hj => jobAdvance_idle hj⟩
    intro bad early
    have hbody := updateData_open (c := c) hu
    refine ⟨fun hb => exec_updateData hew h (hbody.trans (if_pos hb)), fun hb hn => exec_updateData hew h ?_,
      fun hb hn he => exec_updateData hew h ?_, fun hb hn he hf hv => exec_updateData hew h ?_⟩
    · exact hbody.trans ((if_neg hb).trans (if_pos hn))
    · exact hbody.trans ((if_neg hb).trans ((if_neg hn).trans (if_pos he)))
    · refine hbody.trans ((if_neg hb).trans ((if_neg hn).trans ((if_neg he).trans ?_)))
      rw [updateProgram_quiet hf hv, length_winBytes]
  case refine_3 =>
    intro t shut
    refine ⟨fun hu => exec_updateFinish hew h (updateFinish_closed hu), fun u hu =>
      ⟨fun hj => exec_updateFinish hew h (updateFinish_erasing hu hj),
        fun st hj hr => exec_updateFinish hew h (updateFinish_refused hu hj hr),
        fun hj hr hl => exec_updateFinish hew h ((updateFinish_judged hu hj hr).trans (if_pos hl)),
        fun hj hr hl => exec_updateFinish hew h ((updateFinish_judged hu hj hr).trans (if_neg (not_not.2 hl)))⟩⟩
  case refine_4 =>
    intro t k may
    exact ⟨fun hm => exec_updateActivate hew h ((updateActivate_eq t).trans (if_neg hm)),
      fun hm => exec_updateActivate hew h ((updateActivate_eq t).trans (if_pos hm))⟩
  case refine_5 =>
    intro t k s2
    refine ⟨fun hs => exec_updateConfirm hew h (updateConfirm_settled hs),
      fun ht hc => exec_updateConfirm hew h ((updateConfirm_trial ht).trans (if_neg ?_)),
      fun ht hodd hlt hf => exec_updateConfirm hew h ((updateConfirm_trial ht).trans ((if_pos ⟨hodd, hlt⟩).trans ?_))⟩
    · rintro ⟨hodd, hlt⟩
      exact hc.elim (fun h => by omega) fun hle => absurd hlt (Nat.not_lt.2 hle)
    · dsimp only
      rw [fuseRollback_good hf]
      rfl
  case refine_6 =>
    intro t x f v bad calm
    refine ⟨fun hb => exec_fuseProgram h (fuseProgram_badArg hb), fun h0 => exec_fuseProgram h (fuseProgram_serial h0),
      fun hb h0 h1 h2 => exec_fuseProgram h (fuseProgram_running hb h0 h1 h2),
      fun hb h0 hp he => exec_fuseProgram h (fuseProgram_warned hb h0 hp he), fun hc hs => exec_fuseProgram h ?_,
      fun hc h2 hle hv => exec_fuseProgram h ?_, fun hf hc => ?_⟩
    case refine_1 =>
      have hset : f = 1 ∨ f = 5 := hs.imp And.left And.left
      obtain hf | hf := hset <;>
        exact fuseProgram_spent (not_fuseArgsBad hf (by decide) nofun) (ne_of_eq_of_ne hf (by decide)) hc.1 hc.2 hs
    case refine_2 =>
      have hspent : ¬FuseSpent x := by
        rintro (⟨h1, -⟩ | ⟨h5, -⟩)
        · exact absurd (h2.symm.trans h1) (by decide)
        · exact absurd (h2.symm.trans h5) (by decide)
      exact fuseProgram_held (not_fuseArgsBad h2 (by decide) fun _ => hv) (ne_of_eq_of_ne h2 (by decide)) hc.1 hc.2 hspent h2 hle
    case refine_3 =>
      intro set
      refine ⟨fun h1 hk hm => exec_fuseProgram h ?_, fun h2 hv hlt => exec_fuseProgram h ?_, fun h3 => exec_fuseProgram h ?_,
        fun h4 => exec_fuseProgram h ?_, fun h5 hr => exec_fuseProgram h ?_⟩
      · rw [h1]
        exact fuseProgram_takes hc h1 (by decide) (by decide) nofun (fun _ => ⟨hk, hm⟩) nofun (fuseKey_good hf ..)
      · rw [h2]
        exact fuseProgram_takes hc h2 (by decide) (by decide) (fun _ => ⟨hv, hlt⟩) nofun nofun (fuseRollback_good hf ..)
      · rw [h3]
        exact fuseProgram_takes hc h3 (by decide) (by decide) nofun nofun nofun (fuseDebug_good hf _ v)
      · rw [h4]
        exact fuseProgram_takes hc h4 (by decide) (by decide) nofun nofun nofun (fuseProtect_good hf ..)
      · rw [h5]
        exact fuseProgram_takes hc h5 (by decide) (by decide) nofun nofun (fun _ => hr) (fuseRole_good hf ..)

end Sys2Proof.Machine
end

section
/-! PROOF. What a halt and a fault's recovery leave (R383, R385): queued faults, the control path, the fuses, the dump's result. -/
namespace Sys2Proof.Machine
open Sys2Proof

variable {x y : Chip} {n : Nat}

namespace PartStays

theorem fset (x : Chip) (f : Fld) (v : Nat) (h : f.addr ∉ logRegs) : PartStays x (fset x f v) := wr x _ h

theorem fsets (m : List (Fld × Nat)) (h : ∀ e ∈ m, e.1.addr ∉ logRegs) (x : Chip) : PartStays x (fsets x m) := by
  induction m generalizing x with
  | nil => exact refl x
  | cons e m ih =>
    exact (fset x e.1 e.2 (h e (List.mem_cons_self ..))).trans (ih (fun d hd => h d (List.mem_cons_of_mem _ hd)) _)

theorem upTo {m : Nat} {f : Nat → Chip → Chip} (h : ∀ i y, PartStays y (f i y)) (x : Chip) : PartStays x (upTo m f x) :=
  upTo_keeps_below (P := PartStays x) (fun i _ y hy => hy.trans (h i y)) (refl x)

/-- Self-test's state is another part's. -/
theorem bist (x : Chip) (b : BistRt) : PartStays x { x with bist := b } := ⟨rfl, rfl, rfl, fun _ _ => rfl⟩

/-! Lanes, following and self-test. -/

theorem setBusy (x : Chip) (n : Nat) (peer : Option Nat) : PartStays x (setBusy x n peer) := by
  refine fsets _ (fun e he => not_logRegs_of_gt ?_) x
  simp only [List.mem_cons, List.not_mem_nil, or_false] at he
  rcases he with rfl | rfl <;> simp only [F.LANE_TANDEM_busy, F.LANE_TANDEM_peer, R.LANE_TANDEM] <;> omega

theorem releaseHeld (x : Chip) (n : Nat) : PartStays x (releaseHeld x n) :=
  ite (refl x) (fset x (F.LANE_CTRL_held n) 0 (not_logRegs_of_gt (by simp only [F.LANE_CTRL_held, R.LANE_CTRL]; omega)))

theorem releaseGo (x : Chip) (n : Nat) : PartStays x (releaseGo x n) :=
  ite (((bist x _).trans (of_lane (laneWork_laneDomainReset _ n 0))).trans (fset _ F.GEN_RESET_lane_go 0 (by decide))) (refl x)

theorem bistPhase (x : Chip) (phase lane dest : Nat) : PartStays x (bistPhase x phase lane dest) :=
  of_onlyRegs (onlyRegs_bistPhase x phase lane dest) (by decide)

theorem cmdEnds (x : Chip) (st : Nat) : PartStays x (cmdEnds x st) := by
  unfold Machine.cmdEnds
  split
  · exact ite (bist x _) (refl x)
  · exact refl x

theorem migFade (x : Chip) (p : Nat) (f : Option Fade) : PartStays x (migFade x p f) := by
  unfold Machine.migFade
  split
  · exact ⟨rfl, rfl, rfl, fun _ _ => rfl⟩
  · exact refl x

theorem vacate (x : Chip) (n std : Nat) : PartStays x (vacate x n std) := by
  have hmode : (F.LANE_MODE_std n).addr ∉ logRegs := not_logRegs_of_gt (by simp only [F.LANE_MODE_std, R.LANE_MODE]; omega)
  have hctrl : (F.LANE_CTRL_staged n).addr ∉ logRegs := not_logRegs_of_gt (by simp only [F.LANE_CTRL_staged, R.LANE_CTRL]; omega)
  have hstop : PartStays x (laneStop (if stdOf x n = mSvc then Machine.fset x (F.SVC_lead_now n) 0x7F else x) n) :=
    (ite (fset x (F.SVC_lead_now n) _ (not_logRegs_of_gt (by simp only [F.SVC_lead_now, R.LANE_STATUS]; omega))) (refl x)).trans
      (of_lane (LaneWork.laneStop _ n))
  have hdiscard : ∀ y : Chip, PartStays y (discardStaged y n) := fun y =>
    PartStays.trans (y := { y with staged := notLane y.staged n }) ⟨rfl, rfl, rfl, fun _ _ => rfl⟩ (fset _ _ 0 hctrl)
  refine (hstop.trans ?_).trans ((fset _ _ std hmode).trans (hdiscard _))
  refine List.foldlRecOn (motive := PartStays _) _ _ (refl _) fun y hy a ha => hy.trans (wr y _ ?_)
  refine not_logRegs_of_gt ?_
  have hblock := (stagedAddrs_block ha).1
  simp only [laneBase] at hblock
  omega

theorem testStart (x : Chip) (n : Nat) (second : Bool) (retest : Option Nat) : PartStays x (testStart x n second retest) :=
  ((bist x _).trans (of_lane (laneWork_laneDomainReset _ n 1))).trans (bistPhase ..)

theorem migDropped (x : Chip) (m : Mig) : PartStays x (migDropped x m) := by
  have hbusy : PartStays x (if fon x (F.LANE_TANDEM_busy m.src) then
      Machine.setBusy (Machine.setBusy x m.src none) m.dst none else x) := ite ((setBusy ..).trans (setBusy ..)) (refl x)
  unfold Machine.migDropped
  dsimp only
  refine PartStays.trans ?_ ((releaseHeld ..).trans (releaseGo ..))
  refine PartStays.trans ?_ (SelfTestStays.of_counted (LanesCounted.bistCounts _)).toPartStays
  refine PartStays.trans ?_ (bist ..)
  refine PartStays.trans ?_ (vacate ..)
  refine PartStays.trans ?_ (SelfTestStays.capLeave ..).toPartStays
  exact hbusy.trans (ite (migFade ..) (refl _))

theorem migTold (x : Chip) (m : Mig) (reason : Nat) : PartStays x (migTold x m reason) := by
  have hdropped := ((migDropped x m).trans (raise _ srcBist 0x03 (b1 m.src ++ b1 m.dst ++ b1 reason))).trans (bistPhase _ 0 0x7F 0x7F)
  unfold Machine.migTold
  dsimp only
  split
  · exact ite (hdropped.trans (SelfTestStays.followEnd ..).toPartStays) hdropped
  · exact hdropped

theorem migAbort (x : Chip) (m : Mig) (reason : Nat) : PartStays x (migAbort x m reason) := by
  rw [migAbort_eq]
  exact ite ((migTold ..).trans (testStart ..)) ((migTold ..).trans (cmdEnds ..))

theorem testSkip (x : Chip) (n : Nat) : PartStays x (testSkip x n) :=
  (((bist x _).trans (bistPhase ..)).trans ((releaseHeld ..).trans (releaseGo ..))).trans ((raise ..).trans (cmdEnds ..))

theorem unitsBusy (x : Chip) (code : Nat) (now : List Nat) : PartStays x (unitsBusy x code now) := by
  refine ite (upTo (fun a y => fset y (F.SPL_BIST_busy.bit a) _ (not_logRegs_of_lt ?_)) x)
    (upTo (fun c y => fset y (F.COACH_BIST_STATUS_busy c) _ (not_logRegs_of_gt ?_)) x)
  · simp only [Fld.bit, F.SPL_BIST_busy, R.SPL_BIST]
    omega
  · simp only [F.COACH_BIST_STATUS_busy, R.COACH_BIST_STATUS]
    omega

theorem cmdAbandon (x : Chip) : PartStays x (cmdAbandon x) := by
  unfold Machine.cmdAbandon
  split
  · exact ite (refl x) (ite ((bist x _).trans ((unitsBusy ..).trans (bistPhase ..))) (bist x _))
  · exact refl x

theorem bistInterrupt (x : Chip) : PartStays x (bistInterrupt x) := by
  unfold Machine.bistInterrupt
  refine PartStays.trans ?_ (cmdAbandon _)
  split
  · exact migAbort x _ 1
  · split
    · exact testSkip x _
    · exact refl x

theorem toPool (x : Chip) (n : Nat) : PartStays x (toPool x n) :=
  (SelfTestStays.manageLane ..).toPartStays.trans
    (SelfTestStays.superWrite _ _ _ (by simp only [F.LANE_TANDEM_pool, R.LANE_TANDEM]; omega)).toPartStays

theorem followRest (x : Chip) (e : Nat × Follow) : PartStays x (followRest x e) := by
  have hlisted : ∀ (z : Chip) r, PartStays x z → PartStays x (setFollow (e.2.cands.foldl releaseCand z) e.1 r) := fun z r hz =>
    hz.trans ((SelfTestStays.foldl SelfTestStays.releaseCand e.2.cands z).toPartStays.trans ⟨rfl, rfl, rfl, fun _ _ => rfl⟩)
  have hfree : ∀ n, PartStays x (Machine.releaseHeld (Machine.releaseHeld (Machine.setBusy (Machine.setBusy x e.1 none) n none) e.1) n) :=
    fun n => ((setBusy ..).trans (setBusy ..)).trans ((releaseHeld ..).trans (releaseHeld ..))
  unfold Machine.followRest
  dsimp only
  cases e.2.fading.bind Fade.endReason with
  | none =>
    refine hlisted _ _ ?_
    split
    · exact hfree _
    · exact refl x
  | some k =>
    refine (hlisted _ _ ?_).trans (SelfTestStays.followEnd ..).toPartStays
    split
    · exact hfree _
    · exact refl x

theorem followsRest (x : Chip) : PartStays x (followsRest x) := by
  have howned : ∀ y : Chip, PartStays y { y with ownedLeads := [] } := fun y => ⟨rfl, rfl, rfl, fun _ _ => rfl⟩
  exact (foldl followRest x.follows).trans ((howned _).trans (foldl toPool _))

theorem lanesIdle (x : Chip) : PartStays x (lanesIdle x) := by
  have hidle : ∀ y n, PartStays y (laneIdle y n) := fun y n =>
    ite ((of_lane (LaneWork.laneStop y n)).trans (of_lane (LaneWork.setLane (n := n) _ n _))) (refl y)
  have hclear : ∀ (y : Chip) l, PartStays y { y with lanes := l, mot := [] } := fun y l => ⟨rfl, rfl, rfl, fun _ _ => rfl⟩
  exact (foldl hidle allLanes).trans (hclear _ _)

/-- The halt stops lanes, following and self-test alone. -/
theorem haltStop (x : Chip) : PartStays x (haltStop x) := (followsRest x).trans ((lanesIdle _).trans (bistInterrupt _))

/-! The recovery of a depot fault (R383, R431). -/

theorem count (x : Chip) {a : Nat} {w : Fld} (m : Nat) (ha : a ∉ logRegs) (hw : w.addr ∉ logRegs) : PartStays x (count x a w m) :=
  of_onlyRegs (l := [a, w.addr]) (onlyRegs_count x m (List.mem_cons_self ..) (List.mem_cons_of_mem _ (List.mem_singleton_self _)))
    (by simp only [List.mem_cons, List.not_mem_nil, or_false, forall_eq_or_imp, forall_eq]; exact ⟨ha, hw⟩)

theorem discard (x : Chip) (c n : Nat) : PartStays x (discard x c n) :=
  (count (w := F.CARR_SRC_wrap c) x n (not_logRegs_of_gt (by simp only [R.CARR_DROP]; omega))
    (not_logRegs_of_gt (by simp only [F.CARR_SRC_wrap, R.CARR_SRC]; omega))).trans ⟨rfl, rfl, rfl, fun _ _ => rfl⟩

theorem eccLane (x : Chip) (n : Nat) : PartStays x (eccLane x n) := by
  have hreset : PartStays x (if laneHeld x n then { x with bist := { x.bist with heldGo := x.bist.heldGo ++ [n] } }
      else freeNext (laneDomainReset x n ((free x).toNat % 256))) :=
    ite (bist x _) ((of_lane (laneWork_laneDomainReset x n _)).trans ⟨rfl, rfl, rfl, fun _ _ => rfl⟩)
  unfold Machine.eccLane
  split
  · exact ite (migAbort ..) hreset
  · exact hreset

theorem eccFail (x : Chip) (f : FaultIn) : PartStays x (eccFail x f) := by
  unfold Machine.eccFail
  refine ite (refl x) ?_
  split
  · exact ite (eccLane ..) (refl x)
  · exact ite (discard ..) (refl x)
  · exact refl x

end PartStays

end Sys2Proof.Machine
end

section
/-! PROOF. Faults (R383, R384): what logging one leaves, and how those that arrive are ordered. -/
namespace Sys2Proof.Machine
open Sys2Proof

variable {x y : Chip} {s : State} {f g : FaultIn}

/-! A fault counted, logged and shown (R383, R384). -/

theorem faultCls_lt (f : FaultIn) : faultCls f < 4 := by
  unfold faultCls
  split <;> omega

/-- A fault counted in its class, with the cause that the class has. -/
def faultCounted (x : Chip) (f : FaultIn) : Chip :=
  let x1 := count x (R.MGMT_FAULT_COUNT (faultCls f)) (faultCountWrap (faultCls f)) 1
  if faultCls f = 1 then setCause x1 .warn else if 2 ≤ faultCls f then setCause x1 .fault else x1

/-- The event FAULT of a fault counted. -/
def faultRaised (x : Chip) (f : FaultIn) : Chip :=
  raiseBy (faultCounted x f) srcMgmt 0x01 (b1 f.code ++ b1 (faultCls f) ++ b1 x.ft.queue.length) f.cause

/-- What `MGMT_FAULT_LAST` shows of a fault. -/
def faultLast (x : Chip) (f : FaultIn) : List (Fld × Nat) :=
  [(F.MGMT_FAULT_LAST0_seq, lastSeq x srcMgmt), (F.MGMT_FAULT_LAST0_src, faultSrc f), (F.MGMT_FAULT_LAST0_code, f.code),
    (F.MGMT_FAULT_LAST1_epoch, epoch x), (F.MGMT_FAULT_LAST1_cls, faultCls f)]

theorem faultLogged_eq (x : Chip) (f : FaultIn) : faultLogged x f = fsets (faultRaised x f) (faultLast (faultRaised x f) f) := rfl

theorem faultCounted_rest (x : Chip) (f : FaultIn) : faultCounted x f = { x with regs := (faultCounted x f).regs } := by
  unfold faultCounted
  dsimp only
  split
  · rw [setCause_rest, count_rest]
  · split
    · rw [setCause_rest, count_rest]
    · rw [count_rest]

theorem faultRaised_rest (x : Chip) (f : FaultIn) :
    faultRaised x f = { x with regs := (faultRaised x f).regs, lg := (faultRaised x f).lg } := by
  have h := raiseAt_rest (faultCounted x f) (faultCounted x f).tm.ticks srcMgmt 0x01
    (b1 f.code ++ b1 (faultCls f) ++ b1 x.ft.queue.length) f.cause
  rw [faultCounted_rest] at h
  rw [faultRaised, raiseBy, faultCounted_rest]
  exact h

theorem faultLogged_rest (x : Chip) (f : FaultIn) :
    faultLogged x f = { x with regs := (faultLogged x f).regs, lg := (faultLogged x f).lg } := by
  rw [faultLogged_eq, fsets_rest, faultRaised_rest]

theorem ft_faultLogged (x : Chip) (f : FaultIn) : (faultLogged x f).ft = x.ft := by rw [faultLogged_rest]

theorem cp_faultLogged (x : Chip) (f : FaultIn) : (faultLogged x f).cp = x.cp := by rw [faultLogged_rest]

theorem nextSeq_faultCounted (x : Chip) (f : FaultIn) (src : Nat) : nextSeq (faultCounted x f) src = nextSeq x src := by
  rw [faultCounted_rest]
  rfl

theorem nextSeq_faultRaised (x : Chip) (f : FaultIn) : nextSeq (faultRaised x f) srcMgmt = nextSeq x srcMgmt + 1 := by
  rw [faultRaised, raiseBy, nextSeq_raiseAt, if_pos rfl, nextSeq_faultCounted]

theorem lastSeq_faultRaised (x : Chip) (f : FaultIn) : lastSeq (faultRaised x f) srcMgmt = (nextSeq x srcMgmt).toNat := by
  rw [lastSeq, nextSeq_faultRaised, BitVec.add_sub_cancel]

theorem nextSeq_faultLogged (x : Chip) (f : FaultIn) : nextSeq (faultLogged x f) srcMgmt = nextSeq x srcMgmt + 1 := by
  rw [faultLogged_eq, fsets_rest]
  exact nextSeq_faultRaised x f

theorem lastSeq_faultLogged (x : Chip) (f : FaultIn) : lastSeq (faultLogged x f) srcMgmt = (nextSeq x srcMgmt).toNat := by
  rw [lastSeq, nextSeq_faultLogged, BitVec.add_sub_cancel]

theorem rd_faultLogged_ne (x : Chip) (f : FaultIn) {b : Nat} (h0 : b ≠ R.MGMT_FAULT_LAST0) (h1 : b ≠ R.MGMT_FAULT_LAST1) :
    rd (faultLogged x f) b = rd (faultRaised x f) b := by
  refine rd_fsets_ne _ _ _ fun e he => ?_
  simp only [List.mem_cons, List.not_mem_nil, or_false] at he
  rcases he with rfl | rfl | rfl | rfl | rfl
  exacts [h0, h0, h0, h1, h1]

theorem rd_faultLogged_count (x : Chip) (f : FaultIn) :
    rd (faultLogged x f) (R.MGMT_FAULT_COUNT (faultCls f)) = rd x (R.MGMT_FAULT_COUNT (faultCls f)) + 1 := by
  have hcls := faultCls_lt f
  have hlog : R.MGMT_FAULT_COUNT (faultCls f) ∉ logRegs := by
    simp only [logRegs, List.mem_cons, List.not_mem_nil, or_false, R.MGMT_LOG_WR, R.MGMT_LOG_LOST, R.MGMT_FAULT_STATUS,
      R.MGMT_INT_CAUSE, R.MGMT_FAULT_COUNT]
    omega
  have hcause : ∀ (z : Chip) (c : IntCause), rd (setCause z c) (R.MGMT_FAULT_COUNT (faultCls f)) = rd z (R.MGMT_FAULT_COUNT (faultCls f)) :=
    fun z c => rd_fset_ne _ _ _ _ fun e => hlog (by rw [e, intCause_addr]; decide)
  have hcounted : rd (faultCounted x f) (R.MGMT_FAULT_COUNT (faultCls f)) =
      rd (count x (R.MGMT_FAULT_COUNT (faultCls f)) (faultCountWrap (faultCls f)) 1) (R.MGMT_FAULT_COUNT (faultCls f)) := by
    unfold faultCounted
    dsimp only
    split
    · exact hcause _ _
    · split
      · exact hcause _ _
      · rfl
  rw [rd_faultLogged_ne, faultRaised, raiseBy, rd_raiseAt _ _ _ _ _ _ _ hlog, hcounted, rd_count_one]
  all_goals
    simp only [R.MGMT_FAULT_COUNT, faultCountWrap, Fld.bit, F.MGMT_FAULT_STATUS_wrap, R.MGMT_FAULT_STATUS, R.MGMT_FAULT_LAST0,
      R.MGMT_FAULT_LAST1]
    omega

theorem fget_faultLogged (x : Chip) (f : FaultIn) : fget (faultLogged x f) F.MGMT_FAULT_LAST0_code = f.code % 256 ∧
    fget (faultLogged x f) F.MGMT_FAULT_LAST1_cls = faultCls f ∧
    fget (faultLogged x f) F.MGMT_FAULT_LAST0_seq = (nextSeq x srcMgmt).toNat := by
  rw [← lastSeq_faultRaised x f, faultLogged_eq, faultLast]
  generalize faultRaised x f = y
  simp (disch := decide) only [fsets, fget_fset_apart, fget_fset_same]
  refine ⟨rfl, Nat.mod_eq_of_lt (faultCls_lt f), Nat.mod_eq_of_lt ?_⟩
  exact (nextSeq y srcMgmt - 1).isLt

theorem faultLogged_causes (x : Chip) (f : FaultIn) : (faultCls f = 1 → fget (faultLogged x f) F.MGMT_INT_CAUSE_warn = 1) ∧
    (2 ≤ faultCls f → fget (faultLogged x f) F.MGMT_INT_CAUSE_fault = 1) := by
  have hkept : ∀ c : IntCause, c ≠ .log → fget (faultLogged x f) c.fld = fget (faultCounted x f) c.fld := by
    intro c hc
    refine (congrArg (getBits · c.fld.lo c.fld.width) (rd_faultLogged_ne x f ?_ ?_)).trans ?_
    · rw [intCause_addr]
      decide
    · rw [intCause_addr]
      decide
    · refine fget_raiseAt_offLog ⟨(intCause_apart_log hc).1, ?_, ?_, .inl ?_, .inl ?_, .inr (intCause_apart_log hc).2⟩ ..
      all_goals
        rw [intCause_addr]
        decide
  unfold faultCounted at hkept
  refine ⟨fun h => (hkept .warn (by decide)).trans ?_, fun h => (hkept .fault (by decide)).trans ?_⟩
  · rw [if_pos h]
    exact fget_setCause_same _ _ rfl (by decide)
  · rw [if_neg (by omega), if_pos h]
    exact fget_setCause_same _ _ rfl (by decide)

theorem onlyRegs_faultShow (x : Chip) (cls : Option Nat) : OnlyRegs [R.MGMT_FAULT_STATUS] x (faultShow x cls) := by
  refine onlyRegs_fsets x fun e he => ?_
  simp only [List.mem_cons, List.not_mem_nil, or_false] at he
  rcases he with rfl | rfl | rfl <;> exact List.mem_singleton_self _

theorem fget_faultShow_active (x : Chip) : fget (faultShow x none) F.MGMT_FAULT_STATUS_active = 0 := by
  rw [faultShow]
  simp (disch := decide) only [fsets, fget_fset_apart, fget_fset_same]
  rfl

/-! Queued faults (R384). -/

theorem faultQueue_room (h : x.ft.queue.length < 16) : faultQueue x f = { x with ft := { x.ft with queue := x.ft.queue ++ [f] } } :=
  if_pos h

theorem faultQueue_full (h : 16 ≤ x.ft.queue.length) : (faultQueue x f).ft = { x.ft with lost := x.ft.lost + 1 } ∧
    rd (faultQueue x f) R.MGMT_FAULT_LOST = rd x R.MGMT_FAULT_LOST + 1 := by
  rw [faultQueue, if_neg (Nat.not_lt.2 h)]
  refine ⟨?_, ?_⟩
  · rw [count_rest]
  · rw [rd_count_one _ _ _ (by decide)]
    rfl

/-! Recovery (R383). -/

theorem ft_cmdAbort (x : Chip) : (cmdAbort x).ft = x.ft := by
  unfold cmdAbort
  split
  · rw [waitDone, mboxDone_rest]
  · rfl

theorem nextSeq_cmdAbort (x : Chip) (src : Nat) : nextSeq (cmdAbort x) src = nextSeq x src := by
  unfold cmdAbort
  split
  · rw [waitDone, mboxDone_rest]
    rfl
  · rfl

/-- A recovery leaves the queue of faults. -/
theorem ft_faultRecover (x : Chip) (f : FaultIn) : (faultRecover x f).ft = x.ft := by
  unfold faultRecover
  split
  · exact ft_cmdAbort x
  · exact (PartStays.eccFail x f).ft
  · rfl

theorem ft_faultEnds (x : Chip) (e : FaultIn × CauseRef) : (faultEnds x e).ft = x.ft := ft_faultRecover _ _

/-- Faults that need no recovery (R383). -/
theorem faultRecover_other (h : f.code ∉ [4, 6]) (x : Chip) : faultRecover x f = x := by
  unfold faultRecover
  split
  next h4 => exact absurd (h4 ▸ List.mem_cons_self ..) h
  next h6 => exact absurd (h6 ▸ List.mem_cons_of_mem _ (List.mem_singleton_self _)) h
  next => rfl

/-! The walk over faults that arrive (R384). -/

theorem faultLostSay_none (h : x.ft.lost = 0) : faultLostSay x = x := if_neg fun hl => hl.2 h

theorem faultDrain_one (hq : x.ft.queue = [g]) (hl : x.ft.lost = 0) : faultDrain x 1 =
    faultEnds (faultLogged { x with ft := { x.ft with queue := [] } } g)
      (g, lastRef (faultLogged { x with ft := { x.ft with queue := [] } } g) srcMgmt) := by
  have hsay : faultLostSay { x with ft := { x.ft with queue := [] } } = { x with ft := { x.ft with queue := [] } } :=
    faultLostSay_none hl
  unfold faultDrain
  rw [hq]
  dsimp only
  rw [hsay]
  rfl

theorem faultArrive_higher {r : CauseRef} (hlt : faultCls f < faultCls g) (hg : faultCls g < 3) :
    faultArrive x [(f, r)] [g] = (faultLogged x g, [(g, lastRef (faultLogged x g) srcMgmt), (f, r)], none) :=
  (if_neg (by omega)).trans (if_pos hlt)

theorem faultArrive_lower {r : CauseRef} (hle : faultCls g ≤ faultCls f) (hf : faultCls f < 3) :
    faultArrive x [(f, r)] [g] = (faultQueue x g, [(f, r)], none) :=
  (if_neg (by omega)).trans (if_neg (Nat.not_lt.2 hle))

section
variable (hf : s.chip.ft.fatal = none) (hc : faultCls f < 3)
include hf hc

/-- Where no fatal arrives, the faults on the stack end from the top down, and the queue is drained. -/
theorem faultTake_below {more : List FaultIn} {z : Chip} {st : List (FaultIn × CauseRef)} (core : CoreObs)
    (h : faultArrive (faultLogged s.chip f) [(f, lastRef (faultLogged s.chip f) srcMgmt)] more = (z, st, none)) :
    faultTake s f more core = onChip (fun _ =>
      let x1 := st.foldl faultEnds z
      faultShow (faultLostSay (faultDrain x1 x1.ft.queue.length)) none) s := by
  unfold faultTake
  rw [hf, if_neg (by decide), if_neg (by omega)]
  unfold faultPush
  dsimp only
  rw [h]
  rfl

variable (hq : s.chip.ft.queue = []) (hl : s.chip.ft.lost = 0)
include hq hl

theorem faultTake_alone (core : CoreObs) : faultTake s f [] core = onChip (fun x =>
    let y := faultLogged x f
    faultShow (faultEnds y (f, lastRef y srcMgmt)) none) s := by
  refine (faultTake_below hf hc core rfl).trans (onChip_congr ?_)
  dsimp only [List.foldl]
  generalize hw : faultEnds (faultLogged s.chip f) (f, lastRef (faultLogged s.chip f) srcMgmt) = w
  have hft : w.ft = s.chip.ft := by rw [← hw, ft_faultEnds, ft_faultLogged]
  rw [hft, hq]
  exact congrArg (faultShow · none) (faultLostSay_none (hft ▸ hl))

/-- One of a higher class is logged and recovered first. -/
theorem faultTake_higher (core : CoreObs) (hlt : faultCls f < faultCls g) (hg : faultCls g < 3) :
    faultTake s f [g] core = onChip (fun x =>
      let y := faultLogged x f
      let z := faultLogged y g
      faultShow (faultEnds (faultEnds z (g, lastRef z srcMgmt)) (f, lastRef y srcMgmt)) none) s := by
  refine (faultTake_below hf hc core (faultArrive_higher hlt hg)).trans (onChip_congr ?_)
  dsimp only [List.foldl]
  generalize hw : faultEnds (faultEnds _ _) (f, lastRef (faultLogged s.chip f) srcMgmt) = w
  have hft : w.ft = s.chip.ft := by rw [← hw, ft_faultEnds, ft_faultEnds, ft_faultLogged, ft_faultLogged]
  rw [hft, hq]
  exact congrArg (faultShow · none) (faultLostSay_none (hft ▸ hl))

/-- One of the same or a lower class is queued and handled after it. -/
theorem faultTake_lower (core : CoreObs) (hle : faultCls g ≤ faultCls f) :
    faultTake s f [g] core = onChip (fun x =>
      let y := faultLogged x f
      let w := faultEnds { y with ft := { y.ft with queue := [g] } } (f, lastRef y srcMgmt)
      let z := faultLogged { w with ft := { w.ft with queue := [] } } g
      faultShow (faultEnds z (g, lastRef z srcMgmt)) none) s := by
  have hqueue : faultQueue (faultLogged s.chip f) g =
      { faultLogged s.chip f with ft := { (faultLogged s.chip f).ft with queue := [g] } } := by
    have hnone : (faultLogged s.chip f).ft.queue = [] := by rw [ft_faultLogged, hq]
    rw [faultQueue_room (by rw [hnone]; decide), hnone]
    rfl
  refine (faultTake_below hf hc core (faultArrive_lower hle hc)).trans (onChip_congr ?_)
  dsimp only [List.foldl]
  rw [hqueue]
  generalize hw : faultEnds { faultLogged s.chip f with ft := _ } (f, lastRef (faultLogged s.chip f) srcMgmt) = w
  have hft : w.ft = { s.chip.ft with queue := [g] } := by rw [← hw, ft_faultEnds, ft_faultLogged]
  have hlost : w.ft.lost = 0 := by rw [hft]; exact hl
  have hone : w.ft.queue = [g] := by rw [hft]
  rw [hone, List.length_singleton, faultDrain_one hone hlost]
  refine congrArg (faultShow · none) (faultLostSay_none ?_)
  rw [ft_faultEnds, ft_faultLogged]
  exact hlost

end

theorem faultTake_fatal (hf : s.chip.ft.fatal = none) (hc : faultCls f = 3) (core : CoreObs) :
    faultTake s f [] core = fatalTake s f core := by
  unfold faultTake
  rw [hf, if_neg (by decide), if_pos hc]
  rfl

/-- During fatal handling a fault below fatal is queued; a second fatal is DOUBLE_FATAL. -/
theorem faultTake_during {t : Fatal} (hf : s.chip.ft.fatal = some t) (core : CoreObs) : faultTake s f [] core =
    if faultCls f = 3 then doubleFatal s t f else onChip (fun x => faultShow (faultQueue x f) (some 3)) s := by
  have hafter : afterFatal s [f] =
      if faultCls f = 3 then doubleFatal s t f else onChip (fun x => faultShow (faultQueue x f) (some 3)) s := by
    unfold afterFatal
    rw [hf]
    rfl
  refine (if_pos ?_).trans hafter
  rw [hf]
  rfl

theorem takeFault_taken (hm : mgmtUp s.chip = true) (hk : faultKnown f = true) (more : List FaultIn) (core : CoreObs) :
    takeFault s f more core = faultTake s f (more.filter faultKnown) core := if_pos (by rw [hm, hk]; rfl)

theorem takeFault_ignored (h : mgmtUp s.chip = false ∨ faultKnown f = false) (more : List FaultIn) (core : CoreObs) :
    takeFault s f more core = s := by
  refine if_neg ?_
  rcases h with h | h <;> simp [h]

end Sys2Proof.Machine
end

section
/-! PROOF. Fatal handling, the dump and the mirror of the log (R380, R385, R386), and the commands of faults. -/
namespace Sys2Proof.Machine
open Sys2Proof

variable {x y : Chip} {s t u : State} {f : FaultIn}

/-! Flash operations (R393, R424). -/

/-- Flash operations change the flash, and on the chip the count of erases with its wrap flag. -/
structure FlashWork (s t : State) : Prop where
  chip : OnlyRegs [R.STORE_ERASE_COUNT, R.STORE_STATUS] s.chip t.chip
  mem : t.mem = { s.mem with flash := t.mem.flash }
  pending : t.pending = s.pending

namespace FlashWork

theorem refl (s : State) : FlashWork s s := ⟨⟨rfl, fun _ _ => rfl⟩, rfl, rfl⟩

theorem trans (h1 : FlashWork s t) (h2 : FlashWork t u) : FlashWork s u := by
  refine ⟨onlyRegs_trans h1.chip h2.chip, ?_, h2.pending.trans h1.pending⟩
  rw [h2.mem, h1.mem]

theorem flashDo (s : State) (o : FlashOp) : FlashWork s (flashDo s o) := by
  unfold Machine.flashDo
  split
  · exact ⟨onlyRegs_count (w := F.STORE_STATUS_wrap.bit 0) _ 1 (List.mem_cons_self ..) (by decide), rfl, rfl⟩
  · exact ⟨⟨rfl, fun _ _ => rfl⟩, rfl, rfl⟩

theorem flashAll (s : State) (l : List FlashOp) : FlashWork s (flashAll s l) :=
  List.foldlRecOn (motive := FlashWork s) _ _ (refl s) fun _ hy o _ => hy.trans (flashDo _ o)

end FlashWork

theorem onlyRegs_storeShow (s : State) : OnlyRegs [R.STORE_STATUS, R.STORE_CFG_GEN, R.STORE_OP] s.chip (storeShow s).chip := by
  refine onlyRegs_fsets s.chip fun e he => ?_
  simp only [List.mem_cons, List.not_mem_nil, or_false] at he
  rcases he with rfl | rfl | rfl | rfl | rfl | rfl | rfl | rfl | rfl | rfl <;> simp only [List.mem_cons] <;>
    decide

/-! Step 4 (R385). -/

/-- The chip halted. -/
def halted (x : Chip) (code : Nat) : Chip :=
  let y := haltStop (raise x srcMgmt 0x04 (b1 code))
  fset { y with pw := { y.pw with phase := .halted } } F.MGMT_FAULT_STATUS_halted 1

theorem fatalEnd_halts (h : fon s.chip F.MGMT_FAULT_CFG_on_fatal = true) (code : Nat) :
    fatalEnd s code = onChip (fun x => halted x code) s := if_pos h

theorem fatalEnd_resets (h : fon s.chip F.MGMT_FAULT_CFG_on_fatal = false) (code : Nat) : fatalEnd s code = softReset s 2 :=
  if_neg (ne_true_of_eq_false h)

theorem halted_effect (x : Chip) (code : Nat) : (halted x code).pw.phase = .halted ∧
    fget (halted x code) F.MGMT_FAULT_STATUS_halted = 1 ∧ (halted x code).cp = x.cp ∧
    ∀ f ∈ logFlags, f.Apart F.MGMT_FAULT_STATUS_halted → fget (halted x code) f = fget x f := by
  have hstop : PartStays x (haltStop (raise x srcMgmt 0x04 (b1 code))) := (PartStays.raise ..).trans (PartStays.haltStop _)
  unfold halted
  generalize haltStop (raise x srcMgmt 0x04 (b1 code)) = y at hstop ⊢
  refine ⟨rfl, fget_fset_same _ _ _ (by decide), hstop.cp, fun f hf ha => ?_⟩
  exact (fget_fset_apart _ _ _ _ (offLog_of_logFlags hf).1 ha).trans (hstop.flags f hf)

/-! Step 3 (R385, R386). -/

/-- The flag of a dump's result. -/
def dumpFlag (result : Nat) : Fld := if result = 0 then F.MGMT_FAULT_STATUS_dump_ok else F.MGMT_FAULT_STATUS_dump_fail

theorem dumpFlag_mem (result : Nat) : dumpFlag result ∈ logFlags := by
  unfold dumpFlag
  split <;> decide

theorem dumpFlag_apart (result : Nat) : (dumpFlag result).Apart F.MGMT_FAULT_STATUS_halted := by
  unfold dumpFlag Fld.Apart
  split <;> decide

/-- The chip with the dump's write gone and its flag set. -/
def dumpGone (x : Chip) (result : Nat) : Chip :=
  fset { x with
    ft := { x.ft with fatal := x.ft.fatal.map fun t => { t with dumping := false } },
    store := { x.store with jobs := x.store.jobs.filter fun j => j.code != 0 } } (dumpFlag result) 1

/-- The end of the dump noted. -/
def dumpNoted (s : State) (result len : Nat) : State :=
  storeShow (onChip (fun x => raise (dumpGone x result) srcMgmt 0x03 (b1 result ++ b4 len)) s)

theorem dumpEnd_eq (s : State) (code result len : Nat) : dumpEnd s code result len = fatalEnd (dumpNoted s result len) code := rfl

theorem dumpNoted_chipOnly (s : State) (result len : Nat) : ChipOnly s (dumpNoted s result len) := rfl

theorem fget_dumpNoted_flag (s : State) (result len : Nat) : fget (dumpNoted s result len).chip (dumpFlag result) = 1 := by
  have hoff := offLog_of_logFlags (dumpFlag_mem result)
  have haddr : (dumpFlag result).addr ∉ [R.STORE_STATUS, R.STORE_CFG_GEN, R.STORE_OP] := by
    unfold dumpFlag
    split <;> decide
  refine (fget_onlyRegs (onlyRegs_storeShow _) haddr).trans ((fget_raiseAt_offLog hoff ..).trans
    ((fget_fset_same _ _ _ hoff.1).trans ?_))
  unfold dumpFlag
  split <;> rfl

theorem nextSeq_dumpNoted (s : State) (result len : Nat) :
    nextSeq (dumpNoted s result len).chip srcMgmt = nextSeq s.chip srcMgmt + 1 :=
  (nextSeq_onlyRegs (onlyRegs_storeShow _) srcMgmt).trans (nextSeq_raise_same ..)

theorem dumpNoted_jobs (s : State) (result len : Nat) : ∀ j ∈ (dumpNoted s result len).chip.store.jobs, j.code ≠ 0 := by
  have hstore : (dumpNoted s result len).chip.store = (dumpGone s.chip result).store := by
    refine (storeShow_store _).trans ?_
    rw [onChip_chip, raise_rest]
  intro j hj
  rw [hstore] at hj
  exact bne_iff_ne.1 (List.mem_filter.1 hj).2

theorem cp_dumpNoted (s : State) (result len : Nat) : (dumpNoted s result len).chip.cp = s.chip.cp := by
  rw [dumpNoted, (onlyRegs_storeShow _).1, onChip_chip, raise_rest]
  rfl

theorem fget_dumpNoted_cfg (s : State) (result len : Nat) {f : Fld} (h : f.addr = R.MGMT_FAULT_CFG) :
    fget (dumpNoted s result len).chip f = fget s.chip f := by
  refine (fget_onlyRegs (onlyRegs_storeShow _) (by rw [h]; decide)).trans ((fget_raise _ _ _ _ _ (by rw [h]; decide)).trans ?_)
  refine fget_wr_ne _ _ _ _ ?_
  rw [h]
  unfold dumpFlag
  split <;> decide

/-- A dump that ends with the part to halt. -/
theorem dumpEnd_halts (hon : fon s.chip F.MGMT_FAULT_CFG_on_fatal = true) (hw : FlashWork s u) (code result len : Nat) :
    (dumpEnd u code result len).mem = u.mem ∧ (dumpEnd u code result len).pending = s.pending ∧
    (dumpEnd u code result len).chip.pw.phase = .halted ∧ fget (dumpEnd u code result len).chip (dumpFlag result) = 1 ∧
    fget (dumpEnd u code result len).chip F.MGMT_FAULT_STATUS_halted = 1 ∧ (dumpEnd u code result len).chip.cp = s.chip.cp := by
  have hon : fon (dumpNoted u result len).chip F.MGMT_FAULT_CFG_on_fatal = true :=
    (fon_congr ((fget_dumpNoted_cfg u result len rfl).trans (fget_onlyRegs hw.chip (by decide)))).trans hon
  have hcp : u.chip.cp = s.chip.cp := by rw [hw.chip.1]
  obtain ⟨hphase, hhalted, hq, hflags⟩ := halted_effect (dumpNoted u result len).chip code
  rw [dumpEnd_eq, fatalEnd_halts hon]
  exact ⟨rfl, hw.pending, hphase, (hflags _ (dumpFlag_mem result) (dumpFlag_apart result)).trans (fget_dumpNoted_flag ..), hhalted,
    hq.trans ((cp_dumpNoted ..).trans hcp)⟩

section
variable {n code : Nat} {j : Job} {c : CmdObs} (hj : dumpJob s.chip = some (code, j))
include hj

theorem dumpLate_ends : dumpLate n s = dumpEnd (flashAll s (j.ops.take n)) code 3 0 := by
  unfold dumpLate
  rw [hj]

variable (hv : c.viols = []) (hf : c.fails = [])
include hv hf

theorem dumpDone_completes (hew : ewOn s.chip = false) :
    dumpDone n c s = dumpEnd (flashAll s j.ops) code 0 (j.ops.map fun o => o.bytes.length).sum := by
  unfold dumpDone
  rw [hj]
  dsimp only
  rw [hew, hv, hf, flashRun_without_fails]
  rfl

theorem dumpDone_cut (hew : ewOn s.chip = true) : dumpDone n c s = dumpEnd (flashAll s (j.ops.take n)) code 1 0 := by
  unfold dumpDone
  rw [hj]
  dsimp only
  rw [hew, hv, hf, flashRun_without_fails]
  rfl

end

theorem dumpDone_none {n : Nat} {c : CmdObs} (h : dumpJob s.chip = none) : dumpDone n c s = s ∧ dumpLate n s = s := by
  unfold dumpDone dumpLate
  rw [h]
  exact ⟨rfl, rfl⟩

/-! FAULT_INJECT (R366). -/

theorem rd_begun {code b : Nat} (o : Iface) (hc : code < 256) (hb : b ∉ [R.MGMT_CMD, R.MGMT_STATUS]) (s : State) :
    rd (begun o code s).chip b = rd s.chip b := by
  unfold begun
  split
  · rfl
  · exact (mboxIssue_effect s.chip o hc).2.2.2.2 b hb

theorem faultInject_begun (o : Iface) (s : State) : faultInject (begun o 0x08 s) = refuse (begun o 0x08 s) (faultInject s).status := by
  have harg : arg (begun o 0x08 s).chip 0 = arg s.chip 0 := congrArg BitVec.toNat (rd_begun o (by decide) (by decide) s)
  have hfuse : (begun o 0x08 s).chip.fuse = s.chip.fuse := by rw [begun_eq]
  unfold faultInject
  rw [harg, hfuse]
  dsimp only
  split
  · rfl
  · split <;> rfl

/-- FAULT_INJECT answers as its arguments say, and takes the fault where that is OK. -/
theorem injectFault_served {o : Iface} {c : CmdObs} (h : MboxServes s.chip 0x08) : injectFault o c s =
    if (faultInject s).status = 0x00 then
      takeFault (finished 0x00 0 (begun o 0x08 s)) ⟨0x0A, arg s.chip 0, 0, 0, none, none, none⟩ [] c.core
    else finished (faultInject s).status 0 (begun o 0x08 s) := by
  obtain ⟨hup, hclosed, hgate, hcode⟩ := id h
  have htakes : (mgmtUp s.chip && (!mboxClosed s.chip && ((mboxGate s.chip 0x08).isNone &&
      (!fon s.chip F.MGMT_STATUS_busy || fget s.chip F.MGMT_CMD_code == 0x08)))) = true := by
    rw [hup, hclosed, hgate]
    cases hb : fon s.chip F.MGMT_STATUS_busy with
    | false => rfl
    | true => rw [hcode hb]; rfl
  unfold injectFault
  dsimp only
  rw [htakes, mailbox_of_refuse h (faultInject_begun o s), Bool.true_and]
  refine (if_congr (beq_iff_eq (b := stOk)) rfl rfl).trans ?_
  split
  next hok => rw [hok]; rfl
  next hno => exact (if_neg hno).symm

theorem faultInject_status (s : State) : (3 < arg s.chip 0 → (faultInject s).status = 0x05) ∧
    (arg s.chip 0 = 3 → s.chip.fuse.debug = true → (faultInject s).status = 0x06) ∧
    (arg s.chip 0 ≤ 3 → (arg s.chip 0 ≠ 3 ∨ s.chip.fuse.debug = false) → (faultInject s).status = 0x00) := by
  unfold faultInject
  dsimp only
  refine ⟨fun h => by rw [if_pos h]; rfl, fun h hd => by rw [if_neg (by omega), if_pos ⟨h, hd⟩]; rfl, fun h hd => ?_⟩
  rw [if_neg (by omega), if_neg]
  · rfl
  · rintro ⟨h3, hdebug⟩
    exact hd.elim (· h3) fun hf => Bool.false_ne_true (hf.symm.trans hdebug)

/-! A fatal taken (R385). -/

/-- The chip with a fatal logged, the command that ran aborted. -/
def fatalLogged (x : Chip) (f : FaultIn) : Chip := faultLogged (faultShow (cmdAbort x) (some 3)) f

/-- The state in fatal handling. -/
def fatalBegun (s : State) (f : FaultIn) : State :=
  let y := fatalLogged s.chip f
  onChip (fun _ => { y with ft := { y.ft with fatal := some ⟨f.code, nextSeq s.chip srcMgmt, false⟩ } }) s

theorem lastSeq_fatalLogged (x : Chip) (f : FaultIn) : BitVec.ofNat 16 (lastSeq (fatalLogged x f) srcMgmt) = nextSeq x srcMgmt := by
  rw [fatalLogged, lastSeq_faultLogged, nextSeq_onlyRegs (onlyRegs_faultShow _ _), nextSeq_cmdAbort, BitVec.ofNat_toNat,
    BitVec.setWidth_eq]

theorem fatalTake_eq (s : State) (f : FaultIn) (core : CoreObs) : fatalTake s f core =
    if fon (fatalLogged s.chip f) F.MGMT_FAULT_CFG_dump_en = false then fatalEnd (fatalBegun s f) f.code
    else if ewOn (fatalLogged s.chip f) = true then dumpEnd (fatalBegun s f) f.code 1 0
    else if dumpRefused (fatalBegun s f) = true then dumpEnd (fatalBegun s f) f.code 2 0
    else dumpBegin (fatalBegun s f) f core := by
  unfold fatalBegun
  dsimp only
  rw [← lastSeq_fatalLogged s.chip f]
  exact if_congr (Bool.not_eq_true' _).to_iff rfl rfl

/-! The mirror of the log (R380, R414): of the memories only the flash changes. -/

/-- Of the memories only the flash differs. -/
def FlashOnly (s t : State) : Prop := t.mem = { s.mem with flash := t.mem.flash }

namespace FlashOnly

theorem refl (s : State) : FlashOnly s s := rfl

theorem trans (h1 : FlashOnly s t) (h2 : FlashOnly t u) : FlashOnly s u := by
  unfold FlashOnly at *
  rw [h2, h1]

theorem onChip (f : Chip → Chip) (s : State) : FlashOnly s (onChip f s) := rfl

theorem withFlash (s : State) (m : SMap Byte) : FlashOnly s (withFlash s m) := rfl

theorem flashDo (s : State) (o : FlashOp) : FlashOnly s (flashDo s o) := (FlashWork.flashDo s o).mem

theorem flashAll (s : State) (l : List FlashOp) : FlashOnly s (flashAll s l) := (FlashWork.flashAll s l).mem

theorem anchorWrite (s : State) : FlashOnly s (anchorWrite s) := (flashAll s _).trans (onChip _ _)

theorem sectorFail {s t : State} {region off : Nat} (h : sectorFail s region off = some t) : FlashOnly s t := by
  unfold Machine.sectorFail at h
  split at h
  next => exact nomatch h
  next n fromLog _ =>
    have hshrunk : FlashOnly s (if fromLog then Machine.onChip logShrink s else s) := by split <;> rfl
    obtain rfl := Option.some.inj h
    exact (hshrunk.trans ((withFlash _ _).trans (onChip _ _))).trans ((anchorWrite _).trans (onChip _ _))

theorem flashRun (fails : List Nat) (l : List FlashOp) : ∀ i s, FlashOnly s (flashRun fails i s l).1 := by
  induction l with
  | nil => exact fun _ => refl
  | cons o l ih =>
    intro i s
    unfold Machine.flashRun
    split
    · split
      next t ht => exact ((onChip _ s).trans (sectorFail ht)).trans ((flashDo t o).trans (ih _ _))
      next => exact onChip _ s
    · exact (flashDo s o).trans (ih _ _)

theorem logDropSector (s : State) (k : Nat) : FlashOnly s (logDropSector s k) := by
  unfold Machine.logDropSector
  dsimp only
  split
  · exact (onChip logShrink s).trans (anchorWrite _)
  · exact ((onChip logShrink s).trans ((withFlash _ _).trans (onChip _ _))).trans (anchorWrite _)

theorem logAppend (fails : List Nat) (e : Entry) (k : Nat) : ∀ i s, FlashOnly s (logAppend fails e k i s).2 := by
  induction k with
  | zero => exact fun _ => refl
  | succ k ih =>
    intro i s
    have hrun : ∀ l, FlashOnly s (Machine.flashRun fails i s l).1 := fun l => flashRun fails l i s
    unfold Machine.logAppend
    split
    · exact refl s
    · dsimp only
      split
      · exact ((hrun _).trans (logDropSector _ _)).trans (ih _ _)
      · exact hrun _

theorem logAppends (fails : List Nat) (l : List Entry) : ∀ i s, FlashOnly s (logAppends fails l i s) := by
  induction l with
  | nil => exact fun _ => refl
  | cons e l ih => exact fun i s => (logAppend fails e _ i s).trans (ih _ _)

end FlashOnly

theorem logMirror_effect (c : CmdObs) (s : State) :
    rd (logMirror c s).chip R.MGMT_LOG_MIRROR = BitVec.ofNat 32 (rd s.chip R.MGMT_LOG_WR).toNat ∧ FlashOnly s (logMirror c s) :=
  ⟨rd_wr_same _ _ _, ((FlashOnly.onChip _ s).trans (FlashOnly.logAppends c.fails _ 0 _)).trans (FlashOnly.onChip _ _)⟩

/-! The commands. -/

theorem exec_faultTaken {more : List FaultIn} {core : CoreObs} (hm : mgmtUp s.chip = true) (hk : faultKnown f = true)
    (h : faultTake s f (more.filter faultKnown) core = t) : exec (.faultTaken f more core) s = .next (cpDrain t) :=
  congrArg (fun t => Host.Outcome.next (cpDrain t)) ((takeFault_taken hm hk more core).trans h)

/-- The chip after a fault that needs no recovery and meets no other. -/
theorem faultNoted_effect (x : Chip) (f : FaultIn) (hcode : f.code < 256) :
    let y := faultShow (faultLogged x f) none
    rd y (R.MGMT_FAULT_COUNT (faultCls f)) = rd x (R.MGMT_FAULT_COUNT (faultCls f)) + 1 ∧
    fget y F.MGMT_FAULT_LAST0_code = f.code ∧ fget y F.MGMT_FAULT_LAST1_cls = faultCls f ∧ fget y F.MGMT_FAULT_STATUS_active = 0 ∧
    nextSeq y srcMgmt = nextSeq x srcMgmt + 1 ∧ y.cp = x.cp ∧ (faultCls f = 1 → fget y F.MGMT_INT_CAUSE_warn = 1) := by
  obtain ⟨hlast, hcls, -⟩ := fget_faultLogged x f
  have hshow := onlyRegs_faultShow (faultLogged x f) none
  refine ⟨(hshow.2 _ ?_).trans (rd_faultLogged_count x f), (fget_onlyRegs hshow (by decide)).trans (hlast.trans (Nat.mod_eq_of_lt hcode)),
    (fget_onlyRegs hshow (by decide)).trans hcls, fget_faultShow_active _,
    (nextSeq_onlyRegs hshow _).trans (nextSeq_faultLogged x f), ?_,
    fun h => (fget_onlyRegs hshow (by decide)).trans ((faultLogged_causes x f).1 h)⟩
  · simp only [List.mem_singleton, R.MGMT_FAULT_COUNT, R.MGMT_FAULT_STATUS]
    omega
  · rw [hshow.1, ← cp_faultLogged x f]

theorem code_lt_of_faultKnown (h : faultKnown f = true) : f.code < 256 := by
  have hle := of_decide_eq_true (Bool.and_eq_true_iff.1 h).2
  omega

/-- A fault below fatal that needs no recovery, with nothing else at work. -/
theorem exec_faultTaken_plain {core : CoreObs} (hm : mgmtUp s.chip = true) (hf : s.chip.ft.fatal = none) (hq : s.chip.ft.queue = [])
    (hl : s.chip.ft.lost = 0) (hcp : s.chip.cp.queue = []) (hk : faultKnown f = true) (hc : faultCls f < 3) (hr : f.code ∉ [4, 6]) :
    cpDrain (takeFault s f [] core) = onChip (fun x => faultShow (faultLogged x f) none) s := by
  have hends : takeFault s f [] core = onChip (fun x => faultShow (faultLogged x f) none) s := by
    refine (takeFault_taken hm hk [] core).trans ((faultTake_alone hf hc hq hl core).trans (onChip_congr ?_))
    dsimp only [faultEnds, because]
    rw [faultRecover_other hr]
  rw [hends]
  obtain ⟨-, -, -, -, -, hkept, -⟩ := faultNoted_effect s.chip f (code_lt_of_faultKnown hk)
  exact cpDrain_none (by rw [onChip_chip, hkept, hcp])

/-- Settles O60: faults by how they meet, fatal handling by its steps, the dump by how its write ends. -/
theorem faultCommands : Obligations.FaultCommands := by
  refine ⟨fun f core s hm hk hf => ?_, fun f core s hm hf hq hl hcp => ?_, fun x f hcode => ?_,
    fun x f => ⟨faultQueue_room, faultQueue_full⟩, fun f t core s hm hk hf => ?_, fun f more core s h => ?_,
    fun f core s => ?_, fun s code => ⟨fun h => fatalEnd_resets h code, fun h => ?_⟩, fun s => rfl, fun o c s h => ?_,
    fun n code j c s hj hv hf => ?_, fun n code j c s hj hv hf hcp hon => ?_, fun n c s h => ?_, fun s => cpDrain_none,
    fun s code result len => ?_, fun c s => ⟨fun h => ?_, fun h => ?_⟩⟩
  case refine_1 =>
    refine ⟨fun hc hq hl => exec_faultTaken hm hk (faultTake_alone hf hc hq hl core), fun g hc hq hl hg hlt hg3 => exec_faultTaken hm hk ?_,
      fun g hc hq hl hg hle => exec_faultTaken hm hk ?_, fun hc => exec_faultTaken hm hk (faultTake_fatal hf hc core)⟩
    · rw [List.filter_cons_of_pos hg]
      exact faultTake_higher hf hc hq hl core hlt hg3
    · rw [List.filter_cons_of_pos hg]
      exact faultTake_lower hf hc hq hl core hle
  case refine_2 =>
    intro taken
    have htaken : ∀ g : FaultIn, g.code < 256 →
        taken (onChip (fun x => faultShow (faultLogged x g) none) s) g.code (faultCls g) := fun g hg => by
      obtain ⟨hcount, hlast, hcls, hactive, hseq, -, -⟩ := faultNoted_effect s.chip g hg
      exact ⟨chipOnly_onChip _ s, hcount, hlast, hcls, hactive, hseq⟩
    refine ⟨⟨_, congrArg Host.Outcome.next (exec_faultTaken_plain hm hf hq hl hcp rfl (by decide) (by decide)),
      htaken wdtFault (by decide), (faultNoted_effect s.chip wdtFault (by decide)).2.2.2.2.2.2 rfl⟩, fun hk hc hr =>
      ⟨_, congrArg Host.Outcome.next (exec_faultTaken_plain hm hf hq hl hcp hk hc hr), htaken f (code_lt_of_faultKnown hk)⟩⟩
  case refine_3 =>
    obtain ⟨hlast, hcls, hseq⟩ := fget_faultLogged x f
    obtain ⟨hwarn, hfault⟩ := faultLogged_causes x f
    exact ⟨rd_faultLogged_count x f, hlast.trans (Nat.mod_eq_of_lt hcode), hcls, hseq, nextSeq_faultLogged x f, hwarn, hfault,
      ft_faultLogged x f⟩
  case refine_4 =>
    exact ⟨fun hc => exec_faultTaken hm hk ((faultTake_during hf core).trans (if_neg (by omega))),
      fun hc => exec_faultTaken hm hk ((faultTake_during hf core).trans (if_pos hc))⟩
  case refine_5 => exact congrArg (fun t => Host.Outcome.next (cpDrain t)) (takeFault_ignored h more core)
  case refine_6 =>
    intro x1 s1
    have hbody := fatalTake_eq s f core
    refine ⟨fun hd => hbody.trans (if_pos hd), fun hd he => ?_, fun hd he hr => ?_, fun hd he hr => ?_⟩
    · exact hbody.trans ((if_neg (ne_false_of_eq_true hd)).trans (if_pos he))
    · exact hbody.trans ((if_neg (ne_false_of_eq_true hd)).trans ((if_neg (ne_true_of_eq_false he)).trans (if_pos hr)))
    · exact hbody.trans ((if_neg (ne_false_of_eq_true hd)).trans ((if_neg (ne_true_of_eq_false he)).trans
        (if_neg (ne_true_of_eq_false hr))))
  case refine_7 =>
    obtain ⟨hphase, hhalted, -, -⟩ := halted_effect s.chip code
    rw [fatalEnd_halts h]
    exact ⟨hphase, hhalted, chipOnly_onChip _ s⟩
  case refine_8 =>
    intro t a
    have hbody := injectFault_served (c := c) (o := o) h
    obtain ⟨hbad, hdenied, hok⟩ := faultInject_status s
    refine ⟨fun ha => ?_, fun ha hd => ?_, fun ha hd => ?_⟩ <;>
      refine congrArg (fun t => Host.Outcome.next (cpDrain t)) (hbody.trans ?_)
    · rw [hbad ha]
      rfl
    · rw [hdenied ha hd]
      rfl
    · exact if_pos (hok ha hd)
  case refine_9 =>
    exact ⟨fun he => congrArg (fun t => Host.Outcome.next (cpDrain t)) (dumpDone_completes hj hv hf he),
      fun he => congrArg (fun t => Host.Outcome.next (cpDrain t)) (dumpDone_cut hj hv hf he),
      congrArg (fun t => Host.Outcome.next (cpDrain t)) (dumpLate_ends hj)⟩
  case refine_10 =>
    intro ends
    have hends : ∀ l result len, ends (dumpEnd (flashAll s l) code result len) (dumpFlag result) (flashAll s l) ∧
        cpDrain (dumpEnd (flashAll s l) code result len) = dumpEnd (flashAll s l) code result len := fun l result len => by
      obtain ⟨hmem, hpending, hphase, hflag, hhalted, hq⟩ := dumpEnd_halts hon (FlashWork.flashAll s l) code result len
      exact ⟨⟨hmem, hpending, hphase, hflag, hhalted⟩, cpDrain_none (by rw [hq, hcp])⟩
    refine ⟨fun he => ⟨_, ?_, (hends j.ops 0 (j.ops.map fun o => o.bytes.length).sum).1⟩,
      fun he => ⟨_, ?_, (hends (j.ops.take n) 1 0).1⟩, _, ?_, (hends (j.ops.take n) 3 0).1⟩
    · exact congrArg Host.Outcome.next ((congrArg cpDrain (dumpDone_completes hj hv hf he)).trans (hends ..).2)
    · exact congrArg Host.Outcome.next ((congrArg cpDrain (dumpDone_cut hj hv hf he)).trans (hends ..).2)
    · exact congrArg Host.Outcome.next ((congrArg cpDrain (dumpLate_ends hj)).trans (hends ..).2)
  case refine_11 =>
    obtain ⟨hdone, hlate⟩ := dumpDone_none (n := n) (c := c) h
    exact ⟨congrArg (fun t => Host.Outcome.next (cpDrain t)) hdone, congrArg (fun t => Host.Outcome.next (cpDrain t)) hlate⟩
  case refine_12 =>
    have hflag := fget_dumpNoted_flag s result len
    refine ⟨(dumpNoted s result len).chip, dumpEnd_eq s code result len, fun h => ?_, fun h => ?_, nextSeq_dumpNoted s result len,
      dumpNoted_jobs s result len⟩
    · rwa [dumpFlag, if_pos h] at hflag
    · rwa [dumpFlag, if_neg h] at hflag
  case refine_13 => exact ⟨_, congrArg Host.Outcome.next (if_pos h), logMirror_effect c s⟩
  case refine_14 => exact congrArg Host.Outcome.next (if_neg (ne_true_of_eq_false h))

end Sys2Proof.Machine
end

section
/-! PROOF. The fuses through what a start runs: no operation but the programming of a fuse writes them (R418). The lemmas follow the
model's files; each is about one operation. -/
namespace Sys2Proof.Machine
open Sys2Proof

variable {x : Chip}

/-! Operations in general. -/

@[simp] theorem ite_fuse {p : Prop} [Decidable p] (a b : Chip) : (if p then a else b).fuse = if p then a.fuse else b.fuse :=
  apply_ite Chip.fuse p a b

theorem fuse_of_ite {p : Prop} [Decidable p] {a b : Chip} (ha : a.fuse = x.fuse) (hb : b.fuse = x.fuse) :
    (if p then a else b).fuse = x.fuse := by
  split <;> assumption

@[simp] theorem foldl_fuse {α : Type} {f : Chip → α → Chip} (h : ∀ y a, (f y a).fuse = y.fuse) (l : List α) (x : Chip) :
    (l.foldl f x).fuse = x.fuse :=
  List.foldlRecOn (motive := fun y => y.fuse = x.fuse) _ _ rfl fun y hy a _ => (h y a).trans hy

@[simp] theorem upTo_fuse {m : Nat} {f : Nat → Chip → Chip} (h : ∀ i y, (f i y).fuse = y.fuse) (x : Chip) :
    (upTo m f x).fuse = x.fuse :=
  upTo_keeps_below (P := fun y => y.fuse = x.fuse) (fun i _ y hy => (h i y).trans hy) rfl

@[simp] theorem because_fuse {f : Chip → Chip} (r : CauseRef) (h : ∀ y, (f y).fuse = y.fuse) (x : Chip) :
    (because r f x).fuse = x.fuse := h { x with lg := { x.lg with because := some r } }

@[simp] theorem after_fuse {f : Chip → Chip} (src : Nat) (h : ∀ y, (f y).fuse = y.fuse) (x : Chip) : (after src f x).fuse = x.fuse :=
  because_fuse _ h x

@[simp] theorem byLane_fuse {f : Chip → Chip} (n : Nat) (h : ∀ y, (f y).fuse = y.fuse) (x : Chip) : (byLane n f x).fuse = x.fuse := by
  unfold byLane
  split
  · exact because_fuse _ h x
  · exact h x

@[simp] theorem fsets_fuse (l : List (Fld × Nat)) (x : Chip) : (fsets x l).fuse = x.fuse := by rw [fsets_rest]

@[simp] theorem count_fuse (x : Chip) (a : Nat) (w : Fld) (n : Nat) : (count x a w n).fuse = x.fuse := by rw [count_rest]

@[simp] theorem raiseAt_fuse (x : Chip) (t : BitVec 48) (src code : Nat) (args : List Byte) (c : Option CauseRef) :
    (raiseAt x t src code args c).fuse = x.fuse := by rw [raiseAt_rest]

@[simp] theorem raise_fuse (x : Chip) (src code : Nat) (args : List Byte) : (raise x src code args).fuse = x.fuse := raiseAt_fuse ..

@[simp] theorem pushEntries_fuse (l : List Entry) (x : Chip) : (pushEntries x l).fuse = x.fuse := by rw [pushEntries_rest]

@[simp] theorem setArgs_fuse (l : List (Nat × Nat)) : ∀ x, (setArgs x l).fuse = x.fuse := by
  induction l with
  | nil => exact fun x => rfl
  | cons e l ih => exact fun x => ih _

/-! Operands. -/

@[simp] theorem setArg_fuse (x : Chip) (i v : Nat) : (setArg x i v).fuse = x.fuse := rfl

/-! Flags. -/

@[simp] theorem setCause_fuse (x : Chip) (c : IntCause) : (setCause x c).fuse = x.fuse := rfl

@[simp] theorem deliverQueues_fuse (x : Chip) : (deliverQueues x).fuse = x.fuse := by simp [deliverQueues]

/-! Mailbox. -/

@[simp] theorem mboxDone_fuse (x : Chip) (status len : Nat) : (mboxDone x status len).fuse = x.fuse := by rw [mboxDone_rest]

/-! Time. -/

@[simp] theorem epochUp_fuse (x : Chip) : (epochUp x).fuse = x.fuse := rfl

@[simp] theorem setWall_fuse (x : Chip) (origin : Nat) (target : BitVec 48) : (setWall x origin target).fuse = x.fuse := by
  simp [setWall]

@[simp] theorem secondsWrite_fuse (x : Chip) (v : Word) : (secondsWrite x v).fuse = x.fuse := by simp [secondsWrite]

@[simp] theorem alarmArm_fuse (x : Chip) : (alarmArm x).fuse = x.fuse := rfl

@[simp] theorem alarmDisarm_fuse (x : Chip) : (alarmDisarm x).fuse = x.fuse := rfl

/-! Sens. -/

@[simp] theorem feedLowAt_fuse (mv : Nat) (x : Chip) (a : Nat) : (feedLowAt mv x a).fuse = x.fuse := rfl

@[simp] theorem feedLow_fuse (x : Chip) (a : Nat) : (feedLow x a).fuse = x.fuse := rfl

/-! Cal. -/

@[simp] theorem runStart_fuse (x : Chip) (a cause : Nat) : (runStart x a cause).fuse = x.fuse := by simp [runStart]

@[simp] theorem runGone_fuse (x : Chip) (a : Nat) : (runGone x a).fuse = x.fuse := rfl

@[simp] theorem showSets_fuse (x : Chip) (a : Nat) : (showSets x a).fuse = x.fuse := rfl

@[simp] theorem calAbandon_fuse (x : Chip) (a : Nat) : (calAbandon x a).fuse = x.fuse := by
  unfold calAbandon
  dsimp only
  split <;> simp

@[simp] theorem calRunWrite_fuse (x : Chip) (a : Nat) : (calRunWrite x a).fuse = x.fuse := by simp [calRunWrite]

@[simp] theorem bucketAtStart_fuse (x : Chip) : (bucketAtStart x).fuse = x.fuse := rfl

/-! Ain. -/

@[simp] theorem planCheck_fuse (x : Chip) (a : Nat) : (planCheck x a).fuse = x.fuse := by simp [planCheck]

@[simp] theorem showTotal_fuse (x : Chip) (a : Nat) : (showTotal x a).fuse = x.fuse := rfl

@[simp] theorem setPlan_fuse (x : Chip) (a p : Nat) : (setPlan x a p).fuse = x.fuse := rfl

@[simp] theorem setSnow_fuse (x : Chip) (a n : Nat) : (setSnow x a n).fuse = x.fuse := by simp [setSnow]

@[simp] theorem taintTurn_fuse (x : Chip) (a : Nat) (on : Bool) : (taintTurn x a on).fuse = x.fuse := rfl

@[simp] theorem setAinState_fuse (x : Chip) (a st : Nat) : (setAinState x a st).fuse = x.fuse := by simp [setAinState]

@[simp] theorem feedOpen_fuse (x : Chip) (a : Nat) : (feedOpen x a).fuse = x.fuse := rfl

@[simp] theorem feedFollow_fuse (x : Chip) (a : Nat) : (feedFollow x a).fuse = x.fuse := by simp [feedFollow]

@[simp] theorem framePhase_fuse (x : Chip) (a : Nat) : (framePhase x a).fuse = x.fuse := rfl

@[simp] theorem enterSettle_fuse (x : Chip) (a : Nat) : (enterSettle x a).fuse = x.fuse := by simp [enterSettle]

@[simp] theorem enterPaused_fuse (x : Chip) (a : Nat) : (enterPaused x a).fuse = x.fuse := by simp [enterPaused]

@[simp] theorem enterOff_fuse (x : Chip) (a : Nat) : (enterOff x a).fuse = x.fuse := by simp [enterOff]

@[simp] theorem feedClose_fuse (x : Chip) (a : Nat) : (feedClose x a).fuse = x.fuse := by simp [feedClose]

@[simp] theorem ainStart_fuse (x : Chip) (a : Nat) : (ainStart x a).fuse = x.fuse := by simp [ainStart]

@[simp] theorem ainEnable_fuse (x : Chip) (a : Nat) (en : Bool) : (ainEnable x a en).fuse = x.fuse := by simp [ainEnable]

@[simp] theorem feedEnable_fuse (x : Chip) (a : Nat) (en : Bool) : (feedEnable x a en).fuse = x.fuse := by simp [feedEnable]

@[simp] theorem faultClear_fuse (x : Chip) (a : Nat) (short back : Bool) : (faultClear x a short back).fuse = x.fuse := by
  simp [faultClear]

@[simp] theorem taintWindow_fuse (x : Chip) (a : Nat) (t : Int) (ns : Nat) : (taintWindow x a t ns).fuse = x.fuse := by
  simp [taintWindow]

@[simp] theorem planRestart_fuse (x : Chip) (a : Nat) : (planRestart x a).fuse = x.fuse := rfl

@[simp] theorem planClamp_fuse (x : Chip) (a : Nat) : (planClamp x a).fuse = x.fuse := by simp [planClamp]

@[simp] theorem planManual_fuse (x : Chip) (a : Nat) : (planManual x a).fuse = x.fuse := by simp [planManual]

@[simp] theorem attWritten_fuse (x : Chip) (a : Nat) (wasAuto : Bool) : (attWritten x a wasAuto).fuse = x.fuse := by
  simp [attWritten]

@[simp] theorem gainplanWritten_fuse (x : Chip) (a : Nat) : (gainplanWritten x a).fuse = x.fuse := by simp [gainplanWritten]

/-! Lane. -/

@[simp] theorem laneCounts_fuse (x : Chip) : (laneCounts x).fuse = x.fuse := by
  rw [(LanesCounted.laneCounts x).rest]

@[simp] theorem laneTold_fuse (x : Chip) (n : Nat) : (laneTold x n).fuse = x.fuse := rfl

@[simp] theorem laneStateSet_fuse (x : Chip) (n st : Nat) : (laneStateSet x n st).fuse = x.fuse := by
  unfold laneStateSet
  split <;> simp

@[simp] theorem rampFollow_fuse (x : Chip) (n : Nat) : (rampFollow x n).fuse = x.fuse := by simp [rampFollow]

@[simp] theorem svcBlank_fuse (x : Chip) (n : Nat) : (svcBlank x n).fuse = x.fuse := rfl

@[simp] theorem svcLeave_fuse (x : Chip) (n : Nat) : (svcLeave x n).fuse = x.fuse := by simp [svcLeave]

@[simp] theorem svcDetach_fuse (lead : Nat) (x : Chip) (n : Nat) : (svcDetach lead x n).fuse = x.fuse := by simp [svcDetach]

@[simp] theorem setLaneState_fuse (x : Chip) (n st : Nat) : (setLaneState x n st).fuse = x.fuse := by simp [setLaneState]

@[simp] theorem amSide_fuse (x : Chip) (n side : Nat) : (amSide x n side).fuse = x.fuse := by simp [amSide]

@[simp] theorem amSideSet_fuse (x : Chip) (n : Nat) : (amSideSet x n).fuse = x.fuse := by simp [amSideSet]

@[simp] theorem showPlan_fuse (x : Chip) (n : Nat) : (showPlan x n).fuse = x.fuse := by
  unfold showPlan
  split <;> simp

@[simp] theorem preselMismatch_fuse (a : Nat) (x : Chip) (n : Nat) : (preselMismatch a x n).fuse = x.fuse := by
  unfold preselMismatch
  split <;> simp

@[simp] theorem preselSweep_fuse (x : Chip) (a : Nat) : (preselSweep x a).fuse = x.fuse := by simp [preselSweep]

@[simp] theorem preselSweeps_fuse (x : Chip) : (preselSweeps x).fuse = x.fuse := by simp [preselSweeps]

@[simp] theorem laneStop_fuse (x : Chip) (n : Nat) : (laneStop x n).fuse = x.fuse := by simp [laneStop]

@[simp] theorem lineRestart_fuse (x : Chip) (n : Nat) : (lineRestart x n).fuse = x.fuse := by
  unfold lineRestart
  dsimp only
  split <;> simp

@[simp] theorem laneBegin_fuse (x : Chip) (n : Nat) : (laneBegin x n).fuse = x.fuse := by
  unfold laneBegin
  dsimp only
  split <;> simp

@[simp] theorem resetLog_fuse (x : Chip) (n : Nat) : (resetLog x n).fuse = x.fuse := by simp [resetLog]

@[simp] theorem syncReset_fuse (x : Chip) (n : Nat) : (syncReset x n).fuse = x.fuse := by simp [syncReset]

@[simp] theorem divSingle_fuse (x : Chip) (n : Nat) : (divSingle x n).fuse = x.fuse := by simp [divSingle]

@[simp] theorem laneStart_fuse (x : Chip) (n : Nat) : (laneStart x n).fuse = x.fuse := by simp [laneStart]

@[simp] theorem capLeave_fuse (x : Chip) (c : LaneCfg) : (capLeave x c).fuse = x.fuse := by
  unfold capLeave
  dsimp only
  repeat' split
  all_goals simp

@[simp] theorem capJoin_fuse (x : Chip) (n : Nat) (c : LaneCfg) : (capJoin x n c).fuse = x.fuse := by
  unfold capJoin
  dsimp only
  repeat' split
  all_goals simp

@[simp] theorem capShow_fuse (x : Chip) (n : Nat) : (capShow x n).fuse = x.fuse := by simp [capShow]

@[simp] theorem badLaneWrite_fuse (x : Chip) (n addr v : Nat) : (badLaneWrite x n addr v).fuse = x.fuse := by simp [badLaneWrite]

@[simp] theorem badApply_fuse (x : Chip) (n addr v : Nat) : (badApply x n addr v).fuse = x.fuse := by simp [badApply]

@[simp] theorem dropCaptured_fuse (x : Chip) (n : Nat) : (dropCaptured x n).fuse = x.fuse := rfl

@[simp] theorem stageWrite_fuse (x : Chip) (addr : Nat) (v : Word) : (stageWrite x addr v).fuse = x.fuse :=
  fuse_of_ite (badLaneWrite_fuse ..) (fset_fuse _ (F.LANE_CTRL_staged _) 1)

@[simp] theorem discardStaged_fuse (x : Chip) (n : Nat) : (discardStaged x n).fuse = x.fuse := rfl

@[simp] theorem capture_fuse (x : Chip) (n : Nat) : (capture x n).fuse = x.fuse := by
  unfold capture
  dsimp only
  repeat' split
  all_goals simp

@[simp] theorem putCaptured_fuse (x : Chip) (n : Nat) : (putCaptured x n).fuse = x.fuse := rfl

@[simp] theorem tuneEdge_fuse (x : Chip) (n : Nat) : (tuneEdge x n).fuse = x.fuse := by simp [tuneEdge]

@[simp] theorem dropBranch_fuse (x : Chip) (n : Nat) : (dropBranch x n).fuse = x.fuse := by
  unfold dropBranch
  split <;> simp

@[simp] theorem mutesFollow_fuse (x : Chip) : (mutesFollow x).fuse = x.fuse := by simp [mutesFollow]

@[simp] theorem footStart_fuse (x : Chip) : (footStart x).fuse = x.fuse := by simp [footStart]

@[simp] theorem ainEnableWrite_fuse (x : Chip) (a : Nat) (en : Bool) : (ainEnableWrite x a en).fuse = x.fuse := by
  simp [ainEnableWrite]

@[simp] theorem forcedTaint_fuse (x : Chip) (a : Nat) : (forcedTaint x a).fuse = x.fuse := by simp [forcedTaint]

@[simp] theorem superWrite_fuse (x : Chip) (f : Fld) (v : Nat) : (superWrite x f v).fuse = x.fuse := rfl

/-! LinkMap. -/

@[simp] theorem setDir_fuse (x : Chip) (d : Nat) (l : LinkDir) : (setDir x d l).fuse = x.fuse := by simp [setDir]

@[simp] theorem mapsClear_fuse (x : Chip) : (mapsClear x).fuse = x.fuse := rfl

/-! Outs. -/

@[simp] theorem playsSettle_fuse (x : Chip) : (playsSettle x).fuse = x.fuse := rfl

/-! Am. -/

@[simp] theorem amTurn_fuse (x : Chip) (n bw side : Nat) : (amTurn x n bw side).fuse = x.fuse := by simp [amTurn]

/-! Carriage. -/

@[simp] theorem dropCount_fuse (x : Chip) (c n : Nat) : (dropCount x c n).fuse = x.fuse := by simp [dropCount]

@[simp] theorem carrBegin_fuse (x : Chip) (c : Nat) : (carrBegin x c).fuse = x.fuse := rfl

@[simp] theorem refreshState_fuse (x : Chip) (c : Nat) : (refreshState x c).fuse = x.fuse := rfl

@[simp] theorem dropStaged_fuse (x : Chip) (c : Nat) : (dropStaged x c).fuse = x.fuse := rfl

@[simp] theorem descReject_fuse (x : Chip) (c why : Nat) : (descReject x c why).fuse = x.fuse := by simp [descReject]

@[simp] theorem unstage_fuse (x : Chip) (addr : Nat) : (unstage x addr).fuse = x.fuse := by
  unfold unstage
  split <;> simp

@[simp] theorem descInstall_fuse (x : Chip) (c : Nat) (d : Word × Word) : (descInstall x c d).fuse = x.fuse := by
  simp [descInstall]

@[simp] theorem descCommit_fuse (x : Chip) (c : Nat) : (descCommit x c).fuse = x.fuse := by simp [descCommit]

@[simp] theorem carrStage_fuse (x : Chip) (addr : Nat) (v : Word) : (carrStage x addr v).fuse = x.fuse := rfl

@[simp] theorem clashClear_fuse (x : Chip) : (clashClear x).fuse = x.fuse := by simp [clashClear]

@[simp] theorem discAll_fuse (x : Chip) : (discAll x).fuse = x.fuse := by simp [discAll]

/-! Follow. -/

@[simp] theorem updCand_fuse (x : Chip) (p : Nat) (c : Cand) : (updCand x p c).fuse = x.fuse := by
  unfold updCand
  split <;> simp

@[simp] theorem setBusy_fuse (x : Chip) (n : Nat) (peer : Option Nat) : (setBusy x n peer).fuse = x.fuse := rfl

@[simp] theorem manageLane_fuse (x : Chip) (n : Nat) (mode tune : Word) (sb : Nat) : (manageLane x n mode tune sb).fuse = x.fuse := by
  simp [manageLane]

@[simp] theorem toPool_fuse (x : Chip) (n : Nat) : (toPool x n).fuse = x.fuse := by simp [toPool]

@[simp] theorem releaseCand_fuse (x : Chip) (c : Cand) : (releaseCand x c).fuse = x.fuse := by simp [releaseCand]

@[simp] theorem markRejected_fuse (x : Chip) (p : Nat) (c : Cand) (why : Nat) : (markRejected x p c why).fuse = x.fuse := by
  unfold markRejected
  split <;> simp

@[simp] theorem rejectCand_fuse (x : Chip) (p : Nat) (c : Cand) (why : Nat) : (rejectCand x p c why).fuse = x.fuse := by
  simp [rejectCand]

@[simp] theorem tandemFails_fuse (x : Chip) (n why : Nat) : (tandemFails x n why).fuse = x.fuse := by simp [tandemFails]

@[simp] theorem tandemState_fuse (x : Chip) (n : Nat) : (tandemState x n).fuse = x.fuse := by simp [tandemState]

@[simp] theorem linkCand_fuse (x : Chip) (p n : Nat) : (linkCand x p n).fuse = x.fuse := by
  unfold linkCand
  split <;> simp

@[simp] theorem followStart_fuse (x : Chip) (p : Nat) (r : Follow) : (followStart x p r).fuse = x.fuse := by simp [followStart]

@[simp] theorem followEnd_fuse (x : Chip) (p reason : Nat) : (followEnd x p reason).fuse = x.fuse := by
  unfold followEnd
  split <;> simp

@[simp] theorem releaseHeld_fuse (x : Chip) (n : Nat) : (releaseHeld x n).fuse = x.fuse := by simp [releaseHeld]

@[simp] theorem linkTandem_fuse (x : Chip) (n : Nat) : (linkTandem x n).fuse = x.fuse := by simp [linkTandem]

@[simp] theorem unlinkTandem_fuse (x : Chip) (n : Nat) : (unlinkTandem x n).fuse = x.fuse := rfl

/-! Rds. -/

@[simp] theorem setRds_fuse (x : Chip) (n : Nat) (r : Rds) : (setRds x n r).fuse = x.fuse := rfl

@[simp] theorem rdsSync_fuse (x : Chip) (n : Nat) (gained : Bool) : (rdsSync x n gained).fuse = x.fuse := by simp [rdsSync]

/-! Analogue. -/

@[simp] theorem moveState_fuse (x : Chip) (n st : Nat) : (moveState x n st).fuse = x.fuse := by simp [moveState]

/-! Demod. -/

@[simp] theorem svcMissing_fuse (x : Chip) (n eid what : Nat) : (svcMissing x n eid what).fuse = x.fuse := by simp [svcMissing]

@[simp] theorem svcThere_fuse (x : Chip) (n : Nat) : (svcThere x n).fuse = x.fuse := rfl

@[simp] theorem decodeAgain_fuse (x : Chip) (n : Nat) : (decodeAgain x n).fuse = x.fuse := by simp [decodeAgain]

@[simp] theorem toWait_fuse (x : Chip) (n : Nat) : (toWait x n).fuse = x.fuse := by simp [toWait]

@[simp] theorem unsupported_fuse (x : Chip) (n what : Nat) (f : Fld) : (unsupported x n what f).fuse = x.fuse := by
  simp [unsupported]

@[simp] theorem svcRead_fuse (lead : Nat) (x : Chip) (n : Nat) : (svcRead lead x n).fuse = x.fuse := by
  unfold svcRead
  dsimp only
  split <;> simp

@[simp] theorem svcSelect_fuse (x : Chip) (n lead : Nat) : (svcSelect x n lead).fuse = x.fuse := by
  unfold svcSelect
  split
  · exact (svcMissing_fuse ..).trans ((svcBlank_fuse ..).trans (toWait_fuse ..))
  next p _ =>
    have hthere : (fsets (svcThere x n) [(F.SVC_subch_now n, p.subch), (F.SVC_kind n, compKind p)]).fuse = x.fuse :=
      (fsets_fuse ..).trans (svcThere_fuse ..)
    exact fuse_of_ite ((unsupported_fuse ..).trans hthere)
      ((svcRead_fuse ..).trans ((decodeAgain_fuse ..).trans ((fset_fuse _ (F.SVC_unsupp n) 0).trans hthere)))

@[simp] theorem svcAttach_fuse (x : Chip) (n lead : Nat) : (svcAttach x n lead).fuse = x.fuse := by simp [svcAttach]

@[simp] theorem svcEval_fuse (x : Chip) (n : Nat) : (svcEval x n).fuse = x.fuse := by
  unfold svcEval
  dsimp only
  repeat' split
  all_goals simp

/-! Bist. -/

@[simp] theorem bistPhase_fuse (x : Chip) (phase lane dest : Nat) : (bistPhase x phase lane dest).fuse = x.fuse := rfl

@[simp] theorem bistCounts_fuse (x : Chip) : (bistCounts x).fuse = x.fuse := by simp [bistCounts]

@[simp] theorem bistPauseShow_fuse (x : Chip) : (bistPauseShow x).fuse = x.fuse := rfl

@[simp] theorem laneDomainReset_fuse (x : Chip) (n cause : Nat) : (laneDomainReset x n cause).fuse = x.fuse := by
  simp [laneDomainReset]

@[simp] theorem releaseGo_fuse (x : Chip) (n : Nat) : (releaseGo x n).fuse = x.fuse := by simp [releaseGo]

@[simp] theorem laneGo_fuse (x : Chip) (n : Nat) : (laneGo x n).fuse = x.fuse := by simp [laneGo]

@[simp] theorem vacate_fuse (x : Chip) (n std : Nat) : (vacate x n std).fuse = x.fuse :=
  (PartStays.vacate x n std).fuse

@[simp] theorem moveLinks_fuse (old new : Nat) (x : Chip) (k : Nat) : (moveLinks old new x k).fuse = x.fuse := by simp [moveLinks]

@[simp] theorem testStart_fuse (x : Chip) (n : Nat) (second : Bool) (retest : Option Nat) :
    (testStart x n second retest).fuse = x.fuse := by
  simp [testStart]

@[simp] theorem cmdEnds_fuse (x : Chip) (status : Nat) : (cmdEnds x status).fuse = x.fuse := by
  unfold cmdEnds
  split <;> simp

@[simp] theorem migFade_fuse (x : Chip) (p : Nat) (f : Option Fade) : (migFade x p f).fuse = x.fuse := by
  unfold migFade
  split <;> simp

@[simp] theorem migAbort_fuse (x : Chip) (m : Mig) (reason : Nat) : (migAbort x m reason).fuse = x.fuse :=
  (PartStays.migAbort x m reason).fuse

@[simp] theorem capacityNow_fuse (x : Chip) : (capacityNow x).fuse = x.fuse := by simp [capacityNow]

@[simp] theorem dropCands_fuse (x : Chip) (n : Nat) : (dropCands x n).fuse = x.fuse := by simp [dropCands]

@[simp] theorem testFree_fuse (x : Chip) (n : Nat) : (testFree x n).fuse = x.fuse := by simp [testFree]

@[simp] theorem unitsBusy_fuse (x : Chip) (code : Nat) (now : List Nat) : (unitsBusy x code now).fuse = x.fuse :=
  (PartStays.unitsBusy x code now).fuse

@[simp] theorem testSkip_fuse (x : Chip) (n : Nat) : (testSkip x n).fuse = x.fuse := by simp [testSkip]

@[simp] theorem cmdAbandon_fuse (x : Chip) : (cmdAbandon x).fuse = x.fuse := by
  unfold cmdAbandon
  split <;> simp

@[simp] theorem bistInterrupt_fuse (x : Chip) : (bistInterrupt x).fuse = x.fuse :=
  (PartStays.bistInterrupt x).fuse

@[simp] theorem startSpares_fuse (x : Chip) : (startSpares x).fuse = x.fuse := by simp [startSpares]

/-! Clk. -/

@[simp] theorem clkOutputs_fuse (x : Chip) : (clkOutputs x).fuse = x.fuse := rfl

@[simp] theorem clkDenied_fuse (x : Chip) (off : Nat) : (clkDenied x off).fuse = x.fuse := by simp [clkDenied]

@[simp] theorem convNom_fuse (x : Chip) : (convNom x).1.fuse = x.fuse := by
  unfold convNom
  dsimp only
  split
  · rfl
  · split <;> simp

@[simp] theorem convDepth_fuse (x : Chip) (fn : Nat) : (convDepth x fn).1.fuse = x.fuse := by
  unfold convDepth
  dsimp only
  split
  · rfl
  · split <;> simp

@[simp] theorem convMode_fuse (x : Chip) (mode f : Nat) : (convMode x mode f).fuse = x.fuse := by simp [convMode]

@[simp] theorem slalomMove_fuse (x : Chip) (old new : Nat) (c : Option Nat) : (slalomMove x old new c).fuse = x.fuse := by
  simp [slalomMove]

@[simp] theorem convKeep_fuse (x : Chip) (mode f : Nat) : (convKeep x mode f).fuse = x.fuse := by simp [convKeep]

@[simp] theorem toSpread_fuse (x : Chip) (fn : Nat) : (toSpread x fn).fuse = x.fuse := by simp [toSpread]

@[simp] theorem toSlalom_fuse (x : Chip) (fn : Nat) : (toSlalom x fn).fuse = x.fuse := by simp [toSlalom]

@[simp] theorem convEval_fuse (x : Chip) : (convEval x).fuse = x.fuse := by
  unfold convEval
  dsimp only
  split
  · split <;> simp
  · rfl

@[simp] theorem searchBegin_fuse (x : Chip) : (searchBegin x).fuse = x.fuse := by simp [searchBegin]

@[simp] theorem calBegin_fuse (x : Chip) (cause : Nat) : (calBegin x cause).fuse = x.fuse := rfl

@[simp] theorem calTrigger_fuse (x : Chip) (cause : Nat) : (calTrigger x cause).fuse = x.fuse := by simp [calTrigger]

@[simp] theorem lockNow_fuse (x : Chip) (band us how : Nat) (fresh : Bool) : (lockNow x band us how fresh).fuse = x.fuse := by
  have hraised : ∀ l args, (raise (clkOutputs (sampleRun (fsets x l) fresh)) srcClk 0x01 args).fuse = x.fuse := fun l args =>
    (raise_fuse ..).trans ((clkOutputs_fuse _).trans ((sampleRun_fuse _ fresh).trans (fsets_fuse ..)))
  unfold lockNow
  dsimp only
  split
  · exact (calBegin_fuse ..).trans (hraised _ _)
  · exact hraised _ _

@[simp] theorem searchEnd_fuse (x : Chip) (band us : Nat) (fresh : Bool) : (searchEnd x band us fresh).fuse = x.fuse := by
  simp [searchEnd]

@[simp] theorem relock_fuse (x : Chip) : (relock x).fuse = x.fuse := by simp [relock]

@[simp] theorem taintPowered_fuse (x : Chip) (ns : Nat) : (taintPowered x ns).fuse = x.fuse := by simp [taintPowered]

@[simp] theorem outEnable_fuse (x : Chip) (i : Nat) (en : Bool) : (outEnable x i en).fuse = x.fuse := by simp [outEnable]

/-! Link. -/

@[simp] theorem setRx_fuse (x : Chip) (st : Nat) : (setRx x st).fuse = x.fuse := by simp [setRx]

@[simp] theorem waitDone_fuse (x : Chip) (status : Nat) : (waitDone x status).fuse = x.fuse := by simp [waitDone]

@[simp] theorem cpAborts_fuse (x : Chip) : (cpAborts x).fuse = x.fuse := by
  unfold cpAborts
  split <;> simp

@[simp] theorem linkForget_fuse (x : Chip) (lostHead : Bool) : (linkForget x lostHead).fuse = x.fuse := by simp [linkForget]

@[simp] theorem txLoad_fuse (x : Chip) : (txLoad x).fuse = x.fuse := rfl

@[simp] theorem linkEnter_fuse (x : Chip) (old st : Nat) : (linkEnter x old st).fuse = x.fuse := by
  unfold linkEnter
  dsimp only
  split <;> simp

@[simp] theorem linkRx_fuse (x : Chip) (st : Nat) : (linkRx x st).fuse = x.fuse := by simp [linkRx]

@[simp] theorem setLinkState_fuse (x : Chip) (st : Nat) : (setLinkState x st).fuse = x.fuse := by simp [setLinkState]

@[simp] theorem linkLeaveTo_fuse (x : Chip) (ramp : Bool) (rx : Nat) : (linkLeaveTo x ramp rx).fuse = x.fuse := by
  simp [linkLeaveTo]

@[simp] theorem linkLeave_fuse (x : Chip) (ramp : Bool) : (linkLeave x ramp).fuse = x.fuse := by simp [linkLeave]

@[simp] theorem linkTrain_fuse (x : Chip) : (linkTrain x).fuse = x.fuse := by simp [linkTrain]

@[simp] theorem linkAuto_fuse (x : Chip) : (linkAuto x).fuse = x.fuse := by simp [linkAuto]

@[simp] theorem linkRestart_fuse (x : Chip) : (linkRestart x).fuse = x.fuse := by simp [linkRestart]

@[simp] theorem segDrop_fuse (x : Chip) (n : Nat) : (segDrop x n).fuse = x.fuse := by
  unfold segDrop
  dsimp only
  repeat' split
  all_goals simp

@[simp] theorem notchWritten_fuse (x : Chip) (i : Nat) : (notchWritten x i).fuse = x.fuse := by simp [notchWritten]

@[simp] theorem wspTx_fuse (x : Chip) (cmd : Nat) : (wspTx x cmd).fuse = x.fuse := by simp [wspTx]

/-! Ports. -/

@[simp] theorem portFade_fuse (x : Chip) (p ms : Nat) : (portFade x p ms).fuse = x.fuse := by simp [portFade]

@[simp] theorem fadeOut_fuse (x : Chip) (p : Nat) : (fadeOut x p).fuse = x.fuse := by simp [fadeOut]

@[simp] theorem rampIn_fuse (x : Chip) (p : Nat) : (rampIn x p).fuse = x.fuse := by simp [rampIn]

@[simp] theorem setPortState_fuse (x : Chip) (p st : Nat) : (setPortState x p st).fuse = x.fuse := by simp [setPortState]

@[simp] theorem setMuted_fuse (x : Chip) (p : Nat) (l : List Nat) : (setMuted x p l).fuse = x.fuse := rfl

@[simp] theorem portStop_fuse (x : Chip) (p st : Nat) : (portStop x p st).fuse = x.fuse := by simp [portStop]

theorem entryJudge_fuse (p i : Nat) (acc : Chip × List Nat) : (entryJudge p i acc).1.fuse = acc.1.fuse := by
  unfold entryJudge
  dsimp only
  split <;> simp

@[simp] theorem entriesJudge_fuse (p : Nat) (l : List Nat) (acc : Chip × List Nat) :
    (l.foldl (fun a i => entryJudge p i a) acc).1.fuse = acc.1.fuse :=
  List.foldlRecOn (motive := fun a => a.1.fuse = acc.1.fuse) _ _ rfl fun a ha i _ => (entryJudge_fuse p i a).trans ha

@[simp] theorem mapJudge_fuse (x : Chip) (p : Nat) : (mapJudge x p).fuse = x.fuse := by
  have hclear : ∀ y : Chip, (upTo 4 (fun i z => fset z (F.APORT_MAP_bad p i) 0) y).fuse = y.fuse := fun y =>
    upTo_fuse (f := fun i z => fset z (F.APORT_MAP_bad p i) 0) (fun _ _ => rfl) y
  simp [mapJudge, hclear]

@[simp] theorem portStart_fuse (x : Chip) (p : Nat) : (portStart x p).fuse = x.fuse := by simp [portStart]

@[simp] theorem portEval_fuse (x0 : Chip) (p : Nat) : (portEval x0 p).fuse = x0.fuse := by simp [portEval]

@[simp] theorem portsEval_fuse (x : Chip) : (portsEval x).fuse = x.fuse := by simp [portsEval]

@[simp] theorem playRefresh_fuse (x : Chip) (c : Nat) : (playRefresh x c).fuse = x.fuse := by simp [playRefresh]

@[simp] theorem aportCfg_fuse (x : Chip) (p : Nat) (v : Word) : (aportCfg x p v).fuse = x.fuse := by simp [aportCfg]

@[simp] theorem entryFade_fuse (x : Chip) (p i : Nat) (old : Word) : (entryFade x p i old).fuse = x.fuse := rfl

@[simp] theorem aportMap_fuse (x0 : Chip) (p i : Nat) (v : Word) : (aportMap x0 p i v).fuse = x0.fuse := by simp [aportMap]

@[simp] theorem contendCleared_fuse (x : Chip) (p : Nat) : (contendCleared x p).fuse = x.fuse := by simp [contendCleared]

@[simp] theorem hostShow_fuse (x : Chip) : (hostShow x).fuse = x.fuse := rfl

@[simp] theorem hpViol_fuse (x : Chip) (reason addr : Nat) : (hpViol x reason addr).fuse = x.fuse := by simp [hpViol]

@[simp] theorem ringCfg_fuse (x : Chip) (v : Word) : (ringCfg x v).fuse = x.fuse := by simp [ringCfg]

@[simp] theorem privCfg_fuse (x : Chip) (i : Nat) (v : Word) : (privCfg x i v).fuse = x.fuse := by simp [privCfg]

@[simp] theorem ringRd_fuse (x : Chip) (o : Iface) (v : Word) : (ringRd x o v).fuse = x.fuse := by simp [ringRd]

@[simp] theorem privRd_fuse (x : Chip) (o : Iface) (i : Nat) (v : Word) : (privRd x o i v).fuse = x.fuse := by simp [privRd]

/-! Twb. -/

@[simp] theorem setMsg_fuse (x : Chip) (m : Option AttnMsg) : (setMsg x m).fuse = x.fuse := rfl

@[simp] theorem attnCfg_fuse (x : Chip) (was : Bool) : (attnCfg x was).fuse = x.fuse := by simp [attnCfg]

@[simp] theorem attnShow_fuse (x : Chip) : (attnShow x).fuse = x.fuse := rfl

/-! Apply. -/

@[simp] theorem applyFollow_fuse (x : Chip) (n : Nat) (o c : LaneCfg) : (applyFollow x n o c).fuse = x.fuse := by
  simp [applyFollow]

@[simp] theorem applyTandem_fuse (x : Chip) (n : Nat) (o c : LaneCfg) : (applyTandem x n o c).fuse = x.fuse := by
  simp [applyTandem]

@[simp] theorem applyFm_fuse (x : Chip) (n : Nat) (o c : LaneCfg) : (applyFm x n o c).fuse = x.fuse := by simp [applyFm]

@[simp] theorem applyAm_fuse (x : Chip) (n : Nat) (o c : LaneCfg) : (applyAm x n o c).fuse = x.fuse := by simp [applyAm]

@[simp] theorem svcFresh_fuse (x : Chip) (n : Nat) : (svcFresh x n).fuse = x.fuse := by simp [svcFresh]

@[simp] theorem applySvc_fuse (x : Chip) (n : Nat) (o c : LaneCfg) : (applySvc x n o c).fuse = x.fuse := by simp [applySvc]

@[simp] theorem applyDrm_fuse (x : Chip) (n : Nat) (o c : LaneCfg) : (applyDrm x n o c).fuse = x.fuse := by simp [applyDrm]

@[simp] theorem applyPair_fuse (x : Chip) (n : Nat) (o c : LaneCfg) : (applyPair x n o c).fuse = x.fuse := by simp [applyPair]

@[simp] theorem applyPhase_fuse (x : Chip) (n : Nat) (c : LaneCfg) (old : Word) : (applyPhase x n c old).fuse = x.fuse := by
  simp [applyPhase]

@[simp] theorem applyScan_fuse (x : Chip) (n : Nat) (o c : LaneCfg) : (applyScan x n o c).fuse = x.fuse := by simp [applyScan]

@[simp] theorem applyOptions_fuse (x : Chip) (n : Nat) (o c : LaneCfg) (phase : Word) : (applyOptions x n o c phase).fuse = x.fuse := by
  unfold applyOptions
  split <;> simp

@[simp] theorem applyLogs_fuse (x : Chip) (n : Nat) (o c : LaneCfg) : (applyLogs x n o c).fuse = x.fuse := by simp [applyLogs]

@[simp] theorem applyRun_fuse (told : Bool) (x : Chip) (n : Nat) (o c : LaneCfg) (phase : Word) :
    (applyRun told x n o c phase).fuse = x.fuse := by
  simp [applyRun]

@[simp] theorem applyCap_fuse (x : Chip) (n : Nat) (o c : LaneCfg) : (applyCap x n o c).fuse = x.fuse := by simp [applyCap]

@[simp] theorem capChange_fuse (x : Chip) (o c : LaneCfg) : (capChange x o c).fuse = x.fuse := by simp [capChange]

@[simp] theorem applyDue_fuse (told : Bool) (x : Chip) (n : Nat) : (applyDue told x n).fuse = x.fuse := by
  unfold applyDue
  dsimp only
  split <;> simp

@[simp] theorem laneApplied_fuse (x : Chip) (n : Nat) : (laneApplied x n).fuse = x.fuse := by simp [laneApplied]

@[simp] theorem coachLane_fuse (x : Chip) (n : Nat) : (coachLane x n).fuse = x.fuse := by simp [coachLane]

@[simp] theorem coachTold_fuse (x : Chip) (c cause : Nat) : (coachTold x c cause).fuse = x.fuse := by simp [coachTold]

@[simp] theorem coachReset_fuse (x : Chip) (c cause : Nat) : (coachReset x c cause).fuse = x.fuse := by simp [coachReset]

/-! Reset. -/

@[simp] theorem laneAwait_fuse (x : Chip) (n : Nat) : (laneAwait x n).fuse = x.fuse := by simp [laneAwait]

@[simp] theorem ainAgain_fuse (x : Chip) (a : Nat) : (ainAgain x a).fuse = x.fuse := by simp [ainAgain]

@[simp] theorem carrAgain_fuse (c : Nat) (x : Chip) : (carrAgain c x).fuse = x.fuse := by simp [carrAgain]

@[simp] theorem rfStart_fuse (x : Chip) : (rfStart x).fuse = x.fuse := by simp [rfStart]

@[simp] theorem followRest_fuse (x : Chip) (e : Nat × Follow) : (followRest x e).fuse = x.fuse :=
  (PartStays.followRest x e).fuse

@[simp] theorem followsRest_fuse (x : Chip) : (followsRest x).fuse = x.fuse := by simp [followsRest]

@[simp] theorem laneDark_fuse (n : Nat) (x : Chip) : (laneDark n x).fuse = x.fuse := rfl

@[simp] theorem calDark_fuse (a : Nat) (x : Chip) : (calDark a x).fuse = x.fuse := by simp [calDark]

@[simp] theorem downD_fuse (x : Chip) (keepLink : Bool) : (downD x keepLink).fuse = x.fuse := by
  have hdark := upTo_fuse (m := 4) calDark_fuse x
  unfold downD
  generalize upTo 4 calDark x = y at hdark ⊢
  exact (hostShow_fuse _).trans ((bistCounts_fuse _).trans ((upTo_fuse laneDark_fuse _).trans hdark))

@[simp] theorem newEpoch_fuse (x : Chip) : (newEpoch x).fuse = x.fuse := by simp [newEpoch]

@[simp] theorem capsAgain_fuse (x : Chip) : (capsAgain x).fuse = x.fuse := by simp [capsAgain]

@[simp] theorem laneRestart_fuse (x : Chip) (n : Nat) : (laneRestart x n).fuse = x.fuse := by simp [laneRestart]

@[simp] theorem upD_fuse (now : Bool) (x : Chip) : (upD now x).fuse = x.fuse := by simp [upD]

@[simp] theorem dataReset_fuse (x : Chip) (cause : Nat) : (dataReset x cause).fuse = x.fuse := by simp [dataReset]

@[simp] theorem coldChip_fuse (x : Chip) (kind cause : Nat) : (coldChip x kind cause).fuse = x.fuse := rfl

/-! Access. -/

@[simp] theorem plainWrite_fuse (x : Chip) (addr : Nat) (v : Word) : (plainWrite x addr v).fuse = x.fuse := by
  unfold plainWrite
  split <;> simp

@[simp] theorem plainBut_fuse (x : Chip) (addr : Nat) (v : Word) (f : Fld) : (plainBut x addr v f).fuse = x.fuse := by
  simp [plainBut]

@[simp] theorem genWrite_fuse (x : Chip) (addr : Nat) (v : Word) : (genWrite x addr v).fuse = x.fuse := by simp [genWrite]

@[simp] theorem rtcWrite_fuse (x : Chip) (addr : Nat) (v : Word) : (rtcWrite x addr v).fuse = x.fuse := by simp [rtcWrite]

@[simp] theorem clkWrite_fuse (x : Chip) (addr : Nat) (v : Word) : (clkWrite x addr v).fuse = x.fuse := by simp [clkWrite]

@[simp] theorem ainWrite_fuse (x : Chip) (addr : Nat) (v : Word) : (ainWrite x addr v).fuse = x.fuse := by simp [ainWrite]

@[simp] theorem calSplWrite_fuse (x : Chip) (addr : Nat) (v : Word) : (calSplWrite x addr v).fuse = x.fuse := by
  simp [calSplWrite]

@[simp] theorem linkWrite_fuse (x : Chip) (addr : Nat) (v : Word) : (linkWrite x addr v).fuse = x.fuse := by simp [linkWrite]

@[simp] theorem aportWrite_fuse (x : Chip) (addr : Nat) (v : Word) : (aportWrite x addr v).fuse = x.fuse := by simp [aportWrite]

@[simp] theorem hostWrite_fuse (x : Chip) (o : Iface) (addr : Nat) (v : Word) : (hostWrite x o addr v).fuse = x.fuse := by
  simp [hostWrite]

@[simp] theorem mgmtWrite_fuse (x : Chip) (addr : Nat) (v : Word) : (mgmtWrite x addr v).fuse = x.fuse := by simp [mgmtWrite]

@[simp] theorem coachWrite_fuse (x : Chip) (addr : Nat) (v : Word) : (coachWrite x addr v).fuse = x.fuse := by simp [coachWrite]

@[simp] theorem laneWrite_fuse (x : Chip) (addr : Nat) (v : Word) : (laneWrite x addr v).fuse = x.fuse := by
  have hcapture : (if v.getLsbD 0 = true then capture x ((addr - 0x1000) / 0x40) else x).fuse = x.fuse :=
    fuse_of_ite (capture_fuse ..) rfl
  exact fuse_of_ite (fuse_of_ite ((discardStaged_fuse ..).trans hcapture) hcapture) (fuse_of_ite (stageWrite_fuse ..) rfl)

@[simp] theorem carrWrite_fuse (x : Chip) (addr : Nat) (v : Word) : (carrWrite x addr v).fuse = x.fuse := by
  have hstage := carrStage_fuse x addr v
  have hrej : ∀ (p : Prop) [Decidable p] (f : Fld),
      (if p then fset (carrStage x addr v) f 0 else carrStage x addr v).fuse = x.fuse := fun p _ f =>
    fuse_of_ite ((fset_fuse _ f 0).trans hstage) hstage
  exact fuse_of_ite (fuse_of_ite ((descCommit_fuse ..).trans (hrej _ _)) (hrej _ _)) (fuse_of_ite (hrej _ _) (plainWrite_fuse ..))

@[simp] theorem regWrite_fuse (x : Chip) (o : Iface) (addr : Nat) (v : Word) : (regWrite x o addr v).fuse = x.fuse := by
  simp [regWrite]

@[simp] theorem downWrite_fuse (x : Chip) (addr : Nat) : (downWrite x addr).fuse = x.fuse := by simp [downWrite]

/-! Flash. -/

@[simp] theorem spareShow_fuse (x : Chip) : (spareShow x).fuse = x.fuse := rfl

@[simp] theorem storeSay_fuse (x : Chip) (code : Nat) (args : List Byte) : (storeSay x code args).fuse = x.fuse := by
  simp [storeSay]

@[simp] theorem storeViol_fuse (x : Chip) (reason : Nat) : (storeViol x reason).fuse = x.fuse := by simp [storeViol]

@[simp] theorem storeViols_fuse (x : Chip) (l : List Nat) : (storeViols x l).fuse = x.fuse := by simp [storeViols]

/-! Power. -/

@[simp] theorem stateFields_fuse (x : Chip) (new : Nat) : (stateFields x new).fuse = x.fuse := rfl

@[simp] theorem stateSay_fuse (x : Chip) (old new origin : Nat) : (stateSay x old new origin).fuse = x.fuse := by simp [stateSay]

@[simp] theorem standbyDown_fuse (x : Chip) : (standbyDown x).fuse = x.fuse := by simp [standbyDown]

/-! Start. -/

@[simp] theorem mirrorRead_fuse (x : Chip) (addr : Nat) : (mirrorRead x addr).fuse = x.fuse := rfl

@[simp] theorem startLock_fuse (x : Chip) (o : StartObs) : (startLock x o).fuse = x.fuse := by simp [startLock]

@[simp] theorem seedBackoff_fuse (x : Chip) : (seedBackoff x).fuse = x.fuse := rfl

@[simp] theorem startRole_fuse (x : Chip) (o : StartObs) : (startRole x o).fuse = x.fuse := by simp [startRole]

@[simp] theorem startDevice_fuse (x : Chip) (o : StartObs) : (startDevice x o).fuse = x.fuse := by simp [startDevice]

@[simp] theorem startLogs_fuse (x : Chip) : (startLogs x).fuse = x.fuse := by
  unfold startLogs
  dsimp only
  cases x.pw.roleLocked <;> cases x.pw.rail <;> cases x.tm.alarmMissed <;> simp

@[simp] theorem startWakes_fuse (x : Chip) : (startWakes x).fuse = x.fuse := by
  unfold startWakes
  split <;> simp

@[simp] theorem planApply_fuse (x : Chip) (n : Nat) : (planApply x n).fuse = x.fuse := by simp [planApply]

@[simp] theorem linkStart_fuse (x : Chip) : (linkStart x).fuse = x.fuse := by simp [linkStart]

end Sys2Proof.Machine
end


section
/-! PROOF. A start leaves the fuses alone, and what it does where the boot store is not usable (R397 to R400). -/
namespace Sys2Proof.Machine
open Sys2Proof

variable {s t : State}

/-! The fuses through an operation on the whole state. -/

theorem chip_fuse_of_ite {p : Prop} [Decidable p] {a b : State} (ha : a.chip.fuse = s.chip.fuse) (hb : b.chip.fuse = s.chip.fuse) :
    (if p then a else b).chip.fuse = s.chip.fuse := by
  split <;> assumption

theorem foldl_chip_fuse {α : Type} {f : State → α → State} (h : ∀ k a, (f k a).chip.fuse = k.chip.fuse) (l : List α) (s : State) :
    (l.foldl f s).chip.fuse = s.chip.fuse :=
  List.foldlRecOn (motive := fun k => k.chip.fuse = s.chip.fuse) _ _ rfl fun k hk a _ => (h k a).trans hk

theorem onChip_chip_fuse {f : Chip → Chip} (h : ∀ x, (f x).fuse = x.fuse) (s : State) : (onChip f s).chip.fuse = s.chip.fuse := h s.chip

theorem withStore_chip_fuse (s : State) (f : StoreRt → StoreRt) : (withStore s f).chip.fuse = s.chip.fuse := rfl

theorem glideExit_chip_fuse (s : State) (src : Nat) : (glideExit s src).chip.fuse = s.chip.fuse := rfl

theorem enterGlide_chip_fuse (s : State) : (enterGlide s).chip.fuse = s.chip.fuse := by
  unfold enterGlide
  dsimp only
  split
  · exact glideExit_chip_fuse _ _
  · rfl

theorem flashErase_chip_fuse (s : State) (region off : Nat) : (flashErase s region off).chip.fuse = s.chip.fuse := count_fuse ..

theorem flashDo_chip_fuse (s : State) (o : FlashOp) : (flashDo s o).chip.fuse = s.chip.fuse :=
  chip_fuse_of_ite (flashErase_chip_fuse ..) rfl

theorem flashAll_chip_fuse (s : State) (l : List FlashOp) : (flashAll s l).chip.fuse = s.chip.fuse := foldl_chip_fuse flashDo_chip_fuse l s

theorem flashTorn_chip_fuse (s : State) (o : FlashOp) (torn : List Byte) : (flashTorn s o torn).chip.fuse = s.chip.fuse :=
  chip_fuse_of_ite (flashErase_chip_fuse ..) rfl

theorem storeShow_chip_fuse (s : State) : (storeShow s).chip.fuse = s.chip.fuse := fsets_fuse ..

theorem fwShow_chip_fuse (s : State) : (fwShow s).chip.fuse = s.chip.fuse := chip_fuse_of_ite rfl rfl

theorem writeReg_chip_fuse (s : State) (o : Iface) (addr : Nat) (v : Word) (collides : Bool) :
    (writeReg s o addr v collides).chip.fuse = s.chip.fuse := by
  have hcollide : (if collides then onChip (fun x => count x R.GEN_COLLIDE_COUNT F.GEN_STATUS_collide_wrap 1) s else s).chip.fuse =
      s.chip.fuse := chip_fuse_of_ite (count_fuse ..) rfl
  have hwrite := (regWrite_fuse _ o addr v).trans hcollide
  unfold writeReg
  split
  · rfl
  · exact chip_fuse_of_ite (downWrite_fuse _ addr)
      (chip_fuse_of_ite (fset_fuse _ F.MGMT_STATUS_refused 1) (chip_fuse_of_ite hcollide (chip_fuse_of_ite hwrite hwrite)))

/-! The store of a start. -/

theorem layoutLoad_chip_fuse (s : State) (mib : Nat) : (layoutLoad s mib).chip.fuse = s.chip.fuse := by
  unfold layoutLoad
  split <;> rfl

theorem anchorFirst_chip_fuse (s : State) : (anchorFirst s).chip.fuse = s.chip.fuse := chip_fuse_of_ite rfl rfl

theorem cutApply_chip_fuse (s : State) (j : Job) (c : Nat × List Byte) : (cutApply s j c).chip.fuse = s.chip.fuse := by
  unfold cutApply
  dsimp only
  split
  · exact (flashTorn_chip_fuse ..).trans (flashAll_chip_fuse ..)
  · exact flashAll_chip_fuse ..

theorem cutsApply_chip_fuse (l : List Job) : ∀ (s : State) (cs : List (Nat × List Byte)), (cutsApply s l cs).chip.fuse = s.chip.fuse := by
  induction l with
  | nil => exact fun s _ => rfl
  | cons j l ih => exact fun s cs => (ih _ _).trans (cutApply_chip_fuse ..)

theorem startStore_chip_fuse (s : State) (o : StartObs) : (startStore s o).chip.fuse = s.chip.fuse :=
  (spareShow_fuse _).trans ((anchorFirst_chip_fuse _).trans
    ((layoutLoad_chip_fuse ..).trans ((cutsApply_chip_fuse ..).trans (layoutLoad_chip_fuse ..))))

theorem bootChoice_chip_fuse (s : State) : (bootChoice s).1.chip.fuse = s.chip.fuse := by
  unfold bootChoice
  dsimp only
  split
  · rfl
  · exact foldl_chip_fuse (fun _ _ => by split <;> rfl) _ s

theorem slotBoot_chip_fuse (s : State) (k : Nat) (trial : Bool) : (slotBoot s k trial).chip.fuse = s.chip.fuse :=
  (fwShow_chip_fuse _).trans ((raise_fuse ..).trans (fsets_fuse ..))

theorem enterRecovery_chip_fuse (s : State) : (enterRecovery s).chip.fuse = s.chip.fuse := by
  simp [enterRecovery, onChip]

theorem rollForward_chip_fuse (s : State) (i : Intent) : (rollForward s i).chip.fuse = s.chip.fuse := chip_fuse_of_ite rfl rfl

theorem journalResolve_chip_fuse (s : State) : (journalResolve s).chip.fuse = s.chip.fuse := by
  unfold journalResolve
  split
  · rfl
  · exact (raise_fuse ..).trans ((fsets_fuse ..).trans (chip_fuse_of_ite (rollForward_chip_fuse s _) rfl))

/-! The records of a start. -/

theorem recReject_chip_fuse (s : State) (t reason : Nat) : (recReject s t reason).chip.fuse = s.chip.fuse := raise_fuse ..

theorem recTake_chip_fuse (c : Choice) (t : Nat) (p : List Byte) : (recTake c t p).st.chip.fuse = c.st.chip.fuse := by
  unfold recTake
  split
  · exact recReject_chip_fuse c.st t 1
  · rfl

theorem recJudge_chip_fuse (f : Nat) (other : List CfgRec) (c : Choice) (e : Nat × CfgRec) :
    (recJudge f other c e).st.chip.fuse = c.st.chip.fuse := by
  unfold recJudge
  dsimp only
  split
  · exact recTake_chip_fuse c _ _
  · split
    · exact (recTake_chip_fuse ..).trans ((storeSay_fuse ..).trans (count_fuse ..))
    · exact recReject_chip_fuse c.st _ 0

theorem configRead_chip_fuse (s : State) : (configRead s).1.chip.fuse = s.chip.fuse := by
  unfold configRead
  dsimp only
  split
  · rfl
  · exact List.foldlRecOn (motive := fun c : Choice => c.st.chip.fuse = s.chip.fuse) _ _ rfl
      fun c hc e _ => (recJudge_chip_fuse _ _ c e).trans hc

theorem applyPairs_chip_fuse (t : Nat) (s : State) (p : List Byte) : (applyPairs t s p).chip.fuse = s.chip.fuse :=
  have hwrites := fun l : List (Nat × Nat) => foldl_chip_fuse (f := fun k (e : Nat × Nat) =>
    writeReg k .mgmt e.1 (pairValue k.chip t e.1 (BitVec.ofNat 32 e.2)) false) (fun _ _ => writeReg_chip_fuse ..) l s
  chip_fuse_of_ite (recReject_chip_fuse s t 3) (chip_fuse_of_ite (hwrites _) ((recReject_chip_fuse _ t 2).trans (hwrites _)))

theorem applyCalset_chip_fuse (acc : State × List (Nat × Nat)) (p : List Byte) : (applyCalset acc p).1.chip.fuse = acc.1.chip.fuse := by
  unfold applyCalset
  dsimp only
  split
  · exact recReject_chip_fuse acc.1 _ 4
  · split
    · exact recReject_chip_fuse acc.1 _ 5
    · split <;> rfl

theorem applyLanes_chip_fuse (s : State) (recs : List (List Byte)) : (applyLanes s recs).1.chip.fuse = s.chip.fuse :=
  (foldl_fuse (fun _ _ => foldl_fuse (fun _ _ => moveLinks_fuse ..) _ _) _ _).trans
    ((foldl_fuse planApply_fuse _ _).trans
      ((foldl_chip_fuse (fun _ _ => applyPairs_chip_fuse ..) _ _).trans (foldl_fuse (fun _ _ => raise_fuse ..) _ _)))

theorem followSet_chip_fuse (s : State) : (followSet s).st.chip.fuse = s.chip.fuse := by
  unfold followSet
  dsimp only
  split
  · rfl
  · split
    · rfl
    · split
      · rfl
      · exact followStart_fuse ..

theorem applyFollowEntry_chip_fuse (m : List (Nat × Nat)) (s : State) (e : List Byte) :
    (applyFollowEntry m s e).chip.fuse = s.chip.fuse :=
  (setArgs_fuse _ _).trans ((followSet_chip_fuse _).trans (setArgs_fuse _ _))

theorem applyFollows_chip_fuse (m : List (Nat × Nat)) (s : State) (p : List Byte) : (applyFollows m s p).chip.fuse = s.chip.fuse :=
  chip_fuse_of_ite (recReject_chip_fuse s _ 3) (foldl_chip_fuse (applyFollowEntry_chip_fuse m) _ s)

theorem applyCarriages_chip_fuse (s : State) (p : List Byte) : (applyCarriages s p).chip.fuse = s.chip.fuse :=
  (foldl_fuse descCommit_fuse _ _).trans (applyPairs_chip_fuse 0x13 s p)

theorem applyEarly_chip_fuse (s : State) (recs : List (Nat × List Byte)) (mismatch : Bool) :
    (applyEarly s recs mismatch).chip.fuse = s.chip.fuse := by
  have hset : ∀ t k, (if mismatch then k else (ofType recs t).foldl (applyPairs t) k).chip.fuse = k.chip.fuse :=
    fun t k => chip_fuse_of_ite rfl (foldl_chip_fuse (applyPairs_chip_fuse t) _ k)
  have hcal : ∀ (l : List (List Byte)) (a : State × List (Nat × Nat)), (l.foldl applyCalset a).1.chip.fuse = a.1.chip.fuse := fun l a =>
    List.foldlRecOn (motive := fun b : State × List (Nat × Nat) => b.1.chip.fuse = a.1.chip.fuse) _ _ rfl
      fun b hb p _ => (applyCalset_chip_fuse b p).trans hb
  exact (hcal _ _).trans ((hset 0x10 _).trans ((hset 0x03 _).trans (chip_fuse_of_ite (hset 0x02 s) rfl)))

theorem applyLate_chip_fuse (s : State) (recs : List (Nat × List Byte)) : (applyLate s recs).chip.fuse = s.chip.fuse :=
  (foldl_chip_fuse (applyPairs_chip_fuse 0x15) _ _).trans ((foldl_chip_fuse (applyPairs_chip_fuse 0x14) _ _).trans
    ((foldl_chip_fuse applyCarriages_chip_fuse _ _).trans ((foldl_chip_fuse (applyFollows_chip_fuse _) _ _).trans
      ((bucketAtStart_fuse _).trans (applyLanes_chip_fuse ..)))))

/-! Steps 5 and 6, and the whole start. -/

theorem enterInit_chip_fuse (s : State) (init : Nat) : (enterInit s init).chip.fuse = s.chip.fuse := by
  have hports : ∀ x : Chip, (linkStart (portsEval (rfStart x))).fuse = x.fuse := fun x => by simp
  refine chip_fuse_of_ite ((standbyDown_fuse _).trans (by simp)) ?_
  exact (convEval_fuse _).trans ((bistPauseShow_fuse _).trans ((after_fuse _ hports _).trans
    ((upTo_fuse (fun _ _ => planManual_fuse ..) _).trans (by simp))))

/-- The register that tells the part ready, and what the store registers tell then. -/
theorem readyShown_fuse (s : State) : (storeShow (onChip (fun x => fset x F.GEN_STATUS_ready 1) s)).chip.fuse = s.chip.fuse :=
  have hset : (onChip (fun x => fset x F.GEN_STATUS_ready 1) s).chip.fuse = s.chip.fuse :=
    onChip_chip_fuse (fun x => fset_fuse x F.GEN_STATUS_ready 1) s
  (storeShow_chip_fuse _).trans hset

theorem spares_chip_fuse (s : State) : (onChip (fun x => startSpares (newEpoch x)) s).chip.fuse = s.chip.fuse :=
  (startSpares_fuse (newEpoch s.chip)).trans (newEpoch_fuse s.chip)

theorem startApply_chip_fuse (s : State) (recs : List (Nat × List Byte)) (mismatch : Bool) (init : Nat) :
    (startApply s recs mismatch init).chip.fuse = s.chip.fuse := by
  have hinit := (enterInit_chip_fuse _ init).trans ((applyEarly_chip_fuse _ recs mismatch).trans (spares_chip_fuse s))
  have hlate := chip_fuse_of_ite (p := mismatch = true) hinit ((applyLate_chip_fuse _ recs).trans hinit)
  have hready := (readyShown_fuse _).trans hlate
  unfold startApply
  dsimp only
  split
  · exact (enterGlide_chip_fuse _).trans hready
  · exact hready

theorem startConfigure_chip_fuse (s : State) : (startConfigure s).chip.fuse = s.chip.fuse := by
  have hread := (configRead_chip_fuse (withStore (journalResolve s) fun t => { t with cut := [] })).trans (journalResolve_chip_fuse s)
  unfold startConfigure
  dsimp only
  split
  · split
    · exact (startApply_chip_fuse ..).trans hread
    · exact (startApply_chip_fuse ..).trans ((raise_fuse ..).trans hread)
  · exact (startApply_chip_fuse ..).trans hread

/-- The part, up to the boot of its firmware: the supply is good, and the records kept for the start are logged. -/
theorem startUp_fuse (s : State) : (onChip (fun x => startWakes (startLogs (fset { x with pw := { x.pw with phase := .loading } }
    F.SUP_RAILS_good 7))) s).chip.fuse = s.chip.fuse :=
  onChip_chip_fuse (fun x => (startWakes_fuse _).trans ((startLogs_fuse _).trans (fset_fuse
    { x with pw := { x.pw with phase := .loading } } F.SUP_RAILS_good 7))) s

theorem startRun_chip_fuse (s : State) (o : StartObs) : (startRun s o).chip.fuse = s.chip.fuse := by
  have hdev := onChip_chip_fuse (f := fun x => startDevice (startRole (startLock x o) o) o) (fun x => by simp) s
  unfold startRun
  cases storeUsable o
  · exact (enterRecovery_chip_fuse _).trans ((withStore_chip_fuse ..).trans ((startUp_fuse _).trans hdev))
  · have hboot := (startUp_fuse _).trans ((bootChoice_chip_fuse _).trans ((startStore_chip_fuse _ o).trans hdev))
    simp only [if_true]
    split
    · exact (startConfigure_chip_fuse _).trans ((slotBoot_chip_fuse ..).trans hboot)
    · exact (storeShow_chip_fuse _).trans ((enterRecovery_chip_fuse _).trans ((withStore_chip_fuse ..).trans hboot))

/-! Recovery (R400). -/

theorem enterRecovery_phase (s : State) : (enterRecovery s).chip.pw.phase = .recovery := by
  unfold enterRecovery onChip
  dsimp only
  rw [clkOutputs_rest]
  dsimp only [stateSay]
  rw [raise_rest]
  dsimp only
  rw [count_rest]
  dsimp only [stateFields]
  rw [fsets_rest]
  rfl

/-- Logging and counting a change of state leaves the fields that they do not concern. -/
theorem fget_stateSay {f : Fld} (hlog : OffLog f) (h32 : f.lo + f.width ≤ 32) (hcount : f.addr ≠ R.SUP_STATE_COUNT)
    (hwrap : f.addr ≠ F.SUP_STATUS_wrap.addr) (x : Chip) (old new origin : Nat) : fget (stateSay x old new origin) f = fget x f :=
  (fget_raiseAt_offLog hlog _ _ _ _ _ _).trans (fget_count_apart x 1 h32 hcount (.inl hwrap))

/-- A field set first and not touched by the fields set after it. -/
theorem fget_fsets_head {f : Fld} (h32 : f.lo + f.width ≤ 32) {m : List (Fld × Nat)} (h : ∀ e ∈ m, f.Apart e.1) (x : Chip) (v : Nat) :
    fget (fsets x ((f, v) :: m)) f = v % 2 ^ f.width :=
  (fget_fsets_apart h32 m _ h).trans (fget_fset_same x f v h32)

theorem pstate_stateFields_standby (x : Chip) : pstate (stateFields x 2) = 2 :=
  fget_fsets_head (f := F.SUP_STATE_state) (by decide) (by simp only [List.forall_mem_cons, Fld.Apart]; decide) _ 2

theorem offLog_state : OffLog F.SUP_STATE_state := by
  simp only [OffLog, Fld.Apart]
  decide

theorem offLog_recovery : OffLog F.STORE_STATUS_recovery := by
  simp only [OffLog, Fld.Apart]
  decide

theorem enterRecovery_pstate (s : State) : pstate (enterRecovery s).chip = 2 :=
  (fget_clkOutputs _ (by decide)).trans ((fget_stateSay offLog_state (by decide) (by decide) (by decide) _ _ _ _).trans
    (pstate_stateFields_standby _))

theorem enterRecovery_shows (s : State) : fget (enterRecovery s).chip F.STORE_STATUS_recovery = 1 :=
  (fget_clkOutputs _ (by decide)).trans ((fget_stateSay offLog_recovery (by decide) (by decide) (by decide) _ _ _ _).trans
    ((fget_fsets_apart (by decide) _ _ (by simp only [List.forall_mem_cons, Fld.Apart]; decide)).trans
      (fget_fset_same _ F.STORE_STATUS_recovery 1 (by decide))))

/-- Without a usable store a start ends in recovery, and no memory is written (R393, R400). -/
theorem startRun_unusable {o : StartObs} (h : storeUsable o = false) (s : State) :
    (startRun s o).mem = s.mem ∧ (startRun s o).chip.pw.phase = .recovery ∧ pstate (startRun s o).chip = 2 ∧
      fget (startRun s o).chip F.STORE_STATUS_recovery = 1 := by
  unfold startRun
  rw [h]
  exact ⟨rfl, enterRecovery_phase _, enterRecovery_pstate _, enterRecovery_shows _⟩

/-! START. -/

theorem mirrorRead_pw (x : Chip) (addr : Nat) : (mirrorRead x addr).pw = x.pw := by
  unfold mirrorRead
  dsimp only
  rw [fsets_rest]

theorem mirrorRead_lg (x : Chip) (addr : Nat) : (mirrorRead x addr).lg = x.lg := by
  unfold mirrorRead
  dsimp only
  rw [fsets_rest]

theorem fget_mirrorRead_ok (x : Chip) (addr : Nat) : fget (mirrorRead x addr) F.FUSE_STATUS_mirror_ok = 1 :=
  fget_fsets_head (f := F.FUSE_STATUS_mirror_ok) (by decide) (by simp only [List.forall_mem_cons, Fld.Apart]; decide) _ 1

theorem startHeld_straps {x : Chip} {o : StartObs} (h : o.straps % 4 = 0) :
    startHeld x o = some { mirrorRead x o.addr with pw := { x.pw with phase := .strapHeld, strapInvalid := true } } := by
  rw [← mirrorRead_pw x o.addr]
  exact if_pos h

theorem startHeld_role {x : Chip} {o : StartObs} (h : o.straps % 4 ≠ 0) (hlock : x.fuse.roleLock ≠ 0)
    (hrole : x.fuse.roleLock ≠ o.straps % 4) :
    startHeld x o = some { mirrorRead x o.addr with pw := { x.pw with phase := .roleHeld, roleLocked := some (o.straps % 4) } } := by
  rw [← mirrorRead_pw x o.addr]
  exact (if_neg h).trans (if_pos ⟨hlock, hrole⟩)

theorem startHeld_none {x : Chip} {o : StartObs} (h : o.straps % 4 ≠ 0)
    (hrole : x.fuse.roleLock = 0 ∨ x.fuse.roleLock = o.straps % 4) : startHeld x o = none :=
  (if_neg h).trans (if_neg fun hn => hrole.elim hn.1 hn.2)

theorem fget_pw (x : Chip) (p : Power) (f : Fld) : fget { x with pw := p } f = fget x f := rfl

/-- A start that holds the part changes, but for what the power remembers, only what the mirror read shows. -/
theorem exec_start_held {o : StartObs} {p : Power} (hs : s.chip.pw.phase = .starting)
    (hx : startHeld s.chip o = some { mirrorRead s.chip o.addr with pw := p }) :
    ∃ t, exec (.start o) s = .next t ∧ ChipOnly s t ∧ t.chip.pw = p ∧ t.chip.lg = s.chip.lg ∧
      fget t.chip F.FUSE_STATUS_mirror_ok = 1 := by
  refine ⟨{ s with chip := { mirrorRead s.chip o.addr with pw := p } }, ?_, rfl, rfl, mirrorRead_lg s.chip o.addr, ?_⟩
  · show execStart o s = _
    unfold execStart
    rw [if_pos hs, hx]
  · exact (fget_pw (mirrorRead s.chip o.addr) p _).trans (fget_mirrorRead_ok ..)

theorem exec_start_runs {o : StartObs} (hs : s.chip.pw.phase = .starting) (hx : startHeld s.chip o = none) :
    exec (.start o) s = .next (startRun s o) := by
  show execStart o s = _
  unfold execStart
  rw [if_pos hs, hx]

/-- Settles O28: straps and role lock hold the part by what the start reads of them alone; else it runs, with the fuses as
they are, and ends in recovery where the store cannot be used. -/
theorem startCommand : Obligations.StartCommand := by
  unfold Obligations.StartCommand
  refine ⟨fun o s hs h0 => exec_start_held hs (startHeld_straps h0),
    fun o s hs h0 hlock hrole => exec_start_held hs (startHeld_role h0 hlock hrole),
    fun o s hs h0 hrole => exec_start_runs hs (startHeld_none h0 hrole), fun o s hs h0 hrole => ?_, fun o s hu => ?_,
    fun o s hs => congrArg Host.Outcome.next (if_neg hs)⟩
  · have hrun := exec_start_runs hs (startHeld_none h0 hrole)
    exact ⟨⟨_, hrun, (keeps_startRun s o).2, startRun_chip_fuse s o⟩, fun hu => ⟨_, hrun, startRun_unusable hu s⟩⟩
  · obtain ⟨hmem, hphase, -, -⟩ := startRun_unusable hu s
    exact ⟨hphase, hmem, (keeps_startRun s o).2⟩

end Sys2Proof.Machine
end
